-- ==== Sys2Proof/Word.lean ====
section
/-! DEFINITION. The words the model computes with, and the operand types of the commands: who makes an access,
what a register write carries, and what the outside world answers while a command runs. -/

namespace Sys2Proof

/-- A byte of memory or of a record (R2, R3). -/
abbrev Byte := BitVec 8

/-- The value of a register, 32-bit registers in the low half (R5). -/
abbrev Word := BitVec 64

/-- A 32-bit word: an anchor (R95), a mailbox word (R411), half of a split access (R11). -/
abbrev Word32 := BitVec 32

/-- A sparse table: keys strictly rising, and no entry equal to the table's default value. -/
abbrev SMap (α : Type) := List (Nat × α)

/-- A requester of register space (R11, R39): a host function, a control core or Siolo. -/
inductive Requester where
  | host (h : Nat)
  | core (c : Nat)
  | siolo
  deriving DecidableEq, Repr

/-- What carries an MCTP message (R443): the I3C bus, or vendor-defined messages on a host's link. -/
inductive Via where
  | i3c
  | vdm (h : Nat)
  deriving DecidableEq, Repr

/-- How a message of R414 reaches its server: a mailbox, MCTP with a message of words (R462), or in recovery the I3C bus
with a message of words (R468). -/
inductive Chan where
  | mbx (m : Nat)
  | mctp (via : Via) (msg : List Word32)
  | i3c (msg : List Word32)
  deriving DecidableEq, Repr

/-- What a PLDM message asks Siolo for (R443): a base or another platform-monitoring request, the reading of a numeric
sensor, or the acknowledgement of an alarm-file entry. -/
inductive PldmReq where
  | base
  | reading (sensor : Nat)
  | ack (entry : Nat)
  deriving DecidableEq, Repr

/-- A step of a PLDM firmware update (R467): the request to update a component, bytes of its image in order, the end of the
transfer, or its cancellation. -/
inductive PldmStep where
  | request (component : Nat)
  | data (bytes : List Byte)
  | complete
  | cancel
  deriving DecidableEq, Repr

/-- What a register write carries (R11): one 64-bit access at the register's offset, or one 32-bit access, which
is the whole of a 32-bit register and the high half of a 64-bit one. -/
inductive WData where
  | w64 (v : Word)
  | w32 (v : Word32)
  deriving DecidableEq, Repr

/-- A host access to its MSI-X structures in BAR2 (R393): a read of 32 or 64 bits, or a write. -/
inductive Bar2Acc where
  | read (wide : Bool)
  | write (d : WData)
  deriving DecidableEq, Repr

/-- A host configuration request (R390, R405): a read of the vendor and device identifiers, a read of the class code, a write of
MSI-X Enable, or any other. -/
inductive CfgReq where
  | vendorDevice
  | classCode
  | msixEnable (b : Bool)
  | other
  deriving DecidableEq, Repr

/-- How an access to one 32-byte line fails, or that it was corrected (R275, R276, R278). -/
inductive MemFault where
  | corrected
  | uncorrectable
  | timeout
  deriving DecidableEq, Repr

/-- What the memories do to the accesses of one command: the lines, by address, that are corrected, uncorrectable
or late. Every other line answers. -/
structure Env where
  faults : List (Nat × MemFault) := []
  deriving DecidableEq, Repr

end Sys2Proof
end

