-- ==== Sys2Proof/Syntax.lean ====
section
/-! DEFINITION. The commands: one constructor for each row of the command table, with what the command carries. -/

namespace Sys2Proof

/-- A command that the outside, or the time, gives the device. -/
inductive Instr where
/-- REGISTER_WRITE: A software write to a register that has no row of its own updates RW, W1C and W1S fields under the
  access types (R7) -/
  | registerWrite (who : Requester) (off : Nat) (d : WData) (env : Env)
/-- SPLIT_LOW_WRITE: A 32-bit write to the low half of a 64-bit register is held pending for its requester until the
  high half is written (R11) -/
  | splitLowWrite (who : Requester) (off : Nat) (v : Word32)
/-- SPLIT_LOW_READ: A 32-bit read of the low half of a 64-bit register latches the high half for the same requester's
  next high-half read (R11) -/
  | splitLowRead (who : Requester) (off : Nat)
/-- UNMAPPED_ACCESS: An access that is unmapped, ill-formed under R11, or to a host that does not exist returns zero
  or is ignored, increments UNMAPPED_CNT and posts EV_REG_UNMAPPED (R12) -/
  | unmappedAccess (who : Requester) (off : Nat) (size : Nat) (write : Bool)
/-- QUIESCE: Writing RTE_CTRL.QUIESCE stops new records, drops prefetched windows and holds the update engine at its
  next shard boundary (R65) -/
  | quiesce (who : Requester) (env : Env)
/-- QUIESCED: When the last begun record, transfer, shard and reduction ends, RTE_STATUS.QUIESCED becomes 1 (R64) -/
  | quiesced
/-- LOAD: Writing RTE_CTRL.LOAD starts a run-time route-image load, beginning with the header read and signature check
  (R67) -/
  | loadImage (who : Requester) (env : Env)
/-- HEADER_READ_DONE: When the image header has been read, the loader runs checks 0 to 5 and starts the body fetch or
  records the failure (R70) -/
  | headerReadDone (bad : Option Nat) (env : Env)
/-- BODY_FETCH_DONE: When the body has been fetched into staging, the loader compares its SHA-256 with DIGEST (step 6)
  (R70) -/
  | bodyFetchDone (bad : Option Nat) (env : Env)
/-- FIELD_CHECKS_DONE: When the rollback, directory, reserved-field and field checks have run, the loader either
  starts the apply step or records the failure (R70) -/
  | fieldChecksDone
/-- RTE_APPLY_HOLD_END: When the first 100 µs of the apply step end, stacked-memory requests held at the controllers'
  intake are served under the new interleave map (R71) -/
  | rteApplyHoldEnd (env : Env)
/-- RTE_APPLY_DONE: When the apply step ends, the new image is in force, LOADED is set, measurement register 2 is
  extended and EV_RTE_LOADED is posted (R72) -/
  | rteApplyDone
/-- RESUME: Writing RTE_CTRL.RESUME clears QUIESCE and releases fetch; it is rejected while LOADED reads 0 or an APPLY
  is busy (R68) -/
  | resume (who : Requester) (env : Env)
/-- ON: Writing CQ_SQ_CTRL.ON in state OFF resets the heads, tails and phases and makes the queue IDLE (R83) -/
  | queueOn (who : Requester) (q : Nat)
/-- OFF: Writing CQ_SQ_CTRL.OFF in state IDLE or STOPPED switches the queue off (R83) -/
  | queueOff (who : Requester) (q : Nat)
/-- CANCEL: Writing CQ_SQ_CTRL.CANCEL discards the records not yet begun, returns their billets, writes a CANCELLED
  completion and leaves the queue STOPPED (R114) -/
  | cancel (who : Requester) (q : Nat) (env : Env)
/-- DOORBELL: A write to CQ_DOORBELL moves the tail, registers a seal echo and restarts a stopped queue, or refuses
  the doorbell (R103) -/
  | doorbell (who : Requester) (q : Nat) (d : WData)
/-- RECORD_FETCH: When the read of the slot at HEAD returns, the fetcher checks its seal and echo and either passes
  the record to the stream or schedules a re-read (R105) -/
  | recordFetch (q : Nat) (env : Env)
/-- SEAL_REREAD: When 256 ns pass after a seal mismatch, the fetcher reads the slot again (R105) -/
  | sealReread (q : Nat) (env : Env)
/-- NOP: The NOP record does nothing and ends with OK (R89) -/
  | nop (q : Nat) (env : Env)
/-- BELAY: A BELAY record ends the pitch, and nothing after it begins until every earlier record of its queue has
  ended (R91) -/
  | belay (q : Nat) (env : Env)
/-- BELAY_END: Once every earlier record of the queue has ended and its writes are visible, the belay ends with OK and
  the next pitch may begin (R91) -/
  | belayEnd (q : Nat)
/-- SIGNAL: A SIGNAL record is issued and waits until every earlier record of its queue has ended (R97) -/
  | signal (q : Nat) (env : Env)
/-- SIGNAL_TAKES_EFFECT: Once the earlier records have ended, the SIGNAL is sent to its anchor's router, or to a peer
  as a SIGNAL frame (R97) -/
  | signalTakesEffect (q : Nat)
/-- ANCHOR_OP: The router that holds an anchor applies an arriving ADD or SET to it in arrival order (R95) -/
  | anchorOp (a : Nat)
/-- ANCHOR_SET: A write to CQ_ANCHOR applies a SET to the anchor (R95) -/
  | anchorSet (who : Requester) (a : Nat) (v : Word32)
/-- ANCHOR_ADD: A write to CQ_ANCHOR_ADD applies an ADD to the anchor (R95) -/
  | anchorAdd (who : Requester) (a : Nat) (v : Word32)
/-- WAIT: A WAIT record holds its queue until its anchor reaches VALUE under serial comparison (R96) -/
  | wait (q : Nat) (env : Env)
/-- WAIT_SATISFIED: When the anchor reaches VALUE, the WAIT ends and later records of the queue may begin (R96) -/
  | waitSatisfied (q : Nat)
/-- WAIT_TIMEOUT: When TIMEOUT µs pass without the WAIT being satisfied, it ends with WAIT_TIMEOUT (R96) -/
  | waitTimeout (q : Nat)
/-- PUT: A PUT record writes its inline data to DST (R101) -/
  | put (q : Nat) (env : Env)
/-- STEP: A STEP record sets the step number carried by the core's cairn-log records and by SIO_STEP (R89) -/
  | step (q : Nat) (env : Env)
/-- RECORD_END: When a record ends, the device writes its completion if one is due, raises MSI-X if required and posts
  EV_TRACE if tracing is enabled (R106) -/
  | recordEnd (q : Nat) (slot : Nat) (env : Env)
/-- CQ_HEAD_WRITE: A write to CQ_CQ_HEAD frees completion entries and lets a held completion be written (R107) -/
  | cqHeadWrite (who : Requester) (q : Nat) (v : Word32) (env : Env)
/-- FLUSH_READ: A read of CQ_FLUSH returns COUNT once every earlier device write is visible on the CXL.io path (R112)
  -/
  | flushRead (who : Requester) (q : Nat)
/-- FLUSH_LINE_READ: A CXL.mem read of the enabled flush line is answered by the host port with COUNT once earlier
  device writes are visible (R113) -/
  | flushLineRead (h : Nat) (hpa : Nat) (env : Env)
/-- MLOAD: An MLOAD record loads a stationary set from core-local memory into the shadow bank (R130) -/
  | mload (q : Nat) (env : Env)
/-- MLOADI: An MLOADI record loads a small stationary set from its inline data into the shadow bank (R132) -/
  | mloadi (q : Nat) (env : Env)
/-- MMA: An MMA record streams M rows through the active set into accumulator tiles (R131) -/
  | mma (q : Nat) (env : Env)
/-- LOAD_COMPLETE: When a stationary load's last data reach the cells, its bank becomes valid and waiting MMAs may
  issue (R127) -/
  | loadComplete (n : Nat) (half : Nat)
/-- MMA_FIRST_ROW_ENTRY: When an MMA's first row enters the array, a SWAP takes effect and the NO_STATIONARY,
  TYPE_MISMATCH and tile-tag checks are made (R134) -/
  | mmaFirstRowEntry (n : Nat) (half : Nat) (loadWait : Nat) (tileWait : Nat) (env : Env)
/-- TZERO: A TZERO record clears tiles and sets their tags to ZERO (R164) -/
  | tzero (q : Nat) (env : Env)
/-- TLOAD: A TLOAD record loads rows from core-local memory into tiles, or adds them (R165) -/
  | tload (q : Nat) (env : Env)
/-- TCOMBINE: A TCOMBINE record forms the element-wise sum or difference of whole tiles (R166) -/
  | tcombine (q : Nat) (env : Env)
/-- TSTORE: A TSTORE record runs the epilogue and writes tile rows to core-local memory (R168) -/
  | tstore (q : Nat) (env : Env)
/-- TREDUCE: A TREDUCE record reduces the rows or columns of tiles and writes the results (R173) -/
  | treduce (q : Nat) (env : Env)
/-- INTERLOCK_RELEASE: When the earlier record on overlapping tiles ends, the waiting record proceeds and its tile
  tags are checked (R155) -/
  | interlockRelease (n : Nat) (env : Env)
/-- VSET: A VSET record writes the parameter registers by broadcast, from memory or from inline data (R191) -/
  | vset (q : Nat) (env : Env)
/-- VOP: A VOP record applies one native operation element-wise to its streams (R192) -/
  | vop (q : Nat) (env : Env)
/-- VREDUCE: A VREDUCE record reduces segments of a stream (R204) -/
  | vreduce (q : Nat) (env : Env)
/-- EMLOAD: An EMLOAD record checks an ember program and loads it into a slot (R201) -/
  | emload (q : Nat) (env : Env)
/-- EMRUN: An EMRUN record applies the ember program in a slot to its streams (R203) -/
  | emrun (q : Nat) (env : Env)
/-- SLOT_HOLD_END: When the earlier TSTORE that names the slot ends, the waiting EMLOAD begins and SLOT_HOLD clears
  (R202) -/
  | slotHoldEnd (n : Nat) (env : Env)
/-- ACTX: An ACTX record sets the core's attention context (R214) -/
  | actx (q : Nat) (env : Env)
/-- ASOFT: An ASOFT record runs one online-softmax step over a score block (R220) -/
  | asoft (q : Nat) (env : Env)
/-- AFOLD: An AFOLD record rescales and adds a partial output, and finishes rows when FINAL is set (R221) -/
  | afold (q : Nat) (env : Env)
/-- ADELTA: An ADELTA record forms the row dot products of the output and the output gradient (R222) -/
  | adelta (q : Nat) (env : Env)
/-- ABACK: An ABACK record recomputes probabilities and forms score gradients (R223) -/
  | aback (q : Nat) (env : Env)
/-- KVMAP: A KVMAP record gathers the K or V rows of a token range through the walker (R233) -/
  | kvmap (q : Nat) (env : Env)
/-- KVPUT: A KVPUT record appends the K and V rows of new tokens, allocating pages as needed (R234) -/
  | kvput (q : Nat) (env : Env)
/-- KVMASS: A KVMASS record adds attention mass to page scores through the keeper port (R236) -/
  | kvmass (q : Nat) (env : Env)
/-- KVTRIM: A KVTRIM record asks the keeper for an eviction of COUNT frames and ends when that eviction ends (R240) -/
  | kvtrim (q : Nat) (env : Env)
/-- RANK: A RANK record sorts, selects, samples, counts or routes keys on the Ranker (R244) -/
  | rank (q : Nat) (env : Env)
/-- LOOKUP: A control core serves a walker's LOOKUP miss by reading the page-table entry and returning a page
  descriptor (R231) -/
  | lookup (cc : Nat) (env : Env)
/-- ALLOCATE: A control core serves an ALLOCATE miss by taking a frame through the keeper port, setting pins and
  writing the entry (R231) -/
  | allocate (cc : Nat) (env : Env)
/-- DESCRIPTOR_ARRIVAL: An arriving page descriptor is entered in the walker's buffer and the record continues, or the
  record ends on its state (R231) -/
  | descriptorArrival (n : Nat) (env : Env)
/-- KV_WALK_TIMEOUT: When no descriptor arrives within MISS_TIMEOUT, the record ends with KV_WALK_TIMEOUT (R231) -/
  | kvWalkTimeout (n : Nat) (k : Nat) (env : Env)
/-- MISS_RESEND: A walker whose miss found the control core's queue full sends the miss again every 1 µs (R409) -/
  | missResend (n : Nat)
/-- KEEPER_UPDATE: The keeper port applies a score update to a frame record, or drops it if the frame is no longer
  that page (R236) -/
  | keeperUpdate (r : Nat) (env : Env)
/-- EVICTION_START: When the keeper's Ranker is free and the device is not quiesced, a pending eviction begins (R238)
  -/
  | evictionStart (r : Nat) (env : Env)
/-- EVICTION_DONE: When an eviction's frames have been freed, LAST_EVICT is written and PIN_FULL is set if too few
  frames were freed (R239) -/
  | evictionDone (r : Nat) (env : Env)
/-- INIT: Writing ATT_KV_CTRL.INIT checks the pool configuration and begins clearing the frame table (R229) -/
  | kvInit (who : Requester) (r : Nat)
/-- INIT_DONE: When the frame table has been cleared and the free list built, READY is set (R229) -/
  | initDone (r : Nat) (env : Env)
/-- DISABLE: Writing ATT_KV_CTRL.DISABLE requests that READY be cleared (R229) -/
  | kvDisable (who : Requester) (r : Nat)
/-- DISABLE_DONE: Once no walker of the rope has a KV record in flight, READY is cleared (R229) -/
  | disableDone (r : Nat)
/-- LAB_INV: A write to ATT_LAB_INV drops the named entries from every walker of the rope and sets INV_BUSY (R235) -/
  | labInv (who : Requester) (r : Nat) (d : WData)
/-- INV_DONE: When every walker has dropped the named entries, INV_BUSY clears (R235) -/
  | invDone (r : Nat)
/-- SEAL: A SEAL write to MEM_SEAL_OP sets BUSY and waits for earlier stacked-memory writes to be performed (R266) -/
  | sealPages (who : Requester) (first : BitVec 20) (count : BitVec 20)
/-- SEAL_DONE: Once earlier writes are performed, the pages become SEALED in one cycle and BUSY clears (R266) -/
  | sealDone
/-- UNSEAL: An UNSEAL write sets the pages DRAINING and counts the windows that still hold them (R267) -/
  | unsealPages (who : Requester) (first : BitVec 20) (count : BitVec 20)
/-- UNSEAL_DONE: When HELD reaches 0, the draining pages or slot become OPEN or free and BUSY clears (R267) -/
  | unsealDone
/-- SPILL_SEAL: A SEAL with SPILL set fills and seals a spill seal slot of a host (R269) -/
  | spillSeal (who : Requester) (host : BitVec 3) (slot : BitVec 4) (first : BitVec 20) (count : BitVec 20)
/-- SPILL_UNSEAL: An UNSEAL with SPILL set drains a whole spill seal slot and then frees it (R269) -/
  | spillUnseal (who : Requester) (host : BitVec 3) (slot : BitVec 4)
/-- MEM_TIMEOUT: A stacked-memory request not completed 20 µs after acceptance ends with MEM_TIMEOUT and is logged
  (R278) -/
  | memTimeout (source : Nat) (id : Nat) (a : Nat) (write : Bool)
/-- LATE_ANSWER: An answer that arrives after its request has timed out is discarded and counted in MEM_STK_LATE
  (R279) -/
  | lateAnswer (c : Nat)
/-- CE_INTERVAL_END: At the end of each one-second interval, a stack above CE_LIMIT sets CE_STORM and posts
  EV_MEM_CE_STORM (R275) -/
  | ceIntervalEnd
/-- PATROL_SCRUB: The patrol scrub reads a burst, writes back corrected data, or poisons and logs an uncorrectable
  burst (R281) -/
  | patrolScrub (a : Nat) (f : Option MemFault)
/-- REF_MODE_APPLY: At the next refresh interval boundary, a new MEM_CFG.REF_MODE takes effect on every stack (R261)
  -/
  | refModeApply
/-- BW_INTERVAL_END: At the end of each 10 ms interval, MEM_STK_BW takes the bytes read in that interval (R263) -/
  | bwIntervalEnd
/-- ECS_READ: Every 1 s, the stacks' error-check-and-scrub counts are read and added to MEM_STK_CE (R260) -/
  | ecsRead (found : List (Nat × Nat × Nat))
/-- HCTX: An HCTX record opens a stream context on a pool, or closes it (R287) -/
  | hctx (q : Nat) (env : Env)
/-- HCOPY: An HCOPY record performs a transfer by descriptor once it is issued (R288) -/
  | hcopy (q : Nat) (env : Env)
/-- WFILL: A WFILL record fills a window of its context's pool from sealed data (R298) -/
  | wfill (q : Nat) (env : Env)
/-- PREFETCH: When its conditions hold, the haul engine starts a WFILL's work before the record is issued (R301) -/
  | prefetch (q : Nat) (slot : Nat) (env : Env)
/-- WREL: A WREL record is issued and waits until every earlier record of its queue has ended (R300) -/
  | wrel (q : Nat) (env : Env)
/-- WREL_RELEASE: Once the earlier records have ended, WREL releases the oldest windows and returns their credits
  (R300) -/
  | wrelRelease (q : Nat) (env : Env)
/-- PORTER: A PORTER record moves fewer than 4 KiB without a descriptor (R307) -/
  | porter (q : Nat) (env : Env)
/-- STALL_WATCH: When a pool's stall timer reaches 50 µs, the device lends the reserve or reports STUCK (R304) -/
  | stallWatch (k : Nat) (env : Env)
/-- UNORM: An UNORM record reduces the global norm and sets the step's verdict and clip factor (R325) -/
  | unorm (q : Nat) (env : Env)
/-- USWEEP: A USWEEP record checks the verdict and cursor record, replays or tears as needed, and starts the sweep of
  its shards (R331) -/
  | usweep (q : Nat) (env : Env)
/-- SHARD_BEGIN: The sweep begins a shard: it reads the entry, and then passes it over, ends the record or starts its
  chunks (R332) -/
  | shardBegin (env : Env)
/-- CHUNK_COMMIT: Once a chunk's redo data are visible and the previous header is committed, its header is written
  COMMITTED and its home writes begin (R340) -/
  | chunkCommit (env : Env)
/-- SHARD_END: When a shard's home writes are visible, the sweep writes its record entry, STEP_DONE and the cursor
  record, then holds, continues or runs digests (R333) -/
  | shardEnd (env : Env)
/-- URULE: A URULE record loads an ember optimiser rule into a rule slot (R329) -/
  | urule (q : Nat) (env : Env)
/-- USNAP: A USNAP record copies sealed data to a device address or to a peer (R342) -/
  | usnap (q : Nat) (env : Env)
/-- PORT_UP: An Aedlink port whose four lanes have trained and that has received a good control block becomes Up
  (R353) -/
  | portUp (p : Nat)
/-- PORT_DOWN: A lane that loses lock takes its port down, and the port retrains by itself (R353) -/
  | portDown (p : Nat) (lane : Nat)
/-- RETRAIN: Writing LNK_PORT_CTRL.RETRAIN takes the port down and trains it again (R353) -/
  | retrain (who : Requester) (p : Nat)
/-- DATA_BLOCK: A received data block is accepted, or it is discarded and answered with NAK (R351) -/
  | dataBlock (p : Nat) (bytes : List Byte) (corrected : Nat) (uncorr : Bool)
/-- CONTROL_BLOCK: A received control block acknowledges blocks, triggers replay on NAK, returns credits and reports
  the peer's identity (R350) -/
  | controlBlock (p : Nat) (bytes : List Byte)
/-- HELLO_TIMER: Every 1 ms, each Ethernet-mode port of a directly linked party broadcasts a HELLO frame (R357) -/
  | helloTimer
/-- HELLO: A received HELLO frame fills LNK_PORT_STATUS with the peer's identity (R359) -/
  | hello (p : Nat) (eth : List Byte) (env : Env)
/-- RSDATA: A received RSDATA frame is combined with the local pair and forwarded, kept at the owner, staged, or
  discarded (R368) -/
  | rsdata (p : Nat) (eth : List Byte) (env : Env)
/-- AGDATA: A received AGDATA frame is written to DST, passed on along the ring, and completes norm pairs (R369) -/
  | agdata (p : Nat) (eth : List Byte) (env : Env)
/-- TAIL: A received TAIL frame merges its tallies, or at the end judges fingerprint agreement (R375) -/
  | tail (p : Nat) (eth : List Byte) (env : Env)
/-- SIGNAL_FRAME: A received SIGNAL frame applies its operation to the local anchor (R380) -/
  | signalFrame (p : Nat) (eth : List Byte) (env : Env)
/-- PUT_FRAME: A received PUT frame is written if it lies within LNK_PUT_WIN, or refused in a DONE frame (R381); `bad`: its
  payload lines that came as poison (R343) -/
  | putFrame (p : Nat) (eth : List Byte) (env : Env) (bad : List Nat := [])
/-- RREQ: A received RREQ frame starts a shard repair at the source (R379) -/
  | rreq (p : Nat) (eth : List Byte) (env : Env)
/-- REPAIR_SOURCE_START: Once its update engine is not inside a USWEEP, the source checks its entry and sends RDATA or
  a failing DONE (R379) -/
  | repairSourceStart (k : Nat) (env : Env)
/-- RDATA: A received RDATA frame writes array bytes of the repaired shard to their homes (R379); `bad`: its payload lines that came
  as poison -/
  | rdata (p : Nat) (eth : List Byte) (env : Env) (bad : List Nat := [])
/-- ACK_FRAME: A received ACK frame releases acknowledged frames from the scratch pool (R360) -/
  | ackFrame (p : Nat) (eth : List Byte) (env : Env)
/-- DONE_FRAME: A received DONE frame ends the repair or PUT that it covers (R359) -/
  | doneFrame (p : Nat) (eth : List Byte) (env : Env)
/-- ACK_TIMER: Within 2 µs of delivery, or after 16 frames, the receiver sends an ACK (R360) -/
  | ackTimer (k : Nat) (m : Nat)
/-- RETRANSMIT_TIMER: When 50 µs pass with no ACK progress, the sender retransmits from the first unacknowledged frame
  (R360) -/
  | retransmitTimer (k : Nat) (m : Nat)
/-- RED_TIMEOUT: When RED_TIMEOUT expires waiting for a frame or an ACK, the record ends with LNK_TIMEOUT (R371) -/
  | redTimeout (k : Nat) (m : Nat) (ack : Bool) (env : Env)
/-- LREDUCE: An LREDUCE record reduces a gradient across the party and may carry a fingerprint or digest tail (R367)
  -/
  | lreduce (q : Nat) (env : Env)
/-- LREPAIR: An LREPAIR record copies a shard's arrays from a peer (R378) -/
  | lrepair (q : Nat) (env : Env)
/-- LNK_PARTY_SEQ_WRITE: A write to LNK_PARTY_SEQ sets the sequence and discards staged frames while quiesced, and is
  otherwise rejected (R372) -/
  | lnkPartySeqWrite (who : Requester) (k : Nat) (d : WData)
/-- HOST_LINK_UP: A host link finishes training, and it is flagged DEGRADED if it trained at reduced rate or width
  (R391) -/
  | hostLinkUp (h : Nat) (speed : Nat) (width : Nat)
/-- HOST_FUNCTION_RESET: PERST_N low, a hot reset or a link-down resets that host's function, disables its spill
  window and ends its outstanding spill requests (R392) -/
  | hostFunctionReset (h : Nat) (down : Bool) (env : Env)
/-- HDM_COMMIT: A host commits its HDM decoder, and its CXL.mem window to stacked memory opens (R395) -/
  | hdmCommit (h : Nat) (base : Nat) (size : Nat) (offset : Nat)
/-- HOST_MEM_READ: A host CXL.mem read flips the bias if needed, snoops the other hosts and returns data or poison
  (R402) -/
  | hostMemRead (h : Nat) (hpa : Nat) (env : Env)
/-- HOST_MEM_WRITE: A host CXL.mem write is snooped, checked against the seal map and performed or dropped (R396) -/
  | hostMemWrite (h : Nat) (hpa : Nat) (bytes : List Byte) (env : Env)
/-- LOCAL_WINDOW_ACCESS: A host read or write through BAR4 reaches core-local memory or the Store (R394) -/
  | localWindowAccess (h : Nat) (off : Nat) (len : Nat) (write : Option (List Byte)) (env : Env)
/-- H2D_SNOOP: An H2D snoop from a host is answered with RspIHitI (R390) -/
  | h2dSnoop (h : Nat) (line : Nat)
/-- SNOOP_RESPONSE: A host's answer to a snoop or recall lets the held access be served (R402) -/
  | snoopResponse (h : Nat) (line : Nat) (inv : Bool) (dirty : Option (List Byte)) (env : Env)
/-- SNOOP_TIMEOUT: A snoop or recall unanswered for 20 µs is treated as no copy, and SNOOP_TIMEOUT is set (R403) -/
  | snoopTimeout (h : Nat) (line : Nat) (inv : Bool) (env : Env)
/-- SPILL_ENABLE: Setting HST_SPILL_CFG.EN enables the host's spill window, or the write is rejected (R397) -/
  | spillEnable (who : Requester) (h : Nat) (base : BitVec 52)
/-- SPILL_COMPLETION: A spill-read completion returns data, or ends the request with MEM_UNCORR (R398) -/
  | spillCompletion (a : Nat) (data : Option (List Byte)) (env : Env)
/-- SPILL_TIMEOUT: A spill read with no completion within SPILL_TIMEOUT ends with MEM_TIMEOUT (R398) -/
  | spillTimeout (a : Nat) (env : Env)
/-- TO_DEVICE: A TO_DEVICE write to HST_BIAS_OP starts returning pages to DEVICE bias (R404) -/
  | toDevice (who : Requester) (first : BitVec 20) (count : BitVec 20)
/-- BIAS_PAGE_DONE: When a page's recall ends, the page becomes DEVICE or stays SHARED, and the next page begins
  (R404) -/
  | biasPageDone (dirty : List (Nat × Nat × List Byte)) (env : Env)
/-- MSIX_UNMASK: Unmasking an MSI-X vector with its pending bit set sends one message (R405) -/
  | msixUnmask (h : Nat) (off : Nat) (acc : Bar2Acc := .write (.w32 0))
/-- CC_HUNG: After 100 ms without a heartbeat change, Siolo clears RUN and logs EV_CC_HUNG (R408) -/
  | ccHung (cc : Nat)
/-- POST: Writing POST sets the direction FULL, starts its timer and interrupts the receiver (R411) -/
  | mbxPost (who : Requester) (m : Nat) (up : Bool)
/-- TAKE: A read of TAKE returns FULL and clears it (R411) -/
  | mbxTake (who : Requester) (m : Nat) (up : Bool)
/-- WITHDRAW: Writing WITHDRAW clears FULL unless a TAKE reaches the mailbox in the same cycle (R412) -/
  | mbxWithdraw (who : Requester) (m : Nat) (up : Bool) (take : Option Requester)
/-- MBX_TIMEOUT: A message not taken within TIMEOUT_MS sets the sender's TIMEOUT flag and posts EV_MBX_TIMEOUT (R412)
  -/
  | mbxTimeout (m : Nat) (up : Bool)
/-- PING: The PING command returns its argument (R415) -/
  | ping (ch : Chan) (hint : Nat)
/-- GET_CAP: The GET_CAP command returns the whole capability block (R20) -/
  | getCap (ch : Chan) (hint : Nat)
/-- GET_FW: The GET_FW command returns the firmware version, SEQ and build tag (R415) -/
  | getFw (ch : Chan) (hint : Nat)
/-- SUBMIT: The SUBMIT command copies records into a queue and writes its doorbell (R415) -/
  | submit (ch : Chan) (hint : Nat) (env : Env)
/-- ALLOC: The ALLOC command allocates an object in the run-time's tables (R415) -/
  | alloc (ch : Chan) (hint : Nat)
/-- FREE: The FREE command releases an object (R415) -/
  | free (ch : Chan) (hint : Nat)
/-- GET_SENSORS: The GET_SENSORS command returns sensor readings (R442) -/
  | getSensors (ch : Chan) (hint : Nat)
/-- GET_LOAD: The GET_LOAD command returns SIO_LOAD and SIO_STATUS (R442) -/
  | getLoad (ch : Chan) (hint : Nat)
/-- GET_ALARM: The GET_ALARM command returns an alarm-file entry (R442) -/
  | getAlarm (ch : Chan) (hint : Nat)
/-- ACK_ALARM: The ACK_ALARM command acknowledges one alarm-file entry, or all of them (R442) -/
  | ackAlarm (ch : Chan) (hint : Nat)
/-- GET_SEC: The GET_SEC command returns the security versions and status (R463) -/
  | getSec (ch : Chan) (hint : Nat)
/-- FW_UPDATE: The FW_UPDATE command checks a bundle, writes it to the firmware slot and verifies it (R465) -/
  | fwUpdate (ch : Chan) (hint : Nat) (env : Env)
/-- RTE_STORE: The RTE_STORE command checks a route image and writes it to a flash copy (R466) -/
  | rteStore (ch : Chan) (hint : Nat) (env : Env)
/-- FLASH_READ: The FLASH_READ command copies a readable flash area to memory (R463) -/
  | flashRead (ch : Chan) (hint : Nat)
/-- GET_MEAS: The GET_MEAS command returns a measurement register and its extend count (R463) -/
  | getMeas (ch : Chan) (hint : Nat)
/-- MEAS_EXTEND: The MEAS_EXTEND command extends measurement register 4 to 7 and posts EV_SEC_MEASURE (R454) -/
  | measExtend (ch : Chan) (hint : Nat)
/-- ATTEST: The ATTEST command builds and signs a quote with the identity key (R461) -/
  | attest (ch : Chan) (hint : Nat) (env : Env) (err : Bool := false)
/-- GET_ID_KEY: The GET_ID_KEY command writes the serial number and identity public key (R463) -/
  | getIdKey (ch : Chan) (hint : Nat) (env : Env)
/-- SVN_COMMIT: The SVN_COMMIT command blows anti-rollback fuses up to V, or is refused with SVN_RANGE (R456) -/
  | svnCommit (ch : Chan) (hint : Nat) (cut : Option Nat := none)
/-- RCV_BEGIN: The RCV_BEGIN command opens a recovery session (R469) -/
  | rcvBegin (ch : Chan) (hint : Nat)
/-- RCV_DATA: The RCV_DATA command erases slot sectors and programs recovery data (R469) -/
  | rcvData (ch : Chan) (hint : Nat) (err : Bool := false)
/-- RCV_END: The RCV_END command checks the slot and boots it, or fails and closes the session (R469) -/
  | rcvEnd (ch : Chan) (hint : Nat) (bad : Option Nat)
/-- SESSION_TIMEOUT: A recovery session with no message for 1 s closes (R469) -/
  | sessionTimeout
/-- FLASH_OP_DONE: A flash erase, program or read ends, and FLASH_BUSY clears if nothing else is running (R451) -/
  | flashOpDone (err : Bool) (env : Env)
/-- THERM_SAMPLE: Every 10 µs, the comparator checks each die temperature against WARN and TRIP (R420) -/
  | thermSample (readings : List (Nat × Nat))
/-- THERMTRIP_N: THERMTRIP_N falling without a trip of the device's own starts the trip response with sensor 0xFF
  (R421) -/
  | thermtripN
/-- OC_SAMPLE: Every 1 µs, the current of each rail is compared with its limit (R422) -/
  | ocSample (currents : List (Nat × Nat))
/-- DAMPER_SAMPLE: Every 1 µs, the damper forms the input power and lowers or raises the allowed matrix-issue share
  (R423) -/
  | damperSample (mv : Nat) (da : Nat)
/-- CAP_MISS: After 100 ms at the floor share with the power above the cap, CAP_MISS is set and EV_PWR_CAP_MISS is
  posted (R479) -/
  | capMiss
/-- SENSOR_REPORT: At each report period, the firmware samples and reports sensor readings and checks voltage monitors
  (R418) -/
  | sensorReport (readings : List (Nat × Nat × Nat))
/-- COOLANT_CHECK: Every 100 ms, the firmware checks coolant inlet temperature and flow and posts EV_COOLANT (R424) -/
  | coolantCheck (inlet : Nat) (outlet : Nat) (flow : Nat)
/-- WATCHDOG_EXPIRY: Siolo's 100 ms watchdog expires and Siolo alone is reset (R425) -/
  | watchdogExpiry
/-- LOCKSTEP_MISMATCH: The two lockstep cores disagree and Siolo alone is reset (R425) -/
  | lockstepMismatch
/-- SIOLO_RELOAD_DONE: The boot ROM has reloaded and checked the Siolo firmware after a Siolo reset, or enters
  recovery (R453) -/
  | sioloReloadDone (bad : Option Nat)
/-- LOAD_WINDOW: At the end of each 10 ms load window, Siolo updates LOAD, overload state and the stretch factor
  (R427) -/
  | loadWindow (load : Nat)
/-- LOG_POST: A source posts a cairn-log record into the intake, or an ALARM into its own lane (R430) -/
  | logPost (src : Nat) (code : Nat) (cls : Nat) (arg : Nat)
/-- LOG_WRITE: The writer takes a record and writes it to the ring, drops it or coalesces it by class and free space
  (R433) -/
  | logWrite (env : Env) (tail : Option (Requester × Word32) := none)
/-- LOG_SUMMARY: At each 1 ms boundary, the writer writes summary records, EV_LOG_DROP and EV_LOG_SUMMARY (R434) -/
  | logSummary (env : Env) (tail : Option (Requester × Word32) := none)
/-- LOG_ENABLE: Setting SIO_LOG_BASE.EN moves the early ring into the main ring, or is rejected (R429) -/
  | logEnable (who : Requester) (addr : BitVec 31) (env : Env)
/-- ALARM_ACK_ENTRY: Writing SIO_ALARM_ACK with ALL 0 acknowledges one alarm entry (R440) -/
  | alarmAckEntry (who : Requester) (entry : BitVec 6)
/-- ALARM_ACK_ALL: Writing SIO_ALARM_ACK with ALL 1 acknowledges every alarm entry (R440) -/
  | alarmAckAll (who : Requester)
/-- CLEAR_FAULTS: The PMBus CLEAR_FAULTS command clears STATUS_WORD bits whose cause has ended (R444) -/
  | clearFaults (addr : Nat := 0x40)
/-- STATUS_WORD: The PMBus STATUS_WORD command returns the trip, alarm and overload state (R444) -/
  | statusWord (addr : Nat := 0x40)
/-- READ_VIN: The PMBus READ_VIN command returns rail 0's voltage (R444) -/
  | readVin (addr : Nat := 0x40)
/-- READ_IIN: The PMBus READ_IIN command returns rail 0's current (R444) -/
  | readIin (addr : Nat := 0x40)
/-- READ_TEMPERATURE_1: The PMBus READ_TEMPERATURE_1 command returns the hottest die sensor (R444) -/
  | readTemperature1 (addr : Nat := 0x40)
/-- READ_TEMPERATURE_2: The PMBus READ_TEMPERATURE_2 command returns the coolant inlet temperature (R444) -/
  | readTemperature2 (addr : Nat := 0x40)
/-- READ_PIN: The PMBus READ_PIN command returns the input power (R444) -/
  | readPin (addr : Nat := 0x40)
/-- PMBUS_REVISION: The PMBus PMBUS_REVISION command returns 0x33 (R444) -/
  | pmbusRevision (addr : Nat := 0x40)
/-- SETDASA: The I3C SETDASA command assigns Siolo its dynamic address (R443) -/
  | setdasa (static : Nat) (dynamic : Nat)
/-- ENTDAA: The I3C ENTDAA command assigns Siolo its dynamic address (R443) -/
  | entdaa (dynamic : Nat)
/-- MCTP_CONTROL: Siolo answers an MCTP control message (R443) -/
  | mctpControl (via : Via := .i3c)
/-- PLDM_REQUEST: Siolo answers a PLDM base or platform-monitoring request (R443) -/
  | pldmRequest (req : PldmReq) (via : Via := .i3c)
/-- PLDM_FIRMWARE_UPDATE: A PLDM firmware update writes the firmware bundle or the route-image pair to flash (R467) -/
  | pldmFirmwareUpdate (via : Via) (step : PldmStep)
/-- BOOT_HEADER_READ: When the boot ROM has read the bundle header, it runs checks 1 to 5 and reads the body, or
  enters recovery (R452) -/
  | bootHeaderRead (bad : Option Nat)
/-- BOOT_BODY_READ: When the body has been read and loaded, the ROM runs checks 6 to 9 and starts the firmware, or
  enters recovery (R452) -/
  | bootBodyRead (bad : Option Nat)
/-- OPP_APPLY: Writing CLK_CTRL.APPLY while quiesced holds traffic, puts the stacks into self-refresh and relocks the
  root at the new point (R478) -/
  | oppApply (who : Requester) (opp : BitVec 2) (spread : BitVec 6)
/-- OPP_DONE: When the relock ends, the stacks leave self-refresh, held requests are served, BUSY clears and
  EV_CLK_OPP is posted (R478) -/
  | oppDone (env : Env)
/-- CLK_RESET: A write to CLK_RESET with KEY 0xD1 starts a full reset, with or without retention (R483) -/
  | clkReset (who : Requester) (key : BitVec 8) (retain : Bool)
/-- RESET_N_FALL: RESET_N falling starts a full reset, with retention chosen by MEMHOLD_N (R484) -/
  | resetNFall (memhold : Bool)
/-- RESET_HOLD_END: The 1 ms hold of a software reset ends, and the reset sequence begins (R483) -/
  | resetHoldEnd
/-- RESET_N_RISE: RESET_N rising ends the hold, samples the straps SPLIT and starts the reset sequence and the boot ROM
  (R486) -/
  | resetNRise (split : BitVec 4) (pmbAddr : BitVec 3)
/-- SELF_REFRESH_EXIT: With retention, the stacks leave self-refresh, and a stack that fails its check is left out
  (R486) -/
  | selfRefreshExit (bad : Nat)
/-- STACK_TRAINING_DONE: Training brings each stack into service, or leaves it out and raises EV_MEM_STACK_DOWN (R262)
  -/
  | stackTrainingDone (c : Nat) (good : Bool)
/-- STANDBY_POWER: Rail 0 within its limits brings up the standby rails and the reference, starts the counter
  (R481) and samples the straps PMB_ADDR (R497) -/
  | standbyPower (pmbAddr : BitVec 3 := 0)
/-- PWR_EN_RISE: PWR_EN rising ramps the main rails in order (R481) -/
  | pwrEnRise
/-- PWRGD: When the main rails are in regulation, PWRGD rises (R481) -/
  | pwrgd
/-- PWR_EN_FALL: PWR_EN falling runs the reset sequence if needed and brings the main rails down in order (R482) -/
  | pwrEnFall
/-- INPUT_UNDERVOLTAGE: Rail 0 below 44 V for 10 µs causes the device to act as for PWR_EN low (R482) -/
  | inputUndervoltage
/-- INPUT_OVERVOLTAGE: Rail 0 above 60 V for 10 µs causes the device to act as for PWR_EN low and keep the main rails
  off (R501) -/
  | inputOvervoltage
/-- STANDBY_LOSS: Rail 0 below 40 V drops the standby rails and clears the counter (R501) -/
  | standbyLoss
/-- STACK_TEMPERATURE: A stack's temperature report crossing 85 °C halves or restores its refresh interval, sets or
  clears MEM_STK_STATUS.REF_2X and updates TEMP (R261) -/
  | stackTemperature (c : Nat) (t : Nat)
/-- LNK_PORT_DISABLE: A write to LNK_PORT_CTRL.DISABLE holds the port down in state disabled, and clearing it lets the
  port train again (R353) -/
  | lnkPortDisable (who : Requester) (p : Nat) (disable : Bool)
/-- PRIORITY_FLOW_CONTROL: An IEEE 802.1Qbb priority-based flow-control frame received on an Ethernet-mode port pauses
  or resumes transmission on priority LNK_CFG.PRIO (R355) -/
  | priorityFlowControl (p : Nat) (prio : Nat) (pause : Bool)
/-- PMBUS_NACK: A PMBus command not in the supported list is answered with NACK and recorded in STATUS_WORD (R444) -/
  | pmbusNack (code : Nat) (addr : Nat := 0x40)
/-- CONFIGURATION_REQUEST: A host configuration request is answered with Configuration Request Retry Status until the
  firmware is loaded, and normally afterwards (R486) -/
  | configurationRequest (h : Nat) (req : CfgReq)
/-- THERMAL_TRIP_CLEAR: When PWR_EN has stayed low for at least 10 ms, the thermal trip and SIO_STATUS.TRIP_THERM are
  cleared (R482) -/
  | thermalTripClear
  deriving DecidableEq, Repr

end Sys2Proof
end

