-- ==== Sys2Proof/Config.lean ====
section
/-! DEFINITION. What an implementation fixes and what the spec leaves open: free values, constants with no body. -/

namespace Sys2Proof

/-- A byte whose contents the spec calls undefined (staging billets after a load, R69; memory a reset does not keep,
R485; a region whose interleave changed, R72): any byte, by the stamp of the event that made it undefined and its
address. -/
opaque Config.freeByte : Nat → Nat → Byte

/-- Any number, by the counter of the state: a value the spec does not state. -/
opaque Config.freeNat : Nat → Nat

/-- The 2 MiB page of stacked memory in which the control cores' run-time keeps its allocation tables (R415), modulo the pages there
are. -/
opaque Config.tablePage : Nat

/-- The units in the last place by which the device's fixed method moves a result from the FP32 value nearest the exact
one (R169, R197, R213), by function and operand pattern; the model holds it to −2 to 2. -/
opaque Config.ulp : Nat → Nat → Int

/-- Byte i of the fixed label from which the identifier (0) or the seed (1) of an identity tree is derived (R457). -/
opaque Config.idLabel : Nat → Nat → Byte

/-- Byte i of the randomizer of the signature that a leaf of an identity tree makes (R457; RFC 8554 leaves it to the signer). -/
opaque Config.idRandom : Nat → Nat → Nat → Byte

end Sys2Proof
end

