-- ==== Sys2Proof/Machine/Map.lean ====
section
/-! DEFINITION. Sparse tables, bit fields and byte order: the plain helpers every later file computes with. -/

namespace Sys2Proof.Machine

/-- The value of a table at a key; `d` where the table lists none. -/
def mget {α : Type} (d : α) : SMap α → Nat → α
  | [], _ => d
  | (j, v) :: r, k => if j = k then v else mget d r k

/-- Put a value at a key, keeping the keys rising. -/
def mput {α : Type} : SMap α → Nat → α → SMap α
  | [], k, x => [(k, x)]
  | (j, v) :: r, k, x =>
    if k < j then (k, x) :: (j, v) :: r
    else if j = k then (k, x) :: r
    else (j, v) :: mput r k x

/-- Drop a key. -/
def mdel {α : Type} : SMap α → Nat → SMap α
  | [], _ => []
  | (j, v) :: r, k => if j = k then mdel r k else (j, v) :: mdel r k

/-- Set a key of a table whose default is `d`: the default itself is never listed. -/
def mset {α : Type} [DecidableEq α] (d : α) (m : SMap α) (k : Nat) (x : α) : SMap α :=
  if x = d then mdel m k else mput m k x

/-- Change the value at a key. -/
def mmod {α : Type} [DecidableEq α] (d : α) (m : SMap α) (k : Nat) (f : α → α) : SMap α :=
  mset d m k (f (mget d m k))

/-- The keys rise strictly, starting above `b`. -/
def risingFrom {α : Type} (b : Nat) : SMap α → Bool
  | [] => true
  | (j, _) :: r => decide (b ≤ j) && risingFrom (j + 1) r

/-- The canonical form of a table with default `d`. -/
def mwf {α : Type} [DecidableEq α] (d : α) (m : SMap α) : Bool :=
  risingFrom 0 m && m.all (fun e => decide (e.2 ≠ d))

/-- Bits [hi:lo] of a number (R2). -/
def bits (n hi lo : Nat) : Nat := n / 2 ^ lo % 2 ^ (hi + 1 - lo)

/-- Bit n of a number (R2). -/
def bit (n i : Nat) : Bool := n / 2 ^ i % 2 == 1

/-- A number with bits [hi:lo] replaced by the low bits of x (R2). -/
def setBits (n hi lo x : Nat) : Nat :=
  n - bits n hi lo * 2 ^ lo + x % 2 ^ (hi + 1 - lo) * 2 ^ lo

/-- Bits [hi:lo] of a register word (R2). -/
def fget (v : Word) (hi lo : Nat) : Nat := bits v.toNat hi lo

/-- A register word with bits [hi:lo] replaced (R2). -/
def fput (v : Word) (hi lo x : Nat) : Word := BitVec.ofNat 64 (setBits v.toNat hi lo x)

/-- The `k` low bytes of a number, lowest first (R3). -/
def toLe : Nat → Nat → List Byte
  | 0, _ => []
  | k + 1, n => BitVec.ofNat 8 n :: toLe k (n / 256)

/-- The number that bytes hold, lowest byte first (R3). -/
def ofLe : List Byte → Nat
  | [] => 0
  | b :: r => b.toNat + 256 * ofLe r

/-- `k` bytes of a string from an offset, zero beyond its end. -/
def slice (b : List Byte) (off k : Nat) : List Byte :=
  let x := (b.drop off).take k
  x ++ List.replicate (k - x.length) 0

/-- The little-endian field of `k` bytes at an offset (R3). -/
def leAt (b : List Byte) (off k : Nat) : Nat := ofLe (slice b off k)

/-- The number of set bits among the low `k` bits. -/
def popCount : Nat → Nat → Nat
  | 0, _ => 0
  | k + 1, n => n % 2 + popCount k (n / 2)

/-- The positions of the set bits among the low `k` bits, lowest first. -/
def setBitList (k n : Nat) : List Nat := (List.range k).filter (fun i => bit n i)

/-- A natural read as a two's-complement number of `w` bits. -/
def asInt (w n : Nat) : Int := if 2 * (n % 2 ^ w) < 2 ^ w then Int.ofNat (n % 2 ^ w) else Int.ofNat (n % 2 ^ w) - Int.ofNat (2 ^ w)

/-- An integer as a two's-complement number of `w` bits. -/
def ofInt (w : Nat) (z : Int) : Nat := (z % (Int.ofNat (2 ^ w))).toNat

/-- Replace the element at an index of a list, if it has one. -/
def listSet {α : Type} : List α → Nat → α → List α
  | [], _, _ => []
  | _ :: r, 0, x => x :: r
  | y :: r, i + 1, x => y :: listSet r i x

/-- Number the elements of a list from 0. -/
def numbered {α : Type} (l : List α) : List (Nat × α) := (List.range l.length).zip l

end Sys2Proof.Machine
end

