-- ==== Sys2Proof/Machine/Float.lean ====
section
/-! DEFINITION. Number formats and exact arithmetic: a finite float is a sign, a natural significand and a power of two;
sums and products are formed exactly and rounded once where the spec rounds (R121, R142, R157, R168, R170). -/

namespace Sys2Proof.Machine

/-- A float value: NaN, an infinity, or (−1)^neg × m × 2^e. A zero keeps its sign. -/
inductive Fp where
  | nan
  | inf (neg : Bool)
  | fin (neg : Bool) (m : Nat) (e : Int)
  deriving DecidableEq, Repr

/-! ## Formats -/

/-- A float format: exponent bits, fraction bits, bias, and what its top codes are: 0 infinities and NaNs as in
IEEE 754, 1 only NaN at the all-ones code (E4M3), 2 neither (sub-byte types). -/
structure Fmt where
  eb : Nat
  mb : Nat
  bias : Nat
  top : Nat := 0
  deriving DecidableEq, Repr

def fmtF32 : Fmt := { eb := 8, mb := 23, bias := 127 }
def fmtBf16 : Fmt := { eb := 8, mb := 7, bias := 127 }
def fmtF16 : Fmt := { eb := 5, mb := 10, bias := 15 }
def fmtF24 : Fmt := { eb := 8, mb := 15, bias := 127 }
def fmtE4m3 : Fmt := { eb := 4, mb := 3, bias := 7, top := 1 }
def fmtE5m2 : Fmt := { eb := 5, mb := 2, bias := 15 }
def fmtE3m2 : Fmt := { eb := 3, mb := 2, bias := 3, top := 2 }
def fmtE2m3 : Fmt := { eb := 2, mb := 3, bias := 1, top := 2 }
def fmtE2m1 : Fmt := { eb := 2, mb := 1, bias := 1, top := 2 }

/-- The exponent of the least step of a format. -/
def Fmt.emin (f : Fmt) : Int := 1 - Int.ofNat f.bias - Int.ofNat f.mb

/-- The value of a code. -/
def decodeFp (f : Fmt) (code : Nat) : Fp :=
  let neg := bit code (f.eb + f.mb)
  let ex := bits code (f.eb + f.mb - 1) f.mb
  let fr := code % 2 ^ f.mb
  let topEx := 2 ^ f.eb - 1
  if f.top = 0 ∧ ex = topEx then (if fr = 0 then .inf neg else .nan)
  else if f.top = 1 ∧ ex = topEx ∧ fr = 2 ^ f.mb - 1 then .nan
  else if ex = 0 then .fin neg fr f.emin
  else .fin neg (2 ^ f.mb + fr) (f.emin + Int.ofNat (ex - 1))

/-- The largest finite code of a format, without its sign. -/
def Fmt.maxCode (f : Fmt) : Nat :=
  match f.top with
  | 0 => (2 ^ f.eb - 1) * 2 ^ f.mb - 1
  | 1 => 2 ^ (f.eb + f.mb) - 2
  | _ => 2 ^ (f.eb + f.mb) - 1

def Fmt.signBit (f : Fmt) (neg : Bool) : Nat := if neg then 2 ^ (f.eb + f.mb) else 0

/-! ## Rounding -/

/-- The position of the leading bit, plus 1; 0 of 0. -/
def bitLen (m : Nat) : Nat := if m = 0 then 0 else Nat.log2 m + 1

/-- Shift right by k with rounding: to nearest, ties to even, or toward zero. -/
def shiftRound (trunc : Bool) (m k : Nat) : Nat :=
  let q := m / 2 ^ k
  let r := m % 2 ^ k
  if trunc || k == 0 then q
  else if 2 * r > 2 ^ k ∨ (2 * r = 2 ^ k ∧ q % 2 = 1) then q + 1
  else q

/-- Round m × 2^e to at most p significant bits and no step below 2^emin. -/
def roundMag (trunc : Bool) (p : Nat) (emin : Int) (m : Nat) (e : Int) : Nat × Int :=
  let k := max (Int.ofNat (bitLen m) - Int.ofNat p) (emin - e)
  if k ≤ 0 then (m, e) else (shiftRound trunc m k.toNat, e + k)

/-- The code of a magnitude that has at most mb + 1 significant bits and no step below emin; none where it lies beyond
the format's largest finite value. -/
def magCode (f : Fmt) (m : Nat) (e : Int) : Option Nat :=
  if m = 0 then some 0
  else
    let l := bitLen m
    let ex := e + Int.ofNat l - 1 + Int.ofNat f.bias
    if ex ≤ 0 then some (m * 2 ^ (e - f.emin).toNat)
    else
      let sig := if l ≤ f.mb + 1 then m * 2 ^ (f.mb + 1 - l) else m / 2 ^ (l - (f.mb + 1))
      let code := ex.toNat * 2 ^ f.mb + (sig - 2 ^ f.mb)
      if code ≤ f.maxCode then some code else none

/-- The code of the canonical NaN. -/
def Fmt.nanCode (f : Fmt) : Nat :=
  match f.top with
  | 0 => if f.eb = 5 ∧ f.mb = 2 then 0x7E else (2 ^ f.eb - 1) * 2 ^ f.mb + 2 ^ (f.mb - 1)
  | 1 => 2 ^ (f.eb + f.mb) - 1
  | _ => 0

def Fmt.infCode (f : Fmt) : Nat := (2 ^ f.eb - 1) * 2 ^ f.mb

/-- What narrowing gives: the code, and whether a bound replaced the value, a NaN was written, an infinity was written. -/
structure Narrow where
  code : Nat
  sat : Bool := false
  nan : Bool := false
  inf : Bool := false
  deriving DecidableEq, Repr

/-- Narrow a value to a float format (R170): round once, then saturate or overflow as SAT says. -/
def narrowFp (f : Fmt) (trunc sat : Bool) (x : Fp) : Narrow :=
  let tooBig (neg : Bool) : Narrow :=
    if f.top = 2 ∨ sat then { code := f.signBit neg + f.maxCode, sat := true }
    else if f.top = 1 then { code := f.nanCode, nan := true }
    else { code := f.signBit neg + f.infCode, inf := true }
  match x with
  | .nan => { code := f.nanCode, nan := true }
  | .inf neg => tooBig neg
  | .fin neg m e =>
    let (m, e) := roundMag trunc (f.mb + 1) f.emin m e
    match magCode f m e with
    | some c => { code := f.signBit neg + c }
    | none => tooBig neg

/-- Encode with overflow to infinity, to nearest with ties to even: the rounding of FP32 arithmetic. -/
def encodeFp (f : Fmt) (x : Fp) : Nat :=
  match x with
  | .nan => f.nanCode
  | .inf neg => f.signBit neg + f.infCode
  | x => (narrowFp f false false x).code

/-- Round a value into a format and take it back. -/
def roundFp (f : Fmt) (x : Fp) : Fp := decodeFp f (encodeFp f x)

/-- The value of an FP32 pattern, and the pattern of a value. -/
def ofF32 (w : Nat) : Fp := decodeFp fmtF32 w
def toF32 (x : Fp) : Nat := encodeFp fmtF32 x

def canonNan : Nat := 0x7FC00000

/-! ## Exact arithmetic -/

def Fp.isNan : Fp → Bool
  | .nan => true
  | _ => false

def Fp.isInf : Fp → Bool
  | .inf _ => true
  | _ => false

def Fp.isZero : Fp → Bool
  | .fin _ m _ => m == 0
  | _ => false

def Fp.sign : Fp → Bool
  | .nan => false
  | .inf n => n
  | .fin n _ _ => n

def Fp.neg : Fp → Fp
  | .nan => .nan
  | .inf n => .inf (!n)
  | .fin n m e => .fin (!n) m e

def Fp.abs : Fp → Fp
  | .nan => .nan
  | .inf _ => .inf false
  | .fin _ m e => .fin false m e

def Fp.one : Fp := .fin false 1 0
def Fp.zero : Fp := .fin false 0 0

/-- The signed significand of a finite value at a smaller exponent. -/
def signedAt (neg : Bool) (m : Nat) (k : Nat) : Int :=
  let x := Int.ofNat (m * 2 ^ k)
  if neg then -x else x

/-- The exact sum (R142, R157): a sum of zeros is −0 only if both are, and a cancelled sum is +0. -/
def Fp.add (a b : Fp) : Fp :=
  match a, b with
  | .nan, _ | _, .nan => .nan
  | .inf x, .inf y => if x = y then .inf x else .nan
  | .inf x, _ => .inf x
  | _, .inf y => .inf y
  | .fin na ma ea, .fin nb mb eb =>
    if ma = 0 ∧ mb = 0 then .fin (na && nb) 0 0
    else if ma = 0 then .fin nb mb eb
    else if mb = 0 then .fin na ma ea
    else
      let e := min ea eb
      let s := signedAt na ma (ea - e).toNat + signedAt nb mb (eb - e).toNat
      .fin (decide (s < 0)) s.natAbs e

def Fp.sub (a b : Fp) : Fp := a.add b.neg

/-- The exact product (R142). -/
def Fp.mul (a b : Fp) : Fp :=
  match a, b with
  | .nan, _ | _, .nan => .nan
  | .inf x, .inf y => .inf (x != y)
  | .inf x, .fin y m _ => if m = 0 then .nan else .inf (x != y)
  | .fin x m _, .inf y => if m = 0 then .nan else .inf (x != y)
  | .fin x ma ea, .fin y mb eb => .fin (x != y) (ma * mb) (ea + eb)

/-- Multiply by a power of two, exactly. -/
def Fp.scale (a : Fp) (k : Int) : Fp :=
  match a with
  | .fin n m e => .fin n m (e + k)
  | x => x

/-- Round to p significant bits with no exponent limit (R158). -/
def Fp.roundBits (p : Nat) (a : Fp) : Fp :=
  match a with
  | .fin n m e => let (m, e) := roundMag false p (e - Int.ofNat p) m e; .fin n m e
  | x => x

/-- Compare two numbers that are not NaN: −Inf, negative, −0, +0, positive, +Inf in that order (R175). -/
def Fp.lt (a b : Fp) : Bool :=
  match a, b with
  | .nan, _ | _, .nan => false
  | .inf x, .inf y => x && !y
  | .inf x, _ => x
  | _, .inf y => !y
  | .fin na ma ea, .fin nb mb eb =>
    let e := min ea eb
    let x := signedAt na ma (ea - e).toNat
    let y := signedAt nb mb (eb - e).toNat
    decide (x < y) || (x == y && ma == 0 && na && !nb)

/-- The quotient, correctly rounded into p bits beyond need: the significand is carried far enough that a sticky bit
keeps one later rounding correct. -/
def Fp.div (a b : Fp) : Fp :=
  match a, b with
  | .nan, _ | _, .nan => .nan
  | .inf x, .inf _ => let _ := x; .nan
  | .inf x, .fin y _ _ => .inf (x != y)
  | .fin x _ _, .inf y => .fin (x != y) 0 0
  | .fin x ma ea, .fin y mb eb =>
    if mb = 0 then (if ma = 0 then .nan else .inf (x != y))
    else if ma = 0 then .fin (x != y) 0 0
    else
      let k := 64 + bitLen mb
      let n := ma * 2 ^ k
      let q := n / mb
      .fin (x != y) (2 * q + (if n % mb = 0 then 0 else 1)) (ea - eb - Int.ofNat k - 1)

/-- Integer square root by bits: the largest r of k bits with r² at most n. -/
def isqrt : Nat → Nat → Nat → Nat
  | 0, _, r => r
  | k + 1, n, r => let t := r + 2 ^ k; if t * t ≤ n then isqrt k n t else isqrt k n r

/-- The square root, with a sticky bit so that one later rounding is correct. -/
def Fp.sqrt (a : Fp) : Fp :=
  match a with
  | .nan => .nan
  | .inf n => if n then .nan else .inf false
  | .fin n m e =>
    if m = 0 then .fin n 0 0
    else if n then .nan
    else
      let odd := e % 2 ≠ 0
      let m := if odd then 2 * m else m
      let e := if odd then e - 1 else e
      let k := 64
      let big := m * 2 ^ (2 * k)
      let r := isqrt (bitLen big / 2 + 1) big 0
      .fin false (2 * r + (if r * r = big then 0 else 1)) (e / 2 - Int.ofNat k - 1)

/-! ## FP32 operations, each rounded once to nearest with ties to even -/

def f32add (a b : Nat) : Nat := toF32 ((ofF32 a).add (ofF32 b))
def f32sub (a b : Nat) : Nat := toF32 ((ofF32 a).sub (ofF32 b))
def f32mul (a b : Nat) : Nat := toF32 ((ofF32 a).mul (ofF32 b))
def f32div (a b : Nat) : Nat := toF32 ((ofF32 a).div (ofF32 b))
def f32sqrt (a : Nat) : Nat := toF32 (ofF32 a).sqrt
def f32neg (a : Nat) : Nat := if bit a 31 then a - 2 ^ 31 else a + 2 ^ 31
def f32isNan (a : Nat) : Bool := (ofF32 a).isNan
def f32isInf (a : Nat) : Bool := (ofF32 a).isInf

/-- The value of an integer. -/
def ofZ (z : Int) : Fp := .fin (decide (z < 0)) z.natAbs 0

/-- Round a value to an integer, to nearest with ties to even or toward zero. -/
def roundToInt (trunc : Bool) (neg : Bool) (m : Nat) (e : Int) : Int :=
  let n := if 0 ≤ e then m * 2 ^ e.toNat else shiftRound trunc m (-e).toNat
  if neg then -(Int.ofNat n) else Int.ofNat n

/-! ## Compensated summation (R176, R177) -/

/-- TwoSum: t = fl(a + b) and the error, taken as +0 where t is not finite. -/
def twoSum (a b : Nat) : Nat × Nat :=
  let t := f32add a b
  if f32isNan t || f32isInf t then (t, 0)
  else
    let z := f32sub t a
    (t, f32add (f32sub a (f32sub t z)) (f32sub b z))

/-- Add a term to a pair (s, c). -/
def pairAdd (p : Nat × Nat) (x : Nat) : Nat × Nat :=
  let (t, err) := twoSum p.1 x
  (t, f32add p.2 err)

/-- Combine an incoming pair with a local pair, in that order. -/
def pairCombine (p q : Nat × Nat) : Nat × Nat :=
  let (t, err) := twoSum p.1 q.1
  (t, f32add (f32add p.2 q.2) err)

/-- The folded form of a pair; a pair whose sum is ±Inf or NaN has that value. -/
def pairFold (p : Nat × Nat) : Nat := f32add p.1 p.2

/-- Fold a local pair into an incoming folded value, in that order. -/
def foldInto (v : Nat) (q : Nat × Nat) : Nat :=
  let (t, err) := twoSum v q.1
  f32add t (f32add err q.2)

/-! ## Operand types (R121) -/

/-- The float format of a type code, if it is a float type. -/
def typeFmt (t : Nat) : Option Fmt :=
  match t with
  | 0x0 => some fmtBf16 | 0x1 => some fmtF16 | 0x2 => some fmtF32
  | 0x4 | 0x6 => some fmtE4m3 | 0x5 | 0x7 => some fmtE5m2
  | 0xA => some fmtE3m2 | 0xB => some fmtE2m3 | 0xC => some fmtE2m1
  | _ => none

/-- Bits per element. -/
def typeBits (t : Nat) : Nat :=
  match t with
  | 0x0 | 0x1 => 16
  | 0x2 | 0xD => 32
  | 0xA | 0xB => 6
  | 0xC => 4
  | _ => 8

/-- The class P of an operand type. -/
def typeP (t : Nat) : Nat :=
  match t with
  | 0x0 | 0x1 | 0x2 => 1
  | 0xA | 0xB | 0xC => 4
  | _ => 2

/-- MX types carry a shared scale. -/
def isMx (t : Nat) : Bool := t == 6 || t == 7 || t == 0xA || t == 0xB || t == 0xC

/-- Integer types of the array. -/
def isInt8 (t : Nat) : Bool := t == 8 || t == 9

/-- Type codes the array knows. -/
def typeDefined (t : Nat) : Bool := decide (t ≤ 0xC) && t != 3

/-- Elements a packed row must be a multiple of (R123). -/
def packMultiple (t : Nat) : Nat := match typeBits t with | 6 => 4 | 4 => 2 | _ => 1

/-- Bytes of a packed row of k elements (R123). -/
def packedLen (t k : Nat) : Nat := k * typeBits t / 8

/-- The elements of a packed row: their codes, in index order (R123). -/
def unpack (t k : Nat) (row : List Byte) : List Nat :=
  match typeBits t with
  | 16 => (List.range k).map (fun i => leAt row (2 * i) 2)
  | 32 => (List.range k).map (fun i => leAt row (4 * i) 4)
  | 6 => (List.range k).map (fun i => leAt row (3 * (i / 4)) 3 / 2 ^ (6 * (i % 4)) % 64)
  | 4 => (List.range k).map (fun i => leAt row (i / 2) 1 / 2 ^ (4 * (i % 2)) % 16)
  | _ => (List.range k).map (fun i => leAt row i 1)

/-- Pack element codes, the inverse of unpack for whole groups. -/
def packBits (w : Nat) : List Nat → Nat
  | [] => 0
  | c :: r => c + 2 ^ w * packBits w r

def pack (t : Nat) (codes : List Nat) : List Byte :=
  match typeBits t with
  | 16 => codes.flatMap (toLe 2)
  | 32 => codes.flatMap (toLe 4)
  | 8 => codes.flatMap (toLe 1)
  | w => toLe ((codes.length * w + 7) / 8) (packBits w codes)

/-- The value of an element of any type. -/
def elemVal (t code : Nat) : Fp :=
  match typeFmt t with
  | some f => decodeFp f code
  | none =>
    match t with
    | 8 => ofZ (asInt 8 code)
    | 0xD => ofZ (asInt 32 code)
    | _ => ofZ (Int.ofNat code)

/-- The value of an E8M0 scale (R124). -/
def e8m0 (s : Nat) : Fp := if s = 0xFF then .nan else .fin false 1 (Int.ofNat s - 127)

end Sys2Proof.Machine
end

