-- ==== Sys2Proof/Machine/Approx.lean ====
section
/-! DEFINITION. The functions the spec gives to within 2 units in the last place (R169, R197): the FP32 value nearest the
exact one, moved by a step of at most 2 units that the spec leaves to the device's one fixed method. -/

namespace Sys2Proof.Machine

/-! ## Fixed point with 256 fraction bits -/

def fxOne : Nat := 2 ^ 256
def fxLn2 : Nat := 0xb17217f7d1cf79abc9e3b39803f2f6af40f343267298b62d8a0d175b8baafa2b
/-- 2 × √(2 ÷ π). -/
def fxGelu : Nat := 0x19884533d436508d0fcb3c500bab8e2ff4e0a7cc1449c1b63011c6d20098e74ba
/-- 1 ÷ √(2π). -/
def fxPhi0 : Nat := 0x662114cf50d942343f2cf1402eae38bfd3829f30512706d8c0471b4802639d2e

/-- A finite value in fixed point, rounded toward zero. -/
def toFx : Fp → Int
  | .fin n m e =>
    let k := e + 256
    let a := if 0 ≤ k then m * 2 ^ k.toNat else m / 2 ^ (-k).toNat
    if n then -(Int.ofNat a) else Int.ofNat a
  | _ => 0

def ofFx (z : Int) : Fp := .fin (decide (z < 0)) z.natAbs (-256)

/-- Whether a finite value lies beyond ±2^k. -/
def Fp.beyond (x : Fp) (k : Int) : Bool :=
  match x with
  | .fin _ m e => decide (k < Int.ofNat (bitLen m) + e)
  | _ => false

/-- The terms of e^r from the k-th on. -/
def expSeries (r : Nat) : Nat → Nat → Nat → Nat → Nat
  | 0, _, _, acc => acc
  | fuel + 1, k, t, acc =>
    let t := t * r / fxOne / k
    expSeries r fuel (k + 1) t (acc + t)

/-- e^x. -/
def Fp.exp (x : Fp) : Fp :=
  match x with
  | .nan => .nan
  | .inf n => if n then .zero else .inf false
  | .fin n _ _ =>
    if x.beyond 9 then .fin false 1 (if n then -800 else 800)
    else
      let z := toFx x
      let l : Int := Int.ofNat fxLn2
      .fin false (expSeries (z % l).toNat 80 1 fxOne fxOne) (z / l - 256)

/-- 2^x; exact for an integer. -/
def Fp.exp2 (x : Fp) : Fp :=
  match x with
  | .nan => .nan
  | .inf n => if n then .zero else .inf false
  | .fin n _ _ =>
    if x.beyond 10 then .fin false 1 (if n then -800 else 800)
    else
      let z := toFx x
      let one : Int := Int.ofNat fxOne
      .fin false (expSeries ((z % one).toNat * fxLn2 / fxOne) 80 1 fxOne fxOne) (z / one - 256)

/-- The fraction bits of the logarithm of y ÷ 2^128, y in [2^128, 2^129), by repeated squaring. -/
def log2Bits : Nat → Nat → Nat → Nat
  | 0, _, acc => acc
  | k + 1, y, acc =>
    let y := y * y / 2 ^ 128
    if 2 ^ 129 ≤ y then log2Bits k (y / 2) (2 * acc + 1) else log2Bits k y (2 * acc)

/-- The base-2 logarithm of a positive value; exact for a power of 2. -/
def Fp.log2 (x : Fp) : Fp :=
  match x with
  | .nan => .nan
  | .inf n => if n then .nan else .inf false
  | .fin n m e =>
    if m = 0 then .inf true
    else if n then .nan
    else
      let l := bitLen m
      let y := if l ≤ 129 then m * 2 ^ (129 - l) else m / 2 ^ (l - 129)
      let z := (e + Int.ofNat l - 1) * Int.ofNat (2 ^ 100) + Int.ofNat (log2Bits 100 y 0)
      .fin (decide (z < 0)) z.natAbs (-100)

/-- 1 ÷ (1 + e^−x). -/
def Fp.sigmoid (x : Fp) : Fp :=
  match x with
  | .inf n => if n then .zero else .one
  | x => Fp.one.div (Fp.one.add x.neg.exp)

/-- The hyperbolic tangent; a value below 2^−40 is its own. -/
def Fp.tanh (x : Fp) : Fp :=
  match x with
  | .nan => .nan
  | .inf n => .fin n 1 0
  | .fin n _ _ =>
    if !(x.beyond (-40)) then x
    else
      let e := (x.abs.scale 1).neg.exp
      let t := (Fp.one.sub e).div (Fp.one.add e)
      if n then t.neg else t

def Fp.silu (x : Fp) : Fp :=
  match x with
  | .inf n => if n then .fin true 0 0 else .inf false
  | x => x.mul x.sigmoid

/-- The tanh approximation of GELU, x × (1 + tanh u) ÷ 2 with u = √(2 ÷ π) × (x + 0.044715 x³), written with the sigmoid
of 2u. -/
def Fp.geluTanh (x : Fp) : Fp :=
  match x with
  | .inf n => if n then .fin true 0 0 else .inf false
  | x =>
    let cube := ((x.mul x).mul x).mul ((Fp.fin false 44715 0).div (.fin false 1000000 0))
    x.mul (((x.add cube).mul (ofFx (Int.ofNat fxGelu))).sigmoid)

/-- The terms of Σ z^(2n+1) ÷ (2n+1)!! from the n-th on. -/
def phiSeries (z2 : Nat) : Nat → Nat → Nat → Nat → Nat
  | 0, _, _, acc => acc
  | fuel + 1, n, t, acc =>
    let t := t * z2 / fxOne / (2 * n + 1)
    phiSeries z2 fuel (n + 1) t (acc + t)

/-- The normal distribution function. -/
def Fp.phi (x : Fp) : Fp :=
  match x with
  | .nan => .nan
  | .inf n => if n then .zero else .one
  | .fin n _ _ =>
    if x.beyond 4 then (if n then .fin false 1 (-400) else .one)
    else
      let z := (toFx x.abs).toNat
      let s := phiSeries (z * z / fxOne) 1200 1 z z
      let p := ((((x.mul x).scale (-1)).neg.exp).mul (ofFx (Int.ofNat s))).mul (ofFx (Int.ofNat fxPhi0))
      let half : Fp := .fin false 1 (-1)
      if n then half.sub p else half.add p

def Fp.geluErf (x : Fp) : Fp :=
  match x with
  | .inf n => if n then .fin true 0 0 else .inf false
  | x => x.mul x.phi

/-! ## Results within 2 units in the last place -/

/-- Move a finite FP32 pattern by a number of units, no further than the largest finite values. -/
def ulpStep (w : Nat) (d : Int) : Nat :=
  if d = 0 then w
  else
    let z := (if bit w 31 then -(Int.ofNat (w % 2 ^ 31)) else Int.ofNat w) + d
    let z := max (-(Int.ofNat 0x7F7FFFFF)) (min (Int.ofNat 0x7F7FFFFF) z)
    if z < 0 then 2 ^ 31 + z.natAbs else z.toNat

/-- Whether a finite FP32 pattern lies within 2 units in the last place of an exact value, a unit being the FP32 step at
that value. -/
def ulpNear (r : Nat) (exact : Fp) : Bool :=
  let unit : Fp := .fin false 1 (max fmtF32.emin (match exact with | .fin _ m e => Int.ofNat (bitLen m) + e - 24 | _ => 0))
  !((unit.scale 1).lt ((ofF32 r).sub exact).abs)

/-- A result within 2 units of the exact value (R169, R197): function `f` of the operand pattern `w`. A step of 2 units
that the rounding of the exact value carries past the limit is a step of 1, and one of 1 that it carries past it is none. -/
def within2 (f w : Nat) (exact : Fp) : Nat :=
  let r := toF32 exact
  if f32isNan r || f32isInf r then r
  else
    let d := max (-2) (min 2 (Config.ulp f w))
    let y := ulpStep r d
    let z := ulpStep r (max (-1) (min 1 d))
    if ulpNear y exact then y else if ulpNear z exact then z else r

end Sys2Proof.Machine
end

