-- ==== Sys2Proof/Machine/RegTable.lean ====
section
/-! DEFINITION. The register map: every register of the spec's register tables, with its offset in register
space (R38), its array dimensions, its width and its fields (R7); reserved bits (R13) are the bits of no field.
The offsets, fields, access types and reset values are those of the register tables at the end of the chapters. -/

namespace Sys2Proof.Machine

/-- The access types of a register field (R7). -/
inductive Access where
  | ro | rw | wo | w1c | w1s | rc
  deriving DecidableEq, Repr

/-- One field of a register: bits [hi:lo], name, access type and reset value (R2, R5, R7). -/
structure Fld where
  name : String
  hi : Nat
  lo : Nat
  acc : Access
  rst : Nat
  deriving DecidableEq, Repr

/-- One row of a register table: offset of element 0 in register space, dimensions as (count, stride) pairs,
width in bits (R5) and fields. -/
structure RegDesc where
  name : String
  base : Nat
  dims : List (Nat × Nat)
  width : Nat
  fields : List Fld
  deriving DecidableEq, Repr

def Reg.SYS_STATUS : Nat := 0x20
def Reg.SYS_UNMAPPED_ADDR : Nat := 0x28
def Reg.SYS_CAP_ID : Nat := 0x0
def Reg.SYS_CAP_FMT : Nat := 0x8
def Reg.SYS_CAP_SIZE : Nat := 0x10
def Reg.SYS_CAP_MEM : Nat := 0x18
def Reg.SYS_CORE_SITE (i : Nat) : Nat := 0x400 + i * 0x4
def Reg.SYS_CORE_OFF : Nat := 0x600
def Reg.RTE_CTRL : Nat := 0x1000000
def Reg.RTE_STATUS : Nat := 0x1000008
def Reg.RTE_SRC : Nat := 0x1000010
def Reg.RTE_SEQ : Nat := 0x1000018
def Reg.RTE_ERR : Nat := 0x1000020
def Reg.RTE_EVENT : Nat := 0x1000028
def Reg.RTE_EVENT_CNT0 : Nat := 0x1000030
def Reg.RTE_EVENT_CNT1 : Nat := 0x1000038
def Reg.CQ_SQ_BASE (i : Nat) : Nat := 0x2000000 + i * 0x1000
def Reg.CQ_SQ_CFG (i : Nat) : Nat := 0x2000008 + i * 0x1000
def Reg.CQ_SQ_CTRL (i : Nat) : Nat := 0x200000c + i * 0x1000
def Reg.CQ_SQ_STATUS (i : Nat) : Nat := 0x2000010 + i * 0x1000
def Reg.CQ_DOORBELL (i : Nat) : Nat := 0x2000018 + i * 0x1000
def Reg.CQ_CQ_BASE (i : Nat) : Nat := 0x2000020 + i * 0x1000
def Reg.CQ_CQ_CFG (i : Nat) : Nat := 0x2000028 + i * 0x1000
def Reg.CQ_CQ_HEAD (i : Nat) : Nat := 0x2000030 + i * 0x1000
def Reg.CQ_CQ_TAIL (i : Nat) : Nat := 0x2000034 + i * 0x1000
def Reg.CQ_FLUSH_ADDR (i : Nat) : Nat := 0x2000038 + i * 0x1000
def Reg.CQ_FLUSH (i : Nat) : Nat := 0x2000040 + i * 0x1000
def Reg.CQ_EVENT (i : Nat) : Nat := 0x2000048 + i * 0x1000
def Reg.CQ_EVENT_CNT0 (i : Nat) : Nat := 0x2000050 + i * 0x1000
def Reg.CQ_EVENT_CNT1 (i : Nat) : Nat := 0x2000058 + i * 0x1000
def Reg.CQ_DISCARD (i : Nat) : Nat := 0x2000060 + i * 0x1000
def Reg.CQ_ANCHOR (i : Nat) : Nat := 0x2800000 + i * 0x4
def Reg.CQ_ANCHOR_ADD (i : Nat) : Nat := 0x2804000 + i * 0x4
def Reg.CQ_GEVENT : Nat := 0x2808000
def Reg.ME_MODE (i : Nat) : Nat := 0x3000000 + i * 0x1000
def Reg.ME_SPARE (i : Nat) : Nat := 0x3000008 + i * 0x1000
def Reg.ME_STATUS (i : Nat) : Nat := 0x3000010 + i * 0x1000
def Reg.ME_STATUS_H1 (i : Nat) : Nat := 0x3000014 + i * 0x1000
def Reg.ME_EVENT (i : Nat) : Nat := 0x3000018 + i * 0x1000
def Reg.ME_EVENT_CNT (i : Nat) : Nat := 0x3000020 + i * 0x1000
def Reg.ME_CNT_ISSUE (i : Nat) : Nat := 0x3000028 + i * 0x1000
def Reg.ME_CNT_LOADWAIT (i : Nat) : Nat := 0x3000030 + i * 0x1000
def Reg.ME_CNT_TILEWAIT (i : Nat) : Nat := 0x3000038 + i * 0x1000
def Reg.ME_CNT_MAC (i : Nat) : Nat := 0x3000040 + i * 0x1000
def Reg.ACC_TAGS (i : Nat) : Nat := 0x4000000 + i * 0x1000
def Reg.ACC_BUSY (i : Nat) : Nat := 0x4000008 + i * 0x1000
def Reg.ACC_CFG (i : Nat) : Nat := 0x4000010 + i * 0x1000
def Reg.ACC_EVENT (i : Nat) : Nat := 0x4000018 + i * 0x1000
def Reg.ACC_EVENT_CNT (i : Nat) : Nat := 0x4000020 + i * 0x1000
def Reg.ACC_CNT_RUNS (i : Nat) : Nat := 0x4000028 + i * 0x1000
def Reg.ACC_CNT_PROMOWAIT (i : Nat) : Nat := 0x4000030 + i * 0x1000
def Reg.ACC_CNT_ROWS (i : Nat) : Nat := 0x4000038 + i * 0x1000
def Reg.VE_STATUS (i : Nat) : Nat := 0x5000000 + i * 0x1000
def Reg.VE_SLOTS (i : Nat) : Nat := 0x5000008 + i * 0x1000
def Reg.VE_EVENT (i : Nat) : Nat := 0x5000018 + i * 0x1000
def Reg.VE_EVENT_CNT0 (i : Nat) : Nat := 0x5000020 + i * 0x1000
def Reg.VE_EVENT_CNT1 (i : Nat) : Nat := 0x5000028 + i * 0x1000
def Reg.VE_CNT_GROUPS (i : Nat) : Nat := 0x5000030 + i * 0x1000
def Reg.VE_CNT_SLOTS (i : Nat) : Nat := 0x5000038 + i * 0x1000
def Reg.VE_CNT_MEMWAIT (i : Nat) : Nat := 0x5000040 + i * 0x1000
def Reg.VE_SLOT_INFO (i : Nat) (j : Nat) : Nat := 0x5000100 + i * 0x1000 + j * 0x4
def Reg.ATT_STATUS (i : Nat) : Nat := 0x6000000 + i * 0x1000
def Reg.ATT_EVENT (i : Nat) : Nat := 0x6000018 + i * 0x1000
def Reg.ATT_EVENT_CNT0 (i : Nat) : Nat := 0x6000020 + i * 0x1000
def Reg.ATT_EVENT_CNT1 (i : Nat) : Nat := 0x6000028 + i * 0x1000
def Reg.ATT_CNT_EMPTY (i : Nat) : Nat := 0x6000030 + i * 0x1000
def Reg.ATT_CNT_LABHIT (i : Nat) : Nat := 0x6000038 + i * 0x1000
def Reg.ATT_CNT_LABMISS (i : Nat) : Nat := 0x6000040 + i * 0x1000
def Reg.ATT_CNT_RANKKEYS (i : Nat) : Nat := 0x6000048 + i * 0x1000
def Reg.ATT_KV_CFG (i : Nat) : Nat := 0x6800000 + i * 0x100
def Reg.ATT_KV_FT (i : Nat) : Nat := 0x6800008 + i * 0x100
def Reg.ATT_KV_CTRL (i : Nat) : Nat := 0x6800010 + i * 0x100
def Reg.ATT_KV_STATUS (i : Nat) : Nat := 0x6800018 + i * 0x100
def Reg.ATT_KV_EVENT (i : Nat) : Nat := 0x6800020 + i * 0x100
def Reg.ATT_KV_EVENT_CNT0 (i : Nat) : Nat := 0x6800028 + i * 0x100
def Reg.ATT_KV_EVENT_CNT1 (i : Nat) : Nat := 0x6800030 + i * 0x100
def Reg.ATT_LAB_INV (i : Nat) : Nat := 0x6800038 + i * 0x100
def Reg.ATT_WALK_CFG : Nat := 0x6810000
def Reg.MEM_CFG : Nat := 0x7000000
def Reg.MEM_SEAL_OP : Nat := 0x7000008
def Reg.MEM_SEAL_STATUS : Nat := 0x7000010
def Reg.MEM_EVENT : Nat := 0x7000018
def Reg.MEM_EVENT_CNT0 : Nat := 0x7000020
def Reg.MEM_EVENT_CNT1 : Nat := 0x7000028
def Reg.MEM_ERR_ADDR : Nat := 0x7000030
def Reg.MEM_ERR_SRC : Nat := 0x7000038
def Reg.MEM_BREACH_ADDR : Nat := 0x7000040
def Reg.MEM_SPILL_SEAL (i : Nat) (j : Nat) : Nat := 0x7008000 + i * 0x80 + j * 0x8
def Reg.MEM_SPILL_RD (i : Nat) : Nat := 0x7009000 + i * 0x10
def Reg.MEM_SPILL_WR (i : Nat) : Nat := 0x7009008 + i * 0x10
def Reg.MEM_SEAL_MAP (i : Nat) : Nat := 0x7010000 + i * 0x4
def Reg.MEM_STK_STATUS (i : Nat) : Nat := 0x7100000 + i * 0x1000
def Reg.MEM_STK_PC_DOWN (i : Nat) : Nat := 0x7100008 + i * 0x1000
def Reg.MEM_STK_RD (i : Nat) : Nat := 0x7100010 + i * 0x1000
def Reg.MEM_STK_WR (i : Nat) : Nat := 0x7100018 + i * 0x1000
def Reg.MEM_STK_BW (i : Nat) : Nat := 0x7100020 + i * 0x1000
def Reg.MEM_STK_CE (i : Nat) : Nat := 0x7100028 + i * 0x1000
def Reg.MEM_STK_LATE (i : Nat) : Nat := 0x7100030 + i * 0x1000
def Reg.HAUL_STATUS (i : Nat) : Nat := 0x8000000 + i * 0x1000
def Reg.HAUL_LPOOL (i : Nat) : Nat := 0x8000008 + i * 0x1000
def Reg.HAUL_LPOOL_STATUS (i : Nat) : Nat := 0x8000010 + i * 0x1000
def Reg.HAUL_SPOOL (i : Nat) : Nat := 0x8800000 + i * 0x8
def Reg.HAUL_CTX (i : Nat) (j : Nat) : Nat := 0x8400000 + i * 0x1000 + j * 0x8
def Reg.HAUL_EVENT (i : Nat) : Nat := 0x8000018 + i * 0x1000
def Reg.HAUL_EVENT_CNT (i : Nat) : Nat := 0x8000020 + i * 0x1000
def Reg.HAUL_GEVENT : Nat := 0x8810000
def Reg.HAUL_GEVENT_CNT : Nat := 0x8810008
def Reg.HAUL_CNT_RD (i : Nat) : Nat := 0x8000028 + i * 0x1000
def Reg.HAUL_CNT_WR (i : Nat) : Nat := 0x8000030 + i * 0x1000
def Reg.HAUL_CNT_DROP (i : Nat) : Nat := 0x8000038 + i * 0x1000
def Reg.HAUL_CNT_DROPB (i : Nat) : Nat := 0x8000040 + i * 0x1000
def Reg.HAUL_CNT_CREDITWAIT (i : Nat) : Nat := 0x8000048 + i * 0x1000
def Reg.HAUL_CNT_PORTER (i : Nat) : Nat := 0x8000050 + i * 0x1000
def Reg.HAUL_CNT_RESERVE (i : Nat) : Nat := 0x8000058 + i * 0x1000
def Reg.UPD_SHARD_TBL : Nat := 0x9000000
def Reg.UPD_GROUP_TBL : Nat := 0x9000010
def Reg.UPD_NORM_TBL : Nat := 0x9000018
def Reg.UPD_REC_TBL : Nat := 0x9000020
def Reg.UPD_DIG_TBL : Nat := 0x9000028
def Reg.UPD_SHARD_CNT : Nat := 0x9000008
def Reg.UPD_JOURNAL : Nat := 0x9000030
def Reg.UPD_NORM_LIMIT : Nat := 0x9000038
def Reg.UPD_VERDICT : Nat := 0x9000040
def Reg.UPD_NORM : Nat := 0x9000048
def Reg.UPD_STATUS : Nat := 0x9000050
def Reg.UPD_CURSOR : Nat := 0x9000058
def Reg.UPD_CURSOR_STEP : Nat := 0x9000060
def Reg.UPD_EVENT : Nat := 0x9000068
def Reg.UPD_EVENT_CNT0 : Nat := 0x9000070
def Reg.UPD_EVENT_CNT1 : Nat := 0x9000078
def Reg.UPD_CNT_SKIP : Nat := 0x9000080
def Reg.UPD_CNT_PARAMS : Nat := 0x9000088
def Reg.UPD_CNT_PASSED : Nat := 0x9000090
def Reg.UPD_CNT_REPLAY : Nat := 0x9000098
def Reg.UPD_CNT_SNAPB : Nat := 0x90000a0
def Reg.UPD_RULE_INFO (i : Nat) : Nat := 0x9000100 + i * 0x4
def Reg.LNK_PORT_CTRL (i : Nat) : Nat := 0xa000000 + i * 0x1000
def Reg.LNK_PORT_STATUS (i : Nat) : Nat := 0xa000008 + i * 0x1000
def Reg.LNK_PORT_EVENT (i : Nat) : Nat := 0xa000010 + i * 0x1000
def Reg.LNK_PORT_EVENT_CNT (i : Nat) : Nat := 0xa000018 + i * 0x1000
def Reg.LNK_PORT_CNT_TXB (i : Nat) : Nat := 0xa000020 + i * 0x1000
def Reg.LNK_PORT_CNT_RXB (i : Nat) : Nat := 0xa000028 + i * 0x1000
def Reg.LNK_PORT_CNT_REPLAYB (i : Nat) : Nat := 0xa000030 + i * 0x1000
def Reg.LNK_PORT_CNT_FECC (i : Nat) : Nat := 0xa000038 + i * 0x1000
def Reg.LNK_PORT_CNT_RETX (i : Nat) : Nat := 0xa000040 + i * 0x1000
def Reg.LNK_PORT_CNT_BADFRAME (i : Nat) : Nat := 0xa000048 + i * 0x1000
def Reg.LNK_PORT_CNT_ETHDROP (i : Nat) : Nat := 0xa000050 + i * 0x1000
def Reg.LNK_PARTY_STATUS (i : Nat) : Nat := 0xa800000 + i * 0x100
def Reg.LNK_PARTY_SEQ (i : Nat) : Nat := 0xa800008 + i * 0x100
def Reg.LNK_PUT_WIN (i : Nat) : Nat := 0xa800010 + i * 0x100
def Reg.LNK_DIV_LAST (i : Nat) : Nat := 0xa800018 + i * 0x100
def Reg.LNK_CNT_FP_DISCARD (i : Nat) : Nat := 0xa800020 + i * 0x100
def Reg.LNK_CFG : Nat := 0xa810000
def Reg.LNK_EVENT : Nat := 0xa810008
def Reg.LNK_EVENT_CNT0 : Nat := 0xa810010
def Reg.LNK_EVENT_CNT1 : Nat := 0xa810018
def Reg.HST_HOST_STATUS (i : Nat) : Nat := 0xb000000 + i * 0x1000
def Reg.HST_HDM_BASE (i : Nat) : Nat := 0xb000008 + i * 0x1000
def Reg.HST_SPILL_CFG (i : Nat) : Nat := 0xb000010 + i * 0x1000
def Reg.HST_SPILL_SIZE (i : Nat) : Nat := 0xb000018 + i * 0x1000
def Reg.HST_HOST_EVENT (i : Nat) : Nat := 0xb000020 + i * 0x1000
def Reg.HST_HOST_EVENT_CNT0 (i : Nat) : Nat := 0xb000028 + i * 0x1000
def Reg.HST_HOST_EVENT_CNT1 (i : Nat) : Nat := 0xb000030 + i * 0x1000
def Reg.HST_CNT_FLIP (i : Nat) : Nat := 0xb000038 + i * 0x1000
def Reg.HST_CNT_SNOOP (i : Nat) : Nat := 0xb000040 + i * 0x1000
def Reg.HST_CFG : Nat := 0xb800000
def Reg.HST_PORT_STATUS (i : Nat) : Nat := 0xb800008 + i * 0x8
def Reg.HST_BIAS_OP : Nat := 0xb800040
def Reg.HST_BIAS_STATUS : Nat := 0xb800048
def Reg.HST_GEVENT : Nat := 0xb800050
def Reg.HST_GEVENT_CNT : Nat := 0xb800058
def Reg.HST_CNT_BIAS_LOST : Nat := 0xb800060
def Reg.HST_CC_STATUS (i : Nat) : Nat := 0xb800100 + i * 0x8
def Reg.HST_BIAS_MAP (i : Nat) : Nat := 0xb810000 + i * 0x4
def Reg.MBX_DN_DATA (i : Nat) (j : Nat) : Nat := 0xc000000 + i * 0x1000 + j * 0x4
def Reg.MBX_UP_DATA (i : Nat) (j : Nat) : Nat := 0xc000080 + i * 0x1000 + j * 0x4
def Reg.MBX_DN_POST (i : Nat) : Nat := 0xc000040 + i * 0x1000
def Reg.MBX_UP_POST (i : Nat) : Nat := 0xc0000c0 + i * 0x1000
def Reg.MBX_DN_TAKE (i : Nat) : Nat := 0xc000044 + i * 0x1000
def Reg.MBX_UP_TAKE (i : Nat) : Nat := 0xc0000c4 + i * 0x1000
def Reg.MBX_DN_CTRL (i : Nat) : Nat := 0xc000048 + i * 0x1000
def Reg.MBX_UP_CTRL (i : Nat) : Nat := 0xc0000c8 + i * 0x1000
def Reg.MBX_STATUS (i : Nat) : Nat := 0xc000100 + i * 0x1000
def Reg.MBX_CFG (i : Nat) : Nat := 0xc000108 + i * 0x1000
def Reg.MBX_EVENT (i : Nat) : Nat := 0xc000110 + i * 0x1000
def Reg.MBX_EVENT_CNT0 (i : Nat) : Nat := 0xc000118 + i * 0x1000
def Reg.MBX_EVENT_CNT1 (i : Nat) : Nat := 0xc000120 + i * 0x1000
def Reg.SIO_STATUS : Nat := 0xd000000
def Reg.SIO_LOAD : Nat := 0xd000008
def Reg.SIO_THERM_CFG : Nat := 0xd000010
def Reg.SIO_LOG_BASE : Nat := 0xd000020
def Reg.SIO_LOG_HEAD : Nat := 0xd000028
def Reg.SIO_LOG_TAIL : Nat := 0xd00002c
def Reg.SIO_TRACE_EN0 : Nat := 0xd000040
def Reg.SIO_TRACE_EN1 : Nat := 0xd000048
def Reg.SIO_STEP : Nat := 0xd000050
def Reg.SIO_ALARM_STATUS : Nat := 0xd000060
def Reg.SIO_ALARM_ACK : Nat := 0xd000068
def Reg.SIO_EVENT : Nat := 0xd000070
def Reg.SIO_EVENT_CNT : Nat := 0xd000078
def Reg.SIO_LOG_LOST : Nat := 0xd000080
def Reg.SIO_OC_LIMIT (i : Nat) : Nat := 0xd000100 + i * 0x4
def Reg.SIO_TEMP (i : Nat) : Nat := 0xd001000 + i * 0x4
def Reg.SIO_VOLT (i : Nat) : Nat := 0xd001400 + i * 0x4
def Reg.SIO_CURR (i : Nat) : Nat := 0xd001500 + i * 0x4
def Reg.SIO_COOLANT (i : Nat) : Nat := 0xd001600 + i * 0x4
def Reg.SIO_LOG_DROP (i : Nat) : Nat := 0xd002000 + i * 0x8
def Reg.SIO_ALARM_REC (i : Nat) (j : Nat) : Nat := 0xd003000 + i * 0x40 + j * 0x8
def Reg.SIO_ALARM_STATE (i : Nat) : Nat := 0xd003020 + i * 0x40
def Reg.SEC_STATUS : Nat := 0xe000000
def Reg.SEC_FW_SEQ : Nat := 0xe000008
def Reg.SEC_ID : Nat := 0xe000010
def Reg.SEC_ROOT (i : Nat) : Nat := 0xe000040 + i * 0x8
def Reg.SEC_EVENT : Nat := 0xe000060
def Reg.SEC_EVENT_CNT : Nat := 0xe000068
def Reg.SEC_MEAS (i : Nat) (j : Nat) : Nat := 0xe000100 + i * 0x20 + j * 0x8
def Reg.SEC_MEAS_CNT (i : Nat) : Nat := 0xe000200 + i * 0x4
def Reg.CLK_CTRL : Nat := 0xf000000
def Reg.CLK_STATUS : Nat := 0xf000008
def Reg.CLK_TIME : Nat := 0xf000010
def Reg.CLK_RESET : Nat := 0xf000018
def Reg.CLK_RESET_CAUSE : Nat := 0xf000020
def Reg.CLK_IO : Nat := 0xf000028
def Reg.CLK_EVENT : Nat := 0xf000030
def Reg.CLK_EVENT_CNT : Nat := 0xf000038
def Reg.PWR_CAP : Nat := 0x10000000
def Reg.PWR_STATUS : Nat := 0x10000008
def Reg.PWR_EVENT : Nat := 0x10000010
def Reg.PWR_EVENT_CNT : Nat := 0x10000018
def Reg.PWR_CNT_DAMPED : Nat := 0x10000020

/-- The SYS_ registers (00_scope.md). -/
def regTableSYS : List RegDesc := [
  ⟨"SYS_STATUS", 0x20, [], 64,
    [⟨"UNMAPPED_CNT", 63, 32, .ro, 0x0⟩]⟩,
  ⟨"SYS_UNMAPPED_ADDR", 0x28, [], 64,
    [⟨"REQ", 63, 56, .ro, 0x0⟩, ⟨"ADDR", 51, 0, .ro, 0x0⟩]⟩,
  ⟨"SYS_CAP_ID", 0x0, [], 64,
    [⟨"VENDOR_TAG", 63, 48, .ro, 0x4c52⟩, ⟨"PART", 47, 32, .ro, 0x24⟩, ⟨"STEPPING", 31, 24, .ro, 0xb0⟩, ⟨"GEN", 23, 20, .ro, 0x1⟩]⟩,
  ⟨"SYS_CAP_FMT", 0x8, [], 64,
    [⟨"DESC_VER", 47, 32, .ro, 0x2⟩, ⟨"RTE_VER", 31, 16, .ro, 0x2⟩, ⟨"REC_VER", 15, 0, .ro, 0x2⟩]⟩,
  ⟨"SYS_CAP_SIZE", 0x10, [], 64,
    [⟨"LINK_PORTS", 55, 48, .ro, 0x12⟩, ⟨"HOST_PORTS", 47, 40, .ro, 0x4⟩, ⟨"STACKS", 39, 32, .ro, 0x18⟩, ⟨"ROPES", 31, 24, .ro, 0x10⟩, ⟨"CTRL_CORES", 23, 16, .ro, 0x10⟩, ⟨"CORES", 15, 0, .ro, 0x80⟩]⟩,
  ⟨"SYS_CAP_MEM", 0x18, [], 64,
    [⟨"STORE_MIB", 47, 32, .ro, 0x100⟩, ⟨"HBM_GIB", 31, 0, .ro, 0x480⟩]⟩,
  ⟨"SYS_CORE_SITE", 0x400, [(128, 0x4)], 32,
    [⟨"Y", 7, 4, .ro, 0x0⟩, ⟨"X", 3, 0, .ro, 0x0⟩]⟩,
  ⟨"SYS_CORE_OFF", 0x600, [], 32,
    [⟨"Y3", 31, 28, .ro, 0x0⟩, ⟨"X3", 27, 24, .ro, 0x0⟩, ⟨"Y2", 23, 20, .ro, 0x0⟩, ⟨"X2", 19, 16, .ro, 0x0⟩, ⟨"Y1", 15, 12, .ro, 0x0⟩, ⟨"X1", 11, 8, .ro, 0x0⟩, ⟨"Y0", 7, 4, .ro, 0x0⟩, ⟨"X0", 3, 0, .ro, 0x0⟩]⟩]

/-- The RTE_ registers (02_route_image.md). -/
def regTableRTE : List RegDesc := [
  ⟨"RTE_CTRL", 0x1000000, [], 32,
    [⟨"RESUME", 2, 2, .wo, 0x0⟩, ⟨"LOAD", 1, 1, .wo, 0x0⟩, ⟨"QUIESCE", 0, 0, .w1s, 0x1⟩]⟩,
  ⟨"RTE_STATUS", 0x1000008, [], 32,
    [⟨"CODE", 31, 24, .ro, 0x0⟩, ⟨"PHASE", 19, 16, .ro, 0x0⟩, ⟨"LOADED", 7, 7, .ro, 0x0⟩, ⟨"SOURCE", 5, 4, .ro, 0x0⟩, ⟨"LNK_BUSY", 3, 3, .ro, 0x0⟩, ⟨"UPD_BUSY", 2, 2, .ro, 0x0⟩, ⟨"STREAMS_BUSY", 1, 1, .ro, 0x0⟩, ⟨"QUIESCED", 0, 0, .ro, 0x0⟩]⟩,
  ⟨"RTE_SRC", 0x1000010, [], 64,
    [⟨"ADDR", 51, 12, .rw, 0x0⟩]⟩,
  ⟨"RTE_SEQ", 0x1000018, [], 64,
    [⟨"SEQ", 63, 0, .ro, 0x0⟩]⟩,
  ⟨"RTE_ERR", 0x1000020, [], 64,
    [⟨"SECTION", 63, 48, .ro, 0x0⟩, ⟨"OFFSET", 31, 0, .ro, 0x0⟩]⟩,
  ⟨"RTE_EVENT", 0x1000028, [], 32,
    [⟨"REJECT", 4, 4, .w1c, 0x0⟩, ⟨"PAIR_SKEW", 3, 3, .w1c, 0x0⟩, ⟨"COPY_BAD", 2, 2, .w1c, 0x0⟩, ⟨"LOAD_FAIL", 1, 1, .w1c, 0x0⟩, ⟨"LOAD_DONE", 0, 0, .w1c, 0x0⟩]⟩,
  ⟨"RTE_EVENT_CNT0", 0x1000030, [], 64,
    [⟨"PAIR_SKEW_CNT", 63, 48, .ro, 0x0⟩, ⟨"COPY_BAD_CNT", 47, 32, .ro, 0x0⟩, ⟨"LOAD_FAIL_CNT", 31, 16, .ro, 0x0⟩, ⟨"LOAD_DONE_CNT", 15, 0, .ro, 0x0⟩]⟩,
  ⟨"RTE_EVENT_CNT1", 0x1000038, [], 32,
    [⟨"REJECT_CNT", 15, 0, .ro, 0x0⟩]⟩]

/-- The CQ_ registers (03_queues_pitches_belays.md). -/
def regTableCQ : List RegDesc := [
  ⟨"CQ_SQ_BASE", 0x2000000, [(2048, 0x1000)], 64,
    [⟨"ADDR", 51, 12, .rw, 0x0⟩]⟩,
  ⟨"CQ_SQ_CFG", 0x2000008, [(2048, 0x1000)], 32,
    [⟨"CORE", 14, 8, .rw, 0x0⟩, ⟨"LOG_SIZE", 4, 0, .rw, 0x6⟩]⟩,
  ⟨"CQ_SQ_CTRL", 0x200000c, [(2048, 0x1000)], 32,
    [⟨"CANCEL", 2, 2, .wo, 0x0⟩, ⟨"OFF", 1, 1, .wo, 0x0⟩, ⟨"ON", 0, 0, .wo, 0x0⟩]⟩,
  ⟨"CQ_SQ_STATUS", 0x2000010, [(2048, 0x1000)], 64,
    [⟨"CODE", 63, 56, .ro, 0x0⟩, ⟨"STATE", 50, 48, .ro, 0x0⟩, ⟨"GEN", 47, 40, .ro, 0x0⟩, ⟨"TAIL", 31, 16, .ro, 0x0⟩, ⟨"HEAD", 15, 0, .ro, 0x0⟩]⟩,
  ⟨"CQ_DOORBELL", 0x2000018, [(2048, 0x1000)], 64,
    [⟨"SEAL_LO", 63, 48, .wo, 0x0⟩, ⟨"GEN", 47, 40, .wo, 0x0⟩, ⟨"TAIL", 15, 0, .wo, 0x0⟩]⟩,
  ⟨"CQ_CQ_BASE", 0x2000020, [(2048, 0x1000)], 64,
    [⟨"ADDR", 51, 12, .rw, 0x0⟩]⟩,
  ⟨"CQ_CQ_CFG", 0x2000028, [(2048, 0x1000)], 32,
    [⟨"HOST", 30, 28, .rw, 0x0⟩, ⟨"VEC", 26, 16, .rw, 0x0⟩, ⟨"LOG_SIZE", 4, 0, .rw, 0x6⟩]⟩,
  ⟨"CQ_CQ_HEAD", 0x2000030, [(2048, 0x1000)], 32,
    [⟨"HEAD", 15, 0, .rw, 0x0⟩]⟩,
  ⟨"CQ_CQ_TAIL", 0x2000034, [(2048, 0x1000)], 32,
    [⟨"PHASE", 16, 16, .ro, 0x0⟩, ⟨"TAIL", 15, 0, .ro, 0x0⟩]⟩,
  ⟨"CQ_FLUSH_ADDR", 0x2000038, [(2048, 0x1000)], 64,
    [⟨"ADDR", 51, 6, .rw, 0x0⟩, ⟨"EN", 0, 0, .rw, 0x0⟩]⟩,
  ⟨"CQ_FLUSH", 0x2000040, [(2048, 0x1000)], 32,
    [⟨"COUNT", 31, 0, .ro, 0x0⟩]⟩,
  ⟨"CQ_EVENT", 0x2000048, [(2048, 0x1000)], 32,
    [⟨"ECHO_DROP", 4, 4, .w1c, 0x0⟩, ⟨"DB_BAD", 3, 3, .w1c, 0x0⟩, ⟨"REJECT", 2, 2, .w1c, 0x0⟩, ⟨"CQ_FULL", 1, 1, .w1c, 0x0⟩, ⟨"STOP", 0, 0, .w1c, 0x0⟩]⟩,
  ⟨"CQ_EVENT_CNT0", 0x2000050, [(2048, 0x1000)], 64,
    [⟨"DB_BAD_CNT", 63, 48, .ro, 0x0⟩, ⟨"REJECT_CNT", 47, 32, .ro, 0x0⟩, ⟨"CQ_FULL_CNT", 31, 16, .ro, 0x0⟩, ⟨"STOP_CNT", 15, 0, .ro, 0x0⟩]⟩,
  ⟨"CQ_EVENT_CNT1", 0x2000058, [(2048, 0x1000)], 32,
    [⟨"ECHO_DROP_CNT", 15, 0, .ro, 0x0⟩]⟩,
  ⟨"CQ_DISCARD", 0x2000060, [(2048, 0x1000)], 64,
    [⟨"COUNT", 63, 0, .ro, 0x0⟩]⟩,
  ⟨"CQ_ANCHOR", 0x2800000, [(4096, 0x4)], 32,
    [⟨"VALUE", 31, 0, .rw, 0x0⟩]⟩,
  ⟨"CQ_ANCHOR_ADD", 0x2804000, [(4096, 0x4)], 32,
    [⟨"VALUE", 31, 0, .wo, 0x0⟩]⟩,
  ⟨"CQ_GEVENT", 0x2808000, [], 32,
    [⟨"DB_DISABLED", 16, 16, .w1c, 0x0⟩, ⟨"DB_DISABLED_CNT", 15, 0, .ro, 0x0⟩]⟩]

/-- The ME_ registers (04_matrix_engine.md). -/
def regTableME : List RegDesc := [
  ⟨"ME_MODE", 0x3000000, [(128, 0x1000)], 32,
    [⟨"LEAD", 18, 18, .ro, 0x0⟩, ⟨"MODE", 17, 16, .ro, 0x0⟩, ⟨"PARTNER", 15, 0, .ro, 0xffff⟩]⟩,
  ⟨"ME_SPARE", 0x3000008, [(128, 0x1000)], 32,
    [⟨"COL1", 27, 21, .ro, 0x0⟩, ⟨"COL0", 20, 14, .ro, 0x0⟩, ⟨"ROW1", 13, 7, .ro, 0x0⟩, ⟨"ROW0", 6, 0, .ro, 0x0⟩]⟩,
  ⟨"ME_STATUS", 0x3000010, [(128, 0x1000)], 32,
    [⟨"B1_TYPE", 15, 12, .ro, 0x0⟩, ⟨"B0_TYPE", 11, 8, .ro, 0x0⟩, ⟨"FP32_PAIR", 5, 5, .ro, 0x0⟩, ⟨"LOADING", 4, 4, .ro, 0x0⟩, ⟨"B1_VALID", 3, 3, .ro, 0x0⟩, ⟨"B0_VALID", 2, 2, .ro, 0x0⟩, ⟨"BUSY", 1, 1, .ro, 0x0⟩, ⟨"ACTIVE", 0, 0, .ro, 0x0⟩]⟩,
  ⟨"ME_STATUS_H1", 0x3000014, [(128, 0x1000)], 32,
    [⟨"B1_TYPE", 15, 12, .ro, 0x0⟩, ⟨"B0_TYPE", 11, 8, .ro, 0x0⟩, ⟨"FP32_PAIR", 5, 5, .ro, 0x0⟩, ⟨"LOADING", 4, 4, .ro, 0x0⟩, ⟨"B1_VALID", 3, 3, .ro, 0x0⟩, ⟨"B0_VALID", 2, 2, .ro, 0x0⟩, ⟨"BUSY", 1, 1, .ro, 0x0⟩, ⟨"ACTIVE", 0, 0, .ro, 0x0⟩]⟩,
  ⟨"ME_EVENT", 0x3000018, [(128, 0x1000)], 32,
    [⟨"POISON", 3, 3, .w1c, 0x0⟩, ⟨"SCALE_NAN", 2, 2, .w1c, 0x0⟩, ⟨"INF_OUT", 1, 1, .w1c, 0x0⟩, ⟨"NAN_OUT", 0, 0, .w1c, 0x0⟩]⟩,
  ⟨"ME_EVENT_CNT", 0x3000020, [(128, 0x1000)], 64,
    [⟨"POISON_CNT", 63, 48, .ro, 0x0⟩, ⟨"SCALE_NAN_CNT", 47, 32, .ro, 0x0⟩, ⟨"INF_OUT_CNT", 31, 16, .ro, 0x0⟩, ⟨"NAN_OUT_CNT", 15, 0, .ro, 0x0⟩]⟩,
  ⟨"ME_CNT_ISSUE", 0x3000028, [(128, 0x1000)], 64,
    [⟨"COUNT", 63, 0, .ro, 0x0⟩]⟩,
  ⟨"ME_CNT_LOADWAIT", 0x3000030, [(128, 0x1000)], 64,
    [⟨"COUNT", 63, 0, .ro, 0x0⟩]⟩,
  ⟨"ME_CNT_TILEWAIT", 0x3000038, [(128, 0x1000)], 64,
    [⟨"COUNT", 63, 0, .ro, 0x0⟩]⟩,
  ⟨"ME_CNT_MAC", 0x3000040, [(128, 0x1000)], 64,
    [⟨"COUNT", 63, 0, .ro, 0x0⟩]⟩]

/-- The ACC_ registers (05_accumulation_and_epilogue.md). -/
def regTableACC : List RegDesc := [
  ⟨"ACC_TAGS", 0x4000000, [(128, 0x1000)], 64,
    [⟨"TAG", 63, 0, .ro, 0x0⟩]⟩,
  ⟨"ACC_BUSY", 0x4000008, [(128, 0x1000)], 32,
    [⟨"TILES", 31, 0, .ro, 0x0⟩]⟩,
  ⟨"ACC_CFG", 0x4000010, [(128, 0x1000)], 32,
    [⟨"PROMO", 1, 0, .ro, 0x1⟩]⟩,
  ⟨"ACC_EVENT", 0x4000018, [(128, 0x1000)], 32,
    [⟨"POISON", 3, 3, .w1c, 0x0⟩, ⟨"SAT", 2, 2, .w1c, 0x0⟩, ⟨"INF_OUT", 1, 1, .w1c, 0x0⟩, ⟨"NAN_OUT", 0, 0, .w1c, 0x0⟩]⟩,
  ⟨"ACC_EVENT_CNT", 0x4000020, [(128, 0x1000)], 64,
    [⟨"POISON_CNT", 63, 48, .ro, 0x0⟩, ⟨"SAT_CNT", 47, 32, .ro, 0x0⟩, ⟨"INF_OUT_CNT", 31, 16, .ro, 0x0⟩, ⟨"NAN_OUT_CNT", 15, 0, .ro, 0x0⟩]⟩,
  ⟨"ACC_CNT_RUNS", 0x4000028, [(128, 0x1000)], 64,
    [⟨"COUNT", 63, 0, .ro, 0x0⟩]⟩,
  ⟨"ACC_CNT_PROMOWAIT", 0x4000030, [(128, 0x1000)], 64,
    [⟨"COUNT", 63, 0, .ro, 0x0⟩]⟩,
  ⟨"ACC_CNT_ROWS", 0x4000038, [(128, 0x1000)], 64,
    [⟨"COUNT", 63, 0, .ro, 0x0⟩]⟩]

/-- The VE_ registers (06_vector_engine.md). -/
def regTableVE : List RegDesc := [
  ⟨"VE_STATUS", 0x5000000, [(128, 0x1000)], 32,
    [⟨"OPCODE", 15, 8, .ro, 0x0⟩, ⟨"SLOT_HOLD", 1, 1, .ro, 0x0⟩, ⟨"BUSY", 0, 0, .ro, 0x0⟩]⟩,
  ⟨"VE_SLOTS", 0x5000008, [(128, 0x1000)], 32,
    [⟨"VALID", 15, 0, .ro, 0x0⟩]⟩,
  ⟨"VE_EVENT", 0x5000018, [(128, 0x1000)], 32,
    [⟨"POISON", 5, 5, .w1c, 0x0⟩, ⟨"SAT", 4, 4, .w1c, 0x0⟩, ⟨"DIVZERO", 3, 3, .w1c, 0x0⟩, ⟨"INVALID", 2, 2, .w1c, 0x0⟩, ⟨"INF_OUT", 1, 1, .w1c, 0x0⟩, ⟨"NAN_OUT", 0, 0, .w1c, 0x0⟩]⟩,
  ⟨"VE_EVENT_CNT0", 0x5000020, [(128, 0x1000)], 64,
    [⟨"DIVZERO_CNT", 63, 48, .ro, 0x0⟩, ⟨"INVALID_CNT", 47, 32, .ro, 0x0⟩, ⟨"INF_OUT_CNT", 31, 16, .ro, 0x0⟩, ⟨"NAN_OUT_CNT", 15, 0, .ro, 0x0⟩]⟩,
  ⟨"VE_EVENT_CNT1", 0x5000028, [(128, 0x1000)], 32,
    [⟨"POISON_CNT", 31, 16, .ro, 0x0⟩, ⟨"SAT_CNT", 15, 0, .ro, 0x0⟩]⟩,
  ⟨"VE_CNT_GROUPS", 0x5000030, [(128, 0x1000)], 64,
    [⟨"COUNT", 63, 0, .ro, 0x0⟩]⟩,
  ⟨"VE_CNT_SLOTS", 0x5000038, [(128, 0x1000)], 64,
    [⟨"COUNT", 63, 0, .ro, 0x0⟩]⟩,
  ⟨"VE_CNT_MEMWAIT", 0x5000040, [(128, 0x1000)], 64,
    [⟨"COUNT", 63, 0, .ro, 0x0⟩]⟩,
  ⟨"VE_SLOT_INFO", 0x5000100, [(128, 0x1000), (16, 0x4)], 32,
    [⟨"NINST", 23, 16, .ro, 0x0⟩, ⟨"PREC", 6, 6, .ro, 0x0⟩, ⟨"NOUT", 5, 4, .ro, 0x0⟩, ⟨"NIN", 3, 2, .ro, 0x0⟩, ⟨"KIND", 1, 0, .ro, 0x0⟩]⟩]

/-- The ATT_ registers (07_attention_kv_ranker.md). -/
def regTableATT : List RegDesc := [
  ⟨"ATT_STATUS", 0x6000000, [(128, 0x1000)], 32,
    [⟨"OPCODE", 15, 8, .ro, 0x0⟩, ⟨"MISSES", 4, 4, .ro, 0x0⟩, ⟨"EVICTING", 3, 3, .ro, 0x0⟩, ⟨"RANKING", 2, 2, .ro, 0x0⟩, ⟨"WALKING", 1, 1, .ro, 0x0⟩, ⟨"CTX_VALID", 0, 0, .ro, 0x0⟩]⟩,
  ⟨"ATT_EVENT", 0x6000018, [(128, 0x1000)], 32,
    [⟨"POISON", 4, 4, .w1c, 0x0⟩, ⟨"RANK_NAN", 3, 3, .w1c, 0x0⟩, ⟨"ROW_INF", 2, 2, .w1c, 0x0⟩, ⟨"ROW_NAN", 1, 1, .w1c, 0x0⟩, ⟨"ROW_EMPTY", 0, 0, .w1c, 0x0⟩]⟩,
  ⟨"ATT_EVENT_CNT0", 0x6000020, [(128, 0x1000)], 64,
    [⟨"RANK_NAN_CNT", 63, 48, .ro, 0x0⟩, ⟨"ROW_INF_CNT", 47, 32, .ro, 0x0⟩, ⟨"ROW_NAN_CNT", 31, 16, .ro, 0x0⟩, ⟨"ROW_EMPTY_CNT", 15, 0, .ro, 0x0⟩]⟩,
  ⟨"ATT_EVENT_CNT1", 0x6000028, [(128, 0x1000)], 32,
    [⟨"POISON_CNT", 15, 0, .ro, 0x0⟩]⟩,
  ⟨"ATT_CNT_EMPTY", 0x6000030, [(128, 0x1000)], 64,
    [⟨"COUNT", 63, 0, .ro, 0x0⟩]⟩,
  ⟨"ATT_CNT_LABHIT", 0x6000038, [(128, 0x1000)], 64,
    [⟨"COUNT", 63, 0, .ro, 0x0⟩]⟩,
  ⟨"ATT_CNT_LABMISS", 0x6000040, [(128, 0x1000)], 64,
    [⟨"COUNT", 63, 0, .ro, 0x0⟩]⟩,
  ⟨"ATT_CNT_RANKKEYS", 0x6000048, [(128, 0x1000)], 64,
    [⟨"COUNT", 63, 0, .ro, 0x0⟩]⟩,
  ⟨"ATT_KV_CFG", 0x6800000, [(16, 0x100)], 64,
    [⟨"LOW", 55, 40, .rw, 0x100⟩, ⟨"EVICT", 39, 27, .rw, 0x40⟩, ⟨"KEEPER", 26, 20, .rw, 0x0⟩, ⟨"RECENT", 19, 12, .rw, 0x2⟩, ⟨"SINK", 11, 4, .rw, 0x1⟩, ⟨"ROWB", 2, 0, .rw, 0x2⟩]⟩,
  ⟨"ATT_KV_FT", 0x6800008, [(16, 0x100)], 64,
    [⟨"ADDR", 51, 12, .rw, 0x0⟩]⟩,
  ⟨"ATT_KV_CTRL", 0x6800010, [(16, 0x100)], 32,
    [⟨"DISABLE", 1, 1, .wo, 0x0⟩, ⟨"INIT", 0, 0, .wo, 0x0⟩]⟩,
  ⟨"ATT_KV_STATUS", 0x6800018, [(16, 0x100)], 64,
    [⟨"LAST_EVICT", 59, 47, .ro, 0x0⟩, ⟨"FRAMES", 46, 30, .ro, 0x0⟩, ⟨"FREE", 29, 13, .ro, 0x0⟩, ⟨"INV_BUSY", 3, 3, .ro, 0x0⟩, ⟨"EVICTING", 2, 2, .ro, 0x0⟩, ⟨"READY", 1, 1, .ro, 0x0⟩, ⟨"POOL", 0, 0, .ro, 0x0⟩]⟩,
  ⟨"ATT_KV_EVENT", 0x6800020, [(16, 0x100)], 32,
    [⟨"REJECT", 4, 4, .w1c, 0x0⟩, ⟨"TIMEOUT", 3, 3, .w1c, 0x0⟩, ⟨"KV_FULL", 2, 2, .w1c, 0x0⟩, ⟨"PIN_FULL", 1, 1, .w1c, 0x0⟩, ⟨"TRIP", 0, 0, .w1c, 0x0⟩]⟩,
  ⟨"ATT_KV_EVENT_CNT0", 0x6800028, [(16, 0x100)], 64,
    [⟨"TIMEOUT_CNT", 63, 48, .ro, 0x0⟩, ⟨"KV_FULL_CNT", 47, 32, .ro, 0x0⟩, ⟨"PIN_FULL_CNT", 31, 16, .ro, 0x0⟩, ⟨"TRIP_CNT", 15, 0, .ro, 0x0⟩]⟩,
  ⟨"ATT_KV_EVENT_CNT1", 0x6800030, [(16, 0x100)], 32,
    [⟨"REJECT_CNT", 15, 0, .ro, 0x0⟩]⟩,
  ⟨"ATT_LAB_INV", 0x6800038, [(16, 0x100)], 64,
    [⟨"ALL", 63, 63, .wo, 0x0⟩, ⟨"SEQ", 55, 32, .wo, 0x0⟩, ⟨"LP", 31, 0, .wo, 0x0⟩]⟩,
  ⟨"ATT_WALK_CFG", 0x6810000, [], 32,
    [⟨"MISS_TIMEOUT", 15, 0, .rw, 0x64⟩]⟩]

/-- The MEM_ registers (08_memory_tiers.md). -/
def regTableMEM : List RegDesc := [
  ⟨"MEM_CFG", 0x7000000, [], 32,
    [⟨"REF_MODE", 24, 24, .rw, 0x0⟩, ⟨"SCRUB_H", 23, 16, .rw, 0x18⟩, ⟨"CE_LIMIT", 15, 0, .rw, 0x3e8⟩]⟩,
  ⟨"MEM_SEAL_OP", 0x7000008, [], 64,
    [⟨"OP", 63, 62, .wo, 0x0⟩, ⟨"SPILL", 61, 61, .wo, 0x0⟩, ⟨"SLOT", 60, 57, .wo, 0x0⟩, ⟨"HOST", 56, 54, .wo, 0x0⟩, ⟨"COUNT", 39, 20, .wo, 0x0⟩, ⟨"FIRST", 19, 0, .wo, 0x0⟩]⟩,
  ⟨"MEM_SEAL_STATUS", 0x7000010, [], 64,
    [⟨"CODE", 63, 56, .ro, 0x0⟩, ⟨"BUSY", 32, 32, .ro, 0x0⟩, ⟨"HELD", 31, 0, .ro, 0x0⟩]⟩,
  ⟨"MEM_EVENT", 0x7000018, [], 32,
    [⟨"REJECT", 5, 5, .w1c, 0x0⟩, ⟨"CE_STORM", 4, 4, .w1c, 0x0⟩, ⟨"PC_DOWN", 3, 3, .w1c, 0x0⟩, ⟨"TIMEOUT", 2, 2, .w1c, 0x0⟩, ⟨"UNCORR", 1, 1, .w1c, 0x0⟩, ⟨"BREACH", 0, 0, .w1c, 0x0⟩]⟩,
  ⟨"MEM_EVENT_CNT0", 0x7000020, [], 64,
    [⟨"PC_DOWN_CNT", 63, 48, .ro, 0x0⟩, ⟨"TIMEOUT_CNT", 47, 32, .ro, 0x0⟩, ⟨"UNCORR_CNT", 31, 16, .ro, 0x0⟩, ⟨"BREACH_CNT", 15, 0, .ro, 0x0⟩]⟩,
  ⟨"MEM_EVENT_CNT1", 0x7000028, [], 32,
    [⟨"REJECT_CNT", 31, 16, .ro, 0x0⟩, ⟨"CE_STORM_CNT", 15, 0, .ro, 0x0⟩]⟩,
  ⟨"MEM_ERR_ADDR", 0x7000030, [], 64,
    [⟨"KIND", 63, 60, .ro, 0x0⟩, ⟨"ADDR", 51, 0, .ro, 0x0⟩]⟩,
  ⟨"MEM_ERR_SRC", 0x7000038, [], 32,
    [⟨"SOURCE", 31, 28, .ro, 0x0⟩, ⟨"ID", 15, 0, .ro, 0x0⟩]⟩,
  ⟨"MEM_BREACH_ADDR", 0x7000040, [], 64,
    [⟨"SOURCE", 63, 60, .ro, 0x0⟩, ⟨"ID", 59, 52, .ro, 0x0⟩, ⟨"ADDR", 51, 0, .ro, 0x0⟩]⟩,
  ⟨"MEM_SPILL_SEAL", 0x7008000, [(8, 0x80), (16, 0x8)], 64,
    [⟨"STATE", 63, 62, .ro, 0x0⟩, ⟨"COUNT", 39, 20, .ro, 0x0⟩, ⟨"FIRST", 18, 0, .ro, 0x0⟩]⟩,
  ⟨"MEM_SPILL_RD", 0x7009000, [(8, 0x10)], 64,
    [⟨"COUNT", 63, 0, .ro, 0x0⟩]⟩,
  ⟨"MEM_SPILL_WR", 0x7009008, [(8, 0x10)], 64,
    [⟨"COUNT", 63, 0, .ro, 0x0⟩]⟩,
  ⟨"MEM_SEAL_MAP", 0x7010000, [(36864, 0x4)], 32,
    [⟨"STATE", 31, 0, .ro, 0x0⟩]⟩,
  ⟨"MEM_STK_STATUS", 0x7100000, [(24, 0x1000)], 32,
    [⟨"TEMP", 15, 8, .ro, 0x0⟩, ⟨"REF_2X", 1, 1, .ro, 0x0⟩, ⟨"UP", 0, 0, .ro, 0x0⟩]⟩,
  ⟨"MEM_STK_PC_DOWN", 0x7100008, [(24, 0x1000)], 64,
    [⟨"DOWN", 63, 0, .ro, 0x0⟩]⟩,
  ⟨"MEM_STK_RD", 0x7100010, [(24, 0x1000)], 64,
    [⟨"COUNT", 63, 0, .ro, 0x0⟩]⟩,
  ⟨"MEM_STK_WR", 0x7100018, [(24, 0x1000)], 64,
    [⟨"COUNT", 63, 0, .ro, 0x0⟩]⟩,
  ⟨"MEM_STK_BW", 0x7100020, [(24, 0x1000)], 64,
    [⟨"BYTES", 63, 0, .ro, 0x0⟩]⟩,
  ⟨"MEM_STK_CE", 0x7100028, [(24, 0x1000)], 64,
    [⟨"COUNT", 63, 0, .ro, 0x0⟩]⟩,
  ⟨"MEM_STK_LATE", 0x7100030, [(24, 0x1000)], 64,
    [⟨"COUNT", 63, 0, .ro, 0x0⟩]⟩]

/-- The HAUL_ registers (09_haul_and_porter.md). -/
def regTableHAUL : List RegDesc := [
  ⟨"HAUL_STATUS", 0x8000000, [(128, 0x1000)], 32,
    [⟨"PREFETCH", 28, 28, .ro, 0x0⟩, ⟨"OUTSTANDING", 27, 16, .ro, 0x0⟩, ⟨"OPEN", 9, 0, .ro, 0x0⟩]⟩,
  ⟨"HAUL_LPOOL", 0x8000008, [(128, 0x1000)], 32,
    [⟨"COUNT", 22, 16, .rw, 0x0⟩, ⟨"FIRST", 6, 0, .rw, 0x0⟩]⟩,
  ⟨"HAUL_LPOOL_STATUS", 0x8000010, [(128, 0x1000)], 64,
    [⟨"STUCK", 61, 61, .ro, 0x0⟩, ⟨"GRANT", 60, 60, .ro, 0x0⟩, ⟨"WAITERS", 59, 43, .ro, 0x0⟩, ⟨"RES", 38, 26, .ro, 0x0⟩, ⟨"HELD", 25, 13, .ro, 0x0⟩, ⟨"CAP", 12, 0, .ro, 0x0⟩]⟩,
  ⟨"HAUL_SPOOL", 0x8800000, [(64, 0x8)], 64,
    [⟨"STUCK", 61, 61, .ro, 0x0⟩, ⟨"GRANT", 60, 60, .ro, 0x0⟩, ⟨"WAITERS", 59, 43, .ro, 0x0⟩, ⟨"RES", 38, 26, .ro, 0x0⟩, ⟨"HELD", 25, 13, .ro, 0x0⟩, ⟨"CAP", 12, 0, .ro, 0x0⟩]⟩,
  ⟨"HAUL_CTX", 0x8400000, [(128, 0x1000), (512, 0x8)], 64,
    [⟨"HELD", 51, 40, .ro, 0x0⟩, ⟨"OPEN", 31, 31, .ro, 0x0⟩, ⟨"WAITING", 30, 30, .ro, 0x0⟩, ⟨"POOL", 29, 23, .ro, 0x0⟩, ⟨"WINDOWS", 22, 18, .ro, 0x0⟩, ⟨"MAXB", 11, 0, .ro, 0x0⟩]⟩,
  ⟨"HAUL_EVENT", 0x8000018, [(128, 0x1000)], 32,
    [⟨"REJECT", 3, 3, .w1c, 0x0⟩, ⟨"POISON", 2, 2, .w1c, 0x0⟩, ⟨"STUCK", 1, 1, .w1c, 0x0⟩, ⟨"MUTUAL_WAIT", 0, 0, .w1c, 0x0⟩]⟩,
  ⟨"HAUL_EVENT_CNT", 0x8000020, [(128, 0x1000)], 64,
    [⟨"REJECT_CNT", 63, 48, .ro, 0x0⟩, ⟨"POISON_CNT", 47, 32, .ro, 0x0⟩, ⟨"STUCK_CNT", 31, 16, .ro, 0x0⟩, ⟨"MUTUAL_WAIT_CNT", 15, 0, .ro, 0x0⟩]⟩,
  ⟨"HAUL_GEVENT", 0x8810000, [], 32,
    [⟨"STUCK", 1, 1, .w1c, 0x0⟩, ⟨"MUTUAL_WAIT", 0, 0, .w1c, 0x0⟩]⟩,
  ⟨"HAUL_GEVENT_CNT", 0x8810008, [], 32,
    [⟨"STUCK_CNT", 31, 16, .ro, 0x0⟩, ⟨"MUTUAL_WAIT_CNT", 15, 0, .ro, 0x0⟩]⟩,
  ⟨"HAUL_CNT_RD", 0x8000028, [(128, 0x1000)], 64,
    [⟨"COUNT", 63, 0, .ro, 0x0⟩]⟩,
  ⟨"HAUL_CNT_WR", 0x8000030, [(128, 0x1000)], 64,
    [⟨"COUNT", 63, 0, .ro, 0x0⟩]⟩,
  ⟨"HAUL_CNT_DROP", 0x8000038, [(128, 0x1000)], 64,
    [⟨"COUNT", 63, 0, .ro, 0x0⟩]⟩,
  ⟨"HAUL_CNT_DROPB", 0x8000040, [(128, 0x1000)], 64,
    [⟨"COUNT", 63, 0, .ro, 0x0⟩]⟩,
  ⟨"HAUL_CNT_CREDITWAIT", 0x8000048, [(128, 0x1000)], 64,
    [⟨"COUNT", 63, 0, .ro, 0x0⟩]⟩,
  ⟨"HAUL_CNT_PORTER", 0x8000050, [(128, 0x1000)], 64,
    [⟨"COUNT", 63, 0, .ro, 0x0⟩]⟩,
  ⟨"HAUL_CNT_RESERVE", 0x8000058, [(128, 0x1000)], 64,
    [⟨"COUNT", 63, 0, .ro, 0x0⟩]⟩]

/-- The UPD_ registers (10_training_state_update.md). -/
def regTableUPD : List RegDesc := [
  ⟨"UPD_SHARD_TBL", 0x9000000, [], 64,
    [⟨"ADDR", 51, 12, .rw, 0x0⟩]⟩,
  ⟨"UPD_GROUP_TBL", 0x9000010, [], 64,
    [⟨"ADDR", 51, 12, .rw, 0x0⟩]⟩,
  ⟨"UPD_NORM_TBL", 0x9000018, [], 64,
    [⟨"ADDR", 51, 12, .rw, 0x0⟩]⟩,
  ⟨"UPD_REC_TBL", 0x9000020, [], 64,
    [⟨"ADDR", 51, 12, .rw, 0x0⟩]⟩,
  ⟨"UPD_DIG_TBL", 0x9000028, [], 64,
    [⟨"ADDR", 51, 12, .rw, 0x0⟩]⟩,
  ⟨"UPD_SHARD_CNT", 0x9000008, [], 32,
    [⟨"COUNT", 12, 0, .rw, 0x0⟩]⟩,
  ⟨"UPD_JOURNAL", 0x9000030, [], 64,
    [⟨"ADDR", 51, 12, .rw, 0x0⟩, ⟨"EN", 0, 0, .rw, 0x0⟩]⟩,
  ⟨"UPD_NORM_LIMIT", 0x9000038, [], 32,
    [⟨"LIMIT", 31, 0, .rw, 0x7f800000⟩]⟩,
  ⟨"UPD_VERDICT", 0x9000040, [], 64,
    [⟨"STEP", 63, 0, .ro, 0x0⟩]⟩,
  ⟨"UPD_NORM", 0x9000048, [], 64,
    [⟨"NORM", 63, 32, .ro, 0x0⟩, ⟨"CLIP", 31, 0, .ro, 0x0⟩]⟩,
  ⟨"UPD_STATUS", 0x9000050, [], 32,
    [⟨"VERDICT", 7, 6, .ro, 0x0⟩, ⟨"SNAP_BUSY", 3, 3, .ro, 0x0⟩, ⟨"HELD", 2, 2, .ro, 0x0⟩, ⟨"NORM_BUSY", 1, 1, .ro, 0x0⟩, ⟨"SWEEP_BUSY", 0, 0, .ro, 0x0⟩]⟩,
  ⟨"UPD_CURSOR", 0x9000058, [], 64,
    [⟨"STATE", 63, 62, .ro, 0x0⟩, ⟨"JOURNAL", 61, 61, .ro, 0x0⟩, ⟨"CHUNK", 47, 32, .ro, 0x0⟩, ⟨"SHARD", 12, 0, .ro, 0x0⟩]⟩,
  ⟨"UPD_CURSOR_STEP", 0x9000060, [], 64,
    [⟨"STEP", 63, 0, .ro, 0x0⟩]⟩,
  ⟨"UPD_EVENT", 0x9000068, [], 32,
    [⟨"NONFINITE", 4, 4, .w1c, 0x0⟩, ⟨"REJECT", 3, 3, .w1c, 0x0⟩, ⟨"REPLAY", 2, 2, .w1c, 0x0⟩, ⟨"TORN", 1, 1, .w1c, 0x0⟩, ⟨"SKIP", 0, 0, .w1c, 0x0⟩]⟩,
  ⟨"UPD_EVENT_CNT0", 0x9000070, [], 64,
    [⟨"REJECT_CNT", 63, 48, .ro, 0x0⟩, ⟨"REPLAY_CNT", 47, 32, .ro, 0x0⟩, ⟨"TORN_CNT", 31, 16, .ro, 0x0⟩, ⟨"SKIP_CNT", 15, 0, .ro, 0x0⟩]⟩,
  ⟨"UPD_EVENT_CNT1", 0x9000078, [], 32,
    [⟨"NONFINITE_CNT", 15, 0, .ro, 0x0⟩]⟩,
  ⟨"UPD_CNT_SKIP", 0x9000080, [], 64,
    [⟨"COUNT", 63, 0, .ro, 0x0⟩]⟩,
  ⟨"UPD_CNT_PARAMS", 0x9000088, [], 64,
    [⟨"COUNT", 63, 0, .ro, 0x0⟩]⟩,
  ⟨"UPD_CNT_PASSED", 0x9000090, [], 64,
    [⟨"COUNT", 63, 0, .ro, 0x0⟩]⟩,
  ⟨"UPD_CNT_REPLAY", 0x9000098, [], 64,
    [⟨"COUNT", 63, 0, .ro, 0x0⟩]⟩,
  ⟨"UPD_CNT_SNAPB", 0x90000a0, [], 64,
    [⟨"COUNT", 63, 0, .ro, 0x0⟩]⟩,
  ⟨"UPD_RULE_INFO", 0x9000100, [(8, 0x4)], 32,
    [⟨"NINST", 23, 16, .ro, 0x0⟩, ⟨"NOUT", 4, 3, .ro, 0x0⟩, ⟨"NIN", 2, 1, .ro, 0x0⟩, ⟨"VALID", 0, 0, .ro, 0x0⟩]⟩]

/-- The LNK_ registers (11_aedlink_parties.md). -/
def regTableLNK : List RegDesc := [
  ⟨"LNK_PORT_CTRL", 0xa000000, [(18, 0x1000)], 32,
    [⟨"RETRAIN", 1, 1, .wo, 0x0⟩, ⟨"DISABLE", 0, 0, .rw, 0x0⟩]⟩,
  ⟨"LNK_PORT_STATUS", 0xa000008, [(18, 0x1000)], 64,
    [⟨"PEER_MEMBER", 63, 47, .ro, 0x0⟩, ⟨"PEER_PORT", 46, 42, .ro, 0x0⟩, ⟨"PEER_PARTY", 41, 34, .ro, 0xff⟩, ⟨"LANES_UP", 7, 4, .ro, 0x0⟩, ⟨"PLAN_OK", 3, 3, .ro, 0x0⟩, ⟨"MODE", 2, 2, .ro, 0x0⟩, ⟨"STATE", 1, 0, .ro, 0x0⟩]⟩,
  ⟨"LNK_PORT_EVENT", 0xa000010, [(18, 0x1000)], 32,
    [⟨"PLAN_BAD", 3, 3, .w1c, 0x0⟩, ⟨"REPLAY", 2, 2, .w1c, 0x0⟩, ⟨"FEC_UNCORR", 1, 1, .w1c, 0x0⟩, ⟨"DOWN", 0, 0, .w1c, 0x0⟩]⟩,
  ⟨"LNK_PORT_EVENT_CNT", 0xa000018, [(18, 0x1000)], 64,
    [⟨"PLAN_BAD_CNT", 63, 48, .ro, 0x0⟩, ⟨"REPLAY_CNT", 47, 32, .ro, 0x0⟩, ⟨"FEC_UNCORR_CNT", 31, 16, .ro, 0x0⟩, ⟨"DOWN_CNT", 15, 0, .ro, 0x0⟩]⟩,
  ⟨"LNK_PORT_CNT_TXB", 0xa000020, [(18, 0x1000)], 64,
    [⟨"COUNT", 63, 0, .ro, 0x0⟩]⟩,
  ⟨"LNK_PORT_CNT_RXB", 0xa000028, [(18, 0x1000)], 64,
    [⟨"COUNT", 63, 0, .ro, 0x0⟩]⟩,
  ⟨"LNK_PORT_CNT_REPLAYB", 0xa000030, [(18, 0x1000)], 64,
    [⟨"COUNT", 63, 0, .ro, 0x0⟩]⟩,
  ⟨"LNK_PORT_CNT_FECC", 0xa000038, [(18, 0x1000)], 64,
    [⟨"COUNT", 63, 0, .ro, 0x0⟩]⟩,
  ⟨"LNK_PORT_CNT_RETX", 0xa000040, [(18, 0x1000)], 64,
    [⟨"COUNT", 63, 0, .ro, 0x0⟩]⟩,
  ⟨"LNK_PORT_CNT_BADFRAME", 0xa000048, [(18, 0x1000)], 64,
    [⟨"COUNT", 63, 0, .ro, 0x0⟩]⟩,
  ⟨"LNK_PORT_CNT_ETHDROP", 0xa000050, [(18, 0x1000)], 64,
    [⟨"COUNT", 63, 0, .ro, 0x0⟩]⟩,
  ⟨"LNK_PARTY_STATUS", 0xa800000, [(4, 0x100)], 64,
    [⟨"MEMBERS", 63, 46, .ro, 0x0⟩, ⟨"MEMBER", 45, 29, .ro, 0x0⟩, ⟨"BUSY", 7, 7, .ro, 0x0⟩, ⟨"READY", 6, 6, .ro, 0x0⟩, ⟨"BIDIR", 5, 5, .ro, 0x0⟩, ⟨"NLEVEL", 4, 3, .ro, 0x0⟩, ⟨"TOPO", 2, 2, .ro, 0x0⟩, ⟨"SUM", 1, 1, .ro, 0x0⟩, ⟨"VALID", 0, 0, .ro, 0x0⟩]⟩,
  ⟨"LNK_PARTY_SEQ", 0xa800008, [(4, 0x100)], 64,
    [⟨"RSEQ", 63, 0, .rw, 0x0⟩]⟩,
  ⟨"LNK_PUT_WIN", 0xa800010, [(4, 0x100)], 64,
    [⟨"PAGES", 63, 52, .rw, 0x0⟩, ⟨"BASE", 51, 21, .rw, 0x0⟩]⟩,
  ⟨"LNK_DIV_LAST", 0xa800018, [(4, 0x100)], 64,
    [⟨"SOURCE", 63, 47, .ro, 0x0⟩, ⟨"VALUES", 44, 42, .ro, 0x0⟩, ⟨"KIND", 41, 41, .ro, 0x0⟩, ⟨"TORN", 40, 40, .ro, 0x0⟩, ⟨"SHARD", 12, 0, .ro, 0x0⟩]⟩,
  ⟨"LNK_CNT_FP_DISCARD", 0xa800020, [(4, 0x100)], 64,
    [⟨"COUNT", 63, 0, .ro, 0x0⟩]⟩,
  ⟨"LNK_CFG", 0xa810000, [], 32,
    [⟨"RED_TIMEOUT", 31, 16, .rw, 0x3e8⟩, ⟨"VLAN_EN", 15, 15, .rw, 0x0⟩, ⟨"PRIO", 14, 12, .rw, 0x3⟩, ⟨"VID", 11, 0, .rw, 0x0⟩]⟩,
  ⟨"LNK_EVENT", 0xa810008, [], 32,
    [⟨"REJECT", 5, 5, .w1c, 0x0⟩, ⟨"FP_DISCARD", 4, 4, .w1c, 0x0⟩, ⟨"UNREACHABLE", 3, 3, .w1c, 0x0⟩, ⟨"TIMEOUT", 2, 2, .w1c, 0x0⟩, ⟨"MISMATCH", 1, 1, .w1c, 0x0⟩, ⟨"DIVERGE", 0, 0, .w1c, 0x0⟩]⟩,
  ⟨"LNK_EVENT_CNT0", 0xa810010, [], 64,
    [⟨"UNREACHABLE_CNT", 63, 48, .ro, 0x0⟩, ⟨"TIMEOUT_CNT", 47, 32, .ro, 0x0⟩, ⟨"MISMATCH_CNT", 31, 16, .ro, 0x0⟩, ⟨"DIVERGE_CNT", 15, 0, .ro, 0x0⟩]⟩,
  ⟨"LNK_EVENT_CNT1", 0xa810018, [], 32,
    [⟨"REJECT_CNT", 31, 16, .ro, 0x0⟩, ⟨"FP_DISCARD_CNT", 15, 0, .ro, 0x0⟩]⟩]

/-- The HST_ registers (13_hosts_and_mailboxes.md). -/
def regTableHST : List RegDesc := [
  ⟨"HST_HOST_STATUS", 0xb000000, [(8, 0x1000)], 32,
    [⟨"WIDTH", 11, 8, .ro, 0x0⟩, ⟨"SPEED", 7, 6, .ro, 0x0⟩, ⟨"MSIX_EN", 2, 2, .ro, 0x0⟩, ⟨"HDM_EN", 1, 1, .ro, 0x0⟩, ⟨"UP", 0, 0, .ro, 0x0⟩]⟩,
  ⟨"HST_HDM_BASE", 0xb000008, [(8, 0x1000)], 64,
    [⟨"BASE", 63, 28, .ro, 0x0⟩]⟩,
  ⟨"HST_SPILL_CFG", 0xb000010, [(8, 0x1000)], 64,
    [⟨"BASE", 63, 12, .rw, 0x0⟩, ⟨"EN", 0, 0, .rw, 0x0⟩]⟩,
  ⟨"HST_SPILL_SIZE", 0xb000018, [(8, 0x1000)], 32,
    [⟨"GIB", 10, 0, .rw, 0x0⟩]⟩,
  ⟨"HST_HOST_EVENT", 0xb000020, [(8, 0x1000)], 32,
    [⟨"REJECT", 6, 6, .w1c, 0x0⟩, ⟨"MSIX_DROP", 5, 5, .w1c, 0x0⟩, ⟨"SNOOP_TIMEOUT", 4, 4, .w1c, 0x0⟩, ⟨"SPILL_ERR", 3, 3, .w1c, 0x0⟩, ⟨"SPILL_TIMEOUT", 2, 2, .w1c, 0x0⟩, ⟨"DEGRADED", 1, 1, .w1c, 0x0⟩, ⟨"LINK_DOWN", 0, 0, .w1c, 0x0⟩]⟩,
  ⟨"HST_HOST_EVENT_CNT0", 0xb000028, [(8, 0x1000)], 64,
    [⟨"SPILL_ERR_CNT", 63, 48, .ro, 0x0⟩, ⟨"SPILL_TIMEOUT_CNT", 47, 32, .ro, 0x0⟩, ⟨"DEGRADED_CNT", 31, 16, .ro, 0x0⟩, ⟨"LINK_DOWN_CNT", 15, 0, .ro, 0x0⟩]⟩,
  ⟨"HST_HOST_EVENT_CNT1", 0xb000030, [(8, 0x1000)], 64,
    [⟨"REJECT_CNT", 47, 32, .ro, 0x0⟩, ⟨"MSIX_DROP_CNT", 31, 16, .ro, 0x0⟩, ⟨"SNOOP_TIMEOUT_CNT", 15, 0, .ro, 0x0⟩]⟩,
  ⟨"HST_CNT_FLIP", 0xb000038, [(8, 0x1000)], 64,
    [⟨"COUNT", 63, 0, .ro, 0x0⟩]⟩,
  ⟨"HST_CNT_SNOOP", 0xb000040, [(8, 0x1000)], 64,
    [⟨"COUNT", 63, 0, .ro, 0x0⟩]⟩,
  ⟨"HST_CFG", 0xb800000, [], 32,
    [⟨"SPILL_TIMEOUT", 15, 0, .rw, 0x32⟩]⟩,
  ⟨"HST_PORT_STATUS", 0xb800008, [(4, 0x8)], 32,
    [⟨"SPLIT", 0, 0, .ro, 0x0⟩]⟩,
  ⟨"HST_BIAS_OP", 0xb800040, [], 64,
    [⟨"OP", 63, 62, .wo, 0x0⟩, ⟨"COUNT", 39, 20, .wo, 0x0⟩, ⟨"FIRST", 19, 0, .wo, 0x0⟩]⟩,
  ⟨"HST_BIAS_STATUS", 0xb800048, [], 64,
    [⟨"CODE", 63, 56, .ro, 0x0⟩, ⟨"BUSY", 32, 32, .ro, 0x0⟩, ⟨"LEFT", 19, 0, .ro, 0x0⟩]⟩,
  ⟨"HST_GEVENT", 0xb800050, [], 32,
    [⟨"REJECT", 1, 1, .w1c, 0x0⟩, ⟨"BIAS_LOST", 0, 0, .w1c, 0x0⟩]⟩,
  ⟨"HST_GEVENT_CNT", 0xb800058, [], 32,
    [⟨"REJECT_CNT", 31, 16, .ro, 0x0⟩, ⟨"BIAS_LOST_CNT", 15, 0, .ro, 0x0⟩]⟩,
  ⟨"HST_CNT_BIAS_LOST", 0xb800060, [], 64,
    [⟨"COUNT", 63, 0, .ro, 0x0⟩]⟩,
  ⟨"HST_CC_STATUS", 0xb800100, [(16, 0x8)], 64,
    [⟨"RUN", 32, 32, .ro, 0x0⟩, ⟨"HEARTBEAT", 31, 0, .rw, 0x0⟩]⟩,
  ⟨"HST_BIAS_MAP", 0xb810000, [(36864, 0x4)], 32,
    [⟨"STATE", 31, 0, .ro, 0x0⟩]⟩]

/-- The MBX_ registers (13_hosts_and_mailboxes.md). -/
def regTableMBX : List RegDesc := [
  ⟨"MBX_DN_DATA", 0xc000000, [(32, 0x1000), (16, 0x4)], 32,
    [⟨"WORD", 31, 0, .rw, 0x0⟩]⟩,
  ⟨"MBX_UP_DATA", 0xc000080, [(32, 0x1000), (16, 0x4)], 32,
    [⟨"WORD", 31, 0, .rw, 0x0⟩]⟩,
  ⟨"MBX_DN_POST", 0xc000040, [(32, 0x1000)], 32,
    [⟨"POST", 0, 0, .wo, 0x0⟩]⟩,
  ⟨"MBX_UP_POST", 0xc0000c0, [(32, 0x1000)], 32,
    [⟨"POST", 0, 0, .wo, 0x0⟩]⟩,
  ⟨"MBX_DN_TAKE", 0xc000044, [(32, 0x1000)], 32,
    [⟨"FULL", 0, 0, .rc, 0x0⟩]⟩,
  ⟨"MBX_UP_TAKE", 0xc0000c4, [(32, 0x1000)], 32,
    [⟨"FULL", 0, 0, .rc, 0x0⟩]⟩,
  ⟨"MBX_DN_CTRL", 0xc000048, [(32, 0x1000)], 32,
    [⟨"WITHDRAW", 0, 0, .wo, 0x0⟩]⟩,
  ⟨"MBX_UP_CTRL", 0xc0000c8, [(32, 0x1000)], 32,
    [⟨"WITHDRAW", 0, 0, .wo, 0x0⟩]⟩,
  ⟨"MBX_STATUS", 0xc000100, [(32, 0x1000)], 32,
    [⟨"UP_FULL", 1, 1, .ro, 0x0⟩, ⟨"DN_FULL", 0, 0, .ro, 0x0⟩]⟩,
  ⟨"MBX_CFG", 0xc000108, [(32, 0x1000)], 32,
    [⟨"TIMEOUT_MS", 31, 16, .rw, 0xa⟩, ⟨"IRQ", 11, 11, .rw, 0x0⟩, ⟨"VEC", 10, 0, .rw, 0x0⟩]⟩,
  ⟨"MBX_EVENT", 0xc000110, [(32, 0x1000)], 32,
    [⟨"WITHDRAW_LOST", 4, 4, .w1c, 0x0⟩, ⟨"UP_OVERRUN", 3, 3, .w1c, 0x0⟩, ⟨"DN_OVERRUN", 2, 2, .w1c, 0x0⟩, ⟨"UP_TIMEOUT", 1, 1, .w1c, 0x0⟩, ⟨"DN_TIMEOUT", 0, 0, .w1c, 0x0⟩]⟩,
  ⟨"MBX_EVENT_CNT0", 0xc000118, [(32, 0x1000)], 64,
    [⟨"UP_OVERRUN_CNT", 63, 48, .ro, 0x0⟩, ⟨"DN_OVERRUN_CNT", 47, 32, .ro, 0x0⟩, ⟨"UP_TIMEOUT_CNT", 31, 16, .ro, 0x0⟩, ⟨"DN_TIMEOUT_CNT", 15, 0, .ro, 0x0⟩]⟩,
  ⟨"MBX_EVENT_CNT1", 0xc000120, [(32, 0x1000)], 32,
    [⟨"WITHDRAW_LOST_CNT", 15, 0, .ro, 0x0⟩]⟩]

/-- The SIO_ registers (14_siolo_cairn_log.md). -/
def regTableSIO : List RegDesc := [
  ⟨"SIO_STATUS", 0xd000000, [], 32,
    [⟨"RESET_CNT", 15, 8, .ro, 0x0⟩, ⟨"TRIP_OC", 3, 3, .ro, 0x0⟩, ⟨"TRIP_THERM", 2, 2, .ro, 0x0⟩, ⟨"OVERLOAD", 1, 1, .ro, 0x0⟩, ⟨"RUN", 0, 0, .ro, 0x0⟩]⟩,
  ⟨"SIO_LOAD", 0xd000008, [], 32,
    [⟨"STRETCH", 18, 16, .ro, 0x1⟩, ⟨"LOAD", 9, 0, .ro, 0x0⟩]⟩,
  ⟨"SIO_THERM_CFG", 0xd000010, [], 32,
    [⟨"TRIP", 15, 8, .rw, 0x69⟩, ⟨"WARN", 7, 0, .rw, 0x64⟩]⟩,
  ⟨"SIO_LOG_BASE", 0xd000020, [], 64,
    [⟨"ADDR", 51, 21, .rw, 0x0⟩, ⟨"EN", 0, 0, .rw, 0x0⟩]⟩,
  ⟨"SIO_LOG_HEAD", 0xd000028, [], 32,
    [⟨"HEAD", 17, 0, .ro, 0x0⟩]⟩,
  ⟨"SIO_LOG_TAIL", 0xd00002c, [], 32,
    [⟨"TAIL", 17, 0, .rw, 0x0⟩]⟩,
  ⟨"SIO_TRACE_EN0", 0xd000040, [], 64,
    [⟨"EN", 63, 0, .rw, 0x0⟩]⟩,
  ⟨"SIO_TRACE_EN1", 0xd000048, [], 64,
    [⟨"EN", 63, 0, .rw, 0x0⟩]⟩,
  ⟨"SIO_STEP", 0xd000050, [], 64,
    [⟨"STEP", 63, 0, .ro, 0x0⟩]⟩,
  ⟨"SIO_ALARM_STATUS", 0xd000060, [], 32,
    [⟨"FULL_CNT", 23, 8, .ro, 0x0⟩, ⟨"FULL", 7, 7, .w1c, 0x0⟩, ⟨"PENDING", 6, 0, .ro, 0x0⟩]⟩,
  ⟨"SIO_ALARM_ACK", 0xd000068, [], 32,
    [⟨"ALL", 8, 8, .wo, 0x0⟩, ⟨"ENTRY", 5, 0, .wo, 0x0⟩]⟩,
  ⟨"SIO_EVENT", 0xd000070, [], 32,
    [⟨"REJECT", 3, 3, .w1c, 0x0⟩, ⟨"SIO_RESET", 2, 2, .w1c, 0x0⟩, ⟨"OVERLOAD", 1, 1, .w1c, 0x0⟩, ⟨"LOG_DROP", 0, 0, .w1c, 0x0⟩]⟩,
  ⟨"SIO_EVENT_CNT", 0xd000078, [], 64,
    [⟨"REJECT_CNT", 63, 48, .ro, 0x0⟩, ⟨"SIO_RESET_CNT", 47, 32, .ro, 0x0⟩, ⟨"OVERLOAD_CNT", 31, 16, .ro, 0x0⟩, ⟨"LOG_DROP_CNT", 15, 0, .ro, 0x0⟩]⟩,
  ⟨"SIO_LOG_LOST", 0xd000080, [], 64,
    [⟨"COUNT", 63, 0, .ro, 0x0⟩]⟩,
  ⟨"SIO_OC_LIMIT", 0xd000100, [(12, 0x4)], 32,
    [⟨"LIMIT", 15, 0, .rw, 0x0⟩]⟩,
  ⟨"SIO_TEMP", 0xd001000, [(160, 0x4)], 32,
    [⟨"AGE", 31, 16, .ro, 0x0⟩, ⟨"VALUE", 15, 0, .ro, 0x0⟩]⟩,
  ⟨"SIO_VOLT", 0xd001400, [(48, 0x4)], 32,
    [⟨"AGE", 31, 16, .ro, 0x0⟩, ⟨"VALUE", 15, 0, .ro, 0x0⟩]⟩,
  ⟨"SIO_CURR", 0xd001500, [(12, 0x4)], 32,
    [⟨"AGE", 31, 16, .ro, 0x0⟩, ⟨"VALUE", 15, 0, .ro, 0x0⟩]⟩,
  ⟨"SIO_COOLANT", 0xd001600, [(3, 0x4)], 32,
    [⟨"AGE", 31, 16, .ro, 0x0⟩, ⟨"VALUE", 15, 0, .ro, 0x0⟩]⟩,
  ⟨"SIO_LOG_DROP", 0xd002000, [(256, 0x8)], 64,
    [⟨"COUNT", 63, 0, .ro, 0x0⟩]⟩,
  ⟨"SIO_ALARM_REC", 0xd003000, [(64, 0x40), (4, 0x8)], 64,
    [⟨"REC", 63, 0, .ro, 0x0⟩]⟩,
  ⟨"SIO_ALARM_STATE", 0xd003020, [(64, 0x40)], 64,
    [⟨"COUNT", 63, 32, .ro, 0x0⟩, ⟨"ACKED", 1, 1, .ro, 0x0⟩, ⟨"VALID", 0, 0, .ro, 0x0⟩]⟩]

/-- The SEC_ registers (15_signed_images_identity.md). -/
def regTableSEC : List RegDesc := [
  ⟨"SEC_STATUS", 0xe000000, [], 32,
    [⟨"SVN", 23, 16, .ro, 0x0⟩, ⟨"FW_SEC_VER", 15, 8, .ro, 0x0⟩, ⟨"MIXED", 4, 4, .ro, 0x0⟩, ⟨"ID_EXHAUSTED", 3, 3, .ro, 0x0⟩, ⟨"FLASH_BUSY", 2, 2, .ro, 0x0⟩, ⟨"RECOVERY", 1, 1, .ro, 0x0⟩, ⟨"FW_OK", 0, 0, .ro, 0x0⟩]⟩,
  ⟨"SEC_FW_SEQ", 0xe000008, [], 64,
    [⟨"SEQ", 63, 0, .ro, 0x0⟩]⟩,
  ⟨"SEC_ID", 0xe000010, [], 64,
    [⟨"LIMIT", 52, 32, .ro, 0x0⟩, ⟨"NEXT", 20, 0, .ro, 0x0⟩]⟩,
  ⟨"SEC_ROOT", 0xe000040, [(4, 0x8)], 64,
    [⟨"HASH", 63, 0, .ro, 0x0⟩]⟩,
  ⟨"SEC_EVENT", 0xe000060, [], 32,
    [⟨"ID_LOW", 3, 3, .w1c, 0x0⟩, ⟨"SVN_RAISED", 2, 2, .w1c, 0x0⟩, ⟨"UPDATE_FAIL", 1, 1, .w1c, 0x0⟩, ⟨"UPDATE_DONE", 0, 0, .w1c, 0x0⟩]⟩,
  ⟨"SEC_EVENT_CNT", 0xe000068, [], 64,
    [⟨"ID_LOW_CNT", 63, 48, .ro, 0x0⟩, ⟨"SVN_RAISED_CNT", 47, 32, .ro, 0x0⟩, ⟨"UPDATE_FAIL_CNT", 31, 16, .ro, 0x0⟩, ⟨"UPDATE_DONE_CNT", 15, 0, .ro, 0x0⟩]⟩,
  ⟨"SEC_MEAS", 0xe000100, [(8, 0x20), (4, 0x8)], 64,
    [⟨"VALUE", 63, 0, .ro, 0x0⟩]⟩,
  ⟨"SEC_MEAS_CNT", 0xe000200, [(8, 0x4)], 32,
    [⟨"COUNT", 31, 0, .ro, 0x0⟩]⟩]

/-- The CLK_ registers (16_clocks_reset_power_emc.md). -/
def regTableCLK : List RegDesc := [
  ⟨"CLK_CTRL", 0xf000000, [], 32,
    [⟨"APPLY", 15, 15, .wo, 0x0⟩, ⟨"SPREAD", 13, 8, .rw, 0x1e⟩, ⟨"OPP", 1, 0, .rw, 0x0⟩]⟩,
  ⟨"CLK_STATUS", 0xf000008, [], 32,
    [⟨"SPREAD_IN", 13, 8, .ro, 0x1e⟩, ⟨"BUSY", 2, 2, .ro, 0x0⟩, ⟨"OPP_IN", 1, 0, .ro, 0x0⟩]⟩,
  ⟨"CLK_TIME", 0xf000010, [], 64,
    [⟨"COUNT", 63, 0, .ro, 0x0⟩]⟩,
  ⟨"CLK_RESET", 0xf000018, [], 32,
    [⟨"KEY", 15, 8, .wo, 0x0⟩, ⟨"RETAIN", 0, 0, .wo, 0x0⟩]⟩,
  ⟨"CLK_RESET_CAUSE", 0xf000020, [], 32,
    [⟨"FULL_CNT", 23, 8, .ro, 0x0⟩, ⟨"RETAINED", 7, 7, .ro, 0x0⟩, ⟨"CAUSE", 1, 0, .ro, 0x0⟩]⟩,
  ⟨"CLK_IO", 0xf000028, [], 32,
    [⟨"PMB", 5, 4, .rw, 0x2⟩, ⟨"I3C", 3, 2, .rw, 0x1⟩, ⟨"STATIC", 1, 0, .rw, 0x3⟩]⟩,
  ⟨"CLK_EVENT", 0xf000030, [], 32,
    [⟨"REJECT", 1, 1, .w1c, 0x0⟩, ⟨"OPP_DONE", 0, 0, .w1c, 0x0⟩]⟩,
  ⟨"CLK_EVENT_CNT", 0xf000038, [], 32,
    [⟨"REJECT_CNT", 31, 16, .ro, 0x0⟩, ⟨"OPP_DONE_CNT", 15, 0, .ro, 0x0⟩]⟩]

/-- The PWR_ registers (16_clocks_reset_power_emc.md). -/
def regTablePWR : List RegDesc := [
  ⟨"PWR_CAP", 0x10000000, [], 32,
    [⟨"WATTS", 11, 0, .rw, 0x960⟩]⟩,
  ⟨"PWR_STATUS", 0x10000008, [], 32,
    [⟨"PIN", 31, 16, .ro, 0x0⟩, ⟨"SHARE", 4, 0, .ro, 0x10⟩]⟩,
  ⟨"PWR_EVENT", 0x10000010, [], 32,
    [⟨"CAP_MISS", 1, 1, .w1c, 0x0⟩, ⟨"DAMPED", 0, 0, .w1c, 0x0⟩]⟩,
  ⟨"PWR_EVENT_CNT", 0x10000018, [], 32,
    [⟨"CAP_MISS_CNT", 31, 16, .ro, 0x0⟩, ⟨"DAMPED_CNT", 15, 0, .ro, 0x0⟩]⟩,
  ⟨"PWR_CNT_DAMPED", 0x10000020, [], 64,
    [⟨"COUNT", 63, 0, .ro, 0x0⟩]⟩]

end Sys2Proof.Machine
end

