-- ==== Sys2Proof/Machine/State.lean ====
section
/-! DEFINITION. The state of the machine: everything the spec gives the T24, as plain data, and the state after reset. -/

namespace Sys2Proof.Machine

/-- Why the machine stops with a fault. -/
inductive Fault where
  /-- Raised by a command whose operand names a part of the device that does not exist (a core of 128 or more, a
  queue of 2,048 or more; R6, R22, R23, R79). Safe: the device has no such part, so no such command reaches it. -/
  | noSuchPart
  deriving DecidableEq, Repr

/-- Why the machine refuses a command. -/
inductive Refusal where
  /-- Raised by an arm of exec that has no meaning yet. Safe: the run stops. -/
  | notModelled (mnemonic : String)
  deriving DecidableEq, Repr

/-! ## What fuses, straps and ROM fix (R16, R24, R26) -/

/-- The contents of the fuses, the ROM and the straps: they differ from part to part and no command but SVN_COMMIT
changes them. -/
structure Fuses where
  /-- The four disabled core sites in mesh order, as (x, y) (R24, R25). -/
  offSites : List (Nat × Nat) := [(5, 1), (9, 4), (2, 7), (12, 11)]
  /-- Spare rows and columns switched in at each core: ROW0, ROW1, COL0, COL1 packed as ME_SPARE packs them. -/
  spare : SMap Nat := []
  /-- Factory values of SIO_OC_LIMIT by rail (R424). -/
  ocLimit : SMap Nat := []
  /-- Hash of the root key (SEC_ROOT), four 64-bit words. -/
  root : List Nat := [0, 0, 0, 0]
  /-- Blown anti-rollback fuses (0 to 64). -/
  svn : Nat := 0
  /-- The serial number of SEC_ID. -/
  serial : Nat := 0
  /-- Host ports that the straps split into two x8 hosts (R389), bit p for port p. -/
  split : Nat := 0
  /-- The strap value PMB_ADDR (R443). -/
  pmbAddr : Nat := 0
  /-- The ROM version and the test-mode fuse, which the fuse string carries (R452). -/
  romVer : Nat := 0
  testMode : Nat := 1
  /-- The identity secret, four 64-bit words (R457). -/
  idSecret : List Nat := [0, 0, 0, 0]
  deriving DecidableEq, Repr

/-! ## Memory (R35, R265, R274, R400) -/

/-- The bytes of stacked memory, core-local memory and the Store, by device physical address. A range listed in
`open` holds bytes the spec calls undefined: an unlisted byte of it is a free value named by the stamp. -/
structure Memory where
  cells : List Host.Cell := []
  open_ : List (Nat × Nat × Nat) := [(0, 2 ^ 52, 0)]
  deriving DecidableEq, Repr

/-- What a memory access waits for outside the device: a host's answer to a snoop of one 64-byte line, by its address (R402),
the completion of a spill read request (R272, R398), or the end of a hold at the controllers' intake (R71). -/
inductive Need where
  | snoop (host line : Nat) (inv : Bool)
  | spill (addr len : Nat)
  | hold
  deriving DecidableEq, Repr

/-- Whose memory accesses wait: a record of a queue by its serial number, a queue's own fetches and completions, the log
writer, a host's CXL.mem access, a requester's register or BAR4 access, the command of a mailbox or another channel, a flash
operation, the loader, the sweep, a link port, a party, a rope's KV pool, a control core's page walk, or a window's fill. -/
inductive Tok where
  | idle
  | record (q id : Nat)
  | queue (q : Nat)
  | log
  | host (n : Nat)
  | req (n : Nat)
  | chan (n : Nat)
  | flash
  | loader
  | sweep
  | port (p : Nat)
  | party (k : Nat)
  | kv (r : Nat)
  | walk (c : Nat)
  | fill (core id : Nat)
  deriving DecidableEq, Repr

/-- An answer that arrived for a need: a snoop that found no copy or timed out (no bytes) or dirty data; spill data,
an error completion or a timeout. -/
inductive Answer where
  | clean
  | data (bytes : List Byte)
  | error
  | late
  deriving DecidableEq, Repr

/-- Who makes a memory access: SOURCE and ID of MEM_ERR_SRC and the source slot of its cairn records (R282, R432). -/
structure Src where
  kind : Nat
  id : Nat
  slot : Nat
  deriving DecidableEq, Repr

/-- A seal operation that MEM_SEAL_STATUS reports as running (R266, R267, R269). -/
inductive SealOp where
  | sealPages (first count : Nat)
  | unsealPages (first count : Nat)
  | unsealSlot (host slot : Nat)
  deriving DecidableEq, Repr

/-- A spill seal slot (R269). -/
structure SpillSlot where
  state : Nat := 0
  first : Nat := 0
  count : Nat := 0
  deriving DecidableEq, Repr

/-! ## The cairn log (R429–R441) -/

/-- A cairn-log record before it is laid out (R431). The class is 0 TRACE, 1 EVENT, 2 ERROR, 3 ALARM. -/
structure LogRec where
  time : Nat
  step : Nat
  code : Nat
  src : Nat
  cls : Nat
  summary : Bool := false
  arg : Nat
  deriving DecidableEq, Repr

/-- An entry of the summary table (R434). -/
structure SumEnt where
  count : Nat
  last : LogRec
  deriving DecidableEq, Repr

/-- An entry of the alarm file (R440). -/
structure AlarmEnt where
  entry : LogRec
  count : Nat
  acked : Bool
  deriving DecidableEq, Repr

/-- The log writer: intake, ALARM lane, ALARMs their sources still hold, the early ring, the summary table, what the
running 1 ms window dropped, and the alarm file. -/
structure Log where
  intake : List LogRec := []
  lane : List LogRec := []
  heldAlarms : List LogRec := []
  early : SMap (Option LogRec) := []
  sums : List SumEnt := []
  dropped : SMap Nat := []
  overflow : SMap Nat := []
  alarms : SMap (Option AlarmEnt) := []
  deriving DecidableEq, Repr

/-! ## The route image in force and the loader (R40–R78) -/

structure RopeEnt where
  queues : Nat := 0
  ccMask : Nat := 0
  deriving DecidableEq, Repr

structure MeshEnt where
  planes : Nat := 0
  vcBase : Nat := 0
  vcCount : Nat := 0
  order : Nat := 0
  deriving DecidableEq, Repr

/-- A Store pool (R53). -/
structure Pool where
  kind : Nat := 0
  rope : Nat := 0
  first : Nat := 0
  count : Nat := 0
  deriving DecidableEq, Repr

structure ArrayEnt where
  mode : Nat := 0
  partner : Nat := 0xFFFF
  deriving DecidableEq, Repr

/-- An interleave region (R58). -/
structure Region where
  base : Nat := 0
  size : Nat := 0
  stackMask : Nat := 0
  pcMask : Nat := 0
  granule : Nat := 0
  deriving DecidableEq, Repr

/-- A party entry (R60) with its reduction plan's bytes. -/
structure PartyEnt where
  id : Nat := 0
  sum : Nat := 0
  topo : Nat := 0
  member : Nat := 0
  members : Nat := 0
  ports : Nat := 0
  plan : List Byte := []
  deriving DecidableEq, Repr

/-- What a route image sets (R44, R46–R63). -/
structure Image where
  seq : Nat := 0
  ropeCount : Nat := 0
  coreRope : List Nat := []
  ropes : List RopeEnt := []
  mesh : List MeshEnt := []
  pools : List Pool := []
  array : List ArrayEnt := []
  promo : List Nat := []
  regions : List Region := [⟨0, 0x12000000000, 0xFFFFFF, 0xFFFFFFFFFFFFFFFF, 3⟩]
  etherType : Nat := 0x88B5
  ethPorts : Nat := 0
  parties : List PartyEnt := []
  fpEnable : Bool := true
  fpInterval : Nat := 1
  shaEnable : Bool := false
  shaInterval : Nat := 0
  deriving DecidableEq, Repr

/-- Where a load reads its image from (R67, R75). -/
inductive LoadSrc where
  | memory (addr : Nat)
  | copyA
  | copyB
  deriving DecidableEq, Repr

/-- The state of the route-image loader beside its registers. -/
structure Loader where
  running : Bool := false
  src : LoadSrc := .memory 0
  hdr : List Byte := []
  staged : List Byte := []
  ready : Option Image := none
  /-- Requests are held at the controllers' intake: the first 100 µs of the apply step (R71). -/
  hold : Bool := false
  seqA : Option Nat := none
  seqB : Option Nat := none
  /-- Copy A passed every check and copy B's header is being read for the comparison of R76. -/
  comparing : Bool := false
  /-- SEC_VER of the image in force, and SEC_VER and SHA-256 of the header of the image to be applied (R454, R456). -/
  secVer : Nat := 0
  nextSec : Nat := 0
  nextHash : List Byte := []
  deriving DecidableEq, Repr

/-! ## Queues and streams (R79–R116) -/

/-- What the software and the route image have made of a queue; IDLE, RUNNING and HELD follow from the rest (R82). -/
inductive QMode where
  | disabled | off | on | stopped
  deriving DecidableEq, Repr

/-- A record that has been fetched: its slot, the generation of its lap, its serial number in its queue, once it is issued the
core that runs it, its bytes and those of its inline chain. -/
structure Fetched where
  slot : Nat
  gen : Nat
  num : Nat := 0
  core : Nat := 0
  bytes : List Byte
  chain : List (List Byte) := []
  deriving DecidableEq, Repr

/-- Why an issued record has not ended. -/
inductive Park where
  /-- A belay, a SIGNAL or a WREL waits for the earlier records of its queue (R91, R97, R300). -/
  | order
  /-- A WAIT waits for its anchor (R96). -/
  | anchor
  /-- Tile interlock (R155). -/
  | interlock
  /-- An earlier record of the same engine has not begun (R90). -/
  | turn
  /-- An EMLOAD waits for a TSTORE that names its slot (R202). -/
  | slotHold
  /-- A memory access waits for the outside world. -/
  | memory
  /-- The record runs in its engine and ends by later events. -/
  | engine
  deriving DecidableEq, Repr

/-- How far an issued record is. -/
inductive Phase where
  | parked (why : Park)
  | ended (status detail : Nat)
  deriving DecidableEq, Repr

/-- A record that its stream has issued. -/
structure Issued where
  item : Fetched
  phase : Phase
  deriving DecidableEq, Repr

/-- A queue pair beside its registers. -/
structure Queue where
  mode : QMode := .disabled
  code : Nat := 0
  head : Nat := 0
  tail : Nat := 0
  gen : Nat := 0
  cqTail : Nat := 0
  phase : Nat := 0
  flushCount : Nat := 0
  /-- Registered echoes, oldest first: (slot, SEAL_LO) (R104). -/
  echoes : List (Nat × Nat) := []
  /-- Re-reads and reads made of the slot at HEAD after a seal mismatch (R105). -/
  rereads : Nat := 0
  reads : Nat := 0
  /-- A pitch is open (R82). -/
  pitch : Bool := false
  /-- The record whose inline chain is being fetched, and how many INLINE records are missing. -/
  chain : Option (Fetched × Nat) := none
  fetched : List Fetched := []
  issued : List Issued := []
  /-- Completions that wait for space, oldest first (R108). -/
  held : List (List Byte × Bool) := []
  /-- The serial number of the next record fetched, by which records that share a slot of the ring are told apart. -/
  serial : Nat := 0
  /-- The next record issued is the first of its pitch (R94, R96). -/
  fresh : Bool := true
  /-- Cancels whose records that had begun have not all ended: the first slot discarded and the slots discarded (R114). -/
  cancels : List (Nat × Nat) := []
  deriving DecidableEq, Repr

/-- The stream of a core (R80, R94). -/
structure Stream where
  /-- The queue whose open pitch the stream serves. -/
  cur : Option Nat := none
  /-- The queue served last, for the round robin. -/
  last : Nat := 2047
  /-- The step number of the core's last STEP record (R89, R438). -/
  step : Nat := 0
  deriving DecidableEq, Repr

/-! ## Hosts, control cores and mailboxes (R389–R416) -/

/-- An MSI-X table entry, its message's address and data and its mask, and its pending bit (R393, R405). -/
structure MsixEnt where
  addr : Nat := 0
  data : Nat := 0
  masked : Bool := true
  pend : Bool := false
  deriving DecidableEq, Repr

/-- A host function beside its registers. -/
structure HostSt where
  msix : SMap MsixEnt := []
  deriving DecidableEq, Repr

/-- A host CXL.mem access that is held until its snoops are answered, its page's recall ends or the intake opens
(R71, R402, R404). -/
structure HostAcc where
  tok : Tok
  host : Nat
  addr : Nat
  /-- None for a read of a 64-byte line; the bytes for a write at `addr`. -/
  write : Option (List Byte)
  env : Env
  deriving DecidableEq, Repr

/-- A running bias operation (R404): the page in hand, the pages left, the hosts whose answers its recall awaits, the lines they
have answered one by one, as host and address, whether a page was lost and whether a host has accessed this one. -/
structure BiasOp where
  page : Nat
  left : Nat
  asked : List Nat := []
  answered : List (Nat × Nat) := []
  lost : Bool := false
  accessed : Bool := false
  deriving DecidableEq, Repr

/-- A mailbox beside its registers: the requests its server has taken and not yet answered, oldest first (R411, R414). -/
structure Mailbox where
  taken : List (List Nat) := []
  deriving DecidableEq, Repr

/-- A requester's pending low half and read latch (R11): the register's offset and the 32 bits. -/
structure Port where
  low : Option (Nat × Word32) := none
  latch : Option (Nat × Word32) := none
  deriving DecidableEq, Repr

/-- What a host asks of the device while its operating point changes, held at the host's port until that ends (R478): register
accesses, requests to its function and its windows, and configuration requests. -/
inductive HeldOp where
  | write (who : Requester) (off : Nat) (d : WData) (env : Env)
  | write32 (who : Requester) (off : Nat) (v : Word32)
  | read32 (who : Requester) (off : Nat)
  | unmapped (who : Requester) (off size : Nat) (write : Bool)
  | take (who : Requester) (m : Nat) (up : Bool)
  | withdraw (who : Requester) (m : Nat) (up : Bool) (take : Option Requester)
  | flush (who : Requester) (q : Nat)
  | memRead (h hpa : Nat) (env : Env)
  | memWrite (h hpa : Nat) (bytes : List Byte) (env : Env)
  | bar4 (h off len : Nat) (write : Option (List Byte)) (env : Env)
  | bar2 (h off : Nat) (acc : Bar2Acc)
  | hdm (h base size offset : Nat)
  | snoop (h line : Nat)
  | config (h : Nat) (req : CfgReq)
  deriving DecidableEq, Repr

/-! ## What leaves the device -/

/-- What the device puts out at its edges, in the order it does: the model's trace of replies and messages. -/
inductive Out where
  /-- The data a register read returned to its requester. -/
  | regRead (who : Requester) (addr value : Nat)
  /-- An MSI-X message, with the address and data of its table entry (R405); what a read of BAR2 returned (R393). -/
  | msix (host vec addr data : Nat)
  | bar2 (host off value : Nat)
  /-- The data of a CXL.mem or BAR4 read, with the lines returned as poison. -/
  | hostRead (host addr : Nat) (bytes : List Byte) (poison : List Nat)
  /-- A CXL.mem write response (R399). -/
  | hostWrote (host addr : Nat)
  /-- A BAR4 request completed with Unsupported Request (R394). -/
  | unsupported (host addr : Nat)
  /-- A request through a spill window (R397): a read of some bytes, or a write with its poison flag. -/
  | spillRead (host addr len : Nat)
  | spillWrite (host addr : Nat) (bytes : List Byte) (poison : Bool)
  /-- A snoop of the lines of one 256-byte block sent to a host (R390, R402), the CXL.cache ownership requests for the 32,768
  lines of a page, in ascending order (R404), or an answer to an H2D snoop (R390). -/
  | snoop (host : Nat) (lines : List Nat) (inv : Bool)
  | recall (host page : Nat)
  | snoopRsp (host line : Nat)
  /-- A data block or a control block sent on an Aedlink-mode port, with the lane it travels on (R349, R350), an Ethernet frame
  with its FCS (R355, R356), and priority-based flow control sent on an Ethernet-mode port for a priority (R355, R362). -/
  | block (port lane : Nat) (bytes : List Byte)
  | ether (port : Nat) (bytes : List Byte)
  | flow (port prio : Nat) (pause : Bool)
  /-- The 32-byte lines of a frame's payload that travel as poison (R343, R379), named by their offset. The frame format has no
  field for them: that they go beside it is a DESIGN CHOICE (log 99). -/
  | linkPoison (party src dst pseq : Nat) (lines : List Nat)
  /-- A reply of Siolo on a board interface: PMBus, I3C, MCTP or PLDM; none is a NACK. An I3C reply is fetched by a private read
after an in-band interrupt (R468). -/
  | board (reply : Option (List Byte))
  | ibi
  /-- An answer to a configuration request: whether it is Configuration Request Retry Status (R486), and the data the spec
states for a read (R390). -/
  | cfgReply (host : Nat) (retry : Bool) (data : Option Nat)
  /-- An alarm sent to the board (R441). -/
  | alarm (code src : Nat)
  /-- THERMTRIP_N driven low, or released (R420, R421, R482). -/
  | thermtrip (low : Bool)
  /-- A reply of Siolo's MCTP endpoint in vendor-defined messages on a host's link (R443). -/
  | vdm (host : Nat) (bytes : List Byte)
  /-- What a PLDM update reports of a component that it has written: whether it needs a full reset to activate; else it activates
at the next boot load (R467). -/
  | activation (component : Nat) (fullReset : Bool)
  deriving DecidableEq, Repr

/-! ## Matrix engines and accumulators (R125, R128, R152, R153, R155) -/

/-- A stationary bank: its set's type, K, N, element codes by column and MX scales by column. -/
structure Bank where
  valid : Bool := false
  type : Nat := 0
  k : Nat := 0
  n : Nat := 0
  cols : List (List Nat) := []
  scales : List (List Nat) := []
  deriving DecidableEq, Repr

/-- The banks of an array, or of one half of it: bank 0, bank 1, which is active, and which holds B_hi of an FP32
pair. -/
structure Half where
  b0 : Bank := {}
  b1 : Bank := {}
  active : Nat := 0
  pair : Option Nat := none
  deriving DecidableEq, Repr

/-- Whose record a record on a core's path is: a load or an MMA of the matrix engine, the accumulator unit's, the vector
engine's, the attention unit's, the walker's, the Ranker's or the porter's. -/
inductive MxKind where
  | load | mma | acc | vec | att | walk | rank | porter
  deriving DecidableEq, Repr

/-- A record on a core's path: issued and not ended. A load whose data travel to the cells, an MMA whose first row has not
entered, or a record of another unit that waits to begin or that the unit is inside; in issue order. -/
structure MxOp where
  q : Nat
  num : Nat
  kind : MxKind
  half : Nat := 0
  swap : Bool := false
  /-- An MMA adds to its tiles: their tags may end it as its first row enters (R153, R179). -/
  add : Bool := false
  type : Nat := 0
  /-- The tile ranges it reads or writes, each its first and last tile. -/
  tiles : List (Nat × Nat) := []
  /-- The memory that a PORTER writes to, by number. -/
  dest : Nat := 0
  /-- The ember slot that a TSTORE runs or an EMLOAD loads. -/
  ember : Option Nat := none
  /-- What a load carries: the set, and the B_lo set of an FP32 load; and the status and detail of a read that failed. -/
  set_ : Bank := {}
  low : Bank := {}
  err : Option (Nat × Nat) := none
  deriving DecidableEq, Repr

/-- A core's matrix engine and accumulator: halves, the records on the core's path, tile rows (index 64 × tile + row, 64 elements
of 32 bits), tile tags, and for each row the columns whose FP32 NaN came from poison (R144, R170, R181). -/
structure Mat where
  h0 : Half := {}
  h1 : Half := {}
  ops : List MxOp := []
  rows : SMap (List Nat) := []
  tags : SMap Nat := []
  marks : SMap (List Nat) := []
  deriving DecidableEq, Repr

/-! ## Vector engines (R185, R201) -/

/-- A core's vector engine: parameter registers P0 to P15 and temporaries T0 to T15 of 128 lanes each, none listed where
every lane is +0, and the ember programs in its 16 slots. -/
structure VecEng where
  params : SMap (List Nat) := []
  temps : SMap (List Nat) := []
  slots : SMap (List Byte) := []
  deriving DecidableEq, Repr

/-! ## Attention units, walkers, KV pools and Rankers (R212–R247) -/

/-- The attention context (R214). -/
structure AttCtx where
  scale : Nat := 0
  c : Nat := 0
  win : Nat := 0
  mode : Nat := 0
  ptype : Nat := 0
  dtype : Nat := 0
  deriving DecidableEq, Repr

/-- A page descriptor (R232): the state is 0 LIVE, 1 EVICTED, 2 UNWRITTEN, 3 OUT_OF_TABLE, 4 POOL_EMPTY; `fresh` tells
that it answers an ALLOCATE, `stale` that its page has been dropped from the buffer since it was read (R234, R235, R239). -/
structure PageDesc where
  seq : Nat
  lp : Nat
  frame : Nat
  fill : Nat
  state : Nat
  fresh : Bool := false
  stale : Bool := false
  deriving DecidableEq, Repr

/-- An outstanding miss of a walker (R231): its number, the record it serves, the page, its kind, and whether the control
core's queue has taken it (R409). -/
structure Miss where
  id : Nat
  q : Nat
  num : Nat
  seq : Nat
  lp : Nat
  pt : Nat
  alloc : Bool
  sent : Bool
  deriving DecidableEq, Repr

/-- A KVMAP, KVPUT or KVMASS record in progress: pages translated, the next page to translate and to move, and for KVMASS
the masses by page, the updates not yet applied and the failure it will end with. -/
structure KvRec where
  q : Nat
  num : Nat
  op : Nat
  got : List PageDesc := []
  look : Nat
  at_ : Nat
  masses : SMap Nat := []
  sent : Nat := 0
  fin : Option (Nat × Nat) := none
  deriving DecidableEq, Repr

/-- A core's walker: its look-aside buffer, most recently used first (R230), its misses, the records it serves and the
descriptors on their way to it. -/
structure Walker where
  lab : List PageDesc := []
  misses : List Miss := []
  nextId : Nat := 0
  recs : List KvRec := []
  arriving : List (Nat × PageDesc) := []
  deriving DecidableEq, Repr

/-- A miss in a control core's queue; `waits` tells that an ALLOCATE waits for a free frame (R231). -/
structure CcReq where
  core : Nat
  miss : Miss
  waits : Bool := false
  deriving DecidableEq, Repr

/-- A score update on its way to a keeper port (R236). -/
structure KeepUpd where
  core : Nat
  q : Nat
  num : Nat
  frame : Nat
  seq : Nat
  lp : Nat
  decay : Nat
  mass : Nat
  deriving DecidableEq, Repr

/-- An eviction (R239): frames asked for and the KVTRIM it serves; of a running one also the frames chosen, and how its read
of the frame table failed (R252). -/
structure Evict where
  count : Nat
  owner : Option (Nat × Nat) := none
  chosen : List Nat := []
  err : Option (Nat × Nat) := none
  deriving DecidableEq, Repr

/-- A rope's KV pool beside its registers. -/
structure KvPool where
  free : List Nat := []
  init : Bool := false
  disable : Bool := false
  updates : List KeepUpd := []
  waiting : List Evict := []
  running : Option Evict := none
  deriving DecidableEq, Repr

/-! ## Haul engines (R284, R285, R298–R305) -/

/-- What a window holds of its source (R298, R269): a 2 MiB page of stacked memory, or spill seal slot `16 × host + slot`. -/
inductive HeldPage where
  | page (p : Nat)
  | slot (i : Nat)
  deriving DecidableEq, Repr

/-- A piece of a transfer that lies in one source page and one destination billet; `run` is the address of its source
run. -/
structure Seg where
  src : Nat
  dst : Nat
  len : Nat
  run : Nat
  deriving DecidableEq, Repr

/-- How far a request of a transfer is (R296): not tried; waiting for a transaction slot to send its needs; sent. -/
inductive ReqPhase where
  | idle
  | wants (needs : List Need)
  | sent (needs : List Need)
  deriving DecidableEq, Repr

/-- A request of a transfer (R296): its address and length, the byte of the transfer it begins at, and whether it writes. -/
structure Req where
  addr : Nat
  len : Nat
  off : Nat
  wr : Bool
  phase : ReqPhase := .idle
  deriving DecidableEq, Repr

/-- The copying of a transfer: the requests that have not completed, those of a fill's billets, which are written as its WFILL ends
(R299), what has been read, by byte of the transfer, with its poisoned lines, the ranges of bytes that two runs write or that it
also reads (R290), the fault its programs met after the runs, its first memory error, and whether it met poison. -/
structure Move where
  reqs : List Req := []
  outs : List Req := []
  data : SMap (List Byte × List Nat) := []
  overlap : List (Nat × Nat) := []
  fault : Option (Nat × Nat) := none
  err : Option (Nat × Nat) := none
  poison : Bool := false
  deriving DecidableEq, Repr

/-- A window of a context with the WFILL that fills it (R298, R300): the pages and billets it holds, the pieces whose page and
billet it has not taken yet, how many bytes of the transfer those it has taken make, its copying, and how far it is. -/
structure Window where
  id : Nat
  ctx : Nat
  q : Nat
  item : Fetched
  /-- Its WFILL has been issued; else it is a prefetch (R301). -/
  issued : Bool
  /-- Its descriptor has been read and its pieces laid out. -/
  ready : Bool := false
  pages : List HeldPage := []
  billets : List Nat := []
  todo : List Seg := []
  taken : Nat := 0
  move : Move := {}
  /-- The fill waits for a credit. -/
  waits : Bool := false
  /-- The fill has moved its last byte. -/
  filled : Bool := false
  deriving DecidableEq, Repr

/-- What stands in a context's line: a fill, an HCOPY that waits for its turn, or a CLOSE. Those issued stand first, in issue
order, and the prefetches behind them (R284, R301). -/
inductive InLine where
  | fill (id : Nat)
  | copy (q num : Nat)
  | close (q num : Nat)
  deriving DecidableEq, Repr

/-- An open stream context (R284, R285): its pool code, MAXB, what it has accepted and not issued, whether a route-image
load has come since it was opened (R310, R313), and the copying of the HCOPY at the front of its line. -/
structure HaulCtx where
  pool : Nat
  maxb : Nat
  line : List InLine := []
  loaded : Bool := false
  move : Option Move := none
  deriving DecidableEq, Repr

/-- A core's haul engine: open contexts, windows in WFILL issue order with the prefetches behind them, the number of the next
window, and the context that was served, or got a transaction slot, last (R296). -/
structure Haul where
  ctxs : SMap (Option HaulCtx) := []
  wins : List Window := []
  next : Nat := 0
  last : Nat := 0
  deriving DecidableEq, Repr

/-- The credit state of a pool (R303–R305): the reserve lent, the fill (core, window, stream) it is lent to, STUCK, and
the fills that wait for a credit, longest first. -/
structure Credit where
  lent : Nat := 0
  grant : Option (Nat × Nat × Nat) := none
  stuck : Bool := false
  waiters : List (Nat × Nat) := []
  deriving DecidableEq, Repr

/-! ## The update engine (R315–R343) -/

/-- A shard that the sweep is in (R319, R320, R333): its entry and group entry, the next chunk, and what its record-table
entry will hold. -/
structure ShardRun where
  shard : Nat
  entry : List Byte
  group : List Byte
  chunk : Nat
  crc : Nat
  wsq : Option (Nat × Nat) := none
  resumed : Bool := false
  nonfinite : Bool := false
  deriving DecidableEq, Repr

/-- A USWEEP that has begun (R331): its record, what it fixed then, the next shard, whether it has written an ACTIVE
cursor record, the shard it replayed with the chunk to go on from, the shards taken so far with MASTER and NPARAM, and
the shard it is in. -/
structure Sweep where
  q : Nat
  num : Nat
  step : Nat
  first : Nat
  count : Nat
  clip : Nat
  journal : Bool
  area : Nat
  fp : Bool
  dig : Bool
  shard : Nat
  active : Bool := false
  resume : Option (Nat × Nat) := none
  seen : List (Nat × Nat × Nat) := []
  run : Option ShardRun := none
  deriving DecidableEq, Repr

/-- A USNAP that has begun (R342, R343, R381): its record, the bytes copied, the source pages registered, its first
error, and for a peer the party and member, the PSEQ its first PUT takes, that of its last PUT and the PSEQ up to which DONE has
come. -/
structure Snap where
  q : Nat
  num : Nat
  pos : Nat := 0
  pages : List HeldPage := []
  err : Option (Nat × Nat) := none
  peer : Option (Nat × Nat) := none
  firstPut : Nat := 0
  lastPut : Nat := 0
  lastDone : Nat := 0
  deriving DecidableEq, Repr

/-- The update engine and its snapshot engine: records of the sweep units in arrival order, the sweep, the rule slots, and
the same for USNAP. -/
structure Upd where
  line : List (Nat × Nat) := []
  sweep : Option Sweep := none
  rules : SMap (List Byte) := []
  snaps : List (Nat × Nat) := []
  snap : Option Snap := none
  deriving DecidableEq, Repr

/-! ## Aedlink (R348–R384) -/

/-- An Aedlink port beside its registers (R349–R351): the BSEQ of its next data block, the blocks it keeps for replay, credits
by class, frames that wait for a credit or for flow control to end, the BSEQ expected, buffers freed and not yet
returned by class, the bytes of a frame not yet whole and whether the next frame header's place is known, received frames not yet
taken, whether a good control block has come since the port last went down, the peer's PLAN_ID, the peer that a control block named
before the port was Up, the lane of the next block, data blocks since the last run of 64, the last control block's body, and whether
flow control pauses it or it has paused its peer (R355, R362). -/
structure LinkPort where
  txSeq : Nat := 0
  sent : List (Nat × List Byte) := []
  cred0 : Nat := 64
  cred1 : Nat := 64
  waiting : List (List Byte) := []
  rxSeq : Nat := 0
  freed0 : Nat := 0
  freed1 : Nat := 0
  part : List Byte := []
  sync : Bool := true
  rxq : List (List Byte) := []
  ctl : Bool := false
  peerPlan : Option Nat := none
  planBad : Bool := false
  heard : Option (Nat × Nat × Nat × Nat) := none
  lane : Nat := 0
  burst : Nat := 0
  lastCtl : List Byte := []
  paused : Bool := false
  pausing : Bool := false
  deriving DecidableEq, Repr

/-- A frame that its sender keeps until it is acknowledged (R360), with the record that sent it. -/
structure Unacked where
  pseq : Nat
  bytes : List Byte
  owner : Option (Nat × Nat)
  deriving DecidableEq, Repr

/-- What a party keeps for one peer member (R360, R361): the PSEQ of the next frame to it, its unacknowledged frames, the
PSEQ expected from it, frames that came early with their ports and their poisoned lines, frames delivered since the last ACK, whether an ACK is
due, and frames sent so far for the round robin over ports. -/
structure Peer where
  next : Nat := 1
  unacked : List Unacked := []
  expect : Nat := 1
  early : SMap (Nat × List Byte × List Nat) := []
  since : Nat := 0
  ackDue : Bool := false
  turn : Nat := 0
  deriving DecidableEq, Repr

/-- An open reduction (R367–R376): its record; this member's pair by level and element, and tally by level and shard, as keys
`2^40 × level + index`; frames that cannot be taken yet; values of chunks not yet whole, by element; chunks and shards
finished; elements sent in RSDATA frames; whether the tail has started and its own keys; the shards whose tally has passed this
member; and its first memory error and the shards that disagreed. -/
structure Red where
  q : Nat
  item : Fetched
  kept : SMap (Nat × Nat) := []
  tallies : SMap (List Byte) := []
  heldFrames : List (List Byte) := []
  vals : SMap Nat := []
  chunks : Nat := 0
  shards : Nat := 0
  sentEls : Nat := 0
  tailOn : Bool := false
  keys : SMap (List Byte) := []
  passed : SMap Bool := []
  err : Option (Nat × Nat) := none
  diverged : Nat := 0
  deriving DecidableEq, Repr

/-- An LREPAIR that has begun (R379): its record, the source, the shard, the local entry and its first write error. -/
structure Repair where
  q : Nat
  num : Nat
  member : Nat
  shard : Nat
  entry : List Byte
  err : Option (Nat × Nat) := none
  deriving DecidableEq, Repr

/-- A repair request that waits at this module as the source (R379). -/
structure RepairReq where
  member : Nat
  shard : Nat
  arrays : Nat
  nparam : Nat
  step : Nat
  deriving DecidableEq, Repr

/-- A party beside its registers: its peers, LREDUCE records in arrival order, the open reduction, staged frames (R370),
repairs as requester and as source, and whether it was READY when last looked at (R365). -/
structure LinkParty where
  peers : SMap Peer := []
  line : List (Nat × Nat) := []
  red : Option Red := none
  staged : List (List Byte) := []
  repairs : List Repair := []
  requests : List RepairReq := []
  ready : Bool := false
  deriving DecidableEq, Repr

/-! ## Siolo, its loops and the board (R417–R445) -/

/-- What the hardware loops keep (R420–R423): the last reading of each die sensor, sensors that have warned, sensors whose
last reading was at or above TRIP, consecutive readings above a rail's limit, the last four power samples, newest first, in
0.1 mW, the last voltage in mV and current in 0.1 A of rail 0, and the samples in a row below 0.98 of the cap. -/
structure Loops where
  temps : SMap Nat := []
  warned : SMap Bool := []
  hot : SMap Bool := []
  streak : SMap Nat := []
  power : List Nat := []
  vin : Nat := 0
  iin : Nat := 0
  below : Nat := 0
  deriving DecidableEq, Repr

/-- A reported reading: VALUE and the counter when its sample was taken (R419). -/
structure Reading where
  value : Nat
  at_ : Nat
  deriving DecidableEq, Repr

/-! ## Firmware, flash and identity (R446–R470) -/

/-- A firmware in force: SEQ, SEC_VER and BUILD_TAG of its bundle and the entry point it was started at (R448, R452). Its code
stands in the private memories of the State. -/
structure Firmware where
  seq : Nat := 0
  secVer : Nat := 0
  tag : Nat := 0
  entry : Nat := 0
  deriving DecidableEq, Repr

/-- What a flash operation is for (R463, R465–R467): a firmware bundle or a route-image copy, from memory or from a PLDM
transfer, a read to memory, or a PLDM transfer of a component that is still being received. -/
inductive FlashJob where
  | bundle
  | copy (b : Bool)
  | read (dst : Nat)
  | transfer (component : Nat)
  deriving DecidableEq, Repr

/-- A running flash operation (R451): its job, the mailbox and header it answers (none for PLDM) and what carried a PLDM
transfer, the source in memory or the bytes a PLDM transfer brought, the length, the flash offset it begins at, the bytes done, whether the sector at
hand has been erased, and for a route-image pair that copy A follows. -/
structure FlashOp where
  job : FlashJob
  who : Option (Nat × Nat)
  via : Via := .i3c
  src : Nat
  data : List Byte := []
  len : Nat
  base : Nat
  pos : Nat := 0
  erased : Bool := false
  then_ : Bool := false
  deriving DecidableEq, Repr

/-- A recovery session (R469): its channel (0 to 7 a mailbox, 8 the I3C bus), IMG_LEN and the bytes received. -/
structure Session where
  chan : Nat
  len : Nat
  got : Nat
  deriving DecidableEq, Repr

/-- How far the boot ROM is (R452, R453): not started, about to read the bundle header, about to read the body, in the
firmware, or in the recovery loader. `again` marks a Siolo-only reset. -/
inductive Boot where
  | off
  | header (again : Bool)
  | body (again : Bool)
  | run
  | recovery (again : Bool)
  deriving DecidableEq, Repr

/-! ## Power and resets (R480–R487) -/

/-- The power and reset state: standby rails, PWR_EN, main rails, PWRGD, the RESET_N contact, whether the logic is held in
reset and whether the 1 ms of a software reset is part of the hold, what an input overvoltage still asks for before the main rails return
(rail 0 back in its limits; PWR_EN fallen, 1, and risen again, 2), whether rail 0 has fallen below 44 V (R482, R501), stacks in self-refresh with their contents kept, stacks whose
training or self-refresh exit is awaited, and the operating point and spread that a running APPLY brings. -/
structure Power where
  standby : Bool := true
  pwrEn : Bool := true
  mains : Bool := true
  pwrgd : Bool := true
  resetN : Bool := true
  held : Bool := false
  soft : Bool := false
  overHigh : Bool := false
  overCycle : Nat := 2
  inLow : Bool := false
  selfRef : Nat := 0
  awaited : Nat := 0xFFFFFF
  opp : Option (Nat × Nat) := none
  deriving DecidableEq, Repr

/-! ## The machine -/

/-- The whole machine. -/
structure State where
  /-- The commands that are waiting, first in, first out. -/
  pending : List Instr := []
  /-- What fuses, ROM and straps fix. -/
  fuses : Fuses := {}
  /-- The registers of the register map at offsets in register space; one not listed holds its reset value. -/
  regs : SMap Word := []
  /-- Pending low halves and read latches by requester (R11). -/
  ports : SMap Port := []
  mem : Memory := {}
  /-- 32-byte lines with a poison mark, by line number (R274). -/
  poison : SMap Bool := []
  /-- Seal state of 2 MiB pages of stacked memory (R265). -/
  seals : SMap Nat := []
  /-- Spill seal slots, 16 for each host (R269). -/
  spillSeals : SMap SpillSlot := []
  sealOp : Option SealOp := none
  /-- Consecutive timeouts of each pseudo-channel, index 64 × stack + pseudo-channel (R280). -/
  pcLate : SMap Nat := []
  /-- Refresh mode in force (R261), bytes read by each stack in the running 10 ms interval (R263) and corrected errors
  of each stack in the running second (R275). -/
  refMode : Nat := 0
  bwRead : SMap Nat := []
  ceSecond : SMap Nat := []
  /-- Bias state of 2 MiB pages of stacked memory (R400). -/
  bias : SMap Nat := []
  biasOp : Option BiasOp := none
  image : Image := {}
  loader : Loader := {}
  queues : SMap Queue := []
  anchors : SMap Word32 := []
  streams : SMap Stream := []
  hosts : SMap HostSt := []
  hostHeld : List HostAcc := []
  /-- The objects in the run-time's allocation tables, as address and bytes (R415). -/
  objects : List (Nat × Nat) := []
  /-- Mailbox state (R410) and the heartbeat each control core had when Siolo last looked (R408). -/
  mbx : SMap Mailbox := []
  log : Log := {}
  mats : SMap Mat := []
  vecs : SMap VecEng := []
  attCtx : SMap (Option AttCtx) := []
  walkers : SMap Walker := []
  /-- Walker misses in the control cores' queues (R409), by control core. -/
  ccReqs : SMap (List CcReq) := []
  kvPools : SMap KvPool := []
  hauls : SMap Haul := []
  /-- Credit state by pool: Store pool k, or 64 + n for the local pool of core n. -/
  credits : SMap Credit := []
  upd : Upd := {}
  /-- Shards pending for a fingerprint tail, by 8,192 × party + shard (R374). -/
  fpMarks : SMap Bool := []
  linkPorts : SMap LinkPort := []
  linkParties : SMap LinkParty := []
  /-- Anchor operations on their way to the routers that hold the anchors, in arrival order (R95): anchor, SET, VALUE. -/
  anchorOps : List (Nat × Bool × Word32) := []
  loops : Loops := {}
  /-- Reported readings by `256 × kind + index`: kind 0 temperature, 1 voltage, 2 current, 3 coolant (R418, R419). -/
  sensors : SMap (Option Reading) := []
  /-- Overcurrent limits that software has lowered (R424). -/
  ocLimit : SMap (Option Nat) := []
  /-- STATUS_WORD bits latched for PMBus (R444), and the dynamic I3C address (R443). -/
  pmb : Nat := 0
  i3c : Option Nat := none
  /-- The reply that waits for a private read over I3C after its in-band interrupt (R468). -/
  i3cHeld : Option (List Byte) := none
  /-- The xSPI flash by offset; a byte not listed is erased (R450, R451). -/
  flash : SMap Nat := []
  flashOp : Option FlashOp := none
  boot : Boot := .header false
  sioFw : Firmware := {}
  ccFw : Firmware := {}
  /-- The private memories, outside the device address map (R23, R407, R417): byte o of control core c's local memory at
  `2^52 + c × 2^20 + o`, of Siolo's SRAM at `2^52 + 2^24 + o`, of its boot ROM at `2^52 + 2^25 + o`. -/
  priv : Memory := { open_ := [(2 ^ 52, 2 ^ 53, 0)] }
  session : Option Session := none
  power : Power := {}
  /-- What waits at the host ports for the end of a change of the operating point, in arrival order (R478). -/
  heldOps : List HeldOp := []
  /-- The model's own fields. What the memories do to the command in hand; empty between commands. -/
  env : Env := {}
  /-- Who is making the memory accesses of the command in hand, and what those accesses still wait for. -/
  token : Tok := .idle
  needs : List Need := []
  /-- Needs sent out and not answered, by token, and answers that have arrived. -/
  outstanding : List (Tok × Need) := []
  answers : List (Tok × Need × Answer) := []
  /-- What has left the device. -/
  out : List Out := []
  /-- The counter that free values are drawn by. -/
  free : Nat := 1
  deriving DecidableEq, Repr

/-- The machine right after reset: power-up of a part whose board then supplies it, no image in force, every register
at its reset value and no command waiting; the Aedlink ports, which `LNK_PORT_CTRL.DISABLE` leaves enabled, have begun to train
(R353): `LNK_PORT_STATUS` reads STATE 1 and, as at reset, PEER_PARTY 0xFF. -/
def State.reset : State := { regs := (List.range 18).map (fun p => (Reg.LNK_PORT_STATUS p, 0x3FC00000001)) }

end Sys2Proof.Machine
end

