-- ==== Sys2Proof/Machine/Ops.lean ====
section
/-! DEFINITION. The named operations every command is built from: register storage and fields, event flags and their
counters, posting to the cairn log, the address map, and reads and writes of memory with their errors. -/

namespace Sys2Proof.Machine

/-! ## Registers -/

/-- The register table of a slot (R38). -/
def slotTable (slot : Nat) : List RegDesc :=
  match slot with
  | 0 => regTableSYS | 1 => regTableRTE | 2 => regTableCQ | 3 => regTableME | 4 => regTableACC | 5 => regTableVE
  | 6 => regTableATT | 7 => regTableMEM | 8 => regTableHAUL | 9 => regTableUPD | 10 => regTableLNK
  | 11 => regTableHST | 12 => regTableMBX | 13 => regTableSIO | 14 => regTableSEC | 15 => regTableCLK
  | 16 => regTablePWR | _ => []

/-- Whether a distance from a row's base is that of one of its elements. -/
def inDims : List (Nat × Nat) → Nat → Bool
  | [], d => d == 0
  | (c, st) :: r, d => decide (d / st < c) && inDims r (d % st)

/-- The row of the register map whose element lies at an offset in register space; none is an unmapped offset. -/
def findReg (off : Nat) : Option RegDesc :=
  (slotTable (off / 0x1000000)).find? (fun r => decide (r.base ≤ off) && inDims r.dims (off - r.base))

/-- The bits of the fields of some access types, as a mask. -/
def accMask (acc : Access) : List Fld → Nat
  | [] => 0
  | f :: r => (if f.acc = acc then (2 ^ (f.hi + 1 - f.lo) - 1) <<< f.lo else 0) ||| accMask acc r

/-- The reset value of a register: that of its fields, reserved bits zero (R13). -/
def fieldsReset : List Fld → Nat
  | [] => 0
  | f :: r => f.rst * 2 ^ f.lo + fieldsReset r

def regReset (off : Nat) : Word :=
  match findReg off with
  | some r => BitVec.ofNat 64 (fieldsReset r.fields)
  | none => 0

/-- The stored value of a register. -/
def State.reg (s : State) (off : Nat) : Word := mget (regReset off) s.regs off

/-- Store a register's value. -/
def State.setReg (s : State) (off : Nat) (v : Word) : State :=
  { s with regs := if v = regReset off then mdel s.regs off else mput s.regs off v }

/-- Bits [hi:lo] of a register. -/
def State.fld (s : State) (off hi lo : Nat) : Nat := fget (s.reg off) hi lo

/-- Hardware places a value in bits [hi:lo] of a register. -/
def State.setFld (s : State) (off hi lo x : Nat) : State := s.setReg off (fput (s.reg off) hi lo x)

/-- Add to a counter in bits [hi:lo] of a register, which wraps at its width. -/
def State.addFld (s : State) (off hi lo x : Nat) : State := s.setFld off hi lo (s.fld off hi lo + x)

/-- Add to a 64-bit counter register. -/
def State.count (s : State) (off x : Nat) : State := s.addFld off 63 0 x

/-- Hardware sets a W1C flag, and the 16-bit event counter beside it counts the set (R9). -/
def State.raise (s : State) (flag i cnt lo : Nat) : State := (s.setFld flag i i 1).addFld cnt (lo + 15) lo 1

/-- The device puts something out at its edge. -/
def State.emit (s : State) (o : Out) : State := { s with out := s.out ++ [o] }

/-! ## The cairn log's intake (R430, R433, R434, R440) -/

/-- The slots of the source parts (R432). -/
def slotCC (c : Nat) : Nat := 0x80 + c
def slotStack (c : Nat) : Nat := 0x90 + c
def slotPort (p : Nat) : Nat := 0xA8 + p
def slotHost (h : Nat) : Nat := 0xBA + h
def slotQueues : Nat := 0xC2
def slotUpdate : Nat := 0xC3
def slotLink : Nat := 0xC4
def slotLoader : Nat := 0xC5
def slotSiolo : Nat := 0xC6
def slotSecurity : Nat := 0xC7
def slotClock : Nat := 0xC8
def slotStorePools : Nat := 0xC9
def slotKvPools : Nat := 0xCA
def slotMailboxes : Nat := 0xCB

/-- Whether an image is in force: RTE_STATUS.LOADED. -/
def State.loaded (s : State) : Bool := s.fld Reg.RTE_STATUS 7 7 == 1

/-- How many records the intake holds: the log-space pool while an image is in force and no apply step runs, else
32 KiB of Siolo SRAM (R430). -/
def State.intakeCap (s : State) : Nat :=
  if s.loaded && s.fld Reg.RTE_STATUS 19 16 != 4 then
    match s.image.pools.find? (fun p => p.kind == 4) with
    | some p => p.count * 0x10000 / 32
    | none => 1024
  else 1024

/-- A TRACE record is dropped and counted (R433). -/
def State.dropTrace (s : State) (r : LogRec) : State :=
  let s := (s.count (Reg.SIO_LOG_DROP r.src) 1).raise Reg.SIO_EVENT 0 Reg.SIO_EVENT_CNT 0
  { s with log := { s.log with dropped := mmod 0 s.log.dropped r.src (· + 1) } }

/-- Add a record to the summary table's entries. -/
def sumAdd (r : LogRec) : List SumEnt → Option (List SumEnt)
  | [] => none
  | e :: t =>
    if e.last.code = r.code ∧ e.last.src = r.src then some (⟨e.count + 1, r⟩ :: t)
    else (sumAdd r t).map (e :: ·)

/-- A record is coalesced into the summary table of 256 entries, or counted by class where it finds the table full
(R434). -/
def State.coalesce (s : State) (r : LogRec) : State :=
  match sumAdd r s.log.sums with
  | some t => { s with log := { s.log with sums := t } }
  | none =>
    if s.log.sums.length < 256 then { s with log := { s.log with sums := s.log.sums ++ [⟨1, r⟩] } }
    else { s with log := { s.log with overflow := mmod 0 s.log.overflow r.cls (· + 1) } }

/-- The valid and unacknowledged entries of the alarm file. -/
def alarmPending (m : SMap (Option AlarmEnt)) : Nat :=
  (m.filter (fun e => match e.2 with | some a => !a.acked | none => false)).length

/-- The entry an ALARM takes: the valid one it matches, else the lowest invalid one, else the lowest acknowledged. -/
def alarmSlot (m : SMap (Option AlarmEnt)) (code src : Nat) : Option Nat :=
  let same := (List.range 64).find? (fun i => match mget none m i with
    | some a => a.entry.code == code && a.entry.src == src | none => false)
  let free := (List.range 64).find? (fun i => mget none m i == none)
  let acked := (List.range 64).find? (fun i => match mget none m i with
    | some a => a.acked | none => false)
  (same.orElse (fun _ => free)).orElse (fun _ => acked)

/-- An ALARM is latched in the alarm file and in STATUS_WORD, and sent to the board (R440, R441, R444). -/
def State.latchAlarm (s : State) (r : LogRec) : State :=
  let s := { s.emit (.alarm r.code r.src) with pmb := Nat.lor s.pmb 1 }
  match alarmSlot s.log.alarms r.code r.src with
  | some i =>
    let old := mget none s.log.alarms i
    let n := match old with
      | some a => if a.entry.code = r.code ∧ a.entry.src = r.src then a.count + 1 else 1
      | none => 1
    let m := mset none s.log.alarms i (some ⟨r, n, false⟩)
    let s := { s with log := { s.log with alarms := m } }
    s.setFld Reg.SIO_ALARM_STATUS 6 0 (alarmPending m)
  | none => s.raise Reg.SIO_ALARM_STATUS 7 Reg.SIO_ALARM_STATUS 8

/-- A record enters the intake, or an ALARM its own lane of 64 entries; a source that finds the lane full holds its
ALARM; the rules of R433 for F = 0 apply where the intake is full (R430). -/
def State.intakeRec (s : State) (r : LogRec) : State :=
  if r.cls = 3 then
    let s := s.latchAlarm r
    if s.log.lane.length < 64 ∧ s.log.heldAlarms = [] then { s with log := { s.log with lane := s.log.lane ++ [r] } }
    else { s with log := { s.log with heldAlarms := s.log.heldAlarms ++ [r] } }
  else if s.log.intake.length < s.intakeCap then { s with log := { s.log with intake := s.log.intake ++ [r] } }
  else if r.cls = 0 then s.dropTrace r
  else s.coalesce r

/-- The free-running counter (R476). -/
def State.now (s : State) : Nat := (s.reg Reg.CLK_TIME).toNat

/-- Post an event with a STEP of the poster's own (R431, R438, R439). -/
def State.postStep (s : State) (src step code cls arg : Nat) : State :=
  s.intakeRec { time := s.now, step, code, src, cls, arg := arg % 2 ^ 96 }

/-- RSEQ of the open reduction, that of the lowest party that has one, or 0 (R438). -/
def State.openRseq (s : State) : Nat :=
  match s.linkParties.filterMap (fun p => p.2.red) with
  | x :: _ => leAt x.item.bytes 0x20 8
  | [] => 0

/-- Post an event whose STEP is that of its source: the core's step, for Aedlink the open reduction's RSEQ, else SIO_STEP
(R438). -/
def State.post (s : State) (src code cls arg : Nat) : State :=
  let step := if src < 0x80 then (mget {} s.streams src).step
    else if (0xA8 ≤ src ∧ src ≤ 0xB9) ∨ src = slotLink then s.openRseq
    else (s.reg Reg.SIO_STEP).toNat
  s.postStep src step code cls arg

/-! ## The address map (R35–R39) -/

/-- What an address reaches. -/
inductive Place where
  | stacked
  | spill (h off : Nat)
  | coreLocal (n off : Nat)
  | store (off : Nat)
  | regs
  | hole
  deriving DecidableEq, Repr

def stackedEnd : Nat := 0x12000000000
def spillBase (h : Nat) : Nat := 0x8000000000000 + h * 0x10000000000
def localBase (n : Nat) : Nat := 0xC000000000000 + n * 0x1000000
def localSize : Nat := 0x600000
def storeBase : Nat := 0xC100000000000
def storeSize : Nat := 0x10000000
def regBase : Nat := 0xE000000000000

/-- Bytes of a host's spill window that are enabled (R37, R397). -/
def State.spillSize (s : State) (h : Nat) : Nat :=
  if s.fld (Reg.HST_SPILL_CFG h) 0 0 = 1 then s.fld (Reg.HST_SPILL_SIZE h) 10 0 * 2 ^ 30 else 0

/-- Whether an address lies in the spill windows, enabled or not. -/
def inSpill (a : Nat) : Bool := decide (spillBase 0 ≤ a ∧ a < spillBase 8)

/-- Decode a device physical address (R35, R36, R397). -/
def State.place (s : State) (a : Nat) : Place :=
  if a < stackedEnd then .stacked
  else if spillBase 0 ≤ a ∧ a < spillBase 8 then
    let h := (a - spillBase 0) / 0x10000000000
    let o := (a - spillBase 0) % 0x10000000000
    if o < s.spillSize h then .spill h o else .hole
  else if localBase 0 ≤ a ∧ a < localBase 128 then
    let n := (a - localBase 0) / 0x1000000
    let o := (a - localBase 0) % 0x1000000
    if o < localSize then .coreLocal n o else .hole
  else if storeBase ≤ a ∧ a < storeBase + storeSize then .store (a - storeBase)
  else if regBase ≤ a ∧ a < regBase + 0x20000000 then .regs
  else .hole

/-- The end of the populated range that holds an address: the address itself in a hole or in register space (R39). -/
def State.rangeEnd (s : State) (a : Nat) : Nat :=
  match s.place a with
  | .stacked => stackedEnd
  | .spill h _ => spillBase h + s.spillSize h
  | .coreLocal n _ => localBase n + localSize
  | .store _ => storeBase + storeSize
  | .regs => a
  | .hole => a

/-- The first address of a range that data may not be at, if there is one (R36, R39). Windows of adjacent hosts can
touch, so the check goes on where a range ends; nine ranges are the most that can. -/
def State.firstBad (s : State) : Nat → Nat → Nat → Option Nat
  | 0, a, _ => some a
  | fuel + 1, a, len =>
    if len = 0 then none
    else
      let e := s.rangeEnd a
      if e = a then some a
      else if a + len ≤ e then none
      else s.firstBad fuel e (a + len - e)

/-- The first address of a range that is a hole or in register space. -/
def State.holeIn (s : State) (a len : Nat) : Option Nat := s.firstBad 10 a len

/-- Whether the command in hand has sent reads through a spill window: it has passed its address checks, and each of its later
requests ends for itself (R36, R272, R397). -/
def State.midSpill (s : State) : Bool :=
  let mine := fun (tok : Tok) (n : Need) => tok == s.token && (match n with | .spill _ _ => true | _ => false)
  s.outstanding.any (fun x => mine x.1 x.2) || s.answers.any (fun x => mine x.1 x.2.1)

/-- The range check of R36: the first address that is a hole or in register space, where the command in hand has not passed the
check before. -/
def State.rangeBad (s : State) (a len : Nat) : Option Nat := if s.midSpill then none else s.holeIn a len

/-- Whether a range lies wholly in stacked memory. -/
def inStacked (a len : Nat) : Bool := decide (a + len ≤ stackedEnd)

/-- Whether a range lies in the populated core-local memory of one core. -/
def inLocal (n a len : Nat) : Bool := decide (localBase n ≤ a ∧ a + len ≤ localBase n + localSize)

/-! ## Interleave (R259) -/

/-- The region of the map in force that holds a stacked-memory address. -/
def regionOf (rs : List Region) (a : Nat) : Option Region :=
  rs.find? (fun r => decide (r.base ≤ a ∧ a < r.base + r.size))

/-- The stack and pseudo-channel that hold a stacked-memory address (R259). -/
def locate (rs : List Region) (a : Nat) : Nat × Nat :=
  match regionOf rs a with
  | none => (0, 0)
  | some r =>
    let ss := setBitList 24 r.stackMask
    let ps := setBitList 64 r.pcMask
    let g := (a - r.base) / (256 * 2 ^ r.granule)
    let u := g % (ss.length * ps.length)
    (ss.getD (u % ss.length) 0, ps.getD (u / ss.length) 0)

/-- How many pseudo-channels a region spreads over: n of R259. -/
def Region.ways (r : Region) : Nat := (setBitList 24 r.stackMask).length * (setBitList 64 r.pcMask).length

/-- base_r of R259: what the earlier regions that use a pseudo-channel take of it, each its share SIZE ÷ n. -/
def pcBase (rs : List Region) (base c p : Nat) : Nat :=
  ((rs.takeWhile (fun r => decide (r.base ≠ base))).filter (fun r => bit r.stackMask c && bit r.pcMask p)).foldl
    (fun n r => n + r.size / r.ways) 0

/-- The byte offset within its pseudo-channel of a stacked-memory address (R259). -/
def pcOffset (rs : List Region) (a : Nat) : Nat :=
  match regionOf rs a with
  | none => 0
  | some r =>
    let (c, p) := locate rs a
    let gran := 256 * 2 ^ r.granule
    pcBase rs r.base c p + (a - r.base) / gran / r.ways * gran + (a - r.base) % gran

/-! ## Errors of memory accesses (R275–R283) -/

/-- Whether stack c is trained and in service (R262). -/
def State.stackUp (s : State) (c : Nat) : Bool := s.fld (Reg.MEM_STK_STATUS c) 0 0 == 1

/-- The source slot of a memory event about an address (R432). -/
def State.memSlot (s : State) (src : Src) (a : Nat) : Nat :=
  if a < stackedEnd then slotStack (locate s.image.regions a).1 else src.slot

/-- Log an error of an access: MEM_ERR_ADDR, MEM_ERR_SRC, the flag and the event of its kind (R282, R283). Kinds:
1 uncorrectable read, 2 partial write dropped, 3 read timeout, 4 write timeout, 5 scrub find. -/
def State.memErr (s : State) (src : Src) (kind a : Nat) : State :=
  let s := s.setReg Reg.MEM_ERR_ADDR (BitVec.ofNat 64 (kind * 2 ^ 60 + a % 2 ^ 52))
  let s := s.setReg Reg.MEM_ERR_SRC (BitVec.ofNat 64 (src.kind * 2 ^ 28 + src.id % 2 ^ 16))
  let arg := a % 2 ^ 52 + kind * 2 ^ 52 + src.kind * 2 ^ 56 + src.id % 2 ^ 16 * 2 ^ 60
  if kind = 3 ∨ kind = 4 then
    (s.raise Reg.MEM_EVENT 2 Reg.MEM_EVENT_CNT0 32).post (s.memSlot src a) 0x0302 2 arg
  else
    (s.raise Reg.MEM_EVENT 1 Reg.MEM_EVENT_CNT0 16).post (if kind = 5 then src.slot else s.memSlot src a) 0x0301 2 arg

/-- A request to a pseudo-channel timed out: 16 in a row with no completed request between mark it down (R280). -/
def State.pcTimeout (s : State) (c p : Nat) : State :=
  let n := mget 0 s.pcLate (64 * c + p) + 1
  let s := { s with pcLate := mset 0 s.pcLate (64 * c + p) n }
  if n = 16 ∧ ¬ bit (s.reg (Reg.MEM_STK_PC_DOWN c)).toNat p then
    let s := s.setFld (Reg.MEM_STK_PC_DOWN c) p p 1
    (s.raise Reg.MEM_EVENT 3 Reg.MEM_EVENT_CNT0 48).post (slotStack c) 0x0303 3 (c + p * 32)
  else s

/-- A request to a pseudo-channel completed. -/
def State.pcDone (s : State) (c p : Nat) : State := { s with pcLate := mset 0 s.pcLate (64 * c + p) 0 }

/-- A corrected error of stack c at an address (R275). -/
def State.corrected (s : State) (c a : Nat) : State :=
  let s := { (s.count (Reg.MEM_STK_CE c) 1) with ceSecond := mmod 0 s.ceSecond c (· + 1) }
  s.post (slotStack c) 0x0305 0 (a % 2 ^ 52)

/-- Whether no request reaches an address of stacked memory: its stack is not in service or its pseudo-channel is down
(R262, R280). -/
def State.pcDead (s : State) (a : Nat) : Bool :=
  let (c, p) := locate s.image.regions a
  !s.stackUp c || bit (s.reg (Reg.MEM_STK_PC_DOWN c)).toNat p

/-- Whether a request of n bytes times out: it does not reach its stack, or the environment says so of one of its lines. A
timeout is possible in stacked memory only (R262, R278, R280). -/
def State.timesOut (s : State) (a n : Nat) : Bool :=
  decide (a < stackedEnd) && (s.pcDead a
    || s.env.faults.any (fun f => decide (a / 32 ≤ f.1 / 32 ∧ f.1 / 32 ≤ (a + n - 1) / 32) && f.2 == .timeout))

/-- The error, but for a timeout, that an access to a line meets. -/
def State.lineFault (s : State) (la : Nat) : Option MemFault :=
  (s.env.faults.find? (fun f => f.1 == la && f.2 != .timeout)).map (·.2)

/-- Whether a 32-byte line has the poison mark. -/
def State.poisoned (s : State) (line : Nat) : Bool := mget false s.poison line

def State.setPoison (s : State) (line : Nat) (v : Bool) : State := { s with poison := mset false s.poison line v }

/-- The operating point is changing: CLK_STATUS.BUSY (R478). -/
def State.oppBusy (s : State) : Bool := s.fld Reg.CLK_STATUS 2 2 == 1

/-- New requests are held at the controllers' intake: by the apply step, or while the operating point changes (R71, R478). -/
def State.memHold (s : State) : Bool := s.loader.hold || s.power.opp.isSome

/-- What Siolo's processor does, and what a host or a peer asks of the device: held while the operating point changes
(R478). -/
def State.unpaused (s t : State) : State := if s.oppBusy then s else t

/-! ## Bytes -/

/-- What an address reads as that no cell lists: a free value in a range whose contents the spec calls undefined,
else 0. -/
def Memory.unlisted (m : Memory) (a : Nat) : Byte :=
  match m.open_.find? (fun r => decide (r.1 ≤ a ∧ a < r.2.1)) with
  | some r => Config.freeByte r.2.2 a
  | none => 0

/-- One byte of memory. -/
def Memory.byte (m : Memory) (a : Nat) : Byte := mget (m.unlisted a) m.cells a

/-- Write one byte, keeping the canonical form. -/
def Memory.setByte (m : Memory) (a : Nat) (b : Byte) : Memory :=
  { m with cells := if b = m.unlisted a then mdel m.cells a else mput m.cells a b }

def Memory.bytes (m : Memory) (a len : Nat) : List Byte :=
  let near := m.cells.filter (fun c => decide (a ≤ c.1 ∧ c.1 < a + len))
  (List.range len).map (fun i => mget (m.unlisted (a + i)) near (a + i))

def Memory.setBytes (m : Memory) (a : Nat) : List Byte → Memory
  | [] => m
  | b :: r => (m.setByte a b).setBytes (a + 1) r

/-- The canonical form of memory: addresses strictly rising, and no cell equal to what an unlisted address reads as. -/
def Memory.wf (m : Memory) : Bool :=
  risingFrom 0 m.cells && m.cells.all (fun c => decide (c.2 ≠ m.unlisted c.1))

/-- The contents of a range become undefined: its cells go, and its bytes are free values of a fresh stamp. -/
def Memory.openRange (m : Memory) (lo hi stamp : Nat) : Memory :=
  { cells := m.cells.filter (fun c => decide (¬ (lo ≤ c.1 ∧ c.1 < hi)))
    open_ := (lo, hi, stamp) :: m.open_ }

def State.openRange (s : State) (lo hi : Nat) : State :=
  { s with mem := s.mem.openRange lo hi s.free, free := s.free + 1,
           poison := s.poison.filter (fun p => decide (¬ (lo ≤ p.1 * 32 ∧ p.1 * 32 < hi))) }

/-! ## What accesses wait for outside the device (R71, R397, R398, R402) -/

/-- Whether host h is enabled: its link is Up and its HDM decoder is committed (R395). -/
def State.hostEnabled (s : State) (h : Nat) : Bool := s.fld (Reg.HST_HOST_STATUS h) 1 0 == 3

/-- The answer that has arrived for a need of the command in hand. -/
def State.answerOf (s : State) (n : Need) : Option Answer :=
  (s.answers.find? (fun x => x.1 == s.token && x.2.1 == n)).map (·.2.2)

/-- A command is through: what it waited for is used up. -/
def State.closeTok (s : State) (tok : Tok) : State :=
  { s with env := {}, token := .idle, answers := s.answers.filter (fun x => x.1 != tok) }

/-- Record that the command in hand waits for a need. -/
def State.need (s : State) (n : Need) : State := if n ∈ s.needs then s else { s with needs := s.needs ++ [n] }

/-- The bias state of the page of an address (R400). -/
def State.biasOf (s : State) (a : Nat) : Nat := mget 0 s.bias (a / 0x200000)

/-- The numbers from lo to hi, hi included. -/
def upTo (lo hi : Nat) : List Nat := (List.range (hi + 1 - lo)).map (lo + ·)

/-- A request to a stack is held at its controller's intake while requests are held (R71, R478). -/
def State.intake (s : State) (stk : Bool) : State := if stk && s.memHold then s.need .hold else s

/-- The controller and the pseudo-channel of a line. -/
def State.lineHome (s : State) (stk : Bool) (la : Nat) : Nat × Nat := if stk then locate s.image.regions la else (0, 0)

/-- A read that its stack completed is counted (R263, R280). -/
def State.tallyRead (s : State) (stk : Bool) (cp : Nat × Nat) (n : Nat) : State :=
  if stk then { ((s.pcDone cp.1 cp.2).count (Reg.MEM_STK_RD cp.1) n) with bwRead := mmod 0 s.bwRead cp.1 (· + n) } else s

/-- A write of n bytes that its stack completed is counted; one that is dropped writes none. -/
def State.tallyWrite (s : State) (stk : Bool) (cp : Nat × Nat) (n : Nat) : State :=
  if stk then (s.pcDone cp.1 cp.2).count (Reg.MEM_STK_WR cp.1) n else s

/-- A corrected error is posted, and in a stack also counted (R275). -/
def State.tallyCe (s : State) (stk : Bool) (src : Src) (f : Option MemFault) (cp : Nat × Nat) (la : Nat) : State :=
  if f = some .corrected then
    if stk then s.corrected cp.1 la else s.post src.slot 0x0305 0 (la % 2 ^ 52)
  else s

/-! ## Requests (R272, R276–R282, R296) -/

/-- The unit whose boundary no request crosses: 2 KiB in stacked memory and the Store and never beyond one interleave
granule, 512 bytes in core-local memory, 256 bytes in a spill window. -/
def State.reqUnit (s : State) (a : Nat) : Nat :=
  if a < stackedEnd then
    match regionOf s.image.regions a with
    | some r => min 2048 (256 * 2 ^ r.granule)
    | none => 2048
  else if inSpill a then 256
  else if localBase 0 ≤ a ∧ a < localBase 128 then 512
  else 2048

/-- A range cut into its requests, each an address and a length, of a requester whose requests cross no multiple of `cap`. -/
def State.cutReqs (s : State) (cap : Nat) : Nat → Nat → Nat → List (Nat × Nat)
  | 0, _, _ => []
  | fuel + 1, a, len =>
    if len = 0 then []
    else
      let u := min cap (s.reqUnit a)
      let n := min len (u - a % u)
      (a, n) :: s.cutReqs cap fuel (a + n) (len - n)

/-- The requests of an access. -/
def State.requestsBy (s : State) (cap a len : Nat) : List (Nat × Nat) := s.cutReqs cap (len / 256 + 2) a len

def State.requests (s : State) (a len : Nat) : List (Nat × Nat) := s.requestsBy 2048 a len

/-- The 32-byte lines of a request. -/
def linesOf (a n : Nat) : List Nat := upTo (a / 32) ((a + n - 1) / 32)

/-- Write the part of one 32-byte line that lies in [a, a + bytes). A line of `bad` is written with the poison mark
(R276); a partial write of a line that holds an error or a mark stores nothing (R277). -/
def State.writeLine (src : Src) (a : Nat) (bytes : List Byte) (bad : List Nat)
    (acc : State × Option (Nat × Nat)) (line : Nat) : State × Option (Nat × Nat) :=
  let (s, err) := acc
  let la := line * 32
  let lo := max a la
  let n := min (a + bytes.length) (la + 32) - lo
  let stk := decide (la < stackedEnd)
  let cp := s.lineHome stk la
  let f := s.lineFault la
  if n < 32 ∧ (f = some .uncorrectable ∨ s.poisoned line) then
    (((s.tallyWrite stk cp 0).setPoison line true).memErr src 2 la, err.orElse (fun _ => some (7, lo)))
  else
    let s := (s.tallyWrite stk cp n).tallyCe stk src f cp la
    let s := { s with mem := s.mem.setBytes lo (slice bytes (lo - a) n) }
    (if n = 32 ∨ la ∈ bad then s.setPoison line (decide (la ∈ bad)) else s, err)

/-- A write request through a spill window (R272, R276): one memory request, or where a line of it is poisoned one for each
line, those of `bad` with the poisoned bit. -/
def State.spillOut (s : State) (h a : Nat) (bytes : List Byte) (bad : List Nat) : State :=
  let s := s.count (Reg.MEM_SPILL_WR h) bytes.length
  let home := s.fld (Reg.HST_SPILL_CFG h) 63 12 * 4096
  let lines := linesOf a bytes.length
  if lines.any (fun l => decide (l * 32 ∈ bad)) then
    lines.foldl (fun s l =>
      let lo := max a (l * 32)
      s.emit (.spillWrite h (home + (lo - spillBase h)) (slice bytes (lo - a) (min (a + bytes.length) (l * 32 + 32) - lo))
        (decide (l * 32 ∈ bad)))) s
  else s.emit (.spillWrite h (home + (a - spillBase h)) bytes false)

/-- EV_ADDR_RANGE about one access (R36, R432). -/
def State.rangeErr (s : State) (src : Src) (a : Nat) : State := s.post src.slot 0x0002 2 (a % 2 ^ 52)

/-- Whether what a command waits for has been sent for it and not used up. -/
def State.sent (s : State) (tok : Tok) (n : Need) : Bool :=
  s.outstanding.any (fun x => x.1 == tok && x.2 == n) || s.answers.any (fun x => x.1 == tok && x.2.1 == n)

/-- One write request of n bytes of those that go to base, past the intake (R276–R280, R282). A request that times out is
dropped whole and logged once; one to a spill window that has been disabled writes nothing and ends with ADDR_RANGE (R36, R397).
The result is the status and address of the first failure. -/
def State.storeReq (src : Src) (base : Nat) (bytes : List Byte) (bad : List Nat)
    (acc : State × Option (Nat × Nat)) (r : Nat × Nat) : State × Option (Nat × Nat) :=
  let (s, err) := acc
  let (a, n) := r
  let data := slice bytes (a - base) n
  match s.place a with
  | .spill h _ => (s.spillOut h a data bad, err)
  | .hole => (s.rangeErr src a, err.orElse (fun _ => some (6, a)))
  | _ =>
    let stk := decide (a < stackedEnd)
    if s.timesOut a n then
      ((s.memErr src 4 a).pcTimeout (s.lineHome stk a).1 (s.lineHome stk a).2, err.orElse (fun _ => some (8, a)))
    else (linesOf a n).foldl (State.writeLine src a data bad) (s, err)

/-- One write request of an access: to stacked memory it passes the controllers' intake. -/
def State.writeReq (src : Src) (base : Nat) (bytes : List Byte) (bad : List Nat)
    (acc : State × Option (Nat × Nat)) (r : Nat × Nat) : State × Option (Nat × Nat) :=
  State.storeReq src base bytes bad (acc.1.intake (decide (r.1 < stackedEnd)), acc.2) r

/-- The seal state of the page of a stacked-memory address (R265). -/
def State.sealOf (s : State) (a : Nat) : Nat := mget 0 s.seals (a / 0x200000)

/-- Whether a spill-window page lies in a SEALED or DRAINING slot of its host (R269). -/
def State.spillSealed (s : State) (h off : Nat) : Bool :=
  (List.range 16).any (fun i =>
    let t := mget {} s.spillSeals (16 * h + i)
    t.state != 0 && decide (t.first ≤ off / 0x200000 ∧ off / 0x200000 < t.first + t.count))

/-- A write to a SEALED or DRAINING page or slot is a breach: it is performed, flagged and posted (R268, R269). -/
def State.breach (s : State) (src : Src) (a : Nat) : State :=
  let s := s.setReg Reg.MEM_BREACH_ADDR (BitVec.ofNat 64 (src.kind * 2 ^ 60 + src.id % 256 * 2 ^ 52 + a % 2 ^ 52))
  (s.raise Reg.MEM_EVENT 0 Reg.MEM_EVENT_CNT0 0).post (s.memSlot src a) 0x0300 2
    (a % 2 ^ 52 + src.kind * 2 ^ 52 + src.id % 2 ^ 16 * 2 ^ 56)

def State.breachCheck (src : Src) (a : Nat) (s : State) (page : Nat) : State :=
  let pa := max a (page * 0x200000)
  match s.place pa with
  | .stacked => if s.sealOf pa = 0 then s else s.breach src pa
  | .spill h o => if src.kind ≠ 2 ∧ s.spillSealed h o then s.breach src pa else s
  | _ => s

/-- Check each page that a write touches for a breach. -/
def State.breachPages (s : State) (src : Src) (a len : Nat) : State :=
  (upTo (a / 0x200000) ((a + len - 1) / 0x200000)).foldl (State.breachCheck src a) s

/-- Dirty data that a host gives back for a line are written by its controller, and checked for a breach (R268, R277, R396, R402,
R404). -/
def State.writeBack (s : State) (h line : Nat) (b : List Byte) : State :=
  let b := b.take 64
  let src : Src := ⟨2, h, slotHost h⟩
  if b = [] then s
  else ((s.requests line b.length).foldl (State.storeReq src line b []) (s.breachPages src line b.length, none)).1

/-! ## Snoops (R402, R403) -/

/-- Snoop one 64-byte line at one host, or use its answer: dirty data have gone to memory as they arrived (R402, R403). -/
def State.snoopHost (line : Nat) (inv : Bool) (s : State) (h : Nat) : State :=
  if (s.answerOf (.snoop h line inv)).isSome then s else s.need (.snoop h line inv)

/-- The hosts an access is snooped at: every enabled host but the one that makes it (R402). -/
def State.snoopTargets (s : State) (src : Src) : List Nat :=
  (List.range 8).filter (fun h => s.hostEnabled h && !(src.kind == 2 && src.id == h))

/-- The snoop round of an access to stacked memory: each 64-byte line of a SHARED or RECALL page (R402). -/
def State.snoopRange (s : State) (src : Src) (a len : Nat) (inv : Bool) : State :=
  if len = 0 ∨ s.bias = [] then s
  else
    (upTo (a / 64) ((a + len - 1) / 64)).foldl (fun s l =>
      if s.biasOf (l * 64) = 0 then s
      else (s.snoopTargets src).foldl (State.snoopHost (l * 64) inv) s) s

/-- What a memory read returns: its bytes, the 32-byte lines (by address) that came back poisoned, and the status and
address of its first failing line. -/
structure Rd where
  bytes : List Byte
  bad : List Nat
  err : Option (Nat × Nat)
  deriving DecidableEq, Repr

/-- Read the part of one 32-byte line that lies in [a, a + len) (R274–R276, R282). -/
def State.readLine (src : Src) (a len : Nat) (acc : State × Rd) (line : Nat) : State × Rd :=
  let (s, rd) := acc
  let la := line * 32
  let lo := max a la
  let n := min (a + len) (la + 32) - lo
  let stk := decide (la < stackedEnd)
  let cp := s.lineHome stk la
  let f := s.lineFault la
  let s := s.tallyRead stk cp n
  if f = some .uncorrectable ∨ s.poisoned line then
    (s.memErr src 1 la, ⟨rd.bytes ++ s.mem.bytes lo n, rd.bad ++ [la], rd.err.orElse (fun _ => some (7, lo))⟩)
  else
    let s := s.tallyCe stk src f cp la
    (s, { rd with bytes := rd.bytes ++ s.mem.bytes lo n })

/-- What a failed request leaves of its data: every line is poisoned. -/
def Rd.fail (rd : Rd) (a n st : Nat) : Rd :=
  ⟨rd.bytes ++ List.replicate n 0, rd.bad ++ (linesOf a n).map (· * 32), rd.err.orElse (fun _ => some (st, a))⟩

/-- One read request (R276–R282, R397, R398): a request that times out is logged once, at its first address; an error completion
of a spill read for each line. A spill read that was sent completes although its window has been disabled since; one that was not
ends with ADDR_RANGE. -/
def State.readReq (src : Src) (acc : State × Rd) (r : Nat × Nat) : State × Rd :=
  let (s, rd) := acc
  let (a, n) := r
  if inSpill a then
    match s.answerOf (.spill a n) with
    | some (.data b) =>
      (s.count (Reg.MEM_SPILL_RD ((a - spillBase 0) / 0x10000000000)) n, { rd with bytes := rd.bytes ++ slice b 0 n })
    | some .late => (s.memErr src 3 a, rd.fail a n 8)
    | some _ => ((linesOf a n).foldl (fun s l => s.memErr src 1 (l * 32)) s, rd.fail a n 7)
    | none =>
      if s.place a = .hole ∧ ¬ s.sent s.token (.spill a n) then (s.rangeErr src a, rd.fail a n 6)
      else (s.need (.spill a n), { rd with bytes := rd.bytes ++ List.replicate n 0 })
  else
    let stk := decide (a < stackedEnd)
    let s := s.intake stk
    if s.timesOut a n then
      ((s.memErr src 3 a).pcTimeout (s.lineHome stk a).1 (s.lineHome stk a).2, rd.fail a n 8)
    else (linesOf a n).foldl (State.readLine src a n) (s, rd)

/-- The requests of a read that has passed its range check. -/
def State.readPast (s : State) (src : Src) (cap a len : Nat) : State × Rd :=
  (s.requestsBy cap a len).foldl (State.readReq src) (s.snoopRange src a len false, ⟨[], [], none⟩)

/-- Read a range of memory (R36, R274–R282, R402) for a requester whose requests cross no multiple of `cap`. A range that reaches a
hole or register space is not read: it ends with ADDR_RANGE and posts EV_ADDR_RANGE. -/
def State.readMemBy (s : State) (src : Src) (cap a len : Nat) : State × Rd :=
  match s.rangeBad a len with
  | some b => (s.rangeErr src b, ⟨List.replicate len 0, [], some (6, b)⟩)
  | none => s.readPast src cap a len

def State.readMem (s : State) (src : Src) (a len : Nat) : State × Rd := s.readMemBy src 2048 a len

/-- The requests of a write that has passed its range check: with the lines of `bad` poisoned (R268, R276–R282, R402). -/
def State.writePast (s : State) (src : Src) (cap a : Nat) (bytes : List Byte) (bad : List Nat) : State × Option (Nat × Nat) :=
  (s.requestsBy cap a bytes.length).foldl (State.writeReq src a bytes bad)
    ((s.snoopRange src a bytes.length true).breachPages src a bytes.length, none)

/-- Write bytes to a range (R36, R268, R276–R282, R402) for a requester whose requests cross no multiple of `cap`. A range that
reaches a hole or register space is not written: it ends with ADDR_RANGE and posts EV_ADDR_RANGE. -/
def State.writeMemBy (s : State) (src : Src) (cap a : Nat) (bytes : List Byte) (bad : List Nat) : State × Option (Nat × Nat) :=
  if bytes = [] then (s, none)
  else
    match s.rangeBad a bytes.length with
    | some b => (s.rangeErr src b, some (6, b))
    | none => s.writePast src cap a bytes bad

def State.writeMemP (s : State) (src : Src) (a : Nat) (bytes : List Byte) (bad : List Nat) : State × Option (Nat × Nat) :=
  s.writeMemBy src 2048 a bytes bad

def State.writeMem (s : State) (src : Src) (a : Nat) (bytes : List Byte) : State × Option (Nat × Nat) :=
  s.writeMemP src a bytes []

/-- Sources: a core's engines, the queues' own accesses, control cores, hosts, the update engine, the link reduction
engine, Siolo (R282, R432). -/
def srcCore (n : Nat) : Src := ⟨0, n, n⟩
def srcQueue (n : Nat) : Src := ⟨0, n, slotQueues⟩
def srcCC (c : Nat) : Src := ⟨1, c, slotCC c⟩
def srcHost (h : Nat) : Src := ⟨2, h, slotHost h⟩
def srcUpdate : Src := ⟨3, 0, slotUpdate⟩
def srcLink : Src := ⟨4, 0, slotLink⟩
def srcSiolo : Src := ⟨5, 0, slotSiolo⟩

/-! ## Commands whose accesses may wait -/

/-- The lines of a host that are to be snooped in the 256-byte block of a line. -/
def snoopBlock (h line : Nat) (inv : Bool) : List Need → List Nat
  | [] => []
  | .snoop h' l i :: r =>
    if h' = h ∧ i = inv ∧ l / 256 = line / 256 then l :: snoopBlock h line inv r else snoopBlock h line inv r
  | _ :: r => snoopBlock h line inv r

/-- Send one thing that a command waits for: a spill read request, or with the first line of a block at a host one snoop for
the lines of that block, counted at the host (R398, R402). -/
def State.sendNeed (tok : Tok) (new : List Need) (s : State) (n : Need) : State :=
  let s := { s with outstanding := s.outstanding ++ [(tok, n)] }
  match n with
  | .snoop h line inv =>
    let block := snoopBlock h line inv new
    if block.head? = some line then (s.count (Reg.HST_CNT_SNOOP h) 1).emit (.snoop h block inv) else s
  | .spill a len =>
    let h := (a - spillBase 0) / 0x10000000000
    s.emit (.spillRead h (s.fld (Reg.HST_SPILL_CFG h) 63 12 * 4096 + (a - spillBase h)) len)
  | .hold => s

/-- Send what a command waits for and has not sent before. -/
def State.sendNeeds (s : State) (tok : Tok) (needs : List Need) : State :=
  let new := needs.filter (fun n => !s.sent tok n)
  new.foldl (State.sendNeed tok new) s

/-- Run a computation that reads and writes memory. Where some access still waits for the outside, nothing of it
happens but that the waits are sent; run again once they are answered, it goes through. -/
def State.settle (s : State) (tok : Tok) (env : Env) (f : State → State) : State :=
  let t := f { s with env := env, token := tok, needs := [] }
  if t.needs = [] then t.closeTok tok else s.sendNeeds tok t.needs

/-! ## MSI-X (R405) -/

/-- Whether host h exists: an odd one only on a split port (R389). -/
def State.hostExists (s : State) (h : Nat) : Bool := decide (h < 8) && (h % 2 == 0 || bit s.fuses.split (h / 2))

/-- Send an MSI-X message, mark it pending where its vector is masked, or drop it (R405). -/
def State.sendMsix (s : State) (h vec : Nat) : State :=
  if s.hostExists h ∧ s.fld (Reg.HST_HOST_STATUS h) 0 0 = 1 ∧ s.fld (Reg.HST_HOST_STATUS h) 2 2 = 1 then
    let e := mget {} (mget {} s.hosts h).msix vec
    if e.masked then
      { s with hosts := mmod {} s.hosts h (fun x => { x with msix := mset {} x.msix vec { e with pend := true } }) }
    else s.emit (.msix h vec e.addr e.data)
  else
    (s.raise (Reg.HST_HOST_EVENT h) 5 (Reg.HST_HOST_EVENT_CNT1 h) 16).post (slotHost h) 0x0804 1 (h + vec * 2 ^ 16)

/-- A command leaves the queue of waiting commands, and what fuses, ROM and straps fix, as they stood (R26, R148). -/
def State.keep (s t : State) : State := { t with pending := s.pending, fuses := s.fuses }

/-- A command to the device's logic, which a reset holds: while it does, the command has no effect (R481, R484). -/
def State.run (s t : State) : Host.Outcome State Fault Refusal := .next (if s.power.held then s else s.keep t)

/-- An event in which an engine issues: after a thermal or overcurrent trip none does (R420, R422). -/
def State.engine (s t : State) : Host.Outcome State Fault Refusal := s.run (if s.fld Reg.SIO_STATUS 3 2 ≠ 0 then s else t)

/-- A sample of the hardware loops, which run on standby power whether or not the logic is held in reset (R425, R481). While it
is held, the loops keep what they measure and a trip still takes effect; what they post or count is lost with the logic
(DESIGN CHOICE, log 95: the spec is silent). -/
def State.loop (s t : State) : Host.Outcome State Fault Refusal :=
  if s.power.held then
    .next (if s.power.standby then
        let u := { s.setFld Reg.SIO_STATUS 3 2 (t.fld Reg.SIO_STATUS 3 2) with loops := t.loops }
        if s.fld Reg.SIO_STATUS 2 2 = 0 ∧ t.fld Reg.SIO_STATUS 2 2 = 1 then u.emit (.thermtrip true) else u
      else s)
  else .next (s.keep t)

/-- A command to what works whether or not the logic is held in reset: supplies, resets, PMBus (R444, R481–R487). -/
def State.always (s t : State) : Host.Outcome State Fault Refusal := .next (s.keep t)

/-- The one command of the logic that blows fuses (R456). -/
def State.blow (s t : State) : Host.Outcome State Fault Refusal :=
  .next (if s.power.held then s else { t with pending := s.pending })

/-- The one command that samples the straps (R486). -/
def State.strap (s t : State) : Host.Outcome State Fault Refusal := .next { t with pending := s.pending }

/-- A command that names a part of the device that does not exist. -/
def noPart : Host.Outcome State Fault Refusal := .fault .noSuchPart

/-- Run a command whose operands name parts that the device has. -/
def part (has : Bool) (o : Host.Outcome State Fault Refusal) : Host.Outcome State Fault Refusal := if has then o else noPart

end Sys2Proof.Machine
end

