-- ==== Sys2Proof/Machine/Flags.lean ====
section
/-! DEFINITION. The register access types (R7, R8, R10, R13) and the accesses of R11 and R12: what a software write
makes of a register's fields, what a read returns, and which accesses are counted as ill-formed or unmapped. -/

namespace Sys2Proof.Machine

/-- A requester's number: its REQ value in SYS_UNMAPPED_ADDR. -/
def reqNum : Requester → Nat
  | .host h => h
  | .core c => 0x10 + c
  | .siolo => 0x20

/-- The cairn source slot of a requester (R432). -/
def reqSlot : Requester → Nat
  | .host h => slotHost h
  | .core c => slotCC c
  | .siolo => slotSiolo

/-- The requester as a source of memory accesses (R282). -/
def reqSrc : Requester → Src
  | .host h => srcHost h
  | .core c => srcCC c
  | .siolo => srcSiolo

/-- Whether a requester exists on this part (R23, R389). -/
def State.reqExists (s : State) : Requester → Bool
  | .host h => s.hostExists h
  | .core c => decide (c < 16)
  | .siolo => true

/-- Whether the requester of a write of SIO_LOG_TAIL in the same cycle, if there is one, exists. -/
def State.tailExists (s : State) (tail : Option (Requester × Word32)) : Bool := tail.all (fun x => s.reqExists x.1)

/-- What a software write of v makes of a register: RW bits take v, W1C bits are cleared by ones, W1S bits are set by
ones; RO, WO, RC and reserved bits keep their value (R7, R13). -/
def writeFields (fs : List Fld) (old v : Word) : Word :=
  let rw := BitVec.ofNat 64 (accMask .rw fs)
  let w1c := BitVec.ofNat 64 (accMask .w1c fs)
  let w1s := BitVec.ofNat 64 (accMask .w1s fs)
  ((old &&& ~~~rw ||| v &&& rw) &&& ~~~(v &&& w1c)) ||| (v &&& w1s)

/-- What a software read of a register returns: WO bits read zero (R7). -/
def readFields (fs : List Fld) (v : Word) : Word := v &&& ~~~(BitVec.ofNat 64 (accMask .wo fs))

/-- A software write of a register that has no further effect. -/
def State.writePlain (s : State) (off : Nat) (v : Word) : State :=
  match findReg off with
  | some r => s.setReg off (writeFields r.fields (s.reg off) v)
  | none => s

/-- An access that R12 counts: unmapped, ill-formed under R11, or to a host that does not exist. -/
def State.unmapped (s : State) (who : Requester) (off : Nat) : State :=
  let s := s.addFld Reg.SYS_STATUS 63 32 1
  let a := regBase + off
  let s := s.setReg Reg.SYS_UNMAPPED_ADDR (BitVec.ofNat 64 (reqNum who * 2 ^ 56 + a % 2 ^ 52))
  s.post (reqSlot who) 0x0001 1 (a % 2 ^ 52 + reqNum who * 2 ^ 56)

/-- The requester's pending low half and latch. -/
def State.port (s : State) (who : Requester) : Port := mget {} s.ports (reqNum who)

def State.setPort (s : State) (who : Requester) (p : Port) : State :=
  { s with ports := mset {} s.ports (reqNum who) p }

/-- An access that is neither a write nor the high-half read the latch is for ends the requester's latch (R11). -/
def State.endLatch (s : State) (who : Requester) : State := s.setPort who { s.port who with latch := none }

/-- Whether an offset is a per-host register of a host that does not exist (R389). -/
def State.noHostReg (s : State) (off : Nat) : Bool :=
  decide (0xB000000 ≤ off ∧ off < 0xB008000) && !s.hostExists ((off - 0xB000000) / 0x1000)

/-- The offset a write to the register at an offset goes to: a 32-bit write of a 64-bit register is that of its high half
(R11). -/
def writeAt (off : Nat) (d : WData) : Nat :=
  match findReg off, d with
  | some r, .w32 _ => if r.width = 64 then off + 4 else off
  | _, _ => off

/-- A software write reaches the register at an offset (R11): the value that takes effect, if one does. A 32-bit
write to a 64-bit register is the write of its high half. Every write ends the requester's pending low half and its
latch. -/
def State.accWrite (s : State) (who : Requester) (off : Nat) (d : WData) : State × Option Word :=
  let low := (s.port who).low
  let s := s.setPort who {}
  if s.noHostReg off then (s.unmapped who (writeAt off d), none)
  else
    match findReg off, d with
    | none, _ => (s.unmapped who off, none)
    | some r, .w64 v => if r.width = 64 then (s, some v) else (s.unmapped who off, none)
    | some r, .w32 v =>
      if r.width = 32 then (s, some (v.zeroExtend 64))
      else
        match low with
        | some (o, l) =>
          if o = off then (s, some (v ++ l)) else (s.unmapped who (off + 4), none)
        | none => (s.unmapped who (off + 4), none)

/-- A 32-bit write to the low half of a 64-bit register is held for its requester (R11). -/
def State.holdLow (s : State) (who : Requester) (off : Nat) (v : Word32) : State :=
  match findReg off with
  | some r =>
    if r.width = 64 ∧ ¬ s.noHostReg off then s.setPort who { low := some (off, v) }
    else (s.setPort who {}).unmapped who off
  | none => (s.setPort who {}).unmapped who off

/-- A software write of one 32-bit action register, by a value with one action bit set. -/
def State.actWrite (s : State) (who : Requester) : State := s.setPort who {}

end Sys2Proof.Machine
end

