-- ==== Sys2Proof/Machine/Operands.lean ====
section
/-! DEFINITION. The operand forms of command records (R85, R86, R99): their fields, the header and reserved-field
checks that report FORMAT (R14, R86, R110), the seal and its CRC-32C (R87), and inline data. -/

namespace Sys2Proof.Machine

/-! ## CRC-32C (R87) -/

/-- One bit of the reflected CRC-32C. -/
def crcBit (c : Nat) : Nat := if c % 2 = 1 then Nat.xor (c / 2) 0x82F63B78 else c / 2

/-- One byte of it. -/
def crcByte (c : Nat) (b : Byte) : Nat :=
  crcBit (crcBit (crcBit (crcBit (crcBit (crcBit (crcBit (crcBit (Nat.xor c b.toNat))))))))

/-- CRC-32C of a byte string: reflected polynomial 0x1EDC_6F41, initial value and final XOR 0xFFFF_FFFF. -/
def crc32c (b : List Byte) : Nat := Nat.xor (b.foldl crcByte 0xFFFFFFFF) 0xFFFFFFFF

/-- The frame check sequence of an Ethernet frame (R355): IEEE 802.3's CRC-32, least significant byte first (PRESUMED, log 61). -/
def etherFcs (b : List Byte) : List Byte :=
  let bit1 (c : Nat) : Nat := if c % 2 = 1 then Nat.xor (c / 2) 0xEDB88320 else c / 2
  let step (c : Nat) (x : Byte) : Nat := bit1 (bit1 (bit1 (bit1 (bit1 (bit1 (bit1 (bit1 (Nat.xor c x.toNat))))))))
  toLe 4 (Nat.xor (b.foldl step 0xFFFFFFFF) 0xFFFFFFFF)

/-- The SEAL of a record in a slot of a lap (R87). -/
def sealOfRecord (bytes : List Byte) (gen slot : Nat) : Nat :=
  Nat.xor (crc32c (bytes.take 60)) (gen % 256 * 2 ^ 24 + slot)

/-! ## Fields -/

/-- The record fields every opcode has. -/
def Fetched.op (r : Fetched) : Nat := leAt r.bytes 0 1
def Fetched.ver (r : Fetched) : Nat := leAt r.bytes 1 1
def Fetched.flags (r : Fetched) : Nat := leAt r.bytes 2 2
def Fetched.tag (r : Fetched) : Nat := leAt r.bytes 4 4
def Fetched.cmpl (r : Fetched) : Bool := bit r.flags 0
def Fetched.irq (r : Fetched) : Bool := bit r.flags 1
def Fetched.inl (r : Fetched) : Nat := bits r.flags 6 2

/-- A body field of k bytes at an offset from the start of the record. -/
def Fetched.f (r : Fetched) (off k : Nat) : Nat := leAt r.bytes off k

/-- The inline data: the DATA bytes of the chain, concatenated (R99). -/
def Fetched.inlineData (r : Fetched) : List Byte :=
  r.chain.flatMap (fun c => slice c 12 (leAt c 8 1))

/-! ## FORMAT -/

/-- A check of a record: the byte offset of the field and whether the field is as it must be. -/
abbrev Check := Nat × Bool

/-- The offset of the first offending field, if there is one. -/
def firstFail : List Check → Option Nat
  | [] => none
  | c :: r =>
    match firstFail r with
    | none => if c.2 then none else some c.1
    | some o => if c.2 then some o else some (min c.1 o)

/-- The body bytes that no listed field uses must be zero (R14, R89). -/
def unusedZero (b : List Byte) (used : List (Nat × Nat)) : List Check :=
  ((List.range 52).map (· + 8)).filterMap (fun o =>
    if used.any (fun u => decide (u.1 ≤ o ∧ o < u.1 + u.2)) then none else some (o, decide (leAt b o 1 = 0)))

/-- The header checks: version 1 (R14, R17), reserved FLAGS bits, INL at most 16, IRQ only with CMPL (R86), and
inline data only where the record takes it (R101). -/
def headerChecks (b : List Byte) (inlineOk : Bool) : List Check :=
  let fl := leAt b 2 2
  [(1, decide (leAt b 1 1 = 1)),
   (2, decide (bits fl 15 7 = 0) && decide (bits fl 6 2 ≤ 16) && (!bit fl 1 || bit fl 0)
        && (inlineOk || decide (bits fl 6 2 = 0)))]

/-- A 57-bit address field: bits [63:52] zero (R4). -/
def addrCheck (b : List Byte) (off : Nat) : Check := (off, decide (leAt b off 8 < 2 ^ 52))

/-- All of check 1 of a record: the header, the listed fields and the reserved bytes. -/
def formatFail (r : Fetched) (inlineOk : Bool) (used : List (Nat × Nat)) (cs : List Check) : Option Nat :=
  firstFail (headerChecks r.bytes inlineOk ++ cs ++ unusedZero r.bytes used)

/-- The checks of one INLINE record of a chain at its place; bytes that carry no data are reserved (R89, R99). Its FLAGS are zero: it
has no completion of its own (DESIGN CHOICE, log 102: R99 does not say whether it may set CMPL). -/
def inlineChecks (b : List Byte) (idx : Nat) : List Check :=
  [(0, decide (leAt b 0 1 = 5)), (1, decide (leAt b 1 1 = 1)), (2, decide (leAt b 2 2 = 0)),
   (8, decide (1 ≤ leAt b 8 1 ∧ leAt b 8 1 ≤ 48)), (9, decide (leAt b 9 1 = idx))]
  ++ unusedZero b [(8, 2), (12, min 48 (leAt b 8 1))]

/-- The first offence of a chain: the place of its INLINE record, from 0, and the byte offset in it (R99, R100). -/
def chainFail : Nat → List (List Byte) → Option (Nat × Nat)
  | _, [] => none
  | i, b :: r =>
    match firstFail (inlineChecks b i) with
    | some o => some (i, o)
    | none => chainFail (i + 1) r

/-! ## Results -/

/-- Status codes of R110. -/
def stOk : Nat := 0
def stFormat : Nat := 1
def stStale : Nat := 2
def stCancelled : Nat := 3
def stWaitTimeout : Nat := 4
def stQueueBind : Nat := 5
def stAddrRange : Nat := 6
def stMemUncorr : Nat := 7
def stMemTimeout : Nat := 8

/-- A record ends. -/
def done (s : State) (status detail : Nat) : State × Phase := (s, .ended status (detail % 2 ^ 32))

/-- A record ends with OK. -/
def endOk (s : State) : State × Phase := done s stOk 0

/-- A record is rejected: DETAIL is its slot and the offset of the first offending field (R110). -/
def endFormat (s : State) (slot off : Nat) : State × Phase := done s stFormat (slot * 2 ^ 16 + off)

/-- Who runs a record: its queue, the core of the queue and the record. -/
structure Ctx where
  q : Nat
  core : Nat
  item : Fetched
  deriving DecidableEq, Repr

/-- A record whose range is not populated ends with ADDR_RANGE and posts EV_ADDR_RANGE (R36). -/
def endRange (c : Ctx) (s : State) (a : Nat) : State × Phase :=
  done (s.rangeErr (srcCore c.core) a) stAddrRange (a % 2 ^ 32)

/-- A record ends as its memory access did (R110, R276, R278). -/
def endMem (s : State) (err : Option (Nat × Nat)) : State × Phase :=
  match err with
  | none => endOk s
  | some (st, a) => done s st (a % 2 ^ 32)

end Sys2Proof.Machine
end

