-- ==== Sys2Proof/Machine/Queue.lean ====
section
/-! DEFINITION. Queues, streams and completions (03_queues_pitches_belays.md): the state a queue reports, fetch and the
seal check, issue in slot order with pitches and belays, completions and stops, doorbells, ON, OFF and cancel. -/

namespace Sys2Proof.Machine

/-! ## A queue and its registers -/

def State.queue (s : State) (q : Nat) : Queue := mget {} s.queues q
def State.setQueue (s : State) (q : Nat) (x : Queue) : State := { s with queues := mset {} s.queues q x }
def State.modQueue (s : State) (q : Nat) (f : Queue → Queue) : State := s.setQueue q (f (s.queue q))

/-- The core a queue is bound to (R80). -/
def State.queueCore (s : State) (q : Nat) : Nat := s.fld (Reg.CQ_SQ_CFG q) 14 8
/-- Slots of the submission and completion rings (R81). -/
def State.sqSize (s : State) (q : Nat) : Nat := 2 ^ s.fld (Reg.CQ_SQ_CFG q) 4 0
def State.cqSize (s : State) (q : Nat) : Nat := 2 ^ s.fld (Reg.CQ_CQ_CFG q) 4 0
def State.sqBase (s : State) (q : Nat) : Nat := s.fld (Reg.CQ_SQ_BASE q) 51 12 * 4096
def State.cqBase (s : State) (q : Nat) : Nat := s.fld (Reg.CQ_CQ_BASE q) 51 12 * 4096

/-- CQ_SQ_STATUS.STATE (R82). -/
def queueState (x : Queue) : Nat :=
  match x.mode with
  | .disabled => 0
  | .off => 1
  | .stopped => 5
  | .on => if x.held ≠ [] then 4 else if x.head ≠ x.tail ∨ x.pitch ∨ x.cancels ≠ [] then 3 else 2

/-- CQ_SQ_STATUS. -/
def queueStatus (x : Queue) : Word :=
  BitVec.ofNat 64 (x.code * 2 ^ 56 + queueState x * 2 ^ 48 + x.gen * 2 ^ 40 + x.tail * 2 ^ 16 + x.head)

/-- Post a queue event: [10:0] queue, [31:16] slot, [39:32] status (R116, R436). -/
def State.queueEvent (s : State) (code q slot status : Nat) : State :=
  s.post slotQueues code 1 (q + slot % 2 ^ 16 * 2 ^ 16 + status * 2 ^ 32)

def State.queueReject (s : State) (q : Nat) : State := s.raise (Reg.CQ_EVENT q) 2 (Reg.CQ_EVENT_CNT0 q) 32

/-! ## Completions (R106–R111) -/

/-- A completion entry but for its PHASE bit. -/
def completionBytes (tag slot status detail core opcode : Nat) : List Byte :=
  toLe 4 tag ++ toLe 2 slot ++ toLe 1 status ++ toLe 1 0x10 ++ toLe 4 detail ++ toLe 2 core ++ toLe 1 opcode ++ toLe 1 0

/-- Whether the completion ring is full (R107). -/
def State.cqFull (s : State) (q : Nat) : Bool :=
  (((s.queue q).cqTail + 1) % s.cqSize q) == s.fld (Reg.CQ_CQ_HEAD q) 15 0

/-- Write one completion entry at the tail, count it, and raise its MSI-X vector where it is due (R106, R107, R406). -/
def State.putCompletion (s : State) (q : Nat) (e : List Byte × Bool) : State :=
  let x := s.queue q
  let bytes := listSet e.1 7 (BitVec.ofNat 8 (0x10 + x.phase))
  let s := (s.writeMem (srcQueue (s.queueCore q)) (s.cqBase q + 16 * x.cqTail) bytes).1
  let wrap := x.cqTail + 1 = s.cqSize q
  let s := s.modQueue q (fun x => { x with
    cqTail := if wrap then 0 else x.cqTail + 1
    phase := if wrap then 1 - x.phase else x.phase
    flushCount := (x.flushCount + 1) % 2 ^ 32 })
  if e.2 then s.sendMsix (s.fld (Reg.CQ_CQ_CFG q) 30 28) (s.fld (Reg.CQ_CQ_CFG q) 26 16) else s

/-- A completion falls due: it is written, or held while the ring is full or another is held (R108). -/
def State.complete (s : State) (q : Nat) (e : List Byte × Bool) (slot status : Nat) : State :=
  let x := s.queue q
  if x.held = [] then
    if s.cqFull q then
      let s := s.setQueue q { x with held := [e] }
      (s.raise (Reg.CQ_EVENT q) 1 (Reg.CQ_EVENT_CNT0 q) 16).queueEvent 0x0202 q slot status
    else s.putCompletion q e
  else s.setQueue q { x with held := x.held ++ [e] }

/-- Write held completions, oldest first, while the ring has room (R108). -/
def State.drainHeld (q : Nat) : List (List Byte × Bool) → State → State
  | [], s => s.modQueue q (fun x => { x with held := [] })
  | e :: r, s => if s.cqFull q then s.modQueue q (fun x => { x with held := e :: r }) else State.drainHeld q r (s.putCompletion q e)

/-! ## Stops (R109, R116) -/

/-- The mode of a queue that stops. -/
def stopMode (m : QMode) : QMode := if m = .disabled then .disabled else .stopped

/-- The slot and generation that HEAD goes back to: the first record fetched and not issued, the record that owns the
chain being fetched, else where it stands (R109). -/
def backTo (x : Queue) : Nat × Nat :=
  match x.fetched, x.chain with
  | r :: _, _ => (r.slot, r.gen)
  | [], some (r, _) => (r.slot, r.gen)
  | [], none => (x.head, x.gen)

/-- A queue stops: fetch ends, records fetched and not issued are discarded and HEAD goes back to the first of them.
CODE, STOP and the event are those of the first stop (R109). Where a record issued before OFF, or before a load disabled the queue,
ends so, a queue that is OFF becomes STOPPED and a DISABLED one stays DISABLED (DESIGN CHOICE, log 86: the spec is silent). -/
def State.stopQueue (s : State) (q status slot : Nat) : State :=
  let x := s.queue q
  let (h, g) := if status = stQueueBind then (x.head, x.gen) else backTo x
  let first := x.mode ≠ .stopped
  let s := s.setQueue q { x with
    mode := stopMode x.mode, head := h, gen := g, fetched := [], chain := none, rereads := 0, reads := 0
    code := if first then status else x.code }
  if first then
    (s.raise (Reg.CQ_EVENT q) 0 (Reg.CQ_EVENT_CNT0 q) 0).queueEvent (if status = stStale then 0x0201 else 0x0200) q slot status
  else s

/-- A stop of fetch or QUEUE_BIND: the queue stops and one completion with TAG 0 and OPCODE 0 is written (R80, R105,
R106). -/
def State.stopFetch (s : State) (q status slot detail : Nat) : State :=
  let core := s.queueCore q
  (s.stopQueue q status slot).complete q (completionBytes 0 slot status detail core 0, true) slot status

/-! ## Fetch (R92, R93, R99, R100, R104, R105) -/

/-- RTE_CTRL.QUIESCE reads 1 (R65). -/
def State.quiescing (s : State) : Bool := s.fld Reg.RTE_CTRL 0 0 == 1

/-- Engines and streams have stopped issuing: a thermal or overcurrent trip (R420, R422). -/
def State.tripped (s : State) : Bool := s.fld Reg.SIO_STATUS 3 2 != 0

/-- Whether a phase is that of a record that has not begun. -/
def Phase.waits : Phase → Bool
  | .parked .order | .parked .anchor | .parked .interlock | .parked .turn | .parked .slotHold => true
  | _ => false

/-- Whether an issued record has not begun. -/
def notBegun (i : Issued) : Bool := i.phase.waits

/-- Whether an issued record of a queue that has not begun may begin or take effect: no quiesce, no trip, and the queue is
not in HELD (R65, R108, R420). -/
def State.mayBegin (s : State) (q : Nat) : Bool := !s.quiescing && !s.tripped && (s.queue q).held.isEmpty

/-- The slot of the oldest record of a queue that has not begun: HEAD where every fetched record has (R93). -/
def oldestSlot (x : Queue) : Nat :=
  match x.issued.find? notBegun with
  | some i => i.item.slot
  | none => (backTo x).1

/-- The bound core is in the queue's rope (R80). -/
def State.bound (s : State) (q : Nat) : Bool := s.image.coreRope.getD (s.queueCore q) 0xFF == q / 128

/-- Whether the fetcher may read the slot at HEAD: the queue is on, records are announced, fetch is not held by a cancel, a
quiesce or a trip, and the slot lies in the window of 32 whose
lower end is the oldest record that has not begun (R66, R93). -/
def State.canFetch (s : State) (q : Nat) : Bool :=
  let x := s.queue q
  x.mode == .on && x.head != x.tail && x.cancels.isEmpty && !s.quiescing && !s.tripped
    && decide ((x.head + s.sqSize q - oldestSlot x) % s.sqSize q < 32)

/-- Advance HEAD past a slot whose record passed, and the generation after the last slot (R105 step 3). -/
def advance (size : Nat) (x : Queue) : Queue :=
  let x := { x with echoes := x.echoes.filter (fun e => e.1 != x.head), rereads := 0, reads := 0 }
  if x.head + 1 = size then { x with head := 0, gen := (x.gen + 1) % 256 } else { x with head := x.head + 1 }

/-- A record whose seal matched goes to the stream, or joins the chain that is being fetched (R100, R105). -/
def passRecord (size : Nat) (bytes : List Byte) (x : Queue) : Queue :=
  let r : Fetched := { slot := x.head, gen := x.gen, num := x.serial, bytes }
  let y := { advance size x with serial := x.serial + 1 }
  match x.chain with
  | some (owner, k) =>
    let owner := { owner with chain := owner.chain ++ [bytes] }
    if k ≤ 1 then { y with chain := none, fetched := x.fetched ++ [owner] } else { y with chain := some (owner, k - 1) }
  | none =>
    let y := { y with pitch := r.op != 1 }
    if 1 ≤ r.inl ∧ r.inl ≤ 16 then { y with chain := some (r, r.inl) } else { y with fetched := x.fetched ++ [r] }

/-- Whether a slot's bytes carry the seal of its lap, and its echo where one is registered (R87, R104). -/
def sealMatches (x : Queue) (bytes : List Byte) : Bool :=
  let sl := leAt bytes 60 4
  sl == sealOfRecord bytes x.gen x.head
    && (match x.echoes.find? (fun e => e.1 == x.head) with
        | some e => sl % 2 ^ 16 == e.2
        | none => true)

/-- Read the slot at HEAD: pass the record, schedule a re-read, or stop the queue (R105). `reread` tells a re-read from
the first read. -/
def State.readSlot (q : Nat) (reread : Bool) (s : State) : State :=
  let x := s.queue q
  let a := s.sqBase q + 64 * x.head
  let (s, rd) := s.readMem (srcQueue (s.queueCore q)) a 64
  match rd.err with
  | some (st, ea) => s.stopFetch q st x.head ea
  | none =>
    if sealMatches x rd.bytes then s.setQueue q (passRecord (s.sqSize q) rd.bytes x)
    else
      let n := if reread then x.rereads + 1 else 0
      let s := s.setQueue q { x with reads := x.reads + 1, rereads := n }
      if n = 8 then s.stopFetch q stStale x.head (x.reads + 1) else s

/-- RECORD_FETCH: the read of the slot at HEAD. A queue whose core is not in its rope stops first (R80). -/
def State.fetch (s : State) (q : Nat) (env : Env) : State :=
  if s.canFetch q && (s.queue q).reads == 0 then
    s.settle (.queue q) env (fun s =>
      if s.bound q then s.readSlot q false
      else s.stopFetch q stQueueBind (s.queue q).head (s.queueCore q))
  else s

/-- SEAL_REREAD: 256 ns after a mismatch the slot is read again. -/
def State.refetch (s : State) (q : Nat) (env : Env) : State :=
  if s.canFetch q && (s.queue q).reads != 0 then s.settle (.queue q) env (State.readSlot q true) else s

/-! ## Issue (R90, R91, R94, R96, R385) -/

def State.stream (s : State) (n : Nat) : Stream := mget {} s.streams n
def State.setStream (s : State) (n : Nat) (x : Stream) : State := { s with streams := mset {} s.streams n x }

/-- Records of the update range (R322). -/
def isUpdate (op : Nat) : Bool := decide (0x60 ≤ op ∧ op ≤ 0x63)

/-- A belay, a WAIT or an update record of the queue that has not ended holds every later record of it (R91, R96, R323), and
so does a record that ended with any status but OK: it stops its queue (R109). -/
def holdsQueue (i : Issued) : Bool :=
  match i.phase with
  | .parked .anchor => true
  | .parked .order => i.item.op == 1
  | .parked _ => isUpdate i.item.op
  | .ended st _ => st != stOk

/-- Whether the queue has a record that its stream could issue next. -/
def queueReady (x : Queue) : Bool :=
  x.mode == .on && x.held.isEmpty && !x.fetched.isEmpty && !x.issued.any holdsQueue

/-- The queues bound to a core, in number order. -/
def State.boundQueues (s : State) (n : Nat) : List Nat :=
  (s.queues.map (·.1)).filter (fun q => s.queueCore q == n)

/-- The next queue of a core in round-robin order after the one served last, among those that are ready (R94). -/
def State.nextQueue (s : State) (n : Nat) : Option Nat :=
  let qs := (s.boundQueues n).filter (fun q => queueReady (s.queue q))
  let last := (s.stream n).last
  (qs.find? (fun q => decide (last < q))).orElse (fun _ => qs.head?)

/-- Whether the stream of the queue's core may issue the queue's next record: no quiesce, no trip, no bound queue in
HELD, and the stream serves this queue (R65, R94, R108). -/
def State.canIssue (s : State) (q : Nat) : Bool :=
  let n := s.queueCore q
  queueReady (s.queue q) && !s.quiescing && !s.tripped
    && (s.boundQueues n).all (fun p => (s.queue p).held.isEmpty)
    && (match (s.stream n).cur with
        | some p => p == q
        | none => s.nextQueue n == some q)

/-- What issuing a record of the queue does to its stream: a belay and an update record free the stream, a WAIT that is
the first record of a pitch leaves it free, every other record takes it (R94, R96, R323, R385). -/
def streamAfter (x : Stream) (q op : Nat) (first : Bool) : Stream :=
  if op = 1 ∨ isUpdate op ∨ (op = 3 ∧ first) then { x with cur := none, last := q } else { x with cur := some q, last := q }

/-- The slots a record occupies, its chain counted. -/
def slotsOf (r : Fetched) : Nat := 1 + r.chain.length

/-- The next record of a queue leaves the stream for its engine. -/
def State.takeIssued (s : State) (q : Nat) (r : Fetched) : State :=
  let n := s.queueCore q
  let s := s.setStream n (streamAfter (s.stream n) q r.op (s.queue q).fresh)
  s.modQueue q (fun x => { x with fetched := x.fetched.tail, fresh := r.op == 1 })

/-- A record is issued with the phase its run gave; it keeps the core that runs it. -/
def State.pushIssued (s : State) (q : Nat) (r : Fetched) (ph : Phase) : State :=
  (s.takeIssued q r).modQueue q (fun x => { x with issued := x.issued ++ [⟨{ r with core := s.queueCore q }, ph⟩] })

/-! ## The path of a core: the order in which its units take their records (R90, R155, R202, R509) -/

def State.mat (s : State) (n : Nat) : Mat := mget {} s.mats n
def State.setMat (s : State) (n : Nat) (m : Mat) : State := { s with mats := mset {} s.mats n m }

/-- Whether an operation on a path is that of a record. -/
def MxOp.isOf (o : MxOp) (q num : Nat) : Bool := o.q == q && o.num == num

/-- The operations on a path before a record's own. -/
def opsBefore (q num : Nat) : List MxOp → List MxOp
  | [] => []
  | o :: r => if o.isOf q num then [] else o :: opsBefore q num r

def dropOp (q num : Nat) : List MxOp → List MxOp
  | [] => []
  | o :: r => if o.isOf q num then r else o :: dropOp q num r

/-- The last tile of M rows from a tile. -/
def lastTile (tile m : Nat) : Nat := tile + (m + 63) / 64 - 1

/-- The range of k tiles from a tile; none is no range. -/
def tileRun (tile k : Nat) : List (Nat × Nat) := if k = 0 then [] else [(tile, tile + k - 1)]

/-- The memory that holds an address: stacked memory, a host's spill window, the Store or one core's local memory. -/
def destOf (a : Nat) : Nat :=
  if a < spillBase 0 then 0
  else if a < localBase 0 then 1 + (a - spillBase 0) / 0x10000000000
  else if storeBase ≤ a then 9
  else 16 + (a - localBase 0) / 0x1000000

/-- What a record of the accumulator unit, the vector engine, the attention unit, the walker, the Ranker or the porter is on
its core's path: its tile ranges (R164, R165, R166, R167, R173), and the ember slot that a TSTORE runs or an EMLOAD loads. -/
def pathOp (q : Nat) (r : Fetched) : Option MxOp :=
  let acc (tiles : List (Nat × Nat)) : Option MxOp := some { q, num := r.num, kind := .acc, tiles }
  let unit (kind : MxKind) : Option MxOp := some { q, num := r.num, kind }
  match r.op with
  | 0x20 => acc (tileRun (r.f 8 1) (r.f 9 1))
  | 0x21 => acc (tileRun (r.f 0x16 1) ((r.f 0x14 2 + 63) / 64))
  | 0x22 => acc (tileRun (r.f 8 1) (r.f 0xB 1) ++ (if r.f 9 1 = 0xFF then [] else tileRun (r.f 9 1) (r.f 0xB 1))
      ++ tileRun (r.f 0xA 1) (r.f 0xB 1))
  | 0x23 => some { q, num := r.num, kind := .acc, tiles := tileRun (r.f 0x16 1) ((r.f 0x14 2 + 63) / 64),
                   ember := if r.f 0x1B 1 = 0x1F then some (r.f 0x34 1) else none }
  | 0x24 => acc (tileRun (r.f 0x12 1) ((r.f 0x10 2 + 63) / 64))
  | 0x33 => some { q, num := r.num, kind := .vec, ember := some (r.f 0x10 1) }
  | 0x30 | 0x31 | 0x32 | 0x34 => unit .vec
  | 0x40 | 0x41 | 0x42 | 0x43 | 0x44 | 0x47 => unit .att
  | 0x45 | 0x46 | 0x48 => unit .walk
  | 0x49 => unit .rank
  | 0x54 => some { q, num := r.num, kind := .porter, dest := destOf (r.f 0x10 8) }
  | _ => none

/-- A record that has not ended stands on its core's path from its issue. -/
def State.hold (s : State) (c : Ctx) : State :=
  let m := s.mat c.core
  if m.ops.any (fun o => o.isOf c.q c.item.num) then s
  else
    match pathOp c.q c.item with
    | some o => s.setMat c.core { m with ops := m.ops ++ [o] }
    | none => s

/-- The issued record of a queue with a serial number. -/
def State.issuedAt (s : State) (q num : Nat) : Option Issued := (s.queue q).issued.find? (fun i => i.item.num == num)

/-- The core that runs a record: the one it was issued to, or while it is being issued that of its queue (R80, R109). -/
def State.coreOf (s : State) (q num : Nat) : Nat :=
  match s.issuedAt q num with
  | some i => i.item.core
  | none => s.queueCore q

/-- A record that has ended leaves its core's path. -/
def State.leave (s : State) (q num : Nat) : State :=
  let n := s.coreOf q num
  let m := s.mat n
  if m.ops.any (fun o => o.isOf q num) then s.setMat n { m with ops := dropOp q num m.ops } else s

/-- Run a record's meaning for its queue: a chain that breaks R99 rejects the whole group (R100); where the owner offends too,
the DETAIL of R110 names the chain's record (DESIGN CHOICE, log 87). A record whose accesses wait on the outside is parked, and
what waits is sent. -/
def State.runRecord (s : State) (c : Ctx) (env : Env) (run : Ctx → State → State × Phase) : State × Phase :=
  match chainFail 0 c.item.chain with
  | some (i, o) => endFormat s ((c.item.slot + 1 + i) % s.sqSize c.q) o
  | none =>
    let tok := Tok.record c.q c.item.num
    let (t, ph) := run c { s with env := env, token := tok, needs := [] }
    if t.needs = [] then (t.closeTok tok, ph)
    else ((s.sendNeeds tok t.needs).hold c, .parked .memory)

/-- The stream issues the next record of a queue, if its opcode is `op`, and the record runs. -/
def State.issue (s : State) (q op : Nat) (env : Env) (run : Ctx → State → State × Phase) : State :=
  match (s.queue q).fetched with
  | [] => s
  | r :: _ =>
    if s.canIssue q ∧ r.op = op then
      let (t, ph) := s.runRecord ⟨q, s.queueCore q, r⟩ env run
      t.pushIssued q r ph
    else s

/-- Change the phase of the issued record of a serial number. -/
def setPhase (num : Nat) (ph : Phase) : List Issued → List Issued
  | [] => []
  | i :: r => if i.item.num = num then ⟨i.item, ph⟩ :: r else i :: setPhase num ph r

def Phase.isEnded : Phase → Bool
  | .ended _ _ => true
  | .parked _ => false

/-- An issued record comes to a phase; one that ends leaves its core's path. -/
def State.setPhaseOf (s : State) (q num : Nat) (ph : Phase) : State :=
  (if ph.isEnded then s.leave q num else s).modQueue q (fun x => { x with issued := setPhase num ph x.issued })

/-- A parked record runs again, for a reason that has ended; one that has not begun only where it may (R65, R108). -/
def State.rerun (s : State) (q num : Nat) (why : Park) (env : Env) (run : Ctx → State → State × Phase) : State :=
  match s.issuedAt q num with
  | some i =>
    if i.phase = .parked why ∧ (¬ notBegun i ∨ s.mayBegin q) then
      let (t, ph) := s.runRecord ⟨q, i.item.core, i.item⟩ env run
      t.setPhaseOf q num ph
    else s
  | none => s

/-- Whether an operation on a path is that of a record that has not begun. -/
def State.opWaits (s : State) (o : MxOp) : Bool := (s.issuedAt o.q o.num).any notBegun

/-- Whether a phase is an end with FORMAT: check 1 of a table (R509). -/
def Phase.isFormat : Phase → Bool
  | .ended st _ => st == stFormat
  | .parked _ => false

/-- A record reaches the unit of its kind on its core, once that unit has accepted every record issued to it before (R90,
R509): check 1 is made then; where the unit is free for the record it makes its other checks and begins, and else it waits for
the reason given. -/
def atUnit (c : Ctx) (kind : MxKind) (free : List MxOp → Bool) (why : Park) (fail : Option (State × Phase))
    (work : State → State × Phase) (s : State) : State × Phase :=
  let before := opsBefore c.q c.item.num (s.mat c.core).ops
  if before.any (fun o => o.kind == kind && s.opWaits o) then (s.hold c, .parked .turn)
  else
    match fail with
    | some x => if free before || x.2.isFormat then x else (s.hold c, .parked why)
    | none =>
      if free before then
        let (t, ph) := work s
        (if ph.isEnded then t else t.hold c, ph)
      else (s.hold c, .parked why)

/-- A unit that takes its records one at a time is free once every earlier one has ended (R190, R213). -/
def unitFree (kind : MxKind) (before : List MxOp) : Bool := before.all (fun o => o.kind != kind)

/-- Whether a record that stands in an engine's line has not been accepted yet. -/
def State.lineWaits (s : State) (line : List (Nat × Nat)) : Bool := line.any (fun x => (s.issuedAt x.1 x.2).any notBegun)

/-- A record reaches an engine that takes its records one at a time: check 1 is made where every record before it has been accepted
(R509), and it joins the line. -/
def State.joinLine1 (s : State) (line : List (Nat × Nat)) (r : Fetched) (format : Option Nat) (join : State) : State × Phase :=
  match format with
  | some o => if s.lineWaits line then (join, .parked .turn) else endFormat s r.slot o
  | none => (join, .parked .turn)

/-- The engine has accepted a record of its line: check 1 of those behind it, up to the first that passes it and waits (R509). -/
def State.lineChecks (format : Fetched → Option Nat) : List (Nat × Nat) → State → State
  | [], s => s
  | (q, num) :: rest, s =>
    match s.issuedAt q num with
    | none => State.lineChecks format rest s
    | some i =>
      if notBegun i then
        match format i.item with
        | some o => State.lineChecks format rest (s.setPhaseOf q num (.ended stFormat (i.item.slot * 2 ^ 16 + o)))
        | none => s
      else State.lineChecks format rest s

/-- Whether every record of the queue before the one of a serial number has ended (R91, R97). -/
def earlierEnded (num : Nat) : List Issued → Bool
  | [] => false
  | i :: r => if i.item.num = num then true else i.phase.isEnded && earlierEnded num r

/-- The first parked record of a queue with an opcode and a reason. -/
def State.parkedOf (s : State) (q op : Nat) (why : Park) : Option Issued :=
  (s.queue q).issued.find? (fun i => i.item.op == op && i.phase == .parked why)

/-! ## The end of a record (R106, R109, R437) -/

/-- EV_TRACE of a record that ended, where its core traces (R437). -/
def State.trace (s : State) (c : Ctx) (status : Nat) : State :=
  if bit (s.reg (if c.core < 64 then Reg.SIO_TRACE_EN0 else Reg.SIO_TRACE_EN1)).toNat (c.core % 64) then
    s.post c.core 0x0908 0 (c.item.op + status * 2 ^ 8 + c.q * 2 ^ 16 + c.item.slot * 2 ^ 32 + c.item.tag * 2 ^ 64)
  else s

/-- A record ends: any status but OK stops the queue; a completion is due for CMPL or any other status; EV_TRACE. -/
def State.finish (s : State) (c : Ctx) (status detail : Nat) : State :=
  let s := if status = stOk then s else s.stopQueue c.q status c.item.slot
  let s :=
    if status = stOk ∧ ¬ c.item.cmpl then s
    else s.complete c.q (completionBytes c.item.tag c.item.slot status detail c.core c.item.op,
      decide (status ≠ stOk) || c.item.irq) c.item.slot status
  s.trace c status

/-- Opcodes that some chapter defines (R88, R89). -/
def opcodeDefined (op : Nat) : Bool :=
  decide (op ≤ 0x06 ∨ (0x10 ≤ op ∧ op ≤ 0x12) ∨ (0x20 ≤ op ∧ op ≤ 0x24) ∨ (0x30 ≤ op ∧ op ≤ 0x34)
    ∨ (0x40 ≤ op ∧ op ≤ 0x49) ∨ (0x50 ≤ op ∧ op ≤ 0x54) ∨ (0x60 ≤ op ∧ op ≤ 0x63) ∨ op = 0x70 ∨ op = 0x71)

/-- Drop the issued record of a serial number. -/
def dropIssued (num : Nat) : List Issued → List Issued
  | [] => []
  | i :: r => if i.item.num = num then r else i :: dropIssued num r

/-- The oldest record of a slot that has ended. -/
def endedAt (slot : Nat) (l : List Issued) : Option Issued := l.find? (fun i => i.item.slot == slot && i.phase.isEnded)

/-- The end of an issued record that no engine defines: FORMAT at its opcode, or at the first offence of its chain (R88,
R100). -/
def undefinedEnd (size : Nat) (r : Fetched) : Nat :=
  match chainFail 0 r.chain with
  | some (i, o) => (r.slot + 1 + i) % size * 2 ^ 16 + o
  | none => r.slot * 2 ^ 16

/-- The record in the slot has ended. A record that no engine defines, an INLINE record outside a chain included, ends as its
stream issues it, with FORMAT at its opcode (R14, R15, R88, R100). -/
def State.endRecord (s : State) (q slot : Nat) (env : Env) : State :=
  match endedAt slot (s.queue q).issued with
  | some ⟨r, .ended st d⟩ =>
    s.settle (.queue q) env (fun s =>
      (s.modQueue q (fun x => { x with issued := dropIssued r.num x.issued })).finish ⟨q, r.core, r⟩ st d)
  | _ =>
    match (s.queue q).fetched with
    | r :: _ =>
      if r.slot = slot ∧ s.canIssue q ∧ (¬ opcodeDefined r.op ∨ r.op = 5) then
        s.settle (.queue q) env (fun s =>
          (s.takeIssued q r).finish ⟨q, s.queueCore q, r⟩ stFormat (undefinedEnd (s.sqSize q) r))
      else s
    | [] => s

/-! ## Doorbells (R84, R102–R104) -/

/-- Register an echo: it replaces that of its slot, or displaces the oldest of 16 (R104). -/
def State.addEcho (s : State) (q slot sl : Nat) : State :=
  let x := s.queue q
  if x.echoes.any (fun e => e.1 == slot) then
    s.setQueue q { x with echoes := x.echoes.map (fun e => if e.1 = slot then (slot, sl) else e) }
  else if x.echoes.length < 16 then s.setQueue q { x with echoes := x.echoes ++ [(slot, sl)] }
  else (s.setQueue q { x with echoes := x.echoes.tail ++ [(slot, sl)] }).raise (Reg.CQ_EVENT q) 4 (Reg.CQ_EVENT_CNT1 q) 0

/-- A doorbell is ignored (R103). The slot and the status of its event are TAIL as written and 0, as in EV_DB_DISABLED (DESIGN CHOICE,
log 100: R116 does not say which). -/
def State.doorbellBad (s : State) (q tail : Nat) : State :=
  (s.raise (Reg.CQ_EVENT q) 3 (Reg.CQ_EVENT_CNT0 q) 48).queueEvent 0x0203 q tail 0

/-- A doorbell takes effect (R84, R103, R105). -/
def State.doorbell (s : State) (q : Nat) (v : Word) : State :=
  let x := s.queue q
  let sl := fget v 63 48
  let gen := fget v 47 40
  let tail := fget v 15 0
  let size := s.sqSize q
  if x.mode = .disabled ∨ x.mode = .off then
    (s.raise Reg.CQ_GEVENT 16 Reg.CQ_GEVENT 0).queueEvent 0x0204 q tail 0
  else if size ≤ tail then s.doorbellBad q tail
  else
    let dNew := (tail + size - x.head) % size
    let dCur := (x.tail + size - x.head) % size
    let expected := if size ≤ x.head + dNew - 1 then (x.gen + 1) % 256 else x.gen
    if 1 ≤ dNew ∧ gen ≠ expected then s.doorbellBad q tail
    else
      let s := s.setQueue q { x with
        tail := if dCur < dNew then tail else x.tail
        mode := if x.mode = .stopped then .on else x.mode
        rereads := 0 }
      if 1 ≤ dNew then s.addEcho q ((tail + size - 1) % size) sl else s

/-! ## ON, OFF, configuration and cancel (R81, R83, R114) -/

/-- Whether a ring of a size and an address may be used (R81). -/
def State.ringOk (s : State) (a logSize each : Nat) : Bool :=
  decide (6 ≤ logSize ∧ logSize ≤ 16) && decide (s.place a ≠ .regs) && decide (a + 2 ^ logSize * each ≤ s.rangeEnd a)

def State.ringsOk (s : State) (q : Nat) : Bool :=
  s.ringOk (s.sqBase q) (s.fld (Reg.CQ_SQ_CFG q) 4 0) 64 && s.ringOk (s.cqBase q) (s.fld (Reg.CQ_CQ_CFG q) 4 0) 16

/-- Writing ON (R83). Records that the stream had issued before OFF run to their end and complete (R109), and a completion
that is held stays held; echoes left from before OFF go (DESIGN CHOICE, log 86: the spec is silent on both). -/
def State.queueOn (s : State) (q : Nat) : State :=
  let x := s.queue q
  if x.mode = .off ∧ s.ringsOk q then
    s.setQueue q { mode := .on, code := x.code, gen := 1, phase := 1, issued := x.issued, held := x.held, serial := x.serial,
                   cancels := x.cancels }
  else s.queueReject q

/-- A queue lets go of its core's stream, if its open pitch held it (R94). -/
def State.freeStream (s : State) (q : Nat) : State :=
  let core := s.queueCore q
  if (s.stream core).cur = some q then s.setStream core { s.stream core with cur := none } else s

/-- Writing OFF: accepted in IDLE and STOPPED (R83), and not while a cancel of the queue has not ended (DESIGN CHOICE, log 20). The
queue lets go of its core's stream. -/
def State.queueOff (s : State) (q : Nat) : State :=
  let x := s.queue q
  if (queueState x = 2 ∨ queueState x = 5) ∧ x.cancels = [] then (s.freeStream q).setQueue q { x with mode := .off }
  else s.queueReject q

/-- A configuration write takes effect in OFF only (R83). -/
def State.queueConfig (s : State) (q off : Nat) (v : Word) : State :=
  if (s.queue q).mode = .off then s.writePlain off v else s.queueReject q

/-- The records a cancel discards: those announced and not begun (R114): issued ones that have not begun, then fetched
ones, the chain being fetched and the slots not fetched. The result is the first slot and the count of slots. -/
def cancelled (size : Nat) (x : Queue) : Nat × Nat :=
  let waiting := x.issued.filter notBegun
  let left := (x.tail + size - (backTo x).1) % size
  let n := (waiting.map (fun i => slotsOf i.item)).foldl (· + ·) 0 + left
  let first := match waiting with
    | i :: _ => i.item.slot
    | [] => (backTo x).1
  (first, n)

/-- The start of a cancel (R114 step 1, R115): fetch stops, every record announced and not begun is discarded and counted, and HEAD
is set to the tail. It frees the core's stream where the queue's open pitch held it, and keeps the echoes registered (DESIGN CHOICE,
log 20 and log 86: the spec is silent on both). -/
def State.queueCancel (s : State) (q : Nat) : State :=
  let x := s.queue q
  let c := cancelled (s.sqSize q) x
  (((s.freeStream q).setQueue q { x with
    head := x.tail
    gen := if x.tail < x.head then (x.gen + 1) % 256 else x.gen
    fetched := [], chain := none, rereads := 0, reads := 0, pitch := false, fresh := true
    issued := x.issued.filter (fun i => !notBegun i)
    cancels := x.cancels ++ [c] })).count (Reg.CQ_DISCARD q) c.2

/-- The end of one cancel (R114 steps 4 and 5): its completion, the STOP flag and the event. -/
def State.cancelDone (q : Nat) (s : State) (c : Nat × Nat) : State :=
  let s := s.complete q (completionBytes 0 c.1 stCancelled c.2 (s.queueCore q) 0, true) c.1 stCancelled
  (s.raise (Reg.CQ_EVENT q) 0 (Reg.CQ_EVENT_CNT0 q) 0).queueEvent 0x0200 q c.1 stCancelled

/-- A queue's cancels end once every record that had begun has ended and completed (R114 steps 3 to 5): the queue is left STOPPED
with CODE CANCELLED. -/
def State.cancelEnd (s : State) (q : Nat) (env : Env) : State :=
  let x := s.queue q
  if x.cancels ≠ [] ∧ x.issued = [] then
    s.settle (.queue q) env (fun s =>
      x.cancels.foldl (State.cancelDone q) (s.setQueue q { x with mode := stopMode x.mode, code := stCancelled, cancels := [] }))
  else s

/-- RECORD_END: a record ends, and with the last one that had begun a cancel of its queue. -/
def State.recordEnd (s : State) (q slot : Nat) (env : Env) : State := (s.endRecord q slot env).cancelEnd q env

/-- A cancel acts in IDLE, RUNNING, HELD and STOPPED (R114). -/
def State.cancelAllowed (s : State) (q : Nat) : Bool :=
  match (s.queue q).mode with
  | .on | .stopped => true
  | _ => false

/-- A write of CQ_CQ_HEAD frees entries, and held completions are written while there is room (R107, R108). -/
def State.cqHead (s : State) (q : Nat) (v : Word) : State :=
  let s := s.writePlain (Reg.CQ_CQ_HEAD q) v
  if (s.queue q).held = [] then s else s.drainHeld q (s.queue q).held

end Sys2Proof.Machine
end

