-- ==== Sys2Proof/Machine/Control.lean ====
section
/-! DEFINITION. The control records (R89): NOP, BELAY, SIGNAL, WAIT, PUT and STEP; and the anchors (R95, R96). -/

namespace Sys2Proof.Machine

/-! ## Anchors -/

def State.anchor (s : State) (a : Nat) : Word32 := mget 0 s.anchors a

/-- An ADD or a SET at the router that holds an anchor (R95). -/
def State.anchorOp (s : State) (a : Nat) (isSet : Bool) (v : Word32) : State :=
  { s with anchors := mset 0 s.anchors a (if isSet then v else s.anchor a + v) }

/-- Serial-number comparison: (anchor − VALUE) modulo 2^32 is zero or positive as a signed number (R96). -/
def reached (anchor value : Word32) : Bool := decide ((anchor - value).toNat < 2 ^ 31)

/-! ## The records -/

def nopFormat (r : Fetched) : Option Nat := formatFail r false [] []

/-- NOP: no effect, ends with OK. -/
def runNop (c : Ctx) (s : State) : State × Phase :=
  match nopFormat c.item with
  | some o => endFormat s c.item.slot o
  | none => endOk s

def belayFormat (r : Fetched) : Option Nat := formatFail r false [(8, 1)] [(8, decide (r.f 8 1 ≤ 1))]

/-- BELAY: waits for every earlier record of its queue (R91). -/
def runBelay (c : Ctx) (s : State) : State × Phase :=
  match belayFormat c.item with
  | some o => endFormat s c.item.slot o
  | none => (s, .parked .order)

/-- The fields of a SIGNAL record (R89). -/
def signalAnchor (r : Fetched) : Nat := r.f 8 2
def signalSet (r : Fetched) : Bool := r.f 0xA 1 == 1
def signalRemote (r : Fetched) : Bool := r.f 0xB 1 == 1
def signalValue (r : Fetched) : Word32 := BitVec.ofNat 32 (r.f 0xC 4)
def signalMember (r : Fetched) : Nat := r.f 0x10 4
def signalParty (r : Fetched) : Nat := r.f 0x14 1

/-- The party with an index, if the image in force has it (R60). -/
def State.party? (s : State) (k : Nat) : Option PartyEnt := s.image.parties.find? (fun p => p.id == k)

def signalChecks (s : State) (r : Fetched) : List Check :=
  [(8, decide (signalAnchor r ≤ 4095)), (0xA, decide (r.f 0xA 1 ≤ 1)), (0xB, decide (r.f 0xB 1 ≤ 1))] ++
  (if signalRemote r then
    match s.party? (signalParty r) with
    | some p => [(0x10, decide (signalMember r < p.members))]
    | none => [(0x14, false), (0x10, decide (signalMember r < 2 ^ 17))]
  else [(0x10, decide (signalMember r = 0)), (0x14, decide (signalParty r = 0))])

def signalFormat (s : State) (r : Fetched) : Option Nat := formatFail r false [(8, 13)] (signalChecks s r)

/-- SIGNAL: waits for every earlier record of its queue (R97, R98). -/
def runSignal (c : Ctx) (s : State) : State × Phase :=
  match signalFormat s c.item with
  | some o => endFormat s c.item.slot o
  | none => (s, .parked .order)

def waitAnchor (r : Fetched) : Nat := r.f 8 2
def waitMicros (r : Fetched) : Nat := r.f 0xA 2
def waitValue (r : Fetched) : Word32 := BitVec.ofNat 32 (r.f 0xC 4)

def waitFormat (r : Fetched) : Option Nat := formatFail r false [(8, 8)] [(8, decide (waitAnchor r ≤ 4095))]

/-- WAIT: holds its queue until the anchor reaches VALUE; WAIT_SATISFIED or WAIT_TIMEOUT ends it (R96). -/
def runWait (c : Ctx) (s : State) : State × Phase :=
  match waitFormat c.item with
  | some o => endFormat s c.item.slot o
  | none => (s, .parked .anchor)

def putFormat (r : Fetched) : Option Nat := formatFail r true [(8, 8)] [(2, decide (1 ≤ r.inl)), addrCheck r.bytes 8]

/-- The address a PUT writes to. -/
def putDst (r : Fetched) : Nat := r.f 8 8

/-- PUT: writes its inline data to DST (R101). -/
def runPut (c : Ctx) (s : State) : State × Phase :=
  match putFormat c.item with
  | some o => endFormat s c.item.slot o
  | none =>
    match s.rangeBad (putDst c.item) c.item.inlineData.length with
    | some b => endRange c s b
    | none =>
      let (s, err) := s.writeMem (srcCore c.core) (putDst c.item) c.item.inlineData
      endMem s err

def stepFormat (r : Fetched) : Option Nat := formatFail r false [(8, 8)] []

/-- STEP: sets the step number of the core's cairn records and SIO_STEP (R89, R438). -/
def runStep (c : Ctx) (s : State) : State × Phase :=
  match stepFormat c.item with
  | some o => endFormat s c.item.slot o
  | none =>
    let v := c.item.f 8 8
    let s := s.setStream c.core { s.stream c.core with step := v }
    endOk (s.setReg Reg.SIO_STEP (BitVec.ofNat 64 v))

/-! ## What ends a waiting control record -/

/-- A belay ends once every earlier record of its queue has ended (R91); not while records of the queue may not begin (R65,
R108). -/
def State.belayEnd (s : State) (q : Nat) : State :=
  match s.parkedOf q 1 .order with
  | some i =>
    if earlierEnded i.item.num (s.queue q).issued && s.mayBegin q then s.setPhaseOf q i.item.num (.ended stOk 0) else s
  | none => s

/-- A WAIT whose anchor has reached VALUE ends with OK (R96), unless records of its queue may not begin (R65, R108). -/
def State.waitSatisfied (s : State) (q : Nat) : State :=
  match s.parkedOf q 3 .anchor with
  | some i =>
    if reached (s.anchor (waitAnchor i.item)) (waitValue i.item) && s.mayBegin q then
      s.setPhaseOf q i.item.num (.ended stOk 0)
    else s
  | none => s

/-- A WAIT with a TIMEOUT that has run out ends with WAIT_TIMEOUT and the anchor's value (R96, R110). Time that the queue
spends quiesced does not count. -/
def State.waitExpired (s : State) (q : Nat) : State :=
  match s.parkedOf q 3 .anchor with
  | some i =>
    if waitMicros i.item ≠ 0 ∧ ¬ s.quiescing ∧ ¬ reached (s.anchor (waitAnchor i.item)) (waitValue i.item) then
      s.setPhaseOf q i.item.num (.ended stWaitTimeout (s.anchor (waitAnchor i.item)).toNat)
    else s
  | none => s

end Sys2Proof.Machine
end

