-- ==== Sys2Proof/Machine/Crypto.lean ====
section
/-! DEFINITION. SHA-256 (used by R42, R446–R449, R454) and the verification of an LMS_SHA256_M32_H15 signature with
LMOTS_SHA256_N32_W4 (R45, R446), from the standards the spec names (FIPS 180-4, RFC 8554); and CRC-64 folding is with
the update engine. -/

namespace Sys2Proof.Machine

/-! ## SHA-256 -/

/-- The primes of [2, n), by trial of those below. -/
def primesBelow : Nat → List Nat
  | 0 => []
  | n + 1 =>
    let ps := primesBelow n
    if 2 ≤ n ∧ ps.all (fun p => n % p != 0) then ps ++ [n] else ps

/-- The whole part of the k-th root of n, found bit by bit from a number of bits. -/
def rootBits (k n : Nat) : Nat → Nat → Nat
  | 0, r => r
  | i + 1, r => rootBits k n i (if (r + 2 ^ i) ^ k ≤ n then r + 2 ^ i else r)

/-- The first 32 bits of the fraction of the k-th root of a prime. -/
def rootFrac (k p : Nat) : Nat := rootBits k (p * 2 ^ (32 * k)) 38 0 % 2 ^ 32

/-- The round constants: the fractions of the cube roots of the first 64 primes. -/
def shaK : List Nat := (primesBelow 312).map (rootFrac 3)

/-- The first chaining value: the fractions of the square roots of the first eight primes. -/
def shaInit : List Nat := (primesBelow 20).map (rootFrac 2)

/-- The exclusive or of a 32-bit word rotated right by each of some distances. -/
def spin (x : Nat) (ns : List Nat) : Nat :=
  ns.foldl (fun y n => Nat.xor y (x / 2 ^ n + x * 2 ^ (32 - n) % 2 ^ 32)) 0

/-- What a word of the message schedule takes of an earlier one: two rotations and a shift. -/
def stir (x m n k : Nat) : Nat := Nat.xor (spin x [m, n]) (x / 2 ^ k)

/-- The message schedule, newest word first, lengthened by k words. -/
def schedule : Nat → List Nat → List Nat
  | 0, w => w
  | k + 1, w =>
    schedule k ((w.getD 15 0 + stir (w.getD 14 0) 7 18 3 + w.getD 6 0 + stir (w.getD 1 0) 17 19 10) % 2 ^ 32 :: w)

/-- One round on the eight working words, with the sum of its constant and its schedule word. -/
def shaRound (x : List Nat) (kw : Nat) : List Nat :=
  let v (i : Nat) := x.getD i 0
  let pick := Nat.xor (v 6) (Nat.land (v 4) (Nat.xor (v 5) (v 6)))
  let vote := Nat.lor (Nat.land (v 0) (v 1)) (Nat.land (v 2) (Nat.lor (v 0) (v 1)))
  let t := v 7 + spin (v 4) [6, 11, 25] + pick + kw
  [(t + spin (v 0) [2, 13, 22] + vote) % 2 ^ 32, v 0, v 1, v 2, (v 3 + t) % 2 ^ 32, v 4, v 5, v 6]

/-- One block of sixteen words. -/
def shaBlock (x w : List Nat) : List Nat :=
  let kws := List.zipWith (· + ·) shaK (schedule 48 w.reverse).reverse
  List.zipWith (fun a b => (a + b) % 2 ^ 32) x (kws.foldl shaRound x)

/-- The number bytes hold, highest byte first. -/
def ofBe (b : List Byte) : Nat := b.foldl (fun n x => n * 256 + x.toNat) 0

/-- The k bytes of a number, highest first. -/
def toBe (k n : Nat) : List Byte := (toLe k n).reverse

/-- The first sixteen big-endian words of a string. -/
def beWords : Nat → List Byte → List Nat
  | 0, _ => []
  | k + 1, b => ofBe (b.take 4) :: beWords k (b.drop 4)

def shaBlocks : Nat → List Byte → List Nat → List Nat
  | 0, _, x => x
  | k + 1, b, x => shaBlocks k (b.drop 64) (shaBlock x (beWords 16 b))

/-- The padded message. -/
def shaPad (b : List Byte) : List Byte :=
  let z := (119 - b.length % 64) % 64
  b ++ (0x80 :: List.replicate z 0) ++ toBe 8 (8 * b.length)

/-- SHA-256 of a byte string: 32 bytes. -/
def sha256 (b : List Byte) : List Byte :=
  let p := shaPad b
  (shaBlocks (p.length / 64) p shaInit).flatMap (toBe 4)

/-! ## LMS -/

/-- A chain of a one-time signature: steps j to 14. -/
def lmsChain (pre : List Byte) (i : Nat) : Nat → Nat → List Byte → List Byte
  | 0, _, x => x
  | k + 1, j, x => lmsChain pre i k (j + 1) (sha256 (pre ++ toBe 2 i ++ toBe 1 j ++ x))

/-- The four-bit digits of a string, high half first. -/
def nibbles (b : List Byte) : List Nat := b.flatMap (fun x => [x.toNat / 16, x.toNat % 16])

/-- A part of a one-time signature or of its key, each of 67 chains begun by a function and run for a number of steps from
another. -/
def lmotsRun (pre : List Byte) (start : Nat → List Byte) (frm steps : Nat → Nat) : List Byte :=
  (List.range 67).flatMap (fun i => lmsChain pre i (steps i) (frm i) (start i))

/-- The 67 digits that a one-time signature of a message with a randomizer signs. -/
def lmotsDigits (pre rand message : List Byte) : List Nat :=
  let q := sha256 (pre ++ toBe 2 0x8181 ++ rand ++ message)
  nibbles (q ++ toBe 2 ((nibbles q).foldl (fun n d => n + (15 - d)) 0 * 16))

/-- The public key a one-time signature gives for a message. -/
def lmotsKey (ident : List Byte) (leaf : Nat) (sig message : List Byte) : List Byte :=
  let pre := ident ++ toBe 4 leaf
  let digit (i : Nat) := (lmotsDigits pre (slice sig 4 32) message).getD i 0
  sha256 (pre ++ toBe 2 0x8080 ++ lmotsRun pre (fun i => slice sig (36 + 32 * i) 32) digit (fun i => 15 - digit i))

/-- Climb the path from a node to the root. -/
def lmsClimb (ident : List Byte) (path : List Byte) : Nat → Nat → List Byte → List Byte
  | 0, _, x => x
  | k + 1, node, x =>
    let sib := path.take 32
    let pair := if node % 2 = 1 then sib ++ x else x ++ sib
    lmsClimb ident (path.drop 32) k (node / 2) (sha256 (ident ++ toBe 4 (node / 2) ++ toBe 2 0x8383 ++ pair))

/-- Whether SIG is a signature of a message under PUBKEY, both in the encoding of RFC 8554 (R446). -/
def lmsVerify (pubkey sig message : List Byte) : Bool :=
  let ident := slice pubkey 8 16
  let leaf := ofBe (slice sig 0 4)
  let ots := slice sig 4 2180
  ofBe (slice pubkey 0 4) == 7 && ofBe (slice pubkey 4 4) == 3
    && decide (leaf < 2 ^ 15) && ofBe (slice ots 0 4) == 3 && ofBe (slice sig 2184 4) == 7
    && (let key := lmotsKey ident leaf ots message
        let leafHash := sha256 (ident ++ toBe 4 (2 ^ 15 + leaf) ++ toBe 2 0x8282 ++ key)
        lmsClimb ident (slice sig 2188 480) 15 (2 ^ 15 + leaf) leafHash == slice pubkey 24 32)

/-- The signature check of an image (R45, R446, R447): the 4 KiB trailer, its 256-byte header and the root-key hash of
the fuses, four 64-bit words in address order. -/
def signatureOk (root : List Nat) (hdr trailer : List Byte) : Bool :=
  let pubkey := slice trailer 0 56
  leAt trailer 0x40 4 == 2668 && sha256 pubkey == root.flatMap (toLe 8)
    && lmsVerify pubkey (slice trailer 0x44 2668) hdr

end Sys2Proof.Machine
end

