-- ==== Sys2Proof/Machine/Host.lean ====
section
/-! DEFINITION. Host ports (13_hosts_and_mailboxes.md): links and function resets, the HDM window and its coherence,
bias operations, the local-memory window, spill windows and MSI-X. -/

namespace Sys2Proof.Machine

/-! ## Answers from outside -/

/-- The first outstanding need of any requester that a predicate picks. -/
def State.waiting (s : State) (p : Need → Bool) : Option (Tok × Need) := s.outstanding.find? (fun x => p x.2)

/-- An answer to a need arrives: it is no longer outstanding; nobody takes one to a request that has been stopped (R302). -/
def State.answer (s : State) (x : Tok × Need) (a : Answer) : State :=
  { s with
    outstanding := s.outstanding.filter (fun y => !(y == x))
    answers := if x.1 = .idle then s.answers else s.answers ++ [(x.1, x.2, a)] }

/-- Whether a requester's token still waits for something. -/
def State.tokenWaits (s : State) (tok : Tok) : Bool := s.outstanding.any (fun x => x.1 == tok)

/-! ## CXL.mem accesses of hosts (R395, R396, R400–R402) -/

/-- The queue whose enabled flush line holds a device address (R113). -/
def State.flushQueue (s : State) (a : Nat) : Option Nat :=
  (s.queues.map (·.1)).find? (fun q =>
    s.fld (Reg.CQ_FLUSH_ADDR q) 0 0 == 1 && s.fld (Reg.CQ_FLUSH_ADDR q) 51 6 == a / 64)

/-- The first access of a host to a DEVICE page flips it to SHARED; an access to a page in recall is noted (R401,
R404). -/
def State.flipBias (s : State) (h a : Nat) : State :=
  let page := a / 0x200000
  match s.biasOf a with
  | 0 => { (s.count (Reg.HST_CNT_FLIP h) 1) with bias := mset 0 s.bias page 1 }
  | 2 => { s with biasOp := s.biasOp.map (fun b => if b.page = page then { b with accessed := true } else b) }
  | _ => s

/-- Perform a host access that its page's recall no longer holds: it is served once its snoops are answered and the
controllers' intake is open, else it stays held. -/
def State.serveHost (s : State) (x : HostAcc) : State :=
  let t0 := { s with env := x.env, token := x.tok, needs := [] }
  let t :=
    match x.write with
    | none =>
      let (t, rd) := t0.readMem (srcHost x.host) x.addr 64
      t.emit (.hostRead x.host x.addr rd.bytes rd.bad)
    | some b =>
      let (t, _) := t0.writeMem (srcHost x.host) x.addr b
      t.emit (.hostWrote x.host x.addr)
  if t.needs = [] then t.closeTok x.tok
  else
    let s := s.sendNeeds x.tok t.needs
    { s with hostHeld := s.hostHeld ++ [x] }

/-- Whether a host access waits for its turn: the intake is closed (R71), its page is being recalled (R404), or an earlier access
of the same host to the same 64-byte line is held (R399). -/
def State.hostWaits (s : State) (x : HostAcc) : Bool :=
  s.memHold || s.biasOf x.addr == 2 || s.hostHeld.any (fun y => y.host == x.host && y.addr / 64 == x.addr / 64)

/-- A host access that may be served is; another is held. -/
def State.hostTurn (s : State) (x : HostAcc) : State :=
  if s.hostWaits x then { s with hostHeld := s.hostHeld ++ [x] } else s.serveHost x

/-- A host's CXL.mem access arrives (R395, R401, R404). -/
def State.hostAccess (s : State) (x : HostAcc) : State := ({ s with free := s.free + 1 }.flipBias x.host x.addr).hostTurn x

/-- Try the held accesses again, in arrival order, but those that still wait for an answer. -/
def State.retryHosts (s : State) : State :=
  s.hostHeld.foldl (fun s x => if s.tokenWaits x.tok then { s with hostHeld := s.hostHeld ++ [x] } else s.hostTurn x)
    { s with hostHeld := [] }

/-- The device address of a host physical address in the HDM window of an enabled host (R395). -/
def State.hdmAddr (s : State) (h hpa : Nat) : Option Nat :=
  let base := s.fld (Reg.HST_HDM_BASE h) 63 28 * 2 ^ 28
  if s.hostEnabled h ∧ base ≤ hpa ∧ hpa - base < stackedEnd then some (hpa - base) else none

/-- What a flush read of a queue's flush line returns: COUNT in bytes 0 to 3, zeros after (R113). -/
def State.flushLine (s : State) (q : Nat) : List Byte := toLe 4 (s.queue q).flushCount ++ List.replicate 60 0

/-- A host reads one 64-byte line over CXL.mem; the host port answers an enabled flush line by itself (R113, R402). -/
def State.hostRead (s : State) (h hpa : Nat) (env : Env) : State :=
  match s.hdmAddr h hpa with
  | none => s
  | some o =>
    let a := o / 64 * 64
    match s.flushQueue a with
    | some q => s.emit (.hostRead h a (s.flushLine q) [])
    | none => s.hostAccess ⟨.host s.free, h, a, none, env⟩

/-- A host writes bytes of one 64-byte line over CXL.mem; a write to a flush line is dropped (R113, R396). -/
def State.hostWrite (s : State) (h hpa : Nat) (b : List Byte) (env : Env) : State :=
  match s.hdmAddr h hpa with
  | none => s
  | some a =>
    let b := b.take (64 - a % 64)
    match s.flushQueue (a / 64 * 64) with
    | some _ => s.emit (.hostWrote h a)
    | none => s.hostAccess ⟨.host s.free, h, a, some b, env⟩

/-! ## Links and resets (R389–R392, R395) -/

/-- The full width of a host's link. -/
def State.fullWidth (s : State) (h : Nat) : Nat := if bit s.fuses.split (h / 2) then 8 else 16

/-- A host link finishes training at a speed (1: 32 GT/s, 2: 64 GT/s) and a width (R391). WIDTH is a 4-bit field: it
holds the width modulo 16. -/
def State.hostLinkUp (s : State) (h speed width : Nat) : State :=
  let full := s.fullWidth h
  let whole := width = full
  if s.hostExists h ∧ s.fld (Reg.HST_HOST_STATUS h) 0 0 = 0 ∧
      ((speed = 2 ∧ (whole ∨ 2 * width = full)) ∨ (speed = 1 ∧ whole)) then
    let s := ((s.setFld (Reg.HST_HOST_STATUS h) 0 0 1).setFld (Reg.HST_HOST_STATUS h) 7 6 speed).setFld (Reg.HST_HOST_STATUS h) 11 8 width
    if speed = 2 ∧ whole then s
    else
      (s.raise (Reg.HST_HOST_EVENT h) 1 (Reg.HST_HOST_EVENT_CNT0 h) 16).post (slotHost h) 0x0803 1 (h + width % 16 * 2 ^ 4 + speed * 2 ^ 8)
  else s

/-- What a host waited on ends: its spill requests time out, its snoops find no copy (R272, R392, R402). -/
def State.endHostNeeds (s : State) (h : Nat) : State :=
  s.outstanding.foldl (fun s x =>
    match x.2 with
    | .spill la _ => if (la - spillBase 0) / 0x10000000000 = h then s.answer x .late else s
    | .snoop h' _ _ => if h' = h then s.answer x .clean else s
    | .hold => s) { s with biasOp := s.biasOp.map (fun b => { b with asked := b.asked.filter (· != h) }) }

/-- A reset of a host's function: its configuration, HDM decoder, MSI-X table and spill setting; `down` where the link
goes down with it (R392). -/
def State.hostReset (s : State) (h : Nat) (down : Bool) : State :=
  let wasUp := s.fld (Reg.HST_HOST_STATUS h) 0 0 = 1
  let s := ((s.setFld (Reg.HST_HOST_STATUS h) 1 1 0).setFld (Reg.HST_HOST_STATUS h) 2 2 0).setFld (Reg.HST_HDM_BASE h) 63 28 0
  let s := s.setFld (Reg.HST_SPILL_CFG h) 0 0 0
  let s := { s with hosts := mset {} s.hosts h {} }
  let s := s.endHostNeeds h
  if down then
    let s := ((s.setFld (Reg.HST_HOST_STATUS h) 0 0 0).setFld (Reg.HST_HOST_STATUS h) 7 6 0).setFld (Reg.HST_HOST_STATUS h) 11 8 0
    if wasUp then (s.raise (Reg.HST_HOST_EVENT h) 0 (Reg.HST_HOST_EVENT_CNT0 h) 0).post (slotHost h) 0x0800 2 h else s
  else s

/-- A host commits its HDM decoder: only the fixed size and offset and a 256 MiB-aligned base commit (R395). -/
def State.hdmCommit (s : State) (h base size offset : Nat) : State :=
  if s.fld (Reg.HST_HOST_STATUS h) 0 0 = 1 ∧ base % 2 ^ 28 = 0 ∧ base < 2 ^ 64 ∧ size = stackedEnd ∧ offset = 0 then
    (s.setFld (Reg.HST_HDM_BASE h) 63 28 (base / 2 ^ 28)).setFld (Reg.HST_HOST_STATUS h) 1 1 1
  else s

/-! ## The local-memory window (R394) -/

/-- The device address behind an offset of BAR4. -/
def bar4Addr (x : Nat) : Nat :=
  if x < 0x80000000 then localBase 0 + x
  else if x < 0x90000000 then storeBase + (x - 0x80000000)
  else regBase - 1

/-- A host access through BAR4: a read of `len` bytes, or a write. -/
def State.bar4 (s : State) (h x len : Nat) (w : Option (List Byte)) : State :=
  let a := bar4Addr x
  if len < 4 ∨ 256 < len ∨ x / 256 ≠ (x + len - 1) / 256 ∨ x + len > 2 ^ 32 then s.emit (.unsupported h x)
  else if (s.rangeBad a len).isSome then
    let s := s.rangeErr (srcHost h) ((s.rangeBad a len).getD a)
    match w with
    | none => s.emit (.hostRead h x (List.replicate len 0) [])
    | some _ => s
  else
    match w with
    | none =>
      let (s, rd) := s.readMem (srcHost h) a len
      s.emit (.hostRead h x rd.bytes rd.bad)
    | some b => (s.writeMem (srcHost h) a (slice b 0 len)).1

/-! ## Spill windows (R397, R398) -/

def State.hostReject (s : State) (h : Nat) : State := s.raise (Reg.HST_HOST_EVENT h) 6 (Reg.HST_HOST_EVENT_CNT1 h) 32

/-- A write of HST_SPILL_CFG: BASE is fixed while EN reads 1, and EN is set only with a size of 1 to 1,024 GiB. -/
def State.spillCfg (s : State) (h : Nat) (v : Word) : State :=
  let off := Reg.HST_SPILL_CFG h
  let gib := s.fld (Reg.HST_SPILL_SIZE h) 10 0
  if s.fld off 0 0 = 1 then
    let moved := fget v 63 12 ≠ s.fld off 63 12
    let s := s.setFld off 0 0 (fget v 0 0)
    if moved then s.hostReject h else s
  else
    let s := s.setFld off 63 12 (fget v 63 12)
    if fget v 0 0 = 0 then s
    else if 1 ≤ gib ∧ gib ≤ 1024 then s.setFld off 0 0 1
    else s.hostReject h

/-- A write of HST_SPILL_SIZE is ignored while EN reads 1. -/
def State.spillSizeWrite (s : State) (h : Nat) (v : Word) : State :=
  if s.fld (Reg.HST_SPILL_CFG h) 0 0 = 1 then s.hostReject h else s.setFld (Reg.HST_SPILL_SIZE h) 10 0 (fget v 10 0)

/-- EV_HST_SPILL: [2:0] host, [3] error completion, [67:16] device address (R416, R436). -/
def State.spillEvent (s : State) (h a : Nat) (isErr : Bool) : State :=
  let s := if isErr then s.raise (Reg.HST_HOST_EVENT h) 3 (Reg.HST_HOST_EVENT_CNT0 h) 48
    else s.raise (Reg.HST_HOST_EVENT h) 2 (Reg.HST_HOST_EVENT_CNT0 h) 32
  s.post (slotHost h) 0x0801 2 (h + (if isErr then 8 else 0) + a % 2 ^ 52 * 2 ^ 16)

/-! ## Bias operations (R404) -/

def State.biasReject (s : State) : State := s.raise Reg.HST_GEVENT 1 Reg.HST_GEVENT_CNT 16

/-- End a bias operation. -/
def State.biasFinish (s : State) (lost : Bool) : State :=
  { ((s.setFld Reg.HST_BIAS_STATUS 32 32 0).setFld Reg.HST_BIAS_STATUS 63 56 (if lost then 2 else 0)) with biasOp := none }

/-- Recall one page: an ownership request for each of its 32,768 lines to every enabled host (R404). -/
def State.recallPage (s : State) (page : Nat) : State :=
  (s.snoopTargets srcSiolo).foldl (fun s h => (s.count (Reg.HST_CNT_SNOOP h) 32768).emit (.recall h page))
    { s with bias := mset 0 s.bias page 2 }

/-- Go on from a page: DEVICE pages are skipped, the next other page is recalled, and the operation ends after the
last. A host access that is held as the recall begins is one to a page in RECALL. -/
def State.biasFrom : Nat → Nat → Bool → State → State
  | 0, _, lost, s => (s.setFld Reg.HST_BIAS_STATUS 19 0 0).biasFinish lost
  | left + 1, page, lost, s =>
    let s := s.setFld Reg.HST_BIAS_STATUS 19 0 (left + 1)
    if mget 0 s.bias page = 0 then State.biasFrom left (page + 1) lost s
    else
      let accessed := s.hostHeld.any (fun x => x.addr / 0x200000 == page)
      { s.recallPage page with biasOp := some { page, left := left + 1, asked := s.snoopTargets srcSiolo, lost, accessed } }

/-- The pages of stacked memory (R265). -/
def pageCount : Nat := 589824

/-- A write to HST_BIAS_OP. -/
def State.biasWrite (s : State) (v : Word) : State :=
  let count := fget v 39 20
  let first := fget v 19 0
  if s.biasOp.isSome ∨ fget v 63 62 ≠ 1 then s.biasReject
  else if count = 0 ∨ pageCount < first + count then (s.setFld Reg.HST_BIAS_STATUS 63 56 1).biasReject
  else State.biasFrom count first false (s.setFld Reg.HST_BIAS_STATUS 32 32 1)

/-- Whether a line of the page in recall still awaits a host's answer (R403, R404). -/
def State.recallWaits (s : State) (h line : Nat) : Bool :=
  match s.biasOp with
  | some b => b.asked.contains h && line / 0x200000 == b.page && !b.answered.contains (h, line)
  | none => false

/-- Dirty data that a host gives back are stored as they arrive, with the errors that the environment reports (R402, R404). -/
def State.dirtyBack (s : State) (h line : Nat) (dirty : List Byte) (env : Env) : State :=
  { { s with env := env }.writeBack h line dirty with env := {} }

/-- A host answers the recall of one line, or is taken to hold no copy of it: the dirty data it returns are stored (R403,
R404). -/
def State.recallAnswer (s : State) (h line : Nat) (dirty : List Byte) (env : Env) : State :=
  let op := s.biasOp.map (fun b => { b with answered := b.answered ++ [(h, line)] })
  { s with biasOp := op }.dirtyBack h line dirty env

/-- A page's recall ends with the dirty lines that hosts returned, each with its host and its address; held accesses are then
served. -/
def State.biasPageDone (s : State) (dirty : List (Nat × Nat × List Byte)) (env : Env) : State :=
  match s.biasOp with
  | none => s
  | some b =>
    let s := dirty.foldl (fun s d =>
      if s.recallWaits d.1 (d.2.1 / 64 * 64) then s.recallAnswer d.1 (d.2.1 / 64 * 64) d.2.2 env else s) s
    let s := if b.accessed then
        let s := (s.raise Reg.HST_GEVENT 0 Reg.HST_GEVENT_CNT 0).post slotMailboxes 0x0805 1 b.page
        { (s.count Reg.HST_CNT_BIAS_LOST 1) with bias := mset 0 s.bias b.page 1 }
      else { s with bias := mset 0 s.bias b.page 0 }
    (State.biasFrom (b.left - 1) (b.page + 1) (b.lost || b.accessed) { s with biasOp := none }).retryHosts

/-! ## Flush reads, MSI-X and control cores (R112, R405, R408) -/

/-- A read of CQ_FLUSH: every write of the device is visible, and COUNT is returned (R112). -/
def State.flushRead (s : State) (who : Requester) (q : Nat) : State :=
  (s.endLatch who).emit (.regRead who (Reg.CQ_FLUSH q) (s.queue q).flushCount)

/-- An MSI-X table entry of a host. -/
def State.msixEnt (s : State) (h vec : Nat) : MsixEnt := mget {} (mget {} s.hosts h).msix vec

def State.setMsixEnt (s : State) (h vec : Nat) (e : MsixEnt) : State :=
  { s with hosts := mmod {} s.hosts h (fun x => { x with msix := mset {} x.msix vec e }) }

/-- The four 32-bit words of a table entry: the message's address, low and high, its data and the vector control, whose bit 0
masks the vector (PRESUMED from PCI Express, log 91). -/
def MsixEnt.word (e : MsixEnt) : Nat → Nat
  | 0 => e.addr % 2 ^ 32
  | 1 => e.addr / 2 ^ 32
  | 2 => e.data
  | _ => if e.masked then 1 else 0

def MsixEnt.put (e : MsixEnt) (i v : Nat) : MsixEnt :=
  match i with
  | 0 => { e with addr := e.addr / 2 ^ 32 * 2 ^ 32 + v }
  | 1 => { e with addr := v * 2 ^ 32 + e.addr % 2 ^ 32 }
  | 2 => { e with data := v }
  | _ => { e with masked := bit v 0 }

/-- 32 bits of BAR2: the MSI-X table, the pending bits, zeros elsewhere (R393). -/
def State.bar2Word (s : State) (h off : Nat) : Nat :=
  if off < 0x8000 then (s.msixEnt h (off / 16)).word (off % 16 / 4)
  else if off < 0x8100 then
    ((List.range 32).map (fun i => if (s.msixEnt h ((off - 0x8000) / 4 * 32 + i)).pend then 2 ^ i else 0)).sum
  else 0

/-- A 32-bit write to BAR2: unmasking a vector sends the one message its pending bit stands for (R405). -/
def State.bar2Put (s : State) (h off v : Nat) : State :=
  if off < 0x8000 then
    let e := s.msixEnt h (off / 16)
    let e' := e.put (off % 16 / 4) v
    if e.pend ∧ ¬ e'.masked then (s.setMsixEnt h (off / 16) { e' with pend := false }).sendMsix h (off / 16)
    else s.setMsixEnt h (off / 16) e'
  else s

/-- A host access to BAR2 (R393, R405). -/
def State.bar2 (s : State) (h off : Nat) : Bar2Acc → State
  | .read wide => s.emit (.bar2 h off (s.bar2Word h off + (if wide then s.bar2Word h (off + 4) * 2 ^ 32 else 0)))
  | .write (.w32 v) => s.bar2Put h off v.toNat
  | .write (.w64 v) => (s.bar2Put h off (v.toNat % 2 ^ 32)).bar2Put h (off + 4) (v.toNat / 2 ^ 32)

/-- An H2D snoop is answered with RspIHitI: the device caches no host memory (R390). -/
def State.snoopReply (s : State) (h line : Nat) : State := s.emit (.snoopRsp h line)

/-- 100 ms without a heartbeat: Siolo clears RUN and logs the core (R408). -/
def State.ccHung (s : State) (c : Nat) : State :=
  if s.fld (Reg.HST_CC_STATUS c) 32 32 = 1 ∧ s.fld Reg.SIO_STATUS 0 0 = 1 then
    (s.setFld (Reg.HST_CC_STATUS c) 32 32 0).post slotSiolo 0x0807 3 c
  else s

end Sys2Proof.Machine
end

