-- ==== Sys2Proof/Machine/Log.lean ====
section
/-! DEFINITION. The cairn log's writer (R429–R435), the alarm file's acknowledgements (R440, R441) and SIO_LOG_BASE
(R429). -/

namespace Sys2Proof.Machine

/-! ## The ring -/

/-- Whether the main ring is in use. -/
def State.mainRing (s : State) : Bool := s.fld Reg.SIO_LOG_BASE 0 0 == 1

/-- The ring's size in records (R433). -/
def State.ringSize (s : State) : Nat := if s.mainRing then 262144 else 2048

/-- Free space of the ring (R433). -/
def State.ringFree (s : State) : Nat :=
  let c := s.ringSize
  c - 1 - (s.fld Reg.SIO_LOG_HEAD 17 0 + c - s.fld Reg.SIO_LOG_TAIL 17 0 % c) % c

/-- The 32 bytes of a record (R431). -/
def logBytes (r : LogRec) : List Byte :=
  toLe 8 r.time ++ toLe 8 r.step ++ toLe 2 r.code ++ toLe 1 r.src
    ++ toLe 1 (0x10 + (if r.summary then 4 else 0) + r.cls % 4) ++ toLe 12 r.arg

/-- Write a record at HEAD: into the main ring in stacked memory, or the early ring in Siolo SRAM. -/
def State.ringPut (s : State) (r : LogRec) : State :=
  let h := s.fld Reg.SIO_LOG_HEAD 17 0
  let next := (h + 1) % s.ringSize
  let s :=
    if s.mainRing then (s.writeMem srcSiolo (s.fld Reg.SIO_LOG_BASE 51 21 * 0x200000 + 32 * h) (logBytes r)).1
    else { s with log := { s.log with early := mset none s.log.early h (some r) } }
  s.setFld Reg.SIO_LOG_HEAD 17 0 next

/-- Write a record that must be written: where the ring is full the oldest one is discarded (R435). -/
def State.ringForce (s : State) (r : LogRec) : State :=
  let s := if s.ringFree = 0 then
      (s.setFld Reg.SIO_LOG_TAIL 17 0 ((s.fld Reg.SIO_LOG_TAIL 17 0 + 1) % s.ringSize)).count Reg.SIO_LOG_LOST 1
    else s
  s.ringPut r

/-- Whether a class is written individually at the present free space (R433). -/
def State.admits (s : State) (cls : Nat) : Bool :=
  let c := s.ringSize
  let f := s.ringFree
  match cls with
  | 0 => decide (c / 2 ≤ f)
  | 1 => decide (c / 4 ≤ f)
  | 2 => decide (c / 32 ≤ f)
  | _ => true

/-- The writer handles one record (R433, R435). -/
def State.writeRec (s : State) (r : LogRec) : State :=
  if s.admits r.cls then (if r.cls = 3 then s.ringForce r else s.ringPut r)
  else if r.cls = 0 then s.dropTrace r
  else s.coalesce r

/-- LOG_WRITE: the writer takes the ALARM lane first; an ALARM a source holds then enters the lane (R430). -/
def State.logWrite (s : State) (env : Env) : State :=
  match s.log.lane, s.log.intake with
  | r :: rest, _ =>
    s.settle .log env (fun s =>
      let lane := match s.log.heldAlarms with | a :: _ => rest ++ [a] | [] => rest
      { s with log := { s.log with lane, heldAlarms := s.log.heldAlarms.tail } }.writeRec r)
  | [], r :: rest => s.settle .log env (fun s => { s with log := { s.log with intake := rest } }.writeRec r)
  | [], [] => s

/-! ## The codes that sources post (R436, R470, R490) -/

/-- The classes with which a code of the list is posted: none for a code that is not produced, or that only the writer makes. -/
def codeClasses (code : Nat) : List Nat :=
  if code = 0x0001 ∨ (0x0100 ≤ code ∧ code ≤ 0x0104) ∨ (0x0200 ≤ code ∧ code ≤ 0x0204) ∨ code = 0x0304 ∨ code = 0x0400
      ∨ (0x0500 ≤ code ∧ code ≤ 0x0503) ∨ code = 0x0600 ∨ code = 0x0601 ∨ code = 0x0700 ∨ code = 0x0701
      ∨ (0x0803 ≤ code ∧ code ≤ 0x0806) ∨ code = 0x0900 ∨ code = 0x0905 ∨ code = 0x0906
      ∨ code = 0x0A01 ∨ code = 0x0A03 ∨ code = 0x0A05 ∨ code = 0x0B00 ∨ code = 0x0B01 then [1]
  else if code = 0x0002 ∨ (0x0300 ≤ code ∧ code ≤ 0x0302) ∨ code = 0x0401 ∨ code = 0x0602 ∨ code = 0x0603
      ∨ (0x0702 ≤ code ∧ code ≤ 0x0705) ∨ (0x0800 ≤ code ∧ code ≤ 0x0802) ∨ code = 0x0903 ∨ code = 0x0A02 ∨ code = 0x0A04
      ∨ code = 0x0B02 then [2]
  else if code = 0x0303 ∨ code = 0x0306 ∨ code = 0x0706 ∨ code = 0x0807 ∨ code = 0x0901 ∨ code = 0x0902 ∨ code = 0x0907
      ∨ code = 0x0A00 then [3]
  else if code = 0x0305 ∨ code = 0x0908 then [0]
  else if code = 0x0904 then [2, 3]
  else []

/-- LOG_POST: a source posts a record with a code of the list in its class; other codes are not produced (R436, R470). -/
def State.sourcePost (s : State) (src code cls arg : Nat) : State :=
  if (codeClasses code).contains cls then s.post src code cls arg else s

/-! ## Summaries (R434) -/

/-- The slot that dropped most TRACE records, the lowest on ties, and its count. -/
def topDrop : SMap Nat → Nat × Nat
  | [] => (0, 0)
  | (k, n) :: r => if topDrop r = (0, 0) ∨ (topDrop r).2 ≤ n then (k, n) else topDrop r

def sumRec (now : Nat) (e : SumEnt) : LogRec :=
  { e.last with time := now, summary := true, arg := e.count % 2 ^ 32 + e.last.arg % 2 ^ 64 * 2 ^ 32 }

/-- A record of the writer's own, in class EVENT with SUMMARY set. -/
def State.ownRec (s : State) (code arg : Nat) : LogRec :=
  { time := s.now, step := (s.reg Reg.SIO_STEP).toNat, code, src := slotSiolo, cls := 1, summary := true, arg }

/-- LOG_SUMMARY: the 1 ms boundary. -/
def State.logSummary (s : State) (env : Env) : State :=
  s.settle .log env (fun s =>
    let sums := s.log.sums
    let dropped := s.log.dropped
    let lost := s.log.overflow
    let s := { s with log := { s.log with sums := [], dropped := [], overflow := [] } }
    let s := sums.foldl (fun s e => s.ringForce (sumRec s.now e)) s
    let total := (dropped.map (·.2)).foldl (· + ·) 0
    let (k, n) := topDrop dropped
    let s := if total = 0 then s
      else s.ringForce (s.ownRec 0x0909 (total % 2 ^ 32 + k * 2 ^ 32 + n % 2 ^ 32 * 2 ^ 40))
    lost.foldl (fun s o => s.ringForce (s.ownRec 0x090A (o.2 % 2 ^ 32 + o.1 * 2 ^ 32))) s)

/-! ## SIO_LOG_BASE (R429) -/

def State.sioReject (s : State) : State := s.raise Reg.SIO_EVENT 3 Reg.SIO_EVENT_CNT 48

/-- Whether a page of stacked memory holds the cairn ring in use. -/
def State.ringPage (s : State) (page : Nat) : Bool :=
  let p := s.fld Reg.SIO_LOG_BASE 51 21
  s.mainRing && decide (p ≤ page ∧ page < p + 4)

/-- The early ring's records, oldest first. -/
def State.earlyRecords (s : State) : List LogRec :=
  let h := s.fld Reg.SIO_LOG_HEAD 17 0
  let t := s.fld Reg.SIO_LOG_TAIL 17 0 % 2048
  (List.range ((h + 2048 - t) % 2048)).filterMap (fun i => mget none s.log.early ((t + i) % 2048))

/-- A write of SIO_LOG_BASE: ADDR may change while EN reads 0; EN is set once, over four OPEN pages of populated stacked
memory, and the early ring's records then go to the main ring from index 0. -/
def State.logBase (s : State) (v : Word) : State :=
  let addr := fget v 51 21
  if s.mainRing then
    if fget v 0 0 = 1 ∧ addr = s.fld Reg.SIO_LOG_BASE 51 21 then s else s.sioReject
  else if fget v 0 0 = 0 then s.setFld Reg.SIO_LOG_BASE 51 21 addr
  else if addr * 0x200000 + 0x800000 ≤ stackedEnd ∧ (upTo addr (addr + 3)).all (fun p => mget 0 s.seals p == 0) then
    let rs := s.earlyRecords
    let s := (s.setFld Reg.SIO_LOG_BASE 51 21 addr).setFld Reg.SIO_LOG_BASE 0 0 1
    let s := (s.setFld Reg.SIO_LOG_HEAD 17 0 0).setFld Reg.SIO_LOG_TAIL 17 0 0
    rs.foldl State.ringPut { s with log := { s.log with early := [] } }
  else s.sioReject

/-! ## The alarm file (R440, R441) -/

/-- Acknowledge one entry of the alarm file. -/
def State.ackAlarm (s : State) (e : Nat) : State :=
  match mget none s.log.alarms e with
  | some a =>
    let m := mset none s.log.alarms e (some { a with acked := true })
    { s with log := { s.log with alarms := m } }.setFld Reg.SIO_ALARM_STATUS 6 0 (alarmPending m)
  | none => s

/-- Acknowledge every entry. -/
def State.ackAll (s : State) : State := (List.range 64).foldl State.ackAlarm s

/-- ALERT_N is held low while an entry is unacknowledged or FULL reads 1 (R441). -/
def State.alertLow (s : State) : Bool :=
  s.fld Reg.SIO_ALARM_STATUS 6 0 != 0 || s.fld Reg.SIO_ALARM_STATUS 7 7 == 1

end Sys2Proof.Machine
end

