-- ==== Sys2Proof/Machine/Mailbox.lean ====
section
/-! DEFINITION. The mailboxes (R410–R415): posts, takes, withdrawals and timeouts, and how a server answers a request. -/

namespace Sys2Proof.Machine

/-- The two directions of a mailbox: their DATA registers and their FULL bit. -/
def mbxData (m : Nat) (up : Bool) (i : Nat) : Nat := if up then Reg.MBX_UP_DATA m i else Reg.MBX_DN_DATA m i
def mbxBit (up : Bool) : Nat := if up then 1 else 0

def State.mbxFull (s : State) (m : Nat) (up : Bool) : Bool := s.fld (Reg.MBX_STATUS m) (mbxBit up) (mbxBit up) == 1

def State.mbxSetFull (s : State) (m : Nat) (up full : Bool) : State :=
  s.setFld (Reg.MBX_STATUS m) (mbxBit up) (mbxBit up) (if full then 1 else 0)

/-- A DATA write or a second POST while FULL reads 1 is ignored and sets OVERRUN (R411). -/
def State.mbxOverrun (s : State) (m : Nat) (up : Bool) : State :=
  if up then s.raise (Reg.MBX_EVENT m) 3 (Reg.MBX_EVENT_CNT0 m) 48 else s.raise (Reg.MBX_EVENT m) 2 (Reg.MBX_EVENT_CNT0 m) 32

def State.mbxWriteData (s : State) (m : Nat) (up : Bool) (off : Nat) (v : Word) : State :=
  if s.mbxFull m up then s.mbxOverrun m up else s.writePlain off v

/-- The message words a direction holds. -/
def State.mbxWords (s : State) (m : Nat) (up : Bool) : List Nat :=
  (List.range 16).map (fun i => (s.reg (mbxData m up i)).toNat)

/-- POST: FULL is set; a host's mailbox raises its MSI-X vector for the up direction (R411, R413). -/
def State.mbxPost (s : State) (m : Nat) (up : Bool) : State :=
  if s.mbxFull m up then s.mbxOverrun m up
  else
    let s := s.mbxSetFull m up true
    if up ∧ m < 16 ∧ s.fld (Reg.MBX_CFG m) 11 11 = 1 then s.sendMsix (m % 8) (s.fld (Reg.MBX_CFG m) 10 0) else s

/-- How much of a control core's request queue is taken: walker misses and mailbox commands (R409). -/
def State.ccLoad (s : State) (c : Nat) : Nat :=
  (mget [] s.ccReqs c).length + (if c < 8 then (mget {} s.mbx (c + 8)).taken.length else 0)

/-- Whether the queue of the control core behind a mailbox has no room for another request (R409). -/
def State.mbxNoRoom (s : State) (m : Nat) : Bool := decide (8 ≤ m ∧ m < 16 ∧ 256 ≤ s.ccLoad (m - 8))

/-- Whether a TAKE takes a message: a control core whose queue is full takes none (DESIGN CHOICE, log 105). -/
def State.mbxTakes (s : State) (m : Nat) (up : Bool) : Bool := s.mbxFull m up && (up || !s.mbxNoRoom m)

/-- A read of TAKE returns FULL and clears it; the server then holds the request (R411). One that takes no message though there is one
reads 0, and the message stays. -/
def State.mbxTake (s : State) (who : Requester) (m : Nat) (up : Bool) : State :=
  let full := s.mbxTakes m up
  if s.mbxFull m up && !full then (s.endLatch who).emit (.regRead who (Reg.MBX_DN_TAKE m) 0)
  else
  let s := (s.endLatch who).emit (.regRead who (if up then Reg.MBX_UP_TAKE m else Reg.MBX_DN_TAKE m) (if full then 1 else 0))
  let s := if full ∧ ¬ up then { s with mbx := mmod {} s.mbx m (fun x => { taken := x.taken ++ [s.mbxWords m false] }) } else s
  s.mbxSetFull m up false

/-- WITHDRAW clears FULL, unless a TAKE reaches the mailbox in the same cycle and takes the message: the TAKE wins (R412). -/
def State.mbxWithdraw (s : State) (who : Requester) (m : Nat) (up : Bool) (take : Option Requester) : State :=
  let s := s.setPort who {}
  match take with
  | none => s.mbxSetFull m up false
  | some r =>
    if s.mbxTakes m up then (s.mbxTake r m up).raise (Reg.MBX_EVENT m) 4 (Reg.MBX_EVENT_CNT1 m) 0
    else (s.mbxTake r m up).mbxSetFull m up false

/-- A message not taken within TIMEOUT_MS (R412). -/
def State.mbxTimeout (s : State) (m : Nat) (up : Bool) : State :=
  if s.mbxFull m up then
    (s.raise (Reg.MBX_EVENT m) (mbxBit up) (Reg.MBX_EVENT_CNT0 m) (16 * mbxBit up)).post slotMailboxes 0x0806 1
      (m + (if up then 32 else 0))
  else s

/-! ## Requests and replies (R414, R415) -/

/-- Header fields. -/
def hdrCmd (w : Nat) : Nat := bits w 31 24
def hdrLen (w : Nat) : Nat := bits w 15 12
def hdrUrgent (w : Nat) : Bool := bit w 11

def mbOk : Nat := 0
def mbBusy : Nat := 1
def mbUnknown : Nat := 2
def mbBadArg : Nat := 3
def mbFailed : Nat := 4

/-- What the server of a mailbox is: Siolo or a control core (R410). -/
inductive Server where
  | siolo
  | core (c : Nat)
  deriving DecidableEq, Repr

def serverOf (m : Nat) : Server := if 8 ≤ m ∧ m < 16 then .core (m - 8) else .siolo

/-- The device is in recovery (R468). -/
def State.inRecovery (s : State) : Bool := s.fld Reg.SEC_STATUS 1 1 == 1

/-- The recovery loader runs: in recovery, and not while the boot ROM loads the bundle again (R425, R468). -/
def State.loaderUp (s : State) : Bool :=
  match s.boot with
  | .recovery _ => s.inRecovery
  | _ => false

/-- Whether the server runs its firmware, or on mailboxes 0 to 7 the recovery loader (R408, R425, R468). -/
def State.serverUp (s : State) (m : Nat) : Bool :=
  match serverOf m with
  | .siolo => (s.fld Reg.SIO_STATUS 0 0 == 1 && !s.oppBusy) || (s.loaderUp && !s.oppBusy && decide (m < 8))
  | .core c => s.fld (Reg.HST_CC_STATUS c) 32 32 == 1

/-- Commands whose URGENT bit Siolo honours (R428). -/
def urgentCmd (cmd : Nat) : Bool := decide ((1 ≤ cmd ∧ cmd ≤ 3) ∨ (0x60 ≤ cmd ∧ cmd ≤ 0x63))

/-- Whether a server serves a command code (R415, R442, R463, R468). -/
def State.serves (s : State) (v : Server) (cmd : Nat) : Bool :=
  match v with
  | .core _ => cmd ∈ [0x01, 0x02, 0x03, 0x20, 0x21, 0x22]
  | .siolo =>
    cmd ∈ [0x01, 0x02, 0x03]
      || (if s.inRecovery then cmd ∈ [0xB0, 0xB1, 0xB2] else cmd ∈ [0x60, 0x61, 0x62, 0x63] || decide (0xA0 ≤ cmd ∧ cmd ≤ 0xA8))

/-- Commands Siolo accepts over MCTP (R462). -/
def mctpCmds : List Nat := [0xA0, 0xA4, 0xA6, 0xA7]

/-- Whether the server behind a channel serves a command code. -/
def State.servesOn (s : State) (ch : Chan) (cmd : Nat) : Bool :=
  match ch with
  | .mbx m => s.serves (serverOf m) cmd
  | .mctp _ _ => cmd ∈ mctpCmds
  | .i3c _ => s.serves .siolo cmd

/-- Siolo's MCTP endpoint replies where the message came from (R443). -/
def State.mctpReply (s : State) : Via → List Byte → State
  | .i3c, b => s.emit (.board (some b))
  | .vdm h, b => s.emit (.vdm h b)

/-- Whether a carrier of MCTP is there: the I3C bus, or a host link that is Up (R391, R443). -/
def State.viaUp (s : State) : Via → Bool
  | .i3c => true
  | .vdm h => s.hostExists h && s.fld (Reg.HST_HOST_STATUS h) 0 0 == 1

/-- Whether the server of a channel runs and may reply: its client has taken the earlier reply (R411). -/
def State.chanOpen (s : State) (ch : Chan) : Bool :=
  match ch with
  | .mbx m => s.serverUp m && !s.mbxFull m true
  | .mctp via _ => s.fld Reg.SIO_STATUS 0 0 == 1 && !s.oppBusy && s.viaUp via
  | .i3c _ => s.loaderUp && !s.oppBusy && s.i3cHeld.isNone

/-- Whether the server of a channel is a control core with a walker miss in its queue, which goes before any mailbox command
(R409). -/
def State.chanBusy (s : State) (ch : Chan) : Bool :=
  match ch with
  | .mbx m => (match serverOf m with | .core c => (mget [] s.ccReqs c).any (fun r => !r.waits) | .siolo => false)
  | _ => false

/-- Whether the server can take up a request of the channel now. -/
def State.chanReady (s : State) (ch : Chan) : Bool := s.chanOpen ch && !s.chanBusy ch

/-- The request a server answers: the oldest it has taken, else the one that waits in the mailbox, which it takes; over MCTP or
I3C the message itself. -/
def State.request (s : State) (ch : Chan) : Option (List Nat × State) :=
  match ch with
  | .mbx m =>
    match (mget {} s.mbx m).taken with
    | ws :: r => some (ws, { s with mbx := mset {} s.mbx m { taken := r } })
    | [] => if s.mbxFull m false then some (s.mbxWords m false, s.mbxSetFull m false false) else none
  | .mctp _ msg => some (msg.map (·.toNat), s)
  | .i3c msg => some (msg.map (·.toNat), s)

/-- The header of a reply: CMD and TAG of the request, the number of words and the status. -/
def replyHead (hdr status n : Nat) : Nat := bits hdr 31 16 * 2 ^ 16 + n * 2 ^ 12 + status

/-- The server writes a reply with a status and words, and posts it in the up direction (R414). -/
def State.mbxReply (s : State) (m hdr status : Nat) (words : List Nat) : State :=
  let s := (numbered (replyHead hdr status words.length :: words)).foldl
    (fun s x => s.setReg (mbxData m true x.1) (BitVec.ofNat 64 (x.2 % 2 ^ 32))) s
  s.mbxPost m true

/-- The words of a message as bytes. -/
def wordBytes (ws : List Nat) : List Byte := ws.flatMap (toLe 4)

/-- A message of type 0x7E with Lercor's vendor ID over MCTP (R462). -/
def mctpBytes (b : List Byte) : List Byte := [0x7E, 0x4C, 0x52] ++ b

/-- A reply over I3C waits for a private read after an in-band interrupt (R468). -/
def State.i3cReply (s : State) (b : List Byte) : State := { s with i3cHeld := some b }.emit .ibi

/-- The reply on the request's channel. -/
def State.reply (s : State) (ch : Chan) (hdr status : Nat) (words : List Nat) : State :=
  let b := wordBytes (replyHead hdr status words.length :: words)
  match ch with
  | .mbx m => s.mbxReply m hdr status words
  | .mctp via _ => s.mctpReply via (mctpBytes b)
  | .i3c _ => s.i3cReply b

/-- BAD_ARG at a word of the message. -/
def State.badArg (s : State) (ch : Chan) (h i : Nat) : State := s.reply ch h mbBadArg [i]

/-- BUSY with a hint, held to its bounds. -/
def State.busyReply (s : State) (ch : Chan) (h hint : Nat) : State := s.reply ch h mbBusy [max 1000 (min 100000 hint)]

/-- Whether the server of a channel is an overloaded Siolo. -/
def State.overloaded (s : State) (ch : Chan) : Bool :=
  let sio : Bool := match ch with
    | .mbx m => serverOf m == .siolo
    | _ => true
  sio && s.fld Reg.SIO_STATUS 0 0 == 1 && s.fld Reg.SIO_STATUS 1 1 == 1

/-- Serve a command of code `cmd`: a code the server does not serve gets UNKNOWN; a deferred command at an overloaded Siolo
gets BUSY with its hint; a request with other words than the command takes, a nonzero reserved field or a nonzero STATUS gets
BAD_ARG (R414, R427). The hint is the server's estimate. -/
def State.serveLen (s : State) (ch : Chan) (cmd : Nat) (lenOk : Nat → Bool) (hint : Nat)
    (f : State → Nat → List Nat → State) : State :=
  if !s.chanReady ch then s
  else
    match s.request ch with
    | none => s
    | some (ws, t) =>
      let h := ws.getD 0 0
      if !s.servesOn ch (hdrCmd h) then t.reply ch h mbUnknown []
      else if hdrCmd h ≠ cmd then s
      else if s.overloaded ch ∧ ¬ (hdrUrgent h ∧ urgentCmd cmd) then t.busyReply ch h hint
      else if bits h 10 8 ≠ 0 ∨ bits h 7 0 ≠ 0 ∨ ¬ lenOk (hdrLen h) then t.badArg ch h 0
      else f t h (ws.drop 1)

/-- Serve a command of a fixed number of words. -/
def State.serve (s : State) (ch : Chan) (cmd nWords hint : Nat) (f : State → Nat → List Nat → State) : State :=
  s.serveLen ch cmd (fun n => n == nWords) hint f

/-- A reply of OK with words. -/
def State.replyOk (s : State) (ch : Chan) (h : Nat) (words : List Nat) : State := s.reply ch h mbOk words

/-- A reply of FAILED with a code. -/
def State.replyFail (s : State) (ch : Chan) (h code : Nat) : State := s.reply ch h mbFailed [code]

/-- A 64-bit value as two words, low first (R3). -/
def words64 (n : Nat) : List Nat := [n % 2 ^ 32, n / 2 ^ 32 % 2 ^ 32]

/-- The number two words of a request hold. -/
def word2 (ws : List Nat) (i : Nat) : Nat := ws.getD i 0 + ws.getD (i + 1) 0 * 2 ^ 32

/-- PING (R415). -/
def State.ping (s : State) (ch : Chan) (hint : Nat) : State :=
  s.serve ch 0x01 1 hint (fun s h ws => s.replyOk ch h [ws.getD 0 0])

/-- BUSY to a request of code `cmd` whose server cannot serve it at once (R20). -/
def State.serveBusy (s : State) (ch : Chan) (cmd hint : Nat) : State :=
  match s.request ch with
  | some (ws, t) => if hdrCmd (ws.getD 0 0) = cmd ∧ s.chanOpen ch then t.busyReply ch (ws.getD 0 0) hint else s
  | none => s

/-- GET_CAP: the whole capability block; BUSY from a server that is busy with what comes before (R20). -/
def State.getCap (s : State) (ch : Chan) (hint : Nat) : State :=
  if s.chanBusy ch then s.serveBusy ch 0x02 hint
  else
    s.serve ch 0x02 0 hint (fun s h _ => s.replyOk ch h
      ([Reg.SYS_CAP_ID, Reg.SYS_CAP_FMT, Reg.SYS_CAP_SIZE, Reg.SYS_CAP_MEM].flatMap (fun r => words64 (s.reg r).toNat)))

/-- GET_FW: the server's firmware; all words zero in recovery (R415, R468). -/
def State.getFw (s : State) (ch : Chan) (hint : Nat) : State :=
  s.serve ch 0x03 0 hint (fun s h _ =>
    let core : Bool := match ch with
      | .mbx m => serverOf m != .siolo
      | _ => false
    let w := if core then s.ccFw else if s.inRecovery then {} else s.sioFw
    s.replyOk ch h ([w.secVer] ++ words64 w.seq ++ [w.tag % 2 ^ 32]))

end Sys2Proof.Machine
end

