-- ==== Sys2Proof/Machine/Route.lean ====
section
/-! DEFINITION. The route image (02_route_image.md): its layout, its checks in the order of R70, and what it says. Core
numbering (R24–R26) and reduction plans (R363, R364) are here because the checks use them. -/

namespace Sys2Proof.Machine

/-! ## Core sites (R24–R26) -/

/-- The enabled core sites in mesh order: by ascending y, then ascending x. -/
def coreSites (f : Fuses) : List (Nat × Nat) :=
  ((List.range 11).flatMap (fun y => (List.range 12).map (fun x => (x + 1, y + 1)))).filter (fun p => !(f.offSites.contains p))

/-- SYS_CORE_SITE[n]. -/
def coreSiteReg (f : Fuses) (n : Nat) : Word :=
  let p := (coreSites f).getD n (0, 0)
  BitVec.ofNat 64 (p.2 * 16 + p.1)

/-- SYS_CORE_OFF. -/
def coreOffReg (f : Fuses) : Word :=
  BitVec.ofNat 64 (ofLe (f.offSites.map (fun p => BitVec.ofNat 8 (p.2 * 16 + p.1))))

/-! ## CRC-64 (R335) -/

def crc64Bit (c : Nat) : Nat := if c % 2 = 1 then Nat.xor (c / 2) 0xC96C5795D7870F42 else c / 2

def crc64Byte (c : Nat) (b : Byte) : Nat :=
  crc64Bit (crc64Bit (crc64Bit (crc64Bit (crc64Bit (crc64Bit (crc64Bit (crc64Bit (Nat.xor c b.toNat))))))))

/-- Fold bytes into a running CRC-64, before the final XOR. -/
def crc64Fold (c : Nat) (b : List Byte) : Nat := b.foldl crc64Byte c

/-- CRC-64 with the ECMA-182 polynomial, reflected, initial value and final XOR all ones. -/
def crc64 (b : List Byte) : Nat := Nat.xor (crc64Fold (2 ^ 64 - 1) b) (2 ^ 64 - 1)

/-! ## Reduction plans (R363, R364) -/

def planMembers (p : List Byte) : Nat := leAt p 0 4
def planSum (p : List Byte) : Nat := leAt p 4 1
def planLevels (p : List Byte) : Nat := leAt p 5 1
def planBidir (p : List Byte) : Nat := leAt p 6 1
def planG (p : List Byte) (k : Nat) : Nat := leAt p (8 + 4 * k) 4
def planId (p : List Byte) : Nat := leAt p 0x20 8

/-- Members in the levels below k: the weight of digit k. -/
def planWeight (p : List Byte) (k : Nat) : Nat := ((List.range k).map (planG p)).foldl (· * ·) 1

/-- The digit of member m at level k. -/
def planDigit (p : List Byte) (k m : Nat) : Nat := m / planWeight p k % planG p k

/-! ## Results of the checks -/

/-- The codes of RTE_STATUS.CODE (R70, R78). -/
def imOk : Nat := 0x00
def imNotQuiesced : Nat := 0x01
def imMagic : Nat := 0x02
def imVersion : Nat := 0x03
def imPart : Nat := 0x04
def imLength : Nat := 0x05
def imSignature : Nat := 0x06
def imDigest : Nat := 0x07
def imRollback : Nat := 0x08
def imLayout : Nat := 0x09
def imField : Nat := 0x0A
def imReserved : Nat := 0x0B
def imRange : Nat := 0x0C
def imNone : Nat := 0x0D
def imRead : Nat := 0x0E

/-- A failed check: its code, the section type and the byte offset in the image. -/
structure Fail where
  code : Nat
  section_ : Nat
  offset : Nat
  deriving DecidableEq, Repr

/-- The first check of a list that does not hold. -/
def firstBadCheck : List (Bool × Fail) → Option Fail
  | [] => none
  | c :: r => if c.1 then firstBadCheck r else some c.2

/-! ## Steps 1 to 4: the header (R42) -/

def imgLen (h : List Byte) : Nat := leAt h 8 4
def imgSeq (h : List Byte) : Nat := leAt h 0x10 8
def imgSecVer (h : List Byte) : Nat := leAt h 0x18 4
def imgSecCount (h : List Byte) : Nat := leAt h 0x1C 2

/-- Steps 1 to 4 of R70 but for the source range, for a magic number, and a length's bounds. -/
def headChecks (magic maxLen : Nat) (h : List Byte) : Option Fail :=
  firstBadCheck [
    (leAt h 0 4 == magic, ⟨imMagic, 0, 0⟩),
    (leAt h 4 1 == 0x11, ⟨imVersion, 0, 4⟩),
    (leAt h 0xC 2 == 0x0024, ⟨imPart, 0, 0xC⟩),
    (leAt h 0xE 1 == 0xB0, ⟨imPart, 0, 0xE⟩),
    (leAt h 6 2 == 0x0100, ⟨imLength, 0, 6⟩),
    (imgLen h % 4096 == 0 && decide (0x2000 ≤ imgLen h ∧ imgLen h ≤ maxLen), ⟨imLength, 0, 8⟩)]

/-- Step 5: the trailer's key, length and signature (R45, R447). -/
def signatureFail (root : List Nat) (h trailer : List Byte) : Option Fail :=
  let t := imgLen h - 0x1000
  firstBadCheck [
    (sha256 (slice trailer 0 56) == root.flatMap (toLe 8) && ofBe (slice trailer 0 4) == 7 && ofBe (slice trailer 4 4) == 3,
      ⟨imSignature, 0, t⟩),
    (leAt trailer 0x40 4 == 2668, ⟨imSignature, 0, t + 0x40⟩),
    (signatureOk root h trailer, ⟨imSignature, 0, t + 0x44⟩)]

/-- Step 6: the digest of every byte between the header and the trailer. -/
def digestFail (img : List Byte) : Option Fail :=
  let len := imgLen img
  if sha256 ((img.take (len - 0x1000)).drop 0x100) = slice img 0x40 32 then none else some ⟨imDigest, 0, 0x40⟩

/-! ## Step 8: the section directory (R43, R44) -/

structure DirEnt where
  at_ : Nat
  type : Nat
  sver : Nat
  offset : Nat
  length : Nat
  deriving DecidableEq, Repr

def dirEntry (img : List Byte) (i : Nat) : DirEnt :=
  let o := 0x100 + 16 * i
  ⟨o, leAt img o 2, leAt img (o + 2) 1, leAt img (o + 4) 4, leAt img (o + 8) 4⟩

def directory (img : List Byte) : List DirEnt := (List.range (imgSecCount img)).map (dirEntry img)

/-- Whether LENGTH is what the section's type fixes. -/
def lengthOk (img : List Byte) (d : DirEnt) : Bool :=
  let n := leAt img d.offset 1
  match d.type with
  | 1 => d.length == 400
  | 2 => d.length == 128
  | 3 => d.length == 16 + 16 * n
  | 4 => d.length == 512
  | 5 => d.length == 128
  | 6 => d.length == 16 + 32 * n
  | 7 => decide (16 + 32 * n ≤ d.length)
  | 8 => d.length == 32
  | _ => false

/-- The checks of one entry, after the entries whose largest type and end are given. -/
def entryChecks (img : List Byte) (lastType lastEnd : Nat) (d : DirEnt) : List (Bool × Fail) :=
  [(decide (1 ≤ d.type ∧ d.type ≤ 8 ∧ lastType < d.type), ⟨imLayout, 0, d.at_⟩),
   (d.sver % 16 == 1, ⟨imVersion, 0, d.at_ + 2⟩),
   (d.offset % 256 == 0 && decide (lastEnd ≤ d.offset ∧ d.offset < imgLen img - 0x1000), ⟨imLayout, 0, d.at_ + 4⟩),
   (decide (0 < d.length ∧ d.offset + d.length ≤ imgLen img - 0x1000) && lengthOk img d, ⟨imLayout, 0, d.at_ + 8⟩)]

/-- The directory's entries one by one, each in the order of its fields; the first that fails is reported, so a later entry's failure
does not show (DESIGN CHOICE, log 93: R70 gives no order inside a step). -/
def dirChecks (img : List Byte) : Nat → Nat → List DirEnt → List (Bool × Fail)
  | _, _, [] => []
  | lt, le, d :: r => entryChecks img lt le d ++ dirChecks img d.type (d.offset + d.length) r

/-- Step 8. A missing mandatory type, which no single field shows, is reported at the directory's first byte (DESIGN CHOICE, log 93:
R70 names no field for it). -/
def layoutFail (img : List Byte) : Option Fail :=
  let n := imgSecCount img
  let ds := directory img
  firstBadCheck ((decide (3 ≤ n ∧ n ≤ 8), ⟨imLayout, 0, 0x1C⟩)
    :: (if n ≤ 8 then dirChecks img 0 (0x100 + 16 * n) ds else [])
    ++ [(ds.any (·.type == 1) && ds.any (·.type == 2) && ds.any (·.type == 3), ⟨imLayout, 0, 0x100⟩)])

/-- The offset of a section, if the image has it. -/
def sectionAt (img : List Byte) (type : Nat) : Option DirEnt := (directory img).find? (·.type == type)

/-! ## Step 9: reserved fields and padding (R41) -/

/-- A run of reserved bytes: section, start, length, and the reserved bits of each byte. -/
structure Rsv where
  section_ : Nat
  start : Nat
  len : Nat
  mask : Nat := 0xFF
  deriving DecidableEq, Repr

/-- The place of the first nonzero reserved byte of a run. -/
def rsvFail (img : List Byte) (r : Rsv) : Option Fail :=
  match (((img.drop r.start).take r.len).findIdx? (fun b => Nat.land b.toNat r.mask != 0)) with
  | some i => some ⟨imReserved, r.section_, r.start + i⟩
  | none => none

def rsvHeader : List Rsv := [⟨0, 0x05, 1, 0xFF⟩, ⟨0, 0x0F, 1, 0xFF⟩, ⟨0, 0x1E, 2, 0xFF⟩, ⟨0, 0x28, 24, 0xFF⟩, ⟨0, 0x60, 160, 0xFF⟩]

def rsvDir (ds : List DirEnt) : List Rsv :=
  ds.flatMap (fun d => [⟨0, d.at_ + 2, 1, 0xF0⟩, ⟨0, d.at_ + 3, 1, 0xFF⟩, ⟨0, d.at_ + 12, 4, 0xFF⟩])

/-- Where a party's plan lies, if it lies inside its section and is 64 bytes. -/
def planAt (img : List Byte) (d : DirEnt) (k : Nat) : Option Nat :=
  let e := d.offset + 16 + 32 * k
  let o := leAt img (e + 0x10) 4
  if leAt img (e + 0x14) 4 = 64 ∧ o + 64 ≤ d.length then some (d.offset + o) else none

/-- What of a party's plan lies inside its section, from the section's start. -/
def planSpan (img : List Byte) (d : DirEnt) (k : Nat) : Option (Nat × Nat) :=
  let e := d.offset + 16 + 32 * k
  let o := leAt img (e + 0x10) 4
  let n := leAt img (e + 0x14) 4
  if o < d.length then some (o, min n (d.length - o)) else none

/-- The used ranges of a PARTY section, as (start, length) from the section's start, in rising order: its header, its entries, as
many as its count byte says, and its plans, as long as their entries say (R44). -/
def partyUsed (img : List Byte) (d : DirEnt) : List (Nat × Nat) :=
  let n := leAt img d.offset 1
  let plans := (List.range n).filterMap (planSpan img d)
  (0, 16 + 32 * n) :: plans.foldl (fun m x => mmod 0 m x.1 (max x.2)) []

/-- The gaps that used ranges leave in [at, stop). -/
def gaps (sec base stop : Nat) : Nat → List (Nat × Nat) → List Rsv
  | at_, [] => [⟨sec, base + at_, stop - at_, 0xFF⟩]
  | at_, u :: r => ⟨sec, base + at_, u.1 - at_, 0xFF⟩ :: gaps sec base stop (max at_ (u.1 + u.2)) r

def rsvSection (img : List Byte) (d : DirEnt) : List Rsv :=
  let o := d.offset
  let n := leAt img o 1
  match d.type with
  | 1 => ⟨1, o + 1, 15, 0xFF⟩ :: (List.range 16).map (fun r => ⟨1, o + 0x90 + 16 * r + 4, 12, 0xFF⟩)
  | 2 => (List.range 16).map (fun r => ⟨2, o + 8 * r + 4, 4, 0xFF⟩)
  | 3 => ⟨3, o + 1, 15, 0xFF⟩ :: (List.range n).map (fun k => ⟨3, o + 0x16 + 16 * k, 10, 0xFF⟩)
  | 4 => (List.range 128).map (fun c => ⟨4, o + 4 * c + 1, 1, 0xFF⟩)
  | 6 => ⟨6, o + 1, 15, 0xFF⟩ :: (List.range n).flatMap (fun k =>
      let e := o + 16 + 32 * k
      [⟨6, e + 6, 1, 0xF0⟩, ⟨6, e + 7, 1, 0xFF⟩, ⟨6, e + 0x13, 1, 0xFF⟩, ⟨6, e + 0x1D, 3, 0xFF⟩])
  | 7 => [⟨7, o + 1, 1, 0xFF⟩, ⟨7, o + 6, 1, 0xFC⟩, ⟨7, o + 7, 1, 0xFF⟩, ⟨7, o + 8, 8, 0xFF⟩]
      ++ (List.range n).flatMap (fun k =>
        let e := o + 16 + 32 * k
        [⟨7, e + 3, 1, 0xFF⟩, ⟨7, e + 6, 1, 0xFE⟩, ⟨7, e + 7, 1, 0xFF⟩, ⟨7, e + 14, 1, 0xFC⟩, ⟨7, e + 15, 1, 0xFF⟩,
         ⟨7, e + 0x18, 8, 0xFF⟩]
        ++ (match planAt img d k with
            | some p => [⟨7, p + 7, 1, 0xFF⟩, ⟨7, p + 0x14, 12, 0xFF⟩, ⟨7, p + 0x28, 24, 0xFF⟩]
            | none => []))
      ++ gaps 7 o d.length 0 (partyUsed img d)
  | 8 => [⟨8, o + 1, 1, 0xFF⟩, ⟨8, o + 5, 3, 0xFF⟩, ⟨8, o + 12, 20, 0xFF⟩]
  | _ => []

/-- Every reserved run of an image whose directory passed step 8. -/
def rsvAll (img : List Byte) : List Rsv :=
  let ds := directory img
  let t := imgLen img - 0x1000
  rsvHeader ++ rsvDir ds
    ++ gaps 0 0 t 0 ((0, 0x100 + 16 * ds.length) :: ds.map (fun d => (d.offset, d.length)))
    ++ ds.flatMap (rsvSection img)
    ++ [⟨0, t + 0x38, 8, 0xFF⟩, ⟨0, t + 0xAB0, 1360, 0xFF⟩]

/-- The offending byte at the lowest offset: that which RTE_ERR names of several nonzero reserved or padding bytes (DESIGN CHOICE,
log 93: R41 and R70 do not say which). -/
def lowestFail : List Fail → Option Fail
  | [] => none
  | f :: r => match lowestFail r with
    | none => some f
    | some g => if f.offset ≤ g.offset then some f else some g

def reservedFail (img : List Byte) : Option Fail := lowestFail ((rsvAll img).filterMap (rsvFail img))

/-! ## What an image says (R46–R63) -/

def parseRopes (img : List Byte) (o : Nat) (i : Image) : Image :=
  { i with
    ropeCount := leAt img o 1
    coreRope := (slice img (o + 0x10) 128).map (·.toNat)
    ropes := (List.range 16).map (fun r => ⟨leAt img (o + 0x90 + 16 * r) 2, leAt img (o + 0x92 + 16 * r) 2⟩) }

def parseMesh (img : List Byte) (o : Nat) (i : Image) : Image :=
  { i with mesh := (List.range 16).map (fun r =>
      let e := o + 8 * r
      ⟨leAt img e 1, leAt img (e + 1) 1, leAt img (e + 2) 1, leAt img (e + 3) 1⟩) }

def parseStore (img : List Byte) (o : Nat) (i : Image) : Image :=
  { i with pools := (List.range (leAt img o 1)).map (fun k =>
      let e := o + 0x10 + 16 * k
      ⟨leAt img e 1, leAt img (e + 1) 1, leAt img (e + 2) 2, leAt img (e + 4) 2⟩) }

def parseArray (img : List Byte) (o : Nat) (i : Image) : Image :=
  { i with array := (List.range 128).map (fun c => ⟨leAt img (o + 4 * c) 1, leAt img (o + 4 * c + 2) 2⟩) }

def parsePromo (img : List Byte) (o : Nat) (i : Image) : Image :=
  { i with promo := (slice img o 128).map (·.toNat) }

def parseInterleave (img : List Byte) (o : Nat) (i : Image) : Image :=
  { i with regions := (List.range (leAt img o 1)).map (fun k =>
      let e := o + 16 + 32 * k
      ⟨leAt img e 8, leAt img (e + 8) 8, leAt img (e + 0x10) 4, leAt img (e + 0x14) 8, leAt img (e + 0x1C) 1⟩) }

def parseParty (img : List Byte) (d : DirEnt) (i : Image) : Image :=
  let o := d.offset
  { i with
    etherType := leAt img (o + 2) 2
    ethPorts := leAt img (o + 4) 4
    parties := (List.range (leAt img o 1)).map (fun k =>
      let e := o + 16 + 32 * k
      { id := leAt img e 1, sum := leAt img (e + 1) 1, topo := leAt img (e + 2) 1, member := leAt img (e + 4) 4
        members := leAt img (e + 8) 4, ports := leAt img (e + 12) 4
        plan := match planAt img d k with | some p => slice img p 64 | none => [] }) }

def parseDigest (img : List Byte) (o : Nat) (i : Image) : Image :=
  { i with
    fpEnable := leAt img o 1 == 1, fpInterval := leAt img (o + 2) 2
    shaEnable := leAt img (o + 4) 1 == 1, shaInterval := leAt img (o + 8) 4 }

def parseSection (img : List Byte) (i : Image) (d : DirEnt) : Image :=
  match d.type with
  | 1 => parseRopes img d.offset i
  | 2 => parseMesh img d.offset i
  | 3 => parseStore img d.offset i
  | 4 => parseArray img d.offset i
  | 5 => parsePromo img d.offset i
  | 6 => parseInterleave img d.offset i
  | 7 => parseParty img d i
  | 8 => parseDigest img d.offset i
  | _ => i

/-- What an image says; absent optional sections leave the defaults of R44. -/
def parseImage (img : List Byte) : Image := (directory img).foldl (parseSection img) { seq := imgSeq img }

/-- The array mode, the partner and the promotion code of a core, with the defaults of R44. -/
def Image.arr (i : Image) (n : Nat) : ArrayEnt := i.array.getD n {}
def Image.promoCode (i : Image) (n : Nat) : Nat := i.promo.getD n 1
def Image.rope (i : Image) (n : Nat) : Nat := i.coreRope.getD n 0xFF

/-! ## Step 10: field rules -/

/-- A field check of a section: what must hold and where it is reported. -/
def chk (sec off : Nat) (b : Bool) : Bool × Fail := (b, ⟨imField, sec, off⟩)

def ropesChecks (o : Nat) (i : Image) : List (Bool × Fail) :=
  chk 1 o (decide (1 ≤ i.ropeCount ∧ i.ropeCount ≤ 16))
  :: (numbered i.coreRope).map (fun x => chk 1 (o + 0x10 + x.1) (decide (x.2 < i.ropeCount) || x.2 == 0xFF))
  ++ (numbered i.ropes).flatMap (fun x =>
    let e := o + 0x90 + 16 * x.1
    if x.1 < i.ropeCount then
      [chk 1 e (decide (x.2.queues ≤ 128) && i.coreRope.contains x.1), chk 1 (e + 2) (x.2.ccMask != 0)]
    else [chk 1 e (x.2.queues == 0), chk 1 (e + 2) (x.2.ccMask == 0)])

/-- Two ropes that share a plane and differ in ORDER have disjoint channel ranges (R51). -/
def meshApart (a b : MeshEnt) : Bool :=
  Nat.land a.planes b.planes == 0 || a.order == b.order
    || decide (a.vcBase + a.vcCount ≤ b.vcBase ∨ b.vcBase + b.vcCount ≤ a.vcBase)

def meshChecks (o : Nat) (i : Image) : List (Bool × Fail) :=
  (numbered i.mesh).flatMap (fun x =>
    let e := o + 8 * x.1
    let m := x.2
    if x.1 < i.ropeCount then
      [chk 2 e (m.planes != 0), chk 2 (e + 1) (decide (m.vcBase ≤ 2)),
       chk 2 (e + 2) (decide (1 ≤ m.vcCount ∧ m.vcCount ≤ 3 ∧ m.vcBase + m.vcCount ≤ 3)), chk 2 (e + 3) (decide (m.order ≤ 1)),
       chk 2 e ((i.mesh.take x.1).all (meshApart m))]
    else [chk 2 e (m.planes == 0), chk 2 (e + 1) (m.vcBase == 0), chk 2 (e + 2) (m.vcCount == 0), chk 2 (e + 3) (m.order == 0)])

def poolsApart (a b : Pool) : Bool := decide (a.first + a.count ≤ b.first ∨ b.first + b.count ≤ a.first)

/-- The rules of R53 and R54. Pools missing or in surplus, which no single field shows, are reported at the section's first byte, as
are a wrong end of the map and wrong shares below (DESIGN CHOICE, log 93). R54's 'none exists otherwise' is read of every
reduction-scratch pool, owned by one rope or by none; a KV page pool of all ropes counts for each rope's limit of one (DESIGN
CHOICE, log 94: the spec settles neither). -/
def storeChecks (o : Nat) (i : Image) : List (Bool × Fail) :=
  let log := i.pools.filter (fun p => p.kind == 4 && p.rope == 0xFF)
  let scratch := i.pools.filter (fun p => p.kind == 3 && p.rope == 0xFF)
  chk 3 o (decide (1 ≤ i.pools.length ∧ i.pools.length ≤ 64))
  :: (numbered i.pools).flatMap (fun x =>
    let e := o + 0x10 + 16 * x.1
    let p := x.2
    [chk 3 e (decide (1 ≤ p.kind ∧ p.kind ≤ 4)), chk 3 (e + 1) (decide (p.rope < i.ropeCount) || p.rope == 0xFF),
     chk 3 (e + 2) (decide (p.first ≤ 4095) && (i.pools.take x.1).all (poolsApart p)),
     chk 3 (e + 4) (p.count != 0 && decide (p.first + p.count ≤ 4096)),
     chk 3 (e + 2) (p.kind != 4 || p.rope != 0xFF || decide (p.first + p.count ≤ 3712))])
  ++ (List.range i.ropeCount).map (fun r => chk 3 o (i.pools.any (fun p => p.kind == 1 && (p.rope == r || p.rope == 0xFF))))
  ++ (List.range i.ropeCount).map (fun r =>
      chk 3 o (decide ((i.pools.filter (fun p => p.kind == 2 && (p.rope == r || p.rope == 0xFF))).length ≤ 1)))
  ++ [chk 3 o (if i.parties = [] then !(i.pools.any (fun p => p.kind == 3)) else scratch.length == 1),
      chk 3 o (log.length == 1)]

/-- Sites next to each other: they differ by 1 in exactly one of X and Y (R56). -/
def sitesAdjacent (a b : Nat × Nat) : Bool :=
  (a.1 == b.1 && (a.2 + 1 == b.2 || b.2 + 1 == a.2)) || (a.2 == b.2 && (a.1 + 1 == b.1 || b.1 + 1 == a.1))

def arrayChecks (f : Fuses) (o : Nat) (i : Image) : List (Bool × Fail) :=
  let sites := coreSites f
  (numbered i.array).flatMap (fun x =>
    let e := o + 4 * x.1
    let a := x.2
    let b := i.arr a.partner
    [chk 4 e (decide (a.mode ≤ 3) && (a.mode == 0 || i.rope x.1 != 0xFF)),
     chk 4 (e + 2) (if a.mode ≤ 1 then a.partner == 0xFFFF
      else decide (a.partner < 128) && a.partner != x.1 && b.mode == a.mode && b.partner == x.1 && i.rope a.partner == i.rope x.1
        && sitesAdjacent (sites.getD x.1 (0, 0)) (sites.getD a.partner (0, 0)))])

def promoChecks (o : Nat) (i : Image) : List (Bool × Fail) :=
  (numbered i.promo).map (fun x =>
    chk 5 (o + x.1) (decide (x.2 ≤ 3) && (decide ((i.arr x.1).mode ≤ 1) || i.promoCode (i.arr x.1).partner == x.2)))

/-- Pseudo-channels of a region. -/
def regionWays (r : Region) : Nat := popCount 24 r.stackMask * popCount 64 r.pcMask

/-- The share of every pseudo-channel is exactly 768 MiB (R59). -/
def sharesOk (rs : List Region) : Bool :=
  (List.range 24).all (fun c => (List.range 64).all (fun p =>
    ((rs.filter (fun r => bit r.stackMask c && bit r.pcMask p)).map (fun r => r.size / regionWays r)).foldl (· + ·) 0 == 0x30000000))

def interleaveChecks (o : Nat) (i : Image) : List (Bool × Fail) :=
  chk 6 o (decide (1 ≤ i.regions.length ∧ i.regions.length ≤ 64))
  :: (numbered i.regions).flatMap (fun x =>
    let e := o + 16 + 32 * x.1
    let r := x.2
    let want := match x.1 with
      | 0 => 0
      | k + 1 => let q := i.regions.getD k {}; q.base + q.size
    [chk 6 e (r.base == want && r.base % 0x200000 == 0),
     chk 6 (e + 0x10) (r.stackMask != 0), chk 6 (e + 0x14) (r.pcMask != 0),
     chk 6 (e + 8) (r.size != 0 && r.size % (regionWays r * 0x200000) == 0),
     chk 6 (e + 0x1C) (decide (r.granule ≤ 4))])
  ++ [chk 6 o ((match i.regions.getLast? with | some r => r.base + r.size | none => 0) == stackedEnd && sharesOk i.regions)]

/-- The checks of a plan at an offset of the image (R364). -/
def planChecks (at_ : Nat) (p : PartyEnt) : List (Bool × Fail) :=
  let n := planLevels p.plan
  [chk 7 at_ (planMembers p.plan == p.members), chk 7 (at_ + 4) (planSum p.plan == p.sum),
   chk 7 (at_ + 5) (decide (1 ≤ n ∧ n ≤ 3)), chk 7 (at_ + 6) (decide (planBidir p.plan ≤ 1))]
  ++ (List.range 3).map (fun k => chk 7 (at_ + 8 + 4 * k) (if k < n then decide (2 ≤ planG p.plan k) else planG p.plan k == 0))
  ++ [chk 7 (at_ + 8) (planWeight p.plan n == p.members), chk 7 (at_ + 0x20) (planId p.plan == crc64 (p.plan.take 32))]

def partyChecks (img : List Byte) (d : DirEnt) (i : Image) : List (Bool × Fail) :=
  let o := d.offset
  let ports : Nat := (i.parties.map (fun p => popCount 18 p.ports)).foldl (· + ·) 0
  let scratch : Nat := ((i.pools.filter (fun p => p.kind == 3 && p.rope == 0xFF)).map (·.count)).foldl (· + ·) 0
  [chk 7 o (decide (i.parties.length ≤ 4)), chk 7 (o + 2) (decide (0x600 ≤ i.etherType))]
  ++ (numbered i.parties).flatMap (fun x =>
    let e := o + 16 + 32 * x.1
    let p := x.2
    let po := leAt img (e + 0x10) 4
    [chk 7 e (p.id == x.1), chk 7 (e + 1) (decide (p.sum ≤ 1)), chk 7 (e + 2) (decide (p.topo ≤ 1)),
     chk 7 (e + 8) (decide (2 ≤ p.members) && decide (p.members ≤ if p.topo = 0 then 1024 else 131072)),
     chk 7 (e + 4) (decide (p.member < p.members)),
     chk 7 (e + 12) (p.ports != 0 && (i.parties.take x.1).all (fun q => Nat.land q.ports p.ports == 0)),
     chk 7 (e + 0x14) (leAt img (e + 0x14) 4 == 64),
     chk 7 (e + 0x10) (po % 256 == 0 && decide (16 + 32 * i.parties.length ≤ po) && (planAt img d x.1).isSome
        && (List.range x.1).all (fun k => let q := leAt img (o + 16 + 32 * k + 0x10) 4; decide (q + 64 ≤ po ∨ po + 64 ≤ q)))]
    ++ planChecks (o + po) p)
  ++ [chk 7 o (decide (16 * ports ≤ scratch))]

def digestChecks (o : Nat) (img : List Byte) : List (Bool × Fail) :=
  [chk 8 o (decide (leAt img o 1 ≤ 1)), chk 8 (o + 2) (decide (1 ≤ leAt img (o + 2) 2)), chk 8 (o + 4) (decide (leAt img (o + 4) 1 ≤ 1)),
   chk 8 (o + 8) (leAt img (o + 4) 1 != 1 || decide (1 ≤ leAt img (o + 8) 4))]

def sectionChecks (f : Fuses) (img : List Byte) (i : Image) (d : DirEnt) : List (Bool × Fail) :=
  match d.type with
  | 1 => ropesChecks d.offset i
  | 2 => meshChecks d.offset i
  | 3 => storeChecks d.offset i
  | 4 => arrayChecks f d.offset i
  | 5 => promoChecks d.offset i
  | 6 => interleaveChecks d.offset i
  | 7 => partyChecks img d i
  | 8 => digestChecks d.offset img
  | _ => []

/-- Step 10 of R70. -/
def fieldFail (f : Fuses) (img : List Byte) : Option Fail :=
  let i := parseImage img
  firstBadCheck ([chk 0 0x10 (imgSeq img != 0), chk 0 0x18 (decide (imgSecVer img ≤ 64))]
    ++ (directory img).flatMap (sectionChecks f img i))

/-- Steps 7 to 10 of R70, for the count of blown anti-rollback fuses. -/
def bodyFail (f : Fuses) (img : List Byte) : Option Fail :=
  if imgSecVer img < f.svn then some ⟨imRollback, 0, 0x18⟩
  else ((layoutFail img).orElse (fun _ => reservedFail img)).orElse (fun _ => fieldFail f img)

end Sys2Proof.Machine
end

