-- ==== Sys2Proof/Machine/Tiles.lean ====
section
/-! DEFINITION. Accumulator tiles (R152–R155), operand placement (R133) and what the matrix and accumulator records
share. -/

namespace Sys2Proof.Machine

/-- A row of zeros. -/
def zeroRow : List Nat := List.replicate 64 0

/-- Row r of tile t of a core. -/
def State.tileRow (s : State) (n t r : Nat) : List Nat := mget zeroRow (s.mat n).rows (64 * t + r)

def State.setTileRow (s : State) (n t r : Nat) (v : List Nat) : State :=
  s.setMat n { s.mat n with rows := mset zeroRow (s.mat n).rows (64 * t + r) v }

/-- The tag of tile t: 0 ZERO, 1 FP32, 2 INT32 (R153). -/
def State.tag (s : State) (n t : Nat) : Nat := mget 0 (s.mat n).tags t

def State.setTag (s : State) (n t g : Nat) : State := s.setMat n { s.mat n with tags := mset 0 (s.mat n).tags t g }

/-- Put new values in the first columns of a row; the others keep theirs. -/
def rowPut (old new : List Nat) : List Nat := new ++ old.drop new.length

/-- The columns of a tile row whose FP32 NaN came from poison: R170 and R181 tell it from a NaN that arithmetic gave,
though both are the one pattern, so the mark stands beside the value (DEDUCED, log 25). -/
def State.rowMarks (s : State) (n t r : Nat) : List Nat := mget [] (s.mat n).marks (64 * t + r)

/-- Write the first columns of a tile row, those of `marks` as FP32 poison. -/
def State.putCols (s : State) (n t r : Nat) (vals marks : List Nat) : State :=
  let kept := (s.rowMarks n t r).filter (fun c => decide (vals.length ≤ c))
  let s := s.setTileRow n t r (rowPut (s.tileRow n t r) vals)
  s.setMat n { s.mat n with marks := mset [] (s.mat n).marks (64 * t + r) (marks ++ kept) }

/-- The marks that poisoned values of the first `k` columns carry: all of them in an FP32 tile. -/
def poisonMarks (tag k : Nat) : List Nat := if tag = 2 then [] else List.range k

/-- The marks of the first `k` columns of a row. -/
def State.marksIn (s : State) (n t r k : Nat) : List Nat := (s.rowMarks n t r).filter (fun c => decide (c < k))

/-- ACC_TAGS. -/
def State.accTags (s : State) (n : Nat) : Word :=
  BitVec.ofNat 64 (((s.mat n).tags.map (fun x => x.2 * 4 ^ x.1)).foldl (· + ·) 0)

/-- An INT32 result saturates to ±(2^31 − 1); the flag tells that it did (R162). -/
def satInt (z : Int) : Nat × Bool :=
  let m : Int := 2147483647
  if z > m then (ofInt 32 m, true) else if z < -m then (ofInt 32 (-m), true) else (ofInt 32 z, false)

/-- INT32 poison (R162). -/
def poisonInt : Nat := 0x80000000

/-- The poison of a tile row: canonical NaN, or INT32 poison (R144). -/
def poisonOf (tag : Nat) : Nat := if tag = 2 then poisonInt else canonNan

/-- Set an ACC_EVENT flag: 0 NAN_OUT, 1 INF_OUT, 2 SAT, 3 POISON. -/
def State.accFlag (s : State) (n i : Nat) : State := s.raise (Reg.ACC_EVENT n) i (Reg.ACC_EVENT_CNT n) (16 * i)

/-- Set an ACC_EVENT flag where a condition holds. -/
def State.accFlagIf (s : State) (n i : Nat) (b : Bool) : State := if b then s.accFlag n i else s

/-- Set an ME_EVENT flag: 0 NAN_OUT, 1 INF_OUT, 2 SCALE_NAN, 3 POISON. -/
def State.meFlag (s : State) (n i : Nat) : State := s.raise (Reg.ME_EVENT n) i (Reg.ME_EVENT_CNT n) (16 * i)

def State.meFlagIf (s : State) (n i : Nat) (b : Bool) : State := if b then s.meFlag n i else s

/-- What a record has met so far: a NaN, an infinity, a saturation, poison, a scale of 0xFF. An engine sets each flag once
for a record in which its condition arises. -/
structure EvFl where
  nan : Bool := false
  inf : Bool := false
  sat : Bool := false
  pois : Bool := false
  scale : Bool := false
  deriving DecidableEq, Repr

def EvFl.or (a b : EvFl) : EvFl :=
  { nan := a.nan || b.nan, inf := a.inf || b.inf, sat := a.sat || b.sat, pois := a.pois || b.pois, scale := a.scale || b.scale }

/-- Set the ACC_EVENT flags of a record. -/
def State.accEvents (s : State) (n : Nat) (f : EvFl) : State :=
  (((s.accFlagIf n 0 f.nan).accFlagIf n 1 f.inf).accFlagIf n 2 f.sat).accFlagIf n 3 f.pois

/-- Set the ME_EVENT flags of a record. -/
def State.meEvents (s : State) (n : Nat) (f : EvFl) : State :=
  (((s.meFlagIf n 0 f.nan).meFlagIf n 1 f.inf).meFlagIf n 2 f.scale).meFlagIf n 3 f.pois

/-- Whether tile elements hold poison: INT32 by its pattern, FP32 by its marks. -/
def holdsPoison (isInt : Bool) (vals marks : List Nat) : Bool := if isInt then vals.contains poisonInt else marks != []

/-- What a row of tile elements that an accumulator record wrote shows. -/
def rowFl (vals marks : List Nat) (isInt sat : Bool) : EvFl :=
  { nan := !isInt && vals.any f32isNan, inf := !isInt && vals.any f32isInf, sat, pois := holdsPoison isInt vals marks }

/-! ## Array modes (R118, R119) -/

/-- The array entry of a core under the image in force. -/
def State.arr (s : State) (n : Nat) : ArrayEnt := s.image.arr n

/-- A tandem partner: the higher-numbered core of a pair. -/
def State.isPartner (s : State) (n : Nat) : Bool := decide (2 ≤ (s.arr n).mode ∧ (s.arr n).partner < n)

/-- ME_MODE. -/
def State.meMode (s : State) (n : Nat) : Word :=
  let a := s.arr n
  let lead := if 2 ≤ a.mode ∧ n < a.partner then 1 else 0
  BitVec.ofNat 64 (lead * 2 ^ 18 + a.mode * 2 ^ 16 + a.partner)

/-! ## Placement (R133, R179) -/

/-- Where the first byte of a range outside the populated core-local memory of core n is: its address, and whether it
lies in the core's window beyond the populated 6 MiB. -/
def outside (n a len : Nat) : Option (Nat × Bool) :=
  let w := localBase n
  if len = 0 then none
  else if a < w ∨ w + 0x1000000 ≤ a then some (a, false)
  else if w + localSize ≤ a then some (a, true)
  else if w + localSize < a + len then some (w + localSize, true)
  else none

/-- The first offence among ranges, in their order. -/
def firstOutside (n : Nat) : List (Nat × Nat) → Option (Nat × Bool)
  | [] => none
  | r :: rest => match outside n r.1 r.2 with
    | some x => some x
    | none => firstOutside n rest

/-- The ranges of `rows` rows of `len` bytes, `stride` apart. -/
def rowRanges (a stride len rows : Nat) : List (Nat × Nat) := (List.range rows).map (fun r => (a + r * stride, len))

/-- End a record at its placement check: the chapter's status, or ADDR_RANGE (R133). -/
def endPlace (c : Ctx) (s : State) (status : Nat) (x : Nat × Bool) : State × Phase :=
  if x.2 then endRange c s x.1 else done s status (x.1 % 2 ^ 32)

/-! ## The tile interlock (R155) -/

/-- Whether two lists of tile ranges share a tile; an empty range shares none. -/
def overlap (a b : List (Nat × Nat)) : Bool :=
  a.any (fun x => b.any (fun y => decide (x.1 ≤ y.2 ∧ y.1 ≤ x.2 ∧ x.1 ≤ x.2 ∧ y.1 ≤ y.2)))

/-- An accumulator record may proceed once no earlier MMA of the path has an overlapping range and no earlier EMLOAD to the
slot it names is unfinished (R155, R202). -/
def accFree (c : Ctx) (before : List MxOp) : Bool :=
  match pathOp c.q c.item with
  | some o => before.all (fun b => !(b.kind == .mma && overlap o.tiles b.tiles) && !(b.kind == .vec && o.ember.isSome && b.ember == o.ember))
  | none => true

/-- An accumulator record at its unit: it is held by the interlock, or by `wait`, or its body runs. -/
def interlocked (c : Ctx) (s : State) (wait : Bool) (fail : Option (State × Phase)) (work : State → State × Phase) :
    State × Phase :=
  atUnit c .acc (fun before => !wait && accFree c before) .interlock fail work s

end Sys2Proof.Machine
end

