-- ==== Sys2Proof/Machine/Ember.lean ====
section
/-! DEFINITION. Native and extended operations and ember programs (06_vector_engine.md): the program format and its
checks (R196, R197, R199), and how a program runs on one element (R194, R195, R198). -/

namespace Sys2Proof.Machine

/-! ## Operations (R194, R195, R197) -/

/-- The result of an operation: its pattern, and whether it sets INVALID or DIVZERO (R205). -/
structure EmRes where
  val : Nat
  invalid : Bool := false
  divzero : Bool := false
  deriving DecidableEq, Repr

/-- An arithmetic result: rounded once, NaN canonical, INVALID where a NaN came of operands that are none. -/
def emArith (f : Fmt) (x : Fp) (ops : List Fp) : EmRes :=
  { val := encodeFp f x, invalid := x.isNan && ops.all (fun o => !o.isNan) }

/-- Numeric order and equality: the zeros are equal, and a NaN is unordered. -/
def numLt (a b : Fp) : Bool := a.lt b && !(a.isZero && b.isZero)
def numEq (a b : Fp) : Bool := !a.isNan && !b.isNan && !numLt a b && !numLt b a

def emBool (f : Fmt) (b : Bool) : EmRes := { val := if b then encodeFp f .one else 0 }

/-- The bit pattern without, and with inverted, sign. -/
def signMask (f : Fmt) : Nat := 2 ^ (f.eb + f.mb)

/-- The native operations in a format: FP32, or BF16 in packed mode. -/
def emNative (f : Fmt) (op a b c : Nat) : EmRes :=
  let x := decodeFp f a
  let y := decodeFp f b
  let z := decodeFp f c
  let nan : EmRes := { val := f.nanCode }
  match op with
  | 0x01 => { val := a }
  | 0x02 => emArith f (x.add y) [x, y]
  | 0x03 => emArith f (x.sub y) [x, y]
  | 0x04 => emArith f (x.mul y) [x, y]
  | 0x05 => emArith f ((x.mul y).add z) [x, y, z]
  | 0x06 => if x.isNan || y.isNan then nan else { val := if y.lt x then b else a }
  | 0x07 => if x.isNan || y.isNan then nan else { val := if x.lt y then b else a }
  | 0x08 => emBool f (!x.isNan && !y.isNan && numLt x y)
  | 0x09 => emBool f (!x.isNan && !y.isNan && !numLt y x)
  | 0x0A => emBool f (numEq x y)
  | 0x0B => emBool f (!numEq x y)
  | 0x0C => emBool f (x.isNan || y.isNan)
  | 0x0D => { val := if z.isNan || z.isZero then b else a }
  | 0x0E => if x.isNan then nan else { val := a % signMask f }
  | 0x0F => if x.isNan then nan else { val := if bit a (f.eb + f.mb) then a % signMask f else a + signMask f }
  | _ => { val := 0 }

/-- The largest integer not above a value, keeping the sign of zero. -/
def Fp.floor (x : Fp) : Fp :=
  match x with
  | .fin n m e =>
    if 0 ≤ e then x
    else
      let k := (-e).toNat
      .fin n (m / 2 ^ k + (if n && m % 2 ^ k != 0 then 1 else 0)) 0
  | x => x

/-- A value rounded to an integer, ties to even, keeping its sign. -/
def Fp.rint (x : Fp) : Fp :=
  match x with
  | .fin n m e => if 0 ≤ e then x else .fin n (shiftRound false m (-e).toNat) 0
  | x => x

/-- CVTI: the INT32 pattern. -/
def cvtI (x : Fp) : Nat :=
  match x with
  | .nan => poisonInt
  | .inf n => (satInt (if n then -(2 ^ 31) else 2 ^ 31)).1
  | .fin n m e => (satInt (roundToInt false n m e)).1

/-- A function given to within 2 units, but where its value is exact (EXP2 of an integer, LOG2 of a power of 2) or the
operand is an infinity, whose result is stated. -/
def emWithin (op a : Nat) (exact : Bool) (x : Fp) (v : Fp) (zeroIn : Bool) : EmRes :=
  { val := if exact || x.isInf then toF32 v else within2 op a v
    invalid := v.isNan && !x.isNan
    divzero := v.isInf && zeroIn }

/-- Whether a value is an integer, or a power of 2. -/
def Fp.isInt (x : Fp) : Bool :=
  match x with
  | .fin _ m e => decide (0 ≤ e) || m % 2 ^ (-e).toNat == 0
  | _ => false

def Fp.isPow2 (x : Fp) : Bool :=
  match x with
  | .fin _ m _ => m == 2 ^ Nat.log2 m
  | _ => false

/-- The extended operations, in FP32. -/
def emExt (op a b : Nat) : EmRes :=
  let x := ofF32 a
  let y := ofF32 b
  match op with
  | 0x10 => emWithin op a false x (Fp.one.div x) x.isZero
  | 0x11 =>
    if x.isZero then { val := toF32 (.inf x.sign), divzero := true }
    else emWithin op a false x (Fp.one.div x.sqrt) false
  | 0x12 => emArith fmtF32 x.sqrt [x]
  | 0x13 =>
    let v := x.div y
    { emArith fmtF32 v [x, y] with divzero := v.isInf && y.isZero && !x.isInf }
  | 0x14 => emWithin op a x.isInt x x.exp2 false
  | 0x15 => emWithin op a x.isPow2 x x.log2 x.isZero
  | 0x16 => emArith fmtF32 x.floor [x]
  | 0x17 => emArith fmtF32 x.rint [x]
  | 0x18 => { val := cvtI x }
  | 0x19 => { val := if a = poisonInt then canonNan else toF32 (ofZ (asInt 32 a)) }
  | 0x1A => { val := Nat.land a b }
  | 0x1B => { val := Nat.lor a b }
  | 0x1C => { val := Nat.xor a b }
  | _ => { val := 0 }

/-- How many operands an operation uses: they are its first ones. -/
def emArity (op : Nat) : Nat :=
  match op with
  | 0x01 | 0x0E | 0x0F => 1
  | 0x05 | 0x0D => 3
  | 0x13 | 0x1A | 0x1B | 0x1C => 2
  | _ => if op ≤ 0x0F then 2 else 1

/-! ## Programs (R196, R197) -/

def emKind (p : List Byte) : Nat := leAt p 1 1
def emNinst (p : List Byte) : Nat := leAt p 2 1
def emNin (p : List Byte) : Nat := bits (leAt p 3 1) 1 0
def emNout (p : List Byte) : Nat := bits (leAt p 3 1) 3 2
def emPacked (p : List Byte) : Bool := bit (leAt p 3 1) 4
def emOut (p : List Byte) (i : Nat) : Nat := leAt p (4 + i) 1 % 16
def emConst (p : List Byte) (k : Nat) : Nat := leAt p (0x10 + 4 * k) 4
def emInst (p : List Byte) (i : Nat) : Nat := leAt p (0x50 + 4 * i) 4

/-- Fields of an instruction word. -/
def inOp (w : Nat) : Nat := bits w 31 26
def inDst (w : Nat) : Nat := bits w 25 22
def inArg (w i : Nat) : Nat := bits w (21 - 6 * i) (16 - 6 * i)

/-- The operand codes an instruction uses. -/
def inUses (w : Nat) : List Nat := (List.range (emArity (inOp w))).map (inArg w)

/-- Whether an instruction word is well formed (R197, R199). -/
def inOk (packed : Bool) (w : Nat) : Bool :=
  decide (1 ≤ inOp w ∧ inOp w ≤ 0x1C) && (!packed || decide (inOp w ≤ 0x0F)) && w % 16 == 0
    && (List.range 3).all (fun i =>
      if i < emArity (inOp w) then decide (inArg w i < (if packed then 0x20 else 0x30)) else inArg w i == 0)

/-- Whether some instruction of a program names an operand code. -/
def emNames (p : List Byte) (f : Nat → Bool) : Bool :=
  (List.range (emNinst p)).any (fun i => (inUses (emInst p i)).any f)

/-- The program with CHECK taken as zero. -/
def emBlank (p : List Byte) : List Byte := p.take 8 ++ [0, 0, 0, 0] ++ p.drop 12

/-- The checks of R199, by offset of the offending field; KIND up to `kinds`. -/
def emChecks (p : List Byte) : List Check :=
  let n := emNinst p
  let pk := emPacked p
  [(0, decide (leAt p 0 1 = 0x11)), (1, decide (emKind p ≤ 2)),
   (2, decide (1 ≤ n ∧ n ≤ 64) && p.length == 0x50 + 4 * n),
   (3, decide (1 ≤ emNin p) && decide (1 ≤ emNout p ∧ emNout p ≤ 2) && decide (leAt p 3 1 < 32)),
   (4, decide (leAt p 4 1 < 16)), (5, decide (leAt p 5 1 < 16) && (emNout p == 2 || leAt p 5 1 == 0)),
   (6, leAt p 6 2 == 0), (8, leAt p 8 4 == crc32c (emBlank p)), (0xC, leAt p 0xC 4 == 0)]
  ++ (List.range 16).map (fun k =>
    (0x10 + 4 * k, !pk || emConst p k % 2 ^ 16 == 0 || !emNames p (fun c => c == 0x10 + k)))
  ++ (List.range (min n 64)).map (fun i => (0x50 + 4 * i, inOk pk (emInst p i)))

/-- The offset of a program's first offending field (R199, R209). -/
def emFail (p : List Byte) : Option Nat := firstFail (emChecks p)

/-- A program usable as an activation (R200). -/
def emActivation (p : List Byte) : Bool :=
  emKind p == 1 && emNin p == 1 && emNout p == 1 && !emPacked p && !emNames p (fun c => decide (0x20 ≤ c))

/-! ## Running (R198) -/

/-- Where a program stands in one element: its temporaries and the flags raised. -/
structure EmRun where
  t : List Nat
  invalid : Bool := false
  divzero : Bool := false
  deriving DecidableEq, Repr

/-- The value of an operand code for element i. -/
def emOperand (p : List Byte) (params : SMap (List Nat)) (i : Nat) (t : List Nat) (code : Nat) : Nat :=
  if code < 0x10 then t.getD code 0
  else if code < 0x20 then (if emPacked p then emConst p (code - 0x10) / 2 ^ 16 else emConst p (code - 0x10))
  else (mget [] params (code - 0x20)).getD (i % 128) 0

/-- Run one instruction. -/
def emStep (p : List Byte) (params : SMap (List Nat)) (i : Nat) (r : EmRun) (w : Nat) : EmRun :=
  let v (k : Nat) : Nat := if k < emArity (inOp w) then emOperand p params i r.t (inArg w k) else 0
  let x := if inOp w ≤ 0x0F then emNative (if emPacked p then fmtBf16 else fmtF32) (inOp w) (v 0) (v 1) (v 2)
    else emExt (inOp w) (v 0) (v 1)
  { t := listSet r.t (inDst w) x.val, invalid := r.invalid || x.invalid, divzero := r.divzero || x.divzero }

/-- Run a program on element i with its inputs. -/
def emRunElem (p : List Byte) (params : SMap (List Nat)) (i : Nat) (ins : List Nat) : EmRun :=
  ((List.range (emNinst p)).map (emInst p)).foldl (emStep p params i) { t := ins ++ List.replicate (16 - ins.length) 0 }

/-! ## The vector engine's state -/

def State.vec (s : State) (n : Nat) : VecEng := mget {} s.vecs n
def State.setVec (s : State) (n : Nat) (x : VecEng) : State := { s with vecs := mset {} s.vecs n x }

/-- The program in an ember slot; the empty string where the slot holds none. -/
def State.emSlot (s : State) (n k : Nat) : List Byte := mget [] (s.vec n).slots k

/-- Set a VE_EVENT flag: 0 NAN_OUT, 1 INF_OUT, 2 INVALID, 3 DIVZERO, 4 SAT, 5 POISON. -/
def State.veFlag (s : State) (n i : Nat) : State :=
  if i < 4 then s.raise (Reg.VE_EVENT n) i (Reg.VE_EVENT_CNT0 n) (16 * i)
  else s.raise (Reg.VE_EVENT n) i (Reg.VE_EVENT_CNT1 n) (16 * (i - 4))

def State.veFlagIf (s : State) (n i : Nat) (b : Bool) : State := if b then s.veFlag n i else s

/-- A register of 128 lanes at +0. -/
def zeroLanes : List Nat := List.replicate 128 0

/-- The temporaries as a group left them: `ts` lists, for consecutive lanes from `lane`, the values of T0 to T15. -/
def State.putTemps (s : State) (n lane : Nat) (ts : List (List Nat)) : State :=
  s.setVec n ((List.range 16).foldl (fun (v : VecEng) t =>
    let old := mget zeroLanes v.temps t
    { v with temps := mset zeroLanes v.temps t (old.take lane ++ ts.map (fun x => x.getD t 0) ++ old.drop (lane + ts.length)) })
    (s.vec n))

/-- The vector engine is inside a record: one that has begun waits for memory (R172, R190). -/
def State.veWaits (s : State) (n : Nat) : Bool := (s.mat n).ops.any (fun o => o.kind == .vec && !s.opWaits o)

end Sys2Proof.Machine
end

