-- ==== Sys2Proof/Machine/Matrix.lean ====
section
/-! DEFINITION. The matrix engine (04_matrix_engine.md): stationary loads and swaps, MMA and its numeric behaviour. -/

namespace Sys2Proof.Machine

def stArrayMode : Nat := 0x20
def stNoStationary : Nat := 0x21
def stTypeMismatch : Nat := 0x22
def stOperandPlace : Nat := 0x23
def stTileRange : Nat := 0x24
def stShape : Nat := 0x25
def stTileType : Nat := 0x30

/-! ## Modes and sets -/

/-- Kmax of a mode for a class P, and Nmax (R118). -/
def kMax (mode p : Nat) : Nat := match mode with | 1 => 32 * p | 2 => 128 * p | _ => 64 * p
def nMax (mode : Nat) : Nat := if mode = 3 then 128 else 64

/-- The group of types that combine (R122). -/
def typeGroup (t : Nat) : Nat :=
  match t with
  | 0x0 | 0x1 => 0
  | 0x2 => 1
  | 0x4 | 0x5 | 0x6 | 0x7 => 2
  | 0x8 | 0x9 => 3
  | _ => 4

def Mat.half (m : Mat) (h : Nat) : Half := if h = 0 then m.h0 else m.h1
def Mat.setHalf (m : Mat) (h : Nat) (x : Half) : Mat := if h = 0 then { m with h0 := x } else { m with h1 := x }

def Half.bank (h : Half) (i : Nat) : Bank := if i = 0 then h.b0 else h.b1
def Half.setBank (h : Half) (i : Nat) (b : Bank) : Half := if i = 0 then { h with b0 := b } else { h with b1 := b }

/-- A load reaches its banks: the shadow bank takes the set, the other bank B_lo of an FP32 load; a set that ends an
FP32 pair makes the pair's other bank invalid, and a failed load leaves its bank invalid (R125, R128, R145). -/
def Half.take (h : Half) (o : MxOp) : Half :=
  let t := 1 - h.active
  if o.type = 2 then
    { (h.setBank t o.set_).setBank h.active o.low with pair := if o.set_.valid then some t else none }
  else
    let h' := h.setBank t o.set_
    if h.pair.isSome then { h'.setBank h.active {} with pair := none } else h'

/-- The bank an MMA uses: that of B_hi for an FP32 MMA on a pair, else the active bank after its swap. -/
def usedBank (h : Half) (atype : Nat) (swap : Bool) : Nat :=
  match atype, h.pair with
  | 2, some t => t
  | _, _ => if swap then 1 - h.active else h.active

/-- Whether a set passes checks 6 and 7 of an MMA: it is valid and its type combines with the streamed one (R122, R134). -/
def Bank.admits (b : Bank) (atype : Nat) : Bool := b.valid && typeGroup atype == typeGroup b.type

/-- The active bank once an MMA's rows have entered: an FP32 MMA leaves that of B_lo active, a SWAP the bank it used; one that
ends at check 6 or 7 swaps nothing (R125, R146). -/
def Half.afterMma (h : Half) (o : MxOp) : Half :=
  let u := usedBank h o.type o.swap
  if (h.bank u).admits o.type then { h with active := if o.type = 2 then 1 - u else u } else h

/-- The banks and the active bank as they will be once the operations listed have taken effect (R134). -/
def predict (h : Half) : List MxOp → Half
  | [] => h
  | o :: r =>
    predict (match o.kind with
      | .load => h.take o
      | .mma => h.afterMma o
      | _ => h) r

/-- Whether the set that a record behind these operations will meet is not known yet: an ADD that is to swap may end on its tiles'
tags, and then swaps nothing (R153, R179). -/
def setOpen (ops : List MxOp) : Bool := ops.any (fun o => o.kind == .mma && o.add && (o.swap || o.type == 2))

/-- Operations of one half. -/
def halfOps (h : Nat) (ops : List MxOp) : List MxOp := ops.filter (fun o => o.half == h && (o.kind == .load || o.kind == .mma))

/-! ## Loads (R130, R132) -/

/-- ARRAY_MODE, where the mode does not allow a record (R134 check 2). -/
def State.modeFail (s : State) (n : Nat) (half : Bool) (type : Nat) : Option Nat :=
  let m := (s.arr n).mode
  let part := s.isPartner n
  if part ∨ (half ∧ m ≠ 1) ∨ (type = 2 ∧ m ≠ 0) then some (m + (if part then 4 else 0)) else none

/-- The elements of a stored set by column: rows are K rows of N elements, or N rows of K (R130). -/
def setCols (trans : Bool) (n : Nat) (rows : List (List Nat)) : List (List Nat) :=
  if trans then rows.take n else (List.range n).map (fun j => rows.map (fun r => r.getD j 0))

/-- B_hi and B_lo of an FP32 element, as BF16 codes (R145). -/
def splitHi (w : Nat) : Nat :=
  let x := ofF32 w
  let c := encodeFp fmtBf16 x
  if !x.isNan && !x.isInf && (decodeFp fmtBf16 c).isInf then fmtBf16.signBit x.sign + fmtBf16.maxCode else c

def splitLo (w : Nat) : Nat :=
  let hi := decodeFp fmtBf16 (splitHi w)
  if hi.isNan || hi.isInf then 0 else encodeFp fmtBf16 ((ofF32 w).sub hi)

/-- Read rows of bytes from core-local memory, stopping at the first that fails: the rows read, and the failure. -/
def State.readRows (s : State) (src : Src) (stride len : Nat) : Nat → Nat → State × List (List Byte) × Option (Nat × Nat)
  | 0, _ => (s, [], none)
  | k + 1, a =>
    let (s, rd) := s.readMem src a len
    match rd.err with
    | some e => (s, [], some e)
    | none =>
      let (s, rs, e) := State.readRows s src stride len k (a + stride)
      (s, rd.bytes :: rs, e)

/-- Put a load on the core's matrix path; `nan` tells that it read a scale of 0xFF (R143). -/
def State.pushLoad (s : State) (c : Ctx) (half type : Nat) (set_ low : Bank) (nan : Bool) (err : Option (Nat × Nat)) :
    State × Phase :=
  let m := s.mat c.core
  let s := s.setMat c.core { m with ops := m.ops ++ [{ q := c.q, num := c.item.num, kind := .load, half, type, set_, low, err }] }
  (s.meFlagIf c.core 2 nan, .parked .engine)

/-- The banks of a set: one bank, or the split pair of an FP32 set. -/
def makeBanks (type k n : Nat) (cols scales : List (List Nat)) : Bank × Bank :=
  if type = 2 then
    ({ valid := true, type, k, n, cols := cols.map (·.map splitHi) }, { valid := true, type, k, n, cols := cols.map (·.map splitLo) })
  else ({ valid := true, type, k, n, cols, scales }, {})

/-- The fields of an MLOAD (R130). -/
structure LoadFields where
  a : Nat
  stride : Nat
  k : Nat
  n : Nat
  type : Nat
  trans : Bool
  half : Bool
  sa : Nat
  ss : Nat
  deriving DecidableEq, Repr

def mloadFields (r : Fetched) : LoadFields :=
  { a := r.f 8 8, stride := r.f 0x10 4, k := r.f 0x14 2, n := r.f 0x16 1, type := r.f 0x17 1 % 16, trans := bit (r.f 0x18 1) 0,
    half := bit (r.f 0x18 1) 1, sa := r.f 0x20 8, ss := r.f 0x28 4 }

/-- Elements of a stored row, rows, and bytes of a row. -/
def LoadFields.rowEls (x : LoadFields) : Nat := if x.trans then x.k else x.n
def LoadFields.rows (x : LoadFields) : Nat := if x.trans then x.n else x.k
def LoadFields.len (x : LoadFields) : Nat := packedLen x.type x.rowEls

/-- The checks of an MLOAD (R130, R133, R134). A load that fails one leaves the banks as they are: R134 lets it load no bank, and
R128, which makes the bank of a load that ends with another status invalid, is read as speaking of loads that began (DESIGN CHOICE,
log 88). -/
def mloadFail (c : Ctx) (s : State) : Option (State × Phase) :=
  let r := c.item
  let x := mloadFields r
  let mx := isMx x.type
  match formatFail r false [(8, 0x11), (0x20, 12)]
      [addrCheck r.bytes 8, (0x10, decide (x.stride < 2 ^ 23)), (0x17, decide (r.f 0x17 1 < 16) && typeDefined x.type),
       (0x18, decide (r.f 0x18 1 < 4)), addrCheck r.bytes 0x20, (0x20, mx || x.sa == 0),
       (0x28, decide (x.ss < 2 ^ 23) && (mx || x.ss == 0))] with
  | some o => some (endFormat s r.slot o)
  | none =>
    match s.modeFail c.core x.half x.type with
    | some d => some (done s stArrayMode d)
    | none =>
      let mode := (s.arr c.core).mode
      match firstFail [(8, x.a % 32 == 0), (0x10, x.stride % 32 == 0 && decide (x.len ≤ x.stride)),
          (0x14, decide (1 ≤ x.k ∧ x.k ≤ kMax mode (typeP x.type)) && (!mx || x.k % 32 == 0)
            && (!x.trans || x.k % packMultiple x.type == 0)),
          (0x16, decide (1 ≤ x.n ∧ x.n ≤ nMax mode) && (x.trans || x.n % packMultiple x.type == 0)),
          (0x20, x.sa % 32 == 0), (0x28, !mx || decide (x.k / 32 ≤ x.ss))] with
      | some o => some (done s stShape o)
      | none => (firstOutside c.core (rowRanges x.a x.stride x.len x.rows
          ++ (if mx then rowRanges x.sa x.ss (x.k / 32) x.n else []))).map (endPlace c s stOperandPlace)

/-- An MLOAD that passed its checks reads its set and goes on the matrix path. -/
def mloadWork (c : Ctx) (s : State) : State × Phase :=
  let x := mloadFields c.item
  let h := if x.half then 1 else 0
  let (s, bs, e) := s.readRows (srcCore c.core) x.stride x.len x.rows x.a
  let (s, scs, e2) := if isMx x.type ∧ e = none then s.readRows (srcCore c.core) x.ss (x.k / 32) x.n x.sa else (s, [], none)
  let nan := scs.any (fun l => l.contains 0xFF)
  match e.orElse (fun _ => e2) with
  | some err => s.pushLoad c h x.type {} {} nan (some err)
  | none =>
    let cols := setCols x.trans x.n (bs.map (unpack x.type x.rowEls))
    let (b, low) := makeBanks x.type x.k x.n cols (scs.map (·.map (·.toNat)))
    s.pushLoad c h x.type b low nan none

/-- MLOAD. -/
def runMload (c : Ctx) (s : State) : State × Phase := (mloadFail c s).getD (mloadWork c s)

def mloadiFields (r : Fetched) : LoadFields :=
  { a := 0, stride := 0, k := r.f 8 2, n := r.f 0xA 1, type := r.f 0xB 1 % 16, trans := bit (r.f 0xC 1) 0,
    half := bit (r.f 0xC 1) 1, sa := 0, ss := 0 }

/-- The checks of an MLOADI (R132). An inline length that does not fit has its DETAIL at 0x02, INL's offset, before a fault of K or N
(DESIGN CHOICE, log 101: R135 names no field for it). -/
def mloadiFail (c : Ctx) (s : State) : Option (State × Phase) :=
  let r := c.item
  let x := mloadiFields r
  match formatFail r true [(8, 5)]
      [(2, decide (1 ≤ r.inl)), (0xB, decide (r.f 0xB 1 < 16) && typeDefined x.type), (0xC, decide (r.f 0xC 1 < 4))] with
  | some o => some (endFormat s r.slot o)
  | none =>
    match s.modeFail c.core x.half x.type with
    | some d => some (done s stArrayMode d)
    | none =>
      let mode := (s.arr c.core).mode
      (firstFail [(2, r.inlineData.length * 8 == x.k * x.n * typeBits x.type),
          (8, decide (1 ≤ x.k ∧ x.k ≤ kMax mode (typeP x.type))), (0xA, decide (1 ≤ x.n ∧ x.n ≤ nMax mode)),
          (0xB, [0, 1, 4, 5, 8, 9].contains x.type)]).map (done s stShape)

/-- An MLOADI that passed its checks takes its set from its inline data and goes on the matrix path. -/
def mloadiWork (c : Ctx) (s : State) : State × Phase :=
  let x := mloadiFields c.item
  let els := (List.range x.rows).map (fun i => unpack x.type x.rowEls (slice c.item.inlineData (i * x.len) x.len))
  let (b, low) := makeBanks x.type x.k x.n (setCols x.trans x.n els) []
  s.pushLoad c (if x.half then 1 else 0) x.type b low false none

/-- MLOADI. -/
def runMloadi (c : Ctx) (s : State) : State × Phase := (mloadiFail c s).getD (mloadiWork c s)

/-- Whether a load may complete: no earlier load of its half is on the path, no earlier swap is pending, and no earlier
MMA still needs the bank it writes (R125, R126). -/
def loadReady (before : List MxOp) (o : MxOp) (h : Half) : Bool :=
  (halfOps o.half before).all (fun b =>
    b.kind != .load && !b.swap && !(b.type == 2) && !(o.type == 2 || h.pair.isSome))

/-- LOAD_COMPLETE: the oldest load of a half that may complete writes its bank and ends (R127, R128, R144). -/
def State.loadComplete (s : State) (n h : Nat) : State :=
  let m := s.mat n
  match m.ops.find? (fun o => o.kind == .load && o.half == h) with
  | none => s
  | some o =>
    if loadReady (opsBefore o.q o.num m.ops) o (m.half h) then
      let m := { m.setHalf h ((m.half h).take o) with ops := dropOp o.q o.num m.ops }
      let s := s.setMat n m
      match o.err with
      | some (st, a) => (s.meFlag n 3).setPhaseOf o.q o.num (.ended st (a % 2 ^ 32))
      | none => s.setPhaseOf o.q o.num (.ended stOk 0)
    else s

/-! ## MMA: acceptance (R131, R134) -/

structure MmaRec where
  a : Nat
  stride : Nat
  m : Nat
  tile : Nat
  atype : Nat
  acc : Bool
  swap : Bool
  neg : Bool
  half : Nat
  sa : Nat
  ss : Nat
  deriving DecidableEq, Repr

def mmaRec (r : Fetched) : MmaRec :=
  let f := r.f 0x18 1
  { a := r.f 8 8, stride := r.f 0x10 4, m := r.f 0x14 2, tile := r.f 0x16 1, atype := r.f 0x17 1 % 16, acc := bit f 0,
    swap := bit f 1, neg := bit f 2, half := if bit f 3 then 1 else 0, sa := r.f 0x20 8, ss := r.f 0x28 4 }

/-- The tile type of a pair of operands (R122). -/
def tileTypeOf (atype : Nat) : Nat := if isInt8 atype then 2 else 1

/-- Checks 3 to 5 of an MMA with the set it streams through (R134); where that set is not valid, the parts that depend on K are
skipped. -/
def mmaSetFail (c : Ctx) (s : State) (x : MmaRec) (b : Bank) : Option (State × Phase) :=
  let mx := isMx x.atype
  let k := b.k
  let len := packedLen x.atype k
  match firstFail [(8, x.a % 32 == 0), (0x10, x.stride % 32 == 0 && (!b.valid || decide (len ≤ x.stride))),
      (0x14, decide (1 ≤ x.m ∧ x.m ≤ 256)),
      (0x17, !b.valid || (k % packMultiple x.atype == 0 && (!mx || k % 32 == 0))),
      (0x20, x.sa % 32 == 0), (0x28, !mx || !b.valid || decide (k / 32 ≤ x.ss))] with
  | some o => some (done s stShape o)
  | none =>
    if 31 < lastTile x.tile x.m then some (done s stTileRange (lastTile x.tile x.m))
    else if b.valid then
      (firstOutside c.core (rowRanges x.a x.stride len x.m
        ++ (if mx then rowRanges x.sa x.ss (k / 32) x.m else []))).map (endPlace c s stOperandPlace)
    else none

/-- Checks 1 to 5 of an MMA, for the set that will be active when its first row enters (R134); where that is not known yet, checks
3 to 5 are left to its entry. -/
def mmaFail (c : Ctx) (s : State) : Option (State × Phase) :=
  let r := c.item
  let x := mmaRec r
  let mx := isMx x.atype
  match formatFail r false [(8, 0x11), (0x20, 12)]
      [addrCheck r.bytes 8, (0x10, decide (x.stride < 2 ^ 23)), (0x17, decide (r.f 0x17 1 < 16) && typeDefined x.atype),
       (0x18, decide (r.f 0x18 1 < 16) && !(x.atype == 2 && x.swap)), addrCheck r.bytes 0x20, (0x20, mx || x.sa == 0),
       (0x28, decide (x.ss < 2 ^ 23) && (mx || x.ss == 0))] with
  | some o => some (endFormat s r.slot o)
  | none =>
    match s.modeFail c.core (x.half == 1) x.atype with
    | some d => some (done s stArrayMode d)
    | none =>
      let mat := s.mat c.core
      let ops := halfOps x.half mat.ops
      if setOpen ops then none
      else
        let h := predict (mat.half x.half) ops
        mmaSetFail c s x (h.bank (usedBank h x.atype x.swap))

/-- The operation of an MMA on the matrix path. -/
def mmaOp (c : Ctx) : MxOp :=
  let x := mmaRec c.item
  { q := c.q, num := c.item.num, kind := .mma, half := x.half, swap := x.swap, add := x.acc, type := x.atype,
    tiles := tileRun x.tile ((x.m + 63) / 64) }

/-- An MMA that passed its checks waits on the path. -/
def mmaWork (c : Ctx) (s : State) : State × Phase :=
  (s.setMat c.core { s.mat c.core with ops := (s.mat c.core).ops ++ [mmaOp c] }, .parked .engine)

/-- MMA. -/
def runMma (c : Ctx) (s : State) : State × Phase := (mmaFail c s).getD (mmaWork c s)

/-! ## MMA: arithmetic (R117, R142, R146, R156–R162) -/

/-- Cut a list into k pieces of p elements. -/
def cut {α : Type} (p : Nat) : Nat → List α → List (List α)
  | 0, _ => []
  | k + 1, l => if l.isEmpty then [] else l.take p :: cut p k (l.drop p)

/-- The exact sum of a group of products. -/
def sumFp : List Fp → Fp
  | [] => .fin true 0 0
  | x :: r => r.foldl Fp.add x

/-- Sum a run down the cell rows: each cell row adds its group exactly and the result is rounded once (R157). -/
def runSum (rnd : Fp → Fp) (groups : List (List Fp)) : Fp :=
  match groups with
  | [] => .zero
  | g :: r => r.foldl (fun acc g => rnd (acc.add (sumFp g))) (rnd (sumFp g))

/-- A run of MX blocks: each block is summed to 16 significant bits per cell row, scaled exactly, and joins the run with
one rounding (R158). -/
def runMx (rnd : Fp → Fp) (blocks : List (List (List Fp) × Fp)) : Fp :=
  match blocks.map (fun b => (runSum (Fp.roundBits 16) b.1).mul b.2) with
  | [] => .zero
  | x :: r => r.foldl (fun acc y => rnd (acc.add y)) (rnd x)

/-- The lengths of the runs of K products: RL each, with a cut at the boundary of the arrays in TANDEM_ROW (R156). -/
def runLengths (rl edge : Nat) : Nat → Nat → Nat → List Nat
  | 0, _, _ => []
  | fuel + 1, at_, k =>
    if k ≤ at_ then []
    else
      let stop := min k (at_ / rl * rl + rl)
      let stop := if at_ < edge ∧ edge < stop then edge else stop
      (stop - at_) :: runLengths rl edge fuel stop k

/-- Take consecutive pieces of given lengths. -/
def pieces {α : Type} : List Nat → List α → List (List α)
  | [], _ => []
  | n :: r, l => l.take n :: pieces r (l.drop n)

/-- The run length of a core: 16, 32, 64 or 128 (R57, R156). -/
def State.runLen (s : State) (n : Nat) : Nat := 16 * 2 ^ s.image.promoCode n

/-- Promotion of a row element's runs into FP32 (R159, R160): the element, and whether an infinity came of finite
runs. -/
def promote (acc : Bool) (old : Nat) (runs : List Fp) : Nat × Bool :=
  let step (a : Nat × Bool) (x : Fp) : Nat × Bool :=
    let w := toF32 ((ofF32 a.1).add x)
    (w, a.2 || (f32isInf w && !x.isInf && !f32isInf a.1))
  match acc, runs with
  | false, x :: r => r.foldl step (toF32 x, false)
  | _, rs => rs.foldl step (old, false)

/-- The products of a streamed row and a column, with NEG (R142). -/
def products (neg : Bool) (a b : List Fp) : List Fp :=
  List.zipWith (fun x y => if neg then (x.mul y).neg else x.mul y) a b

/-- The runs of one row and column of float operands, without or with MX scales. -/
def floatRuns (rnd : Fp → Fp) (p rl edge : Nat) (mx neg : Bool) (a b : List Fp) (sa sb : List Fp) : List Fp :=
  let k := a.length
  let lens := runLengths (if mx then max rl 32 else rl) edge (k + 1) 0 k
  let prods := products neg a b
  if mx then
    let blocks := (cut 32 (k + 1) prods).map (fun l => cut p 33 l)
    let scaled := List.zipWith (fun b s => (b, s)) blocks (List.zipWith Fp.mul sa sb)
    (pieces (lens.map (· / 32)) scaled).map (runMx rnd)
  else (pieces lens prods).map (fun l => runSum rnd (cut p 129 l))

/-- What a row of an MMA writes to one core's tile: new column values, and the flags NaN, ±Inf, promotion overflow and
saturation. -/
structure RowOut where
  vals : List Nat := []
  nan : Bool := false
  inf : Bool := false
  above : Bool := false
  sat : Bool := false
  pois : Bool := false
  deriving DecidableEq, Repr

def RowOut.add (o : RowOut) (w : Nat) (isInt above sat pois : Bool) : RowOut :=
  { vals := o.vals ++ [w], nan := o.nan || (!isInt && f32isNan w), inf := o.inf || (!isInt && f32isInf w),
    above := o.above || above, sat := o.sat || sat, pois := o.pois || pois }

/-- An earlier pass of an FP32 record wrote an infinity to the element (R143, R146). -/
def RowOut.passes (o : RowOut) (ws : List Nat) : RowOut := { o with inf := o.inf || ws.any f32isInf }

/-- One element of an integer product (R162). -/
def intElem (acc neg : Bool) (old : Nat) (a b : List Fp) : Nat × Bool × Bool :=
  let dot := (products neg a b).foldl Fp.add .zero
  let z := match dot with | .fin n m e => roundToInt true n m e | _ => 0
  if acc then
    if old = poisonInt then (poisonInt, false, true)
    else let (w, sat) := satInt (asInt 32 old + z); (w, sat, false)
  else let (w, sat) := satInt z; (w, sat, false)

/-- One column of a row: its new element and flags; `one` where only the first pass of an FP32 record runs (R144, R146). -/
def mmaElem (x : MmaRec) (one : Bool) (rl edge : Nat) (b : Bank) (blo : Bank) (aRow : List Nat) (aScale : List Nat) (o : RowOut)
    (old n : Nat) : RowOut :=
  let col := b.cols.getD n []
  if isInt8 x.atype then
    let (w, sat, p) := intElem x.acc x.neg old (aRow.map (elemVal x.atype)) (col.map (elemVal b.type))
    o.add w true false sat p
  else if x.atype = 2 then
    let hi := aRow.map (fun w => decodeFp fmtBf16 (splitHi w))
    let lo := aRow.map (fun w => decodeFp fmtBf16 (splitLo w))
    let bhi := col.map (decodeFp fmtBf16)
    let bl := (blo.cols.getD n []).map (decodeFp fmtBf16)
    let runs (u v : List Fp) := floatRuns (roundFp fmtF32) 1 rl edge false x.neg u v [] []
    let (w1, o1) := promote x.acc old (runs hi bhi)
    if one then o.add w1 false o1 false false
    else
    let (w2, o2) := promote true w1 (runs lo bhi)
    let (w3, o3) := promote true w2 (runs hi bl)
    (o.add w3 false (o1 || o2 || o3) false false).passes [w1, w2]
  else
    let mx := isMx x.atype || isMx b.type
    let blocks := aRow.length / 32
    let sa := if isMx x.atype then aScale.map e8m0 else List.replicate blocks .one
    let sb := if isMx b.type then (b.scales.getD n []).map e8m0 else List.replicate blocks .one
    let runs := floatRuns (roundFp fmtF24) (typeP x.atype) rl edge mx x.neg
      (aRow.map (elemVal x.atype)) (col.map (elemVal b.type)) sa sb
    let (w, ov) := promote x.acc old runs
    o.add w false ov false false

/-- The row's results for columns [from, from + count). -/
def mmaRow (x : MmaRec) (one : Bool) (rl edge : Nat) (b blo : Bank) (aRow aScale : List Nat) (old : List Nat) (from_ count : Nat) : RowOut :=
  (List.range count).foldl (fun o j => mmaElem x one rl edge b blo aRow aScale o (old.getD j 0) (from_ + j)) {}

/-- Write a row's results to a tile; with `acc` an FP32 poison element stays one (R162, R181). -/
def State.putRow (s : State) (n : Nat) (t r : Nat) (acc isInt : Bool) (o : RowOut) : State × RowOut :=
  let marks := if acc && !isInt then s.marksIn n t r o.vals.length else []
  (s.putCols n t r o.vals marks, { o with pois := o.pois || marks != [] })

/-- What an MMA has met so far: for ME_EVENT, and for ACC_EVENT of its core and of a partner. -/
structure MmaFl where
  me : EvFl := {}
  own : EvFl := {}
  other : EvFl := {}
  deriving DecidableEq, Repr

/-- What the results of one row show for ACC_EVENT: promotion from finite runs to an infinity, saturation, poison. -/
def RowOut.acc (o : RowOut) : EvFl := { inf := o.above, sat := o.sat, pois := o.pois }
def RowOut.me (o : RowOut) : EvFl := { nan := o.nan, inf := o.inf }

/-- The tiles a record's first row enters: the core and the tile, for its own columns and a partner's. -/
structure MmaGo where
  core : Nat
  partner : Nat
  rl : Nat
  edge : Nat
  /-- Columns in the core's own tile and in the partner's. -/
  own : Nat
  other : Nat
  b : Bank
  blo : Bank
  deriving DecidableEq, Repr

/-- Whether the read of some row of an MMA fails. -/
def State.mmaFails (s : State) (x : MmaRec) (g : MmaGo) : Bool :=
  (List.range x.m).any (fun r =>
    (s.readMem (srcCore g.core) (x.a + r * x.stride) (packedLen x.atype g.b.k)).2.err.isSome
      || (isMx x.atype && (s.readMem (srcCore g.core) (x.sa + r * x.ss) (g.b.k / 32)).2.err.isSome))

/-- Stream the rows of an MMA, from row r on; a failed read poisons its row and ends the record (R144): in an FP32 tile the array
then writes NaN (R143). -/
def State.mmaRows (x : MmaRec) (g : MmaGo) (one : Bool) : Nat → Nat → MmaFl → State → State × MmaFl × Nat × (Nat × Nat)
  | 0, r, fl, s => (s, fl, r, (stOk, 0))
  | left + 1, r, fl, s =>
    let k := g.b.k
    let t := x.tile + r / 64
    let want := tileTypeOf x.atype
    let s := s.setTag g.core t want
    let s := if g.other = 0 then s else s.setTag g.partner t want
    let (s, rd) := s.readMem (srcCore g.core) (x.a + r * x.stride) (packedLen x.atype k)
    let (s, sc) := if isMx x.atype then s.readMem (srcCore g.core) (x.sa + r * x.ss) (k / 32) else (s, ⟨[], [], none⟩)
    match rd.err.orElse (fun _ => sc.err) with
    | some (st, a) =>
      let p := poisonOf want
      let s := s.putCols g.core t (r % 64) (List.replicate g.own p) (poisonMarks want g.own)
      let s := if g.other = 0 then s
        else s.putCols g.partner t (r % 64) (List.replicate g.other p) (poisonMarks want g.other)
      let scale := decide (sc.err = none) && (sc.bytes.map (·.toNat)).contains 0xFF
      (s, { fl with me := fl.me.or { pois := true, nan := want == 1, scale } }, r + 1, (st, a))
    | none =>
      let aRow := unpack x.atype k rd.bytes
      let aScale := sc.bytes.map (·.toNat)
      let o1 := mmaRow x one g.rl g.edge g.b g.blo aRow aScale (s.tileRow g.core t (r % 64)) 0 g.own
      let (s, o1) := s.putRow g.core t (r % 64) x.acc (want == 2) o1
      let o2 := if g.other = 0 then {}
        else mmaRow x one g.rl g.edge g.b g.blo aRow aScale (s.tileRow g.partner t (r % 64)) g.own g.other
      let (s, o2) := if g.other = 0 then (s, o2) else s.putRow g.partner t (r % 64) x.acc (want == 2) o2
      let me := ((fl.me.or o1.me).or o2.me).or { scale := aScale.contains 0xFF }
      State.mmaRows x g one left (r + 1) { me, own := fl.own.or o1.acc, other := fl.other.or o2.acc } s

/-- The first tile of a range whose tag does not allow an ADD of a type (R153). -/
def State.tagFail (s : State) (n lo hi want : Nat) : Option (Nat × Nat) :=
  ((upTo lo hi).find? (fun t => s.tag n t != 0 && s.tag n t != want)).map (fun t => (t, s.tag n t))

/-- Whether an MMA's first row may enter: no earlier MMA of its half waits, no earlier record with an overlapping range
is unfinished, and the loads it depends on have completed (R120, R127, R128, R146, R155). -/
def mmaReady (before : List MxOp) (o : MxOp) (h : Half) : Bool :=
  before.all (fun b =>
    !(b.kind == .mma && b.half == o.half)
      && !(b.kind != .load && overlap o.tiles b.tiles)
      && !(b.kind == .load && b.half == o.half && (o.swap || o.type == 2 || b.type == 2 || h.pair.isSome)))

/-- Count the cycles that an accepted MMA waited for its set and for a tile, however it ends (R120, R137). -/
def State.mmaWaited (s : State) (n loadWait tileWait : Nat) : State :=
  (s.count (Reg.ME_CNT_LOADWAIT n) loadWait).count (Reg.ME_CNT_TILEWAIT n) tileWait

/-- Count the rows issued, products and runs of an MMA, and the cycles its rows hold the issue (R137, R161). In TANDEM_COL the runs
of the partner's columns are counted in the leader's counters too (DESIGN CHOICE, log 89: the spec does not say whose). -/
def State.mmaCount (s : State) (g : MmaGo) (rows mode runs : Nat) : State :=
  let own := if mode = 2 then min g.b.k g.edge else g.b.k
  let n := g.b.n
  let s := (s.count (Reg.ME_CNT_ISSUE g.core) (rows)).count (Reg.ME_CNT_MAC g.core) (rows * own * (if mode = 3 then g.own else n))
  let s := if mode = 2 ∨ mode = 3 then
      (s.count (Reg.ME_CNT_ISSUE g.partner) (rows)).count (Reg.ME_CNT_MAC g.partner)
        (rows * (if mode = 2 then g.b.k - own else g.b.k) * (if mode = 3 then g.other else n))
    else s
  let hold := rows * ((runs + 7) / 8 - 1)
  let s := s.count (Reg.ME_CNT_TILEWAIT g.core) hold
  (s.count (Reg.ACC_CNT_RUNS g.core) (rows * runs * n)).count (Reg.ACC_CNT_PROMOWAIT g.core) hold

/-- The runs of one row and column of an MMA. -/
def runCount (x : MmaRec) (rl edge : Nat) (b : Bank) : Nat :=
  if isInt8 x.atype then 1
  else (runLengths (if isMx x.atype || isMx b.type then max rl 32 else rl) edge (b.k + 1) 0 b.k).length

/-- The first row of an MMA enters the array: checks 3 to 5 for the set that is active now, checks 6 and 7 and the tags, the
swap, then its rows (R125, R134, R153, R179). In TANDEM_COL ACC_EVENT is split over both cores, while the NaN, Inf and poison of the
partner's columns show in the leader's ME_EVENT too: the record is the leader's (DESIGN CHOICE, log 89). -/
def State.mmaGo (s : State) (n : Nat) (o : MxOp) (r : Fetched) (loadWait tileWait : Nat) : State :=
  let x := mmaRec r
  let m := s.mat n
  let h := m.half o.half
  let u := usedBank h x.atype x.swap
  let b := h.bank u
  let s := (s.setMat n { m with ops := dropOp o.q o.num m.ops }).mmaWaited n loadWait tileWait
  let fail (st d : Nat) : State := s.setPhaseOf o.q o.num (.ended st d)
  if !b.valid then fail stNoStationary u
  else
  match mmaSetFail ⟨o.q, n, r⟩ s x b with
  | some (t, ph) => t.setPhaseOf o.q o.num ph
  | none =>
  if !b.admits x.atype then fail stTypeMismatch (x.atype * 16 + b.type)
  else
    let mode := (s.arr n).mode
    let p := (s.arr n).partner
    let want := tileTypeOf x.atype
    let other := if mode = 3 then b.n - 64 else 0
    let own := if mode = 3 then min b.n 64 else b.n
    let hi := lastTile x.tile x.m
    let bad := (if x.acc then s.tagFail n x.tile hi want else none).orElse (fun _ =>
      if x.acc ∧ other ≠ 0 then s.tagFail p x.tile hi want else none)
    match bad with
    | some (t, g) => fail stTileType (t + g * 2 ^ 8 + want * 2 ^ 10)
    | none =>
      let edge := if mode = 2 then 64 * typeP x.atype else 0
      let g : MmaGo := { core := n, partner := p, rl := s.runLen n, edge, own, other, b, blo := h.bank (1 - u) }
      let one := x.atype == 2 && s.mmaFails x g
      let h := { h with active := if x.atype = 2 ∧ ¬ one then 1 - u else u }
      let s := s.setMat n ((s.mat n).setHalf o.half h)
      let (s, fl, rows, st, a) := s.mmaRows x g one x.m 0 {}
      let s := ((s.meEvents n fl.me).accEvents n fl.own).accEvents p fl.other
      let passes := if x.atype = 2 ∧ ¬ one then 3 else 1
      let s := s.mmaCount g (passes * rows) mode (runCount x g.rl edge b)
      s.setPhaseOf o.q o.num (.ended st (a % 2 ^ 32))

/-- MMA_FIRST_ROW_ENTRY on a half: the oldest MMA of the half, if nothing it waits on is unfinished. -/
def State.mmaEntry (s : State) (n h loadWait tileWait : Nat) (env : Env) : State :=
  let m := s.mat n
  match m.ops.find? (fun o => o.kind == .mma && o.half == h) with
  | none => s
  | some o =>
    match s.issuedAt o.q o.num with
    | none => s
    | some i =>
      if mmaReady (opsBefore o.q o.num m.ops) o (m.half h) ∧ ¬ s.tripped then
        s.settle (.record o.q o.num) env (fun s => s.mmaGo n o i.item loadWait tileWait)
      else s

/-! ## Status registers -/

/-- ME_STATUS and ME_STATUS_H1. A tandem partner's shows its own path and banks, which are empty, while the leader uses its array
(DESIGN CHOICE, log 89: the spec is silent). -/
def State.meStatus (s : State) (n h : Nat) : Word :=
  let m := s.mat n
  let x := m.half h
  if h = 1 ∧ (s.arr n).mode ≠ 1 then 0
  else
    let ops := halfOps h m.ops
    let b2n (b : Bool) : Nat := if b then 1 else 0
    BitVec.ofNat 64 (x.b1.type * 2 ^ 12 + x.b0.type * 2 ^ 8 + b2n x.pair.isSome * 32 + b2n (ops.any (·.kind == .load)) * 16
      + b2n x.b1.valid * 8 + b2n x.b0.valid * 4 + b2n (!ops.isEmpty) * 2 + x.active)

/-- ACC_BUSY: the tiles of the records that the interlock has let proceed. -/
def State.accBusy (s : State) (n : Nat) : Word :=
  let ops := (s.mat n).ops
  let live := ops.filter (fun o => o.kind == .mma
    && !((opsBefore o.q o.num ops).any (fun b => b.kind != .load && overlap o.tiles b.tiles)))
  BitVec.ofNat 64 (((List.range 32).filter (fun t => live.any (fun o => overlap o.tiles [(t, t)]))).map (2 ^ ·)).sum

end Sys2Proof.Machine
end

