-- ==== Sys2Proof/Machine/Accum.lean ====
section
/-! DEFINITION. The accumulator records and the output epilogue (05_accumulation_and_epilogue.md): TZERO, TLOAD,
TCOMBINE, TSTORE and TREDUCE. -/

namespace Sys2Proof.Machine

def stAccShape : Nat := 0x31
def stAccTileRange : Nat := 0x32
def stAccPlace : Nat := 0x33
def stEpiEmber : Nat := 0x34

/-- Count the tile rows an accumulator record reads or writes. -/
def State.accRows (s : State) (n k : Nat) : State := s.count (Reg.ACC_CNT_ROWS n) k

/-- End with TILE_TYPE (R180). -/
def endTileType (s : State) (tile found required : Nat) : State × Phase :=
  done s stTileType (tile + found * 2 ^ 8 + required * 2 ^ 10)

/-! ## TZERO (R164) -/

/-- The first tile of a TZERO and how many. -/
def tzeroTile (r : Fetched) : Nat := r.f 8 1
def tzeroCount (r : Fetched) : Nat := r.f 9 1

/-- The checks of a TZERO. -/
def tzeroFail (c : Ctx) (s : State) : Option (State × Phase) :=
  let r := c.item
  match formatFail r false [(8, 2)] [] with
  | some o => some (endFormat s r.slot o)
  | none =>
    if tzeroCount r < 1 ∨ 32 < tzeroCount r then some (done s stAccShape 9)
    else if 31 < tzeroTile r + tzeroCount r - 1 then some (done s stAccTileRange (tzeroTile r + tzeroCount r - 1))
    else none

/-- Tiles from `tile` on become zero, with tag ZERO. -/
def State.zeroTiles (s : State) (n tile count : Nat) : State :=
  let m := s.mat n
  let rows := m.rows.filter (fun e => !decide (64 * tile ≤ e.1 ∧ e.1 < 64 * (tile + count)))
  let marks := m.marks.filter (fun e => !decide (64 * tile ≤ e.1 ∧ e.1 < 64 * (tile + count)))
  let tags := m.tags.filter (fun e => !decide (tile ≤ e.1 ∧ e.1 < tile + count))
  (s.setMat n { m with rows, tags, marks }).accRows n (64 * count)

/-- A TZERO that has begun. -/
def tzeroWork (c : Ctx) (s : State) : State × Phase :=
  let t := tzeroTile c.item
  let k := tzeroCount c.item
  endOk (s.zeroTiles c.core t k)

/-- TZERO. -/
def runTzero (c : Ctx) (s : State) : State × Phase := interlocked c s false (tzeroFail c s) (tzeroWork c)

/-! ## TLOAD (R165, R181) -/

/-- Bytes of an element of a source type. -/
def srcBytes (t : Nat) : Nat := typeBits t / 8

/-- An element of a TLOAD: its source in the result type. -/
def tloadElem (stype code : Nat) : Nat := if stype = 0xD then code else toF32 (elemVal stype code)

/-- The new element and whether it saturated. -/
def accAdd (isInt : Bool) (old x : Nat) : Nat × Bool :=
  if isInt then
    if old = poisonInt ∨ x = poisonInt then (poisonInt, false) else satInt (asInt 32 old + asInt 32 x)
  else (f32add old x, false)

/-- Load rows from the r-th on. -/
def State.tloadRows (c : Ctx) (stype n tile a stride : Nat) (add : Bool) :
    Nat → Nat → EvFl → State → State × Phase
  | 0, _, fl, s => endOk (s.accEvents c.core fl)
  | left + 1, r, fl, s =>
    let t := tile + r / 64
    let tag := if stype = 0xD then 2 else 1
    let isInt := stype == 0xD
    let (s, rd) := s.readMem (srcCore c.core) (a + r * stride) (n * srcBytes stype)
    let s := (s.setTag c.core t tag).accRows c.core 1
    let old := s.tileRow c.core t (r % 64)
    match rd.err with
    | some e =>
      let s := s.putCols c.core t (r % 64) (List.replicate n (poisonOf tag)) (poisonMarks tag n)
      endMem (s.accEvents c.core (fl.or { pois := true })) (some e)
    | none =>
      let xs := (unpack stype n rd.bytes).map (tloadElem stype)
      let res := if add then List.zipWith (accAdd isInt) (old.take n) xs else xs.map (fun x => (x, false))
      let vals := res.map (·.1)
      let marks := if add then s.marksIn c.core t (r % 64) n else []
      let s := s.putCols c.core t (r % 64) vals marks
      State.tloadRows c stype n tile a stride add left (r + 1) (fl.or (rowFl vals marks isInt (res.any (·.2)))) s

/-- The fields of a TLOAD. -/
structure TloadFields where
  a : Nat
  stride : Nat
  m : Nat
  tile : Nat
  stype : Nat
  n : Nat
  add : Bool
  deriving DecidableEq, Repr

def tloadFields (r : Fetched) : TloadFields :=
  { a := r.f 8 8, stride := r.f 0x10 4, m := r.f 0x14 2, tile := r.f 0x16 1, stype := r.f 0x17 1, n := r.f 0x18 1,
    add := r.f 0x19 1 == 1 }

/-- The checks of a TLOAD but for its tags. -/
def tloadFail (c : Ctx) (s : State) : Option (State × Phase) :=
  let r := c.item
  let x := tloadFields r
  match formatFail r false [(8, 0x12)]
      [addrCheck r.bytes 8, (0x10, decide (x.stride < 2 ^ 23)), (0x17, [0, 1, 2, 0xD].contains x.stype),
       (0x19, decide (r.f 0x19 1 < 2))] with
  | some o => some (endFormat s r.slot o)
  | none =>
    match firstFail [(8, x.a % 32 == 0), (0x10, x.stride % 32 == 0 && decide (x.n * srcBytes x.stype ≤ x.stride)),
        (0x14, decide (1 ≤ x.m ∧ x.m ≤ 2048)), (0x18, decide (1 ≤ x.n ∧ x.n ≤ 64))] with
    | some o => some (done s stAccShape o)
    | none =>
      if 31 < lastTile x.tile x.m then some (done s stAccTileRange (lastTile x.tile x.m))
      else (firstOutside c.core (rowRanges x.a x.stride (x.n * srcBytes x.stype) x.m)).map (endPlace c s stAccPlace)

/-- A TLOAD that has begun: its tags are checked last. -/
def tloadWork (c : Ctx) (s : State) : State × Phase :=
  let x := tloadFields c.item
  let hi := lastTile x.tile x.m
  let want := if x.stype = 0xD then 2 else 1
  match (if x.add then s.tagFail c.core x.tile hi want else none) with
  | some (t, g) => endTileType s t g want
  | none => s.tloadRows c x.stype x.n x.tile x.a x.stride x.add x.m 0 {}

/-- TLOAD. -/
def runTload (c : Ctx) (s : State) : State × Phase := interlocked c s false (tloadFail c s) (tloadWork c)

/-! ## TCOMBINE (R166) -/

/-- ±x in a result type. -/
def accNeg (isInt neg : Bool) (x : Nat) : Nat :=
  if !neg then (if !isInt && f32isNan x then canonNan else x)
  else if isInt then (if x = poisonInt then x else ofInt 32 (-(asInt 32 x)))
  else if f32isNan x then canonNan
  else f32neg x

/-- The result type of a tile of the range (R166). -/
def combineType (ta tb td : Nat) (hasB add : Bool) : Nat :=
  if ta ≠ 0 then ta
  else if hasB ∧ tb ≠ 0 then tb
  else if add ∧ td = 2 then 2 else 1

/-- Where the tags do not allow a TCOMBINE: tile, tag found and type required. Where the tags of A and B differ, DETAIL names B's
tile, with A's tag as the one required (DESIGN CHOICE, log 101: R166 does not say which). -/
def State.combineFail (s : State) (n a b d : Nat) (hasB add : Bool) (i : Nat) : Option (Nat × Nat × Nat) :=
  let ta := s.tag n (a + i)
  let tb := if hasB then s.tag n (b + i) else 0
  let td := s.tag n (d + i)
  let rt := combineType ta tb td hasB add
  if ta ≠ 0 ∧ tb ≠ 0 ∧ ta ≠ tb then some (b + i, tb, ta)
  else if add ∧ td ≠ 0 ∧ td ≠ rt then some (d + i, td, rt)
  else none

/-- Combine one tile row; `old` is the state before the record, from which every element is read. -/
def combineRow (old : State) (n a b d : Nat) (hasB add na nb : Bool) (acc : State × EvFl) (k : Nat) :
    State × EvFl :=
  let i := k / 64
  let r := k % 64
  let ta := old.tag n (a + i)
  let tb := if hasB then old.tag n (b + i) else 0
  let rt := combineType ta tb (old.tag n (d + i)) hasB add
  let isInt := rt == 2
  let xs := (old.tileRow n (a + i) r).map (accNeg isInt na)
  let ys := (old.tileRow n (b + i) r).map (accNeg isInt nb)
  let sum := if hasB then List.zipWith (accAdd isInt) xs ys else xs.map (fun x => (x, false))
  let res := if add then
      List.zipWith (fun o (x : Nat × Bool) => let y := accAdd isInt o x.1; (y.1, y.2 || x.2)) (old.tileRow n (d + i) r) sum
    else sum
  let vals := res.map (·.1)
  let from_ := old.rowMarks n (a + i) r ++ (if hasB then old.rowMarks n (b + i) r else [])
    ++ (if add then old.rowMarks n (d + i) r else [])
  let marks := if isInt then [] else (List.range 64).filter from_.contains
  ((acc.1.setTag n (d + i) rt).putCols n (d + i) r vals marks, acc.2.or (rowFl vals marks isInt (res.any (·.2))))

/-- The last tile a TCOMBINE needs. -/
def combineLast (r : Fetched) : Nat :=
  let count := r.f 0xB 1
  max (r.f 8 1 + count - 1) (max (r.f 0xA 1 + count - 1) (if r.f 9 1 != 0xFF then r.f 9 1 + count - 1 else 0))

/-- The checks of a TCOMBINE but for its tags. -/
def tcombineFail (c : Ctx) (s : State) : Option (State × Phase) :=
  let r := c.item
  match formatFail r false [(8, 5)] [(0xC, decide (r.f 0xC 1 < 8))] with
  | some o => some (endFormat s r.slot o)
  | none =>
    if r.f 0xB 1 < 1 ∨ 32 < r.f 0xB 1 then some (done s stAccShape 0xB)
    else if 31 < combineLast r then some (done s stAccTileRange (combineLast r))
    else none

/-- A TCOMBINE that has begun: its tags are checked last. -/
def tcombineWork (c : Ctx) (s : State) : State × Phase :=
  let r := c.item
  let a := r.f 8 1
  let b := r.f 9 1
  let d := r.f 0xA 1
  let count := r.f 0xB 1
  let fl := r.f 0xC 1
  let hasB := b != 0xFF
  match (List.range count).findSome? (s.combineFail c.core a b d hasB (bit fl 0)) with
  | some (t, g, w) => endTileType s t g w
  | none =>
    let tiles := (List.range 32).filter (fun t => decide ((a ≤ t ∧ t < a + count) ∨ (d ≤ t ∧ t < d + count))
      || (hasB && decide (b ≤ t ∧ t < b + count)))
    let (t, ev) := (List.range (64 * count)).foldl
      (combineRow s c.core a b d hasB (bit fl 0) (bit fl 1) (bit fl 2)) (s, {})
    endOk ((t.accEvents c.core ev).accRows c.core (64 * tiles.length))

/-- TCOMBINE. -/
def runTcombine (c : Ctx) (s : State) : State × Phase := interlocked c s false (tcombineFail c s) (tcombineWork c)

/-! ## The epilogue (R167–R171) -/

/-- The fields of a TSTORE. -/
structure StoreRec where
  dst : Nat
  stride : Nat
  m : Nat
  tile : Nat
  otype : Nat
  n : Nat
  smode : Nat
  bmode : Nat
  sat : Bool
  trunc : Bool
  act : Nat
  scale : Nat
  scAddr : Nat
  bAddr : Nat
  actp : Nat
  ember : Nat
  mxs : Nat
  deriving DecidableEq, Repr

def storeRec (r : Fetched) : StoreRec :=
  { dst := r.f 8 8, stride := r.f 0x10 4, m := r.f 0x14 2, tile := r.f 0x16 1, otype := r.f 0x17 1, n := r.f 0x18 1,
    smode := bits (r.f 0x19 1) 1 0, bmode := bits (r.f 0x19 1) 3 2, sat := bit (r.f 0x1A 1) 0, trunc := bit (r.f 0x1A 1) 1,
    act := r.f 0x1B 1, scale := r.f 0x1C 4, scAddr := r.f 0x20 8, bAddr := r.f 0x28 8, actp := r.f 0x30 4,
    ember := r.f 0x34 1, mxs := r.f 0x38 4 }

/-- Output types of the epilogue. -/
def outDefined (t : Nat) : Bool := decide (t ≤ 0xD) && t != 3

/-- Check 1 of a TSTORE. -/
def storeFormat (r : Fetched) : Option Nat :=
  let x := storeRec r
  formatFail r false [(8, 0x2D), (0x38, 4)]
    [addrCheck r.bytes 8, (0x10, decide (x.stride < 2 ^ 23)), (0x17, outDefined x.otype),
     (0x19, decide (r.f 0x19 1 < 16) && x.bmode != 3), (0x1A, decide (r.f 0x1A 1 < 4)),
     (0x1B, decide (x.act ≤ 8) || x.act == 0x1F), (0x1C, x.smode == 1 || x.scale == 0),
     addrCheck r.bytes 0x20, (0x20, decide (2 ≤ x.smode) || x.scAddr == 0),
     addrCheck r.bytes 0x28, (0x28, x.bmode == 1 || x.bmode == 2 || x.bAddr == 0),
     (0x30, x.act == 2 || x.act == 3 || x.actp == 0),
     (0x34, decide (x.ember < 16) && (x.act == 0x1F || x.ember == 0)),
     (0x38, decide (x.mxs < 2 ^ 23) && (isMx x.otype || x.mxs == 0))]

/-- ACTP in the range of its activation (R169). -/
def actpOk (act w : Nat) : Bool :=
  let x := ofF32 w
  match act with
  | 2 => numLt .zero x && numLt x .one
  | 3 => !x.isNan && !x.isInf && !numLt x .zero
  | _ => true

/-- Check 2 of a TSTORE. -/
def storeShape (x : StoreRec) : Option Nat :=
  firstFail [(8, x.dst % 32 == 0), (0x10, x.stride % 32 == 0 && decide (packedLen x.otype x.n ≤ x.stride)),
    (0x14, decide (1 ≤ x.m ∧ x.m ≤ 2048)), (0x18, decide (1 ≤ x.n ∧ x.n ≤ 64) && (!isMx x.otype || x.n % 32 == 0)),
    (0x20, x.scAddr % 32 == 0), (0x28, x.bAddr % 32 == 0), (0x30, actpOk x.act x.actp), (0x38, x.mxs % 32 == 0)]

/-- Bytes of the scale and bias vectors. -/
def scaleLen (x : StoreRec) : Nat := match x.smode with | 2 => 4 * x.n | 3 => 4 * x.m | _ => 0
def biasLen (x : StoreRec) : Nat := match x.bmode with | 1 => 4 * x.n | 2 => 2 * x.n | _ => 0

/-- Everything a TSTORE reads or writes in core-local memory. -/
def storeRanges (n : Nat) (x : StoreRec) : List (Nat × Nat) :=
  rowRanges x.dst x.stride (packedLen x.otype x.n) x.m ++ [(x.scAddr, scaleLen x), (x.bAddr, biasLen x)]
    ++ (if isMx x.otype then [(localBase n + x.mxs, x.m * x.n / 32)] else [])

/-- The fixed activations (R169). -/
def activate (act actp w : Nat) : Nat :=
  let x := ofF32 w
  if x.isNan then canonNan
  else
    match act with
    | 1 => if numLt .zero x then w else 0
    | 2 => if numLt x .zero then f32mul w actp else w
    | 3 =>
      let b := ofF32 actp
      if numLt b x then actp % 2 ^ 31 else if numLt x b.abs.neg then f32neg (actp % 2 ^ 31) else w
    | 4 => if x.isInf then toF32 x.geluTanh else within2 act w x.geluTanh
    | 5 => if x.isInf then toF32 x.geluErf else within2 act w x.geluErf
    | 6 => if x.isInf then toF32 x.silu else within2 act w x.silu
    | 7 => if x.isInf then toF32 x.sigmoid else within2 act w x.sigmoid
    | 8 => if x.isInf then toF32 x.tanh else within2 act w x.tanh
    | _ => w

/-- One output element: its code and what it sets. -/
structure OutElem where
  code : Nat
  nan : Bool := false
  inf : Bool := false
  sat : Bool := false
  deriving DecidableEq, Repr

/-- Narrow a value to an integer type of bounds lo and hi, NaN giving `nanCode` (R170). -/
def narrowInt (bits_ : Nat) (lo hi : Int) (nanCode : Nat) (trunc : Bool) (x : Fp) : OutElem :=
  let clamp (z : Int) : OutElem :=
    if z > hi then { code := ofInt bits_ hi, sat := true }
    else if z < lo then { code := ofInt bits_ lo, sat := true }
    else { code := ofInt bits_ z }
  match x with
  | .nan => { code := nanCode, nan := true }
  | .inf n => clamp (if n then lo - 1 else hi + 1)
  | .fin n m e => clamp (roundToInt trunc n m e)

/-- Narrow an FP32 pattern to an output type that is not an MX type (R170). -/
def narrowOut (otype : Nat) (trunc sat : Bool) (w : Nat) : OutElem :=
  let x := ofF32 w
  match otype with
  | 2 => { code := if x.isNan then canonNan else w, nan := x.isNan, inf := x.isInf }
  | 8 => narrowInt 8 (-128) 127 0 trunc x
  | 9 => narrowInt 8 0 255 0 trunc x
  | 0xD => narrowInt 32 (-2147483647) 2147483647 poisonInt trunc x
  | _ =>
    match typeFmt otype with
    | some f => let r := narrowFp f trunc sat x; { code := r.code, nan := r.nan, inf := r.inf, sat := r.sat }
    | none => { code := 0 }

/-- The largest exponent of an MX element type (R171). -/
def mxEmax (t : Nat) : Int := match t with | 6 => 8 | 7 => 15 | 0xA => 4 | _ => 2

/-- floor(log2) of a finite nonzero value. -/
def Fp.exponent : Fp → Int
  | .fin _ m e => e + Int.ofNat (bitLen m) - 1
  | _ => 0

/-- One MX block: its scale byte and its elements (R171). -/
def mxBlock (otype : Nat) (trunc : Bool) (ws : List Nat) : Nat × List OutElem :=
  let xs := ws.map ofF32
  let f := (typeFmt otype).getD fmtE4m3
  if xs.any (fun x => x.isNan || x.isInf) then (0xFF, ws.map (fun _ => { code := 0, nan := true }))
  else
    let amax := xs.foldl (fun a x => if numLt a x.abs then x.abs else a) .zero
    if amax.isZero then (0x7F, xs.map (fun x => { code := f.signBit x.sign }))
    else
      let e := max (-127) (min 127 (amax.exponent - mxEmax otype))
      ((e + 127).toNat, xs.map (fun x =>
        let r := narrowFp f trunc true (x.scale (-e)); { code := r.code, nan := r.nan, sat := r.sat }))

/-- An element as it enters the epilogue (step 0): poison becomes NaN. -/
def step0 (tag w : Nat) : Nat :=
  if tag = 2 then (if w = poisonInt then canonNan else toF32 (ofZ (asInt 32 w))) else (if f32isNan w then canonNan else w)

/-- Steps 1 and 2 (R168). -/
def step12 (x : StoreRec) (sc bi : List Nat) (r j w : Nat) : Nat :=
  let w := match x.smode with
    | 1 => f32mul w x.scale
    | 2 => f32mul w (sc.getD j 0)
    | 3 => f32mul w (sc.getD r 0)
    | _ => w
  if x.bmode = 0 then w else f32add w (bi.getD j 0)

/-- The flags an ember activation raises. -/
structure EmFlags where
  invalid : Bool := false
  divzero : Bool := false
  temps : List (List Nat) := []
  deriving DecidableEq, Repr

/-- Step 3 on a row: its elements after the activation, and what an ember program raised. -/
def step3 (x : StoreRec) (prog : List Byte) (ws : List Nat) : List Nat × EmFlags :=
  if x.act = 0x1F then
    let rs := ws.map (fun w => emRunElem prog [] 0 [w])
    (rs.map (fun r => r.t.getD (emOut prog 0) 0), { invalid := rs.any (·.invalid), divzero := rs.any (·.divzero), temps := rs.map (·.t) })
  else (ws.map (activate x.act x.actp), {})

/-- A row of the output: its elements, its scale bytes and the flags of the activation. -/
def epilogueRow (x : StoreRec) (prog : List Byte) (sc bi : List Nat) (tag r : Nat) (row : List Nat) :
    List OutElem × List Nat × EmFlags :=
  if tag = 2 ∧ x.smode = 0 ∧ x.bmode = 0 ∧ x.act = 0 ∧ x.otype = 0xD then (row.map (fun w => { code := w }), [], {})
  else
    let ws := (numbered row).map (fun e => step12 x sc bi r e.1 (step0 tag e.2))
    let (ys, fl) := step3 x prog ws
    if isMx x.otype then
      let bs := (cut 32 3 ys).map (mxBlock x.otype x.trunc)
      (bs.flatMap (·.2), bs.map (·.1), fl)
    else (ys.map (narrowOut x.otype x.trunc x.sat), [], fl)

/-- What a TSTORE has done so far: the first write that failed and the activation's flags. -/
structure StoreAcc where
  s : State
  err : Option (Nat × Nat) := none
  fl : EmFlags := {}
  ev : EvFl := {}

/-- Write row r of a TSTORE. -/
def storeRow (c : Ctx) (x : StoreRec) (prog : List Byte) (sc bi : List Nat) (a : StoreAcc) (r : Nat) : StoreAcc :=
  let n := c.core
  let t := x.tile + r / 64
  let tag := a.s.tag n t
  let row := (a.s.tileRow n t (r % 64)).take x.n
  let (els, scs, fl) := epilogueRow x prog sc bi tag r row
  let ev : EvFl := { nan := els.any (·.nan), inf := els.any (·.inf), sat := els.any (·.sat),
                     pois := holdsPoison (tag == 2) row (a.s.marksIn n t (r % 64) x.n) }
  let s := if x.act = 0x1F then a.s.putTemps n (64 * (r % 2)) fl.temps else a.s
  let (s, e1) := s.writeMem (srcCore n) (x.dst + r * x.stride) (pack x.otype (els.map (·.code)))
  let (s, e2) := s.writeMem (srcCore n) (localBase n + x.mxs + r * (x.n / 32)) (scs.map (BitVec.ofNat 8))
  { s := s.accRows n 1, err := (a.err.orElse (fun _ => e1)).orElse (fun _ => e2), ev := a.ev.or ev,
    fl := { invalid := a.fl.invalid || fl.invalid, divzero := a.fl.divzero || fl.divzero } }

/-- The body of a TSTORE, once no interlock holds it (R168, R172, R179, R181). -/
def storeBody (c : Ctx) (x : StoreRec) (s : State) : State × Phase :=
  let prog := if x.act = 0x1F then s.emSlot c.core x.ember else []
  if x.act = 0x1F ∧ (prog = [] ∨ ¬ emActivation prog) then done s stEpiEmber x.ember
  else
    let (s, r1) := s.readMem (srcCore c.core) x.scAddr (scaleLen x)
    match r1.err with
    | some e => endMem s (some e)
    | none =>
      let (s, r2) := s.readMem (srcCore c.core) x.bAddr (biasLen x)
      match r2.err with
      | some e => endMem s (some e)
      | none =>
        let sc := unpack 2 (scaleLen x / 4) r1.bytes
        let bi := if x.bmode = 2 then (unpack 0 x.n r2.bytes).map (fun w => toF32 (elemVal 0 w)) else unpack 2 (biasLen x / 4) r2.bytes
        let a := (List.range x.m).foldl (storeRow c x prog sc bi) { s }
        let a := { a with s := a.s.accEvents c.core a.ev }
        let s := if x.act = 0x1F then
            let s := (a.s.veFlagIf c.core 2 a.fl.invalid).veFlagIf c.core 3 a.fl.divzero
            let g := (x.m + 1) / 2
            (s.count (Reg.VE_CNT_GROUPS c.core) g).count (Reg.VE_CNT_SLOTS c.core) (g * emNinst prog)
          else a.s
        endMem s a.err

/-- The checks of a TSTORE but for its ember slot. -/
def tstoreFail (c : Ctx) (s : State) : Option (State × Phase) :=
  let r := c.item
  let x := storeRec r
  match storeFormat r with
  | some o => some (endFormat s r.slot o)
  | none =>
    match storeShape x with
    | some o => some (done s stAccShape o)
    | none =>
      if 31 < lastTile x.tile x.m then some (done s stAccTileRange (lastTile x.tile x.m))
      else (firstOutside c.core (storeRanges c.core x)).map (endPlace c s stAccPlace)

/-- A TSTORE that has begun. -/
def tstoreWork (c : Ctx) (s : State) : State × Phase := storeBody c (storeRec c.item) s

/-- TSTORE: with ACT 0x1F it begins only while the vector engine is between records (R172). -/
def runTstore (c : Ctx) (s : State) : State × Phase :=
  interlocked c s ((storeRec c.item).act == 0x1F && s.veWaits c.core) (tstoreFail c s) (tstoreWork c)

/-! ## TREDUCE (R173–R177) -/

/-- A term of a reduction: its index, its value and, for MAX and MIN, what it is. -/
inductive RedRes where
  | plain (w : Nat)
  | pair (s c : Nat)
  | best (w i : Nat)
  deriving DecidableEq, Repr

def RedRes.bytes : RedRes → List Byte
  | .plain w => toLe 4 w
  | .pair s c => toLe 4 s ++ toLe 4 c
  | .best w i => toLe 4 w ++ toLe 4 i

/-- SUM_PAIR of FP32 terms. -/
def sumPair : List Nat → Nat × Nat
  | [] => (0, 0)
  | x :: r => r.foldl pairAdd (x, 0)

/-- MAX (or MIN) of FP32 terms: the lowest NaN wins, else the extreme value at its lowest index (R175). -/
def bestF32 (isMin : Bool) (xs : List Nat) : RedRes :=
  match (numbered xs).find? (fun e => f32isNan e.2) with
  | some e => .best canonNan e.1
  | none =>
    let b := (numbered xs).foldl (fun (b : Nat × Nat) e =>
      let x := ofF32 e.2
      let y := ofF32 b.2
      if (if isMin then x.lt y else y.lt x) then e else b) (0, xs.headD 0)
    .best b.2 b.1

/-- MAX or MIN of INT32 terms: the lowest poison wins. -/
def bestInt (isMin : Bool) (xs : List Nat) : RedRes :=
  match (numbered xs).find? (fun e => e.2 == poisonInt) with
  | some e => .best poisonInt e.1
  | none =>
    let b := (numbered xs).foldl (fun (b : Nat × Nat) e =>
      if (if isMin then decide (asInt 32 e.2 < asInt 32 b.2) else decide (asInt 32 b.2 < asInt 32 e.2)) then e else b)
      (0, xs.headD 0)
    .best b.2 b.1

/-- SUM_PLAIN of INT32 terms: saturating, and poisoned by any poisoned term; the flag tells that it saturated. -/
def sumInt (xs : List Nat) : Nat × Bool :=
  if xs.contains poisonInt then (poisonInt, false)
  else
    match xs with
    | [] => (0, false)
    | x :: r => r.foldl (fun a y => let z := satInt (asInt 32 a.1 + asInt 32 y); (z.1, a.2 || z.2)) (x, false)

/-- SUM_PLAIN of FP32 terms. -/
def sumPlain : List Nat → Nat
  | [] => 0
  | x :: r => r.foldl f32add x

/-- Reduce FP32 terms by an OP of R173; a NaN in the result is canonical. -/
def reduceF32 (op : Nat) (xs : List Nat) : RedRes :=
  let canon (w : Nat) : Nat := if f32isNan w then canonNan else w
  match op with
  | 0 => .plain (canon (sumPlain xs))
  | 1 => let p := sumPair xs; .pair (canon p.1) (canon p.2)
  | 2 => .plain (canon (pairFold (sumPair xs)))
  | 3 => bestF32 false xs
  | _ => bestF32 true xs

/-- Bytes of a result. -/
def redBytes (op : Nat) : Nat := if op = 0 ∨ op = 2 then 4 else 8

/-- What a result's value is. -/
def RedRes.nan : RedRes → Bool
  | .plain w => f32isNan w
  | .pair s c => f32isNan s || f32isNan c
  | .best w _ => f32isNan w

def RedRes.inf : RedRes → Bool
  | .plain w => f32isInf w
  | .pair s c => f32isInf s || f32isInf c
  | .best w _ => f32isInf w

/-- The terms of result i of a TREDUCE. -/
def reduceTerms (s : State) (core tile m n dim i : Nat) : List Nat :=
  if dim = 0 then (s.tileRow core (tile + i / 64) (i % 64)).take n
  else (List.range m).map (fun r => (s.tileRow core (tile + r / 64) (r % 64)).getD i 0)

/-- Whether a term of result i of a TREDUCE is marked as FP32 poison. -/
def reduceMarked (s : State) (core tile m n dim i : Nat) : Bool :=
  if dim = 0 then s.marksIn core (tile + i / 64) (i % 64) n != []
  else (List.range m).any (fun r => (s.rowMarks core (tile + r / 64) (r % 64)).contains i)

/-- One result of a TREDUCE and its flags. -/
def reduceOne (c : Ctx) (tile m n op dim dst : Nat) (isInt : Bool) (a : State × Option (Nat × Nat) × EvFl) (i : Nat) :
    State × Option (Nat × Nat) × EvFl :=
  let xs := reduceTerms a.1 c.core tile m n dim i
  let (res, sat) := if isInt then
      (match op with
        | 0 => let z := sumInt xs; (RedRes.plain z.1, z.2)
        | 3 => (bestInt false xs, false)
        | _ => (bestInt true xs, false))
    else (reduceF32 op xs, false)
  let ev : EvFl := { nan := !isInt && res.nan, inf := !isInt && res.inf, sat,
                     pois := if isInt then xs.contains poisonInt else reduceMarked a.1 c.core tile m n dim i }
  let (s, e) := a.1.writeMem (srcCore c.core) (dst + i * redBytes op) res.bytes
  (s, a.2.1.orElse (fun _ => e), a.2.2.or ev)

/-- The tag of a TREDUCE range: that of the first tile that is not ZERO; or where a tile differs from it. -/
def State.rangeTag (s : State) (n lo hi : Nat) : Nat × Option (Nat × Nat) :=
  let g := ((upTo lo hi).map (s.tag n)).find? (· != 0)
  match g with
  | none => (1, none)
  | some g => (g, ((upTo lo hi).find? (fun t => s.tag n t != 0 && s.tag n t != g)).map (fun t => (t, s.tag n t)))

/-- The fields of a TREDUCE. -/
structure RedFields where
  dst : Nat
  m : Nat
  tile : Nat
  n : Nat
  op : Nat
  dim : Nat
  deriving DecidableEq, Repr

def redFields (r : Fetched) : RedFields :=
  { dst := r.f 8 8, m := r.f 0x10 2, tile := r.f 0x12 1, n := r.f 0x13 1, op := r.f 0x14 1, dim := r.f 0x15 1 }

/-- Results of a TREDUCE. -/
def RedFields.count (x : RedFields) : Nat := if x.dim = 0 then x.m else x.n

/-- The checks of a TREDUCE but for its tags. -/
def treduceFail (c : Ctx) (s : State) : Option (State × Phase) :=
  let r := c.item
  let x := redFields r
  match formatFail r false [(8, 0xE)] [addrCheck r.bytes 8, (0x14, decide (x.op ≤ 4)), (0x15, decide (x.dim ≤ 1))] with
  | some o => some (endFormat s r.slot o)
  | none =>
    match firstFail [(8, x.dst % 32 == 0), (0x10, decide (1 ≤ x.m ∧ x.m ≤ 2048)), (0x13, decide (1 ≤ x.n ∧ x.n ≤ 64))] with
    | some o => some (done s stAccShape o)
    | none =>
      if 31 < lastTile x.tile x.m then some (done s stAccTileRange (lastTile x.tile x.m))
      else (firstOutside c.core [(x.dst, x.count * redBytes x.op)]).map (endPlace c s stAccPlace)

/-- A TREDUCE that has begun: its tags are checked last. For a pairwise or folded sum of INT32 tiles DETAIL names the first of them,
with FP32 as the type required (DESIGN CHOICE, log 101: R173 does not say). -/
def treduceWork (c : Ctx) (s : State) : State × Phase :=
  let x := redFields c.item
  let hi := lastTile x.tile x.m
  match s.rangeTag c.core x.tile hi with
  | (g, some (t, found)) => endTileType s t found g
  | (g, none) =>
    if g = 2 ∧ (x.op = 1 ∨ x.op = 2) then
      endTileType s (((upTo x.tile hi).find? (fun t => s.tag c.core t == 2)).getD x.tile) 2 1
    else
      let (s, e, ev) := (List.range x.count).foldl (reduceOne c x.tile x.m x.n x.op x.dim x.dst (g == 2)) (s, none, {})
      endMem ((s.accEvents c.core ev).accRows c.core x.m) e

/-- TREDUCE. -/
def runTreduce (c : Ctx) (s : State) : State × Phase := interlocked c s false (treduceFail c s) (treduceWork c)

end Sys2Proof.Machine
end

