-- ==== Sys2Proof/Machine/Vector.lean ====
section
/-! DEFINITION. The vector engine's records (06_vector_engine.md): VSET, VOP, VREDUCE, EMLOAD and EMRUN. -/

namespace Sys2Proof.Machine

def stVeShape : Nat := 0x40
def stVePlace : Nat := 0x41
def stEmberFormat : Nat := 0x42
def stEmberEmpty : Nat := 0x43
def stEmberKind : Nat := 0x44
def stVeNan : Nat := 0x45

/-! ## Streams (R186–R188, R193) -/

/-- Type codes of streams. -/
def streamType (t : Nat) : Bool := [0, 1, 2, 4, 5, 8, 9, 0xD].contains t

/-- A stream: its address and type. -/
structure Strm where
  addr : Nat
  ty : Nat
  deriving DecidableEq, Repr

def Strm.len (x : Strm) (l : Nat) : Nat := l * srcBytes x.ty

/-- Two streams share a byte. -/
def Strm.meets (x y : Strm) (l : Nat) : Bool := decide (x.addr < y.addr + y.len l ∧ y.addr < x.addr + x.len l)

/-- An output that overlaps an input other than by identity, or another output (R193). -/
def overlapBad (ins outs : List Strm) (l : Nat) : List Bool :=
  (numbered outs).map (fun o =>
    ins.any (fun i => i.meets o.2 l && !(i.addr == o.2.addr && srcBytes i.ty == srcBytes o.2.ty))
      || (outs.take o.1).any (fun p => p.meets o.2 l))

/-- Input conversion (R187): to the FP32 pattern, or as is in packed mode. A BF16 NaN keeps its bits, and a NaN of the other types
becomes 0x7FC0_0000 (DESIGN CHOICE, log 30: R187 does not say which pattern a NaN widens to). -/
def veIn (packed : Bool) (t code : Nat) : Nat :=
  if packed ∨ t = 2 ∨ t = 0xD then code
  else if t = 0 then code * 2 ^ 16
  else toF32 (elemVal t code)

/-- Output conversion (R170, R187). -/
def veOut (packed trunc sat : Bool) (t w : Nat) : OutElem :=
  if packed then
    let r := narrowFp fmtBf16 trunc sat (decodeFp fmtBf16 w)
    { code := r.code, nan := r.nan, inf := r.inf, sat := r.sat }
  else if t = 0xD then { code := w }
  else narrowOut t trunc sat w

/-- The poison of an output type after a memory error (R207): the type's NaN, and for S8 and U8 a 0 that was no NaN. -/
def vePoison (t : Nat) : OutElem :=
  if t = 0xD then { code := poisonInt } else { narrowOut t false false canonNan with nan := t != 8 && t != 9 }

/-- How a record treats its elements: packed mode, SAT, RND, NANSTOP, and the instructions it runs on a group. -/
structure ElOpt where
  packed : Bool := false
  sat : Bool := false
  trunc : Bool := false
  nanstop : Bool := false
  insts : Nat := 1
  deriving DecidableEq, Repr

/-- The result of one element: outputs, flags, and the temporaries of an ember program. -/
structure ElRes where
  outs : List Nat
  invalid : Bool := false
  divzero : Bool := false
  temps : List Nat := []
  deriving DecidableEq, Repr

/-- What an element-wise record has done so far. -/
structure ElAcc where
  s : State
  invalid : Bool := false
  divzero : Bool := false
  nan : Bool := false
  inf : Bool := false
  sat : Bool := false
  /-- The first element written as NaN. -/
  nanAt : Option Nat := none
  /-- The first access that failed. -/
  err : Option (Nat × Nat) := none
  groups : Nat := 0

/-- Whether the bytes of element k of a group at an address lie in a failed line. -/
def elemBad (bad : List Nat) (addr size k : Nat) : Bool :=
  bad.any (fun la => decide (la < addr + (k + 1) * size ∧ addr + k * size < la + 32))

/-- Put the temporaries of a group into the lanes; in packed mode a lane holds two elements. -/
def laneTemps (packed : Bool) (ts : List (List Nat)) : List (List Nat) :=
  if packed then (cut 2 129 ts).map (fun p => (List.range 16).map (fun t => (p.headD []).getD t 0 + 2 ^ 16 * (p.getD 1 []).getD t 0))
  else ts

/-- One group of an element-wise record: k elements from index b. The flag tells that a read failed. -/
def elemGroup (c : Ctx) (o : ElOpt) (ins outs : List Strm) (f : Nat → List Nat → ElRes) (b k : Nat) (a : ElAcc) : ElAcc × Bool :=
  let src := srcCore c.core
  let (s, rds) := ins.foldl (fun (x : State × List (Strm × Rd)) i =>
    let (s, rd) := x.1.readMem src (i.addr + b * srcBytes i.ty) (k * srcBytes i.ty)
    (s, x.2 ++ [(i, rd)])) (a.s, [])
  let err := rds.findSome? (fun x => x.2.err)
  let bad (j : Nat) : Bool := rds.any (fun x => elemBad x.2.bad (x.1.addr + b * srcBytes x.1.ty) (srcBytes x.1.ty) j)
  let cols := rds.map (fun x => (unpack x.1.ty k x.2.bytes).map (veIn o.packed x.1.ty))
  let res : List (Option ElRes) := (List.range k).map (fun j =>
    if bad j then none else some (f (b + j) (cols.map (fun col => col.getD j 0))))
  let good := res.filterMap id
  let els : List (List OutElem) := (numbered outs).map (fun e => res.map (fun r => match r with
    | some r => veOut o.packed o.trunc o.sat e.2.ty (r.outs.getD e.1 0)
    | none => vePoison e.2.ty))
  let s := if good.any (fun r => r.temps != []) && err.isNone then s.putTemps c.core 0 (laneTemps o.packed (good.map (·.temps))) else s
  let (s, werr) := (List.zip outs els).foldl (fun (x : State × Option (Nat × Nat)) e =>
    let (s, w) := x.1.writeMem src (e.1.addr + b * srcBytes e.1.ty) (pack e.1.ty (e.2.map (·.code)))
    (s, x.2.orElse (fun _ => w))) (s, none)
  let floats := (List.zip outs els).filter (fun e => e.1.ty != 8 && e.1.ty != 9)
  let nanAt := (List.range k).find? (fun j => floats.any (fun e => (e.2.getD j { code := 0 }).nan))
  ({ s, invalid := a.invalid || good.any (·.invalid), divzero := a.divzero || good.any (·.divzero),
     nan := a.nan || els.any (·.any (·.nan)), inf := a.inf || els.any (·.any (·.inf)), sat := a.sat || els.any (·.any (·.sat)),
     nanAt := a.nanAt.orElse (fun _ => nanAt.map (b + ·)),
     err := (a.err.orElse (fun _ => err)).orElse (fun _ => werr), groups := a.groups + 1 }, err.isSome)

/-- The groups of a record, from element b on; a failed read ends it (R207). The flag tells that one failed. -/
def elemGroups (c : Ctx) (o : ElOpt) (ins outs : List Strm) (f : Nat → List Nat → ElRes) (l e : Nat) :
    Nat → Nat → ElAcc → ElAcc × Bool
  | 0, _, a => (a, false)
  | fuel + 1, b, a =>
    if l ≤ b then (a, false)
    else
      let (a, failed) := elemGroup c o ins outs f b (min e (l - b)) a
      if failed then (a, true) else elemGroups c o ins outs f l e fuel (b + e) a

/-- Run an element-wise record: its elements, counters and flags, and its end (R205–R207, R210). -/
def elementwise (c : Ctx) (s : State) (o : ElOpt) (ins outs : List Strm) (l : Nat) (f : Nat → List Nat → ElRes) :
    State × Phase :=
  let e := if o.packed then 256 else 128
  let (a, failed) := elemGroups c o ins outs f l e (l / e + 1) 0 { s }
  let n := c.core
  let bytes (xs : List Strm) : Nat := e * (xs.map (fun x => srcBytes x.ty)).sum
  let g := max o.insts (max ((bytes ins + 511) / 512) ((bytes outs + 255) / 256))
  let s := a.s.count (Reg.VE_CNT_GROUPS n) a.groups
  let s := s.count (Reg.VE_CNT_SLOTS n) (a.groups * o.insts)
  let s := s.count (Reg.VE_CNT_MEMWAIT n) (a.groups * (g - o.insts))
  let s := ((s.veFlagIf n 0 a.nan).veFlagIf n 1 a.inf).veFlagIf n 2 a.invalid
  let s := ((s.veFlagIf n 3 a.divzero).veFlagIf n 4 a.sat).veFlagIf n 5 failed
  match a.err, a.nanAt with
  | some x, _ => endMem s (some x)
  | none, some i => if o.nanstop then done s stVeNan i else endOk s
  | none, none => endOk s

/-! ## VSET (R191) -/

/-- The fields of a VSET. -/
structure VsetFields where
  reg : Nat
  count : Nat
  mode : Nat
  scalar : Nat
  src : Nat
  deriving DecidableEq, Repr

def vsetFields (r : Fetched) : VsetFields :=
  { reg := r.f 8 1, count := r.f 9 1, mode := r.f 0xA 1, scalar := r.f 0xC 4, src := r.f 0x10 8 }

/-- The checks of a VSET. -/
def vsetFail (c : Ctx) (s : State) : Option (State × Phase) :=
  let r := c.item
  let x := vsetFields r
  let len := r.inlineData.length
  match formatFail r (x.mode == 2) [(8, 3), (0xC, 12)]
      [(0xA, decide (x.mode ≤ 2)), (0xC, x.mode == 0 || x.scalar == 0), addrCheck r.bytes 0x10, (0x10, x.mode == 1 || x.src == 0)] with
  | some o => some (endFormat s r.slot o)
  | none =>
    match firstFail [(2, x.mode != 2 || (decide (1 ≤ r.inl) && len % 4 == 0 && decide (len ≤ 512))),
        (8, decide (x.reg ≤ 15)),
        (9, decide (1 ≤ x.count ∧ x.count ≤ 16 ∧ x.reg + x.count ≤ 16) && (x.mode != 2 || x.count == 1)),
        (0x10, x.src % 32 == 0)] with
    | some o => some (done s stVeShape o)
    | none => if x.mode = 1 then (s.rangeBad x.src (512 * x.count)).map (endRange c s) else none

/-- Parameter registers from `reg` on take new lanes. -/
def State.putParams (s : State) (n reg : Nat) (vals : List (List Nat)) : State :=
  s.setVec n { s.vec n with params := (numbered vals).foldl (fun m e => mset zeroLanes m (reg + e.1) e.2) (s.vec n).params }

/-- A VSET that passed its checks. -/
def vsetWork (c : Ctx) (s : State) : State × Phase :=
  let x := vsetFields c.item
  if x.mode = 0 then endOk (s.putParams c.core x.reg (List.replicate x.count (List.replicate 128 x.scalar)))
  else if x.mode = 2 then
    let xs := unpack 2 (c.item.inlineData.length / 4) c.item.inlineData
    endOk (s.putParams c.core x.reg [xs ++ List.replicate (128 - xs.length) 0])
  else
    let (s, rd) := s.readMem (srcCore c.core) x.src (512 * x.count)
    match rd.err with
    | some e => endMem s (some e)
    | none => endOk (s.putParams c.core x.reg ((List.range x.count).map (fun k => unpack 2 128 (slice rd.bytes (512 * k) 512))))

/-- VSET. -/
def runVset (c : Ctx) (s : State) : State × Phase := atUnit c .vec (unitFree .vec) .turn (vsetFail c s) (vsetWork c) s

/-! ## VOP (R192–R195) -/

/-- The type field of operand j: A, B, C. -/
def vopType (r : Fetched) (j : Nat) : Nat :=
  match j with | 0 => r.f 0x2D 1 / 16 | 1 => r.f 0x2E 1 % 16 | _ => r.f 0x2E 1 / 16

def vopTypeOff (j : Nat) : Nat := if j = 0 then 0x2D else 0x2E
def vopKind (r : Fetched) (j : Nat) : Nat := bits (r.f 0x2F 1) (2 * j + 1) (2 * j)
def vopField (r : Fetched) (j : Nat) : Nat := r.f (0x10 + 8 * j) 8

/-- The checks of one operand of a VOP of `n` operands. An operand that the operation does not use and whose kind, type or field is
not zero is a FORMAT error (DESIGN CHOICE, log 104: R192 and R208 name no status for it). -/
def vopOperand (r : Fetched) (n j : Nat) : List Check :=
  let k := vopKind r j
  let t := vopType r j
  let v := vopField r j
  let off := 0x10 + 8 * j
  if n ≤ j then [(0x2F, k == 0), (vopTypeOff j, t == 0), (off, v == 0)]
  else
    match k with
    | 0 => [(vopTypeOff j, streamType t), (off, decide (v < 2 ^ 52))]
    | 1 => [(vopTypeOff j, t == 0), (off, decide (v < 2 ^ 32))]
    | 2 => [(vopTypeOff j, t == 0), (off, decide (v < 16))]
    | _ => [(0x2F, false)]

/-- The destination of a VOP, its element count, its operation, the operands the operation has, and those that are
streams. -/
def vopDst (r : Fetched) : Strm := ⟨r.f 8 8, r.f 0x2D 1 % 16⟩
def vopLen (r : Fetched) : Nat := r.f 0x28 4
def vopOp (r : Fetched) : Nat := r.f 0x2C 1
def vopArity (r : Fetched) : Nat := if 1 ≤ vopOp r ∧ vopOp r ≤ 0x0F then emArity (vopOp r) else 0
def vopStreams (r : Fetched) : List Nat := (List.range (vopArity r)).filter (fun j => vopKind r j == 0)
def vopIns (r : Fetched) : List Strm := (vopStreams r).map (fun j => ⟨vopField r j, vopType r j⟩)
def vopPacked (r : Fetched) : Bool := bit (r.f 0x30 1) 2

/-- The checks of a VOP. -/
def vopFail (c : Ctx) (s : State) : Option (State × Phase) :=
  let r := c.item
  let dst := vopDst r
  let l := vopLen r
  let n := vopArity r
  match formatFail r false [(8, 0x29)]
      ([addrCheck r.bytes 8, (0x2C, decide (1 ≤ vopOp r ∧ vopOp r ≤ 0x0F)), (0x2D, streamType dst.ty),
        (0x2F, decide (r.f 0x2F 1 < 64)), (0x30, decide (r.f 0x30 1 < 16))]
        ++ (if n = 0 then [] else (List.range 3).flatMap (vopOperand r n))) with
  | some o => some (endFormat s r.slot o)
  | none =>
    let strs := vopStreams r
    let clash := overlapBad (vopIns r) [dst] l
    let basic := [(0x28, decide (1 ≤ l ∧ l ≤ 2 ^ 24)), (8, dst.addr % 32 == 0)]
      ++ strs.map (fun j => (0x10 + 8 * j, vopField r j % 32 == 0))
      ++ (if vopPacked r then [(0x2D, dst.ty == 0), (0x2F, (List.range n).all (fun j => vopKind r j != 2))]
            ++ strs.map (fun j => (vopTypeOff j, vopType r j == 0)) else [])
    match firstFail (basic ++ [(8, clash != [true])]) with
    | some o => some (done s stVeShape o)
    | none => (firstOutside c.core ((dst :: vopIns r).map (fun x => (x.addr, x.len l)))).map (endPlace c s stVePlace)

/-- Element i of a VOP from the values of its streams (R192–R194). -/
def vopElem (r : Fetched) (params : SMap (List Nat)) (i : Nat) (vs : List Nat) : ElRes :=
  let pk := vopPacked r
  let val (j : Nat) : Nat :=
    if vopArity r ≤ j then 0
    else
      match vopKind r j with
      | 0 => vs.getD (((vopStreams r).idxOf? j).getD 0) 0
      | 1 => if pk then encodeFp fmtBf16 (ofF32 (vopField r j)) else vopField r j
      | _ => (mget zeroLanes params (vopField r j)).getD (i % 128) 0
  let x := emNative (if pk then fmtBf16 else fmtF32) (vopOp r) (val 0) (val 1) (val 2)
  { outs := [x.val], invalid := x.invalid, divzero := x.divzero }

/-- A VOP that passed its checks. -/
def vopWork (c : Ctx) (s : State) : State × Phase :=
  let r := c.item
  let fl := r.f 0x30 1
  elementwise c s { packed := vopPacked r, sat := bit fl 0, trunc := bit fl 1, nanstop := bit fl 3 } (vopIns r) [vopDst r]
    (vopLen r) (vopElem r (s.vec c.core).params)

/-- VOP. -/
def runVop (c : Ctx) (s : State) : State × Phase := atUnit c .vec (unitFree .vec) .turn (vopFail c s) (vopWork c) s

/-! ## EMRUN (R203) -/

def emrunLen (r : Fetched) : Nat := r.f 0x30 4
def emrunSlot (r : Fetched) : Nat := r.f 0x34 1
def emrunField (r : Fetched) (j : Nat) : Nat := r.f (8 + 8 * j) 8
def emrunType (r : Fetched) (j : Nat) : Nat :=
  match j with
  | 0 => r.f 0x35 1 % 16
  | 1 => r.f 0x35 1 / 16
  | 2 => r.f 0x36 1 % 16
  | 3 => r.f 0x36 1 / 16
  | _ => r.f 0x37 1 % 16

/-- The streams 0 to 2 that a program reads and 3 and 4 that it writes. -/
def emUsed (p : List Byte) (j : Nat) : Bool := if j < 3 then decide (j < emNin p) else decide (j - 3 < emNout p)
def emrunStreams (r : Fetched) (p : List Byte) (js : List Nat) : List Strm :=
  (js.filter (emUsed p)).map (fun j => ⟨emrunField r j, emrunType r j⟩)

/-- The checks of an EMRUN. -/
def emrunFail (c : Ctx) (s : State) : Option (State × Phase) :=
  let r := c.item
  let l := emrunLen r
  let slot := emrunSlot r
  let fld := emrunField r
  let ty := emrunType r
  let tyOff (j : Nat) : Nat := 0x35 + j / 2
  match formatFail r false [(8, 0x31)]
      ((List.range 5).map (fun j => addrCheck r.bytes (8 + 8 * j)) ++ (List.range 5).map (fun j => (tyOff j, streamType (ty j)))
        ++ [(0x34, decide (slot < 16)), (0x37, decide (r.f 0x37 1 < 16)), (0x38, decide (r.f 0x38 1 < 8))]) with
  | some o => some (endFormat s r.slot o)
  | none =>
    let p := s.emSlot c.core slot
    if p = [] then some (done s stEmberEmpty slot)
    else if 1 < emKind p then some (done s stEmberKind (slot + emKind p * 16))
    else
      let ins := emrunStreams r p [0, 1, 2]
      let outs := emrunStreams r p [3, 4]
      let basic := (0x30, decide (1 ≤ l ∧ l ≤ 2 ^ 24)) :: (List.range 5).flatMap (fun j =>
        if emUsed p j then [(8 + 8 * j, fld j != 0 && fld j % 32 == 0), (tyOff j, !emPacked p || ty j == 0)]
        else [(8 + 8 * j, fld j == 0), (tyOff j, ty j == 0)])
      let clash := overlapBad ins outs l
      match firstFail (basic ++ (numbered clash).map (fun e => (0x20 + 8 * e.1, !e.2))) with
      | some o => some (done s stVeShape o)
      | none => (firstOutside c.core ((ins ++ outs).map (fun x => (x.addr, x.len l)))).map (endPlace c s stVePlace)

/-- Element i of an EMRUN from the values of its streams. -/
def emrunElem (p : List Byte) (params : SMap (List Nat)) (i : Nat) (vs : List Nat) : ElRes :=
  let x := emRunElem p params i vs
  { outs := [x.t.getD (emOut p 0) 0, x.t.getD (emOut p 1) 0], invalid := x.invalid, divzero := x.divzero, temps := x.t }

/-- An EMRUN that passed its checks. -/
def emrunWork (c : Ctx) (s : State) : State × Phase :=
  let r := c.item
  let p := s.emSlot c.core (emrunSlot r)
  let fl := r.f 0x38 1
  elementwise c s { packed := emPacked p, sat := bit fl 0, trunc := bit fl 1, nanstop := bit fl 2, insts := emNinst p }
    (emrunStreams r p [0, 1, 2]) (emrunStreams r p [3, 4]) (emrunLen r) (emrunElem p (s.vec c.core).params)

/-- EMRUN. -/
def runEmrun (c : Ctx) (s : State) : State × Phase := atUnit c .vec (unitFree .vec) .turn (emrunFail c s) (emrunWork c) s

/-! ## VREDUCE (R204) -/

/-- One segment's terms reduced, and whether an addition gave NaN from operands none of which was NaN (R205): the terms
before the first NaN, which no later addition can undo, sum to one. -/
def vreduceSeg (op : Nat) (sq : Bool) (xs : List Nat) : RedRes × Bool :=
  let ys := if sq then xs.map (fun x => f32mul x x) else xs
  (reduceF32 op ys, op < 3 && (reduceF32 op (ys.takeWhile (fun w => !f32isNan w))).nan)

/-- The result of a segment that a memory error affects (R207). -/
def vreducePoison (op : Nat) : RedRes :=
  match op with
  | 0 | 2 => .plain canonNan
  | 1 => .pair canonNan 0
  | _ => .best canonNan 0xFFFFFFFF

/-- The fields of a VREDUCE. -/
structure VredFields where
  src : Strm
  dst : Nat
  l : Nat
  seg : Nat
  op : Nat
  deriving DecidableEq, Repr

def vredFields (r : Fetched) : VredFields :=
  { src := ⟨r.f 8 8, r.f 0x21 1⟩, dst := r.f 0x10 8, l := r.f 0x18 4, seg := r.f 0x1C 4, op := r.f 0x20 1 }

/-- Segments of a VREDUCE. -/
def VredFields.nseg (x : VredFields) : Nat := (x.l + x.seg - 1) / x.seg

/-- The checks of a VREDUCE. -/
def vreduceFail (c : Ctx) (s : State) : Option (State × Phase) :=
  let r := c.item
  let x := vredFields r
  match formatFail r false [(8, 0x1B)]
      [addrCheck r.bytes 8, addrCheck r.bytes 0x10, (0x20, decide (x.op ≤ 4)), (0x21, streamType x.src.ty),
       (0x22, decide (r.f 0x22 1 < 2))] with
  | some o => some (endFormat s r.slot o)
  | none =>
    match firstFail [(8, x.src.addr % 32 == 0), (0x10, x.dst % 32 == 0), (0x18, decide (1 ≤ x.l ∧ x.l ≤ 2 ^ 24)),
        (0x1C, decide (1 ≤ x.seg ∧ x.seg ≤ x.l)), (0x21, x.src.ty != 0xD)] with
    | some o => some (done s stVeShape o)
    | none => (firstOutside c.core [(x.src.addr, x.src.len x.l), (x.dst, x.nseg * redBytes x.op)]).map (endPlace c s stVePlace)

/-- A VREDUCE that passed its checks. -/
def vreduceWork (c : Ctx) (s : State) : State × Phase :=
  let x := vredFields c.item
  let n := c.core
  let (s, rd) := s.readMem (srcCore n) x.src.addr (x.src.len x.l)
  let first := (List.range x.l).find? (elemBad rd.bad x.src.addr (srcBytes x.src.ty))
  let xs := (unpack x.src.ty x.l rd.bytes).map (veIn false x.src.ty)
  let last := match first with | some i => i / x.seg | none => x.nseg
  let good := (List.range last).map (fun j => vreduceSeg x.op (c.item.f 0x22 1 == 1) ((xs.drop (j * x.seg)).take x.seg))
  let res := good.map (·.1) ++ (if first.isSome then [vreducePoison x.op] else [])
  let (s, w) := s.writeMem (srcCore n) x.dst (res.flatMap RedRes.bytes)
  let s := (s.veFlagIf n 0 (res.any (·.nan))).veFlagIf n 1 (res.any (·.inf))
  let s := (s.veFlagIf n 2 (good.any (·.2))).veFlagIf n 5 first.isSome
  endMem s (rd.err.orElse (fun _ => w))

/-- VREDUCE. -/
def runVreduce (c : Ctx) (s : State) : State × Phase := atUnit c .vec (unitFree .vec) .turn (vreduceFail c s) (vreduceWork c) s

/-! ## EMLOAD (R201, R202) -/

/-- Load a program that has been read, or report what is wrong with it (R199, R201, R208). -/
def emLoad (c : Ctx) (s : State) (slot : Nat) (p : List Byte) : State × Phase :=
  if emKind p = 2 then done s stEmberKind (slot + 2 * 16)
  else
    match emFail p with
    | some o => done s stEmberFormat o
    | none =>
      endOk (s.setVec c.core { s.vec c.core with slots := mset [] (s.vec c.core).slots slot p })

/-- EMLOAD but for its wait on a TSTORE. -/
def emloadBody (c : Ctx) (s : State) : State × Phase :=
  let r := c.item
  let src := r.f 8 8
  let slot := r.f 0x10 1
  let len := r.f 0x12 2
  match firstFail [(8, src % 32 == 0 && (if 1 ≤ r.inl then src == 0 else src != 0)),
      (0x12, decide (84 ≤ len ∧ len ≤ 336) && (r.inl == 0 || len == r.inlineData.length))] with
  | some o => done s stVeShape o
  | none =>
    if 1 ≤ r.inl then emLoad c s slot r.inlineData
    else
      match s.rangeBad src len with
      | some b => endRange c s b
      | none =>
        let (s, rd) := s.readMem (srcCore c.core) src len
        match rd.err with
        | some e => endMem s (some e)
        | none => emLoad c s slot rd.bytes

/-- Check 1 of an EMLOAD. -/
def emloadFail (c : Ctx) (s : State) : Option (State × Phase) :=
  let r := c.item
  (formatFail r true [(8, 9), (0x12, 2)] [addrCheck r.bytes 8, (0x10, decide (r.f 0x10 1 < 16))]).map (endFormat s r.slot)

/-- Whether an earlier-issued TSTORE that names an ember slot is unfinished (R202). -/
def slotNamed (slot : Option Nat) (before : List MxOp) : Bool := slot.isSome && before.any (fun o => o.kind == .acc && o.ember == slot)

/-- EMLOAD: it waits while an earlier-issued TSTORE that names its slot is unfinished (R202). -/
def runEmload (c : Ctx) (s : State) : State × Phase :=
  atUnit c .vec (fun before => unitFree .vec before && !slotNamed (some (c.item.f 0x10 1)) before)
    .slotHold (emloadFail c s) (emloadBody c) s

/-! ## Status -/

/-- VE_STATUS: the record in flight is one that waits for memory; SLOT_HOLD tells that an EMLOAD waits for a TSTORE. -/
def State.veStatus (s : State) (n : Nat) : Word :=
  let flight := s.queues.findSome? (fun e => e.2.issued.find? (fun i => i.item.core == n &&
    decide (0x30 ≤ i.item.op ∧ i.item.op ≤ 0x34) && i.phase == .parked .memory))
  let ops := (s.mat n).ops
  let hold := ops.any (fun o => o.kind == .vec && s.opWaits o && slotNamed o.ember (opsBefore o.q o.num ops))
  BitVec.ofNat 64 ((match flight with | some i => i.item.op * 256 + 1 | none => 0) + (if hold then 2 else 0))

/-- VE_SLOTS. -/
def State.veSlots (s : State) (n : Nat) : Word :=
  BitVec.ofNat 64 (((s.vec n).slots.map (fun e => 2 ^ e.1)).sum)

/-- VE_SLOT_INFO. -/
def State.veSlotInfo (s : State) (n k : Nat) : Word :=
  let p := s.emSlot n k
  if p = [] then 0
  else BitVec.ofNat 64 (emNinst p * 2 ^ 16 + (if emPacked p then 64 else 0) + emNout p * 16 + emNin p * 4 + emKind p)

end Sys2Proof.Machine
end

