-- ==== Sys2Proof/Machine/Attn.lean ====
section
/-! DEFINITION. The attention unit's own records (07_attention_kv_ranker.md): ACTX, ASOFT, AFOLD, ADELTA, ABACK, and the
probabilities that KVMASS shares with ABACK. -/

namespace Sys2Proof.Machine

def stAttShape : Nat := 0x50
def stAttPlace : Nat := 0x51
def stAttContext : Nat := 0x52
def stKvUnmapped : Nat := 0x53
def stKvFull : Nat := 0x54
def stKvWalkTimeout : Nat := 0x55
def stKvPool : Nat := 0x56
def stKvOrder : Nat := 0x57

/-- Set an ATT_EVENT flag: 0 ROW_EMPTY, 1 ROW_NAN, 2 ROW_INF, 3 RANK_NAN, 4 POISON. -/
def State.attFlag (s : State) (n i : Nat) : State :=
  if i < 4 then s.raise (Reg.ATT_EVENT n) i (Reg.ATT_EVENT_CNT0 n) (16 * i)
  else s.raise (Reg.ATT_EVENT n) i (Reg.ATT_EVENT_CNT1 n) 0

def State.attFlagIf (s : State) (n i : Nat) (b : Bool) : State := if b then s.attFlag n i else s

/-- A record ends on a memory error of its own (R252). -/
def endAttMem (c : Ctx) (s : State) (err : Option (Nat × Nat)) : State × Phase :=
  match err with
  | none => endOk s
  | some _ => endMem (s.attFlag c.core 4) err

/-! ## The context (R214) -/

/-- The FP32 value nearest log2 e. -/
def log2e : Nat := 0x3FB8AA3B

def State.attContext (s : State) (n : Nat) : Option AttCtx := mget none s.attCtx n

/-- The checks of an ACTX (R214). -/
def actxFail (c : Ctx) (s : State) : Option (State × Phase) :=
  let r := c.item
  let x := ofF32 (r.f 8 4)
  match formatFail r false [(8, 11)]
      [(0x10, decide (r.f 0x10 1 < 8)), (0x11, [0, 1, 4, 5].contains (r.f 0x11 1)), (0x12, decide (r.f 0x12 1 ≤ 2))] with
  | some o => some (endFormat s r.slot o)
  | none => if x.isNan || x.isInf || x.isZero || x.sign then some (done s stAttShape 8) else none

/-- The context that an ACTX sets. -/
def actxOf (r : Fetched) : AttCtx :=
  { scale := r.f 8 4, c := f32mul (r.f 8 4) log2e, win := r.f 0xC 4, mode := r.f 0x10 1, ptype := r.f 0x11 1, dtype := r.f 0x12 1 }

/-- An ACTX that passed its checks. -/
def actxWork (c : Ctx) (s : State) : State × Phase :=
  endOk { s with attCtx := mset none s.attCtx c.core (some (actxOf c.item)) }

/-- ACTX. -/
def runActx (c : Ctx) (s : State) : State × Phase := atUnit c .att (unitFree .att) .turn (actxFail c s) (actxWork c) s

/-! ## Layouts and masks (R215, R216) -/

def ceilDiv (a b : Nat) : Nat := (a + b - 1) / b

/-- Row strides: of FP32 blocks, of packed blocks, and of the mask bitmap. -/
def strideF32 (cols : Nat) : Nat := 32 * ceilDiv cols 8
def stridePacked (cols size : Nat) : Nat := 32 * ceilDiv (cols * size) 32
def strideMask (mode cols : Nat) : Nat := if bit mode 2 then 0 else 32 * ceilDiv cols 256

/-- Whether entry (qp, kp) is masked; `b` is its bitmap bit. -/
def masked (x : AttCtx) (qp kp : Nat) (b : Bool) : Bool :=
  (bit x.mode 0 && decide (qp < kp)) || (x.win != 0 && decide (kp ≤ qp ∧ x.win ≤ qp - kp)) || (bit x.mode 1 && !b)

/-- Bit j of a bitmap row. -/
def rowBit (b : List Byte) (j : Nat) : Bool := bit (leAt b (j / 8) 1) (j % 8)

/-- Which columns of row i are masked; `bm` is its bitmap row. -/
def maskRow (x : AttCtx) (qpos kpos cols i : Nat) (bm : List Byte) : List Bool :=
  (List.range cols).map (fun j => masked x (qpos + i) (kpos + j) (rowBit bm j))

/-! ## Sums (R218) -/

/-- One level of the tree. -/
def treeLevel : List Nat → List Nat
  | a :: b :: r => f32add a b :: treeLevel r
  | l => l

/-- The tree sum of one group of at most 128 values, padded with +0. -/
def treeSum (g : List Nat) : Nat :=
  (((treeLevel (treeLevel (treeLevel (treeLevel (treeLevel (treeLevel (treeLevel (g ++ List.replicate (128 - g.length) 0)))))))).headD 0))

/-- The block sum BSUM. -/
def bsum (vs : List Nat) : Nat := pairFold (sumPair ((cut 128 (vs.length / 128 + 1) vs).map treeSum))

/-- EXP2 of R197. -/
def exp2 (w : Nat) : Nat := (emExt 0x14 w 0).val

/-- An FP32 pattern narrowed to a float type, to nearest with SAT clear (R170). -/
def narrowTo (t w : Nat) : Nat := (narrowOut t false false w).code

/-- A code widened to FP32. -/
def widen (t code : Nat) : Nat := if t = 2 then code else toF32 (elemVal t code)

/-! ## Statistics (R217) -/

structure RowStat where
  m : Nat
  l : Nat
  aux : Nat
  nan : Bool
  deriving DecidableEq, Repr

def statOf (b : List Byte) : RowStat := { m := leAt b 0 4, l := leAt b 4 4, aux := leAt b 8 4, nan := bit (leAt b 12 4) 0 }

def RowStat.bytes (x : RowStat) : List Byte := toLe 4 x.m ++ toLe 4 x.l ++ toLe 4 x.aux ++ toLe 4 (if x.nan then 1 else 0)

def nanStat : RowStat := { m := canonNan, l := canonNan, aux := canonNan, nan := true }

/-! ## ASOFT (R219, R220) -/

/-- The larger and smaller value under the order of R175. -/
def maxR175 (a b : Nat) : Nat := if (ofF32 a).lt (ofF32 b) then b else a

def negInf : Nat := 0xFF800000
def posInf : Nat := 0x7F800000
def oneF32 : Nat := 0x3F800000

/-- What one row of ASOFT gives: its probabilities as codes of PTYPE, its statistics, and whether it became NaN or its
maximum became +Inf. -/
structure SoftRow where
  p : List Nat
  stat : RowStat
  newNan : Bool := false
  newInf : Bool := false
  deriving DecidableEq, Repr

def softRow (x : AttCtx) (st : RowStat) (mask : List Bool) (scores : List Nat) : SoftRow :=
  let xs := scores.map (fun w => f32mul w x.c)
  let live := List.zipWith (fun w k => (w, !k)) xs mask
  let used := (live.filter (·.2)).map (·.1)
  if st.nan || used.any f32isNan then
    { p := scores.map (fun _ => narrowTo x.ptype canonNan), stat := nanStat, newNan := !st.nan }
  else
    let b := used.foldl maxR175 negInf
    let m := maxR175 st.m b
    let (alpha, ps) :=
      if m = negInf then (oneF32, live.map (fun _ => 0))
      else if m = posInf then
        (if st.m = posInf then oneF32 else 0, live.map (fun e => if e.2 && e.1 == posInf then oneF32 else 0))
      else (exp2 (f32sub st.m m), live.map (fun e => if e.2 then exp2 (f32sub e.1 m) else 0))
    let q := ps.map (narrowTo x.ptype)
    let l := f32add (f32mul st.l alpha) (bsum (q.map (widen x.ptype)))
    { p := q, stat := { m, l, aux := alpha, nan := false }, newInf := m == posInf && st.m != posInf }

/-- The first failing of some reads. -/
def firstErr (rs : List Rd) : Option (Nat × Nat) := rs.findSome? (·.err)

/-- What a record that writes rows has done: its writes' first failure. -/
structure RowAcc where
  s : State
  werr : Option (Nat × Nat) := none

def RowAcc.write (a : RowAcc) (core addr : Nat) (b : List Byte) : RowAcc :=
  let (s, e) := a.s.writeMem (srcCore core) addr b
  { s, werr := a.werr.orElse (fun _ => e) }

/-- Rows of a record, from row i on, until one fails to read. -/
def attRows (c : Ctx) (row : Nat → RowAcc → RowAcc × Option (Nat × Nat)) : Nat → Nat → RowAcc → State × Phase
  | 0, _, a => endMem a.s a.werr
  | left + 1, i, a =>
    match row i a with
    | (a, some e) => endAttMem c a.s (some e)
    | (a, none) => attRows c row left (i + 1) a

/-- Where a bitmap row lies; an empty range where the context has no bitmap. -/
def maskLen (x : AttCtx) (cols : Nat) : Nat := if bit x.mode 1 then ceilDiv cols 8 else 0

/-- Fields of an ASOFT. -/
structure AsoftFields where
  sa : Nat
  pa : Nat
  ta : Nat
  ba : Nat
  qpos : Nat
  kpos : Nat
  rows : Nat
  cols : Nat
  first : Bool
  deriving DecidableEq, Repr

def asoftFields (r : Fetched) : AsoftFields :=
  { sa := r.f 8 8, pa := r.f 0x10 8, ta := r.f 0x18 8, ba := r.f 0x20 8, qpos := r.f 0x28 4, kpos := r.f 0x2C 4,
    rows := r.f 0x30 2, cols := r.f 0x32 2, first := r.f 0x34 1 == 1 }

/-- The checks of an ASOFT (R219, R220). -/
def asoftFail (c : Ctx) (s : State) : Option (State × Phase) :=
  let r := c.item
  let y := asoftFields r
  match formatFail r false [(8, 0x2D)]
      [addrCheck r.bytes 8, addrCheck r.bytes 0x10, addrCheck r.bytes 0x18, addrCheck r.bytes 0x20, (0x34, decide (r.f 0x34 1 < 2))] with
  | some o => some (endFormat s r.slot o)
  | none =>
    match s.attContext c.core with
    | none => some (done s stAttContext 0)
    | some x =>
      match firstFail [(8, y.sa % 32 == 0), (0x10, y.pa % 32 == 0), (0x18, y.ta % 16 == 0),
          (0x20, (bit x.mode 1 == (y.ba != 0)) && y.ba % 32 == 0), (0x30, decide (1 ≤ y.rows ∧ y.rows ≤ 256)),
          (0x32, decide (1 ≤ y.cols ∧ y.cols ≤ 2048))] with
      | some o => some (done s stAttShape o)
      | none =>
        let size := srcBytes x.ptype
        (firstOutside c.core (rowRanges y.sa (strideF32 y.cols) (4 * y.cols) y.rows
            ++ rowRanges y.pa (stridePacked y.cols size) (y.cols * size) y.rows
            ++ [(y.ta, 16 * y.rows)] ++ rowRanges y.ba (strideMask x.mode y.cols) (maskLen x y.cols) y.rows)).map
          (endPlace c s stAttPlace)

/-- One row of an ASOFT. -/
def asoftRow (c : Ctx) (x : AttCtx) (i : Nat) (a : RowAcc) : RowAcc × Option (Nat × Nat) :=
  let y := asoftFields c.item
  let (s, rs) := a.s.readMem (srcCore c.core) (y.sa + i * strideF32 y.cols) (4 * y.cols)
  let (s, rt) := if y.first then (s, ⟨[], [], none⟩) else s.readMem (srcCore c.core) (y.ta + 16 * i) 16
  let (s, rb) := s.readMem (srcCore c.core) (y.ba + i * strideMask x.mode y.cols) (maskLen x y.cols)
  let err := firstErr [rs, rt, rb]
  let st : RowStat := if y.first then { m := negInf, l := 0, aux := 0, nan := false } else statOf rt.bytes
  let res := if err.isSome then
      ({ p := List.replicate y.cols (narrowTo x.ptype canonNan), stat := nanStat } : SoftRow)
    else softRow x st (maskRow x y.qpos y.kpos y.cols i rb.bytes) (unpack 2 y.cols rs.bytes)
  let s := (s.attFlagIf c.core 1 res.newNan).attFlagIf c.core 2 res.newInf
  let a := { a with s := s }
  ((a.write c.core (y.pa + i * stridePacked y.cols (srcBytes x.ptype)) (pack x.ptype res.p)).write c.core (y.ta + 16 * i)
    res.stat.bytes, err)

/-- An ASOFT that passed its checks. -/
def asoftWork (c : Ctx) (s : State) : State × Phase :=
  attRows c (asoftRow c ((s.attContext c.core).getD {})) (asoftFields c.item).rows 0 { s }

/-- ASOFT. -/
def runAsoft (c : Ctx) (s : State) : State × Phase := atUnit c .att (unitFree .att) .turn (asoftFail c s) (asoftWork c) s

/-! ## AFOLD (R221) -/

/-- Fields of an AFOLD. -/
structure AfoldFields where
  oa : Nat
  va : Nat
  ta : Nat
  ua : Nat
  rows : Nat
  d : Nat
  ot : Nat
  fl : Nat
  deriving DecidableEq, Repr

def afoldFields (r : Fetched) : AfoldFields :=
  { oa := r.f 8 8, va := r.f 0x10 8, ta := r.f 0x18 8, ua := r.f 0x20 8, rows := r.f 0x28 2, d := r.f 0x2A 2,
    ot := r.f 0x2C 1, fl := r.f 0x2D 1 }

/-- The checks of an AFOLD (R221). -/
def afoldFail (c : Ctx) (s : State) : Option (State × Phase) :=
  let r := c.item
  let y := afoldFields r
  match formatFail r false [(8, 0x26)]
      [addrCheck r.bytes 8, addrCheck r.bytes 0x10, addrCheck r.bytes 0x18, addrCheck r.bytes 0x20,
       (0x2C, [0, 1, 2, 4, 5].contains y.ot), (0x2D, decide (y.fl < 16))] with
  | some o => some (endFormat s r.slot o)
  | none =>
    match firstFail [(8, y.oa % 32 == 0), (0x10, y.va % 32 == 0), (0x18, y.ta % 16 == 0),
        (0x20, if bit y.fl 1 then y.ua % 32 == 0 else y.ua == 0), (0x28, decide (1 ≤ y.rows ∧ y.rows ≤ 256)),
        (0x2A, decide (1 ≤ y.d ∧ y.d ≤ 512))] with
    | some o => some (done s stAttShape o)
    | none =>
      let size := srcBytes y.ot
      (firstOutside c.core (rowRanges y.oa (strideF32 y.d) (4 * y.d) y.rows ++ rowRanges y.va (strideF32 y.d) (4 * y.d) y.rows
          ++ [(y.ta, 16 * y.rows)] ++ (if bit y.fl 1 then rowRanges y.ua (stridePacked y.d size) (y.d * size) y.rows else []))).map
        (endPlace c s stAttPlace)

/-- One row of an AFOLD. -/
def afoldRow (c : Ctx) (i : Nat) (a : RowAcc) : RowAcc × Option (Nat × Nat) :=
  let y := afoldFields c.item
  let os := strideF32 y.d
  let (s, rv) := a.s.readMem (srcCore c.core) (y.va + i * os) (4 * y.d)
  let (s, ro) := if bit y.fl 0 then (s, ⟨[], [], none⟩) else s.readMem (srcCore c.core) (y.oa + i * os) (4 * y.d)
  let (s, rt) := s.readMem (srcCore c.core) (y.ta + 16 * i) 16
  let err := firstErr [rv, ro, rt]
  let st := statOf rt.bytes
  let pv := unpack 2 y.d rv.bytes
  let o := if err.isSome then List.replicate y.d canonNan
    else if bit y.fl 0 then pv
    else List.zipWith (fun o v => f32add (f32mul st.aux o) v) (unpack 2 y.d ro.bytes) pv
  let q := if err.isSome || st.nan then List.replicate y.d canonNan
    else if st.l = 0 then List.replicate y.d 0
    else o.map (fun w => f32div w st.l)
  let empty := bit y.fl 1 && err.isNone && st.l == 0
  let s := s.attFlagIf c.core 0 empty
  let s := if empty then s.count (Reg.ATT_CNT_EMPTY c.core) 1 else s
  let a := ({ a with s := s } : RowAcc).write c.core (y.oa + i * os) (pack 2 o)
  let a := if bit y.fl 1 then
      a.write c.core (y.ua + i * stridePacked y.d (srcBytes y.ot))
        (pack y.ot (q.map (fun w => (narrowOut y.ot (bit y.fl 3) (bit y.fl 2) w).code)))
    else a
  (if err.isSome then a.write c.core (y.ta + 16 * i + 12) (toLe 4 1) else a, err)

/-- An AFOLD that passed its checks. -/
def afoldWork (c : Ctx) (s : State) : State × Phase := attRows c (afoldRow c) (afoldFields c.item).rows 0 { s }

/-- AFOLD. -/
def runAfold (c : Ctx) (s : State) : State × Phase := atUnit c .att (unitFree .att) .turn (afoldFail c s) (afoldWork c) s

/-! ## ADELTA (R222) -/

/-- Fields of an ADELTA. -/
structure AdeltaFields where
  ga : Nat
  oa : Nat
  ta : Nat
  rows : Nat
  d : Nat
  gt : Nat
  ot : Nat
  deriving DecidableEq, Repr

def adeltaFields (r : Fetched) : AdeltaFields :=
  { ga := r.f 8 8, oa := r.f 0x10 8, ta := r.f 0x18 8, rows := r.f 0x20 2, d := r.f 0x22 2,
    gt := r.f 0x24 1 % 16, ot := r.f 0x24 1 / 16 }

/-- The checks of an ADELTA (R222). -/
def adeltaFail (c : Ctx) (s : State) : Option (State × Phase) :=
  let r := c.item
  let y := adeltaFields r
  match formatFail r false [(8, 0x1D)]
      [addrCheck r.bytes 8, addrCheck r.bytes 0x10, addrCheck r.bytes 0x18, (0x24, decide (y.gt ≤ 2 ∧ y.ot ≤ 2))] with
  | some o => some (endFormat s r.slot o)
  | none =>
    match firstFail [(8, y.ga % 32 == 0), (0x10, y.oa % 32 == 0), (0x18, y.ta % 16 == 0),
        (0x20, decide (1 ≤ y.rows ∧ y.rows ≤ 256)), (0x22, decide (1 ≤ y.d ∧ y.d ≤ 512))] with
    | some o => some (done s stAttShape o)
    | none =>
      (firstOutside c.core (rowRanges y.ga (stridePacked y.d (srcBytes y.gt)) (y.d * srcBytes y.gt) y.rows
          ++ rowRanges y.oa (stridePacked y.d (srcBytes y.ot)) (y.d * srcBytes y.ot) y.rows ++ [(y.ta, 16 * y.rows)])).map
        (endPlace c s stAttPlace)

/-- One row of an ADELTA. -/
def adeltaRow (c : Ctx) (i : Nat) (a : RowAcc) : RowAcc × Option (Nat × Nat) :=
  let y := adeltaFields c.item
  let (s, rg) := a.s.readMem (srcCore c.core) (y.ga + i * stridePacked y.d (srcBytes y.gt)) (y.d * srcBytes y.gt)
  let (s, ro) := s.readMem (srcCore c.core) (y.oa + i * stridePacked y.d (srcBytes y.ot)) (y.d * srcBytes y.ot)
  let err := firstErr [rg, ro]
  let v := if err.isSome then canonNan
    else bsum (List.zipWith f32mul ((unpack y.gt y.d rg.bytes).map (widen y.gt)) ((unpack y.ot y.d ro.bytes).map (widen y.ot)))
  let a := ({ a with s := s } : RowAcc).write c.core (y.ta + 16 * i + 8) (toLe 4 v)
  (if err.isSome then a.write c.core (y.ta + 16 * i + 12) (toLe 4 1) else a, err)

/-- An ADELTA that passed its checks. -/
def adeltaWork (c : Ctx) (s : State) : State × Phase := attRows c (adeltaRow c) (adeltaFields c.item).rows 0 { s }

/-- ADELTA. -/
def runAdelta (c : Ctx) (s : State) : State × Phase := atUnit c .att (unitFree .att) .turn (adeltaFail c s) (adeltaWork c) s

/-! ## ABACK (R223) -/

/-- P of one unmasked entry of a row that is neither NaN nor empty, as FP32. -/
def backP (x : AttCtx) (st : RowStat) (score : Nat) : Nat :=
  let v := f32mul score x.c
  let q := if st.m = posInf then (if v = posInf then oneF32 else 0)
    else widen x.ptype (narrowTo x.ptype (exp2 (f32sub v st.m)))
  f32div q st.l

/-- P and G of one entry. -/
def backEntry (x : AttCtx) (st : RowStat) (mask : Bool) (score dp : Nat) : Nat × Nat :=
  if st.nan then (canonNan, canonNan)
  else if mask || st.l == 0 then (0, 0)
  else
    let p := backP x st score
    (p, f32mul x.scale (f32mul p (f32sub dp st.aux)))

/-- Fields of an ABACK. -/
structure AbackFields where
  sa : Nat
  da : Nat
  ta : Nat
  pa : Nat
  ba : Nat
  qpos : Nat
  kpos : Nat
  rows : Nat
  cols : Nat
  deriving DecidableEq, Repr

def abackFields (r : Fetched) : AbackFields :=
  { sa := r.f 8 8, da := r.f 0x10 8, ta := r.f 0x18 8, pa := r.f 0x20 8, ba := r.f 0x28 8, qpos := r.f 0x30 4,
    kpos := r.f 0x34 4, rows := r.f 0x38 2, cols := r.f 0x3A 2 }

/-- The checks of an ABACK (R223). -/
def abackFail (c : Ctx) (s : State) : Option (State × Phase) :=
  let r := c.item
  let y := abackFields r
  match formatFail r false [(8, 0x34)]
      [addrCheck r.bytes 8, addrCheck r.bytes 0x10, addrCheck r.bytes 0x18, addrCheck r.bytes 0x20, addrCheck r.bytes 0x28] with
  | some o => some (endFormat s r.slot o)
  | none =>
    match s.attContext c.core with
    | none => some (done s stAttContext 0)
    | some x =>
      match firstFail [(8, y.sa % 32 == 0), (0x10, y.da % 32 == 0), (0x18, y.ta % 16 == 0), (0x20, y.pa % 32 == 0),
          (0x28, (bit x.mode 1 == (y.ba != 0)) && y.ba % 32 == 0), (0x38, decide (1 ≤ y.rows ∧ y.rows ≤ 256)),
          (0x3A, decide (1 ≤ y.cols ∧ y.cols ≤ 2048))] with
      | some o => some (done s stAttShape o)
      | none =>
        let size := srcBytes x.ptype
        let ss := strideF32 y.cols
        (firstOutside c.core (rowRanges y.sa ss (4 * y.cols) y.rows ++ rowRanges y.da ss (4 * y.cols) y.rows
            ++ [(y.ta, 16 * y.rows)] ++ (if y.pa = 0 then [] else rowRanges y.pa (stridePacked y.cols size) (y.cols * size) y.rows)
            ++ rowRanges y.ba (strideMask x.mode y.cols) (maskLen x y.cols) y.rows)).map (endPlace c s stAttPlace)

/-- One row of an ABACK. -/
def abackRow (c : Ctx) (x : AttCtx) (i : Nat) (a : RowAcc) : RowAcc × Option (Nat × Nat) :=
  let y := abackFields c.item
  let ss := strideF32 y.cols
  let (s, rs) := a.s.readMem (srcCore c.core) (y.sa + i * ss) (4 * y.cols)
  let (s, rd) := s.readMem (srcCore c.core) (y.da + i * ss) (4 * y.cols)
  let (s, rt) := s.readMem (srcCore c.core) (y.ta + 16 * i) 16
  let (s, rb) := s.readMem (srcCore c.core) (y.ba + i * strideMask x.mode y.cols) (maskLen x y.cols)
  let err := firstErr [rs, rd, rt, rb]
  let st := statOf rt.bytes
  let mask := maskRow x y.qpos y.kpos y.cols i rb.bytes
  let es := if err.isSome then List.replicate y.cols (canonNan, canonNan)
    else List.zipWith (fun (e : Nat × Nat) m => backEntry x st m e.1 e.2)
      (List.zip (unpack 2 y.cols rs.bytes) (unpack 2 y.cols rd.bytes)) mask
  let a : RowAcc := { a with s := s }
  let a := if y.pa = 0 then a
    else a.write c.core (y.pa + i * stridePacked y.cols (srcBytes x.ptype)) (pack x.ptype (es.map (fun e => narrowTo x.ptype e.1)))
  let a := a.write c.core (y.da + i * ss) (pack x.dtype (es.map (fun e => narrowTo x.dtype e.2)))
  (if err.isSome then a.write c.core (y.ta + 16 * i + 12) (toLe 4 1) else a, err)

/-- An ABACK that passed its checks. -/
def abackWork (c : Ctx) (s : State) : State × Phase :=
  attRows c (abackRow c ((s.attContext c.core).getD {})) (abackFields c.item).rows 0 { s }

/-- ABACK. -/
def runAback (c : Ctx) (s : State) : State × Phase := atUnit c .att (unitFree .att) .turn (abackFail c s) (abackWork c) s

end Sys2Proof.Machine
end

