-- ==== Sys2Proof/Machine/Rank.lean ====
section
/-! DEFINITION. The Ranker (07_attention_kv_ranker.md): the order of keys and the RANK record. -/

namespace Sys2Proof.Machine

/-- A key with its payload. -/
structure RankPair where
  key : Nat
  pay : Nat
  deriving DecidableEq, Repr

/-- Whether key a comes strictly before key b (R242); a NaN comes before none and after every other key. -/
def keyBefore (ktype : Nat) (desc : Bool) (a b : Nat) : Bool :=
  match ktype with
  | 0 =>
    if f32isNan a then false
    else if f32isNan b then true
    else if desc then (ofF32 b).lt (ofF32 a) else (ofF32 a).lt (ofF32 b)
  | 1 => if desc then decide (b < a) else decide (a < b)
  | _ => if desc then decide (asInt 32 b < asInt 32 a) else decide (asInt 32 a < asInt 32 b)

/-- Merge two sorted lists; the left one wins ties. -/
def mergeBy {α : Type} (lt : α → α → Bool) : Nat → List α → List α → List α
  | 0, a, b => a ++ b
  | _ + 1, [], b => b
  | _ + 1, a, [] => a
  | fuel + 1, x :: a, y :: b => if lt y x then y :: mergeBy lt fuel (x :: a) b else x :: mergeBy lt fuel a (y :: b)

/-- Merge sort that keeps the order of equal elements. -/
def sortBy {α : Type} (lt : α → α → Bool) : Nat → List α → List α
  | 0, l => l
  | fuel + 1, l =>
    if l.length ≤ 1 then l
    else
      let k := l.length / 2
      mergeBy lt l.length (sortBy lt fuel (l.take k)) (sortBy lt fuel (l.drop k))

def rankSort (ktype : Nat) (desc : Bool) (l : List RankPair) : List RankPair :=
  sortBy (fun a b => keyBefore ktype desc a.key b.key) 64 l

def pairBytes (p : RankPair) : List Byte := toLe 4 p.key ++ toLe 4 p.pay

/-! ## TOPP (R245) -/

/-- Cumulative sums in ascending order, one rounding each. -/
def cumSums : Nat → List Nat → List Nat
  | _, [] => []
  | acc, w :: r => let x := f32add acc w; x :: cumSums x r

/-- a ≥ b and a > b of FP32 patterns. -/
def f32ge (a b : Nat) : Bool := !f32isNan a && !f32isNan b && !numLt (ofF32 a) (ofF32 b)
def f32gt (a b : Nat) : Bool := numLt (ofF32 b) (ofF32 a) && !f32isNan a && !f32isNan b

/-- The 16 bytes TOPP writes, from the K largest pairs in order. -/
def toppBytes (top : List RankPair) (c p u : Nat) : List Byte :=
  let x0 := (top.headD ⟨0, 0⟩).key
  if f32isNan x0 then toLe 4 0xFFFFFFFF ++ toLe 4 x0 ++ toLe 4 canonNan ++ toLe 4 0
  else
    let ws := top.map (fun e =>
      if f32isNan e.key then 0
      else if x0 = posInf then (if e.key = posInf then oneF32 else 0)
      else exp2 (f32mul (f32sub e.key x0) c))
    let cum := match ws with | [] => [] | w :: r => w :: cumSums w r
    let t := f32mul p (cum.getLastD 0)
    let n := match cum.findIdx? (fun x => f32ge x t) with | some i => i + 1 | none => cum.length
    let total := cum.getD (n - 1) 0
    let target := f32mul u total
    let i := ((cum.take n).findIdx? (fun x => f32gt x target)).getD (n - 1)
    let e := top.getD i ⟨0, 0⟩
    toLe 4 e.pay ++ toLe 4 e.key ++ toLe 4 (f32div (ws.getD i 0) total) ++ toLe 4 n

/-! ## HIST (R246) and ROUTE (R247) -/

/-- The 32-bit value HIST counts a key by. -/
def histKey (ktype key : Nat) : Nat :=
  match ktype with
  | 1 => key
  | 2 => Nat.xor key 0x80000000
  | _ => if bit key 31 then 0xFFFFFFFF - key else key + 0x80000000

def histCounts (ktype shift k : Nat) (keys : List Nat) : List Nat :=
  let bs := keys.map (fun x => histKey ktype x / 2 ^ shift % k)
  (List.range k).map (fun b => bs.count b)

/-- The choices of each token: (expert, key), K for each. -/
def routeChoices (seg k : Nat) (keys : List Nat) : List RankPair :=
  (cut seg (keys.length + 1) keys).flatMap (fun row =>
    (rankSort 0 true ((numbered row).map (fun e => ⟨e.2, e.1⟩))).take k)

/-- Slots in visiting order, and the final counts. -/
def routeSlots (cap seg : Nat) : List RankPair → List Nat → List Nat × List Nat
  | [], counts => ([], counts)
  | e :: r, counts =>
    let n := counts.getD e.pay 0
    let (ss, cs) := routeSlots cap seg r (listSet counts e.pay (n + 1))
    ((if n < cap then n else 0xFFFFFFFF) :: ss, cs)

/-! ## The record (R243, R244, R250) -/

def isPow2 (n : Nat) : Bool := n != 0 && n == 2 ^ Nat.log2 n

/-- Check 3 of a RANK. -/
def rankShape (r : Fetched) : Option Nat :=
  let src := r.f 8 8
  let dst := r.f 0x10 8
  let aux := r.f 0x18 8
  let n := r.f 0x20 4
  let k := r.f 0x24 2
  let op := r.f 0x26 1
  let fl := r.f 0x27 1
  let pairs := bit fl 0
  let desc := bit fl 1
  let kt := bits fl 3 2
  let p0 := r.f 0x28 4
  let p1 := r.f 0x2C 4
  let p2 := r.f 0x30 4
  let seg := r.f 0x34 2
  let params (a b c : Bool) : List Check := [(0x28, a), (0x2C, b), (0x30, c)]
  firstFail ([(8, src % 32 == 0), (0x10, dst % 32 == 0), (0x18, aux % 32 == 0), (0x20, decide (1 ≤ n ∧ n ≤ 65536))] ++
    (match op with
    | 0 => [(0x18, if 4096 < n then aux != 0 else aux == 0), (0x24, k == 0), (0x34, seg == 0)]
        ++ params (p0 == 0) (p1 == 0) (p2 == 0)
    | 1 => [(0x18, aux == 0), (0x24, decide (1 ≤ k ∧ k ≤ 4096 ∧ k ≤ n)), (0x34, seg == 0)]
        ++ params (p0 == 0) (p1 == 0) (p2 == 0)
    | 2 => [(0x18, aux == 0), (0x24, decide (1 ≤ k ∧ k ≤ 4096 ∧ k ≤ n)), (0x27, kt == 0 && desc), (0x34, seg == 0)]
        ++ params (numLt .zero (ofF32 p0) && !f32isNan p0 && !f32isInf p0)
          (f32gt p1 0 && f32ge oneF32 p1) (f32ge p2 0 && f32gt oneF32 p2)
    | 3 => [(0x18, aux == 0), (0x24, decide (2 ≤ k ∧ k ≤ 4096) && isPow2 k), (0x27, !pairs && !desc), (0x34, seg == 0)]
        ++ params (decide (p0 < 32)) (p1 == 0) (p2 == 0)
    | _ => [(0x20, decide (1 ≤ seg) && n % seg == 0), (0x24, decide (1 ≤ k ∧ k ≤ 8 ∧ k ≤ seg)), (0x27, kt == 0 && !pairs && desc),
        (0x34, decide (2 ≤ seg ∧ seg ≤ 256))] ++ params (decide (1 ≤ p0 ∧ p0 ≤ 65536)) (p1 == 0) (p2 == 0)))

/-- What a RANK writes at DST and at AUX; none at AUX where it writes nothing there. -/
def rankOut (r : Fetched) (xs : List RankPair) : List Byte × List Byte :=
  let k := r.f 0x24 2
  let fl := r.f 0x27 1
  let kt := bits fl 3 2
  let sorted := rankSort kt (bit fl 1) xs
  match r.f 0x26 1 with
  | 0 => (sorted.flatMap pairBytes, [])
  | 1 => ((sorted.take k).flatMap pairBytes, [])
  | 2 => (toppBytes (sorted.take k) (r.f 0x28 4) (r.f 0x2C 4) (r.f 0x30 4), [])
  | 3 => ((histCounts kt (r.f 0x28 4) k (xs.map (·.key))).flatMap (toLe 4), [])
  | _ =>
    let seg := r.f 0x34 2
    let ch := routeChoices seg k (xs.map (·.key))
    let (slots, counts) := routeSlots (r.f 0x28 4) seg ch (List.replicate seg 0)
    ((List.zip ch slots).flatMap (fun e => toLe 4 e.1.pay ++ toLe 4 e.2) ++ counts.flatMap (toLe 4),
     if r.f 0x18 8 = 0 then [] else ch.flatMap (fun e => toLe 4 e.key))

/-- Bytes written at DST and used at AUX. -/
def rankLens (r : Fetched) : Nat × Nat :=
  let n := r.f 0x20 4
  let k := r.f 0x24 2
  let seg := r.f 0x34 2
  match r.f 0x26 1 with
  | 0 => (8 * n, if 4096 < n then 8 * n else 0)
  | 1 => (8 * k, 0)
  | 2 => (16, 0)
  | 3 => (4 * k, 0)
  | _ => let t := n / max 1 seg; (8 * t * k + 4 * seg, if r.f 0x18 8 = 0 then 0 else 4 * t * k)

/-- The checks of a RANK (R250). -/
def rankFail (c : Ctx) (s : State) : Option (State × Phase) :=
  let r := c.item
  let fl := r.f 0x27 1
  match formatFail r false [(8, 0x2E)]
      [addrCheck r.bytes 8, addrCheck r.bytes 0x10, addrCheck r.bytes 0x18, (0x26, decide (r.f 0x26 1 ≤ 4)),
       (0x27, decide (fl < 16) && bits fl 3 2 != 3)] with
  | some o => some (endFormat s r.slot o)
  | none =>
    match rankShape r with
    | some o => some (done s stAttShape o)
    | none =>
      (firstOutside c.core [(r.f 8 8, r.f 0x20 4 * (if bit fl 0 then 8 else 4)), (r.f 0x10 8, (rankLens r).1),
        (r.f 0x18 8, (rankLens r).2)]).map (endPlace c s stAttPlace)

/-- A RANK that passed its checks. -/
def rankWork (c : Ctx) (s : State) : State × Phase :=
  let r := c.item
  let n := r.f 0x20 4
  let fl := r.f 0x27 1
  let pairs := bit fl 0
  let (s, rd) := s.readMem (srcCore c.core) (r.f 8 8) (n * (if pairs then 8 else 4))
  match rd.err with
  | some e => endAttMem c s (some e)
  | none =>
    let xs : List RankPair := (List.range n).map (fun i =>
      if pairs then ⟨leAt rd.bytes (8 * i) 4, leAt rd.bytes (8 * i + 4) 4⟩ else ⟨leAt rd.bytes (4 * i) 4, i⟩)
    let (d, a) := rankOut r xs
    let s := s.count (Reg.ATT_CNT_RANKKEYS c.core) n
    let s := s.attFlagIf c.core 3 (bits fl 3 2 == 0 && xs.any (fun e => f32isNan e.key))
    let (s, e1) := s.writeMem (srcCore c.core) (r.f 0x10 8) d
    let (s, e2) := s.writeMem (srcCore c.core) (r.f 0x18 8) a
    let s := if r.f 0x26 1 = 0 ∧ 4096 < n then s.openRange (r.f 0x18 8) (r.f 0x18 8 + (rankLens r).2) else s
    endMem s (e1.orElse (fun _ => e2))

/-- The Ranker of a core runs an eviction (R238). -/
def State.rankerEvicts (s : State) (n : Nat) : Bool :=
  s.kvPools.any (fun e => e.2.running.isSome && s.fld (Reg.ATT_KV_CFG e.1) 26 20 == n)

/-- RANK: it waits for an eviction that runs on its Ranker (R238). -/
def runRank (c : Ctx) (s : State) : State × Phase :=
  atUnit c .rank (fun before => unitFree .rank before && !s.rankerEvicts c.core) .turn (rankFail c s) (rankWork c) s

end Sys2Proof.Machine
end

