-- ==== Sys2Proof/Machine/Kv.lean ====
section
/-! DEFINITION. KV pages (07_attention_kv_ranker.md): pools, the walkers with their look-aside buffers and misses, the
control cores' LOOKUP and ALLOCATE services, KVMAP, KVPUT, KVMASS, KVTRIM, the keeper port and evictions. -/

namespace Sys2Proof.Machine

/-! ## Pools (R224, R227–R229) -/

/-- The rope of a core under the image in force. -/
def State.ropeOf (s : State) (n : Nat) : Nat := s.image.coreRope.getD n 0xFF

/-- A rope's KV page pool. -/
def State.kvStore (s : State) (r : Nat) : Option Pool :=
  s.image.pools.find? (fun p => p.kind == 2 && (p.rope == r || p.rope == 0xFF))

def State.rowBytes (s : State) (r : Nat) : Nat := 32 * 2 ^ s.fld (Reg.ATT_KV_CFG r) 2 0
def State.pageBytes (s : State) (r : Nat) : Nat := 128 * s.rowBytes r

/-- FRAMES (R224). -/
def State.kvFrames (s : State) (r : Nat) : Nat :=
  match s.kvStore r with
  | some p => p.count * 0x10000 / s.pageBytes r
  | none => 0

/-- The Store address of a frame. -/
def State.frameAddr (s : State) (r f : Nat) : Nat :=
  storeBase + (match s.kvStore r with | some p => p.first * 0x10000 | none => 0) + f * s.pageBytes r

/-- The address of a frame's record in the frame table. -/
def State.frameRec (s : State) (r f : Nat) : Nat := s.fld (Reg.ATT_KV_FT r) 51 12 * 4096 + 32 * f

def State.kvReady (s : State) (r : Nat) : Bool := s.fld (Reg.ATT_KV_STATUS r) 1 1 == 1
def State.kvPool (s : State) (r : Nat) : KvPool := mget {} s.kvPools r
def State.setKvPool (s : State) (r : Nat) (x : KvPool) : State := { s with kvPools := mset {} s.kvPools r x }

/-- Set a pool's event flag: 0 TRIP, 1 PIN_FULL, 2 KV_FULL, 3 TIMEOUT, 4 REJECT. -/
def State.kvFlag (s : State) (r i : Nat) : State :=
  if i < 4 then s.raise (Reg.ATT_KV_EVENT r) i (Reg.ATT_KV_EVENT_CNT0 r) (16 * i)
  else s.raise (Reg.ATT_KV_EVENT r) i (Reg.ATT_KV_EVENT_CNT1 r) 0

/-- Set a pool's flag and post its event (R253): [3:0] rope, [39:16] SEQ, [71:40] logical page. -/
def State.kvEvent (s : State) (r i seq lp : Nat) : State :=
  (s.kvFlag r i).post slotKvPools (0x0500 + i) 1 (r + seq % 2 ^ 24 * 2 ^ 16 + lp % 2 ^ 32 * 2 ^ 40)

/-- The keeper port as a source of memory accesses. -/
def State.keeperSrc (s : State) (r : Nat) : Src := ⟨0, s.fld (Reg.ATT_KV_CFG r) 26 20, slotKvPools⟩

/-- The configuration that INIT accepts (R229, R238). -/
def State.kvConfigOk (s : State) (r : Nat) : Bool :=
  let cfg := Reg.ATT_KV_CFG r
  (s.kvStore r).isSome && decide (s.fld cfg 2 0 ≤ 4) && decide (1 ≤ s.fld cfg 39 27 ∧ s.fld cfg 39 27 ≤ 4096)
    && decide (s.kvFrames r ≤ 65536) && s.ropeOf (s.fld cfg 26 20) == r && inStacked (s.frameRec r 0) (32 * s.kvFrames r)

/-- INIT (R229): with READY at 1, or an invalid configuration, it is ignored and sets REJECT. -/
def State.kvInit (s : State) (r : Nat) : State :=
  if s.kvReady r ∨ ¬ s.kvConfigOk r then s.kvFlag r 4
  else s.setKvPool r { s.kvPool r with init := true }

/-- INIT ends: every frame record is zero, the free list holds every frame, READY is set. -/
def State.kvInitDone (s : State) (r : Nat) (env : Env) : State :=
  if (s.kvPool r).init then
    s.settle (.kv r) env (fun s =>
      let n := s.kvFrames r
      let (s, _) := s.writeMem (s.keeperSrc r) (s.frameRec r 0) (List.replicate (32 * n) 0)
      (s.setKvPool r { s.kvPool r with init := false, free := List.range n }).setFld (Reg.ATT_KV_STATUS r) 1 1 1)
  else s

/-- Whether a KV record of a rope is in flight. -/
def State.kvInFlight (s : State) (r : Nat) : Bool :=
  s.queues.any (fun e => e.2.issued.any (fun i => s.ropeOf i.item.core == r &&
    decide (0x45 ≤ i.item.op ∧ i.item.op ≤ 0x48) && (i.phase == .parked .engine || i.phase == .parked .memory)))

def State.kvDisable (s : State) (r : Nat) : State := s.setKvPool r { s.kvPool r with disable := true }

/-- READY is cleared once no walker of the rope has a KV record in flight. -/
def State.kvDisableDone (s : State) (r : Nat) : State :=
  if (s.kvPool r).disable ∧ ¬ s.kvInFlight r then
    (s.setKvPool r { s.kvPool r with disable := false }).setFld (Reg.ATT_KV_STATUS r) 1 1 0
  else s

/-- What a route-image load makes of every pool and walker (R229). -/
def State.kvClear (s : State) : State :=
  let s := (List.range 16).foldl (fun s r => s.setFld (Reg.ATT_KV_STATUS r) 1 1 0) s
  { s with kvPools := [], walkers := [], ccReqs := [] }

/-! ## Walkers (R230, R231) -/

def State.walker (s : State) (n : Nat) : Walker := mget {} s.walkers n
def State.setWalker (s : State) (n : Nat) (w : Walker) : State := { s with walkers := mset {} s.walkers n w }

def descIs (seq lp : Nat) (d : PageDesc) : Bool := d.seq == seq && d.lp == lp

/-- Enter a descriptor as the most recently used of 64, unless its page has been dropped since. -/
def labEnter (d : PageDesc) (l : List PageDesc) : List PageDesc :=
  if d.stale then l else (d :: l.filter (fun x => !descIs d.seq d.lp x)).take 64

/-- A walker drops entries from its buffer. A descriptor on its way to it, or one that a record holds, is used by that
record and enters the buffer no more (R239 step 3). -/
def Walker.drop (p : PageDesc → Bool) (w : Walker) : Walker :=
  let mark (d : PageDesc) : PageDesc := if p d then { d with stale := true } else d
  { w with lab := w.lab.filter (fun d => !p d), arriving := w.arriving.map (fun e => (e.1, mark e.2)),
           recs := w.recs.map (fun k => { k with got := k.got.map mark }) }

/-- Drop entries from the buffers of the walkers of a rope, but that of core `but`. -/
def State.labDrop (s : State) (r : Nat) (but : Option Nat) (p : PageDesc → Bool) : State :=
  { s with walkers := s.walkers.filterMap (fun e =>
      let w := if s.ropeOf e.1 == r && but != some e.1 then e.2.drop p else e.2
      if w = {} then none else some (e.1, w)) }

/-- The control core that takes the misses of core n. -/
def State.missCore (s : State) (n : Nat) : Nat :=
  let cs := setBitList 16 (s.image.ropes.getD (s.ropeOf n) {}).ccMask
  cs.getD (n % max 1 cs.length) 0

def State.ccReq (s : State) (c : Nat) : List CcReq := mget [] s.ccReqs c

/-- Hand a miss of core n to its control core, if its queue has room. -/
def State.handMiss (s : State) (n : Nat) (m : Miss) : State × Miss :=
  let c := s.missCore n
  if s.ccLoad c < 256 then
    let m := { m with sent := true }
    ({ (s.count (Reg.ATT_CNT_LABMISS n) 1) with ccReqs := mset [] s.ccReqs c (s.ccReq c ++ [{ core := n, miss := m }]) }, m)
  else (s, m)

/-- A walker takes up a miss. -/
def State.newMiss (s : State) (n : Nat) (k : KvRec) (seq pt lp : Nat) (alloc : Bool) : State :=
  let w := s.walker n
  let (s, m) := s.handMiss n { id := w.nextId, q := k.q, num := k.num, seq, lp, pt, alloc, sent := false }
  s.setWalker n { w with misses := w.misses ++ [m], nextId := w.nextId + 1 }

/-- Translate pages from the next one on, up to `last`: a hit at once, a miss while a slot is free. -/
def State.kvLook (n seq pt last : Nat) : Nat → State → KvRec → State × KvRec
  | 0, s, k => (s, k)
  | fuel + 1, s, k =>
    if last < k.look then (s, k)
    else
      let w := s.walker n
      match w.lab.find? (descIs seq k.look) with
      | some d =>
        let s := (s.setWalker n { w with lab := labEnter d w.lab }).count (Reg.ATT_CNT_LABHIT n) 1
        State.kvLook n seq pt last fuel s { k with got := k.got ++ [{ d with fresh := false }], look := k.look + 1 }
      | none =>
        if w.misses.length < 8 then
          State.kvLook n seq pt last fuel (s.newMiss n k seq pt k.look false) { k with look := k.look + 1 }
        else (s, k)

/-- The end of a walker's record: it and its misses go. -/
def State.kvDrop (s : State) (n : Nat) (q num : Nat) : State :=
  let w := s.walker n
  s.setWalker n { w with recs := w.recs.filter (fun k => !(k.q == q && k.num == num)),
                         misses := w.misses.filter (fun m => !(m.q == q && m.num == num)) }

def State.kvSave (s : State) (n : Nat) (k : KvRec) : State :=
  let w := s.walker n
  s.setWalker n { w with recs := w.recs.filter (fun x => !(x.q == k.q && x.num == k.num)) ++ [k] }

/-! ## KVMAP (R233, R252) -/

/-- Replace single bits of a memory range, from bit i on. -/
def setMemBits (old : List Byte) (i : Nat) (bs : List Bool) : List Byte :=
  (numbered old).map (fun e => (numbered bs).foldl (fun (b : Byte) x =>
    if (i + x.1) / 8 = e.1 then BitVec.ofNat 8 (setBits b.toNat ((i + x.1) % 8) ((i + x.1) % 8) (if x.2 then 1 else 0)) else b) e.2)

/-- The token rows of one page: rows are copied or zeroed until a read fails. The results are the bits written, the first
failed write and the failed read. -/
def mapRows (c : Ctx) (rope half dst t0 rowb : Nat) (d : PageDesc) :
    List Nat → State → List Bool → Option (Nat × Nat) → State × List Bool × Option (Nat × Nat) × Option (Nat × Nat)
  | [], s, bs, w => (s, bs, w, none)
  | t :: rest, s, bs, w =>
    let src := srcCore c.core
    let here := d.state == 0 && decide (t % 64 < d.fill)
    let (s, rd) := if here then s.readMem src (s.frameAddr rope d.frame + half * 64 * rowb + t % 64 * rowb) rowb
      else (s, ⟨List.replicate rowb 0, [], none⟩)
    let row := if rd.err.isSome then List.replicate rowb 0 else rd.bytes
    let (s, e) := s.writeMem src (dst + (t - t0) * rowb) row
    let w := w.orElse (fun _ => e)
    match rd.err with
    | some x => (s, bs ++ [false], w, some x)
    | none => mapRows c rope half dst t0 rowb d rest s (bs ++ [here]) w

/-- The tokens of a record that lie in page lp. -/
def pageTokens (t0 n lp : Nat) : List Nat := (upTo (max t0 (lp * 64)) (min (t0 + n) (lp * 64 + 64) - 1)).filter (fun t => decide (t < t0 + n))

/-- Move the translated pages in order. -/
def mapPages (c : Ctx) (last : Nat) : Nat → State → KvRec → State × KvRec × Option (Nat × Nat)
  | 0, s, k => (s, k, none)
  | fuel + 1, s, k =>
    let r := c.item
    if last < k.at_ then (s, k, some (k.fin.getD (stOk, 0)))
    else
      match k.got.find? (descIs (r.f 0x20 4) k.at_) with
      | none => (s, k, none)
      | some d =>
        if d.state = 3 then (s, k, some (stKvUnmapped, k.at_))
        else
          let rope := s.ropeOf c.core
          let t0 := r.f 0x24 4
          let ts := pageTokens t0 (r.f 0x28 2) k.at_
          let (s, bs, w, err) := mapRows c rope (r.f 0x2A 1) (r.f 0x10 8) t0 (s.rowBytes rope) d ts s [] k.fin
          let bm := r.f 0x18 8
          let i := ts.headD t0 - t0
          let (s, w) := if bm = 0 then (s, w)
            else
              let a := bm + i / 8
              let (s, e) := s.writeMem (srcCore c.core) a (setMemBits (s.mem.bytes a (ceilDiv (i % 8 + bs.length) 8)) (i % 8) bs)
              (s, w.orElse (fun _ => e))
          match err with
          | some (st, ea) => (s.attFlag c.core 4, k, some (st, ea % 2 ^ 32))
          | none => mapPages c last fuel s { k with at_ := k.at_ + 1, got := k.got.filter (fun x => !descIs (r.f 0x20 4) k.at_ x), fin := w }

/-- The last page of a record of n tokens from t0. -/
def lastPage (t0 n : Nat) : Nat := (t0 + n - 1) / 64

/-! ## KVPUT (R234, R252) -/

/-- A page-table entry. -/
def pteBytes (valid evicted : Bool) (fill frame : Nat) : List Byte :=
  toLe 8 ((if valid then 2 ^ 63 else 0) + (if evicted then 2 ^ 62 else 0) + fill % 128 * 2 ^ 48 + frame % 2 ^ 16)

def pteAddr (pt lp : Nat) : Nat := pt + 8 + 8 * lp

/-- Write the rows of tokens into a frame until a read fails. The results are the tokens written, the first failed write
and the failed read. -/
def putRows (c : Ctx) (rope ks vs t0 rowb frame : Nat) :
    List Nat → State → Nat → Option (Nat × Nat) → State × Nat × Option (Nat × Nat) × Option (Nat × Nat)
  | [], s, k, w => (s, k, w, none)
  | t :: rest, s, k, w =>
    let src := srcCore c.core
    let (s, rk) := s.readMem src (ks + (t - t0) * rowb) rowb
    let (s, rv) := s.readMem src (vs + (t - t0) * rowb) rowb
    match rk.err.orElse (fun _ => rv.err) with
    | some e => (s, k, w, some e)
    | none =>
      let a := s.frameAddr rope frame + t % 64 * rowb
      let (s, e1) := s.writeMem src a rk.bytes
      let (s, e2) := s.writeMem src (a + 64 * rowb) rv.bytes
      putRows c rope ks vs t0 rowb frame rest s (k + 1) ((w.orElse (fun _ => e1)).orElse (fun _ => e2))

/-- Append tokens page by page. -/
def putPages (c : Ctx) (last : Nat) : Nat → State → KvRec → State × KvRec × Option (Nat × Nat)
  | 0, s, k => (s, k, none)
  | fuel + 1, s, k =>
    let r := c.item
    let n := c.core
    let pt := r.f 8 8
    let seq := r.f 0x20 4
    let t0 := r.f 0x24 4
    if last < k.at_ then (s, k, some (k.fin.getD (stOk, 0)))
    else
      let (s, k) := if k.look ≤ k.at_ then s.kvLook n seq pt k.at_ 1 k else (s, k)
      match k.got.find? (descIs seq k.at_) with
      | none => (s, k, none)
      | some d =>
        let first := k.at_ == t0 / 64
        let need := t0 % 64
        let next (s : State) : State × KvRec × Option (Nat × Nat) :=
          if (s.walker n).misses.length < 8 then
            (s.newMiss n k seq pt k.at_ true, { k with got := k.got.filter (fun x => !descIs seq k.at_ x) }, none)
          else (s, k, none)
        match d.state with
        | 0 =>
          if first && (if d.fresh then d.fill != 0 else need == 0 || d.fill != need) then (s, k, some (stKvOrder, d.fill))
          else
            let rope := s.ropeOf n
            let ts := pageTokens t0 (r.f 0x28 2) k.at_
            let (s, count, w, err) := putRows c rope (r.f 0x10 8) (r.f 0x18 8) t0 (s.rowBytes rope) d.frame ts s 0 k.fin
            let fill := ts.headD 0 % 64 + count
            let (s, w) := if count = 0 then (s, w)
              else
                let (s, e) := s.writeMem (srcCore n) (pteAddr pt k.at_) (pteBytes true false fill d.frame)
                let wk := s.walker n
                let s := s.setWalker n { wk with lab := labEnter { d with fill, fresh := false } wk.lab }
                (s.labDrop rope (some n) (descIs seq k.at_), w.orElse (fun _ => e))
            match err with
            | some (st, ea) => (s.attFlag n 4, k, some (st, ea % 2 ^ 32))
            | none => putPages c last fuel s { k with at_ := k.at_ + 1, got := k.got.filter (fun x => !descIs seq k.at_ x), fin := w }
        | 2 => if first ∧ need ≠ 0 then (s, k, some (stKvOrder, 0)) else next s
        | 4 => (s, k, some (stKvFull, k.at_))
        | _ => (s, k, some (stKvUnmapped, k.at_))

/-! ## KVMASS (R236, R252) -/

/-- The mass that one row adds to page g: none for a NaN or empty row. -/
def rowMass (x : AttCtx) (st : RowStat) (mask : List Bool) (scores : List Nat) (kpos g : Nat) : Option Nat :=
  if st.nan || st.l == 0 then none
  else
    let cols := (numbered (List.zip scores mask)).filter (fun e => (kpos + e.1) / 64 == g)
    some (treeSum (cols.map (fun e => if e.2.2 then 0 else backP x st e.2.1)))

/-- Read rows of a KVMASS until one fails: its rows as (statistics, mask, scores). -/
def massRows (c : Ctx) (x : AttCtx) (cols : Nat) :
    Nat → Nat → State → List (RowStat × List Bool × List Nat) → State × List (RowStat × List Bool × List Nat) × Option (Nat × Nat)
  | 0, _, s, acc => (s, acc, none)
  | left + 1, i, s, acc =>
    let r := c.item
    let (s, rs) := s.readMem (srcCore c.core) (r.f 8 8 + i * strideF32 cols) (4 * cols)
    let (s, rt) := s.readMem (srcCore c.core) (r.f 0x10 8 + 16 * i) 16
    let (s, rb) := s.readMem (srcCore c.core) (r.f 0x34 8 + i * strideMask x.mode cols) (maskLen x cols)
    match firstErr [rs, rt, rb] with
    | some e => (s, acc, some e)
    | none =>
      massRows c x cols left (i + 1) s (acc ++ [(statOf rt.bytes, maskRow x (r.f 0x30 4) (r.f 0x24 4) cols i rb.bytes, unpack 2 cols rs.bytes)])

/-- Send the updates of translated pages in order. -/
def massPages (c : Ctx) (last : Nat) : Nat → State → KvRec → State × KvRec × Option (Nat × Nat)
  | 0, s, k => (s, k, none)
  | fuel + 1, s, k =>
    let r := c.item
    let seq := r.f 0x20 4
    if last < k.at_ then (s, k, if k.sent = 0 then some (k.fin.getD (stOk, 0)) else none)
    else
      match k.got.find? (descIs seq k.at_) with
      | none => (s, k, none)
      | some d =>
        let k' := { k with at_ := k.at_ + 1, got := k.got.filter (fun x => !descIs seq k.at_ x) }
        if d.state = 0 then
          let rope := s.ropeOf c.core
          let u : KeepUpd := { core := c.core, q := k.q, num := k.num, frame := d.frame, seq, lp := k.at_,
                               decay := r.f 0x2C 4, mass := mget 0 k.masses k.at_ }
          let p := s.kvPool rope
          massPages c last fuel (s.setKvPool rope { p with updates := p.updates ++ [u] }) { k' with sent := k.sent + 1 }
        else massPages c last fuel s k'

/-! ## Records in progress -/

/-- Carry a walker's record on as far as it goes. -/
def kvGo (c : Ctx) (s : State) (k : KvRec) : State × Phase :=
  let r := c.item
  let n := c.core
  let (s, k, res) :=
    match r.op with
    | 0x45 =>
      let last := lastPage (r.f 0x24 4) (r.f 0x28 2)
      let (s, k) := s.kvLook n (r.f 0x20 4) (r.f 8 8) last 40 k
      mapPages c last 40 s k
    | 0x46 => putPages c (lastPage (r.f 0x24 4) (r.f 0x28 2)) 40 s k
    | _ =>
      let last := lastPage (r.f 0x24 4) (r.f 0x2A 2)
      if k.masses = [] ∧ k.fin.isSome then (s, k, k.fin)
      else
        let (s, k) := s.kvLook n (r.f 0x20 4) (r.f 0x18 8) last 40 k
        massPages c last 40 s k
  match res with
  | some (st, d) => done (s.kvDrop n k.q k.num) st d
  | none => (s.kvSave n k, .parked .engine)

/-- Check 5 of KV records: the pool is present and READY (R229). -/
def State.kvPoolFail (s : State) (n : Nat) : Option Nat :=
  let r := s.ropeOf n
  if r < 16 ∧ (s.kvStore r).isSome ∧ s.kvReady r then none else some r

/-- Placement of a page table: it must lie in stacked memory. A hole or register space is ADDR_RANGE, any other memory
the placement status (R36, R39, R250). -/
def State.ptOutside (s : State) (pt : Nat) : Option (Nat × Bool) :=
  match s.place pt with
  | .stacked => none
  | .hole | .regs => some (pt, true)
  | _ => some (pt, false)

/-- The pool check of a KV record. -/
def kvPoolEnd (c : Ctx) (s : State) : Option (State × Phase) := (s.kvPoolFail c.core).map (done s stKvPool)

/-- The checks of a KVMAP (R233). -/
def kvmapFail (c : Ctx) (s : State) : Option (State × Phase) :=
  let r := c.item
  let n := r.f 0x28 2
  let bm := r.f 0x18 8
  match formatFail r false [(8, 0x23)]
      [addrCheck r.bytes 8, addrCheck r.bytes 0x10, addrCheck r.bytes 0x18, (0x20, decide (r.f 0x20 4 < 2 ^ 24)),
       (0x2A, decide (r.f 0x2A 1 < 2))] with
  | some o => some (endFormat s r.slot o)
  | none =>
    match firstFail [(8, r.f 8 8 % 8 == 0), (0x10, r.f 0x10 8 % 32 == 0), (0x18, bm % 32 == 0), (0x28, decide (1 ≤ n ∧ n ≤ 2048))] with
    | some o => some (done s stAttShape o)
    | none =>
      match (s.ptOutside (r.f 8 8)).orElse (fun _ => firstOutside c.core
          [(r.f 0x10 8, n * s.rowBytes (s.ropeOf c.core % 16)), (bm, if bm = 0 then 0 else ceilDiv n 8)]) with
      | some p => some (endPlace c s stAttPlace p)
      | none => kvPoolEnd c s

/-- A KVMAP that passed its checks: its pages are looked up from the first on. -/
def kvmapWork (c : Ctx) (s : State) : State × Phase :=
  let p := c.item.f 0x24 4 / 64
  kvGo c s { q := c.q, num := c.item.num, op := 0x45, look := p, at_ := p }

/-- KVMAP. -/
def runKvmap (c : Ctx) (s : State) : State × Phase := atUnit c .walk (unitFree .walk) .turn (kvmapFail c s) (kvmapWork c) s

/-- The checks of a KVPUT (R234). -/
def kvputFail (c : Ctx) (s : State) : Option (State × Phase) :=
  let r := c.item
  let n := r.f 0x28 2
  let len := n * s.rowBytes (s.ropeOf c.core % 16)
  match formatFail r false [(8, 0x22)]
      [addrCheck r.bytes 8, addrCheck r.bytes 0x10, addrCheck r.bytes 0x18, (0x20, decide (r.f 0x20 4 < 2 ^ 24))] with
  | some o => some (endFormat s r.slot o)
  | none =>
    match firstFail [(8, r.f 8 8 % 8 == 0), (0x10, r.f 0x10 8 % 32 == 0), (0x18, r.f 0x18 8 % 32 == 0),
        (0x28, decide (1 ≤ n ∧ n ≤ 2048))] with
    | some o => some (done s stAttShape o)
    | none =>
      match (s.ptOutside (r.f 8 8)).orElse (fun _ => firstOutside c.core [(r.f 0x10 8, len), (r.f 0x18 8, len)]) with
      | some p => some (endPlace c s stAttPlace p)
      | none => kvPoolEnd c s

/-- A KVPUT that passed its checks. -/
def kvputWork (c : Ctx) (s : State) : State × Phase :=
  let p := c.item.f 0x24 4 / 64
  kvGo c s { q := c.q, num := c.item.num, op := 0x46, look := p, at_ := p }

/-- KVPUT. -/
def runKvput (c : Ctx) (s : State) : State × Phase := atUnit c .walk (unitFree .walk) .turn (kvputFail c s) (kvputWork c) s

/-- The checks of a KVMASS (R236). -/
def kvmassFail (c : Ctx) (s : State) : Option (State × Phase) :=
  let r := c.item
  let rows := r.f 0x28 2
  let cols := r.f 0x2A 2
  let decay := r.f 0x2C 4
  let ba := r.f 0x34 8
  match formatFail r false [(8, 0x34)]
      [addrCheck r.bytes 8, addrCheck r.bytes 0x10, addrCheck r.bytes 0x18, (0x20, decide (r.f 0x20 4 < 2 ^ 24)), addrCheck r.bytes 0x34] with
  | some o => some (endFormat s r.slot o)
  | none =>
    match s.attContext c.core with
    | none => some (done s stAttContext 0)
    | some x =>
      match firstFail [(8, r.f 8 8 % 32 == 0), (0x10, r.f 0x10 8 % 16 == 0), (0x18, r.f 0x18 8 % 8 == 0),
          (0x28, decide (1 ≤ rows ∧ rows ≤ 256)), (0x2A, decide (1 ≤ cols ∧ cols ≤ 2048)),
          (0x2C, f32gt decay 0 && f32ge oneF32 decay), (0x34, (bit x.mode 1 == (ba != 0)) && ba % 32 == 0)] with
      | some o => some (done s stAttShape o)
      | none =>
        match (firstOutside c.core (rowRanges (r.f 8 8) (strideF32 cols) (4 * cols) rows ++ [(r.f 0x10 8, 16 * rows)])).orElse
            (fun _ => (s.ptOutside (r.f 0x18 8)).orElse
              (fun _ => firstOutside c.core (rowRanges ba (strideMask x.mode cols) (maskLen x cols) rows))) with
        | some p => some (endPlace c s stAttPlace p)
        | none => kvPoolEnd c s

/-- A KVMASS that passed its checks. -/
def kvmassWork (c : Ctx) (s : State) : State × Phase :=
  let r := c.item
  let kpos := r.f 0x24 4
  let cols := r.f 0x2A 2
  let x := (s.attContext c.core).getD {}
  let (s, rs, err) := massRows c x cols (r.f 0x28 2) 0 s []
  let s := if err.isSome then s.attFlag c.core 4 else s
  let pages := upTo (kpos / 64) (lastPage kpos cols)
  let masses := if rs = [] then []
    else pages.map (fun g => (g, pairFold (sumPair (rs.filterMap (fun e => rowMass x e.1 e.2.1 e.2.2 kpos g)))))
  kvGo c s { q := c.q, num := r.num, op := 0x47, look := kpos / 64, at_ := kpos / 64, masses,
             fin := err.map (fun e => (e.1, e.2 % 2 ^ 32)) }

/-- KVMASS. -/
def runKvmass (c : Ctx) (s : State) : State × Phase := atUnit c .att (unitFree .att) .turn (kvmassFail c s) (kvmassWork c) s

/-- The checks of a KVTRIM (R240). -/
def kvtrimFail (c : Ctx) (s : State) : Option (State × Phase) :=
  let r := c.item
  match formatFail r false [(8, 2)] [] with
  | some o => some (endFormat s r.slot o)
  | none => if r.f 8 2 < 1 ∨ 4096 < r.f 8 2 then some (done s stAttShape 8) else kvPoolEnd c s

/-- KVTRIM past its checks: the keeper is asked for an eviction; the record ends with it. -/
def kvtrimWork (c : Ctx) (s : State) : State × Phase :=
  let rope := s.ropeOf c.core
  let p := s.kvPool rope
  (s.setKvPool rope { p with waiting := p.waiting ++ [{ count := c.item.f 8 2, owner := some (c.q, c.item.num) }] },
    .parked .engine)

/-- KVTRIM. -/
def runKvtrim (c : Ctx) (s : State) : State × Phase := atUnit c .walk (unitFree .walk) .turn (kvtrimFail c s) (kvtrimWork c) s

/-- Whether a unit of a core is inside one of its records. -/
def State.unitBusy (s : State) (n : Nat) (ops : List Nat) : Bool :=
  s.queues.any (fun e => e.2.issued.any (fun i => i.item.core == n &&
    ops.contains i.item.op && (i.phase == .parked .engine || i.phase == .parked .memory)))

/-! ## Services of the control cores (R231, R237, R409) -/

/-- Whether a control core's firmware runs. -/
def State.ccRuns (s : State) (c : Nat) : Bool := s.fld (Reg.HST_CC_STATUS c) 32 32 == 1

/-- A request leaves a control core's queue. -/
def State.ccDone (s : State) (c : Nat) (x : CcReq) : State :=
  { s with ccReqs := mset [] s.ccReqs c ((s.ccReq c).filter (fun y => !(y.core == x.core && y.miss.id == x.miss.id))) }

/-- Whether a frame is one that the eviction in progress in a rope's pool has chosen: its page has been dropped from every walker
(R239). -/
def State.evicting (s : State) (r f : Nat) : Bool := (s.kvPool r).running.any (fun e => e.chosen.contains f)

/-- A descriptor sets out for its walker; one of a page that is being evicted enters no buffer (R239). -/
def State.sendDesc (s : State) (x : CcReq) (d : PageDesc) : State :=
  let w := s.walker x.core
  let stale := d.stale || (d.state == 0 && s.evicting (s.ropeOf x.core) d.frame)
  s.setWalker x.core { w with arriving := w.arriving ++ [(x.miss.id, { d with fresh := x.miss.alloc, stale })] }

/-- Read the page-table entry of a miss: its descriptor, or none where a read fails. -/
def State.readPte (s : State) (src : Src) (m : Miss) : State × Option PageDesc :=
  let base : PageDesc := { seq := m.seq, lp := m.lp, frame := 0, fill := 0, state := 2 }
  let (s, h) := s.readMem src m.pt 8
  if h.err.isSome then (s, none)
  else if leAt h.bytes 0 4 ≤ m.lp then (s, some { base with state := 3 })
  else
    let (s, e) := s.readMem src (pteAddr m.pt m.lp) 8
    let v := leAt e.bytes 0 8
    if e.err.isSome then (s, none)
    else if bit v 63 then (s, some { base with frame := v % 2 ^ 16, fill := bits v 54 48, state := 0 })
    else if bit v 62 then (s, some { base with state := 1, fill := bits v 54 48 })
    else (s, some base)

/-- LOOKUP: the control core serves the LOOKUP at the front of its queue. -/
def State.ccLookup (s : State) (c : Nat) (env : Env) : State :=
  match (s.ccReq c).find? (fun x => !x.waits) with
  | some x =>
    if s.ccRuns c ∧ ¬ x.miss.alloc then
      s.settle (.walk c) env (fun s =>
        let (s, d) := s.readPte (srcCC c) x.miss
        let s := s.ccDone c x
        match d with
        | some d => s.sendDesc x d
        | none => s)
    else s
  | none => s

/-- One field of a frame's record. -/
def State.frameField (s : State) (r f off k : Nat) : Nat := leAt (s.mem.bytes (s.frameRec r f + off) k) 0 k

/-- Whether an eviction could free a frame: one is being evicted, or a LIVE one is not pinned. -/
def State.kvEvictable (s : State) (r : Nat) : Bool :=
  (List.range (s.kvFrames r)).any (fun f =>
    s.frameField r f 4 1 == 2 || (s.frameField r f 4 1 == 1 && s.frameField r f 5 1 == 0))

/-- The pin of a new page, and the page whose pin ends (R237). -/
def State.kvPin (s : State) (r lp : Nat) : Nat :=
  if lp < s.fld (Reg.ATT_KV_CFG r) 11 4 then 1 else if s.fld (Reg.ATT_KV_CFG r) 19 12 ≠ 0 then 2 else 0

/-- Unpin the page that leaves the last RECENT pages. -/
def State.kvUnpin (s : State) (c r : Nat) (m : Miss) : State :=
  let recent := s.fld (Reg.ATT_KV_CFG r) 19 12
  let sink := s.fld (Reg.ATT_KV_CFG r) 11 4
  if recent ≠ 0 ∧ recent ≤ m.lp ∧ sink ≤ m.lp - recent then
    match s.readPte (srcCC c) { m with lp := m.lp - recent } with
    | (s, some d) => if d.state = 0 then (s.writeMem (s.keeperSrc r) (s.frameRec r d.frame + 5) [0]).1 else s
    | (s, none) => s
  else s

/-- Trip the pool where an allocation leaves fewer than LOW free frames and no eviction runs or waits (R238). -/
def State.kvTrip (s : State) (r seq lp : Nat) : State :=
  let p := s.kvPool r
  if p.free.length < s.fld (Reg.ATT_KV_CFG r) 55 40 ∧ p.running = none ∧ p.waiting = [] then
    (s.setKvPool r { p with waiting := [{ count := s.fld (Reg.ATT_KV_CFG r) 39 27 }] }).kvEvent r 0 seq lp
  else s

/-- Take a frame for an unwritten page: which free frame is not stated. -/
def State.kvTake (s : State) (c r : Nat) (x : CcReq) : State :=
  let p := s.kvPool r
  let f := p.free.getD (Config.freeNat s.free % max 1 p.free.length) 0
  let m := x.miss
  let s := { s.setKvPool r { p with free := p.free.filter (· != f) } with free := s.free + 1 }
  let rec_ := toLe 4 0 ++ [1, BitVec.ofNat 8 (s.kvPin r m.lp), 0, 0] ++ toLe 4 m.seq ++ toLe 4 m.lp
    ++ toLe 8 (pteAddr m.pt m.lp) ++ toLe 8 0
  let s := (s.writeMem (s.keeperSrc r) (s.frameRec r f) rec_).1
  let s := s.kvUnpin c r m
  let s := (s.writeMem (srcCC c) (pteAddr m.pt m.lp) (pteBytes true false 0 f)).1
  let s := (s.ccDone c x).sendDesc x { seq := m.seq, lp := m.lp, frame := f, fill := 0, state := 0 }
  s.kvTrip r m.seq m.lp

/-- Serve one ALLOCATE: it waits while an eviction could free a frame. -/
def State.kvAllocate (s : State) (c : Nat) (x : CcReq) : State :=
  let r := s.ropeOf x.core
  let (s, d) := s.readPte (srcCC c) x.miss
  match d with
  | none => s.ccDone c x
  | some d =>
    if d.state ≠ 2 then (s.ccDone c x).sendDesc x d
    else if (s.kvPool r).free ≠ [] then s.kvTake c r x
    else if s.kvEvictable r then
      { s with ccReqs := mset [] s.ccReqs c ((s.ccReq c).map (fun y =>
          if y.core = x.core ∧ y.miss.id = x.miss.id then { y with waits := true } else y)) }
    else ((s.ccDone c x).sendDesc x { d with state := 4 }).kvEvent r 2 x.miss.seq x.miss.lp

/-- ALLOCATE: the control core serves a waiting ALLOCATE that can go on, else the one at the front of its queue. -/
def State.ccAllocate (s : State) (c : Nat) (env : Env) : State :=
  let canGo (x : CcReq) : Bool := (s.kvPool (s.ropeOf x.core)).free != [] || !s.kvEvictable (s.ropeOf x.core)
  let pick := ((s.ccReq c).find? (fun x => x.waits && canGo x)).orElse (fun _ =>
    match (s.ccReq c).find? (fun x => !x.waits) with
    | some x => if x.miss.alloc then some x else none
    | none => none)
  match pick with
  | some x => if s.ccRuns c then s.settle (.walk c) env (fun s => s.kvAllocate c x) else s
  | none => s

/-! ## Descriptors, timeouts and resends (R231, R409) -/

/-- Carry on the record that a walker holds for a queue's record; after a trip none goes on (R420). -/
def State.kvResume (s : State) (q num : Nat) : State :=
  if s.tripped then s else
  match s.issuedAt q num with
  | some i =>
    let n := i.item.core
    match (s.walker n).recs.find? (fun k => k.q == q && k.num == num) with
    | some k => let (s, ph) := kvGo ⟨q, n, i.item⟩ s k; s.setPhaseOf q num ph
    | none => s
  | none => s

/-- Carry on every record of a walker: a slot for a miss may have become free. -/
def State.kvResumeAll (s : State) (n : Nat) : State :=
  (s.walker n).recs.foldl (fun s k => s.kvResume k.q k.num) s

/-- DESCRIPTOR_ARRIVAL: a LIVE one enters the buffer and the record goes on; one whose miss has timed out is discarded. -/
def State.descArrive (s : State) (n : Nat) (env : Env) : State :=
  let w := s.walker n
  match w.arriving with
  | [] => s
  | (id, d) :: rest =>
    match w.misses.find? (fun m => m.id == id) with
    | none => s.setWalker n { w with arriving := rest }
    | some m =>
      s.settle (.record m.q m.num) env (fun s =>
        let recs := w.recs.map (fun k => if k.q = m.q ∧ k.num = m.num then { k with got := k.got ++ [d] } else k)
        let lab := if d.state = 0 then labEnter { d with fresh := false } w.lab else w.lab
        let s := s.setWalker n { w with arriving := rest, misses := w.misses.filter (fun x => x.id != id), recs, lab }
        s.kvResumeAll n)

/-- KV_WALK_TIMEOUT: the record of a walker's miss ends (R231). -/
def State.walkTimeout (s : State) (n k : Nat) (env : Env) : State :=
  match (s.walker n).misses[k]? with
  | none => s
  | some m => s.settle (.record m.q m.num) env (fun s =>
    let s := (s.kvDrop n m.q m.num).setPhaseOf m.q m.num (.ended stKvWalkTimeout (m.lp % 2 ^ 32))
    (s.kvEvent (s.ropeOf n) 3 m.seq m.lp).kvResumeAll n)

/-- MISS_RESEND: misses that found the queue full are sent again. -/
def State.missResend (s : State) (n : Nat) : State :=
  (s.walker n).misses.foldl (fun s m =>
    if m.sent then s
    else
      let (s, m') := s.handMiss n m
      let w := s.walker n
      s.setWalker n { w with misses := w.misses.map (fun x => if x.id = m'.id then m' else x) }) s

/-! ## The keeper port (R228, R236) -/

/-- The score of a frame's record after an update: score × DECAY + mass, each step rounded. -/
def updatedScore (b : List Byte) (u : KeepUpd) : Nat := f32add (f32mul (leAt b 0 4) u.decay) u.mass

/-- Whether a frame's record is still that of the page an update names. -/
def updateHits (b : List Byte) (u : KeepUpd) : Bool := leAt b 4 1 == 1 && leAt b 8 4 % 2 ^ 24 == u.seq && leAt b 0xC 4 == u.lp

/-- The record that sent an update learns that it is done, and how it failed (R252). -/
def State.updateDone (s : State) (u : KeepUpd) (err : Option (Nat × Nat)) : State :=
  let w := s.walker u.core
  let s := s.setWalker u.core { w with recs := w.recs.map (fun k =>
    if k.q = u.q ∧ k.num = u.num then
      { k with sent := k.sent - 1, fin := k.fin.orElse (fun _ => err.map (fun e => (e.1, e.2 % 2 ^ 32))) }
    else k) }
  s.kvResume u.q u.num

/-- Apply one update to its frame's record, or drop it where the frame is no longer that page; a failed read sets POISON of
the record's core (R252). -/
def State.applyUpdate (s : State) (r : Nat) (u : KeepUpd) : State :=
  let (s, rd) := s.readMem (s.keeperSrc r) (s.frameRec r u.frame) 32
  match rd.err with
  | some e => (s.attFlag u.core 4).updateDone u (some e)
  | none =>
    if updateHits rd.bytes u then
      let (s, e) := s.writeMem (s.keeperSrc r) (s.frameRec r u.frame) (toLe 4 (updatedScore rd.bytes u))
      s.updateDone u e
    else s.updateDone u none

/-- KEEPER_UPDATE: the port takes the first update. -/
def State.keeperUpdate (s : State) (r : Nat) (env : Env) : State :=
  match (s.kvPool r).updates with
  | [] => s
  | u :: rest => s.settle (.kv r) env (fun s => (s.setKvPool r { s.kvPool r with updates := rest }).applyUpdate r u)

/-! ## Evictions (R238–R241) -/

/-- Order of eviction: a NaN score first, then the smallest, the lowest frame on ties. -/
def evictBefore (a b : RankPair) : Bool :=
  if f32isNan b.key then false else if f32isNan a.key then true else keyBefore 0 false a.key b.key

/-- The frames an eviction may choose, with their scores. -/
def evictKeys (table : List Byte) (frames : Nat) : List RankPair :=
  ((List.range frames).filter (fun f => leAt table (32 * f + 4) 1 == 1 && leAt table (32 * f + 5) 1 == 0)).map
    (fun f => ⟨leAt table (32 * f) 4, f⟩)

/-- The frames that an eviction takes: the first `count` of its choice in the order of R238. -/
def evictChoice (table : List Byte) (frames count : Nat) : List Nat :=
  ((sortBy evictBefore 64 (evictKeys table frames)).take count).map (·.pay)

/-- Steps 1 to 3 of R239: the Ranker reads the frame table and chooses, the frames become EVICTING, and every walker of the
rope drops their pages. -/
def State.evictChoose (s : State) (r : Nat) (e : Evict) (rest : List Evict) : State :=
  let keeper := s.fld (Reg.ATT_KV_CFG r) 26 20
  let n := s.kvFrames r
  let (s, rd) := s.readMem (s.keeperSrc r) (s.frameRec r 0) (32 * n)
  let table := if rd.err.isSome then [] else rd.bytes
  let s := if rd.err.isSome then s.attFlag keeper 4 else s
  let s := s.count (Reg.ATT_CNT_RANKKEYS keeper) (evictKeys table n).length
  let chosen := evictChoice table n e.count
  let s := chosen.foldl (fun s f => (s.writeMem (s.keeperSrc r) (s.frameRec r f + 4) [2]).1) s
  let pages := chosen.map (fun f => (leAt table (32 * f + 8) 4 % 2 ^ 24, leAt table (32 * f + 0xC) 4))
  let s := s.labDrop r none (fun d => pages.contains (d.seq, d.lp))
  s.setKvPool r { s.kvPool r with waiting := rest, running := some { e with chosen, err := rd.err } }

/-- EVICTION_START: the first eviction of the pool begins, where none runs, the device does not quiesce and the keeper's
Ranker is free. -/
def State.evictStart (s : State) (r : Nat) (env : Env) : State :=
  let p := s.kvPool r
  match p.waiting, p.running with
  | e :: rest, none =>
    if s.quiescing ∨ s.rankerEvicts (s.fld (Reg.ATT_KV_CFG r) 26 20) then s
    else s.settle (.kv r) env (fun s => s.evictChoose r e rest)
  | _, _ => s

/-- Whether a walker of the rope has translated a page to one of some frames and not yet moved its rows, or is about to get
the translation (R239 step 3). -/
def State.frameInUse (s : State) (r : Nat) (fs : List Nat) : Bool :=
  let names (d : PageDesc) : Bool := d.state == 0 && fs.contains d.frame
  s.walkers.any (fun e => s.ropeOf e.1 == r && (e.2.recs.any (fun k => k.got.any names)
    || e.2.arriving.any (fun a => names a.2 && e.2.misses.any (fun m => m.id == a.1))))

/-- Steps 4 and 5 for one frame: its page's entry reads EVICTED, and the frame is free. -/
def State.evictFrame (r : Nat) (s : State) (f : Nat) : State :=
  let a := leAt (s.mem.bytes (s.frameRec r f + 0x10) 8) 0 8
  let (s, e) := s.readMem (s.keeperSrc r) a 8
  let s := if e.err.any (fun x => x.1 == 6) then s
    else (s.writeMem (s.keeperSrc r) a (toLe 8 (setBits (leAt e.bytes 0 8) 63 62 1))).1
  let s := (s.writeMem (s.keeperSrc r) (s.frameRec r f) (toLe 4 0 ++ [0])).1
  let p := s.kvPool r
  s.setKvPool r { p with free := p.free ++ [f] }

/-- An eviction's frames are freed, LAST_EVICT is written, and a KVTRIM ends, with the status of a failed read of the frame
table (R252). -/
def State.evictFree (s : State) (r : Nat) (e : Evict) : State :=
  let s := e.chosen.foldl (State.evictFrame r) s
  let s := s.setKvPool r { s.kvPool r with running := none }
  let s := s.setFld (Reg.ATT_KV_STATUS r) 59 47 e.chosen.length
  let s := if e.chosen.length < e.count then s.kvEvent r 1 0 0 else s
  match e.owner with
  | some (q, num) =>
    match e.err with
    | some (st, a) => s.setPhaseOf q num (.ended st (a % 2 ^ 32))
    | none => s.setPhaseOf q num (.ended stOk 0)
  | none => s

/-- EVICTION_DONE: once no walker of the rope still uses one of its frames. -/
def State.evictDone (s : State) (r : Nat) (env : Env) : State :=
  match (s.kvPool r).running with
  | none => s
  | some e => if s.frameInUse r e.chosen then s else s.settle (.kv r) env (fun s => s.evictFree r e)

/-! ## Invalidation and registers (R235) -/

/-- A write to ATT_LAB_INV. -/
def State.labInv (s : State) (r : Nat) (v : Word) : State :=
  let seq := fget v 55 32
  let all := fget v 63 63 = 1
  (s.labDrop r none (fun d => d.seq == seq && (all || d.lp == fget v 31 0))).setFld (Reg.ATT_KV_STATUS r) 3 3 1

/-- Every walker has dropped the named entries: INV_BUSY clears (R235). -/
def State.labInvDone (s : State) (r : Nat) : State := s.setFld (Reg.ATT_KV_STATUS r) 3 3 0

/-- A write to ATT_KV_CFG or ATT_KV_FT takes effect while READY reads 0. -/
def State.kvCfgWrite (s : State) (r off : Nat) (v : Word) : State :=
  if s.kvReady r then s.kvFlag r 4 else s.writePlain off v

/-- A write to ATT_WALK_CFG: a timeout below 10 sets 10. -/
def State.walkCfgWrite (s : State) (v : Word) : State := s.setFld Reg.ATT_WALK_CFG 15 0 (max 10 (fget v 15 0))

/-- ATT_STATUS. -/
def State.attStatus (s : State) (n : Nat) : Word :=
  let b (x : Bool) (i : Nat) : Nat := if x then 2 ^ i else 0
  BitVec.ofNat 64 ((if s.unitBusy n [0x47] then 0x4700 else 0) + b (!(s.walker n).misses.isEmpty) 4 + b (s.rankerEvicts n) 3
    + b (s.unitBusy n [0x45, 0x46, 0x48]) 1 + b (s.attContext n).isSome 0)

/-- ATT_KV_STATUS. -/
def State.kvStatus (s : State) (r : Nat) : Word :=
  let p := s.kvPool r
  let v := s.reg (Reg.ATT_KV_STATUS r)
  let v := fput (fput v 46 30 (s.kvFrames r)) 29 13 p.free.length
  fput (fput v 2 2 (if p.running.isSome || p.waiting != [] then 1 else 0)) 0 0 (if (s.kvStore r).isSome then 1 else 0)

/-- No page-walk work of any rope is outstanding (R64, R241). -/
def State.kvIdle (s : State) : Bool :=
  s.walkers.all (fun e => e.2.misses.isEmpty) && s.ccReqs.isEmpty && s.kvPools.all (fun e => e.2.running.isNone)

end Sys2Proof.Machine
end

