-- ==== Sys2Proof/Machine/Mem.lean ====
section
/-! DEFINITION. Memory operations (08_memory_tiers.md): seal operations on pages and spill slots, and what the
stacked-memory controllers do by themselves. -/

namespace Sys2Proof.Machine

/-! ## Seal operations (R265–R270) -/

def State.memReject (s : State) : State := s.raise Reg.MEM_EVENT 5 Reg.MEM_EVENT_CNT1 16

/-- A seal operation ends with a code: 0 OK, 1 RANGE, 2 STATE, 3 OVERLAP. -/
def State.sealCode (s : State) (code : Nat) : State := s.setFld Reg.MEM_SEAL_STATUS 63 56 code

/-- Pages of a host's spill window that a seal slot may name (R269). -/
def spillPages : Nat := 524288

def State.spillSlot (s : State) (h i : Nat) : SpillSlot := mget {} s.spillSeals (16 * h + i)

def State.setSpillSlot (s : State) (h i : Nat) (x : SpillSlot) : State :=
  { s with spillSeals := mset {} s.spillSeals (16 * h + i) x }

/-- Put every page of a range into a seal state. -/
def State.setSeals (s : State) (first count st : Nat) : State :=
  { s with seals := (List.range count).foldl (fun m i => mset 0 m (first + i) st) s.seals }

def State.allSeals (s : State) (first count st : Nat) : Bool :=
  (List.range count).all (fun i => mget 0 s.seals (first + i) == st)

/-- A range of pages is a seal operation's: not empty and within the last page (R270). -/
def sealRange (first count pages : Nat) : Bool := decide (1 ≤ count ∧ first + count ≤ pages)

/-- SEAL of pages (R266): it waits for earlier writes, and SEAL_DONE ends it. -/
def State.sealPages (s : State) (first count : Nat) : State :=
  if !sealRange first count pageCount then (s.sealCode 1).memReject
  else if s.allSeals first count 0 ∧ ¬ (List.range count).any (fun i => s.ringPage (first + i)) then
    { s with sealOp := some (.sealPages first count) }
  else s.sealCode 2

/-- SEAL_DONE: the pages become SEALED in one cycle; a ring page that SIO_LOG_BASE.EN took meanwhile ends the operation with
STATE (R429). -/
def State.sealDone (s : State) : State :=
  match s.sealOp with
  | some (.sealPages first count) =>
    if (List.range count).any (fun i => s.ringPage (first + i)) then { s.sealCode 2 with sealOp := none }
    else { (s.setSeals first count 1).sealCode 0 with sealOp := none }
  | _ => s

/-- UNSEAL of pages (R267). -/
def State.unsealPages (s : State) (first count : Nat) : State :=
  if !sealRange first count pageCount then (s.sealCode 1).memReject
  else if s.allSeals first count 1 then { s.setSeals first count 2 with sealOp := some (.unsealPages first count) }
  else s.sealCode 2

/-- SEAL of a spill slot (R269). -/
def State.sealSlot (s : State) (h i first count : Nat) : State :=
  if !sealRange first count spillPages then (s.sealCode 1).memReject
  else if (s.spillSlot h i).state ≠ 0 then s.sealCode 2
  else if (List.range 16).any (fun j =>
      let t := s.spillSlot h j
      t.state != 0 && decide (t.first < first + count ∧ first < t.first + t.count)) then s.sealCode 3
  else (s.setSpillSlot h i ⟨1, first, count⟩).sealCode 0

/-- UNSEAL of a spill slot. -/
def State.unsealSlot (s : State) (h i : Nat) : State :=
  let t := s.spillSlot h i
  if t.state = 1 then { s.setSpillSlot h i { t with state := 2 } with sealOp := some (.unsealSlot h i) }
  else s.sealCode 2

/-- A write to MEM_SEAL_OP: ignored while an operation runs, or with OP 0 or 3 (R270). -/
def State.sealWrite (s : State) (v : Word) : State :=
  let op := fget v 63 62
  let slot := fget v 60 57
  let host := fget v 56 54
  let count := fget v 39 20
  let first := fget v 19 0
  if s.sealOp.isSome ∨ op = 0 ∨ op = 3 then s.memReject
  else if fget v 61 61 = 1 then (if op = 1 then s.sealSlot host slot first count else s.unsealSlot host slot)
  else if op = 1 then s.sealPages first count
  else s.unsealPages first count

/-- The value that a write of an operation to MEM_SEAL_OP carries. -/
def sealOpWord (op spill slot host count first : Nat) : Word :=
  BitVec.ofNat 64 (op % 4 * 2 ^ 62 + spill % 2 * 2 ^ 61 + slot % 16 * 2 ^ 57 + host % 8 * 2 ^ 54
    + count % 2 ^ 20 * 2 ^ 20 + first % 2 ^ 20)

/-- Whether a page that a window holds belongs to a seal operation. -/
def opHolds : SealOp → HeldPage → Bool
  | .sealPages _ _, _ => false
  | .unsealPages f c, .page p => decide (f ≤ p ∧ p < f + c)
  | .unsealSlot h i, .slot j => j == 16 * h + i
  | _, _ => false

/-- MEM_SEAL_STATUS.HELD: the windows, and the copy of a USNAP, that still hold pages of the running UNSEAL
(R267, R342). -/
def State.heldWindows (s : State) : Nat :=
  match s.sealOp with
  | none => 0
  | some op =>
    ((s.hauls.flatMap (fun e => e.2.wins)).filter (fun w => w.pages.any (opHolds op))).length
      + (match s.upd.snap with | some x => if x.pages.any (opHolds op) then 1 else 0 | none => 0)

/-- UNSEAL_DONE: with HELD at 0 the pages become OPEN, or the slot free. -/
def State.unsealDone (s : State) : State :=
  match s.sealOp with
  | some (.unsealPages first count) =>
    if s.heldWindows = 0 then { (s.setSeals first count 0).sealCode 0 with sealOp := none } else s
  | some (.unsealSlot h i) =>
    if s.heldWindows = 0 then { (s.setSpillSlot h i {}).sealCode 0 with sealOp := none } else s
  | _ => s

/-- What the apply step of a load makes of DRAINING pages and slots, once no window is open (R270). -/
def State.sealLoad (s : State) : State :=
  let s := s.unsealDone
  { s with seals := s.seals.filter (fun e => e.2 != 2), spillSeals := s.spillSeals.filter (fun e => e.2.state != 2) }

/-- MEM_SEAL_STATUS. -/
def State.sealStatus (s : State) : Word :=
  BitVec.ofNat 64 (s.fld Reg.MEM_SEAL_STATUS 63 56 * 2 ^ 56 + (if s.sealOp.isSome then 2 ^ 32 else 0) + s.heldWindows % 2 ^ 32)

/-- MEM_SEAL_MAP[w]. -/
def State.sealMap (s : State) (w : Nat) : Word :=
  BitVec.ofNat 64 (((List.range 16).map (fun k => mget 0 s.seals (16 * w + k) * 2 ^ (2 * k))).foldl (· + ·) 0)

/-- MEM_SPILL_SEAL[h][i]. -/
def State.spillSealWord (s : State) (h i : Nat) : Word :=
  let t := s.spillSlot h i
  BitVec.ofNat 64 (t.state * 2 ^ 62 + t.count * 2 ^ 20 + t.first)

/-! ## The controllers (R260–R263, R275, R278–R281) -/

/-- MEM_TIMEOUT: a stacked-memory request that no other command makes — of a control core, a host, Siolo or the scrub —
does not complete in 20 µs: it is logged, and counts toward its pseudo-channel (R278, R280, R282). -/
def State.memTimeout (s : State) (source id a : Nat) (write : Bool) : State :=
  if a < stackedEnd then
    let slot := if source = 0 then id % 128 else if source = 1 then slotCC (id % 16)
      else if source = 2 then slotHost (id % 8) else slotSiolo
    let (c, p) := locate s.image.regions a
    (s.memErr ⟨source, id, slot⟩ (if write then 4 else 3) a).pcTimeout c p
  else s

/-- LATE_ANSWER: the answer is discarded and counted. -/
def State.lateAnswer (s : State) (c : Nat) : State := s.count (Reg.MEM_STK_LATE c) 1

/-- CE_INTERVAL_END: the end of a one-second interval. -/
def State.ceIntervalEnd (s : State) : State :=
  let limit := s.fld Reg.MEM_CFG 15 0
  let s := (List.range 24).foldl (fun s c =>
    let n := mget 0 s.ceSecond c
    if limit < n then
      (s.raise Reg.MEM_EVENT 4 Reg.MEM_EVENT_CNT1 0).post (slotStack c) 0x0304 1 (c + n % 2 ^ 32 * 2 ^ 16)
    else s) s
  { s with ceSecond := [] }

/-- What the scrub found in a burst. -/
def State.scrubFound (s : State) (a : Nat) (f : Option MemFault) : State :=
  let line := a / 32
  let (c, p) := locate s.image.regions a
  let src : Src := ⟨6, 0, slotStack c⟩
  let s := (s.pcDone c p).count (Reg.MEM_STK_RD c) 32
  let s := { s with bwRead := mmod 0 s.bwRead c (· + 32) }
  if f = some .uncorrectable ∨ s.poisoned line then (s.setPoison line true).memErr src 5 (line * 32)
  else if f = some .corrected then (s.count (Reg.MEM_STK_WR c) 32).corrected c (line * 32)
  else s

/-- PATROL_SCRUB: the scrub reads the burst at an address. A read that does not reach its stack, or is late, times out (R262,
R278, R280). Corrected data are written back unless a write came between,
which leaves the bytes as they read (R281). -/
def State.patrolScrub (s : State) (a : Nat) (f : Option MemFault) : State :=
  if a < stackedEnd ∧ s.fld Reg.MEM_CFG 23 16 ≠ 0 then
    let (c, p) := locate s.image.regions a
    if s.pcDead a || f == some .timeout then (s.memErr ⟨6, 0, slotStack c⟩ 3 (a / 32 * 32)).pcTimeout c p
    else s.scrubFound a f
  else s

/-- REF_MODE_APPLY. -/
def State.refModeApply (s : State) : State := { s with refMode := s.fld Reg.MEM_CFG 24 24 }

/-- BW_INTERVAL_END: the end of a 10 ms interval. -/
def State.bwIntervalEnd (s : State) : State :=
  let t := (List.range 24).foldl (fun t c => t.setReg (Reg.MEM_STK_BW c) (BitVec.ofNat 64 (mget 0 s.bwRead c))) s
  { t with bwRead := [] }

/-- ECS_READ: a stack's error-check-and-scrub count, with the address it reports (R260, R275). -/
def State.ecsRead (s : State) (found : List (Nat × Nat × Nat)) : State :=
  found.foldl (fun s f =>
    if f.1 < 24 ∧ f.2.1 ≠ 0 then
      let s := { (s.count (Reg.MEM_STK_CE f.1) f.2.1) with ceSecond := mmod 0 s.ceSecond f.1 (· + f.2.1) }
      s.post (slotStack f.1) 0x0305 0 (f.2.2 % 2 ^ 52 + 2 ^ 52)
    else s) s

/-- STACK_TEMPERATURE: TEMP, and the refresh interval halved above 85 °C (R260, R261). -/
def State.stackTemperature (s : State) (c t : Nat) : State :=
  (s.setFld (Reg.MEM_STK_STATUS c) 15 8 t).setFld (Reg.MEM_STK_STATUS c) 1 1 (if 85 < t then 1 else 0)

end Sys2Proof.Machine
end

