-- ==== Sys2Proof/Machine/Waymark.lean ====
section
/-! DEFINITION. Haul descriptors and waymark programs (R289–R295): their format, the runs of a side, and what a program
emits. -/

namespace Sys2Proof.Machine

/-! ## Formats (R289, R290, R292, R294) -/

/-- VER of a descriptor or a program (R289). -/
def State.descVer (s : State) (b : Nat) : Bool := b / 16 == 1 && bit (s.fld Reg.SYS_CAP_FMT 47 32) (b % 16)

/-- CHECK of a descriptor or a program, its own field taken as zero. -/
def checkOk (b : List Byte) : Bool := leAt b 4 4 == crc32c (b.take 4 ++ List.replicate 4 0 ++ b.drop 8)

def allZero (b : List Byte) : Bool := b.all (fun x => x == 0)

/-- The signed stride of a dimension. -/
def strideOf (d : List Byte) (base k : Nat) : Int := asInt 40 (leAt d (base + 0x10 + 16 * k) 8)
def countOf (d : List Byte) (base k : Nat) : Nat := leAt d (base + 0x18 + 16 * k) 4

/-- The fields of a dimension entry: zero at and above NDIM. -/
def dimChecks (d : List Byte) (base nd k : Nat) : List Check :=
  let e := base + 0x10 + 16 * k
  let st := leAt d e 8
  let c := leAt d (e + 8) 4
  if k < nd then
    [(e, decide (st < 2 ^ 40 ∧ st % 32 = 0)), (e + 8, decide (1 ≤ c)), (e + 12, decide (leAt d (e + 12) 4 = 0))]
  else [(e, decide (st = 0)), (e + 8, decide (c = 0)), (e + 12, decide (leAt d (e + 12) 4 = 0))]

/-- The fields of a side at an offset. -/
def sideChecks (d : List Byte) (base : Nat) : List Check :=
  let run := leAt d (base + 8) 4
  let nd := leAt d (base + 0xC) 1
  let mode := leAt d (base + 0xD) 1
  [(base, decide (leAt d base 8 < 2 ^ 52 ∧ leAt d base 8 % 32 = 0)),
   (base + 8, decide (run % 32 = 0 ∧ 32 ≤ run ∧ run ≤ 2 ^ 24)),
   (base + 0xC, decide (nd ≤ (if mode = 1 then 0 else 6))),
   (base + 0xD, decide (mode ≤ 1)),
   (base + 0xE, decide (leAt d (base + 0xE) 2 = 0))] ++
  (if mode = 1 then
    [(base + 0x10, decide (leAt d (base + 0x10) 8 < 2 ^ 52 ∧ leAt d (base + 0x10) 8 % 32 = 0)),
     (base + 0x38, allZero (slice d (base + 0x38) 56))]
  else (List.range 6).flatMap (dimChecks d base nd))

def descTotal (d : List Byte) : Nat := leAt d 8 8

/-- The bytes of a side in MODE 0. -/
def sideBytes (d : List Byte) (base : Nat) : Nat :=
  ((List.range (leAt d (base + 0xC) 1)).map (countOf d base)).foldl (· * ·) (leAt d (base + 8) 4)

def sideMode (d : List Byte) (base : Nat) : Nat := leAt d (base + 0xD) 1

/-- The offset of the first offending field of a descriptor; a side whose bytes differ from TOTAL offends at its RUN. -/
def State.descFail (s : State) (d : List Byte) : Option Nat :=
  let t := descTotal d
  let form := firstFail ([(0, s.descVer (leAt d 0 1)), (1, allZero (slice d 1 3)), (4, checkOk d),
    (8, decide (t < 2 ^ 40 ∧ t % 32 = 0 ∧ 32 ≤ t)), (0x10, allZero (slice d 0x10 16))]
    ++ sideChecks d 0x20 ++ sideChecks d 0x90)
  match form with
  | some o => some o
  | none => firstFail [(0x28, sideMode d 0x20 == 1 || sideBytes d 0x20 == t),
      (0x98, sideMode d 0x90 == 1 || sideBytes d 0x90 == t)]

/-! ## Instructions (R293) -/

structure WmIns where
  op : Nat
  d : Nat
  a : Nat
  b : Nat
  imm : Int
  deriving DecidableEq, Repr

def wmDecode (w : Nat) : WmIns := ⟨bits w 31 26, bits w 25 23, bits w 22 20, bits w 19 17, asInt 17 (bits w 16 0)⟩

/-- Which of D, A, B and IMM an OP uses; none is a reserved OP. -/
def wmUses : Nat → Option (Bool × Bool × Bool × Bool)
  | 0x01 => some (true, false, false, true)
  | 0x03 | 0x04 | 0x06 => some (true, true, true, false)
  | 0x02 | 0x05 | 0x07 | 0x08 | 0x09 | 0x0A | 0x0B => some (true, true, false, true)
  | 0x0C => some (false, true, false, false)
  | 0x0D => some (false, false, false, false)
  | 0x0E => some (false, true, false, true)
  | _ => none

def wmInsOk (x : WmIns) : Bool :=
  match wmUses x.op with
  | some (d, a, b, i) => (d || x.d == 0) && (a || x.a == 0) && (b || x.b == 0) && (i || x.imm == 0)
  | none => false

/-- The indices of instructions that break the nesting of loops: a LOOP deeper than 6 or without an ENDL, an ENDL without
a LOOP. `st` holds the open LOOPs, innermost first. -/
def wmNesting : Nat → List Nat → List WmIns → List Nat
  | _, st, [] => st
  | i, st, x :: r =>
    if x.op = 0x0C then (if 6 ≤ st.length then [i] else []) ++ wmNesting (i + 1) (i :: st) r
    else if x.op = 0x0D then
      match st with
      | [] => i :: wmNesting (i + 1) [] r
      | _ :: st => wmNesting (i + 1) st r
    else wmNesting (i + 1) st r

def wmInstrs (p : List Byte) : List WmIns := (List.range (leAt p 1 1)).map (fun i => wmDecode (leAt p (16 + 4 * i) 4))

/-- The offset of the first offending field of a program. A program with no EMIT offends at its first instruction. -/
def State.wmFail (s : State) (p : List Byte) : Option Nat :=
  let ins := wmInstrs p
  let head := [(0, s.descVer (leAt p 0 1)), (1, decide (1 ≤ leAt p 1 1 ∧ leAt p 1 1 ≤ 32)),
    (2, decide (leAt p 2 2 = 0)), (8, decide (leAt p 8 8 = 0))]
  if leAt p 1 1 = 0 ∨ 32 < leAt p 1 1 then firstFail head
  else
    let bad := firstFail (head ++ [(4, checkOk p)]
      ++ (numbered ins).map (fun e => (16 + 4 * e.1, wmInsOk e.2))
      ++ (wmNesting 0 [] ins).map (fun i => (16 + 4 * i, false)))
    match bad with
    | some o => some o
    | none => if ins.any (fun x => x.op == 0x0E) then none else some 0x10

/-! ## Running a program (R293–R295) -/

/-- A run of a program: the place in it, W0 to W7, the open loops (index of LOOP, times left), the addresses emitted,
last first, and the instructions run since the last EMIT. -/
structure WmRun where
  pc : Nat := 0
  w : List Nat
  loops : List (Nat × Nat) := []
  out : List Nat := []
  idle : Nat := 0
  fault : Option (Nat × Nat) := none
  stop : Bool := false
  deriving DecidableEq, Repr

/-- The index of the ENDL of the LOOP before the given instructions. -/
def wmEnd : Nat → Nat → List WmIns → Nat
  | i, _, [] => i
  | i, n, x :: r =>
    if x.op = 0x0C then wmEnd (i + 1) (n + 1) r
    else if x.op = 0x0D then (if n = 0 then i else wmEnd (i + 1) (n - 1) r)
    else wmEnd (i + 1) n r

/-- WAYMARK_RUN with a reason; DETAIL also has the side and the index of the failing run (R311). -/
def wmStop (side reason : Nat) (x : WmRun) : WmRun :=
  { x with stop := true, fault := some (0x63, reason + side * 16 + x.out.length % 2 ^ 24 * 2 ^ 8) }

/-- What a program needs of its transfer: its side, ADDR, RUN, TOTAL, its instructions, the core that runs it, whether
failing addresses post their event, and the pool a window's run must lie in. -/
structure WmEnv where
  side : Nat
  addr : Nat
  run : Nat
  total : Nat
  ins : List WmIns
  core : Nat
  post : Bool
  within : Option (Nat × Nat)
  deriving DecidableEq, Repr

/-- A failing address of a transfer: ADDR_RANGE, posted unless the work is a prefetch (R295, R301). -/
def State.haulRange (s : State) (core : Nat) (post : Bool) (a : Nat) : State :=
  if post then s.rangeErr (srcCore core) a else s

/-- The first byte of a run that lies outside a pool's addresses. -/
def outsidePool (p : Option (Nat × Nat)) (a len : Nat) : Option Nat :=
  match p with
  | none => none
  | some (lo, hi) => if a < lo ∨ hi ≤ a then some a else if hi < a + len then some hi else none

/-- LD4 and LD8. -/
def wmLoad (e : WmEnv) (d a n : Nat) (x : WmRun) (s : State) : State × WmRun :=
  if a % n ≠ 0 then (s, wmStop e.side 3 x)
  else
    match s.rangeBad a n with
    | some b => (s.haulRange e.core e.post b, { x with stop := true, fault := some (stAddrRange, b % 2 ^ 32) })
    | none =>
      let (s, rd) := s.readMem (srcCore e.core) a n
      match rd.err with
      | some (st, b) => (s, { x with stop := true, fault := some (st, b % 2 ^ 32) })
      | none => (s, { x with w := listSet x.w d (ofLe rd.bytes) })

/-- EMIT. -/
def wmEmit (e : WmEnv) (a : Nat) (x : WmRun) (s : State) : State × WmRun :=
  if a % 32 ≠ 0 then (s, wmStop e.side 3 x)
  else if e.total < (x.out.length + 1) * e.run then (s, wmStop e.side 2 x)
  else
    match s.holeIn a e.run with
    | some b => (s.haulRange e.core e.post b, { x with stop := true, fault := some (stAddrRange, b % 2 ^ 32) })
    | none =>
      match outsidePool e.within a e.run with
      | some b => (s, { x with stop := true, fault := some (0x65, b % 2 ^ 32) })
      | none => (s, { x with out := a :: x.out, idle := 0 })

/-- The result of an arithmetic OP (R293). -/
def wmAlu (op a b : Nat) (imm : Int) : Nat :=
  let m := ofInt 64 imm
  let v := match op with
    | 0x01 => m
    | 0x02 => a + m
    | 0x03 => a + b
    | 0x04 => a + 2 ^ 64 - b
    | 0x05 => a * m
    | 0x06 => a * b
    | 0x07 => a * 2 ^ (m % 64)
    | 0x08 => a / 2 ^ (m % 64)
    | _ => Nat.land a m
  v % 2 ^ 64

/-- One instruction. -/
def wmStep (e : WmEnv) (x : WmRun) (s : State) : State × WmRun :=
  match e.ins[x.pc]? with
  | none =>
    (s, if x.out.length * e.run < e.total then wmStop e.side 1 x else { x with stop := true })
  | some i =>
    if x.idle = 1024 then (s, wmStop e.side 4 x)
    else
      let a := x.w.getD i.a 0
      let b := x.w.getD i.b 0
      let x := { x with idle := x.idle + 1, pc := x.pc + 1 }
      match i.op with
      | 0x0C =>
        if a % 2 ^ 32 = 0 then (s, { x with pc := wmEnd x.pc 0 (e.ins.drop x.pc) + 1 })
        else (s, { x with loops := (x.pc, a % 2 ^ 32) :: x.loops })
      | 0x0D =>
        match x.loops with
        | (p, n) :: r => (s, if n = 1 then { x with loops := r } else { x with pc := p, loops := (p, n - 1) :: r })
        | [] => (s, x)
      | 0x0E => wmEmit e ((e.addr + a + ofInt 64 i.imm) % 2 ^ 64) x s
      | 0x0A => wmLoad e i.d ((a + ofInt 64 i.imm) % 2 ^ 64) 4 x s
      | 0x0B => wmLoad e i.d ((a + ofInt 64 i.imm) % 2 ^ 64) 8 x s
      | op => (s, { x with w := listSet x.w i.d (wmAlu op a b i.imm) })

/-- Run a program to its end. The fuel is the most instructions one can run: 1,025 for each run and its end. -/
def wmGo (e : WmEnv) : Nat → WmRun → State → State × WmRun
  | 0, x, s => (s, x)
  | fuel + 1, x, s =>
    let (s, x) := wmStep e x s
    if x.stop then (s, x) else wmGo e fuel x s

/-! ## The runs of a side -/

/-- The run addresses of a side in MODE 0, dimension 0 fastest (R290). -/
def dimRuns (d : List Byte) (base : Nat) : List Nat :=
  ((List.range (leAt d (base + 0xC) 1)).foldl (fun runs k =>
    (List.range (countOf d base k)).flatMap (fun i => runs.map (· + Int.ofNat i * strideOf d base k)))
    [Int.ofNat (leAt d base 8)]).map (ofInt 64)

/-- The runs of a side with the fault its program met after them. -/
structure Side where
  runs : List Nat
  fault : Option (Nat × Nat)
  deriving DecidableEq, Repr

/-- The first failing run of a side in MODE 0: a hole or register space (R295). -/
def State.runsBad (s : State) (run : Nat) : List Nat → Option Nat
  | [] => none
  | a :: r => match s.holeIn a run with | some b => some b | none => s.runsBad run r

/-- The first run of a window's side that leaves its pool. -/
def runsOutside (p : Option (Nat × Nat)) (run : Nat) : List Nat → Option Nat
  | [] => none
  | a :: r => match outsidePool p a run with | some b => some b | none => runsOutside p run r

/-- A transfer that fails before a byte moves. -/
abbrev Stop := Nat × Nat

/-- Read a side's program and check it (R291, R292, R294). -/
def State.wmFetch (s : State) (d : List Byte) (base side core : Nat) (post : Bool) : State × Except Stop (List WmIns) :=
  let a := leAt d (base + 0x10) 8
  match s.rangeBad a 16 with
  | some b => (s.haulRange core post b, .error (stAddrRange, b % 2 ^ 32))
  | none =>
    let (s, h) := s.readMem (srcCore core) a 16
    match h.err with
    | some (st, b) => (s, .error (st, b % 2 ^ 32))
    | none =>
      let n := leAt h.bytes 1 1
      let len := if 1 ≤ n ∧ n ≤ 32 then 4 * n else 0
      match s.rangeBad (a + 16) len with
      | some b => (s.haulRange core post b, .error (stAddrRange, b % 2 ^ 32))
      | none =>
        let (s, t) := s.readMem (srcCore core) (a + 16) len
        match t.err with
        | some (st, b) => (s, .error (st, b % 2 ^ 32))
        | none =>
          let p := h.bytes ++ t.bytes
          match s.wmFail p with
          | some o => (s, .error (0x62, o + side * 2 ^ 16))
          | none => (s, .ok (wmInstrs p))

/-- Run a side's program. -/
def State.wmSide (s : State) (d : List Byte) (base : Nat) (e : WmEnv) : State × Side :=
  let w := (List.range 4).map (fun j => leAt d (base + 0x18 + 8 * j) 8) ++ [0, 0, 0, 0]
  let (s, x) := wmGo e ((e.total / e.run + 2) * 1025) { w } s
  (s, ⟨x.out.reverse, x.fault⟩)

end Sys2Proof.Machine
end

