-- ==== Sys2Proof/Machine/Haul.lean ====
section
/-! DEFINITION. Haul engines and the porter path (09_haul_and_porter.md): contexts, pools and credits, transfers,
windows, prefetch and drops, the stall watch, and HCTX, HCOPY, WFILL, WREL and PORTER. -/

namespace Sys2Proof.Machine

/-! ## Contexts and pools (R284, R285, R303) -/

def State.haul (s : State) (n : Nat) : Haul := mget {} s.hauls n
def State.setHaul (s : State) (n : Nat) (h : Haul) : State := { s with hauls := mset {} s.hauls n h }
def State.haulCtx (s : State) (n c : Nat) : Option HaulCtx := mget none (s.haul n).ctxs c

def State.setHaulCtx (s : State) (n c : Nat) (x : Option HaulCtx) : State :=
  let h := s.haul n
  s.setHaul n { h with ctxs := mset none h.ctxs c x }

/-- The pool behind a pool code of a core: Store pool k of the image in force that is a window pool its rope may use, or
the core's local pool, 64 + n. -/
def State.poolKey (s : State) (n code : Nat) : Option Nat :=
  if code = 0x7E then some (64 + n)
  else
    match s.image.pools[code]? with
    | some p => if p.kind = 1 ∧ (p.rope = 0xFF ∨ p.rope = s.ropeOf n) then some code else none
    | none => none

/-- CAP of a pool and the addresses of its billets. -/
def State.poolCap (s : State) (k : Nat) : Nat :=
  if 64 ≤ k then s.fld (Reg.HAUL_LPOOL (k - 64)) 22 16 else (s.image.pools.getD k {}).count

def State.poolRange (s : State) (k : Nat) : Nat × Nat :=
  let lo := if 64 ≤ k then localBase (k - 64) + s.fld (Reg.HAUL_LPOOL (k - 64)) 6 0 * 0x10000
    else storeBase + (s.image.pools.getD k {}).first * 0x10000
  (lo, lo + s.poolCap k * 0x10000)

/-- The open contexts of the device, with their core and number. -/
def State.openCtxs (s : State) : List (Nat × Nat × HaulCtx) :=
  s.hauls.flatMap (fun e => e.2.ctxs.filterMap (fun c => c.2.map (fun x => (e.1, c.1, x))))

/-- RES: the contexts open on a pool, device-wide (R285). -/
def State.poolRes (s : State) (k : Nat) : Nat :=
  (s.openCtxs.filter (fun x => s.poolKey x.1 x.2.2.pool == some k)).length

def winBillets (ws : List Window) : Nat := (ws.map (fun w => w.billets.length)).foldl (· + ·) 0

/-- The windows of a context. -/
def ctxWins (h : Haul) (c : Nat) : List Window := h.wins.filter (fun w => w.ctx == c)

/-- HELD of a pool: billets held by windows, whether filling or filled (R303). -/
def State.poolHeld (s : State) (k : Nat) : Nat :=
  (s.openCtxs.map (fun x =>
    if s.poolKey x.1 x.2.2.pool = some k then winBillets (ctxWins (s.haul x.1) x.2.1) else 0)).foldl (· + ·) 0

def State.credit (s : State) (k : Nat) : Credit := mget {} s.credits k
def State.setCredit (s : State) (k : Nat) (c : Credit) : State := { s with credits := mset {} s.credits k c }

/-- CAP − RES − HELD: the free credits but for those lent. -/
def State.poolFree (s : State) (k : Nat) : Int :=
  Int.ofNat (s.poolCap k) - Int.ofNat (s.poolRes k) - Int.ofNat (s.poolHeld k)

/-- Whether a fill may take a credit now: a free one, or a lent one where the reserve is lent to it (R303, R304). -/
def State.canTake (s : State) (k n id : Nat) : Bool :=
  let x := s.credit k
  let lentTo := match x.grant with | some (m, j, _) => m == n && j == id | none => false
  decide (0 < s.poolFree k) || (lentTo && decide (0 < s.poolFree k + Int.ofNat x.lent))

/-- Released billets lower LENT first (R303). -/
def State.lowerLent (s : State) (k count : Nat) : State :=
  let x := s.credit k
  if x.lent = 0 ∨ count = 0 then s
  else if x.lent ≤ count then s.setCredit k { x with lent := 0, grant := none, stuck := false }
  else s.setCredit k { x with lent := x.lent - count }

/-- HAUL_LPOOL_STATUS and HAUL_SPOOL. -/
def State.poolStatus (s : State) (k : Nat) : Word :=
  let x := s.credit k
  BitVec.ofNat 64 ((if x.stuck then 2 ^ 61 else 0) + (if x.lent ≠ 0 then 2 ^ 60 else 0) + x.waiters.length % 2 ^ 17 * 2 ^ 43
    + s.poolRes k % 2 ^ 13 * 2 ^ 26 + s.poolHeld k % 2 ^ 13 * 2 ^ 13 + s.poolCap k % 2 ^ 13)

/-- HAUL_SPOOL[k]: a pool that is no window pool of the image reads zero. -/
def State.spoolStatus (s : State) (k : Nat) : Word :=
  if (s.image.pools.getD k {}).kind = 1 then s.poolStatus k else 0

/-- HAUL_CTX[n][c]. -/
def State.haulCtxWord (s : State) (n c : Nat) : Word :=
  match s.haulCtx n c with
  | none => 0
  | some x =>
    let ws := ctxWins (s.haul n) c
    BitVec.ofNat 64 (winBillets ws % 2 ^ 12 * 2 ^ 40 + 2 ^ 31 + (if ws.any (·.waits) then 2 ^ 30 else 0) + x.pool * 2 ^ 23
      + ws.length % 2 ^ 5 * 2 ^ 18 + x.maxb)

/-- A write of HAUL_LPOOL: ignored while a context is open on the local pool, or where the range leaves the core's
billets. -/
def State.lpoolWrite (s : State) (n : Nat) (v : Word) : State :=
  if (s.haul n).ctxs.any (fun c => match c.2 with | some x => x.pool == 0x7E | none => false) ∨ 96 < fget v 22 16 + fget v 6 0 then
    s.raise (Reg.HAUL_EVENT n) 3 (Reg.HAUL_EVENT_CNT n) 48
  else s.writePlain (Reg.HAUL_LPOOL n) v

/-! ## Windows -/

def State.win? (s : State) (n id : Nat) : Option Window := (s.haul n).wins.find? (fun w => w.id == id)

def State.modWin (s : State) (n id : Nat) (f : Window → Window) : State :=
  let h := s.haul n
  s.setHaul n { h with wins := h.wins.map (fun w => if w.id = id then f w else w) }

/-- Take an entry out of a context's line. -/
def State.leaveLine (s : State) (n c : Nat) (e : InLine) : State :=
  match s.haulCtx n c with
  | some x => s.setHaulCtx n c (some { x with line := x.line.filter (fun y => y != e) })
  | none => s

/-- Whether an entry of a line is a prefetch: a fill whose WFILL has not been issued. -/
def isPre (h : Haul) : InLine → Bool
  | .fill id => h.wins.any (fun w => w.id == id && !w.issued)
  | _ => false

/-- An entry joins a context's line: an issued one behind those issued before it and ahead of every prefetch, whose record
is a later one (R284). -/
def State.joinLine (s : State) (n c : Nat) (e : InLine) : State :=
  match s.haulCtx n c with
  | some x =>
    let h := s.haul n
    let line := if isPre h e then x.line ++ [e] else x.line.filter (fun y => !isPre h y) ++ e :: x.line.filter (isPre h)
    s.setHaulCtx n c (some { x with line })
  | none => s

/-- The pool of a context. -/
def State.ctxPool (s : State) (n c : Nat) : Option Nat :=
  match s.haulCtx n c with
  | some x => s.poolKey n x.pool
  | none => none

/-- The contents of a billet become undefined (R299). -/
def State.openBillet (s : State) (b : Nat) : State := s.openRange (b * 0x10000) ((b + 1) * 0x10000)

/-- The requests of a token are stopped and their answers discarded (R302); the dirty data that a snoop may still bring belong to
memory whoever asked for them (R402). -/
def State.stopTok (s : State) (tok : Tok) : State :=
  let stopped := fun (x : Tok × Need) =>
    if x.1 = tok then (match x.2 with | .snoop _ _ _ => some (Tok.idle, x.2) | _ => none) else some x
  { s with outstanding := s.outstanding.filterMap stopped, answers := s.answers.filter (fun x => x.1 != tok) }

/-- A window goes: its requests stop, its billets, undefined from then on, return to the pool (R299), its source pages are
released, and it waits no more. -/
def State.freeWin (s : State) (n : Nat) (w : Window) : State :=
  let k := s.ctxPool n w.ctx
  let s := s.stopTok (.fill n w.id)
  let s := (w.billets.foldl State.openBillet s).leaveLine n w.ctx (.fill w.id)
  let h := s.haul n
  let s := s.setHaul n { h with wins := h.wins.filter (fun x => x.id != w.id) }
  match k with
  | none => s
  | some k =>
    let s := s.setCredit k { s.credit k with waiters := (s.credit k).waiters.filter (fun x => !(x.1 == n && x.2 == w.id)) }
    s.lowerLent k w.billets.length

/-- The bytes a transfer has read. -/
def Move.got (m : Move) : Nat := (m.data.map (fun e => e.2.1.length)).sum

/-- A prefetch is dropped by a cancel or a quiesce (R302). -/
def State.dropWin (s : State) (n : Nat) (w : Window) : State :=
  ((s.count (Reg.HAUL_CNT_DROP n) w.move.got).count (Reg.HAUL_CNT_DROPB n) w.billets.length).freeWin n w

/-- Drop every WFILL that has not begun, of one queue or of all (R302). -/
def State.dropPrefetch (s : State) (q : Option Nat) : State :=
  s.hauls.foldl (fun s e => e.2.wins.foldl (fun s w =>
    if !w.issued && (q == none || q == some w.q) then s.dropWin e.1 w else s) s) s

/-- What a route-image load leaves: every context open, no window, no credit held (R299, R313). -/
def State.haulLoad (s : State) : State :=
  let s := s.hauls.foldl (fun s e => e.2.wins.foldl (fun s w => w.billets.foldl State.openBillet s) s) s
  { s with
    credits := []
    hauls := s.hauls.map (fun e => (e.1, { e.2 with
      wins := [], ctxs := e.2.ctxs.map (fun c => (c.1, c.2.map (fun x => { x with line := [], loaded := true, move := none }))) })) }

/-! ## Pieces of a transfer (R290, R298, R303) -/

/-- Cut two sides' runs into pieces that cross no run, no 2 MiB source page and no 64 KiB destination billet. Each element
is an address, the bytes left of its run and where its run began. -/
def cutRuns (srun drun : Nat) : Nat → List Nat → List Nat → Nat → Nat → List Seg
  | 0, _, _, _, _ => []
  | fuel + 1, a :: rs, b :: rd, so, d_ =>
    let src := a + so
    let dst := b + d_
    let n := min (min (srun - so) (drun - d_)) (min (0x200000 - src % 0x200000) (0x10000 - dst % 0x10000))
    let x : Seg := { src, dst, len := n, run := a }
    let endS := so + n = srun
    let endD := d_ + n = drun
    x :: cutRuns srun drun fuel (if endS then rs else a :: rs) (if endD then rd else b :: rd)
      (if endS then 0 else so + n) (if endD then 0 else d_ + n)
  | _, _, _, _, _ => []

/-- The common bytes of two ranges. -/
def common (a n b m : Nat) : List (Nat × Nat) :=
  let lo := max a b
  let hi := min (a + n) (b + m)
  if lo < hi then [(lo, hi)] else []

/-- Destination bytes that another piece writes too, or that the transfer reads. -/
def overlaps : List Seg → List Seg → List (Nat × Nat)
  | _, [] => []
  | all, x :: r =>
    (r.flatMap (fun y => common x.dst x.len y.dst y.len)) ++ (all.flatMap (fun y => common x.dst x.len y.src y.len))
      ++ overlaps all r

/-- The requests of one side of a transfer (R296): each run cut by itself, up to the `left` bytes that are moved. -/
def State.sideReqs (s : State) (run : Nat) (wr : Bool) : Nat → Nat → List Nat → List Req
  | _, _, [] => []
  | off, left, a :: rs =>
    let n := min run left
    (s.requests a n).map (fun x => { addr := x.1, len := x.2, off := off + (x.1 - a), wr })
      ++ s.sideReqs run wr (off + n) (left - n) rs

/-- The pieces of a transfer, the requests of its sides, its overlaps, and the run-time fault it meets after them. -/
structure Layout where
  segs : List Seg
  reads : List Req
  writes : List Req
  overlap : List (Nat × Nat)
  fault : Option (Nat × Nat)
  deriving DecidableEq, Repr

/-- The fault of the side whose program stopped first, in bytes of the transfer. -/
def firstFault (srun drun : Nat) (a b : Side) : Option (Nat × Nat) :=
  match a.fault, b.fault with
  | some f, some g => if b.runs.length * drun < a.runs.length * srun then some g else some f
  | some f, none => some f
  | none, g => g

/-- Checks 5 and 6 of R310, and the pieces: the descriptor and programs, the addresses of sides in MODE 0, the window
destinations; then the programs run. -/
def State.layOut (s : State) (d : List Byte) (core : Nat) (post : Bool) (within : Option (Nat × Nat)) :
    State × Except Stop Layout :=
  match s.descFail d with
  | some o => (s, .error (0x61, o))
  | none =>
    let total := descTotal d
    let srun := leAt d 0x28 4
    let drun := leAt d 0x98 4
    let (s, pa) := if sideMode d 0x20 = 1 then s.wmFetch d 0x20 0 core post else (s, .ok [])
    match pa with
    | .error e => (s, .error e)
    | .ok ia =>
      let (s, pb) := if sideMode d 0x90 = 1 then s.wmFetch d 0x90 1 core post else (s, .ok [])
      match pb with
      | .error e => (s, .error e)
      | .ok ib =>
        let ra := if sideMode d 0x20 = 1 then [] else dimRuns d 0x20
        let rb := if sideMode d 0x90 = 1 then [] else dimRuns d 0x90
        match (s.runsBad srun ra).orElse (fun _ => s.runsBad drun rb) with
        | some b => (s.haulRange core post b, .error (stAddrRange, b % 2 ^ 32))
        | none =>
          match runsOutside within drun rb with
          | some b => (s, .error (0x65, b % 2 ^ 32))
          | none =>
            let (s, x) := if sideMode d 0x20 = 1
              then s.wmSide d 0x20 ⟨0, leAt d 0x20 8, srun, total, ia, core, post, none⟩ else (s, ⟨ra, none⟩)
            let (s, y) := if sideMode d 0x90 = 1
              then s.wmSide d 0x90 ⟨1, leAt d 0x90 8, drun, total, ib, core, post, within⟩ else (s, ⟨rb, none⟩)
            let segs := cutRuns srun drun (total / 32 + 1) x.runs y.runs 0 0
            let moved := (segs.map (·.len)).sum
            (s, .ok ⟨segs, s.sideReqs srun false 0 moved x.runs, s.sideReqs drun true 0 moved y.runs, overlaps segs segs,
              firstFault srun drun x y⟩)

/-- What a transfer has read of n of its bytes, with the poisoned lines among them by byte of the transfer; none where some of it
has not been read. -/
def Move.bytes (m : Move) (off n : Nat) : Option (List Byte × List Nat) :=
  let near := m.data.filter (fun e => decide (e.1 < off + n ∧ off < e.1 + e.2.1.length))
  let bytes := near.flatMap (fun e => slice e.2.1 (off - e.1) (min (off + n) (e.1 + e.2.1.length) - max off e.1))
  if bytes.length = n then some (bytes, (near.flatMap (fun e => e.2.2)).filter (fun l => decide (off ≤ l ∧ l < off + n))) else none

/-- A read request of a transfer completes: its bytes are kept, with the lines that failed as poison (R276, R309). -/
def State.moveRead (core : Nat) (r : Req) (s : State) (m : Move) : State × Move :=
  let (s, rd) := s.readPast (srcCore core) 2048 r.addr r.len
  (s.count (Reg.HAUL_CNT_RD core) r.len,
    { m with data := mput m.data r.off (rd.bytes, rd.bad.map (fun l => l + r.off - r.addr)),
             err := m.err.orElse (fun _ => rd.err), poison := m.poison || !rd.bad.isEmpty })

/-- A write request of a transfer: a line whose source line failed is written with the poison mark (R276, R309). Bytes of an
overlap that go to a host are free values (R290). -/
def State.moveWrite (core : Nat) (r : Req) (s : State) (m : Move) : State × Move :=
  match m.bytes r.off r.len with
  | none => (s, m)
  | some (bytes, bad) =>
    let bytes :=
      if inSpill r.addr ∧ m.overlap ≠ [] then
        (numbered bytes).map (fun b =>
          if m.overlap.any (fun o => decide (o.1 ≤ r.addr + b.1 ∧ r.addr + b.1 < o.2)) then Config.freeByte s.free (r.addr + b.1) else b.2)
      else bytes
    let (s, we) := s.writePast (srcCore core) 2048 r.addr bytes (bad.map (fun l => l + r.addr - r.off))
    (s.count (Reg.HAUL_CNT_WR core) r.len, { m with err := m.err.orElse (fun _ => we) })

/-- Whether a request has been sent and something of it is not answered. -/
def State.reqOut (s : State) (tok : Tok) (r : Req) : Bool :=
  match r.phase with
  | .sent ns => ns.any (fun n => s.outstanding.any (fun x => x.1 == tok && x.2 == n))
  | _ => false

/-- Whether a request may be tried: of the bytes taken, not waiting for a slot nor for an answer, and where it writes with its bytes
read. One that waits for a slot ends at once where its window has been disabled (R397). -/
def State.reqMay (s : State) (tok : Tok) (taken : Nat) (m : Move) (r : Req) : Bool :=
  decide (r.off < taken) && (!r.wr || (m.bytes r.off r.len).isSome)
    && (match r.phase with
        | .idle => true
        | .wants _ => decide (s.place r.addr = .hole)
        | .sent _ => !s.reqOut tok r)

/-- A request of a transfer is through: what it waited for is used up. -/
def State.closeReq (s : State) (r : Req) : State :=
  let mine := match r.phase with | .sent ns => ns | _ => []
  { s with env := {}, token := .idle, answers := s.answers.filter (fun x => !(x.1 == s.token && mine.contains x.2.1)) }

/-- Try one request of a transfer: it completes, or what it waits for is to be sent once it has a slot. -/
def State.tryReq (core : Nat) (tok : Tok) (env : Env) (taken : Nat) (acc : State × Move) (r : Req) : State × Move :=
  let (s, m) := acc
  let later := fun (r : Req) => (s, { m with reqs := m.reqs ++ [r] })
  if s.reqMay tok taken m r then
    let u := { s with env := env, token := tok, needs := [] }
    let (t, m') := if r.wr then u.moveWrite core r m else u.moveRead core r m
    if t.needs = [] then (t.closeReq r, m') else later { r with phase := .wants t.needs }
  else later r

/-- A transfer's requests go on: each that may is tried, in order. -/
def State.moveOn (s : State) (core : Nat) (tok : Tok) (env : Env) (taken : Nat) (m : Move) : State × Move :=
  m.reqs.foldl (State.tryReq core tok env taken) (s, { m with reqs := [] })

/-- The bytes of an overlap are undefined once written (R290). -/
def State.openOver (s : State) (overlap : List (Nat × Nat)) : State :=
  overlap.foldl (fun s o => if spillBase 0 ≤ o.1 ∧ o.1 < spillBase 8 then { s with free := s.free + 1 } else s.openRange o.1 o.2) s

def State.haulPoison (s : State) (n : Nat) (b : Bool) : State :=
  if b then s.raise (Reg.HAUL_EVENT n) 2 (Reg.HAUL_EVENT_CNT n) 32 else s

/-! ## Fills (R298, R303, R309) -/

/-- The source page of an address, where it is SEALED (R298). -/
def State.sealedPage (s : State) (a : Nat) : Option HeldPage :=
  match s.place a with
  | .stacked => if s.sealOf a = 1 then some (.page (a / 0x200000)) else none
  | .spill h o =>
    ((List.range 16).find? (fun i =>
      let t := s.spillSlot h i
      t.state == 1 && decide (t.first ≤ o / 0x200000 ∧ o / 0x200000 < t.first + t.count))).map (fun i => .slot (16 * h + i))
  | _ => none

/-- Whether a window holds the page of an address. -/
def State.holdsPage (s : State) (w : Window) (a : Nat) : Bool :=
  w.pages.any (fun p => match p, s.place a with
    | .page k, .stacked => k == a / 0x200000
    | .slot i, .spill h o =>
      let t := mget {} s.spillSeals i
      i / 16 == h && decide (t.first ≤ o / 0x200000 ∧ o / 0x200000 < t.first + t.count)
    | _, _ => false)

/-- A fill ends with a failing check: its window goes, and a prefetch is only counted (R301, R310). -/
def State.fillFails (s : State) (n : Nat) (w : Window) (f : Nat × Nat) : State :=
  let s := if w.issued then s.setPhaseOf w.q w.item.num (.ended f.1 f.2) else s.count (Reg.HAUL_CNT_DROP n) w.move.got
  s.freeWin n w

/-- One request of those that write a fill's billets. -/
def State.billetWrite (n : Nat) (m : Move) (s : State) (r : Req) : State :=
  match m.bytes r.off r.len with
  | some (bytes, bad) => (s.writePast (srcCore n) 2048 r.addr bytes (bad.map (fun l => l + r.addr - r.off))).1
  | none => s

/-- The billets of a fill take what it read, as its WFILL ends; the bytes of an overlap stay undefined (R290, R299). -/
def State.fillWrite (s : State) (n : Nat) (w : Window) : State :=
  let s := w.move.outs.foldl (State.billetWrite n w.move) s
  (s.openOver w.move.overlap).modWin n w.id (fun w => { w with move := { w.move with outs := [], data := [] } })

/-- A fill has moved its last byte: its record ends if it has been issued. -/
def State.fillEnds (s : State) (n : Nat) (w : Window) : State :=
  let s := s.haulPoison n w.move.poison
  match w.move.fault with
  | some f => s.fillFails n w f
  | none =>
    let s := (s.modWin n w.id (fun w => { w with filled := true })).leaveLine n w.ctx (.fill w.id)
    if w.issued then
      (s.fillWrite n w).setPhaseOf w.q w.item.num
        (match w.move.err with | some (st, a) => .ended st (a % 2 ^ 32) | none => .ended stOk 0)
    else s

/-- A fill begins to wait for a credit (R303). -/
def State.fillWaits (s : State) (k n id : Nat) : State :=
  (s.setCredit k { s.credit k with waiters := (s.credit k).waiters ++ [(n, id)] }).modWin n id (fun w => { w with waits := true })

/-- A fill takes a credit for a billet, whose contents are undefined from then on (R299); one of a lent reserve is counted. -/
def State.takeBillet (s : State) (k n id billet : Nat) : State :=
  let s := if s.poolFree k ≤ 0 then s.count (Reg.HAUL_CNT_RESERVE n) 1 else s
  (s.openBillet billet).modWin n id (fun w => { w with billets := w.billets ++ [billet] })

/-- A fill needs one more billet than MAXB lets its context hold at once (R287): it goes on once the context holds fewer
(DEDUCED, log 97). -/
def State.fillCapped (s : State) (n : Nat) (w : Window) : Bool :=
  match w.todo, s.haulCtx n w.ctx with
  | x :: _, some c =>
    !w.billets.contains (x.dst / 0x10000) && decide (c.maxb ≤ winBillets (ctxWins (s.haul n) w.ctx))
  | _, _ => false

/-- A fill meets a fault: no later piece is taken, what it has sent completes, and then the fault ends it. -/
def State.fillFault (s : State) (n id : Nat) (f : Nat × Nat) : State :=
  s.modWin n id (fun w => { w with
    todo := [], move := { w.move with fault := some f, reqs := w.move.reqs.filter (fun r => decide (r.off < w.taken)) } })

/-- The page of a piece does not let it be filled: a source that has become a hole is out of range (R36, R397), any other is not
SEALED (R298). -/
def State.pageFault (s : State) (n : Nat) (w : Window) (x : Seg) : State :=
  if s.place x.src = .hole then (s.haulRange n w.issued x.src).fillFault n w.id (stAddrRange, x.src % 2 ^ 32)
  else s.fillFault n w.id (0x64, max x.run (x.src / 0x200000 * 0x200000) % 2 ^ 32)

/-- A fill takes its pieces one by one: it registers the source page if that is SEALED (R298) and takes the destination billet's
credit (R303); the requests of the piece may then be sent. -/
def State.fillTake (k n id : Nat) : Nat → State → State
  | 0, s => s
  | fuel + 1, s =>
    match s.win? n id with
    | none => s
    | some w =>
      match w.todo with
      | [] => s
      | x :: rest =>
        if w.waits then s
        else
        match (if s.holdsPage w x.src then some w.pages else (s.sealedPage x.src).map (fun p => w.pages ++ [p])) with
        | none => s.pageFault n w x
        | some pages =>
          let s := s.modWin n id (fun w => { w with pages })
          let b := x.dst / 0x10000
          let x0 := s.credit k
          let first := x0.waiters.isEmpty || (match x0.grant with | some (m, j, _) => m == n && j == id | none => false)
          if s.fillCapped n w then s
          else if b ∉ w.billets ∧ !(first && s.canTake k n id) then s.fillWaits k n id
          else State.fillTake k n id fuel
            ((if b ∈ w.billets then s else s.takeBillet k n id b).modWin n id (fun w => { w with todo := rest, taken := w.taken + x.len }))

/-- The descriptor of a record: inline, or read from DESC (R288, R291). -/
def State.readDesc (s : State) (r : Fetched) (core : Nat) (post : Bool) : State × Except Stop (List Byte) :=
  if r.inl ≠ 0 then (s, .ok r.inlineData)
  else
    match s.rangeBad (r.f 8 8) 256 with
    | some b => (s.haulRange core post b, .error (stAddrRange, b % 2 ^ 32))
    | none =>
      let (s, rd) := s.readMem (srcCore core) (r.f 8 8) 256
      match rd.err with
      | some (st, a) => (s, .error (st, a % 2 ^ 32))
      | none => (s, .ok rd.bytes)

/-- A fill's work starts: its descriptor is read and its pieces laid out, once (R291). -/
def State.fillStart (n id k : Nat) (s : State) : State :=
  match s.win? n id with
  | none => s
  | some w =>
    let (s, d) := s.readDesc w.item n w.issued
    match d with
    | .error e => s.fillFails n w e
    | .ok d =>
      let (s, l) := s.layOut d n w.issued (some (s.poolRange k))
      match l with
      | .error e => s.fillFails n w e
      | .ok l => s.modWin n id (fun w => { w with
          ready := true, todo := l.segs, move := { reqs := l.reads, outs := l.writes, overlap := l.overlap, fault := l.fault } })

/-- A fill that is laid out goes on: it takes what pieces it may, its requests go on, and it ends with the last of them. -/
def State.fillOn (k n id : Nat) (env : Env) (s : State) : State :=
  let s := State.fillTake k n id (((s.win? n id).map (·.todo.length)).getD 0 + 1) s
  match s.win? n id with
  | none => s
  | some w =>
    let (s, m) := s.moveOn n (.fill n id) env w.taken w.move
    let s := (s.count (Reg.HAUL_CNT_WR n) (m.got - w.move.got)).modWin n id (fun w => { w with move := m })
    if w.todo.isEmpty && m.reqs.isEmpty then s.settle (.fill n id) env (fun s => s.fillEnds n { w with move := m }) else s

/-- A fill's turn comes or comes again. -/
def State.fillTurn (n id : Nat) (env : Env) (s : State) : State :=
  match s.win? n id with
  | none => s
  | some w =>
    match s.ctxPool n w.ctx with
    | none => s.fillFails n w (0x66, w.ctx + 5 * 2 ^ 9)
    | some k =>
      let s := if w.ready then s else s.settle (.fill n id) env (State.fillStart n id k)
      if (s.win? n id).any (·.ready) then s.fillOn k n id env else s

/-! ## HCOPY's turn (R284, R290, R309) -/

def State.modCtx (s : State) (n c : Nat) (f : HaulCtx → HaulCtx) : State := s.setHaulCtx n c ((s.haulCtx n c).map f)

/-- An HCOPY ends and leaves its context's line. -/
def State.copyEnds (s : State) (n c q num : Nat) (ph : Phase) : State :=
  ((s.modCtx n c (fun x => { x with move := none })).leaveLine n c (.copy q num)).setPhaseOf q num ph

/-- An HCOPY's work starts: its descriptor is read and its requests laid out, once (R291, R295). -/
def State.copyStart (n c q : Nat) (r : Fetched) (s : State) : State :=
  let (s, d) := s.readDesc r n true
  match d with
  | .error (st, x) => s.copyEnds n c q r.num (.ended st x)
  | .ok d =>
    let (s, l) := s.layOut d n true none
    match l with
    | .error (st, x) => s.copyEnds n c q r.num (.ended st x)
    | .ok l => s.modCtx n c (fun x => { x with
        move := some { reqs := l.reads ++ l.writes, overlap := l.overlap, fault := l.fault } })

/-- An HCOPY's requests have all completed. -/
def State.copyDone (s : State) (n c q num : Nat) (m : Move) : State :=
  let s := (s.openOver m.overlap).haulPoison n m.poison
  match m.fault with
  | some (st, x) => s.copyEnds n c q num (.ended st x)
  | none => let (s, ph) := endMem s m.err; s.copyEnds n c q num ph

/-- HCOPY moves its data when its turn in its context comes. -/
def State.copyTurn (n c q num : Nat) (env : Env) (s : State) : State :=
  match s.haulCtx n c, s.issuedAt q num with
  | some x, some i =>
    let s := if x.move.isSome then s else s.settle (.record q num) env (State.copyStart n c q i.item)
    match (s.haulCtx n c).bind (·.move) with
    | none => s
    | some m =>
      let (s, m) := s.moveOn n (.record q num) env (2 ^ 64) m
      if m.reqs.isEmpty then s.copyDone n c q num m else s.modCtx n c (fun x => { x with move := some m })
  | _, _ => s

/-- A record behind a CLOSE in the line finds its context closed (R310). -/
def State.endBehind (c : Nat) (s : State) : InLine → State
  | .copy q num | .close q num => s.setPhaseOf q num (.ended 0x66 c)
  | .fill _ => s

/-- HCTX CLOSE, once every earlier transfer of the context has ended (R287). -/
def State.closeCtx (s : State) (n c q num : Nat) : State :=
  let s := s.leaveLine n c (.close q num)
  if (ctxWins (s.haul n) c).isEmpty then
    let behind := match s.haulCtx n c with | some x => x.line | none => []
    behind.foldl (State.endBehind c) ((s.setHaulCtx n c none).setPhaseOf q num (.ended stOk 0))
  else s.setPhaseOf q num (.ended 0x66 (c + 4 * 2 ^ 9))

/-! ## What can go on -/

/-- The copying that the entry at the front of a context's line has under way, with its token. -/
def frontMove (n : Nat) (h : Haul) (x : HaulCtx) : Option (Tok × Move) :=
  match x.line with
  | .fill id :: _ => (h.wins.find? (fun w => w.id == id)).map (fun w => (.fill n id, w.move))
  | .copy q num :: _ => x.move.map (fun m => (.record q num, m))
  | _ => none

/-- Whether a request of a copying may be tried, or none is left. -/
def State.moveMay (s : State) (tok : Tok) (taken : Nat) (m : Move) : Bool := m.reqs.isEmpty || m.reqs.any (s.reqMay tok taken m)

/-- Whether a fill can go on: it is to be laid out, or it can take a piece or try a request, or it is at its end. -/
def State.fillMay (s : State) (n : Nat) (w : Window) : Bool :=
  if w.ready then
    (!w.todo.isEmpty && !w.waits && !s.fillCapped n w) || w.move.reqs.any (s.reqMay (.fill n w.id) w.taken w.move)
      || (w.todo.isEmpty && w.move.reqs.isEmpty)
  else !s.tokenWaits (.fill n w.id)

/-- Whether the entry at the front of a context's line can go on. -/
def State.lineNext (s : State) (n : Nat) (h : Haul) (x : HaulCtx) : Option InLine :=
  match x.line with
  | [] => none
  | .fill id :: _ => if h.wins.any (fun w => w.id == id && s.fillMay n w) then some (.fill id) else none
  | .copy q num :: _ =>
    match x.move with
    | none => if s.tokenWaits (.record q num) then none else some (.copy q num)
    | some m => if s.moveMay (.record q num) (2 ^ 64) m then some (.copy q num) else none
  | .close q num :: _ => some (.close q num)

/-- The requests in flight of the entry at the front of a context's line (R296). -/
def State.ctxFlight (s : State) (n : Nat) (h : Haul) (x : HaulCtx) : Nat :=
  match frontMove n h x with
  | some (tok, m) => if m.reqs.isEmpty then (s.outstanding.filter (fun y => y.1 == tok)).length else (m.reqs.filter (s.reqOut tok)).length
  | none =>
    match x.line with
    | .copy q num :: _ => (s.outstanding.filter (fun y => y.1 == Tok.record q num)).length
    | _ => 0

/-- The transactions in flight of a core's haul engine (R296). -/
def State.haulFlight (s : State) (n : Nat) : Nat :=
  ((s.haul n).ctxs.map (fun c => (c.2.map (s.ctxFlight n (s.haul n))).getD 0)).sum

/-- The contexts of a core, round robin from the one served last. -/
def fromLast (h : Haul) : SMap (Option HaulCtx) :=
  h.ctxs.filter (fun c => decide (h.last < c.1)) ++ h.ctxs.filter (fun c => decide (c.1 ≤ h.last))

/-- The next context of a core with something to do; none while all its transactions are in flight (R296). -/
def State.haulReady (s : State) (n : Nat) (h : Haul) : Option (Nat × Nat × InLine) :=
  if 2048 ≤ s.haulFlight n then none
  else (fromLast h).findSome? (fun c => c.2.bind (fun x => (s.lineNext n h x).map (fun i => (n, c.1, i))))

/-- The first request that waits for a slot is sent. -/
def takeSlot : List Req → Option (List Need × List Req)
  | [] => none
  | r :: rest =>
    match r.phase with
    | .wants ns => some (ns, { r with phase := .sent ns } :: rest)
    | _ => (takeSlot rest).map (fun x => (x.1, r :: x.2))

/-- A context's first request that waits for a slot gets one. -/
def State.giveSlot (s : State) (n c : Nat) (x : HaulCtx) : Option State := do
  let (tok, m) ← frontMove n (s.haul n) x
  let (ns, reqs) ← takeSlot m.reqs
  let m := { m with reqs }
  let s := match x.line with
    | .fill id :: _ => s.modWin n id (fun w => { w with move := m })
    | _ => s.modCtx n c (fun x => { x with move := some m })
  some ((s.setHaul n { s.haul n with last := c }).sendNeeds tok ns)

/-- Free transaction slots go to the contexts of a core with requests that wait, round robin (R296). -/
def State.giveSlots (n : Nat) : Nat → State → State
  | 0, s => s
  | room + 1, s =>
    match (fromLast (s.haul n)).findSome? (fun c => c.2.bind (s.giveSlot n c.1)) with
    | some t => State.giveSlots n room t
    | none => s

/-- Slots are given on every core. -/
def State.slotsOn (s : State) : State := s.hauls.foldl (fun s e => State.giveSlots e.1 (2048 - s.haulFlight e.1) s) s

/-- The first core whose haul engine has something to do, and what. -/
def State.haulNext (s : State) : Option (Nat × Nat × InLine) := s.hauls.findSome? (fun e => s.haulReady e.1 e.2)

/-- Fills that wait get credits in the order in which they began to wait (R303); one whose context has come to hold MAXB
billets waits for those, not for a credit (R287). -/
def State.servePool (k : Nat) : Nat → State → State
  | 0, s => s
  | fuel + 1, s =>
    match (s.credit k).waiters with
    | [] => s
    | (n, id) :: rest =>
      if (s.win? n id).any (s.fillCapped n) then
        State.servePool k fuel ((s.setCredit k { s.credit k with waiters := rest }).modWin n id (fun w => { w with waits := false }))
      else if s.canTake k n id then
        let s := s.setCredit k { s.credit k with waiters := rest }
        let b := match s.win? n id with
          | some w => (match w.todo with | x :: _ => x.dst / 0x10000 | [] => 0)
          | none => 0
        State.servePool k fuel ((s.takeBillet k n id b).modWin n id (fun w => { w with waits := false }))
      else s

def State.servePools (s : State) : State :=
  s.credits.foldl (fun s e => State.servePool e.1 e.2.waiters.length s) s

/-- Everything the haul engines can do goes on until nothing can. -/
def State.haulGo (env : Env) : Nat → State → State
  | 0, s => s
  | fuel + 1, s =>
    if s.tripped then s else
    let s := s.servePools
    match s.haulNext with
    | none => s.slotsOn
    | some (n, c, e) =>
      let s := s.setHaul n { s.haul n with last := c }
      State.haulGo env fuel (match e with
        | .fill id => s.fillTurn n id env
        | .copy q num => s.copyTurn n c q num env
        | .close q num => s.closeCtx n c q num)

/-- The fuel of `haulGo`: more steps than credits and contexts. -/
def haulFuel : Nat := 0x100000

def State.haulOn (s : State) (env : Env) : State := State.haulGo env haulFuel s

/-! ## The records (R286–R288, R300, R307, R310) -/

/-- A record fails its shape check at an offset (R311). -/
def endShape (s : State) (off : Nat) : State × Phase := done s 0x60 off

/-- CTX_STATE with a reason (R311). -/
def endCtx (s : State) (c reason : Nat) : State × Phase := done s 0x66 (c + reason * 2 ^ 9)

/-- CAP − RES as POOL_SMALL reports it. -/
def endSmall (s : State) (v : Int) : State × Phase := done s 0x67 (ofInt 13 v)

/-- The pool of an HCTX OPEN: why it refuses the context, none where it takes it. -/
def hctxPoolFail (c : Ctx) (s : State) (cx pool maxb : Nat) : Option (State × Phase) :=
  if pool = 0x7F then none
  else
    match s.poolKey c.core pool with
    | none => some (endCtx s cx 5)
    | some k =>
      let after := Int.ofNat (s.poolCap k) - Int.ofNat (s.poolRes k) - 1
      if after < Int.ofNat maxb then some (endSmall s after) else none

/-- The checks of an HCTX OPEN past its format. -/
def hctxOpenFail (c : Ctx) (s : State) : Option (State × Phase) :=
  let cx := c.item.f 8 2
  let pool := c.item.f 0xB 1
  let maxb := c.item.f 0xC 2
  match firstFail [(8, decide (cx < 512)), (0xB, decide (pool < 64 ∨ pool = 0x7E ∨ pool = 0x7F)),
      (0xC, if pool = 0x7F then decide (maxb = 0) else decide (1 ≤ maxb ∧ maxb ≤ 4095))] with
  | some o => some (endShape s o)
  | none => if (s.haulCtx c.core cx).isSome then some (endCtx s cx 1) else hctxPoolFail c s cx pool maxb

/-- The checks of an HCTX CLOSE past its format. -/
def hctxCloseFail (c : Ctx) (s : State) : Option (State × Phase) :=
  let cx := c.item.f 8 2
  match firstFail [(8, decide (cx < 512)), (0xC, decide (c.item.f 0xC 2 = 0))] with
  | some o => some (endShape s o)
  | none => if (s.haulCtx c.core cx).isNone then some (endCtx s cx 0) else none

/-- The checks of an HCTX. -/
def hctxFail (c : Ctx) (s : State) : Option (State × Phase) :=
  let act := c.item.f 0xA 1
  match formatFail c.item false [(8, 6)] [(0xA, decide (act ≤ 1)), (0xB, decide (act = 0 ∨ c.item.f 0xB 1 = 0))] with
  | some o => some (endFormat s c.item.slot o)
  | none => if act = 0 then hctxOpenFail c s else hctxCloseFail c s

/-- An HCTX that passed its checks: OPEN opens its context and ends; CLOSE joins the context's line. -/
def hctxWork (c : Ctx) (s : State) : State × Phase :=
  let cx := c.item.f 8 2
  if c.item.f 0xA 1 = 0 then
    endOk (s.setHaulCtx c.core cx (some { pool := c.item.f 0xB 1, maxb := c.item.f 0xC 2 }))
  else (s.joinLine c.core cx (.close c.q c.item.num), .parked .engine)

/-- HCTX. -/
def runHctx (c : Ctx) (s : State) : State × Phase := (hctxFail c s).getD (hctxWork c s)

/-- The shape of HCOPY and WFILL: DESC with no inline data, or a 256-byte descriptor in 6 INLINE records. -/
def copyShape (r : Fetched) : Option Nat :=
  firstFail [(2, decide (r.inl = 0 ∨ (r.inl = 6 ∧ r.inlineData.length = 256))),
    (8, if r.inl = 0 then decide (r.f 8 8 % 32 = 0) else decide (r.f 8 8 = 0)), (0x10, decide (r.f 0x10 2 < 512))]

def copyFormat (r : Fetched) : Option Nat := formatFail r true [(8, 8), (0x10, 2)] [addrCheck r.bytes 8]

/-- The checks of an HCOPY. -/
def hcopyFail (c : Ctx) (s : State) : Option (State × Phase) :=
  match copyFormat c.item with
  | some o => some (endFormat s c.item.slot o)
  | none =>
    match copyShape c.item with
    | some o => some (endShape s o)
    | none => if (s.haulCtx c.core (c.item.f 0x10 2)).isNone then some (endCtx s (c.item.f 0x10 2) 0) else none

/-- An HCOPY that passed its checks joins the line of its context. -/
def hcopyWork (c : Ctx) (s : State) : State × Phase :=
  (s.joinLine c.core (c.item.f 0x10 2) (.copy c.q c.item.num), .parked .engine)

/-- HCOPY. -/
def runHcopy (c : Ctx) (s : State) : State × Phase := (hcopyFail c s).getD (hcopyWork c s)

/-- The fill that was started for a record as prefetch, if it is still there. -/
def prefetchOf (h : Haul) (q : Nat) (r : Fetched) : Option Window :=
  h.wins.find? (fun w => !w.issued && w.q == q && w.item == r)

/-- A window takes its place: windows stand in WFILL issue order, prefetches behind those issued (R300). -/
def placeWin (w : Window) (ws : List Window) : List Window :=
  let ws := ws.filter (fun x => x.id != w.id)
  if w.issued then ws.filter (·.issued) ++ w :: ws.filter (fun x => !x.issued) else ws ++ [w]

/-- A fill's work starts: its context gets a window (R298, R300). -/
def State.startFill (s : State) (n cx q : Nat) (r : Fetched) (issued : Bool) : State :=
  let h := s.haul n
  let w : Window := { id := h.next, ctx := cx, q, item := r, issued }
  (s.setHaul n { h with wins := placeWin w h.wins, next := h.next + 1 }).joinLine n cx (.fill h.next)

/-- The WFILL of a prefetch is issued: its window and its work take their places in issue order (R284, R300). -/
def State.issueFill (s : State) (n : Nat) (w : Window) : State :=
  let h := s.haul n
  let t := s.setHaul n { h with wins := placeWin { w with issued := true } h.wins }
  if w.filled then t else (t.leaveLine n w.ctx (.fill w.id)).joinLine n w.ctx (.fill w.id)

/-- Checks 3 and 4 of a WFILL: its context open on a pool it may use, fewer than 16 windows, and after a load the pool large
enough (R310, R313). -/
def State.fillRefused (s : State) (n cx : Nat) : Option (Nat × Nat) :=
  match s.haulCtx n cx with
  | none => some (0x66, cx)
  | some x =>
    match s.poolKey n x.pool with
    | none => some (0x66, cx + 5 * 2 ^ 9)
    | some k =>
      if 16 ≤ (ctxWins (s.haul n) cx).length then some (0x66, cx + 2 * 2 ^ 9)
      else
        let v := Int.ofNat (s.poolCap k) - Int.ofNat (s.poolRes k)
        if x.loaded ∧ v < Int.ofNat x.maxb then some (0x67, ofInt 13 v) else none

/-- The checks of a WFILL: those of its context only where no prefetch was started for it. -/
def wfillFail (c : Ctx) (s : State) : Option (State × Phase) :=
  match copyFormat c.item with
  | some o => some (endFormat s c.item.slot o)
  | none =>
    match copyShape c.item with
    | some o => some (endShape s o)
    | none =>
      if (prefetchOf (s.haul c.core) c.q c.item).isSome then none
      else (s.fillRefused c.core (c.item.f 0x10 2)).map (fun e => done s e.1 e.2)

/-- A WFILL that passed its checks: the work of its prefetch is its own (R301); else it starts now. -/
def wfillWork (c : Ctx) (s : State) : State × Phase :=
  match prefetchOf (s.haul c.core) c.q c.item with
  | some w =>
    let s := s.issueFill c.core w
    if w.filled then endMem (s.fillWrite c.core w) w.move.err else (s, .parked .engine)
  | none => (s.startFill c.core (c.item.f 0x10 2) c.q c.item true, .parked .engine)

/-- WFILL. -/
def runWfill (c : Ctx) (s : State) : State × Phase := (wfillFail c s).getD (wfillWork c s)

/-- The checks of a WREL when it issues. -/
def wrelFail (c : Ctx) (s : State) : Option (State × Phase) :=
  let cx := c.item.f 8 2
  let n := c.item.f 0xA 1
  match formatFail c.item false [(8, 3)] [] with
  | some o => some (endFormat s c.item.slot o)
  | none =>
    match firstFail [(8, decide (cx < 512)), (0xA, decide (1 ≤ n ∧ n ≤ 16))] with
    | some o => some (endShape s o)
    | none => if (s.haulCtx c.core cx).isNone then some (endCtx s cx 0) else none

/-- WREL: it waits for every earlier record of its queue (R300). -/
def runWrel (c : Ctx) (s : State) : State × Phase := (wrelFail c s).getD (s, .parked .order)

/-- WREL_RELEASE: the oldest windows whose WFILL has ended go, and their credits return; not while records of the queue may not
begin (R65, R108). -/
def State.wrelRelease (s : State) (q : Nat) (env : Env) : State :=
  match s.parkedOf q 0x53 .order with
  | none => s
  | some i =>
    if !(earlierEnded i.item.num (s.queue q).issued && s.mayBegin q) then s
    else
      let n := i.item.core
      let cx := i.item.f 8 2
      let count := i.item.f 0xA 1
      if (s.haulCtx n cx).isNone then s.setPhaseOf q i.item.num (.ended 0x66 cx)
      else
        let ready := (ctxWins (s.haul n) cx).filter (fun w => w.issued && w.filled)
        if ready.length < count then s.setPhaseOf q i.item.num (.ended 0x66 (cx + 3 * 2 ^ 9))
        else
          (((ready.take count).foldl (fun s w => s.freeWin n w) s).setPhaseOf q i.item.num (.ended stOk 0)).haulOn env

/-- The shape of a PORTER. -/
def porterShape (r : Fetched) : Option Nat :=
  let src := r.f 8 8
  let dst := r.f 0x10 8
  let len := r.f 0x18 2
  firstFail [(0x18, decide (len % 32 = 0 ∧ 32 ≤ len ∧ len ≤ 4064)), (0x10, decide (dst % 32 = 0)),
    (8, decide (src % 32 = 0) && !(src != 0 && r.inl != 0) && !(src != 0 && decide (src < dst + len ∧ dst < src + len))),
    (2, src != 0 || decide (r.inlineData.length = len))]

/-- What a PORTER moves: its source bytes with the lines that failed, and the first error; its requests are at most 256 bytes. -/
def State.porterRead (s : State) (c : Ctx) : State × Rd :=
  if c.item.f 8 8 = 0 then (s, ⟨c.item.inlineData, [], none⟩)
  else s.readMemBy (srcCore c.core) 256 (c.item.f 8 8) (c.item.f 0x18 2)

/-- The checks of a PORTER. -/
def porterFail (c : Ctx) (s : State) : Option (State × Phase) :=
  let src := c.item.f 8 8
  let len := c.item.f 0x18 2
  match formatFail c.item true [(8, 0x12)] [addrCheck c.item.bytes 8, addrCheck c.item.bytes 0x10] with
  | some o => some (endFormat s c.item.slot o)
  | none =>
    match porterShape c.item with
    | some o => some (endShape s o)
    | none =>
      ((if src = 0 then none else s.rangeBad src len).orElse (fun _ => s.rangeBad (c.item.f 0x10 8) len)).map (endRange c s)

/-- A PORTER that passed its checks: one run of fewer than 4 KiB, with no descriptor, in requests of at most 256 bytes
(R307–R309). -/
def porterWork (c : Ctx) (s : State) : State × Phase :=
  let dst := c.item.f 0x10 8
  let (s, rd) := s.porterRead c
  let (s, we) := s.writeMemBy (srcCore c.core) 256 dst rd.bytes (rd.bad.map (fun l => l + dst - c.item.f 8 8))
  endMem (s.haulPoison c.core (!rd.bad.isEmpty)) (rd.err.orElse (fun _ => we))

/-- Whether no earlier PORTER of the core to the same destination is on its way: they arrive there in issue order (R308). A
destination is one memory (DEDUCED, log 90). -/
def porterFree (dst : Nat) (before : List MxOp) : Bool := before.all (fun o => o.kind != .porter || o.dest != destOf dst)

/-- PORTER, counted as it ends. -/
def runPorter (c : Ctx) (s : State) : State × Phase :=
  let counted (s : State) : State := s.count (Reg.HAUL_CNT_PORTER c.core) 1
  atUnit c .porter (porterFree (c.item.f 0x10 8)) .turn (porterFail c (counted s)) (fun s => porterWork c (counted s)) s

/-- Whether the porter queue of a core has room for another record: it has 32 entries (R308). -/
def State.porterRoom (s : State) (n : Nat) : Bool :=
  decide (((s.mat n).ops.filter (fun o => o.kind == .porter)).length < 32)

/-! ## Prefetch and the stall watch (R301, R304, R305) -/

/-- Whether a DEP belay that has not ended stands before the record in a slot (R92). -/
def depBefore (slot : Nat) (x : Queue) : Bool :=
  let dep := fun (r : Fetched) => r.op == 1 && r.f 8 1 == 1
  x.issued.any (fun i => dep i.item && (match i.phase with | .ended _ _ => false | _ => true))
    || (x.fetched.takeWhile (fun r => r.slot != slot)).any dep

/-- Whether every earlier WFILL of the context that was fetched has started its work. -/
def earlierFills (h : Haul) (q cx slot : Nat) (x : Queue) : Bool :=
  (x.fetched.takeWhile (fun r => r.slot != slot)).all (fun r =>
    r.op != 0x52 || r.f 0x10 2 != cx || (prefetchOf h q r).isSome)

/-- PREFETCH: the haul engine starts a WFILL's work before the record is issued (R301). -/
def State.prefetch (s : State) (q slot : Nat) (env : Env) : State :=
  let x := s.queue q
  let n := s.queueCore q
  match x.fetched.find? (fun r => r.slot == slot) with
  | none => s
  | some r =>
    let cx := r.f 0x10 2
    let maxb := match s.haulCtx n cx with | some c => c.maxb | none => 0
    if x.mode = .on ∧ r.op = 0x52 ∧ ¬ s.quiescing ∧ chainFail 0 r.chain = none ∧ copyFormat r = none ∧ copyShape r = none
        ∧ s.fillRefused n cx = none ∧ prefetchOf (s.haul n) q r = none ∧ ¬ depBefore slot x
        ∧ earlierFills (s.haul n) q cx slot x ∧ winBillets (ctxWins (s.haul n) cx) < maxb then
      (s.startFill n cx q r false).haulOn env
    else s

/-- The stream id of a fill (R284). -/
def State.streamId (s : State) (n id : Nat) : Nat :=
  match s.win? n id with
  | some w => 512 * n + w.ctx
  | none => 0xFFFFFFFF

/-- The events of a stall watch: its pool, the granted stream and the next longest waiting one (R304, R314). -/
def State.stallEvent (s : State) (k i code cls granted : Nat) (next : Option (Nat × Nat)) : State :=
  let nx := match next with | some (n, id) => s.streamId n id | none => 0xFFFFFFFF
  let s := if 64 ≤ k then s.raise (Reg.HAUL_EVENT (k - 64)) i (Reg.HAUL_EVENT_CNT (k - 64)) (16 * i)
    else s.raise Reg.HAUL_GEVENT i Reg.HAUL_GEVENT_CNT (16 * i)
  let arg := (if 64 ≤ k then k - 64 else k + 2 ^ 7) + granted * 2 ^ 16 + nx * 2 ^ 48
  s.post (if 64 ≤ k then k - 64 else slotStorePools) code cls arg

/-- STALL_WATCH: a pool's timer reaches 50 µs. -/
def State.stallWatch (s : State) (k : Nat) (env : Env) : State :=
  let x := s.credit k
  match x.waiters with
  | [] => s
  | (n, id) :: rest =>
    if s.fld Reg.RTE_STATUS 0 0 = 1 then s
    else if x.lent = 0 then
      let sid := s.streamId n id
      let s := s.setCredit k { x with lent := s.poolRes k, grant := some (n, id, sid) }
      (s.stallEvent k 0 0x0400 1 sid rest.head?).haulOn env
    else
      let g := match x.grant with | some (_, _, sid) => sid | none => 0xFFFFFFFF
      let isGrant := fun (w : Nat × Nat) => match x.grant with | some (m, j, _) => w.1 == m && w.2 == j | none => false
      (s.setCredit k { x with stuck := true }).stallEvent k 1 0x0401 2 g (x.waiters.find? (fun w => !isGrant w))

/-- HAUL_STATUS of a core. -/
def State.haulStatus (s : State) (n : Nat) : Word :=
  let h := s.haul n
  BitVec.ofNat 64 ((if h.wins.any (fun w => !w.issued && !w.filled) then 2 ^ 28 else 0) + s.haulFlight n * 2 ^ 16
    + (h.ctxs.filter (fun c => c.2.isSome)).length)

end Sys2Proof.Machine
end

