-- ==== Sys2Proof/Machine/Update.lean ====
section
/-! DEFINITION. The update engine (10_training_state_update.md): lane-form sums, shard entries, update rules, UNORM, URULE,
and the sweep with its cursor record, journal, replay and digests. -/

namespace Sys2Proof.Machine

/-! ## The lane form (R321) -/

/-- The 32-bit words of a byte string. -/
def words4 : List Byte → List Nat
  | a :: b :: c :: d :: r => ofLe [a, b, c, d] :: words4 r
  | _ => []

/-- FP32 patterns of BF16 bytes, widened exactly. -/
def wordsBf : List Byte → List Nat
  | a :: b :: r => ofLe [a, b] * 0x10000 :: wordsBf r
  | _ => []

/-- Add one row of terms to the lanes, lane by lane. -/
def laneRow : List (Nat × Nat) → List Nat → List (Nat × Nat)
  | p :: ps, x :: xs => pairAdd p x :: laneRow ps xs
  | ps, _ => ps

/-- Take the terms 128 at a time. -/
def laneRows : Nat → List (Nat × Nat) → List Nat → List (Nat × Nat)
  | 0, ps, _ => ps
  | fuel + 1, ps, xs => if xs.isEmpty then ps else laneRows fuel (laneRow ps (xs.take 128)) (xs.drop 128)

/-- Combine pairs in order; the pair of no terms is (+0, +0). -/
def pairSum : List (Nat × Nat) → Nat × Nat
  | [] => (0, 0)
  | p :: r => r.foldl pairCombine p

/-- The lane-form sum of a sequence of terms. -/
def laneSum (xs : List Nat) : Nat × Nat :=
  pairSum (laneRows (xs.length / 128 + 1) ((xs.take 128).map (fun x => (x, 0))) (xs.drop 128))

/-- The lane-form pair of fl(x × x). -/
def squarePair (xs : List Nat) : Nat × Nat := laneSum (xs.map (fun x => f32mul x x))

def pairBytes8 (p : Nat × Nat) : List Byte := toLe 4 p.1 ++ toLe 4 p.2

/-- The combination of pairs taken one after the other. -/
def pairThen (acc : Option (Nat × Nat)) (p : Nat × Nat) : Option (Nat × Nat) :=
  match acc with
  | none => some p
  | some a => some (pairCombine a p)

/-! ## Shard entries (R315–R317, R328) -/

/-- Arrays of a shard: 0 MASTER, 1 M1, 2 M2, 3 EMA, 4 WORK, 5 GRAD. -/
def enBase (e : List Byte) (a : Nat) : Nat := leAt e (8 * a) 8
def enNparam (e : List Byte) : Nat := leAt e 0x30 4
def enNtIdx (e : List Byte) : Nat := leAt e 0x34 4
def enGroup (e : List Byte) : Nat := leAt e 0x38 1
def enRule (e : List Byte) : Nat := leAt e 0x39 1
def enGtype (e : List Byte) : Nat := leAt e 0x3A 1
def enFlags (e : List Byte) : Nat := leAt e 0x3B 1
def enState (e : List Byte) : Nat := leAt e 0x3C 1
def enStepDone (e : List Byte) : Nat := leAt e 0x40 8

def chunkOf (nparam c : Nat) : Nat := min nparam (16384 * (c + 1)) - 16384 * c
def chunksOf (nparam : Nat) : Nat := (nparam + 16383) / 16384

/-- The program of an ember rule's slot; empty where the slot is. -/
def State.ruleProg (s : State) (rule : Nat) : List Byte := mget [] s.upd.rules (rule - 0x10)

def isEmberRule (rule : Nat) : Bool := decide (0x10 ≤ rule ∧ rule ≤ 0x17)

/-- Whether a rule reads the first moment, and whether it writes it. -/
def State.readsM1 (s : State) (rule : Nat) : Bool := decide (rule ≤ 2) || (isEmberRule rule && decide (2 ≤ emNin (s.ruleProg rule)))
def State.writesM1 (s : State) (rule : Nat) : Bool := decide (rule ≤ 2) || (isEmberRule rule && emNout (s.ruleProg rule) == 2)

/-- Bytes per element of an array of an entry; 0 where its rule and SFLAGS do not use it. -/
def State.arrSize (s : State) (e : List Byte) (a : Nat) : Nat :=
  match a with
  | 0 => 4
  | 1 => if s.readsM1 (enRule e) then 4 else 0
  | 2 => if enRule e = 0 then 4 else 0
  | 3 => if bit (enFlags e) 0 then 0 else 4
  | 4 => if bit (enFlags e) 1 then 0 else 2
  | _ => if enGtype e % 16 = 0 then 2 else 4

/-- Arrays that the sweep writes, in the order of R340. -/
def State.written (s : State) (e : List Byte) : List Nat :=
  [0, 1, 2, 3, 4].filter (fun a => s.arrSize e a != 0 && (a != 1 || s.writesM1 (enRule e)))

def State.updTable (s : State) (off : Nat) : Nat := s.fld off 51 12 * 4096
def State.shardCount (s : State) : Nat := s.fld Reg.UPD_SHARD_CNT 12 0
def State.shardAddr (s : State) (k : Nat) : Nat := s.updTable Reg.UPD_SHARD_TBL + 128 * k

/-- The ranges of an entry's arrays. An empty rule slot settles nothing about M1. -/
def State.arrRanges (s : State) (e : List Byte) : List (Nat × Nat) :=
  (List.range 6).filterMap (fun a =>
    let z := if a = 1 ∧ isEmberRule (enRule e) ∧ s.ruleProg (enRule e) = [] then 4 else s.arrSize e a
    if z = 0 ∨ enBase e a = 0 then none else some (enBase e a, enBase e a + enNparam e * z))

def apart (x y : Nat × Nat) : Bool := decide (x.2 ≤ y.1 ∨ y.2 ≤ x.1)

/-- No two ranges of a list overlap, and none overlaps one of another list. -/
def allApart : List (Nat × Nat) → List (Nat × Nat) → Bool
  | [], _ => true
  | x :: r, o => (r.all (apart x)) && (o.all (apart x)) && allApart r o

/-- The entries of the other shards of the table, as they stand in memory. -/
def State.otherRanges (s : State) (k : Nat) : List (Nat × Nat) :=
  ((List.range s.shardCount).filter (· != k)).flatMap (fun j => s.arrRanges (s.mem.bytes (s.shardAddr j) 128))

/-- Whether an entry is valid (R317). A STATE that is neither CLEAN nor TORN is none of R316's. -/
def State.validEntry (s : State) (k : Nat) (e : List Byte) : Bool :=
  let n := enNparam e
  let r := enRule e
  let open1 := isEmberRule r && s.ruleProg r == []
  decide (n % 64 = 0 ∧ 64 ≤ n ∧ n ≤ 2 ^ 30) && (decide (r ≤ 2) || isEmberRule r) && (enGtype e == 0 || enGtype e == 2)
    && decide (enFlags e < 4) && decide (enState e ≤ 1) && leAt e 0x3D 3 == 0 && allZero (slice e 0x48 56)
    && (List.range 6).all (fun a => (a == 1 && open1) || (decide (enBase e a ≠ 0) == decide (s.arrSize e a ≠ 0)))
    && (s.arrRanges e).all (fun x => x.1 % 4096 == 0 && decide (x.2 ≤ stackedEnd))
    && decide (s.updTable Reg.UPD_NORM_TBL + 8 * (enNtIdx e + chunksOf n) ≤ stackedEnd)
    && allApart (s.arrRanges e) (s.otherRanges k)

/-- The lowest address in a page that is not OPEN, among ranges that would be written (R332, R345). -/
def State.lowestSealed (s : State) (rs : List (Nat × Nat)) : Option Nat :=
  let hits := rs.flatMap (fun r =>
    ((upTo (r.1 / 0x200000) ((r.2 - 1) / 0x200000)).filter (fun p => mget 0 s.seals p != 0)).map (fun p => max r.1 (p * 0x200000)))
  match hits with
  | [] => none
  | x :: r => some (r.foldl min x)

/-! ## Checks (R324, R344, R345) -/

def stUpdShape : Nat := 0x70
def stShardEntry : Nat := 0x71
def stShardTorn : Nat := 0x72
def stNoVerdict : Nat := 0x73
def stRuleFormat : Nat := 0x74
def stRuleEmpty : Nat := 0x75
def stCursor : Nat := 0x76
def stUpdSealed : Nat := 0x77
def stSnapNotSealed : Nat := 0x78
def stUpdPlace : Nat := 0x79

/-- FIRST and COUNT of a record. -/
def State.shardRange (s : State) (r : Fetched) : List Check :=
  let first := r.f 0x10 4
  let count := r.f 0x14 4
  [(0x10, decide (first < s.shardCount)), (0x14, decide (1 ≤ count) && (decide (s.shardCount ≤ first) || decide (first + count ≤ s.shardCount)))]

/-- EV_ADDR_RANGE of the update engine. -/
def State.updRange (s : State) (step a : Nat) : State := s.postStep slotUpdate step 0x0002 2 (a % 2 ^ 52)

/-- Check 3: each table's register is set and the table lies in stacked memory. -/
def State.tableFail (s : State) (step : Nat) : List (Nat × Nat) → State × Option (Nat × Nat)
  | [] => (s, none)
  | (a, n) :: r =>
    if a = 0 then (s, some (stUpdPlace, 0))
    else
      match s.rangeBad a n with
      | some b => (s.updRange step b, some (stAddrRange, b % 2 ^ 32))
      | none => if inStacked a n then s.tableFail step r else (s, some (stUpdPlace, (if a < stackedEnd then stackedEnd else a) % 2 ^ 32))

/-! ## UNORM (R324–R326) -/

/-- An FP32 pattern as a CLIP: +0, or finite and above zero. -/
def clipOk (w : Nat) : Bool := w == 0 || (!bit w 31 && !f32isNan w && !f32isInf w)

/-- UNORM over one chunk: the pair of the norm table, or with READ the pair formed from GRAD and written there. -/
def State.normChunk (s : State) (read : Bool) (e : List Byte) (c : Nat) : State × Option (Nat × Nat) × (Nat × Nat) :=
  let at_ := s.updTable Reg.UPD_NORM_TBL + 8 * (enNtIdx e + c)
  if read then
    let z := s.arrSize e 5
    let n := chunkOf (enNparam e) c
    let (s, rd) := s.readMem srcUpdate (enBase e 5 + 16384 * c * z) (n * z)
    match rd.err with
    | some x => (s, some x, (0, 0))
    | none =>
      let p := squarePair (if z = 2 then wordsBf rd.bytes else words4 rd.bytes)
      let (s, w) := s.writeMem srcUpdate at_ (pairBytes8 p)
      (s, w, p)
  else
    let (s, rd) := s.readMem srcUpdate at_ 8
    (s, rd.err, (leAt rd.bytes 0 4, leAt rd.bytes 4 4))

def State.normChunks (read : Bool) (e : List Byte) : Nat → Nat → Option (Nat × Nat) → State → State × Option (Nat × Nat) × Option (Nat × Nat)
  | 0, _, acc, s => (s, none, acc)
  | left + 1, c, acc, s =>
    match s.normChunk read e c with
    | (s, some x, _) => (s, some x, acc)
    | (s, none, p) => State.normChunks read e left (c + 1) (pairThen acc p) s

/-- UNORM over shards: the combined pair, or how the record ends. -/
def State.normShards (read : Bool) : Nat → Nat → Option (Nat × Nat) → State → State × Option (Nat × Nat) × Option (Nat × Nat)
  | 0, _, acc, s => (s, none, acc)
  | left + 1, k, acc, s =>
    let (s, rd) := s.readMem srcUpdate (s.shardAddr k) 128
    match rd.err with
    | some x => (s, some x, acc)
    | none =>
      if !s.validEntry k rd.bytes then (s, some (stShardEntry, k % 2 ^ 13), acc)
      else
        match State.normChunks read rd.bytes (chunksOf (enNparam rd.bytes)) 0 acc s with
        | (s, some x, acc) => (s, some x, acc)
        | (s, none, acc) => State.normShards read left (k + 1) acc s

/-- The clip factor (R325). -/
def clipFactor (clip norm : Nat) : Nat := if clip = 0 ∨ f32ge clip norm then 0x3F800000 else f32div clip norm

/-- The verdict, NORM and clip factor of a step (R325): 1 GO, 2 SKIP. -/
def State.setVerdict (s : State) (step norm clip : Nat) : State :=
  let skip := f32isNan norm || f32isInf norm || f32gt norm (s.fld Reg.UPD_NORM_LIMIT 31 0)
  let s := s.setReg Reg.UPD_VERDICT (BitVec.ofNat 64 step)
  let s := s.setReg Reg.UPD_NORM (BitVec.ofNat 64 (norm * 2 ^ 32 + clipFactor clip norm))
  let s := s.setFld Reg.UPD_STATUS 7 6 (if skip then 2 else 1)
  if skip then
    ((s.count Reg.UPD_CNT_SKIP 1).raise Reg.UPD_EVENT 0 Reg.UPD_EVENT_CNT0 0).postStep slotUpdate step 0x0600 1 norm
  else s

/-- UNORM's turn: a check that fails before it begins keeps the verdict; a failure after it began clears it. -/
def runUnormTurn (c : Ctx) (s : State) : State × Phase :=
  let r := c.item
  let step := r.f 8 8
  match firstFail (s.shardRange r ++ [(0x18, clipOk (r.f 0x18 4))]) with
  | some o => done s stUpdShape o
  | none =>
    match s.tableFail step [(s.updTable Reg.UPD_SHARD_TBL, 128 * s.shardCount), (s.updTable Reg.UPD_NORM_TBL, 8)] with
    | (s, some (st, d)) => done s st d
    | (s, none) =>
      match State.normShards (r.f 0x1C 1 == 1) (r.f 0x14 4) (r.f 0x10 4) none s with
      | (s, some (st, d), _) => done (s.setFld Reg.UPD_STATUS 7 6 0) st d
      | (s, none, acc) => endOk (s.setVerdict step (f32sqrt (pairFold (acc.getD (0, 0)))) (r.f 0x18 4))

/-! ## URULE (R328, R329) -/

/-- The offset of the first field that makes a program no update rule. -/
def ruleFail (p : List Byte) : Option Nat :=
  firstFail (emChecks p ++ [(1, emKind p == 2), (3, !emPacked p && (emNout p != 2 || decide (2 ≤ emNin p)))])

def endRule (s : State) (slot : Nat) (p : List Byte) : State × Phase :=
  match ruleFail p with
  | some o => done s stRuleFormat o
  | none => endOk { s with upd := { s.upd with rules := mset [] s.upd.rules slot p } }

/-- URULE's turn. -/
def runUruleTurn (c : Ctx) (s : State) : State × Phase :=
  let r := c.item
  let src := r.f 8 8
  let len := r.f 0x12 2
  match firstFail [(8, src % 32 == 0 && (if 1 ≤ r.inl then src == 0 else src != 0)),
      (0x12, decide (84 ≤ len ∧ len ≤ 336) && (r.inl == 0 || len == r.inlineData.length))] with
  | some o => done s stUpdShape o
  | none =>
    if 1 ≤ r.inl then endRule s (r.f 0x10 1) r.inlineData
    else
      match s.rangeBad src len with
      | some b => done (s.rangeErr srcUpdate b) stAddrRange (b % 2 ^ 32)
      | none =>
        let (s, rd) := s.readMem srcUpdate src len
        match rd.err with
        | some e => endMem s (some e)
        | none => endRule s (r.f 0x10 1) rd.bytes

/-! ## Update rules (R318, R327, R328) -/

def f32fma (a b c : Nat) : Nat := toF32 (((ofF32 a).mul (ofF32 b)).add (ofF32 c))

/-- The values of one element: MASTER, M1, M2, EMA. -/
structure Elem where
  w : Nat
  m1 : Nat
  m2 : Nat
  e : Nat
  deriving DecidableEq, Repr

/-- The direction d and the new moments, from the gradient g already clipped. `gr` holds the group entry. -/
def ruleStep (rule : Nat) (prog gr : List Byte) (g : Nat) (x : Elem) : Nat × Elem :=
  let v (k : Nat) : Nat := leAt gr (4 * k) 4
  match rule with
  | 0 =>
    let m1 := f32fma (v 2) x.m1 (f32mul (v 3) g)
    let m2 := f32fma (v 4) x.m2 (f32mul (v 5) (f32mul g g))
    (f32div (f32mul m1 (v 7)) (f32add (f32sqrt (f32mul m2 (v 8))) (v 6)), { x with m1, m2 })
  | 1 => let m1 := f32fma (v 9) x.m1 g; (m1, { x with m1 })
  | 2 => let m1 := f32fma (v 9) x.m1 g; (f32fma (v 9) m1 g, { x with m1 })
  | _ =>
    let params : SMap (List Nat) := (List.range 16).map (fun k => (k, [leAt gr (0x40 + 4 * k) 4]))
    let r := emRunElem prog params 0 ([g, x.m1, x.w].take (emNin prog))
    let out := fun i => r.t.getD (emOut prog i) 0
    (out 0, if emNout prog = 2 then { x with m1 := out 1 } else x)

/-- One element updated (R327). -/
def updElem (rule : Nat) (prog gr : List Byte) (clip grad : Nat) (x : Elem) : Elem :=
  let (d, x) := ruleStep rule prog gr (f32mul grad clip) x
  let w := f32fma (f32neg (leAt gr 0 4)) (f32fma (leAt gr 4 4) x.w d) x.w
  { x with w, e := f32fma (leAt gr 0x28 4) (f32sub w x.e) x.e }

/-- The working copy of a master value. -/
def workOf (w : Nat) : Nat := (narrowFp fmtBf16 false true (ofF32 w)).code

def zipElems : List Nat → List Nat → List Nat → List Nat → List Elem
  | w :: ws, m1 :: m1s, m2 :: m2s, e :: es => ⟨w, m1, m2, e⟩ :: zipElems ws m1s m2s es
  | _, _, _, _ => []

/-! ## The sweep: cursor and torn shards (R338, R339) -/

/-- The 32 bytes of a cursor record. -/
def cursorBytes (active : Bool) (sw : Sweep) (shard : Nat) : List Byte :=
  let b := [if active then 1 else 0, if sw.journal then 1 else 0, 0, 0] ++ toLe 4 shard ++ toLe 8 sw.step ++ toLe 4 sw.clip ++ toLe 4 0
  b ++ toLe 4 (crc32c b) ++ toLe 4 0

def State.setSweep (s : State) (x : Option Sweep) : State := { s with upd := { s.upd with sweep := x } }

/-- UPD_CURSOR and UPD_CURSOR_STEP mirror the cursor record (R339). -/
def State.mirrorCursor (s : State) (b : List Byte) : State :=
  (s.setReg Reg.UPD_CURSOR (BitVec.ofNat 64
    ((if leAt b 0 1 = 1 then 2 ^ 62 else 0) + (if leAt b 1 1 = 1 then 2 ^ 61 else 0) + leAt b 4 4 % 2 ^ 13))).setReg
      Reg.UPD_CURSOR_STEP (BitVec.ofNat 64 (leAt b 8 8))

/-- Write the cursor record and mirror it (R339). -/
def State.putCursor (s : State) (sw : Sweep) (active : Bool) (shard : Nat) : State :=
  let (s, _) := s.writeMem srcUpdate sw.area (cursorBytes active sw shard)
  s.mirrorCursor (cursorBytes active sw shard)

/-- A shard is TORN: its STATE, an IDLE cursor record, the flag and the event. -/
def State.tearShard (s : State) (sw : Sweep) (shard : Nat) : State :=
  let (s, _) := s.writeMem srcUpdate (s.shardAddr shard + 0x3C) [1]
  let s := s.putCursor sw false shard
  (s.raise Reg.UPD_EVENT 1 Reg.UPD_EVENT_CNT0 16).postStep slotUpdate sw.step 0x0602 2 (shard % 2 ^ 13)

/-- The sweep's record ends. -/
def State.endSweep (s : State) (sw : Sweep) (status detail : Nat) : State :=
  (s.setSweep none).setPhaseOf sw.q sw.num (.ended status (detail % 2 ^ 32))

/-- The sweep's record ends before its range is done: the cursor record goes IDLE where this sweep has made it ACTIVE. -/
def State.stopSweep (s : State) (sw : Sweep) (status detail : Nat) : State :=
  (if sw.active then s.putCursor sw false sw.shard else s).endSweep sw status detail

/-! ## Chunks (R320, R333, R335, R338, R340) -/

/-- Read a chunk of some arrays of a shard: their bytes, or the first error. -/
def State.readArrays (e : List Byte) (lo n : Nat) : List Nat → State → State × Except (Nat × Nat) (List (Nat × List Byte))
  | [], s => (s, .ok [])
  | a :: r, s =>
    let z := s.arrSize e a
    let (s, rd) := s.readMem srcUpdate (enBase e a + lo * z) (n * z)
    match rd.err with
    | some x => (s, .error x)
    | none =>
      match State.readArrays e lo n r s with
      | (s, .ok l) => (s, .ok ((a, rd.bytes) :: l))
      | (s, .error x) => (s, .error x)

/-- Write a chunk's new values to their homes: the first error. -/
def State.writeHomes (s : State) (e : List Byte) (lo : Nat) (parts : List (Nat × List Byte)) : State × Option (Nat × Nat) :=
  parts.foldl (fun acc p =>
    let (s, err) := acc
    let (s, w) := s.writeMem srcUpdate (enBase e p.1 + lo * s.arrSize e p.1) p.2
    (s, err.orElse (fun _ => w))) (s, none)

/-- A redo slot's header. -/
def redoHeader (committed : Bool) (shard step chunk dcheck : Nat) : List Byte :=
  let b := [if committed then 1 else 0, 0, 0, 0] ++ toLe 4 shard ++ toLe 8 step ++ toLe 4 chunk ++ toLe 4 dcheck
  b ++ toLe 4 (crc32c b) ++ toLe 4 0

def redoSlot (area c : Nat) : Nat := area + 0x10000 + c % 4 * 0x50000

/-- Step 2 of R340: the header EMPTY, before the chunk's inputs are read. -/
def State.emptyRedo (s : State) (sw : Sweep) (shard c : Nat) : State × Option (Nat × Nat) :=
  if sw.journal then s.writeMem srcUpdate (redoSlot sw.area c) (redoHeader false shard sw.step c 0) else (s, none)

/-- Steps 4 and 5 of R340: the data, the header COMMITTED. A write that failed leaves it EMPTY. -/
def State.writeRedo (s : State) (sw : Sweep) (shard c : Nat) (parts : List (Nat × List Byte)) : State × Option (Nat × Nat) :=
  let at_ := redoSlot sw.area c
  let (s, w1) := parts.foldl (fun acc p =>
    let (s, err) := acc
    let (s, w) := s.writeMem srcUpdate (at_ + 0x1000 + p.1 * 0x10000) p.2
    (s, err.orElse (fun _ => w))) (s, none)
  match w1 with
  | some x => (s, some x)
  | none => s.writeMem srcUpdate at_ (redoHeader true shard sw.step c (crc32c (parts.flatMap (·.2))))

def partOf (l : List (Nat × List Byte)) (a : Nat) : List Byte :=
  match l.find? (fun p => p.1 == a) with
  | some p => p.2
  | none => []

/-- The new values of a chunk from its inputs. -/
def State.newParts (s : State) (e gr : List Byte) (clip n : Nat) (ins : List (Nat × List Byte)) : List (Nat × List Byte) × Bool :=
  let zeros := List.replicate n 0
  let val (a : Nat) : List Nat := if s.arrSize e a = 0 then zeros else words4 (partOf ins a)
  let grads := if s.arrSize e 5 = 2 then wordsBf (partOf ins 5) else words4 (partOf ins 5)
  let prog := s.ruleProg (enRule e)
  let xs := (grads.zip (zipElems (val 0) (val 1) (val 2) (val 3))).map (fun x => updElem (enRule e) prog gr clip x.1 x.2)
  let out (a : Nat) : List Byte :=
    match a with
    | 0 => xs.flatMap (fun x => toLe 4 x.w)
    | 1 => xs.flatMap (fun x => toLe 4 x.m1)
    | 2 => xs.flatMap (fun x => toLe 4 x.m2)
    | 3 => xs.flatMap (fun x => toLe 4 x.e)
    | _ => xs.flatMap (fun x => toLe 2 (workOf x.w))
  ((s.written e).map (fun a => (a, out a)), xs.any (fun x => f32isNan x.w || f32isInf x.w))

/-- Fold a chunk's new values into FPRINT and WSQ (R334, R335). -/
def foldChunk (fp : Bool) (run : ShardRun) (parts : List (Nat × List Byte)) : ShardRun :=
  let wsq := pairThen run.wsq (squarePair (words4 (partOf parts 0)))
  let crc := if fp then crc64Fold run.crc ((parts.filter (fun p => p.1 != 4)).flatMap (·.2)) else run.crc
  { run with wsq, crc }

/-- A sweep that meets a memory error in a shard (R338). -/
def State.tornEnd (s : State) (sw : Sweep) (shard : Nat) (x : Nat × Nat) : State :=
  (s.tearShard sw shard).endSweep sw x.1 x.2

/-- Read a chunk's inputs, once its redo slot's header is EMPTY where the sweep is journalled. -/
def State.chunkInputs (s : State) (sw : Sweep) (run : ShardRun) : State × Except (Nat × Nat) (List (Nat × List Byte)) :=
  let e := run.entry
  match s.emptyRedo sw run.shard run.chunk with
  | (s, some x) => (s, .error x)
  | (s, none) =>
    State.readArrays e (16384 * run.chunk) (chunkOf (enNparam e) run.chunk) ([0, 1, 2, 3, 5].filter (fun a => s.arrSize e a != 0)) s

/-- The sweep's next chunk: reads, arithmetic, the redo slot where the sweep is journalled, and the home writes. -/
def State.sweepChunk (s : State) (sw : Sweep) (run : ShardRun) : State :=
  let e := run.entry
  let lo := 16384 * run.chunk
  let n := chunkOf (enNparam e) run.chunk
  match s.chunkInputs sw run with
  | (s, .error x) => s.tornEnd sw run.shard x
  | (s, .ok ins) =>
    let (parts, bad) := s.newParts e run.group sw.clip n ins
    let (s, redo) := if sw.journal then s.writeRedo sw run.shard run.chunk parts else (s, none)
    match redo with
    | some x => s.tornEnd sw run.shard x
    | none =>
      let (s, home) := s.writeHomes e lo parts
      match home with
      | some x => s.tornEnd sw run.shard x
      | none =>
        let s := s.count Reg.UPD_CNT_PARAMS n
        let s := if bad && !run.nonfinite then
            (s.raise Reg.UPD_EVENT 4 Reg.UPD_EVENT_CNT1 0).postStep slotUpdate sw.step 0x0603 2 (run.shard % 2 ^ 13)
          else s
        let run := foldChunk sw.fp { run with chunk := run.chunk + 1, nonfinite := run.nonfinite || bad } parts
        (s.setFld Reg.UPD_CURSOR 47 32 run.chunk).setSweep (some { sw with run := some run })

/-! ## Shards (R332, R334, R336) -/

/-- What the decisions of R332 come to: the shard is passed over, ends the record, or is swept. -/
inductive Decision where
  | pass
  | stop (status detail : Nat)
  | sweep
  deriving DecidableEq, Repr

/-- The decisions of R332 about a shard that is neither TORN nor passed over. -/
def State.entryDecision (s : State) (k : Nat) (e : List Byte) : Decision :=
  if isEmberRule (enRule e) ∧ s.ruleProg (enRule e) = [] then .stop stRuleEmpty ((enRule e - 0x10) + k % 2 ^ 13 * 2 ^ 16)
  else if !s.validEntry k e then .stop stShardEntry (k % 2 ^ 13)
  else
    match s.lowestSealed ((s.written e).map (fun a => (enBase e a, enBase e a + enNparam e * s.arrSize e a))) with
    | some a => .stop stUpdSealed (a % 2 ^ 32)
    | none => .sweep

/-- The decisions of R332 about a shard. -/
def State.shardDecision (s : State) (step k : Nat) (e : List Byte) : Decision :=
  if enState e = 1 then .stop stShardTorn (k % 2 ^ 13)
  else if enStepDone e = step then .pass
  else s.entryDecision k e

/-- Read the group entry of a shard. -/
def State.readGroup (s : State) (e : List Byte) : State × Rd :=
  s.readMem srcUpdate (s.updTable Reg.UPD_GROUP_TBL + 128 * enGroup e) 128

/-- Read back the chunks before `upto` for FPRINT and WSQ (R335). -/
def State.readBack (sw : Sweep) : Nat → Nat → ShardRun → State → State × Except (Nat × Nat) ShardRun
  | 0, _, run, s => (s, .ok run)
  | left + 1, c, run, s =>
    match State.readArrays run.entry (16384 * c) (chunkOf (enNparam run.entry) c) ((s.written run.entry).filter (· != 4)) s with
    | (s, .error x) => (s, .error x)
    | (s, .ok parts) => State.readBack sw left (c + 1) (foldChunk sw.fp run parts) s

/-- Digests of the shards taken, once the range is done (R336). A MASTER read that fails ends the sweep at its shard (R338). -/
def State.putDigests (sw : Sweep) : List (Nat × Nat × Nat) → State → State
  | [], s => s.endSweep sw stOk 0
  | (k, base, n) :: r, s =>
    let (s, rd) := s.readMem srcUpdate base (4 * n)
    match rd.err with
    | some x => s.tornEnd sw k x
    | none =>
      let d := sha256 rd.bytes ++ toLe 8 sw.step ++ List.replicate 24 0
      State.putDigests sw r (s.writeMem srcUpdate (s.updTable Reg.UPD_DIG_TBL + 64 * k) d).1

/-- The last shard of the range is done: IDLE, digests, and the record ends. -/
def State.finishSweep (s : State) (sw : Sweep) : State :=
  State.putDigests sw (if sw.dig then sw.seen else []) (s.putCursor sw false (sw.first + sw.count - 1))

/-- A shard is passed over. -/
def State.passShard (s : State) (sw : Sweep) : State :=
  let s := s.count Reg.UPD_CNT_PASSED 1
  let sw := { sw with shard := sw.shard + 1 }
  if sw.shard = sw.first + sw.count then s.finishSweep sw else s.setSweep (some sw)

/-- The sweep takes a shard, from chunk 0 or from the chunk after the highest one replayed. A read that fails tears it (R338). -/
def State.takeShard (s : State) (sw : Sweep) (e : List Byte) (back : Option Nat) : State :=
  let k := sw.shard
  let (s, gr) := s.readGroup e
  match gr.err with
  | some x => s.tornEnd sw k x
  | none =>
    let s := s.putCursor sw true k
    let sw := { sw with active := true }
    let run : ShardRun := { shard := k, entry := e, group := gr.bytes, chunk := back.getD 0, crc := 2 ^ 64 - 1, resumed := back.isSome }
    match State.readBack sw (back.getD 0) 0 run s with
    | (s, .error x) => s.tornEnd sw k x
    | (s, .ok run) => (s.setFld Reg.UPD_CURSOR 47 32 run.chunk).setSweep (some { sw with run := some run })

/-- The chunk that a replay of a shard left off at. -/
def resumeAt (sw : Sweep) (k : Nat) : Option Nat := (sw.resume.filter (fun x => x.1 == k)).map (·.2)

/-- The sweep begins its next shard (R332). A shard whose every chunk was replayed goes on to its end even where its STEP_DONE
already stands (DEDUCED, log 98). -/
def State.beginShard (s : State) (sw : Sweep) : State :=
  let k := sw.shard
  let (s, rd) := s.readMem srcUpdate (s.shardAddr k) 128
  match rd.err with
  | some x => s.tornEnd sw k x
  | none =>
    let e := rd.bytes
    let back := resumeAt sw k
    let seen := sw.seen ++ [(k, enBase e 0, enNparam e)]
    let on := { sw with seen, resume := if back.isSome then none else sw.resume }
    match s.shardDecision sw.step k e with
    | .stop st d => if sw.resume.isSome then s.endSweep sw st d else s.stopSweep sw st d
    | .pass => if back = some (chunksOf (enNparam e)) then s.takeShard on e back else s.passShard on
    | .sweep => s.takeShard on e back

/-- Every party's pending mark of a shard is set (R374). -/
def State.markShard (s : State) (k : Nat) : State :=
  { s with fpMarks := s.image.parties.foldl (fun m p => mset false m (8192 * p.id + k) true) s.fpMarks }

/-- A shard's home writes are visible (R333): its record-table entry, STEP_DONE, and the cursor record. -/
def State.endShard (s : State) (sw : Sweep) (run : ShardRun) : State :=
  let k := run.shard
  let flags := (if sw.fp then 1 else 0) + (if run.resumed then 2 else 0) + (if sw.dig then 4 else 0)
  let rec_ := toLe 8 (if sw.fp then Nat.xor run.crc (2 ^ 64 - 1) else 0) ++ toLe 8 sw.step ++ pairBytes8 (run.wsq.getD (0, 0))
    ++ toLe 4 flags ++ List.replicate 36 0
  let (s, _) := s.writeMem srcUpdate (s.updTable Reg.UPD_REC_TBL + 64 * k) rec_
  let s := if sw.fp then s.markShard k else s
  let (s, _) := s.writeMem srcUpdate (s.shardAddr k + 0x40) (toLe 8 sw.step)
  let sw := { sw with run := none, shard := k + 1 }
  if k + 1 = sw.first + sw.count then s.finishSweep sw else (s.putCursor sw true (k + 1)).setSweep (some sw)

/-! ## USWEEP (R331, R341) -/

/-- Whether a redo slot's header is COMMITTED, its HCHECK is right, and it names this shard, this step and a chunk of the shard. -/
def redoNames (sw : Sweep) (shard : Nat) (e h : List Byte) : Bool :=
  leAt h 0 1 == 1 && leAt h 0x18 4 == crc32c (h.take 0x18) && leAt h 4 4 == shard && leAt h 8 8 == sw.step
    && decide (leAt h 0x10 4 < chunksOf (enNparam e))

/-- The data of a redo slot for the arrays that the shard writes: their bytes, or the first error. -/
def State.readSpans (e : List Byte) (at_ n : Nat) : List Nat → State → State × Except (Nat × Nat) (List (Nat × List Byte))
  | [], s => (s, .ok [])
  | a :: r, s =>
    let (s, rd) := s.readMem srcUpdate (at_ + 0x1000 + a * 0x10000) (n * s.arrSize e a)
    match rd.err with
    | some x => (s, .error x)
    | none =>
      match State.readSpans e at_ n r s with
      | (s, .ok l) => (s, .ok ((a, rd.bytes) :: l))
      | (s, .error x) => (s, .error x)

/-- The redo slots to be replayed, by chunk, with their new values: those that name the shard and whose DCHECK is right. The first
read that fails is the sweep's error. -/
def State.readRedo (sw : Sweep) (shard : Nat) (e : List Byte) : List Nat → State → State × Except (Nat × Nat) (List (Nat × List (Nat × List Byte)))
  | [], s => (s, .ok [])
  | k :: r, s =>
    let at_ := redoSlot sw.area k
    let (s, h) := s.readMem srcUpdate at_ 32
    match h.err with
    | some x => (s, .error x)
    | none =>
      let c := leAt h.bytes 0x10 4
      if !redoNames sw shard e h.bytes then State.readRedo sw shard e r s
      else
        match State.readSpans e at_ (chunkOf (enNparam e) c) (s.written e) s with
        | (s, .error x) => (s, .error x)
        | (s, .ok parts) =>
          match State.readRedo sw shard e r s with
          | (s, .error x) => (s, .error x)
          | (s, .ok l) => (s, .ok (if crc32c (parts.flatMap (·.2)) = leAt h.bytes 0x14 4 then (c, parts) :: l else l))

/-- The values of the slots found go to their homes in ascending chunk order. -/
def State.replayHomes (s : State) (e : List Byte) (slots : List (Nat × List (Nat × List Byte))) : State × Option (Nat × Nat) :=
  slots.foldl (fun (acc : State × Option (Nat × Nat)) x =>
    let (s, err) := acc
    let (s, w) := s.writeHomes e (16384 * x.1) x.2
    (s, err.orElse (fun _ => w))) (s, none)

/-- Replay (R341): the values of every such slot go to their homes. A read that fails tears the shard, and nothing is replayed
(R338; DEDUCED, log 98). -/
def State.replay (s : State) (sw : Sweep) (e : List Byte) : State :=
  let k := sw.shard
  match State.readRedo sw k e [0, 1, 2, 3] s with
  | (s, .error x) => s.tornEnd sw k x
  | (s, .ok found) =>
    let slots := sortBy (fun a b => decide (a.1 < b.1)) found.length found
    let (s, err) := s.replayHomes e slots
    let n := slots.length
    let s := (s.raise Reg.UPD_EVENT 2 Reg.UPD_EVENT_CNT0 32).count Reg.UPD_CNT_REPLAY n
    let s := s.postStep slotUpdate sw.step 0x0601 1 (k % 2 ^ 13 + n * 2 ^ 16)
    match err with
    | some x => s.tornEnd sw k x
    | none =>
      let next := match slots.getLast? with | some x => x.1 + 1 | none => 0
      s.setSweep (some { sw with shard := sw.first, resume := some (k, next) })

/-- An ACTIVE cursor record in journalled mode: its shard is replayed (R341), but not where the sweep is to stop at it with nothing
written (R332). -/
def State.sweepReplay (s : State) (sw : Sweep) (shard : Nat) : State :=
  let (s, rd) := s.readMem srcUpdate (s.shardAddr shard) 128
  match rd.err with
  | some x => s.tornEnd sw shard x
  | none =>
    if enState rd.bytes ≠ 1 ∧ s.entryDecision shard rd.bytes = .sweep then s.replay { sw with shard } rd.bytes else s.setSweep (some sw)

/-- A phase that an update record's turn leaves: that set by the sweep, else running. -/
def State.phaseNow (s : State) (c : Ctx) : Phase :=
  match s.upd.sweep with
  | some _ => .parked .engine
  | none =>
    match s.issuedAt c.q c.item.num with
    | some i => i.phase
    | none => .parked .engine

/-- What USWEEP does once it has a GO verdict: the cursor record (R341). -/
def State.startSweep (s : State) (c : Ctx) (sw : Sweep) : State × Phase :=
  let (s, rd) := s.readMem srcUpdate sw.area 32
  match rd.err with
  | some (st, a) => done s st a
  | none =>
    let b := rd.bytes
    let s := s.mirrorCursor b
    let good := leAt b 0x18 4 == crc32c (b.take 0x18)
    let shard := leAt b 4 4
    if leAt b 0 1 = 0 then (s.setSweep (some sw), .parked .engine)
    else if !good ∨ leAt b 0 1 ≠ 1 ∨ leAt b 8 8 ≠ sw.step ∨ leAt b 1 1 ≠ (if sw.journal then 1 else 0)
        ∨ shard < sw.first ∨ sw.first + sw.count ≤ shard then
      done s stCursor (shard % 2 ^ 13 + (if good then 0 else 2 ^ 13))
    else if !sw.journal then done (s.tearShard sw shard) stShardTorn (shard % 2 ^ 13)
    else
      let s := s.sweepReplay sw shard
      (s, s.phaseNow c)

/-- USWEEP's turn. -/
def runUsweepTurn (c : Ctx) (s : State) : State × Phase :=
  let r := c.item
  let step := r.f 8 8
  match firstFail (s.shardRange r) with
  | some o => done s stUpdShape o
  | none =>
    let n := s.shardCount
    let j := s.fld Reg.UPD_JOURNAL 0 0 == 1
    let area := s.updTable Reg.UPD_JOURNAL
    let fp := s.loaded && s.image.fpEnable && step % s.image.fpInterval == 0
    let dig := s.loaded && s.image.shaEnable && step % s.image.shaInterval == 0
    let tables := [(s.updTable Reg.UPD_SHARD_TBL, 128 * n), (s.updTable Reg.UPD_GROUP_TBL, 0x8000),
      (s.updTable Reg.UPD_REC_TBL, 64 * n), (area, if j then 0x150000 else 32)]
      ++ (if dig then [(s.updTable Reg.UPD_DIG_TBL, 64 * n)] else [])
    match s.tableFail step tables with
    | (s, some (st, d)) => done s st d
    | (s, none) =>
      let v := s.fld Reg.UPD_STATUS 7 6
      let vs := (s.reg Reg.UPD_VERDICT).toNat
      if v = 0 ∨ vs ≠ step then done s stNoVerdict (vs % 2 ^ 32)
      else if v = 2 then endOk s
      else
        let sw : Sweep := {
          q := c.q
          num := r.num
          step := step
          first := r.f 0x10 4
          count := r.f 0x14 4
          clip := s.fld Reg.UPD_NORM 31 0
          journal := j
          area := area
          fp := fp
          dig := dig
          shard := r.f 0x10 4 }
        s.startSweep c sw

/-! ## The engine takes records one at a time (R323) -/

/-- The format checks of UNORM, USWEEP and URULE. -/
def unormFormat (r : Fetched) : Option Nat := formatFail r false [(8, 0x15)] [(0x1C, decide (r.f 0x1C 1 < 2))]
def usweepFormat (r : Fetched) : Option Nat := formatFail r false [(8, 0x10)] []
def uruleFormat (r : Fetched) : Option Nat :=
  formatFail r true [(8, 9), (0x12, 2)] [addrCheck r.bytes 8, (0x10, decide (r.f 0x10 1 < 8))]

/-- Check 1 of a record of the sweep units. -/
def updFormat (r : Fetched) : Option Nat :=
  match r.op with
  | 0x60 => unormFormat r
  | 0x61 => usweepFormat r
  | _ => uruleFormat r

/-- The turn of a record of the sweep units: the engine accepts it. -/
def runUpdTurn (c : Ctx) (s : State) : State × Phase :=
  match updFormat c.item with
  | some o => endFormat s c.item.slot o
  | none =>
    match c.item.op with
    | 0x60 => runUnormTurn c s
    | 0x61 => runUsweepTurn c s
    | _ => runUruleTurn c s

/-- A record reaches the sweep units. -/
def joinUpd (c : Ctx) (s : State) : State × Phase :=
  s.joinLine1 s.upd.line c.item (updFormat c.item) { s with upd := { s.upd with line := s.upd.line ++ [(c.q, c.item.num)] } }

def runUnorm (c : Ctx) (s : State) : State × Phase := joinUpd c s

def runUsweep (c : Ctx) (s : State) : State × Phase := joinUpd c s

def runUrule (c : Ctx) (s : State) : State × Phase := joinUpd c s

def State.popUpd (s : State) : State := { s with upd := { s.upd with line := s.upd.line.tail } }

/-- Go on with the record at the front of the line, and after it the next; after a trip the engine issues nothing (R420). -/
def State.updGo (env : Env) : Nat → State → State
  | 0, s => s
  | fuel + 1, s =>
    match s.upd.line with
    | [] => s
    | (q, num) :: _ =>
      match (s.issuedAt q num).map Issued.phase with
      | none => State.updGo env fuel s.popUpd
      | some (.ended _ _) => State.updGo env fuel s.popUpd
      | some (.parked .turn) =>
        if ¬ s.mayBegin q then s else State.updGo env fuel (s.rerun q num .turn env runUpdTurn)
      | some (.parked .memory) =>
        if s.tokenWaits (.record q num) ∨ s.tripped then State.lineChecks updFormat s.upd.line.tail s
        else State.updGo env fuel (s.rerun q num .memory env runUpdTurn)
      | some (.parked _) => State.lineChecks updFormat s.upd.line.tail s

def State.updOn (s : State) (env : Env) : State := State.updGo env (4 * s.upd.line.length + 4) s

/-- SHARD_BEGIN: the sweep, not held by a quiesce, begins its next shard (R332, R337). -/
def State.shardBegin (s : State) (env : Env) : State :=
  match s.upd.sweep with
  | some sw =>
    if sw.run.isNone && !s.quiescing then (s.settle .sweep env (fun s => s.beginShard sw)).updOn env else s
  | none => s

/-- CHUNK_COMMIT: the next chunk of the shard is computed, committed and written to its homes. -/
def State.chunkCommit (s : State) (env : Env) : State :=
  match s.upd.sweep with
  | some sw =>
    match sw.run with
    | some run =>
      if run.chunk < chunksOf (enNparam run.entry) then
        (s.settle .sweep env (fun s => s.sweepChunk sw run)).updOn env
      else s
    | none => s
  | none => s

/-- SHARD_END: the shard's chunks are all written. -/
def State.shardEnd (s : State) (env : Env) : State :=
  match s.upd.sweep with
  | some sw =>
    match sw.run with
    | some run =>
      if chunksOf (enNparam run.entry) ≤ run.chunk then (s.settle .sweep env (fun s => s.endShard sw run)).updOn env else s
    | none => s
  | none => s

/-! ## Registers -/

/-- A USWEEP is held at a shard boundary (R337). -/
def State.sweepHeld (s : State) : Bool :=
  match s.upd.sweep with
  | some sw => sw.run.isNone && s.quiescing
  | none => false

/-- The opcode of the record that the sweep units are inside. -/
def State.updRunning (s : State) : Option Nat :=
  match s.upd.line with
  | (q, num) :: _ =>
    match s.issuedAt q num with
    | some i => if i.phase = .parked .memory ∨ i.phase = .parked .engine then some i.item.op else none
    | none => none
  | [] => none

/-- UPD_STATUS. -/
def State.updStatus (s : State) : Word :=
  let op := s.updRunning
  BitVec.ofNat 64 (s.fld Reg.UPD_STATUS 7 6 * 2 ^ 6 + (if s.upd.snap.isSome then 8 else 0) + (if s.sweepHeld then 4 else 0)
    + (if op = some 0x60 ∨ op = some 0x62 then 2 else 0) + (if op = some 0x61 ∧ ¬ s.sweepHeld then 1 else 0))

/-- UPD_CURSOR: its STATE reads HELD while the sweep is held. -/
def State.updCursor (s : State) : Word := if s.sweepHeld then fput (s.reg Reg.UPD_CURSOR) 63 62 2 else s.reg Reg.UPD_CURSOR

/-- UPD_RULE_INFO[k]. -/
def State.ruleInfo (s : State) (k : Nat) : Word :=
  let p := mget [] s.upd.rules k
  if p = [] then 0 else BitVec.ofNat 64 (emNinst p * 2 ^ 16 + emNout p * 8 + emNin p * 2 + 1)

/-- A write of a configuration register of the block: ignored while the engine is busy or held. -/
def State.updConfig (s : State) (off : Nat) (v : Word) : State :=
  if s.updRunning.isSome || s.upd.sweep.isSome then s.raise Reg.UPD_EVENT 3 Reg.UPD_EVENT_CNT0 48 else s.writePlain off v

end Sys2Proof.Machine
end

