-- ==== Sys2Proof/Machine/Ports.lean ====
section
/-! DEFINITION. Aedlink ports (11_aedlink_parties.md, R348–R357, R361, R362, R365): bringing ports up and down, data and
control blocks, credits and replay, Ethernet frames, the peers' identity and when a party is READY. -/

namespace Sys2Proof.Machine

def State.lport (s : State) (p : Nat) : LinkPort := mget {} s.linkPorts p
def State.setLport (s : State) (p : Nat) (x : LinkPort) : State := { s with linkPorts := mset {} s.linkPorts p x }
def State.modLport (s : State) (p : Nat) (f : LinkPort → LinkPort) : State := s.setLport p (f (s.lport p))
def State.lparty (s : State) (k : Nat) : LinkParty := mget {} s.linkParties k
def State.setLparty (s : State) (k : Nat) (x : LinkParty) : State := { s with linkParties := mset {} s.linkParties k x }
def State.modLparty (s : State) (k : Nat) (f : LinkParty → LinkParty) : State := s.setLparty k (f (s.lparty k))

/-- LNK_PORT_STATUS.STATE is Up. -/
def State.portUp (s : State) (p : Nat) : Bool := s.fld (Reg.LNK_PORT_STATUS p) 1 0 == 2

/-- The port runs in Ethernet mode. -/
def State.portEth (s : State) (p : Nat) : Bool := s.fld (Reg.LNK_PORT_STATUS p) 2 2 == 1

/-- The party that a port serves (R60). -/
def State.portParty (s : State) (p : Nat) : Option PartyEnt := s.image.parties.find? (fun e => bit e.ports p)

/-- An event of a port. -/
def State.portEvent (s : State) (p i code cls arg : Nat) : State :=
  (s.raise (Reg.LNK_PORT_EVENT p) i (Reg.LNK_PORT_EVENT_CNT p) (16 * i)).post (slotPort p) code cls arg

/-! ## The scratch pool and the buffers (R351, R360, R362) -/

def sumNat (l : List Nat) : Nat := l.foldl (· + ·) 0

/-- Bytes of the reduction-scratch pool. -/
def State.scratchCap (s : State) : Nat := sumNat ((s.image.pools.filter (fun p => p.kind == 3)).map (fun p => p.count * 0x10000))

/-- Bytes of frames that a party keeps in it. -/
def partyBytes (x : LinkParty) : Nat :=
  sumNat (x.staged.map List.length) + sumNat (x.peers.map (fun p =>
    sumNat (p.2.unacked.map (fun u => u.bytes.length)) + sumNat (p.2.early.map (fun u => u.2.2.1.length))))

/-- The pool has no room for another frame. -/
def State.scratchFull (s : State) : Bool :=
  let cap := s.scratchCap
  cap != 0 && decide (cap < sumNat (s.linkParties.map (fun x => partyBytes x.2)) + 4168)

/-! ## Blocks (R349, R350) -/

/-- A block: 496 bytes, BSEQ, FSTART, KIND and CHECK. -/
def blockBytes (body : List Byte) (bseq fstart kind : Nat) : List Byte :=
  let b := slice body 0 496 ++ toLe 4 bseq ++ toLe 2 fstart ++ toLe 1 kind ++ List.replicate 5 0
  b ++ toLe 4 (crc32c b)

/-- Whether a block's CHECK is right. -/
def blockGood (b : List Byte) : Bool := b.length == 512 && leAt b 0x1FC 4 == crc32c (b.take 0x1FC)

/-- A control block of a port. -/
def State.controlBody (s : State) (p : Nat) (nak : Bool) (c0 c1 : Nat) : List Byte :=
  let x := s.lport p
  let e := s.portParty p
  toLe 4 (x.rxSeq + 2 ^ 32 - 1) ++ toLe 2 (if nak then 1 else 0) ++ toLe 2 c0 ++ toLe 2 c1 ++ List.replicate 6 (0 : Byte)
    ++ toLe 2 0x4C52 ++ toLe 2 0x24 ++ toLe 1 (match e with | some e => e.id | none => 0xFF) ++ toLe 1 p ++ toLe 2 0
    ++ toLe 4 (match e with | some e => e.member | none => 0) ++ toLe 4 0
    ++ toLe 8 (match e with | some e => planId e.plan | none => 0)

/-- Send a block on the next lane of the port's stream (R349). -/
def State.emitBlock (s : State) (p : Nat) (bytes : List Byte) : State :=
  let x := s.lport p
  (s.setLport p { x with lane := (x.lane + 1) % 4 }).emit (.block p x.lane bytes)

/-- The buffers of each class that a control block returns. Credits are withheld while the scratch pool is full (R362). -/
def State.creditsDue (s : State) (p : Nat) : Nat × Nat :=
  let x := s.lport p
  if s.scratchFull then (0, 0) else (x.freed0, x.freed1)

/-- Send a control block ahead of the data block with a BSEQ (R349). -/
def State.sendControlAt (s : State) (p : Nat) (nak : Bool) (next : Nat) : State :=
  let c := s.creditsDue p
  let body := s.controlBody p nak c.1 c.2
  let s := s.modLport p (fun x => { x with freed0 := x.freed0 - c.1, freed1 := x.freed1 - c.2, lastCtl := body })
  s.emitBlock p (blockBytes body next 0xFFFF 1)

/-- Send a control block: the next data block is a new one. -/
def State.sendControl (s : State) (p : Nat) (nak : Bool) : State := s.sendControlAt p nak (s.lport p).txSeq

/-- A port that trains or is Up in Aedlink mode and has no data to send sends control blocks (R349). Of those the model shows the ones
that tell something new: credits, or another body than the last (DESIGN CHOICE, log 99). -/
def State.idleControl (s : State) (p : Nat) : State :=
  let st := s.fld (Reg.LNK_PORT_STATUS p) 1 0
  let x := s.lport p
  let c := s.creditsDue p
  if s.portEth p ∨ (st ≠ 1 ∧ st ≠ 2) then s
  else if c = (0, 0) ∧ s.controlBody p false 0 0 = x.lastCtl then s
  else s.sendControl p false

/-- Send the bytes of a data block, and after every 64 a control block, which tells the BSEQ of the data block that follows it
(R349). -/
def State.emitData (s : State) (p : Nat) (bytes : List Byte) (next : Nat) : State :=
  let n := (s.lport p).burst + 1
  let s := (s.modLport p (fun x => { x with burst := n % 64 })).emitBlock p bytes
  if n = 64 then s.sendControlAt p false next else s

/-- Send a new data block; the last 1,024 are kept (R351). -/
def State.sendBlock (p : Nat) (s : State) (b : Nat × List Byte) : State :=
  let x := s.lport p
  let bytes := blockBytes b.2 x.txSeq b.1 0
  let sent := x.sent ++ [(x.txSeq, bytes)]
  let next := (x.txSeq + 1) % 2 ^ 32
  (s.setLport p { x with txSeq := next, sent := sent.drop (sent.length - 1024) }).emitData p bytes next

/-- The class of a frame (R351). -/
def frameClass (f : List Byte) : Nat := if leAt f 1 1 ∈ [0, 1, 2, 4, 6] then 0 else 1

/-- The frames of a list that credits allow to be sent, those that wait, and the credits left. -/
def takeCredits : List (List Byte) → Nat → Nat → List (List Byte) × List (List Byte) × Nat × Nat
  | [], a, b => ([], [], a, b)
  | f :: r, a, b =>
    let c0 := frameClass f = 0
    if (c0 ∧ a = 0) ∨ (¬ c0 ∧ b = 0) then
      let (go, stay, a', b') := takeCredits r (if c0 then 0 else a) (if c0 then b else 0)
      (go, f :: stay, a', b')
    else
      let (go, stay, a', b') := takeCredits r (if c0 then a - 1 else a) (if c0 then b else b - 1)
      (f :: go, stay, a', b')

/-- Where frames laid back to back begin. -/
def frameStarts : Nat → List (List Byte) → List Nat
  | _, [] => []
  | at_, f :: r => at_ :: frameStarts (at_ + f.length) r

/-- Frames packed into blocks: FSTART and 496 bytes of each. -/
def packBlocks (fs : List (List Byte)) : List (Nat × List Byte) :=
  let all := fs.flatten
  let starts := frameStarts 0 fs
  (List.range ((all.length + 495) / 496)).map (fun i =>
    let first := starts.find? (fun a => decide (496 * i ≤ a ∧ a < 496 * (i + 1)))
    (match first with | some a => a - 496 * i | none => 0xFFFF, slice all (496 * i) 496))

/-- Send what waits at a port. -/
def State.flushPort (s : State) (p : Nat) : State :=
  let x := s.lport p
  if x.waiting = [] ∨ ¬ s.portUp p then s
  else if s.portEth p then
    if x.paused then s
    else x.waiting.foldl (fun s f => s.emit (.ether p f)) (s.setLport p { x with waiting := [] })
  else
    let (go, stay, a, b) := takeCredits x.waiting x.cred0 x.cred1
    let s := s.setLport p { x with waiting := stay, cred0 := a, cred1 := b }
    (packBlocks go).foldl (State.sendBlock p) s

/-- Flow control towards the peer of an Ethernet-mode port follows the scratch pool (R362). -/
def State.flowPort (s : State) (p : Nat) : State :=
  if s.portUp p ∧ s.portEth p ∧ (s.lport p).pausing ≠ s.scratchFull then
    (s.modLport p (fun x => { x with pausing := s.scratchFull })).emit (.flow p (s.fld Reg.LNK_CFG 14 12) s.scratchFull)
  else s

/-- Every port sends what it can: the end of every command that sends frames. -/
def State.linkFlush (s : State) : State :=
  (List.range 18).foldl (fun s p => ((s.flushPort p).idleControl p).flowPort p) s

/-! ## The peer's identity (R350, R353, R359, R365) -/

/-- The port belongs to the party, is Up and has no peer with another plan. -/
def State.carries (s : State) (e : PartyEnt) (p : Nat) : Bool := bit e.ports p && s.portUp p && !(s.lport p).planBad

/-- The ports of a party that carry its frames. -/
def State.carriers (s : State) (e : PartyEnt) : List Nat := (List.range 18).filter (s.carries e)

/-- The ports of a directly linked party that reach a member (R361). -/
def State.reaching (s : State) (e : PartyEnt) (m : Nat) : List Nat :=
  (s.carriers e).filter (fun p => s.fld (Reg.LNK_PORT_STATUS p) 41 34 == e.id && s.fld (Reg.LNK_PORT_STATUS p) 63 47 == m)

/-- The member `n` places on along the ring of a level. -/
def ringMember (plan : List Byte) (k m n : Nat) : Nat :=
  let d := planDigit plan k m
  m - d * planWeight plan k + (d + n) % planG plan k * planWeight plan k

def nextOf (plan : List Byte) (k m : Nat) (fwd : Bool) : Nat := ringMember plan k m (if fwd then 1 else planG plan k - 1)

/-- A party is READY (R365). -/
def State.partyReady (s : State) (e : PartyEnt) : Bool :=
  let up := (List.range 18).filter (fun p => bit e.ports p && s.portUp p)
  if e.topo = 1 then !up.isEmpty
  else
    up.all (fun p => s.fld (Reg.LNK_PORT_STATUS p) 41 34 == e.id && s.fld (Reg.LNK_PORT_STATUS p) 3 3 == 1)
    && (List.range (planLevels e.plan)).all (fun k =>
        !(s.reaching e (nextOf e.plan k e.member true)).isEmpty
        && (planBidir e.plan == 0 || !(s.reaching e (nextOf e.plan k e.member false)).isEmpty))

/-- A party that stops being READY posts EV_LNK_UNREACHABLE. -/
def State.readyEdge (s : State) (e : PartyEnt) : State :=
  let r := s.partyReady e
  if (s.lparty e.id).ready = r then s
  else
    let s := s.modLparty e.id (fun x => { x with ready := r })
    if r then s else (s.raise Reg.LNK_EVENT 3 Reg.LNK_EVENT_CNT0 48).post slotLink 0x0706 3 e.id

def State.linkReady (s : State) : State := s.image.parties.foldl State.readyEdge s

/-- The peer of a port reports its party, port, member and PLAN_ID. PLAN_OK goes by the PLAN_ID alone. -/
def State.setPeer (s : State) (p party port member plan : Nat) : State :=
  let e := s.portParty p
  let same := match e with | some e => decide (planId e.plan = plan) | none => false
  let bad := match e with | some e => decide (party ≠ 0xFE ∧ planId e.plan ≠ plan) | none => false
  let st := Reg.LNK_PORT_STATUS p
  let s := (((s.setFld st 63 47 member).setFld st 46 42 port).setFld st 41 34 party).setFld st 3 3 (if same then 1 else 0)
  let was := (s.lport p).planBad
  let s := s.modLport p (fun x => { x with peerPlan := some plan, planBad := bad })
  (if bad && !was then s.portEvent p 3 0x0705 2 (p + party % 256 * 32) else s).linkReady

/-! ## Ports up and down (R353, R354) -/

/-- What a port forgets when it is not Up. -/
def State.clearPort (s : State) (p : Nat) : State :=
  let st := Reg.LNK_PORT_STATUS p
  let s := ((s.setFld st 63 34 0xFF).setFld st 3 3 0)
  s.modLport p (fun x => { x with waiting := [], part := [], sync := true, ctl := false, peerPlan := none, planBad := false, heard := none, lastCtl := [], paused := false, pausing := false })

/-- A port leaves its state for another: down (0), training (1) or disabled (3). -/
def State.portLeave (s : State) (p lanes state : Nat) : State :=
  let was := s.portUp p
  let s := ((s.clearPort p).setFld (Reg.LNK_PORT_STATUS p) 7 4 lanes).setFld (Reg.LNK_PORT_STATUS p) 1 0 state
  (if was then s.portEvent p 0 0x0700 1 p else s).linkReady

/-- Every enabled port that is down trains (R353). -/
def State.trainPorts (s : State) : State :=
  (List.range 18).foldl (fun s p =>
    if s.fld (Reg.LNK_PORT_STATUS p) 1 0 = 0 ∧ s.fld (Reg.LNK_PORT_CTRL p) 0 0 = 0 then s.setFld (Reg.LNK_PORT_STATUS p) 1 0 1 else s) s

/-- PORT_UP: four lanes have trained, and in Aedlink mode a good control block has come, whose peer then appears in
LNK_PORT_STATUS (R353). -/
def State.portGoesUp (s : State) (p : Nat) : State :=
  let st := s.fld (Reg.LNK_PORT_STATUS p) 1 0
  if st ≤ 1 ∧ (s.portEth p ∨ (s.lport p).ctl) then
    let heard := (s.lport p).heard
    let s := s.modLport p (fun x => { x with cred0 := 64, cred1 := 64, freed0 := 0, freed1 := 0, part := [], sync := true, heard := none })
    let s := (s.setFld (Reg.LNK_PORT_STATUS p) 7 4 0xF).setFld (Reg.LNK_PORT_STATUS p) 1 0 2
    match heard with
    | some (party, port, member, plan) => (s.setPeer p party port member plan).linkReady
    | none => s.linkReady
  else s

/-- PORT_DOWN: a lane of an Up port loses lock; the port retrains by itself. -/
def State.portGoesDown (s : State) (p lane : Nat) : State :=
  if s.portUp p then (s.portLeave p (0xF - 2 ^ lane) 1).linkFlush else s

/-- RETRAIN: the port is taken down and trains again; a disabled port stays held down. -/
def State.portRetrain (s : State) (p : Nat) : State :=
  if s.fld (Reg.LNK_PORT_CTRL p) 0 0 = 1 then s else (s.portLeave p 0 1).linkFlush

/-- LNK_PORT_CTRL.DISABLE. -/
def State.portDisable (s : State) (p : Nat) (v : Bool) : State :=
  let s := s.setFld (Reg.LNK_PORT_CTRL p) 0 0 (if v then 1 else 0)
  if v then s.portLeave p 0 3
  else if s.fld (Reg.LNK_PORT_STATUS p) 1 0 = 3 then (s.portLeave p 0 1).linkFlush
  else s

/-! ## Receiving blocks (R349–R351, R358) -/

/-- A frame that is discarded under R358 is counted. -/
def State.badFrame (s : State) (p : Nat) : State := s.count (Reg.LNK_PORT_CNT_BADFRAME p) 1

/-- Payload bytes of a frame. -/
def frPlen (f : List Byte) : Nat := leAt f 0x0C 2

def headGood (f : List Byte) : Bool := leAt f 0x3C 4 == crc32c (f.take 0x3C)

/-- VER, TYPE, the length and both checks of a whole frame. -/
def frameGood (f : List Byte) : Bool :=
  headGood f && leAt f 0 1 == 0x11 && decide (leAt f 1 1 ≤ 9) && decide (frPlen f ≤ 4096) && f.length == frPlen f + 72
    && leAt f (64 + frPlen f) 8 == crc64 (f.take (64 + frPlen f))

/-- Cut the frames from the bytes a port has: whole frames, the rest, whether the place of the next header is known, and
frames discarded. Zero bytes where a header is due fill the block. -/
def cutFrames : Nat → List Byte → List (List Byte) × List Byte × Bool × Nat
  | 0, _ => ([], [], false, 0)
  | fuel + 1, b =>
    match b with
    | [] => ([], [], true, 0)
    | h :: _ =>
      if h = 0 then ([], [], true, 0)
      else if b.length < 64 then ([], b, true, 0)
      else if !headGood b || decide (4096 < frPlen b) then ([], [], false, 1)
      else
        let n := frPlen b + 72
        if b.length < n then ([], b, true, 0)
        else
          let f := b.take n
          let (fs, rest, sync, bad) := cutFrames fuel (b.drop n)
          if frameGood f then (f :: fs, rest, sync, bad) else (fs, rest, sync, bad + 1)

/-- The frame bytes of an accepted block. -/
def State.rxBlock (s : State) (p fstart : Nat) (data : List Byte) : State :=
  let x := s.lport p
  let found := x.sync || fstart != 0xFFFF
  let buf := if x.sync then x.part ++ data else if found then data.drop fstart else []
  let (fs, rest, sync, bad) := if found then cutFrames 9 buf else ([], [], false, 0)
  (s.setLport p { x with rxSeq := (x.rxSeq + 1) % 2 ^ 32, part := rest, sync, rxq := x.rxq ++ fs }).count (Reg.LNK_PORT_CNT_BADFRAME p) bad

/-- FEC codewords corrected, and an uncorrectable one. -/
def State.fecCount (s : State) (p corrected : Nat) (uncorr : Bool) : State :=
  let s := s.count (Reg.LNK_PORT_CNT_FECC p) corrected
  if uncorr then s.raise (Reg.LNK_PORT_EVENT p) 1 (Reg.LNK_PORT_EVENT_CNT p) 16 else s

/-- DATA_BLOCK: accepted in order with a good CHECK, else discarded and answered with NAK. -/
def State.dataBlock (s : State) (p : Nat) (b : List Byte) (corrected : Nat) (uncorr : Bool) : State :=
  if !s.portUp p || s.portEth p then s
  else
    let s := s.fecCount p corrected uncorr
    if blockGood b ∧ leAt b 0x1F6 1 ≠ 0 then s
    else if blockGood b ∧ leAt b 0x1F0 4 = (s.lport p).rxSeq then
      (s.rxBlock p (leAt b 0x1F4 2) (b.take 496)).sendControl p false
    else s.sendControl p true

/-- Send blocks again, in order. -/
def State.resend (p : Nat) : List (Nat × List Byte) → State → State
  | [], s => s
  | b :: rest, s =>
    State.resend p rest (s.emitData p b.2 (match rest with | c :: _ => c.1 | [] => (s.lport p).txSeq))

/-- Blocks sent again from a BSEQ on. -/
def State.replayFrom (s : State) (p bseq : Nat) : State :=
  let again := ((s.lport p).sent).dropWhile (fun b => b.1 != bseq)
  if again = [] then s
  else
    let s := State.resend p again s
    (s.count (Reg.LNK_PORT_CNT_REPLAYB p) again.length).raise (Reg.LNK_PORT_EVENT p) 2 (Reg.LNK_PORT_EVENT_CNT p) 32

/-- CONTROL_BLOCK. Before the port is Up it also tells the BSEQ of the next data block, and whose peer will appear when it is. -/
def State.controlBlock (s : State) (p : Nat) (b : List Byte) : State :=
  let st := s.fld (Reg.LNK_PORT_STATUS p) 1 0
  if st = 3 ∨ s.portEth p ∨ ¬ blockGood b ∨ leAt b 0x1F6 1 ≠ 1 then s
  else
    let s := s.modLport p (fun x => { x with ctl := true, rxSeq := if st = 2 then x.rxSeq else leAt b 0x1F0 4 })
    let peer := (leAt b 0x14 1, leAt b 0x15 1, leAt b 0x18 4 % 2 ^ 17, leAt b 0x20 8)
    if st = 2 then
      let s := s.setPeer p peer.1 peer.2.1 peer.2.2.1 peer.2.2.2
      let s := s.modLport p (fun x => { x with cred0 := x.cred0 + leAt b 6 2, cred1 := x.cred1 + leAt b 8 2 })
      let s := if leAt b 4 1 = 1 then s.replayFrom p ((leAt b 0 4 + 1) % 2 ^ 32) else s
      (s.flushPort p).idleControl p
    else (s.modLport p (fun x => { x with heard := some peer })).idleControl p

/-! ## Ethernet mode (R355–R357) -/

/-- The MAC address of a port of a member of a party. -/
def macOf (party port member : Nat) : List Byte :=
  [0x02, 0x4C, 0x52, BitVec.ofNat 8 (party * 64 + port * 2 + member / 2 ^ 16 % 2), BitVec.ofNat 8 (member / 256), BitVec.ofNat 8 member]

def broadcast : List Byte := List.replicate 6 0xFF

/-- An Aedlink frame in an Ethernet frame from a port of the party, with its FCS (R355, R356). -/
def State.etherFrame (s : State) (e : PartyEnt) (p : Nat) (dst : List Byte) (f : List Byte) : List Byte :=
  let tag := if s.fld Reg.LNK_CFG 15 15 = 1 then
      [0x81, 0x00] ++ toBe 2 (s.fld Reg.LNK_CFG 14 12 * 2 ^ 13 + s.fld Reg.LNK_CFG 11 0) else []
  let b := dst ++ macOf e.id p e.member ++ tag ++ toBe 2 s.image.etherType ++ f
  b ++ etherFcs b

/-- The Aedlink frame of a received Ethernet frame, its FCS taken off, that the port accepts. -/
def State.etherPayload (s : State) (p : Nat) (b : List Byte) : Option (List Byte) :=
  match s.portParty p with
  | none => none
  | some e =>
    let at_ := if slice b 12 2 = [0x81, 0x00] then 16 else 12
    let f := b.drop (at_ + 2)
    if slice b at_ 2 = toBe 2 s.image.etherType ∧ b.length ≤ 9212
        ∧ (b.take 6 = macOf e.id p e.member ∨ (b.take 6 = broadcast ∧ leAt f 1 1 = 9)) then some f
    else none

/-- Whether the FCS at the end of a received Ethernet frame is right. -/
def fcsGood (b : List Byte) : Bool := decide (4 ≤ b.length) && b.drop (b.length - 4) == etherFcs (b.take (b.length - 4))

/-- An Ethernet frame arrives at a port: the frame it carries joins those received, or it is discarded and counted. A frame whose
FCS is wrong is one of those that the port does not accept (R355, R356; DEDUCED, log 61). -/
def State.etherArrive (s : State) (p : Nat) (b : List Byte) : State :=
  if b = [] ∨ ¬ s.portUp p ∨ ¬ s.portEth p then s
  else
    match (if fcsGood b then s.etherPayload p (b.take (b.length - 4)) else none) with
    | none => s.count (Reg.LNK_PORT_CNT_ETHDROP p) 1
    | some f =>
      let f := f.take (frPlen f + 72)
      if frameGood f then s.modLport p (fun x => { x with rxq := x.rxq ++ [f] }) else s.badFrame p

/-- PRIORITY_FLOW_CONTROL: obeyed on LNK_CFG.PRIO only. -/
def State.flowControl (s : State) (p prio : Nat) (pause : Bool) : State :=
  if s.portUp p && s.portEth p && prio == s.fld Reg.LNK_CFG 14 12 then
    (s.modLport p (fun x => { x with paused := pause })).flushPort p
  else s

end Sys2Proof.Machine
end

