-- ==== Sys2Proof/Machine/Frames.lean ====
section
/-! DEFINITION. Aedlink frames and their delivery (11_aedlink_parties.md, R358–R361): the header, routes, per-peer
sequence numbers, acknowledgement and retransmission. -/

namespace Sys2Proof.Machine

/-! ## Frames (R358, R359) -/

/-- A frame to be sent: what its header and payload hold beside what the sender fills in, and the payload lines that travel as
poison, by their offset. -/
structure FrameOut where
  type : Nat
  dst : Nat
  flags : Nat := 0
  level : Nat := 0
  dir : Nat := 0
  rseq : Nat := 0
  offset : Nat := 0
  rtag : Nat := 0
  payload : List Byte := []
  bad : List Nat := []
  deriving DecidableEq, Repr

/-- Zero bytes up to the next multiple of 32. -/
def pad32 (b : List Byte) : List Byte := b ++ List.replicate ((32 - b.length % 32) % 32) (0 : Byte)

/-- The bytes of a frame of a party. -/
def frameBytes (e : PartyEnt) (pseq : Nat) (f : FrameOut) : List Byte :=
  let pl := pad32 f.payload
  let h := toLe 1 0x11 ++ toLe 1 f.type ++ toLe 1 e.id ++ toLe 1 f.flags ++ toLe 4 e.member ++ toLe 4 f.dst ++ toLe 2 pl.length
    ++ toLe 1 f.level ++ toLe 1 f.dir ++ toLe 8 pseq ++ toLe 8 f.rseq ++ toLe 8 f.offset ++ toLe 8 (planId e.plan)
    ++ toLe 4 f.rtag ++ toLe 8 0
  let h := h ++ toLe 4 (crc32c h)
  h ++ pl ++ toLe 8 (crc64 (h ++ pl))

def frType (f : List Byte) : Nat := leAt f 1 1
def frParty (f : List Byte) : Nat := leAt f 2 1
def frFlags (f : List Byte) : Nat := leAt f 3 1
def frSrc (f : List Byte) : Nat := leAt f 4 4 % 2 ^ 17
def frDst (f : List Byte) : Nat := leAt f 8 4 % 2 ^ 17
def frLevel (f : List Byte) : Nat := leAt f 0x0E 1
def frDir (f : List Byte) : Nat := leAt f 0x0F 1
def frPseq (f : List Byte) : Nat := leAt f 0x10 8
def frRseq (f : List Byte) : Nat := leAt f 0x18 8
def frOffset (f : List Byte) : Nat := leAt f 0x20 8
def frTag (f : List Byte) : Nat := leAt f 0x30 4
def frPayload (f : List Byte) : List Byte := slice f 64 (frPlen f)

/-! ## Routes (R361) -/

/-- The highest level at which two members' digits differ. -/
def highestDiff (plan : List Byte) (a b : Nat) : Nat → Option Nat
  | 0 => none
  | k + 1 => if planDigit plan k a ≠ planDigit plan k b then some k else highestDiff plan a b k

/-- The ports that lead to a member: those of that neighbour, or those of the next member on the way. -/
def State.route (s : State) (e : PartyEnt) (dst : Nat) : List Nat :=
  if e.topo = 1 then s.carriers e
  else if s.reaching e dst ≠ [] then s.reaching e dst
  else
    match highestDiff e.plan e.member dst (planLevels e.plan) with
    | none => []
    | some k =>
      let g := planG e.plan k
      let d := (planDigit e.plan k dst + g - planDigit e.plan k e.member) % g
      let short := decide (d ≤ g - d)
      let first := s.reaching e (nextOf e.plan k e.member short)
      if first ≠ [] then first else s.reaching e (nextOf e.plan k e.member (!short))

/-- Put a frame out on a port of the party towards its destination. -/
def State.portSend (s : State) (e : PartyEnt) (p dst : Nat) (f : List Byte) : State :=
  let st := Reg.LNK_PORT_STATUS p
  let out :=
    if s.portEth p then
      s.etherFrame e p (if e.topo = 1 then macOf e.id p dst else macOf e.id (s.fld st 46 42) (s.fld st 63 47)) f
    else f
  (s.modLport p (fun x => { x with waiting := x.waiting ++ [out] })).count (Reg.LNK_PORT_CNT_TXB p) (frPlen f)

def State.peer (s : State) (k m : Nat) : Peer := mget {} (s.lparty k).peers m
def State.modPeer (s : State) (k m : Nat) (f : Peer → Peer) : State :=
  s.modLparty k (fun x => { x with peers := mmod {} x.peers m f })

/-- Send a frame on the next port of the route in turn. -/
def State.dispatch (s : State) (e : PartyEnt) (dst : Nat) (f : List Byte) : State × Option Nat :=
  let ports := s.route e dst
  if ports = [] then (s, none)
  else
    let turn := (s.peer e.id dst).turn
    let p := ports.getD (turn % ports.length) 0
    ((s.modPeer e.id dst (fun x => { x with turn := turn + 1 })).portSend e p dst f, some p)

/-- The poisoned lines of a frame go beside it. -/
def State.emitPoison (s : State) (party src dst pseq : Nat) (bad : List Nat) : State :=
  if bad = [] then s else s.emit (.linkPoison party src dst pseq bad)

/-- Number a frame, keep it until it is acknowledged, and send it. The result is its PSEQ. -/
def State.sendFrame (s : State) (e : PartyEnt) (owner : Option (Nat × Nat)) (f : FrameOut) : State × Nat :=
  let n := (s.peer e.id f.dst).next
  let b := frameBytes e n f
  let s := s.modPeer e.id f.dst (fun x => { x with next := n + 1, unacked := x.unacked ++ [⟨n, b, owner⟩] })
  ((s.dispatch e f.dst b).1.emitPoison e.id e.member f.dst n f.bad, n)

/-- Send an ACK of what a peer has delivered in order. -/
def State.sendAck (s : State) (e : PartyEnt) (m : Nat) : State :=
  let n := (s.peer e.id m).expect - 1
  let s := s.modPeer e.id m (fun x => { x with since := 0, ackDue := false })
  (s.dispatch e m (frameBytes e 0 { type := 7, dst := m, offset := n })).1

/-- A frame of a peer has been delivered in order: an ACK is due, at once after 16. -/
def State.noteDelivered (s : State) (e : PartyEnt) (m : Nat) : State :=
  let s := s.modPeer e.id m (fun x => { x with expect := x.expect + 1, since := x.since + 1, ackDue := true })
  if 16 ≤ (s.peer e.id m).since then s.sendAck e m else s

/-- ACK_TIMER. -/
def State.ackTimer (s : State) (k m : Nat) : State :=
  match s.party? k with
  | some e => if (s.peer k m).ackDue then (s.sendAck e m).linkFlush else s
  | none => s

/-- RETRANSMIT_TIMER: every unacknowledged frame to the peer goes again, the first one first. -/
def State.retransmit (s : State) (k m : Nat) : State :=
  match s.party? k with
  | some e =>
    ((s.peer k m).unacked.foldl (fun s u =>
      match s.dispatch e m u.bytes with
      | (s, some p) => s.count (Reg.LNK_PORT_CNT_RETX p) 1
      | (s, none) => s) s).linkFlush
  | none => s

/-- Whether a record still has a frame that is not acknowledged. -/
def State.ownsUnacked (s : State) (k q num : Nat) : Bool :=
  (s.lparty k).peers.any (fun p => p.2.unacked.any (fun u => u.owner == some (q, num)))

/-- Frames of a record are owned by it no longer. -/
def State.disown (s : State) (k q num : Nat) : State :=
  s.modLparty k (fun x => { x with peers := x.peers.map (fun p =>
    (p.1, { p.2 with unacked := p.2.unacked.map (fun u => if u.owner = some (q, num) then { u with owner := none } else u) })) })

/-! ## HELLO (R357, R359) -/

/-- The HELLO frame of a port. -/
def helloFrame (e : PartyEnt) (p : Nat) : List Byte :=
  let b := toLe 2 0x4C52 ++ toLe 2 0x24 ++ toLe 1 e.id ++ toLe 1 p ++ toLe 2 0 ++ toLe 4 e.member ++ toLe 4 0
    ++ toLe 8 (planId e.plan) ++ toLe 8 0
  frameBytes e 0 { type := 9, dst := 0x1FFFF, payload := b }

/-- HELLO_TIMER: each Ethernet-mode port of a directly linked party broadcasts one. -/
def State.helloTimer (s : State) : State :=
  ((List.range 18).foldl (fun s p =>
    match s.portParty p with
    | some e =>
      if e.topo = 0 ∧ s.portUp p ∧ s.portEth p then
        s.modLport p (fun x => { x with waiting := x.waiting ++ [s.etherFrame e p broadcast (helloFrame e p)] })
      else s
    | none => s) s).linkFlush

/-- A HELLO frame fills LNK_PORT_STATUS. -/
def State.helloIn (s : State) (p : Nat) (f : List Byte) : State :=
  let b := frPayload f
  s.setPeer p (leAt b 4 1) (leAt b 5 1) (leAt b 8 4 % 2 ^ 17) (leAt b 0x10 8)

/-! ## A record ends with LNK_TIMEOUT -/

def stLnkShape : Nat := 0x80
def stLnkParty : Nat := 0x81
def stLnkSeq : Nat := 0x82
def stLnkMismatch : Nat := 0x83
def stLnkTimeout : Nat := 0x84
def stLnkUnreachable : Nat := 0x85
def stLnkDiverge : Nat := 0x86
def stRepairSource : Nat := 0x87
def stRemoteRange : Nat := 0x88
def stLnkSealed : Nat := 0x89

/-- LNK_EVENT.TIMEOUT and EV_LNK_TIMEOUT about a member, or 0x1_FFFF. -/
def State.timeoutEvent (s : State) (k m : Nat) : State :=
  (s.raise Reg.LNK_EVENT 2 Reg.LNK_EVENT_CNT0 32).post slotLink 0x0704 2 (k + m % 2 ^ 17 * 2 ^ 16)

end Sys2Proof.Machine
end

