-- ==== Sys2Proof/Machine/Reduce.lean ====
section
/-! DEFINITION. The reduction (11_aedlink_parties.md, R366–R377, R382, R383): LREDUCE, its RSDATA, AGDATA and TAIL frames,
staging and mismatches, fingerprint and digest tallies, and how it ends. -/

namespace Sys2Proof.Machine

/-! ## The record (R367) -/

def redSrc (r : Fetched) : Nat := r.f 8 8
def redDst (r : Fetched) : Nat := r.f 0x10 8
def redCount (r : Fetched) : Nat := r.f 0x18 8
def redSeq (r : Fetched) : Nat := r.f 0x20 8
def redNt (r : Fetched) : Nat := r.f 0x28 8
def redParty (r : Fetched) : Nat := r.f 0x30 1
def redL (r : Fetched) : Nat := r.f 0x31 1 % 16
def redG (r : Fetched) : Nat := r.f 0x31 1 / 16
def redTf (r : Fetched) : Nat := r.f 0x32 1
def redFirst (r : Fetched) : Nat := r.f 0x34 2
def redShards (r : Fetched) : Nat := r.f 0x36 2

/-- Bytes of a BF16 (0) or FP32 (2) element. -/
def elBytes (t : Nat) : Nat := if t = 0 then 2 else 4

/-- RTAG (R370). -/
def redTag (r : Fetched) : Nat :=
  crc32c (toLe 8 (redSeq r) ++ toLe 8 (redCount r) ++ toLe 1 (redG r) ++ toLe 1 (redTf r) ++ toLe 2 (redFirst r) ++ toLe 2 (redShards r) ++ toLe 10 0)

/-! ## Owners, directions and visits (R363, R367, R368) -/

def chunkFwd (e : PartyEnt) (c : Nat) : Bool := planBidir e.plan == 0 || c / e.members % 2 == 0
def chunkOwner (e : PartyEnt) (c : Nat) : Nat := c % e.members

/-- The member belongs to a group of level k that a chunk of owner o passes through: digits below k are those of o. -/
def inLevel (e : PartyEnt) (k o : Nat) : Bool := (List.range k).all (fun j => planDigit e.plan j e.member == planDigit e.plan j o)

/-- This member keeps P at level k. -/
def keepsAt (e : PartyEnt) (k o : Nat) : Bool := planDigit e.plan k e.member == planDigit e.plan k o

/-- This member is the first visited at level k. -/
def firstAt (e : PartyEnt) (k o : Nat) (fwd : Bool) : Bool := planDigit e.plan k e.member == planDigit e.plan k (nextOf e.plan k o fwd)

/-- The key of an element or shard at a level. -/
def levKey (k i : Nat) : Nat := k * 2 ^ 40 + i

/-- Where a chunk's elements end. -/
def chunkEnd (r : Fetched) (c : Nat) : Nat := min (redCount r) (16384 * (c + 1))
def chunkTotal (r : Fetched) : Nat := (redCount r + 16383) / 16384

/-- Cut a list into pieces of at most n. -/
def cutBy {α : Type} (n : Nat) : Nat → List α → List (List α)
  | 0, _ => []
  | _, [] => []
  | fuel + 1, l => l.take n :: cutBy n fuel (l.drop n)

/-- Number pieces by the index of their first element. -/
def numberFrom {α : Type} : Nat → List (List α) → List (Nat × List α)
  | _, [] => []
  | i, p :: r => (i, p) :: numberFrom (i + p.length) r

/-- Keep the first error. -/
def keepErr (a b : Option (Nat × Nat)) : Option (Nat × Nat) := a.orElse (fun _ => b)

/-! ## Elements -/

/-- The local elements from an index on, widened; an element read as poison is a NaN (R368). -/
def State.localEls (s : State) (x : Red) (el n : Nat) : State × Red × List (Nat × Nat) :=
  let z := elBytes (redL x.item)
  let a := redSrc x.item + el * z
  let (s, rd) := s.readMem srcLink a (n * z)
  let ws := if z = 2 then wordsBf rd.bytes else words4 rd.bytes
  let els := (numbered ws).map (fun w => if ((a + w.1 * z) / 32 * 32) ∈ rd.bad then (0x7FC00000, 0) else (w.2, 0))
  (s, { x with err := keepErr x.err rd.err }, els)

/-- Pairs as the payload of RSDATA: 8 B each, or the folded value in 4 B. -/
def rsPayload (e : PartyEnt) (ps : List (Nat × Nat)) : List Byte :=
  if e.sum = 0 then ps.flatMap pairBytes8 else ps.flatMap (fun p => toLe 4 p.1)

/-- The pairs of an RSDATA payload. -/
def rsPairs (e : PartyEnt) (b : List Byte) : List (Nat × Nat) :=
  let ws := words4 b
  if e.sum = 0 then (List.range (ws.length / 2)).map (fun i => (ws.getD (2 * i) 0, ws.getD (2 * i + 1) 0)) else ws.map (fun w => (w, 0))

/-- Combine an arriving P with the local one (R368). -/
def combineP (e : PartyEnt) (arr loc : Nat × Nat) : Nat × Nat := if e.sum = 0 then pairCombine arr loc else (foldInto arr.1 loc, 0)

def zipCombine (e : PartyEnt) : List (Nat × Nat) → List (Nat × Nat) → List (Nat × Nat)
  | a :: as, b :: bs => combineP e a b :: zipCombine e as bs
  | _, _ => []

def dirOf (fwd : Bool) : Nat := if fwd then 0 else 1

/-- Send P for a run of elements at a level to the next member. -/
def State.rsSend (s : State) (e : PartyEnt) (x : Red) (lvl : Nat) (fwd : Bool) (el : Nat) (ps : List (Nat × Nat)) : State × Red :=
  let n := if e.sum = 0 then 512 else 1024
  let s := (numberFrom el (cutBy n ps.length ps)).foldl (fun s p =>
    let f : FrameOut := { type := 0, dst := nextOf e.plan lvl e.member fwd, level := lvl, dir := dirOf fwd, rseq := redSeq x.item, offset := p.1, rtag := redTag x.item, payload := rsPayload e p.2 }
    (s.sendFrame e (some (x.q, x.item.num)) f).1) s
  (s, { x with sentEls := x.sentEls + ps.length })

/-- A result in GTYPE (R368, R370 of narrowing: SAT 0, RND 0). -/
def redCode (e : PartyEnt) (g : Nat) (p : Nat × Nat) : Nat :=
  let v := if e.sum = 0 then pairFold p else p.1
  (narrowFp (if g = 0 then fmtBf16 else fmtF32) false false (ofF32 v)).code

/-- Send a chunk's reduced bytes from an element on along the ring of a level (R369). -/
def State.agSend (e : PartyEnt) (x : Red) (fwd : Bool) (el : Nat) (payload : List Byte) (s : State) (lvl : Nat) : State :=
  let f : FrameOut := { type := 1, dst := nextOf e.plan lvl e.member fwd, level := lvl, dir := dirOf fwd, rseq := redSeq x.item, offset := el, rtag := redTag x.item, payload }
  (s.sendFrame e (some (x.q, x.item.num)) f).1

/-- Levels from k − 1 down to 0. -/
def downFrom (k : Nat) : List Nat := (List.range k).reverse

/-- This member holds a whole chunk: its norm pair, and from its owner the AGDATA frames (R369). -/
def State.chunkWhole (s : State) (e : PartyEnt) (x : Red) (c : Nat) (codes : List Nat) : State × Red :=
  let g := redG x.item
  let z := elBytes g
  let (s, err) :=
    if redNt x.item = 0 then (s, none)
    else s.writeMem srcLink (redNt x.item + 8 * c) (pairBytes8 (squarePair (if g = 0 then codes.map (· * 0x10000) else codes)))
  let fwd := chunkFwd e c
  let s :=
    if chunkOwner e c = e.member then
      (numberFrom (16384 * c) (cutBy (4096 / z) codes.length codes)).foldl (fun s p =>
        (downFrom (planLevels e.plan)).foldl (State.agSend e x fwd p.1 (p.2.flatMap (toLe z))) s) s
    else s
  (s, { x with chunks := x.chunks + 1, err := keepErr x.err err, vals := x.vals.filter (fun v => decide (v.1 / 16384 ≠ c)) })

/-- Write reduced elements to DST. -/
def State.putVals (s : State) (e : PartyEnt) (x : Red) (el : Nat) (codes : List Nat) : State × Red :=
  let z := elBytes (redG x.item)
  let (s, err) := s.writeMem srcLink (redDst x.item + el * z) (codes.flatMap (toLe z))
  let vals := (numbered codes).foldl (fun m v => mput m (el + v.1) v.2) x.vals
  let x := { x with vals, err := keepErr x.err err }
  let c := el / 16384
  let mine := vals.filter (fun v => decide (v.1 / 16384 = c))
  if mine.length = chunkEnd x.item c - 16384 * c then s.chunkWhole e x c (mine.map (·.2)) else (s, x)

/-- This member has P for a level over a run of elements of one chunk. -/
def State.haveP (s : State) (e : PartyEnt) (x : Red) (lvl el : Nat) (ps : List (Nat × Nat)) : State × Red :=
  let c := el / 16384
  let o := chunkOwner e c
  let fwd := chunkFwd e c
  if planLevels e.plan ≤ lvl then s.putVals e x el (ps.map (redCode e (redG x.item)))
  else if firstAt e lvl o fwd then s.rsSend e x lvl fwd el ps
  else (s, { x with kept := (numbered ps).foldl (fun m p => mput m (levKey lvl (el + p.1)) p.2) x.kept })

/-- The run of elements that a frame's payload holds: as many as its chunk has left. -/
def frEls (r : Fetched) (f : List Byte) (size : Nat) : Nat :=
  min (frPlen f / size) (chunkEnd r (frOffset f / 16384) - frOffset f)

def rsSize (e : PartyEnt) : Nat := if e.sum = 0 then 8 else 4

/-- An RSDATA frame of the open reduction: combined with the local P, and sent on or kept. -/
def State.rsIn (s : State) (e : PartyEnt) (x : Red) (f : List Byte) : State × Red :=
  let lvl := frLevel f
  let el := frOffset f
  let c := el / 16384
  let o := chunkOwner e c
  let n := frEls x.item f (rsSize e)
  let fwd := chunkFwd e c
  if planLevels e.plan ≤ lvl ∨ redCount x.item ≤ el ∨ ¬ inLevel e lvl o ∨ firstAt e lvl o fwd then (s, x)
  else
    let (s, x, loc) :=
      if lvl = 0 then s.localEls x el n
      else (s, { x with kept := x.kept.filter (fun p => decide (p.1 < levKey lvl el ∨ levKey lvl (el + n) ≤ p.1)) },
        (List.range n).map (fun i => mget (0, 0) x.kept (levKey lvl (el + i))))
    let ps := zipCombine e ((rsPairs e (frPayload f)).take n) loc
    if keepsAt e lvl o then s.haveP e x (lvl + 1) el ps else s.rsSend e x lvl fwd el ps

/-- An AGDATA frame: written, sent on along its ring, and down the lower levels. -/
def State.agIn (s : State) (e : PartyEnt) (x : Red) (f : List Byte) : State × Red :=
  let lvl := frLevel f
  let el := frOffset f
  let c := el / 16384
  let o := chunkOwner e c
  let z := elBytes (redG x.item)
  let n := frEls x.item f z
  let fwd := chunkFwd e c
  if planLevels e.plan ≤ lvl ∨ redCount x.item ≤ el ∨ ¬ inLevel e lvl o ∨ keepsAt e lvl o then (s, x)
  else
    let b := (frPayload f).take (n * z)
    let on := planDigit e.plan lvl (nextOf e.plan lvl e.member fwd) ≠ planDigit e.plan lvl o
    let s := if on then State.agSend e x fwd el b s lvl else s
    let s := (downFrom lvl).foldl (State.agSend e x fwd el b) s
    s.putVals e x el (if z = 2 then (wordsBf b).map (· / 0x10000) else words4 b)

/-! ## Tails (R374–R376) -/

def isTail (r : Fetched) : Bool := redTf r != 0

/-- Entry i of a tally: KEY, COUNT, FIRST. -/
def tKey (t : List Byte) (i : Nat) : List Byte := slice t (64 * i) 40
def tCount (t : List Byte) (i : Nat) : Nat := leAt t (64 * i + 40) 4
def tFirst (t : List Byte) (i : Nat) : Nat := leAt t (64 * i + 44) 4 % 2 ^ 17
def tOver (t : List Byte) : Bool := leAt t 0x30 1 % 2 == 1

/-- Write bytes at an offset of a byte string. -/
def patch (b : List Byte) (off : Nat) (x : List Byte) : List Byte := b.take off ++ x ++ b.drop (off + x.length)

def tallyOf (key : List Byte) (m : Nat) : List Byte := slice key 0 40 ++ toLe 4 1 ++ toLe 4 m ++ toLe 208 0

/-- The used entries of a tally. -/
def tUsed (t : List Byte) : List Nat := (List.range 4).filter (fun i => tCount t i != 0)

/-- Merge one entry into a tally: an equal key, the next free entry, or OVERFLOW. -/
def tMerge (t : List Byte) (x : List Byte × Nat × Nat) : List Byte :=
  match (tUsed t).find? (fun i => tKey t i == x.1) with
  | some i => patch t (64 * i + 40) (toLe 4 (tCount t i + x.2.1) ++ toLe 4 (min (tFirst t i) x.2.2))
  | none =>
    match (List.range 4).find? (fun i => tCount t i == 0) with
    | some i => patch t (64 * i) (x.1 ++ toLe 4 x.2.1 ++ toLe 4 x.2.2)
    | none => patch t 0x30 [1]

/-- Merge the local tally into the arriving one, entry by entry. -/
def tallyMerge (arr loc : List Byte) : List Byte :=
  let t := (tUsed loc).foldl (fun t i => tMerge t (tKey loc i, tCount loc i, tFirst loc i)) arr
  if tOver loc then patch t 0x30 [1] else t

/-- The key of a shard for a tail, and the failure of its read (R374). -/
def State.tailKey (s : State) (k tf shard : Nat) : State × List Byte × Option (Nat × Nat) :=
  if tf = 1 then
    let (s, rd) := s.readMem srcLink (s.updTable Reg.UPD_REC_TBL + 64 * shard) 64
    let pend := mget false s.fpMarks (8192 * k + shard) && leAt rd.bytes 0x18 1 % 2 == 1
    (s, if pend then rd.bytes.take 16 ++ toLe 24 1 else toLe 40 0, rd.err)
  else
    let (s, rd) := s.readMem srcLink (s.updTable Reg.UPD_DIG_TBL + 64 * shard) 64
    (s, rd.bytes.take 40, rd.err)

/-- Form the keys of the shards a tail carries, and clear their pending marks. -/
def State.formKeys (s : State) (k : Nat) (x : Red) : State × Red :=
  if !isTail x.item then (s, x)
  else
    let first := redFirst x.item
    let last := first + redShards x.item
    let (s, x) := (List.range (redShards x.item)).foldl (fun (acc : State × Red) i =>
      let (s, x) := acc
      let (s, key, err) := s.tailKey k (redTf x.item) (first + i)
      (s, { x with keys := mput x.keys (first + i) key, err := keepErr x.err err })) (s, x)
    ({ s with fpMarks := s.fpMarks.filter (fun m => decide (m.1 < 8192 * k + first ∨ 8192 * k + last ≤ m.1)) }, x)

/-- Shards with one owner and one direction lie this far apart. -/
def tailStep (e : PartyEnt) : Nat := if planBidir e.plan = 0 then e.members else 2 * e.members

/-- The shards that one TAIL frame carries from its first on: up to 16 of one owner and direction that the record carries (R375;
DEDUCED, log 59). -/
def tailGroup (e : PartyEnt) (r : Fetched) (first n : Nat) : List Nat :=
  ((List.range (min n 16)).map (fun i => first + tailStep e * i)).filter (fun k => decide (redFirst r ≤ k ∧ k < redFirst r + redShards r))

/-- Where the groups of a record's shards begin. -/
def tailFirsts (e : PartyEnt) (r : Fetched) : List Nat :=
  ((List.range (redShards r)).filter (fun i => i / tailStep e % 16 == 0)).map (redFirst r + ·)

/-- Send the tallies of a group of shards at a level to the next member. -/
def State.tailSend (e : PartyEnt) (x : Red) (ts : List (Nat × List Byte)) (s : State) (lvl : Nat) : State :=
  match ts with
  | [] => s
  | (shard, _) :: _ =>
    let fwd := chunkFwd e shard
    let f : FrameOut := { type := 2, dst := nextOf e.plan lvl e.member fwd, level := lvl, dir := dirOf fwd, rseq := redSeq x.item, offset := shard, rtag := redTag x.item, payload := ts.flatMap (·.2) }
    (s.sendFrame e (some (x.q, x.item.num)) f).1

/-- The tallies of a group have been sent on by this member. -/
def Red.pass (x : Red) (ts : List (Nat × List Byte)) : Red := { x with passed := ts.foldl (fun m t => mset false m t.1 true) x.passed }

/-- The event and the registers of a shard that disagrees (R376). -/
def State.divergeEvent (s : State) (e : PartyEnt) (kind shard : Nat) (torn : Bool) (src count values : Nat) : State :=
  let v := src * 2 ^ 47 + values * 2 ^ 42 + kind * 2 ^ 41 + (if torn then 2 ^ 40 else 0) + shard % 2 ^ 13
  let s := s.setReg (Reg.LNK_DIV_LAST e.id) (BitVec.ofNat 64 v)
  (s.raise Reg.LNK_EVENT 0 Reg.LNK_EVENT_CNT0 0).post slotLink 0x0702 2
    (e.id + kind * 4 + shard % 2 ^ 13 * 8 + e.member % 2 ^ 17 * 2 ^ 16 + src * 2 ^ 33 + count % 2 ^ 17 * 2 ^ 50 + values * 2 ^ 67)

/-- Judge a shard from its final tally (R376). -/
def State.judge (s : State) (e : PartyEnt) (x : Red) (shard : Nat) (t : List Byte) : State × Red :=
  let n := e.members
  let used := tUsed t
  let x := { x with shards := x.shards + 1 }
  if !tOver t && used.length == 1 && tCount t (used.getD 0 0) == n then (s, x)
  else
    let maj := if 3 ≤ n ∧ ¬ tOver t then used.find? (fun i => decide (n < 2 * tCount t i)) else none
    let torn := match maj with | some i => tKey t i != mget [] x.keys shard | none => true
    let (s, err) := if torn then s.writeMem srcLink (s.shardAddr shard + 0x3C) [1] else (s, none)
    let src := match maj with | some i => tFirst t i | none => 0x1FFFF
    let count := match maj with | some i => tCount t i | none => 0
    let s := s.divergeEvent e (redTf x.item / 2) shard torn src count (if tOver t then 7 else used.length)
    (s, { x with diverged := x.diverged + 1, err := keepErr x.err err })

/-- Judge the shards of a group from their final tallies. -/
def State.judgeAll (s : State) (e : PartyEnt) (x : Red) (ts : List (Nat × List Byte)) : State × Red :=
  ts.foldl (fun (acc : State × Red) t => acc.1.judge e acc.2 t.1 t.2) (s, x)

/-- This member has the tallies of a group of shards for a level; `shard` is the group's first. -/
def State.haveTally (s : State) (e : PartyEnt) (x : Red) (lvl shard : Nat) (ts : List (Nat × List Byte)) : State × Red :=
  if planLevels e.plan ≤ lvl then ((downFrom (planLevels e.plan)).foldl (State.tailSend e x ts) s).judgeAll e x ts
  else if firstAt e lvl (chunkOwner e shard) (chunkFwd e shard) then (State.tailSend e x ts s lvl, x.pass ts)
  else (s, { x with tallies := ts.foldl (fun m t => mput m (levKey lvl t.1) t.2) x.tallies })

/-- The tail starts once this member has sent its last RSDATA frame: elements of chunks it does not own. -/
def redOwed (e : PartyEnt) (r : Fetched) : Nat :=
  sumNat ((List.range (chunkTotal r)).map (fun c => if chunkOwner e c = e.member then 0 else chunkEnd r c - 16384 * c))

def State.startTail (s : State) (e : PartyEnt) (x : Red) : State × Red :=
  if x.tailOn || !isTail x.item || x.sentEls != redOwed e x.item then (s, x)
  else
    (tailFirsts e x.item).foldl (fun (acc : State × Red) shard =>
      let (s, x) := acc
      s.haveTally e x 0 shard ((tailGroup e x.item shard 16).map (fun k => (k, tallyOf (mget [] x.keys k) e.member)))) (s, { x with tailOn := true })

/-- Whether a TAIL frame brings a shard's final tally to this member. -/
def isGather (e : PartyEnt) (x : Red) (lvl shard : Nat) : Bool :=
  !keepsAt e lvl (chunkOwner e shard) && (firstAt e lvl (chunkOwner e shard) (chunkFwd e shard) || mget false x.passed shard)

/-- The tallies of a TAIL frame, whose first shard is `shard`. -/
def State.tallyIn (s : State) (e : PartyEnt) (x : Red) (lvl shard : Nat) (ts : List (Nat × List Byte)) : State × Red :=
  let o := chunkOwner e shard
  let fwd := chunkFwd e shard
  if isGather e x lvl shard then
    let on := planDigit e.plan lvl (nextOf e.plan lvl e.member fwd) ≠ planDigit e.plan lvl o
    let s := if on then State.tailSend e x ts s lvl else s
    ((downFrom lvl).foldl (State.tailSend e x ts) s).judgeAll e x ts
  else
    let ms := ts.map (fun t => (t.1, tallyMerge t.2 (mget [] x.tallies (levKey lvl t.1))))
    let x := { x with tallies := ts.foldl (fun m t => mdel m (levKey lvl t.1)) x.tallies }
    if keepsAt e lvl o then s.haveTally e x (lvl + 1) shard ms else (State.tailSend e x ms s lvl, x.pass ms)

/-- The shards of a TAIL frame that the record carries, with their tallies. -/
def tailShards (e : PartyEnt) (r : Fetched) (f : List Byte) : List (Nat × List Byte) :=
  (tailGroup e r (frOffset f) (frPlen f / 256)).map (fun k => (k, slice f (64 + 256 * ((k - frOffset f) / tailStep e)) 256))

def State.tailIn (s : State) (e : PartyEnt) (x : Red) (f : List Byte) : State × Red :=
  match tailShards e x.item f with
  | [] => (s, x)
  | t :: r =>
    if planLevels e.plan ≤ frLevel f ∨ ¬ inLevel e (frLevel f) (chunkOwner e t.1) then (s, x)
    else s.tallyIn e x (frLevel f) t.1 (t :: r)

/-! ## Frames of the open reduction, in the order they can be taken -/

/-- Whether a frame of the open reduction can be taken now: the local P or tally it meets is there. -/
def frameReady (e : PartyEnt) (x : Red) (f : List Byte) : Bool :=
  let lvl := frLevel f
  match frType f with
  | 0 =>
    lvl == 0 || decide (planLevels e.plan ≤ lvl) || !inLevel e lvl (chunkOwner e (frOffset f / 16384))
      || (List.range (frEls x.item f (rsSize e))).all (fun i => x.kept.any (fun p => p.1 == levKey lvl (frOffset f + i)))
  | 2 =>
    (tailShards e x.item f).all (fun t =>
      decide (planLevels e.plan ≤ lvl) || !inLevel e lvl (chunkOwner e t.1) || isGather e x lvl t.1
        || x.tallies.any (fun y => y.1 == levKey lvl t.1))
  | _ => true

/-- Take the held frames that can be taken, until none can. -/
def State.redGo (e : PartyEnt) : Nat → State → Red → State × Red
  | 0, s, x => (s, x)
  | fuel + 1, s, x =>
    let (s, x) := s.startTail e x
    match x.heldFrames.find? (frameReady e x) with
    | none => (s, x)
    | some f =>
      let x := { x with heldFrames := x.heldFrames.erase f }
      let (s, x) :=
        match frType f with
        | 0 => s.rsIn e x f
        | 1 => s.agIn e x f
        | _ => s.tailIn e x f
      State.redGo e fuel s x

/-! ## How it ends (R371, R372) -/

def State.setRed (s : State) (k : Nat) (x : Option Red) : State := s.modLparty k (fun p => { p with red := x })

/-- The reduction ends: LNK_PARTY_SEQ becomes RSEQ whatever the status. After LNK_TIMEOUT and LNK_MISMATCH, DST and the
norm pairs are undefined. -/
def State.endRed (s : State) (k : Nat) (x : Red) (status detail : Nat) : State :=
  let r := x.item
  let s := (s.setReg (Reg.LNK_PARTY_SEQ k) (BitVec.ofNat 64 (redSeq r))).setRed k none
  let s :=
    if status = stLnkTimeout ∨ status = stLnkMismatch then
      let s := s.openRange (redDst r) (redDst r + redCount r * elBytes (redG r))
      if redNt r = 0 then s else s.openRange (redNt r) (redNt r + 8 * chunkTotal r)
    else s
  (s.disown k x.q r.num).setPhaseOf x.q r.num (.ended status (detail % 2 ^ 32))

/-- It ends once every chunk is written, every shard judged and every frame acknowledged. -/
def State.redCheck (s : State) (k : Nat) : State :=
  match (s.lparty k).red with
  | none => s
  | some x =>
    if x.chunks = chunkTotal x.item ∧ x.shards = redShards x.item ∧ ¬ s.ownsUnacked k x.q x.item.num then
      match x.err with
      | some (st, a) => s.endRed k x st a
      | none => if x.diverged = 0 then s.endRed k x stOk 0 else s.endRed k x stLnkDiverge x.diverged
    else s

/-- Go on with the open reduction. -/
def State.redOn (s : State) (e : PartyEnt) (x : Red) : State :=
  let (s, x) := State.redGo e (x.heldFrames.length + 1) s x
  (s.setRed e.id (some x)).redCheck e.id

/-- A frame whose RTAG differs ends it (R370). -/
def State.redMismatch (s : State) (e : PartyEnt) (x : Red) (m : Nat) : State :=
  let s := (s.raise Reg.LNK_EVENT 1 Reg.LNK_EVENT_CNT0 16).post slotLink 0x0703 2 (e.id + m * 2 ^ 16)
  s.endRed e.id x stLnkMismatch m

/-- A frame of a reduction is delivered (R370). -/
def State.redFrame (s : State) (e : PartyEnt) (port : Nat) (f : List Byte) : State :=
  let seq := (s.reg (Reg.LNK_PARTY_SEQ e.id)).toNat
  match (s.lparty e.id).red with
  | some x =>
    if frRseq f = redSeq x.item then
      if frTag f ≠ redTag x.item then s.redMismatch e x (frSrc f)
      else s.redOn e { x with heldFrames := x.heldFrames ++ [f] }
    else if frRseq f = seq + 2 then s.modLparty e.id (fun p => { p with staged := p.staged ++ [f] })
    else s.badFrame port
  | none =>
    if frRseq f = seq + 1 then s.modLparty e.id (fun p => { p with staged := p.staged ++ [f] }) else s.badFrame port

/-! ## LREDUCE (R367, R382) -/

def lreduceFormat (r : Fetched) : Option Nat :=
  formatFail r false [(8, 43), (0x34, 4)]
    [addrCheck r.bytes 8, addrCheck r.bytes 0x10, (0x18, decide (redCount r < 2 ^ 40)), addrCheck r.bytes 0x28,
     (0x31, (redL r == 0 || redL r == 2) && (redG r == 0 || redG r == 2)), (0x32, decide (redTf r < 4)),
     (0x34, decide (redFirst r < 2 ^ 13)), (0x36, decide (redShards r < 2 ^ 13))]

def State.lreduceShape (s : State) (r : Fetched) : Option Nat :=
  let cnt := s.shardCount
  firstFail [(8, redSrc r % 32 == 0), (0x10, redDst r % 32 == 0), (0x18, decide (1 ≤ redCount r)), (0x28, redNt r % 8 == 0),
    (0x32, decide (redTf r ≠ 3)),
    (0x34, if isTail r then decide (redFirst r < cnt) else decide (redFirst r ≤ cnt)),
    (0x36, if isTail r then decide (1 ≤ redShards r ∧ redShards r ≤ 4096) && decide (cnt ≤ redFirst r ∨ redFirst r + redShards r ≤ cnt)
      else redShards r == 0)]

/-- The first unpopulated address of the record's ranges. -/
def State.lreduceRange (s : State) (r : Fetched) : Option Nat :=
  ((s.rangeBad (redSrc r) (redCount r * elBytes (redL r))).orElse (fun _ => s.rangeBad (redDst r) (redCount r * elBytes (redG r)))).orElse
    (fun _ => if redNt r = 0 then none else s.rangeBad (redNt r) (8 * chunkTotal r))

/-- The reduction begins: its staged frames are taken, and the chunks this member is visited first for are sent. -/
def State.beginRed (s : State) (e : PartyEnt) (c : Ctx) : State :=
  let r := c.item
  let staged := (s.lparty e.id).staged.filter (fun f => frRseq f == redSeq r)
  let x : Red := { q := c.q, item := r, heldFrames := staged }
  let s := s.modLparty e.id (fun p => { p with staged := [], red := some x })
  match staged.find? (fun f => frTag f != redTag r) with
  | some f => s.redMismatch e x (frSrc f)
  | none =>
    let (s, x) := s.formKeys e.id x
    let (s, x) := (List.range (chunkTotal r)).foldl (fun (acc : State × Red) ch =>
      let (s, x) := acc
      let o := chunkOwner e ch
      if firstAt e 0 o (chunkFwd e ch) then
        let (s, x, ps) := s.localEls x (16384 * ch) (chunkEnd r ch - 16384 * ch)
        s.rsSend e x 0 (chunkFwd e ch) (16384 * ch) ps
      else (s, x)) (s, x)
    s.redOn e x

/-- The phase that an LREDUCE's turn leaves. -/
def State.redPhase (s : State) (c : Ctx) (k : Nat) : Phase :=
  match (s.lparty k).red with
  | some _ => .parked .engine
  | none =>
    match s.issuedAt c.q c.item.num with
    | some i => i.phase
    | none => .parked .engine

/-- LREDUCE's turn: the checks of R382 from the party's state, and its beginning. -/
def lreduceTurn (c : Ctx) (s : State) : State × Phase :=
  let r := c.item
  let k := redParty r
  match s.lreduceShape r with
  | some o => done s stLnkShape o
  | none =>
    match s.party? k with
    | none => done s stLnkParty k
    | some e =>
      match s.lreduceRange r with
      | some b => done (s.rangeErr srcLink b) stAddrRange (b % 2 ^ 32)
      | none =>
        let want := ((s.reg (Reg.LNK_PARTY_SEQ k)).toNat + 1) % 2 ^ 64
        if !s.partyReady e then done s stLnkUnreachable 0xFFFFFFFF
        else if redSeq r ≠ want then done s stLnkSeq (want % 2 ^ 32)
        else
          let s := s.beginRed e c
          (s, s.redPhase c k)

/-- The link reduction engine accepts an LREDUCE. -/
def runLreduceTurn (c : Ctx) (s : State) : State × Phase :=
  match lreduceFormat c.item with
  | some o => endFormat s c.item.slot o
  | none => lreduceTurn c s

/-- LREDUCE reaches the link reduction engine and joins the line of its party. -/
def runLreduce (c : Ctx) (s : State) : State × Phase :=
  let k := redParty c.item
  match s.party? k with
  | none => runLreduceTurn c s
  | some _ =>
    s.joinLine1 (s.lparty k).line c.item (lreduceFormat c.item)
      (s.modLparty k (fun p => { p with line := p.line ++ [(c.q, c.item.num)] }))

/-- Go on with the line of a party: its reductions are open one at a time; after a trip the engine issues nothing (R420). -/
def State.lineGo (k : Nat) (env : Env) : Nat → State → State
  | 0, s => s
  | fuel + 1, s =>
    match (s.lparty k).line with
    | [] => s
    | (q, num) :: rest =>
      let pop := s.modLparty k (fun p => { p with line := rest })
      match (s.issuedAt q num).map Issued.phase with
      | none => State.lineGo k env fuel pop
      | some (.ended _ _) => State.lineGo k env fuel pop
      | some (.parked .turn) =>
        if ¬ s.mayBegin q then s else State.lineGo k env fuel (s.rerun q num .turn env runLreduceTurn)
      | some (.parked .memory) =>
        if s.tokenWaits (.record q num) ∨ s.tripped then State.lineChecks lreduceFormat rest s
        else State.lineGo k env fuel (s.rerun q num .memory env runLreduceTurn)
      | some (.parked _) => State.lineChecks lreduceFormat rest s

/-- The lines of all parties go on, and what is to be sent is sent: after an LREDUCE is issued or ends, after the answers it
waits for, and on RESUME. -/
def State.linkOn (s : State) (env : Env) : State :=
  ((List.range 4).foldl (fun s k => State.lineGo k env (4 * (s.lparty k).line.length + 4) s) s).linkFlush

/-! ## LNK_BUSY, LNK_PARTY_STATUS and LNK_PARTY_SEQ -/

/-- A reduction of the party is open or staged. -/
def State.partyBusy (s : State) (k : Nat) : Bool := (s.lparty k).red.isSome || (s.lparty k).staged != []

def State.linkBusy (s : State) : Bool := (List.range 4).any s.partyBusy

/-- LNK_PARTY_STATUS. -/
def State.partyStatus (s : State) (k : Nat) : Word :=
  match s.party? k with
  | none => 0
  | some e =>
    BitVec.ofNat 64 (e.members % 2 ^ 18 * 2 ^ 46 + e.member % 2 ^ 17 * 2 ^ 29 + (if s.partyBusy k then 2 ^ 7 else 0)
      + (if s.partyReady e then 2 ^ 6 else 0) + planBidir e.plan % 2 * 2 ^ 5 + planLevels e.plan % 4 * 2 ^ 3 + e.topo % 2 * 4
      + e.sum % 2 * 2 + 1)

/-- A write of LNK_PARTY_SEQ (R372). -/
def State.partySeqWrite (s : State) (k : Nat) (v : Word) (quiesced : Bool) : State :=
  if quiesced && !s.partyBusy k then
    (s.setReg (Reg.LNK_PARTY_SEQ k) v).modLparty k (fun p => { p with staged := [] })
  else s.raise Reg.LNK_EVENT 5 Reg.LNK_EVENT_CNT1 16

end Sys2Proof.Machine
end

