-- ==== Sys2Proof/Machine/Repair.lean ====
section
/-! DEFINITION. Shard repair (R378, R379) and signals (R97, R98, R380). -/

namespace Sys2Proof.Machine

/-! ## LREPAIR -/

def repParty (r : Fetched) : Nat := r.f 8 1
def repMember (r : Fetched) : Nat := r.f 0x0C 4
def repShard (r : Fetched) : Nat := r.f 0x10 2
def repArrays (r : Fetched) : Nat := r.f 0x12 1
def repStep (r : Fetched) : Nat := r.f 0x18 8

def lrepairFormat (r : Fetched) : Option Nat :=
  formatFail r false [(8, 1), (0x0C, 4), (0x10, 3), (0x18, 8)]
    [(0x0C, decide (repMember r < 2 ^ 17)), (0x10, decide (repShard r < 2 ^ 13)), (0x12, decide (repArrays r < 32))]

/-- ARRAYS nonzero, and MEMBER a member of the party that is not this one. -/
def State.lrepairShape (s : State) (r : Fetched) : Option Nat :=
  firstFail [(0x12, decide (repArrays r ≠ 0)),
    (0x0C, match s.party? (repParty r) with
      | some e => decide (repMember r < e.members ∧ repMember r ≠ e.member)
      | none => true)]

/-- The arrays named that an entry does not have. -/
def State.absentArrays (s : State) (arrays : Nat) (e : List Byte) : Bool :=
  (setBitList 5 arrays).any (fun a => s.arrSize e a == 0)

/-- The checks of the local entry and the request to the source (R379). -/
def State.beginRepair (s : State) (e : PartyEnt) (c : Ctx) : State × Phase :=
  let r := c.item
  let k := repShard r
  let (s, rd) := s.readMem srcLink (s.shardAddr k) 128
  match rd.err with
  | some x => endMem s (some x)
  | none =>
    let en := rd.bytes
    if s.shardCount ≤ k ∨ ¬ s.validEntry k en then done s stShardEntry k
    else if s.absentArrays (repArrays r) en then done s stLnkShape 0x12
    else
      match s.lowestSealed ((setBitList 5 (repArrays r)).map (fun a => (enBase en a, enBase en a + enNparam en * s.arrSize en a))) with
      | some a => done s stLnkSealed (a % 2 ^ 32)
      | none =>
        if s.route e (repMember r) = [] then done s stLnkUnreachable (repMember r)
        else
          let x : Repair := { q := c.q, num := r.num, member := repMember r, shard := k, entry := en }
          let pl := toLe 2 k ++ toLe 2 (repArrays r) ++ toLe 4 (enNparam en) ++ toLe 8 (repStep r) ++ toLe 16 0
          let f : FrameOut := { type := 5, dst := repMember r, rtag := k, payload := pl }
          let s := s.modLparty e.id (fun p => { p with repairs := p.repairs ++ [x] })
          ((s.sendFrame e (some (c.q, r.num)) f).1, .parked .engine)

/-- The checks of an LREPAIR but those of its local entry (R378, R382). -/
def lrepairFail (c : Ctx) (s : State) : Option (State × Phase) :=
  let r := c.item
  match lrepairFormat r with
  | some o => some (endFormat s r.slot o)
  | none =>
    match s.lrepairShape r with
    | some o => some (done s stLnkShape o)
    | none =>
      match s.party? (repParty r) with
      | none => some (done s stLnkParty (repParty r))
      | some e => if s.partyReady e then none else some (done s stLnkUnreachable 0xFFFFFFFF)

/-- An LREPAIR that passed those checks. -/
def lrepairWork (c : Ctx) (s : State) : State × Phase :=
  match s.party? (repParty c.item) with
  | some e => s.beginRepair e c
  | none => done s stLnkParty (repParty c.item)

/-- LREPAIR. -/
def runLrepair (c : Ctx) (s : State) : State × Phase := (lrepairFail c s).getD (lrepairWork c s)

def State.dropRepair (s : State) (k : Nat) (x : Repair) : State :=
  s.modLparty k (fun p => { p with repairs := p.repairs.filter (fun y => !(y.q == x.q && y.num == x.num)) })

/-- A repair ends. -/
def State.endRepair (s : State) (k : Nat) (x : Repair) (status detail : Nat) : State :=
  ((s.dropRepair k x).disown k x.q x.num).setPhaseOf x.q x.num (.ended status (detail % 2 ^ 32))

/-- The repair that a frame from a member about a shard belongs to. -/
def State.repairOf (s : State) (k member shard : Nat) : Option Repair :=
  (s.lparty k).repairs.find? (fun x => x.member == member && x.shard == shard)

/-- RREQ: the source notes the request. -/
def State.rreqIn (s : State) (e : PartyEnt) (f : List Byte) : State :=
  let b := frPayload f
  let x : RepairReq := { member := frSrc f, shard := leAt b 0 2 % 2 ^ 13, arrays := leAt b 2 1, nparam := leAt b 4 4, step := leAt b 8 8 }
  s.modLparty e.id (fun p => { p with requests := p.requests ++ [x] })

/-- The failure at the source, as the reason of R379: the lowest that holds. -/
def State.sourceFail (s : State) (x : RepairReq) (en : List Byte) : Option Nat :=
  if s.shardCount ≤ x.shard then some 4
  else if enState en = 1 then some 1
  else if enStepDone en ≠ x.step then some 2
  else if enNparam en ≠ x.nparam ∨ s.absentArrays x.arrays en then some 3
  else if !s.validEntry x.shard en then some 4
  else none

/-- The lines of a piece of a range that a read returned as poison, by their offset in the piece. -/
def pieceBad (at_ len : Nat) (bad : List Nat) : List Nat := (bad.filter (fun a => decide (at_ ≤ a ∧ a < at_ + len))).map (· - at_)

/-- Send an array, as it was read, in RDATA frames; its poisoned lines go on as poison (R379). -/
def State.sendArray (e : PartyEnt) (x : RepairReq) (a at_ : Nat) (d : Rd) (s : State) : State × Nat :=
  (numberFrom 0 (cutBy 4096 d.bytes.length d.bytes)).foldl (fun (acc : State × Nat) p =>
    let f : FrameOut := { type := 6, dst := x.member, flags := a, offset := p.1, rtag := x.shard, payload := p.2, bad := pieceBad (at_ + p.1) p.2.length d.bad }
    acc.1.sendFrame e none f) (s, 0)

/-- A DONE frame. -/
def State.sendDone (s : State) (e : PartyEnt) (m kind code last addr rtag : Nat) : State :=
  let f : FrameOut := { type := 8, dst := m, rtag, payload := toLe 1 kind ++ toLe 7 code ++ toLe 8 last ++ toLe 8 addr ++ toLe 8 0 }
  (s.sendFrame e none f).1

/-- The source checks its entry, and sends the arrays and DONE, or DONE with the reason. -/
def State.sourceSend (s : State) (e : PartyEnt) (x : RepairReq) : State :=
  let s := s.modLparty e.id (fun p => { p with requests := p.requests.tail })
  let (s, rd) := s.readMem srcLink (s.shardAddr x.shard) 128
  match s.sourceFail x rd.bytes with
  | some why => s.sendDone e x.member 0 why 0 0 x.shard
  | none =>
    let (s, last, bad) := (setBitList 5 x.arrays).foldl (fun (acc : State × Nat × Bool) a =>
      let (s, last, bad) := acc
      let (s, d) := s.readMem srcLink (enBase rd.bytes a) (enNparam rd.bytes * s.arrSize rd.bytes a)
      let (s, n) := State.sendArray e x a (enBase rd.bytes a) d s
      (s, max last n, bad || d.err.isSome)) (s, 0, false)
    s.sendDone e x.member 0 (if bad then 0x11 else 0) last 0 x.shard

/-- The update engine is inside a USWEEP, a held one counted. -/
def State.insideSweep (s : State) : Bool := s.upd.sweep.isSome || s.updRunning == some 0x61

/-- REPAIR_SOURCE_START: the oldest request of a party, once the update engine is not inside a USWEEP. -/
def State.repairStart (s : State) (k : Nat) (env : Env) : State :=
  match s.party? k, (s.lparty k).requests with
  | some e, x :: _ => if s.insideSweep then s else (s.settle (.party k) env (fun s => s.sourceSend e x)).linkFlush
  | _, _ => s

/-- The lines of memory that bytes stored at an address poison, from the payload lines that came as poison. -/
def badAt (a n : Nat) (bad : List Nat) : List Nat := (bad.filter (fun l => decide (l < n))).map (fun l => (a + l) / 32 * 32)

/-- RDATA: the bytes go to their home, and the lines that came as poison are poisoned (R379). -/
def State.rdataIn (s : State) (e : PartyEnt) (f : List Byte) (bad : List Nat) : State :=
  match s.repairOf e.id (frSrc f) (frTag f % 2 ^ 13) with
  | none => s
  | some x =>
    let a := frFlags f % 8
    let len := enNparam x.entry * s.arrSize x.entry a
    let n := min (frPlen f) (len - frOffset f)
    if 4 < a ∨ n = 0 then s
    else
      let at_ := enBase x.entry a + frOffset f
      let (s, err) := s.writeMemP srcLink at_ ((frPayload f).take n) (badAt at_ n bad)
      s.modLparty e.id (fun p => { p with repairs := p.repairs.map (fun y => if y.q = x.q ∧ y.num = x.num then { y with err := keepErr y.err err } else y) })

/-- DONE of a repair. After CODE 0x11 the record ends with MEM_UNCORR, whose address the spec does not give. -/
def State.repairDone (s : State) (e : PartyEnt) (f : List Byte) : State :=
  match s.repairOf e.id (frSrc f) (frTag f % 2 ^ 13) with
  | none => s
  | some x =>
    match leAt (frPayload f) 1 1, x.err with
    | 0, none => s.endRepair e.id x stOk 0
    | 0, some (st, a) => s.endRepair e.id x st a
    | 0x11, _ => { s.endRepair e.id x stMemUncorr (Config.freeNat s.free) with free := s.free + 1 }
    | code, _ => s.endRepair e.id x stRepairSource (code % 16)

/-! ## Signals -/

/-- SIGNAL_TAKES_EFFECT: once the earlier records of its queue have ended, and records of the queue may begin (R65, R108), the
oldest waiting SIGNAL goes to its anchor's router, or to a peer. A local one ends; a remote one ends when its frame is acknowledged.
A remote one to the module's own member goes to its own anchor and ends with OK (DESIGN CHOICE, log 103: R98 gives it no path). -/
def State.signalGo (s : State) (q : Nat) : State :=
  match s.parkedOf q 2 .order with
  | none => s
  | some i =>
    let r := i.item
    if !(earlierEnded r.num (s.queue q).issued && s.mayBegin q) then s
    else if signalRemote r then
      match s.party? (signalParty r) with
      | none => s.setPhaseOf q r.num (.ended stFormat (r.slot * 2 ^ 16 + 0x14))
      | some e =>
        if signalMember r = e.member then
          { (s.setPhaseOf q r.num (.ended stOk 0)) with anchorOps := s.anchorOps ++ [(signalAnchor r, signalSet r, signalValue r)] }
        else if s.route e (signalMember r) = [] then s.setPhaseOf q r.num (.ended stLnkUnreachable (signalMember r))
        else
          let pl := toLe 2 (signalAnchor r) ++ toLe 2 (if signalSet r then 1 else 0) ++ toLe 4 (signalValue r).toNat ++ toLe 24 0
          let f : FrameOut := { type := 3, dst := signalMember r, payload := pl }
          ((s.sendFrame e (some (q, r.num)) f).1.setPhaseOf q r.num (.parked .engine)).linkFlush
    else { (s.setPhaseOf q r.num (.ended stOk 0)) with anchorOps := s.anchorOps ++ [(signalAnchor r, signalSet r, signalValue r)] }

/-- ANCHOR_OP: the router of an anchor applies the oldest operation that has come for it. -/
def State.anchorArrive (s : State) (a : Nat) : State :=
  match s.anchorOps.find? (fun x => x.1 == a) with
  | none => s
  | some (_, set_, v) => { (s.anchorOp a set_ v) with anchorOps := s.anchorOps.erase (a, set_, v) }

/-- A SIGNAL frame is applied to the local anchor. -/
def State.signalIn (s : State) (f : List Byte) : State :=
  let b := frPayload f
  s.anchorOp (leAt b 0 2 % 4096) (leAt b 2 1 == 1) (BitVec.ofNat 32 (leAt b 4 4))

/-- Remote SIGNALs of which every frame has been acknowledged end. -/
def State.signalAcked (s : State) (k : Nat) (owners : List (Nat × Nat)) : State :=
  owners.foldl (fun s o =>
    match s.issuedAt o.1 o.2 with
    | some i => if i.item.op = 2 ∧ i.phase = .parked .engine ∧ ¬ s.ownsUnacked k o.1 o.2 then s.setPhaseOf o.1 o.2 (.ended stOk 0) else s
    | none => s) s

end Sys2Proof.Machine
end

