-- ==== Sys2Proof/Machine/Snap.lean ====
section
/-! DEFINITION. The snapshot engine (R342, R343, R381): USNAP to a device address or to a peer, and PUT frames. -/

namespace Sys2Proof.Machine

def snapSrc (r : Fetched) : Nat := r.f 8 8
def snapDst (r : Fetched) : Nat := r.f 0x10 8
def snapLen (r : Fetched) : Nat := r.f 0x18 8
def snapPeer (r : Fetched) : Bool := r.f 0x20 1 == 1
def snapParty (r : Fetched) : Nat := r.f 0x21 1
def snapMember (r : Fetched) : Nat := r.f 0x24 4

def snapFormat (r : Fetched) : Option Nat :=
  formatFail r false [(8, 26), (0x24, 4)]
    [addrCheck r.bytes 8, addrCheck r.bytes 0x10, (0x18, decide (snapLen r < 2 ^ 40)), (0x20, decide (r.f 0x20 1 ≤ 1)),
     (0x21, snapPeer r || snapParty r == 0), (0x24, decide (snapMember r < 2 ^ 17) && (snapPeer r || snapMember r == 0))]

/-- Alignment, LEN and, for a device address, source and destination apart (R342, R344). -/
def snapShape (r : Fetched) : Option Nat :=
  firstFail [(8, snapSrc r % 32 == 0),
    (0x10, snapDst r % 32 == 0 && (snapPeer r || apart (snapSrc r, snapSrc r + snapLen r) (snapDst r, snapDst r + snapLen r))),
    (0x18, snapLen r % 32 == 0 && decide (32 ≤ snapLen r))]

/-- The first address of a range that lies neither in stacked memory nor in a spill window; the range is populated. -/
def placeBad (a len : Nat) : Option Nat :=
  if a + len ≤ stackedEnd ∨ (spillBase 0 ≤ a ∧ a + len ≤ spillBase 8) then none
  else if a < stackedEnd then some stackedEnd
  else if spillBase 0 ≤ a ∧ a < spillBase 8 then some (spillBase 8)
  else some a

/-- The places at which a source range enters a 2 MiB page. -/
def pageStarts (a len : Nat) : List Nat := (upTo (a / 0x200000) ((a + len - 1) / 0x200000)).map (fun p => max a (p * 0x200000))

def State.setSnap (s : State) (x : Option Snap) : State := { s with upd := { s.upd with snap := x } }

/-- The peer of a USNAP: its member, or how the record ends. -/
def State.snapPeerFail (s : State) (r : Fetched) : Option (State × Phase) :=
  match s.party? (snapParty r) with
  | none => some (done s stLnkUnreachable 0xFFFFFFFF)
  | some e =>
    if !s.partyReady e then some (done s stLnkUnreachable 0xFFFFFFFF)
    else if e.members ≤ snapMember r ∨ s.route e (snapMember r) = [] then some (done s stLnkUnreachable (snapMember r))
    else none

/-- The checks of R344 and R381. -/
def State.snapFail (s : State) (r : Fetched) : Option (State × Phase) :=
  match snapShape r with
  | some o => some (done s stUpdShape o)
  | none =>
    match (s.rangeBad (snapSrc r) (snapLen r)).orElse (fun _ => if snapPeer r then none else s.rangeBad (snapDst r) (snapLen r)) with
    | some b => some (done (s.rangeErr srcUpdate b) stAddrRange (b % 2 ^ 32))
    | none =>
      match (if snapPeer r then none else placeBad (snapDst r) (snapLen r)) with
      | some b => some (done s stUpdPlace (b % 2 ^ 32))
      | none =>
        match (pageStarts (snapSrc r) (snapLen r)).find? (fun a => (s.sealedPage a).isNone) with
        | some a => some (done s stSnapNotSealed (a % 2 ^ 32))
        | none => if snapPeer r then s.snapPeerFail r else none

/-- The copy of a USNAP that passed its checks: its source pages are registered. -/
def State.snapOf (s : State) (c : Ctx) : Snap :=
  let r := c.item
  { q := c.q, num := r.num, pages := ((pageStarts (snapSrc r) (snapLen r)).filterMap s.sealedPage).eraseDups,
    peer := if snapPeer r then some (snapParty r, snapMember r) else none
    firstPut := if snapPeer r then (s.peer (snapParty r) (snapMember r)).next else 0 }

/-- USNAP's turn: the engine accepts it. -/
def runUsnapTurn (c : Ctx) (s : State) : State × Phase :=
  match snapFormat c.item with
  | some o => endFormat s c.item.slot o
  | none => (s.snapFail c.item).getD (s.setSnap (some (s.snapOf c)), .parked .engine)

/-- USNAP reaches the snapshot engine. -/
def runUsnap (c : Ctx) (s : State) : State × Phase :=
  s.joinLine1 s.upd.snaps c.item (snapFormat c.item) { s with upd := { s.upd with snaps := s.upd.snaps ++ [(c.q, c.item.num)] } }

/-- Go on with the line: copies run one at a time. -/
def State.snapGo (env : Env) : Nat → State → State
  | 0, s => s
  | fuel + 1, s =>
    match s.upd.snaps with
    | [] => s
    | (q, num) :: rest =>
      let pop := { s with upd := { s.upd with snaps := rest } }
      match (s.issuedAt q num).map Issued.phase with
      | none => State.snapGo env fuel pop
      | some (.ended _ _) => State.snapGo env fuel pop
      | some (.parked .turn) =>
        if ¬ s.mayBegin q then s else State.snapGo env fuel (s.rerun q num .turn env runUsnapTurn)
      | some (.parked _) => State.lineChecks snapFormat rest s

def State.snapOn (s : State) (env : Env) : State := State.snapGo env (2 * s.upd.snaps.length + 2) s

/-- A copy ends. -/
def State.endSnap (s : State) (x : Snap) (status detail : Nat) : State :=
  let s := (s.setSnap none).setPhaseOf x.q x.num (.ended status (detail % 2 ^ 32))
  match x.peer with
  | some (k, _) => s.disown k x.q x.num
  | none => s

/-- A copy whose bytes have all been moved ends: a copy to a peer once DONE has come for every PUT. -/
def State.snapCheck (s : State) (x : Snap) (len : Nat) : State :=
  if x.pos < len ∨ (x.peer.isSome ∧ x.lastDone < x.lastPut) then s.setSnap (some x)
  else
    match x.err with
    | some (st, a) => s.endSnap x st a
    | none => s.endSnap x stOk 0

/-- Copy the source bytes up to the next 2 MiB boundary. Read errors poison the destination lines, and the copy goes on. -/
def State.snapPiece (s : State) (x : Snap) (r : Fetched) : State :=
  let src := snapSrc r + x.pos
  let n := min (snapLen r - x.pos) (0x200000 - src % 0x200000)
  let (s, rd) := s.readMem srcUpdate src n
  let s := s.count Reg.UPD_CNT_SNAPB n
  match x.peer with
  | none =>
    let dst := snapDst r + x.pos
    let (s, err) := s.writeMemP srcUpdate dst rd.bytes (rd.bad.map (fun a => a + dst - src))
    s.snapCheck { x with pos := x.pos + n, err := keepErr (keepErr x.err rd.err) err } (snapLen r)
  | some (k, m) =>
    match s.party? k with
    | none => s
    | some e =>
      let (s, last) := (numberFrom (snapDst r + x.pos) (cutBy 4096 n rd.bytes)).foldl (fun (acc : State × Nat) p =>
        let at_ := src + (p.1 - (snapDst r + x.pos))
        let f : FrameOut := { type := 4, dst := m, offset := p.1, payload := p.2, bad := pieceBad at_ p.2.length rd.bad }
        acc.1.sendFrame e (some (x.q, x.num)) f) (s, x.lastPut)
      s.snapCheck { x with pos := x.pos + n, err := keepErr x.err rd.err, lastPut := last } (snapLen r)

/-- USNAP of a queue: its record is issued; or its copy, if it runs, moves its next piece — held at a 2 MiB boundary by a
quiesce. -/
def State.usnap (s : State) (q : Nat) (env : Env) : State :=
  match s.upd.snap with
  | some x =>
    if x.q = q then
      match s.issuedAt q x.num with
      | some i =>
        if (0 < x.pos ∧ s.quiescing) ∨ s.tripped ∨ snapLen i.item ≤ x.pos then s
        else ((s.settle (.record q x.num) env (fun s => s.snapPiece x i.item)).snapOn env).linkFlush
      | none => s
    else (s.issue q 0x63 env runUsnap).snapOn env
  | none => (s.issue q 0x63 env runUsnap).snapOn env

/-- A PUT frame is written if its bytes lie in LNK_PUT_WIN of the party, or refused (R381). Lines that came as poison are
poisoned (R343). -/
def State.putIn (s : State) (e : PartyEnt) (f : List Byte) (bad : List Nat) : State :=
  let lo := s.fld (Reg.LNK_PUT_WIN e.id) 51 21 * 0x200000
  let hi := min stackedEnd (lo + s.fld (Reg.LNK_PUT_WIN e.id) 63 52 * 0x200000)
  let a := frOffset f
  if lo ≤ a ∧ a + frPlen f ≤ hi then
    let (s, _) := s.writeMemP srcLink a (frPayload f) (badAt a (frPlen f) bad)
    s.sendDone e (frSrc f) 1 0 (frPseq f) 0 0
  else s.sendDone e (frSrc f) 1 0x10 (frPseq f) a 0

/-- DONE of PUT frames. One whose LAST lies before the first PUT of the copy that runs belongs to an earlier copy. -/
def State.putDone (s : State) (e : PartyEnt) (f : List Byte) : State :=
  match s.upd.snap with
  | some x =>
    if x.peer = some (e.id, frSrc f) then
      let b := frPayload f
      if leAt b 8 8 < x.firstPut then s
      else if leAt b 1 1 = 0x10 then s.endSnap x stRemoteRange (leAt b 0x10 8)
      else
        match s.issuedAt x.q x.num with
        | some i => s.snapCheck { x with lastDone := max x.lastDone (leAt b 8 8) } (snapLen i.item)
        | none => s
    else s
  | none => s

end Sys2Proof.Machine
end

