-- ==== Sys2Proof/Machine/Link.lean ====
section
/-! DEFINITION. Frames received from peers (R358–R361): delivery in PSEQ order, forwarding, acknowledgement, timeouts of
link records, and what a load does to the parties (R354, R370, R377). -/

namespace Sys2Proof.Machine

/-- A frame is delivered to this member, with the payload lines that came as poison. -/
def State.deliver (s : State) (e : PartyEnt) (port : Nat) (f : List Byte) (bad : List Nat) : State :=
  let s := s.count (Reg.LNK_PORT_CNT_RXB port) (frPlen f)
  match frType f with
  | 3 => s.signalIn f
  | 4 => s.putIn e f bad
  | 5 => s.rreqIn e f
  | 6 => s.rdataIn e f bad
  | 8 => if leAt (frPayload f) 0 1 = 0 then s.repairDone e f else s.putDone e f
  | _ => s.redFrame e port f

/-- Deliver the frames of a peer that came early and are next. -/
def State.deliverEarly (e : PartyEnt) (m : Nat) : Nat → State → State
  | 0, s => s
  | fuel + 1, s =>
    let x := s.peer e.id m
    match x.early.find? (fun y => y.1 == x.expect) with
    | none => s
    | some (n, port, f, bad) =>
      let s := s.modPeer e.id m (fun x => { x with early := mdel x.early n })
      State.deliverEarly e m fuel ((s.deliver e port f bad).noteDelivered e m)

/-- An ACK releases the frames it covers; what waited for them goes on (R360). -/
def State.ackIn (s : State) (e : PartyEnt) (f : List Byte) : State :=
  let m := frSrc f
  let n := frOffset f
  let gone := (s.peer e.id m).unacked.filter (fun u => decide (u.pseq ≤ n))
  let s := s.modPeer e.id m (fun x => { x with unacked := x.unacked.filter (fun u => decide (n < u.pseq)) })
  (s.signalAcked e.id (gone.filterMap Unacked.owner)).redCheck e.id

/-- A frame of a peer for this member: delivered in PSEQ order, kept where it is early, dropped where it is a duplicate. A
duplicate is acknowledged again. -/
def State.peerFrame (s : State) (e : PartyEnt) (port : Nat) (f : List Byte) (bad : List Nat) : State :=
  let m := frSrc f
  let n := frPseq f
  if frType f = 7 then s.ackIn e f
  else if frType f = 9 then s.helloIn port f
  else
    let want := (s.peer e.id m).expect
    if n < want then s.modPeer e.id m (fun x => { x with ackDue := true })
    else if want < n then s.modPeer e.id m (fun x => { x with early := mput x.early n (port, f, bad) })
    else
      let s := (s.deliver e port f bad).noteDelivered e m
      State.deliverEarly e m (s.peer e.id m).early.length s

/-- A received frame is taken: it is this member's, or it is forwarded (R361). A port whose peer has another plan carries no
frames of the party (R365), and a frame of a party that the port does not serve has no effect. -/
def State.takeFrame (s : State) (port : Nat) (f : List Byte) (bad : List Nat) : State :=
  match s.portParty port with
  | none => if frType f = 9 then s.helloIn port f else s
  | some e =>
    if frType f = 9 then s.helloIn port f
    else if frParty f ≠ e.id ∨ (s.lport port).planBad then s
    else if frDst f = e.member then s.peerFrame e port f bad
    else (s.dispatch e (frDst f) f).1.emitPoison e.id (frSrc f) (frDst f) (frPseq f) bad

/-- The frame at the head of a port's buffer is taken, and its buffer is freed. -/
def State.popFrame (s : State) (port : Nat) (f : List Byte) (bad : List Nat) : State :=
  let c0 := frameClass f = 0
  (s.modLport port (fun x => { x with
    rxq := x.rxq.tail
    freed0 := if c0 then x.freed0 + 1 else x.freed0
    freed1 := if c0 then x.freed1 else x.freed1 + 1 })).takeFrame port f bad

/-- A received frame of a type, the oldest that its port has: in Ethernet mode one may arrive with the command. `bad` names the
payload lines that came as poison. The lines of records that its effect sets free go on. -/
def State.frameIn (s : State) (port type : Nat) (eth : List Byte) (bad : List Nat) (env : Env) : State :=
  if s.oppBusy then s
  else
  let s := s.etherArrive port eth
  match (s.lport port).rxq with
  | f :: _ =>
    if frType f = type ∧ ¬ s.tokenWaits (.port port) then
      ((s.settle (.port port) env (fun s => s.popFrame port f bad)).snapOn env).linkOn env
    else s.linkFlush
  | [] => s.linkFlush

/-! ## RED_TIMEOUT (R360, R371) -/

/-- A record of a peer's unacknowledged frames ends with LNK_TIMEOUT: a reduction, a repair, a copy or a SIGNAL. -/
def State.timeoutRecord (s : State) (k m : Nat) (o : Nat × Nat) : State :=
  let s := s.timeoutEvent k m
  let red := (s.lparty k).red.filter (fun x => x.q == o.1 && x.item.num == o.2)
  let rep := (s.lparty k).repairs.find? (fun y => y.q == o.1 && y.num == o.2)
  let snap := s.upd.snap.filter (fun x => x.q == o.1 && x.num == o.2)
  match red, rep, snap with
  | some x, _, _ => s.endRed k x stLnkTimeout m
  | none, some y, _ => s.endRepair k y stLnkTimeout m
  | none, none, some x => s.endSnap x stLnkTimeout m
  | none, none, none => (s.disown k o.1 o.2).setPhaseOf o.1 o.2 (.ended stLnkTimeout m)

/-- RED_TIMEOUT of a party, for an ACK of a member: the record of the first unacknowledged frame that has one ends. For a
frame: the open reduction ends, naming the member awaited, or none. -/
def State.redTimeout (s : State) (k m : Nat) (ack : Bool) (env : Env) : State :=
  if ack then
    match ((s.peer k m).unacked.filterMap Unacked.owner).head? with
    | some o => ((s.timeoutRecord k m o).snapOn env).linkOn env
    | none => s
  else
    match (s.lparty k).red, s.party? k with
    | some x, some e =>
      if x.chunks = chunkTotal x.item ∧ x.shards = redShards x.item then s
      else
        let d := if m < e.members ∧ m ≠ e.member then m else 0xFFFFFFFF
        ((s.timeoutEvent k d).endRed k x stLnkTimeout d).linkOn env
    | _, _ => s

/-! ## A route-image load (R354, R370, R377) -/

/-- The entry of a party changes or is dropped: LNK_PARTY_SEQ becomes 0, staged frames that are then out of turn go (R370), and its
pending marks are discarded and counted. Everything else is kept (R72): PSEQ and unacknowledged frames, repair requests, the records
of its line, and its READY, for its end to be seen (R365); a party that is dropped ends with no event (DESIGN CHOICE, log 99). -/
def State.dropParty (s : State) (k : Nat) : State :=
  let n := (s.fpMarks.filter (fun m => m.1 / 8192 == k)).length
  let x := s.lparty k
  let s := { (s.setReg (Reg.LNK_PARTY_SEQ k) 0) with fpMarks := s.fpMarks.filter (fun m => m.1 / 8192 != k) }
  let s := s.setLparty k { x with staged := x.staged.filter (fun f => frRseq f == 1), ready := x.ready && (s.party? k).isSome }
  let s := s.count (Reg.LNK_CNT_FP_DISCARD k) n
  if n = 0 then s else (s.raise Reg.LNK_EVENT 4 Reg.LNK_EVENT_CNT1 0).post slotLink 0x0701 1 (k + n * 2 ^ 16)

/-- The mode of a port under an image. -/
def State.portMode (s : State) (p : Nat) : State :=
  let eth := bit s.image.ethPorts p
  if s.portEth p = eth then s
  else
    let st := s.fld (Reg.LNK_PORT_STATUS p) 1 0
    (s.portLeave p 0 (if st = 3 then 3 else 1)).setFld (Reg.LNK_PORT_STATUS p) 2 2 (if eth then 1 else 0)

/-- What the apply step does to parties and ports; `old` is the image it replaces, and the new one is in force. -/
def State.linkLoad (s : State) (old : Image) : State :=
  let s := (List.range 4).foldl (fun s k =>
    if old.parties.find? (fun p => p.id == k) = s.party? k then s else s.dropParty k) s
  let s := ((List.range 18).foldl State.portMode s).trainPorts
  ((List.range 18).foldl (fun s p =>
    let st := Reg.LNK_PORT_STATUS p
    match (s.lport p).peerPlan with
    | some plan => if s.portUp p then s.setPeer p (s.fld st 41 34) (s.fld st 46 42) (s.fld st 63 47) plan else s
    | none => s) s).linkReady

end Sys2Proof.Machine
end

