-- ==== Sys2Proof/Machine/Loader.lean ====
section
/-! DEFINITION. The route-image loader (02_route_image.md): quiesce and resume (R64–R68), the checks of a load as its reads
end (R69, R70, R510), the stored pair and the boot load (R74–R77), and the apply step (R71, R72); measurement registers
(R454) are here because the apply step extends one. -/

namespace Sys2Proof.Machine

/-- The loader as a source: its reads are Siolo's, its events its own (R432). -/
def srcLoader : Src := ⟨5, 0, slotLoader⟩

/-! ## Measurement (R454) -/

/-- The bytes of measurement register r. -/
def State.meas (s : State) (r : Nat) : List Byte := (List.range 4).flatMap (fun w => toLe 8 (s.reg (Reg.SEC_MEAS r w)).toNat)

def State.setMeas (s : State) (r : Nat) (b : List Byte) : State :=
  (List.range 4).foldl (fun s w => s.setReg (Reg.SEC_MEAS r w) (BitVec.ofNat 64 (leAt b (8 * w) 8))) s

/-- Extend a measurement register with 32 bytes, and post EV_SEC_MEASURE. -/
def State.extend (s : State) (r : Nat) (v : List Byte) : State :=
  let s := (s.setMeas r (sha256 (s.meas r ++ slice v 0 32))).addFld (Reg.SEC_MEAS_CNT r) 31 0 1
  s.post slotSecurity 0x0A05 1 (r + leAt v 0 8 * 2 ^ 32)

/-! ## Quiesced (R64, R65) -/

/-- Whether an issued record has begun and not ended; a USWEEP or a USNAP that a quiesce holds at a boundary does not count
(R337, R343). -/
def State.begun (s : State) (q : Nat) (i : Issued) : Bool :=
  match i.phase with
  | .ended _ _ => true
  | .parked .memory | .parked .engine =>
    !(i.item.op == 0x61 && s.sweepHeld)
      && !(match s.upd.snap with
        | some x => x.q == q && x.num == i.item.num && s.quiescing && decide (0 < x.pos ∧ x.pos < snapLen i.item)
        | none => false)
  | _ => false

/-- RTE_STATUS.STREAMS_BUSY: a record, or a haul, porter or page-walk transfer, is in progress (R64, R241). -/
def State.streamsBusy (s : State) : Bool :=
  s.queues.any (fun e => e.2.issued.any (s.begun e.1))
    || s.hauls.any (fun e => e.2.wins.any (fun w => !w.filled))
    || s.walkers.any (fun e => !e.2.misses.isEmpty)
    || s.ccReqs.any (fun e => !e.2.isEmpty)
    || s.kvPools.any (fun e => e.2.running.isSome)

/-- RTE_STATUS.UPD_BUSY: the update engine is inside a shard. -/
def State.insideShard (s : State) : Bool :=
  match s.upd.sweep with
  | some sw => sw.run.isSome
  | none => false

/-- The conditions of R64. -/
def State.allIdle (s : State) : Bool := !s.streamsBusy && !s.insideShard && !s.linkBusy

/-- RTE_STATUS.QUIESCED. -/
def State.quiesced (s : State) : Bool := s.fld Reg.RTE_STATUS 0 0 == 1 && s.quiescing && s.allIdle

/-- RTE_STATUS as a read returns it. -/
def State.rteStatus (s : State) : Word :=
  let b (x : Bool) : Nat := if x then 1 else 0
  fput (fput (fput (fput (s.reg Reg.RTE_STATUS) 0 0 (b s.quiesced)) 1 1 (b s.streamsBusy)) 2 2 (b s.insideShard)) 3 3 (b s.linkBusy)

/-- Writing QUIESCE: no new record begins, and prefetched windows are dropped. -/
def State.quiesce (s : State) (env : Env) : State := ((s.setFld Reg.RTE_CTRL 0 0 1).dropPrefetch none).haulOn env

/-- QUIESCED: the last thing that kept the device busy has ended. -/
def State.quiesceDone (s : State) : State := if s.quiescing && s.allIdle then s.setFld Reg.RTE_STATUS 0 0 1 else s

/-! ## Results of a load (R70, R78) -/

/-- ARG of the loader's events: CODE, SECTION and OFFSET as the registers hold them, and the copy. -/
def State.rteArg (s : State) (copy : Nat) : Nat :=
  s.fld Reg.RTE_STATUS 31 24 + s.fld Reg.RTE_ERR 63 48 * 2 ^ 8 + s.fld Reg.RTE_ERR 31 0 * 2 ^ 24 + copy * 2 ^ 56

/-- A LOAD or RESUME is ignored (R67, R68, R478, R508). EV_RTE_BUSY carries the SEQ of the image in force, also while another
image is being loaded (DESIGN CHOICE, log 92: R78 says 'the image's SEQ' and not which). -/
def State.rteReject (s : State) : State :=
  (s.raise Reg.RTE_EVENT 4 Reg.RTE_EVENT_CNT1 0).postStep slotLoader (s.reg Reg.RTE_SEQ).toNat 0x0104 1 (s.rteArg 0)

/-- The result of a check in RTE_STATUS.CODE and RTE_ERR. -/
def State.loadResult (s : State) (f : Fail) : State :=
  (s.setFld Reg.RTE_STATUS 31 24 f.code).setReg Reg.RTE_ERR (BitVec.ofNat 64 (f.section_ * 2 ^ 48 + f.offset % 2 ^ 32))

/-- LOAD_FAIL and EV_RTE_FAILED. -/
def State.loadFailed (s : State) (seq : Nat) : State :=
  (s.raise Reg.RTE_EVENT 1 Reg.RTE_EVENT_CNT0 16).postStep slotLoader seq 0x0101 1 (s.rteArg 0)

def stagingBase : Nat := storeBase + 3712 * 0x10000
def stagingEnd : Nat := storeBase + 4096 * 0x10000

/-- Image bytes that the loader has read stand in the staging billets, at their offset in the image (R69). -/
def State.stage (s : State) (off : Nat) (b : List Byte) : State :=
  let a := stagingBase + off
  { s with mem := s.mem.setBytes a b, poison := s.poison.filter (fun p => decide (¬ (a ≤ p.1 * 32 ∧ p.1 * 32 < a + b.length))) }

/-- A load attempt that has read its image ends: the staging billets hold undefined bytes (R69). A boot load leaves the device
quiesced (R77). -/
def State.loadEnd (s : State) : State :=
  let s := (s.openRange stagingBase stagingEnd).setFld Reg.RTE_STATUS 19 16 0
  { s with loader := { s.loader with running := false, hdr := [], staged := [], ready := none, comparing := false } }.quiesceDone

/-- A load attempt begins with the header read. -/
def State.loadStart (s : State) (src : LoadSrc) : State :=
  { (s.setFld Reg.RTE_STATUS 19 16 2) with
    loader := { s.loader with running := true, src, hdr := [], staged := [], ready := none, comparing := false } }

/-- The boot load begins on copy A (R75). -/
def State.bootLoad (s : State) : State :=
  { s with loader := { s.loader with seqA := none, seqB := none } }.loadStart .copyA

/-- Writing LOAD (R67). -/
def State.loadWrite (s : State) : State :=
  if s.loader.running then s.rteReject
  else if !s.quiesced then (s.loadResult ⟨imNotQuiesced, 0, 0⟩).loadFailed 0
  else s.loadStart (.memory (s.fld Reg.RTE_SRC 51 12 * 4096))

/-! ## Reading the image (R69, R74, R510) -/

/-- Bytes of the flash. -/
def State.flashBytes (s : State) (off len : Nat) : List Byte :=
  let near := s.flash.filter (fun c => decide (off ≤ c.1 ∧ c.1 < off + len))
  (List.range len).map (fun i => BitVec.ofNat 8 (mget 0xFF near (off + i)))

/-- The flash offsets of the route-image copies. -/
def flashCopy (b : Bool) : Nat := if b then 0x06000000 else 0x04000000

/-- Read a part of the image; the flash reports errors at the bytes of `bad`. The result has the image offset of the first
failing byte. -/
def State.readImage (s : State) (off len : Nat) (bad : Option Nat) : State × List Byte × Option Nat :=
  let hit := match bad with
    | some o => if off ≤ o ∧ o < off + len then some o else none
    | none => none
  match s.loader.src with
  | .memory a =>
    let (s, rd) := s.readMem srcLoader (a + off) len
    (s, rd.bytes, rd.err.map (fun e => e.2 - a))
  | .copyA => (s, s.flashBytes (flashCopy false + off) len, hit)
  | .copyB => (s, s.flashBytes (flashCopy true + off) len, hit)

/-- The section that holds a byte of an image, or 0 (R510). -/
def sectionOf (img : List Byte) (off : Nat) : Nat :=
  match (directory (img.take 0x180)).find? (fun d => decide (d.offset ≤ off ∧ off < d.offset + d.length ∧ off < imgLen img - 0x1000)) with
  | some d => if off < 0x100 + 16 * imgSecCount img then 0 else d.type
  | none => 0

/-! ## The apply step (R71, R72) -/

/-- The writer empties the intake (R430). -/
def State.drainLog : Nat → State → State
  | 0, s => s
  | n + 1, s => if s.log.lane = [] ∧ s.log.intake = [] then s else State.drainLog n (s.logWrite {})

/-- Whether the load is the boot load. -/
def State.bootLoading (s : State) : Bool :=
  match s.loader.src with
  | .memory _ => false
  | _ => true

/-- The apply step begins, once every stack of a boot is in service or left out (R486) and the log's intake is empty: a ring write
that waits for a snoop holds it back (R430). -/
def State.applyBegin (s : State) : State :=
  if s.loader.running && s.loader.ready.isSome && !s.loader.comparing && s.fld Reg.RTE_STATUS 19 16 != 4
      && !(s.bootLoading && s.power.awaited != 0) then
    let s := State.drainLog (s.log.lane.length + s.log.intake.length + s.log.heldAlarms.length) s
    if s.log.lane ≠ [] ∨ s.log.intake ≠ [] then s
    else { (s.setFld Reg.RTE_STATUS 19 16 4) with loader := { s.loader with hold := true } }
  else s

/-- Both copies passed the header reads with different sequence numbers (R76). -/
def State.pairCheck (s : State) : State :=
  match s.loader.seqA, s.loader.seqB with
  | some a, some b =>
    if a = b then s else (s.raise Reg.RTE_EVENT 3 Reg.RTE_EVENT_CNT0 48).postStep slotLoader a 0x0103 1 b
  | _, _ => s

/-- Copy B's header has been read for the comparison: the apply step comes next. -/
def State.compared (s : State) : State :=
  { (s.setFld Reg.RTE_STATUS 19 16 3) with loader := { s.loader with comparing := false } }.applyBegin

/-- COPY_BAD and EV_RTE_COPY_BAD of a copy, 1 A or 2 B (R75). -/
def State.copyBad (s : State) (seq copy : Nat) : State :=
  (s.raise Reg.RTE_EVENT 2 Reg.RTE_EVENT_CNT0 32).postStep slotLoader seq 0x0102 1 (s.rteArg copy)

/-- A check failed. A run-time load ends; a boot load goes on to copy B, and ends with IMG_NONE after it (R70, R75, R77). A
failing header of copy B, read for the comparison, raises COPY_BAD only, and copy A is applied (R76, R77). -/
def State.loadFails (s : State) (f : Fail) (seq : Nat) : State :=
  let s := s.loadResult f
  if s.loader.comparing then (s.copyBad seq 2).compared
  else
    match s.loader.src with
    | .memory _ => s.loadEnd.loadFailed seq
    | .copyA => (s.copyBad seq 1).loadStart .copyB
    | .copyB => ((s.copyBad seq 2).setFld Reg.RTE_STATUS 31 24 imNone).loadEnd.loadFailed seq

/-- A load attempt that has read no byte ends. -/
def State.noRead (s : State) : State :=
  { (s.setFld Reg.RTE_STATUS 19 16 0) with loader := { s.loader with running := false } }

/-- Step 0, and the source range of step 4: whether bytes of the image's source lie in stacked memory. -/
def State.sourceOk (s : State) (len : Nat) : Bool :=
  match s.loader.src with
  | .memory a => inStacked a len
  | _ => true

/-- The header passes steps 0 to 5: the body fetch starts, or the comparison of R76 is made. -/
def State.headerPasses (s : State) (hdr trailer : List Byte) : State :=
  let s := match s.loader.src, s.loader.comparing with
    | .copyA, false => { s with loader := { s.loader with seqA := some (imgSeq hdr) } }
    | .copyA, true => { s with loader := { s.loader with seqB := some (imgSeq hdr) } }
    | .copyB, _ => { s with loader := { s.loader with seqB := some (imgSeq hdr) } }
    | .memory _, _ => s
  if s.loader.comparing then s.pairCheck.compared
  else
    let s := match s.loader.src with
      | .copyB => s.pairCheck
      | _ => s
    { ((s.stage 0 hdr).stage (imgLen hdr - 0x1000) trailer).setFld Reg.RTE_STATUS 19 16 1 with
      loader := { s.loader with hdr, staged := trailer } }

/-- Steps 0 to 5 of the load, or of copy B's header for the comparison. -/
def State.headerChecks (s : State) (bad : Option Nat) : State :=
  let loader := s.loader
  let s := if loader.comparing then { s with loader := { loader with src := .copyB } } else s
  let back (t : State) : State := { t with loader := { t.loader with src := loader.src } }
  if !s.sourceOk 0x100 then (s.loadResult ⟨imRange, 0, 0⟩).noRead.loadFailed 0
  else
    let (s, hdr, e) := s.readImage 0 0x100 bad
    match e with
    | some o => (back s).loadFails ⟨imRead, 0, o⟩ 0
    | none =>
      match headChecks 0x45545254 0x1800000 hdr with
      | some f => (back s).loadFails f (imgSeq hdr)
      | none =>
        if !s.sourceOk (imgLen hdr) then (back s).loadFails ⟨imRange, 0, 8⟩ (imgSeq hdr)
        else
          let (s, trailer, e) := s.readImage (imgLen hdr - 0x1000) 0x1000 bad
          match e with
          | some o => (back s).loadFails ⟨imRead, 0, o⟩ (imgSeq hdr)
          | none =>
            match signatureFail s.fuses.root hdr trailer with
            | some f => (back s).loadFails f (imgSeq hdr)
            | none => (back s).headerPasses hdr trailer

/-- HEADER_READ_DONE. -/
def State.headerRead (s : State) (bad : Option Nat) (env : Env) : State :=
  if s.loader.running && s.fld Reg.RTE_STATUS 19 16 == 2 then s.settle .loader env (fun s => s.headerChecks bad) else s

/-- The body fetch, which stages the image whole, and step 6. -/
def State.bodyChecks (s : State) (bad : Option Nat) : State :=
  let hdr := s.loader.hdr
  let (s, body, e) := s.readImage 0x100 (imgLen hdr - 0x1100) bad
  match e with
  | some o => s.loadFails ⟨imRead, sectionOf (hdr ++ body) o, o⟩ (imgSeq hdr)
  | none =>
    let img := hdr ++ body ++ s.loader.staged
    match digestFail img with
    | some f => s.loadFails f (imgSeq hdr)
    | none => { (s.stage 0x100 body).setFld Reg.RTE_STATUS 19 16 3 with loader := { s.loader with staged := img } }

/-- BODY_FETCH_DONE. -/
def State.bodyFetched (s : State) (bad : Option Nat) (env : Env) : State :=
  if s.loader.running && s.fld Reg.RTE_STATUS 19 16 == 1 then s.settle .loader env (fun s => s.bodyChecks bad) else s

/-- FIELD_CHECKS_DONE: steps 7 to 10; a copy A that passes first has copy B's header read. -/
def State.fieldsChecked (s : State) : State :=
  if s.loader.running && s.fld Reg.RTE_STATUS 19 16 == 3 && s.loader.ready.isNone then
    let img := s.loader.staged
    match bodyFail s.fuses img with
    | some f => s.loadFails f (imgSeq img)
    | none =>
      let l := { s.loader with ready := some (parseImage img), nextSec := imgSecVer img, nextHash := sha256 s.loader.hdr }
      match l.src with
      | .copyA => { (s.setFld Reg.RTE_STATUS 19 16 2) with loader := { l with comparing := true } }
      | _ => { s with loader := l }.applyBegin
  else s

/-- Where the first changed region of two interleave maps begins (R72). -/
def changedFrom : List Region → List Region → Option Nat
  | [], [] => none
  | a :: r, b :: t => if a = b then changedFrom r t else some (min a.base b.base)
  | a :: _, [] => some a.base
  | [], b :: _ => some b.base

/-- RTE_APPLY_HOLD_END: the new map is in force, and held requests are served under it. -/
def State.holdEnd (s : State) : State :=
  match s.loader.hold, s.loader.ready with
  | true, some i =>
    let s := match changedFrom s.image.regions i.regions with
      | some a => s.openRange a stackedEnd
      | none => s
    let s := { s with
      image := { s.image with regions := i.regions }
      loader := { s.loader with hold := false }
      outstanding := s.outstanding.filter (fun x => x.2 != Need.hold) }
    s.retryHosts
  | _, _ => s

/-- Whether an image enables a queue (R47). -/
def Image.enables (i : Image) (q : Nat) : Bool := decide (q % 128 < (i.ropes.getD (q / 128) {}).queues)

/-- What the engines keep of records that are no longer issued. -/
def State.forget (s : State) (gone : List (Nat × Nat)) : State :=
  let keep (x : Nat × Nat) : Bool := !gone.contains x
  let mats := s.mats.filterMap (fun e =>
    let m : Mat := { e.2 with ops := e.2.ops.filter (fun o => keep (o.q, o.num)) }
    if m = {} then none else some (e.1, m))
  let s : State := { s with mats, upd := { s.upd with line := s.upd.line.filter keep, snaps := s.upd.snaps.filter keep } }
  (List.range 4).foldl (fun s k => s.modLparty k (fun p => { p with line := p.line.filter keep })) s

/-- What a load makes of one queue (R84): what a disabled queue had fetched and not begun is dropped, from the engines too. A USWEEP
or a USNAP that the quiesce holds at a boundary has begun: it stays, goes on after the load and completes (R72, R331, R343). -/
def State.loadQueue (s : State) (q : Nat) : State :=
  let x := s.queue q
  if s.image.enables q then (if x.mode = .disabled then s.setQueue q { x with mode := .off } else s)
  else if x.mode = .disabled then s
  else
    (((s.freeStream q).forget ((x.issued.filter notBegun).map (fun i => (q, i.item.num))))).setQueue q { x with
      mode := .disabled, fetched := [], issued := x.issued.filter (fun i => !notBegun i), chain := none, pitch := false,
      rereads := 0, reads := 0 }

/-- Both stationary banks of every array become invalid (R128). -/
def State.loadMats (s : State) : State :=
  let half (h : Half) : Half := { active := h.active }
  { s with mats := s.mats.filterMap (fun e =>
      let m := { e.2 with h0 := half e.2.h0, h1 := half e.2.h1 }
      if m = {} then none else some (e.1, m)) }

/-- RTE_APPLY_DONE: the new image is in force. RTE_ERR then reads 0 (DESIGN CHOICE, log 92: the spec does not say what it holds after
a load that succeeds). -/
def State.applyDone (s : State) : State :=
  match s.loader.ready with
  | some i =>
    if s.fld Reg.RTE_STATUS 19 16 = 4 ∧ ¬ s.loader.hold then
      let old := s.image
      let src := match s.loader.src with | .copyA => 1 | .copyB => 2 | .memory _ => 3
      let hash := s.loader.nextHash
      let s := { s with image := i, loader := { s.loader with secVer := s.loader.nextSec } }
      let s := (List.range 2048).foldl State.loadQueue s
      let s := (((s.loadMats.kvClear.haulLoad).sealLoad).linkLoad old).loadEnd
      let s := (s.setReg Reg.RTE_SEQ (BitVec.ofNat 64 i.seq)).setFld Reg.RTE_STATUS 7 7 1
      let s := ((s.setFld Reg.RTE_STATUS 5 4 src).loadResult ⟨imOk, 0, 0⟩).extend 2 hash
      (s.raise Reg.RTE_EVENT 0 Reg.RTE_EVENT_CNT0 0).postStep slotLoader i.seq 0x0100 1 (s.rteArg 0)
    else s
  | none => s

/-! ## RESUME and CANCEL (R68, R114, R478) -/

/-- RESUME is taken: no load runs, an image is in force, and the operating point does not change. -/
def State.mayResume (s : State) : Bool := !s.loader.running && s.loaded && s.fld Reg.CLK_STATUS 2 2 != 1

/-- Writing RESUME. -/
def State.resume (s : State) (env : Env) : State :=
  if !s.mayResume then s.rteReject
  else
    let s := (s.setFld Reg.RTE_CTRL 0 0 0).setFld Reg.RTE_STATUS 0 0 0
    (((s.haulOn env).updOn env).snapOn env).linkOn env

/-- Writing CANCEL: the records not yet begun go, and their windows return their billets; the cancel ends at once where no record
that has begun is left (R114, R302). -/
def State.cancel (s : State) (q : Nat) (env : Env) : State :=
  if s.cancelAllowed q then
    let gone := ((s.queue q).issued.filter notBegun).map (fun i => (q, i.item.num))
    ((((s.forget gone).queueCancel q).dropPrefetch (some q)).cancelEnd q env).haulOn env
  else s.queueReject q

end Sys2Proof.Machine
end

