-- ==== Sys2Proof/Machine/Siolo.lean ====
section
/-! DEFINITION. Siolo (14_siolo_cairn_log.md): sensors, the hardware loops, Siolo's resets and load, its mailbox commands and
its board interfaces. -/

namespace Sys2Proof.Machine

/-! ## Readings (R418, R419) -/

/-- Sensors of a kind: die temperatures, voltages, currents, coolant. -/
def sensorCount (kind : Nat) : Nat :=
  match kind with
  | 0 => 160 | 1 => 48 | 2 => 12 | 3 => 3 | _ => 0

def State.reading? (s : State) (kind i : Nat) : Option Reading := mget none s.sensors (256 * kind + i)

/-- A reported reading as software sees it: VALUE and AGE in ms, saturating; 0 before the first report. -/
def State.readingWord (s : State) (kind i : Nat) : Nat :=
  match s.reading? kind i with
  | some r => min 65535 ((s.now + 2 ^ 64 - r.at_) % 2 ^ 64 / 100000) * 2 ^ 16 + r.value
  | none => 0

def State.setReading (s : State) (kind i value : Nat) : State :=
  { s with sensors := mset none s.sensors (256 * kind + i) (some ⟨value % 2 ^ 16, s.now⟩) }

/-- Siolo's firmware runs. -/
def State.sioRun (s : State) : Bool := s.fld Reg.SIO_STATUS 0 0 == 1

/-- The nominal voltage of a rail in mV (R418, R480); rail 1 follows the operating point (R478). -/
def State.railNominal (s : State) (r : Nat) : Nat :=
  match r with
  | 0 => 54000
  | 1 => match s.fld Reg.CLK_STATUS 1 0 with | 0 => 750 | 1 => 700 | _ => 650
  | 2 => 750 | 3 => 850 | 4 => 700 | 5 => 1050 | 6 => 1800 | 7 => 800 | 8 => 800 | 9 => 1200 | 10 => 800
  | _ => 1800

/-- Report one reading; a voltage outside ±5 % of its rail's nominal value posts EV_VOLT (R424). -/
def State.reportOne (s : State) (x : Nat × Nat × Nat) : State :=
  let (kind, i, v) := x
  if kind < 3 ∧ i < sensorCount kind then
    let s := s.setReading kind i v
    let nom := s.railNominal (i / 4)
    let mv := v % 2 ^ 16
    if kind = 1 ∧ (mv * 100 < 95 * nom ∨ 105 * nom < mv * 100) then s.post slotSiolo 0x0903 2 (i + mv * 2 ^ 16) else s
  else s

/-- SENSOR_REPORT: the firmware samples and reports temperatures, voltages and currents, given as (kind, index, value). -/
def State.sensorReport (s : State) (xs : List (Nat × Nat × Nat)) : State := if s.sioRun then xs.foldl State.reportOne s else s

/-- COOLANT_CHECK: the three coolant readings and their limits (R424, R505). -/
def State.coolantCheck (s : State) (inlet outlet flow : Nat) : State :=
  if s.sioRun then
    let s := ((s.setReading 3 0 inlet).setReading 3 1 outlet).setReading 3 2 flow
    let s := if 640 < asInt 16 inlet then s.post slotSiolo 0x0904 2 (inlet % 2 ^ 16 * 2 ^ 16) else s
    if flow % 2 ^ 16 < 250 then s.post slotSiolo 0x0904 3 (1 + flow % 2 ^ 16 * 2 ^ 16) else s
  else s

/-! ## PMBus STATUS_WORD (R444) -/

/-- The bits of STATUS_WORD whose cause holds now: thermal trip, overcurrent trip, alarms, overload. -/
def State.pmbLive (s : State) : Nat :=
  (if s.fld Reg.SIO_STATUS 2 2 = 1 then 2 ^ 2 else 0) + (if s.fld Reg.SIO_STATUS 3 3 = 1 then 2 ^ 4 else 0)
    + (if s.alertLow then 1 else 0) + (if s.fld Reg.SIO_STATUS 1 1 = 1 then 2 ^ 12 else 0)

def State.statusWord (s : State) : Nat := Nat.lor s.pmb s.pmbLive

/-- Latch what holds now. -/
def State.pmbLatch (s : State) : State := { s with pmb := s.statusWord }

/-! ## Trips (R420–R422) -/

/-- THERMTRIP_N is driven low while a thermal trip stands (R420). -/
def State.thermtripLow (s : State) : Bool := s.fld Reg.SIO_STATUS 2 2 == 1

/-- The thermal trip response: issue stops, THERMTRIP_N is driven low, and EV_THERM_TRIP is latched. -/
def State.thermTrip (s : State) (sensor reading : Nat) : State :=
  if s.fld Reg.SIO_STATUS 2 2 = 1 then s
  else (((s.setFld Reg.SIO_STATUS 2 2 1).emit (.thermtrip true)).post slotSiolo 0x0901 3 (sensor + reading % 2 ^ 16 * 2 ^ 16)).pmbLatch

/-- One comparison of a die sensor's reading. -/
def State.thermOne (s : State) (x : Nat × Nat) : State :=
  let (i, r) := x
  if 160 ≤ i then s
  else
    let v := asInt 16 r
    let warn : Int := 16 * s.fld Reg.SIO_THERM_CFG 7 0
    let trip : Int := 16 * s.fld Reg.SIO_THERM_CFG 15 8
    let l := s.loops
    let was := mget false l.warned i
    let wasHot := mget false l.hot i
    let warned := if warn ≤ v then true else if v ≤ warn - 80 then false else was
    let s := { s with loops := { l with
      temps := mput l.temps i (r % 2 ^ 16)
      warned := mset false l.warned i warned
      hot := mset false l.hot i (decide (trip ≤ v)) } }
    let s := if warned && !was then s.post slotSiolo 0x0900 1 (i + r % 2 ^ 16 * 2 ^ 16) else s
    if trip ≤ v ∧ wasHot then s.thermTrip i r else s

/-- THERM_SAMPLE: readings as (sensor, value). -/
def State.thermSample (s : State) (xs : List (Nat × Nat)) : State := xs.foldl State.thermOne s

/-- Factory limit of a rail; 65,535 where the fuses name none. -/
def State.ocFactory (s : State) (r : Nat) : Nat := mget 65535 s.fuses.ocLimit r

/-- SIO_OC_LIMIT[r]. -/
def State.ocLimitOf (s : State) (r : Nat) : Nat := (mget none s.ocLimit r).getD (s.ocFactory r)

/-- A write of SIO_OC_LIMIT cannot raise the limit past its factory value (R424). -/
def State.ocWrite (s : State) (r v : Nat) : State :=
  { s with ocLimit := mset none s.ocLimit r (if s.ocFactory r ≤ v then none else some v) }

/-- A write of SIO_THERM_CFG: WARN and TRIP cannot be raised past their factory values (R424). -/
def State.thermWrite (s : State) (v : Word) : State :=
  (s.setFld Reg.SIO_THERM_CFG 15 8 (min 105 (fget v 15 8))).setFld Reg.SIO_THERM_CFG 7 0 (min 100 (fget v 7 0))

/-- One comparison of a rail's current. Four in a row above the limit, or more, trip (R422). -/
def State.ocOne (s : State) (x : Nat × Nat) : State :=
  let (r, i) := x
  if 12 ≤ r then s
  else
    let n := if s.ocLimitOf r < i then mget 0 s.loops.streak r + 1 else 0
    let s := { s with loops := { s.loops with streak := mset 0 s.loops.streak r n } }
    if 4 ≤ n ∧ s.fld Reg.SIO_STATUS 3 3 = 0 then
      ((s.setFld Reg.SIO_STATUS 3 3 1).post slotSiolo 0x0902 3 (r + i % 2 ^ 16 * 2 ^ 16)).pmbLatch
    else s

/-- OC_SAMPLE: currents as (rail, value in 0.1 A). -/
def State.ocSample (s : State) (xs : List (Nat × Nat)) : State := xs.foldl State.ocOne s

/-! ## The damper (R423, R479) -/

/-- The sum of the samples of P, in 0.1 mW, and how many there are. -/
def powerSum (l : List Nat) : Nat × Nat := (l.foldl (· + ·) 0, l.length)

/-- Set the allowed share; EV_DAMPER tells that it falls below 16/16 and that it returns. -/
def State.setShare (s : State) (n : Nat) : State :=
  let old := s.fld Reg.PWR_STATUS 4 0
  let s := s.setFld Reg.PWR_STATUS 4 0 n
  let s := if old = 16 ∧ n < 16 then s.raise Reg.PWR_EVENT 0 Reg.PWR_EVENT_CNT 0 else s
  if (old = 16) ≠ (n = 16) then s.post slotSiolo 0x0905 1 (n + s.fld Reg.PWR_STATUS 31 16 * 2 ^ 16) else s

/-- DAMPER_SAMPLE: rail 0's voltage in mV and current in 0.1 A. -/
def State.damperSample (s : State) (mv da : Nat) : State :=
  let l := (mv * da :: s.loops.power).take 4
  let (sum, k) := powerSum l
  let cap := s.fld Reg.PWR_CAP 11 0 * 10000
  let above := decide (cap * k < sum)
  let below := if sum * 100 < 98 * (cap * k) then s.loops.below + 1 else 0
  let s := s.setFld Reg.PWR_STATUS 31 16 (min 65535 (sum / (k * 10000)))
  let share := s.fld Reg.PWR_STATUS 4 0
  let s := if above then s.setShare (max 1 (share - 1)) else if below = 10 then s.setShare (min 16 (share + 1)) else s
  let s := if s.fld Reg.PWR_STATUS 4 0 < 16 then s.count Reg.PWR_CNT_DAMPED 1 else s
  { s with loops := { s.loops with power := l, vin := mv, iin := da, below := if below = 10 then 0 else below } }

/-- P is above the cap. -/
def State.aboveCap (s : State) : Bool :=
  let (sum, k) := powerSum s.loops.power
  decide (s.fld Reg.PWR_CAP 11 0 * 10000 * k < sum)

/-- CAP_MISS: 100 ms at the floor share with the power above the cap. -/
def State.capMiss (s : State) : State :=
  if s.fld Reg.PWR_STATUS 4 0 = 1 ∧ s.aboveCap then
    (s.raise Reg.PWR_EVENT 1 Reg.PWR_EVENT_CNT 16).post slotClock 0x0B02 2
      (s.fld Reg.PWR_STATUS 31 16 + s.fld Reg.PWR_CAP 11 0 * 2 ^ 16)
  else s

/-- A write of PWR_CAP.WATTS is held to 800 to 2,400. -/
def State.capWrite (s : State) (v : Word) : State := s.setFld Reg.PWR_CAP 11 0 (max 800 (min 2400 (fget v 11 0)))

/-! ## Siolo's resets (R425) and load (R427) -/

/-- Siolo alone is reset: cause 0 watchdog, 1 lockstep. Requests it had taken go unanswered; the reserved identity block and a
flash operation are lost with it. -/
def State.sioReset (s : State) (cause : Nat) : State :=
  if s.boot = .run ∨ s.boot = .recovery false ∨ s.boot = .recovery true then
    let n := min 255 (s.fld Reg.SIO_STATUS 15 8 + 1)
    let s := (s.setFld Reg.SIO_STATUS 15 8 n).setFld Reg.SIO_STATUS 0 0 0
    let s := s.raise Reg.SIO_EVENT 2 Reg.SIO_EVENT_CNT 32
    let s := s.post slotSiolo 0x0907 3 (cause + n * 2 ^ 8)
    { ((s.setFld Reg.SEC_ID 20 0 0).setFld Reg.SEC_ID 52 32 0) with
      boot := .header true, flashOp := none, session := none
      mbx := s.mbx.filter (fun x => decide (8 ≤ x.1 ∧ x.1 < 16)) }.pmbLatch
  else s

/-- LOAD_WINDOW: a 10 ms window ends with a load in parts per thousand. -/
def State.loadWindow (s : State) (load : Nat) : State :=
  if s.sioRun then
    let load := min 1000 load
    let was := s.fld Reg.SIO_STATUS 1 1 = 1
    let heavy := 900 ≤ load ∨ (was ∧ 800 ≤ load)
    let f := s.fld Reg.SIO_LOAD 18 16
    let g := if heavy then min 4 (2 * f) else if load < 800 then max 1 (f / 2) else f
    let s := (s.setFld Reg.SIO_LOAD 9 0 load).setFld Reg.SIO_LOAD 18 16 g
    let s := s.setFld Reg.SIO_STATUS 1 1 (if heavy then 1 else 0)
    let s := if heavy ∧ ¬ was then s.raise Reg.SIO_EVENT 1 Reg.SIO_EVENT_CNT 16 else s
    (if f = g then s else s.post slotSiolo 0x0906 1 (g + load * 2 ^ 16)).pmbLatch
  else s

/-! ## Mailbox commands (R442) -/

/-- GET_SENSORS. -/
def State.getSensors (s : State) (ch : Chan) (hint : Nat) : State :=
  s.serve ch 0x60 1 hint (fun s h ws =>
    let w := ws.getD 0 0
    let kind := bits w 7 0
    let n := bits w 15 8
    let first := bits w 31 16
    if 4 ≤ kind ∨ n = 0 ∨ 15 < n ∨ sensorCount kind < first + n then s.reply ch h mbBadArg [1]
    else s.replyOk ch h ((List.range n).map (fun i => s.readingWord kind (first + i))))

/-- GET_LOAD. -/
def State.getLoad (s : State) (ch : Chan) (hint : Nat) : State :=
  s.serve ch 0x61 0 hint (fun s h _ => s.replyOk ch h [(s.reg Reg.SIO_LOAD).toNat, (s.reg Reg.SIO_STATUS).toNat])

/-- The 32-bit words of a byte string. -/
def wordsOf (b : List Byte) : List Nat := words4 b

/-- The state word of an alarm entry. -/
def alarmState (a : Option AlarmEnt) : Nat :=
  match a with
  | some a => a.count % 2 ^ 32 * 2 ^ 32 + (if a.acked then 2 else 0) + 1
  | none => 0

/-- The 32 bytes of an alarm entry's record. -/
def alarmBytes (a : Option AlarmEnt) : List Byte :=
  match a with
  | some a => logBytes a.entry
  | none => toLe 32 0

/-- GET_ALARM. -/
def State.getAlarm (s : State) (ch : Chan) (hint : Nat) : State :=
  s.serve ch 0x62 1 hint (fun s h ws =>
    let w := ws.getD 0 0
    if 64 ≤ w then s.reply ch h mbBadArg [1]
    else
      let a := mget none s.log.alarms w
      s.replyOk ch h (wordsOf (alarmBytes a) ++ words64 (alarmState a)))

/-- ACK_ALARM. -/
def State.ackAlarmCmd (s : State) (ch : Chan) (hint : Nat) : State :=
  s.serve ch 0x63 1 hint (fun s h ws =>
    let w := ws.getD 0 0
    if bits w 7 6 ≠ 0 ∨ 512 ≤ w then s.reply ch h mbBadArg [1]
    else (if bit w 8 then s.ackAll else s.ackAlarm (w % 64)).replyOk ch h [])

/-- A write of SIO_ALARM_ACK. -/
def State.ackWrite (s : State) (v : Word) : State := if fget v 8 8 = 1 then s.ackAll else s.ackAlarm (fget v 5 0)

/-! ## The board (R443, R444) -/

def State.boardReply (s : State) (b : Option (List Byte)) : State := s.emit (.board b)

/-- The nearest whole number to x / 2^e · 1/d. -/
def linMant (x d : Nat) (e : Nat) (neg : Bool) : Nat :=
  let n := if neg then x * 2 ^ e else x
  let d := if neg then d else d * 2 ^ e
  (2 * n + d) / (2 * d)

/-- The LINEAR11 code of x/d: the finest exponent whose mantissa fits. -/
def linear11 (neg : Bool) (x d : Nat) : Nat :=
  let exps := ((List.range 17).reverse.map (fun k => (k, true))) ++ ((List.range 15).map (fun k => (k + 1, false)))
  match exps.find? (fun e => decide (linMant x d e.1 e.2 ≤ 1023)) with
  | some e =>
    let m := linMant x d e.1 e.2
    (if e.2 then (32 - e.1) % 32 else e.1) * 2 ^ 11 + (if neg then (2048 - m) % 2048 else m)
  | none => 15 * 2 ^ 11 + 1023

/-- A temperature in 1/16 °C as LINEAR11. -/
def linTemp (r : Nat) : Nat :=
  let z := asInt 16 r
  linear11 (decide (z < 0)) z.natAbs 16

/-- The hottest die sensor. -/
def State.hottest (s : State) : Nat :=
  match s.loops.temps with
  | [] => 0
  | x :: r => r.foldl (fun h y => if asInt 16 h < asInt 16 y.2 then y.2 else h) x.2

/-- A PMBus command reaches Siolo's target: its address is 0x40 plus the strap value, and it replies while the standby rails are
up (R444, R481). -/
def State.pmbHere (s : State) (addr : Nat) : Bool := s.power.standby && addr == 0x40 + s.fuses.pmbAddr

/-- A PMBus command at an address. -/
def State.pmbus (s : State) (addr : Nat) (t : State) : State := if s.pmbHere addr then t else s

/-- A PMBus reply of two bytes. -/
def State.pmbReply (s : State) (addr v : Nat) : State := s.pmbus addr (s.boardReply (some (toLe 2 v)))

/-- CLEAR_FAULTS. -/
def State.clearFaults (s : State) (addr : Nat) : State := s.pmbus addr ({ s with pmb := s.pmbLive }.boardReply (some []))

/-- An unsupported PMBus command: NACK, recorded in STATUS_WORD. -/
def State.pmbNack (s : State) : State := { s with pmb := Nat.lor s.pmb 2 }.boardReply none

/-- The PMBus commands supported (R444). -/
def pmbSupported : List Nat := [0x03, 0x79, 0x88, 0x89, 0x8D, 0x8E, 0x97, 0x98]

/-- A PMBus command code: NACK for one that is not in the list. -/
def State.pmbUnknown (s : State) (addr code : Nat) : State := s.pmbus addr (if code ∈ pmbSupported then s else s.pmbNack)

/-- PMBUS_REVISION. -/
def State.pmbRevision (s : State) (addr : Nat) : State := s.pmbus addr (s.boardReply (some [0x33]))

/-- The coolant inlet temperature, in 1/16 °C, as last reported. -/
def State.coolantInlet (s : State) : Nat :=
  match s.reading? 3 0 with
  | some r => r.value
  | none => 0

/-- The input power P of R423 as LINEAR11. -/
def State.inputPower (s : State) : Nat :=
  let (sum, k) := powerSum s.loops.power
  linear11 false sum (k * 10000)

/-- SETDASA: the target at the static address takes a dynamic address. -/
def State.setdasa (s : State) (static dynamic : Nat) : State :=
  if static = 0x48 + s.fuses.pmbAddr ∧ s.i3c = none then { s with i3c := some dynamic }.boardReply (some []) else s

/-- ENTDAA: a target without a dynamic address takes one. -/
def State.entdaa (s : State) (dynamic : Nat) : State :=
  if s.i3c = none then { s with i3c := some dynamic }.boardReply (some []) else s

/-- A reply whose bytes the spec leaves to another standard: free bytes, of a free length up to 64. -/
def State.freeReply (s : State) (via : Via) : State :=
  let n := Config.freeNat s.free % 65
  { s with free := s.free + 1 }.mctpReply via ((List.range n).map (Config.freeByte s.free))

/-- A request to Siolo's MCTP endpoint: its work is of the deferred class, so while Siolo is overloaded it is answered at once
and nothing is done for it (R426, R427; the form of that answer is the transport's: free bytes). -/
def State.mctpServe (s : State) (via : Via) (f : State → State) : State :=
  if s.sioRun && s.viaUp via then (if s.fld Reg.SIO_STATUS 1 1 = 1 then s.freeReply via else f s) else s

/-- MCTP_CONTROL: an MCTP control message is answered (DSP0236). -/
def State.mctpControl (s : State) (via : Via) : State := s.mctpServe via (fun s => s.freeReply via)

/-- The kind and index of a PLDM numeric sensor, in the order of R418. -/
def pldmSensor (i : Nat) : Option (Nat × Nat) :=
  if i < 160 then some (0, i) else if i < 208 then some (1, i - 160) else if i < 220 then some (2, i - 208)
  else if i < 223 then some (3, i - 220) else none

/-- The reading of a PLDM numeric sensor. -/
def State.pldmReading (s : State) (via : Via) (i : Nat) : State :=
  match pldmSensor i with
  | some (k, j) => s.mctpReply via (toLe 4 (s.readingWord k j))
  | none => s.freeReply via

/-- PLDM_REQUEST: a base request, a sensor reading (its word after free framing bytes) or the acknowledgement of an alarm
entry (R440, R443). -/
def State.pldmRequest (s : State) (via : Via) (req : PldmReq) : State :=
  s.mctpServe via (fun s =>
    match req with
    | .base => s.freeReply via
    | .reading i => s.pldmReading via i
    | .ack e => (s.ackAlarm (e % 64)).freeReply via)

end Sys2Proof.Machine
end

