-- ==== Sys2Proof/Machine/Security.lean ====
section
/-! DEFINITION. Signed images, identity and the update path (15_signed_images_identity.md): the firmware bundle and the boot
ROM, flash operations, the security commands, attestation and recovery. -/

namespace Sys2Proof.Machine

/-- The security engine as a source. -/
def srcSecurity : Src := ⟨5, 0, slotSecurity⟩

/-- The number of the channel a command came on. -/
def chanNum : Chan → Nat
  | .mbx m => m
  | .mctp _ _ => 32
  | .i3c _ => 33

/-! ## The firmware bundle (R448, R449) -/

def fwSio (h : List Byte) : Nat × Nat × Nat := (leAt h 0x28 4, leAt h 0x2C 4, leAt h 0x30 4)
def fwCc (h : List Byte) : Nat × Nat × Nat := (leAt h 0x34 4, leAt h 0x38 4, leAt h 0x3C 4)

/-- Steps 1 to 4 for a bundle's header. -/
def bundleHead (h : List Byte) : Option Nat := (headChecks 0x57465254 0x200000 h).map (·.code)

/-- Offset, length and entry point of a section. -/
def fwSectionOk (len most : Nat) (x : Nat × Nat × Nat) : Bool :=
  x.1 % 256 == 0 && decide (0x100 ≤ x.1 ∧ 1 ≤ x.2.1 ∧ x.2.1 ≤ most ∧ x.1 + x.2.1 ≤ len - 0x1000 ∧ x.2.2 < x.2.1)

/-- Step 8. -/
def fwLayoutOk (img : List Byte) : Bool :=
  let a := fwSio img
  let b := fwCc img
  fwSectionOk (imgLen img) 655360 a && fwSectionOk (imgLen img) 917504 b
    && decide (a.1 + a.2.1 ≤ b.1 ∨ b.1 + b.2.1 ≤ a.1)

/-- Step 9: reserved fields and padding. -/
def fwReservedOk (img : List Byte) : Bool :=
  let t := imgLen img - 0x1000
  let a := fwSio img
  let b := fwCc img
  let used := if a.1 ≤ b.1 then [(a.1, a.2.1), (b.1, b.2.1)] else [(b.1, b.2.1), (a.1, a.2.1)]
  let rs : List Rsv := [⟨0, 0x05, 1, 0xFF⟩, ⟨0, 0x0F, 1, 0xFF⟩, ⟨0, 0x1C, 4, 0xFF⟩, ⟨0, 0x60, 160, 0xFF⟩]
    ++ gaps 0 0 t 0x100 used ++ [⟨0, t + 0x38, 8, 0xFF⟩, ⟨0, t + 0xAB0, 1360, 0xFF⟩]
  rs.all (fun r => (rsvFail img r).isNone)

/-- Steps 6 to 9, and step 10 where the check is whole; the boot ROM leaves it out (R452). -/
def bundleBody (f : Fuses) (img : List Byte) (whole : Bool) : Option Nat :=
  if (digestFail img).isSome then some imDigest
  else if imgSecVer img < f.svn then some imRollback
  else if !fwLayoutOk img then some imLayout
  else if !fwReservedOk img then some imReserved
  else if whole && (imgSeq img == 0 || decide (64 < imgSecVer img)) then some imField
  else none

def fwSlot : Nat := 0x00200000

/-- Steps 1 to 5 on the bundle in the slot; the flash reports an error at the byte `bad`. -/
def State.slotHead (s : State) (bad : Option Nat) : Option Nat :=
  let h := s.flashBytes fwSlot 0x100
  let t := imgLen h - 0x1000
  let hit (a b : Nat) : Bool := match bad with | some o => decide (a ≤ o ∧ o < b) | none => false
  if hit 0 0x100 then some imRead
  else
    match bundleHead h with
    | some c => some c
    | none =>
      if hit t (imgLen h) then some imRead
      else (signatureFail s.fuses.root h (s.flashBytes (fwSlot + t) 0x1000)).map (·.code)

/-- The bundle in the slot, as long as its header says. -/
def State.slotImage (s : State) : List Byte := s.flashBytes fwSlot (imgLen (s.flashBytes fwSlot 0x100))

/-- Steps 6 to 9, or to 10, on the bundle in the slot. -/
def State.slotBody (s : State) (bad : Option Nat) (whole : Bool) : Option Nat :=
  let img := s.slotImage
  match bad with
  | some o => if 0x100 ≤ o ∧ o < img.length - 0x1000 then some imRead else bundleBody s.fuses img whole
  | none => bundleBody s.fuses img whole

/-! ## Boot (R452, R453, R468, R486) -/

/-- The recovery loader starts, and sends an I3C in-band interrupt (R468). -/
def State.recover (s : State) (again : Bool) (code : Nat) : State :=
  let s := (s.setFld Reg.SEC_STATUS 1 1 1).setFld Reg.SEC_STATUS 0 0 0
  let s := ((s.extend 3 [1]).post slotSecurity 0x0A00 3 code).emit .ibi
  { s with boot := .recovery again, session := none }

/-- Where a control core's local memory and Siolo's SRAM stand among the private memories. -/
def privCore (c : Nat) : Nat := 2 ^ 52 + c * 2 ^ 20
def privSram : Nat := 2 ^ 52 + 2 ^ 24
def privRom : Nat := 2 ^ 52 + 2 ^ 25

/-- A section of the bundle in the slot is written at address 0 of a private memory as the body is read: what lies in the body,
before the byte at which a read fails, and in the memory's first 1 MiB (R448, R452 step 3). -/
def State.loadSection (s : State) (bad : Option Nat) (base : Nat) (x : Nat × Nat × Nat) : State :=
  let img := s.slotImage
  let lo := max x.1 0x100
  let hi := min (min (x.1 + x.2.1) (x.1 + 2 ^ 20)) (min (img.length - 0x1000) (bad.getD img.length))
  { s with priv := s.priv.setBytes (base + (lo - x.1)) (slice img lo (hi - lo)) }

/-- Step 3 of R452: both sections are written before they are checked; after a Siolo-only reset Siolo's alone (R453). -/
def State.loadSections (s : State) (again : Bool) (bad : Option Nat) : State :=
  let h := s.flashBytes fwSlot 0x100
  let s := s.loadSection bad privSram (fwSio h)
  if again then s else (List.range 16).foldl (fun s c => s.loadSection bad (privCore c) (fwCc h)) s

/-- The firmware starts: Siolo's alone after a Siolo reset, else the control cores and the boot load too. -/
def State.firmwareStart (s : State) (again : Bool) : State :=
  let h := s.flashBytes fwSlot 0x100
  let section_ (x : Nat × Nat × Nat) : Firmware :=
    { seq := imgSeq h, secVer := imgSecVer h, tag := leAt h 0x20 8, entry := x.2.2 }
  let fw := section_ (fwSio h)
  let s := s.extend 1 (sha256 h)
  let s := if again ∧ s.reg Reg.SEC_FW_SEQ ≠ BitVec.ofNat 64 fw.seq then s.setFld Reg.SEC_STATUS 4 4 1 else s
  let s := (s.setReg Reg.SEC_FW_SEQ (BitVec.ofNat 64 fw.seq)).setFld Reg.SEC_STATUS 0 0 1
  let s := ((s.setFld Reg.SEC_STATUS 1 1 0).setFld Reg.SEC_STATUS 15 8 fw.secVer).setFld Reg.SIO_STATUS 0 0 1
  let s := { s with boot := .run, sioFw := fw, session := none }
  if again then s
  else
    let s := (List.range 16).foldl (fun s c => s.setFld (Reg.HST_CC_STATUS c) 32 32 1) { s with ccFw := section_ (fwCc h) }
    let c := Reg.CLK_RESET_CAUSE
    (s.post slotSiolo 0x0B01 1 (s.fld c 1 0 + s.fld c 7 7 * 4 + s.fld c 23 8 * 2 ^ 16)).bootLoad

/-- The 64-byte fuse string (R452). -/
def fuseString (f : Fuses) : List Byte :=
  toLe 4 f.romVer ++ toLe 4 f.svn ++ toLe 4 f.testMode ++ toLe 20 0 ++ f.root.flatMap (toLe 8)

def State.clearMeas (s : State) : State :=
  (List.range 8).foldl (fun s r => (s.setMeas r []).setReg (Reg.SEC_MEAS_CNT r) 0) s

/-- BOOT_HEADER_READ: steps 1 and 2 of R452. -/
def State.bootHeader (s : State) (bad : Option Nat) : State :=
  if s.boot = .header false then
    let s := s.clearMeas.extend 0 (sha256 (fuseString s.fuses))
    match s.slotHead bad with
    | some c => s.recover false c
    | none => { s with boot := .body false }
  else s

/-- BOOT_BODY_READ: steps 3 to 6 of R452. -/
def State.bootBody (s : State) (bad : Option Nat) : State :=
  if s.boot = .body false then
    let s := s.loadSections false bad
    match s.slotBody bad false with
    | some c => s.recover false c
    | none => s.firmwareStart false
  else s

/-- SIOLO_RELOAD_DONE: the same after a Siolo-only reset (R453). -/
def State.reloadDone (s : State) (bad : Option Nat) : State :=
  if s.boot = .header true then
    match s.slotHead bad with
    | some c => s.recover true c
    | none =>
      let s := s.loadSections true bad
      match s.slotBody bad false with
      | some c => s.recover true c
      | none => s.firmwareStart true
  else s

/-! ## Flash (R450, R451) -/

/-- Whether the loader reads flash. -/
def State.loaderFlash (s : State) : Bool := s.loader.running && s.bootLoading && s.fld Reg.RTE_STATUS 19 16 != 0

def State.flashBusy (s : State) : Bool := s.flashOp.isSome || s.loaderFlash

/-- SEC_STATUS as a read returns it. -/
def State.secStatus (s : State) : Word :=
  fput (fput (s.reg Reg.SEC_STATUS) 2 2 (if s.flashBusy then 1 else 0)) 23 16 s.fuses.svn

/-- Erase the 64 KiB sector at an offset. -/
def State.eraseSector (s : State) (off : Nat) : State :=
  { s with flash := s.flash.filter (fun c => decide (¬ (off ≤ c.1 ∧ c.1 < off + 0x10000))) }

/-- Program bytes at an offset. -/
def State.program (s : State) (off : Nat) (b : List Byte) : State :=
  { s with flash := (numbered b).foldl (fun m x => mset 0xFF m (off + x.1) x.2.toNat) s.flash }

/-- A sector that the flash reports an error of holds free bytes (the spec does not say what it holds). -/
def State.flashSpoil (s : State) (off n : Nat) : State :=
  { s.program off ((List.range n).map (Config.freeByte s.free)) with free := s.free + 1 }

def fwErr : Nat := 0x20
def idExhausted : Nat := 0x21
def svnRange : Nat := 0x22
def flashArea : Nat := 0x23
def noSession : Nat := 0x24

/-- Every check of R70 on a whole route image. -/
def routeFail (f : Fuses) (img : List Byte) : Option Nat :=
  match headChecks 0x45545254 0x1800000 img with
  | some x => some x.code
  | none =>
    if img.length < imgLen img then some imLength
    else
      let img := img.take (imgLen img)
      (((signatureFail f.root (img.take 0x100) (img.drop (imgLen img - 0x1000))).orElse (fun _ => digestFail img)).orElse
        (fun _ => bodyFail f img)).map (·.code)

/-- What EV_SEC_UPDATE calls a job: 0 the bundle, 1 copy A, 2 copy B; a PLDM transfer posts none. -/
def jobKind : FlashJob → Nat
  | .bundle => 0
  | .copy b => if b then 2 else 1
  | .read _ | .transfer _ => 0

/-- A PLDM update is told of: the bundle needs a full reset to activate, the pair activates at the next boot load (R467). -/
def State.pldmWritten (s : State) (op : FlashOp) : State :=
  let bundle := decide (op.job = .bundle)
  (s.emit (.activation (if bundle then 1 else 2) bundle)).freeReply op.via

/-- The end of an update: its events and its reply, and copy A after copy B of a PLDM pair (R465–R467). -/
def State.updateEnd (s : State) (op : FlashOp) (code : Option Nat) : State :=
  let kind := jobKind op.job
  let s := { s with flashOp := none }
  let s := match code with
    | none => (s.raise Reg.SEC_EVENT 0 Reg.SEC_EVENT_CNT 0).post slotSecurity 0x0A01 1
        (kind + imgSeq (s.flashBytes op.base 0x100) * 2 ^ 8)
    | some c => (s.raise Reg.SEC_EVENT 1 Reg.SEC_EVENT_CNT 16).post slotSecurity 0x0A02 2 (kind + c * 2 ^ 8)
  match op.who, code with
  | some (m, h), none => s.replyOk (.mbx m) h []
  | some (m, h), some c => s.replyFail (.mbx m) h c
  | none, none =>
    if op.then_ then
      { s with flashOp := some { op with job := .copy false, base := flashCopy false, pos := 0, erased := false, then_ := false } }
    else s.pldmWritten op
  | none, some _ => s.freeReply op.via

/-- The read-back of an update: the whole of R449 or R70 on what the flash holds. -/
def State.readBackFail (s : State) (op : FlashOp) : Option Nat :=
  match op.job with
  | .bundle => (s.slotHead none).orElse (fun _ => s.slotBody none true)
  | _ => routeFail s.fuses (s.flashBytes op.base 0x1800000)

/-- One erase, program or read of an update; `err` where the flash reports an error. -/
def State.updateStep (s : State) (op : FlashOp) (err : Bool) : State :=
  if err then (if op.pos < op.len then s.flashSpoil (op.base + op.pos) 0x10000 else s).updateEnd op (some fwErr)
  else if op.len ≤ op.pos then s.updateEnd op (s.readBackFail op)
  else if !op.erased then { (s.eraseSector (op.base + op.pos)) with flashOp := some { op with erased := true } }
  else
    let n := min 0x10000 (op.len - op.pos)
    let (s, b, e) :=
      if op.data = [] then
        let (s, rd) := s.readMem srcSecurity (op.src + op.pos) n
        (s, rd.bytes, rd.err)
      else (s, slice op.data op.pos n, none)
    match e with
    | some _ => s.updateEnd op (some imRead)
    | none => { (s.program (op.base + op.pos) b) with flashOp := some { op with pos := op.pos + n, erased := false } }

/-- One read of a FLASH_READ, to memory. -/
def State.flashMove (s : State) (op : FlashOp) (dst : Nat) (err : Bool) : State :=
  let n := min 0x10000 (op.len - op.pos)
  let rep (s : State) (code : Option Nat) : State :=
    let s := { s with flashOp := none }
    match op.who, code with
    | some (m, h), none => s.replyOk (.mbx m) h []
    | some (m, h), some c => s.replyFail (.mbx m) h c
    | none, _ => s
  if err then rep s (some fwErr)
  else
    let (s, _) := s.writeMem srcSecurity (dst + op.pos) (s.flashBytes (op.base + op.pos) n)
    if op.len ≤ op.pos + n then rep s none else { s with flashOp := some { op with pos := op.pos + n } }

/-- FLASH_OP_DONE: a flash erase, program or read ends. The server waits with its reply until the client has taken the
earlier one. -/
def State.flashDone (s : State) (err : Bool) (env : Env) : State :=
  match s.flashOp with
  | none => s
  | some op =>
    let waits := match op.who with | some (m, _) => s.mbxFull m true | none => false
    if waits then s
    else
      s.settle .flash env (fun s =>
        match op.job with
        | .read dst => s.flashMove op dst err
        | .transfer _ => s
        | _ => s.updateStep op err)

/-- The mailbox and header that a flash operation answers. -/
def chanWho (ch : Chan) (h : Nat) : Option (Nat × Nat) :=
  match ch with
  | .mbx m => some (m, h)
  | _ => none

/-! ## The commands (R463–R466) -/

/-- Signature records of the identity state (R458): the slots of 32 bytes that are not blank. -/
def State.idSlots (s : State) : List Nat :=
  ((s.flash.filter (fun c => decide (0x100000 ≤ c.1 ∧ c.1 < 0x120000))).map (fun c => c.1 / 32)).eraseDups

/-- GEN, NEXT and the sector of a slot whose record is correct. -/
def State.idRecord (s : State) (slot : Nat) : Option (Nat × Nat × Nat) :=
  let b := s.flashBytes (32 * slot) 32
  if leAt b 0 4 = 0x53444954 ∧ leAt b 4 1 = 0x11 ∧ leAt b 0x14 4 = crc32c (b.take 0x14) then
    some (leAt b 8 8, leAt b 0x10 4, slot / 2048 % 2)
  else none

/-- The record of a list with the highest GEN. -/
def topRecord : List (Nat × Nat × Nat) → Option (Nat × Nat × Nat)
  | [] => none
  | r :: t =>
    match topRecord t with
    | some x => if r.1 < x.1 then some x else some r
    | none => some r

/-- The current record: that with the highest GEN; with none, GEN 0 and NEXT 0, as if in sector 1. -/
def State.idCurrent (s : State) : Nat × Nat × Nat := (topRecord (s.idSlots.filterMap s.idRecord)).getD (0, 0, 1)

/-- Signatures not yet used: those unreserved and those left in the reserved block. -/
def State.idLeft (s : State) : Nat := 2 ^ 20 - s.idCurrent.2.1 + (s.fld Reg.SEC_ID 52 32 - s.fld Reg.SEC_ID 20 0)

def idBytes (gen next : Nat) : List Byte :=
  let b := toLe 4 0x53444954 ++ toLe 4 0x11 ++ toLe 8 gen ++ toLe 4 next
  b ++ toLe 4 (crc32c b) ++ toLe 8 0

/-- Write the next record of the identity state and read it back: whether it has become the current one (R458, R459 steps 1 and 2);
`err` where the flash reports an error. -/
def State.idWrite (s : State) (err : Bool) : State × Bool :=
  let (gen, next, sector) := s.idCurrent
  let other := 1 - sector
  let first := 0x8000 + 2048 * other
  let used := s.idSlots
  let (s, slot) := match (List.range 2048).find? (fun i => !used.contains (first + i)) with
    | some i => (s, first + i)
    | none => (s.eraseSector (32 * first), first)
  if err then (s.flashSpoil (32 * slot) 32, false)
  else
    let s := s.program (32 * slot) (idBytes (gen + 1) (next + 1024))
    (s, s.idRecord slot == some (gen + 1, next + 1024, other) && s.idCurrent == (gen + 1, next + 1024, other))

/-- Reserve the next block of 1,024 signatures (R459), if one is left; false where the record did not become the current one. -/
def State.idReserve (s : State) (err : Bool) : State × Bool :=
  let next := s.idCurrent.2.1
  match s.idWrite err with
  | (s, false) => (s, false)
  | (s, true) =>
    let s := (s.setFld Reg.SEC_ID 20 0 next).setFld Reg.SEC_ID 52 32 (next + 1024)
    let left := 2 ^ 20 - (next + 1024)
    (if left < 16384 then (s.raise Reg.SEC_EVENT 3 Reg.SEC_EVENT_CNT 48).post slotSecurity 0x0A04 2 left else s, true)

/-! ## The identity key (R457) -/

/-- The identifier (0) or the seed (1) of an identity tree: SHA-256 of the secret, the tree's number and a fixed label of 16
bytes (the label is free, and their order is a DESIGN CHOICE, log 74). -/
def idDerive (f : Fuses) (tree what : Nat) : List Byte :=
  sha256 (f.idSecret.flatMap (toLe 8) ++ toBe 4 tree ++ (List.range 16).map (Config.idLabel what))

def idIdent (f : Fuses) (tree : Nat) : List Byte := (idDerive f tree 0).take 16

/-- Where chain i of a leaf's one-time key begins: as RFC 8554 derives it from a seed (PRESUMED, log 74). -/
def idChainStart (f : Fuses) (tree leaf i : Nat) : List Byte :=
  sha256 (idIdent f tree ++ toBe 4 leaf ++ toBe 2 i ++ toBe 1 0xFF ++ idDerive f tree 1)

/-- A node of an identity tree, its subtree of some levels above the leaves. -/
def idNode (f : Fuses) (tree : Nat) : Nat → Nat → List Byte
  | 0, node =>
    let pre := idIdent f tree ++ toBe 4 (node - 1024)
    let key := sha256 (pre ++ toBe 2 0x8080 ++ lmotsRun pre (idChainStart f tree (node - 1024)) (fun _ => 0) (fun _ => 15))
    sha256 (idIdent f tree ++ toBe 4 node ++ toBe 2 0x8282 ++ key)
  | k + 1, node =>
    sha256 (idIdent f tree ++ toBe 4 node ++ toBe 2 0x8383 ++ idNode f tree k (2 * node) ++ idNode f tree k (2 * node + 1))

/-- The LMS public key of an identity tree: 56 bytes. -/
def idTreeKey (f : Fuses) (tree : Nat) : List Byte := toBe 4 6 ++ toBe 4 3 ++ idIdent f tree ++ idNode f tree 10 1

/-- The LMS signature that a leaf of an identity tree makes of a message: 2,508 bytes. -/
def idTreeSign (f : Fuses) (tree leaf : Nat) (message : List Byte) : List Byte :=
  let pre := idIdent f tree ++ toBe 4 leaf
  let rand := (List.range 32).map (Config.idRandom tree leaf)
  let digits := lmotsDigits pre rand message
  let path := (List.range 10).flatMap (fun k => idNode f tree k (Nat.xor ((1024 + leaf) / 2 ^ k) 1))
  toBe 4 leaf ++ toBe 4 3 ++ rand ++ lmotsRun pre (idChainStart f tree leaf) (fun _ => 0) (fun i => digits.getD i 0) ++ toBe 4 6 ++ path

/-- The HSS signature of index q: leaf q div 1,024 of tree 0 signs bottom-level tree q div 1,024, whose leaf q mod 1,024 signs
the message. -/
def idSignature (f : Fuses) (q : Nat) (message : List Byte) : List Byte :=
  toBe 4 1 ++ idTreeSign f 0 (q / 1024) (idTreeKey f (1 + q / 1024)) ++ idTreeKey f (1 + q / 1024)
    ++ idTreeSign f (1 + q / 1024) (q % 1024) message

/-- The identity public key: L = 2 and the key of the top tree. -/
def idPublicKey (f : Fuses) : List Byte := toBe 4 2 ++ idTreeKey f 0

/-- The quote's signed part (R461). -/
def State.quote (s : State) (q : Nat) (nonce : List Byte) : List Byte :=
  let flags := (if s.meas 3 = toLe 32 0 then 0 else 1) + s.fld Reg.SEC_STATUS 4 4 * 2
  toLe 4 0x4F555154 ++ toLe 4 0x11 ++ toLe 8 q ++ slice nonce 0 32 ++ toLe 8 s.now
    ++ toLe 8 (s.reg Reg.SEC_FW_SEQ).toNat ++ toLe 8 (s.reg Reg.RTE_SEQ).toNat ++ toLe 4 s.fuses.svn ++ toLe 4 flags
    ++ (List.range 8).flatMap s.meas ++ s.fuses.root.flatMap (toLe 8) ++ toLe 16 0

/-- Send a byte string that a command gives: to memory and words in a mailbox reply, or inline over MCTP (R462). -/
def State.sendBlob (s : State) (ch : Chan) (h dst : Nat) (b : List Byte) (words : List Nat) : State :=
  match ch with
  | .mbx _ => (s.writeMem srcSecurity dst b).1.replyOk ch h words
  | .mctp via _ => s.mctpReply via (mctpBytes (wordBytes [replyHead h mbOk 0] ++ b))
  | .i3c _ => s.i3cReply (wordBytes [replyHead h mbOk 0] ++ b)

/-- Words of a request that carries a destination: over MCTP the destination is left out. -/
def blobWords (ch : Chan) (n : Nat) : Nat :=
  match ch with
  | .mbx _ => n + 2
  | _ => n

/-- Whether a destination will do. -/
def blobOk (ch : Chan) (dst len : Nat) : Bool :=
  match ch with
  | .mbx _ => inStacked dst len
  | _ => true

/-- Take the next signature index and send the quote that it signs (R459, R461). -/
def State.sendQuote (s : State) (ch : Chan) (h dst : Nat) (nonce : List Byte) : State :=
  let q := s.fld Reg.SEC_ID 20 0
  let s := s.setFld Reg.SEC_ID 20 0 (q + 1)
  let s := if q + 1 = 2 ^ 20 then s.setFld Reg.SEC_STATUS 3 3 1 else s
  let body := s.quote q nonce
  s.sendBlob ch h dst (body ++ toLe 4 5076 ++ idSignature s.fuses q body) [5464, s.idLeft]

/-- ATTEST (R461): a block is reserved first where none is left, and where that fails the reply is FLASH_ERR (R464). -/
def State.attest (s : State) (ch : Chan) (hint : Nat) (err : Bool) (env : Env) : State :=
  s.settle (.chan (chanNum ch)) env (fun s => s.serve ch 0xA6 (blobWords ch 8) hint (fun s h ws =>
    let dst := word2 ws 8
    let need := decide (s.fld Reg.SEC_ID 52 32 ≤ s.fld Reg.SEC_ID 20 0)
    if !blobOk ch dst 5464 then s.replyFail ch h imRange
    else if need && decide (2 ^ 20 ≤ s.idCurrent.2.1) then (s.setFld Reg.SEC_STATUS 3 3 1).replyFail ch h idExhausted
    else if need && s.flashBusy then s.busyReply ch h hint
    else
      match (if need then s.idReserve err else (s, true)) with
      | (s, false) => s.replyFail ch h fwErr
      | (s, true) => s.sendQuote ch h dst (wordBytes (ws.take 8))))

/-- GET_ID_KEY (R463). -/
def State.getIdKey (s : State) (ch : Chan) (hint : Nat) (env : Env) : State :=
  s.settle (.chan (chanNum ch)) env (fun s => s.serve ch 0xA7 (blobWords ch 0) hint (fun s h ws =>
    let dst := word2 ws 0
    if !blobOk ch dst 128 then s.replyFail ch h imRange
    else s.sendBlob ch h dst (toLe 16 s.fuses.serial ++ idPublicKey s.fuses ++ toLe 52 0) [s.idLeft]))

/-- GET_SEC. -/
def State.getSec (s : State) (ch : Chan) (hint : Nat) : State :=
  s.serve ch 0xA0 0 hint (fun s h _ => s.replyOk ch h
    [s.fuses.svn, s.fld Reg.SEC_STATUS 15 8, (if s.loaded then s.loader.secVer else 0), s.idLeft, s.secStatus.toNat])

/-- GET_MEAS. -/
def State.getMeas (s : State) (ch : Chan) (hint : Nat) : State :=
  s.serve ch 0xA4 1 hint (fun s h ws =>
    let r := ws.getD 0 0
    if 8 ≤ r then s.badArg ch h 1 else s.replyOk ch h (wordsOf (s.meas r) ++ [(s.reg (Reg.SEC_MEAS_CNT r)).toNat]))

/-- MEAS_EXTEND. -/
def State.measExtend (s : State) (ch : Chan) (hint : Nat) : State :=
  s.serve ch 0xA5 9 hint (fun s h ws =>
    let r := ws.getD 0 0
    if r < 4 ∨ 8 ≤ r then s.badArg ch h 1 else (s.extend r (wordBytes (ws.drop 1))).replyOk ch h [])

/-- FW_UPDATE: step 1 of R465. -/
def State.fwUpdate (s : State) (ch : Chan) (hint : Nat) (env : Env) : State :=
  s.settle (.chan (chanNum ch)) env (fun s => s.serve ch 0xA1 3 hint (fun s h ws =>
    let src := word2 ws 0
    let len := ws.getD 2 0
    if s.flashBusy then s.busyReply ch h hint
    else if !inStacked src (max len 0x100) then s.replyFail ch h imRange
    else
      let (s, rd) := s.readMem srcSecurity src 0x100
      let (t, tr) := s.readMem srcSecurity (src + (len - 0x1000)) 0x1000
      let bad : Option Nat :=
        if rd.err.isSome then some imRead
        else ((bundleHead rd.bytes).orElse (fun _ => if imgLen rd.bytes = len then none else some imLength))
      match bad with
      | some c => s.replyFail ch h c
      | none =>
        if tr.err.isSome then t.replyFail ch h imRead
        else if (signatureFail t.fuses.root rd.bytes tr.bytes).isSome then t.replyFail ch h imSignature
        else if imgSecVer rd.bytes < t.fuses.svn then t.replyFail ch h imRollback
        else { t with flashOp := some { job := .bundle, who := chanWho ch h, src, len, base := fwSlot } }))

/-- The checks of a route image from step 6 on, once its header and trailer have passed. -/
def routeBodyFail (f : Fuses) (img : List Byte) : Option Nat := ((digestFail img).orElse (fun _ => bodyFail f img)).map (·.code)

/-- The checks that RTE_STORE runs on its source, in the order of R70: the header is read and checked, then the trailer, then the
body; a read that fails ends them with IMG_READ (R466, R510). The result has the image's length and the code of a failure. -/
def State.storeCheck (s : State) (src len : Nat) : State × Nat × Option Nat :=
  let (s, rd) := s.readMem srcSecurity src 0x100
  let n := imgLen rd.bytes
  let bad : Option Nat :=
    if rd.err.isSome then some imRead
    else ((headChecks 0x45545254 0x1800000 rd.bytes).map (·.code)).orElse (fun _ => if n ≤ len then none else some imLength)
  match bad with
  | some c => (s, n, some c)
  | none =>
    let (s, tr) := s.readMem srcSecurity (src + (n - 0x1000)) 0x1000
    if tr.err.isSome then (s, n, some imRead)
    else
      match signatureFail s.fuses.root rd.bytes tr.bytes with
      | some f => (s, n, some f.code)
      | none =>
        let (s, body) := s.readMem srcSecurity (src + 0x100) (n - 0x1100)
        if body.err.isSome then (s, n, some imRead) else (s, n, routeBodyFail s.fuses (rd.bytes ++ body.bytes ++ tr.bytes))

/-- RTE_STORE: the checks of R466 before any erase. -/
def State.rteStore (s : State) (ch : Chan) (hint : Nat) (env : Env) : State :=
  s.settle (.chan (chanNum ch)) env (fun s => s.serve ch 0xA2 4 hint (fun s h ws =>
    let src := word2 ws 0
    let len := ws.getD 2 0
    let b := ws.getD 3 0 == 1
    if 2 ≤ ws.getD 3 0 then s.badArg ch h 4
    else if s.flashBusy then s.busyReply ch h hint
    else if !inStacked src (max len 0x100) then s.replyFail ch h imRange
    else
      match s.storeCheck src len with
      | (s, _, some c) => s.replyFail ch h c
      | (s, n, none) =>
        { s with flashOp := some { job := .copy b, who := chanWho ch h, src, len := n, base := flashCopy b } }))

/-- FLASH_READ. -/
def State.flashRead (s : State) (ch : Chan) (hint : Nat) : State :=
  s.serve ch 0xA3 4 hint (fun s h ws =>
    let off := ws.getD 0 0
    let len := ws.getD 1 0
    let dst := word2 ws 2
    if off % 32 ≠ 0 then s.badArg ch h 1
    else if len % 32 ≠ 0 then s.badArg ch h 2
    else if !(decide (fwSlot ≤ off ∧ off + len ≤ 0x600000) || decide (0x4000000 ≤ off ∧ off + len ≤ 0x8000000)) then
      s.replyFail ch h flashArea
    else if !inStacked dst len then s.replyFail ch h imRange
    else if s.flashBusy then s.busyReply ch h hint
    else if len = 0 then s.replyOk ch h []
    else { s with flashOp := some { job := .read dst, who := chanWho ch h, src := 0, len, base := off } })

/-- SEC_VER of a stored copy whose header passes steps 1 to 5 of R70. -/
def State.storedVer (s : State) (b : Bool) : Option Nat :=
  let h := s.flashBytes (flashCopy b) 0x100
  if (headChecks 0x45545254 0x1800000 h).isSome then none
  else if (signatureFail s.fuses.root h (s.flashBytes (flashCopy b + (imgLen h - 0x1000)) 0x1000)).isSome then none
  else some (imgSecVer h)

/-- What an anti-rollback count must not pass: the firmware slot, the image in force and the stored copies (R456). -/
def State.svnLimits (s : State) : List Nat :=
  [imgSecVer (s.flashBytes fwSlot 0x100)] ++ (if s.loaded then [s.loader.secVer] else [])
    ++ (s.storedVer false).toList ++ (s.storedVer true).toList

/-- SVN_COMMIT: the fuses are blown one at a time. `cut` where the power fails after so many of them: the count then lies between
its old and its requested value, and nothing else is done (R455, R456). -/
def State.svnCommit (s : State) (ch : Chan) (hint : Nat) (cut : Option Nat) : State :=
  s.serve ch 0xA8 1 hint (fun s h ws =>
    let v := ws.getD 0 0
    let old := s.fuses.svn
    if s.flashBusy then s.busyReply ch h hint
    else if v < old ∨ 64 < v ∨ s.svnLimits.any (fun x => decide (x < v)) then s.replyFail ch h svnRange
    else
      match cut with
      | some k => { s with fuses := { s.fuses with svn := old + min k (v - old) } }
      | none =>
        let s := { s with fuses := { s.fuses with svn := v } }
        let s := if v = old then s
          else (s.raise Reg.SEC_EVENT 2 Reg.SEC_EVENT_CNT 32).post slotSecurity 0x0A03 1 (old + v * 2 ^ 8)
        s.replyOk ch h [])

/-- Whether the bytes of a PLDM transfer may be written: as FW_UPDATE and RTE_STORE check before any erase (R465–R467). -/
def pldmGood (f : Fuses) (comp : Nat) (b : List Byte) : Bool :=
  if comp = 1 then
    (bundleHead b).isNone && imgLen b == b.length && (signatureFail f.root (b.take 0x100) (b.drop (imgLen b - 0x1000))).isNone
      && decide (f.svn ≤ imgSecVer b)
  else (routeFail f b).isNone

/-- A PLDM transfer is complete: component 1 is written to the firmware slot, component 2 to copy B and then to copy A. -/
def State.pldmWrite (s : State) (op : FlashOp) (comp : Nat) : State :=
  let start (job : FlashJob) (base : Nat) (pair : Bool) : State :=
    { s with flashOp := some { op with job, len := imgLen op.data, base, then_ := pair } }
  if !pldmGood s.fuses comp op.data then { s with flashOp := none }.freeReply op.via
  else if comp = 1 then start .bundle fwSlot false
  else start (.copy true) (flashCopy true) true

/-- A step of a transfer that is running, of its component; with no transfer running it is answered only. -/
def State.pldmIn (s : State) (via : Via) (op : FlashOp) (f : Nat → State) : State :=
  match op.job with
  | .transfer comp => f comp
  | _ => s.freeReply via

/-- PLDM_FIRMWARE_UPDATE: a step of a PLDM update, which holds the flash from its request to its end (R451, R467): component 1 is
the bundle, component 2 the route-image pair. -/
def State.pldmUpdate (s : State) (via : Via) (step : PldmStep) : State :=
  s.mctpServe via (fun s =>
    match step, s.flashOp with
    | .request comp, _ =>
      if s.flashBusy ∨ comp = 0 ∨ 2 < comp then s.freeReply via
      else { s with flashOp := some { job := .transfer comp, who := none, via, src := 0, len := 0, base := 0 } }.freeReply via
    | .data b, some op => s.pldmIn via op (fun _ => { s with flashOp := some { op with data := op.data ++ b } }.freeReply via)
    | .complete, some op => s.pldmIn via op (s.pldmWrite op)
    | .cancel, some op => s.pldmIn via op (fun _ => { s with flashOp := none }.freeReply via)
    | _, none => s.freeReply via)

/-! ## Recovery (R468, R469) -/

/-- The session's number of a channel. -/
def chanId : Chan → Nat
  | .mbx m => m
  | .mctp _ _ => 9
  | .i3c _ => 8

/-- Whether another channel holds the session. -/
def State.otherSession (s : State) (ch : Chan) : Bool :=
  match s.session with
  | some x => x.chan != chanId ch
  | none => false

/-- RCV_BEGIN. -/
def State.rcvBegin (s : State) (ch : Chan) (hint : Nat) : State :=
  s.serve ch 0xB0 1 hint (fun s h ws =>
    let len := ws.getD 0 0
    if s.otherSession ch then s.busyReply ch h 100000
    else if s.flashBusy then s.busyReply ch h hint
    else if len % 4096 ≠ 0 ∨ len < 0x2000 ∨ 0x200000 < len then s.badArg ch h 1
    else { s with session := some ⟨chanId ch, len, 0⟩ }.replyOk ch h [])

/-- RCV_DATA; `err` where the flash reports an error, which spoils the data's place and is answered with FLASH_ERR (R464). -/
def State.rcvData (s : State) (ch : Chan) (hint : Nat) (err : Bool) : State :=
  s.serveLen ch 0xB1 (fun n => decide (2 ≤ n ∧ n ≤ 15)) hint (fun s h ws =>
    let data := (ws.drop 1).take (hdrLen h - 1)
    let n := 4 * data.length
    if s.otherSession ch then s.busyReply ch h 100000
    else if s.flashBusy then s.busyReply ch h hint
    else
      match s.session with
      | none => s.replyFail ch h noSession
      | some x =>
        if ws.getD 0 0 ≠ x.got then s.badArg ch h 1
        else if x.len < x.got + n then s.badArg ch h (2 + (x.len - x.got) / 4)
        else
          let starts := (upTo (x.got / 0x10000) ((x.got + n - 1) / 0x10000)).filter (fun i => decide (x.got ≤ i * 0x10000))
          let s := starts.foldl (fun s i => s.eraseSector (fwSlot + i * 0x10000)) s
          if err then (s.flashSpoil (fwSlot + x.got) n).replyFail ch h fwErr
          else
          let s := s.program (fwSlot + x.got) (wordBytes data)
          { s with session := some { x with got := x.got + n } }.replyOk ch h [])

/-- RCV_END: the slot is checked and booted, or the session closes. -/
def State.rcvEnd (s : State) (ch : Chan) (hint : Nat) (bad : Option Nat) : State :=
  s.serve ch 0xB2 0 hint (fun s h _ =>
    if s.otherSession ch then s.busyReply ch h 100000
    else if s.flashBusy then s.busyReply ch h hint
    else if s.session.isNone then s.replyFail ch h noSession
    else
      let again := decide (s.boot = .recovery true)
      match s.slotHead bad with
      | some c => { s with session := none }.replyFail ch h c
      | none =>
        let s := s.loadSections again bad
        match s.slotBody bad false with
        | some c => { s with session := none }.replyFail ch h c
        | none => (s.replyOk ch h []).firmwareStart again)

/-- A session with no message for 1 s closes. -/
def State.sessionTimeout (s : State) : State := { s with session := none }

/-! ## Control-core services (R409, R415) -/

/-- Copy `n` records into a queue's ring at its tail: the status of the first write that fails. -/
def State.submitWrite (s : State) (src : Src) (q n : Nat) (b : List Byte) : State × Option Nat :=
  let x := s.queue q
  let size := s.sqSize q
  (List.range n).foldl (fun acc i =>
    let (s, e) := acc.1.writeMem src (acc.1.sqBase q + 64 * ((x.tail + i) % size)) (slice b (64 * i) 64)
    (s, acc.2.orElse (fun _ => e.map (·.1)))) (s, none)

/-- Write a queue's doorbell for `n` records as R105 describes. -/
def State.submitBell (s : State) (q n : Nat) (b : List Byte) : State :=
  let x := s.queue q
  let size := s.sqSize q
  let last := (x.tail + n - 1) % size
  let gen := if size ≤ x.head + ((x.tail + n + size - x.head) % size) - 1 then (x.gen + 1) % 256 else x.gen
  let sl := leAt b (64 * n - 4) 2
  s.doorbell q (BitVec.ofNat 64 (sl * 2 ^ 48 + gen * 2 ^ 40 + (last + 1) % size))

/-- SUBMIT: copy records into a queue's ring at its tail and write its doorbell. -/
def State.submit (s : State) (ch : Chan) (hint : Nat) (env : Env) : State :=
  s.settle (.chan (chanNum ch)) env (fun s => s.serve ch 0x20 4 hint (fun s h ws =>
    let q := ws.getD 0 0
    let n := ws.getD 1 0
    let src := word2 ws 2
    let src_ := match ch with | .mbx m => srcCC (m - 8) | _ => srcSiolo
    if 2048 ≤ q then s.badArg ch h 1
    else if n = 0 ∨ 16 < n then s.badArg ch h 2
    else
      match s.rangeBad src (64 * n) with
      | some b => (s.rangeErr src_ b).replyFail ch h stAddrRange
      | none =>
        let x := s.queue q
        let size := s.sqSize q
        if size ≤ (x.tail + size - x.head) % size + n then s.busyReply ch h hint
        else
          let (s, rd) := s.readMem src_ src (64 * n)
          match rd.err with
          | some (st, _) => s.replyFail ch h st
          | none =>
            let (s, e) := s.submitWrite src_ q n rd.bytes
            match e with
            | some st => s.replyFail ch h st
            | none => (s.submitBell q n rd.bytes).replyOk ch h []))

/-- The range of addresses a tier of ALLOC covers. -/
def State.tierRange (s : State) (tier who : Nat) : Nat × Nat :=
  match tier with
  | 0 => (localBase who, localSize)
  | 1 => (storeBase, storeSize)
  | 2 => (0, stackedEnd)
  | _ => (spillBase who, s.spillSize who)

/-- The page of stacked memory that holds the run-time's tables: a free value (DESIGN CHOICE, log 78). -/
def tableRange : Nat × Nat := (Config.tablePage % 589824 * 0x200000, 0x200000)

/-- The run-time writes its tables, whose bytes are free: their format is not given. -/
def State.writeTables (s : State) : State :=
  { s with mem := s.mem.openRange tableRange.1 (tableRange.1 + tableRange.2) s.free, free := s.free + 1 }

/-- Whether a range lies in [base, base + size) and meets no object of the run-time's tables, nor the tables. -/
def State.roomAt (s : State) (base size len a : Nat) : Bool :=
  decide (base ≤ a ∧ a + len ≤ base + size) && (tableRange :: s.objects).all (fun o => decide (a + len ≤ o.1 ∨ o.1 + o.2 ≤ a))

/-- A place for an object in a tier: where the run-time chooses (a free value) if there is room, else the tier's first byte or
the end of an object that has room behind it. -/
def State.placeFor (s : State) (base size len pick : Nat) : Option Nat :=
  ((base + pick % (size + 1)) :: base :: (tableRange :: s.objects).map (fun o => o.1 + o.2)).find? (s.roomAt base size len)

/-- ALLOC: an object of the run-time's tables in a tier, apart from every other and from the tables, or ADDR_RANGE where they have no
room (R415; what the tables say is a field of the state, and the place is free: DESIGN CHOICE, log 78). -/
def State.alloc (s : State) (ch : Chan) (hint : Nat) : State :=
  s.serve ch 0x21 4 hint (fun s h ws =>
    let len := word2 ws 0
    let tier := ws.getD 2 0
    let who := ws.getD 3 0
    if 4 ≤ tier then s.badArg ch h 3
    else if (tier = 0 ∧ 128 ≤ who) ∨ (tier = 3 ∧ 8 ≤ who) then s.badArg ch h 4
    else
      let (base, size) := s.tierRange tier who
      let pick := Config.freeNat s.free
      let s := { s with free := s.free + 1 }
      match s.placeFor base size len pick with
      | some a => { s.writeTables with objects := s.objects ++ [(a, len)] }.replyOk ch h (words64 a)
      | none => s.replyFail ch h stAddrRange)

/-- FREE: the object at an address leaves the tables; an address that begins none gets BAD_ARG (DESIGN CHOICE, log 78). -/
def State.freeObj (s : State) (ch : Chan) (hint : Nat) : State :=
  s.serve ch 0x22 2 hint (fun s h ws =>
    let a := word2 ws 0
    if s.objects.any (fun o => o.1 == a) then { s.writeTables with objects := s.objects.filter (fun o => o.1 != a) }.replyOk ch h []
    else s.badArg ch h 1)

end Sys2Proof.Machine
end

