-- ==== Sys2Proof/Machine/Power.lean ====
section
/-! DEFINITION. Clocks, resets and power (16_clocks_reset_power_emc.md): the free-running counter, operating points, full
resets, power-up and power-down, and the stacks' return to service. -/

namespace Sys2Proof.Machine

/-! ## The counter (R476) -/

/-- One reference cycle: the free-running counter adds 1 while standby power is there. -/
def State.countTick (s : State) : State := if s.power.standby then s.addFld Reg.CLK_TIME 63 0 1 else s

/-- The bus controller fetches a reply that waits for it with a private read (R468). No row of the table is that read: it comes while
no command waits (DESIGN CHOICE, log 106). -/
def State.privateRead (s : State) : State :=
  match s.i3cHeld with
  | some b => { s with i3cHeld := none }.emit (.board (some b))
  | none => s

/-- What goes on while no command waits. -/
def State.tick (s : State) : State := s.countTick.privateRead

/-! ## Operating points (R478) -/

def State.clkReject (s : State) : State := s.raise Reg.CLK_EVENT 1 Reg.CLK_EVENT_CNT 16

/-- A write of CLK_CTRL: SPREAD above 50 sets 50; APPLY starts a change where it is accepted. -/
def State.clkCtrl (s : State) (v : Word) : State :=
  let s := (s.setFld Reg.CLK_CTRL 1 0 (fget v 1 0)).setFld Reg.CLK_CTRL 13 8 (min 50 (fget v 13 8))
  if fget v 15 15 = 0 then s
  else if s.quiesced ∧ s.fld Reg.CLK_STATUS 2 2 = 0 ∧ s.fld Reg.CLK_CTRL 1 0 ≠ 3 then
    { (s.setFld Reg.CLK_STATUS 2 2 1) with power := { s.power with opp := some (s.fld Reg.CLK_CTRL 1 0, s.fld Reg.CLK_CTRL 13 8) } }
  else s.clkReject

/-! ## Full reset (R483–R486) -/

/-- The stacks in service, as a mask. -/
def State.stacksUp (s : State) : Nat := ((List.range 24).filter s.stackUp).foldl (fun n c => n + 2 ^ c) 0

/-- What a full reset leaves of memory: core-local memory and the Store undefined, and stacked memory too unless it is
retained. -/
def State.resetMem (s : State) (retain : Bool) : State := if retain then s.openRange stackedEnd (2 ^ 52) else s.openRange 0 (2 ^ 52)

/-- A full reset: cause 0 power-up, 1 RESET_N, 2 CLK_RESET. All logic is then held in reset (R484, R485); the hardware loops run on
(R481), and the private memories but the ROM hold undefined bytes (DESIGN CHOICE, log 96: R485 does not list them). With retention the interleave map
by which stacked memory was written stays until the boot load brings another; a stack that is still in self-refresh stays in it. -/
def State.fullReset (s : State) (cause : Nat) (retain : Bool) : State :=
  let n := if cause = 0 then 0 else min 65535 (s.fld Reg.CLK_RESET_CAUSE 23 8 + 1)
  let m := s.resetMem retain
  let t : State := { State.reset with
    regs := [], image := { State.reset.image with regions := if retain then s.image.regions else State.reset.image.regions }
    pending := s.pending, fuses := s.fuses, flash := s.flash, out := s.out, free := m.free + 1, mem := m.mem, poison := m.poison
    loops := s.loops, priv := s.priv.openRange (2 ^ 52) privRom m.free, boot := .off
    power := { s.power with held := true, soft := false, selfRef := if retain then Nat.lor s.stacksUp s.power.selfRef else 0, awaited := 0, opp := none } }
  let t := (t.setReg Reg.CLK_TIME (s.reg Reg.CLK_TIME)).setFld Reg.SIO_STATUS 2 2 (s.fld Reg.SIO_STATUS 2 2)
  ((t.setFld Reg.CLK_RESET_CAUSE 1 0 cause).setFld Reg.CLK_RESET_CAUSE 23 8 n).setFld Reg.CLK_RESET_CAUSE 7 7 (if retain then 1 else 0)

/-- The hold ends: the boot ROM starts, every enabled port trains (R353), and every stack is trained, or with retention leaves
self-refresh. -/
def State.leaveReset (s : State) : State :=
  let p := s.power
  let kept := s.fld Reg.CLK_RESET_CAUSE 7 7 = 1
  { s.trainPorts.linkFlush with boot := .header false, power := { p with held := false, awaited := if kept then p.selfRef else 0xFFFFFF } }

/-- The hold ends once the supply is good, RESET_N is high and a software reset's hold is over. -/
def State.tryLeave (s : State) : State :=
  let p := s.power
  if p.held && p.pwrgd && p.resetN && !p.soft then s.leaveReset else s

/-- A write of CLK_RESET (R483). -/
def State.clkReset (s : State) (v : Word) : State :=
  if fget v 15 8 = 0xD1 then
    let t := s.fullReset 2 (fget v 0 0 = 1)
    { t with power := { t.power with soft := true } }
  else s.clkReject

/-- RESET_N falls; `memhold` is the level of MEMHOLD_N, and low retains. A hold already running is only lengthened. -/
def State.resetFall (s : State) (memhold : Bool) : State :=
  if !s.power.resetN then s
  else
    let s := if s.power.held then s else s.fullReset 1 (!memhold)
    { s with power := { s.power with resetN := false } }

/-- The 1 ms hold of a software reset ends. -/
def State.resetHoldEnd (s : State) : State :=
  if s.power.soft then { s with power := { s.power with soft := false } }.tryLeave else s

/-- RESET_N rises: the straps SPLIT are sampled, and the hold may end (R389, R486, R497). -/
def State.resetRise (s : State) (split : Nat) : State :=
  if s.power.resetN then s
  else { s with fuses := { s.fuses with split }, power := { s.power with resetN := true } }.tryLeave

/-- A stack is left out, and Siolo logs it as an ALARM (R262). -/
def State.stackDown (s : State) (c : Nat) : State := (s.setFld (Reg.MEM_STK_STATUS c) 0 0 0).post slotSiolo 0x0306 3 c

/-- A stack returns to service or is left out. -/
def State.stackBack (good : Bool) (s : State) (c : Nat) : State :=
  let s := if good then s.setFld (Reg.MEM_STK_STATUS c) 0 0 1 else s.stackDown c
  { s with power := { s.power with awaited := setBits s.power.awaited c c 0, selfRef := setBits s.power.selfRef c c 0 } }

/-- SELF_REFRESH_EXIT: retained stacks return to service, but those of `bad` (R486). -/
def State.selfRefreshExit (s : State) (bad : Nat) : State :=
  if s.power.held then s
  else ((setBitList 24 s.power.selfRef).foldl (fun s c => State.stackBack (!bit bad c) s c) s).applyBegin

/-- STACK_TRAINING_DONE for stack c. A boot load that waits for the stacks goes on with its apply step (R486). -/
def State.trainingDone (s : State) (c : Nat) (good : Bool) : State :=
  if !s.power.held && bit s.power.awaited c && !bit s.power.selfRef c then (State.stackBack good s c).applyBegin else s

/-! ## Power (R480–R482, R501) -/

/-- The main rails ramp where all they ask for holds. -/
def State.tryMains (s : State) : State :=
  let p := s.power
  if p.standby && p.pwrEn && !p.overHigh && !p.inLow && p.overCycle == 2 then { s with power := { p with mains := true } } else s

/-- The main rails fall: the reset sequence without retention runs first where the logic is not yet held; stacked-memory
contents are lost. -/
def State.powerDown (s : State) : State :=
  let t := if s.power.held then s.resetMem false else s.fullReset 0 false
  let t := ((t.setFld Reg.CLK_RESET_CAUSE 1 0 0).setFld Reg.CLK_RESET_CAUSE 23 8 0).setFld Reg.CLK_RESET_CAUSE 7 7 0
  { t with power := { t.power with mains := false, pwrgd := false, held := true, soft := false, selfRef := 0 } }

/-- STANDBY_POWER: rail 0 is within its limits. The straps PMB_ADDR are sampled once, as the standby rails come up (R497). -/
def State.standbyPower (s : State) (pmbAddr : Nat) : State :=
  let s := if s.power.standby then s else { s.setReg Reg.CLK_TIME 0 with fuses := { s.fuses with pmbAddr } }
  { s with power := { s.power with standby := true, overHigh := false, inLow := false } }.tryMains

def State.pwrEnRise (s : State) : State :=
  let p := s.power
  { s with power := { p with pwrEn := true, overCycle := if p.overCycle = 1 then 2 else p.overCycle } }.tryMains

/-- PWRGD: the main rails are in regulation. -/
def State.powerGood (s : State) : State :=
  if s.power.mains then { s with power := { s.power with pwrgd := true } }.tryLeave else s

def State.pwrEnFall (s : State) : State :=
  let p := s.power
  { s with power := { p with pwrEn := false, overCycle := if p.overCycle = 0 then 1 else p.overCycle } }.powerDown

/-- INPUT_UNDERVOLTAGE: rail 0 has stayed below 44 V; the main rails stay off until it is back in its limits (R482, R501). -/
def State.undervoltage (s : State) : State :=
  let s := s.powerDown
  { s with power := { s.power with inLow := true } }

/-- INPUT_OVERVOLTAGE: the main rails stay off until rail 0 is back and PWR_EN has fallen and risen again. -/
def State.overvoltage (s : State) : State :=
  let s := s.powerDown
  { s with power := { s.power with overHigh := true, overCycle := 0 } }

/-- A thermal trip is cleared, and THERMTRIP_N released (R482). -/
def State.endTrip (s : State) : State :=
  if s.thermtripLow then (s.setFld Reg.SIO_STATUS 2 2 0).emit (.thermtrip false) else s

/-- STANDBY_LOSS: the counter, the trip and what the standby logic held are lost. -/
def State.standbyLoss (s : State) : State :=
  let s := (s.powerDown.setReg Reg.CLK_TIME 0).endTrip
  { s with pmb := 0, i3c := none, i3cHeld := none, loops := {}, power := { s.power with standby := false } }

/-- THERMAL_TRIP_CLEAR: PWR_EN has stayed low for 10 ms. -/
def State.tripClear (s : State) : State := if s.power.pwrEn then s else s.endTrip

/-! ## Configuration requests (R486) -/

/-- Whether the firmware has been loaded since the last full reset. -/
def State.firmwareLoaded (s : State) : Bool :=
  match s.boot with
  | .off | .header false | .body false | .recovery false => false
  | _ => true

/-- What a host reads of its function's identity: vendor 0x4C52 and device 0x0024, and class code 0x12_0000 (R390). -/
def cfgData : CfgReq → Option Nat
  | .vendorDevice => some 0x00244C52
  | .classCode => some 0x120000
  | _ => none

/-- A host's configuration request (R390, R405, R486). -/
def State.configRequest (s : State) (h : Nat) (req : CfgReq) : State :=
  if !s.hostExists h then s
  else if !s.firmwareLoaded then s.emit (.cfgReply h true none)
  else
    let s := match req with
      | .msixEnable b => s.setFld (Reg.HST_HOST_STATUS h) 2 2 (if b then 1 else 0)
      | _ => s
    s.emit (.cfgReply h false (cfgData req))

end Sys2Proof.Machine
end

