-- ==== Sys2Proof/Machine/Resume.lean ====
section
/-! DEFINITION. How waiting work goes on: parked records run again once the outside world has answered (R398, R402), when
the tile interlock releases them (R155) or when a slot hold ends (R202); and the hosts' answers themselves (R390, R402,
R403, R398). -/

namespace Sys2Proof.Machine

/-- The meaning of each record opcode that runs from its issue; those of the haul lines, the update line and the reduction
lines go on through their engines. -/
def runOf (op : Nat) : Option (Ctx → State → State × Phase) :=
  match op with
  | 0x00 => some runNop | 0x01 => some runBelay | 0x02 => some runSignal | 0x03 => some runWait
  | 0x04 => some runPut | 0x06 => some runStep
  | 0x10 => some runMload | 0x11 => some runMma | 0x12 => some runMloadi
  | 0x20 => some runTzero | 0x21 => some runTload | 0x22 => some runTcombine | 0x23 => some runTstore
  | 0x24 => some runTreduce
  | 0x30 => some runVset | 0x31 => some runVop | 0x32 => some runVreduce | 0x33 => some runEmload
  | 0x34 => some runEmrun
  | 0x40 => some runActx | 0x41 => some runAsoft | 0x42 => some runAfold | 0x43 => some runAdelta
  | 0x44 => some runAback | 0x45 => some runKvmap | 0x46 => some runKvput | 0x47 => some runKvmass
  | 0x48 => some runKvtrim | 0x49 => some runRank
  | 0x50 => some runHctx | 0x52 => some runWfill | 0x53 => some runWrel | 0x54 => some runPorter
  | 0x71 => some runLrepair
  | _ => none

/-- Run one parked record again, for a reason that has ended. -/
def State.rerunOne (q : Nat) (why : Park) (env : Env) (s : State) (i : Issued) : State :=
  match runOf i.item.op with
  | some run => s.rerun q i.item.num why env run
  | none => s

/-- Run again every record that waited for memory and waits no longer, queue by queue. -/
def State.rerunParked (env : Env) (s : State) : State :=
  s.queues.foldl (fun s e =>
    e.2.issued.foldl (fun s i =>
      if i.phase = .parked .memory ∧ ¬ s.tokenWaits (Tok.record e.1 i.item.num) then State.rerunOne e.1 .memory env s i else s) s) s

/-- Records of some units of core n that have not begun: each, in issue order, begins if nothing it waits for is left. -/
def State.pathOn (s : State) (kinds : List MxKind) (n : Nat) (env : Env) : State :=
  (s.mat n).ops.foldl (fun s o =>
    if kinds.contains o.kind then
      match s.issuedAt o.q o.num with
      | some ⟨r, .parked why⟩ => if (Phase.parked why).waits then State.rerunOne o.q why env s ⟨r, .parked why⟩ else s
      | _ => s
    else s) s

/-- The units that begin their next record as soon as they are free: all but the accumulator unit. -/
def State.unitsOn (s : State) (env : Env) : State :=
  s.mats.foldl (fun s e => s.pathOn [.vec, .att, .walk, .rank, .porter] e.1 env) s

/-- What follows an event that lets records begin: the units go on, but after a trip (R65, R108, R420). -/
def State.freed (s : State) (env : Env) : State := if s.tripped then s else s.unitsOn env

/-- The engines go on; after a thermal or overcurrent trip none issues (R420, R422). -/
def State.enginesOn (s : State) (env : Env) : State :=
  if s.tripped then s else (((((s.rerunParked env).unitsOn env).haulOn env).updOn env).snapOn env).linkOn env

/-- The cancels whose completion waited for an answer end. -/
def State.cancelsOn (s : State) (env : Env) : State :=
  s.queues.foldl (fun s e => if s.tokenWaits (Tok.queue e.1) then s else s.cancelEnd e.1 env) s

/-- Everything that waited for an answer goes on: held accesses of hosts, cancels, the engines, and an apply step that waited for
the log's ring writes (R430). -/
def State.wake (s : State) (env : Env) : State := ((s.retryHosts.cancelsOn env).enginesOn env).applyBegin

/-! ## Answers of the hosts -/

/-- A need of a snoop of a line at a host. -/
def isSnoop (h line : Nat) (inv : Bool) (n : Need) : Bool := decide (n = .snoop h line inv)

/-- SNOOP_RESPONSE: no copy, or the line's dirty data, in answer to a snoop or to the recall of a line (R402, R404). -/
def State.snoopResponse (s : State) (h line : Nat) (inv : Bool) (dirty : Option (List Byte)) (env : Env) : State :=
  match s.waiting (isSnoop h line inv) with
  | some x => (((s.dirtyBack h line (dirty.getD []) env).answer x .clean).wake env)
  | none => if s.recallWaits h line then s.recallAnswer h line (dirty.getD []) env else s

/-- A host has not answered about a line: the host and the line's address are logged (R403, R416). -/
def State.snoopLate (s : State) (h line : Nat) : State :=
  (s.raise (Reg.HST_HOST_EVENT h) 4 (Reg.HST_HOST_EVENT_CNT1 h) 0).post (slotHost h) 0x0802 2 (h + line % 2 ^ 52 * 2 ^ 16)

/-- SNOOP_TIMEOUT: a host that has not answered a snoop, or the recall of a line, is taken to hold no copy (R403). -/
def State.snoopTimeout (s : State) (h line : Nat) (inv : Bool) (env : Env) : State :=
  match s.waiting (isSnoop h line inv) with
  | some x => ((s.snoopLate h line).answer x .clean).wake env
  | none => if s.recallWaits h line then (s.snoopLate h line).recallAnswer h line [] env else s

/-- A need of a spill read request that begins at an address. -/
def isSpill (a : Nat) : Need → Bool
  | .spill b _ => a == b
  | _ => false

/-- SPILL_COMPLETION: the data of one read request, or an error or poisoned completion (R398). -/
def State.spillCompletion (s : State) (a : Nat) (data : Option (List Byte)) (env : Env) : State :=
  match s.waiting (isSpill a) with
  | some x =>
    match data with
    | some b => (s.answer x (.data b)).wake env
    | none => ((s.spillEvent ((a - spillBase 0) / 0x10000000000) a true).answer x .error).wake env
  | none => s

/-- SPILL_TIMEOUT (R398). -/
def State.spillTimeout (s : State) (a : Nat) (env : Env) : State :=
  match s.waiting (isSpill a) with
  | some x => ((s.spillEvent ((a - spillBase 0) / 0x10000000000) a false).answer x .late).wake env
  | none => s

/-! ## Releases -/

/-- INTERLOCK_RELEASE: the accumulator records of a core that wait, in issue order, proceed as far as nothing they wait for is
left (R155). -/
def State.interlockRelease (s : State) (n : Nat) (env : Env) : State := s.pathOn [.acc] n env

/-- SLOT_HOLD_END: the vector records of a core that wait, an EMLOAD behind a TSTORE that named its slot among them, go on
(R202). -/
def State.slotHoldEnd (s : State) (n : Nat) (env : Env) : State := s.pathOn [.vec] n env

end Sys2Proof.Machine
end

