-- ==== Sys2Proof/Machine/Views.lean ====
section
/-! DEFINITION. What a read of a register returns (R7, R11): registers that report other state are computed from it, every
other one returns its stored value, and WO bits read zero. -/

namespace Sys2Proof.Machine

/-- The index of the element at a distance from its row's base, by dimension. -/
def regIndex (base stride off : Nat) : Nat := (off - base) / stride

/-- The state of 16 pages of stacked memory in HST_BIAS_MAP[w]. -/
def State.biasMap (s : State) (w : Nat) : Word :=
  BitVec.ofNat 64 (((List.range 16).map (fun k => mget 0 s.bias (16 * w + k) * 2 ^ (2 * k))).foldl (· + ·) 0)

/-- ME_SPARE (R148, R149): the fuses' spare rows and columns; columns 64 and 65 and rows 64 and 65 where they say nothing. -/
def State.spareReg (s : State) (n : Nat) : Word :=
  BitVec.ofNat 64 (mget (65 * 2 ^ 21 + 64 * 2 ^ 14 + 65 * 2 ^ 7 + 64) s.fuses.spare n)

/-- CQ_CQ_TAIL. -/
def State.cqTailReg (s : State) (q : Nat) : Word := BitVec.ofNat 64 ((s.queue q).phase * 2 ^ 16 + (s.queue q).cqTail)

/-- The views of the SYS_, RTE_, CQ_, ME_, ACC_ and VE_ blocks. -/
def State.viewCore (s : State) (base off : Nat) : Option Word :=
  if base = Reg.SYS_CORE_SITE 0 then some (coreSiteReg s.fuses (regIndex base 4 off))
  else if base = Reg.SYS_CORE_OFF then some (coreOffReg s.fuses)
  else if base = Reg.RTE_STATUS then some s.rteStatus
  else if base = Reg.CQ_SQ_STATUS 0 then some (queueStatus (s.queue (regIndex base 4096 off)))
  else if base = Reg.CQ_CQ_TAIL 0 then some (s.cqTailReg (regIndex base 4096 off))
  else if base = Reg.CQ_FLUSH 0 then some (BitVec.ofNat 64 (s.queue (regIndex base 4096 off)).flushCount)
  else if base = Reg.CQ_ANCHOR 0 then some ((s.anchor (regIndex base 4 off)).zeroExtend 64)
  else if base = Reg.ME_MODE 0 then some (s.meMode (regIndex base 4096 off))
  else if base = Reg.ME_SPARE 0 then some (s.spareReg (regIndex base 4096 off))
  else if base = Reg.ME_STATUS 0 then some (s.meStatus (regIndex base 4096 off) 0)
  else if base = Reg.ME_STATUS_H1 0 then some (s.meStatus (regIndex base 4096 off) 1)
  else if base = Reg.ACC_TAGS 0 then some (s.accTags (regIndex base 4096 off))
  else if base = Reg.ACC_BUSY 0 then some (s.accBusy (regIndex base 4096 off))
  else if base = Reg.ACC_CFG 0 then some (BitVec.ofNat 64 (s.image.promoCode (regIndex base 4096 off)))
  else if base = Reg.VE_STATUS 0 then some (s.veStatus (regIndex base 4096 off))
  else if base = Reg.VE_SLOTS 0 then some (s.veSlots (regIndex base 4096 off))
  else if base = Reg.VE_SLOT_INFO 0 0 then some (s.veSlotInfo (regIndex base 4096 off) ((off - base) % 4096 / 4))
  else none

/-- The views of the ATT_, MEM_, HAUL_, UPD_, LNK_ and HST_ blocks. -/
def State.viewMemory (s : State) (base off : Nat) : Option Word :=
  if base = Reg.ATT_STATUS 0 then some (s.attStatus (regIndex base 4096 off))
  else if base = Reg.ATT_KV_STATUS 0 then some (s.kvStatus (regIndex base 256 off))
  else if base = Reg.MEM_SEAL_STATUS then some s.sealStatus
  else if base = Reg.MEM_SPILL_SEAL 0 0 then some (s.spillSealWord (regIndex base 128 off) ((off - base) % 128 / 8))
  else if base = Reg.MEM_SEAL_MAP 0 then some (s.sealMap (regIndex base 4 off))
  else if base = Reg.HAUL_STATUS 0 then some (s.haulStatus (regIndex base 4096 off))
  else if base = Reg.HAUL_LPOOL_STATUS 0 then some (s.poolStatus (64 + regIndex base 4096 off))
  else if base = Reg.HAUL_SPOOL 0 then some (s.spoolStatus (regIndex base 8 off))
  else if base = Reg.HAUL_CTX 0 0 then some (s.haulCtxWord (regIndex base 4096 off) ((off - base) % 4096 / 8))
  else if base = Reg.UPD_STATUS then some s.updStatus
  else if base = Reg.UPD_CURSOR then some s.updCursor
  else if base = Reg.UPD_RULE_INFO 0 then some (s.ruleInfo (regIndex base 4 off))
  else if base = Reg.LNK_PARTY_STATUS 0 then some (s.partyStatus (regIndex base 256 off))
  else if base = Reg.HST_PORT_STATUS 0 then some (if bit s.fuses.split (regIndex base 8 off) then 1 else 0)
  else if base = Reg.HST_BIAS_MAP 0 then some (s.biasMap (regIndex base 4 off))
  else none

/-- The views of the SIO_ and SEC_ blocks. -/
def State.viewSiolo (s : State) (base off : Nat) : Option Word :=
  if base = Reg.SIO_OC_LIMIT 0 then some (BitVec.ofNat 64 (s.ocLimitOf (regIndex base 4 off)))
  else if base = Reg.SIO_TEMP 0 then some (BitVec.ofNat 64 (s.readingWord 0 (regIndex base 4 off)))
  else if base = Reg.SIO_VOLT 0 then some (BitVec.ofNat 64 (s.readingWord 1 (regIndex base 4 off)))
  else if base = Reg.SIO_CURR 0 then some (BitVec.ofNat 64 (s.readingWord 2 (regIndex base 4 off)))
  else if base = Reg.SIO_COOLANT 0 then some (BitVec.ofNat 64 (s.readingWord 3 (regIndex base 4 off)))
  else if base = Reg.SIO_ALARM_REC 0 0 then
    some (BitVec.ofNat 64 (leAt (alarmBytes (mget none s.log.alarms (regIndex base 64 off))) ((off - base) % 64) 8))
  else if base = Reg.SIO_ALARM_STATE 0 then some (BitVec.ofNat 64 (alarmState (mget none s.log.alarms (regIndex base 64 off))))
  else if base = Reg.SEC_STATUS then some s.secStatus
  else if base = Reg.SEC_ROOT 0 then some (BitVec.ofNat 64 (s.fuses.root.getD (regIndex base 8 off) 0))
  else none

/-- The value a read of the register at an offset returns. -/
def State.view (s : State) (off : Nat) : Word :=
  match findReg off with
  | none => 0
  | some r =>
    match ((s.viewCore r.base off).orElse (fun _ => s.viewMemory r.base off)).orElse (fun _ => s.viewSiolo r.base off) with
    | some v => v
    | none => readFields r.fields (s.reg off)

/-! ## 32-bit reads (R11, R12) -/

/-- The low and the high half of a register word. -/
def lowHalf (v : Word) : Nat := v.toNat % 2 ^ 32
def highHalf (v : Word) : Nat := v.toNat / 2 ^ 32

/-- A read that R12 counts returns zero. -/
def State.badRead (s : State) (who : Requester) (off : Nat) : State :=
  ((s.endLatch who).unmapped who off).emit (.regRead who off 0)

/-- A 32-bit read at an offset: of a low half, which latches the high half; of a high half, from the latch where the
requester holds one; or of a 32-bit register. -/
def State.read32 (s : State) (who : Requester) (off : Nat) : State :=
  if s.noHostReg off ∨ off % 4 ≠ 0 then s.badRead who off
  else
    match findReg off with
    | some r =>
      if r.base = Reg.MBX_DN_TAKE 0 then s.mbxTake who (regIndex r.base 4096 off) false
      else if r.base = Reg.MBX_UP_TAKE 0 then s.mbxTake who (regIndex r.base 4096 off) true
      else if r.width = 64 then
        (s.setPort who { s.port who with latch := some (off, BitVec.ofNat 32 (highHalf (s.view off))) }).emit
          (.regRead who off (lowHalf (s.view off)))
      else (s.endLatch who).emit (.regRead who off (lowHalf (s.view off)))
    | none =>
      match findReg (off - 4) with
      | some r =>
        if 4 ≤ off ∧ r.width = 64 ∧ (off - 4) % 8 = 0 then
          let v := match (s.port who).latch with
            | some (o, h) => if o = off - 4 then h.toNat else highHalf (s.view (off - 4))
            | none => highHalf (s.view (off - 4))
          (s.endLatch who).emit (.regRead who off v)
        else s.badRead who off
      | none => s.badRead who off

/-- An access that is unmapped or ill-formed under R11: `size` bytes, a write or a read. -/
def illFormed (size off : Nat) : Bool :=
  match findReg off with
  | some r => if size = 8 then r.width != 64 else size != 4
  | none =>
    match findReg (off - 4) with
    | some r => !(size == 4 && decide (4 ≤ off ∧ (off - 4) % 8 = 0) && r.width == 64)
    | none => true

/-- A single 64-bit read of a 64-bit register at its own offset: it returns the whole value and ends the requester's latch
(R11). -/
def State.read64 (s : State) (who : Requester) (off : Nat) : State :=
  (s.endLatch who).emit (.regRead who off (s.view off).toNat)

/-- UNMAPPED_ACCESS: an access of `size` bytes that R12 counts. A read that is well formed and reaches a register is that
read; such a write brings no value and is left to its own command. -/
def State.badAccess (s : State) (who : Requester) (off size : Nat) (write : Bool) : State :=
  if illFormed size off ∨ s.noHostReg off then
    if write then (s.setPort who {}).unmapped who off else s.badRead who off
  else if write then s
  else if size = 8 then s.read64 who off
  else s.read32 who off

end Sys2Proof.Machine
end

