-- ==== Sys2Proof/Machine/RegWrite.lean ====
section
/-! DEFINITION. What a software write of a register does beside storing its fields (R7, R11): each register whose write acts
has its effect here, by block. -/

namespace Sys2Proof.Machine

/-- How many of the low `n` bits of a write are set: the action bits of R508. -/
def actionBits (n : Nat) (v : Word) : Nat := popCount n (v.toNat % 2 ^ n)

/-- A write of RTE_CTRL (R65, R67, R68, R508). RESUME lets records begin. -/
def State.rteCtrl (s : State) (v : Word) (env : Env) : State :=
  if actionBits 3 v = 0 then s
  else if actionBits 3 v ≠ 1 then s.rteReject
  else if fget v 0 0 = 1 then s.quiesce env
  else if fget v 1 1 = 1 then s.loadWrite
  else if s.mayResume then (s.resume env).freed env
  else s.resume env

/-- A write of CQ_SQ_CTRL (R83, R114, R508). A cancel lets records behind those it discards begin. -/
def State.sqCtrl (s : State) (q : Nat) (v : Word) (env : Env) : State :=
  if actionBits 3 v = 0 then s
  else if actionBits 3 v ≠ 1 then s.queueReject q
  else if fget v 0 0 = 1 then s.queueOn q
  else if fget v 1 1 = 1 then s.queueOff q
  else if s.cancelAllowed q then (s.cancel q env).freed env
  else s.cancel q env

/-- A write of ATT_KV_CTRL (R229, R508). -/
def State.kvCtrl (s : State) (r : Nat) (v : Word) : State :=
  if actionBits 2 v = 0 then s
  else if actionBits 2 v ≠ 1 then s.kvFlag r 4
  else if fget v 0 0 = 1 then s.kvInit r
  else s.kvDisable r

/-- The RTE_ and CQ_ blocks. -/
def State.effectQueues (s : State) (base off : Nat) (v : Word) (env : Env) : Option State :=
  if base = Reg.RTE_CTRL then some (s.rteCtrl v env)
  else if base = Reg.CQ_SQ_CTRL 0 then some (s.sqCtrl (regIndex base 4096 off) v env)
  else if base = Reg.CQ_SQ_BASE 0 ∨ base = Reg.CQ_SQ_CFG 0 ∨ base = Reg.CQ_CQ_BASE 0 ∨ base = Reg.CQ_CQ_CFG 0
      ∨ base = Reg.CQ_FLUSH_ADDR 0 then some (s.queueConfig (regIndex base 4096 off) off v)
  else if base = Reg.CQ_DOORBELL 0 then some (s.doorbell (regIndex base 4096 off) v)
  else if base = Reg.CQ_CQ_HEAD 0 then some (s.cqHead (regIndex base 4096 off) v)
  else if base = Reg.CQ_ANCHOR 0 then some (s.anchorOp (regIndex base 4 off) true (v.truncate 32))
  else if base = Reg.CQ_ANCHOR_ADD 0 then some (s.anchorOp (regIndex base 4 off) false (v.truncate 32))
  else none

/-- The ATT_, MEM_, HAUL_, UPD_ and LNK_ blocks. -/
def State.effectEngines (s : State) (base off : Nat) (v : Word) : Option State :=
  if base = Reg.ATT_KV_CTRL 0 then some (s.kvCtrl (regIndex base 256 off) v)
  else if base = Reg.ATT_KV_CFG 0 ∨ base = Reg.ATT_KV_FT 0 then some (s.kvCfgWrite (regIndex base 256 off) off v)
  else if base = Reg.ATT_LAB_INV 0 then some (s.labInv (regIndex base 256 off) v)
  else if base = Reg.ATT_WALK_CFG then some (s.walkCfgWrite v)
  else if base = Reg.MEM_SEAL_OP then some (s.sealWrite v)
  else if base = Reg.HAUL_LPOOL 0 then some (s.lpoolWrite (regIndex base 4096 off) v)
  else if base = Reg.UPD_SHARD_TBL ∨ base = Reg.UPD_GROUP_TBL ∨ base = Reg.UPD_NORM_TBL ∨ base = Reg.UPD_REC_TBL
      ∨ base = Reg.UPD_DIG_TBL ∨ base = Reg.UPD_SHARD_CNT ∨ base = Reg.UPD_JOURNAL ∨ base = Reg.UPD_NORM_LIMIT then
    some (s.updConfig off v)
  else if base = Reg.LNK_PORT_CTRL 0 then
    let p := regIndex base 4096 off
    let s := if fget v 0 0 = s.fld off 0 0 then s else s.portDisable p (fget v 0 0 = 1)
    some (if fget v 1 1 = 1 then s.portRetrain p else s)
  else if base = Reg.LNK_PARTY_SEQ 0 then some (s.partySeqWrite (regIndex base 256 off) v s.quiesced)
  else if base = Reg.LNK_CFG then
    some ((s.writePlain off v).setFld off 31 16 (max 1 (fget v 31 16)))
  else none

/-- The HST_ and MBX_ blocks. -/
def State.effectHosts (s : State) (base off : Nat) (v : Word) : Option State :=
  if base = Reg.HST_SPILL_CFG 0 then some (s.spillCfg (regIndex base 4096 off) v)
  else if base = Reg.HST_SPILL_SIZE 0 then some (s.spillSizeWrite (regIndex base 4096 off) v)
  else if base = Reg.HST_BIAS_OP then some (s.biasWrite v)
  else if base = Reg.HST_CFG then some (s.setFld off 15 0 (max 10 (fget v 15 0)))
  else if base = Reg.MBX_DN_DATA 0 0 then some (s.mbxWriteData (regIndex base 4096 off) false off v)
  else if base = Reg.MBX_UP_DATA 0 0 then some (s.mbxWriteData (regIndex base 4096 off) true off v)
  else if base = Reg.MBX_DN_POST 0 then some (if fget v 0 0 = 1 then s.mbxPost (regIndex base 4096 off) false else s)
  else if base = Reg.MBX_UP_POST 0 then some (if fget v 0 0 = 1 then s.mbxPost (regIndex base 4096 off) true else s)
  else if base = Reg.MBX_DN_CTRL 0 then
    some (if fget v 0 0 = 1 then s.mbxSetFull (regIndex base 4096 off) false false else s)
  else if base = Reg.MBX_UP_CTRL 0 then
    some (if fget v 0 0 = 1 then s.mbxSetFull (regIndex base 4096 off) true false else s)
  else if base = Reg.MBX_CFG 0 then some ((s.writePlain off v).setFld off 31 16 (max 1 (fget v 31 16)))
  else none

/-- The SIO_, CLK_ and PWR_ blocks. -/
def State.effectSiolo (s : State) (base off : Nat) (v : Word) : Option State :=
  if base = Reg.SIO_THERM_CFG then some (s.thermWrite v)
  else if base = Reg.SIO_OC_LIMIT 0 then some (s.ocWrite (regIndex base 4 off) (fget v 15 0))
  else if base = Reg.SIO_LOG_BASE then some (s.logBase v)
  else if base = Reg.SIO_ALARM_ACK then some (s.ackWrite v)
  else if base = Reg.CLK_CTRL then some (s.clkCtrl v)
  else if base = Reg.CLK_RESET then some (s.clkReset v)
  else if base = Reg.PWR_CAP then some (s.capWrite v)
  else none

/-- What a software write of a value to a register does. -/
def State.regEffect (s : State) (off : Nat) (v : Word) (env : Env) : State :=
  match findReg off with
  | none => s
  | some r =>
    match (((s.effectQueues r.base off v env).orElse (fun _ => s.effectEngines r.base off v)).orElse
        (fun _ => s.effectHosts r.base off v)).orElse (fun _ => s.effectSiolo r.base off v) with
    | some t => t
    | none => s.writePlain off v

/-- The write reaches its register and acts (R11, R12). -/
def State.regDo (s : State) (who : Requester) (off : Nat) (d : WData) (env : Env) : State :=
  let (s, v) := s.accWrite who off d
  match v with
  | some v => s.regEffect off v env
  | none => s

/-- Whether the write of a register itself stores to memory: completions that CQ_CQ_HEAD frees room for, and the records
that SIO_LOG_BASE moves. -/
def writesMemory (off : Nat) : Bool :=
  match findReg off with
  | some r => r.base == Reg.CQ_CQ_HEAD 0 || r.base == Reg.SIO_LOG_BASE
  | none => false

/-- Whether a requester's accesses are held: a host's at its port while the operating point changes, and Siolo's, whose processor
pauses (R478). -/
def State.portHeld (s : State) (who : Requester) : Bool :=
  match who with
  | .core _ => false
  | _ => s.power.opp.isSome

/-- What a host asks of the device, held at its port while the operating point changes (R478); Siolo, paused, asks nothing. -/
def State.portRun (s t : State) (who : Requester) (op : HeldOp) : State :=
  if s.portHeld who then
    match who with
    | .host _ => { s with heldOps := s.heldOps ++ [op] }
    | _ => s
  else t

/-- Whether a write of CQ_CQ_HEAD has ended a queue's HELD: its held completions have all been written, and its records may begin
(R108). -/
def State.drained (s t : State) (off : Nat) : Bool :=
  match findReg off with
  | some r =>
    let q := regIndex r.base 4096 off
    r.base == Reg.CQ_CQ_HEAD 0 && !(s.queue q).held.isEmpty && (t.queue q).held.isEmpty
  | none => false

/-- A software write of the register at an offset: one 64-bit access, or the 32-bit access that completes it (R11). -/
def State.regWrite (s : State) (who : Requester) (off : Nat) (d : WData) (env : Env) : State :=
  let t := if writesMemory off then s.settle (.req (reqNum who)) env (fun s => s.regDo who off d env) else s.regDo who off d env
  s.portRun (if s.drained t off then t.freed env else t) who (.write who off d env)

/-- A step of the log's writer with a software write of SIO_LOG_TAIL in the same cycle: where the writer advances TAIL, the
hardware's value is kept (R10, R435). -/
def State.withTail (s t : State) (tail : Option (Requester × Word32)) : State :=
  match tail with
  | none => t
  | some (who, v) =>
    if t.fld Reg.SIO_LOG_TAIL 17 0 = s.fld Reg.SIO_LOG_TAIL 17 0 then t.regWrite who Reg.SIO_LOG_TAIL (.w32 v) {} else t.setPort who {}

/-- A 32-bit write at an offset (R11): of the low half of a 64-bit register, which is held; of a high half, which completes
the write or is counted; or of a 32-bit register. -/
def State.write32 (s : State) (who : Requester) (off : Nat) (v : Word32) : State :=
  match findReg off with
  | some r => if r.width = 64 then s.holdLow who off v else s.regWrite who off (.w32 v) {}
  | none =>
    match findReg (off - 4) with
    | some r => if 4 ≤ off ∧ r.width = 64 then s.regWrite who (off - 4) (.w32 v) {} else s.holdLow who off v
    | none => s.holdLow who off v

/-- A software write of 32 bits to a register. -/
def State.actBit (s : State) (who : Requester) (off i : Nat) (env : Env) : State :=
  s.regWrite who off (.w32 (BitVec.ofNat 32 (2 ^ i))) env

/-! ## The end of a change of the operating point (R478) -/

/-- An access held at a host port is served, in a device that a reset does not hold. -/
def State.serveOp (s : State) (op : HeldOp) : State :=
  if s.power.held then s
  else
    match op with
    | .write who off d env => s.regWrite who off d env
    | .write32 who off v => s.write32 who off v
    | .read32 who off => s.read32 who off
    | .unmapped who off size write => s.badAccess who off size write
    | .take who m up => s.mbxTake who m up
    | .withdraw who m up take => s.mbxWithdraw who m up take
    | .flush who q => s.flushRead who q
    | .memRead h hpa env => s.hostRead h hpa env
    | .memWrite h hpa b env => s.hostWrite h hpa b env
    | .bar4 h off len write env => s.settle (.req (reqNum (.host h))) env (fun s => s.bar4 h off len write)
    | .bar2 h off acc => s.bar2 h off acc
    | .hdm h base size offset => s.hdmCommit h base size offset
    | .snoop h line => s.snoopReply h line
    | .config h req => s.configRequest h req

/-- OPP_DONE: the stacks leave self-refresh under the new point, the held requests are served, those at the stacks' controllers and
those at the host ports, and only then does BUSY clear and EV_CLK_OPP follow (R478 step 4). -/
def State.oppDone (s : State) (env : Env) : State :=
  match s.power.opp with
  | none => s
  | some (o, d) =>
    let s := (s.setFld Reg.CLK_STATUS 1 0 o).setFld Reg.CLK_STATUS 13 8 d
    let s := { s with
      power := { s.power with opp := none }
      outstanding := s.outstanding.filter (fun x => x.2 != Need.hold) }
    let s := s.wake env
    let s := s.heldOps.foldl State.serveOp { s with heldOps := [] }
    if s.power.held then s
    else
      let s := s.setFld Reg.CLK_STATUS 2 2 0
      (s.raise Reg.CLK_EVENT 0 Reg.CLK_EVENT_CNT 0).post slotClock 0x0B00 1 (o + d * 2 ^ 8)

end Sys2Proof.Machine
end

