-- ==== Sys2Proof/WellFormed.lean ====
section
/-! DEFINITION. Well-formed commands: every operand that names a part of the device names one that some T24 has. -/

namespace Sys2Proof

/-- A queue (R79), a core (R22), a control core (R23), a rope (R41), a host (R389), an Aedlink port (R348), a party (R60), a
memory stack (R257), a lane of a port (R348), a mailbox (R410). -/
def queueOk (q : Nat) : Bool := decide (q < 2048)
def coreOk (n : Nat) : Bool := decide (n < 128)
def ccOk (c : Nat) : Bool := decide (c < 16)
def ropeOk (r : Nat) : Bool := decide (r < 16)
def hostOk (h : Nat) : Bool := decide (h < 8)
def portOk (p : Nat) : Bool := decide (p < 18)
def partyOk (k : Nat) : Bool := decide (k < 4)
def stackOk (c : Nat) : Bool := decide (c < 24)
def laneOk (l : Nat) : Bool := decide (l < 4)
def mailboxOk (m : Nat) : Bool := decide (m < 32)

/-- A half of an array (R118), a slot of a submission ring (R81), an anchor (R95), an access to BAR2 (R393), a pool — Store pool
k, or 64 + n for the local pool of core n (R298) —, a source slot and a class of the cairn log (R431, R432). -/
def halfOk (h : Nat) : Bool := decide (h < 2)
def slotOk (i : Nat) : Bool := decide (i < 65536)
def anchorOk (a : Nat) : Bool := decide (a < 4096)
def bar2Ok (off : Nat) : Bar2Acc → Bool
  | .read true | .write (.w64 _) => decide (off < 0x10000) && off % 8 == 0
  | .read false | .write (.w32 _) => decide (off < 0x10000) && off % 4 == 0
def poolOk (k : Nat) : Bool := decide (k < 192)
def sourceOk (x : Nat) : Bool := decide (x < 256)
def classOk (c : Nat) : Bool := decide (c < 4)

/-- A requester of register space (R11, R23). -/
def requesterOk : Requester → Bool
  | .host h => hostOk h
  | .core c => ccOk c
  | .siolo => true

/-- What carries an MCTP message (R443). -/
def viaOk : Via → Bool
  | .i3c => true
  | .vdm h => hostOk h

/-- A write of SIO_LOG_TAIL in the cycle of a log write (R435). -/
def tailOk : Option (Requester × Word32) → Bool
  | some x => requesterOk x.1
  | none => true

/-- A channel: a message that arrives on a bus has a header and at most 15 words (R414, R462). -/
def chanOk : Chan → Bool
  | .mbx m => mailboxOk m
  | .mctp via msg => viaOk via && decide (1 ≤ msg.length ∧ msg.length ≤ 16)
  | .i3c msg => decide (1 ≤ msg.length ∧ msg.length ≤ 16)

/-- Every part that a command names is one the device can have. -/
def Instr.wf : Instr → Bool
  | .registerWrite who _ _ _ => requesterOk who
  | .splitLowWrite who _ _ => requesterOk who
  | .splitLowRead who _ => requesterOk who
  | .unmappedAccess who _ _ _ => requesterOk who
  | .quiesce who _ => requesterOk who
  | .quiesced => true
  | .loadImage who _ => requesterOk who
  | .headerReadDone _ _ => true
  | .bodyFetchDone _ _ => true
  | .fieldChecksDone => true
  | .rteApplyHoldEnd _ => true
  | .rteApplyDone => true
  | .resume who _ => requesterOk who
  | .queueOn who q => requesterOk who && queueOk q
  | .queueOff who q => requesterOk who && queueOk q
  | .cancel who q _ => requesterOk who && queueOk q
  | .doorbell who q _ => requesterOk who && queueOk q
  | .recordFetch q _ => queueOk q
  | .sealReread q _ => queueOk q
  | .nop q _ => queueOk q
  | .belay q _ => queueOk q
  | .belayEnd q => queueOk q
  | .signal q _ => queueOk q
  | .signalTakesEffect q => queueOk q
  | .anchorOp a => anchorOk a
  | .anchorSet who a _ => requesterOk who && anchorOk a
  | .anchorAdd who a _ => requesterOk who && anchorOk a
  | .wait q _ => queueOk q
  | .waitSatisfied q => queueOk q
  | .waitTimeout q => queueOk q
  | .put q _ => queueOk q
  | .step q _ => queueOk q
  | .recordEnd q slot _ => queueOk q && slotOk slot
  | .cqHeadWrite who q _ _ => requesterOk who && queueOk q
  | .flushRead who q => requesterOk who && queueOk q
  | .flushLineRead h _ _ => hostOk h
  | .mload q _ => queueOk q
  | .mloadi q _ => queueOk q
  | .mma q _ => queueOk q
  | .loadComplete n half => coreOk n && halfOk half
  | .mmaFirstRowEntry n half _ _ _ => coreOk n && halfOk half
  | .tzero q _ => queueOk q
  | .tload q _ => queueOk q
  | .tcombine q _ => queueOk q
  | .tstore q _ => queueOk q
  | .treduce q _ => queueOk q
  | .interlockRelease n _ => coreOk n
  | .vset q _ => queueOk q
  | .vop q _ => queueOk q
  | .vreduce q _ => queueOk q
  | .emload q _ => queueOk q
  | .emrun q _ => queueOk q
  | .slotHoldEnd n _ => coreOk n
  | .actx q _ => queueOk q
  | .asoft q _ => queueOk q
  | .afold q _ => queueOk q
  | .adelta q _ => queueOk q
  | .aback q _ => queueOk q
  | .kvmap q _ => queueOk q
  | .kvput q _ => queueOk q
  | .kvmass q _ => queueOk q
  | .kvtrim q _ => queueOk q
  | .rank q _ => queueOk q
  | .lookup cc _ => ccOk cc
  | .allocate cc _ => ccOk cc
  | .descriptorArrival n _ => coreOk n
  | .kvWalkTimeout n _ _ => coreOk n
  | .missResend n => coreOk n
  | .keeperUpdate r _ => ropeOk r
  | .evictionStart r _ => ropeOk r
  | .evictionDone r _ => ropeOk r
  | .kvInit who r => requesterOk who && ropeOk r
  | .initDone r _ => ropeOk r
  | .kvDisable who r => requesterOk who && ropeOk r
  | .disableDone r => ropeOk r
  | .labInv who r _ => requesterOk who && ropeOk r
  | .invDone r => ropeOk r
  | .sealPages who _ _ => requesterOk who
  | .sealDone => true
  | .unsealPages who _ _ => requesterOk who
  | .unsealDone => true
  | .spillSeal who _ _ _ _ => requesterOk who
  | .spillUnseal who _ _ => requesterOk who
  | .memTimeout _ _ _ _ => true
  | .lateAnswer c => stackOk c
  | .ceIntervalEnd => true
  | .patrolScrub _ _ => true
  | .refModeApply => true
  | .bwIntervalEnd => true
  | .ecsRead _ => true
  | .hctx q _ => queueOk q
  | .hcopy q _ => queueOk q
  | .wfill q _ => queueOk q
  | .prefetch q slot _ => queueOk q && slotOk slot
  | .wrel q _ => queueOk q
  | .wrelRelease q _ => queueOk q
  | .porter q _ => queueOk q
  | .stallWatch k _ => poolOk k
  | .unorm q _ => queueOk q
  | .usweep q _ => queueOk q
  | .shardBegin _ => true
  | .chunkCommit _ => true
  | .shardEnd _ => true
  | .urule q _ => queueOk q
  | .usnap q _ => queueOk q
  | .portUp p => portOk p
  | .portDown p lane => portOk p && laneOk lane
  | .retrain who p => requesterOk who && portOk p
  | .dataBlock p _ _ _ => portOk p
  | .controlBlock p _ => portOk p
  | .helloTimer => true
  | .hello p _ _ => portOk p
  | .rsdata p _ _ => portOk p
  | .agdata p _ _ => portOk p
  | .tail p _ _ => portOk p
  | .signalFrame p _ _ => portOk p
  | .putFrame p _ _ _ => portOk p
  | .rreq p _ _ => portOk p
  | .repairSourceStart k _ => partyOk k
  | .rdata p _ _ _ => portOk p
  | .ackFrame p _ _ => portOk p
  | .doneFrame p _ _ => portOk p
  | .ackTimer k _ => partyOk k
  | .retransmitTimer k _ => partyOk k
  | .redTimeout k _ _ _ => partyOk k
  | .lreduce q _ => queueOk q
  | .lrepair q _ => queueOk q
  | .lnkPartySeqWrite who k _ => requesterOk who && partyOk k
  | .hostLinkUp h _ _ => hostOk h
  | .hostFunctionReset h _ _ => hostOk h
  | .hdmCommit h _ _ _ => hostOk h
  | .hostMemRead h _ _ => hostOk h
  | .hostMemWrite h _ _ _ => hostOk h
  | .localWindowAccess h _ _ _ _ => hostOk h
  | .h2dSnoop h _ => hostOk h
  | .snoopResponse h _ _ _ _ => hostOk h
  | .snoopTimeout h _ _ _ => hostOk h
  | .spillEnable who h _ => requesterOk who && hostOk h
  | .spillCompletion _ _ _ => true
  | .spillTimeout _ _ => true
  | .toDevice who _ _ => requesterOk who
  | .biasPageDone _ _ => true
  | .msixUnmask h off acc => hostOk h && bar2Ok off acc
  | .ccHung cc => ccOk cc
  | .mbxPost who m _ => requesterOk who && mailboxOk m
  | .mbxTake who m _ => requesterOk who && mailboxOk m
  | .mbxWithdraw who m _ _ => requesterOk who && mailboxOk m
  | .mbxTimeout m _ => mailboxOk m
  | .ping ch _ => chanOk ch
  | .getCap ch _ => chanOk ch
  | .getFw ch _ => chanOk ch
  | .submit ch _ _ => chanOk ch
  | .alloc ch _ => chanOk ch
  | .free ch _ => chanOk ch
  | .getSensors ch _ => chanOk ch
  | .getLoad ch _ => chanOk ch
  | .getAlarm ch _ => chanOk ch
  | .ackAlarm ch _ => chanOk ch
  | .getSec ch _ => chanOk ch
  | .fwUpdate ch _ _ => chanOk ch
  | .rteStore ch _ _ => chanOk ch
  | .flashRead ch _ => chanOk ch
  | .getMeas ch _ => chanOk ch
  | .measExtend ch _ => chanOk ch
  | .attest ch _ _ _ => chanOk ch
  | .getIdKey ch _ _ => chanOk ch
  | .svnCommit ch _ _ => chanOk ch
  | .rcvBegin ch _ => chanOk ch
  | .rcvData ch _ _ => chanOk ch
  | .rcvEnd ch _ _ => chanOk ch
  | .sessionTimeout => true
  | .flashOpDone _ _ => true
  | .thermSample _ => true
  | .thermtripN => true
  | .ocSample _ => true
  | .damperSample _ _ => true
  | .capMiss => true
  | .sensorReport _ => true
  | .coolantCheck _ _ _ => true
  | .watchdogExpiry => true
  | .lockstepMismatch => true
  | .sioloReloadDone _ => true
  | .loadWindow _ => true
  | .logPost src _ cls _ => sourceOk src && classOk cls
  | .logWrite _ t => tailOk t
  | .logSummary _ t => tailOk t
  | .logEnable who _ _ => requesterOk who
  | .alarmAckEntry who _ => requesterOk who
  | .alarmAckAll who => requesterOk who
  | .clearFaults _ => true
  | .statusWord _ => true
  | .readVin _ => true
  | .readIin _ => true
  | .readTemperature1 _ => true
  | .readTemperature2 _ => true
  | .readPin _ => true
  | .pmbusRevision _ => true
  | .setdasa _ _ => true
  | .entdaa _ => true
  | .mctpControl via => viaOk via
  | .pldmRequest _ via => viaOk via
  | .pldmFirmwareUpdate via _ => viaOk via
  | .bootHeaderRead _ => true
  | .bootBodyRead _ => true
  | .oppApply who _ _ => requesterOk who
  | .oppDone _ => true
  | .clkReset who _ _ => requesterOk who
  | .resetNFall _ => true
  | .resetHoldEnd => true
  | .resetNRise _ _ => true
  | .selfRefreshExit _ => true
  | .stackTrainingDone c _ => stackOk c
  | .standbyPower _ => true
  | .pwrEnRise => true
  | .pwrgd => true
  | .pwrEnFall => true
  | .inputUndervoltage => true
  | .inputOvervoltage => true
  | .standbyLoss => true
  | .stackTemperature c _ => stackOk c
  | .lnkPortDisable who p _ => requesterOk who && portOk p
  | .priorityFlowControl p _ _ => portOk p
  | .pmbusNack _ _ => true
  | .configurationRequest h _ => hostOk h
  | .thermalTripClear => true

end Sys2Proof
end

