-- ==== Sys2Proof/Machine/ExecAttention.lean ====
section
/-! DEFINITION. The meanings of the commands of attention, the KV pools and the Ranker (07_attention_kv_ranker.md). -/

namespace Sys2Proof.Machine

/-- ACTX (R214). -/
def execActx (q : Nat) (env : Env) (s : State) : Host.Outcome State Fault Refusal :=
  part (queueOk q) (s.engine (s.issue q 0x40 env runActx))

/-- ASOFT (R220). -/
def execAsoft (q : Nat) (env : Env) (s : State) : Host.Outcome State Fault Refusal :=
  part (queueOk q) (s.engine (s.issue q 0x41 env runAsoft))

/-- AFOLD (R221). -/
def execAfold (q : Nat) (env : Env) (s : State) : Host.Outcome State Fault Refusal :=
  part (queueOk q) (s.engine (s.issue q 0x42 env runAfold))

/-- ADELTA (R222). -/
def execAdelta (q : Nat) (env : Env) (s : State) : Host.Outcome State Fault Refusal :=
  part (queueOk q) (s.engine (s.issue q 0x43 env runAdelta))

/-- ABACK (R223). -/
def execAback (q : Nat) (env : Env) (s : State) : Host.Outcome State Fault Refusal :=
  part (queueOk q) (s.engine (s.issue q 0x44 env runAback))

/-- KVMAP (R233). -/
def execKvmap (q : Nat) (env : Env) (s : State) : Host.Outcome State Fault Refusal :=
  part (queueOk q) (s.engine (s.issue q 0x45 env runKvmap))

/-- KVPUT (R234). -/
def execKvput (q : Nat) (env : Env) (s : State) : Host.Outcome State Fault Refusal :=
  part (queueOk q) (s.engine (s.issue q 0x46 env runKvput))

/-- KVMASS (R236). -/
def execKvmass (q : Nat) (env : Env) (s : State) : Host.Outcome State Fault Refusal :=
  part (queueOk q) (s.engine (s.issue q 0x47 env runKvmass))

/-- KVTRIM (R240). -/
def execKvtrim (q : Nat) (env : Env) (s : State) : Host.Outcome State Fault Refusal :=
  part (queueOk q) (s.engine (s.issue q 0x48 env runKvtrim))

/-- RANK (R244). -/
def execRank (q : Nat) (env : Env) (s : State) : Host.Outcome State Fault Refusal :=
  part (queueOk q) (s.engine (s.issue q 0x49 env runRank))

/-- LOOKUP (R231). -/
def execLookup (cc : Nat) (env : Env) (s : State) : Host.Outcome State Fault Refusal :=
  part (ccOk cc) (s.run (s.ccLookup cc env))

/-- ALLOCATE (R231). -/
def execAllocate (cc : Nat) (env : Env) (s : State) : Host.Outcome State Fault Refusal :=
  part (ccOk cc) (s.run (s.ccAllocate cc env))

/-- DESCRIPTOR_ARRIVAL (R231). -/
def execDescriptorArrival (n : Nat) (env : Env) (s : State) : Host.Outcome State Fault Refusal :=
  part (coreOk n) (s.engine ((s.descArrive n env).unitsOn env))

/-- KV_WALK_TIMEOUT (R231). -/
def execKvWalkTimeout (n : Nat) (k : Nat) (env : Env) (s : State) : Host.Outcome State Fault Refusal :=
  part (coreOk n) (s.run ((s.walkTimeout n k env).freed env))

/-- MISS_RESEND (R409). -/
def execMissResend (n : Nat) (s : State) : Host.Outcome State Fault Refusal :=
  part (coreOk n) (s.run (s.missResend n))

/-- KEEPER_UPDATE (R236). -/
def execKeeperUpdate (r : Nat) (env : Env) (s : State) : Host.Outcome State Fault Refusal :=
  part (ropeOk r) (s.run ((s.keeperUpdate r env).freed env))

/-- EVICTION_START (R238). -/
def execEvictionStart (r : Nat) (env : Env) (s : State) : Host.Outcome State Fault Refusal :=
  part (ropeOk r) (s.engine ((s.evictStart r env).unitsOn env))

/-- EVICTION_DONE (R239). -/
def execEvictionDone (r : Nat) (env : Env) (s : State) : Host.Outcome State Fault Refusal :=
  part (ropeOk r) (s.run ((s.evictDone r env).freed env))

/-- INIT (R229). -/
def execKvInit (who : Requester) (r : Nat) (s : State) : Host.Outcome State Fault Refusal :=
  part (s.reqExists who && ropeOk r) (s.run (s.actBit who (Reg.ATT_KV_CTRL r) 0 {}))

/-- INIT_DONE (R229). -/
def execInitDone (r : Nat) (env : Env) (s : State) : Host.Outcome State Fault Refusal :=
  part (ropeOk r) (s.run (s.kvInitDone r env))

/-- DISABLE (R229). -/
def execKvDisable (who : Requester) (r : Nat) (s : State) : Host.Outcome State Fault Refusal :=
  part (s.reqExists who && ropeOk r) (s.run (s.actBit who (Reg.ATT_KV_CTRL r) 1 {}))

/-- DISABLE_DONE (R229). -/
def execDisableDone (r : Nat) (s : State) : Host.Outcome State Fault Refusal :=
  part (ropeOk r) (s.run (s.kvDisableDone r))

/-- LAB_INV (R235). -/
def execLabInv (who : Requester) (r : Nat) (d : WData) (s : State) : Host.Outcome State Fault Refusal :=
  part (s.reqExists who && ropeOk r) (s.run (s.regWrite who (Reg.ATT_LAB_INV r) d {}))

/-- INV_DONE (R235). -/
def execInvDone (r : Nat) (s : State) : Host.Outcome State Fault Refusal :=
  part (ropeOk r) (s.run (s.labInvDone r))

end Sys2Proof.Machine
end

