-- ==== Sys2Proof/Machine/ExecHaul.lean ====
section
/-! DEFINITION. The meanings of the commands of the haul engines and PORTER (09_haul_and_porter.md). -/

namespace Sys2Proof.Machine

/-- HCTX (R287). -/
def execHctx (q : Nat) (env : Env) (s : State) : Host.Outcome State Fault Refusal :=
  part (queueOk q) (s.engine ((s.issue q 0x50 env runHctx).haulOn env))

/-- HCOPY (R288). -/
def execHcopy (q : Nat) (env : Env) (s : State) : Host.Outcome State Fault Refusal :=
  part (queueOk q) (s.engine ((s.issue q 0x51 env runHcopy).haulOn env))

/-- WFILL (R298). -/
def execWfill (q : Nat) (env : Env) (s : State) : Host.Outcome State Fault Refusal :=
  part (queueOk q) (s.engine ((s.issue q 0x52 env runWfill).haulOn env))

/-- PREFETCH (R301). -/
def execPrefetch (q : Nat) (slot : Nat) (env : Env) (s : State) : Host.Outcome State Fault Refusal :=
  part (queueOk q && slotOk slot) (s.engine (s.prefetch q slot env))

/-- WREL (R300). -/
def execWrel (q : Nat) (env : Env) (s : State) : Host.Outcome State Fault Refusal :=
  part (queueOk q) (s.engine ((s.issue q 0x53 env runWrel).haulOn env))

/-- WREL_RELEASE (R300). -/
def execWrelRelease (q : Nat) (env : Env) (s : State) : Host.Outcome State Fault Refusal :=
  part (queueOk q) (s.run (s.wrelRelease q env))

/-- PORTER (R307): its core's porter queue takes 32 (R308). -/
def execPorter (q : Nat) (env : Env) (s : State) : Host.Outcome State Fault Refusal :=
  part (queueOk q) (s.engine (if s.porterRoom (s.queueCore q) then s.issue q 0x54 env runPorter else s))

/-- STALL_WATCH (R304). -/
def execStallWatch (k : Nat) (env : Env) (s : State) : Host.Outcome State Fault Refusal :=
  part (poolOk k) (s.run (s.stallWatch k env))

end Sys2Proof.Machine
end

