-- ==== Sys2Proof/Machine/ExecHosts.lean ====
section
/-! DEFINITION. The meanings of the commands of host ports, coherence and spill windows (13_hosts_and_mailboxes.md). -/

namespace Sys2Proof.Machine

/-- HOST_LINK_UP (R391). -/
def execHostLinkUp (h : Nat) (speed : Nat) (width : Nat) (s : State) : Host.Outcome State Fault Refusal :=
  part (s.hostExists h) (s.run (s.hostLinkUp h speed width))

/-- HOST_FUNCTION_RESET (R392). -/
def execHostFunctionReset (h : Nat) (down : Bool) (env : Env) (s : State) : Host.Outcome State Fault Refusal :=
  part (s.hostExists h) (s.run ((s.hostReset h down).wake env))

/-- HDM_COMMIT (R395). -/
def execHdmCommit (h : Nat) (base : Nat) (size : Nat) (offset : Nat) (s : State) : Host.Outcome State Fault Refusal :=
  part (s.hostExists h) (s.run (s.portRun (s.hdmCommit h base size offset) (.host h) (.hdm h base size offset)))

/-- HOST_MEM_READ (R402). -/
def execHostMemRead (h : Nat) (hpa : Nat) (env : Env) (s : State) : Host.Outcome State Fault Refusal :=
  part (s.hostExists h) (s.run (s.portRun (s.hostRead h hpa env) (.host h) (.memRead h hpa env)))

/-- HOST_MEM_WRITE (R396). -/
def execHostMemWrite (h : Nat) (hpa : Nat) (bytes : List Byte) (env : Env) (s : State) :
    Host.Outcome State Fault Refusal :=
  part (s.hostExists h) (s.run (s.portRun (s.hostWrite h hpa bytes env) (.host h) (.memWrite h hpa bytes env)))

/-- LOCAL_WINDOW_ACCESS (R394). -/
def execLocalWindowAccess (h : Nat) (off : Nat) (len : Nat) (write : Option (List Byte)) (env : Env) (s : State) :
    Host.Outcome State Fault Refusal :=
  part (s.hostExists h) (s.run (s.portRun (s.settle (.req (reqNum (.host h))) env (fun s => s.bar4 h off len write)) (.host h)
    (.bar4 h off len write env)))

/-- H2D_SNOOP (R390). -/
def execH2dSnoop (h : Nat) (line : Nat) (s : State) : Host.Outcome State Fault Refusal :=
  part (s.hostExists h) (s.run (s.portRun (s.snoopReply h line) (.host h) (.snoop h line)))

/-- SNOOP_RESPONSE (R402). -/
def execSnoopResponse (h : Nat) (line : Nat) (inv : Bool) (dirty : Option (List Byte)) (env : Env) (s : State) :
    Host.Outcome State Fault Refusal :=
  part (s.hostExists h) (s.run (s.snoopResponse h line inv dirty env))

/-- SNOOP_TIMEOUT (R403). -/
def execSnoopTimeout (h : Nat) (line : Nat) (inv : Bool) (env : Env) (s : State) : Host.Outcome State Fault Refusal :=
  part (s.hostExists h) (s.run (s.snoopTimeout h line inv env))

/-- SPILL_ENABLE (R397). -/
def execSpillEnable (who : Requester) (h : Nat) (base : BitVec 52) (s : State) : Host.Outcome State Fault Refusal :=
  part (s.reqExists who && hostOk h) (s.run (s.regWrite who (Reg.HST_SPILL_CFG h) (.w64 (base ++ (1 : BitVec 12))) {}))

/-- SPILL_COMPLETION (R398). -/
def execSpillCompletion (a : Nat) (data : Option (List Byte)) (env : Env) (s : State) :
    Host.Outcome State Fault Refusal :=
  s.run (s.spillCompletion a data env)

/-- SPILL_TIMEOUT (R398). -/
def execSpillTimeout (a : Nat) (env : Env) (s : State) : Host.Outcome State Fault Refusal :=
  s.run (s.spillTimeout a env)

/-- TO_DEVICE (R404). -/
def execToDevice (who : Requester) (first : BitVec 20) (count : BitVec 20) (s : State) :
    Host.Outcome State Fault Refusal :=
  part (s.reqExists who) (s.run (s.regWrite who Reg.HST_BIAS_OP (.w64 (BitVec.ofNat 64 (2 ^ 62 + count.toNat * 2 ^ 20 + first.toNat))) {}))

/-- BIAS_PAGE_DONE (R404). -/
def execBiasPageDone (dirty : List (Nat × Nat × List Byte)) (env : Env) (s : State) : Host.Outcome State Fault Refusal :=
  s.run ((s.biasPageDone dirty env).wake env)

/-- MSIX_UNMASK: a host's access to its BAR2 (R393, R405). -/
def execMsixUnmask (h : Nat) (off : Nat) (s : State) (acc : Bar2Acc := .write (.w32 0)) : Host.Outcome State Fault Refusal :=
  part (s.hostExists h && bar2Ok off acc) (s.run (s.portRun (s.bar2 h off acc) (.host h) (.bar2 h off acc)))

/-- CC_HUNG (R408). -/
def execCcHung (cc : Nat) (s : State) : Host.Outcome State Fault Refusal :=
  part (ccOk cc) (s.run (s.unpaused (s.ccHung cc)))

end Sys2Proof.Machine
end

