-- ==== Sys2Proof/Machine/ExecLink.lean ====
section
/-! DEFINITION. The meanings of the commands of Aedlink ports, frames and parties (11_aedlink_parties.md). -/

namespace Sys2Proof.Machine

/-- PORT_UP (R353). -/
def execPortUp (p : Nat) (s : State) : Host.Outcome State Fault Refusal :=
  part (portOk p) (s.run (s.portGoesUp p))

/-- PORT_DOWN (R353). -/
def execPortDown (p : Nat) (lane : Nat) (s : State) : Host.Outcome State Fault Refusal :=
  part (portOk p && laneOk lane) (s.run (s.portGoesDown p lane))

/-- RETRAIN (R353). -/
def execRetrain (who : Requester) (p : Nat) (s : State) : Host.Outcome State Fault Refusal :=
  part (s.reqExists who && portOk p) (s.run (s.regWrite who (Reg.LNK_PORT_CTRL p) (.w32 (BitVec.ofNat 32 (2 + s.fld (Reg.LNK_PORT_CTRL p) 0 0))) {}))

/-- DATA_BLOCK (R351). -/
def execDataBlock (p : Nat) (bytes : List Byte) (corrected : Nat) (uncorr : Bool) (s : State) :
    Host.Outcome State Fault Refusal :=
  part (portOk p) (s.run (s.dataBlock p bytes corrected uncorr))

/-- CONTROL_BLOCK (R350). -/
def execControlBlock (p : Nat) (bytes : List Byte) (s : State) : Host.Outcome State Fault Refusal :=
  part (portOk p) (s.run (s.controlBlock p bytes))

/-- HELLO_TIMER (R357). -/
def execHelloTimer (s : State) : Host.Outcome State Fault Refusal :=
  s.run s.helloTimer

/-- HELLO (R359). -/
def execHello (p : Nat) (eth : List Byte) (env : Env) (s : State) : Host.Outcome State Fault Refusal :=
  part (portOk p) (s.run (s.frameIn p 9 eth [] env))

/-- RSDATA (R368). -/
def execRsdata (p : Nat) (eth : List Byte) (env : Env) (s : State) : Host.Outcome State Fault Refusal :=
  part (portOk p) (s.engine (s.frameIn p 0 eth [] env))

/-- AGDATA (R369). -/
def execAgdata (p : Nat) (eth : List Byte) (env : Env) (s : State) : Host.Outcome State Fault Refusal :=
  part (portOk p) (s.engine (s.frameIn p 1 eth [] env))

/-- TAIL (R375). -/
def execTail (p : Nat) (eth : List Byte) (env : Env) (s : State) : Host.Outcome State Fault Refusal :=
  part (portOk p) (s.engine (s.frameIn p 2 eth [] env))

/-- SIGNAL_FRAME (R380). -/
def execSignalFrame (p : Nat) (eth : List Byte) (env : Env) (s : State) : Host.Outcome State Fault Refusal :=
  part (portOk p) (s.run (s.frameIn p 3 eth [] env))

/-- PUT_FRAME (R381). -/
def execPutFrame (p : Nat) (eth : List Byte) (env : Env) (s : State) (bad : List Nat := []) : Host.Outcome State Fault Refusal :=
  part (portOk p) (s.engine (s.frameIn p 4 eth bad env))

/-- RREQ (R379). -/
def execRreq (p : Nat) (eth : List Byte) (env : Env) (s : State) : Host.Outcome State Fault Refusal :=
  part (portOk p) (s.engine (s.frameIn p 5 eth [] env))

/-- REPAIR_SOURCE_START (R379). -/
def execRepairSourceStart (k : Nat) (env : Env) (s : State) : Host.Outcome State Fault Refusal :=
  part (partyOk k) (s.engine (s.repairStart k env))

/-- RDATA (R379). -/
def execRdata (p : Nat) (eth : List Byte) (env : Env) (s : State) (bad : List Nat := []) : Host.Outcome State Fault Refusal :=
  part (portOk p) (s.engine (s.frameIn p 6 eth bad env))

/-- ACK_FRAME (R360). -/
def execAckFrame (p : Nat) (eth : List Byte) (env : Env) (s : State) : Host.Outcome State Fault Refusal :=
  part (portOk p) (s.run (s.frameIn p 7 eth [] env))

/-- DONE_FRAME (R359). -/
def execDoneFrame (p : Nat) (eth : List Byte) (env : Env) (s : State) : Host.Outcome State Fault Refusal :=
  part (portOk p) (s.run (s.frameIn p 8 eth [] env))

/-- ACK_TIMER (R360). -/
def execAckTimer (k : Nat) (m : Nat) (s : State) : Host.Outcome State Fault Refusal :=
  part (partyOk k) (s.run (s.ackTimer k m))

/-- RETRANSMIT_TIMER (R360). -/
def execRetransmitTimer (k : Nat) (m : Nat) (s : State) : Host.Outcome State Fault Refusal :=
  part (partyOk k) (s.run (s.retransmit k m))

/-- RED_TIMEOUT (R371). -/
def execRedTimeout (k : Nat) (m : Nat) (ack : Bool) (env : Env) (s : State) : Host.Outcome State Fault Refusal :=
  part (partyOk k) (s.run (s.redTimeout k m ack env))

/-- LREDUCE (R367). -/
def execLreduce (q : Nat) (env : Env) (s : State) : Host.Outcome State Fault Refusal :=
  part (queueOk q) (s.engine ((s.issue q 0x70 env runLreduce).linkOn env))

/-- LREPAIR (R378). -/
def execLrepair (q : Nat) (env : Env) (s : State) : Host.Outcome State Fault Refusal :=
  part (queueOk q) (s.engine ((s.issue q 0x71 env runLrepair).linkFlush))

/-- LNK_PARTY_SEQ_WRITE (R372). -/
def execLnkPartySeqWrite (who : Requester) (k : Nat) (d : WData) (s : State) : Host.Outcome State Fault Refusal :=
  part (s.reqExists who && partyOk k) (s.run (s.regWrite who (Reg.LNK_PARTY_SEQ k) d {}))

end Sys2Proof.Machine
end

