-- ==== Sys2Proof/Machine/ExecMailboxes.lean ====
section
/-! DEFINITION. The meanings of the commands of mailboxes and the commands their servers answer (13_hosts_and_mailboxes.md,
14_siolo_cairn_log.md, 15_signed_images_identity.md). -/

namespace Sys2Proof.Machine

/-- POST (R411). -/
def execMbxPost (who : Requester) (m : Nat) (up : Bool) (s : State) : Host.Outcome State Fault Refusal :=
  part (s.reqExists who && mailboxOk m) (s.run (s.actBit who (if up then Reg.MBX_UP_POST m else Reg.MBX_DN_POST m) 0 {}))

/-- TAKE (R411). -/
def execMbxTake (who : Requester) (m : Nat) (up : Bool) (s : State) : Host.Outcome State Fault Refusal :=
  part (s.reqExists who && mailboxOk m) (s.run (s.portRun (s.mbxTake who m up) who (.take who m up)))

/-- WITHDRAW (R412). -/
def execMbxWithdraw (who : Requester) (m : Nat) (up : Bool) (take : Option Requester) (s : State) :
    Host.Outcome State Fault Refusal :=
  part (s.reqExists who && mailboxOk m) (s.run (s.portRun (s.mbxWithdraw who m up take) who (.withdraw who m up take)))

/-- MBX_TIMEOUT (R412). -/
def execMbxTimeout (m : Nat) (up : Bool) (s : State) : Host.Outcome State Fault Refusal :=
  part (mailboxOk m) (s.run (s.mbxTimeout m up))

/-- PING (R415). -/
def execPing (ch : Chan) (hint : Nat) (s : State) : Host.Outcome State Fault Refusal :=
  part (chanOk ch) (s.run (s.ping ch hint))

/-- GET_CAP (R20). -/
def execGetCap (ch : Chan) (hint : Nat) (s : State) : Host.Outcome State Fault Refusal :=
  part (chanOk ch) (s.run (s.getCap ch hint))

/-- GET_FW (R415). -/
def execGetFw (ch : Chan) (hint : Nat) (s : State) : Host.Outcome State Fault Refusal :=
  part (chanOk ch) (s.run (s.getFw ch hint))

/-- SUBMIT (R415). -/
def execSubmit (ch : Chan) (hint : Nat) (env : Env) (s : State) : Host.Outcome State Fault Refusal :=
  part (chanOk ch) (s.run (s.submit ch hint env))

/-- ALLOC (R415). -/
def execAlloc (ch : Chan) (hint : Nat) (s : State) : Host.Outcome State Fault Refusal :=
  part (chanOk ch) (s.run (s.alloc ch hint))

/-- FREE (R415). -/
def execFree (ch : Chan) (hint : Nat) (s : State) : Host.Outcome State Fault Refusal :=
  part (chanOk ch) (s.run (s.freeObj ch hint))

/-- GET_SENSORS (R442). -/
def execGetSensors (ch : Chan) (hint : Nat) (s : State) : Host.Outcome State Fault Refusal :=
  part (chanOk ch) (s.run (s.getSensors ch hint))

/-- GET_LOAD (R442). -/
def execGetLoad (ch : Chan) (hint : Nat) (s : State) : Host.Outcome State Fault Refusal :=
  part (chanOk ch) (s.run (s.getLoad ch hint))

/-- GET_ALARM (R442). -/
def execGetAlarm (ch : Chan) (hint : Nat) (s : State) : Host.Outcome State Fault Refusal :=
  part (chanOk ch) (s.run (s.getAlarm ch hint))

/-- ACK_ALARM (R442). -/
def execAckAlarm (ch : Chan) (hint : Nat) (s : State) : Host.Outcome State Fault Refusal :=
  part (chanOk ch) (s.run (s.ackAlarmCmd ch hint))

/-- GET_SEC (R463). -/
def execGetSec (ch : Chan) (hint : Nat) (s : State) : Host.Outcome State Fault Refusal :=
  part (chanOk ch) (s.run (s.getSec ch hint))

/-- FW_UPDATE (R465). -/
def execFwUpdate (ch : Chan) (hint : Nat) (env : Env) (s : State) : Host.Outcome State Fault Refusal :=
  part (chanOk ch) (s.run (s.fwUpdate ch hint env))

/-- RTE_STORE (R466). -/
def execRteStore (ch : Chan) (hint : Nat) (env : Env) (s : State) : Host.Outcome State Fault Refusal :=
  part (chanOk ch) (s.run (s.rteStore ch hint env))

/-- FLASH_READ (R463). -/
def execFlashRead (ch : Chan) (hint : Nat) (s : State) : Host.Outcome State Fault Refusal :=
  part (chanOk ch) (s.run (s.flashRead ch hint))

/-- GET_MEAS (R463). -/
def execGetMeas (ch : Chan) (hint : Nat) (s : State) : Host.Outcome State Fault Refusal :=
  part (chanOk ch) (s.run (s.getMeas ch hint))

/-- MEAS_EXTEND (R454). -/
def execMeasExtend (ch : Chan) (hint : Nat) (s : State) : Host.Outcome State Fault Refusal :=
  part (chanOk ch) (s.run (s.measExtend ch hint))

/-- ATTEST (R461). -/
def execAttest (ch : Chan) (hint : Nat) (env : Env) (s : State) (err : Bool := false) : Host.Outcome State Fault Refusal :=
  part (chanOk ch) (s.run (s.attest ch hint err env))

/-- GET_ID_KEY (R463). -/
def execGetIdKey (ch : Chan) (hint : Nat) (env : Env) (s : State) : Host.Outcome State Fault Refusal :=
  part (chanOk ch) (s.run (s.getIdKey ch hint env))

/-- SVN_COMMIT (R456). -/
def execSvnCommit (ch : Chan) (hint : Nat) (s : State) (cut : Option Nat := none) : Host.Outcome State Fault Refusal :=
  part (chanOk ch) (s.blow (s.svnCommit ch hint cut))

/-- RCV_BEGIN (R469). -/
def execRcvBegin (ch : Chan) (hint : Nat) (s : State) : Host.Outcome State Fault Refusal :=
  part (chanOk ch) (s.run (s.rcvBegin ch hint))

/-- RCV_DATA (R469). -/
def execRcvData (ch : Chan) (hint : Nat) (s : State) (err : Bool := false) : Host.Outcome State Fault Refusal :=
  part (chanOk ch) (s.run (s.rcvData ch hint err))

/-- RCV_END (R469). -/
def execRcvEnd (ch : Chan) (hint : Nat) (bad : Option Nat) (s : State) : Host.Outcome State Fault Refusal :=
  part (chanOk ch) (s.run (s.rcvEnd ch hint bad))

/-- SESSION_TIMEOUT (R469). -/
def execSessionTimeout (s : State) : Host.Outcome State Fault Refusal :=
  s.run s.sessionTimeout

/-- FLASH_OP_DONE (R451). -/
def execFlashOpDone (err : Bool) (env : Env) (s : State) : Host.Outcome State Fault Refusal :=
  s.run (s.unpaused (s.flashDone err env))

end Sys2Proof.Machine
end

