-- ==== Sys2Proof/Machine/ExecMatrix.lean ====
section
/-! DEFINITION. The meanings of the commands of the matrix engine, the accumulators and the vector engine (04_matrix_engine.md,
05_accumulation_and_epilogue.md, 06_vector_engine.md). -/

namespace Sys2Proof.Machine

/-- MLOAD (R130). -/
def execMload (q : Nat) (env : Env) (s : State) : Host.Outcome State Fault Refusal :=
  part (queueOk q) (s.engine (s.issue q 0x10 env runMload))

/-- MLOADI (R132). -/
def execMloadi (q : Nat) (env : Env) (s : State) : Host.Outcome State Fault Refusal :=
  part (queueOk q) (s.engine (s.issue q 0x12 env runMloadi))

/-- MMA (R131). -/
def execMma (q : Nat) (env : Env) (s : State) : Host.Outcome State Fault Refusal :=
  part (queueOk q) (s.engine (s.issue q 0x11 env runMma))

/-- LOAD_COMPLETE (R127). -/
def execLoadComplete (n : Nat) (half : Nat) (s : State) : Host.Outcome State Fault Refusal :=
  part (coreOk n && halfOk half) (s.run (s.loadComplete n half))

/-- MMA_FIRST_ROW_ENTRY (R134). -/
def execMmaFirstRowEntry (n : Nat) (half : Nat) (loadWait : Nat) (tileWait : Nat) (env : Env) (s : State) :
    Host.Outcome State Fault Refusal :=
  part (coreOk n && halfOk half) (s.engine (s.mmaEntry n half loadWait tileWait env))

/-- TZERO (R164). -/
def execTzero (q : Nat) (env : Env) (s : State) : Host.Outcome State Fault Refusal :=
  part (queueOk q) (s.engine (s.issue q 0x20 env runTzero))

/-- TLOAD (R165). -/
def execTload (q : Nat) (env : Env) (s : State) : Host.Outcome State Fault Refusal :=
  part (queueOk q) (s.engine (s.issue q 0x21 env runTload))

/-- TCOMBINE (R166). -/
def execTcombine (q : Nat) (env : Env) (s : State) : Host.Outcome State Fault Refusal :=
  part (queueOk q) (s.engine (s.issue q 0x22 env runTcombine))

/-- TSTORE (R168). -/
def execTstore (q : Nat) (env : Env) (s : State) : Host.Outcome State Fault Refusal :=
  part (queueOk q) (s.engine (s.issue q 0x23 env runTstore))

/-- TREDUCE (R173). -/
def execTreduce (q : Nat) (env : Env) (s : State) : Host.Outcome State Fault Refusal :=
  part (queueOk q) (s.engine (s.issue q 0x24 env runTreduce))

/-- INTERLOCK_RELEASE (R155). -/
def execInterlockRelease (n : Nat) (env : Env) (s : State) : Host.Outcome State Fault Refusal :=
  part (coreOk n) (s.engine (s.interlockRelease n env))

/-- VSET (R191). -/
def execVset (q : Nat) (env : Env) (s : State) : Host.Outcome State Fault Refusal :=
  part (queueOk q) (s.engine (s.issue q 0x30 env runVset))

/-- VOP (R192). -/
def execVop (q : Nat) (env : Env) (s : State) : Host.Outcome State Fault Refusal :=
  part (queueOk q) (s.engine (s.issue q 0x31 env runVop))

/-- VREDUCE (R204). -/
def execVreduce (q : Nat) (env : Env) (s : State) : Host.Outcome State Fault Refusal :=
  part (queueOk q) (s.engine (s.issue q 0x32 env runVreduce))

/-- EMLOAD (R201). -/
def execEmload (q : Nat) (env : Env) (s : State) : Host.Outcome State Fault Refusal :=
  part (queueOk q) (s.engine (s.issue q 0x33 env runEmload))

/-- EMRUN (R203). -/
def execEmrun (q : Nat) (env : Env) (s : State) : Host.Outcome State Fault Refusal :=
  part (queueOk q) (s.engine (s.issue q 0x34 env runEmrun))

/-- SLOT_HOLD_END (R202). -/
def execSlotHoldEnd (n : Nat) (env : Env) (s : State) : Host.Outcome State Fault Refusal :=
  part (coreOk n) (s.engine (s.slotHoldEnd n env))

end Sys2Proof.Machine
end

