-- ==== Sys2Proof/Machine/ExecMemory.lean ====
section
/-! DEFINITION. The meanings of the commands of seals and the memory controllers (08_memory_tiers.md). -/

namespace Sys2Proof.Machine

/-- SEAL (R266). -/
def execSealPages (who : Requester) (first : BitVec 20) (count : BitVec 20) (s : State) :
    Host.Outcome State Fault Refusal :=
  part (s.reqExists who) (s.run (s.regWrite who Reg.MEM_SEAL_OP (.w64 (sealOpWord 1 0 0 0 count.toNat first.toNat)) {}))

/-- SEAL_DONE (R266). -/
def execSealDone (s : State) : Host.Outcome State Fault Refusal :=
  s.run s.sealDone

/-- UNSEAL (R267). -/
def execUnsealPages (who : Requester) (first : BitVec 20) (count : BitVec 20) (s : State) :
    Host.Outcome State Fault Refusal :=
  part (s.reqExists who) (s.run (s.regWrite who Reg.MEM_SEAL_OP (.w64 (sealOpWord 2 0 0 0 count.toNat first.toNat)) {}))

/-- UNSEAL_DONE (R267). -/
def execUnsealDone (s : State) : Host.Outcome State Fault Refusal :=
  s.run s.unsealDone

/-- SPILL_SEAL (R269). -/
def execSpillSeal (who : Requester) (host : BitVec 3) (slot : BitVec 4) (first : BitVec 20) (count : BitVec 20) (s : State) :
    Host.Outcome State Fault Refusal :=
  part (s.reqExists who) (s.run (s.regWrite who Reg.MEM_SEAL_OP (.w64 (sealOpWord 1 1 slot.toNat host.toNat count.toNat first.toNat)) {}))

/-- SPILL_UNSEAL (R269). -/
def execSpillUnseal (who : Requester) (host : BitVec 3) (slot : BitVec 4) (s : State) :
    Host.Outcome State Fault Refusal :=
  part (s.reqExists who) (s.run (s.regWrite who Reg.MEM_SEAL_OP (.w64 (sealOpWord 2 1 slot.toNat host.toNat 0 0)) {}))

/-- MEM_TIMEOUT (R278). -/
def execMemTimeout (source : Nat) (id : Nat) (a : Nat) (write : Bool) (s : State) :
    Host.Outcome State Fault Refusal :=
  s.run (s.memTimeout source id a write)

/-- LATE_ANSWER (R279). -/
def execLateAnswer (c : Nat) (s : State) : Host.Outcome State Fault Refusal :=
  part (stackOk c) (s.run (s.lateAnswer c))

/-- CE_INTERVAL_END (R275). -/
def execCeIntervalEnd (s : State) : Host.Outcome State Fault Refusal :=
  s.run s.ceIntervalEnd

/-- PATROL_SCRUB (R281). -/
def execPatrolScrub (a : Nat) (f : Option MemFault) (s : State) : Host.Outcome State Fault Refusal :=
  s.run (s.patrolScrub a f)

/-- REF_MODE_APPLY (R261). -/
def execRefModeApply (s : State) : Host.Outcome State Fault Refusal :=
  s.run s.refModeApply

/-- BW_INTERVAL_END (R263). -/
def execBwIntervalEnd (s : State) : Host.Outcome State Fault Refusal :=
  s.run s.bwIntervalEnd

/-- ECS_READ (R260). -/
def execEcsRead (found : List (Nat × Nat × Nat)) (s : State) : Host.Outcome State Fault Refusal :=
  s.run (s.ecsRead found)

end Sys2Proof.Machine
end

