-- ==== Sys2Proof/Machine/ExecPower.lean ====
section
/-! DEFINITION. The meanings of the commands of boot, clocks, resets and power (15_signed_images_identity.md,
16_clocks_reset_power_emc.md). -/

namespace Sys2Proof.Machine

/-- BOOT_HEADER_READ (R452). -/
def execBootHeaderRead (bad : Option Nat) (s : State) : Host.Outcome State Fault Refusal :=
  s.run (s.unpaused (s.bootHeader bad))

/-- BOOT_BODY_READ (R452). -/
def execBootBodyRead (bad : Option Nat) (s : State) : Host.Outcome State Fault Refusal :=
  s.run (s.unpaused (s.bootBody bad))

/-- OPP_APPLY (R478). -/
def execOppApply (who : Requester) (opp : BitVec 2) (spread : BitVec 6) (s : State) :
    Host.Outcome State Fault Refusal :=
  part (s.reqExists who) (s.run (s.regWrite who Reg.CLK_CTRL (.w32 (BitVec.ofNat 32 (2 ^ 15 + spread.toNat * 2 ^ 8 + opp.toNat))) {}))

/-- OPP_DONE (R478). -/
def execOppDone (env : Env) (s : State) : Host.Outcome State Fault Refusal :=
  s.run (s.oppDone env)

/-- CLK_RESET (R483). -/
def execClkReset (who : Requester) (key : BitVec 8) (retain : Bool) (s : State) : Host.Outcome State Fault Refusal :=
  part (s.reqExists who) (s.run (s.regWrite who Reg.CLK_RESET (.w32 (BitVec.ofNat 32 (key.toNat * 2 ^ 8 + (if retain then 1 else 0)))) {}))

/-- RESET_N_FALL (R484). -/
def execResetNFall (memhold : Bool) (s : State) : Host.Outcome State Fault Refusal :=
  s.always (s.resetFall memhold)

/-- RESET_HOLD_END (R483). -/
def execResetHoldEnd (s : State) : Host.Outcome State Fault Refusal :=
  s.always s.resetHoldEnd

/-- RESET_N_RISE (R486). The contacts PMB_ADDR have levels then too, and are not sampled (R497). -/
def execResetNRise (split : BitVec 4) (_pmbAddr : BitVec 3) (s : State) : Host.Outcome State Fault Refusal :=
  s.strap (s.resetRise split.toNat)

/-- SELF_REFRESH_EXIT (R486). -/
def execSelfRefreshExit (bad : Nat) (s : State) : Host.Outcome State Fault Refusal :=
  s.always (s.selfRefreshExit bad)

/-- STACK_TRAINING_DONE (R262). -/
def execStackTrainingDone (c : Nat) (good : Bool) (s : State) : Host.Outcome State Fault Refusal :=
  part (stackOk c) (s.always (s.trainingDone c good))

/-- STANDBY_POWER (R481, R497). -/
def execStandbyPower (s : State) (pmbAddr : BitVec 3 := 0) : Host.Outcome State Fault Refusal :=
  s.strap (s.standbyPower pmbAddr.toNat)

/-- PWR_EN_RISE (R481). -/
def execPwrEnRise (s : State) : Host.Outcome State Fault Refusal :=
  s.always s.pwrEnRise

/-- PWRGD (R481). -/
def execPwrgd (s : State) : Host.Outcome State Fault Refusal :=
  s.always s.powerGood

/-- PWR_EN_FALL (R482). -/
def execPwrEnFall (s : State) : Host.Outcome State Fault Refusal :=
  s.always s.pwrEnFall

/-- INPUT_UNDERVOLTAGE (R482). -/
def execInputUndervoltage (s : State) : Host.Outcome State Fault Refusal :=
  s.always s.undervoltage

/-- INPUT_OVERVOLTAGE (R501). -/
def execInputOvervoltage (s : State) : Host.Outcome State Fault Refusal :=
  s.always s.overvoltage

/-- STANDBY_LOSS (R501). -/
def execStandbyLoss (s : State) : Host.Outcome State Fault Refusal :=
  s.always s.standbyLoss

/-- STACK_TEMPERATURE (R261). -/
def execStackTemperature (c : Nat) (t : Nat) (s : State) : Host.Outcome State Fault Refusal :=
  part (stackOk c) (s.run (s.stackTemperature c t))

/-- LNK_PORT_DISABLE (R353). -/
def execLnkPortDisable (who : Requester) (p : Nat) (disable : Bool) (s : State) : Host.Outcome State Fault Refusal :=
  part (s.reqExists who && portOk p) (s.run (s.regWrite who (Reg.LNK_PORT_CTRL p) (.w32 (if disable then 1 else 0)) {}))

/-- PRIORITY_FLOW_CONTROL (R355). -/
def execPriorityFlowControl (p : Nat) (prio : Nat) (pause : Bool) (s : State) : Host.Outcome State Fault Refusal :=
  part (portOk p) (s.run (s.flowControl p prio pause))

/-- CONFIGURATION_REQUEST (R486): while the logic is held in reset every host link is down, and none is answered (R484). -/
def execConfigurationRequest (h : Nat) (req : CfgReq) (s : State) : Host.Outcome State Fault Refusal :=
  part (s.hostExists h) (s.run (s.portRun (s.configRequest h req) (.host h) (.config h req)))

/-- THERMAL_TRIP_CLEAR (R482). -/
def execThermalTripClear (s : State) : Host.Outcome State Fault Refusal :=
  s.always s.tripClear

end Sys2Proof.Machine
end

