-- ==== Sys2Proof/Machine/ExecQueues.lean ====
section
/-! DEFINITION. The meanings of the commands of queues, control records and anchors (03_queues_pitches_belays.md). -/

namespace Sys2Proof.Machine

/-- ON (R83). -/
def execQueueOn (who : Requester) (q : Nat) (s : State) : Host.Outcome State Fault Refusal :=
  part (s.reqExists who && queueOk q) (s.run (s.actBit who (Reg.CQ_SQ_CTRL q) 0 {}))

/-- OFF (R83). -/
def execQueueOff (who : Requester) (q : Nat) (s : State) : Host.Outcome State Fault Refusal :=
  part (s.reqExists who && queueOk q) (s.run (s.actBit who (Reg.CQ_SQ_CTRL q) 1 {}))

/-- CANCEL (R114). -/
def execCancel (who : Requester) (q : Nat) (env : Env) (s : State) : Host.Outcome State Fault Refusal :=
  part (s.reqExists who && queueOk q) (s.run (s.actBit who (Reg.CQ_SQ_CTRL q) 2 env))

/-- DOORBELL (R103). -/
def execDoorbell (who : Requester) (q : Nat) (d : WData) (s : State) : Host.Outcome State Fault Refusal :=
  part (s.reqExists who && queueOk q) (s.run (s.regWrite who (Reg.CQ_DOORBELL q) d {}))

/-- RECORD_FETCH (R105). -/
def execRecordFetch (q : Nat) (env : Env) (s : State) : Host.Outcome State Fault Refusal :=
  part (queueOk q) (s.engine (s.fetch q env))

/-- SEAL_REREAD (R105). -/
def execSealReread (q : Nat) (env : Env) (s : State) : Host.Outcome State Fault Refusal :=
  part (queueOk q) (s.engine (s.refetch q env))

/-- NOP (R89). -/
def execNop (q : Nat) (env : Env) (s : State) : Host.Outcome State Fault Refusal :=
  part (queueOk q) (s.engine (s.issue q 0x00 env runNop))

/-- BELAY (R91). -/
def execBelay (q : Nat) (env : Env) (s : State) : Host.Outcome State Fault Refusal :=
  part (queueOk q) (s.engine (s.issue q 0x01 env runBelay))

/-- BELAY_END (R91). -/
def execBelayEnd (q : Nat) (s : State) : Host.Outcome State Fault Refusal :=
  part (queueOk q) (s.run (s.belayEnd q))

/-- SIGNAL (R97). -/
def execSignal (q : Nat) (env : Env) (s : State) : Host.Outcome State Fault Refusal :=
  part (queueOk q) (s.engine (s.issue q 0x02 env runSignal))

/-- SIGNAL_TAKES_EFFECT (R97). -/
def execSignalTakesEffect (q : Nat) (s : State) : Host.Outcome State Fault Refusal :=
  part (queueOk q) (s.engine (s.signalGo q))

/-- ANCHOR_OP (R95). -/
def execAnchorOp (a : Nat) (s : State) : Host.Outcome State Fault Refusal :=
  part (anchorOk a) (s.run (s.anchorArrive a))

/-- ANCHOR_SET (R95). -/
def execAnchorSet (who : Requester) (a : Nat) (v : Word32) (s : State) : Host.Outcome State Fault Refusal :=
  part (s.reqExists who && anchorOk a) (s.run (s.regWrite who (Reg.CQ_ANCHOR a) (.w32 v) {}))

/-- ANCHOR_ADD (R95). -/
def execAnchorAdd (who : Requester) (a : Nat) (v : Word32) (s : State) : Host.Outcome State Fault Refusal :=
  part (s.reqExists who && anchorOk a) (s.run (s.regWrite who (Reg.CQ_ANCHOR_ADD a) (.w32 v) {}))

/-- WAIT (R96). -/
def execWait (q : Nat) (env : Env) (s : State) : Host.Outcome State Fault Refusal :=
  part (queueOk q) (s.engine (s.issue q 0x03 env runWait))

/-- WAIT_SATISFIED (R96). -/
def execWaitSatisfied (q : Nat) (s : State) : Host.Outcome State Fault Refusal :=
  part (queueOk q) (s.run (s.waitSatisfied q))

/-- WAIT_TIMEOUT (R96). -/
def execWaitTimeout (q : Nat) (s : State) : Host.Outcome State Fault Refusal :=
  part (queueOk q) (s.run (s.waitExpired q))

/-- PUT (R101). -/
def execPut (q : Nat) (env : Env) (s : State) : Host.Outcome State Fault Refusal :=
  part (queueOk q) (s.engine (s.issue q 0x04 env runPut))

/-- STEP (R89). -/
def execStep (q : Nat) (env : Env) (s : State) : Host.Outcome State Fault Refusal :=
  part (queueOk q) (s.engine (s.issue q 0x06 env runStep))

/-- RECORD_END (R106). -/
def execRecordEnd (q : Nat) (slot : Nat) (env : Env) (s : State) : Host.Outcome State Fault Refusal :=
  part (queueOk q && slotOk slot) (s.run (s.recordEnd q slot env))

/-- CQ_HEAD_WRITE (R107). -/
def execCqHeadWrite (who : Requester) (q : Nat) (v : Word32) (env : Env) (s : State) :
    Host.Outcome State Fault Refusal :=
  part (s.reqExists who && queueOk q) (s.run (s.regWrite who (Reg.CQ_CQ_HEAD q) (.w32 v) env))

/-- FLUSH_READ (R112). -/
def execFlushRead (who : Requester) (q : Nat) (s : State) : Host.Outcome State Fault Refusal :=
  part (s.reqExists who && queueOk q) (s.run (s.portRun (s.flushRead who q) who (.flush who q)))

/-- FLUSH_LINE_READ (R113). -/
def execFlushLineRead (h : Nat) (hpa : Nat) (env : Env) (s : State) : Host.Outcome State Fault Refusal :=
  part (s.hostExists h) (s.run (s.portRun (s.hostRead h hpa env) (.host h) (.memRead h hpa env)))

end Sys2Proof.Machine
end

