-- ==== Sys2Proof/Machine/ExecRegs.lean ====
section
/-! DEFINITION. The meanings of the commands of the register accesses and the route-image loader (00_scope.md, 02_route_image.md). -/

namespace Sys2Proof.Machine

/-- REGISTER_WRITE (R7). -/
def execRegisterWrite (who : Requester) (off : Nat) (d : WData) (env : Env) (s : State) :
    Host.Outcome State Fault Refusal :=
  part (s.reqExists who) (s.run (s.regWrite who off d env))

/-- SPLIT_LOW_WRITE (R11). -/
def execSplitLowWrite (who : Requester) (off : Nat) (v : Word32) (s : State) : Host.Outcome State Fault Refusal :=
  part (s.reqExists who) (s.run (s.portRun (s.write32 who off v) who (.write32 who off v)))

/-- SPLIT_LOW_READ (R11). -/
def execSplitLowRead (who : Requester) (off : Nat) (s : State) : Host.Outcome State Fault Refusal :=
  part (s.reqExists who) (s.run (s.portRun (s.read32 who off) who (.read32 who off)))

/-- UNMAPPED_ACCESS (R12). -/
def execUnmappedAccess (who : Requester) (off : Nat) (size : Nat) (write : Bool) (s : State) :
    Host.Outcome State Fault Refusal :=
  part (s.reqExists who) (s.run (s.portRun (s.badAccess who off size write) who (.unmapped who off size write)))

/-- QUIESCE (R65). -/
def execQuiesce (who : Requester) (env : Env) (s : State) : Host.Outcome State Fault Refusal :=
  part (s.reqExists who) (s.run (s.actBit who Reg.RTE_CTRL 0 env))

/-- QUIESCED (R64). -/
def execQuiesced (s : State) : Host.Outcome State Fault Refusal :=
  s.run s.quiesceDone

/-- LOAD (R67). -/
def execLoadImage (who : Requester) (env : Env) (s : State) : Host.Outcome State Fault Refusal :=
  part (s.reqExists who) (s.run (s.actBit who Reg.RTE_CTRL 1 env))

/-- HEADER_READ_DONE (R70). -/
def execHeaderReadDone (bad : Option Nat) (env : Env) (s : State) : Host.Outcome State Fault Refusal :=
  s.run (s.headerRead bad env)

/-- BODY_FETCH_DONE (R70). -/
def execBodyFetchDone (bad : Option Nat) (env : Env) (s : State) : Host.Outcome State Fault Refusal :=
  s.run (s.bodyFetched bad env)

/-- FIELD_CHECKS_DONE (R70). -/
def execFieldChecksDone (s : State) : Host.Outcome State Fault Refusal :=
  s.run s.fieldsChecked

/-- RTE_APPLY_HOLD_END (R71). -/
def execRteApplyHoldEnd (env : Env) (s : State) : Host.Outcome State Fault Refusal :=
  s.run (s.holdEnd.wake env)

/-- RTE_APPLY_DONE (R72). -/
def execRteApplyDone (s : State) : Host.Outcome State Fault Refusal :=
  s.run s.applyDone

/-- RESUME (R68). -/
def execResume (who : Requester) (env : Env) (s : State) : Host.Outcome State Fault Refusal :=
  part (s.reqExists who) (s.run (s.actBit who Reg.RTE_CTRL 2 env))

end Sys2Proof.Machine
end

