-- ==== Sys2Proof/Machine/ExecSiolo.lean ====
section
/-! DEFINITION. The meanings of the commands of Siolo, its loops, the cairn log and the board (14_siolo_cairn_log.md,
15_signed_images_identity.md). -/

namespace Sys2Proof.Machine

/-- THERM_SAMPLE (R420). -/
def execThermSample (readings : List (Nat × Nat)) (s : State) : Host.Outcome State Fault Refusal :=
  s.loop (s.thermSample readings)

/-- THERMTRIP_N (R421). -/
def execThermtripN (s : State) : Host.Outcome State Fault Refusal :=
  s.loop (s.thermTrip 0xFF 0)

/-- OC_SAMPLE (R422). -/
def execOcSample (currents : List (Nat × Nat)) (s : State) : Host.Outcome State Fault Refusal :=
  s.loop (s.ocSample currents)

/-- DAMPER_SAMPLE (R423). -/
def execDamperSample (mv : Nat) (da : Nat) (s : State) : Host.Outcome State Fault Refusal :=
  s.loop (s.damperSample mv da)

/-- CAP_MISS (R479). -/
def execCapMiss (s : State) : Host.Outcome State Fault Refusal :=
  s.loop s.capMiss

/-- SENSOR_REPORT (R418). -/
def execSensorReport (readings : List (Nat × Nat × Nat)) (s : State) : Host.Outcome State Fault Refusal :=
  s.run (s.unpaused (s.sensorReport readings))

/-- COOLANT_CHECK (R424). -/
def execCoolantCheck (inlet : Nat) (outlet : Nat) (flow : Nat) (s : State) : Host.Outcome State Fault Refusal :=
  s.run (s.unpaused (s.coolantCheck inlet outlet flow))

/-- WATCHDOG_EXPIRY (R425). -/
def execWatchdogExpiry (s : State) : Host.Outcome State Fault Refusal :=
  s.run (s.sioReset 0)

/-- LOCKSTEP_MISMATCH (R425). -/
def execLockstepMismatch (s : State) : Host.Outcome State Fault Refusal :=
  s.run (s.sioReset 1)

/-- SIOLO_RELOAD_DONE (R453). -/
def execSioloReloadDone (bad : Option Nat) (s : State) : Host.Outcome State Fault Refusal :=
  s.run (s.unpaused (s.reloadDone bad))

/-- LOAD_WINDOW (R427). -/
def execLoadWindow (load : Nat) (s : State) : Host.Outcome State Fault Refusal :=
  s.run (s.unpaused (s.loadWindow load))

/-- LOG_POST (R430). -/
def execLogPost (src : Nat) (code : Nat) (cls : Nat) (arg : Nat) (s : State) : Host.Outcome State Fault Refusal :=
  part (sourceOk src && classOk cls) (s.run (s.sourcePost src code cls arg))

/-- LOG_WRITE (R433, R435). -/
def execLogWrite (env : Env) (s : State) (tail : Option (Requester × Word32) := none) : Host.Outcome State Fault Refusal :=
  part (s.tailExists tail) (s.run (s.withTail (s.logWrite env) tail))

/-- LOG_SUMMARY (R434, R435). -/
def execLogSummary (env : Env) (s : State) (tail : Option (Requester × Word32) := none) : Host.Outcome State Fault Refusal :=
  part (s.tailExists tail) (s.run (s.withTail (s.logSummary env) tail))

/-- LOG_ENABLE (R429). -/
def execLogEnable (who : Requester) (addr : BitVec 31) (env : Env) (s : State) : Host.Outcome State Fault Refusal :=
  part (s.reqExists who) (s.run (s.regWrite who Reg.SIO_LOG_BASE (.w64 (BitVec.ofNat 64 (addr.toNat * 2 ^ 21 + 1))) env))

/-- ALARM_ACK_ENTRY (R440). -/
def execAlarmAckEntry (who : Requester) (entry : BitVec 6) (s : State) : Host.Outcome State Fault Refusal :=
  part (s.reqExists who) (s.run (s.regWrite who Reg.SIO_ALARM_ACK (.w32 (entry.zeroExtend 32)) {}))

/-- ALARM_ACK_ALL (R440). -/
def execAlarmAckAll (who : Requester) (s : State) : Host.Outcome State Fault Refusal :=
  part (s.reqExists who) (s.run (s.regWrite who Reg.SIO_ALARM_ACK (.w32 0x100) {}))

/-- CLEAR_FAULTS (R444). -/
def execClearFaults (s : State) (addr : Nat := 0x40) : Host.Outcome State Fault Refusal :=
  s.always (s.clearFaults addr)

/-- STATUS_WORD (R444). -/
def execStatusWord (s : State) (addr : Nat := 0x40) : Host.Outcome State Fault Refusal :=
  s.always (s.pmbReply addr s.statusWord)

/-- READ_VIN (R444). -/
def execReadVin (s : State) (addr : Nat := 0x40) : Host.Outcome State Fault Refusal :=
  s.always (s.pmbReply addr (linear11 false s.loops.vin 1000))

/-- READ_IIN (R444). -/
def execReadIin (s : State) (addr : Nat := 0x40) : Host.Outcome State Fault Refusal :=
  s.always (s.pmbReply addr (linear11 false s.loops.iin 10))

/-- READ_TEMPERATURE_1 (R444). -/
def execReadTemperature1 (s : State) (addr : Nat := 0x40) : Host.Outcome State Fault Refusal :=
  s.always (s.pmbReply addr (linTemp s.hottest))

/-- READ_TEMPERATURE_2 (R444). -/
def execReadTemperature2 (s : State) (addr : Nat := 0x40) : Host.Outcome State Fault Refusal :=
  s.always (s.pmbReply addr (linTemp (s.coolantInlet)))

/-- READ_PIN (R444). -/
def execReadPin (s : State) (addr : Nat := 0x40) : Host.Outcome State Fault Refusal :=
  s.always (s.pmbReply addr s.inputPower)

/-- PMBUS_REVISION (R444). -/
def execPmbusRevision (s : State) (addr : Nat := 0x40) : Host.Outcome State Fault Refusal :=
  s.always (s.pmbRevision addr)

/-- SETDASA (R443). -/
def execSetdasa (static : Nat) (dynamic : Nat) (s : State) : Host.Outcome State Fault Refusal :=
  s.run (s.setdasa static dynamic)

/-- ENTDAA (R443). -/
def execEntdaa (dynamic : Nat) (s : State) : Host.Outcome State Fault Refusal :=
  s.run (s.entdaa dynamic)

/-- MCTP_CONTROL (R443). -/
def execMctpControl (s : State) (via : Via := .i3c) : Host.Outcome State Fault Refusal :=
  part (viaOk via) (s.run (s.unpaused (s.mctpControl via)))

/-- PLDM_REQUEST (R443). -/
def execPldmRequest (req : PldmReq) (s : State) (via : Via := .i3c) : Host.Outcome State Fault Refusal :=
  part (viaOk via) (s.run (s.unpaused (s.pldmRequest via req)))

/-- PLDM_FIRMWARE_UPDATE (R467). -/
def execPldmFirmwareUpdate (via : Via) (step : PldmStep) (s : State) : Host.Outcome State Fault Refusal :=
  part (viaOk via) (s.run (s.unpaused (s.pldmUpdate via step)))

/-- PMBUS_NACK (R444). -/
def execPmbusNack (code : Nat) (s : State) (addr : Nat := 0x40) : Host.Outcome State Fault Refusal :=
  s.always (s.pmbUnknown addr code)

end Sys2Proof.Machine
end

