-- ==== Sys2Proof/Machine/ExecUpdate.lean ====
section
/-! DEFINITION. The meanings of the commands of the update engine (10_training_state_update.md). -/

namespace Sys2Proof.Machine

/-- UNORM (R325). -/
def execUnorm (q : Nat) (env : Env) (s : State) : Host.Outcome State Fault Refusal :=
  part (queueOk q) (s.engine ((s.issue q 0x60 env runUnorm).updOn env))

/-- USWEEP (R331). -/
def execUsweep (q : Nat) (env : Env) (s : State) : Host.Outcome State Fault Refusal :=
  part (queueOk q) (s.engine ((s.issue q 0x61 env runUsweep).updOn env))

/-- SHARD_BEGIN (R332). -/
def execShardBegin (env : Env) (s : State) : Host.Outcome State Fault Refusal :=
  s.engine (s.shardBegin env)

/-- CHUNK_COMMIT (R340). -/
def execChunkCommit (env : Env) (s : State) : Host.Outcome State Fault Refusal :=
  s.engine (s.chunkCommit env)

/-- SHARD_END (R333). -/
def execShardEnd (env : Env) (s : State) : Host.Outcome State Fault Refusal :=
  s.engine (s.shardEnd env)

/-- URULE (R329). -/
def execUrule (q : Nat) (env : Env) (s : State) : Host.Outcome State Fault Refusal :=
  part (queueOk q) (s.engine ((s.issue q 0x62 env runUrule).updOn env))

/-- USNAP (R342). -/
def execUsnap (q : Nat) (env : Env) (s : State) : Host.Outcome State Fault Refusal :=
  part (queueOk q) (s.engine (s.usnap q env))

end Sys2Proof.Machine
end

