-- ==== Sys2Proof/Machine/Dispatch.lean ====
section
/-! DEFINITION. What each command does: one arm for each command, each the direct call of its meaning. -/

namespace Sys2Proof.Machine

def exec (i : Instr) (s : State) : Host.Outcome State Fault Refusal :=
  match i with
  | .registerWrite who off d env => Sys2Proof.Machine.execRegisterWrite who off d env s
  | .splitLowWrite who off v => Sys2Proof.Machine.execSplitLowWrite who off v s
  | .splitLowRead who off => Sys2Proof.Machine.execSplitLowRead who off s
  | .unmappedAccess who off size write => Sys2Proof.Machine.execUnmappedAccess who off size write s
  | .quiesce who env => Sys2Proof.Machine.execQuiesce who env s
  | .quiesced => Sys2Proof.Machine.execQuiesced s
  | .loadImage who env => Sys2Proof.Machine.execLoadImage who env s
  | .headerReadDone bad env => Sys2Proof.Machine.execHeaderReadDone bad env s
  | .bodyFetchDone bad env => Sys2Proof.Machine.execBodyFetchDone bad env s
  | .fieldChecksDone => Sys2Proof.Machine.execFieldChecksDone s
  | .rteApplyHoldEnd env => Sys2Proof.Machine.execRteApplyHoldEnd env s
  | .rteApplyDone => Sys2Proof.Machine.execRteApplyDone s
  | .resume who env => Sys2Proof.Machine.execResume who env s
  | .queueOn who q => Sys2Proof.Machine.execQueueOn who q s
  | .queueOff who q => Sys2Proof.Machine.execQueueOff who q s
  | .cancel who q env => Sys2Proof.Machine.execCancel who q env s
  | .doorbell who q d => Sys2Proof.Machine.execDoorbell who q d s
  | .recordFetch q env => Sys2Proof.Machine.execRecordFetch q env s
  | .sealReread q env => Sys2Proof.Machine.execSealReread q env s
  | .nop q env => Sys2Proof.Machine.execNop q env s
  | .belay q env => Sys2Proof.Machine.execBelay q env s
  | .belayEnd q => Sys2Proof.Machine.execBelayEnd q s
  | .signal q env => Sys2Proof.Machine.execSignal q env s
  | .signalTakesEffect q => Sys2Proof.Machine.execSignalTakesEffect q s
  | .anchorOp a => Sys2Proof.Machine.execAnchorOp a s
  | .anchorSet who a v => Sys2Proof.Machine.execAnchorSet who a v s
  | .anchorAdd who a v => Sys2Proof.Machine.execAnchorAdd who a v s
  | .wait q env => Sys2Proof.Machine.execWait q env s
  | .waitSatisfied q => Sys2Proof.Machine.execWaitSatisfied q s
  | .waitTimeout q => Sys2Proof.Machine.execWaitTimeout q s
  | .put q env => Sys2Proof.Machine.execPut q env s
  | .step q env => Sys2Proof.Machine.execStep q env s
  | .recordEnd q slot env => Sys2Proof.Machine.execRecordEnd q slot env s
  | .cqHeadWrite who q v env => Sys2Proof.Machine.execCqHeadWrite who q v env s
  | .flushRead who q => Sys2Proof.Machine.execFlushRead who q s
  | .flushLineRead h hpa env => Sys2Proof.Machine.execFlushLineRead h hpa env s
  | .mload q env => Sys2Proof.Machine.execMload q env s
  | .mloadi q env => Sys2Proof.Machine.execMloadi q env s
  | .mma q env => Sys2Proof.Machine.execMma q env s
  | .loadComplete n half => Sys2Proof.Machine.execLoadComplete n half s
  | .mmaFirstRowEntry n half loadWait tileWait env => Sys2Proof.Machine.execMmaFirstRowEntry n half loadWait tileWait env s
  | .tzero q env => Sys2Proof.Machine.execTzero q env s
  | .tload q env => Sys2Proof.Machine.execTload q env s
  | .tcombine q env => Sys2Proof.Machine.execTcombine q env s
  | .tstore q env => Sys2Proof.Machine.execTstore q env s
  | .treduce q env => Sys2Proof.Machine.execTreduce q env s
  | .interlockRelease n env => Sys2Proof.Machine.execInterlockRelease n env s
  | .vset q env => Sys2Proof.Machine.execVset q env s
  | .vop q env => Sys2Proof.Machine.execVop q env s
  | .vreduce q env => Sys2Proof.Machine.execVreduce q env s
  | .emload q env => Sys2Proof.Machine.execEmload q env s
  | .emrun q env => Sys2Proof.Machine.execEmrun q env s
  | .slotHoldEnd n env => Sys2Proof.Machine.execSlotHoldEnd n env s
  | .actx q env => Sys2Proof.Machine.execActx q env s
  | .asoft q env => Sys2Proof.Machine.execAsoft q env s
  | .afold q env => Sys2Proof.Machine.execAfold q env s
  | .adelta q env => Sys2Proof.Machine.execAdelta q env s
  | .aback q env => Sys2Proof.Machine.execAback q env s
  | .kvmap q env => Sys2Proof.Machine.execKvmap q env s
  | .kvput q env => Sys2Proof.Machine.execKvput q env s
  | .kvmass q env => Sys2Proof.Machine.execKvmass q env s
  | .kvtrim q env => Sys2Proof.Machine.execKvtrim q env s
  | .rank q env => Sys2Proof.Machine.execRank q env s
  | .lookup cc env => Sys2Proof.Machine.execLookup cc env s
  | .allocate cc env => Sys2Proof.Machine.execAllocate cc env s
  | .descriptorArrival n env => Sys2Proof.Machine.execDescriptorArrival n env s
  | .kvWalkTimeout n k env => Sys2Proof.Machine.execKvWalkTimeout n k env s
  | .missResend n => Sys2Proof.Machine.execMissResend n s
  | .keeperUpdate r env => Sys2Proof.Machine.execKeeperUpdate r env s
  | .evictionStart r env => Sys2Proof.Machine.execEvictionStart r env s
  | .evictionDone r env => Sys2Proof.Machine.execEvictionDone r env s
  | .kvInit who r => Sys2Proof.Machine.execKvInit who r s
  | .initDone r env => Sys2Proof.Machine.execInitDone r env s
  | .kvDisable who r => Sys2Proof.Machine.execKvDisable who r s
  | .disableDone r => Sys2Proof.Machine.execDisableDone r s
  | .labInv who r d => Sys2Proof.Machine.execLabInv who r d s
  | .invDone r => Sys2Proof.Machine.execInvDone r s
  | .sealPages who first count => Sys2Proof.Machine.execSealPages who first count s
  | .sealDone => Sys2Proof.Machine.execSealDone s
  | .unsealPages who first count => Sys2Proof.Machine.execUnsealPages who first count s
  | .unsealDone => Sys2Proof.Machine.execUnsealDone s
  | .spillSeal who host slot first count => Sys2Proof.Machine.execSpillSeal who host slot first count s
  | .spillUnseal who host slot => Sys2Proof.Machine.execSpillUnseal who host slot s
  | .memTimeout source id a write => Sys2Proof.Machine.execMemTimeout source id a write s
  | .lateAnswer c => Sys2Proof.Machine.execLateAnswer c s
  | .ceIntervalEnd => Sys2Proof.Machine.execCeIntervalEnd s
  | .patrolScrub a f => Sys2Proof.Machine.execPatrolScrub a f s
  | .refModeApply => Sys2Proof.Machine.execRefModeApply s
  | .bwIntervalEnd => Sys2Proof.Machine.execBwIntervalEnd s
  | .ecsRead found => Sys2Proof.Machine.execEcsRead found s
  | .hctx q env => Sys2Proof.Machine.execHctx q env s
  | .hcopy q env => Sys2Proof.Machine.execHcopy q env s
  | .wfill q env => Sys2Proof.Machine.execWfill q env s
  | .prefetch q slot env => Sys2Proof.Machine.execPrefetch q slot env s
  | .wrel q env => Sys2Proof.Machine.execWrel q env s
  | .wrelRelease q env => Sys2Proof.Machine.execWrelRelease q env s
  | .porter q env => Sys2Proof.Machine.execPorter q env s
  | .stallWatch k env => Sys2Proof.Machine.execStallWatch k env s
  | .unorm q env => Sys2Proof.Machine.execUnorm q env s
  | .usweep q env => Sys2Proof.Machine.execUsweep q env s
  | .shardBegin env => Sys2Proof.Machine.execShardBegin env s
  | .chunkCommit env => Sys2Proof.Machine.execChunkCommit env s
  | .shardEnd env => Sys2Proof.Machine.execShardEnd env s
  | .urule q env => Sys2Proof.Machine.execUrule q env s
  | .usnap q env => Sys2Proof.Machine.execUsnap q env s
  | .portUp p => Sys2Proof.Machine.execPortUp p s
  | .portDown p lane => Sys2Proof.Machine.execPortDown p lane s
  | .retrain who p => Sys2Proof.Machine.execRetrain who p s
  | .dataBlock p bytes corrected uncorr => Sys2Proof.Machine.execDataBlock p bytes corrected uncorr s
  | .controlBlock p bytes => Sys2Proof.Machine.execControlBlock p bytes s
  | .helloTimer => Sys2Proof.Machine.execHelloTimer s
  | .hello p eth env => Sys2Proof.Machine.execHello p eth env s
  | .rsdata p eth env => Sys2Proof.Machine.execRsdata p eth env s
  | .agdata p eth env => Sys2Proof.Machine.execAgdata p eth env s
  | .tail p eth env => Sys2Proof.Machine.execTail p eth env s
  | .signalFrame p eth env => Sys2Proof.Machine.execSignalFrame p eth env s
  | .putFrame p eth env bad => Sys2Proof.Machine.execPutFrame p eth env s bad
  | .rreq p eth env => Sys2Proof.Machine.execRreq p eth env s
  | .repairSourceStart k env => Sys2Proof.Machine.execRepairSourceStart k env s
  | .rdata p eth env bad => Sys2Proof.Machine.execRdata p eth env s bad
  | .ackFrame p eth env => Sys2Proof.Machine.execAckFrame p eth env s
  | .doneFrame p eth env => Sys2Proof.Machine.execDoneFrame p eth env s
  | .ackTimer k m => Sys2Proof.Machine.execAckTimer k m s
  | .retransmitTimer k m => Sys2Proof.Machine.execRetransmitTimer k m s
  | .redTimeout k m ack env => Sys2Proof.Machine.execRedTimeout k m ack env s
  | .lreduce q env => Sys2Proof.Machine.execLreduce q env s
  | .lrepair q env => Sys2Proof.Machine.execLrepair q env s
  | .lnkPartySeqWrite who k d => Sys2Proof.Machine.execLnkPartySeqWrite who k d s
  | .hostLinkUp h speed width => Sys2Proof.Machine.execHostLinkUp h speed width s
  | .hostFunctionReset h down env => Sys2Proof.Machine.execHostFunctionReset h down env s
  | .hdmCommit h base size offset => Sys2Proof.Machine.execHdmCommit h base size offset s
  | .hostMemRead h hpa env => Sys2Proof.Machine.execHostMemRead h hpa env s
  | .hostMemWrite h hpa bytes env => Sys2Proof.Machine.execHostMemWrite h hpa bytes env s
  | .localWindowAccess h off len write env => Sys2Proof.Machine.execLocalWindowAccess h off len write env s
  | .h2dSnoop h line => Sys2Proof.Machine.execH2dSnoop h line s
  | .snoopResponse h line inv dirty env => Sys2Proof.Machine.execSnoopResponse h line inv dirty env s
  | .snoopTimeout h line inv env => Sys2Proof.Machine.execSnoopTimeout h line inv env s
  | .spillEnable who h base => Sys2Proof.Machine.execSpillEnable who h base s
  | .spillCompletion a data env => Sys2Proof.Machine.execSpillCompletion a data env s
  | .spillTimeout a env => Sys2Proof.Machine.execSpillTimeout a env s
  | .toDevice who first count => Sys2Proof.Machine.execToDevice who first count s
  | .biasPageDone dirty env => Sys2Proof.Machine.execBiasPageDone dirty env s
  | .msixUnmask h off acc => Sys2Proof.Machine.execMsixUnmask h off s acc
  | .ccHung cc => Sys2Proof.Machine.execCcHung cc s
  | .mbxPost who m up => Sys2Proof.Machine.execMbxPost who m up s
  | .mbxTake who m up => Sys2Proof.Machine.execMbxTake who m up s
  | .mbxWithdraw who m up take => Sys2Proof.Machine.execMbxWithdraw who m up take s
  | .mbxTimeout m up => Sys2Proof.Machine.execMbxTimeout m up s
  | .ping ch hint => Sys2Proof.Machine.execPing ch hint s
  | .getCap ch hint => Sys2Proof.Machine.execGetCap ch hint s
  | .getFw ch hint => Sys2Proof.Machine.execGetFw ch hint s
  | .submit ch hint env => Sys2Proof.Machine.execSubmit ch hint env s
  | .alloc ch hint => Sys2Proof.Machine.execAlloc ch hint s
  | .free ch hint => Sys2Proof.Machine.execFree ch hint s
  | .getSensors ch hint => Sys2Proof.Machine.execGetSensors ch hint s
  | .getLoad ch hint => Sys2Proof.Machine.execGetLoad ch hint s
  | .getAlarm ch hint => Sys2Proof.Machine.execGetAlarm ch hint s
  | .ackAlarm ch hint => Sys2Proof.Machine.execAckAlarm ch hint s
  | .getSec ch hint => Sys2Proof.Machine.execGetSec ch hint s
  | .fwUpdate ch hint env => Sys2Proof.Machine.execFwUpdate ch hint env s
  | .rteStore ch hint env => Sys2Proof.Machine.execRteStore ch hint env s
  | .flashRead ch hint => Sys2Proof.Machine.execFlashRead ch hint s
  | .getMeas ch hint => Sys2Proof.Machine.execGetMeas ch hint s
  | .measExtend ch hint => Sys2Proof.Machine.execMeasExtend ch hint s
  | .attest ch hint env err => Sys2Proof.Machine.execAttest ch hint env s err
  | .getIdKey ch hint env => Sys2Proof.Machine.execGetIdKey ch hint env s
  | .svnCommit ch hint cut => Sys2Proof.Machine.execSvnCommit ch hint s cut
  | .rcvBegin ch hint => Sys2Proof.Machine.execRcvBegin ch hint s
  | .rcvData ch hint err => Sys2Proof.Machine.execRcvData ch hint s err
  | .rcvEnd ch hint bad => Sys2Proof.Machine.execRcvEnd ch hint bad s
  | .sessionTimeout => Sys2Proof.Machine.execSessionTimeout s
  | .flashOpDone err env => Sys2Proof.Machine.execFlashOpDone err env s
  | .thermSample readings => Sys2Proof.Machine.execThermSample readings s
  | .thermtripN => Sys2Proof.Machine.execThermtripN s
  | .ocSample currents => Sys2Proof.Machine.execOcSample currents s
  | .damperSample mv da => Sys2Proof.Machine.execDamperSample mv da s
  | .capMiss => Sys2Proof.Machine.execCapMiss s
  | .sensorReport readings => Sys2Proof.Machine.execSensorReport readings s
  | .coolantCheck inlet outlet flow => Sys2Proof.Machine.execCoolantCheck inlet outlet flow s
  | .watchdogExpiry => Sys2Proof.Machine.execWatchdogExpiry s
  | .lockstepMismatch => Sys2Proof.Machine.execLockstepMismatch s
  | .sioloReloadDone bad => Sys2Proof.Machine.execSioloReloadDone bad s
  | .loadWindow load => Sys2Proof.Machine.execLoadWindow load s
  | .logPost src code cls arg => Sys2Proof.Machine.execLogPost src code cls arg s
  | .logWrite env t => Sys2Proof.Machine.execLogWrite env s t
  | .logSummary env t => Sys2Proof.Machine.execLogSummary env s t
  | .logEnable who addr env => Sys2Proof.Machine.execLogEnable who addr env s
  | .alarmAckEntry who entry => Sys2Proof.Machine.execAlarmAckEntry who entry s
  | .alarmAckAll who => Sys2Proof.Machine.execAlarmAckAll who s
  | .clearFaults addr => Sys2Proof.Machine.execClearFaults s addr
  | .statusWord addr => Sys2Proof.Machine.execStatusWord s addr
  | .readVin addr => Sys2Proof.Machine.execReadVin s addr
  | .readIin addr => Sys2Proof.Machine.execReadIin s addr
  | .readTemperature1 addr => Sys2Proof.Machine.execReadTemperature1 s addr
  | .readTemperature2 addr => Sys2Proof.Machine.execReadTemperature2 s addr
  | .readPin addr => Sys2Proof.Machine.execReadPin s addr
  | .pmbusRevision addr => Sys2Proof.Machine.execPmbusRevision s addr
  | .setdasa static dynamic => Sys2Proof.Machine.execSetdasa static dynamic s
  | .entdaa dynamic => Sys2Proof.Machine.execEntdaa dynamic s
  | .mctpControl via => Sys2Proof.Machine.execMctpControl s via
  | .pldmRequest req via => Sys2Proof.Machine.execPldmRequest req s via
  | .pldmFirmwareUpdate via step => Sys2Proof.Machine.execPldmFirmwareUpdate via step s
  | .bootHeaderRead bad => Sys2Proof.Machine.execBootHeaderRead bad s
  | .bootBodyRead bad => Sys2Proof.Machine.execBootBodyRead bad s
  | .oppApply who opp spread => Sys2Proof.Machine.execOppApply who opp spread s
  | .oppDone env => Sys2Proof.Machine.execOppDone env s
  | .clkReset who key retain => Sys2Proof.Machine.execClkReset who key retain s
  | .resetNFall memhold => Sys2Proof.Machine.execResetNFall memhold s
  | .resetHoldEnd => Sys2Proof.Machine.execResetHoldEnd s
  | .resetNRise split pmbAddr => Sys2Proof.Machine.execResetNRise split pmbAddr s
  | .selfRefreshExit bad => Sys2Proof.Machine.execSelfRefreshExit bad s
  | .stackTrainingDone c good => Sys2Proof.Machine.execStackTrainingDone c good s
  | .standbyPower pmbAddr => Sys2Proof.Machine.execStandbyPower s pmbAddr
  | .pwrEnRise => Sys2Proof.Machine.execPwrEnRise s
  | .pwrgd => Sys2Proof.Machine.execPwrgd s
  | .pwrEnFall => Sys2Proof.Machine.execPwrEnFall s
  | .inputUndervoltage => Sys2Proof.Machine.execInputUndervoltage s
  | .inputOvervoltage => Sys2Proof.Machine.execInputOvervoltage s
  | .standbyLoss => Sys2Proof.Machine.execStandbyLoss s
  | .stackTemperature c t => Sys2Proof.Machine.execStackTemperature c t s
  | .lnkPortDisable who p disable => Sys2Proof.Machine.execLnkPortDisable who p disable s
  | .priorityFlowControl p prio pause => Sys2Proof.Machine.execPriorityFlowControl p prio pause s
  | .pmbusNack code addr => Sys2Proof.Machine.execPmbusNack code s addr
  | .configurationRequest h req => Sys2Proof.Machine.execConfigurationRequest h req s
  | .thermalTripClear => Sys2Proof.Machine.execThermalTripClear s

end Sys2Proof.Machine
end

