-- ==== Sys2Proof/Safety.lean ====
section
/-! DEFINITION. What claims about the device are said in: when its logic and its engines act, when a requester's access goes
through, when a record can issue and the state a record's issue leaves, and the legal contents of the fuses. -/

namespace Sys2Proof.Machine

/-- The logic is not held in reset (R481, R484). -/
def State.live (s : State) : Prop := s.power.held = false

/-- The engines issue: the logic is live and nothing has tripped (R420, R422). -/
def State.issuing (s : State) : Prop := s.power.held = false ∧ s.fld Reg.SIO_STATUS 3 2 = 0

/-- A register access of a requester goes through: the logic is live, the part has the requester (R23, R389), and a host's
port does not hold it while the operating point changes (R478). -/
def State.admitted (s : State) (who : Requester) : Prop :=
  s.power.held = false ∧ s.reqExists who = true ∧ s.portHeld who = false

/-- The record at the front of queue q is `r`, of opcode `op`, with a whole inline chain, and its stream can issue it (R90,
R94, R99). -/
def State.ready (s : State) (q op : Nat) (r : Fetched) (rest : List Fetched) : Prop :=
  s.issuing ∧ q < 2048 ∧ s.canIssue q = true ∧ (s.queue q).fetched = r :: rest ∧ r.op = op ∧ chainFail 0 r.chain = none

/-- The state in which a record of queue q does its work: the environment of the command is in place. -/
def State.starting (s : State) (q : Nat) (r : Fetched) (env : Env) : State :=
  { s with env := env, token := .record q r.num, needs := [] }

/-- Who runs a record of queue q. -/
def State.ctx (s : State) (q : Nat) (r : Fetched) : Ctx := ⟨q, s.queueCore q, r⟩

/-- The state after a record issues that does the work `w` in its starting state: the stream and the queue take note of it.
Where its accesses wait for the outside, none of the work has happened, the waits are sent, and the record is parked. -/
def State.issued (s : State) (q : Nat) (r : Fetched) (w : State × Phase) : State :=
  if w.1.needs = [] then (w.1.closeTok (.record q r.num)).pushIssued q r w.2
  else ((s.sendNeeds (.record q r.num) w.1.needs).hold (s.ctx q r)).pushIssued q r (.parked .memory)

/-- A request of a command waits on a channel whose server takes it up now: its words are `ws`, its header is well formed and
names the command and `n` words, and the state once it has been taken is `t` (R411, R414, R427). -/
def State.asked (s : State) (ch : Chan) (cmd n : Nat) (ws : List Nat) (t : State) : Prop :=
  s.power.held = false ∧ chanOk ch = true ∧ s.chanReady ch = true ∧ s.request ch = some (ws, t) ∧ s.servesOn ch cmd = true ∧
  s.overloaded ch = false ∧ hdrCmd (ws.getD 0 0) = cmd ∧ hdrLen (ws.getD 0 0) = n ∧ bits (ws.getD 0 0) 10 8 = 0 ∧
  bits (ws.getD 0 0) 7 0 = 0

/-- What a program of fuses may hold: at most 64 anti-rollback fuses, four disabled core sites and 4-bit straps for the host
ports (R16, R24, R389). -/
def Fuses.legal (f : Fuses) : Prop := f.svn ≤ 64 ∧ f.offSites.length = 4 ∧ f.split < 16 ∧ f.pmbAddr < 8

/-- Commands that act whether or not the logic is held in reset: PMBus, the hardware loops on standby power, and what the board and
the supplies do (R425, R444, R481–R487, R501). -/
def standby : Instr → Bool
  | .clearFaults _ | .statusWord _ | .readVin _ | .readIin _ | .readTemperature1 _ | .readTemperature2 _ | .readPin _
  | .pmbusRevision _ | .pmbusNack _ _ | .resetNFall _ | .resetHoldEnd | .resetNRise _ _ | .selfRefreshExit _
  | .stackTrainingDone _ _ | .standbyPower _ | .pwrEnRise | .pwrgd | .pwrEnFall | .inputUndervoltage | .inputOvervoltage
  | .standbyLoss | .thermSample _ | .thermtripN | .ocSample _ | .damperSample _ _ | .capMiss | .thermalTripClear => true
  | _ => false

/-- Commands in which an engine issues or goes on with work: a trip stops them (R420, R422). -/
def issues : Instr → Bool
  | .recordFetch _ _ | .sealReread _ _ | .nop _ _ | .belay _ _ | .signal _ _ | .signalTakesEffect _ | .wait _ _
  | .put _ _ | .step _ _ | .mload _ _ | .mloadi _ _ | .mma _ _ | .mmaFirstRowEntry _ _ _ _ _ | .tzero _ _
  | .tload _ _ | .tcombine _ _ | .tstore _ _ | .treduce _ _ | .interlockRelease _ _ | .vset _ _ | .vop _ _
  | .vreduce _ _ | .emload _ _ | .emrun _ _ | .slotHoldEnd _ _ | .actx _ _ | .asoft _ _ | .afold _ _ | .adelta _ _
  | .aback _ _ | .kvmap _ _ | .kvput _ _ | .kvmass _ _ | .kvtrim _ _ | .rank _ _ | .descriptorArrival _ _
  | .evictionStart _ _ | .hctx _ _ | .hcopy _ _ | .wfill _ _ | .prefetch _ _ _ | .wrel _ _ | .porter _ _ | .unorm _ _
  | .usweep _ _ | .shardBegin _ | .chunkCommit _ | .shardEnd _ | .urule _ _ | .usnap _ _ | .rsdata _ _ _
  | .agdata _ _ _ | .tail _ _ _ | .putFrame _ _ _ _ | .rreq _ _ _ | .repairSourceStart _ _ | .rdata _ _ _ _
  | .lreduce _ _ | .lrepair _ _ => true
  | _ => false

/-! ## Register writes -/

/-- Registers, by the offset of element 0 of their row, whose software write does more than store their fields. -/
def actingRegs : List Nat :=
  [Reg.RTE_CTRL, Reg.CQ_SQ_CTRL 0, Reg.CQ_SQ_BASE 0, Reg.CQ_SQ_CFG 0, Reg.CQ_CQ_BASE 0, Reg.CQ_CQ_CFG 0, Reg.CQ_FLUSH_ADDR 0,
   Reg.CQ_DOORBELL 0, Reg.CQ_CQ_HEAD 0, Reg.CQ_ANCHOR 0, Reg.CQ_ANCHOR_ADD 0, Reg.ATT_KV_CTRL 0, Reg.ATT_KV_CFG 0,
   Reg.ATT_KV_FT 0, Reg.ATT_LAB_INV 0, Reg.ATT_WALK_CFG, Reg.MEM_SEAL_OP, Reg.HAUL_LPOOL 0, Reg.UPD_SHARD_TBL,
   Reg.UPD_GROUP_TBL, Reg.UPD_NORM_TBL, Reg.UPD_REC_TBL, Reg.UPD_DIG_TBL, Reg.UPD_SHARD_CNT, Reg.UPD_JOURNAL,
   Reg.UPD_NORM_LIMIT, Reg.LNK_PORT_CTRL 0, Reg.LNK_PARTY_SEQ 0, Reg.LNK_CFG, Reg.HST_SPILL_CFG 0, Reg.HST_SPILL_SIZE 0,
   Reg.HST_BIAS_OP, Reg.HST_CFG, Reg.MBX_DN_DATA 0 0, Reg.MBX_UP_DATA 0 0, Reg.MBX_DN_POST 0, Reg.MBX_UP_POST 0,
   Reg.MBX_DN_CTRL 0, Reg.MBX_UP_CTRL 0, Reg.MBX_CFG 0, Reg.SIO_THERM_CFG, Reg.SIO_OC_LIMIT 0, Reg.SIO_LOG_BASE,
   Reg.SIO_ALARM_ACK, Reg.CLK_CTRL, Reg.CLK_RESET, Reg.PWR_CAP]

/-- Bit i of a register after software has written the bit v where it held the bit old (R7): by the access type of its
field. -/
def writtenBit (acc : Access) (old v : Bool) : Bool :=
  match acc with
  | .rw => v
  | .w1c => old && !v
  | .w1s => old || v
  | .ro | .wo | .rc => old

/-- A write of a register reaches it whole: 64 bits for a 64-bit register, 32 bits for a 32-bit one (R11). -/
def writeOf (width : Nat) (v : Word) : WData := if width = 64 then .w64 v else .w32 (v.truncate 32)

end Sys2Proof.Machine
end

