-- ==== Sys2Proof/Certificates/Slice0/Obligations.lean ====
section
/-! DEFINITION. The statements for the provers: what the block's commands do, family by family, as the rules of spec/ say. -/

open Sys2Proof Sys2Proof.Machine

/-! ## Steps, the queue of commands, and what every command keeps -/

/-- A step takes the command at the front of the queue and runs it on the state with the queue's rest. -/
def Obligations.StepRunsFrontCommand : Prop :=
  ∀ (c : Instr) (rest : List Instr) (s : State), s.pending = c :: rest → step s = exec c { s with pending := rest }

/-- With no command waiting a step is one cycle of the reference clock (the model's choice, notes/assumptions/2.md): CLK_TIME adds
1 modulo 2^64 while standby power is there (R476); a reply that waits for a private read over I3C is fetched then (R468; that no
command is the private read is the model's choice, notes/assumptions/106.md); and nothing else changes. -/
def Obligations.IdleStepCountsReferenceClock : Prop :=
  ∀ s : State, s.pending = [] → ∃ t, step s = .next t ∧
    t.reg Reg.CLK_TIME = s.reg Reg.CLK_TIME + (if s.power.standby then 1 else 0) ∧
    (∀ off, off ≠ Reg.CLK_TIME → t.reg off = s.reg off) ∧ t.i3cHeld = none ∧
    t.out = s.out ++ (s.i3cHeld.toList.map fun b => Out.board (some b)) ∧
    t = { s with regs := t.regs, out := t.out, i3cHeld := t.i3cHeld }

/-- No command but those waiting behind it is ever put into the queue or taken from it: exec leaves the queue alone. -/
def Obligations.ExecKeepsQueue : Prop :=
  ∀ (c : Instr) (s t : State), exec c s = .next t → t.pending = s.pending

/-- Every command either answers a next state or names a part that the device does not have; none is refused. On a part whose host
ports are all split, so that all eight hosts exist, every well-formed command answers. -/
def Obligations.CommandsAnswer : Prop :=
  (∀ (c : Instr) (s : State), (∃ t, exec c s = .next t) ∨ exec c s = .fault .noSuchPart) ∧
  (∀ (c : Instr) (s : State), c.wf = true → s.fuses.split = 15 → ∃ t, exec c s = .next t)

/-- While the logic is held in reset, only what the board, PMBus and the supplies do has an effect. After a thermal or overcurrent
trip the engines issue nothing. That a command which does not apply changes nothing is the model's choice
(notes/assumptions/1.md). -/
def Obligations.HeldOrTrippedLogic : Prop :=
  (∀ (c : Instr) (s : State), s.power.held = true → standby c = false → exec c s = .next s ∨ exec c s = .fault .noSuchPart) ∧
  (∀ (c : Instr) (s : State), s.fld Reg.SIO_STATUS 3 2 ≠ 0 → issues c = true →
     exec c s = .next s ∨ exec c s = .fault .noSuchPart)

/-- What fuses, ROM and straps fix: a step leaves the fuses' contents legal, the anti-rollback count never falls, only the command
SVN_COMMIT can raise it, only RESET_N_RISE samples the straps SPLIT (R483) and only STANDBY_POWER, where it was absent, the straps
PMB_ADDR (R497), and nothing changes the rest. -/
def Obligations.StepKeepsFusesLegal : Prop :=
  ∀ s t : State, s.fuses.legal → step s = .next t →
    t.fuses.legal ∧ s.fuses.svn ≤ t.fuses.svn ∧
    (s.fuses.svn ≠ t.fuses.svn → ∃ ch hint cut rest, s.pending = .svnCommit ch hint cut :: rest) ∧
    (s.fuses.split ≠ t.fuses.split → ∃ a b rest, s.pending = .resetNRise a b :: rest) ∧
    (s.fuses.pmbAddr ≠ t.fuses.pmbAddr → s.power.standby = false ∧ ∃ a rest, s.pending = .standbyPower a :: rest) ∧
    t.fuses = { s.fuses with svn := t.fuses.svn, split := t.fuses.split, pmbAddr := t.fuses.pmbAddr }

/-- The state after reset has legal fuses (the fuses' contents are the model's choice, notes/assumptions/3.md), no command
waiting, every register at its reset value but that every Aedlink port, left enabled, already trains (R353; that the hold has
ended is the model's choice, notes/assumptions/4.md), no memory contents listed, no poison, every page OPEN and in DEVICE bias,
every anchor 0, every queue DISABLED and no image in force. -/
def Obligations.ResetState : Prop :=
  State.reset.fuses.legal ∧ State.reset.pending = [] ∧ (∀ p < 18, (State.reset.reg (Reg.LNK_PORT_STATUS p)).toNat = 0x3FC00000001) ∧
  (∀ off, (∀ p < 18, off ≠ Reg.LNK_PORT_STATUS p) → State.reset.reg off = regReset off) ∧
  State.reset.mem.cells = [] ∧ (∀ l, State.reset.poisoned l = false) ∧ (∀ a, State.reset.sealOf a = 0 ∧ State.reset.biasOf a = 0) ∧
  (∀ a, State.reset.anchor a = 0) ∧ (∀ q, queueState (State.reset.queue q) = 0) ∧ State.reset.loaded = false

/-! ## Register space and the address map (00_scope.md, 01_chip_and_subsystems.md) -/

/-- Every requester writes a register the same way (R7, R13): the field's access type decides what each bit becomes, bits in no
field keep their value, and no other register and nothing else of the device changes but the requester's split-access state. This
holds for every register whose write has no further effect of its own. Some configuration registers bound or refuse what a write
brings: the timeouts of ATT_WALK_CFG and HST_CFG are at least 10, PWR_CAP.WATTS lies from 800 to 2,400 (R479), SIO_THERM_CFG's
trip and warning are at most 105 and 100 and a rail's limit at most its factory value (R424; that 105, 100 and the fuses' limits
are the factory values is the model's choice, notes/assumptions/66.md), RED_TIMEOUT of LNK_CFG and TIMEOUT_MS of MBX_CFG are at
least 1, and no other register changes. HST_SPILL_SIZE.GIB stays, with REJECT set, while its window's EN reads 1 (R397). A write
of HAUL_LPOOL with a context open on the local pool or a range past 96 granules, of a region's ATT_KV_CFG or ATT_KV_FT while it is
READY, or of the update unit's configuration during a sweep leaves the register as it was and sets the reject flag; otherwise it
acts by the access types and changes no other register. -/
def Obligations.RegisterWriteByAccessType : Prop :=
  (∀ (who : Requester) (off : Nat) (r : RegDesc) (v : Word) (env : Env) (s : State),
     s.admitted who → s.noHostReg off = false → findReg off = some r → r.base ∉ actingRegs → (r.width = 32 → v.toNat < 2 ^ 32) →
     ∃ t, exec (.registerWrite who off (writeOf r.width v) env) s = .next t ∧
       (∀ f ∈ r.fields, ∀ i, f.lo ≤ i → i ≤ f.hi →
         (t.reg off).getLsbD i = writtenBit f.acc ((s.reg off).getLsbD i) (v.getLsbD i)) ∧
       (∀ i, (∀ f ∈ r.fields, i < f.lo ∨ f.hi < i) → (t.reg off).getLsbD i = (s.reg off).getLsbD i) ∧
       (∀ o, o ≠ off → t.reg o = s.reg o) ∧ t = { s.setPort who {} with regs := t.regs }) ∧
  (∀ (who : Requester) (off : Nat) (r : RegDesc) (v : Word) (env : Env) (s : State),
     s.admitted who → s.noHostReg off = false → findReg off = some r → (r.width = 32 → v.toNat < 2 ^ 32) →
     ∃ t, exec (.registerWrite who off (writeOf r.width v) env) s = .next t ∧
       (off = Reg.ATT_WALK_CFG ∨ off = Reg.HST_CFG →
         t.fld off 15 0 = max 10 (fget v 15 0) ∧ ∀ o, o ≠ off → t.reg o = s.reg o) ∧
       (off = Reg.PWR_CAP → t.fld off 11 0 = max 800 (min 2400 (fget v 11 0)) ∧ ∀ o, o ≠ off → t.reg o = s.reg o) ∧
       (off = Reg.SIO_THERM_CFG → t.fld off 15 8 = min 105 (fget v 15 8) ∧ t.fld off 7 0 = min 100 (fget v 7 0) ∧
         ∀ o, o ≠ off → t.reg o = s.reg o) ∧
       (off = Reg.LNK_CFG → t.fld off 31 16 = max 1 (fget v 31 16) ∧ t.fld off 15 0 = fget v 15 0 ∧ ∀ o, o ≠ off → t.reg o = s.reg o) ∧
       (∀ m < 32, off = Reg.MBX_CFG m → t.fld off 31 16 = max 1 (fget v 31 16) ∧ t.fld off 11 0 = fget v 11 0 ∧
         ∀ o, o ≠ off → t.reg o = s.reg o) ∧
       (∀ k < 12, off = Reg.SIO_OC_LIMIT k → t.ocLimitOf k = min (s.ocFactory k) (fget v 15 0) ∧
         (∀ j, j ≠ k → t.ocLimitOf j = s.ocLimitOf j) ∧ t = { s.setPort who {} with ocLimit := t.ocLimit }) ∧
       (∀ h < 8, off = Reg.HST_SPILL_SIZE h →
         (s.fld (Reg.HST_SPILL_CFG h) 0 0 = 1 → t = (s.setPort who {}).raise (Reg.HST_HOST_EVENT h) 6 (Reg.HST_HOST_EVENT_CNT1 h) 32) ∧
         (s.fld (Reg.HST_SPILL_CFG h) 0 0 = 0 → t.fld off 10 0 = fget v 10 0 ∧ (∀ o, o ≠ off → t.reg o = s.reg o) ∧
           t = { s.setPort who {} with regs := t.regs })) ∧
       ∀ (ev i : Nat) (bad : Prop),
         (∃ n, n < 128 ∧ off = Reg.HAUL_LPOOL n ∧ ev = Reg.HAUL_EVENT n ∧ i = 3 ∧
             (bad ↔ (∃ c ∈ (s.haul n).ctxs, ∃ x, c.2 = some x ∧ x.pool = 0x7E) ∨ 96 < fget v 22 16 + fget v 6 0)) ∨
           (∃ g, g < 16 ∧ (off = Reg.ATT_KV_CFG g ∨ off = Reg.ATT_KV_FT g) ∧ ev = Reg.ATT_KV_EVENT g ∧ i = 4 ∧
             (bad ↔ s.fld (Reg.ATT_KV_STATUS g) 1 1 = 1)) ∨
           (off ∈ [Reg.UPD_SHARD_TBL, Reg.UPD_GROUP_TBL, Reg.UPD_NORM_TBL, Reg.UPD_REC_TBL, Reg.UPD_DIG_TBL, Reg.UPD_SHARD_CNT,
               Reg.UPD_JOURNAL, Reg.UPD_NORM_LIMIT] ∧ ev = Reg.UPD_EVENT ∧ i = 3 ∧
             (bad ↔ s.updRunning ≠ none ∨ s.upd.sweep ≠ none)) →
         (bad → t.reg off = s.reg off ∧ t.fld ev i i = 1) ∧
         (¬ bad → (∀ f ∈ r.fields, ∀ j, f.lo ≤ j → j ≤ f.hi →
             (t.reg off).getLsbD j = writtenBit f.acc ((s.reg off).getLsbD j) (v.getLsbD j)) ∧
           ∀ o, o ≠ off → t.reg o = s.reg o))

/-- Split accesses to 64-bit registers (R11): a low-half write is held for its requester and changes no register; the high-half
write that follows acts as one 64-bit write would; with no low half pending for that register it changes no register but what R12
counts. Another requester's pending half and latch are not disturbed. A low-half read returns the low half and latches the high
half, which the requester's next read of the high half returns. What R12 counts: an access that is unmapped, ill-formed under R11
or to an absent host adds 1 to SYS_STATUS.UNMAPPED_CNT, leaves its address and requester in SYS_UNMAPPED_ADDR, and posts
EV_REG_UNMAPPED; a write changes nothing else but the requester's split-access state, and a read returns zero. The event's slot is
the requester's (the model's choice, notes/assumptions/22.md). A well-formed access to a register is not counted: a single 64-bit
read of a 64-bit register returns its whole value and ends the requester's latch, and a 32-bit read is that read; a well-formed
write given here has no effect (the model's choice, notes/assumptions/17.md). That a command which does not apply changes nothing
is the model's choice (notes/assumptions/1.md). -/
def Obligations.RegisterAccesses : Prop :=
  (∀ (who : Requester) (off : Nat) (r : RegDesc) (s : State),
     s.admitted who → s.noHostReg off = false → findReg off = some r → r.width = 64 →
     (∀ l, ∃ t, exec (.splitLowWrite who off l) s = .next t ∧ (t.port who) = { low := some (off, l), latch := none } ∧
       (∀ w, reqNum w ≠ reqNum who → t.port w = s.port w) ∧ t = { s with ports := t.ports }) ∧
     (∀ l h env, (s.port who).low = some (off, l) →
       exec (.registerWrite who off (.w32 h) env) s = exec (.registerWrite who off (.w64 (h ++ l)) env) s) ∧
     (∀ h env, writesMemory off = false → (∀ l, (s.port who).low ≠ some (off, l)) →
       exec (.registerWrite who off (.w32 h) env) s = .next ((s.setPort who {}).unmapped who (off + 4))) ∧
     (off % 4 = 0 → ∃ t, exec (.splitLowRead who off) s = .next t ∧
       t.out = s.out ++ [.regRead who off ((s.view off).toNat % 2 ^ 32)] ∧
       (t.port who).latch = some (off, BitVec.ofNat 32 ((s.view off).toNat / 2 ^ 32)) ∧
       (t.port who).low = (s.port who).low ∧ t = { s with ports := t.ports, out := t.out }) ∧
     (∀ h, off % 8 = 0 → findReg (off + 4) = none → s.noHostReg (off + 4) = false → (s.port who).latch = some (off, h) →
       ∃ t, exec (.splitLowRead who (off + 4)) s = .next t ∧ t.out = s.out ++ [.regRead who (off + 4) h.toNat] ∧
         (t.port who).latch = none ∧ t = { s with ports := t.ports, out := t.out })) ∧
  (∀ (who : Requester) (off size : Nat) (s : State), s.admitted who →
     ((illFormed size off = true ∨ s.noHostReg off = true) →
       exec (.unmappedAccess who off size true) s = .next ((s.setPort who {}).unmapped who off) ∧
       exec (.unmappedAccess who off size false) s =
         .next (((s.setPort who { s.port who with latch := none }).unmapped who off).emit (.regRead who off 0))) ∧
     (illFormed size off = false → s.noHostReg off = false →
       exec (.unmappedAccess who off size true) s = .next s ∧
       (size = 8 → exec (.unmappedAccess who off size false) s =
         .next ((s.setPort who { s.port who with latch := none }).emit (.regRead who off (s.view off).toNat))) ∧
       (size ≠ 8 → exec (.unmappedAccess who off size false) s = exec (.splitLowRead who off) s)) ∧
     (s.unmapped who off).fld Reg.SYS_STATUS 63 32 = (s.fld Reg.SYS_STATUS 63 32 + 1) % 2 ^ 32 ∧
     ((s.unmapped who off).reg Reg.SYS_UNMAPPED_ADDR).toNat = reqNum who % 256 * 2 ^ 56 + (regBase + off) % 2 ^ 52 ∧
     ∃ u : State, s.unmapped who off = u.post (reqSlot who) 0x0001 1 ((regBase + off) % 2 ^ 52 + reqNum who * 2 ^ 56))

/-- Setting a W1C flag (R9): the flag's bit reads 1, the 16-bit counter beside it adds 1 and wraps from 0xFFFF to 0, and every
other bit of the two registers, every other register and everything else keep their values. -/
def Obligations.FlagCountsEverySet : Prop :=
  ∀ (s : State) (flag i cnt lo : Nat), flag ≠ cnt → i < 64 → lo + 15 < 64 →
    (s.raise flag i cnt lo).fld flag i i = 1 ∧
    (s.raise flag i cnt lo).fld cnt (lo + 15) lo = (s.fld cnt (lo + 15) lo + 1) % 2 ^ 16 ∧
    (∀ j, j < 64 → j ≠ i → ((s.raise flag i cnt lo).reg flag).getLsbD j = (s.reg flag).getLsbD j) ∧
    (∀ j, j < lo ∨ lo + 15 < j → ((s.raise flag i cnt lo).reg cnt).getLsbD j = (s.reg cnt).getLsbD j) ∧
    (∀ o, o ≠ flag → o ≠ cnt → (s.raise flag i cnt lo).reg o = s.reg o) ∧
    s.raise flag i cnt lo = { s with regs := (s.raise flag i cnt lo).regs }

/-- A write that sets more than one action bit of RTE_CTRL, CQ_SQ_CTRL or ATT_KV_CTRL is ignored as a whole and none of the
actions is taken; the REJECT flag of the register's block is set, for RTE_CTRL with EV_RTE_BUSY, which carries the loader's state
and failure (R78; that its STEP is RTE_SEQ is the model's choice, notes/assumptions/92.md); a write that sets none of them has no
effect (R508). -/
def Obligations.ActionBitsOneAtATime : Prop :=
  ∀ (who : Requester) (v : Word32) (env : Env) (s : State), s.admitted who →
    (2 ≤ popCount 3 (v.toNat % 8) →
      exec (.registerWrite who Reg.RTE_CTRL (.w32 v) env) s = .next (((s.setPort who {}).raise Reg.RTE_EVENT 4 Reg.RTE_EVENT_CNT1 0).postStep
        slotLoader (s.reg Reg.RTE_SEQ).toNat 0x0104 1
        (s.fld Reg.RTE_STATUS 31 24 + s.fld Reg.RTE_ERR 63 48 * 2 ^ 8 + s.fld Reg.RTE_ERR 31 0 * 2 ^ 24)) ∧
      ∀ q < 2048, exec (.registerWrite who (Reg.CQ_SQ_CTRL q) (.w32 v) env) s =
        .next ((s.setPort who {}).raise (Reg.CQ_EVENT q) 2 (Reg.CQ_EVENT_CNT0 q) 32)) ∧
    (v.toNat % 8 = 0 →
      exec (.registerWrite who Reg.RTE_CTRL (.w32 v) env) s = .next (s.setPort who {}) ∧
      ∀ q < 2048, exec (.registerWrite who (Reg.CQ_SQ_CTRL q) (.w32 v) env) s = .next (s.setPort who {})) ∧
    (∀ r < 16, (v.toNat % 4 = 3 →
      exec (.registerWrite who (Reg.ATT_KV_CTRL r) (.w32 v) env) s = .next ((s.setPort who {}).raise (Reg.ATT_KV_EVENT r) 4 (Reg.ATT_KV_EVENT_CNT1 r) 0)) ∧
      (v.toNat % 4 = 0 → exec (.registerWrite who (Reg.ATT_KV_CTRL r) (.w32 v) env) s = .next (s.setPort who {})))

/-! ## Memory, seals and the stacked-memory controllers (08_memory_tiers.md) -/

/-- Core-local memory keeps what is written to it: where no line of the machine is poisoned, the memories report nothing and only
pages of stacked memory have a bias state, a read returns the bytes held and changes nothing, and a write stores its bytes, leaves
every other byte alone, reports no error and changes nothing but memory. -/
def Obligations.CoreLocalAccessesExact : Prop :=
  ∀ (s : State) (src : Src) (n a : Nat) (data : List Byte), n < 128 → inLocal n a data.length = true →
    s.env.faults = [] → s.poison = [] → (∀ p, 589824 ≤ p → mget 0 s.bias p = 0) →
    s.readMem src a data.length = (s, ⟨s.mem.bytes a data.length, [], none⟩) ∧
    ∃ t, s.writeMem src a data = (t, none) ∧ t.mem.bytes a data.length = data ∧
      (∀ x, x < a ∨ a + data.length ≤ x → t.mem.byte x = s.mem.byte x) ∧ t = { s with mem := t.mem }

/-- Reads, writes and events that make memory undefined keep memory in its canonical form: cells in rising order, and no cell
equal to what an unlisted address reads as. -/
def Obligations.MemoryStaysCanonical : Prop :=
  ∀ (s : State) (src : Src) (a len : Nat) (data : List Byte) (bad : List Nat), s.mem.wf = true →
    (s.readMem src a len).1.mem.wf = true ∧ (s.writeMemP src a data bad).1.mem.wf = true ∧
    (s.openRange a len).mem.wf = true

/-- Every command that is a write of one register (an action bit, a doorbell, an anchor, a ring head, a seal, bias, log, clock or
reset operation) has the outcome of that register write, whatever the state (R65, R67, R68, R83, R95, R103, R107, R114, R229,
R235, R266, R267, R269, R353, R372, R397, R404, R411, R429, R440, R475, R478, R484). That such a command is one full-width write
with every other field 0, RETRAIN with DISABLE as it stands, is the model's choice (notes/assumptions/16.md). -/
def Obligations.RegisterCommandsAreWrites : Prop :=
  ∀ (who : Requester) (s : State) (env : Env) (k : Nat) (v : Word32) (d : WData) (first count : BitVec 20) (host : BitVec 3)
    (slot : BitVec 4),
    let w (off : Nat) (d : WData) (env : Env) := exec (.registerWrite who off d env) s
    exec (.quiesce who env) s = w Reg.RTE_CTRL (.w32 1) env ∧ exec (.loadImage who env) s = w Reg.RTE_CTRL (.w32 2) env ∧
    exec (.resume who env) s = w Reg.RTE_CTRL (.w32 4) env ∧
    (k < 2048 → exec (.queueOn who k) s = w (Reg.CQ_SQ_CTRL k) (.w32 1) {} ∧ exec (.queueOff who k) s = w (Reg.CQ_SQ_CTRL k) (.w32 2) {} ∧
      exec (.cancel who k env) s = w (Reg.CQ_SQ_CTRL k) (.w32 4) env ∧ exec (.doorbell who k d) s = w (Reg.CQ_DOORBELL k) d {} ∧
      exec (.cqHeadWrite who k v env) s = w (Reg.CQ_CQ_HEAD k) (.w32 v) env) ∧
    (k < 4096 → exec (.anchorSet who k v) s = w (Reg.CQ_ANCHOR k) (.w32 v) {} ∧
      exec (.anchorAdd who k v) s = w (Reg.CQ_ANCHOR_ADD k) (.w32 v) {}) ∧
    (k < 16 → exec (.kvInit who k) s = w (Reg.ATT_KV_CTRL k) (.w32 1) {} ∧ exec (.kvDisable who k) s = w (Reg.ATT_KV_CTRL k) (.w32 2) {} ∧
      exec (.labInv who k d) s = w (Reg.ATT_LAB_INV k) d {}) ∧
    exec (.sealPages who first count) s = w Reg.MEM_SEAL_OP (.w64 ((1 : BitVec 2) ++ (0 : BitVec 22) ++ count ++ first)) {} ∧
    exec (.unsealPages who first count) s = w Reg.MEM_SEAL_OP (.w64 ((2 : BitVec 2) ++ (0 : BitVec 22) ++ count ++ first)) {} ∧
    exec (.spillSeal who host slot first count) s =
      w Reg.MEM_SEAL_OP (.w64 ((3 : BitVec 3) ++ slot ++ host ++ (0 : BitVec 14) ++ count ++ first)) {} ∧
    exec (.spillUnseal who host slot) s = w Reg.MEM_SEAL_OP (.w64 ((5 : BitVec 3) ++ slot ++ host ++ (0 : BitVec 54))) {} ∧
    exec (.toDevice who first count) s = w Reg.HST_BIAS_OP (.w64 ((1 : BitVec 2) ++ (0 : BitVec 22) ++ count ++ first)) {} ∧
    (k < 8 → ∀ base : BitVec 52, exec (.spillEnable who k base) s = w (Reg.HST_SPILL_CFG k) (.w64 (base ++ (1 : BitVec 12))) {}) ∧
    (k < 18 → exec (.lnkPortDisable who k true) s = w (Reg.LNK_PORT_CTRL k) (.w32 1) {} ∧
      exec (.lnkPortDisable who k false) s = w (Reg.LNK_PORT_CTRL k) (.w32 0) {} ∧
      exec (.retrain who k) s = w (Reg.LNK_PORT_CTRL k) (.w32 (BitVec.ofNat 32 (2 + s.fld (Reg.LNK_PORT_CTRL k) 0 0))) {}) ∧
    (k < 4 → exec (.lnkPartySeqWrite who k d) s = w (Reg.LNK_PARTY_SEQ k) d {}) ∧
    (k < 32 → exec (.mbxPost who k true) s = w (Reg.MBX_UP_POST k) (.w32 1) {} ∧
      exec (.mbxPost who k false) s = w (Reg.MBX_DN_POST k) (.w32 1) {}) ∧
    (∀ e : BitVec 6, exec (.alarmAckEntry who e) s = w Reg.SIO_ALARM_ACK (.w32 ((0 : BitVec 26) ++ e)) {}) ∧
    exec (.alarmAckAll who) s = w Reg.SIO_ALARM_ACK (.w32 0x100) {} ∧
    (∀ a : BitVec 31, exec (.logEnable who a env) s = w Reg.SIO_LOG_BASE (.w64 ((0 : BitVec 12) ++ a ++ (1 : BitVec 21))) env) ∧
    (∀ (opp : BitVec 2) (spread : BitVec 6), exec (.oppApply who opp spread) s =
      w Reg.CLK_CTRL (.w32 ((0 : BitVec 16) ++ (1 : BitVec 1) ++ (0 : BitVec 1) ++ spread ++ (0 : BitVec 6) ++ opp)) {}) ∧
    ∀ (key : BitVec 8) (keep : Bool), exec (.clkReset who key keep) s =
      w Reg.CLK_RESET (.w32 ((0 : BitVec 16) ++ key ++ (0 : BitVec 7) ++ BitVec.ofBool keep)) {}

/-- Seal operations (R266, R267, R269, R270). SEAL of OPEN pages waits for earlier writes and SEAL_DONE then makes every page of
the range SEALED, or ends with CODE STATE where the ring of the cairn log has taken one of them meanwhile (R429); UNSEAL makes
SEALED pages DRAINING, and UNSEAL_DONE, once no window holds them, OPEN; a spill SEAL fills a free slot, a spill UNSEAL drains it
and UNSEAL_DONE frees it. Pages and slots outside the operation keep their state. -/
def Obligations.SealOperations : Prop :=
  ∀ (who : Requester) (s : State) (first count : BitVec 20) (host : BitVec 3) (slot : BitVec 4), s.admitted who →
    let u := s.setPort who {}
    let range := 1 ≤ count.toNat ∧ first.toNat + count.toNat ≤ 589824
    let all (st : Nat) := ∀ i, first.toNat ≤ i → i < first.toNat + count.toNat → mget 0 s.seals i = st
    let slotOf (s : State) (i : Nat) := mget {} s.spillSeals (16 * host.toNat + i)
    (s.sealOp = none → range → all 0 → (∀ i, first.toNat ≤ i → i < first.toNat + count.toNat → s.ringPage i = false) →
      exec (.sealPages who first count) s = .next { u with sealOp := some (.sealPages first.toNat count.toNat) }) ∧
    (s.sealOp = some (.sealPages first.toNat count.toNat) →
      (∀ i, first.toNat ≤ i → i < first.toNat + count.toNat → s.ringPage i = false) →
      ∃ t, exec .sealDone s = .next t ∧ t.sealOp = none ∧
      t.fld Reg.MEM_SEAL_STATUS 63 56 = 0 ∧
      (∀ i, mget 0 t.seals i = if first.toNat ≤ i ∧ i < first.toNat + count.toNat then 1 else mget 0 s.seals i) ∧
      t = { s with sealOp := t.sealOp, seals := t.seals, regs := t.regs }) ∧
    (s.sealOp = some (.sealPages first.toNat count.toNat) →
      (∃ i, first.toNat ≤ i ∧ i < first.toNat + count.toNat ∧ s.ringPage i = true) →
      exec .sealDone s = .next { s.setFld Reg.MEM_SEAL_STATUS 63 56 2 with sealOp := none }) ∧
    (s.sealOp = none → range → all 1 → ∃ t, exec (.unsealPages who first count) s = .next t ∧
      t.sealOp = some (.unsealPages first.toNat count.toNat) ∧
      (∀ i, mget 0 t.seals i = if first.toNat ≤ i ∧ i < first.toNat + count.toNat then 2 else mget 0 s.seals i) ∧
      t = { u with sealOp := t.sealOp, seals := t.seals }) ∧
    (s.sealOp = some (.unsealPages first.toNat count.toNat) → s.heldWindows = 0 → ∃ t, exec .unsealDone s = .next t ∧
      t.sealOp = none ∧ t.fld Reg.MEM_SEAL_STATUS 63 56 = 0 ∧
      (∀ i, mget 0 t.seals i = if first.toNat ≤ i ∧ i < first.toNat + count.toNat then 0 else mget 0 s.seals i) ∧
      t = { s with sealOp := t.sealOp, seals := t.seals, regs := t.regs }) ∧
    (s.sealOp = none → 1 ≤ count.toNat → first.toNat + count.toNat ≤ 524288 → (slotOf s slot.toNat).state = 0 →
      (∀ j < 16, (slotOf s j).state ≠ 0 →
        (slotOf s j).first + (slotOf s j).count ≤ first.toNat ∨ first.toNat + count.toNat ≤ (slotOf s j).first) →
      exec (.spillSeal who host slot first count) s = .next ({ u with
        spillSeals := mset {} s.spillSeals (16 * host.toNat + slot.toNat) ⟨1, first.toNat, count.toNat⟩ }.setFld Reg.MEM_SEAL_STATUS 63 56 0)) ∧
    (s.sealOp = none → (slotOf s slot.toNat).state = 1 → exec (.spillUnseal who host slot) s = .next { u with
        spillSeals := mset {} s.spillSeals (16 * host.toNat + slot.toNat) ⟨2, (slotOf s slot.toNat).first, (slotOf s slot.toNat).count⟩
        sealOp := some (.unsealSlot host.toNat slot.toNat) }) ∧
    (s.sealOp = some (.unsealSlot host.toNat slot.toNat) → s.heldWindows = 0 → exec .unsealDone s = .next { s.setFld Reg.MEM_SEAL_STATUS 63 56 0 with
        spillSeals := mset {} s.spillSeals (16 * host.toNat + slot.toNat) {}, sealOp := none }) ∧
    (s.sealOp ≠ none → ∀ c ∈ [Instr.sealPages who first count, .unsealPages who first count, .spillSeal who host slot first count, .spillUnseal who host slot],
      exec c s = .next (u.raise Reg.MEM_EVENT 5 Reg.MEM_EVENT_CNT1 16))

/-- Where a stacked-memory byte lies (R259): the granule that holds it picks the stack and the pseudo-channel by its number modulo
their count, and its place there follows the regions before it; within a region no two bytes lie in one place. Under the default
map the byte 0x12345678 lies in stack 18, pseudo-channel 5, at offset 0x30E78. What the stacked-memory controllers do by
themselves. A request that times out is logged with its address and source and counts toward its pseudo-channel, which the 16th in
a row marks down (R278, R280, R282); a late answer is counted (R279); at the end of a one-second interval each stack above
CE_LIMIT sets CE_STORM, and counting starts again (R275); the bytes read in a 10 ms interval go to MEM_STK_BW (R263); REF_MODE
takes effect at a refresh boundary (R261); temperatures above 85 °C halve the refresh interval (R261); ECS counts add to
MEM_STK_CE (R260, R275). One log entry for each request, events under the controller's slot and ECS counts entering the CE_STORM
interval are the model's choice (notes/assumptions/13.md, 23.md, 52.md). The patrol scrub reads a burst of a stack in service
(R281): a poisoned or uncorrectable burst is given the poison mark and logged with source SCRUB, a corrected one is written back,
counted and posted, a good one changes only the byte counts and ends a run of timeouts. A read that does not reach its stack, or
is late, is logged as a timeout and counts toward its pseudo-channel (R262, R280). With SCRUB_H 0 nothing is read. That scrub
reads enter the byte counts is the model's choice (notes/assumptions/52.md). That a command which does not apply changes nothing
is the model's choice (notes/assumptions/1.md). -/
def Obligations.MemoryControllers : Prop :=
  ((∀ (rs : List Region) (a : Nat) (r : Region), regionOf rs a = some r → 0 < r.ways →
     let ss := setBitList 24 r.stackMask
     let ps := setBitList 64 r.pcMask
     let gran := 256 * 2 ^ r.granule
     let o := a - r.base
     let u := o / gran % (ss.length * ps.length)
     locate rs a = (ss.getD (u % ss.length) 0, ps.getD (u / ss.length) 0) ∧
     pcOffset rs a = pcBase rs r.base (locate rs a).1 (locate rs a).2 + o / gran / (ss.length * ps.length) * gran + o % gran ∧
     ∀ b, regionOf rs b = some r → locate rs b = locate rs a → pcOffset rs b = pcOffset rs a → b = a) ∧
   locate State.reset.image.regions 0x12345678 = (18, 5) ∧ pcOffset State.reset.image.regions 0x12345678 = 0x30E78) ∧
  (∀ (s : State), s.live →
     (∀ source id a write, a < stackedEnd → exec (.memTimeout source id a write) s = .next (s.keep ((s.memErr
       ⟨source, id, if source = 0 then id % 128 else if source = 1 then slotCC (id % 16) else if source = 2 then slotHost (id % 8) else slotSiolo⟩
       (if write then 4 else 3) a).pcTimeout (locate s.image.regions a).1 (locate s.image.regions a).2))) ∧
     (∀ c < 24, exec (.lateAnswer c) s = .next (s.count (Reg.MEM_STK_LATE c) 1)) ∧
     ((∀ c < 24, mget 0 s.ceSecond c ≤ s.fld Reg.MEM_CFG 15 0) → exec .ceIntervalEnd s = .next { s with ceSecond := [] }) ∧
     (∀ c < 24, s.fld Reg.MEM_CFG 15 0 < mget 0 s.ceSecond c → (∀ d < 24, d ≠ c → mget 0 s.ceSecond d ≤ s.fld Reg.MEM_CFG 15 0) →
       exec .ceIntervalEnd s = .next { (s.raise Reg.MEM_EVENT 4 Reg.MEM_EVENT_CNT1 0).post (slotStack c) 0x0304 1
         (c + mget 0 s.ceSecond c % 2 ^ 32 * 2 ^ 16) with ceSecond := [] }) ∧
     exec .refModeApply s = .next { s with refMode := s.fld Reg.MEM_CFG 24 24 } ∧
     (∃ t, exec .bwIntervalEnd s = .next t ∧ t.bwRead = [] ∧ (∀ c < 24, t.reg (Reg.MEM_STK_BW c) = BitVec.ofNat 64 (mget 0 s.bwRead c)) ∧
       (∀ o, (∀ c < 24, o ≠ Reg.MEM_STK_BW c) → t.reg o = s.reg o) ∧ t = { s with regs := t.regs, bwRead := t.bwRead }) ∧
     (∀ c < 24, ∀ n a, n ≠ 0 → exec (.ecsRead [(c, n, a)]) s = .next ({ s.count (Reg.MEM_STK_CE c) n with
       ceSecond := mmod 0 s.ceSecond c (· + n) }.post (slotStack c) 0x0305 0 (a % 2 ^ 52 + 2 ^ 52))) ∧
     (∀ c < 24, ∀ d, exec (.stackTemperature c d) s = .next ((s.setFld (Reg.MEM_STK_STATUS c) 15 8 d).setFld (Reg.MEM_STK_STATUS c) 1 1
       (if 85 < d then 1 else 0)))) ∧
  (∀ (s : State) (a : Nat) (f : Option MemFault), s.live →
     let c := (locate s.image.regions a).1
     let p := (locate s.image.regions a).2
     let down := s.stackUp c = false ∨ bit (s.reg (Reg.MEM_STK_PC_DOWN c)).toNat p = true ∨ f = some .timeout
     (a < stackedEnd → s.fld Reg.MEM_CFG 23 16 ≠ 0 → ¬ down →
       ∃ u, u = { ((s.pcDone c p).count (Reg.MEM_STK_RD c) 32) with bwRead := mmod 0 s.bwRead c (· + 32) } ∧
         exec (.patrolScrub a f) s = .next (s.keep (
           if f = some .uncorrectable ∨ s.poisoned (a / 32) then (u.setPoison (a / 32) true).memErr ⟨6, 0, slotStack c⟩ 5 (a / 32 * 32)
           else if f = some .corrected then (u.count (Reg.MEM_STK_WR c) 32).corrected c (a / 32 * 32) else u))) ∧
     (a < stackedEnd → s.fld Reg.MEM_CFG 23 16 ≠ 0 → down → exec (.patrolScrub a f) s =
       .next (s.keep ((s.memErr ⟨6, 0, slotStack c⟩ 3 (a / 32 * 32)).pcTimeout c p))) ∧
     (stackedEnd ≤ a ∨ s.fld Reg.MEM_CFG 23 16 = 0 → exec (.patrolScrub a f) s = .next s))

/-! ## Route images (02_route_image.md) -/

/-- Quiesce and resume (R64–R68). QUIESCE sets RTE_CTRL.QUIESCE, drops prefetched windows and lets held transfers go on; QUIESCED
is set once nothing is in progress and not before; RESUME clears both and lets the engines and waiting records go on, and is
rejected with EV_RTE_BUSY while a load runs, while no image is in force (R68) or while the operating point changes (R478). When
QUIESCED is set is the model's choice (notes/assumptions/19.md). That a command which does not apply changes nothing is the
model's choice (notes/assumptions/1.md). -/
def Obligations.QuiesceAndResume : Prop :=
  ∀ (who : Requester) (env : Env) (s : State), s.admitted who →
    let u := s.setPort who {}
    exec (.quiesce who env) s = .next (s.keep (((u.setFld Reg.RTE_CTRL 0 0 1).dropPrefetch none).haulOn env)) ∧
    (s.hauls = [] → s.credits = [] → ∃ t, exec (.quiesce who env) s = .next t ∧ t.quiescing = true ∧ t = { u with regs := t.regs } ∧
      ∀ o, o ≠ Reg.RTE_CTRL → t.reg o = s.reg o) ∧
    (s.quiescing = true → s.allIdle = true → exec .quiesced s = .next (s.setFld Reg.RTE_STATUS 0 0 1)) ∧
    (s.quiescing = false ∨ s.allIdle = false → exec .quiesced s = .next s) ∧
    (s.loader.running = false → s.loaded = true → s.fld Reg.CLK_STATUS 2 2 = 0 → exec (.resume who env) s = .next (s.keep
      (((((((u.setFld Reg.RTE_CTRL 0 0 0).setFld Reg.RTE_STATUS 0 0 0).haulOn env).updOn env).snapOn env).linkOn env).freed env))) ∧
    (s.loader.running = true ∨ s.loaded = false ∨ s.fld Reg.CLK_STATUS 2 2 = 1 → exec (.resume who env) s = .next u.rteReject)

/-- Writing LOAD (R67). While a load runs it is rejected: REJECT is set, with EV_RTE_BUSY. While QUIESCED does not read 1 it ends
at once: CODE is NOT_QUIESCED, RTE_ERR is 0 (the model's choice, notes/assumptions/47.md), LOAD_FAIL is set and counted,
EV_RTE_FAILED is posted with SEQ 0, and nothing else changes. Otherwise the header read of the image at RTE_SRC.ADDR begins: PHASE
is 2 and the loader runs. The steps of a load (R70, R76, R510). In PHASE 2 HEADER_READ_DONE runs the header checks; in PHASE 1
BODY_FETCH_DONE the body checks; each again once its reads are answered. A source beyond stacked memory ends it with RANGE; those
that pass stage header and trailer and begin the body fetch. A body read whole whose digests hold is staged, and PHASE becomes 3.
Where PHASE is 3 and the log's intake is empty, FIELD_CHECKS_DONE takes a run-time image that passes to the hold of the apply
step, PHASE 4; one that fails ends the load with its result, LOAD_FAIL and EV_RTE_FAILED; a copy A that fails is reported, and
copy B is read; one of copy B too, and the load ends with IMG_NONE. While no load runs, the three commands change nothing. The
order of the joins is the model's choice (notes/assumptions/70.md). The apply step (R71, R72). At the end of its hold the new
interleave map is in force, memory from the first region that it changes is undefined, and the accesses of hosts and what else
waited go on. At its end, with PHASE 4 and the hold over, the new image is in force: LOADED is 1, CODE is OK, PHASE is 0, RTE_SEQ
is the image's, LOAD_DONE is set and no load runs; every queue that the image does not enable is DISABLED, one that it enables is
OFF if it was DISABLED and keeps its state otherwise; anchors and bias states keep their values and, where no window is open, so
does every byte of memory outside the staging billets. Before that RTE_APPLY_DONE changes nothing. That a command which does not
apply changes nothing is the model's choice (notes/assumptions/1.md). -/
def Obligations.LoadsRun : Prop :=
  (∀ (who : Requester) (env : Env) (s : State), s.admitted who →
     let u := s.setPort who {}
     (s.loader.running = true → exec (.loadImage who env) s = .next u.rteReject) ∧
     (s.loader.running = false → s.quiesced = false → exec (.loadImage who env) s = .next
       ((((u.setFld Reg.RTE_STATUS 31 24 imNotQuiesced).setReg Reg.RTE_ERR 0).raise Reg.RTE_EVENT 1 Reg.RTE_EVENT_CNT0 16).postStep slotLoader 0 0x0101 1
         imNotQuiesced)) ∧
     (s.loader.running = false → s.quiesced = true → exec (.loadImage who env) s = .next { u.setFld Reg.RTE_STATUS 19 16 2 with
       loader := { s.loader with running := true, src := .memory (s.fld Reg.RTE_SRC 51 12 * 4096), hdr := [], staged := [], ready := none, comparing := false } })) ∧
  (∀ (bad : Option Nat) (env : Env) (s : State), s.live →
     (s.loader.running = true → s.fld Reg.RTE_STATUS 19 16 = 2 →
       exec (.headerReadDone bad env) s = .next (s.keep (s.settle .loader env (fun u => u.headerChecks bad)))) ∧
     (s.loader.running = true → s.fld Reg.RTE_STATUS 19 16 = 1 →
       exec (.bodyFetchDone bad env) s = .next (s.keep (s.settle .loader env (fun u => u.bodyChecks bad)))) ∧
     (∀ u : State, u.loader.src ≠ .copyB → u.loader.comparing = false →
       (∀ a, u.loader.src = .memory a → stackedEnd < a + 0x100 → u.headerChecks bad = ((u.loadResult ⟨imRange, 0, 0⟩).noRead).loadFailed 0) ∧
       (∀ (v w : State) (hdr trailer : List Byte), u.sourceOk 0x100 = true → u.readImage 0 0x100 bad = (v, hdr, none) →
         v.loader = u.loader → headChecks 0x45545254 0x1800000 hdr = none → v.sourceOk (imgLen hdr) = true →
         v.readImage (imgLen hdr - 0x1000) 0x1000 bad = (w, trailer, none) → w.loader = u.loader →
         signatureFail w.fuses.root hdr trailer = none → u.headerChecks bad =
           { ((w.stage 0 hdr).stage (imgLen hdr - 0x1000) trailer).setFld Reg.RTE_STATUS 19 16 1 with
             loader := { u.loader with
               hdr := hdr, staged := trailer, seqA := if u.loader.src = .copyA then some (imgSeq hdr) else u.loader.seqA } })) ∧
     (∀ (u v : State) (body : List Byte), u.readImage 0x100 (imgLen u.loader.hdr - 0x1100) bad = (v, body, none) →
       digestFail (u.loader.hdr ++ body ++ v.loader.staged) = none → u.bodyChecks bad =
         { (v.stage 0x100 body).setFld Reg.RTE_STATUS 19 16 3 with loader := { v.loader with staged := u.loader.hdr ++ body ++ v.loader.staged } }) ∧
     (s.loader.running = true → s.fld Reg.RTE_STATUS 19 16 = 3 → s.loader.ready = none → s.loader.comparing = false →
       (∀ a, s.loader.src = .memory a → bodyFail s.fuses s.loader.staged = none → s.log.lane = [] → s.log.intake = [] →
         exec .fieldChecksDone s = .next { s.setFld Reg.RTE_STATUS 19 16 4 with loader := { s.loader with
           ready := some (parseImage s.loader.staged), nextSec := imgSecVer s.loader.staged, nextHash := sha256 s.loader.hdr, hold := true } }) ∧
       ∀ x, bodyFail s.fuses s.loader.staged = some x →
         let u := s.loadResult x
         let seq := imgSeq s.loader.staged
         ((∃ a, s.loader.src = .memory a) → exec .fieldChecksDone s = .next (u.loadEnd.loadFailed seq)) ∧
         (s.loader.src = .copyA → exec .fieldChecksDone s = .next ((u.copyBad seq 1).loadStart .copyB)) ∧
         (s.loader.src = .copyB → exec .fieldChecksDone s =
           .next ((((u.copyBad seq 2).setFld Reg.RTE_STATUS 31 24 imNone).loadEnd).loadFailed seq))) ∧
     (s.loader.running = false → exec (.headerReadDone bad env) s = .next s ∧ exec (.bodyFetchDone bad env) s = .next s ∧
       exec .fieldChecksDone s = .next s)) ∧
  (∀ (env : Env) (s : State) (i : Image), s.live → s.loader.ready = some i →
     (s.loader.hold = true → exec (.rteApplyHoldEnd env) s =
       let u := match changedFrom s.image.regions i.regions with
         | some a => s.openRange a stackedEnd
         | none => s
       .next (s.keep ({ u with
         image := { u.image with regions := i.regions }, loader := { u.loader with hold := false },
         outstanding := u.outstanding.filter (fun x => x.2 != Need.hold) }.retryHosts.wake env))) ∧
     (s.image.regions = i.regions → changedFrom s.image.regions i.regions = none) ∧
     (s.loader.hold = false → exec (.rteApplyHoldEnd env) s = .next (s.keep (s.wake env))) ∧
     (s.loader.hold = false → s.fld Reg.RTE_STATUS 19 16 = 4 → ∃ t, exec .rteApplyDone s = .next t ∧
       t.image = i ∧ t.loaded = true ∧ t.fld Reg.RTE_STATUS 31 24 = 0 ∧ t.fld Reg.RTE_STATUS 19 16 = 0 ∧
       t.reg Reg.RTE_SEQ = BitVec.ofNat 64 i.seq ∧ t.fld Reg.RTE_EVENT 0 0 = 1 ∧ t.loader.running = false ∧
       (∀ q < 2048, ((t.queue q).mode = .disabled ↔ i.enables q = false) ∧
         (i.enables q = true → (s.queue q).mode = .disabled → (t.queue q).mode = .off) ∧
         (i.enables q = true → (s.queue q).mode ≠ .disabled → (t.queue q).mode = (s.queue q).mode)) ∧
       t.anchors = s.anchors ∧ t.bias = s.bias ∧
       ((∀ e ∈ s.hauls, e.2.wins = []) → ∀ x, x < stagingBase ∨ stagingEnd ≤ x → t.mem.byte x = s.mem.byte x)) ∧
     (s.loader.hold = true ∨ s.fld Reg.RTE_STATUS 19 16 ≠ 4 → exec .rteApplyDone s = .next s))

/-! ## Queues, records and completions (03_queues_pitches_belays.md) -/

/-- ON, OFF and configuration (R83). ON in OFF, with rings that R81 allows, sets head and tail to 0, the generation of slot 0 to
1, the completion tail to 0, its phase to 1 and the flush count to 0, and the queue, unless completions are held or a cancel has
not ended, is IDLE; OFF is accepted in IDLE and STOPPED, not while a cancel has not ended (the model's choice,
notes/assumptions/20.md), and frees the core's stream; a write of CQ_SQ_BASE, CQ_SQ_CFG, CQ_CQ_BASE, CQ_CQ_CFG or CQ_FLUSH_ADDR
takes effect in OFF only; any of these that is not accepted changes nothing but the REJECT flag and its count. -/
def Obligations.QueueOnOffConfig : Prop :=
  ∀ (who : Requester) (q : Nat) (s : State), s.admitted who → q < 2048 →
    let u := s.setPort who {}
    let rejected := u.raise (Reg.CQ_EVENT q) 2 (Reg.CQ_EVENT_CNT0 q) 32
    ((s.queue q).mode = .off → s.ringsOk q = true → ∃ t, exec (.queueOn who q) s = .next t ∧
      ((s.queue q).held = [] → (s.queue q).cancels = [] → queueState (t.queue q) = 2) ∧
      (t.queue q).head = 0 ∧ (t.queue q).tail = 0 ∧ (t.queue q).gen = 1 ∧ (t.queue q).cqTail = 0 ∧ (t.queue q).phase = 1 ∧
      (t.queue q).flushCount = 0 ∧ (∀ p, p ≠ q → t.queue p = s.queue p) ∧ t = { u with queues := t.queues }) ∧
    ((s.queue q).mode ≠ .off ∨ s.ringsOk q = false → exec (.queueOn who q) s = .next rejected) ∧
    (queueState (s.queue q) = 2 ∨ queueState (s.queue q) = 5 → (s.queue q).cancels = [] → ∃ t, exec (.queueOff who q) s = .next t ∧
      t.queue q = { s.queue q with mode := .off } ∧ (∀ p, p ≠ q → t.queue p = s.queue p) ∧
      t.stream (s.queueCore q) = { s.stream (s.queueCore q) with
        cur := if (s.stream (s.queueCore q)).cur = some q then none else (s.stream (s.queueCore q)).cur } ∧
      (∀ n, n ≠ s.queueCore q → t.stream n = s.stream n) ∧ t = { u with queues := t.queues, streams := t.streams }) ∧
    ((queueState (s.queue q) ≠ 2 ∧ queueState (s.queue q) ≠ 5) ∨ (s.queue q).cancels ≠ [] → exec (.queueOff who q) s = .next rejected) ∧
    (∀ off ∈ [Reg.CQ_SQ_BASE q, Reg.CQ_CQ_BASE q, Reg.CQ_FLUSH_ADDR q], ∀ v r, findReg off = some r →
      exec (.registerWrite who off (.w64 v) {}) s = .next (if (s.queue q).mode = .off then u.setReg off (writeFields r.fields (s.reg off) v) else rejected)) ∧
    (∀ off ∈ [Reg.CQ_SQ_CFG q, Reg.CQ_CQ_CFG q], ∀ v : Word32, ∀ r, findReg off = some r →
      exec (.registerWrite who off (.w32 v) {}) s = .next (if (s.queue q).mode = .off then u.setReg off (writeFields r.fields (s.reg off) (v.zeroExtend 64)) else rejected))

/-- A doorbell (R84, R102–R104). On a DISABLED or OFF queue it is dropped with DB_DISABLED; a TAIL beyond the ring or a GEN that
is not that of the last announced slot is ignored with DOORBELL_BAD (what slot and status their events carry is the model's
choice, notes/assumptions/100.md); otherwise the tail moves forward, never back, the echo of the last slot is registered, a
STOPPED queue goes on, and nothing else of the queue changes. A cancel in IDLE, RUNNING, HELD or STOPPED (R114) discards at once
what had not begun: HEAD goes to the tail, CQ_DISCARD counts the discarded slots, and the records that had begun go on. Once none
of these is left, the queue is STOPPED with CODE CANCELLED, and one completion with CANCELLED, the first discarded slot and their
number in DETAIL is due, with the STOP flag and EV_CQ_STOP; until then nothing of this happens. What the cancel lets go on goes
on; in OFF and DISABLED it only sets REJECT. The stream it frees is the model's choice (notes/assumptions/20.md). -/
def Obligations.DoorbellsAndCancels : Prop :=
  (∀ (who : Requester) (q : Nat) (v : Word) (s : State), s.admitted who → q < 2048 →
     let u := s.setPort who {}
     let x := s.queue q
     let size := s.sqSize q
     let tail := fget v 15 0
     let dNew := (tail + size - x.head) % size
     let dCur := (x.tail + size - x.head) % size
     let expected := if size ≤ x.head + dNew - 1 then (x.gen + 1) % 256 else x.gen
     (x.mode = .disabled ∨ x.mode = .off → exec (.doorbell who q (.w64 v)) s =
       .next ((u.raise Reg.CQ_GEVENT 16 Reg.CQ_GEVENT 0).post slotQueues 0x0204 1 (q + tail % 2 ^ 16 * 2 ^ 16))) ∧
     (x.mode = .on ∨ x.mode = .stopped →
       (size ≤ tail ∨ (1 ≤ dNew ∧ fget v 47 40 ≠ expected) → exec (.doorbell who q (.w64 v)) s =
         .next ((u.raise (Reg.CQ_EVENT q) 3 (Reg.CQ_EVENT_CNT0 q) 48).post slotQueues 0x0203 1 (q + tail % 2 ^ 16 * 2 ^ 16))) ∧
       (tail < size → dNew = 0 ∨ fget v 47 40 = expected → ∃ t, exec (.doorbell who q (.w64 v)) s = .next t ∧
         (t.queue q).tail = (if dCur < dNew then tail else x.tail) ∧ (t.queue q).mode = .on ∧
         (∀ p, p ≠ q → t.queue p = s.queue p) ∧
         (1 ≤ dNew → ((tail + size - 1) % size, fget v 63 48) ∈ (t.queue q).echoes) ∧
         t.queue q = { x with tail := (t.queue q).tail, mode := .on, echoes := (t.queue q).echoes, rereads := 0 } ∧
         t = { u with queues := t.queues, regs := t.regs } ∧
         ∀ o, o ≠ Reg.CQ_EVENT q → o ≠ Reg.CQ_EVENT_CNT1 q → t.reg o = s.reg o))) ∧
  (∀ (who : Requester) (q : Nat) (env : Env) (s : State), s.admitted who → q < 2048 →
     let u := s.setPort who {}
     let x := s.queue q
     let gone := (x.issued.filter notBegun).map (fun i => (q, i.item.num))
     let c := cancelled (s.sqSize q) x
     let y := (s.queueCancel q).queue q
     ((x.mode = .on ∨ x.mode = .stopped) →
       exec (.cancel who q env) s =
         .next (s.keep ((((((u.forget gone).queueCancel q).dropPrefetch (some q)).cancelEnd q env).haulOn env).freed env))) ∧
     y.mode = x.mode ∧ y.head = x.tail ∧ y.tail = x.tail ∧ y.fetched = [] ∧ y.issued = x.issued.filter (fun i => !notBegun i) ∧
     y.held = x.held ∧ y.cancels = x.cancels ++ [c] ∧
     (∃ v : State, v.regs = s.regs ∧ s.queueCancel q = v.count (Reg.CQ_DISCARD q) c.2 ∧
       v = { s with queues := v.queues, streams := v.streams } ∧ ∀ p, p ≠ q → v.queue p = s.queue p) ∧
     (x.cancels = [] ∨ x.issued ≠ [] → s.cancelEnd q env = s) ∧
     (∀ d, x.cancels = [d] → x.issued = [] → ∃ f, s.cancelEnd q env = s.settle (.queue q) env f ∧ ∀ v : State, f v =
       (((v.setQueue q { x with mode := if x.mode = .disabled then .disabled else .stopped, code := stCancelled, cancels := [] }).complete q
         (completionBytes 0 d.1 stCancelled d.2 (v.queueCore q) 0, true) d.1 stCancelled).raise (Reg.CQ_EVENT q) 0 (Reg.CQ_EVENT_CNT0 q) 0).queueEvent
           0x0200 q d.1 stCancelled) ∧
     (x.mode = .disabled ∨ x.mode = .off →
       exec (.cancel who q env) s = .next (u.raise (Reg.CQ_EVENT q) 2 (Reg.CQ_EVENT_CNT0 q) 32)))

/-- Fetch and the seal check (R80, R93, R99, R105). A fetch reads the slot at HEAD as one access; a queue whose core is not in its
rope stops with QUEUE_BIND instead. Where the seal matches, HEAD moves on and the record goes to the stream or to the chain being
fetched; a mismatch schedules a re-read, the 8th of which stops the queue with STALE; a read that fails stops the queue with the
read's status. A queue that may not fetch changes nothing. That a command which does not apply changes nothing is the model's
choice (notes/assumptions/1.md). -/
def Obligations.FetchChecksSeals : Prop :=
  ∀ (q : Nat) (env : Env) (s : State), s.issuing → q < 2048 →
    let src := srcQueue (s.queueCore q)
    let at_ := s.sqBase q + 64 * (s.queue q).head
    (s.canFetch q = true → (s.queue q).reads = 0 → s.bound q = true →
      exec (.recordFetch q env) s = .next (s.keep (s.settle (.queue q) env (State.readSlot q false)))) ∧
    (s.canFetch q = true → (s.queue q).reads = 0 → s.bound q = false → ∃ f, exec (.recordFetch q env) s = .next (s.keep (s.settle (.queue q) env f)) ∧
      ∀ u, u.bound q = false → f u = u.stopFetch q stQueueBind (u.queue q).head (u.queueCore q)) ∧
    (s.canFetch q = true → (s.queue q).reads ≠ 0 →
      exec (.sealReread q env) s = .next (s.keep (s.settle (.queue q) env (State.readSlot q true)))) ∧
    (s.canFetch q = false → exec (.recordFetch q env) s = .next s ∧ exec (.sealReread q env) s = .next s) ∧
    (∀ again t b bad, s.readMem src at_ 64 = (t, ⟨b, bad, none⟩) → t.sqSize q = s.sqSize q →
      (sealMatches (s.queue q) b = true → State.readSlot q again s = t.setQueue q (passRecord (s.sqSize q) b (s.queue q))) ∧
      (sealMatches (s.queue q) b = false → (again = false ∨ (s.queue q).rereads < 7) → State.readSlot q again s =
        t.setQueue q { s.queue q with reads := (s.queue q).reads + 1, rereads := if again then (s.queue q).rereads + 1 else 0 }) ∧
      (sealMatches (s.queue q) b = false → again = true → (s.queue q).rereads = 7 → State.readSlot q again s =
        (t.setQueue q { s.queue q with reads := (s.queue q).reads + 1, rereads := 8 }).stopFetch q stStale (s.queue q).head ((s.queue q).reads + 1))) ∧
    (∀ size b x, (passRecord size b x).head = if x.head + 1 = size then 0 else x.head + 1) ∧
    (∀ again t b bad st a, s.readMem src at_ 64 = (t, ⟨b, bad, some (st, a)⟩) →
      State.readSlot q again s = t.stopFetch q st (s.queue q).head a)

/-- Control records (R89, R91, R96, R97, R101). Issued by its stream from a ready queue, a well-formed NOP ends with OK and does
nothing; a BELAY and a SIGNAL wait for the earlier records of their queue and a WAIT for its anchor; a STEP sets the step number
of its core and SIO_STEP; a PUT with inline data writes it to DST, or ends with ADDR_RANGE where DST is not populated. A record
that breaks a check ends with FORMAT and its slot and the offset of the first offending field in DETAIL, and does nothing else
(R14, R86, R110); a group whose chain breaks R99 is rejected as a whole and none of it runs (R100). That DETAIL then names the
chain's record, also where its owner offends, and that an INLINE record's FLAGS are 0 are the model's choice
(notes/assumptions/87.md, 102.md). -/
def Obligations.ControlRecordsIssue : Prop :=
  (∀ (q : Nat) (r : Fetched) (rest : List Fetched) (env : Env) (s : State),
     let u := s.starting q r env
     let core := s.queueCore q
     (s.ready q 0 r rest → nopFormat r = none → exec (.nop q env) s = .next (s.keep (s.issued q r (u, .ended stOk 0)))) ∧
     (s.ready q 1 r rest → belayFormat r = none → exec (.belay q env) s = .next (s.keep (s.issued q r (u, .parked .order)))) ∧
     (s.ready q 2 r rest → signalFormat s r = none → exec (.signal q env) s = .next (s.keep (s.issued q r (u, .parked .order)))) ∧
     (s.ready q 3 r rest → waitFormat r = none → exec (.wait q env) s = .next (s.keep (s.issued q r (u, .parked .anchor)))) ∧
     (s.ready q 6 r rest → stepFormat r = none → exec (.step q env) s = .next (s.keep (s.issued q r
       ((u.setStream core { s.stream core with step := r.f 8 8 }).setReg Reg.SIO_STEP (BitVec.ofNat 64 (r.f 8 8)), .ended stOk 0)))) ∧
     (s.ready q 4 r rest → putFormat r = none → u.rangeBad (putDst r) r.inlineData.length = none →
       exec (.put q env) s = .next (s.keep (s.issued q r (endMem (u.writeMem (srcCore core) (putDst r) r.inlineData).1
         (u.writeMem (srcCore core) (putDst r) r.inlineData).2)))) ∧
     (s.ready q 4 r rest → putFormat r = none → ∀ a, u.rangeBad (putDst r) r.inlineData.length = some a →
       exec (.put q env) s = .next (s.keep (s.issued q r (u.post core 0x0002 2 (a % 2 ^ 52), .ended stAddrRange (a % 2 ^ 32)))))) ∧
  (∀ (q : Nat) (r : Fetched) (rest : List Fetched) (env : Env) (s : State),
     let u := s.starting q r env
     let rejected (off : Nat) := Host.Outcome.next (s.keep (s.issued q r (u, .ended stFormat ((r.slot * 2 ^ 16 + off) % 2 ^ 32))))
     (∀ o, s.ready q 0 r rest → nopFormat r = some o → exec (.nop q env) s = rejected o) ∧
     (∀ o, s.ready q 1 r rest → belayFormat r = some o → exec (.belay q env) s = rejected o) ∧
     (∀ o, s.ready q 2 r rest → signalFormat s r = some o → exec (.signal q env) s = rejected o) ∧
     (∀ o, s.ready q 3 r rest → waitFormat r = some o → exec (.wait q env) s = rejected o) ∧
     (∀ o, s.ready q 4 r rest → putFormat r = some o → exec (.put q env) s = rejected o) ∧
     (∀ o, s.ready q 6 r rest → stepFormat r = some o → exec (.step q env) s = rejected o) ∧
     (∀ i o, s.issuing → q < 2048 → s.canIssue q = true → (s.queue q).fetched = r :: rest → r.op = 0 → chainFail 0 r.chain = some (i, o) →
       exec (.nop q env) s = .next (s.pushIssued q r (.ended stFormat (((r.slot + 1 + i) % s.sqSize q * 2 ^ 16 + o) % 2 ^ 32)))))

/-- What ends a waiting control record. A belay ends with OK once every earlier record of its queue has ended and not before
(R91); a local SIGNAL then puts its ADD or SET on its way to the anchor's router and ends with OK (R97); a WAIT whose anchor has
reached VALUE ends with OK, none of these while records of the queue may not begin: while the device quiesces, after a trip, or in
HELD (R65, R108); and a WAIT whose TIMEOUT has run out ends with WAIT_TIMEOUT and the anchor's value, not while the device
quiesces (R96). Anchors (R95). A write of CQ_ANCHOR replaces the value, a write of CQ_ANCHOR_ADD adds modulo 2^32, and the router
applies the operations of SIGNAL records one at a time in arrival order and loses none; no other anchor and nothing else changes.
That a command which does not apply changes nothing is the model's choice (notes/assumptions/1.md). -/
def Obligations.ControlRecordsEnd : Prop :=
  (∀ (q : Nat) (i : Issued) (s : State), s.issuing → q < 2048 →
     (s.parkedOf q 1 .order = some i →
       exec (.belayEnd q) s = .next (if earlierEnded i.item.num (s.queue q).issued ∧ s.mayBegin q then s.setPhaseOf q i.item.num (.ended stOk 0) else s)) ∧
     (s.mayBegin q = true ↔ s.quiescing = false ∧ (s.queue q).held = []) ∧
     (s.parkedOf q 2 .order = some i → signalRemote i.item = false →
       exec (.signalTakesEffect q) s = .next (if earlierEnded i.item.num (s.queue q).issued ∧ s.mayBegin q then
         { s.setPhaseOf q i.item.num (.ended stOk 0) with anchorOps := s.anchorOps ++ [(signalAnchor i.item, signalSet i.item, signalValue i.item)] }
         else s)) ∧
     (s.parkedOf q 3 .anchor = some i →
       let a := s.anchor (waitAnchor i.item)
       exec (.waitSatisfied q) s = .next (if (a - waitValue i.item).toNat < 2 ^ 31 ∧ s.mayBegin q then
         s.setPhaseOf q i.item.num (.ended stOk 0) else s) ∧
       exec (.waitTimeout q) s = .next (if waitMicros i.item ≠ 0 ∧ s.quiescing = false ∧ 2 ^ 31 ≤ (a - waitValue i.item).toNat then
         s.setPhaseOf q i.item.num (.ended stWaitTimeout a.toNat) else s))) ∧
  (∀ (who : Requester) (a : Nat) (v : Word32) (s : State), s.admitted who → a < 4096 →
     (∃ t, exec (.anchorSet who a v) s = .next t ∧ t.anchor a = v ∧ (∀ b, b ≠ a → t.anchor b = s.anchor b) ∧
       t = { s.setPort who {} with anchors := t.anchors }) ∧
     (∃ t, exec (.anchorAdd who a v) s = .next t ∧ t.anchor a = s.anchor a + v ∧ (∀ b, b ≠ a → t.anchor b = s.anchor b) ∧
       t = { s.setPort who {} with anchors := t.anchors }) ∧
     (∀ set_ pre post_, s.anchorOps = pre ++ (a, set_, v) :: post_ → (∀ x ∈ pre, x.1 ≠ a) →
       ∃ t, exec (.anchorOp a) s = .next t ∧ t.anchor a = (if set_ then v else s.anchor a + v) ∧ (∀ b, b ≠ a → t.anchor b = s.anchor b) ∧
         t.anchorOps = pre ++ post_ ∧ t = { s with anchors := t.anchors, anchorOps := t.anchorOps }) ∧
     ((∀ x ∈ s.anchorOps, x.1 ≠ a) → exec (.anchorOp a) s = .next s))

/-- The end of a record (R106, R109, R111). The ended record leaves its queue, and its completion names the core that ran it; one
that ends with any status but OK stops its queue, which keeps the status of its first stop (an OFF queue stops too and a DISABLED
one stays DISABLED: the model's choice, notes/assumptions/86.md); a cancel that waited for the record may then end; a completion
is due for every such record and for one with CMPL. A completion goes to the ring's tail, or waits where the ring is full or
others wait, and the queue is then HELD. Completion ring and flush reads (R107, R108, R112, R113). A write of CQ_CQ_HEAD stores
HEAD, and held completions are then written, oldest first, while the ring has room; once none is held the queue's records go on; a
read of CQ_FLUSH returns COUNT; a CXL.mem read of an enabled flush line returns COUNT in bytes 0 to 3 and zeros, and neither reads
nor changes the memory under it. -/
def Obligations.RecordsComplete : Prop :=
  (∀ (q slot : Nat) (r : Fetched) (st d : Nat) (env : Env) (s : State), s.live → q < 2048 → slot < 65536 →
     endedAt slot (s.queue q).issued = some ⟨r, .ended st d⟩ →
     (∃ f, exec (.recordEnd q slot env) s = .next (s.keep ((s.settle (.queue q) env f).cancelEnd q env)) ∧ ∀ u, f u =
       (u.modQueue q (fun x => { x with issued := dropIssued r.num x.issued })).finish ⟨q, r.core, r⟩ st d) ∧
     (st = stOk → r.cmpl = false → bit (s.reg Reg.SIO_TRACE_EN0).toNat (r.core % 64) = false →
       bit (s.reg Reg.SIO_TRACE_EN1).toNat (r.core % 64) = false → s.env = {} → s.token = .idle → s.needs = [] →
       (∀ x ∈ s.answers, x.1 ≠ .queue q) → (s.queue q).cancels = [] →
       exec (.recordEnd q slot env) s = .next (s.setQueue q { s.queue q with issued := dropIssued r.num (s.queue q).issued })) ∧
     (∀ e u, (u : State).queue q = s.queue q → (s.queue q).held = [] → u.cqFull q = true →
       u.complete q e slot st = ((u.setQueue q { s.queue q with held := [e] }).raise (Reg.CQ_EVENT q) 1 (Reg.CQ_EVENT_CNT0 q) 16).queueEvent 0x0202 q slot st ∧
       ((s.queue q).mode = .on → queueState { s.queue q with held := [e] } = 4)) ∧
     (∀ e (u : State), ((u.queue q).held = [] → u.cqFull q = false → u.complete q e slot st = u.putCompletion q e) ∧
       ((u.queue q).held ≠ [] → u.complete q e slot st = u.setQueue q { u.queue q with held := (u.queue q).held ++ [e] })) ∧
     (∀ (u : State) (c : Ctx), (st = stOk → c.item.cmpl = false → u.finish c st d = u.trace c st) ∧
       (st = stOk → c.item.cmpl = true → u.finish c st d = (u.complete c.q
         (completionBytes c.item.tag c.item.slot st d c.core c.item.op, c.item.irq) c.item.slot st).trace c st) ∧
       (st ≠ stOk → u.finish c st d = ((u.stopQueue c.q st c.item.slot).complete c.q
         (completionBytes c.item.tag c.item.slot st d c.core c.item.op, true) c.item.slot st).trace c st)) ∧
     (∀ u : State, (u.queue q).mode ≠ .stopped → st ≠ stQueueBind →
       ((u.stopQueue q st slot).queue q).mode = (if (u.queue q).mode = .disabled then .disabled else .stopped) ∧
       ((u.stopQueue q st slot).queue q).code = st ∧
       ((u.stopQueue q st slot).queue q).head = (backTo (u.queue q)).1 ∧ ((u.stopQueue q st slot).queue q).fetched = [] ∧
       ((u.stopQueue q st slot).queue q).issued = (u.queue q).issued ∧ (u.stopQueue q st slot).fld (Reg.CQ_EVENT q) 0 0 = 1) ∧
     (∀ u : State, (u.queue q).mode = .stopped → ((u.stopQueue q st slot).queue q).code = (u.queue q).code ∧
       (u.stopQueue q st slot).regs = u.regs ∧ (u.stopQueue q st slot).log = u.log)) ∧
  (∀ (who : Requester) (q : Nat) (v : Word32) (env : Env) (s : State), s.admitted who → q < 2048 →
     ((s.queue q).held = [] → s.env = {} → s.token = .idle → s.needs = [] → (∀ x ∈ s.answers, x.1 ≠ .req (reqNum who)) →
       ∃ t, exec (.cqHeadWrite who q v env) s = .next t ∧ t.fld (Reg.CQ_CQ_HEAD q) 15 0 = v.toNat % 2 ^ 16 ∧
         (∀ o, o ≠ Reg.CQ_CQ_HEAD q → t.reg o = s.reg o) ∧ t = { s.setPort who {} with regs := t.regs }) ∧
     (∃ f, exec (.cqHeadWrite who q v env) s = (
         let t := s.settle (.req (reqNum who)) env f
         .next (s.keep (if (s.queue q).held ≠ [] ∧ (t.queue q).held = [] then t.freed env else t))) ∧
       ∀ u : State, f u = (u.setPort who {}).cqHead q (v.zeroExtend 64) ∧
         ((u.queue q).held ≠ [] → (u.setPort who {}).cqHead q (v.zeroExtend 64) =
           State.drainHeld q (u.queue q).held ((u.setPort who {}).writePlain (Reg.CQ_CQ_HEAD q) (v.zeroExtend 64)))) ∧
     (∀ u e r, State.drainHeld q (e :: r) u =
       if u.cqFull q then u.modQueue q (fun x => { x with held := e :: r }) else State.drainHeld q r (u.putCompletion q e)) ∧
     (∃ t, exec (.flushRead who q) s = .next t ∧ t.out = s.out ++ [.regRead who (Reg.CQ_FLUSH q) (s.queue q).flushCount] ∧
       t = { s with out := t.out, ports := t.ports }) ∧
     (∀ h hpa o p, s.hostExists h = true → s.portHeld (.host h) = false → s.hdmAddr h hpa = some o → s.flushQueue (o / 64 * 64) = some p →
       exec (.flushLineRead h hpa env) s = .next (s.emit (.hostRead h (o / 64 * 64)
         (toLe 4 (s.queue p).flushCount ++ List.replicate 60 0) []))))

/-! ## Matrix, accumulation, vector and attention records (04 to 07) -/

/-- Arithmetic records issue (R90, R130–R134, R155, R164–R173, R190–R204, R213–R223, R244, R509). An MLOAD, MLOADI or MMA at the
front of its queue whose checks find nothing reads its set, or goes on the matrix path, when its stream issues it. A record of the
accumulator unit, the vector engine, the attention unit or the Ranker waits while its unit has not begun a record issued before
it; else, if its checks find nothing, it does its work when its unit is free for it and waits otherwise; a check 1 that fails ends
it at once, another check once the unit is free. The accumulator unit is free where no earlier MMA of the path has an overlapping
tile range and no earlier EMLOAD loads the slot a TSTORE names, which also waits for a vector engine inside another record; the
vector engine and the attention unit where no earlier record of theirs is unfinished, for an EMLOAD also no TSTORE that names its
slot; the Ranker where also no eviction runs on it. That records issue at once and wait at their unit, which accepts them in the
order in which they were issued, is the model's choice (notes/assumptions/33.md). -/
def Obligations.ArithmeticRecordsIssue : Prop :=
  ∀ (q : Nat) (r : Fetched) (rest : List Fetched) (env : Env) (s : State),
    let c := s.ctx q r
    let u := s.starting q r env
    let issues (i : Instr) (w : State × Phase) : Prop := exec i s = .next (s.keep (s.issued q r w))
    let before := opsBefore q r.num (s.mat c.core).ops
    let onPath (w : State × Phase) : State × Phase := (if w.2.isEnded then w.1 else w.1.hold c, w.2)
    let one (kind : MxKind) (l : List MxOp) : Bool := unitFree kind l
    let accu (wait : Bool) (l : List MxOp) : Bool := !wait && accFree c l
    let ember (l : List MxOp) : Bool := l.all (fun o => !(o.kind == .acc && o.ember == some (r.f 0x10 1)))
    (s.ready q 0x10 r rest → mloadFail c u = none → issues (.mload q env) (mloadWork c u)) ∧
    (s.ready q 0x12 r rest → mloadiFail c u = none → issues (.mloadi q env) (mloadiWork c u)) ∧
    (s.ready q 0x11 r rest → mmaFail c u = none → issues (.mma q env) (mmaWork c u)) ∧
    ∀ (op : Nat) (i : Instr) (kind : MxKind) (free : List MxOp → Bool) (why : Park) (fail : Ctx → State → Option (State × Phase))
      (work : Ctx → State → State × Phase), (op, i, kind, free, why, fail, work) ∈ [
        (0x20, .tzero q env, .acc, accu false, .interlock, tzeroFail, tzeroWork),
        (0x21, .tload q env, .acc, accu false, .interlock, tloadFail, tloadWork),
        (0x22, .tcombine q env, .acc, accu false, .interlock, tcombineFail, tcombineWork),
        (0x23, .tstore q env, .acc, accu ((storeRec r).act == 0x1F && s.veWaits c.core), .interlock, tstoreFail, tstoreWork),
        (0x24, .treduce q env, .acc, accu false, .interlock, treduceFail, treduceWork),
        (0x30, .vset q env, .vec, one .vec, .turn, vsetFail, vsetWork),
        (0x31, .vop q env, .vec, one .vec, .turn, vopFail, vopWork),
        (0x32, .vreduce q env, .vec, one .vec, .turn, vreduceFail, vreduceWork),
        (0x33, .emload q env, .vec, fun l => one .vec l && ember l, .slotHold, emloadFail, emloadBody),
        (0x34, .emrun q env, .vec, one .vec, .turn, emrunFail, emrunWork),
        (0x40, .actx q env, .att, one .att, .turn, actxFail, actxWork),
        (0x41, .asoft q env, .att, one .att, .turn, asoftFail, asoftWork),
        (0x42, .afold q env, .att, one .att, .turn, afoldFail, afoldWork),
        (0x43, .adelta q env, .att, one .att, .turn, adeltaFail, adeltaWork),
        (0x44, .aback q env, .att, one .att, .turn, abackFail, abackWork),
        (0x49, .rank q env, .rank, fun l => one .rank l && !s.rankerEvicts c.core, .turn, rankFail, rankWork)] →
      s.ready q op r rest →
      (before.any (fun o => o.kind == kind && s.opWaits o) = true → issues i (u.hold c, .parked .turn)) ∧
      (before.any (fun o => o.kind == kind && s.opWaits o) = false →
        (fail c u = none → free before = true → issues i (onPath (work c u))) ∧
        (fail c u = none → free before = false → issues i (u.hold c, .parked why)) ∧
        ∀ x, fail c u = some x →
          (free before = true ∨ x.2.isFormat = true → issues i x) ∧
          (free before = false → x.2.isFormat = false → issues i (u.hold c, .parked why)))

/-- A record that fails a check of its engine ends with a status other than OK and has no other effect than the events it may post
(R134, R163, R189, R212, R286, R307): no memory, tile, bank, register of an engine, context, pool or window changes. -/
def Obligations.FailedChecksChangeNothing : Prop :=
  ∀ (fail : Ctx → State → Option (State × Phase)), fail ∈ [mloadFail, mloadiFail, mmaFail, tzeroFail, tloadFail, tcombineFail,
      tstoreFail, treduceFail, vsetFail, vopFail, vreduceFail, emloadFail, emrunFail, actxFail, asoftFail, afoldFail, adeltaFail,
      abackFail, kvmapFail, kvputFail, kvmassFail, kvtrimFail, rankFail, hctxFail, hcopyFail, wfillFail, wrelFail, porterFail,
      lrepairFail] →
    ∀ (c : Ctx) (s : State) (w : State × Phase), fail c s = some w →
      (∃ st d, w.2 = .ended st d ∧ st ≠ stOk ∧ d < 2 ^ 32) ∧ w.1 = { s with regs := w.1.regs, log := w.1.log, out := w.1.out, pmb := w.1.pmb } ∧
      ∀ o, o < 0xD000000 → w.1.reg o = s.reg o

/-- What the work of an arithmetic record leaves alone. MLOAD, MLOADI, MMA, TZERO, TLOAD and TCOMBINE, an MMA whose first row
enters, VSET, EMLOAD and ACTX store nothing: every byte of memory and every poison mark is as before. TSTORE, TREDUCE, VOP,
VREDUCE, EMRUN, ASOFT, AFOLD, ADELTA, ABACK and RANK that pass their checks leave every byte outside their destinations, and every
mark of a line outside them, as before. Beside that a record changes the registers of its own units, the memory controllers' and
Siolo's, the log, and the state of its own unit: tiles, banks and path for the matrix and accumulator records that write tiles,
the vector engine for VSET, EMLOAD, EMRUN and TSTORE, the context for ACTX, and a free value for a RANK that leaves memory
undefined. -/
def Obligations.ArithmeticRecordsFrame : Prop :=
  ∀ (c : Ctx) (s : State),
    let rest (t : State) : State := { s with
      pcLate := t.pcLate, bwRead := t.bwRead, ceSecond := t.ceSecond, regs := t.regs, log := t.log, out := t.out, pmb := t.pmb, needs := t.needs }
    let blocks (l : List Nat) (t : State) : Prop := ∀ o, o < 0xD000000 → o / 0x1000000 ∉ l → t.reg o = s.reg o
    let storesIn (l : List (Nat × Nat)) (t : State) : Prop :=
      (∀ a, (∀ x ∈ l, a < x.1 ∨ x.1 + x.2 ≤ a) → t.mem.byte a = s.mem.byte a) ∧
      (∀ k, (∀ x ∈ l, 32 * (k + 1) ≤ x.1 ∨ x.1 + x.2 ≤ 32 * k) → t.poisoned k = s.poisoned k)
    let bytes (ty k : Nat) : Nat := (k * typeBits ty + 7) / 8
    let st := storeRec c.item
    let rd := redFields c.item
    let vr := vredFields c.item
    let x := (s.attContext c.core).getD {}
    let so := asoftFields c.item
    let fo := afoldFields c.item
    let de := adeltaFields c.item
    let ba := abackFields c.item
    let prog := s.emSlot c.core (emrunSlot c.item)
    (∀ work ∈ [mloadWork, mloadiWork, mmaWork, tzeroWork, tloadWork, tcombineWork],
      (work c s).1 = { rest (work c s).1 with mats := (work c s).1.mats } ∧ blocks [3, 4, 7] (work c s).1) ∧
    (∀ n o loadWait tileWait, let t := s.mmaGo n o c.item loadWait tileWait
      t = { rest t with mats := t.mats, queues := t.queues } ∧ blocks [3, 4, 7] t) ∧
    (∀ work ∈ [vsetWork, emloadBody], (work c s).1 = { rest (work c s).1 with vecs := (work c s).1.vecs } ∧ blocks [7] (work c s).1) ∧
    (actxWork c s).1 = { s with attCtx := (actxWork c s).1.attCtx } ∧
    (tstoreFail c s = none → let t := (tstoreWork c s).1
      t = { rest t with mem := t.mem, poison := t.poison, vecs := t.vecs } ∧ blocks [4, 5, 7] t ∧
      storesIn (rowRanges st.dst st.stride (packedLen st.otype st.n) st.m ++
        (if isMx st.otype then [(localBase c.core + st.mxs, st.m * (st.n / 32))] else [])) t) ∧
    (∀ (work : Ctx → State → State × Phase) (fail : Ctx → State → Option (State × Phase)) (l : List (Nat × Nat)) (bl : List Nat),
      (work, fail, l, bl) ∈ [
        (treduceWork, treduceFail, [(rd.dst, rd.count * redBytes rd.op)], [4, 7]),
        (vopWork, vopFail, [((vopDst c.item).addr, (vopDst c.item).len (vopLen c.item))], [5, 7]),
        (vreduceWork, vreduceFail, [(vr.dst, vr.nseg * redBytes vr.op)], [5, 7]),
        (asoftWork, asoftFail, rowRanges so.pa (stridePacked so.cols (srcBytes x.ptype)) (bytes x.ptype so.cols) so.rows ++
          [(so.ta, 16 * so.rows)], [6, 7]),
        (afoldWork, afoldFail, rowRanges fo.oa (strideF32 fo.d) (4 * fo.d) fo.rows ++ rowRanges (fo.ta + 12) 16 4 fo.rows ++
          (if bit fo.fl 1 then rowRanges fo.ua (stridePacked fo.d (srcBytes fo.ot)) (bytes fo.ot fo.d) fo.rows else []), [6, 7]),
        (adeltaWork, adeltaFail, rowRanges (de.ta + 8) 16 8 de.rows, [6, 7]),
        (abackWork, abackFail, rowRanges ba.da (strideF32 ba.cols) (bytes x.dtype ba.cols) ba.rows ++ rowRanges (ba.ta + 12) 16 4 ba.rows ++
          (if ba.pa = 0 then [] else rowRanges ba.pa (stridePacked ba.cols (srcBytes x.ptype)) (bytes x.ptype ba.cols) ba.rows), [6, 7])] →
      fail c s = none → (work c s).1 = { rest (work c s).1 with mem := (work c s).1.mem, poison := (work c s).1.poison } ∧
        blocks bl (work c s).1 ∧ storesIn l (work c s).1) ∧
    (emrunFail c s = none → let t := (emrunWork c s).1
      t = { rest t with mem := t.mem, poison := t.poison, vecs := t.vecs } ∧ blocks [5, 7] t ∧
      storesIn ((emrunStreams c.item prog [3, 4]).map (fun o => (o.addr, o.len (emrunLen c.item)))) t) ∧
    (rankFail c s = none → let t := (rankWork c s).1
      t = { rest t with mem := t.mem, poison := t.poison, free := t.free } ∧ blocks [6, 7] t ∧
      storesIn [(c.item.f 0x10 8, (rankLens c.item).1), (c.item.f 0x18 8, (rankLens c.item).2)] t)

/-- TZERO (R164): where its unit has begun every record before it and no earlier MMA holds its tiles, every element of tiles TILE
to TILE + TCOUNT − 1 becomes 0x0000_0000 and their tags become ZERO; every other tile and tag of the core, and every other core,
is as before, and the record ends with OK. -/
def Obligations.TzeroClearsTiles : Prop :=
  ∀ (q : Nat) (r : Fetched) (rest : List Fetched) (env : Env) (s : State), s.ready q 0x20 r rest →
    formatFail r false [(8, 2)] [] = none → 1 ≤ r.f 9 1 → r.f 8 1 + r.f 9 1 ≤ 32 → s.needs = [] →
    let n := s.queueCore q
    (opsBefore q r.num (s.mat n).ops).any (fun o => o.kind == .acc && s.opWaits o) = false →
    accFree (s.ctx q r) (opsBefore q r.num (s.mat n).ops) = true →
    ∃ t, exec (.tzero q env) s = .next t ∧
      (∀ k row, r.f 8 1 ≤ k → k < r.f 8 1 + r.f 9 1 → row < 64 → t.tileRow n k row = zeroRow) ∧
      (∀ k, r.f 8 1 ≤ k → k < r.f 8 1 + r.f 9 1 → t.tag n k = 0) ∧
      (∀ k row, row < 64 → k < r.f 8 1 ∨ r.f 8 1 + r.f 9 1 ≤ k → t.tileRow n k row = s.tileRow n k row ∧ t.tag n k = s.tag n k) ∧
      (∀ k, k ≠ n → t.mat k = s.mat k) ∧ ((t.mat n).h0 = (s.mat n).h0 ∧ (t.mat n).h1 = (s.mat n).h1) ∧
      (∀ o, o ≠ Reg.ACC_CNT_ROWS n → t.reg o = s.reg o) ∧ (t.queue q).issued = (s.queue q).issued ++ [⟨{ r with core := n }, .ended stOk 0⟩] ∧
      t = { s with
        mats := t.mats, regs := t.regs, queues := t.queues, streams := t.streams, env := {}, token := .idle
        answers := s.answers.filter (fun x => x.1 != .record q r.num) }

/-- ACTX and VSET write their unit's state (R191, R214). ACTX sets the core's attention context from its fields, and no other
core's; VSET writes SCALAR to every lane of its registers in mode 0, and in mode 2 its inline data from lane 0 up and +0 to the
lanes that remain. -/
def Obligations.ContextAndParameterWrites : Prop :=
  (∀ (c : Ctx) (s : State), ((actxWork c s).1.attContext c.core = some {
        scale := c.item.f 8 4, c := f32mul (c.item.f 8 4) log2e, win := c.item.f 0xC 4, mode := c.item.f 0x10 1, ptype := c.item.f 0x11 1, dtype := c.item.f 0x12 1 }) ∧
      (∀ n, n ≠ c.core → (actxWork c s).1.attContext n = s.attContext n) ∧ (actxWork c s).2 = .ended stOk 0) ∧
  ∀ (c : Ctx) (s : State), vsetFail c s = none →
    let t := (vsetWork c s).1
    let param (s : State) (k : Nat) := mget zeroLanes (s.vec c.core).params k
    let reg := c.item.f 8 1
    (c.item.f 0xA 1 = 0 → (∀ k, reg ≤ k → k < reg + c.item.f 9 1 → param t k = List.replicate 128 (c.item.f 0xC 4)) ∧
      (∀ k, k < reg ∨ reg + c.item.f 9 1 ≤ k → param t k = param s k) ∧ (vsetWork c s).2 = .ended stOk 0) ∧
    (c.item.f 0xA 1 = 2 → (∀ j, 4 * j + 4 ≤ c.item.inlineData.length → (param t reg).getD j 0 = leAt c.item.inlineData (4 * j) 4) ∧
      (∀ j, c.item.inlineData.length ≤ 4 * j → (param t reg).getD j 0 = 0) ∧ (param t reg).length = 128 ∧
      (∀ k, k ≠ reg → param t k = param s k) ∧ (vsetWork c s).2 = .ended stOk 0)

/-- The matrix path (R125–R128, R134, R155, R202). LOAD_COMPLETE writes the bank of the oldest load of a half that may complete
and ends its record, with its error where its read failed; MMA_FIRST_ROW_ENTRY runs the oldest MMA of the half once nothing it
waits on is unfinished. INTERLOCK_RELEASE runs again the accumulator record of the core that waits, and SLOT_HOLD_END the vector
record, stated where it is the only one of its unit. Where nothing waits, or what waits must go on waiting, nothing happens. What
an MMA does when its first row enters (R125, R134, R144, R153). With no valid bank it ends with NO_STATIONARY; where the active
set breaks one of the checks 3 to 5 it ends as that check says; with a set of another type group it ends with TYPE_MISMATCH. In
each case the operation leaves the matrix path, the cycles that it waited are counted, and no tile or bank changes. That a command
which does not apply changes nothing is the model's choice (notes/assumptions/1.md). -/
def Obligations.MatrixPath : Prop :=
  (∀ (n half loadWait tileWait : Nat) (env : Env) (s : State), s.issuing → n < 128 → half < 2 →
     let m := s.mat n
     let before (o : MxOp) := opsBefore o.q o.num m.ops
     (∀ o, m.ops.find? (fun o => o.kind == .load && o.half == half) = some o → loadReady (before o) o (m.half half) = true →
       let t := s.setMat n { m.setHalf half ((m.half half).take o) with ops := dropOp o.q o.num m.ops }
       (o.err = none → exec (.loadComplete n half) s = .next (t.setPhaseOf o.q o.num (.ended stOk 0))) ∧
       (∀ st a, o.err = some (st, a) → exec (.loadComplete n half) s =
         .next ((t.raise (Reg.ME_EVENT n) 3 (Reg.ME_EVENT_CNT n) 48).setPhaseOf o.q o.num (.ended st (a % 2 ^ 32))))) ∧
     (∀ o, m.ops.find? (fun o => o.kind == .load && o.half == half) = some o → loadReady (before o) o (m.half half) = false →
       exec (.loadComplete n half) s = .next s) ∧
     (m.ops.find? (fun o => o.kind == .load && o.half == half) = none → exec (.loadComplete n half) s = .next s) ∧
     (∀ o i, m.ops.find? (fun o => o.kind == .mma && o.half == half) = some o → s.issuedAt o.q o.num = some i →
       (mmaReady (before o) o (m.half half) = true → exec (.mmaFirstRowEntry n half loadWait tileWait env) s =
         .next (s.keep (s.settle (.record o.q o.num) env (fun s => s.mmaGo n o i.item loadWait tileWait)))) ∧
       (mmaReady (before o) o (m.half half) = false → exec (.mmaFirstRowEntry n half loadWait tileWait env) s = .next s)) ∧
     ∀ kind event, (kind, event) ∈ [(MxKind.acc, Instr.interlockRelease n env), (MxKind.vec, Instr.slotHoldEnd n env)] →
       ((∀ o ∈ m.ops, o.kind = kind → s.opWaits o = false) → exec event s = .next s) ∧
       ∀ pre o post i, m.ops = pre ++ o :: post → (∀ x ∈ pre ++ post, x.kind ≠ kind) → o.kind = kind → s.issuedAt o.q o.num = some i →
         ∀ why, i.phase = .parked why → notBegun i = true → exec event s = .next (s.keep (State.rerunOne o.q why env s i))) ∧
  (∀ (n : Nat) (o : MxOp) (r : Fetched) (loadWait tileWait : Nat) (s : State),
     let m := s.mat n
     let h := m.half o.half
     let u := usedBank h (mmaRec r).atype (mmaRec r).swap
     let dropped := ((s.setMat n { m with ops := dropOp o.q o.num m.ops }).count (Reg.ME_CNT_LOADWAIT n) loadWait).count
       (Reg.ME_CNT_TILEWAIT n) tileWait
     let check := mmaSetFail ⟨o.q, n, r⟩ dropped (mmaRec r) (h.bank u)
     ((h.bank u).valid = false → s.mmaGo n o r loadWait tileWait = dropped.setPhaseOf o.q o.num (.ended stNoStationary u)) ∧
     (∀ x, (h.bank u).valid = true → check = some x → s.mmaGo n o r loadWait tileWait = x.1.setPhaseOf o.q o.num x.2 ∧
       x.1.mats = dropped.mats) ∧
     ((h.bank u).valid = true → check = none → typeGroup (mmaRec r).atype ≠ typeGroup (h.bank u).type → s.mmaGo n o r loadWait tileWait =
       dropped.setPhaseOf o.q o.num (.ended stTypeMismatch ((mmaRec r).atype * 16 + (h.bank u).type))))

/-- Exact integer products (R162). The new INT32 element of an INT8 row and column is the exact sum of products, negated with NEG
and added to the old element with ADD, saturated to ±(2^31 − 1); an ADD onto the poison 0x8000_0000 leaves it poison. Widening is
exact (R165): an FP32 value passes through the exact arithmetic of the model unchanged, a BF16 value widens to FP32 with 16 more
zero bits, and every NaN becomes the canonical one. What matrix and accumulator records leave in tiles (R140–R144, R157–R162,
R165, R166), core-local memory being quiet. An element of an MMA, with TANDEM_COL in either core, is the saturating sum of its
INT8 products, or its runs promoted one by one, for FP32 the passes hi·hi, lo·hi and hi·lo; of a TLOAD the widened source, with
ADD summed; of a TCOMBINE ±a, or ±a ± b, with ADD summed. What TSTORE and TREDUCE write (R167–R175): each element scaled, biased,
activated and narrowed, as a whole row where OTYPE is an MX type or ACT an ember program; each reduction of its terms in order.
What the vector records write (R192–R194, R203, R204): element by element the operation, or the program, on the widened elements,
narrowed; segment by segment the reduction of its terms, squared with SQ. What the attention records write, where no area they
write meets one they read (R219–R223): the rows of ASOFT; α · O + V and O ÷ L of AFOLD; D of ADELTA; P and G of ABACK. How a
reduction combines (R177, R321, R368, R369, R375). An arriving RSDATA element meets the local one as pairs, or folds it in; after
the last level its owner narrows it to GTYPE and writes it; AGDATA is written as it came; a whole chunk writes its norm pair; an
arriving tally takes an entry's key, COUNT and FIRST, or OVERFLOW. -/
def Obligations.ExactNumberFormats : Prop :=
  (∀ (acc neg : Bool) (old : Nat) (a b : List Nat), old < 2 ^ 32 → a.length = b.length →
     let sgn (x : Nat) : Int := if 128 ≤ x % 256 then Int.ofNat (x % 256) - 256 else Int.ofNat (x % 256)
     let dot : Int := (List.zipWith (fun x y => sgn x * sgn y) a b).sum
     let z : Int := (if acc then (if 2 ^ 31 ≤ old then Int.ofNat old - 2 ^ 32 else Int.ofNat old) else 0) + (if neg then -dot else dot)
     let w := intElem acc neg old (a.map (elemVal 8)) (b.map (elemVal 8))
     if acc = true ∧ old = 0x80000000 then w = (0x80000000, false, true)
     else w.2.2 = false ∧ (2 ^ 31 - 1 < z → w.1 = 2 ^ 31 - 1 ∧ w.2.1 = true) ∧ (z < -(2 ^ 31 - 1) → w.1 = 2 ^ 31 + 1 ∧ w.2.1 = true) ∧
       (-(2 ^ 31 - 1) ≤ z → z ≤ 2 ^ 31 - 1 → Int.ofNat w.1 = z % 2 ^ 32 ∧ w.2.1 = false)) ∧
  ((∀ w, w < 2 ^ 32 → toF32 (ofF32 w) = if f32isNan w then canonNan else w) ∧
   ∀ w, w < 2 ^ 16 → toF32 (elemVal 0 w) = if f32isNan (w * 2 ^ 16) then canonNan else w * 2 ^ 16) ∧
  (∀ (c : Ctx) (s : State), c.core < 128 → s.env.faults = [] → s.poison = [] → (∀ p, 589824 ≤ p → mget 0 s.bias p = 0) →
     (∀ t row, (s.tileRow c.core t row).length = 64) →
     let n := c.core
     let elOf (n : Nat) (s : State) (t row j : Nat) : Nat := (s.tileRow n (t + row / 64) (row % 64)).getD j 0
     let el := elOf n
     (∀ (o : MxOp) (loadWait tileWait : Nat),
       let x := mmaRec c.item
       let h := (s.mat n).half o.half
       let u := usedBank h x.atype x.swap
       let b := h.bank u
       let lo := h.bank (1 - u)
       let want := tileTypeOf x.atype
       b.valid = true → mmaSetFail c s x b = none → b.admits x.atype = true →
       ((s.arr n).mode = 3 → (s.arr n).partner ≠ n) →
       (x.acc = true → s.tagFail n x.tile (lastTile x.tile x.m) want = none ∧
         ((s.arr n).mode = 3 → s.tagFail (s.arr n).partner x.tile (lastTile x.tile x.m) want = none)) →
       let t := s.mmaGo n o c.item loadWait tileWait
       ∀ row j, row < x.m → j < b.n →
         let a := unpack x.atype b.k (s.mem.bytes (x.a + row * x.stride) (packedLen x.atype b.k))
         let sa := if isMx x.atype then (s.mem.bytes (x.sa + row * x.ss) (b.k / 32)).map (fun y => e8m0 y.toNat) else List.replicate (b.k / 32) .one
         let sb := if isMx b.type then (b.scales.getD j []).map e8m0 else List.replicate (b.k / 32) .one
         let col := b.cols.getD j []
         let home := if (s.arr n).mode = 3 ∧ 64 ≤ j then ((s.arr n).partner, j - 64) else (n, j)
         let old := elOf home.1 s x.tile row home.2
         let runs (rnd : Fp → Fp) (p : Nat) := floatRuns rnd p (s.runLen n) (if (s.arr n).mode = 2 then 64 * typeP x.atype else 0)
         let pass (u v : List Fp) := runs (roundFp fmtF32) 1 false x.neg u v [] []
         let hi := a.map (fun w => decodeFp fmtBf16 (splitHi w))
         let bh := col.map (decodeFp fmtBf16)
         t.tag home.1 (x.tile + row / 64) = want ∧
         elOf home.1 t x.tile row home.2 =
           if isInt8 x.atype then (intElem x.acc x.neg old (a.map (elemVal x.atype)) (col.map (elemVal b.type))).1
           else if x.atype = 2 then
             let w1 := (promote x.acc old (pass hi bh)).1
             let w2 := (promote true w1 (pass (a.map (fun w => decodeFp fmtBf16 (splitLo w))) bh)).1
             (promote true w2 (pass hi ((lo.cols.getD j []).map (decodeFp fmtBf16)))).1
           else (promote x.acc old (runs (roundFp fmtF24) (typeP x.atype) (isMx x.atype || isMx b.type) x.neg (a.map (elemVal x.atype))
             (col.map (elemVal b.type)) sa sb)).1) ∧
     (tloadFail c s = none →
       let x := tloadFields c.item
       let want := if x.stype = 0xD then 2 else 1
       (x.add = true → s.tagFail n x.tile (lastTile x.tile x.m) want = none) →
       let t := (tloadWork c s).1
       ∀ row j, row < x.m → j < x.n →
         let v := tloadElem x.stype ((unpack x.stype x.n (s.mem.bytes (x.a + row * x.stride) (x.n * srcBytes x.stype))).getD j 0)
         t.tag n (x.tile + row / 64) = want ∧
         el t x.tile row j = if x.add then (accAdd (x.stype == 0xD) (el s x.tile row j) v).1 else v) ∧
     (tcombineFail c s = none →
       let r := c.item
       let hasB := r.f 9 1 != 0xFF
       let fl := r.f 0xC 1
       (List.range (r.f 0xB 1)).findSome? (s.combineFail n (r.f 8 1) (r.f 9 1) (r.f 0xA 1) hasB (bit fl 0)) = none →
       let t := (tcombineWork c s).1
       ∀ row j, row < 64 * r.f 0xB 1 → j < 64 →
         let i := row / 64
         let ty := combineType (s.tag n (r.f 8 1 + i)) (if hasB then s.tag n (r.f 9 1 + i) else 0) (s.tag n (r.f 0xA 1 + i)) hasB (bit fl 0)
         let a := accNeg (ty == 2) (bit fl 1) (el s (r.f 8 1) row j)
         let v := if hasB then (accAdd (ty == 2) a (accNeg (ty == 2) (bit fl 2) (el s (r.f 9 1) row j))).1 else a
         t.tag n (r.f 0xA 1 + i) = ty ∧
         el t (r.f 0xA 1) row j = if bit fl 0 then (accAdd (ty == 2) (el s (r.f 0xA 1) row j) v).1 else v)) ∧
  (∀ (c : Ctx) (s : State), c.core < 128 → s.env.faults = [] → s.poison = [] → (∀ p, 589824 ≤ p → mget 0 s.bias p = 0) →
     (tstoreFail c s = none →
       let x := storeRec c.item
       let prog := if x.act = 0x1F then s.emSlot c.core x.ember else []
       (x.act = 0x1F → prog ≠ [] ∧ emActivation prog = true) →
       let t := (tstoreWork c s).1.mem
       let scales := unpack 2 (scaleLen x / 4) (s.mem.bytes x.scAddr (scaleLen x))
       let biases := if x.bmode = 2 then (unpack 0 x.n (s.mem.bytes x.bAddr (biasLen x))).map (fun w => toF32 (elemVal 0 w))
         else unpack 2 (biasLen x / 4) (s.mem.bytes x.bAddr (biasLen x))
       (tstoreWork c s).2 = .ended stOk 0 ∧ ∀ row, row < x.m →
         let tag := s.tag c.core (x.tile + row / 64)
         let els := (s.tileRow c.core (x.tile + row / 64) (row % 64)).take x.n
         (isMx x.otype = false → x.act ≠ 0x1F →
           let code (e : Nat × Nat) : Nat :=
             if tag = 2 ∧ x.smode = 0 ∧ x.bmode = 0 ∧ x.act = 0 ∧ x.otype = 0xD then e.2
             else (narrowOut x.otype x.trunc x.sat (activate x.act x.actp (step12 x scales biases row e.1 (step0 tag e.2)))).code
           let data := pack x.otype ((numbered els).map code)
           t.bytes (x.dst + row * x.stride) data.length = data) ∧
         let out := epilogueRow x prog scales biases tag row els
         let data := pack x.otype (out.1.map (·.code))
         let at_ := localBase c.core + x.mxs
         (isMx x.otype = false ∨ at_ + x.m * (x.n / 32) ≤ x.dst ∨ x.dst + x.m * x.stride ≤ at_ → t.bytes (x.dst + row * x.stride) data.length = data ∧
           (isMx x.otype = true → els.length = x.n → t.bytes (at_ + row * (x.n / 32)) (x.n / 32) = out.2.1.map (BitVec.ofNat 8)))) ∧
     (treduceFail c s = none →
       let x := redFields c.item
       ∀ g, s.rangeTag c.core x.tile (lastTile x.tile x.m) = (g, none) → (g = 2 → x.op ≠ 1 ∧ x.op ≠ 2) →
       (treduceWork c s).2 = .ended stOk 0 ∧ ∀ i, i < x.count →
         let xs := reduceTerms s c.core x.tile x.m x.n x.dim i
         (treduceWork c s).1.mem.bytes (x.dst + i * redBytes x.op) (redBytes x.op) =
           (if g = 2 then (if x.op = 0 then RedRes.plain (sumInt xs).1 else bestInt (x.op != 3) xs) else reduceF32 x.op xs).bytes)) ∧
  (∀ (c : Ctx) (s : State), c.core < 128 → s.env.faults = [] → s.poison = [] → (∀ p, 589824 ≤ p → mget 0 s.bias p = 0) →
     let r := c.item
     let params := (s.vec c.core).params
     let elems (packed : Bool) (ins : List Strm) (i : Nat) : List Nat :=
       ins.map (fun x => veIn packed x.ty (leAt (s.mem.bytes (x.addr + i * srcBytes x.ty) (srcBytes x.ty)) 0 (srcBytes x.ty)))
     let wrote (t : State) (x : Strm) (i : Nat) (code : Nat) : Prop :=
       t.mem.bytes (x.addr + i * srcBytes x.ty) (srcBytes x.ty) = toLe (srcBytes x.ty) code
     (vopFail c s = none → ∀ i, i < vopLen r →
       wrote (vopWork c s).1 (vopDst r) i (veOut (vopPacked r) (bit (r.f 0x30 1) 1) (bit (r.f 0x30 1) 0) (vopDst r).ty
         ((vopElem r params i (elems (vopPacked r) (vopIns r) i)).outs.getD 0 0)).code) ∧
     (emrunFail c s = none →
       let p := s.emSlot c.core (emrunSlot r)
       ∀ i j x, i < emrunLen r → (emrunStreams r p [3, 4])[j]? = some x →
         wrote (emrunWork c s).1 x i (veOut (emPacked p) (bit (r.f 0x38 1) 1) (bit (r.f 0x38 1) 0) x.ty
           ((emRunElem p params i (elems (emPacked p) (emrunStreams r p [0, 1, 2]) i)).t.getD (emOut p j) 0)).code) ∧
     (vreduceFail c s = none →
       let x := vredFields r
       (vreduceWork c s).2 = .ended stOk 0 ∧ ∀ j, j < x.nseg →
         let xs := (upTo (j * x.seg) (min x.l (j * x.seg + x.seg) - 1)).map
           (fun i => veIn false x.src.ty (leAt (s.mem.bytes (x.src.addr + i * srcBytes x.src.ty) (srcBytes x.src.ty)) 0 (srcBytes x.src.ty)))
         (vreduceWork c s).1.mem.bytes (x.dst + j * redBytes x.op) (redBytes x.op) =
           (reduceF32 x.op (if r.f 0x22 1 = 1 then xs.map (fun w => f32mul w w) else xs)).bytes)) ∧
  (∀ (c : Ctx) (s : State), c.core < 128 → s.env.faults = [] → s.poison = [] → (∀ p, 589824 ≤ p → mget 0 s.bias p = 0) →
     let x := (s.attContext c.core).getD {}
     let at_ := s.mem.bytes
     let apart (u v : Nat × Nat) : Prop := u.1 + u.2 ≤ v.1 ∨ v.1 + v.2 ≤ u.1
     let maskArea (b rows cols : Nat) : Nat × Nat := (b, if bit x.mode 2 then maskLen x cols else rows * strideMask x.mode cols)
     let mask (b qpos kpos cols i : Nat) := maskRow x qpos kpos cols i (at_ (b + i * strideMask x.mode cols) (maskLen x cols))
     let area (a stride rows : Nat) : Nat × Nat := (a, rows * stride)
     (asoftFail c s = none → x.ptype ∈ [0, 1, 4, 5] →
       let y := asoftFields c.item
       let ps := stridePacked y.cols (srcBytes x.ptype)
       (∀ u ∈ [area y.pa ps y.rows, area y.ta 16 y.rows], ∀ v ∈ [area y.sa (strideF32 y.cols) y.rows, maskArea y.ba y.rows y.cols], apart u v) →
       apart (area y.pa ps y.rows) (area y.ta 16 y.rows) →
       (asoftWork c s).2 = .ended stOk 0 ∧ ∀ i, i < y.rows →
         let w := softRow x (if y.first then { m := negInf, l := 0, aux := 0, nan := false } else statOf (at_ (y.ta + 16 * i) 16))
           (mask y.ba y.qpos y.kpos y.cols i) (unpack 2 y.cols (at_ (y.sa + i * strideF32 y.cols) (4 * y.cols)))
         let t := (asoftWork c s).1.mem
         t.bytes (y.pa + i * ps) (y.cols * srcBytes x.ptype) = pack x.ptype w.p ∧ t.bytes (y.ta + 16 * i) 16 = w.stat.bytes) ∧
     (afoldFail c s = none →
       let y := afoldFields c.item
       let os := strideF32 y.d
       let us := stridePacked y.d (srcBytes y.ot)
       let out := bit y.fl 1
       y.oa = y.va ∨ apart (area y.oa os y.rows) (area y.va os y.rows) → apart (area y.oa os y.rows) (area y.ta 16 y.rows) →
       (out = true → ∀ v ∈ [area y.oa os y.rows, area y.va os y.rows, area y.ta 16 y.rows], apart (area y.ua us y.rows) v) →
       (afoldWork c s).2 = .ended stOk 0 ∧ ∀ i, i < y.rows →
         let st := statOf (at_ (y.ta + 16 * i) 16)
         let v := unpack 2 y.d (at_ (y.va + i * os) (4 * y.d))
         let o := if bit y.fl 0 then v else List.zipWith (fun o v => f32add (f32mul st.aux o) v) (unpack 2 y.d (at_ (y.oa + i * os) (4 * y.d))) v
         let q := o.map (fun w => if st.nan then canonNan else if st.l = 0 then 0 else f32div w st.l)
         let t := (afoldWork c s).1.mem
         t.bytes (y.oa + i * os) (4 * y.d) = pack 2 o ∧
         (out = true → t.bytes (y.ua + i * us) (y.d * srcBytes y.ot) = pack y.ot (q.map (fun w => (narrowOut y.ot (bit y.fl 3) (bit y.fl 2) w).code)))) ∧
     (adeltaFail c s = none →
       let y := adeltaFields c.item
       let row (a ty i : Nat) := (unpack ty y.d (at_ (a + i * stridePacked y.d (srcBytes ty)) (y.d * srcBytes ty))).map (widen ty)
       (∀ v ∈ [area y.ga (stridePacked y.d (srcBytes y.gt)) y.rows, area y.oa (stridePacked y.d (srcBytes y.ot)) y.rows],
         apart (area y.ta 16 y.rows) v) →
       (adeltaWork c s).2 = .ended stOk 0 ∧ ∀ i, i < y.rows →
         (adeltaWork c s).1.mem.bytes (y.ta + 16 * i + 8) 4 = toLe 4 (bsum (List.zipWith f32mul (row y.ga y.gt i) (row y.oa y.ot i)))) ∧
     (abackFail c s = none → x.ptype ∈ [0, 1, 4, 5] → x.dtype ≤ 2 →
       let y := abackFields c.item
       let ss := strideF32 y.cols
       let ps := stridePacked y.cols (srcBytes x.ptype)
       let inputs := [area y.sa ss y.rows, area y.ta 16 y.rows, maskArea y.ba y.rows y.cols]
       (∀ v ∈ inputs, apart (area y.da ss y.rows) v) → (y.pa ≠ 0 → ∀ v ∈ area y.da ss y.rows :: inputs, apart (area y.pa ps y.rows) v) →
       (abackWork c s).2 = .ended stOk 0 ∧ ∀ i, i < y.rows →
         let es := List.zipWith (fun (e : Nat × Nat) m => backEntry x (statOf (at_ (y.ta + 16 * i) 16)) m e.1 e.2)
           (List.zip (unpack 2 y.cols (at_ (y.sa + i * ss) (4 * y.cols))) (unpack 2 y.cols (at_ (y.da + i * ss) (4 * y.cols))))
           (mask y.ba y.qpos y.kpos y.cols i)
         let t := (abackWork c s).1.mem
         t.bytes (y.da + i * ss) (y.cols * srcBytes x.dtype) = pack x.dtype (es.map (fun e => narrowTo x.dtype e.2)) ∧
         (y.pa ≠ 0 → t.bytes (y.pa + i * ps) (y.cols * srcBytes x.ptype) = pack x.ptype (es.map (fun e => narrowTo x.ptype e.1))))) ∧
  (∀ (e : PartyEnt) (x : Red) (f : List Byte) (s : State),
     let lvl := frLevel f
     let el := frOffset f
     let o := chunkOwner e (el / 16384)
     let z := elBytes (redG x.item)
     let two (a b : Nat) : Nat × Nat :=
       let t := f32add a b
       let z := f32sub t a
       (t, if f32isNan t || f32isInf t then 0 else f32add (f32sub a (f32sub t z)) (f32sub b z))
     let combine (a b : Nat × Nat) : Nat × Nat :=
       let t := two a.1 b.1
       if e.sum = 0 then (t.1, f32add (f32add a.2 b.2) t.2) else (f32add t.1 (f32add t.2 b.2), 0);
     (let n := frEls x.item f (rsSize e);
       lvl < planLevels e.plan → el < redCount x.item → inLevel e lvl o = true → firstAt e lvl o (chunkFwd e (el / 16384)) = false →
       n ≤ (rsPairs e (frPayload f)).length →
       let kept := x.kept.filter (fun p => decide (p.1 < levKey lvl el ∨ levKey lvl (el + n) ≤ p.1))
       let here := if lvl = 0 then s.localEls x el n else
         (s, { x with kept }, (List.range n).map (fun i => mget (0, 0) x.kept (levKey lvl (el + i))))
       let ps := (List.range n).map (fun i => combine ((rsPairs e (frPayload f)).getD i (0, 0)) (here.2.2.getD i (0, 0)));
       here.2.2.length = n →
       (keepsAt e lvl o = false → s.rsIn e x f = here.1.rsSend e here.2.1 lvl (chunkFwd e (el / 16384)) el ps) ∧
       (keepsAt e lvl o = true → lvl + 1 = planLevels e.plan → s.rsIn e x f = here.1.putVals e here.2.1 el (ps.map (fun p =>
         (narrowFp (if redG x.item = 0 then fmtBf16 else fmtF32) false false (ofF32 (if e.sum = 0 then f32add p.1 p.2 else p.1))).code)))) ∧
     (let n := frEls x.item f z;
       lvl < planLevels e.plan → el < redCount x.item → inLevel e lvl o = true → keepsAt e lvl o = false → n * z ≤ (frPayload f).length →
       ∃ u codes, u.mem = s.mem ∧ s.agIn e x f = State.putVals u e x el codes ∧ codes.flatMap (toLe z) = (frPayload f).take (n * z)) ∧
     (∀ at_ codes,
       let c := at_ / 16384
       let w := s.writeMem srcLink (redDst x.item + at_ * z) (codes.flatMap (toLe z))
       let vals := (numbered codes).foldl (fun m v => mput m (at_ + v.1) v.2) x.vals
       let mine := (vals.filter (fun v => decide (v.1 / 16384 = c))).map (·.2)
       let wide := if redG x.item = 0 then mine.map (· * 0x10000) else mine
       let norm := w.1.writeMem srcLink (redNt x.item + 8 * c) (pairBytes8 (laneSum (wide.map (fun x => f32mul x x))))
       (mine.length ≠ chunkEnd x.item c - 16384 * c → s.putVals e x at_ codes = (w.1, { x with vals, err := x.err.orElse (fun _ => w.2) })) ∧
       (mine.length = chunkEnd x.item c - 16384 * c → (s.putVals e x at_ codes).1.mem = if redNt x.item = 0 then w.1.mem else norm.1.mem)) ∧
     ∀ (t key : List Byte) (count first i : Nat), t.length = 256 → key.length = 40 → count < 2 ^ 31 → first < 2 ^ 17 → i < 4 →
       let u := tMerge t (key, count, first)
       let same (j : Nat) : Prop := tKey u j = tKey t j ∧ tCount u j = tCount t j ∧ tFirst u j = tFirst t j
       let others := ∀ j, j < 4 → j ≠ i → same j
       let fresh (j : Nat) : Prop := tCount t j = 0 ∨ tKey t j ≠ key
       (tCount t i ≠ 0 → tKey t i = key → (∀ j, j < i → fresh j) → others ∧ tOver u = tOver t ∧ tKey u i = key ∧
         tCount u i = (tCount t i + count) % 2 ^ 32 ∧ tFirst u i = min (tFirst t i) first) ∧
       ((∀ j, j < 4 → fresh j) → tCount t i = 0 → (∀ j, j < i → tCount t j ≠ 0) → others ∧ tOver u = tOver t ∧ tKey u i = key ∧
         tCount u i = count ∧ tFirst u i = first) ∧
       ((∀ j, j < 4 → tCount t j ≠ 0 ∧ tKey t j ≠ key) → (∀ j, j < 4 → same j) ∧ tOver u = true) ∧
       tallyMerge t (tallyOf key first) = tMerge t (key, 1, first))

/-! ## KV pools and the Ranker (07_attention_kv_ranker.md) -/

/-- KV records issue (R213, R233, R234, R236, R240, R509). A KVMAP, KVPUT or KVTRIM waits while the core's walker has not begun a
record issued before it, or is inside one; a KVMASS so for the attention unit; a check 1 that fails ends it at once, another check
once its unit is free. Where the checks find nothing, KVMAP and KVPUT begin at the page of their first token, KVMASS reads its
rows, and KVTRIM asks the keeper for an eviction of COUNT frames and waits for it. That records issue at once and wait at their
unit in issue order is the model's choice (notes/assumptions/33.md). The life of a pool (R229, R235). INIT with READY at 0 and a
valid configuration begins, and its end sets READY and puts every frame on the free list; INIT otherwise sets REJECT; DISABLE
takes effect, and READY is cleared, once no KV record of the rope is in flight; a write of ATT_LAB_INV drops the page it names
(with ALL every page of the sequence) from each walker of the rope and sets INV_BUSY, which clears when all have dropped it. That
INIT_DONE reads the configuration again is the model's choice (notes/assumptions/39.md). That a command which does not apply
changes nothing is the model's choice (notes/assumptions/1.md). -/
def Obligations.KvRecordsAndPools : Prop :=
  (∀ (q : Nat) (r : Fetched) (rest : List Fetched) (env : Env) (s : State),
     let c := s.ctx q r
     let u := s.starting q r env
     let issues (i : Instr) (w : State × Phase) : Prop := exec i s = .next (s.keep (s.issued q r w))
     let before := opsBefore q r.num (s.mat c.core).ops
     let onPath (w : State × Phase) : State × Phase := (if w.2.isEnded then w.1 else w.1.hold c, w.2)
     (∀ (op : Nat) (i : Instr) (kind : MxKind) (fail : Ctx → State → Option (State × Phase)) (work : Ctx → State → State × Phase),
       (op, i, kind, fail, work) ∈ [(0x45, .kvmap q env, .walk, kvmapFail, kvmapWork), (0x46, .kvput q env, .walk, kvputFail, kvputWork),
         (0x48, .kvtrim q env, .walk, kvtrimFail, kvtrimWork), (0x47, .kvmass q env, .att, kvmassFail, kvmassWork)] →
       s.ready q op r rest →
       (before.any (fun o => o.kind == kind && s.opWaits o) = true → issues i (u.hold c, .parked .turn)) ∧
       (before.any (fun o => o.kind == kind && s.opWaits o) = false →
         (fail c u = none → (∀ o ∈ before, o.kind ≠ kind) → issues i (onPath (work c u))) ∧
         (fail c u = none → (∃ o ∈ before, o.kind = kind) → issues i (u.hold c, .parked .turn)) ∧
         ∀ x, fail c u = some x → x.2.isFormat = true ∨ (∀ o ∈ before, o.kind ≠ kind) → issues i x)) ∧
     kvmapWork c u = kvGo c u { q, num := r.num, op := 0x45, look := r.f 0x24 4 / 64, at_ := r.f 0x24 4 / 64 } ∧
     kvputWork c u = kvGo c u { q, num := r.num, op := 0x46, look := r.f 0x24 4 / 64, at_ := r.f 0x24 4 / 64 } ∧
     kvtrimWork c u = (u.setKvPool (s.ropeOf c.core) { s.kvPool (s.ropeOf c.core) with
       waiting := (s.kvPool (s.ropeOf c.core)).waiting ++ [{ count := r.f 8 2, owner := some (q, r.num) }] }, .parked .engine)) ∧
  (∀ (who : Requester) (r : Nat) (v : Word) (env : Env) (s : State), r < 16 → s.live →
     let u := s.setPort who {}
     (s.admitted who → s.kvReady r = false → s.kvConfigOk r = true →
       exec (.kvInit who r) s = .next (u.setKvPool r { s.kvPool r with init := true })) ∧
     (s.admitted who → s.kvReady r = true ∨ s.kvConfigOk r = false →
       exec (.kvInit who r) s = .next (u.raise (Reg.ATT_KV_EVENT r) 4 (Reg.ATT_KV_EVENT_CNT1 r) 0)) ∧
     ((s.kvPool r).init = true → ∃ f, exec (.initDone r env) s = .next (s.keep (s.settle (.kv r) env f)) ∧
       ∀ u, (f u).kvReady r = true ∧ ((f u).kvPool r).free = List.range (u.kvFrames r) ∧ ((f u).kvPool r).init = false) ∧
     ((s.kvPool r).init = false → exec (.initDone r env) s = .next s) ∧
     (s.admitted who → exec (.kvDisable who r) s = .next (u.setKvPool r { s.kvPool r with disable := true })) ∧
     ((s.kvPool r).disable = true → s.kvInFlight r = false → ∃ t, exec (.disableDone r) s = .next t ∧ t.kvReady r = false ∧
       t.kvPool r = { s.kvPool r with disable := false } ∧ (∀ p, p ≠ r → t.kvPool p = s.kvPool p) ∧
       (∀ o, o ≠ Reg.ATT_KV_STATUS r → t.reg o = s.reg o) ∧ t = { s with kvPools := t.kvPools, regs := t.regs }) ∧
     (s.kvInFlight r = true → exec (.disableDone r) s = .next s) ∧
     (s.admitted who → ∃ t, exec (.labInv who r (.w64 v)) s = .next t ∧ t.fld (Reg.ATT_KV_STATUS r) 3 3 = 1 ∧
       (∀ n d, mwf {} s.walkers = true → (d ∈ (t.walker n).lab ↔ d ∈ (s.walker n).lab ∧
         ¬ (s.ropeOf n = r ∧ d.seq = fget v 55 32 ∧ (fget v 63 63 = 1 ∨ d.lp = fget v 31 0)))) ∧
       (∀ o, o ≠ Reg.ATT_KV_STATUS r → t.reg o = s.reg o) ∧ t = { u with walkers := t.walkers, regs := t.regs }) ∧
     exec (.invDone r) s = .next (s.setFld (Reg.ATT_KV_STATUS r) 3 3 0))

/-- The control cores' services (R231, R237, R238). LOOKUP reads the page-table entry of the miss at the front of the queue and
sends its descriptor, or none where a read fails; ALLOCATE gives a page that has an entry its descriptor, takes a frame from the
free list for an unwritten one, and answers FULL, with KV_FULL, where none is free and no eviction could free one. -/
def Obligations.ControlCoreServices : Prop :=
  ∀ (c : Nat) (x : CcReq) (env : Env) (s : State), s.live → c < 16 → s.ccRuns c = true →
    (s.ccReq c).find? (fun x => !x.waits) = some x →
    (x.miss.alloc = false → ∃ f, exec (.lookup c env) s = .next (s.keep (s.settle (.walk c) env f)) ∧ ∀ u t,
      (∀ d, u.readPte (srcCC c) x.miss = (t, some d) → f u = (t.ccDone c x).sendDesc x d) ∧
      (u.readPte (srcCC c) x.miss = (t, none) → f u = t.ccDone c x)) ∧
    (x.miss.alloc = true → (s.ccReq c).all (fun y => !y.waits) = true →
      exec (.allocate c env) s = .next (s.keep (s.settle (.walk c) env (fun u => u.kvAllocate c x)))) ∧
    (∀ u t d, (u : State).readPte (srcCC c) x.miss = (t, some d) →
      (d.state ≠ 2 → u.kvAllocate c x = (t.ccDone c x).sendDesc x d) ∧
      (d.state = 2 → (t.kvPool (t.ropeOf x.core)).free ≠ [] → u.ropeOf x.core = t.ropeOf x.core → ∃ f ∈ (t.kvPool (t.ropeOf x.core)).free,
        ((u.kvAllocate c x).kvPool (t.ropeOf x.core)).free = (t.kvPool (t.ropeOf x.core)).free.filter (· != f)) ∧
      (d.state = 2 → (t.kvPool (t.ropeOf x.core)).free = [] → t.kvEvictable (t.ropeOf x.core) = false → u.ropeOf x.core = t.ropeOf x.core →
        u.kvAllocate c x = ((t.ccDone c x).sendDesc x { d with state := 4 }).kvEvent (t.ropeOf x.core) 2 x.miss.seq x.miss.lp))

/-- Walkers and the keeper port (R231, R236, R252, R409). An arriving descriptor whose miss has timed out is discarded; any other
goes to its record, a LIVE one enters the buffer, and the walker's records go on; a miss that times out ends its record with
KV_WALK_TIMEOUT and its page; misses that found the control core's queue full are sent again; the keeper port applies its first
update where the frame is still that page, as score × DECAY + mass, drops it otherwise, and sets POISON of the record's core where
the read fails. Records that wait for a unit then go on. -/
def Obligations.WalkersAndKeeperPort : Prop :=
  ∀ (n k r : Nat) (env : Env) (s : State), n < 128 → r < 16 → s.issuing →
    (∀ id d rest, (s.walker n).arriving = (id, d) :: rest → (∀ m ∈ (s.walker n).misses, m.id ≠ id) →
      exec (.descriptorArrival n env) s = .next (s.keep ((s.setWalker n { s.walker n with arriving := rest }).unitsOn env))) ∧
    (∀ id d rest m, (s.walker n).arriving = (id, d) :: rest → (s.walker n).misses.find? (fun m => m.id == id) = some m →
      ∃ f, exec (.descriptorArrival n env) s = .next (s.keep ((s.settle (.record m.q m.num) env f).unitsOn env)) ∧
        ∀ u, ∃ w, f u = (u.setWalker n w).kvResumeAll n ∧
        w.arriving = rest ∧ w.misses = (s.walker n).misses.filter (fun x => x.id != id) ∧
        w.lab = (if d.state = 0 then labEnter { d with fresh := false } (s.walker n).lab else (s.walker n).lab)) ∧
    ((s.walker n).arriving = [] → exec (.descriptorArrival n env) s = .next (s.keep (s.unitsOn env))) ∧
    (∀ m, (s.walker n).misses[k]? = some m → exec (.kvWalkTimeout n k env) s =
      .next (s.keep ((s.settle (.record m.q m.num) env (fun u =>
        (((u.kvDrop n m.q m.num).setPhaseOf m.q m.num (.ended stKvWalkTimeout (m.lp % 2 ^ 32))).kvEvent
          (((u.kvDrop n m.q m.num).setPhaseOf m.q m.num (.ended stKvWalkTimeout (m.lp % 2 ^ 32))).ropeOf n) 3 m.seq m.lp).kvResumeAll n)).freed env))) ∧
    ((s.walker n).misses[k]? = none → exec (.kvWalkTimeout n k env) s = .next (s.keep (s.freed env))) ∧
    exec (.missResend n) s = .next (s.keep (s.missResend n)) ∧ ((∀ m ∈ (s.walker n).misses, m.sent = true) → s.missResend n = s) ∧
    ((s.kvPool r).updates = [] → exec (.keeperUpdate r env) s = .next (s.keep (s.freed env))) ∧
    (∀ x rest, (s.kvPool r).updates = x :: rest → exec (.keeperUpdate r env) s = .next (s.keep ((s.settle (.kv r) env (fun u =>
      (u.setKvPool r { u.kvPool r with updates := rest }).applyUpdate r x)).freed env))) ∧
    (∀ (u v : State) x b bad, u.readMem (u.keeperSrc r) (u.frameRec r x.frame) 32 = (v, ⟨b, bad, none⟩) →
      (v.keeperSrc r = u.keeperSrc r ∧ v.frameRec r x.frame = u.frameRec r x.frame) →
      let w := v.writeMem (u.keeperSrc r) (u.frameRec r x.frame) (toLe 4 (f32add (f32mul (leAt b 0 4) x.decay) x.mass))
      u.applyUpdate r x = if leAt b 4 1 = 1 ∧ leAt b 8 4 % 2 ^ 24 = x.seq ∧ leAt b 0xC 4 = x.lp then w.1.updateDone x w.2
        else v.updateDone x none) ∧
    ∀ (u v : State) x b bad e, u.readMem (u.keeperSrc r) (u.frameRec r x.frame) 32 = (v, ⟨b, bad, some e⟩) →
      u.applyUpdate r x = (v.attFlag x.core 4).updateDone x (some e)

/-- Evictions (R238, R239, R240, R241, R252). A waiting eviction begins once none of its pool runs, the keeper's Ranker is free
and the device does not quiesce; it ends once no walker of the rope still uses its frames: each is free again, LAST_EVICT is their
number, PIN_FULL is set where they are fewer than asked, and a KVTRIM that asked ends with OK, or with the status of a failed read
of the frame table. Records that wait for a unit then go on. The choice of an eviction (R239, step 1): each chosen frame is LIVE
and not pinned, none is chosen twice, as many are chosen as were asked for or as there are, and no unpinned LIVE frame that is
left has a smaller score than a chosen one, nor an equal one with a lower index; a NaN counts as smaller than every score. -/
def Obligations.Evictions : Prop :=
  (∀ (r : Nat) (env : Env) (s : State), r < 16 → s.issuing →
     (∀ e rest, (s.kvPool r).waiting = e :: rest → (s.kvPool r).running = none →
       (s.quiescing = false → s.rankerEvicts (s.fld (Reg.ATT_KV_CFG r) 26 20) = false →
         exec (.evictionStart r env) s = .next (s.keep ((s.settle (.kv r) env (fun u => u.evictChoose r e rest)).unitsOn env))) ∧
       (s.quiescing = true ∨ s.rankerEvicts (s.fld (Reg.ATT_KV_CFG r) 26 20) = true →
         exec (.evictionStart r env) s = .next (s.keep (s.unitsOn env)))) ∧
     ((s.kvPool r).waiting = [] ∨ (s.kvPool r).running ≠ none → exec (.evictionStart r env) s = .next (s.keep (s.unitsOn env))) ∧
     (∀ e, (s.kvPool r).running = some e →
       (s.frameInUse r e.chosen = false → exec (.evictionDone r env) s =
         .next (s.keep ((s.settle (.kv r) env (fun u => u.evictFree r e)).freed env))) ∧
       (s.frameInUse r e.chosen = true → exec (.evictionDone r env) s = .next (s.keep (s.freed env))) ∧
       ∀ u : State, ((u.evictFree r e).kvPool r).free = (u.kvPool r).free ++ e.chosen ∧ ((u.evictFree r e).kvPool r).running = none ∧
         (u.evictFree r e).fld (Reg.ATT_KV_STATUS r) 59 47 = e.chosen.length % 2 ^ 13 ∧
         (e.chosen.length < e.count → (u.evictFree r e).fld (Reg.ATT_KV_EVENT r) 1 1 = 1) ∧
         ∀ q num, e.owner = some (q, num) → ∃ v : State,
           (e.err = none → u.evictFree r e = v.setPhaseOf q num (.ended stOk 0)) ∧
           ∀ st a, e.err = some (st, a) → u.evictFree r e = v.setPhaseOf q num (.ended st (a % 2 ^ 32))) ∧
     ((s.kvPool r).running = none → exec (.evictionDone r env) s = .next (s.keep (s.freed env)))) ∧
  (∀ (table : List Byte) (frames count : Nat), frames ≤ 65536 →
     let able (f : Nat) : Prop := f < frames ∧ leAt table (32 * f + 4) 1 = 1 ∧ leAt table (32 * f + 5) 1 = 0
     let score (f : Nat) := leAt table (32 * f) 4
     let chosen := evictChoice table frames count
     (∀ f ∈ chosen, able f) ∧ chosen.Nodup ∧ chosen.length = min count (evictKeys table frames).length ∧
     ∀ f ∈ chosen, ∀ g, able g → g ∉ chosen → evictBefore ⟨score g, g⟩ ⟨score f, f⟩ = false ∧
       (evictBefore ⟨score f, f⟩ ⟨score g, g⟩ = false → f < g))

/-- The Ranker's order (R242). What RANK sorts is a rearrangement of its keys, no key comes strictly before one that precedes it,
and keys that tie keep their order: all NaN tie, whatever their payload, and so do all keys of which neither comes before the
other. What a RANK writes (R243–R247): where no read of core-local memory meets an error, it ends with OK, reads its keys, with
the index of each as its payload where the record has no pairs, and writes at DST the sorted pairs, the first K of them, the
sampled token of the first K, the K counts or the choices, slots and counts, as OP says, and at AUX the keys of the choices. -/
def Obligations.RankSortsStably : Prop :=
  (∀ (ktype : Nat) (desc : Bool) (l : List RankPair), l.length ≤ 65536 → (∀ e ∈ l, e.key < 2 ^ 32) →
     (rankSort ktype desc l).Perm l ∧
     (rankSort ktype desc l).Pairwise (fun a b => keyBefore ktype desc b.key a.key = false) ∧
     ∀ k, k < 2 ^ 32 →
       let ties (e : RankPair) : Bool := !keyBefore ktype desc e.key k && !keyBefore ktype desc k e.key
       (rankSort ktype desc l).filter ties = l.filter ties) ∧
  (∀ (c : Ctx) (s : State), c.core < 128 → rankFail c s = none → s.env.faults = [] → s.poison = [] →
     (∀ p, 589824 ≤ p → mget 0 s.bias p = 0) →
     let r := c.item
     let n := r.f 0x20 4
     let k := r.f 0x24 2
     let kt := bits (r.f 0x27 1) 3 2
     let pairs := bit (r.f 0x27 1) 0
     let src := s.mem.bytes (r.f 8 8) (n * (if pairs then 8 else 4))
     let xs := (List.range n).map fun i => if pairs then (⟨leAt src (8 * i) 4, leAt src (8 * i + 4) 4⟩ : RankPair) else ⟨leAt src (4 * i) 4, i⟩
     let sorted := rankSort kt (bit (r.f 0x27 1) 1) xs
     let choices := routeChoices (r.f 0x34 2) k (xs.map (·.key))
     let slots := routeSlots (r.f 0x28 4) (r.f 0x34 2) choices (List.replicate (r.f 0x34 2) 0)
     let data := match r.f 0x26 1 with
       | 0 => sorted.flatMap pairBytes
       | 1 => (sorted.take k).flatMap pairBytes
       | 2 => toppBytes (sorted.take k) (r.f 0x28 4) (r.f 0x2C 4) (r.f 0x30 4)
       | 3 => (histCounts kt (r.f 0x28 4) k (xs.map (·.key))).flatMap (toLe 4)
       | _ => (List.zip choices slots.1).flatMap (fun e => toLe 4 e.1.pay ++ toLe 4 e.2) ++ slots.2.flatMap (toLe 4)
     let t := (rankWork c s).1.mem
     (rankWork c s).2 = .ended stOk 0 ∧
     (r.f 0x10 8 + (rankLens r).1 ≤ r.f 0x18 8 ∨ r.f 0x18 8 + (rankLens r).2 ≤ r.f 0x10 8 → t.bytes (r.f 0x10 8) data.length = data) ∧
     (r.f 0x26 1 = 4 → r.f 0x18 8 ≠ 0 →
       t.bytes (r.f 0x18 8) (4 * choices.length) = choices.flatMap (fun e => toLe 4 e.key)))

/-! ## Haul, porter and weight update (09_haul_and_porter.md, 10_training_state_update.md) -/

/-- Haul records issue (R286–R288, R298, R300, R301, R307–R309). Where its checks find nothing, an HCTX OPEN opens its context on
its pool, and a CLOSE and an HCOPY join the line of their context; a WFILL starts its window (or takes over its prefetch); a WREL
waits for the earlier records of its queue; each time the haul engine then goes on. A PORTER issues while the core's porter queue
has room (R308); it waits behind an earlier one that has not begun or that goes to the same memory, and else is counted in
HAUL_CNT_PORTER and moves its bytes to DST in requests of at most 256 bytes, from SRC, whose failed lines are written as poison,
or from its inline data. That a destination is one memory and when a PORTER is counted are readings of the model
(notes/assumptions/90.md, 50.md). Windows (R300, R301, R304, R305). PREFETCH starts a WFILL's work exactly where the conditions of
R301 hold; WREL_RELEASE, once the earlier records have ended and while records of the queue may begin, frees the oldest COUNT
windows of the context whose WFILL has ended, or ends with CTX_STATE where there are fewer; STALL_WATCH lends the reserve of a
pool to its longest waiting fill, or, where it is lent already, reports STUCK; a pool with no fill that waits, and a device that
is QUIESCED, report nothing. That a command which does not apply changes nothing is the model's choice (notes/assumptions/1.md).
-/
def Obligations.HaulRecordsAndWindows : Prop :=
  (∀ (q : Nat) (r : Fetched) (rest : List Fetched) (env : Env) (s : State),
     let c := s.ctx q r
     let u := s.starting q r env
     let n := s.queueCore q
     let v := u.count (Reg.HAUL_CNT_PORTER n) 1
     let before := opsBefore q r.num (s.mat n).ops
     let goesOn (i : Instr) (w : State × Phase) : Prop := exec i s = .next (s.keep ((s.issued q r w).haulOn env))
     (s.ready q 0x50 r rest → hctxFail c u = none → r.f 0xA 1 = 0 → goesOn (.hctx q env)
       (u.setHaulCtx n (r.f 8 2) (some { pool := r.f 0xB 1, maxb := r.f 0xC 2 }), .ended stOk 0)) ∧
     (s.ready q 0x50 r rest → hctxFail c u = none → r.f 0xA 1 ≠ 0 → goesOn (.hctx q env)
       (u.joinLine n (r.f 8 2) (.close q r.num), .parked .engine)) ∧
     (s.ready q 0x51 r rest → hcopyFail c u = none → goesOn (.hcopy q env) (u.joinLine n (r.f 0x10 2) (.copy q r.num), .parked .engine)) ∧
     (s.ready q 0x52 r rest → wfillFail c u = none → goesOn (.wfill q env) (wfillWork c u)) ∧
     (prefetchOf (s.haul n) q r = none → wfillWork c u = (u.startFill n (r.f 0x10 2) q r true, .parked .engine)) ∧
     (∀ w, prefetchOf (s.haul n) q r = some w → wfillWork c u =
       if w.filled then endMem ((u.issueFill n w).fillWrite n w) w.move.err else (u.issueFill n w, .parked .engine)) ∧
     (s.ready q 0x53 r rest → wrelFail c u = none → goesOn (.wrel q env) (u, .parked .order)) ∧
     (s.ready q 0x54 r rest → s.porterRoom n = false → exec (.porter q env) s = .next s) ∧
     (s.ready q 0x54 r rest → s.porterRoom n = true → before.any (fun o => o.kind == .porter && s.opWaits o) = false →
       porterFail c v = none → porterFree (r.f 0x10 8) before = true → exec (.porter q env) s = .next (s.keep (s.issued q r
         (if (porterWork c v).2.isEnded then (porterWork c v).1 else (porterWork c v).1.hold c, (porterWork c v).2)))) ∧
     (s.ready q 0x54 r rest → s.porterRoom n = true → porterFail c v = none →
       before.any (fun o => o.kind == .porter && s.opWaits o) = true ∨ porterFree (r.f 0x10 8) before = false →
       exec (.porter q env) s = .next (s.keep (s.issued q r (u.hold c, .parked .turn)))) ∧
     (r.f 8 8 = 0 → ∀ t e, v.writeMemBy (srcCore n) 256 (r.f 0x10 8) r.inlineData [] = (t, e) →
       porterWork c v = endMem (t.haulPoison n false) e) ∧
     (r.f 8 8 ≠ 0 → ∀ t t' rd e, v.readMemBy (srcCore n) 256 (r.f 8 8) (r.f 0x18 2) = (t, rd) →
       t.writeMemBy (srcCore n) 256 (r.f 0x10 8) rd.bytes (rd.bad.map (fun l => l + r.f 0x10 8 - r.f 8 8)) = (t', e) →
       porterWork c v = endMem (t'.haulPoison n (!rd.bad.isEmpty)) (rd.err.orElse (fun _ => e)))) ∧
  (∀ (q slot k : Nat) (env : Env) (s : State), s.issuing → q < 2048 → slot < 65536 → k < 192 →
     let n := s.queueCore q
     (∀ r, (s.queue q).fetched.find? (fun r => r.slot == slot) = some r → (s.queue q).mode = .on → r.op = 0x52 → s.quiescing = false →
       chainFail 0 r.chain = none → copyFormat r = none → copyShape r = none → s.fillRefused n (r.f 0x10 2) = none →
       prefetchOf (s.haul n) q r = none → depBefore slot (s.queue q) = false → earlierFills (s.haul n) q (r.f 0x10 2) slot (s.queue q) = true →
       (∀ x, s.haulCtx n (r.f 0x10 2) = some x → winBillets (ctxWins (s.haul n) (r.f 0x10 2)) < x.maxb) →
       exec (.prefetch q slot env) s = .next (s.keep ((s.startFill n (r.f 0x10 2) q r false).haulOn env))) ∧
     (s.quiescing = true ∨ (s.queue q).mode ≠ .on ∨ depBefore slot (s.queue q) = true → exec (.prefetch q slot env) s = .next s) ∧
     (∀ i x, s.parkedOf q 0x53 .order = some i → earlierEnded i.item.num (s.queue q).issued = true → s.mayBegin q = true →
       s.haulCtx i.item.core (i.item.f 8 2) = some x →
       let ready := (ctxWins (s.haul i.item.core) (i.item.f 8 2)).filter (fun w => w.issued && w.filled)
       (ready.length < i.item.f 0xA 1 → exec (.wrelRelease q env) s =
         .next (s.setPhaseOf q i.item.num (.ended 0x66 (i.item.f 8 2 + 3 * 2 ^ 9)))) ∧
       (i.item.f 0xA 1 ≤ ready.length → exec (.wrelRelease q env) s = .next (s.keep
         ((((ready.take (i.item.f 0xA 1)).foldl (fun s w => s.freeWin i.item.core w) s).setPhaseOf q i.item.num (.ended stOk 0)).haulOn env)))) ∧
     (∀ i, s.parkedOf q 0x53 .order = some i → earlierEnded i.item.num (s.queue q).issued = false ∨ s.mayBegin q = false →
       exec (.wrelRelease q env) s = .next s) ∧
     (s.fld Reg.RTE_STATUS 0 0 = 0 → ∀ m id more, (s.credit k).waiters = (m, id) :: more →
       ((s.credit k).lent = 0 → exec (.stallWatch k env) s = .next (s.keep (((s.setCredit k { s.credit k with lent := s.poolRes k, grant := some (m, id, s.streamId m id) }).stallEvent
         k 0 0x0400 1 (s.streamId m id) more.head?).haulOn env))) ∧
       ((s.credit k).lent ≠ 0 → ∃ t, exec (.stallWatch k env) s = .next t ∧ t.credit k = { s.credit k with stuck := true } ∧
         (∀ j, j ≠ k → t.credit j = s.credit j) ∧ t = { s with credits := t.credits, regs := t.regs, log := t.log, out := t.out, pmb := t.pmb })) ∧
     (s.fld Reg.RTE_STATUS 0 0 = 1 ∨ (s.credit k).waiters = [] → exec (.stallWatch k env) s = .next s))

/-- Update records issue (R323, R325, R329, R331, R342). A well-formed UNORM, USWEEP or URULE joins the engine's line, which takes
one record at a time, and a USNAP the line of the copies; the engine then goes on. The sweep (R332, R333, R337, R340). SHARD_BEGIN
begins the next shard where none is in progress and the device does not quiesce; CHUNK_COMMIT computes, commits and writes the
next chunk of the shard in progress; SHARD_END, after its last chunk, writes its record-table entry and STEP_DONE; otherwise none
of them does anything. A sweep is held by a quiesce at a shard boundary only. That a command which does not apply changes nothing
is the model's choice (notes/assumptions/1.md). -/
def Obligations.UpdateRecordsAndSweeps : Prop :=
  (∀ (q : Nat) (r : Fetched) (rest : List Fetched) (env : Env) (s : State),
     let u := s.starting q r env
     let joined : State × Phase := ({ u with upd := { s.upd with line := s.upd.line ++ [(q, r.num)] } }, .parked .turn)
     (s.ready q 0x60 r rest → unormFormat r = none → exec (.unorm q env) s = .next (s.keep ((s.issued q r joined).updOn env))) ∧
     (s.ready q 0x61 r rest → usweepFormat r = none → exec (.usweep q env) s = .next (s.keep ((s.issued q r joined).updOn env))) ∧
     (s.ready q 0x62 r rest → uruleFormat r = none → exec (.urule q env) s = .next (s.keep ((s.issued q r joined).updOn env))) ∧
     (s.ready q 0x63 r rest → snapFormat r = none → s.upd.snap = none → exec (.usnap q env) s = .next (s.keep ((s.issued q r
       ({ u with upd := { s.upd with snaps := s.upd.snaps ++ [(q, r.num)] } }, .parked .turn)).snapOn env)))) ∧
  (∀ (env : Env) (s : State), s.issuing →
     (∀ sw, s.upd.sweep = some sw →
       (sw.run = none → s.quiescing = false →
         exec (.shardBegin env) s = .next (s.keep ((s.settle .sweep env (fun u => u.beginShard sw)).updOn env))) ∧
       (sw.run = none → s.quiescing = true → exec (.shardBegin env) s = .next s ∧ s.sweepHeld = true) ∧
       (∀ run, sw.run = some run → exec (.shardBegin env) s = .next s ∧ s.sweepHeld = false ∧
         (run.chunk < chunksOf (enNparam run.entry) → exec (.shardEnd env) s = .next s ∧
           exec (.chunkCommit env) s = .next (s.keep ((s.settle .sweep env (fun u => u.sweepChunk sw run)).updOn env))) ∧
         (chunksOf (enNparam run.entry) ≤ run.chunk → exec (.chunkCommit env) s = .next s ∧
           exec (.shardEnd env) s = .next (s.keep ((s.settle .sweep env (fun u => u.endShard sw run)).updOn env))))) ∧
     (s.upd.sweep = none → ∀ c ∈ [Instr.shardBegin env, .chunkCommit env, .shardEnd env], exec c s = .next s))

/-- What a sweep decides about a shard (R332, R338). A TORN one ends the record with SHARD_TORN, one whose STEP_DONE equals STEP
is passed over unchanged, unless a replay has just completed it, and neither touches the shard; one whose entry cannot be read is
torn, and the record ends with the error; a shard begins only where its entry is valid and none of the pages of the arrays it
writes is SEALED or DRAINING. One element's update (R318, R327): AdamW, SGD with momentum and Nesterov's form, each operation
rounded once, with the group's values at the offsets that R318 gives; then weight decay and the learning rate, and the average. -/
def Obligations.ShardDecisions : Prop :=
  (∀ (s : State) (step k : Nat) (e : List Byte),
     (enState e = 1 → s.shardDecision step k e = .stop stShardTorn (k % 2 ^ 13)) ∧
     (enState e ≠ 1 → enStepDone e = step → s.shardDecision step k e = .pass) ∧
     (s.shardDecision step k e = .sweep → enState e ≠ 1 ∧ enStepDone e ≠ step ∧ s.validEntry k e = true ∧
       ∀ a ∈ s.written e, ∀ b, enBase e a ≤ b → b < enBase e a + enNparam e * s.arrSize e a → b < stackedEnd → mget 0 s.seals (b / 0x200000) = 0) ∧
     (∀ sw t b bad, s.readMem srcUpdate (s.shardAddr sw.shard) 128 = (t, ⟨b, bad, none⟩) →
       (t : State).shardDecision sw.step sw.shard b = .pass → resumeAt sw sw.shard = none → sw.shard + 1 ≠ sw.first + sw.count →
       s.beginShard sw = (t.count Reg.UPD_CNT_PASSED 1).setSweep
         (some { sw with shard := sw.shard + 1, seen := sw.seen ++ [(sw.shard, enBase b 0, enNparam b)] })) ∧
     (∀ sw t b bad x, s.readMem srcUpdate (s.shardAddr sw.shard) 128 = (t, ⟨b, bad, some x⟩) →
       s.beginShard sw = (t.tearShard sw sw.shard).endSweep sw x.1 x.2)) ∧
  (∀ (prog gr : List Byte) (clip grad : Nat) (x : Elem),
     let v (k : Nat) : Nat := leAt gr (4 * k) 4
     let g := f32mul grad clip
     let finish (d : Nat) (y : Elem) : Elem :=
       let w := f32fma (f32neg (v 0)) (f32fma (v 1) x.w d) x.w
       { y with w, e := f32fma (v 10) (f32sub w x.e) x.e }
     let m1 := f32fma (v 2) x.m1 (f32mul (v 3) g)
     let m2 := f32fma (v 4) x.m2 (f32mul (v 5) (f32mul g g))
     let mu := f32fma (v 9) x.m1 g
     updElem 0 prog gr clip grad x = finish (f32div (f32mul m1 (v 7)) (f32add (f32sqrt (f32mul m2 (v 8))) (v 6))) { x with m1, m2 } ∧
     updElem 1 prog gr clip grad x = finish mu { x with m1 := mu } ∧
     updElem 2 prog gr clip grad x = finish (f32fma (v 9) mu g) { x with m1 := mu })

/-! ## Aedlink ports, frames and parties (11_aedlink_parties.md) -/

/-- Ports come up and go down (R353). PORT_UP makes a port Up whose lanes have trained and that, in Aedlink mode, has a good
control block, with all four lanes, 64 credits of each class and the peer that the control block told; a lane that loses lock,
RETRAIN and DISABLE take it down, clear what it knows of its peer and, if it was Up, set LNK_PORT_EVENT.DOWN; a port whose DISABLE
bit is set does not train. None of them changes another port's status or the frames and blocks it has received. That a port that
goes down forgets its peer is the model's choice (notes/assumptions/58.md). Data and control blocks (R349–R351). An Up
Aedlink-mode port accepts a data block whose CHECK is right and whose BSEQ is the next, takes its frames and answers with a
control block; any other data block changes neither its frames nor the BSEQ it expects and is answered with NAK; corrected
codewords are counted. A control block at an Up port returns credits, starts replay on NAK and tells the peer's identity; at a
port that is not yet Up it lets the port come Up, gives the BSEQ of the first data block and is kept for the peer's identity; a
bad one, and any block at a port that is disabled or in Ethernet mode, has no effect. Taking that BSEQ before Up, and which idle
control blocks are shown, are the model's choice (notes/assumptions/57.md, 99.md). That a command which does not apply changes
nothing is the model's choice (notes/assumptions/1.md). -/
def Obligations.PortsAndBlocks : Prop :=
  (∀ (who : Requester) (p lane : Nat) (s : State), s.live → p < 18 → lane < 4 →
     let st (s : State) (hi lo : Nat) := s.fld (Reg.LNK_PORT_STATUS p) hi lo
     let others (t : State) : Prop := ∀ j < 18, j ≠ p → t.reg (Reg.LNK_PORT_STATUS j) = s.reg (Reg.LNK_PORT_STATUS j) ∧
       (t.lport j).rxq = (s.lport j).rxq ∧ (t.lport j).part = (s.lport j).part ∧ (t.lport j).rxSeq = (s.lport j).rxSeq ∧
       (t.lport j).peerPlan = (s.lport j).peerPlan
     let gone (t : State) (state lanes : Nat) : Prop := st t 1 0 = state ∧ st t 7 4 = lanes ∧ st t 41 34 = 0xFF ∧ st t 63 47 = 0 ∧ st t 3 3 = 0 ∧
       (s.portUp p = true → t.fld (Reg.LNK_PORT_EVENT p) 0 0 = 1) ∧ others t
     (st s 1 0 ≤ 1 → s.portEth p = true ∨ (s.lport p).ctl = true → ∃ t, exec (.portUp p) s = .next t ∧ st t 1 0 = 2 ∧ st t 7 4 = 0xF ∧
       (t.lport p).cred0 = 64 ∧ (t.lport p).cred1 = 64 ∧ others t ∧ (∀ party port member plan, (s.lport p).heard = some (party, port, member, plan) →
         st t 41 34 = party % 2 ^ 8 ∧ st t 46 42 = port % 2 ^ 5 ∧ st t 63 47 = member % 2 ^ 17 ∧ (t.lport p).peerPlan = some plan)) ∧
     (2 ≤ st s 1 0 ∨ (s.portEth p = false ∧ (s.lport p).ctl = false) → exec (.portUp p) s = .next s) ∧
     (s.portUp p = true → ∃ t, exec (.portDown p lane) s = .next t ∧ gone t 1 (0xF - 2 ^ lane)) ∧
     (s.portUp p = false → exec (.portDown p lane) s = .next s) ∧
     (s.admitted who → s.fld (Reg.LNK_PORT_CTRL p) 0 0 = 0 → (∃ t, exec (.retrain who p) s = .next t ∧ gone t 1 0) ∧
       (∃ t, exec (.lnkPortDisable who p true) s = .next t ∧ gone t 3 0 ∧ t.fld (Reg.LNK_PORT_CTRL p) 0 0 = 1)) ∧
     (s.admitted who → s.fld (Reg.LNK_PORT_CTRL p) 0 0 = 1 → exec (.retrain who p) s = .next (s.setPort who {}) ∧
       (st s 1 0 = 3 → ∃ t, exec (.lnkPortDisable who p false) s = .next t ∧ gone t 1 0 ∧ t.fld (Reg.LNK_PORT_CTRL p) 0 0 = 0))) ∧
  (∀ (p : Nat) (b : List Byte) (corrected : Nat) (uncorr : Bool) (s : State), s.live → p < 18 →
     let u := s.fecCount p corrected uncorr
     (s.portUp p = true → s.portEth p = false →
       (blockGood b = true → leAt b 0x1F6 1 = 0 → leAt b 0x1F0 4 = (s.lport p).rxSeq → exec (.dataBlock p b corrected uncorr) s = .next
         ((u.rxBlock p (leAt b 0x1F4 2) (b.take 496)).sendControl p false)) ∧
       (blockGood b = false ∨ (leAt b 0x1F6 1 = 0 ∧ leAt b 0x1F0 4 ≠ (s.lport p).rxSeq) →
         exec (.dataBlock p b corrected uncorr) s = .next (u.sendControl p true)) ∧
       (∀ nak, ((u.sendControl p nak).lport p).rxSeq = (s.lport p).rxSeq ∧ ((u.sendControl p nak).lport p).rxq = (s.lport p).rxq) ∧
       (∀ fs d, ((u.rxBlock p fs d).lport p).rxSeq = ((s.lport p).rxSeq + 1) % 2 ^ 32)) ∧
     (s.portUp p = false ∨ s.portEth p = true → exec (.dataBlock p b corrected uncorr) s = .next s) ∧
     (s.fld (Reg.LNK_PORT_STATUS p) 1 0 = 3 ∨ s.portEth p = true ∨ blockGood b = false ∨ leAt b 0x1F6 1 ≠ 1 →
       exec (.controlBlock p b) s = .next s) ∧
     (s.portUp p = true → s.portEth p = false → blockGood b = true → leAt b 0x1F6 1 = 1 →
       let v := (s.modLport p (fun x => { x with ctl := true })).setPeer p (leAt b 0x14 1) (leAt b 0x15 1) (leAt b 0x18 4 % 2 ^ 17) (leAt b 0x20 8)
       let w := v.modLport p (fun x => { x with cred0 := x.cred0 + leAt b 6 2, cred1 := x.cred1 + leAt b 8 2 })
       exec (.controlBlock p b) s = .next
         (((if leAt b 4 1 = 1 then w.replayFrom p ((leAt b 0 4 + 1) % 2 ^ 32) else w).flushPort p).idleControl p)) ∧
     (s.fld (Reg.LNK_PORT_STATUS p) 1 0 ≤ 1 → s.portEth p = false → blockGood b = true → leAt b 0x1F6 1 = 1 →
       let told := some (leAt b 0x14 1, leAt b 0x15 1, leAt b 0x18 4 % 2 ^ 17, leAt b 0x20 8)
       exec (.controlBlock p b) s = .next ((s.modLport p (fun x => { x with ctl := true, rxSeq := leAt b 0x1F0 4, heard := told })).idleControl p)))

/-- Frames received (R358–R361, R368, R369, R375, R379–R381). A command of each type takes the oldest frame its port has, once
nothing holds the port's own accesses: it is popped, delivered or forwarded, with the payload lines of a PUT or RDATA that came as
poison, and records that it sets free go on; where the oldest frame is of another type, or there is none, or the port waits, it
stays. While the operating point changes nothing is taken. Holding frames then, and the poisoned lines that come beside a frame,
are the model's choice (notes/assumptions/14.md, 99.md). What becomes of a frame (R358–R361, R365, R380, R381). A frame of a party
that its port does not serve, or of a peer with another plan, has no effect; one for another member is sent on, its poisoned lines
with it; one for this member is delivered in PSEQ order, a duplicate only brings another ACK, an early one is kept. A SIGNAL is
applied to the anchor it names; a PUT inside LNK_PUT_WIN is written, with its poisoned lines, and answered with DONE, one outside
is refused with DONE code 0x10 and writes nothing. That a duplicate brings another ACK is the model's choice
(notes/assumptions/61.md). That a command which does not apply changes nothing is the model's choice (notes/assumptions/1.md). -/
def Obligations.Frames : Prop :=
  (∀ (p : Nat) (eth : List Byte) (bad : List Nat) (env : Env) (s : State), s.issuing → p < 18 →
     ∀ x ∈ [(0, Instr.rsdata p eth env), (1, .agdata p eth env), (2, .tail p eth env), (3, .signalFrame p eth env), (4, .putFrame p eth env bad),
         (5, .rreq p eth env), (6, .rdata p eth env bad), (7, .ackFrame p eth env), (8, .doneFrame p eth env), (9, .hello p eth env)],
       let a := s.etherArrive p eth
       let lines := if x.1 = 4 ∨ x.1 = 6 then bad else []
       (s.oppBusy = false → ∀ f rest, (a.lport p).rxq = f :: rest → frType f = x.1 → a.tokenWaits (.port p) = false →
         exec x.2 s = .next (s.keep (((a.settle (.port p) env (fun u => u.popFrame p f lines)).snapOn env).linkOn env))) ∧
       (s.oppBusy = false → a.tokenWaits (.port p) = true → exec x.2 s = .next (s.keep a.linkFlush)) ∧
       (s.oppBusy = false → ((a.lport p).rxq = [] ∨ ∃ f rest, (a.lport p).rxq = f :: rest ∧ frType f ≠ x.1) →
         exec x.2 s = .next (s.keep a.linkFlush)) ∧
       (s.oppBusy = true → exec x.2 s = .next s)) ∧
  (∀ (p : Nat) (f : List Byte) (bad : List Nat) (e : PartyEnt) (s : State), p < 18 → e.id < 4 → s.portParty p = some e →
     (frType f ≠ 9 → (frParty f ≠ e.id ∨ (s.lport p).planBad = true) → s.takeFrame p f bad = s) ∧
     (frType f ≠ 9 → frParty f = e.id → (s.lport p).planBad = false →
       (frDst f ≠ e.member → s.takeFrame p f bad = (s.dispatch e (frDst f) f).1.emitPoison e.id (frSrc f) (frDst f) (frPseq f) bad) ∧
       (frDst f = e.member → frType f ≠ 7 → frPseq f < (s.peer e.id (frSrc f)).expect →
         s.takeFrame p f bad = s.modPeer e.id (frSrc f) (fun x => { x with ackDue := true })) ∧
       (frDst f = e.member → frType f ≠ 7 → (s.peer e.id (frSrc f)).expect < frPseq f →
         s.takeFrame p f bad = s.modPeer e.id (frSrc f) (fun x => { x with early := mput x.early (frPseq f) (p, f, bad) })) ∧
       (frDst f = e.member → frType f ≠ 7 → frPseq f = (s.peer e.id (frSrc f)).expect → 
         (((s.deliver e p f bad).noteDelivered e (frSrc f)).peer e.id (frSrc f)).early = [] →
         s.takeFrame p f bad = (s.deliver e p f bad).noteDelivered e (frSrc f))) ∧
     (frType f = 3 → s.deliver e p f bad = (s.count (Reg.LNK_PORT_CNT_RXB p) (frPlen f)).anchorOp (leAt (frPayload f) 0 2 % 4096)
       (leAt (frPayload f) 2 1 == 1) (BitVec.ofNat 32 (leAt (frPayload f) 4 4))) ∧
     (frType f = 4 →
       let u := s.count (Reg.LNK_PORT_CNT_RXB p) (frPlen f)
       let lo := s.fld (Reg.LNK_PUT_WIN e.id) 51 21 * 0x200000
       let hi := min stackedEnd (lo + s.fld (Reg.LNK_PUT_WIN e.id) 63 52 * 0x200000)
       (lo ≤ frOffset f → frOffset f + frPlen f ≤ hi → s.deliver e p f bad =
         (u.writeMemP srcLink (frOffset f) (frPayload f) (badAt (frOffset f) (frPlen f) bad)).1.sendDone e (frSrc f) 1 0 (frPseq f) 0 0) ∧
       (frOffset f < lo ∨ hi < frOffset f + frPlen f → s.deliver e p f bad = u.sendDone e (frSrc f) 1 0x10 (frPseq f) (frOffset f) 0)))

/-- The link's timers (R357, R360, R362, R371, R379). HELLO_TIMER broadcasts, on each Ethernet-mode port that is Up and of a
directly linked party, a HELLO frame that tells the party, port, member and PLAN_ID, and on no other port; ACK_TIMER sends an ACK
that is due; RETRANSMIT_TIMER sends every unacknowledged frame of a peer again, the first one first, and counts each at its port;
RED_TIMEOUT ends the record it finds waiting with LNK_TIMEOUT; REPAIR_SOURCE_START serves the oldest request of its party once the
update engine is not inside a USWEEP; priority flow control pauses and resumes an Ethernet-mode port on LNK_CFG.PRIO only. That a
command which does not apply changes nothing is the model's choice (notes/assumptions/1.md). -/
def Obligations.LinkTimers : Prop :=
  ∀ (k m p prio : Nat) (pause ack : Bool) (env : Env) (s : State), s.issuing → k < 4 → p < 18 →
    let again (e : PartyEnt) (u : State) (x : Unacked) : State := match u.dispatch e m x.bytes with
      | (t, some j) => t.count (Reg.LNK_PORT_CNT_RETX j) 1
      | (t, none) => t
    (∃ t : State, exec .helloTimer s = .next (s.keep t.linkFlush) ∧ t = { s with linkPorts := t.linkPorts } ∧
      ∀ j < 18, ∀ hs, hs = (match s.portParty j with
          | some e => if e.topo = 0 ∧ s.portUp j ∧ s.portEth j then [s.etherFrame e j broadcast (helloFrame e j)] else []
          | none => []) →
        t.lport j = { s.lport j with waiting := (s.lport j).waiting ++ hs }) ∧
    (∀ (e : PartyEnt) (j : Nat), e.id < 4 → j < 18 → e.member < 2 ^ 17 →
      let f := helloFrame e j
      frType f = 9 ∧ frDst f = 0x1FFFF ∧ frParty f = e.id ∧ frSrc f = e.member ∧ frPlen f = 32 ∧
      leAt (frPayload f) 0 2 = 0x4C52 ∧ leAt (frPayload f) 2 2 = 0x24 ∧ leAt (frPayload f) 4 1 = e.id ∧ leAt (frPayload f) 5 1 = j ∧
      leAt (frPayload f) 8 4 = e.member ∧ leAt (frPayload f) 0x10 8 = planId e.plan) ∧
    (∀ e, s.party? k = some e →
      ((s.peer k m).ackDue = true → exec (.ackTimer k m) s = .next (s.keep (s.sendAck e m).linkFlush)) ∧
      ((s.peer k m).ackDue = false → exec (.ackTimer k m) s = .next s) ∧
      exec (.retransmitTimer k m) s = .next (s.keep ((s.peer k m).unacked.foldl (again e) s).linkFlush) ∧
      (∀ x (u : State), (u.route e m = [] → again e u x = u) ∧ (u.route e m ≠ [] →
        let j := (u.route e m).getD ((u.peer e.id m).turn % (u.route e m).length) 0
        again e u x = ((u.modPeer e.id m (fun y => { y with turn := y.turn + 1 })).portSend e j m x.bytes).count
          (Reg.LNK_PORT_CNT_RETX j) 1)) ∧
      (∀ x, (s.lparty k).red = some x → ack = false → ¬ (x.chunks = chunkTotal x.item ∧ x.shards = redShards x.item) →
        let d := if m < e.members ∧ m ≠ e.member then m else 0xFFFFFFFF
        exec (.redTimeout k m ack env) s = .next (s.keep (((s.timeoutEvent k d).endRed k x stLnkTimeout d).linkOn env))) ∧
      (∀ x rest, (s.lparty k).requests = x :: rest → s.insideSweep = false →
        exec (.repairSourceStart k env) s = .next (s.keep ((s.settle (.party k) env (fun u => u.sourceSend e x)).linkFlush))) ∧
      (s.insideSweep = true ∨ (s.lparty k).requests = [] → exec (.repairSourceStart k env) s = .next s)) ∧
    (∀ o, ((s.peer k m).unacked.filterMap Unacked.owner).head? = some o → ack = true →
      exec (.redTimeout k m ack env) s = .next (s.keep (((s.timeoutRecord k m o).snapOn env).linkOn env))) ∧
    (s.portUp p = true → s.portEth p = true → prio = s.fld Reg.LNK_CFG 14 12 →
      exec (.priorityFlowControl p prio pause) s = .next ((s.modLport p (fun x => { x with paused := pause })).flushPort p)) ∧
    (s.portEth p = false ∨ prio ≠ s.fld Reg.LNK_CFG 14 12 → exec (.priorityFlowControl p prio pause) s = .next s)

/-- Link records and LNK_PARTY_SEQ (R367, R371, R372, R378, R382). An LREDUCE of a party of the image joins the party's line, one
of a party that is not there ends with LNK_PARTY; an LREPAIR that passes its checks asks its source; each time what is to be sent
is sent. A reduction that ends leaves LNK_PARTY_SEQ at its RSEQ; a write of LNK_PARTY_SEQ is taken while the device is QUIESCED
and the party idle, and discards the staged frames, and is rejected with SEQ_REJECT otherwise. -/
def Obligations.LinkRecordsIssue : Prop :=
  ∀ (who : Requester) (q k : Nat) (r : Fetched) (rest : List Fetched) (v : Word) (env : Env) (s : State),
    let c := s.ctx q r
    let u := s.starting q r env
    (∀ e, s.ready q 0x70 r rest → lreduceFormat r = none → s.party? (redParty r) = some e → exec (.lreduce q env) s = .next (s.keep
      ((s.issued q r (u.modLparty (redParty r) (fun x => { x with line := x.line ++ [(q, r.num)] }), .parked .turn)).linkOn env))) ∧
    (s.ready q 0x70 r rest → lreduceFormat r = none → s.party? (redParty r) = none → s.lreduceShape r = none →
      exec (.lreduce q env) s = .next (s.keep ((s.issued q r (u, .ended stLnkParty (redParty r))).linkOn env))) ∧
    (∀ e, s.ready q 0x71 r rest → lrepairFail c u = none → s.party? (repParty r) = some e →
      exec (.lrepair q env) s = .next (s.keep (s.issued q r (u.beginRepair e c)).linkFlush)) ∧
    (∀ x st d, (((s.endRed k x st d).reg (Reg.LNK_PARTY_SEQ k)) = BitVec.ofNat 64 (redSeq x.item) ∧ ((s.endRed k x st d).lparty k).red = none)) ∧
    (s.admitted who → k < 4 →
      (s.quiesced = true → s.partyBusy k = false → exec (.lnkPartySeqWrite who k (.w64 v)) s = .next
        (((s.setPort who {}).setReg (Reg.LNK_PARTY_SEQ k) v).modLparty k (fun x => { x with staged := [] }))) ∧
      (s.quiesced = false ∨ s.partyBusy k = true → exec (.lnkPartySeqWrite who k (.w64 v)) s = .next
        ((s.setPort who {}).raise Reg.LNK_EVENT 5 Reg.LNK_EVENT_CNT1 16)))

/-! ## Hosts (13_hosts_and_mailboxes.md) -/

/-- Host links and functions (R391, R392, R395, R405, R408, R486). A link that trains makes its host Up at its speed and width,
and at less than 64 GT/s and full width sets DEGRADED; one that reaches neither stays in Detect. A reset of a host's function
clears its HDM decoder, MSI-X table and spill setting and nothing of another host, a queue, memory or bias. Only the fixed size
and offset at a 256 MiB-aligned base commit. Before the firmware is loaded a configuration request is to be repeated. A core
without heartbeat loses RUN. BAR2 shows a vector's entry: its address, data and mask; unmasking a vector sends the message its
pending bit stands for. While the operating point changes a host's HDM_COMMIT, BAR2 access and configuration request wait at its
port (R478), to be served before BUSY clears. That WIDTH is the width modulo 16, BAR2's layout, and that the port holds these are
the model's choice (notes/assumptions/42.md, 91.md, 14.md). That a command which does not apply changes nothing is the model's
choice (notes/assumptions/1.md). -/
def Obligations.HostsComeAndGo : Prop :=
  ∀ (h speed width base size offset cc vec off : Nat) (down : Bool) (req : CfgReq) (acc : Bar2Acc) (env : Env) (s : State), s.live → s.hostExists h = true →
    let open_ := s.portHeld (.host h) = false
    let holds (op : HeldOp) : Host.Outcome State Fault Refusal := .next { s with heldOps := s.heldOps ++ [op] }
    let st (s : State) (hi lo : Nat) := s.fld (Reg.HST_HOST_STATUS h) hi lo
    let full := speed = 2 ∧ width = s.fullWidth h
    let half := (speed = 2 ∧ 2 * width = s.fullWidth h) ∨ (speed = 1 ∧ width = s.fullWidth h)
    ((st s 0 0 = 0 → full ∨ half → ∃ t, exec (.hostLinkUp h speed width) s = .next t ∧ st t 0 0 = 1 ∧ st t 7 6 = speed ∧ st t 11 8 = width % 16 ∧
        t.mem = s.mem ∧ t.queues = s.queues ∧ t.hosts = s.hosts ∧
        (full → t = { s with regs := t.regs } ∧ ∀ o, o ≠ Reg.HST_HOST_STATUS h → t.reg o = s.reg o) ∧ (half → t.fld (Reg.HST_HOST_EVENT h) 1 1 = 1)) ∧
      (st s 0 0 = 1 ∨ ¬ (full ∨ half) → exec (.hostLinkUp h speed width) s = .next s) ∧
      exec (.hostFunctionReset h down env) s = .next (s.keep ((s.hostReset h down).wake env)) ∧
      (let u := s.hostReset h down;
        st u 2 1 = 0 ∧ u.fld (Reg.HST_HDM_BASE h) 63 28 = 0 ∧ u.fld (Reg.HST_SPILL_CFG h) 0 0 = 0 ∧ mget {} u.hosts h = {} ∧
        (∀ k, k < 8 → k ≠ h → mget {} u.hosts k = mget {} s.hosts k ∧ u.reg (Reg.HST_HOST_STATUS k) = s.reg (Reg.HST_HOST_STATUS k)) ∧
        u.mem = s.mem ∧ u.queues = s.queues ∧ u.bias = s.bias ∧ (down = true → st u 0 0 = 0) ∧
        (down = true → st s 0 0 = 1 → u.fld (Reg.HST_HOST_EVENT h) 0 0 = 1)) ∧
      (open_ → st s 0 0 = 1 → base % 2 ^ 28 = 0 → base < 2 ^ 64 → ∃ t, exec (.hdmCommit h base stackedEnd 0) s = .next t ∧
        t.fld (Reg.HST_HDM_BASE h) 63 28 * 2 ^ 28 = base ∧ t.hostEnabled h = true ∧ t = { s with regs := t.regs } ∧
        ∀ o, o ≠ Reg.HST_HDM_BASE h → o ≠ Reg.HST_HOST_STATUS h → t.reg o = s.reg o) ∧
      (open_ → st s 0 0 = 0 ∨ base % 2 ^ 28 ≠ 0 ∨ size ≠ stackedEnd ∨ offset ≠ 0 → exec (.hdmCommit h base size offset) s = .next s) ∧
      (cc < 16 → s.oppBusy = false → s.fld (Reg.HST_CC_STATUS cc) 32 32 = 1 → s.fld Reg.SIO_STATUS 0 0 = 1 → exec (.ccHung cc) s =
        .next ((s.setFld (Reg.HST_CC_STATUS cc) 32 32 0).post slotSiolo 0x0807 3 cc)) ∧
      (open_ → bar2Ok off acc = true → exec (.msixUnmask h off acc) s = .next (s.keep (s.bar2 h off acc))) ∧
      (open_ → vec < 2048 → let e := s.msixEnt h vec
        let u := s.setMsixEnt h vec { e with masked := false, pend := false }
        let unmask := Instr.msixUnmask h (16 * vec + 12) (.write (.w32 0))
        (∀ i < 4, s.bar2 h (16 * vec + 4 * i) (.read false) = s.emit (.bar2 h (16 * vec + 4 * i)
          (if i = 0 then e.addr % 2 ^ 32 else if i = 1 then e.addr / 2 ^ 32 else if i = 2 then e.data else if e.masked then 1 else 0))) ∧
        (e.pend = false → exec unmask s = .next u) ∧
        (e.pend = true → st s 0 0 = 1 → st s 2 2 = 1 → exec unmask s = .next (u.emit (.msix h vec e.addr e.data))))) ∧
    (¬ open_ → exec (.hdmCommit h base size offset) s = holds (.hdm h base size offset) ∧
      exec (.configurationRequest h req) s = holds (.config h req) ∧
      (bar2Ok off acc = true → exec (.msixUnmask h off acc) s = holds (.bar2 h off acc))) ∧
    (open_ → s.firmwareLoaded = false → exec (.configurationRequest h req) s = .next (s.emit (.cfgReply h true none))) ∧
    (open_ → s.firmwareLoaded = true → ∃ t, exec (.configurationRequest h req) s = .next t ∧
      t.out = s.out ++ [.cfgReply h false (cfgData req)] ∧
      (∀ b, req = .msixEnable b → st t 2 2 = if b then 1 else 0) ∧ ((∀ b, req ≠ .msixEnable b) → t = s.emit (.cfgReply h false (cfgData req))))

/-- Accesses by hosts (R36, R113, R390, R394–R396, R401, R404). A CXL.mem access outside an enabled host's HDM window does not
reach the device; one inside reaches the device address o at HPA_BASE + o. A read of an enabled flush line returns its queue's
COUNT and flips no page; a write to it is dropped. The first access to a DEVICE page flips it to SHARED and counts; an access to a
page that is being recalled, or to a line for which an earlier one of its host waits, waits. Through BAR4 a request of a wrong
size or over a 256-byte boundary is unsupported, a hole reads as zero, and the rest is read and written. An H2D snoop hits
nothing. While the operating point changes each of these requests waits at the host's port (R478; notes/assumptions/14.md). That a
command which does not apply changes nothing is the model's choice (notes/assumptions/1.md). -/
def Obligations.HostAccesses : Prop :=
  ∀ (h hpa off len line : Nat) (b : List Byte) (w : Option (List Byte)) (x : HostAcc) (env : Env) (s : State), s.live → s.hostExists h = true →
    let open_ := s.portHeld (.host h) = false
    let holds (op : HeldOp) : Host.Outcome State Fault Refusal := .next { s with heldOps := s.heldOps ++ [op] }
    (¬ open_ → exec (.hostMemRead h hpa env) s = holds (.memRead h hpa env) ∧ exec (.hostMemWrite h hpa b env) s = holds (.memWrite h hpa b env) ∧
      exec (.flushLineRead h hpa env) s = holds (.memRead h hpa env) ∧ exec (.h2dSnoop h line) s = holds (.snoop h line) ∧
      exec (.localWindowAccess h off len w env) s = holds (.bar4 h off len w env)) ∧
    (open_ → s.hdmAddr h hpa = none → exec (.hostMemRead h hpa env) s = .next s ∧ exec (.hostMemWrite h hpa b env) s = .next s) ∧
    (s.hostEnabled h = false → s.hdmAddr h hpa = none) ∧
    (∀ o, s.hostEnabled h = true → o < stackedEnd → s.hdmAddr h (s.fld (Reg.HST_HDM_BASE h) 63 28 * 2 ^ 28 + o) = some o) ∧
    (∀ o, open_ → s.hdmAddr h hpa = some o →
      (∀ q, s.flushQueue (o / 64 * 64) = some q → 
        exec (.hostMemRead h hpa env) s = .next (s.emit (.hostRead h (o / 64 * 64) (toLe 4 (s.queue q).flushCount ++ List.replicate 60 0) [])) ∧
        exec (.hostMemWrite h hpa b env) s = .next (s.emit (.hostWrote h o))) ∧
      (s.flushQueue (o / 64 * 64) = none →
        exec (.hostMemRead h hpa env) s = .next (s.keep (s.hostAccess ⟨.host s.free, h, o / 64 * 64, none, env⟩)) ∧
        exec (.hostMemWrite h hpa b env) s = .next (s.keep (s.hostAccess ⟨.host s.free, h, o, some (b.take (64 - o % 64)), env⟩)))) ∧
    (s.biasOf x.addr = 0 → s.memHold = false → (∀ y ∈ s.hostHeld, y.host = x.host → y.addr / 64 ≠ x.addr / 64) →
      let u := { (({ s with free := s.free + 1 } : State).count (Reg.HST_CNT_FLIP x.host) 1) with bias := mset 0 s.bias (x.addr / 0x200000) 1 }
      s.hostAccess x = u.serveHost x ∧ u.biasOf x.addr = 1 ∧ u.reg (Reg.HST_CNT_FLIP x.host) = s.reg (Reg.HST_CNT_FLIP x.host) + 1 ∧ u.mem = s.mem) ∧
    (s.biasOf x.addr = 2 ∨ (∃ y ∈ s.hostHeld, y.host = x.host ∧ y.addr / 64 = x.addr / 64) → (s.hostAccess x).hostHeld = s.hostHeld ++ [x] ∧ (s.hostAccess x).out = s.out ∧ (s.hostAccess x).mem = s.mem) ∧
    (let u := ({ s with env := x.env, token := x.tok, needs := [] } : State).readMem (srcHost x.host) x.addr 64;
      x.write = none → u.1.needs = [] →
        s.serveHost x = (u.1.emit (.hostRead x.host x.addr u.2.bytes u.2.bad)).closeTok x.tok) ∧
    (open_ → exec (.localWindowAccess h off len w env) s =
      .next (s.keep (s.settle (.req (reqNum (.host h))) env (fun u => u.bar4 h off len w)))) ∧
    (len < 4 ∨ 256 < len ∨ off / 256 ≠ (off + len - 1) / 256 → s.bar4 h off len w = s.emit (.unsupported h off)) ∧
    (4 ≤ len → len ≤ 256 → off / 256 = (off + len - 1) / 256 → off + len ≤ 2 ^ 32 →
      (∀ a, s.rangeBad (bar4Addr off) len = some a → s.bar4 h off len none =
        (s.rangeErr (srcHost h) a).emit (.hostRead h off (List.replicate len 0) []) ∧ s.bar4 h off len (some b) = s.rangeErr (srcHost h) a) ∧
      (s.rangeBad (bar4Addr off) len = none → s.bar4 h off len none =
        (let u := s.readMem (srcHost h) (bar4Addr off) len; u.1.emit (.hostRead h off u.2.bytes u.2.bad)) ∧
        (b.length = len → s.bar4 h off len (some b) = (s.writeMem (srcHost h) (bar4Addr off) b).1))) ∧
    (open_ → exec (.h2dSnoop h line) s = .next (s.emit (.snoopRsp h line)))

/-- Answers to snoops and spill requests, and spill windows (R397, R398, R402, R403). An answer reaches the oldest access that
waits for it, which then goes on, and the dirty data of one are stored as they come; an answer about a line of a page in recall is
noted and its dirty data are stored; where nothing waits it is discarded. A snoop that is not answered counts as no copy and sets
SNOOP_TIMEOUT, a spill request ends with poisoned data and SPILL_ERR or SPILL_TIMEOUT. EN of HST_SPILL_CFG is set with a size from
1 to 1,024 GiB only, and BASE and GIB stay while it reads 1: a write of either then sets REJECT. Bias operations (R404). TO_DEVICE
while one runs is rejected; with a COUNT of 0 or a page beyond stacked memory it ends with code 1 and is rejected; else it takes
the pages in ascending order, skips those in DEVICE bias, and recalls the next one from every enabled host. A recalled page has
the dirty lines that awaited hosts return written, each once, and becomes DEVICE, or SHARED with BIAS_LOST where a host has
accessed it meanwhile or had an access waiting as the recall began; the operation then goes on. That a page is recalled in one
message is the model's choice (notes/assumptions/44.md). That a command which does not apply changes nothing is the model's choice
(notes/assumptions/1.md). -/
def Obligations.SnoopsSpillsAndBias : Prop :=
  (∀ (who : Requester) (h line : Nat) (inv : Bool) (dirty data : Option (List Byte)) (base : BitVec 52) (env : Env) (s : State),
     s.live → s.hostExists h = true →
     let snoop := s.waiting (isSnoop h line inv)
     let spill := s.waiting (isSpill line)
     let owner := (line - spillBase 0) / 0x10000000000
     (snoop = none → s.recallWaits h line = false → exec (.snoopResponse h line inv dirty env) s = .next s ∧
       exec (.snoopTimeout h line inv env) s = .next s) ∧
     (snoop = none → s.recallWaits h line = true →
       exec (.snoopResponse h line inv dirty env) s = .next (s.keep (s.recallAnswer h line (dirty.getD []) env)) ∧
       exec (.snoopTimeout h line inv env) s = .next (s.keep ((s.snoopLate h line).recallAnswer h line [] env))) ∧
     (s.snoopLate h line).fld (Reg.HST_HOST_EVENT h) 4 4 = 1 ∧
     (spill = none → exec (.spillCompletion line data env) s = .next s ∧ exec (.spillTimeout line env) s = .next s) ∧
     (∀ x, snoop = some x → exec (.snoopResponse h line inv dirty env) s =
         .next (s.keep (((s.dirtyBack h line (dirty.getD []) env).answer x .clean).wake env)) ∧
       (dirty = none → s.dirtyBack h line (dirty.getD []) env = { s with env := {} }) ∧
       exec (.snoopTimeout h line inv env) s = .next (s.keep (((s.snoopLate h line).answer x .clean).wake env))) ∧
     s.snoopLate h line = (s.raise (Reg.HST_HOST_EVENT h) 4 (Reg.HST_HOST_EVENT_CNT1 h) 0).post (slotHost h) 0x0802 2 (h + line % 2 ^ 52 * 2 ^ 16) ∧
     (∀ x, spill = some x →
       (∀ d, data = some d → exec (.spillCompletion line data env) s = .next (s.keep ((s.answer x (.data d)).wake env))) ∧
       (data = none → exec (.spillCompletion line data env) s = .next (s.keep (((s.spillEvent owner line true).answer x .error).wake env))) ∧
       exec (.spillTimeout line env) s = .next (s.keep (((s.spillEvent owner line false).answer x .late).wake env)) ∧
       (owner < 8 → (s.spillEvent owner line true).fld (Reg.HST_HOST_EVENT owner) 3 3 = 1 ∧ (s.spillEvent owner line false).fld (Reg.HST_HOST_EVENT owner) 2 2 = 1)) ∧
     (s.admitted who → let cfg := Reg.HST_SPILL_CFG h
       ∃ t, exec (.spillEnable who h base) s = .next t ∧ t = { s.setPort who {} with regs := t.regs } ∧
         (s.fld cfg 0 0 = 0 → t.fld cfg 63 12 = base.toNat ∧
           (1 ≤ s.fld (Reg.HST_SPILL_SIZE h) 10 0 ∧ s.fld (Reg.HST_SPILL_SIZE h) 10 0 ≤ 1024 → t.fld cfg 0 0 = 1 ∧ ∀ o, o ≠ cfg → t.reg o = s.reg o) ∧
           (¬ (1 ≤ s.fld (Reg.HST_SPILL_SIZE h) 10 0 ∧ s.fld (Reg.HST_SPILL_SIZE h) 10 0 ≤ 1024) → t.fld cfg 0 0 = 0 ∧
             t.fld (Reg.HST_HOST_EVENT h) 6 6 = 1)) ∧
         (s.fld cfg 0 0 = 1 → t.fld cfg 63 12 = s.fld cfg 63 12 ∧ t.fld cfg 0 0 = 1 ∧
           (base.toNat ≠ s.fld cfg 63 12 → t.fld (Reg.HST_HOST_EVENT h) 6 6 = 1))) ∧
     (s.admitted who → ∀ v : Word32, let size := Reg.HST_SPILL_SIZE h
       (s.fld (Reg.HST_SPILL_CFG h) 0 0 = 1 → exec (.registerWrite who size (.w32 v) env) s = .next ((s.setPort who {}).hostReject h)) ∧
       (s.fld (Reg.HST_SPILL_CFG h) 0 0 = 0 → exec (.registerWrite who size (.w32 v) env) s =
         .next ((s.setPort who {}).setFld size 10 0 (v.toNat % 2 ^ 11))))) ∧
  (∀ (who : Requester) (first count : BitVec 20) (dirty : List (Nat × Nat × List Byte)) (env : Env) (s : State), s.live →
     let p := s.setPort who {}
     let f := first.toNat
     let n := count.toNat
     (s.admitted who →
       (s.biasOp.isSome = true → exec (.toDevice who first count) s = .next p.biasReject) ∧
       (s.biasOp = none → n = 0 ∨ pageCount < f + n →
         exec (.toDevice who first count) s = .next (p.setFld Reg.HST_BIAS_STATUS 63 56 1).biasReject) ∧
       (s.biasOp = none → 0 < n → f + n ≤ pageCount → ∃ t, exec (.toDevice who first count) s = .next t ∧ t.mem = s.mem ∧ t.queues = s.queues ∧
         ((∀ i < n, mget 0 s.bias (f + i) = 0) → t.biasOp = none ∧ t.fld Reg.HST_BIAS_STATUS 32 32 = 0 ∧ t.fld Reg.HST_BIAS_STATUS 63 56 = 0 ∧
           t.bias = s.bias) ∧
         (∀ i < n, mget 0 s.bias (f + i) ≠ 0 → (∀ j < i, mget 0 s.bias (f + j) = 0) → t.biasOp = some ⟨f + i, n - i, s.snoopTargets srcSiolo, [], false, s.hostHeld.any (fun x => x.addr / 0x200000 == f + i)⟩ ∧
           t.out = s.out ++ (s.snoopTargets srcSiolo).map (fun h => .recall h (f + i)) ∧
           t.bias = mset 0 s.bias (f + i) 2 ∧ t.fld Reg.HST_BIAS_STATUS 32 32 = 1 ∧ t.fld Reg.HST_BIAS_STATUS 19 0 = n - i))) ∧
     exec (.biasPageDone dirty env) s = .next (s.keep ((s.biasPageDone dirty env).wake env)) ∧
     (s.biasOp = none → s.biasPageDone dirty env = s) ∧
     (∀ b, s.biasOp = some b → s.hostHeld = [] → mget 0 (s.biasPageDone dirty env).bias b.page = (if b.accessed then 1 else 0) ∧
       (b.accessed = true → (s.biasPageDone dirty env).fld Reg.HST_GEVENT 0 0 = 1) ∧
       (dirty = [] → (s.biasPageDone dirty env).mem = s.mem) ∧
       (∀ d, dirty = [d] → let line := d.2.1 / 64 * 64
         (s.recallWaits d.1 line = true → (s.biasPageDone dirty env).mem = (s.recallAnswer d.1 line d.2.2 env).mem) ∧
         (s.recallWaits d.1 line = false → (s.biasPageDone dirty env).mem = s.mem)) ∧
       (b.left ≤ 1 → (s.biasPageDone dirty env).biasOp = none ∧ (s.biasPageDone dirty env).fld Reg.HST_BIAS_STATUS 32 32 = 0 ∧
         (s.biasPageDone dirty env).fld Reg.HST_BIAS_STATUS 63 56 = if b.lost || b.accessed then 2 else 0)))

/-! ## Mailboxes and what their servers answer (13_hosts_and_mailboxes.md, 14_siolo_cairn_log.md, 15_signed_images_identity.md) -/

/-- Messages (R411, R413). A write of DATA while the direction is empty stores the word; POST sets FULL and raises the interrupt a
host's up direction asks for; a DATA write or a POST while FULL reads 1 is ignored and sets OVERRUN. A read of TAKE returns FULL
and clears it; the server then holds the request it has taken behind those it has not yet answered. Where the queue of the control
core behind a mailbox is full a TAKE reads 0 and the message stays (the model's choice, notes/assumptions/105.md). -/
def Obligations.MailboxMessages : Prop :=
  ∀ (who : Requester) (m i : Nat) (up : Bool) (v : Word32) (env : Env) (s : State), s.admitted who → m < 32 → i < 16 →
    let p := s.setPort who {}
    let flag := if up then 3 else 2
    (s.mbxFull m up = false →
      exec (.mbxPost who m up) s = .next (if up ∧ m < 16 ∧ s.fld (Reg.MBX_CFG m) 11 11 = 1
        then (p.mbxSetFull m up true).sendMsix (m % 8) (s.fld (Reg.MBX_CFG m) 10 0) else p.mbxSetFull m up true) ∧
      ∃ t, exec (.registerWrite who (mbxData m up i) (.w32 v) env) s = .next t ∧ t = { p with regs := t.regs } ∧
        t.fld (mbxData m up i) 31 0 = v.toNat ∧ ∀ o, o ≠ mbxData m up i → t.reg o = s.reg o) ∧
    (s.mbxFull m up = true →
      exec (.mbxPost who m up) s = .next (p.mbxOverrun m up) ∧
      exec (.registerWrite who (mbxData m up i) (.w32 v) env) s = .next (p.mbxOverrun m up) ∧
      (p.mbxOverrun m up).fld (Reg.MBX_EVENT m) flag flag = 1 ∧ (p.mbxOverrun m up).mbxWords m false = s.mbxWords m false ∧
      (p.mbxOverrun m up).mbxFull m up = true) ∧
    (p.mbxSetFull m up true).mbxFull m up = true ∧ (∀ d, (p.mbxSetFull m up true).mbxWords m d = s.mbxWords m d) ∧
    (up = false → s.mbxFull m false = true → s.mbxNoRoom m = true →
      exec (.mbxTake who m up) s = .next ((s.endLatch who).emit (.regRead who (Reg.MBX_DN_TAKE m) 0))) ∧
    (up = true ∨ s.mbxFull m false = false ∨ s.mbxNoRoom m = false → ∃ t, exec (.mbxTake who m up) s = .next t ∧ t.mbxFull m up = false ∧ t.mbxFull m (!up) = s.mbxFull m (!up) ∧
      t.out = s.out ++ [.regRead who (if up then Reg.MBX_UP_TAKE m else Reg.MBX_DN_TAKE m) (if s.mbxFull m up then 1 else 0)] ∧
      (∀ o, o ≠ Reg.MBX_STATUS m → t.reg o = s.reg o) ∧
      (up = false → s.mbxFull m false = true → (mget {} t.mbx m).taken = (mget {} s.mbx m).taken ++ [s.mbxWords m false]) ∧
      (up = true ∨ s.mbxFull m false = false → t.mbx = s.mbx))

/-- Messages that are not taken (R412). A message still there when its TIMEOUT_MS have passed sets the TIMEOUT flag of its
direction and posts EV_MBX_TIMEOUT, and stays in place; TIMEOUT_MS is 10 after reset. WITHDRAW clears FULL; if a TAKE reaches the
mailbox in the same cycle, the TAKE wins: its reader gets the message, and the withdraw is ignored and sets WITHDRAW_LOST. A TAKE
that a full control core turns away (the model's choice, notes/assumptions/105.md) wins nothing. -/
def Obligations.MailboxTimeoutsAndWithdrawals : Prop :=
  ∀ (who taker : Requester) (m : Nat) (up : Bool) (s : State), s.admitted who → m < 32 →
    let p := s.setPort who {}
    let bit := if up then 1 else 0
    State.reset.fld (Reg.MBX_CFG m) 31 16 = 10 ∧
    (s.mbxFull m up = true → ∃ t, exec (.mbxTimeout m up) s = .next t ∧
      t = (s.raise (Reg.MBX_EVENT m) bit (Reg.MBX_EVENT_CNT0 m) (16 * bit)).post slotMailboxes 0x0806 1 (m + 32 * bit) ∧
      t.fld (Reg.MBX_EVENT m) bit bit = 1 ∧ t.mbxFull m up = true ∧ ∀ d, t.mbxWords m d = s.mbxWords m d) ∧
    (∃ t, exec (.mbxWithdraw who m up none) s = .next t ∧ t.mbxFull m up = false ∧ t = { p with regs := t.regs } ∧
      ∀ o, o ≠ Reg.MBX_STATUS m → t.reg o = s.reg o) ∧
    (s.mbxTakes m up = true → ∃ t, exec (.mbxWithdraw who m up (some taker)) s = .next t ∧
      t = (p.mbxTake taker m up).raise (Reg.MBX_EVENT m) 4 (Reg.MBX_EVENT_CNT1 m) 0 ∧ t.fld (Reg.MBX_EVENT m) 4 4 = 1 ∧
      t.out = s.out ++ [.regRead taker (if up then Reg.MBX_UP_TAKE m else Reg.MBX_DN_TAKE m) 1] ∧ t.mbxFull m up = false ∧
      (up = false → (mget {} t.mbx m).taken = (mget {} s.mbx m).taken ++ [s.mbxWords m false])) ∧
    (s.mbxTakes m up = (s.mbxFull m up && (up || !s.mbxNoRoom m))) ∧ (up = true ∨ m < 8 ∨ 16 ≤ m → s.mbxTakes m up = s.mbxFull m up)

/-- What servers answer (R20, R414, R415, R442, R454, R456, R463). A request of a command that its server takes up is answered:
PING with its word, GET_CAP with the capability block, GET_FW with the server's firmware, readings, load, alarms, security state
and measurements with theirs; ACK_ALARM acknowledges, MEAS_EXTEND extends a register from 4 to 7, SVN_COMMIT raises the
anti-rollback count to a number none of the images falls below, fuse by fuse, so that a loss of power leaves it between. ALLOC
gives an object of its tier apart from every other, at an address the spec leaves open (a free value), or fails with ADDR_RANGE,
which it does not where the tier's first bytes are free; FREE takes the object out of the tables; the tables' form is the model's
choice (notes/assumptions/78.md), and that GET_SEC answers while the flash is busy too (notes/assumptions/73.md). -/
def Obligations.ServersAnswer : Prop :=
  ∀ (ch : Chan) (hint : Nat) (ws : List Nat) (s t : State),
    let h := ws.getD 0 0
    let len := word2 (ws.drop 1) 0
    let a (i : Nat) := ws.getD (i + 1) 0
    (s.asked ch 0x01 1 ws t → exec (.ping ch hint) s = .next (s.keep (t.reply ch h 0 [a 0]))) ∧
    (s.asked ch 0x02 0 ws t → exec (.getCap ch hint) s = .next (s.keep (t.reply ch h 0
      ([Reg.SYS_CAP_ID, Reg.SYS_CAP_FMT, Reg.SYS_CAP_SIZE, Reg.SYS_CAP_MEM].flatMap (fun r => words64 (t.reg r).toNat))))) ∧
    (s.asked ch 0x03 0 ws t → ∀ w : Firmware, (∀ m, ch = .mbx m → 8 ≤ m → m < 16 → w = t.ccFw) →
      ((∀ m, ch = .mbx m → m < 8 ∨ 16 ≤ m) → w = if t.inRecovery then {} else t.sioFw) →
      exec (.getFw ch hint) s = .next (s.keep (t.reply ch h 0 ([w.secVer] ++ words64 w.seq ++ [w.tag % 2 ^ 32])))) ∧
    (s.asked ch 0x60 1 ws t → let kind := bits (a 0) 7 0
      let n := bits (a 0) 15 8
      let first := bits (a 0) 31 16
      (kind < 4 → 1 ≤ n → n ≤ 15 → first + n ≤ sensorCount kind → exec (.getSensors ch hint) s =
        .next (s.keep (t.reply ch h 0 ((List.range n).map (fun i => t.readingWord kind (first + i)))))) ∧
      (4 ≤ kind ∨ n = 0 ∨ 15 < n ∨ sensorCount kind < first + n → exec (.getSensors ch hint) s = .next (s.keep (t.reply ch h 3 [1])))) ∧
    (s.asked ch 0x61 0 ws t → exec (.getLoad ch hint) s =
      .next (s.keep (t.reply ch h 0 [(t.reg Reg.SIO_LOAD).toNat, (t.reg Reg.SIO_STATUS).toNat]))) ∧
    (s.asked ch 0x62 1 ws t → (a 0 < 64 → exec (.getAlarm ch hint) s = .next (s.keep (t.reply ch h 0
        (wordsOf (alarmBytes (mget none t.log.alarms (a 0))) ++ words64 (alarmState (mget none t.log.alarms (a 0))))))) ∧
      (64 ≤ a 0 → exec (.getAlarm ch hint) s = .next (s.keep (t.reply ch h 3 [1])))) ∧
    (s.asked ch 0x63 1 ws t → (a 0 < 64 → exec (.ackAlarm ch hint) s = .next (s.keep ((t.ackAlarm (a 0)).reply ch h 0 []))) ∧
      (a 0 = 256 → exec (.ackAlarm ch hint) s = .next (s.keep (t.ackAll.reply ch h 0 [])))) ∧
    (s.asked ch 0xA0 0 ws t → exec (.getSec ch hint) s = .next (s.keep (t.reply ch h 0 [t.fuses.svn, t.fld Reg.SEC_STATUS 15 8,
      (if t.loaded then t.loader.secVer else 0), t.idLeft, t.secStatus.toNat]))) ∧
    (s.asked ch 0xA4 1 ws t → a 0 < 8 →
      exec (.getMeas ch hint) s = .next (s.keep (t.reply ch h 0 (wordsOf (t.meas (a 0)) ++ [(t.reg (Reg.SEC_MEAS_CNT (a 0))).toNat])))) ∧
    (s.asked ch 0xA5 9 ws t → (4 ≤ a 0 → a 0 < 8 → exec (.measExtend ch hint) s = 
        .next (s.keep ((t.extend (a 0) (wordBytes (ws.drop 2))).reply ch h 0 []))) ∧
      (a 0 < 4 ∨ 8 ≤ a 0 → exec (.measExtend ch hint) s = .next (s.keep (t.reply ch h 3 [1])))) ∧
    (s.asked ch 0xA8 1 ws t → t.flashBusy = false → let ok := t.fuses.svn ≤ a 0 ∧ a 0 ≤ 64 ∧ ∀ x ∈ t.svnLimits, a 0 ≤ x
      (ok → ∃ u, exec (.svnCommit ch hint none) s = .next u ∧ u.fuses = { t.fuses with svn := a 0 } ∧ u.flash = t.flash ∧ u.mem = t.mem) ∧
      (ok → ∀ n, exec (.svnCommit ch hint (some n)) s =
        .next { t with fuses := { t.fuses with svn := t.fuses.svn + min n (a 0 - t.fuses.svn) }, pending := s.pending }) ∧
      (¬ ok → ∀ cut, exec (.svnCommit ch hint cut) s = .next { t.reply ch h 4 [0x22] with pending := s.pending })) ∧
    (s.asked ch 0x21 4 ws t → let r := t.tierRange (a 2) (a 3)
      a 2 < 4 → (a 2 = 0 → a 3 < 128) → (a 2 = 3 → a 3 < 8) →
      let v : State := { t with free := t.free + 1 }
      let given := ∃ x, r.1 ≤ x ∧ x + len ≤ r.1 + r.2 ∧ (∀ o ∈ tableRange :: t.objects, x + len ≤ o.1 ∨ o.1 + o.2 ≤ x) ∧
        exec (.alloc ch hint) s = .next (s.keep ({ v.writeTables with objects := t.objects ++ [(x, len)] }.reply ch h 0 (words64 x)))
      (len ≤ r.2 → (∀ o ∈ tableRange :: t.objects, r.1 + len ≤ o.1 ∨ o.1 + o.2 ≤ r.1) → given) ∧
      (given ∨ exec (.alloc ch hint) s = .next (s.keep (v.reply ch h 4 [stAddrRange])))) ∧
    (s.asked ch 0x22 2 ws t → ((∃ o ∈ t.objects, o.1 = len) → exec (.free ch hint) s =
        .next (s.keep ({ t.writeTables with objects := t.objects.filter (fun o => o.1 != len) }.reply ch h 0 []))) ∧
      ((∀ o ∈ t.objects, o.1 ≠ len) → exec (.free ch hint) s = .next (s.keep (t.reply ch h 3 [1])))) ∧
    (∀ b, Memory.wf t.mem → (b < tableRange.1 ∨ tableRange.1 + tableRange.2 ≤ b) → t.writeTables.mem.byte b = t.mem.byte b)

/-- How requests are answered and turned away (R20, R411, R414, R427, R428). A reply in a mailbox puts the header and the words
into its up direction, sets FULL and ends the request. A code the server does not serve gets UNKNOWN; a wrong length, a reserved
bit or a STATUS that is not 0 gets BAD_ARG 0; a deferred request at an overloaded Siolo gets BUSY with a hint from 1,000 to
100,000 µs, unless it is urgent, and so does a GET_CAP at a control core that is busy with walker misses; while the server cannot
take another request up nothing happens. The order of these checks and the index 0 are the model's choice
(notes/assumptions/46.md). That a command which does not apply changes nothing is the model's choice (notes/assumptions/1.md). -/
def Obligations.RepliesAndRefusals : Prop :=
  ∀ (ch : Chan) (hint m hdr st : Nat) (words ws : List Nat) (s t : State), s.live → chanOk ch = true →
    let h := ws.getD 0 0
    (m < 32 → words.length < 16 → s.mbxFull m true = false → let u := s.reply (.mbx m) hdr st words
      u.mbxFull m true = true ∧ u.mbx = s.mbx ∧ u.mem = s.mem ∧ u.queues = s.queues ∧
      (u.reg (Reg.MBX_UP_DATA m 0)).toNat = replyHead hdr st words.length % 2 ^ 32 ∧
      ∀ i w, words[i]? = some w → (u.reg (Reg.MBX_UP_DATA m (i + 1))).toNat = w % 2 ^ 32) ∧
    (s.chanReady ch = false ∨ s.request ch = none → exec (.ping ch hint) s = .next s) ∧
    (s.chanReady ch = true → s.request ch = some (ws, t) →
      (s.servesOn ch (hdrCmd h) = false → exec (.ping ch hint) s = .next (s.keep (t.reply ch h 2 []))) ∧
      (s.servesOn ch 1 = true → hdrCmd h = 1 → let bad := bits h 10 8 ≠ 0 ∨ bits h 7 0 ≠ 0 ∨ hdrLen h ≠ 1
        (s.overloaded ch = true → hdrUrgent h = false →
          ∃ n, 1000 ≤ n ∧ n ≤ 100000 ∧ exec (.ping ch hint) s = .next (s.keep (t.reply ch h 1 [n]))) ∧
        (s.overloaded ch = false ∨ hdrUrgent h = true → (bad → exec (.ping ch hint) s = .next (s.keep (t.reply ch h 3 [0]))) ∧
          (¬ bad → exec (.ping ch hint) s = .next (s.keep (t.reply ch h 0 [ws.getD 1 0])))))) ∧
    (s.chanOpen ch = true → s.chanBusy ch = true → s.request ch = some (ws, t) → hdrCmd h = 2 →
      ∃ n, 1000 ≤ n ∧ n ≤ 100000 ∧ exec (.getCap ch hint) s = .next (s.keep (t.reply ch h 1 [n])))

/-- ATTEST, GET_ID_KEY and SUBMIT (R415, R459, R461–R464). A quote takes the next signature index of the reserved block and never
the same one again, and is followed by its signature; where the block is used up the next is reserved first, and ATTEST fails with
FLASH_ERR where its record does not become current; with no index left it fails, and the quote of the last one sets ID_EXHAUSTED.
GET_ID_KEY sends the identity key, while the flash is busy too (the model's choice, notes/assumptions/73.md). SUBMIT copies 1 to
16 records into the ring and writes the doorbell, or fails with the status of a read or write that fails and writes none; a queue
or a count out of range is BAD_ARG, a ring without room BUSY. -/
def Obligations.QuotesKeysAndSubmissions : Prop :=
  ∀ (ch : Chan) (hint : Nat) (err : Bool) (ws : List Nat) (env : Env) (s t : State),
    let h := ws.getD 0 0
    let tok := Tok.chan (chanNum ch)
    let w := { t with env := env, token := tok, needs := [] }
    let ans (v : State) : Host.Outcome State Fault Refusal := .next (s.keep (s.settle tok env (fun _ => v)))
    (s.asked ch 0xA6 (blobWords ch 8) ws t → blobOk ch (word2 (ws.drop 1) 8) 5464 = true → let q := t.fld Reg.SEC_ID 20 0
      (q < t.fld Reg.SEC_ID 52 32 → q + 1 < 2 ^ 20 → let v := w.setFld Reg.SEC_ID 20 0 (q + 1)
        let body := v.quote q (wordBytes ((ws.drop 1).take 8))
        exec (.attest ch hint env err) s = ans (v.sendBlob ch h (word2 (ws.drop 1) 8) (body ++ toLe 4 5076 ++ idSignature t.fuses q body) [5464, v.idLeft]) ∧
        v.fld Reg.SEC_ID 20 0 = q + 1) ∧
      (q < t.fld Reg.SEC_ID 52 32 → q + 1 = 2 ^ 20 → let v := (w.setFld Reg.SEC_ID 20 0 (q + 1)).setFld Reg.SEC_STATUS 3 3 1
        let body := v.quote q (wordBytes ((ws.drop 1).take 8))
        exec (.attest ch hint env err) s = ans (v.sendBlob ch h (word2 (ws.drop 1) 8) (body ++ toLe 4 5076 ++ idSignature t.fuses q body) [5464, v.idLeft])) ∧
      (t.fld Reg.SEC_ID 52 32 ≤ q → 2 ^ 20 ≤ t.idCurrent.2.1 →
        exec (.attest ch hint env err) s = ans ((w.setFld Reg.SEC_STATUS 3 3 1).reply ch h 4 [0x21])) ∧
      (t.fld Reg.SEC_ID 52 32 ≤ q → t.idCurrent.2.1 < 2 ^ 20 → t.flashBusy = false → ∀ u done, w.idReserve err = (u, done) →
        exec (.attest ch hint env err) s = ans (if done then u.sendQuote ch h (word2 (ws.drop 1) 8) (wordBytes ((ws.drop 1).take 8))
          else u.reply ch h 4 [0x20]))) ∧
    (s.asked ch 0xA7 (blobWords ch 0) ws t → blobOk ch (word2 (ws.drop 1) 0) 128 = true → exec (.getIdKey ch hint env) s =
      ans (w.sendBlob ch h (word2 (ws.drop 1) 0) (toLe 16 t.fuses.serial ++ idPublicKey t.fuses ++ toLe 52 0) [t.idLeft])) ∧
    (∀ c, ch = .mbx (8 + c) → s.asked ch 0x20 4 ws t → let q := ws.getD 1 0
      let n := ws.getD 2 0
      let src := word2 (ws.drop 1) 2
      (2048 ≤ q → exec (.submit ch hint env) s = ans (w.reply ch h 3 [1])) ∧
      (q < 2048 → n = 0 ∨ 16 < n → exec (.submit ch hint env) s = ans (w.reply ch h 3 [2])) ∧
      (q < 2048 → 1 ≤ n → n ≤ 16 →
        let room := ((t.queue q).tail + t.sqSize q - (t.queue q).head) % t.sqSize q + n < t.sqSize q
        (∀ b, t.rangeBad src (64 * n) = some b → exec (.submit ch hint env) s = ans ((w.rangeErr (srcCC c) b).reply ch h 4 [6])) ∧
        (t.rangeBad src (64 * n) = none → ¬ room → ∃ k, 1000 ≤ k ∧ k ≤ 100000 ∧ exec (.submit ch hint env) s = ans (w.reply ch h 1 [k])) ∧
        (t.rangeBad src (64 * n) = none → room → let u := w.readMem (srcCC c) src (64 * n)
          let v := u.1.submitWrite (srcCC c) q n u.2.bytes
          (∀ st b, u.2.err = some (st, b) → exec (.submit ch hint env) s = ans (u.1.reply ch h 4 [st])) ∧
          (u.2.err = none → (∀ st, v.2 = some st → exec (.submit ch hint env) s = ans (v.1.reply ch h 4 [st])) ∧
            (v.2 = none → exec (.submit ch hint env) s = ans ((v.1.submitBell q n u.2.bytes).reply ch h 0 []))))))

/-! ## The update path, boot and recovery (15_signed_images_identity.md) -/

/-- Flash operations (R450, R451, R465–R467). FW_UPDATE and RTE_STORE begin a write of flash only once their source has passed the
checks before any erase, read and checked in the order header, trailer, body, and FLASH_READ a read of a readable range; while
flash is busy FW_UPDATE gets BUSY. Each flash operation erases a sector, programs it, or at the end reads the whole back; a flash
error ends the update with FAILED 0x20, a source that cannot be read with IMG_READ. A PLDM update holds the flash from its request
on, gathers its data and, when they pass, writes the bundle, or copy B and then copy A; what its replies say is another standard's
(notes/assumptions/68.md). That FW_UPDATE fails with IMG_LENGTH where IMG_LEN is not the length asked for is the model's choice
(notes/assumptions/72.md). That a command which does not apply changes nothing is the model's choice (notes/assumptions/1.md). -/
def Obligations.FlashOperations : Prop :=
  ∀ (ch : Chan) (hint comp : Nat) (ws : List Nat) (via : Via) (b : List Byte) (err : Bool) (env : Env) (s t : State),
    let h := ws.getD 0 0
    let tok := Tok.chan (chanNum ch)
    let w := { t with env := env, token := tok, needs := [] }
    let ans (v : State) : Host.Outcome State Fault Refusal := .next (s.keep (s.settle tok env (fun _ => v)))
    let src := word2 (ws.drop 1) 0
    let len := ws.getD 3 0
    let u := w.readMem srcSecurity src 0x100
    (s.asked ch 0xA1 3 ws t →
      (t.flashBusy = true → ∃ n, 1000 ≤ n ∧ n ≤ 100000 ∧ exec (.fwUpdate ch hint env) s = ans (w.reply ch h 1 [n])) ∧
      (t.flashBusy = false → inStacked src (max len 0x100) = false → exec (.fwUpdate ch hint env) s = ans (w.reply ch h 4 [imRange])) ∧
      (t.flashBusy = false → inStacked src (max len 0x100) = true → let v := u.1.readMem srcSecurity (src + (len - 0x1000)) 0x1000
        (u.2.err ≠ none → exec (.fwUpdate ch hint env) s = ans (u.1.reply ch h 4 [imRead])) ∧
        (u.2.err = none → (∀ c, bundleHead u.2.bytes = some c → exec (.fwUpdate ch hint env) s = ans (u.1.reply ch h 4 [c])) ∧
          (bundleHead u.2.bytes = none → imgLen u.2.bytes ≠ len → exec (.fwUpdate ch hint env) s = ans (u.1.reply ch h 4 [imLength]))) ∧
        (u.2.err = none → bundleHead u.2.bytes = none → imgLen u.2.bytes = len → v.2.err = none →
          (signatureFail v.1.fuses.root u.2.bytes v.2.bytes = none → v.1.fuses.svn ≤ imgSecVer u.2.bytes → exec (.fwUpdate ch hint env) s =
            ans { v.1 with flashOp := some { job := .bundle, who := chanWho ch h, src, len, base := fwSlot } }) ∧
          (signatureFail v.1.fuses.root u.2.bytes v.2.bytes ≠ none → exec (.fwUpdate ch hint env) s = ans (v.1.reply ch h 4 [imSignature])) ∧
          (signatureFail v.1.fuses.root u.2.bytes v.2.bytes = none → imgSecVer u.2.bytes < v.1.fuses.svn →
            exec (.fwUpdate ch hint env) s = ans (v.1.reply ch h 4 [imRollback]))))) ∧
    (s.asked ch 0xA2 4 ws t → ws.getD 4 0 < 2 → t.flashBusy = false → inStacked src (max len 0x100) = true →
      let n := imgLen u.2.bytes
      let v := u.1.readMem srcSecurity (src + (n - 0x1000)) 0x1000
      let x := v.1.readMem srcSecurity (src + 0x100) (n - 0x1100)
      let img := u.2.bytes ++ x.2.bytes ++ v.2.bytes
      let copyB := ws.getD 4 0 == 1
      (u.2.err ≠ none → exec (.rteStore ch hint env) s = ans (u.1.reply ch h 4 [imRead])) ∧
      (u.2.err = none → (∀ f, headChecks 0x45545254 0x1800000 u.2.bytes = some f → exec (.rteStore ch hint env) s = ans (u.1.reply ch h 4 [f.code])) ∧
        (headChecks 0x45545254 0x1800000 u.2.bytes = none → len < n → exec (.rteStore ch hint env) s = ans (u.1.reply ch h 4 [imLength])) ∧
        (headChecks 0x45545254 0x1800000 u.2.bytes = none → n ≤ len → v.2.err = none →
          (∀ f, signatureFail v.1.fuses.root u.2.bytes v.2.bytes = some f → exec (.rteStore ch hint env) s = ans (v.1.reply ch h 4 [f.code])) ∧
          (signatureFail v.1.fuses.root u.2.bytes v.2.bytes = none → x.2.err = none →
            (∀ c, routeBodyFail x.1.fuses img = some c → exec (.rteStore ch hint env) s = ans (x.1.reply ch h 4 [c])) ∧
            (routeBodyFail x.1.fuses img = none → exec (.rteStore ch hint env) s = ans
              { x.1 with flashOp := some { job := .copy copyB, who := chanWho ch h, src, len := n, base := flashCopy copyB } }))))) ∧
    (s.asked ch 0xA3 4 ws t → let off := ws.getD 1 0
      let n := ws.getD 2 0
      let dst := word2 (ws.drop 1) 2
      off % 32 = 0 → n % 32 = 0 → (fwSlot ≤ off ∧ off + n ≤ 0x600000) ∨ (0x4000000 ≤ off ∧ off + n ≤ 0x8000000) → inStacked dst n = true →
      t.flashBusy = false → 0 < n → exec (.flashRead ch hint) s =
        .next (s.keep { t with flashOp := some { job := .read dst, who := chanWho ch h, src := 0, len := n, base := off } })) ∧
    (s.live → s.oppBusy = true ∨ s.flashOp = none → exec (.flashOpDone err env) s = .next s) ∧
    (∀ op, s.live → s.oppBusy = false → s.flashOp = some op → (∀ m k, op.who = some (m, k) → s.mbxFull m true = false) →
      let upd (v : State) : Host.Outcome State Fault Refusal := .next (s.keep (s.settle .flash env (fun _ => v)))
      let z := { s with env := env, token := .flash, needs := [] }
      let n := min 0x10000 (op.len - op.pos)
      (∀ dst, op.job = .read dst →
        let y := (z.writeMem srcSecurity (dst + op.pos) (s.flashBytes (op.base + op.pos) n)).1
        (err = false → op.pos + n < op.len → exec (.flashOpDone err env) s = upd { y with flashOp := some { op with pos := op.pos + n } }) ∧
        (∀ m k, op.who = some (m, k) →
          (err = true → exec (.flashOpDone err env) s = upd (({ z with flashOp := none } : State).reply (.mbx m) k 4 [0x20])) ∧
          (err = false → op.len ≤ op.pos + n → exec (.flashOpDone err env) s =
            upd (({ y with flashOp := none } : State).reply (.mbx m) k 0 [])))) ∧
      (op.job = .bundle ∨ (∃ c, op.job = .copy c) →
        (err = true → exec (.flashOpDone err env) s =
          upd ((if op.pos < op.len then z.flashSpoil (op.base + op.pos) 0x10000 else z).updateEnd op (some 0x20))) ∧
        (err = false → op.len ≤ op.pos → exec (.flashOpDone err env) s = upd (z.updateEnd op (s.readBackFail op))) ∧
        (err = false → op.pos < op.len → op.erased = false → exec (.flashOpDone err env) s =
          upd { (z.eraseSector (op.base + op.pos)) with flashOp := some { op with erased := true } }) ∧
        (err = false → op.pos < op.len → op.erased = true → op.data ≠ [] → exec (.flashOpDone err env) s =
          upd { (z.program (op.base + op.pos) (slice op.data op.pos n)) with flashOp := some { op with pos := op.pos + n, erased := false } }) ∧
        (err = false → op.pos < op.len → op.erased = true → op.data = [] → let y := z.readMem srcSecurity (op.src + op.pos) n
          (y.2.err = none → exec (.flashOpDone err env) s =
            upd { (y.1.program (op.base + op.pos) y.2.bytes) with flashOp := some { op with pos := op.pos + n, erased := false } }) ∧
          (y.2.err ≠ none → exec (.flashOpDone err env) s = upd (y.1.updateEnd op (some imRead)))))) ∧
    (s.live → viaOk via = true → s.oppBusy = false → s.sioRun = true → s.viaUp via = true →
      let pldm := fun step => exec (.pldmFirmwareUpdate via step) s
      (s.fld Reg.SIO_STATUS 1 1 = 1 → ∀ step, pldm step = .next (s.freeReply via)) ∧
      (s.fld Reg.SIO_STATUS 1 1 = 0 →
        (comp = 1 ∨ comp = 2 → s.flashBusy = false → pldm (.request comp) = .next (({ s with
          flashOp := some { job := .transfer comp, who := none, via, src := 0, len := 0, base := 0 } } : State).freeReply via)) ∧
        (s.flashBusy = true → pldm (.request comp) = .next (s.freeReply via)) ∧
        (∀ op, s.flashOp = some op → op.job = .transfer comp →
          let sig := signatureFail s.fuses.root (op.data.take 0x100) (op.data.drop (imgLen op.data - 0x1000))
          pldm (.data b) = .next (({ s with flashOp := some { op with data := op.data ++ b } } : State).freeReply via) ∧
          pldm .cancel = .next (({ s with flashOp := none } : State).freeReply via) ∧
          (comp = 1 → bundleHead op.data = none → imgLen op.data = op.data.length → sig = none → s.fuses.svn ≤ imgSecVer op.data →
            pldm .complete = .next { s with flashOp := some { op with job := .bundle, len := imgLen op.data, base := fwSlot, then_ := false } }) ∧
          (comp = 2 → routeFail s.fuses op.data = none → pldm .complete = .next
            { s with flashOp := some { op with job := .copy true, len := imgLen op.data, base := flashCopy true, then_ := true } }) ∧
          (comp = 2 → routeFail s.fuses op.data ≠ none → pldm .complete = .next (({ s with flashOp := none } : State).freeReply op.via)))))

/-- Boot and recovery (R451–R453, R464, R468, R469). The boot ROM measures the fuses, checks the bundle's header and signature,
writes its sections into the private memories and then checks its body; a slot that fails starts the recovery loader, one that
passes starts the firmware and the boot load; after a Siolo reset the slot is checked again and the measurements stay. One channel
at a time holds a recovery session: RCV_BEGIN opens it, RCV_DATA programs its data in order (or answers FLASH_ERR), each gets BUSY
while the flash is busy, RCV_END checks and boots the slot, and a session without a message closes. That recovery clears FW_OK is
the model's choice (notes/assumptions/75.md). That a command which does not apply changes nothing is the model's choice
(notes/assumptions/1.md). -/
def Obligations.BootAndRecovery : Prop :=
  ∀ (ch : Chan) (hint n : Nat) (err : Bool) (bad : Option Nat) (ws : List Nat) (s t : State),
    let h := ws.getD 0 0
    let m := s.clearMeas.extend 0 (sha256 (fuseString s.fuses))
    (s.live →
      (s.oppBusy = false → s.boot = .header false → (∀ c, m.slotHead bad = some c → exec (.bootHeaderRead bad) s = .next (m.recover false c)) ∧
        (m.slotHead bad = none → exec (.bootHeaderRead bad) s = .next { m with boot := .body false })) ∧
      (s.oppBusy = false → s.boot = .body false → let v := s.loadSections false bad
        (∀ c, v.slotBody bad false = some c → exec (.bootBodyRead bad) s = .next (v.recover false c)) ∧
        (v.slotBody bad false = none → exec (.bootBodyRead bad) s = .next (s.keep (v.firmwareStart false)))) ∧
      (s.oppBusy = false → s.boot = .header true → let v := s.loadSections true bad
        (∀ c, s.slotHead bad = some c → exec (.sioloReloadDone bad) s = .next (s.recover true c)) ∧
        (s.slotHead bad = none → (∀ c, v.slotBody bad false = some c → exec (.sioloReloadDone bad) s = .next (v.recover true c)) ∧
          (v.slotBody bad false = none → exec (.sioloReloadDone bad) s = .next (s.keep (v.firmwareStart true))))) ∧
      (s.oppBusy = true → exec (.bootHeaderRead bad) s = .next s ∧ exec (.bootBodyRead bad) s = .next s ∧ exec (.sioloReloadDone bad) s = .next s) ∧
      (∀ again, s.loadSections again bad = { s with priv := (s.loadSections again bad).priv }) ∧
      (s.boot = .run → exec (.bootHeaderRead bad) s = .next s ∧ exec (.bootBodyRead bad) s = .next s ∧ exec (.sioloReloadDone bad) s = .next s) ∧
      (∀ again c, (s.recover again c).inRecovery = true ∧ (s.recover again c).fld Reg.SEC_STATUS 0 0 = 0 ∧ (s.recover again c).session = none) ∧
      (let u := s.firmwareStart true;
        u.boot = .run ∧ u.sioRun = true ∧ u.fld Reg.SEC_STATUS 1 0 = 1 ∧ u.ccFw = s.ccFw ∧ u.loader = s.loader ∧ u.meas 0 = s.meas 0 ∧
        (u.reg Reg.SEC_FW_SEQ).toNat = imgSeq (s.flashBytes fwSlot 0x100)) ∧
      exec .sessionTimeout s = .next { s with session := none }) ∧
    (s.asked ch 0xB0 1 ws t →
      (t.otherSession ch = true → exec (.rcvBegin ch hint) s = .next (s.keep (t.reply ch h 1 [100000]))) ∧
      (t.otherSession ch = false → t.flashBusy = true → ∃ k, 1000 ≤ k ∧ k ≤ 100000 ∧ exec (.rcvBegin ch hint) s =
        .next (s.keep (t.reply ch h 1 [k]))) ∧
      (t.otherSession ch = false → t.flashBusy = false → let len := ws.getD 1 0
        (len % 4096 = 0 → 0x2000 ≤ len → len ≤ 0x200000 → exec (.rcvBegin ch hint) s =
          .next (s.keep ({ t with session := some ⟨chanId ch, len, 0⟩ }.reply ch h 0 []))) ∧
        (len % 4096 ≠ 0 ∨ len < 0x2000 ∨ 0x200000 < len → exec (.rcvBegin ch hint) s = .next (s.keep (t.reply ch h 3 [1]))))) ∧
    (s.asked ch 0xB1 n ws t → 2 ≤ n → n ≤ 15 →
      let rcv := exec (.rcvData ch hint err) s
      (t.otherSession ch = true → rcv = .next (s.keep (t.reply ch h 1 [100000]))) ∧
      (t.otherSession ch = false → t.flashBusy = true → ∃ k, 1000 ≤ k ∧ k ≤ 100000 ∧ rcv = .next (s.keep (t.reply ch h 1 [k]))) ∧
      (t.session = none → t.flashBusy = false → rcv = .next (s.keep (t.reply ch h 4 [0x24]))) ∧
      (∀ x, t.session = some x → x.chan = chanId ch → t.flashBusy = false → let data := (ws.drop 2).take (n - 1)
        (ws.getD 1 0 ≠ x.got → rcv = .next (s.keep (t.reply ch h 3 [1]))) ∧
        (ws.getD 1 0 = x.got → x.got % 0x10000 ≠ 0 → x.got % 0x10000 + 4 * data.length ≤ 0x10000 → data ≠ [] →
          x.got + 4 * data.length ≤ x.len → rcv = .next (s.keep
            (if err then (t.flashSpoil (fwSlot + x.got) (4 * data.length)).reply ch h 4 [0x20] else
            ({ t.program (fwSlot + x.got) (wordBytes data) with session := some { x with got := x.got + 4 * data.length } } : State).reply ch h 0 []))) ∧
        (ws.getD 1 0 = 0 → x.got = 0 → data ≠ [] → 4 * data.length ≤ x.len → rcv = .next (s.keep
            (if err then ((t.eraseSector fwSlot).flashSpoil fwSlot (4 * data.length)).reply ch h 4 [0x20] else
            ({ (t.eraseSector fwSlot).program fwSlot (wordBytes data) with session := some { x with got := 4 * data.length } } : State).reply ch h 0 []))))) ∧
    (s.asked ch 0xB2 0 ws t →
      let fin := exec (.rcvEnd ch hint bad) s
      (t.session = none → t.flashBusy = false → fin = .next (s.keep (t.reply ch h 4 [0x24]))) ∧
      (t.otherSession ch = false → t.flashBusy = true → ∃ k, 1000 ≤ k ∧ k ≤ 100000 ∧ fin = .next (s.keep (t.reply ch h 1 [k]))) ∧
      (∀ x, t.session = some x → x.chan = chanId ch → t.flashBusy = false → let again := decide (t.boot = .recovery true)
        let v := t.loadSections again bad
        (∀ c, t.slotHead bad = some c → fin = .next (s.keep (({ t with session := none } : State).reply ch h 4 [c]))) ∧
        (t.slotHead bad = none → (∀ c, v.slotBody bad false = some c → fin = .next (s.keep (({ v with session := none } : State).reply ch h 4 [c]))) ∧
          (v.slotBody bad false = none → fin = .next (s.keep ((v.reply ch h 0 []).firmwareStart again))))))

/-! ## Siolo, the cairn log and the board (14_siolo_cairn_log.md) -/

/-- The hardware loops (R420–R423, R479). A sensor at or above WARN posts EV_THERM_WARN once until it has fallen 5 °C below; the
second reading in a row at or above TRIP, and THERMTRIP_N from outside, trip, drive THERMTRIP_N low and stop issue; the fourth
current in a row above a rail's limit trips without THERMTRIP_N. The damper lowers the share by 1/16 while the power is above the
cap, to 1/16 at the least, raises it after ten samples below 0.98 of it, and changes no result. A share at 1/16 above the cap for
100 ms is a CAP_MISS. That fewer than four samples are averaged as they are is the model's choice (notes/assumptions/64.md). That
a command which does not apply changes nothing is the model's choice (notes/assumptions/1.md). -/
def Obligations.HardwareLoops : Prop :=
  ∀ (i r mv da : Nat) (xs : List (Nat × Nat)) (s : State), s.live →
    let warn : Int := 16 * s.fld Reg.SIO_THERM_CFG 7 0
    let trip : Int := 16 * s.fld Reg.SIO_THERM_CFG 15 8
    let v := asInt 16 r
    let w := mget false s.loops.warned i
    exec (.thermSample xs) s = .next (s.keep (xs.foldl State.thermOne s)) ∧
    (i < 160 → let u := s.thermOne (i, r)
      mget false u.loops.warned i = (if warn ≤ v then true else if v ≤ warn - 80 then false else w) ∧
      mget false u.loops.hot i = decide (trip ≤ v) ∧ u.mem = s.mem ∧ u.queues = s.queues ∧
      (¬ (trip ≤ v ∧ mget false s.loops.hot i = true) →
        (warn ≤ v → w = false → u = ({ s with loops := u.loops } : State).post slotSiolo 0x0900 1 (i + r % 2 ^ 16 * 2 ^ 16)) ∧
        (v < warn ∨ w = true → u = { s with loops := u.loops })) ∧
      (trip ≤ v → mget false s.loops.hot i = true → u.fld Reg.SIO_STATUS 2 2 = 1 ∧ ¬ u.issuing ∧
        (s.fld Reg.SIO_STATUS 2 2 = 0 → .thermtrip true ∈ u.out))) ∧
    (s.fld Reg.SIO_STATUS 2 2 = 0 → exec .thermtripN s = .next ((((s.setFld Reg.SIO_STATUS 2 2 1).emit (.thermtrip true)).post
      slotSiolo 0x0901 3 0xFF).pmbLatch)) ∧
    (s.fld Reg.SIO_STATUS 2 2 = 1 → exec .thermtripN s = .next s) ∧
    exec (.ocSample xs) s = .next (s.keep (xs.foldl State.ocOne s)) ∧
    (i < 12 → let u := s.ocOne (i, r)
      mget 0 u.loops.streak i = (if s.ocLimitOf i < r then mget 0 s.loops.streak i + 1 else 0) ∧ u.fld Reg.SIO_STATUS 2 2 = s.fld Reg.SIO_STATUS 2 2 ∧
      (4 ≤ mget 0 u.loops.streak i → u.fld Reg.SIO_STATUS 3 3 = 1 ∧ ¬ u.issuing) ∧
      (mget 0 u.loops.streak i < 4 ∨ s.fld Reg.SIO_STATUS 3 3 = 1 → u = { s with loops := u.loops })) ∧
    (let p := (mv * da :: s.loops.power).take 4
      let cap := s.fld Reg.PWR_CAP 11 0 * 10000 * p.length
      let share (s : State) := s.fld Reg.PWR_STATUS 4 0
      ∃ t, exec (.damperSample mv da) s = .next t ∧ t.loops.power = p ∧ t.mem = s.mem ∧ t.mats = s.mats ∧ t.queues = s.queues ∧
        (cap < p.sum → share t = max 1 (share s - 1)) ∧
        (98 * cap ≤ p.sum * 100 → p.sum ≤ cap → share t = share s) ∧
        (p.sum * 100 < 98 * cap → s.loops.below + 1 = 10 → share t = min 16 (share s + 1)) ∧
        (p.sum * 100 < 98 * cap → s.loops.below + 1 < 10 → share t = share s ∧ t.loops.below = s.loops.below + 1)) ∧
    (s.fld Reg.PWR_STATUS 4 0 = 1 → s.aboveCap = true → exec .capMiss s = .next ((s.raise Reg.PWR_EVENT 1 Reg.PWR_EVENT_CNT 16).post slotClock
      0x0B02 2 (s.fld Reg.PWR_STATUS 31 16 + s.fld Reg.PWR_CAP 11 0 * 2 ^ 16))) ∧
    (s.fld Reg.PWR_STATUS 4 0 ≠ 1 ∨ s.aboveCap = false → exec .capMiss s = .next s)

/-- Siolo's firmware and its resets (R418, R424, R425, R427). A report stores the reading with the time it was taken, and a
voltage more than 5 % off posts EV_VOLT; an inlet above 40 °C or a flow below 25.0 L/min posts EV_COOLANT. A load window ends an
overload below 800, starts one at 900, and moves the stretch factor between 1 and 4. The watchdog and a lockstep mismatch reset
Siolo alone: its count rises, its firmware stops, and the image, queues, memory and loops stay. Nothing is done while Siolo is
down or held. That the window that starts an overload also doubles the stretch factor is the model's choice
(notes/assumptions/65.md). That a command which does not apply changes nothing is the model's choice (notes/assumptions/1.md). -/
def Obligations.SioloFirmware : Prop :=
  ∀ (k i v inlet outlet flow load : Nat) (xs : List (Nat × Nat × Nat)) (s : State), s.live →
    (s.oppBusy = true ∨ s.sioRun = false → exec (.sensorReport xs) s = .next s ∧ exec (.coolantCheck inlet outlet flow) s = .next s ∧
      exec (.loadWindow load) s = .next s) ∧
    (s.oppBusy = false → s.sioRun = true →
      exec (.sensorReport xs) s = .next (s.keep (xs.foldl State.reportOne s)) ∧
      (k < 3 → i < sensorCount k → let u := s.reportOne (k, i, v)
        let nom := s.railNominal (i / 4)
        u.reading? k i = some ⟨v % 2 ^ 16, s.now⟩ ∧
        (∀ k' j, k' < 4 → j < 256 → (k', j) ≠ (k, i) → u.reading? k' j = s.reading? k' j) ∧
        (k ≠ 1 ∨ (95 * nom ≤ v % 2 ^ 16 * 100 ∧ v % 2 ^ 16 * 100 ≤ 105 * nom) → u = s.setReading k i v) ∧
        (k = 1 → v % 2 ^ 16 * 100 < 95 * nom ∨ 105 * nom < v % 2 ^ 16 * 100 →
          u = (s.setReading k i v).post slotSiolo 0x0903 2 (i + v % 2 ^ 16 * 2 ^ 16))) ∧
      (let u := ((s.setReading 3 0 inlet).setReading 3 1 outlet).setReading 3 2 flow;
        (asInt 16 inlet ≤ 640 → 250 ≤ flow % 2 ^ 16 → exec (.coolantCheck inlet outlet flow) s = .next u) ∧
        (640 < asInt 16 inlet → 250 ≤ flow % 2 ^ 16 → exec (.coolantCheck inlet outlet flow) s =
          .next (u.post slotSiolo 0x0904 2 (inlet % 2 ^ 16 * 2 ^ 16))) ∧
        (asInt 16 inlet ≤ 640 → flow % 2 ^ 16 < 250 → exec (.coolantCheck inlet outlet flow) s =
          .next (u.post slotSiolo 0x0904 3 (1 + flow % 2 ^ 16 * 2 ^ 16))) ∧
        (640 < asInt 16 inlet → flow % 2 ^ 16 < 250 → exec (.coolantCheck inlet outlet flow) s =
          .next ((u.post slotSiolo 0x0904 2 (inlet % 2 ^ 16 * 2 ^ 16)).post slotSiolo 0x0904 3 (1 + flow % 2 ^ 16 * 2 ^ 16)))) ∧
      (load ≤ 1000 → let ovl (s : State) := s.fld Reg.SIO_STATUS 1 1
        let f := s.fld Reg.SIO_LOAD 18 16
        let heavy := 900 ≤ load ∨ (ovl s = 1 ∧ 800 ≤ load)
        ∃ t, exec (.loadWindow load) s = .next t ∧ t.fld Reg.SIO_LOAD 9 0 = load ∧ t.mem = s.mem ∧ t.queues = s.queues ∧
          (heavy → ovl t = 1 ∧ t.fld Reg.SIO_LOAD 18 16 = min 4 (2 * f)) ∧ (¬ heavy → ovl t = 0) ∧
          (load < 800 → t.fld Reg.SIO_LOAD 18 16 = max 1 (f / 2)) ∧ (heavy → ovl s = 0 → t.fld Reg.SIO_EVENT 1 1 = 1))) ∧
    (s.boot = .run → ∀ x ∈ [(0, Instr.watchdogExpiry), (1, .lockstepMismatch)], ∃ t, exec x.2 s = .next t ∧ t.boot = .header true ∧ t.sioRun = false ∧
      t.fld Reg.SIO_STATUS 15 8 = min 255 (s.fld Reg.SIO_STATUS 15 8 + 1) ∧ t.fld Reg.SIO_EVENT 2 2 = 1 ∧
      t.loader = s.loader ∧ t.image = s.image ∧ t.queues = s.queues ∧ t.mem = s.mem ∧ t.loops = s.loops ∧ t.streams = s.streams) ∧
    (s.boot = .off ∨ s.boot = .header true → exec .watchdogExpiry s = .next s ∧ exec .lockstepMismatch s = .next s)

/-- The cairn log (R429–R436, R440). A source posts only codes of the list, in their class; a posted record carries the counter
and goes into the intake; an ALARM goes into its own lane, into the alarm file and to the board. The writer takes the ALARM lane
first. An EVENT or ERROR that is not written is coalesced, a TRACE is dropped and counted; a record written moves HEAD, and where
one must be written into a full ring the oldest is discarded and counted, and a write of SIO_LOG_TAIL in the same cycle is lost to
the advance. Acknowledging marks one entry, or all of them. EN of SIO_LOG_BASE is set over four OPEN pages only, and once. The
rings, a full intake and the summaries (R429, R431, R433–R435). A record is 32 bytes. It is written at HEAD, in the main ring to
stacked memory at SIO_LOG_BASE.ADDR; one that must be written into a full ring discards the oldest. Where the intake is full a
TRACE is dropped and counted by its source and an EVENT or ERROR coalesced, by code and source, in 256 entries, and counted by
class past them. At the boundary every entry, the dropped TRACEs and each class's overflow are written as summaries. Setting EN
moves the early ring's records, oldest first, to the main ring from index 0; a write that would clear EN or move the ring is
ignored and sets REJECT. That a command which does not apply changes nothing is the model's choice (notes/assumptions/1.md). -/
def Obligations.CairnLog : Prop :=
  (∀ (who : Requester) (src code cls arg : Nat) (entry : BitVec 6) (addr : BitVec 31) (v : Word32) (x : LogRec) (env : Env) (s : State), s.live →
     src < 256 → cls < 4 →
     let ans (f : State → State) : Host.Outcome State Fault Refusal := .next (s.keep (s.settle .log env f))
     exec (.logPost src code cls arg) s = .next (if (codeClasses code).contains cls then s.post src code cls arg else s) ∧
     (s.reqExists who = true → let t := s.logWrite env
       exec (.logWrite env (some (who, v))) s = .next (s.keep (if t.fld Reg.SIO_LOG_TAIL 17 0 = s.fld Reg.SIO_LOG_TAIL 17 0
         then t.regWrite who Reg.SIO_LOG_TAIL (.w32 v) {} else t.setPort who {}))) ∧
     (cls < 3 → s.log.intake.length < s.intakeCap → ∃ y : LogRec, s.post src code cls arg = { s with log := { s.log with intake := s.log.intake ++ [y] } } ∧
       y.time = s.now ∧ y.code = code ∧ y.src = src ∧ y.cls = cls ∧ y.arg = arg % 2 ^ 96 ∧ y.summary = false) ∧
     (cls = 3 → ∃ n, (s.post src code cls arg).out = s.out ++ [.alarm code src] ∧
       (∀ e, alarmSlot s.log.alarms code src = some e → ∃ y : LogRec, mget none (s.post src code cls arg).log.alarms e = some ⟨y, n, false⟩ ∧
         y.code = code ∧ y.src = src ∧ y.time = s.now) ∧
       (alarmSlot s.log.alarms code src = none → (s.post src code cls arg).log.alarms = s.log.alarms)) ∧
     (s.log.lane = [] → s.log.intake = [] → exec (.logWrite env) s = .next s) ∧
     (∀ rest, s.log.lane = x :: rest → s.log.heldAlarms = [] →
       exec (.logWrite env) s = ans (fun u => ({ u with log := { u.log with lane := rest } } : State).writeRec x)) ∧
     (∀ rest, s.log.lane = [] → s.log.intake = x :: rest →
       exec (.logWrite env) s = ans (fun u => ({ u with log := { u.log with intake := rest } } : State).writeRec x)) ∧
     (x.cls = 3 → s.writeRec x = s.ringForce x) ∧
     (x.cls < 3 → let least := s.ringSize / (if x.cls = 0 then 2 else if x.cls = 1 then 4 else 32)
       s.writeRec x = if least ≤ s.ringFree then s.ringPut x else if x.cls = 0 then s.dropTrace x else s.coalesce x) ∧
     (s.mainRing = false → s.fld Reg.SIO_LOG_HEAD 17 0 < 2048 → (s.ringPut x).log.early = mset none s.log.early (s.fld Reg.SIO_LOG_HEAD 17 0) (some x) ∧
       (s.ringPut x).fld Reg.SIO_LOG_HEAD 17 0 = (s.fld Reg.SIO_LOG_HEAD 17 0 + 1) % 2048 ∧
       (s.ringFree = 0 → (s.ringForce x).fld Reg.SIO_LOG_TAIL 17 0 = (s.fld Reg.SIO_LOG_TAIL 17 0 + 1) % 2048 ∧
         (s.ringForce x).reg Reg.SIO_LOG_LOST = s.reg Reg.SIO_LOG_LOST + 1)) ∧
     (∀ e, s.log.sums = [e] → s.log.dropped = [] → s.log.overflow = [] → exec (.logSummary env) s =
       ans (fun u => ({ u with log := { u.log with sums := [], dropped := [], overflow := [] } } : State).ringForce (sumRec s.now e))) ∧
     (s.admitted who →
       (mget none s.log.alarms entry.toNat = none → exec (.alarmAckEntry who entry) s = .next (s.setPort who {})) ∧
       (∀ a, mget none s.log.alarms entry.toNat = some a → ∃ t, exec (.alarmAckEntry who entry) s = .next t ∧
         t.log = { s.log with alarms := mset none s.log.alarms entry.toNat (some { a with acked := true }) }) ∧
       (∃ t, exec (.alarmAckAll who) s = .next t ∧ (∀ e < 64, ∀ a, mget none t.log.alarms e = some a → a.acked = true) ∧
         t.log.intake = s.log.intake ∧ t.log.lane = s.log.lane) ∧
       (s.mainRing = false → s.earlyRecords = [] → ∃ t, exec (.logEnable who addr env) s = .next t ∧ t.mem = s.mem ∧
         let ok := addr.toNat * 0x200000 + 0x800000 ≤ stackedEnd ∧ ∀ i < 4, mget 0 s.seals (addr.toNat + i) = 0;
         (ok → t.mainRing = true ∧ t.fld Reg.SIO_LOG_BASE 51 21 = addr.toNat ∧ t.fld Reg.SIO_LOG_HEAD 17 0 = 0 ∧ t.fld Reg.SIO_LOG_TAIL 17 0 = 0) ∧
         (¬ ok → t.mainRing = false ∧ t.fld Reg.SIO_EVENT 3 3 = 1)) ∧
       (s.mainRing = true → addr.toNat ≠ s.fld Reg.SIO_LOG_BASE 51 21 → ∃ t, exec (.logEnable who addr env) s = .next t ∧ t.mainRing = true ∧
         t.fld Reg.SIO_LOG_BASE 51 21 = s.fld Reg.SIO_LOG_BASE 51 21 ∧ t.fld Reg.SIO_EVENT 3 3 = 1))) ∧
  (∀ (who : Requester) (src code cls arg : Nat) (addr : BitVec 31) (v : Word) (x : LogRec) (env : Env) (s : State), s.live → src < 256 → cls < 3 →
     let ans (tok : Tok) (f : State → State) : Host.Outcome State Fault Refusal := .next (s.keep (s.settle tok env f))
     let b := logBytes x
     let h := s.fld Reg.SIO_LOG_HEAD 17 0
     let tail := s.fld Reg.SIO_LOG_TAIL 17 0
     let cfg := Reg.SIO_LOG_BASE
     (b.length = 32 ∧ leAt b 0 8 = x.time % 2 ^ 64 ∧ leAt b 8 8 = x.step % 2 ^ 64 ∧ leAt b 16 2 = x.code % 2 ^ 16 ∧ leAt b 18 1 = x.src % 2 ^ 8 ∧
       leAt b 19 1 = 0x10 + (if x.summary then 4 else 0) + x.cls % 4 ∧ leAt b 20 12 = x.arg % 2 ^ 96) ∧
     (s.mainRing = true → s.ringPut x =
       (s.writeMem srcSiolo (s.fld cfg 51 21 * 0x200000 + 32 * h) b).1.setFld Reg.SIO_LOG_HEAD 17 0 ((h + 1) % 262144)) ∧
     (s.ringFree = 0 → s.ringForce x = ((s.setFld Reg.SIO_LOG_TAIL 17 0 ((tail + 1) % s.ringSize)).count Reg.SIO_LOG_LOST 1).ringPut x) ∧
     (s.ringFree ≠ 0 → s.ringForce x = s.ringPut x) ∧
     (s.intakeCap ≤ s.log.intake.length → ∃ y : LogRec, y.time = s.now ∧ y.code = code ∧ y.src = src ∧ y.cls = cls ∧ y.arg = arg % 2 ^ 96 ∧
       s.post src code cls arg = if cls = 0 then s.dropTrace y else s.coalesce y) ∧
     (x.src < 256 → let t := s.dropTrace x
       t.fld Reg.SIO_EVENT 0 0 = 1 ∧ t.reg (Reg.SIO_LOG_DROP x.src) = (s.count (Reg.SIO_LOG_DROP x.src) 1).reg (Reg.SIO_LOG_DROP x.src) ∧
       mget 0 t.log.dropped x.src = mget 0 s.log.dropped x.src + 1 ∧ t.log.intake = s.log.intake) ∧
     (let sums (l : List SumEnt) : State := { s with log := { s.log with sums := l } };
       (∀ l e r, s.log.sums = l ++ e :: r → e.last.code = x.code → e.last.src = x.src →
         (∀ d ∈ l, ¬ (d.last.code = x.code ∧ d.last.src = x.src)) → s.coalesce x = sums (l ++ ⟨e.count + 1, x⟩ :: r)) ∧
       ((∀ d ∈ s.log.sums, ¬ (d.last.code = x.code ∧ d.last.src = x.src)) →
         (s.log.sums.length < 256 → s.coalesce x = sums (s.log.sums ++ [⟨1, x⟩])) ∧
         (256 ≤ s.log.sums.length → s.coalesce x = { s with log := { s.log with overflow := mmod 0 s.log.overflow x.cls (· + 1) } }))) ∧
     exec (.logSummary env) s = ans .log (fun u =>
       let u0 : State := { u with log := { u.log with sums := [], dropped := [], overflow := [] } }
       let u1 := s.log.sums.foldl (fun w e => w.ringForce (sumRec w.now e)) u0
       let total := (s.log.dropped.map (·.2)).foldl (· + ·) 0
       let top := topDrop s.log.dropped
       let own := total % 2 ^ 32 + top.1 * 2 ^ 32 + top.2 % 2 ^ 32 * 2 ^ 40
       let u2 := if total = 0 then u1 else u1.ringForce (u1.ownRec 0x0909 own)
       s.log.overflow.foldl (fun w o => w.ringForce (w.ownRec 0x090A (o.2 % 2 ^ 32 + o.1 * 2 ^ 32))) u2) ∧
     (s.admitted who →
       (s.mainRing = false → addr.toNat * 0x200000 + 0x800000 ≤ stackedEnd → (∀ i < 4, mget 0 s.seals (addr.toNat + i) = 0) →
         exec (.logEnable who addr env) s = ans (.req (reqNum who)) (fun u =>
           let w := ((((u.setPort who {}).setFld cfg 51 21 addr.toNat).setFld cfg 0 0 1).setFld Reg.SIO_LOG_HEAD 17 0 0).setFld Reg.SIO_LOG_TAIL 17 0 0
           s.earlyRecords.foldl State.ringPut { w with log := { w.log with early := [] } })) ∧
       (s.mainRing = true → fget v 0 0 = 0 ∨ fget v 51 21 ≠ s.fld cfg 51 21 →
         exec (.registerWrite who cfg (.w64 v) env) s = ans (.req (reqNum who)) (fun u => (u.setPort who {}).sioReject))))

/-- The board's interfaces (R426, R427, R443, R444). While the standby rails are up PMBus answers each supported command at
Siolo's address from the values the hardware holds, CLEAR_FAULTS keeps the STATUS_WORD bits whose cause lasts, and any other code
gets NACK and is recorded. SETDASA and ENTDAA give a target without a dynamic address one. MCTP control and PLDM requests are
answered over the carrier they came on while the firmware runs, and not carried out while Siolo is overloaded; the framing of
their replies is another standard's and left open here (notes/assumptions/68.md). The form of LINEAR11 and bit 1 of STATUS_WORD
for an unsupported command come from the PMBus family (PRESUMED, notes/assumptions/63.md). That a command which does not apply
changes nothing is the model's choice (notes/assumptions/1.md). -/
def Obligations.BoardInterfaces : Prop :=
  ∀ (addr static dynamic code e : Nat) (via : Via) (s : State),
    let tell (b : List Byte) : Host.Outcome State Fault Refusal := .next (s.emit (.board (some b)))
    let back (b : List Byte) : Out := match via with
      | .i3c => .board (some b)
      | .vdm h => .vdm h b
    let here := s.power.standby = true ∧ addr = 0x40 + s.fuses.pmbAddr
    (here →
      exec (.statusWord addr) s = tell (toLe 2 s.statusWord) ∧ exec (.readVin addr) s = tell (toLe 2 (linear11 false s.loops.vin 1000)) ∧
      exec (.readIin addr) s = tell (toLe 2 (linear11 false s.loops.iin 10)) ∧
      exec (.readTemperature1 addr) s = tell (toLe 2 (linTemp s.hottest)) ∧
      exec (.readTemperature2 addr) s = tell (toLe 2 (linTemp s.coolantInlet)) ∧ exec (.readPin addr) s = tell (toLe 2 s.inputPower) ∧
      exec (.pmbusRevision addr) s = tell [0x33] ∧
      exec (.clearFaults addr) s = .next ({ s with pmb := s.pmbLive }.emit (.board (some []))) ∧
      (code ∉ pmbSupported → ∃ t, exec (.pmbusNack code addr) s = .next t ∧ t.out = s.out ++ [.board none] ∧ t.pmb.testBit 1 = true ∧
        t = { s with pmb := t.pmb, out := t.out }) ∧
      (code ∈ pmbSupported → exec (.pmbusNack code addr) s = .next s)) ∧
    (¬ here → ∀ i ∈ [Instr.statusWord addr, .readVin addr, .readIin addr, .readTemperature1 addr, .readTemperature2 addr, .readPin addr,
      .pmbusRevision addr, .clearFaults addr, .pmbusNack code addr], exec i s = .next s) ∧
    (s.live → s.i3c = none → exec (.entdaa dynamic) s = .next ({ s with i3c := some dynamic }.emit (.board (some []))) ∧
      (static = 0x48 + s.fuses.pmbAddr → exec (.setdasa static dynamic) s = .next ({ s with i3c := some dynamic }.emit (.board (some [])))) ∧
      (static ≠ 0x48 + s.fuses.pmbAddr → exec (.setdasa static dynamic) s = .next s)) ∧
    (s.power.held = true ∨ s.i3c ≠ none → exec (.entdaa dynamic) s = .next s ∧ exec (.setdasa static dynamic) s = .next s) ∧
    (s.live → viaOk via = true →
      (s.oppBusy = true ∨ s.sioRun = false ∨ s.viaUp via = false →
        exec (.mctpControl via) s = .next s ∧ ∀ req, exec (.pldmRequest req via) s = .next s) ∧
      (s.oppBusy = false → s.sioRun = true → s.viaUp via = true →
        (s.fld Reg.SIO_STATUS 1 1 = 1 → ∀ req, exec (.pldmRequest req via) s = .next (s.freeReply via)) ∧
        (∃ b : List Byte, b.length ≤ 64 ∧ s.freeReply via = { s with free := s.free + 1, out := s.out ++ [back b] }) ∧
        exec (.mctpControl via) s = .next (s.freeReply via) ∧
        (s.fld Reg.SIO_STATUS 1 1 = 0 → exec (.pldmRequest .base via) s = .next (s.freeReply via) ∧
          (∀ i k j, pldmSensor i = some (k, j) → exec (.pldmRequest (.reading i) via) s = .next (s.emit (back (toLe 4 (s.readingWord k j))))) ∧
          exec (.pldmRequest (.ack e) via) s = .next ((s.ackAlarm (e % 64)).freeReply via))))

/-! ## Clocks, resets and power (16_clocks_reset_power_emc.md, 17_module_physical.md) -/

/-- Operating points (R477, R478). APPLY is accepted while the device is QUIESCED and no change runs: CLK_STATUS.BUSY is set and
requests are held; a SPREAD above 50 is 50. OPP 3, and APPLY at any other time, set CLK_EVENT.REJECT and change neither the point
in force nor BUSY; that CLK_CTRL's fields take the written values then too is the model's choice (notes/assumptions/15.md).
Meanwhile a host's register accesses wait at its port. When the change is done the new point and spread come into force, what was
held at the controllers goes on, what was held at the host ports is served in order, and then, unless one of those reset the
device, BUSY is cleared and CLK_EVENT.OPP_DONE set. -/
def Obligations.OperatingPoints : Prop :=
  ∀ (who : Requester) (h off m : Nat) (up : Bool) (data : WData) (v : Word32) (opp : BitVec 2) (spread : BitVec 6) (env : Env) (s : State), s.live →
    let holds (op : HeldOp) : Host.Outcome State Fault Refusal := .next { s with heldOps := s.heldOps ++ [op] }
    let ok := s.quiesced = true ∧ s.fld Reg.CLK_STATUS 2 2 = 0 ∧ opp.toNat ≠ 3
    (s.admitted who → ∃ t, exec (.oppApply who opp spread) s = .next t ∧
      t.fld Reg.CLK_CTRL 1 0 = opp.toNat ∧ t.fld Reg.CLK_CTRL 13 8 = min 50 spread.toNat ∧ t.mem = s.mem ∧ t.queues = s.queues ∧
      t.fld Reg.CLK_STATUS 1 0 = s.fld Reg.CLK_STATUS 1 0 ∧ t.fld Reg.CLK_STATUS 13 8 = s.fld Reg.CLK_STATUS 13 8 ∧
      (ok → t.fld Reg.CLK_STATUS 2 2 = 1 ∧ t.memHold = true ∧ t.power = { s.power with opp := some (opp.toNat, min 50 spread.toNat) } ∧
        ∀ o, o ≠ Reg.CLK_CTRL → o ≠ Reg.CLK_STATUS → t.reg o = s.reg o) ∧
      (¬ ok → t.fld Reg.CLK_STATUS 2 2 = s.fld Reg.CLK_STATUS 2 2 ∧ t.power = s.power ∧ t.fld Reg.CLK_EVENT 1 1 = 1)) ∧
    (s.hostExists h = true → s.portHeld (.host h) = true →
      exec (.registerWrite (.host h) off data env) s = holds (.write (.host h) off data env) ∧
      exec (.splitLowWrite (.host h) off v) s = holds (.write32 (.host h) off v) ∧
      exec (.splitLowRead (.host h) off) s = holds (.read32 (.host h) off) ∧
      (m < 32 → exec (.mbxTake (.host h) m up) s = holds (.take (.host h) m up))) ∧
    (s.portHeld (.host h) = true ↔ s.power.opp.isSome = true) ∧
    exec (.oppDone env) s = .next (s.keep (s.oppDone env)) ∧
    (s.power.opp = none → s.oppDone env = s) ∧
    (∀ o d, s.power.opp = some (o, d) →
      ∃ w : State, w.fld Reg.CLK_STATUS 1 0 = o % 4 ∧ w.fld Reg.CLK_STATUS 13 8 = d % 64 ∧ (∀ r, r ≠ Reg.CLK_STATUS → w.reg r = s.reg r) ∧
        w = { s with power := { s.power with opp := none }, regs := w.regs, outstanding := s.outstanding.filter (fun x => x.2 != Need.hold) } ∧
        let x := (w.wake env).heldOps.foldl State.serveOp { w.wake env with heldOps := [] }
        (x.power.held = true → s.oppDone env = x) ∧
        (x.power.held = false → (s.oppDone env).fld Reg.CLK_STATUS 2 2 = 0 ∧ (s.oppDone env).fld Reg.CLK_EVENT 0 0 = 1 ∧
          s.oppDone env = ((x.setFld Reg.CLK_STATUS 2 2 0).raise Reg.CLK_EVENT 0 Reg.CLK_EVENT_CNT 0).post slotClock 0x0B00 1 (o + d * 2 ^ 8))) ∧
    (∀ y : State, y.live → y.serveOp (.write (.host h) off data env) = y.regWrite (.host h) off data env ∧
      y.serveOp (.memRead h off env) = y.hostRead h off env ∧ y.serveOp (.take (.host h) m up) = y.mbxTake (.host h) m up) ∧
    (∀ y op, y.power.held = true → State.serveOp y op = y)

/-- Full resets (R262, R483–R486). A write of CLK_RESET with KEY 0xD1, and RESET_N falling, reset the device: every register
returns to its reset value but the counter, TRIP_THERM and CLK_RESET_CAUSE; with retention stacked memory keeps its bytes and
poison; flash and fuses are kept; the logic is held. Any other KEY is rejected. A hold in progress is only lengthened. It ends
once the supply is good, RESET_N is high and a software reset's 1 ms is over: the boot ROM starts and the enabled ports train
(R353). Stacks then return to service or are left out, one that was still in self-refresh too. With retention the interleave map
stays. Which joins end a hold, that a rise of RESET_N while it is high does nothing, and what the ports send as they train are the
model's choice (notes/assumptions/81.md, 99.md). That a command which does not apply changes nothing is the model's choice
(notes/assumptions/1.md). -/
def Obligations.FullResets : Prop :=
  ∀ (who : Requester) (key : BitVec 8) (retain memhold good : Bool) (split : BitVec 4) (adr : BitVec 3) (c bad : Nat) (s : State),
    let fresh (t : State) (cause : Nat) (kept : Bool) : Prop := t.power.held = true ∧ t.pending = s.pending ∧ t.fuses = s.fuses ∧ t.flash = s.flash ∧
      t.out = s.out ∧ (∀ o, o ≠ Reg.CLK_TIME → o ≠ Reg.SIO_STATUS → o ≠ Reg.CLK_RESET_CAUSE → t.reg o = regReset o) ∧
      t.reg Reg.CLK_TIME = s.reg Reg.CLK_TIME ∧ t.fld Reg.SIO_STATUS 2 2 = s.fld Reg.SIO_STATUS 2 2 ∧ t.fld Reg.SIO_STATUS 3 3 = 0 ∧
      t.fld Reg.CLK_RESET_CAUSE 1 0 = cause ∧ t.fld Reg.CLK_RESET_CAUSE 7 7 = (if kept then 1 else 0) ∧
      t.fld Reg.CLK_RESET_CAUSE 23 8 = min 65535 (s.fld Reg.CLK_RESET_CAUSE 23 8 + 1) ∧
      t.queues = [] ∧ t.seals = [] ∧ t.bias = [] ∧ t.anchors = [] ∧
      t.image = { State.reset.image with regions := if kept then s.image.regions else State.reset.image.regions } ∧
      t.power.selfRef = (if kept then Nat.lor s.stacksUp s.power.selfRef else 0) ∧ t.power.awaited = 0 ∧
      (kept = true → ∀ a < stackedEnd, t.mem.byte a = s.mem.byte a ∧ t.poisoned (a / 32) = s.poisoned (a / 32))
    let leaves (u : State) : State := if u.power.held && u.power.pwrgd && u.power.resetN && !u.power.soft then u.leaveReset else u
    (s.admitted who →
      (key = 0xD1#8 → ∃ t, exec (.clkReset who key retain) s = .next t ∧ fresh t 2 retain ∧ t.power.soft = true) ∧
      (key ≠ 0xD1#8 → exec (.clkReset who key retain) s = .next ((s.setPort who {}).raise Reg.CLK_EVENT 1 Reg.CLK_EVENT_CNT 16))) ∧
    (s.power.resetN = false → exec (.resetNFall memhold) s = .next s) ∧
    (s.power.resetN = true → s.power.held = true → exec (.resetNFall memhold) s = .next { s with power := { s.power with resetN := false } }) ∧
    (s.power.resetN = true → s.power.held = false → ∃ t, exec (.resetNFall memhold) s = .next t ∧ fresh t 1 (!memhold) ∧ t.power.resetN = false) ∧
    (s.power.soft = false → exec .resetHoldEnd s = .next s) ∧
    (s.power.soft = true → exec .resetHoldEnd s = .next (leaves { s with power := { s.power with soft := false } })) ∧
    (s.power.resetN = true → exec (.resetNRise split adr) s = .next s) ∧
    (s.power.resetN = false → exec (.resetNRise split adr) s = .next (leaves { s with
      fuses := { s.fuses with split := split.toNat }
      power := { s.power with resetN := true } })) ∧
    (s.leaveReset.power.held = false ∧ s.leaveReset.boot = .header false ∧ s.leaveReset.mem = s.mem ∧
      (∀ o, (∀ p < 18, o ≠ Reg.LNK_PORT_STATUS p) → s.leaveReset.reg o = s.reg o) ∧ ∀ p < 18, s.fld (Reg.LNK_PORT_STATUS p) 1 0 = 0 →
      s.fld (Reg.LNK_PORT_CTRL p) 0 0 = 0 → s.leaveReset.fld (Reg.LNK_PORT_STATUS p) 1 0 = 1) ∧
    (s.power.held = true → exec (.selfRefreshExit bad) s = .next s) ∧
    (s.power.held = false → exec (.selfRefreshExit bad) s = .next (s.keep
      ((setBitList 24 s.power.selfRef).foldl (fun s c => State.stackBack (!bit bad c) s c) s).applyBegin)) ∧
    (c < 24 →
      (s.power.held = true ∨ bit s.power.awaited c = false ∨ bit s.power.selfRef c = true → exec (.stackTrainingDone c good) s = .next s) ∧
      (s.power.held = false → bit s.power.awaited c = true → bit s.power.selfRef c = false →
        exec (.stackTrainingDone c good) s = .next (s.keep (State.stackBack good s c).applyBegin)) ∧
      (let u := State.stackBack good s c;
        u.fld (Reg.MEM_STK_STATUS c) 0 0 = (if good then 1 else 0) ∧ bit u.power.awaited c = false ∧ u.mem = s.mem ∧
        (good = true → u.log = s.log ∧ ∀ o, o ≠ Reg.MEM_STK_STATUS c → u.reg o = s.reg o)))

/-- Power-up and power-down (R481, R482, R501). The main rails ramp once the standby rails and PWR_EN are up; PWRGD then lets the
hold end. PWR_EN falling, a low input and an overvoltage take the main rails down: the logic is held, PWRGD falls, stacked memory
is undefined, flash and fuses stay. After an overvoltage PWR_EN must fall and rise again. With the standby rails the counter and a
thermal trip go; a trip ends too when PWR_EN has stayed low, and THERMTRIP_N is then released. While the logic is held in reset
with the standby rails up, the temperature loop still compares and trips. After a low input the main rails stay off until rail 0
is back. CAUSE and FULL_CNT of 0 at power-down, that STANDBY_POWER also ends an overvoltage, and what a sample does in reset are
the model's choice (notes/assumptions/81.md, 95.md). That a command which does not apply changes nothing is the model's choice
(notes/assumptions/1.md). -/
def Obligations.PowerRails : Prop :=
  ∀ (s : State) (adr : BitVec 3),
    let down (t : State) : Prop := t.power.held = true ∧ t.power.mains = false ∧ t.power.pwrgd = false ∧ t.power.soft = false ∧ t.flash = s.flash ∧
      t.fuses = s.fuses ∧ t.pending = s.pending ∧ t.fld Reg.CLK_RESET_CAUSE 1 0 = 0 ∧ t.fld Reg.CLK_RESET_CAUSE 7 7 = 0 ∧
      t.fld Reg.CLK_RESET_CAUSE 23 8 = 0 ∧ t.power.selfRef = 0 ∧ (∀ l, t.poisoned l = false ∨ 2 ^ 52 ≤ 32 * l)
    (∃ t, exec (.standbyPower adr) s = .next t ∧ t.power.standby = true ∧ t.power.overHigh = false ∧ t.power.inLow = false ∧ t.mem = s.mem ∧
      (s.power.standby = false → t.reg Reg.CLK_TIME = 0 ∧ t.fuses = { s.fuses with pmbAddr := adr.toNat }) ∧ (s.power.standby = true → t = { s with power := t.power }) ∧
      (s.power.pwrEn = true → s.power.overCycle = 2 → t.power.mains = true) ∧ (s.power.pwrEn = false ∨ s.power.overCycle ≠ 2 → t.power.mains = s.power.mains)) ∧
    (∃ t, exec .pwrEnRise s = .next t ∧ t = { s with power := t.power } ∧ t.power.pwrEn = true ∧ t.power.held = s.power.held ∧
      (s.power.standby = true → s.power.overHigh = false → s.power.inLow = false → 1 ≤ s.power.overCycle → s.power.overCycle ≤ 2 → t.power.mains = true) ∧
      (s.power.standby = false ∨ s.power.overHigh = true ∨ s.power.inLow = true ∨ s.power.overCycle = 0 → t.power.mains = s.power.mains)) ∧
    (s.power.mains = false → exec .pwrgd s = .next s) ∧
    (s.power.mains = true → exec .pwrgd s = .next (State.tryLeave { s with power := { s.power with pwrgd := true } })) ∧
    (s.power.held = true → s.power.pwrgd = true → s.power.resetN = true → s.power.soft = false → s.tryLeave = s.leaveReset) ∧
    (s.power.held = false ∨ s.power.pwrgd = false ∨ s.power.resetN = false ∨ s.power.soft = true → s.tryLeave = s) ∧
    (∃ t, exec .pwrEnFall s = .next t ∧ down t ∧ t.power.pwrEn = false ∧ t.reg Reg.CLK_TIME = s.reg Reg.CLK_TIME ∧
      (s.power.overCycle = 0 → t.power.overCycle = 1)) ∧
    (∃ t, exec .inputUndervoltage s = .next t ∧ down t ∧ t.power.inLow = true ∧ t.power.pwrEn = s.power.pwrEn ∧ t.reg Reg.CLK_TIME = s.reg Reg.CLK_TIME ∧
      t.fld Reg.SIO_STATUS 2 2 = s.fld Reg.SIO_STATUS 2 2) ∧
    (∃ t, exec .inputOvervoltage s = .next t ∧ down t ∧ t.power.overHigh = true ∧ t.power.overCycle = 0) ∧
    (∃ t, exec .standbyLoss s = .next t ∧ down t ∧ t.power.standby = false ∧ t.reg Reg.CLK_TIME = 0 ∧ t.fld Reg.SIO_STATUS 2 2 = 0 ∧
      t.i3c = none ∧ t.i3cHeld = none) ∧
    (s.power.pwrEn = true → exec .thermalTripClear s = .next s) ∧
    (s.power.pwrEn = false → ∃ t, exec .thermalTripClear s = .next t ∧ t.fld Reg.SIO_STATUS 2 2 = 0 ∧
      t = { s with regs := t.regs, out := t.out } ∧ (∀ o, o ≠ Reg.SIO_STATUS → t.reg o = s.reg o) ∧
      t.out = s.out ++ (if s.fld Reg.SIO_STATUS 2 2 = 1 then [.thermtrip false] else [])) ∧
    (s.power.held = true → s.power.standby = true → ∀ xs, ∃ t, exec (.thermSample xs) s = .next t ∧ t.loops = (s.thermSample xs).loops ∧
      t.fld Reg.SIO_STATUS 3 2 = (s.thermSample xs).fld Reg.SIO_STATUS 3 2 ∧ t = { s with regs := t.regs, loops := t.loops, out := t.out })
end

