-- ==== Sys2Proof/Laws/Map.lean ====
section
/-! SUPPORT. The laws of sparse tables: a key that is set reads as it was set, every other key reads as before, and the
canonical form is kept. -/

namespace Sys2Proof.Machine

variable {α : Type}

@[simp] theorem mget_nil (d : α) (k : Nat) : mget d [] k = d := rfl

@[simp] theorem mget_mput_self (d : α) (m : SMap α) (k : Nat) (x : α) : mget d (mput m k x) k = x := by
  induction m with
  | nil => simp [mput, mget]
  | cons e r ih =>
    obtain ⟨j, v⟩ := e
    by_cases h1 : k < j
    · simp [mput, mget, h1]
    · by_cases h2 : j = k
      · simp [mput, mget, h2]
      · simp [mput, mget, h1, h2, ih]

theorem mget_mput_ne (d : α) (m : SMap α) {k j : Nat} (x : α) (h : j ≠ k) : mget d (mput m k x) j = mget d m j := by
  induction m with
  | nil => simp [mput, mget, Ne.symm h]
  | cons e r ih =>
    obtain ⟨i, v⟩ := e
    by_cases h1 : k < i
    · simp [mput, mget, h1, Ne.symm h]
    · by_cases h2 : i = k
      · subst h2; simp [mput, mget, Ne.symm h]
      · by_cases h3 : i = j
        · subst h3; simp [mput, mget, h1, h2]
        · simp [mput, mget, h1, h2, h3, ih]

@[simp] theorem mget_mdel_self (d : α) (m : SMap α) (k : Nat) : mget d (mdel m k) k = d := by
  induction m with
  | nil => rfl
  | cons e r ih =>
    obtain ⟨j, v⟩ := e
    by_cases h : j = k <;> simp [mdel, mget, h, ih]

theorem mget_mdel_ne (d : α) (m : SMap α) {k j : Nat} (h : j ≠ k) : mget d (mdel m k) j = mget d m j := by
  induction m with
  | nil => rfl
  | cons e r ih =>
    obtain ⟨i, v⟩ := e
    by_cases h2 : i = k
    · subst h2; simp [mdel, mget, Ne.symm h, ih]
    · by_cases h3 : i = j
      · subst h3; simp [mdel, mget, h2]
      · simp [mdel, mget, h2, h3, ih]

@[simp] theorem mget_mset_self [DecidableEq α] (d : α) (m : SMap α) (k : Nat) (x : α) : mget d (mset d m k x) k = x := by
  by_cases h : x = d <;> simp [mset, h]

theorem mget_mset_ne [DecidableEq α] (d : α) (m : SMap α) {k j : Nat} (x : α) (h : j ≠ k) :
    mget d (mset d m k x) j = mget d m j := by
  by_cases hx : x = d
  · simp [mset, hx, mget_mdel_ne d m h]
  · simp [mset, hx, mget_mput_ne d m x h]

theorem mget_mset [DecidableEq α] (d : α) (m : SMap α) (k j : Nat) (x : α) :
    mget d (mset d m k x) j = if j = k then x else mget d m j := by
  by_cases h : j = k
  · subst h; simp
  · simp [h, mget_mset_ne d m x h]

@[simp] theorem mget_mmod_self [DecidableEq α] (d : α) (m : SMap α) (k : Nat) (f : α → α) :
    mget d (mmod d m k f) k = f (mget d m k) := by simp [mmod]

theorem mget_mmod_ne [DecidableEq α] (d : α) (m : SMap α) {k j : Nat} (f : α → α) (h : j ≠ k) :
    mget d (mmod d m k f) j = mget d m j := mget_mset_ne d m _ h

/-! ## The canonical form -/

theorem risingFrom_mono {m : SMap α} {a b : Nat} (h : a ≤ b) (hr : risingFrom b m = true) : risingFrom a m = true := by
  cases m with
  | nil => rfl
  | cons e r =>
    simp only [risingFrom, Bool.and_eq_true, decide_eq_true_eq] at *
    exact ⟨by omega, hr.2⟩

theorem mput_rising {m : SMap α} {b k : Nat} (x : α) (hk : b ≤ k) (h : risingFrom b m = true) :
    risingFrom b (mput m k x) = true := by
  induction m generalizing b with
  | nil => simp [mput, risingFrom, hk]
  | cons e r ih =>
    obtain ⟨j, v⟩ := e
    simp only [risingFrom, Bool.and_eq_true, decide_eq_true_eq] at h
    by_cases h1 : k < j
    · simp [mput, h1, risingFrom, hk, h.2, show k + 1 ≤ j from h1]
    · by_cases h2 : j = k
      · subst h2; simp [mput, risingFrom, h.1, h.2]
      · have := ih (b := j + 1) (by omega) h.2
        simp [mput, h1, h2, risingFrom, h.1, this]

theorem mdel_rising {m : SMap α} {b : Nat} (k : Nat) (h : risingFrom b m = true) : risingFrom b (mdel m k) = true := by
  induction m generalizing b with
  | nil => rfl
  | cons e r ih =>
    obtain ⟨j, v⟩ := e
    simp only [risingFrom, Bool.and_eq_true, decide_eq_true_eq] at h
    by_cases h2 : j = k
    · simp [mdel, h2]; exact risingFrom_mono (by omega) (ih h.2)
    · simp [mdel, h2, risingFrom, h.1, ih h.2]

theorem mem_mput {m : SMap α} {k : Nat} {x : α} {e : Nat × α} (h : e ∈ mput m k x) : e = (k, x) ∨ e ∈ m := by
  induction m with
  | nil => simpa [mput] using h
  | cons f r ih =>
    obtain ⟨j, v⟩ := f
    by_cases h1 : k < j
    · simp only [mput, if_pos h1, List.mem_cons] at h
      rcases h with h | h | h
      · exact .inl h
      · exact .inr (by simp [h])
      · exact .inr (by simp [h])
    · by_cases h2 : j = k
      · simp only [mput, if_neg h1, if_pos h2, List.mem_cons] at h
        rcases h with h | h
        · exact .inl h
        · exact .inr (by simp [h])
      · simp only [mput, if_neg h1, if_neg h2, List.mem_cons] at h
        rcases h with h | h
        · exact .inr (by simp [h])
        · rcases ih h with h | h
          · exact .inl h
          · exact .inr (by simp [h])

theorem mem_mdel {m : SMap α} {k : Nat} {e : Nat × α} (h : e ∈ mdel m k) : e ∈ m := by
  induction m with
  | nil => simp [mdel] at h
  | cons f r ih =>
    obtain ⟨j, v⟩ := f
    by_cases h2 : j = k
    · simp only [mdel, if_pos h2] at h; simp [ih h]
    · simp only [mdel, if_neg h2, List.mem_cons] at h
      rcases h with h | h
      · simp [h]
      · simp [ih h]

/-- Setting a key keeps the canonical form. -/
theorem mset_wf [DecidableEq α] {d : α} {m : SMap α} (k : Nat) (x : α) (h : mwf d m = true) : mwf d (mset d m k x) = true := by
  simp only [mwf, Bool.and_eq_true, List.all_eq_true, decide_eq_true_eq] at *
  by_cases hx : x = d
  · simp only [mset, hx, if_true]
    exact ⟨mdel_rising k h.1, fun e he => h.2 e (mem_mdel he)⟩
  · simp only [mset, hx, if_false]
    refine ⟨mput_rising x (by omega) h.1, fun e he => ?_⟩
    rcases mem_mput he with rfl | he
    · exact hx
    · exact h.2 e he

end Sys2Proof.Machine
end

