-- ==== Sys2Proof/Laws/Registers.lean ====
section
/-! SUPPORT. The laws of register storage: bit fields of a word (R2), the register that is stored, its fields and its
counters, and where the element of an array of registers lies in the map (R38). -/

namespace Sys2Proof.Machine

/-! ## Bit fields -/

theorem two_pow_split {hi lo : Nat} (h : lo ≤ hi) : 2 ^ (hi + 1) = 2 ^ lo * 2 ^ (hi + 1 - lo) := by
  rw [← Nat.pow_add]; congr 1; omega

theorem bits_lt (n hi lo : Nat) : bits n hi lo < 2 ^ (hi + 1 - lo) := Nat.mod_lt _ (Nat.two_pow_pos _)

/-- A number is its bits below a field, the field, and the bits above it. -/
theorem bits_split (n : Nat) {hi lo : Nat} (h : lo ≤ hi) :
    n = n % 2 ^ lo + bits n hi lo * 2 ^ lo + n / 2 ^ (hi + 1) * 2 ^ (hi + 1) := by
  have h1 := Nat.div_add_mod n (2 ^ lo)
  have h2 := Nat.div_add_mod (n / 2 ^ lo) (2 ^ (hi + 1 - lo))
  have h3 : n / 2 ^ lo / 2 ^ (hi + 1 - lo) = n / 2 ^ (hi + 1) := by rw [Nat.div_div_eq_div_mul, ← two_pow_split h]
  rw [h3] at h2
  have h4 : 2 ^ lo * (n / 2 ^ lo) = 2 ^ lo * (2 ^ (hi + 1 - lo) * (n / 2 ^ (hi + 1)) + bits n hi lo) := by
    rw [← h2]; simp [bits]
  rw [two_pow_split h] at *
  simp only [bits] at *
  nlinarith

theorem setBits_eq (n x : Nat) {hi lo : Nat} (h : lo ≤ hi) :
    setBits n hi lo x = n % 2 ^ lo + x % 2 ^ (hi + 1 - lo) * 2 ^ lo + n / 2 ^ (hi + 1) * 2 ^ (hi + 1) := by
  have h1 := bits_split n h
  unfold setBits
  omega

/-- A field that has been set reads as the low bits of what was put there. -/
theorem bits_setBits_self (n x : Nat) {hi lo : Nat} (h : lo ≤ hi) :
    bits (setBits n hi lo x) hi lo = x % 2 ^ (hi + 1 - lo) := by
  have hx := Nat.mod_lt x (Nat.two_pow_pos (hi + 1 - lo))
  have hn := Nat.mod_lt n (Nat.two_pow_pos lo)
  rw [setBits_eq n x h, bits, two_pow_split h]
  have e : n % 2 ^ lo + x % 2 ^ (hi + 1 - lo) * 2 ^ lo + n / (2 ^ lo * 2 ^ (hi + 1 - lo)) * (2 ^ lo * 2 ^ (hi + 1 - lo))
      = n % 2 ^ lo + 2 ^ lo * (x % 2 ^ (hi + 1 - lo) + 2 ^ (hi + 1 - lo) * (n / (2 ^ lo * 2 ^ (hi + 1 - lo)))) := by ring
  rw [e, Nat.add_mul_div_left _ _ (Nat.two_pow_pos lo), Nat.div_eq_of_lt hn, Nat.zero_add, Nat.add_mul_mod_self_left,
    Nat.mod_mod]

theorem setBits_mod (n x : Nat) {hi lo k : Nat} (h : lo ≤ hi) (hk : k ≤ lo) : setBits n hi lo x % 2 ^ k = n % 2 ^ k := by
  obtain ⟨d, rfl⟩ := Nat.exists_eq_add_of_le hk
  rw [setBits_eq n x h]
  have e1 : x % 2 ^ (hi + 1 - (k + d)) * 2 ^ (k + d) = 2 ^ k * (x % 2 ^ (hi + 1 - (k + d)) * 2 ^ d) := by
    rw [Nat.pow_add]; ring
  have e2 : n / 2 ^ (hi + 1) * 2 ^ (hi + 1) = 2 ^ k * (n / 2 ^ (hi + 1) * 2 ^ (hi + 1 - k)) := by
    have : 2 ^ (hi + 1) = 2 ^ k * 2 ^ (hi + 1 - k) := by rw [← Nat.pow_add]; congr 1; omega
    rw [this]; ring
  rw [e1, e2, Nat.add_mul_mod_self_left, Nat.add_mul_mod_self_left]
  exact Nat.mod_mod_of_dvd n (Nat.pow_dvd_pow 2 (by omega))

theorem setBits_div (n x : Nat) {hi lo k : Nat} (h : lo ≤ hi) (hk : hi < k) : setBits n hi lo x / 2 ^ k = n / 2 ^ k := by
  have hx := Nat.mod_lt x (Nat.two_pow_pos (hi + 1 - lo))
  have hn := Nat.mod_lt n (Nat.two_pow_pos lo)
  have hlow : n % 2 ^ lo + x % 2 ^ (hi + 1 - lo) * 2 ^ lo < 2 ^ (hi + 1) := by
    rw [two_pow_split h]
    calc n % 2 ^ lo + x % 2 ^ (hi + 1 - lo) * 2 ^ lo < 2 ^ lo + x % 2 ^ (hi + 1 - lo) * 2 ^ lo := by omega
      _ = (x % 2 ^ (hi + 1 - lo) + 1) * 2 ^ lo := by ring
      _ ≤ 2 ^ (hi + 1 - lo) * 2 ^ lo := Nat.mul_le_mul_right _ hx
      _ = 2 ^ lo * 2 ^ (hi + 1 - lo) := by ring
  have hd : setBits n hi lo x / 2 ^ (hi + 1) = n / 2 ^ (hi + 1) := by
    rw [setBits_eq n x h, Nat.add_mul_div_right _ _ (Nat.two_pow_pos _), Nat.div_eq_of_lt hlow, Nat.zero_add]
  have hp : (2 : Nat) ^ k = 2 ^ (hi + 1) * 2 ^ (k - (hi + 1)) := by rw [← Nat.pow_add]; congr 1; omega
  rw [hp, ← Nat.div_div_eq_div_mul, ← Nat.div_div_eq_div_mul, hd]

/-- A field that does not overlap the one that has been set reads as before. -/
theorem bits_setBits_ne (n x : Nat) {hi lo hi' lo' : Nat} (h : lo ≤ hi) (h' : lo' ≤ hi') (hd : hi' < lo ∨ hi < lo') :
    bits (setBits n hi lo x) hi' lo' = bits n hi' lo' := by
  rcases hd with hd | hd
  · have key : ∀ m : Nat, bits m hi' lo' = m % 2 ^ (hi' + 1) / 2 ^ lo' := by
      intro m
      rw [bits, two_pow_split h', Nat.mod_mul_right_div_self]
    rw [key, key, setBits_mod n x h (by omega)]
  · unfold bits; rw [setBits_div n x h hd]

theorem setBits_lt {n x hi lo w : Nat} (h : lo ≤ hi) (hw : hi < w) (hn : n < 2 ^ w) : setBits n hi lo x < 2 ^ w := by
  have := setBits_div n x h hw
  rw [Nat.div_eq_of_lt hn] at this
  exact Nat.lt_of_div_eq_zero (Nat.two_pow_pos w) this

theorem fget_lt (v : Word) (hi lo : Nat) : fget v hi lo < 2 ^ (hi + 1 - lo) := bits_lt _ _ _

theorem fput_toNat (v : Word) (x : Nat) {hi lo : Nat} (h : lo ≤ hi) (hw : hi < 64) :
    (fput v hi lo x).toNat = setBits v.toNat hi lo x := by
  rw [fput, BitVec.toNat_ofNat, Nat.mod_eq_of_lt (setBits_lt h hw v.isLt)]

theorem fget_fput_self (v : Word) (x : Nat) {hi lo : Nat} (h : lo ≤ hi) (hw : hi < 64) :
    fget (fput v hi lo x) hi lo = x % 2 ^ (hi + 1 - lo) := by
  rw [fget, fput_toNat v x h hw, bits_setBits_self _ _ h]

theorem fget_fput_ne (v : Word) (x : Nat) {hi lo hi' lo' : Nat} (h : lo ≤ hi) (hw : hi < 64) (h' : lo' ≤ hi')
    (hd : hi' < lo ∨ hi < lo') : fget (fput v hi lo x) hi' lo' = fget v hi' lo' := by
  rw [fget, fput_toNat v x h hw, bits_setBits_ne _ _ h h' hd, fget]

theorem fget_ofNat {n hi lo : Nat} (hw : hi < 64) (h : lo ≤ hi) : fget (BitVec.ofNat 64 n) hi lo = bits n hi lo := by
  rw [fget, BitVec.toNat_ofNat, bits, bits]
  have hp : (2 : Nat) ^ 64 = 2 ^ lo * 2 ^ (64 - lo) := by rw [← Nat.pow_add]; congr 1; omega
  rw [hp, Nat.mod_mul_right_div_self]
  exact Nat.mod_mod_of_dvd _ (Nat.pow_dvd_pow 2 (by omega))

/-! ## Stored registers -/

@[simp] theorem State.reg_setReg_self (s : State) (off : Nat) (v : Word) : (s.setReg off v).reg off = v := by
  by_cases h : v = regReset off <;> simp [State.reg, State.setReg, h]

theorem State.reg_setReg_ne (s : State) {off o : Nat} (v : Word) (h : o ≠ off) : (s.setReg off v).reg o = s.reg o := by
  by_cases hv : v = regReset off
  · simp [State.reg, State.setReg, hv, mget_mdel_ne _ _ h]
  · simp [State.reg, State.setReg, hv, mget_mput_ne _ _ _ h]

theorem State.fld_setReg_self (s : State) (off hi lo : Nat) (v : Word) : (s.setReg off v).fld off hi lo = fget v hi lo := by
  simp [State.fld]

theorem State.fld_setReg_ne (s : State) {off o : Nat} (hi lo : Nat) (v : Word) (h : o ≠ off) :
    (s.setReg off v).fld o hi lo = s.fld o hi lo := by simp [State.fld, State.reg_setReg_ne s v h]

theorem State.fld_lt (s : State) (off hi lo : Nat) : s.fld off hi lo < 2 ^ (hi + 1 - lo) := fget_lt _ _ _

/-- A field that hardware has set reads as it was set. -/
theorem State.fld_setFld_self (s : State) (off x : Nat) {hi lo : Nat} (h : lo ≤ hi) (hw : hi < 64) :
    (s.setFld off hi lo x).fld off hi lo = x % 2 ^ (hi + 1 - lo) := by
  simp [State.fld, State.setFld, fget_fput_self _ _ h hw]

/-- The other fields of the register read as before. -/
theorem State.fld_setFld_ne (s : State) (off x : Nat) {hi lo hi' lo' : Nat} (h : lo ≤ hi) (hw : hi < 64) (h' : lo' ≤ hi')
    (hd : hi' < lo ∨ hi < lo') : (s.setFld off hi lo x).fld off hi' lo' = s.fld off hi' lo' := by
  simp [State.fld, State.setFld, fget_fput_ne _ _ h hw h' hd]

theorem State.reg_setFld_ne (s : State) {off o : Nat} (hi lo x : Nat) (h : o ≠ off) : (s.setFld off hi lo x).reg o = s.reg o :=
  State.reg_setReg_ne s _ h

theorem State.fld_setFld_off (s : State) {off o : Nat} (hi lo x hi' lo' : Nat) (h : o ≠ off) :
    (s.setFld off hi lo x).fld o hi' lo' = s.fld o hi' lo' := by simp [State.fld, State.reg_setFld_ne s hi lo x h]

/-- A counter in bits [hi:lo] adds, and wraps at its width. -/
theorem State.fld_addFld_self (s : State) (off x : Nat) {hi lo : Nat} (h : lo ≤ hi) (hw : hi < 64) :
    (s.addFld off hi lo x).fld off hi lo = (s.fld off hi lo + x) % 2 ^ (hi + 1 - lo) := State.fld_setFld_self s off _ h hw

theorem State.reg_addFld_ne (s : State) {off o : Nat} (hi lo x : Nat) (h : o ≠ off) : (s.addFld off hi lo x).reg o = s.reg o :=
  State.reg_setFld_ne s hi lo _ h

theorem State.reg_count_ne (s : State) {off o : Nat} (x : Nat) (h : o ≠ off) : (s.count off x).reg o = s.reg o :=
  State.reg_addFld_ne s 63 0 x h

/-- A 64-bit counter adds. -/
theorem State.reg_count_self (s : State) (off x : Nat) : (s.count off x).reg off = s.reg off + BitVec.ofNat 64 x := by
  apply BitVec.eq_of_toNat_eq
  have h1 := State.fld_addFld_self s off x (hi := 63) (lo := 0) (by omega) (by omega)
  simp only [State.fld, fget, bits, Nat.pow_zero, Nat.div_one] at h1
  rw [BitVec.toNat_add, BitVec.toNat_ofNat]
  have h2 : ((s.count off x).reg off).toNat < 2 ^ 64 := BitVec.isLt _
  have h3 : (s.reg off).toNat < 2 ^ 64 := BitVec.isLt _
  simp only [State.count] at *
  norm_num at h1 h2 h3 ⊢
  omega

/-- A raise touches its flag's register and its counter's. -/
theorem State.reg_raise_ne (s : State) {flag cnt o : Nat} (i lo : Nat) (h1 : o ≠ flag) (h2 : o ≠ cnt) :
    (s.raise flag i cnt lo).reg o = s.reg o := by
  rw [State.raise, State.reg_addFld_ne _ _ _ _ h2, State.reg_setFld_ne _ _ _ _ h1]

theorem State.fld_raise_flag (s : State) {flag i cnt lo : Nat} (hi : i < 64) (h : flag ≠ cnt) :
    (s.raise flag i cnt lo).fld flag i i = 1 := by
  rw [State.fld, State.raise, State.reg_addFld_ne _ _ _ _ h]
  have := State.fld_setFld_self s flag 1 (hi := i) (lo := i) (le_refl i) hi
  simpa [State.fld] using this

theorem State.fld_raise_cnt (s : State) {flag i cnt lo : Nat} (hl : lo + 15 < 64) (h : flag ≠ cnt) :
    (s.raise flag i cnt lo).fld cnt (lo + 15) lo = (s.fld cnt (lo + 15) lo + 1) % 65536 := by
  rw [State.raise, State.fld_addFld_self _ _ _ (by omega) hl, State.fld_setFld_off _ _ _ _ _ _ (Ne.symm h)]
  rw [show lo + 15 + 1 - lo = 16 from by omega]; norm_num

/-! ## Arrays of registers in the map -/

/-- Whether a row of the map has no element at any of x, x + st, x + 2·st, … (n of them). -/
def clearOf (st x n : Nat) (r : RegDesc) : Bool :=
  match r.dims with
  | (c, t) :: rest =>
    (t == st && !inDims rest ((x % st + st - r.base % st) % st)) || decide (x + n * st ≤ r.base)
      || decide (0 < t ∧ r.base + c * t ≤ x) || decide (rest = [] ∧ 0 < t ∧ r.base + c * t < x + t)
  | [] => decide (x + n * st ≤ r.base) || decide (r.base < x)

/-- The row of a table that has an element at each of x, x + st, … (n of them), where every row before it has none. -/
def arrayAt (st x n : Nat) : List RegDesc → Option RegDesc
  | [] => none
  | r :: rs =>
    match r.dims with
    | (c, t) :: rest =>
      if t = st ∧ r.base ≤ x ∧ (x - r.base) / st + n ≤ c ∧ inDims rest ((x - r.base) % st) then some r
      else if clearOf st x n r then arrayAt st x n rs else none
    | [] => if clearOf st x n r then arrayAt st x n rs else none

theorem clearOf_skip {st x n q : Nat} {r : RegDesc} (hst : 0 < st) (hq : q < n) (h : clearOf st x n r = true) :
    (decide (r.base ≤ x + q * st) && inDims r.dims (x + q * st - r.base)) = false := by
  have hqn : q * st + st ≤ n * st := by nlinarith
  obtain ⟨name, base, dims, width, fields⟩ := r
  cases dims with
  | nil =>
    simp only [clearOf, Bool.or_eq_true, decide_eq_true_eq] at h
    by_cases hb : base ≤ x + q * st
    · rcases h with h | h
      · omega
      · have : x + q * st - base ≠ 0 := by omega
        simp [inDims, this]
    · simp [hb]
  | cons d rest =>
    obtain ⟨c, t⟩ := d
    by_cases hb : base ≤ x + q * st
    · simp only [hb, decide_true, Bool.true_and]
      simp only [clearOf, Bool.or_eq_true, Bool.and_eq_true, beq_iff_eq, Bool.not_eq_true', decide_eq_true_eq] at h
      rcases h with ((⟨rfl, h⟩ | h) | h) | h
      · have e : (x + q * t - base) % t = (x % t + t - base % t) % t := by
          obtain ⟨d, hd⟩ := Nat.exists_eq_add_of_le hb
          have h1 : x % t ≡ base % t + d [MOD t] := by
            have : x % t ≡ x + q * t [MOD t] := by
              unfold Nat.ModEq; rw [Nat.mod_mod, Nat.add_mul_mod_self_right]
            refine this.trans ?_
            rw [hd]
            exact Nat.ModEq.add_right d (Nat.mod_modEq base t).symm
          have hbt := Nat.mod_lt base hst
          have h2 : x % t + t - base % t ≡ d [MOD t] := by
            have h3 : (x % t + t - base % t) + base % t ≡ d + base % t [MOD t] := by
              rw [Nat.sub_add_cancel (by omega)]
              have : x % t + t ≡ x % t [MOD t] := by unfold Nat.ModEq; simp
              refine this.trans (h1.trans ?_)
              rw [Nat.add_comm]
            exact Nat.ModEq.add_right_cancel' _ h3
          have : x + q * t - base = d := by omega
          rw [this]; exact h2.symm
        simp [inDims, e, h]
      · omega
      · have : ¬ (x + q * st - base) / t < c := by
          rw [Nat.not_lt]
          rw [Nat.le_div_iff_mul_le h.1]; omega
        simp [inDims, this]
      · obtain ⟨rfl, ht, hx⟩ := h
        have : ¬ ((x + q * st - base) / t < c ∧ (x + q * st - base) % t = 0) := by
          rintro ⟨h1, h2⟩
          have h3 := Nat.div_add_mod (x + q * st - base) t
          have h4 : t * ((x + q * st - base) / t) + t ≤ c * t := by nlinarith
          omega
        simp only [inDims, Bool.and_eq_false_imp, decide_eq_true_eq, beq_eq_false_iff_ne]
        exact fun h1 h2 => this ⟨h1, h2⟩
    · simp [hb]

theorem find_arrayAt {st x n q : Nat} {r : RegDesc} (hst : 0 < st) (hq : q < n) (rs : List RegDesc)
    (h : arrayAt st x n rs = some r) :
    rs.find? (fun r => decide (r.base ≤ x + q * st) && inDims r.dims (x + q * st - r.base)) = some r := by
  induction rs with
  | nil => simp [arrayAt] at h
  | cons e t ih =>
    unfold arrayAt at h
    split at h
    · rename_i c t' rest hd
      split at h
      · rename_i hc
        obtain ⟨rfl, hb, hn, hr⟩ := hc
        cases h
        have h1 : x + q * t' - r.base = (x - r.base) + q * t' := by omega
        have h2 : (x + q * t' - r.base) / t' < c := by
          rw [h1, Nat.add_mul_div_right _ _ hst]; omega
        have h3 : (x + q * t' - r.base) % t' = (x - r.base) % t' := by rw [h1, Nat.add_mul_mod_self_right]
        simp [List.find?, hd, inDims, h2, h3, hr, show r.base ≤ x + q * t' by omega]
      · split at h
        · rename_i hc; rw [List.find?, clearOf_skip hst hq hc]; exact ih h
        · cases h
    · split at h
      · rename_i hc; rw [List.find?, clearOf_skip hst hq hc]; exact ih h
      · cases h

/-- Element q of an array of registers lies in the row that `arrayAt` finds. -/
theorem findReg_array {slot st x n q : Nat} {r : RegDesc} (hst : 0 < st) (hq : q < n)
    (hslot : (x + q * st) / 0x1000000 = slot) (h : arrayAt st x n (slotTable slot) = some r) : findReg (x + q * st) = some r := by
  rw [findReg, hslot]; exact find_arrayAt hst hq _ h

end Sys2Proof.Machine
end

