-- ==== Sys2Proof/Laws/State.lean ====
section
/-! SUPPORT. The updates of the state, field by field: what each leaves alone, and what it writes. -/

namespace Sys2Proof.Machine

variable (s : State)

/-! ## setReg -/

@[simp] theorem State.setReg_pending (o : Nat) (v : Word) : (s.setReg o v).pending = s.pending := (rfl)
@[simp] theorem State.setReg_fuses (o : Nat) (v : Word) : (s.setReg o v).fuses = s.fuses := (rfl)
@[simp] theorem State.setReg_ports (o : Nat) (v : Word) : (s.setReg o v).ports = s.ports := (rfl)
@[simp] theorem State.setReg_mem (o : Nat) (v : Word) : (s.setReg o v).mem = s.mem := (rfl)
@[simp] theorem State.setReg_poison (o : Nat) (v : Word) : (s.setReg o v).poison = s.poison := (rfl)
@[simp] theorem State.setReg_seals (o : Nat) (v : Word) : (s.setReg o v).seals = s.seals := (rfl)
@[simp] theorem State.setReg_spillSeals (o : Nat) (v : Word) : (s.setReg o v).spillSeals = s.spillSeals := (rfl)
@[simp] theorem State.setReg_sealOp (o : Nat) (v : Word) : (s.setReg o v).sealOp = s.sealOp := (rfl)
@[simp] theorem State.setReg_pcLate (o : Nat) (v : Word) : (s.setReg o v).pcLate = s.pcLate := (rfl)
@[simp] theorem State.setReg_refMode (o : Nat) (v : Word) : (s.setReg o v).refMode = s.refMode := (rfl)
@[simp] theorem State.setReg_bwRead (o : Nat) (v : Word) : (s.setReg o v).bwRead = s.bwRead := (rfl)
@[simp] theorem State.setReg_ceSecond (o : Nat) (v : Word) : (s.setReg o v).ceSecond = s.ceSecond := (rfl)
@[simp] theorem State.setReg_bias (o : Nat) (v : Word) : (s.setReg o v).bias = s.bias := (rfl)
@[simp] theorem State.setReg_biasOp (o : Nat) (v : Word) : (s.setReg o v).biasOp = s.biasOp := (rfl)
@[simp] theorem State.setReg_image (o : Nat) (v : Word) : (s.setReg o v).image = s.image := (rfl)
@[simp] theorem State.setReg_loader (o : Nat) (v : Word) : (s.setReg o v).loader = s.loader := (rfl)
@[simp] theorem State.setReg_queues (o : Nat) (v : Word) : (s.setReg o v).queues = s.queues := (rfl)
@[simp] theorem State.setReg_anchors (o : Nat) (v : Word) : (s.setReg o v).anchors = s.anchors := (rfl)
@[simp] theorem State.setReg_streams (o : Nat) (v : Word) : (s.setReg o v).streams = s.streams := (rfl)
@[simp] theorem State.setReg_hosts (o : Nat) (v : Word) : (s.setReg o v).hosts = s.hosts := (rfl)
@[simp] theorem State.setReg_hostHeld (o : Nat) (v : Word) : (s.setReg o v).hostHeld = s.hostHeld := (rfl)
@[simp] theorem State.setReg_heldOps (o : Nat) (v : Word) : (s.setReg o v).heldOps = s.heldOps := (rfl)
@[simp] theorem State.setReg_objects (o : Nat) (v : Word) : (s.setReg o v).objects = s.objects := (rfl)
@[simp] theorem State.setReg_mbx (o : Nat) (v : Word) : (s.setReg o v).mbx = s.mbx := (rfl)
@[simp] theorem State.setReg_log (o : Nat) (v : Word) : (s.setReg o v).log = s.log := (rfl)
@[simp] theorem State.setReg_mats (o : Nat) (v : Word) : (s.setReg o v).mats = s.mats := (rfl)
@[simp] theorem State.setReg_vecs (o : Nat) (v : Word) : (s.setReg o v).vecs = s.vecs := (rfl)
@[simp] theorem State.setReg_attCtx (o : Nat) (v : Word) : (s.setReg o v).attCtx = s.attCtx := (rfl)
@[simp] theorem State.setReg_walkers (o : Nat) (v : Word) : (s.setReg o v).walkers = s.walkers := (rfl)
@[simp] theorem State.setReg_ccReqs (o : Nat) (v : Word) : (s.setReg o v).ccReqs = s.ccReqs := (rfl)
@[simp] theorem State.setReg_kvPools (o : Nat) (v : Word) : (s.setReg o v).kvPools = s.kvPools := (rfl)
@[simp] theorem State.setReg_hauls (o : Nat) (v : Word) : (s.setReg o v).hauls = s.hauls := (rfl)
@[simp] theorem State.setReg_credits (o : Nat) (v : Word) : (s.setReg o v).credits = s.credits := (rfl)
@[simp] theorem State.setReg_upd (o : Nat) (v : Word) : (s.setReg o v).upd = s.upd := (rfl)
@[simp] theorem State.setReg_fpMarks (o : Nat) (v : Word) : (s.setReg o v).fpMarks = s.fpMarks := (rfl)
@[simp] theorem State.setReg_linkPorts (o : Nat) (v : Word) : (s.setReg o v).linkPorts = s.linkPorts := (rfl)
@[simp] theorem State.setReg_linkParties (o : Nat) (v : Word) : (s.setReg o v).linkParties = s.linkParties := (rfl)
@[simp] theorem State.setReg_anchorOps (o : Nat) (v : Word) : (s.setReg o v).anchorOps = s.anchorOps := (rfl)
@[simp] theorem State.setReg_loops (o : Nat) (v : Word) : (s.setReg o v).loops = s.loops := (rfl)
@[simp] theorem State.setReg_sensors (o : Nat) (v : Word) : (s.setReg o v).sensors = s.sensors := (rfl)
@[simp] theorem State.setReg_ocLimit (o : Nat) (v : Word) : (s.setReg o v).ocLimit = s.ocLimit := (rfl)
@[simp] theorem State.setReg_pmb (o : Nat) (v : Word) : (s.setReg o v).pmb = s.pmb := (rfl)
@[simp] theorem State.setReg_i3c (o : Nat) (v : Word) : (s.setReg o v).i3c = s.i3c := (rfl)
@[simp] theorem State.setReg_i3cHeld (o : Nat) (v : Word) : (s.setReg o v).i3cHeld = s.i3cHeld := (rfl)
@[simp] theorem State.setReg_flash (o : Nat) (v : Word) : (s.setReg o v).flash = s.flash := (rfl)
@[simp] theorem State.setReg_flashOp (o : Nat) (v : Word) : (s.setReg o v).flashOp = s.flashOp := (rfl)
@[simp] theorem State.setReg_boot (o : Nat) (v : Word) : (s.setReg o v).boot = s.boot := (rfl)
@[simp] theorem State.setReg_sioFw (o : Nat) (v : Word) : (s.setReg o v).sioFw = s.sioFw := (rfl)
@[simp] theorem State.setReg_ccFw (o : Nat) (v : Word) : (s.setReg o v).ccFw = s.ccFw := (rfl)
@[simp] theorem State.setReg_priv (o : Nat) (v : Word) : (s.setReg o v).priv = s.priv := (rfl)
@[simp] theorem State.setReg_session (o : Nat) (v : Word) : (s.setReg o v).session = s.session := (rfl)
@[simp] theorem State.setReg_power (o : Nat) (v : Word) : (s.setReg o v).power = s.power := (rfl)
@[simp] theorem State.setReg_env (o : Nat) (v : Word) : (s.setReg o v).env = s.env := (rfl)
@[simp] theorem State.setReg_token (o : Nat) (v : Word) : (s.setReg o v).token = s.token := (rfl)
@[simp] theorem State.setReg_needs (o : Nat) (v : Word) : (s.setReg o v).needs = s.needs := (rfl)
@[simp] theorem State.setReg_outstanding (o : Nat) (v : Word) : (s.setReg o v).outstanding = s.outstanding := (rfl)
@[simp] theorem State.setReg_answers (o : Nat) (v : Word) : (s.setReg o v).answers = s.answers := (rfl)
@[simp] theorem State.setReg_out (o : Nat) (v : Word) : (s.setReg o v).out = s.out := (rfl)
@[simp] theorem State.setReg_free (o : Nat) (v : Word) : (s.setReg o v).free = s.free := (rfl)

/-! ## setFld -/

@[simp] theorem State.setFld_pending (o hi lo x : Nat) : (s.setFld o hi lo x).pending = s.pending := (rfl)
@[simp] theorem State.setFld_fuses (o hi lo x : Nat) : (s.setFld o hi lo x).fuses = s.fuses := (rfl)
@[simp] theorem State.setFld_ports (o hi lo x : Nat) : (s.setFld o hi lo x).ports = s.ports := (rfl)
@[simp] theorem State.setFld_mem (o hi lo x : Nat) : (s.setFld o hi lo x).mem = s.mem := (rfl)
@[simp] theorem State.setFld_poison (o hi lo x : Nat) : (s.setFld o hi lo x).poison = s.poison := (rfl)
@[simp] theorem State.setFld_seals (o hi lo x : Nat) : (s.setFld o hi lo x).seals = s.seals := (rfl)
@[simp] theorem State.setFld_spillSeals (o hi lo x : Nat) : (s.setFld o hi lo x).spillSeals = s.spillSeals := (rfl)
@[simp] theorem State.setFld_sealOp (o hi lo x : Nat) : (s.setFld o hi lo x).sealOp = s.sealOp := (rfl)
@[simp] theorem State.setFld_pcLate (o hi lo x : Nat) : (s.setFld o hi lo x).pcLate = s.pcLate := (rfl)
@[simp] theorem State.setFld_refMode (o hi lo x : Nat) : (s.setFld o hi lo x).refMode = s.refMode := (rfl)
@[simp] theorem State.setFld_bwRead (o hi lo x : Nat) : (s.setFld o hi lo x).bwRead = s.bwRead := (rfl)
@[simp] theorem State.setFld_ceSecond (o hi lo x : Nat) : (s.setFld o hi lo x).ceSecond = s.ceSecond := (rfl)
@[simp] theorem State.setFld_bias (o hi lo x : Nat) : (s.setFld o hi lo x).bias = s.bias := (rfl)
@[simp] theorem State.setFld_biasOp (o hi lo x : Nat) : (s.setFld o hi lo x).biasOp = s.biasOp := (rfl)
@[simp] theorem State.setFld_image (o hi lo x : Nat) : (s.setFld o hi lo x).image = s.image := (rfl)
@[simp] theorem State.setFld_loader (o hi lo x : Nat) : (s.setFld o hi lo x).loader = s.loader := (rfl)
@[simp] theorem State.setFld_queues (o hi lo x : Nat) : (s.setFld o hi lo x).queues = s.queues := (rfl)
@[simp] theorem State.setFld_anchors (o hi lo x : Nat) : (s.setFld o hi lo x).anchors = s.anchors := (rfl)
@[simp] theorem State.setFld_streams (o hi lo x : Nat) : (s.setFld o hi lo x).streams = s.streams := (rfl)
@[simp] theorem State.setFld_hosts (o hi lo x : Nat) : (s.setFld o hi lo x).hosts = s.hosts := (rfl)
@[simp] theorem State.setFld_hostHeld (o hi lo x : Nat) : (s.setFld o hi lo x).hostHeld = s.hostHeld := (rfl)
@[simp] theorem State.setFld_heldOps (o hi lo x : Nat) : (s.setFld o hi lo x).heldOps = s.heldOps := (rfl)
@[simp] theorem State.setFld_objects (o hi lo x : Nat) : (s.setFld o hi lo x).objects = s.objects := (rfl)
@[simp] theorem State.setFld_mbx (o hi lo x : Nat) : (s.setFld o hi lo x).mbx = s.mbx := (rfl)
@[simp] theorem State.setFld_log (o hi lo x : Nat) : (s.setFld o hi lo x).log = s.log := (rfl)
@[simp] theorem State.setFld_mats (o hi lo x : Nat) : (s.setFld o hi lo x).mats = s.mats := (rfl)
@[simp] theorem State.setFld_vecs (o hi lo x : Nat) : (s.setFld o hi lo x).vecs = s.vecs := (rfl)
@[simp] theorem State.setFld_attCtx (o hi lo x : Nat) : (s.setFld o hi lo x).attCtx = s.attCtx := (rfl)
@[simp] theorem State.setFld_walkers (o hi lo x : Nat) : (s.setFld o hi lo x).walkers = s.walkers := (rfl)
@[simp] theorem State.setFld_ccReqs (o hi lo x : Nat) : (s.setFld o hi lo x).ccReqs = s.ccReqs := (rfl)
@[simp] theorem State.setFld_kvPools (o hi lo x : Nat) : (s.setFld o hi lo x).kvPools = s.kvPools := (rfl)
@[simp] theorem State.setFld_hauls (o hi lo x : Nat) : (s.setFld o hi lo x).hauls = s.hauls := (rfl)
@[simp] theorem State.setFld_credits (o hi lo x : Nat) : (s.setFld o hi lo x).credits = s.credits := (rfl)
@[simp] theorem State.setFld_upd (o hi lo x : Nat) : (s.setFld o hi lo x).upd = s.upd := (rfl)
@[simp] theorem State.setFld_fpMarks (o hi lo x : Nat) : (s.setFld o hi lo x).fpMarks = s.fpMarks := (rfl)
@[simp] theorem State.setFld_linkPorts (o hi lo x : Nat) : (s.setFld o hi lo x).linkPorts = s.linkPorts := (rfl)
@[simp] theorem State.setFld_linkParties (o hi lo x : Nat) : (s.setFld o hi lo x).linkParties = s.linkParties := (rfl)
@[simp] theorem State.setFld_anchorOps (o hi lo x : Nat) : (s.setFld o hi lo x).anchorOps = s.anchorOps := (rfl)
@[simp] theorem State.setFld_loops (o hi lo x : Nat) : (s.setFld o hi lo x).loops = s.loops := (rfl)
@[simp] theorem State.setFld_sensors (o hi lo x : Nat) : (s.setFld o hi lo x).sensors = s.sensors := (rfl)
@[simp] theorem State.setFld_ocLimit (o hi lo x : Nat) : (s.setFld o hi lo x).ocLimit = s.ocLimit := (rfl)
@[simp] theorem State.setFld_pmb (o hi lo x : Nat) : (s.setFld o hi lo x).pmb = s.pmb := (rfl)
@[simp] theorem State.setFld_i3c (o hi lo x : Nat) : (s.setFld o hi lo x).i3c = s.i3c := (rfl)
@[simp] theorem State.setFld_i3cHeld (o hi lo x : Nat) : (s.setFld o hi lo x).i3cHeld = s.i3cHeld := (rfl)
@[simp] theorem State.setFld_flash (o hi lo x : Nat) : (s.setFld o hi lo x).flash = s.flash := (rfl)
@[simp] theorem State.setFld_flashOp (o hi lo x : Nat) : (s.setFld o hi lo x).flashOp = s.flashOp := (rfl)
@[simp] theorem State.setFld_boot (o hi lo x : Nat) : (s.setFld o hi lo x).boot = s.boot := (rfl)
@[simp] theorem State.setFld_sioFw (o hi lo x : Nat) : (s.setFld o hi lo x).sioFw = s.sioFw := (rfl)
@[simp] theorem State.setFld_ccFw (o hi lo x : Nat) : (s.setFld o hi lo x).ccFw = s.ccFw := (rfl)
@[simp] theorem State.setFld_priv (o hi lo x : Nat) : (s.setFld o hi lo x).priv = s.priv := (rfl)
@[simp] theorem State.setFld_session (o hi lo x : Nat) : (s.setFld o hi lo x).session = s.session := (rfl)
@[simp] theorem State.setFld_power (o hi lo x : Nat) : (s.setFld o hi lo x).power = s.power := (rfl)
@[simp] theorem State.setFld_env (o hi lo x : Nat) : (s.setFld o hi lo x).env = s.env := (rfl)
@[simp] theorem State.setFld_token (o hi lo x : Nat) : (s.setFld o hi lo x).token = s.token := (rfl)
@[simp] theorem State.setFld_needs (o hi lo x : Nat) : (s.setFld o hi lo x).needs = s.needs := (rfl)
@[simp] theorem State.setFld_outstanding (o hi lo x : Nat) : (s.setFld o hi lo x).outstanding = s.outstanding := (rfl)
@[simp] theorem State.setFld_answers (o hi lo x : Nat) : (s.setFld o hi lo x).answers = s.answers := (rfl)
@[simp] theorem State.setFld_out (o hi lo x : Nat) : (s.setFld o hi lo x).out = s.out := (rfl)
@[simp] theorem State.setFld_free (o hi lo x : Nat) : (s.setFld o hi lo x).free = s.free := (rfl)

/-! ## addFld -/

@[simp] theorem State.addFld_pending (o hi lo x : Nat) : (s.addFld o hi lo x).pending = s.pending := (rfl)
@[simp] theorem State.addFld_fuses (o hi lo x : Nat) : (s.addFld o hi lo x).fuses = s.fuses := (rfl)
@[simp] theorem State.addFld_ports (o hi lo x : Nat) : (s.addFld o hi lo x).ports = s.ports := (rfl)
@[simp] theorem State.addFld_mem (o hi lo x : Nat) : (s.addFld o hi lo x).mem = s.mem := (rfl)
@[simp] theorem State.addFld_poison (o hi lo x : Nat) : (s.addFld o hi lo x).poison = s.poison := (rfl)
@[simp] theorem State.addFld_seals (o hi lo x : Nat) : (s.addFld o hi lo x).seals = s.seals := (rfl)
@[simp] theorem State.addFld_spillSeals (o hi lo x : Nat) : (s.addFld o hi lo x).spillSeals = s.spillSeals := (rfl)
@[simp] theorem State.addFld_sealOp (o hi lo x : Nat) : (s.addFld o hi lo x).sealOp = s.sealOp := (rfl)
@[simp] theorem State.addFld_pcLate (o hi lo x : Nat) : (s.addFld o hi lo x).pcLate = s.pcLate := (rfl)
@[simp] theorem State.addFld_refMode (o hi lo x : Nat) : (s.addFld o hi lo x).refMode = s.refMode := (rfl)
@[simp] theorem State.addFld_bwRead (o hi lo x : Nat) : (s.addFld o hi lo x).bwRead = s.bwRead := (rfl)
@[simp] theorem State.addFld_ceSecond (o hi lo x : Nat) : (s.addFld o hi lo x).ceSecond = s.ceSecond := (rfl)
@[simp] theorem State.addFld_bias (o hi lo x : Nat) : (s.addFld o hi lo x).bias = s.bias := (rfl)
@[simp] theorem State.addFld_biasOp (o hi lo x : Nat) : (s.addFld o hi lo x).biasOp = s.biasOp := (rfl)
@[simp] theorem State.addFld_image (o hi lo x : Nat) : (s.addFld o hi lo x).image = s.image := (rfl)
@[simp] theorem State.addFld_loader (o hi lo x : Nat) : (s.addFld o hi lo x).loader = s.loader := (rfl)
@[simp] theorem State.addFld_queues (o hi lo x : Nat) : (s.addFld o hi lo x).queues = s.queues := (rfl)
@[simp] theorem State.addFld_anchors (o hi lo x : Nat) : (s.addFld o hi lo x).anchors = s.anchors := (rfl)
@[simp] theorem State.addFld_streams (o hi lo x : Nat) : (s.addFld o hi lo x).streams = s.streams := (rfl)
@[simp] theorem State.addFld_hosts (o hi lo x : Nat) : (s.addFld o hi lo x).hosts = s.hosts := (rfl)
@[simp] theorem State.addFld_hostHeld (o hi lo x : Nat) : (s.addFld o hi lo x).hostHeld = s.hostHeld := (rfl)
@[simp] theorem State.addFld_heldOps (o hi lo x : Nat) : (s.addFld o hi lo x).heldOps = s.heldOps := (rfl)
@[simp] theorem State.addFld_objects (o hi lo x : Nat) : (s.addFld o hi lo x).objects = s.objects := (rfl)
@[simp] theorem State.addFld_mbx (o hi lo x : Nat) : (s.addFld o hi lo x).mbx = s.mbx := (rfl)
@[simp] theorem State.addFld_log (o hi lo x : Nat) : (s.addFld o hi lo x).log = s.log := (rfl)
@[simp] theorem State.addFld_mats (o hi lo x : Nat) : (s.addFld o hi lo x).mats = s.mats := (rfl)
@[simp] theorem State.addFld_vecs (o hi lo x : Nat) : (s.addFld o hi lo x).vecs = s.vecs := (rfl)
@[simp] theorem State.addFld_attCtx (o hi lo x : Nat) : (s.addFld o hi lo x).attCtx = s.attCtx := (rfl)
@[simp] theorem State.addFld_walkers (o hi lo x : Nat) : (s.addFld o hi lo x).walkers = s.walkers := (rfl)
@[simp] theorem State.addFld_ccReqs (o hi lo x : Nat) : (s.addFld o hi lo x).ccReqs = s.ccReqs := (rfl)
@[simp] theorem State.addFld_kvPools (o hi lo x : Nat) : (s.addFld o hi lo x).kvPools = s.kvPools := (rfl)
@[simp] theorem State.addFld_hauls (o hi lo x : Nat) : (s.addFld o hi lo x).hauls = s.hauls := (rfl)
@[simp] theorem State.addFld_credits (o hi lo x : Nat) : (s.addFld o hi lo x).credits = s.credits := (rfl)
@[simp] theorem State.addFld_upd (o hi lo x : Nat) : (s.addFld o hi lo x).upd = s.upd := (rfl)
@[simp] theorem State.addFld_fpMarks (o hi lo x : Nat) : (s.addFld o hi lo x).fpMarks = s.fpMarks := (rfl)
@[simp] theorem State.addFld_linkPorts (o hi lo x : Nat) : (s.addFld o hi lo x).linkPorts = s.linkPorts := (rfl)
@[simp] theorem State.addFld_linkParties (o hi lo x : Nat) : (s.addFld o hi lo x).linkParties = s.linkParties := (rfl)
@[simp] theorem State.addFld_anchorOps (o hi lo x : Nat) : (s.addFld o hi lo x).anchorOps = s.anchorOps := (rfl)
@[simp] theorem State.addFld_loops (o hi lo x : Nat) : (s.addFld o hi lo x).loops = s.loops := (rfl)
@[simp] theorem State.addFld_sensors (o hi lo x : Nat) : (s.addFld o hi lo x).sensors = s.sensors := (rfl)
@[simp] theorem State.addFld_ocLimit (o hi lo x : Nat) : (s.addFld o hi lo x).ocLimit = s.ocLimit := (rfl)
@[simp] theorem State.addFld_pmb (o hi lo x : Nat) : (s.addFld o hi lo x).pmb = s.pmb := (rfl)
@[simp] theorem State.addFld_i3c (o hi lo x : Nat) : (s.addFld o hi lo x).i3c = s.i3c := (rfl)
@[simp] theorem State.addFld_i3cHeld (o hi lo x : Nat) : (s.addFld o hi lo x).i3cHeld = s.i3cHeld := (rfl)
@[simp] theorem State.addFld_flash (o hi lo x : Nat) : (s.addFld o hi lo x).flash = s.flash := (rfl)
@[simp] theorem State.addFld_flashOp (o hi lo x : Nat) : (s.addFld o hi lo x).flashOp = s.flashOp := (rfl)
@[simp] theorem State.addFld_boot (o hi lo x : Nat) : (s.addFld o hi lo x).boot = s.boot := (rfl)
@[simp] theorem State.addFld_sioFw (o hi lo x : Nat) : (s.addFld o hi lo x).sioFw = s.sioFw := (rfl)
@[simp] theorem State.addFld_ccFw (o hi lo x : Nat) : (s.addFld o hi lo x).ccFw = s.ccFw := (rfl)
@[simp] theorem State.addFld_priv (o hi lo x : Nat) : (s.addFld o hi lo x).priv = s.priv := (rfl)
@[simp] theorem State.addFld_session (o hi lo x : Nat) : (s.addFld o hi lo x).session = s.session := (rfl)
@[simp] theorem State.addFld_power (o hi lo x : Nat) : (s.addFld o hi lo x).power = s.power := (rfl)
@[simp] theorem State.addFld_env (o hi lo x : Nat) : (s.addFld o hi lo x).env = s.env := (rfl)
@[simp] theorem State.addFld_token (o hi lo x : Nat) : (s.addFld o hi lo x).token = s.token := (rfl)
@[simp] theorem State.addFld_needs (o hi lo x : Nat) : (s.addFld o hi lo x).needs = s.needs := (rfl)
@[simp] theorem State.addFld_outstanding (o hi lo x : Nat) : (s.addFld o hi lo x).outstanding = s.outstanding := (rfl)
@[simp] theorem State.addFld_answers (o hi lo x : Nat) : (s.addFld o hi lo x).answers = s.answers := (rfl)
@[simp] theorem State.addFld_out (o hi lo x : Nat) : (s.addFld o hi lo x).out = s.out := (rfl)
@[simp] theorem State.addFld_free (o hi lo x : Nat) : (s.addFld o hi lo x).free = s.free := (rfl)

/-! ## count -/

@[simp] theorem State.count_pending (o x : Nat) : (s.count o x).pending = s.pending := (rfl)
@[simp] theorem State.count_fuses (o x : Nat) : (s.count o x).fuses = s.fuses := (rfl)
@[simp] theorem State.count_ports (o x : Nat) : (s.count o x).ports = s.ports := (rfl)
@[simp] theorem State.count_mem (o x : Nat) : (s.count o x).mem = s.mem := (rfl)
@[simp] theorem State.count_poison (o x : Nat) : (s.count o x).poison = s.poison := (rfl)
@[simp] theorem State.count_seals (o x : Nat) : (s.count o x).seals = s.seals := (rfl)
@[simp] theorem State.count_spillSeals (o x : Nat) : (s.count o x).spillSeals = s.spillSeals := (rfl)
@[simp] theorem State.count_sealOp (o x : Nat) : (s.count o x).sealOp = s.sealOp := (rfl)
@[simp] theorem State.count_pcLate (o x : Nat) : (s.count o x).pcLate = s.pcLate := (rfl)
@[simp] theorem State.count_refMode (o x : Nat) : (s.count o x).refMode = s.refMode := (rfl)
@[simp] theorem State.count_bwRead (o x : Nat) : (s.count o x).bwRead = s.bwRead := (rfl)
@[simp] theorem State.count_ceSecond (o x : Nat) : (s.count o x).ceSecond = s.ceSecond := (rfl)
@[simp] theorem State.count_bias (o x : Nat) : (s.count o x).bias = s.bias := (rfl)
@[simp] theorem State.count_biasOp (o x : Nat) : (s.count o x).biasOp = s.biasOp := (rfl)
@[simp] theorem State.count_image (o x : Nat) : (s.count o x).image = s.image := (rfl)
@[simp] theorem State.count_loader (o x : Nat) : (s.count o x).loader = s.loader := (rfl)
@[simp] theorem State.count_queues (o x : Nat) : (s.count o x).queues = s.queues := (rfl)
@[simp] theorem State.count_anchors (o x : Nat) : (s.count o x).anchors = s.anchors := (rfl)
@[simp] theorem State.count_streams (o x : Nat) : (s.count o x).streams = s.streams := (rfl)
@[simp] theorem State.count_hosts (o x : Nat) : (s.count o x).hosts = s.hosts := (rfl)
@[simp] theorem State.count_hostHeld (o x : Nat) : (s.count o x).hostHeld = s.hostHeld := (rfl)
@[simp] theorem State.count_heldOps (o x : Nat) : (s.count o x).heldOps = s.heldOps := (rfl)
@[simp] theorem State.count_objects (o x : Nat) : (s.count o x).objects = s.objects := (rfl)
@[simp] theorem State.count_mbx (o x : Nat) : (s.count o x).mbx = s.mbx := (rfl)
@[simp] theorem State.count_log (o x : Nat) : (s.count o x).log = s.log := (rfl)
@[simp] theorem State.count_mats (o x : Nat) : (s.count o x).mats = s.mats := (rfl)
@[simp] theorem State.count_vecs (o x : Nat) : (s.count o x).vecs = s.vecs := (rfl)
@[simp] theorem State.count_attCtx (o x : Nat) : (s.count o x).attCtx = s.attCtx := (rfl)
@[simp] theorem State.count_walkers (o x : Nat) : (s.count o x).walkers = s.walkers := (rfl)
@[simp] theorem State.count_ccReqs (o x : Nat) : (s.count o x).ccReqs = s.ccReqs := (rfl)
@[simp] theorem State.count_kvPools (o x : Nat) : (s.count o x).kvPools = s.kvPools := (rfl)
@[simp] theorem State.count_hauls (o x : Nat) : (s.count o x).hauls = s.hauls := (rfl)
@[simp] theorem State.count_credits (o x : Nat) : (s.count o x).credits = s.credits := (rfl)
@[simp] theorem State.count_upd (o x : Nat) : (s.count o x).upd = s.upd := (rfl)
@[simp] theorem State.count_fpMarks (o x : Nat) : (s.count o x).fpMarks = s.fpMarks := (rfl)
@[simp] theorem State.count_linkPorts (o x : Nat) : (s.count o x).linkPorts = s.linkPorts := (rfl)
@[simp] theorem State.count_linkParties (o x : Nat) : (s.count o x).linkParties = s.linkParties := (rfl)
@[simp] theorem State.count_anchorOps (o x : Nat) : (s.count o x).anchorOps = s.anchorOps := (rfl)
@[simp] theorem State.count_loops (o x : Nat) : (s.count o x).loops = s.loops := (rfl)
@[simp] theorem State.count_sensors (o x : Nat) : (s.count o x).sensors = s.sensors := (rfl)
@[simp] theorem State.count_ocLimit (o x : Nat) : (s.count o x).ocLimit = s.ocLimit := (rfl)
@[simp] theorem State.count_pmb (o x : Nat) : (s.count o x).pmb = s.pmb := (rfl)
@[simp] theorem State.count_i3c (o x : Nat) : (s.count o x).i3c = s.i3c := (rfl)
@[simp] theorem State.count_i3cHeld (o x : Nat) : (s.count o x).i3cHeld = s.i3cHeld := (rfl)
@[simp] theorem State.count_flash (o x : Nat) : (s.count o x).flash = s.flash := (rfl)
@[simp] theorem State.count_flashOp (o x : Nat) : (s.count o x).flashOp = s.flashOp := (rfl)
@[simp] theorem State.count_boot (o x : Nat) : (s.count o x).boot = s.boot := (rfl)
@[simp] theorem State.count_sioFw (o x : Nat) : (s.count o x).sioFw = s.sioFw := (rfl)
@[simp] theorem State.count_ccFw (o x : Nat) : (s.count o x).ccFw = s.ccFw := (rfl)
@[simp] theorem State.count_priv (o x : Nat) : (s.count o x).priv = s.priv := (rfl)
@[simp] theorem State.count_session (o x : Nat) : (s.count o x).session = s.session := (rfl)
@[simp] theorem State.count_power (o x : Nat) : (s.count o x).power = s.power := (rfl)
@[simp] theorem State.count_env (o x : Nat) : (s.count o x).env = s.env := (rfl)
@[simp] theorem State.count_token (o x : Nat) : (s.count o x).token = s.token := (rfl)
@[simp] theorem State.count_needs (o x : Nat) : (s.count o x).needs = s.needs := (rfl)
@[simp] theorem State.count_outstanding (o x : Nat) : (s.count o x).outstanding = s.outstanding := (rfl)
@[simp] theorem State.count_answers (o x : Nat) : (s.count o x).answers = s.answers := (rfl)
@[simp] theorem State.count_out (o x : Nat) : (s.count o x).out = s.out := (rfl)
@[simp] theorem State.count_free (o x : Nat) : (s.count o x).free = s.free := (rfl)

/-! ## raise -/

@[simp] theorem State.raise_pending (o i c lo : Nat) : (s.raise o i c lo).pending = s.pending := (rfl)
@[simp] theorem State.raise_fuses (o i c lo : Nat) : (s.raise o i c lo).fuses = s.fuses := (rfl)
@[simp] theorem State.raise_ports (o i c lo : Nat) : (s.raise o i c lo).ports = s.ports := (rfl)
@[simp] theorem State.raise_mem (o i c lo : Nat) : (s.raise o i c lo).mem = s.mem := (rfl)
@[simp] theorem State.raise_poison (o i c lo : Nat) : (s.raise o i c lo).poison = s.poison := (rfl)
@[simp] theorem State.raise_seals (o i c lo : Nat) : (s.raise o i c lo).seals = s.seals := (rfl)
@[simp] theorem State.raise_spillSeals (o i c lo : Nat) : (s.raise o i c lo).spillSeals = s.spillSeals := (rfl)
@[simp] theorem State.raise_sealOp (o i c lo : Nat) : (s.raise o i c lo).sealOp = s.sealOp := (rfl)
@[simp] theorem State.raise_pcLate (o i c lo : Nat) : (s.raise o i c lo).pcLate = s.pcLate := (rfl)
@[simp] theorem State.raise_refMode (o i c lo : Nat) : (s.raise o i c lo).refMode = s.refMode := (rfl)
@[simp] theorem State.raise_bwRead (o i c lo : Nat) : (s.raise o i c lo).bwRead = s.bwRead := (rfl)
@[simp] theorem State.raise_ceSecond (o i c lo : Nat) : (s.raise o i c lo).ceSecond = s.ceSecond := (rfl)
@[simp] theorem State.raise_bias (o i c lo : Nat) : (s.raise o i c lo).bias = s.bias := (rfl)
@[simp] theorem State.raise_biasOp (o i c lo : Nat) : (s.raise o i c lo).biasOp = s.biasOp := (rfl)
@[simp] theorem State.raise_image (o i c lo : Nat) : (s.raise o i c lo).image = s.image := (rfl)
@[simp] theorem State.raise_loader (o i c lo : Nat) : (s.raise o i c lo).loader = s.loader := (rfl)
@[simp] theorem State.raise_queues (o i c lo : Nat) : (s.raise o i c lo).queues = s.queues := (rfl)
@[simp] theorem State.raise_anchors (o i c lo : Nat) : (s.raise o i c lo).anchors = s.anchors := (rfl)
@[simp] theorem State.raise_streams (o i c lo : Nat) : (s.raise o i c lo).streams = s.streams := (rfl)
@[simp] theorem State.raise_hosts (o i c lo : Nat) : (s.raise o i c lo).hosts = s.hosts := (rfl)
@[simp] theorem State.raise_hostHeld (o i c lo : Nat) : (s.raise o i c lo).hostHeld = s.hostHeld := (rfl)
@[simp] theorem State.raise_heldOps (o i c lo : Nat) : (s.raise o i c lo).heldOps = s.heldOps := (rfl)
@[simp] theorem State.raise_objects (o i c lo : Nat) : (s.raise o i c lo).objects = s.objects := (rfl)
@[simp] theorem State.raise_mbx (o i c lo : Nat) : (s.raise o i c lo).mbx = s.mbx := (rfl)
@[simp] theorem State.raise_log (o i c lo : Nat) : (s.raise o i c lo).log = s.log := (rfl)
@[simp] theorem State.raise_mats (o i c lo : Nat) : (s.raise o i c lo).mats = s.mats := (rfl)
@[simp] theorem State.raise_vecs (o i c lo : Nat) : (s.raise o i c lo).vecs = s.vecs := (rfl)
@[simp] theorem State.raise_attCtx (o i c lo : Nat) : (s.raise o i c lo).attCtx = s.attCtx := (rfl)
@[simp] theorem State.raise_walkers (o i c lo : Nat) : (s.raise o i c lo).walkers = s.walkers := (rfl)
@[simp] theorem State.raise_ccReqs (o i c lo : Nat) : (s.raise o i c lo).ccReqs = s.ccReqs := (rfl)
@[simp] theorem State.raise_kvPools (o i c lo : Nat) : (s.raise o i c lo).kvPools = s.kvPools := (rfl)
@[simp] theorem State.raise_hauls (o i c lo : Nat) : (s.raise o i c lo).hauls = s.hauls := (rfl)
@[simp] theorem State.raise_credits (o i c lo : Nat) : (s.raise o i c lo).credits = s.credits := (rfl)
@[simp] theorem State.raise_upd (o i c lo : Nat) : (s.raise o i c lo).upd = s.upd := (rfl)
@[simp] theorem State.raise_fpMarks (o i c lo : Nat) : (s.raise o i c lo).fpMarks = s.fpMarks := (rfl)
@[simp] theorem State.raise_linkPorts (o i c lo : Nat) : (s.raise o i c lo).linkPorts = s.linkPorts := (rfl)
@[simp] theorem State.raise_linkParties (o i c lo : Nat) : (s.raise o i c lo).linkParties = s.linkParties := (rfl)
@[simp] theorem State.raise_anchorOps (o i c lo : Nat) : (s.raise o i c lo).anchorOps = s.anchorOps := (rfl)
@[simp] theorem State.raise_loops (o i c lo : Nat) : (s.raise o i c lo).loops = s.loops := (rfl)
@[simp] theorem State.raise_sensors (o i c lo : Nat) : (s.raise o i c lo).sensors = s.sensors := (rfl)
@[simp] theorem State.raise_ocLimit (o i c lo : Nat) : (s.raise o i c lo).ocLimit = s.ocLimit := (rfl)
@[simp] theorem State.raise_pmb (o i c lo : Nat) : (s.raise o i c lo).pmb = s.pmb := (rfl)
@[simp] theorem State.raise_i3c (o i c lo : Nat) : (s.raise o i c lo).i3c = s.i3c := (rfl)
@[simp] theorem State.raise_i3cHeld (o i c lo : Nat) : (s.raise o i c lo).i3cHeld = s.i3cHeld := (rfl)
@[simp] theorem State.raise_flash (o i c lo : Nat) : (s.raise o i c lo).flash = s.flash := (rfl)
@[simp] theorem State.raise_flashOp (o i c lo : Nat) : (s.raise o i c lo).flashOp = s.flashOp := (rfl)
@[simp] theorem State.raise_boot (o i c lo : Nat) : (s.raise o i c lo).boot = s.boot := (rfl)
@[simp] theorem State.raise_sioFw (o i c lo : Nat) : (s.raise o i c lo).sioFw = s.sioFw := (rfl)
@[simp] theorem State.raise_ccFw (o i c lo : Nat) : (s.raise o i c lo).ccFw = s.ccFw := (rfl)
@[simp] theorem State.raise_priv (o i c lo : Nat) : (s.raise o i c lo).priv = s.priv := (rfl)
@[simp] theorem State.raise_session (o i c lo : Nat) : (s.raise o i c lo).session = s.session := (rfl)
@[simp] theorem State.raise_power (o i c lo : Nat) : (s.raise o i c lo).power = s.power := (rfl)
@[simp] theorem State.raise_env (o i c lo : Nat) : (s.raise o i c lo).env = s.env := (rfl)
@[simp] theorem State.raise_token (o i c lo : Nat) : (s.raise o i c lo).token = s.token := (rfl)
@[simp] theorem State.raise_needs (o i c lo : Nat) : (s.raise o i c lo).needs = s.needs := (rfl)
@[simp] theorem State.raise_outstanding (o i c lo : Nat) : (s.raise o i c lo).outstanding = s.outstanding := (rfl)
@[simp] theorem State.raise_answers (o i c lo : Nat) : (s.raise o i c lo).answers = s.answers := (rfl)
@[simp] theorem State.raise_out (o i c lo : Nat) : (s.raise o i c lo).out = s.out := (rfl)
@[simp] theorem State.raise_free (o i c lo : Nat) : (s.raise o i c lo).free = s.free := (rfl)

/-! ## emit -/

@[simp] theorem State.emit_pending (x : Out) : (s.emit x).pending = s.pending := (rfl)
@[simp] theorem State.emit_fuses (x : Out) : (s.emit x).fuses = s.fuses := (rfl)
@[simp] theorem State.emit_regs (x : Out) : (s.emit x).regs = s.regs := (rfl)
@[simp] theorem State.emit_ports (x : Out) : (s.emit x).ports = s.ports := (rfl)
@[simp] theorem State.emit_mem (x : Out) : (s.emit x).mem = s.mem := (rfl)
@[simp] theorem State.emit_poison (x : Out) : (s.emit x).poison = s.poison := (rfl)
@[simp] theorem State.emit_seals (x : Out) : (s.emit x).seals = s.seals := (rfl)
@[simp] theorem State.emit_spillSeals (x : Out) : (s.emit x).spillSeals = s.spillSeals := (rfl)
@[simp] theorem State.emit_sealOp (x : Out) : (s.emit x).sealOp = s.sealOp := (rfl)
@[simp] theorem State.emit_pcLate (x : Out) : (s.emit x).pcLate = s.pcLate := (rfl)
@[simp] theorem State.emit_refMode (x : Out) : (s.emit x).refMode = s.refMode := (rfl)
@[simp] theorem State.emit_bwRead (x : Out) : (s.emit x).bwRead = s.bwRead := (rfl)
@[simp] theorem State.emit_ceSecond (x : Out) : (s.emit x).ceSecond = s.ceSecond := (rfl)
@[simp] theorem State.emit_bias (x : Out) : (s.emit x).bias = s.bias := (rfl)
@[simp] theorem State.emit_biasOp (x : Out) : (s.emit x).biasOp = s.biasOp := (rfl)
@[simp] theorem State.emit_image (x : Out) : (s.emit x).image = s.image := (rfl)
@[simp] theorem State.emit_loader (x : Out) : (s.emit x).loader = s.loader := (rfl)
@[simp] theorem State.emit_queues (x : Out) : (s.emit x).queues = s.queues := (rfl)
@[simp] theorem State.emit_anchors (x : Out) : (s.emit x).anchors = s.anchors := (rfl)
@[simp] theorem State.emit_streams (x : Out) : (s.emit x).streams = s.streams := (rfl)
@[simp] theorem State.emit_hosts (x : Out) : (s.emit x).hosts = s.hosts := (rfl)
@[simp] theorem State.emit_hostHeld (x : Out) : (s.emit x).hostHeld = s.hostHeld := (rfl)
@[simp] theorem State.emit_heldOps (x : Out) : (s.emit x).heldOps = s.heldOps := (rfl)
@[simp] theorem State.emit_objects (x : Out) : (s.emit x).objects = s.objects := (rfl)
@[simp] theorem State.emit_mbx (x : Out) : (s.emit x).mbx = s.mbx := (rfl)
@[simp] theorem State.emit_log (x : Out) : (s.emit x).log = s.log := (rfl)
@[simp] theorem State.emit_mats (x : Out) : (s.emit x).mats = s.mats := (rfl)
@[simp] theorem State.emit_vecs (x : Out) : (s.emit x).vecs = s.vecs := (rfl)
@[simp] theorem State.emit_attCtx (x : Out) : (s.emit x).attCtx = s.attCtx := (rfl)
@[simp] theorem State.emit_walkers (x : Out) : (s.emit x).walkers = s.walkers := (rfl)
@[simp] theorem State.emit_ccReqs (x : Out) : (s.emit x).ccReqs = s.ccReqs := (rfl)
@[simp] theorem State.emit_kvPools (x : Out) : (s.emit x).kvPools = s.kvPools := (rfl)
@[simp] theorem State.emit_hauls (x : Out) : (s.emit x).hauls = s.hauls := (rfl)
@[simp] theorem State.emit_credits (x : Out) : (s.emit x).credits = s.credits := (rfl)
@[simp] theorem State.emit_upd (x : Out) : (s.emit x).upd = s.upd := (rfl)
@[simp] theorem State.emit_fpMarks (x : Out) : (s.emit x).fpMarks = s.fpMarks := (rfl)
@[simp] theorem State.emit_linkPorts (x : Out) : (s.emit x).linkPorts = s.linkPorts := (rfl)
@[simp] theorem State.emit_linkParties (x : Out) : (s.emit x).linkParties = s.linkParties := (rfl)
@[simp] theorem State.emit_anchorOps (x : Out) : (s.emit x).anchorOps = s.anchorOps := (rfl)
@[simp] theorem State.emit_loops (x : Out) : (s.emit x).loops = s.loops := (rfl)
@[simp] theorem State.emit_sensors (x : Out) : (s.emit x).sensors = s.sensors := (rfl)
@[simp] theorem State.emit_ocLimit (x : Out) : (s.emit x).ocLimit = s.ocLimit := (rfl)
@[simp] theorem State.emit_pmb (x : Out) : (s.emit x).pmb = s.pmb := (rfl)
@[simp] theorem State.emit_i3c (x : Out) : (s.emit x).i3c = s.i3c := (rfl)
@[simp] theorem State.emit_i3cHeld (x : Out) : (s.emit x).i3cHeld = s.i3cHeld := (rfl)
@[simp] theorem State.emit_flash (x : Out) : (s.emit x).flash = s.flash := (rfl)
@[simp] theorem State.emit_flashOp (x : Out) : (s.emit x).flashOp = s.flashOp := (rfl)
@[simp] theorem State.emit_boot (x : Out) : (s.emit x).boot = s.boot := (rfl)
@[simp] theorem State.emit_sioFw (x : Out) : (s.emit x).sioFw = s.sioFw := (rfl)
@[simp] theorem State.emit_ccFw (x : Out) : (s.emit x).ccFw = s.ccFw := (rfl)
@[simp] theorem State.emit_priv (x : Out) : (s.emit x).priv = s.priv := (rfl)
@[simp] theorem State.emit_session (x : Out) : (s.emit x).session = s.session := (rfl)
@[simp] theorem State.emit_power (x : Out) : (s.emit x).power = s.power := (rfl)
@[simp] theorem State.emit_env (x : Out) : (s.emit x).env = s.env := (rfl)
@[simp] theorem State.emit_token (x : Out) : (s.emit x).token = s.token := (rfl)
@[simp] theorem State.emit_needs (x : Out) : (s.emit x).needs = s.needs := (rfl)
@[simp] theorem State.emit_outstanding (x : Out) : (s.emit x).outstanding = s.outstanding := (rfl)
@[simp] theorem State.emit_answers (x : Out) : (s.emit x).answers = s.answers := (rfl)
@[simp] theorem State.emit_free (x : Out) : (s.emit x).free = s.free := (rfl)

/-! ## setPort -/

@[simp] theorem State.setPort_pending (w : Requester) (p : Port) : (s.setPort w p).pending = s.pending := (rfl)
@[simp] theorem State.setPort_fuses (w : Requester) (p : Port) : (s.setPort w p).fuses = s.fuses := (rfl)
@[simp] theorem State.setPort_regs (w : Requester) (p : Port) : (s.setPort w p).regs = s.regs := (rfl)
@[simp] theorem State.setPort_mem (w : Requester) (p : Port) : (s.setPort w p).mem = s.mem := (rfl)
@[simp] theorem State.setPort_poison (w : Requester) (p : Port) : (s.setPort w p).poison = s.poison := (rfl)
@[simp] theorem State.setPort_seals (w : Requester) (p : Port) : (s.setPort w p).seals = s.seals := (rfl)
@[simp] theorem State.setPort_spillSeals (w : Requester) (p : Port) : (s.setPort w p).spillSeals = s.spillSeals := (rfl)
@[simp] theorem State.setPort_sealOp (w : Requester) (p : Port) : (s.setPort w p).sealOp = s.sealOp := (rfl)
@[simp] theorem State.setPort_pcLate (w : Requester) (p : Port) : (s.setPort w p).pcLate = s.pcLate := (rfl)
@[simp] theorem State.setPort_refMode (w : Requester) (p : Port) : (s.setPort w p).refMode = s.refMode := (rfl)
@[simp] theorem State.setPort_bwRead (w : Requester) (p : Port) : (s.setPort w p).bwRead = s.bwRead := (rfl)
@[simp] theorem State.setPort_ceSecond (w : Requester) (p : Port) : (s.setPort w p).ceSecond = s.ceSecond := (rfl)
@[simp] theorem State.setPort_bias (w : Requester) (p : Port) : (s.setPort w p).bias = s.bias := (rfl)
@[simp] theorem State.setPort_biasOp (w : Requester) (p : Port) : (s.setPort w p).biasOp = s.biasOp := (rfl)
@[simp] theorem State.setPort_image (w : Requester) (p : Port) : (s.setPort w p).image = s.image := (rfl)
@[simp] theorem State.setPort_loader (w : Requester) (p : Port) : (s.setPort w p).loader = s.loader := (rfl)
@[simp] theorem State.setPort_queues (w : Requester) (p : Port) : (s.setPort w p).queues = s.queues := (rfl)
@[simp] theorem State.setPort_anchors (w : Requester) (p : Port) : (s.setPort w p).anchors = s.anchors := (rfl)
@[simp] theorem State.setPort_streams (w : Requester) (p : Port) : (s.setPort w p).streams = s.streams := (rfl)
@[simp] theorem State.setPort_hosts (w : Requester) (p : Port) : (s.setPort w p).hosts = s.hosts := (rfl)
@[simp] theorem State.setPort_hostHeld (w : Requester) (p : Port) : (s.setPort w p).hostHeld = s.hostHeld := (rfl)
@[simp] theorem State.setPort_heldOps (w : Requester) (p : Port) : (s.setPort w p).heldOps = s.heldOps := (rfl)
@[simp] theorem State.setPort_objects (w : Requester) (p : Port) : (s.setPort w p).objects = s.objects := (rfl)
@[simp] theorem State.setPort_mbx (w : Requester) (p : Port) : (s.setPort w p).mbx = s.mbx := (rfl)
@[simp] theorem State.setPort_log (w : Requester) (p : Port) : (s.setPort w p).log = s.log := (rfl)
@[simp] theorem State.setPort_mats (w : Requester) (p : Port) : (s.setPort w p).mats = s.mats := (rfl)
@[simp] theorem State.setPort_vecs (w : Requester) (p : Port) : (s.setPort w p).vecs = s.vecs := (rfl)
@[simp] theorem State.setPort_attCtx (w : Requester) (p : Port) : (s.setPort w p).attCtx = s.attCtx := (rfl)
@[simp] theorem State.setPort_walkers (w : Requester) (p : Port) : (s.setPort w p).walkers = s.walkers := (rfl)
@[simp] theorem State.setPort_ccReqs (w : Requester) (p : Port) : (s.setPort w p).ccReqs = s.ccReqs := (rfl)
@[simp] theorem State.setPort_kvPools (w : Requester) (p : Port) : (s.setPort w p).kvPools = s.kvPools := (rfl)
@[simp] theorem State.setPort_hauls (w : Requester) (p : Port) : (s.setPort w p).hauls = s.hauls := (rfl)
@[simp] theorem State.setPort_credits (w : Requester) (p : Port) : (s.setPort w p).credits = s.credits := (rfl)
@[simp] theorem State.setPort_upd (w : Requester) (p : Port) : (s.setPort w p).upd = s.upd := (rfl)
@[simp] theorem State.setPort_fpMarks (w : Requester) (p : Port) : (s.setPort w p).fpMarks = s.fpMarks := (rfl)
@[simp] theorem State.setPort_linkPorts (w : Requester) (p : Port) : (s.setPort w p).linkPorts = s.linkPorts := (rfl)
@[simp] theorem State.setPort_linkParties (w : Requester) (p : Port) : (s.setPort w p).linkParties = s.linkParties := (rfl)
@[simp] theorem State.setPort_anchorOps (w : Requester) (p : Port) : (s.setPort w p).anchorOps = s.anchorOps := (rfl)
@[simp] theorem State.setPort_loops (w : Requester) (p : Port) : (s.setPort w p).loops = s.loops := (rfl)
@[simp] theorem State.setPort_sensors (w : Requester) (p : Port) : (s.setPort w p).sensors = s.sensors := (rfl)
@[simp] theorem State.setPort_ocLimit (w : Requester) (p : Port) : (s.setPort w p).ocLimit = s.ocLimit := (rfl)
@[simp] theorem State.setPort_pmb (w : Requester) (p : Port) : (s.setPort w p).pmb = s.pmb := (rfl)
@[simp] theorem State.setPort_i3c (w : Requester) (p : Port) : (s.setPort w p).i3c = s.i3c := (rfl)
@[simp] theorem State.setPort_i3cHeld (w : Requester) (p : Port) : (s.setPort w p).i3cHeld = s.i3cHeld := (rfl)
@[simp] theorem State.setPort_flash (w : Requester) (p : Port) : (s.setPort w p).flash = s.flash := (rfl)
@[simp] theorem State.setPort_flashOp (w : Requester) (p : Port) : (s.setPort w p).flashOp = s.flashOp := (rfl)
@[simp] theorem State.setPort_boot (w : Requester) (p : Port) : (s.setPort w p).boot = s.boot := (rfl)
@[simp] theorem State.setPort_sioFw (w : Requester) (p : Port) : (s.setPort w p).sioFw = s.sioFw := (rfl)
@[simp] theorem State.setPort_ccFw (w : Requester) (p : Port) : (s.setPort w p).ccFw = s.ccFw := (rfl)
@[simp] theorem State.setPort_priv (w : Requester) (p : Port) : (s.setPort w p).priv = s.priv := (rfl)
@[simp] theorem State.setPort_session (w : Requester) (p : Port) : (s.setPort w p).session = s.session := (rfl)
@[simp] theorem State.setPort_power (w : Requester) (p : Port) : (s.setPort w p).power = s.power := (rfl)
@[simp] theorem State.setPort_env (w : Requester) (p : Port) : (s.setPort w p).env = s.env := (rfl)
@[simp] theorem State.setPort_token (w : Requester) (p : Port) : (s.setPort w p).token = s.token := (rfl)
@[simp] theorem State.setPort_needs (w : Requester) (p : Port) : (s.setPort w p).needs = s.needs := (rfl)
@[simp] theorem State.setPort_outstanding (w : Requester) (p : Port) : (s.setPort w p).outstanding = s.outstanding := (rfl)
@[simp] theorem State.setPort_answers (w : Requester) (p : Port) : (s.setPort w p).answers = s.answers := (rfl)
@[simp] theorem State.setPort_out (w : Requester) (p : Port) : (s.setPort w p).out = s.out := (rfl)
@[simp] theorem State.setPort_free (w : Requester) (p : Port) : (s.setPort w p).free = s.free := (rfl)

/-! ## setQueue -/

@[simp] theorem State.setQueue_pending (q : Nat) (x : Queue) : (s.setQueue q x).pending = s.pending := (rfl)
@[simp] theorem State.setQueue_fuses (q : Nat) (x : Queue) : (s.setQueue q x).fuses = s.fuses := (rfl)
@[simp] theorem State.setQueue_regs (q : Nat) (x : Queue) : (s.setQueue q x).regs = s.regs := (rfl)
@[simp] theorem State.setQueue_ports (q : Nat) (x : Queue) : (s.setQueue q x).ports = s.ports := (rfl)
@[simp] theorem State.setQueue_mem (q : Nat) (x : Queue) : (s.setQueue q x).mem = s.mem := (rfl)
@[simp] theorem State.setQueue_poison (q : Nat) (x : Queue) : (s.setQueue q x).poison = s.poison := (rfl)
@[simp] theorem State.setQueue_seals (q : Nat) (x : Queue) : (s.setQueue q x).seals = s.seals := (rfl)
@[simp] theorem State.setQueue_spillSeals (q : Nat) (x : Queue) : (s.setQueue q x).spillSeals = s.spillSeals := (rfl)
@[simp] theorem State.setQueue_sealOp (q : Nat) (x : Queue) : (s.setQueue q x).sealOp = s.sealOp := (rfl)
@[simp] theorem State.setQueue_pcLate (q : Nat) (x : Queue) : (s.setQueue q x).pcLate = s.pcLate := (rfl)
@[simp] theorem State.setQueue_refMode (q : Nat) (x : Queue) : (s.setQueue q x).refMode = s.refMode := (rfl)
@[simp] theorem State.setQueue_bwRead (q : Nat) (x : Queue) : (s.setQueue q x).bwRead = s.bwRead := (rfl)
@[simp] theorem State.setQueue_ceSecond (q : Nat) (x : Queue) : (s.setQueue q x).ceSecond = s.ceSecond := (rfl)
@[simp] theorem State.setQueue_bias (q : Nat) (x : Queue) : (s.setQueue q x).bias = s.bias := (rfl)
@[simp] theorem State.setQueue_biasOp (q : Nat) (x : Queue) : (s.setQueue q x).biasOp = s.biasOp := (rfl)
@[simp] theorem State.setQueue_image (q : Nat) (x : Queue) : (s.setQueue q x).image = s.image := (rfl)
@[simp] theorem State.setQueue_loader (q : Nat) (x : Queue) : (s.setQueue q x).loader = s.loader := (rfl)
@[simp] theorem State.setQueue_anchors (q : Nat) (x : Queue) : (s.setQueue q x).anchors = s.anchors := (rfl)
@[simp] theorem State.setQueue_streams (q : Nat) (x : Queue) : (s.setQueue q x).streams = s.streams := (rfl)
@[simp] theorem State.setQueue_hosts (q : Nat) (x : Queue) : (s.setQueue q x).hosts = s.hosts := (rfl)
@[simp] theorem State.setQueue_hostHeld (q : Nat) (x : Queue) : (s.setQueue q x).hostHeld = s.hostHeld := (rfl)
@[simp] theorem State.setQueue_heldOps (q : Nat) (x : Queue) : (s.setQueue q x).heldOps = s.heldOps := (rfl)
@[simp] theorem State.setQueue_objects (q : Nat) (x : Queue) : (s.setQueue q x).objects = s.objects := (rfl)
@[simp] theorem State.setQueue_mbx (q : Nat) (x : Queue) : (s.setQueue q x).mbx = s.mbx := (rfl)
@[simp] theorem State.setQueue_log (q : Nat) (x : Queue) : (s.setQueue q x).log = s.log := (rfl)
@[simp] theorem State.setQueue_mats (q : Nat) (x : Queue) : (s.setQueue q x).mats = s.mats := (rfl)
@[simp] theorem State.setQueue_vecs (q : Nat) (x : Queue) : (s.setQueue q x).vecs = s.vecs := (rfl)
@[simp] theorem State.setQueue_attCtx (q : Nat) (x : Queue) : (s.setQueue q x).attCtx = s.attCtx := (rfl)
@[simp] theorem State.setQueue_walkers (q : Nat) (x : Queue) : (s.setQueue q x).walkers = s.walkers := (rfl)
@[simp] theorem State.setQueue_ccReqs (q : Nat) (x : Queue) : (s.setQueue q x).ccReqs = s.ccReqs := (rfl)
@[simp] theorem State.setQueue_kvPools (q : Nat) (x : Queue) : (s.setQueue q x).kvPools = s.kvPools := (rfl)
@[simp] theorem State.setQueue_hauls (q : Nat) (x : Queue) : (s.setQueue q x).hauls = s.hauls := (rfl)
@[simp] theorem State.setQueue_credits (q : Nat) (x : Queue) : (s.setQueue q x).credits = s.credits := (rfl)
@[simp] theorem State.setQueue_upd (q : Nat) (x : Queue) : (s.setQueue q x).upd = s.upd := (rfl)
@[simp] theorem State.setQueue_fpMarks (q : Nat) (x : Queue) : (s.setQueue q x).fpMarks = s.fpMarks := (rfl)
@[simp] theorem State.setQueue_linkPorts (q : Nat) (x : Queue) : (s.setQueue q x).linkPorts = s.linkPorts := (rfl)
@[simp] theorem State.setQueue_linkParties (q : Nat) (x : Queue) : (s.setQueue q x).linkParties = s.linkParties := (rfl)
@[simp] theorem State.setQueue_anchorOps (q : Nat) (x : Queue) : (s.setQueue q x).anchorOps = s.anchorOps := (rfl)
@[simp] theorem State.setQueue_loops (q : Nat) (x : Queue) : (s.setQueue q x).loops = s.loops := (rfl)
@[simp] theorem State.setQueue_sensors (q : Nat) (x : Queue) : (s.setQueue q x).sensors = s.sensors := (rfl)
@[simp] theorem State.setQueue_ocLimit (q : Nat) (x : Queue) : (s.setQueue q x).ocLimit = s.ocLimit := (rfl)
@[simp] theorem State.setQueue_pmb (q : Nat) (x : Queue) : (s.setQueue q x).pmb = s.pmb := (rfl)
@[simp] theorem State.setQueue_i3c (q : Nat) (x : Queue) : (s.setQueue q x).i3c = s.i3c := (rfl)
@[simp] theorem State.setQueue_i3cHeld (q : Nat) (x : Queue) : (s.setQueue q x).i3cHeld = s.i3cHeld := (rfl)
@[simp] theorem State.setQueue_flash (q : Nat) (x : Queue) : (s.setQueue q x).flash = s.flash := (rfl)
@[simp] theorem State.setQueue_flashOp (q : Nat) (x : Queue) : (s.setQueue q x).flashOp = s.flashOp := (rfl)
@[simp] theorem State.setQueue_boot (q : Nat) (x : Queue) : (s.setQueue q x).boot = s.boot := (rfl)
@[simp] theorem State.setQueue_sioFw (q : Nat) (x : Queue) : (s.setQueue q x).sioFw = s.sioFw := (rfl)
@[simp] theorem State.setQueue_ccFw (q : Nat) (x : Queue) : (s.setQueue q x).ccFw = s.ccFw := (rfl)
@[simp] theorem State.setQueue_priv (q : Nat) (x : Queue) : (s.setQueue q x).priv = s.priv := (rfl)
@[simp] theorem State.setQueue_session (q : Nat) (x : Queue) : (s.setQueue q x).session = s.session := (rfl)
@[simp] theorem State.setQueue_power (q : Nat) (x : Queue) : (s.setQueue q x).power = s.power := (rfl)
@[simp] theorem State.setQueue_env (q : Nat) (x : Queue) : (s.setQueue q x).env = s.env := (rfl)
@[simp] theorem State.setQueue_token (q : Nat) (x : Queue) : (s.setQueue q x).token = s.token := (rfl)
@[simp] theorem State.setQueue_needs (q : Nat) (x : Queue) : (s.setQueue q x).needs = s.needs := (rfl)
@[simp] theorem State.setQueue_outstanding (q : Nat) (x : Queue) : (s.setQueue q x).outstanding = s.outstanding := (rfl)
@[simp] theorem State.setQueue_answers (q : Nat) (x : Queue) : (s.setQueue q x).answers = s.answers := (rfl)
@[simp] theorem State.setQueue_out (q : Nat) (x : Queue) : (s.setQueue q x).out = s.out := (rfl)
@[simp] theorem State.setQueue_free (q : Nat) (x : Queue) : (s.setQueue q x).free = s.free := (rfl)

/-! ## setStream -/

@[simp] theorem State.setStream_pending (n : Nat) (x : Stream) : (s.setStream n x).pending = s.pending := (rfl)
@[simp] theorem State.setStream_fuses (n : Nat) (x : Stream) : (s.setStream n x).fuses = s.fuses := (rfl)
@[simp] theorem State.setStream_regs (n : Nat) (x : Stream) : (s.setStream n x).regs = s.regs := (rfl)
@[simp] theorem State.setStream_ports (n : Nat) (x : Stream) : (s.setStream n x).ports = s.ports := (rfl)
@[simp] theorem State.setStream_mem (n : Nat) (x : Stream) : (s.setStream n x).mem = s.mem := (rfl)
@[simp] theorem State.setStream_poison (n : Nat) (x : Stream) : (s.setStream n x).poison = s.poison := (rfl)
@[simp] theorem State.setStream_seals (n : Nat) (x : Stream) : (s.setStream n x).seals = s.seals := (rfl)
@[simp] theorem State.setStream_spillSeals (n : Nat) (x : Stream) : (s.setStream n x).spillSeals = s.spillSeals := (rfl)
@[simp] theorem State.setStream_sealOp (n : Nat) (x : Stream) : (s.setStream n x).sealOp = s.sealOp := (rfl)
@[simp] theorem State.setStream_pcLate (n : Nat) (x : Stream) : (s.setStream n x).pcLate = s.pcLate := (rfl)
@[simp] theorem State.setStream_refMode (n : Nat) (x : Stream) : (s.setStream n x).refMode = s.refMode := (rfl)
@[simp] theorem State.setStream_bwRead (n : Nat) (x : Stream) : (s.setStream n x).bwRead = s.bwRead := (rfl)
@[simp] theorem State.setStream_ceSecond (n : Nat) (x : Stream) : (s.setStream n x).ceSecond = s.ceSecond := (rfl)
@[simp] theorem State.setStream_bias (n : Nat) (x : Stream) : (s.setStream n x).bias = s.bias := (rfl)
@[simp] theorem State.setStream_biasOp (n : Nat) (x : Stream) : (s.setStream n x).biasOp = s.biasOp := (rfl)
@[simp] theorem State.setStream_image (n : Nat) (x : Stream) : (s.setStream n x).image = s.image := (rfl)
@[simp] theorem State.setStream_loader (n : Nat) (x : Stream) : (s.setStream n x).loader = s.loader := (rfl)
@[simp] theorem State.setStream_queues (n : Nat) (x : Stream) : (s.setStream n x).queues = s.queues := (rfl)
@[simp] theorem State.setStream_anchors (n : Nat) (x : Stream) : (s.setStream n x).anchors = s.anchors := (rfl)
@[simp] theorem State.setStream_hosts (n : Nat) (x : Stream) : (s.setStream n x).hosts = s.hosts := (rfl)
@[simp] theorem State.setStream_hostHeld (n : Nat) (x : Stream) : (s.setStream n x).hostHeld = s.hostHeld := (rfl)
@[simp] theorem State.setStream_heldOps (n : Nat) (x : Stream) : (s.setStream n x).heldOps = s.heldOps := (rfl)
@[simp] theorem State.setStream_objects (n : Nat) (x : Stream) : (s.setStream n x).objects = s.objects := (rfl)
@[simp] theorem State.setStream_mbx (n : Nat) (x : Stream) : (s.setStream n x).mbx = s.mbx := (rfl)
@[simp] theorem State.setStream_log (n : Nat) (x : Stream) : (s.setStream n x).log = s.log := (rfl)
@[simp] theorem State.setStream_mats (n : Nat) (x : Stream) : (s.setStream n x).mats = s.mats := (rfl)
@[simp] theorem State.setStream_vecs (n : Nat) (x : Stream) : (s.setStream n x).vecs = s.vecs := (rfl)
@[simp] theorem State.setStream_attCtx (n : Nat) (x : Stream) : (s.setStream n x).attCtx = s.attCtx := (rfl)
@[simp] theorem State.setStream_walkers (n : Nat) (x : Stream) : (s.setStream n x).walkers = s.walkers := (rfl)
@[simp] theorem State.setStream_ccReqs (n : Nat) (x : Stream) : (s.setStream n x).ccReqs = s.ccReqs := (rfl)
@[simp] theorem State.setStream_kvPools (n : Nat) (x : Stream) : (s.setStream n x).kvPools = s.kvPools := (rfl)
@[simp] theorem State.setStream_hauls (n : Nat) (x : Stream) : (s.setStream n x).hauls = s.hauls := (rfl)
@[simp] theorem State.setStream_credits (n : Nat) (x : Stream) : (s.setStream n x).credits = s.credits := (rfl)
@[simp] theorem State.setStream_upd (n : Nat) (x : Stream) : (s.setStream n x).upd = s.upd := (rfl)
@[simp] theorem State.setStream_fpMarks (n : Nat) (x : Stream) : (s.setStream n x).fpMarks = s.fpMarks := (rfl)
@[simp] theorem State.setStream_linkPorts (n : Nat) (x : Stream) : (s.setStream n x).linkPorts = s.linkPorts := (rfl)
@[simp] theorem State.setStream_linkParties (n : Nat) (x : Stream) : (s.setStream n x).linkParties = s.linkParties := (rfl)
@[simp] theorem State.setStream_anchorOps (n : Nat) (x : Stream) : (s.setStream n x).anchorOps = s.anchorOps := (rfl)
@[simp] theorem State.setStream_loops (n : Nat) (x : Stream) : (s.setStream n x).loops = s.loops := (rfl)
@[simp] theorem State.setStream_sensors (n : Nat) (x : Stream) : (s.setStream n x).sensors = s.sensors := (rfl)
@[simp] theorem State.setStream_ocLimit (n : Nat) (x : Stream) : (s.setStream n x).ocLimit = s.ocLimit := (rfl)
@[simp] theorem State.setStream_pmb (n : Nat) (x : Stream) : (s.setStream n x).pmb = s.pmb := (rfl)
@[simp] theorem State.setStream_i3c (n : Nat) (x : Stream) : (s.setStream n x).i3c = s.i3c := (rfl)
@[simp] theorem State.setStream_i3cHeld (n : Nat) (x : Stream) : (s.setStream n x).i3cHeld = s.i3cHeld := (rfl)
@[simp] theorem State.setStream_flash (n : Nat) (x : Stream) : (s.setStream n x).flash = s.flash := (rfl)
@[simp] theorem State.setStream_flashOp (n : Nat) (x : Stream) : (s.setStream n x).flashOp = s.flashOp := (rfl)
@[simp] theorem State.setStream_boot (n : Nat) (x : Stream) : (s.setStream n x).boot = s.boot := (rfl)
@[simp] theorem State.setStream_sioFw (n : Nat) (x : Stream) : (s.setStream n x).sioFw = s.sioFw := (rfl)
@[simp] theorem State.setStream_ccFw (n : Nat) (x : Stream) : (s.setStream n x).ccFw = s.ccFw := (rfl)
@[simp] theorem State.setStream_priv (n : Nat) (x : Stream) : (s.setStream n x).priv = s.priv := (rfl)
@[simp] theorem State.setStream_session (n : Nat) (x : Stream) : (s.setStream n x).session = s.session := (rfl)
@[simp] theorem State.setStream_power (n : Nat) (x : Stream) : (s.setStream n x).power = s.power := (rfl)
@[simp] theorem State.setStream_env (n : Nat) (x : Stream) : (s.setStream n x).env = s.env := (rfl)
@[simp] theorem State.setStream_token (n : Nat) (x : Stream) : (s.setStream n x).token = s.token := (rfl)
@[simp] theorem State.setStream_needs (n : Nat) (x : Stream) : (s.setStream n x).needs = s.needs := (rfl)
@[simp] theorem State.setStream_outstanding (n : Nat) (x : Stream) : (s.setStream n x).outstanding = s.outstanding := (rfl)
@[simp] theorem State.setStream_answers (n : Nat) (x : Stream) : (s.setStream n x).answers = s.answers := (rfl)
@[simp] theorem State.setStream_out (n : Nat) (x : Stream) : (s.setStream n x).out = s.out := (rfl)
@[simp] theorem State.setStream_free (n : Nat) (x : Stream) : (s.setStream n x).free = s.free := (rfl)

/-! ## setPoison -/

@[simp] theorem State.setPoison_pending (l : Nat) (b : Bool) : (s.setPoison l b).pending = s.pending := (rfl)
@[simp] theorem State.setPoison_fuses (l : Nat) (b : Bool) : (s.setPoison l b).fuses = s.fuses := (rfl)
@[simp] theorem State.setPoison_regs (l : Nat) (b : Bool) : (s.setPoison l b).regs = s.regs := (rfl)
@[simp] theorem State.setPoison_ports (l : Nat) (b : Bool) : (s.setPoison l b).ports = s.ports := (rfl)
@[simp] theorem State.setPoison_mem (l : Nat) (b : Bool) : (s.setPoison l b).mem = s.mem := (rfl)
@[simp] theorem State.setPoison_seals (l : Nat) (b : Bool) : (s.setPoison l b).seals = s.seals := (rfl)
@[simp] theorem State.setPoison_spillSeals (l : Nat) (b : Bool) : (s.setPoison l b).spillSeals = s.spillSeals := (rfl)
@[simp] theorem State.setPoison_sealOp (l : Nat) (b : Bool) : (s.setPoison l b).sealOp = s.sealOp := (rfl)
@[simp] theorem State.setPoison_pcLate (l : Nat) (b : Bool) : (s.setPoison l b).pcLate = s.pcLate := (rfl)
@[simp] theorem State.setPoison_refMode (l : Nat) (b : Bool) : (s.setPoison l b).refMode = s.refMode := (rfl)
@[simp] theorem State.setPoison_bwRead (l : Nat) (b : Bool) : (s.setPoison l b).bwRead = s.bwRead := (rfl)
@[simp] theorem State.setPoison_ceSecond (l : Nat) (b : Bool) : (s.setPoison l b).ceSecond = s.ceSecond := (rfl)
@[simp] theorem State.setPoison_bias (l : Nat) (b : Bool) : (s.setPoison l b).bias = s.bias := (rfl)
@[simp] theorem State.setPoison_biasOp (l : Nat) (b : Bool) : (s.setPoison l b).biasOp = s.biasOp := (rfl)
@[simp] theorem State.setPoison_image (l : Nat) (b : Bool) : (s.setPoison l b).image = s.image := (rfl)
@[simp] theorem State.setPoison_loader (l : Nat) (b : Bool) : (s.setPoison l b).loader = s.loader := (rfl)
@[simp] theorem State.setPoison_queues (l : Nat) (b : Bool) : (s.setPoison l b).queues = s.queues := (rfl)
@[simp] theorem State.setPoison_anchors (l : Nat) (b : Bool) : (s.setPoison l b).anchors = s.anchors := (rfl)
@[simp] theorem State.setPoison_streams (l : Nat) (b : Bool) : (s.setPoison l b).streams = s.streams := (rfl)
@[simp] theorem State.setPoison_hosts (l : Nat) (b : Bool) : (s.setPoison l b).hosts = s.hosts := (rfl)
@[simp] theorem State.setPoison_hostHeld (l : Nat) (b : Bool) : (s.setPoison l b).hostHeld = s.hostHeld := (rfl)
@[simp] theorem State.setPoison_heldOps (l : Nat) (b : Bool) : (s.setPoison l b).heldOps = s.heldOps := (rfl)
@[simp] theorem State.setPoison_objects (l : Nat) (b : Bool) : (s.setPoison l b).objects = s.objects := (rfl)
@[simp] theorem State.setPoison_mbx (l : Nat) (b : Bool) : (s.setPoison l b).mbx = s.mbx := (rfl)
@[simp] theorem State.setPoison_log (l : Nat) (b : Bool) : (s.setPoison l b).log = s.log := (rfl)
@[simp] theorem State.setPoison_mats (l : Nat) (b : Bool) : (s.setPoison l b).mats = s.mats := (rfl)
@[simp] theorem State.setPoison_vecs (l : Nat) (b : Bool) : (s.setPoison l b).vecs = s.vecs := (rfl)
@[simp] theorem State.setPoison_attCtx (l : Nat) (b : Bool) : (s.setPoison l b).attCtx = s.attCtx := (rfl)
@[simp] theorem State.setPoison_walkers (l : Nat) (b : Bool) : (s.setPoison l b).walkers = s.walkers := (rfl)
@[simp] theorem State.setPoison_ccReqs (l : Nat) (b : Bool) : (s.setPoison l b).ccReqs = s.ccReqs := (rfl)
@[simp] theorem State.setPoison_kvPools (l : Nat) (b : Bool) : (s.setPoison l b).kvPools = s.kvPools := (rfl)
@[simp] theorem State.setPoison_hauls (l : Nat) (b : Bool) : (s.setPoison l b).hauls = s.hauls := (rfl)
@[simp] theorem State.setPoison_credits (l : Nat) (b : Bool) : (s.setPoison l b).credits = s.credits := (rfl)
@[simp] theorem State.setPoison_upd (l : Nat) (b : Bool) : (s.setPoison l b).upd = s.upd := (rfl)
@[simp] theorem State.setPoison_fpMarks (l : Nat) (b : Bool) : (s.setPoison l b).fpMarks = s.fpMarks := (rfl)
@[simp] theorem State.setPoison_linkPorts (l : Nat) (b : Bool) : (s.setPoison l b).linkPorts = s.linkPorts := (rfl)
@[simp] theorem State.setPoison_linkParties (l : Nat) (b : Bool) : (s.setPoison l b).linkParties = s.linkParties := (rfl)
@[simp] theorem State.setPoison_anchorOps (l : Nat) (b : Bool) : (s.setPoison l b).anchorOps = s.anchorOps := (rfl)
@[simp] theorem State.setPoison_loops (l : Nat) (b : Bool) : (s.setPoison l b).loops = s.loops := (rfl)
@[simp] theorem State.setPoison_sensors (l : Nat) (b : Bool) : (s.setPoison l b).sensors = s.sensors := (rfl)
@[simp] theorem State.setPoison_ocLimit (l : Nat) (b : Bool) : (s.setPoison l b).ocLimit = s.ocLimit := (rfl)
@[simp] theorem State.setPoison_pmb (l : Nat) (b : Bool) : (s.setPoison l b).pmb = s.pmb := (rfl)
@[simp] theorem State.setPoison_i3c (l : Nat) (b : Bool) : (s.setPoison l b).i3c = s.i3c := (rfl)
@[simp] theorem State.setPoison_i3cHeld (l : Nat) (b : Bool) : (s.setPoison l b).i3cHeld = s.i3cHeld := (rfl)
@[simp] theorem State.setPoison_flash (l : Nat) (b : Bool) : (s.setPoison l b).flash = s.flash := (rfl)
@[simp] theorem State.setPoison_flashOp (l : Nat) (b : Bool) : (s.setPoison l b).flashOp = s.flashOp := (rfl)
@[simp] theorem State.setPoison_boot (l : Nat) (b : Bool) : (s.setPoison l b).boot = s.boot := (rfl)
@[simp] theorem State.setPoison_sioFw (l : Nat) (b : Bool) : (s.setPoison l b).sioFw = s.sioFw := (rfl)
@[simp] theorem State.setPoison_ccFw (l : Nat) (b : Bool) : (s.setPoison l b).ccFw = s.ccFw := (rfl)
@[simp] theorem State.setPoison_priv (l : Nat) (b : Bool) : (s.setPoison l b).priv = s.priv := (rfl)
@[simp] theorem State.setPoison_session (l : Nat) (b : Bool) : (s.setPoison l b).session = s.session := (rfl)
@[simp] theorem State.setPoison_power (l : Nat) (b : Bool) : (s.setPoison l b).power = s.power := (rfl)
@[simp] theorem State.setPoison_env (l : Nat) (b : Bool) : (s.setPoison l b).env = s.env := (rfl)
@[simp] theorem State.setPoison_token (l : Nat) (b : Bool) : (s.setPoison l b).token = s.token := (rfl)
@[simp] theorem State.setPoison_needs (l : Nat) (b : Bool) : (s.setPoison l b).needs = s.needs := (rfl)
@[simp] theorem State.setPoison_outstanding (l : Nat) (b : Bool) : (s.setPoison l b).outstanding = s.outstanding := (rfl)
@[simp] theorem State.setPoison_answers (l : Nat) (b : Bool) : (s.setPoison l b).answers = s.answers := (rfl)
@[simp] theorem State.setPoison_out (l : Nat) (b : Bool) : (s.setPoison l b).out = s.out := (rfl)
@[simp] theorem State.setPoison_free (l : Nat) (b : Bool) : (s.setPoison l b).free = s.free := (rfl)

end Sys2Proof.Machine
end

