-- ==== Sys2Proof/Laws/Outcome.lean ====
section
/-! SUPPORT. The outcomes of commands: what the wrappers around every meaning do while the logic is live, held or tripped. -/

namespace Sys2Proof.Machine

theorem part_true {has : Bool} (h : has = true) (o : Host.Outcome State Fault Refusal) : part has o = o := by simp [part, h]

theorem part_false {has : Bool} (h : has = false) (o : Host.Outcome State Fault Refusal) :
    part has o = .fault .noSuchPart := by simp [part, h, noPart]

theorem State.run_live {s : State} (t : State) (h : s.live) : s.run t = .next (s.keep t) := by
  simp [State.run, show s.power.held = false from h]

theorem State.run_held {s : State} (t : State) (h : s.power.held = true) : s.run t = .next s := by simp [State.run, h]

theorem State.engine_issuing {s : State} (t : State) (h : s.issuing) : s.engine t = .next (s.keep t) := by
  simp [State.engine, State.run, h.1, h.2]

theorem State.blow_live {s : State} (t : State) (h : s.live) : s.blow t = .next { t with pending := s.pending } := by
  simp [State.blow, show s.power.held = false from h]

/-- A command whose state keeps the waiting commands and the fuses answers that state. -/
theorem State.next_of_keep {s t : State} (hp : t.pending = s.pending) (hf : t.fuses = s.fuses)
    {o : Host.Outcome State Fault Refusal} (h : o = .next (s.keep t)) : o = .next t := by
  cases t; cases hp; cases hf; exact h

theorem State.keep_self (s : State) : s.keep s = s := (rfl)

theorem State.keep_of_eq {s t : State} (hp : t.pending = s.pending) (hf : t.fuses = s.fuses) : s.keep t = t := by
  cases t; cases hp; cases hf; rfl

@[simp] theorem State.keep_pending (s t : State) : (s.keep t).pending = s.pending := (rfl)
@[simp] theorem State.keep_fuses (s t : State) : (s.keep t).fuses = s.fuses := (rfl)

theorem State.reg_of_regs {s t : State} (h : t.regs = s.regs) (o : Nat) : t.reg o = s.reg o := by simp [State.reg, h]

theorem State.fld_of_regs {s t : State} (h : t.regs = s.regs) (o hi lo : Nat) : t.fld o hi lo = s.fld o hi lo := by
  simp [State.fld, State.reg, h]

@[simp] theorem State.keep_fld (s t : State) (o hi lo : Nat) : (s.keep t).fld o hi lo = t.fld o hi lo := (rfl)
@[simp] theorem State.keep_reg (s t : State) (o : Nat) : (s.keep t).reg o = t.reg o := (rfl)

/-- Every command answers with a next state, or with the fault that it names a part that does not exist. -/
theorem part_cases (has : Bool) (o : Host.Outcome State Fault Refusal) :
    part has o = o ∨ part has o = .fault .noSuchPart := by cases has <;> simp [part, noPart]

/-- Two computations that agree on the state they start in settle alike. -/
theorem State.settle_congr {s : State} {tok : Tok} {env : Env} {f g : State → State}
    (h : f { s with env := env, token := tok, needs := [] } = g { s with env := env, token := tok, needs := [] }) :
    s.settle tok env f = s.settle tok env g := by
  unfold State.settle
  rw [h]

/-- A computation whose accesses wait for nothing goes through. -/
theorem State.settle_done {s : State} {tok : Tok} {env : Env} {f : State → State}
    (h : (f { s with env := env, token := tok, needs := [] }).needs = []) :
    s.settle tok env f = (f { s with env := env, token := tok, needs := [] }).closeTok tok := by
  unfold State.settle
  exact if_pos h

end Sys2Proof.Machine
end

