-- ==== Sys2Proof/Laws/Access.lean ====
section
/-! SUPPORT. Software writes of registers whose write acts (R7, R11): each reaches its effect. -/

namespace Sys2Proof.Machine

/-- What a write of the register whose row begins at `b` does. -/
def State.effectAt (s : State) (b off : Nat) (v : Word) (env : Env) : State :=
  ((((s.effectQueues b off v env).orElse (fun _ => s.effectEngines b off v)).orElse
    (fun _ => s.effectHosts b off v)).orElse (fun _ => s.effectSiolo b off v)).getD (s.writePlain off v)

/-- The register map has, at an offset, an element of the row that begins at `b`, of a width. -/
def rowAt (off b w : Nat) : Prop := ∃ r, findReg off = some r ∧ r.base = b ∧ r.width = w

theorem rowAt_array {slot st x n q b w : Nat} (hst : 0 < st) (hq : q < n) (hslot : (x + q * st) / 0x1000000 = slot)
    (h : (arrayAt st x n (slotTable slot)).map (fun r => (r.base, r.width)) = some (b, w)) : rowAt (x + q * st) b w := by
  cases hr : arrayAt st x n (slotTable slot) with
  | none => rw [hr] at h; cases h
  | some r =>
    rw [hr] at h
    simp only [Option.map_some, Option.some.injEq, Prod.mk.injEq] at h
    exact ⟨r, findReg_array hst hq hslot hr, h.1, h.2⟩

theorem rowAt_one {off b w : Nat} (h : (findReg off).map (fun r => (r.base, r.width)) = some (b, w)) : rowAt off b w := by
  cases hr : findReg off with
  | none => rw [hr] at h; cases h
  | some r =>
    rw [hr] at h
    simp only [Option.map_some, Option.some.injEq, Prod.mk.injEq] at h
    exact ⟨r, hr, h.1, h.2⟩

theorem State.regEffect_at {s : State} {off b w : Nat} (v : Word) (env : Env) (h : rowAt off b w) :
    s.regEffect off v env = s.effectAt b off v env := by
  obtain ⟨r, hr, rfl, -⟩ := h
  simp only [State.regEffect, hr, State.effectAt]
  split <;> rename_i h <;> rw [h] <;> rfl

@[simp] theorem State.noHostReg_setPort (s : State) (who : Requester) (p : Port) (off : Nat) :
    (s.setPort who p).noHostReg off = s.noHostReg off := rfl

/-- No offset outside the host registers is that of an absent host. -/
theorem State.noHostReg_out (s : State) {off : Nat} (h : off < 0xB000000 ∨ 0xB008000 ≤ off) : s.noHostReg off = false := by
  rcases h with h | h
  · simp [State.noHostReg, Nat.not_le.mpr h]
  · simp [State.noHostReg, Nat.not_lt.mpr h]

theorem State.regDo_w64 {s : State} {off b : Nat} (who : Requester) (v : Word) (env : Env) (h : rowAt off b 64)
    (hn : s.noHostReg off = false) : s.regDo who off (.w64 v) env = (s.setPort who {}).effectAt b off v env := by
  obtain ⟨r, hr, hb, hw⟩ := id h
  simp [State.regDo, State.accWrite, hn, hr, hw, State.regEffect_at v env h]

theorem State.regDo_w32 {s : State} {off b : Nat} (who : Requester) (v : Word32) (env : Env) (h : rowAt off b 32)
    (hn : s.noHostReg off = false) :
    s.regDo who off (.w32 v) env = (s.setPort who {}).effectAt b off (v.zeroExtend 64) env := by
  obtain ⟨r, hr, hb, hw⟩ := id h
  simp [State.regDo, State.accWrite, hn, hr, hw, State.regEffect_at _ env h]

/-- Whether a write stores to memory, by the base of its register's row. -/
theorem writesMemory_at {off b w : Nat} (h : rowAt off b w) : writesMemory off = (b == 0x2000030 || b == 0xD000020) := by
  obtain ⟨r, hr, rfl, -⟩ := h
  simp only [writesMemory, hr]
  rfl

/-- Only a write of CQ_CQ_HEAD ends a queue's HELD. -/
theorem State.drained_at {off b w : Nat} (s t : State) (h : rowAt off b w) (hb : b ≠ 0x2000030) : s.drained t off = false := by
  obtain ⟨r, hr, rfl, -⟩ := h
  simp only [State.drained, hr]
  simp [show (r.base == Reg.CQ_CQ_HEAD 0) = false from by simpa [Reg.CQ_CQ_HEAD] using hb]

/-- A requester whose port is open has what it asks for done. -/
theorem State.portRun_open {s : State} {who : Requester} (h : s.portHeld who = false) (t : State) (op : HeldOp) :
    s.portRun t who op = t := by simp [State.portRun, h]

/-- What a host asks for while its port is held waits there. -/
theorem State.portRun_held {s : State} {h : Nat} (hh : s.portHeld (.host h) = true) (t : State) (op : HeldOp) :
    s.portRun t (.host h) op = { s with heldOps := s.heldOps ++ [op] } := by simp [State.portRun, hh]

/-- The write of a register that does not store to memory is its effect. -/
theorem State.regWrite_plain {s : State} {off b w : Nat} (who : Requester) (d : WData) (env : Env) (h : rowAt off b w)
    (hp : s.portHeld who = false) (hm : b ≠ 0x2000030 ∧ b ≠ 0xD000020) : s.regWrite who off d env = s.regDo who off d env := by
  simp [State.regWrite, State.portRun_open hp, writesMemory_at h, s.drained_at _ h hm.1, hm.1, hm.2]

/-- The write of a 32-bit register reaches its effect; writes of CQ_CQ_HEAD and SIO_LOG_BASE also store to memory. -/
theorem State.regWrite_w32 {s : State} {off b : Nat} (who : Requester) (v : Word32) (env : Env) (h : rowAt off b 32)
    (hn : s.noHostReg off = false) (hp : s.portHeld who = false) (hm : b ≠ 0x2000030 ∧ b ≠ 0xD000020) :
    s.regWrite who off (.w32 v) env = (s.setPort who {}).effectAt b off (v.zeroExtend 64) env := by
  rw [State.regWrite_plain who _ env h hp hm, State.regDo_w32 who v env h hn]

theorem State.regWrite_w64 {s : State} {off b : Nat} (who : Requester) (v : Word) (env : Env) (h : rowAt off b 64)
    (hn : s.noHostReg off = false) (hp : s.portHeld who = false) (hm : b ≠ 0x2000030 ∧ b ≠ 0xD000020) :
    s.regWrite who off (.w64 v) env = (s.setPort who {}).effectAt b off v env := by
  rw [State.regWrite_plain who _ env h hp hm, State.regDo_w64 who v env h hn]

/-- A write of SIO_LOG_BASE runs as a computation that stores to memory. -/
theorem State.regWrite_logBase {s : State} {off w : Nat} (who : Requester) (d : WData) (env : Env) (h : rowAt off 0xD000020 w)
    (hp : s.portHeld who = false) :
    s.regWrite who off d env = s.settle (.req (reqNum who)) env (fun s => s.regDo who off d env) := by
  simp [State.regWrite, State.portRun_open hp, writesMemory_at h, s.drained_at _ h]

/-- A write of CQ_CQ_HEAD runs as a computation that stores to memory, and where it ends its queue's HELD records go on. -/
theorem State.regWrite_cqHead {s : State} {off w : Nat} (who : Requester) (d : WData) (env : Env) (h : rowAt off 0x2000030 w)
    (hp : s.portHeld who = false) :
    s.regWrite who off d env = (let t := s.settle (.req (reqNum who)) env (fun s => s.regDo who off d env)
      if s.drained t off then t.freed env else t) := by
  simp [State.regWrite, State.portRun_open hp, writesMemory_at h]

/-! ## Rows -/

theorem rowAt_rteCtrl : rowAt Reg.RTE_CTRL 0x1000000 32 := rowAt_one (by decide)
theorem rowAt_sealOp : rowAt Reg.MEM_SEAL_OP 0x7000008 64 := rowAt_one (by decide)
theorem rowAt_biasOp : rowAt Reg.HST_BIAS_OP 0xB800040 64 := rowAt_one (by decide)
theorem rowAt_logBase : rowAt Reg.SIO_LOG_BASE 0xD000020 64 := rowAt_one (by decide)
theorem rowAt_alarmAck : rowAt Reg.SIO_ALARM_ACK 0xD000068 32 := rowAt_one (by decide)
theorem rowAt_clkCtrl : rowAt Reg.CLK_CTRL 0xF000000 32 := rowAt_one (by decide)
theorem rowAt_clkReset : rowAt Reg.CLK_RESET 0xF000018 32 := rowAt_one (by decide)

theorem rowAt_sqCtrl {q : Nat} (h : q < 2048) : rowAt (Reg.CQ_SQ_CTRL q) 0x200000C 32 :=
  rowAt_array (slot := 2) (st := 4096) (n := 2048) (by decide) h (by omega) (by decide)

theorem rowAt_doorbell {q : Nat} (h : q < 2048) : rowAt (Reg.CQ_DOORBELL q) 0x2000018 64 :=
  rowAt_array (slot := 2) (st := 4096) (n := 2048) (by decide) h (by omega) (by decide)

theorem rowAt_cqHead {q : Nat} (h : q < 2048) : rowAt (Reg.CQ_CQ_HEAD q) 0x2000030 32 :=
  rowAt_array (slot := 2) (st := 4096) (n := 2048) (by decide) h (by omega) (by decide)

theorem rowAt_anchor {a : Nat} (h : a < 4096) : rowAt (Reg.CQ_ANCHOR a) 0x2800000 32 :=
  rowAt_array (slot := 2) (st := 4) (n := 4096) (by decide) h (by omega) (by decide)

theorem rowAt_anchorAdd {a : Nat} (h : a < 4096) : rowAt (Reg.CQ_ANCHOR_ADD a) 0x2804000 32 :=
  rowAt_array (slot := 2) (st := 4) (n := 4096) (by decide) h (by omega) (by decide)

theorem rowAt_kvCtrl {r : Nat} (h : r < 16) : rowAt (Reg.ATT_KV_CTRL r) 0x6800010 32 :=
  rowAt_array (slot := 6) (st := 256) (n := 16) (by decide) h (by omega) (by decide)

theorem rowAt_labInv {r : Nat} (h : r < 16) : rowAt (Reg.ATT_LAB_INV r) 0x6800038 64 :=
  rowAt_array (slot := 6) (st := 256) (n := 16) (by decide) h (by omega) (by decide)

theorem rowAt_portCtrl {p : Nat} (h : p < 18) : rowAt (Reg.LNK_PORT_CTRL p) 0xA000000 32 :=
  rowAt_array (slot := 10) (st := 4096) (n := 18) (by decide) h (by omega) (by decide)

theorem rowAt_partySeq {k : Nat} (h : k < 4) : rowAt (Reg.LNK_PARTY_SEQ k) 0xA800008 64 :=
  rowAt_array (slot := 10) (st := 256) (n := 4) (by decide) h (by omega) (by decide)

theorem rowAt_spillCfg {p : Nat} (h : p < 8) : rowAt (Reg.HST_SPILL_CFG p) 0xB000010 64 :=
  rowAt_array (slot := 11) (st := 4096) (n := 8) (by decide) h (by omega) (by decide)

theorem rowAt_dnPost {m : Nat} (h : m < 32) : rowAt (Reg.MBX_DN_POST m) 0xC000040 32 :=
  rowAt_array (slot := 12) (st := 4096) (n := 32) (by decide) h (by omega) (by decide)

theorem rowAt_upPost {m : Nat} (h : m < 32) : rowAt (Reg.MBX_UP_POST m) 0xC0000C0 32 :=
  rowAt_array (slot := 12) (st := 4096) (n := 32) (by decide) h (by omega) (by decide)

/-! ## Effects -/

theorem regIndex_at {b st q : Nat} (h : 0 < st) : regIndex b st (b + q * st) = q := by
  simp [regIndex, h]

theorem effectAt_rteCtrl (s : State) (v : Word) (env : Env) : s.effectAt 0x1000000 Reg.RTE_CTRL v env = s.rteCtrl v env := rfl

theorem effectAt_sqCtrl (s : State) (q : Nat) (v : Word) (env : Env) :
    s.effectAt 0x200000C (Reg.CQ_SQ_CTRL q) v env = s.sqCtrl q v env := by
  rw [show s.effectAt 0x200000C (Reg.CQ_SQ_CTRL q) v env = s.sqCtrl (regIndex 0x200000C 4096 (Reg.CQ_SQ_CTRL q)) v env from rfl,
    Reg.CQ_SQ_CTRL, regIndex_at (by decide)]

theorem effectAt_doorbell (s : State) (q : Nat) (v : Word) (env : Env) :
    s.effectAt 0x2000018 (Reg.CQ_DOORBELL q) v env = s.doorbell q v := by
  rw [show s.effectAt 0x2000018 (Reg.CQ_DOORBELL q) v env = s.doorbell (regIndex 0x2000018 4096 (Reg.CQ_DOORBELL q)) v from rfl,
    Reg.CQ_DOORBELL, regIndex_at (by decide)]

theorem effectQueues_cqHead (s : State) (off : Nat) (v : Word) (env : Env) :
    s.effectQueues 0x2000030 off v env = some (s.cqHead (regIndex 0x2000030 4096 off) v) := by
  simp [State.effectQueues, Reg.RTE_CTRL, Reg.CQ_SQ_CTRL, Reg.CQ_SQ_BASE, Reg.CQ_SQ_CFG, Reg.CQ_CQ_BASE,
    Reg.CQ_CQ_CFG, Reg.CQ_FLUSH_ADDR, Reg.CQ_DOORBELL, Reg.CQ_CQ_HEAD]

theorem effectAt_cqHead (s : State) (q : Nat) (v : Word) (env : Env) :
    s.effectAt 0x2000030 (Reg.CQ_CQ_HEAD q) v env = s.cqHead q v := by
  rw [State.effectAt, effectQueues_cqHead, Option.orElse_some, Option.orElse_some, Option.orElse_some, Option.getD_some,
    show regIndex 0x2000030 4096 (Reg.CQ_CQ_HEAD q) = q by rw [Reg.CQ_CQ_HEAD, regIndex_at (by decide)]]

theorem effectAt_anchor (s : State) (a : Nat) (v : Word) (env : Env) :
    s.effectAt 0x2800000 (Reg.CQ_ANCHOR a) v env = s.anchorOp a true (v.truncate 32) := by
  rw [show s.effectAt 0x2800000 (Reg.CQ_ANCHOR a) v env
      = s.anchorOp (regIndex 0x2800000 4 (Reg.CQ_ANCHOR a)) true (v.truncate 32) from rfl,
    Reg.CQ_ANCHOR, regIndex_at (by decide)]

theorem effectAt_anchorAdd (s : State) (a : Nat) (v : Word) (env : Env) :
    s.effectAt 0x2804000 (Reg.CQ_ANCHOR_ADD a) v env = s.anchorOp a false (v.truncate 32) := by
  rw [show s.effectAt 0x2804000 (Reg.CQ_ANCHOR_ADD a) v env
      = s.anchorOp (regIndex 0x2804000 4 (Reg.CQ_ANCHOR_ADD a)) false (v.truncate 32) from rfl,
    Reg.CQ_ANCHOR_ADD, regIndex_at (by decide)]

theorem effectAt_kvCtrl (s : State) (r : Nat) (v : Word) (env : Env) :
    s.effectAt 0x6800010 (Reg.ATT_KV_CTRL r) v env = s.kvCtrl r v := by
  rw [show s.effectAt 0x6800010 (Reg.ATT_KV_CTRL r) v env = s.kvCtrl (regIndex 0x6800010 256 (Reg.ATT_KV_CTRL r)) v from rfl,
    Reg.ATT_KV_CTRL, regIndex_at (by decide)]

theorem effectAt_labInv (s : State) (r : Nat) (v : Word) (env : Env) :
    s.effectAt 0x6800038 (Reg.ATT_LAB_INV r) v env = s.labInv r v := by
  rw [show s.effectAt 0x6800038 (Reg.ATT_LAB_INV r) v env = s.labInv (regIndex 0x6800038 256 (Reg.ATT_LAB_INV r)) v from rfl,
    Reg.ATT_LAB_INV, regIndex_at (by decide)]

theorem effectAt_sealOp (s : State) (v : Word) (env : Env) : s.effectAt 0x7000008 Reg.MEM_SEAL_OP v env = s.sealWrite v := rfl

theorem effectAt_portCtrl (s : State) (p : Nat) (v : Word) (env : Env) :
    s.effectAt 0xA000000 (Reg.LNK_PORT_CTRL p) v env =
      (let t := if fget v 0 0 = s.fld (Reg.LNK_PORT_CTRL p) 0 0 then s else s.portDisable p (fget v 0 0 = 1)
       if fget v 1 1 = 1 then t.portRetrain p else t) := by
  rw [show s.effectAt 0xA000000 (Reg.LNK_PORT_CTRL p) v env =
      (let t := if fget v 0 0 = s.fld (Reg.LNK_PORT_CTRL p) 0 0 then s
          else s.portDisable (regIndex 0xA000000 4096 (Reg.LNK_PORT_CTRL p)) (fget v 0 0 = 1)
       if fget v 1 1 = 1 then t.portRetrain (regIndex 0xA000000 4096 (Reg.LNK_PORT_CTRL p)) else t) from rfl,
    show regIndex 0xA000000 4096 (Reg.LNK_PORT_CTRL p) = p by rw [Reg.LNK_PORT_CTRL, regIndex_at (by decide)]]

theorem effectAt_partySeq (s : State) (k : Nat) (v : Word) (env : Env) :
    s.effectAt 0xA800008 (Reg.LNK_PARTY_SEQ k) v env = s.partySeqWrite k v s.quiesced := by
  rw [show s.effectAt 0xA800008 (Reg.LNK_PARTY_SEQ k) v env
      = s.partySeqWrite (regIndex 0xA800008 256 (Reg.LNK_PARTY_SEQ k)) v s.quiesced from rfl,
    Reg.LNK_PARTY_SEQ, regIndex_at (by decide)]

theorem effectAt_spillCfg (s : State) (h : Nat) (v : Word) (env : Env) :
    s.effectAt 0xB000010 (Reg.HST_SPILL_CFG h) v env = s.spillCfg h v := by
  rw [show s.effectAt 0xB000010 (Reg.HST_SPILL_CFG h) v env = s.spillCfg (regIndex 0xB000010 4096 (Reg.HST_SPILL_CFG h)) v from rfl,
    Reg.HST_SPILL_CFG, regIndex_at (by decide)]

theorem effectAt_biasOp (s : State) (v : Word) (env : Env) : s.effectAt 0xB800040 Reg.HST_BIAS_OP v env = s.biasWrite v := rfl

theorem effectAt_dnPost (s : State) (m : Nat) (v : Word) (env : Env) :
    s.effectAt 0xC000040 (Reg.MBX_DN_POST m) v env = (if fget v 0 0 = 1 then s.mbxPost m false else s) := by
  rw [show s.effectAt 0xC000040 (Reg.MBX_DN_POST m) v env
      = (if fget v 0 0 = 1 then s.mbxPost (regIndex 0xC000040 4096 (Reg.MBX_DN_POST m)) false else s) from rfl,
    Reg.MBX_DN_POST, regIndex_at (by decide)]

theorem effectAt_upPost (s : State) (m : Nat) (v : Word) (env : Env) :
    s.effectAt 0xC0000C0 (Reg.MBX_UP_POST m) v env = (if fget v 0 0 = 1 then s.mbxPost m true else s) := by
  rw [show s.effectAt 0xC0000C0 (Reg.MBX_UP_POST m) v env
      = (if fget v 0 0 = 1 then s.mbxPost (regIndex 0xC0000C0 4096 (Reg.MBX_UP_POST m)) true else s) from rfl,
    Reg.MBX_UP_POST, regIndex_at (by decide)]

theorem effectAt_logBase (s : State) (v : Word) (env : Env) : s.effectAt 0xD000020 Reg.SIO_LOG_BASE v env = s.logBase v := rfl
theorem effectAt_alarmAck (s : State) (v : Word) (env : Env) : s.effectAt 0xD000068 Reg.SIO_ALARM_ACK v env = s.ackWrite v := rfl
theorem effectAt_clkCtrl (s : State) (v : Word) (env : Env) : s.effectAt 0xF000000 Reg.CLK_CTRL v env = s.clkCtrl v := rfl
theorem effectAt_clkReset (s : State) (v : Word) (env : Env) : s.effectAt 0xF000018 Reg.CLK_RESET v env = s.clkReset v := rfl

/-! ## Writes that commands make -/

/-- A value of one action bit reaches the effect of its register. -/
theorem State.actBit_at {s : State} {off b : Nat} (who : Requester) (i : Nat) (env : Env) (h : rowAt off b 32)
    (hn : s.noHostReg off = false) (hp : s.portHeld who = false) (hm : b ≠ 0x2000030 ∧ b ≠ 0xD000020) :
    s.actBit who off i env = (s.setPort who {}).effectAt b off ((BitVec.ofNat 32 (2 ^ i)).zeroExtend 64) env :=
  State.regWrite_w32 who _ env h hn hp hm

end Sys2Proof.Machine
end

