-- ==== Sys2Proof/Laws/Log.lean ====
section
/-! SUPPORT. What posting to the cairn log, raising a flag with an event, and sending an interrupt can change. -/

namespace Sys2Proof.Machine

/-- A state with other registers, another log writer, another trace of what has left the device and other latched PMBus bits. -/
def State.withLog (s : State) (g : SMap Word) (l : Log) (o : List Out) (p : Nat) : State :=
  { s with regs := g, log := l, out := o, pmb := p }

/-- Two states differ at most in registers, the log writer, what has left the device and the latched PMBus bits. -/
def State.likeLog (s t : State) : Prop := ∃ g l o p, t = s.withLog g l o p

theorem State.likeLog_refl (s : State) : s.likeLog s := ⟨s.regs, s.log, s.out, s.pmb, rfl⟩

theorem State.likeLog_trans {s t u : State} (h : s.likeLog t) (h' : t.likeLog u) : s.likeLog u := by
  obtain ⟨g, l, o, p, rfl⟩ := h
  obtain ⟨g', l', o', p', rfl⟩ := h'
  exact ⟨g', l', o', p', rfl⟩

theorem State.likeLog_setReg (s : State) (o : Nat) (v : Word) : s.likeLog (s.setReg o v) := ⟨_, _, _, _, rfl⟩
theorem State.likeLog_setFld (s : State) (o hi lo x : Nat) : s.likeLog (s.setFld o hi lo x) := ⟨_, _, _, _, rfl⟩
theorem State.likeLog_addFld (s : State) (o hi lo x : Nat) : s.likeLog (s.addFld o hi lo x) := ⟨_, _, _, _, rfl⟩
theorem State.likeLog_count (s : State) (o x : Nat) : s.likeLog (s.count o x) := ⟨_, _, _, _, rfl⟩
theorem State.likeLog_raise (s : State) (o i c lo : Nat) : s.likeLog (s.raise o i c lo) := ⟨_, _, _, _, rfl⟩
theorem State.likeLog_emit (s : State) (x : Out) : s.likeLog (s.emit x) := ⟨_, _, _, _, rfl⟩
theorem State.likeLog_setLog (s : State) (l : Log) : s.likeLog { s with log := l } := ⟨_, _, _, _, rfl⟩

theorem State.likeLog_latchAlarm (s : State) (r : LogRec) : s.likeLog (s.latchAlarm r) := by
  have k : s.likeLog { s.emit (.alarm r.code r.src) with pmb := Nat.lor s.pmb 1 } := ⟨_, _, _, _, rfl⟩
  unfold State.latchAlarm
  dsimp only
  split
  · exact State.likeLog_trans k ⟨_, _, _, _, rfl⟩
  · exact State.likeLog_trans k (State.likeLog_raise _ _ _ _ _)

theorem State.likeLog_coalesce (s : State) (r : LogRec) : s.likeLog (s.coalesce r) := by
  unfold State.coalesce
  split
  · exact State.likeLog_setLog _ _
  · split <;> exact State.likeLog_setLog _ _

theorem State.likeLog_dropTrace (s : State) (r : LogRec) : s.likeLog (s.dropTrace r) :=
  State.likeLog_trans (s.likeLog_count _ _) (State.likeLog_trans (State.likeLog_raise _ _ _ _ _) (State.likeLog_setLog _ _))

theorem State.likeLog_intakeRec (s : State) (r : LogRec) : s.likeLog (s.intakeRec r) := by
  unfold State.intakeRec
  dsimp only
  split
  · refine State.likeLog_trans (s.likeLog_latchAlarm r) ?_
    split <;> exact State.likeLog_setLog _ _
  · split
    · exact State.likeLog_setLog _ _
    · split
      · exact s.likeLog_dropTrace r
      · exact s.likeLog_coalesce r

theorem State.likeLog_postStep (s : State) (src step code cls arg : Nat) : s.likeLog (s.postStep src step code cls arg) :=
  s.likeLog_intakeRec _

/-- Posting an event changes at most registers of the log, the log writer and what leaves the device. -/
theorem State.likeLog_post (s : State) (src code cls arg : Nat) : s.likeLog (s.post src code cls arg) :=
  s.likeLog_intakeRec _

theorem State.likeLog_raise_post (s : State) (o i c lo src code cls arg : Nat) :
    s.likeLog ((s.raise o i c lo).post src code cls arg) := State.likeLog_trans (s.likeLog_raise _ _ _ _) (State.likeLog_post _ _ _ _ _)

/-- Sending an interrupt changes at most those and the MSI-X tables. -/
theorem State.sendMsix_frame (s : State) (h vec : Nat) : ∃ x, { s with hosts := x }.likeLog (s.sendMsix h vec) := by
  unfold State.sendMsix
  split
  · dsimp only
    split
    · exact ⟨_, State.likeLog_refl _⟩
    · exact ⟨s.hosts, State.likeLog_emit _ _⟩
  · exact ⟨s.hosts, State.likeLog_raise_post _ _ _ _ _ _ _ _ _⟩

/-! ## Registers below the SIO_ block -/

theorem State.reg_emit (s : State) (x : Out) (o : Nat) : (s.emit x).reg o = s.reg o := State.reg_of_regs (State.emit_regs s x) o
theorem State.reg_setLog (s : State) (l : Log) (o : Nat) : ({ s with log := l } : State).reg o = s.reg o := (rfl)

theorem State.reg_latchAlarm (s : State) (r : LogRec) {o : Nat} (h : o < 0xD000000) : (s.latchAlarm r).reg o = s.reg o := by
  have h1 : o ≠ Reg.SIO_ALARM_STATUS := by unfold Reg.SIO_ALARM_STATUS; omega
  unfold State.latchAlarm
  dsimp only
  split
  · rw [State.reg_setFld_ne _ _ _ _ h1]; rfl
  · rw [State.reg_raise_ne _ _ _ h1 h1]; rfl

theorem State.reg_dropTrace (s : State) (r : LogRec) {o : Nat} (h : o < 0xD000000) : (s.dropTrace r).reg o = s.reg o := by
  have h1 : o ≠ Reg.SIO_LOG_DROP r.src := by unfold Reg.SIO_LOG_DROP; omega
  have h2 : o ≠ Reg.SIO_EVENT := by unfold Reg.SIO_EVENT; omega
  have h3 : o ≠ Reg.SIO_EVENT_CNT := by unfold Reg.SIO_EVENT_CNT; omega
  unfold State.dropTrace
  dsimp only
  rw [State.reg_setLog, State.reg_raise_ne _ _ _ h2 h3, State.reg_count_ne _ _ h1]

theorem State.regs_coalesce (s : State) (r : LogRec) : (s.coalesce r).regs = s.regs := by
  unfold State.coalesce
  split
  · rfl
  · split <;> rfl

theorem State.reg_intakeRec (s : State) (r : LogRec) {o : Nat} (h : o < 0xD000000) : (s.intakeRec r).reg o = s.reg o := by
  unfold State.intakeRec
  dsimp only
  split
  · split
    · rw [State.reg_setLog, s.reg_latchAlarm r h]
    · rw [State.reg_setLog, s.reg_latchAlarm r h]
  · split
    · rfl
    · split
      · exact s.reg_dropTrace r h
      · exact State.reg_of_regs (s.regs_coalesce r) o

/-- Posting an event changes no register below the SIO_ block. -/
theorem State.reg_postStep (s : State) (src step code cls arg : Nat) {o : Nat} (h : o < 0xD000000) :
    (s.postStep src step code cls arg).reg o = s.reg o := s.reg_intakeRec _ h

theorem State.reg_post (s : State) (src code cls arg : Nat) {o : Nat} (h : o < 0xD000000) :
    (s.post src code cls arg).reg o = s.reg o := s.reg_intakeRec _ h

theorem State.fld_post (s : State) (src code cls arg hi lo : Nat) {o : Nat} (h : o < 0xD000000) :
    (s.post src code cls arg).fld o hi lo = s.fld o hi lo := by rw [State.fld, s.reg_post _ _ _ _ h, State.fld]

/-! ## What posting leaves alone -/

@[simp] theorem State.post_pending (s : State) (a b c d : Nat) : (s.post a b c d).pending = s.pending := by
  obtain ⟨g, l, o, p, h⟩ := s.likeLog_post a b c d
  rw [h]; rfl
@[simp] theorem State.post_fuses (s : State) (a b c d : Nat) : (s.post a b c d).fuses = s.fuses := by
  obtain ⟨g, l, o, p, h⟩ := s.likeLog_post a b c d
  rw [h]; rfl
@[simp] theorem State.post_ports (s : State) (a b c d : Nat) : (s.post a b c d).ports = s.ports := by
  obtain ⟨g, l, o, p, h⟩ := s.likeLog_post a b c d
  rw [h]; rfl
@[simp] theorem State.post_mem (s : State) (a b c d : Nat) : (s.post a b c d).mem = s.mem := by
  obtain ⟨g, l, o, p, h⟩ := s.likeLog_post a b c d
  rw [h]; rfl
@[simp] theorem State.post_poison (s : State) (a b c d : Nat) : (s.post a b c d).poison = s.poison := by
  obtain ⟨g, l, o, p, h⟩ := s.likeLog_post a b c d
  rw [h]; rfl
@[simp] theorem State.post_seals (s : State) (a b c d : Nat) : (s.post a b c d).seals = s.seals := by
  obtain ⟨g, l, o, p, h⟩ := s.likeLog_post a b c d
  rw [h]; rfl
@[simp] theorem State.post_spillSeals (s : State) (a b c d : Nat) : (s.post a b c d).spillSeals = s.spillSeals := by
  obtain ⟨g, l, o, p, h⟩ := s.likeLog_post a b c d
  rw [h]; rfl
@[simp] theorem State.post_sealOp (s : State) (a b c d : Nat) : (s.post a b c d).sealOp = s.sealOp := by
  obtain ⟨g, l, o, p, h⟩ := s.likeLog_post a b c d
  rw [h]; rfl
@[simp] theorem State.post_pcLate (s : State) (a b c d : Nat) : (s.post a b c d).pcLate = s.pcLate := by
  obtain ⟨g, l, o, p, h⟩ := s.likeLog_post a b c d
  rw [h]; rfl
@[simp] theorem State.post_refMode (s : State) (a b c d : Nat) : (s.post a b c d).refMode = s.refMode := by
  obtain ⟨g, l, o, p, h⟩ := s.likeLog_post a b c d
  rw [h]; rfl
@[simp] theorem State.post_bwRead (s : State) (a b c d : Nat) : (s.post a b c d).bwRead = s.bwRead := by
  obtain ⟨g, l, o, p, h⟩ := s.likeLog_post a b c d
  rw [h]; rfl
@[simp] theorem State.post_ceSecond (s : State) (a b c d : Nat) : (s.post a b c d).ceSecond = s.ceSecond := by
  obtain ⟨g, l, o, p, h⟩ := s.likeLog_post a b c d
  rw [h]; rfl
@[simp] theorem State.post_bias (s : State) (a b c d : Nat) : (s.post a b c d).bias = s.bias := by
  obtain ⟨g, l, o, p, h⟩ := s.likeLog_post a b c d
  rw [h]; rfl
@[simp] theorem State.post_biasOp (s : State) (a b c d : Nat) : (s.post a b c d).biasOp = s.biasOp := by
  obtain ⟨g, l, o, p, h⟩ := s.likeLog_post a b c d
  rw [h]; rfl
@[simp] theorem State.post_image (s : State) (a b c d : Nat) : (s.post a b c d).image = s.image := by
  obtain ⟨g, l, o, p, h⟩ := s.likeLog_post a b c d
  rw [h]; rfl
@[simp] theorem State.post_loader (s : State) (a b c d : Nat) : (s.post a b c d).loader = s.loader := by
  obtain ⟨g, l, o, p, h⟩ := s.likeLog_post a b c d
  rw [h]; rfl
@[simp] theorem State.post_queues (s : State) (a b c d : Nat) : (s.post a b c d).queues = s.queues := by
  obtain ⟨g, l, o, p, h⟩ := s.likeLog_post a b c d
  rw [h]; rfl
@[simp] theorem State.post_anchors (s : State) (a b c d : Nat) : (s.post a b c d).anchors = s.anchors := by
  obtain ⟨g, l, o, p, h⟩ := s.likeLog_post a b c d
  rw [h]; rfl
@[simp] theorem State.post_streams (s : State) (a b c d : Nat) : (s.post a b c d).streams = s.streams := by
  obtain ⟨g, l, o, p, h⟩ := s.likeLog_post a b c d
  rw [h]; rfl
@[simp] theorem State.post_hosts (s : State) (a b c d : Nat) : (s.post a b c d).hosts = s.hosts := by
  obtain ⟨g, l, o, p, h⟩ := s.likeLog_post a b c d
  rw [h]; rfl
@[simp] theorem State.post_hostHeld (s : State) (a b c d : Nat) : (s.post a b c d).hostHeld = s.hostHeld := by
  obtain ⟨g, l, o, p, h⟩ := s.likeLog_post a b c d
  rw [h]; rfl
@[simp] theorem State.post_heldOps (s : State) (a b c d : Nat) : (s.post a b c d).heldOps = s.heldOps := by
  obtain ⟨g, l, o, p, h⟩ := s.likeLog_post a b c d
  rw [h]; rfl
@[simp] theorem State.post_mbx (s : State) (a b c d : Nat) : (s.post a b c d).mbx = s.mbx := by
  obtain ⟨g, l, o, p, h⟩ := s.likeLog_post a b c d
  rw [h]; rfl
@[simp] theorem State.post_mats (s : State) (a b c d : Nat) : (s.post a b c d).mats = s.mats := by
  obtain ⟨g, l, o, p, h⟩ := s.likeLog_post a b c d
  rw [h]; rfl
@[simp] theorem State.post_vecs (s : State) (a b c d : Nat) : (s.post a b c d).vecs = s.vecs := by
  obtain ⟨g, l, o, p, h⟩ := s.likeLog_post a b c d
  rw [h]; rfl
@[simp] theorem State.post_attCtx (s : State) (a b c d : Nat) : (s.post a b c d).attCtx = s.attCtx := by
  obtain ⟨g, l, o, p, h⟩ := s.likeLog_post a b c d
  rw [h]; rfl
@[simp] theorem State.post_walkers (s : State) (a b c d : Nat) : (s.post a b c d).walkers = s.walkers := by
  obtain ⟨g, l, o, p, h⟩ := s.likeLog_post a b c d
  rw [h]; rfl
@[simp] theorem State.post_ccReqs (s : State) (a b c d : Nat) : (s.post a b c d).ccReqs = s.ccReqs := by
  obtain ⟨g, l, o, p, h⟩ := s.likeLog_post a b c d
  rw [h]; rfl
@[simp] theorem State.post_kvPools (s : State) (a b c d : Nat) : (s.post a b c d).kvPools = s.kvPools := by
  obtain ⟨g, l, o, p, h⟩ := s.likeLog_post a b c d
  rw [h]; rfl
@[simp] theorem State.post_hauls (s : State) (a b c d : Nat) : (s.post a b c d).hauls = s.hauls := by
  obtain ⟨g, l, o, p, h⟩ := s.likeLog_post a b c d
  rw [h]; rfl
@[simp] theorem State.post_credits (s : State) (a b c d : Nat) : (s.post a b c d).credits = s.credits := by
  obtain ⟨g, l, o, p, h⟩ := s.likeLog_post a b c d
  rw [h]; rfl
@[simp] theorem State.post_upd (s : State) (a b c d : Nat) : (s.post a b c d).upd = s.upd := by
  obtain ⟨g, l, o, p, h⟩ := s.likeLog_post a b c d
  rw [h]; rfl
@[simp] theorem State.post_fpMarks (s : State) (a b c d : Nat) : (s.post a b c d).fpMarks = s.fpMarks := by
  obtain ⟨g, l, o, p, h⟩ := s.likeLog_post a b c d
  rw [h]; rfl
@[simp] theorem State.post_linkPorts (s : State) (a b c d : Nat) : (s.post a b c d).linkPorts = s.linkPorts := by
  obtain ⟨g, l, o, p, h⟩ := s.likeLog_post a b c d
  rw [h]; rfl
@[simp] theorem State.post_linkParties (s : State) (a b c d : Nat) : (s.post a b c d).linkParties = s.linkParties := by
  obtain ⟨g, l, o, p, h⟩ := s.likeLog_post a b c d
  rw [h]; rfl
@[simp] theorem State.post_anchorOps (s : State) (a b c d : Nat) : (s.post a b c d).anchorOps = s.anchorOps := by
  obtain ⟨g, l, o, p, h⟩ := s.likeLog_post a b c d
  rw [h]; rfl
@[simp] theorem State.post_loops (s : State) (a b c d : Nat) : (s.post a b c d).loops = s.loops := by
  obtain ⟨g, l, o, p, h⟩ := s.likeLog_post a b c d
  rw [h]; rfl
@[simp] theorem State.post_sensors (s : State) (a b c d : Nat) : (s.post a b c d).sensors = s.sensors := by
  obtain ⟨g, l, o, p, h⟩ := s.likeLog_post a b c d
  rw [h]; rfl
@[simp] theorem State.post_ocLimit (s : State) (a b c d : Nat) : (s.post a b c d).ocLimit = s.ocLimit := by
  obtain ⟨g, l, o, p, h⟩ := s.likeLog_post a b c d
  rw [h]; rfl
@[simp] theorem State.post_i3c (s : State) (a b c d : Nat) : (s.post a b c d).i3c = s.i3c := by
  obtain ⟨g, l, o, p, h⟩ := s.likeLog_post a b c d
  rw [h]; rfl
@[simp] theorem State.post_i3cHeld (s : State) (a b c d : Nat) : (s.post a b c d).i3cHeld = s.i3cHeld := by
  obtain ⟨g, l, o, p, h⟩ := s.likeLog_post a b c d
  rw [h]; rfl
@[simp] theorem State.post_flash (s : State) (a b c d : Nat) : (s.post a b c d).flash = s.flash := by
  obtain ⟨g, l, o, p, h⟩ := s.likeLog_post a b c d
  rw [h]; rfl
@[simp] theorem State.post_flashOp (s : State) (a b c d : Nat) : (s.post a b c d).flashOp = s.flashOp := by
  obtain ⟨g, l, o, p, h⟩ := s.likeLog_post a b c d
  rw [h]; rfl
@[simp] theorem State.post_boot (s : State) (a b c d : Nat) : (s.post a b c d).boot = s.boot := by
  obtain ⟨g, l, o, p, h⟩ := s.likeLog_post a b c d
  rw [h]; rfl
@[simp] theorem State.post_sioFw (s : State) (a b c d : Nat) : (s.post a b c d).sioFw = s.sioFw := by
  obtain ⟨g, l, o, p, h⟩ := s.likeLog_post a b c d
  rw [h]; rfl
@[simp] theorem State.post_ccFw (s : State) (a b c d : Nat) : (s.post a b c d).ccFw = s.ccFw := by
  obtain ⟨g, l, o, p, h⟩ := s.likeLog_post a b c d
  rw [h]; rfl
@[simp] theorem State.post_session (s : State) (a b c d : Nat) : (s.post a b c d).session = s.session := by
  obtain ⟨g, l, o, p, h⟩ := s.likeLog_post a b c d
  rw [h]; rfl
@[simp] theorem State.post_power (s : State) (a b c d : Nat) : (s.post a b c d).power = s.power := by
  obtain ⟨g, l, o, p, h⟩ := s.likeLog_post a b c d
  rw [h]; rfl
@[simp] theorem State.post_env (s : State) (a b c d : Nat) : (s.post a b c d).env = s.env := by
  obtain ⟨g, l, o, p, h⟩ := s.likeLog_post a b c d
  rw [h]; rfl
@[simp] theorem State.post_token (s : State) (a b c d : Nat) : (s.post a b c d).token = s.token := by
  obtain ⟨g, l, o, p, h⟩ := s.likeLog_post a b c d
  rw [h]; rfl
@[simp] theorem State.post_needs (s : State) (a b c d : Nat) : (s.post a b c d).needs = s.needs := by
  obtain ⟨g, l, o, p, h⟩ := s.likeLog_post a b c d
  rw [h]; rfl
@[simp] theorem State.post_outstanding (s : State) (a b c d : Nat) : (s.post a b c d).outstanding = s.outstanding := by
  obtain ⟨g, l, o, p, h⟩ := s.likeLog_post a b c d
  rw [h]; rfl
@[simp] theorem State.post_answers (s : State) (a b c d : Nat) : (s.post a b c d).answers = s.answers := by
  obtain ⟨g, l, o, p, h⟩ := s.likeLog_post a b c d
  rw [h]; rfl
@[simp] theorem State.post_priv (s : State) (a b c d : Nat) : (s.post a b c d).priv = s.priv := by
  obtain ⟨g, l, o, p, h⟩ := s.likeLog_post a b c d
  rw [h]; rfl
@[simp] theorem State.post_objects (s : State) (a b c d : Nat) : (s.post a b c d).objects = s.objects := by
  obtain ⟨g, l, o, p, h⟩ := s.likeLog_post a b c d
  rw [h]; rfl
@[simp] theorem State.post_free (s : State) (a b c d : Nat) : (s.post a b c d).free = s.free := by
  obtain ⟨g, l, o, p, h⟩ := s.likeLog_post a b c d
  rw [h]; rfl
@[simp] theorem State.postStep_pending (s : State) (a b c d e : Nat) : (s.postStep a b c d e).pending = s.pending := by
  obtain ⟨g, l, o, p, h⟩ := s.likeLog_postStep a b c d e
  rw [h]; rfl
@[simp] theorem State.postStep_fuses (s : State) (a b c d e : Nat) : (s.postStep a b c d e).fuses = s.fuses := by
  obtain ⟨g, l, o, p, h⟩ := s.likeLog_postStep a b c d e
  rw [h]; rfl
@[simp] theorem State.postStep_ports (s : State) (a b c d e : Nat) : (s.postStep a b c d e).ports = s.ports := by
  obtain ⟨g, l, o, p, h⟩ := s.likeLog_postStep a b c d e
  rw [h]; rfl
@[simp] theorem State.postStep_mem (s : State) (a b c d e : Nat) : (s.postStep a b c d e).mem = s.mem := by
  obtain ⟨g, l, o, p, h⟩ := s.likeLog_postStep a b c d e
  rw [h]; rfl
@[simp] theorem State.postStep_poison (s : State) (a b c d e : Nat) : (s.postStep a b c d e).poison = s.poison := by
  obtain ⟨g, l, o, p, h⟩ := s.likeLog_postStep a b c d e
  rw [h]; rfl
@[simp] theorem State.postStep_seals (s : State) (a b c d e : Nat) : (s.postStep a b c d e).seals = s.seals := by
  obtain ⟨g, l, o, p, h⟩ := s.likeLog_postStep a b c d e
  rw [h]; rfl
@[simp] theorem State.postStep_spillSeals (s : State) (a b c d e : Nat) : (s.postStep a b c d e).spillSeals = s.spillSeals := by
  obtain ⟨g, l, o, p, h⟩ := s.likeLog_postStep a b c d e
  rw [h]; rfl
@[simp] theorem State.postStep_sealOp (s : State) (a b c d e : Nat) : (s.postStep a b c d e).sealOp = s.sealOp := by
  obtain ⟨g, l, o, p, h⟩ := s.likeLog_postStep a b c d e
  rw [h]; rfl
@[simp] theorem State.postStep_pcLate (s : State) (a b c d e : Nat) : (s.postStep a b c d e).pcLate = s.pcLate := by
  obtain ⟨g, l, o, p, h⟩ := s.likeLog_postStep a b c d e
  rw [h]; rfl
@[simp] theorem State.postStep_refMode (s : State) (a b c d e : Nat) : (s.postStep a b c d e).refMode = s.refMode := by
  obtain ⟨g, l, o, p, h⟩ := s.likeLog_postStep a b c d e
  rw [h]; rfl
@[simp] theorem State.postStep_bwRead (s : State) (a b c d e : Nat) : (s.postStep a b c d e).bwRead = s.bwRead := by
  obtain ⟨g, l, o, p, h⟩ := s.likeLog_postStep a b c d e
  rw [h]; rfl
@[simp] theorem State.postStep_ceSecond (s : State) (a b c d e : Nat) : (s.postStep a b c d e).ceSecond = s.ceSecond := by
  obtain ⟨g, l, o, p, h⟩ := s.likeLog_postStep a b c d e
  rw [h]; rfl
@[simp] theorem State.postStep_bias (s : State) (a b c d e : Nat) : (s.postStep a b c d e).bias = s.bias := by
  obtain ⟨g, l, o, p, h⟩ := s.likeLog_postStep a b c d e
  rw [h]; rfl
@[simp] theorem State.postStep_biasOp (s : State) (a b c d e : Nat) : (s.postStep a b c d e).biasOp = s.biasOp := by
  obtain ⟨g, l, o, p, h⟩ := s.likeLog_postStep a b c d e
  rw [h]; rfl
@[simp] theorem State.postStep_image (s : State) (a b c d e : Nat) : (s.postStep a b c d e).image = s.image := by
  obtain ⟨g, l, o, p, h⟩ := s.likeLog_postStep a b c d e
  rw [h]; rfl
@[simp] theorem State.postStep_loader (s : State) (a b c d e : Nat) : (s.postStep a b c d e).loader = s.loader := by
  obtain ⟨g, l, o, p, h⟩ := s.likeLog_postStep a b c d e
  rw [h]; rfl
@[simp] theorem State.postStep_queues (s : State) (a b c d e : Nat) : (s.postStep a b c d e).queues = s.queues := by
  obtain ⟨g, l, o, p, h⟩ := s.likeLog_postStep a b c d e
  rw [h]; rfl
@[simp] theorem State.postStep_anchors (s : State) (a b c d e : Nat) : (s.postStep a b c d e).anchors = s.anchors := by
  obtain ⟨g, l, o, p, h⟩ := s.likeLog_postStep a b c d e
  rw [h]; rfl
@[simp] theorem State.postStep_streams (s : State) (a b c d e : Nat) : (s.postStep a b c d e).streams = s.streams := by
  obtain ⟨g, l, o, p, h⟩ := s.likeLog_postStep a b c d e
  rw [h]; rfl
@[simp] theorem State.postStep_hosts (s : State) (a b c d e : Nat) : (s.postStep a b c d e).hosts = s.hosts := by
  obtain ⟨g, l, o, p, h⟩ := s.likeLog_postStep a b c d e
  rw [h]; rfl
@[simp] theorem State.postStep_hostHeld (s : State) (a b c d e : Nat) : (s.postStep a b c d e).hostHeld = s.hostHeld := by
  obtain ⟨g, l, o, p, h⟩ := s.likeLog_postStep a b c d e
  rw [h]; rfl
@[simp] theorem State.postStep_heldOps (s : State) (a b c d e : Nat) : (s.postStep a b c d e).heldOps = s.heldOps := by
  obtain ⟨g, l, o, p, h⟩ := s.likeLog_postStep a b c d e
  rw [h]; rfl
@[simp] theorem State.postStep_mbx (s : State) (a b c d e : Nat) : (s.postStep a b c d e).mbx = s.mbx := by
  obtain ⟨g, l, o, p, h⟩ := s.likeLog_postStep a b c d e
  rw [h]; rfl
@[simp] theorem State.postStep_mats (s : State) (a b c d e : Nat) : (s.postStep a b c d e).mats = s.mats := by
  obtain ⟨g, l, o, p, h⟩ := s.likeLog_postStep a b c d e
  rw [h]; rfl
@[simp] theorem State.postStep_vecs (s : State) (a b c d e : Nat) : (s.postStep a b c d e).vecs = s.vecs := by
  obtain ⟨g, l, o, p, h⟩ := s.likeLog_postStep a b c d e
  rw [h]; rfl
@[simp] theorem State.postStep_attCtx (s : State) (a b c d e : Nat) : (s.postStep a b c d e).attCtx = s.attCtx := by
  obtain ⟨g, l, o, p, h⟩ := s.likeLog_postStep a b c d e
  rw [h]; rfl
@[simp] theorem State.postStep_walkers (s : State) (a b c d e : Nat) : (s.postStep a b c d e).walkers = s.walkers := by
  obtain ⟨g, l, o, p, h⟩ := s.likeLog_postStep a b c d e
  rw [h]; rfl
@[simp] theorem State.postStep_ccReqs (s : State) (a b c d e : Nat) : (s.postStep a b c d e).ccReqs = s.ccReqs := by
  obtain ⟨g, l, o, p, h⟩ := s.likeLog_postStep a b c d e
  rw [h]; rfl
@[simp] theorem State.postStep_kvPools (s : State) (a b c d e : Nat) : (s.postStep a b c d e).kvPools = s.kvPools := by
  obtain ⟨g, l, o, p, h⟩ := s.likeLog_postStep a b c d e
  rw [h]; rfl
@[simp] theorem State.postStep_hauls (s : State) (a b c d e : Nat) : (s.postStep a b c d e).hauls = s.hauls := by
  obtain ⟨g, l, o, p, h⟩ := s.likeLog_postStep a b c d e
  rw [h]; rfl
@[simp] theorem State.postStep_credits (s : State) (a b c d e : Nat) : (s.postStep a b c d e).credits = s.credits := by
  obtain ⟨g, l, o, p, h⟩ := s.likeLog_postStep a b c d e
  rw [h]; rfl
@[simp] theorem State.postStep_upd (s : State) (a b c d e : Nat) : (s.postStep a b c d e).upd = s.upd := by
  obtain ⟨g, l, o, p, h⟩ := s.likeLog_postStep a b c d e
  rw [h]; rfl
@[simp] theorem State.postStep_fpMarks (s : State) (a b c d e : Nat) : (s.postStep a b c d e).fpMarks = s.fpMarks := by
  obtain ⟨g, l, o, p, h⟩ := s.likeLog_postStep a b c d e
  rw [h]; rfl
@[simp] theorem State.postStep_linkPorts (s : State) (a b c d e : Nat) : (s.postStep a b c d e).linkPorts = s.linkPorts := by
  obtain ⟨g, l, o, p, h⟩ := s.likeLog_postStep a b c d e
  rw [h]; rfl
@[simp] theorem State.postStep_linkParties (s : State) (a b c d e : Nat) : (s.postStep a b c d e).linkParties = s.linkParties := by
  obtain ⟨g, l, o, p, h⟩ := s.likeLog_postStep a b c d e
  rw [h]; rfl
@[simp] theorem State.postStep_anchorOps (s : State) (a b c d e : Nat) : (s.postStep a b c d e).anchorOps = s.anchorOps := by
  obtain ⟨g, l, o, p, h⟩ := s.likeLog_postStep a b c d e
  rw [h]; rfl
@[simp] theorem State.postStep_loops (s : State) (a b c d e : Nat) : (s.postStep a b c d e).loops = s.loops := by
  obtain ⟨g, l, o, p, h⟩ := s.likeLog_postStep a b c d e
  rw [h]; rfl
@[simp] theorem State.postStep_sensors (s : State) (a b c d e : Nat) : (s.postStep a b c d e).sensors = s.sensors := by
  obtain ⟨g, l, o, p, h⟩ := s.likeLog_postStep a b c d e
  rw [h]; rfl
@[simp] theorem State.postStep_ocLimit (s : State) (a b c d e : Nat) : (s.postStep a b c d e).ocLimit = s.ocLimit := by
  obtain ⟨g, l, o, p, h⟩ := s.likeLog_postStep a b c d e
  rw [h]; rfl
@[simp] theorem State.postStep_i3c (s : State) (a b c d e : Nat) : (s.postStep a b c d e).i3c = s.i3c := by
  obtain ⟨g, l, o, p, h⟩ := s.likeLog_postStep a b c d e
  rw [h]; rfl
@[simp] theorem State.postStep_i3cHeld (s : State) (a b c d e : Nat) : (s.postStep a b c d e).i3cHeld = s.i3cHeld := by
  obtain ⟨g, l, o, p, h⟩ := s.likeLog_postStep a b c d e
  rw [h]; rfl
@[simp] theorem State.postStep_flash (s : State) (a b c d e : Nat) : (s.postStep a b c d e).flash = s.flash := by
  obtain ⟨g, l, o, p, h⟩ := s.likeLog_postStep a b c d e
  rw [h]; rfl
@[simp] theorem State.postStep_flashOp (s : State) (a b c d e : Nat) : (s.postStep a b c d e).flashOp = s.flashOp := by
  obtain ⟨g, l, o, p, h⟩ := s.likeLog_postStep a b c d e
  rw [h]; rfl
@[simp] theorem State.postStep_boot (s : State) (a b c d e : Nat) : (s.postStep a b c d e).boot = s.boot := by
  obtain ⟨g, l, o, p, h⟩ := s.likeLog_postStep a b c d e
  rw [h]; rfl
@[simp] theorem State.postStep_sioFw (s : State) (a b c d e : Nat) : (s.postStep a b c d e).sioFw = s.sioFw := by
  obtain ⟨g, l, o, p, h⟩ := s.likeLog_postStep a b c d e
  rw [h]; rfl
@[simp] theorem State.postStep_ccFw (s : State) (a b c d e : Nat) : (s.postStep a b c d e).ccFw = s.ccFw := by
  obtain ⟨g, l, o, p, h⟩ := s.likeLog_postStep a b c d e
  rw [h]; rfl
@[simp] theorem State.postStep_session (s : State) (a b c d e : Nat) : (s.postStep a b c d e).session = s.session := by
  obtain ⟨g, l, o, p, h⟩ := s.likeLog_postStep a b c d e
  rw [h]; rfl
@[simp] theorem State.postStep_power (s : State) (a b c d e : Nat) : (s.postStep a b c d e).power = s.power := by
  obtain ⟨g, l, o, p, h⟩ := s.likeLog_postStep a b c d e
  rw [h]; rfl
@[simp] theorem State.postStep_env (s : State) (a b c d e : Nat) : (s.postStep a b c d e).env = s.env := by
  obtain ⟨g, l, o, p, h⟩ := s.likeLog_postStep a b c d e
  rw [h]; rfl
@[simp] theorem State.postStep_token (s : State) (a b c d e : Nat) : (s.postStep a b c d e).token = s.token := by
  obtain ⟨g, l, o, p, h⟩ := s.likeLog_postStep a b c d e
  rw [h]; rfl
@[simp] theorem State.postStep_needs (s : State) (a b c d e : Nat) : (s.postStep a b c d e).needs = s.needs := by
  obtain ⟨g, l, o, p, h⟩ := s.likeLog_postStep a b c d e
  rw [h]; rfl
@[simp] theorem State.postStep_outstanding (s : State) (a b c d e : Nat) : (s.postStep a b c d e).outstanding = s.outstanding := by
  obtain ⟨g, l, o, p, h⟩ := s.likeLog_postStep a b c d e
  rw [h]; rfl
@[simp] theorem State.postStep_answers (s : State) (a b c d e : Nat) : (s.postStep a b c d e).answers = s.answers := by
  obtain ⟨g, l, o, p, h⟩ := s.likeLog_postStep a b c d e
  rw [h]; rfl
@[simp] theorem State.postStep_priv (s : State) (a b c d e : Nat) : (s.postStep a b c d e).priv = s.priv := by
  obtain ⟨g, l, o, p, h⟩ := s.likeLog_postStep a b c d e
  rw [h]; rfl
@[simp] theorem State.postStep_objects (s : State) (a b c d e : Nat) : (s.postStep a b c d e).objects = s.objects := by
  obtain ⟨g, l, o, p, h⟩ := s.likeLog_postStep a b c d e
  rw [h]; rfl
@[simp] theorem State.postStep_free (s : State) (a b c d e : Nat) : (s.postStep a b c d e).free = s.free := by
  obtain ⟨g, l, o, p, h⟩ := s.likeLog_postStep a b c d e
  rw [h]; rfl

end Sys2Proof.Machine
end

