-- ==== Sys2Proof/Laws/Frame.lean ====
section
/-! SUPPORT. What an access to memory can change, said once: the memory and its marks, the controllers' counts, the registers,
the log, and what the access waits for. -/

namespace Sys2Proof.Machine

/-- A state with other memory, marks, controllers' counts, registers, log, trace, waits and latched PMBus bits. -/
def State.withMem (s : State) (m : Memory) (p : SMap Bool) (late bw ce : SMap Nat) (g : SMap Word) (l : Log) (o : List Out)
    (n : List Need) (x : List (Tok × Need × Answer)) (b : Nat) : State :=
  { s with mem := m, poison := p, pcLate := late, bwRead := bw, ceSecond := ce, regs := g, log := l, out := o, needs := n, answers := x, pmb := b }

/-- Two states differ at most in what an access to memory can change. -/
def State.likeMem (s t : State) : Prop := ∃ m p late bw ce g l o n x b, t = s.withMem m p late bw ce g l o n x b

theorem State.likeMem_refl (s : State) : s.likeMem s := ⟨_, _, _, _, _, _, _, _, _, _, _, rfl⟩

theorem State.likeMem_trans {s t u : State} (h : s.likeMem t) (h' : t.likeMem u) : s.likeMem u := by
  obtain ⟨_, _, _, _, _, _, _, _, _, _, _, rfl⟩ := h
  obtain ⟨_, _, _, _, _, _, _, _, _, _, _, rfl⟩ := h'
  exact ⟨_, _, _, _, _, _, _, _, _, _, _, rfl⟩

theorem State.likeMem_log {s t : State} (h : s.likeLog t) : s.likeMem t := by
  obtain ⟨_, _, _, _, rfl⟩ := h
  exact ⟨_, _, _, _, _, _, _, _, _, _, _, rfl⟩

theorem State.likeMem_foldl {α : Type} {f : State → α → State} (h : ∀ (s : State) a, s.likeMem (f s a)) (l : List α) (s : State) :
    s.likeMem (l.foldl f s) := by
  induction l generalizing s with
  | nil => exact s.likeMem_refl
  | cons a l ih => exact State.likeMem_trans (h s a) (ih _)

theorem State.likeMem_foldl_pair {α β : Type} {f : State × β → α → State × β} (h : ∀ (p : State × β) a, p.1.likeMem (f p a).1) (l : List α)
    (p : State × β) : p.1.likeMem (l.foldl f p).1 := by
  induction l generalizing p with
  | nil => exact p.1.likeMem_refl
  | cons a l ih => exact State.likeMem_trans (h p a) (ih _)

theorem State.likeMem_setPoison (s : State) (l : Nat) (b : Bool) : s.likeMem (s.setPoison l b) := ⟨_, _, _, _, _, _, _, _, _, _, _, rfl⟩
theorem State.likeMem_setMem (s : State) (m : Memory) : s.likeMem { s with mem := m } := ⟨_, _, _, _, _, _, _, _, _, _, _, rfl⟩

theorem State.likeMem_need (s : State) (n : Need) : s.likeMem (s.need n) := by
  unfold State.need
  split
  · exact s.likeMem_refl
  · exact ⟨_, _, _, _, _, _, _, _, _, _, _, rfl⟩

theorem State.likeMem_memErr (s : State) (src : Src) (k a : Nat) : s.likeMem (s.memErr src k a) := by
  unfold State.memErr
  dsimp only
  split <;> exact State.likeMem_log (State.likeLog_trans (s.likeLog_setReg _ _)
    (State.likeLog_trans (State.likeLog_setReg _ _ _) (State.likeLog_raise_post _ _ _ _ _ _ _ _ _)))

theorem State.likeMem_pcDone (s : State) (c p : Nat) : s.likeMem (s.pcDone c p) := ⟨_, _, _, _, _, _, _, _, _, _, _, rfl⟩
theorem State.likeMem_setLate (s : State) (m : SMap Nat) : s.likeMem { s with pcLate := m } := ⟨_, _, _, _, _, _, _, _, _, _, _, rfl⟩
theorem State.likeMem_setBw (s : State) (m : SMap Nat) : s.likeMem { s with bwRead := m } := ⟨_, _, _, _, _, _, _, _, _, _, _, rfl⟩
theorem State.likeMem_setCe (s : State) (m : SMap Nat) : s.likeMem { s with ceSecond := m } := ⟨_, _, _, _, _, _, _, _, _, _, _, rfl⟩

theorem State.likeMem_pcTimeout (s : State) (c p : Nat) : s.likeMem (s.pcTimeout c p) := by
  unfold State.pcTimeout
  dsimp only
  split
  · exact State.likeMem_trans (s.likeMem_setLate _) (State.likeMem_log (State.likeLog_trans (State.likeLog_setFld _ _ _ _ _)
      (State.likeLog_raise_post _ _ _ _ _ _ _ _ _)))
  · exact s.likeMem_setLate _

theorem State.likeMem_count (s : State) (o n : Nat) : s.likeMem (s.count o n) := State.likeMem_log (s.likeLog_count _ _)
theorem State.likeMem_emit (s : State) (x : Out) : s.likeMem (s.emit x) := State.likeMem_log (s.likeLog_emit _)

theorem State.likeMem_corrected (s : State) (c a : Nat) : s.likeMem (s.corrected c a) :=
  State.likeMem_trans (State.likeMem_trans (s.likeMem_count _ _) (State.likeMem_setCe _ _)) (State.likeMem_log (State.likeLog_post _ _ _ _ _))

theorem State.likeMem_ite {s t u : State} {c : Prop} [Decidable c] (ht : s.likeMem t) (hu : s.likeMem u) :
    s.likeMem (if c then t else u) := by split <;> assumption

theorem State.likeMem_iteFst {α : Type} {s : State} {t u : State × α} {c : Prop} [Decidable c] (ht : s.likeMem t.1) (hu : s.likeMem u.1) :
    s.likeMem (if c then t else u).1 := by split <;> assumption

theorem State.likeMem_intake (s : State) (b : Bool) : s.likeMem (s.intake b) := State.likeMem_ite (s.likeMem_need _) s.likeMem_refl

theorem State.likeMem_tallyRead (s : State) (b : Bool) (cp : Nat × Nat) (n : Nat) : s.likeMem (s.tallyRead b cp n) :=
  State.likeMem_ite (State.likeMem_trans (State.likeMem_trans (s.likeMem_pcDone _ _) (State.likeMem_count _ _ _)) (State.likeMem_setBw _ _))
    s.likeMem_refl

theorem State.likeMem_tallyWrite (s : State) (b : Bool) (cp : Nat × Nat) (n : Nat) : s.likeMem (s.tallyWrite b cp n) :=
  State.likeMem_ite (State.likeMem_trans (s.likeMem_pcDone _ _) (State.likeMem_count _ _ _)) s.likeMem_refl

theorem State.likeMem_tallyCe (s : State) (b : Bool) (src : Src) (f : Option MemFault) (cp : Nat × Nat) (la : Nat) :
    s.likeMem (s.tallyCe b src f cp la) :=
  State.likeMem_ite (State.likeMem_ite (s.likeMem_corrected _ _) (State.likeMem_log (State.likeLog_post _ _ _ _ _))) s.likeMem_refl

/-! ## Requests -/

theorem State.likeMem_store (s : State) (m : Memory) (c : Prop) [Decidable c] (l : Nat) (b : Bool) :
    s.likeMem (if c then State.setPoison { s with mem := m } l b else { s with mem := m }) :=
  State.likeMem_ite (State.likeMem_trans (s.likeMem_setMem m) (State.likeMem_setPoison _ _ _)) (s.likeMem_setMem m)

theorem State.likeMem_writeLine (src : Src) (a : Nat) (bytes : List Byte) (bad : List Nat) (acc : State × Option (Nat × Nat))
    (line : Nat) : acc.1.likeMem (State.writeLine src a bytes bad acc line).1 := by
  obtain ⟨s, err⟩ := acc
  unfold State.writeLine
  dsimp only
  generalize decide (line * 32 < stackedEnd) = stk
  generalize s.lineHome stk (line * 32) = cp
  refine State.likeMem_iteFst ?_ ?_
  · refine State.likeMem_trans (s.likeMem_tallyWrite stk cp 0) ?_
    exact State.likeMem_trans ((s.tallyWrite stk cp 0).likeMem_setPoison line true) (State.likeMem_memErr _ src 2 (line * 32))
  · generalize min (a + bytes.length) (line * 32 + 32) - max a (line * 32) = n
    refine State.likeMem_trans (s.likeMem_tallyWrite stk cp n) ?_
    refine State.likeMem_trans ((s.tallyWrite stk cp n).likeMem_tallyCe stk src (s.lineFault (line * 32)) cp (line * 32)) ?_
    generalize (s.tallyWrite stk cp n).tallyCe stk src (s.lineFault (line * 32)) cp (line * 32) = v
    exact v.likeMem_store _ _ _ _

theorem State.likeMem_spillOut (s : State) (h a : Nat) (bytes : List Byte) (bad : List Nat) : s.likeMem (s.spillOut h a bytes bad) := by
  unfold State.spillOut
  dsimp only
  split
  · exact State.likeMem_trans (s.likeMem_count _ _) (State.likeMem_foldl (fun u l => State.likeMem_emit _ _) _ _)
  · exact State.likeMem_trans (s.likeMem_count _ _) (State.likeMem_emit _ _)

theorem State.likeMem_rangeErr (s : State) (src : Src) (a : Nat) : s.likeMem (s.rangeErr src a) :=
  State.likeMem_log (s.likeLog_post _ _ _ _)

theorem State.likeMem_storeReq (src : Src) (base : Nat) (bytes : List Byte) (bad : List Nat) (acc : State × Option (Nat × Nat))
    (r : Nat × Nat) : acc.1.likeMem (State.storeReq src base bytes bad acc r).1 := by
  obtain ⟨s, err⟩ := acc
  unfold State.storeReq
  dsimp only
  split
  · exact s.likeMem_spillOut _ _ _ _
  · exact s.likeMem_rangeErr _ _
  · refine State.likeMem_iteFst (State.likeMem_trans (s.likeMem_memErr _ _ _) (State.likeMem_pcTimeout _ _ _)) ?_
    exact State.likeMem_foldl_pair (fun p l => State.likeMem_writeLine src r.1 (slice bytes (r.1 - base) r.2) bad p l) _ (s, err)

theorem State.likeMem_writeReq (src : Src) (base : Nat) (bytes : List Byte) (bad : List Nat) (acc : State × Option (Nat × Nat))
    (r : Nat × Nat) : acc.1.likeMem (State.writeReq src base bytes bad acc r).1 :=
  State.likeMem_trans (acc.1.likeMem_intake _) (State.likeMem_storeReq src base bytes bad (_, acc.2) r)

theorem State.likeMem_breachCheck (src : Src) (a : Nat) (s : State) (p : Nat) : s.likeMem (State.breachCheck src a s p) := by
  have hb : ∀ b, s.likeMem (s.breach src b) := fun b =>
    State.likeMem_log (State.likeLog_trans (s.likeLog_setReg _ _) (State.likeLog_raise_post _ _ _ _ _ _ _ _ _))
  unfold State.breachCheck
  dsimp only
  split
  · split
    · exact s.likeMem_refl
    · exact hb _
  · split
    · exact hb _
    · exact s.likeMem_refl
  · exact s.likeMem_refl

theorem State.likeMem_breachPages (s : State) (src : Src) (a n : Nat) : s.likeMem (s.breachPages src a n) :=
  State.likeMem_foldl (fun u p => State.likeMem_breachCheck src a u p) _ _

theorem State.likeMem_writeBack (s : State) (h line : Nat) (b : List Byte) : s.likeMem (s.writeBack h line b) := by
  unfold State.writeBack
  dsimp only
  exact State.likeMem_ite s.likeMem_refl (State.likeMem_trans (s.likeMem_breachPages _ _ _)
    (State.likeMem_foldl_pair (fun p r => State.likeMem_storeReq _ _ _ _ p r) _ (_, none)))

theorem State.likeMem_snoopHost (line : Nat) (inv : Bool) (s : State) (h : Nat) : s.likeMem (State.snoopHost line inv s h) := by
  unfold State.snoopHost
  exact State.likeMem_ite s.likeMem_refl (s.likeMem_need _)

theorem State.likeMem_snoopRange (s : State) (src : Src) (a len : Nat) (inv : Bool) : s.likeMem (s.snoopRange src a len inv) := by
  unfold State.snoopRange
  split
  · exact s.likeMem_refl
  · apply State.likeMem_foldl
    intro u l
    show u.likeMem (if _ then _ else _)
    split
    · exact u.likeMem_refl
    · exact State.likeMem_foldl (fun v h => State.likeMem_snoopHost _ _ v h) _ _

theorem State.likeMem_readLine (src : Src) (a len : Nat) (acc : State × Rd) (line : Nat) :
    acc.1.likeMem (State.readLine src a len acc line).1 := by
  obtain ⟨s, rd⟩ := acc
  unfold State.readLine
  dsimp only
  generalize decide (line * 32 < stackedEnd) = stk
  generalize s.lineHome stk (line * 32) = cp
  generalize min (a + len) (line * 32 + 32) - max a (line * 32) = n
  exact State.likeMem_iteFst (State.likeMem_trans (s.likeMem_tallyRead stk cp n) ((s.tallyRead stk cp n).likeMem_memErr src 1 (line * 32)))
    (State.likeMem_trans (s.likeMem_tallyRead stk cp n) ((s.tallyRead stk cp n).likeMem_tallyCe stk src _ cp _))

theorem State.likeMem_readReq (src : Src) (acc : State × Rd) (r : Nat × Nat) : acc.1.likeMem (State.readReq src acc r).1 := by
  obtain ⟨s, rd⟩ := acc
  obtain ⟨a, n⟩ := r
  unfold State.readReq
  dsimp only
  split
  · split
    · exact s.likeMem_count _ _
    · exact s.likeMem_memErr src 3 a
    · exact State.likeMem_foldl (fun u l => u.likeMem_memErr src 1 (l * 32)) _ _
    · exact State.likeMem_iteFst (s.likeMem_rangeErr _ _) (s.likeMem_need _)
  · refine State.likeMem_trans (s.likeMem_intake (decide (a < stackedEnd))) ?_
    generalize s.intake (decide (a < stackedEnd)) = u
    refine State.likeMem_iteFst (State.likeMem_trans (u.likeMem_memErr src 3 a) (State.likeMem_pcTimeout _ _ _)) ?_
    exact State.likeMem_foldl_pair (fun p l => State.likeMem_readLine src a n p l) _ (u, rd)

/-- A read of memory changes at most what an access can change. -/
theorem State.likeMem_readMemBy (s : State) (src : Src) (cap a len : Nat) : s.likeMem (s.readMemBy src cap a len).1 := by
  unfold State.readMemBy State.readPast
  split
  · exact s.likeMem_rangeErr _ _
  · exact State.likeMem_trans (s.likeMem_snoopRange src a len false)
      (State.likeMem_foldl_pair (fun p r => State.likeMem_readReq src p r) _ (_, _))

theorem State.likeMem_readMem (s : State) (src : Src) (a len : Nat) : s.likeMem (s.readMem src a len).1 :=
  s.likeMem_readMemBy src 2048 a len

/-- A write of memory changes at most what an access can change. -/
theorem State.likeMem_writeMemBy (s : State) (src : Src) (cap a : Nat) (bytes : List Byte) (bad : List Nat) :
    s.likeMem (s.writeMemBy src cap a bytes bad).1 := by
  unfold State.writeMemBy State.writePast
  split
  · exact s.likeMem_refl
  · split
    · exact s.likeMem_rangeErr _ _
    · exact State.likeMem_trans (s.likeMem_snoopRange _ _ _ _) (State.likeMem_trans (State.likeMem_breachPages _ _ _ _)
        (State.likeMem_foldl_pair (fun p r => State.likeMem_writeReq src a bytes bad p r) _ (_, none)))

theorem State.likeMem_writeMemP (s : State) (src : Src) (a : Nat) (bytes : List Byte) (bad : List Nat) :
    s.likeMem (s.writeMemP src a bytes bad).1 := s.likeMem_writeMemBy src 2048 a bytes bad

theorem State.likeMem_writeMem (s : State) (src : Src) (a : Nat) (bytes : List Byte) : s.likeMem (s.writeMem src a bytes).1 :=
  s.likeMem_writeMemP src a bytes []

end Sys2Proof.Machine
end

