-- ==== Sys2Proof/Laws/Memory.lean ====
section
/-! SUPPORT. Bytes of memory: a read after a write, what a write leaves alone, and the canonical form that every operation
keeps. -/

namespace Sys2Proof.Machine

variable (m : Memory)

/-! ## Writes and what an unlisted address reads as -/

theorem Memory.unlisted_setByte (a : Nat) (b : Byte) (x : Nat) : (m.setByte a b).unlisted x = m.unlisted x := (rfl)

theorem Memory.open_setByte (a : Nat) (b : Byte) : (m.setByte a b).open_ = m.open_ := (rfl)

theorem Memory.open_setBytes (a : Nat) (l : List Byte) : (m.setBytes a l).open_ = m.open_ := by
  induction l generalizing m a with
  | nil => rfl
  | cons b r ih => rw [Memory.setBytes, ih, Memory.open_setByte]

theorem Memory.unlisted_setBytes (a : Nat) (l : List Byte) (x : Nat) : (m.setBytes a l).unlisted x = m.unlisted x := by
  simp only [Memory.unlisted, Memory.open_setBytes]

/-! ## One byte -/

@[simp] theorem Memory.byte_setByte_self (a : Nat) (b : Byte) : (m.setByte a b).byte a = b := by
  rw [Memory.byte, Memory.unlisted_setByte, Memory.setByte]
  split
  · rename_i h; simp [h]
  · simp

theorem Memory.byte_setByte_ne {a x : Nat} (b : Byte) (h : x ≠ a) : (m.setByte a b).byte x = m.byte x := by
  rw [Memory.byte, Memory.unlisted_setByte, Memory.setByte, Memory.byte]
  split
  · exact mget_mdel_ne _ _ h
  · exact mget_mput_ne _ _ _ h

/-! ## A string of bytes -/

theorem Memory.byte_setBytes_out {a x : Nat} (l : List Byte) (h : x < a ∨ a + l.length ≤ x) :
    (m.setBytes a l).byte x = m.byte x := by
  induction l generalizing m a with
  | nil => rfl
  | cons b r ih =>
    simp only [List.length_cons] at h
    rw [Memory.setBytes, ih _ (by omega), Memory.byte_setByte_ne _ _ (by omega)]

theorem Memory.byte_setBytes_in {a i : Nat} (l : List Byte) (h : i < l.length) :
    (m.setBytes a l).byte (a + i) = l.getD i 0 := by
  induction l generalizing m a i with
  | nil => simp at h
  | cons b r ih =>
    rw [Memory.setBytes]
    cases i with
    | zero => rw [Nat.add_zero, Memory.byte_setBytes_out _ _ (by omega)]; simp
    | succ i =>
      simp only [List.length_cons] at h
      have := ih (m.setByte a b) (a := a + 1) (i := i) (by omega)
      rw [show a + (i + 1) = a + 1 + i by omega, this]
      simp

theorem mget_filter {α : Type} (d : α) (c : SMap α) (p : Nat × α → Bool) {k : Nat} (h : ∀ v, p (k, v) = true) :
    mget d (c.filter p) k = mget d c k := by
  induction c with
  | nil => rfl
  | cons e r ih =>
    obtain ⟨j, v⟩ := e
    by_cases hj : j = k
    · subst hj
      rw [List.filter_cons_of_pos (h v)]
      simp [mget]
    · by_cases hp : p (j, v) = true
      · rw [List.filter_cons_of_pos hp]; simp [mget, hj, ih]
      · rw [List.filter_cons_of_neg hp]; simp [mget, hj, ih]

/-- Reading a string reads its bytes. -/
theorem Memory.bytes_eq (a len : Nat) : m.bytes a len = (List.range len).map (fun i => m.byte (a + i)) := by
  unfold Memory.bytes
  apply List.map_congr_left
  intro i hi
  rw [Memory.byte, mget_filter]
  intro v
  have := List.mem_range.mp hi
  simp only [decide_eq_true_eq]
  omega

theorem Memory.length_bytes (a len : Nat) : (m.bytes a len).length = len := by simp [Memory.bytes]

/-- What was written is read. -/
theorem Memory.bytes_setBytes (a : Nat) (l : List Byte) : (m.setBytes a l).bytes a l.length = l := by
  rw [Memory.bytes_eq]
  apply List.ext_getElem
  · simp
  · intro i h1 h2
    simp only [List.getElem_map, List.getElem_range]
    rw [Memory.byte_setBytes_in _ _ h2]
    simp [h2]

/-! ## The canonical form -/

theorem Memory.wf_setByte {a : Nat} {b : Byte} (h : m.wf = true) : (m.setByte a b).wf = true := by
  simp only [Memory.wf, Bool.and_eq_true, List.all_eq_true, decide_eq_true_eq] at *
  refine ⟨?_, ?_⟩
  · simp only [Memory.setByte]
    split
    · exact mdel_rising _ h.1
    · exact mput_rising _ (Nat.zero_le _) h.1
  · intro c hc
    rw [Memory.unlisted_setByte]
    simp only [Memory.setByte] at hc
    split at hc
    · exact h.2 c (mem_mdel hc)
    · rename_i hb
      rcases mem_mput hc with rfl | hc
      · exact hb
      · exact h.2 c hc

theorem Memory.wf_setBytes {a : Nat} {l : List Byte} (h : m.wf = true) : (m.setBytes a l).wf = true := by
  induction l generalizing m a with
  | nil => exact h
  | cons b r ih => rw [Memory.setBytes]; exact ih _ (Memory.wf_setByte _ h)

theorem risingFrom_filter {α : Type} {c : SMap α} {b : Nat} (p : Nat × α → Bool) (h : risingFrom b c = true) :
    risingFrom b (c.filter p) = true := by
  induction c generalizing b with
  | nil => rfl
  | cons e r ih =>
    obtain ⟨j, v⟩ := e
    simp only [risingFrom, Bool.and_eq_true, decide_eq_true_eq] at h
    by_cases hp : p (j, v) = true
    · rw [List.filter_cons_of_pos hp]; simp [risingFrom, h.1, ih h.2]
    · rw [List.filter_cons_of_neg hp]; exact risingFrom_mono (by omega) (ih h.2)

theorem Memory.unlisted_openRange {lo hi a : Nat} (k : Nat) (h : ¬ (lo ≤ a ∧ a < hi)) :
    (m.openRange lo hi k).unlisted a = m.unlisted a := by
  simp only [Memory.unlisted, Memory.openRange]
  rw [List.find?_cons_of_neg]
  simpa using h

theorem Memory.wf_openRange {lo hi k : Nat} (h : m.wf = true) : (m.openRange lo hi k).wf = true := by
  simp only [Memory.wf, Bool.and_eq_true, List.all_eq_true, decide_eq_true_eq] at *
  refine ⟨risingFrom_filter _ h.1, ?_⟩
  intro c hc
  have hm := List.mem_filter.mp hc
  rw [Memory.unlisted_openRange _ _ (of_decide_eq_true hm.2)]
  exact h.2 c hm.1

/-- A byte outside the opened range keeps its value; one inside is a free value of the new stamp. -/
theorem Memory.byte_openRange_out {lo hi k a : Nat} (h : ¬ (lo ≤ a ∧ a < hi)) : (m.openRange lo hi k).byte a = m.byte a := by
  rw [Memory.byte, Memory.unlisted_openRange _ _ h, Memory.byte]
  exact mget_filter _ _ _ (fun _ => decide_eq_true h)

/-- Memory after reset has the canonical form. -/
theorem Memory.wf_reset : State.reset.mem.wf = true := by decide

end Sys2Proof.Machine
end

