-- ==== Sys2Proof/Laws/Queue.lean ====
section
/-! SUPPORT. The issue of a record by its stream, said once: what the record's meaning does in its starting state is what
its issue does. -/

namespace Sys2Proof.Machine

/-- The record at the front of a ready queue issues, and its meaning runs (R90, R94). -/
theorem State.issue_ready {s : State} {q op : Nat} {r : Fetched} {rest : List Fetched} (h : s.ready q op r rest) (env : Env)
    (run : Ctx → State → State × Phase) :
    s.issue q op env run = s.issued q r (run (s.ctx q r) (s.starting q r env)) := by
  obtain ⟨-, -, hc, hf, ho, hk⟩ := h
  unfold State.issue State.issued
  rw [hf]
  simp only [hc, ho, and_self, if_true]
  unfold State.runRecord
  simp only [hk]
  show (if _ then _ else _ : State × Phase).1.pushIssued q r (if _ then _ else _ : State × Phase).2 = _
  unfold State.starting State.ctx
  split <;> rfl

/-- A record whose checks decide what it does. -/
theorem State.issue_fail {s : State} {q op : Nat} {r : Fetched} {rest : List Fetched} (h : s.ready q op r rest) (env : Env)
    (fail : Ctx → State → Option (State × Phase)) (work : Ctx → State → State × Phase) {w : State × Phase}
    (hw : fail (s.ctx q r) (s.starting q r env) = some w) :
    s.issue q op env (fun c s => (fail c s).getD (work c s)) = s.issued q r w := by
  rw [State.issue_ready h, hw]; rfl

theorem State.issue_work {s : State} {q op : Nat} {r : Fetched} {rest : List Fetched} (h : s.ready q op r rest) (env : Env)
    (fail : Ctx → State → Option (State × Phase)) (work : Ctx → State → State × Phase)
    (hw : fail (s.ctx q r) (s.starting q r env) = none) :
    s.issue q op env (fun c s => (fail c s).getD (work c s)) = s.issued q r (work (s.ctx q r) (s.starting q r env)) := by
  rw [State.issue_ready h, hw]; rfl

/-- A queue that may not issue, or whose next record has another opcode, issues nothing. -/
theorem State.issue_not {s : State} {q op : Nat} (env : Env) (run : Ctx → State → State × Phase)
    (h : s.canIssue q = false ∨ ∀ r rest, (s.queue q).fetched = r :: rest → r.op ≠ op) : s.issue q op env run = s := by
  unfold State.issue
  split
  · rfl
  · rename_i r rest hf
    rw [if_neg]
    rintro ⟨hc, ho⟩
    rcases h with h | h
    · rw [h] at hc; cases hc
    · exact h _ _ hf ho

/-- A record that waits for nothing outside is issued with the phase its work gave. -/
theorem State.issued_done {s : State} {q : Nat} {r : Fetched} {w : State × Phase} (h : w.1.needs = []) :
    s.issued q r w = (w.1.closeTok (.record q r.num)).pushIssued q r w.2 := if_pos h

end Sys2Proof.Machine
end

