-- ==== Sys2Proof/Laws/Reads.lean ====
section
/-! SUPPORT. A read of stacked memory that meets nothing: it answers the bytes, and changes only the controllers' counts. -/

namespace Sys2Proof.Machine

/-- What a read that meets nothing changes: counts, and no pseudo-channel's state. -/
def State.tallied (s t : State) : Prop :=
  t = { s with regs := t.regs, pcLate := t.pcLate, bwRead := t.bwRead } ∧ ∀ a, t.pcDead a = s.pcDead a

theorem State.tallied_refl (s : State) : s.tallied s := ⟨rfl, fun _ => rfl⟩

theorem State.tallied_trans {s t u : State} (h : s.tallied t) (h' : t.tallied u) : s.tallied u := by
  refine ⟨?_, fun a => (h'.2 a).trans (h.2 a)⟩
  have e := h'.1
  rw [h.1] at e
  exact e

theorem State.tallied_mem {s t : State} (h : s.tallied t) : t.mem = s.mem := by rw [h.1]
theorem State.tallied_poison {s t : State} (h : s.tallied t) : t.poison = s.poison := by rw [h.1]
theorem State.tallied_env {s t : State} (h : s.tallied t) : t.env = s.env := by rw [h.1]
theorem State.tallied_loader {s t : State} (h : s.tallied t) : t.loader = s.loader := by rw [h.1]
theorem State.tallied_power {s t : State} (h : s.tallied t) : t.power = s.power := by rw [h.1]

theorem State.tallied_tallyRead (s : State) (stk : Bool) (cp : Nat × Nat) (n : Nat) : s.tallied (s.tallyRead stk cp n) := by
  unfold State.tallyRead
  split
  · refine ⟨rfl, fun a => ?_⟩
    have reg (o : Nat) (h : o ≠ Reg.MEM_STK_RD cp.1) :
        ({ ((s.pcDone cp.1 cp.2).count (Reg.MEM_STK_RD cp.1) n) with bwRead := mmod 0 s.bwRead cp.1 (· + n) } : State).reg o = s.reg o :=
      State.reg_count_ne (s.pcDone cp.1 cp.2) n h
    simp only [State.pcDead, State.stackUp, State.fld]
    rw [reg _ (by simp only [Reg.MEM_STK_STATUS, Reg.MEM_STK_RD]; omega), reg _ (by simp only [Reg.MEM_STK_PC_DOWN, Reg.MEM_STK_RD]; omega)]
    rfl
  · exact s.tallied_refl

theorem Memory.bytes_append (m : Memory) (a j k : Nat) : m.bytes a (j + k) = m.bytes a j ++ m.bytes (a + j) k := by
  simp [Memory.bytes_eq, List.range_add, Nat.add_assoc]

variable {src : Src}

/-- One line. -/
theorem State.readLine_quiet (s : State) (rd : Rd) (a n line : Nat) (hf : s.env.faults = []) (hp : s.poison = []) :
    ∃ t, s.tallied t ∧ State.readLine src a n (s, rd) line =
      (t, { rd with bytes := rd.bytes ++ s.mem.bytes (max a (line * 32)) (min (a + n) (line * 32 + 32) - max a (line * 32)) }) := by
  have ht := s.tallied_tallyRead (decide (line * 32 < stackedEnd)) (s.lineHome (decide (line * 32 < stackedEnd)) (line * 32))
    (min (a + n) (line * 32 + 32) - max a (line * 32))
  refine ⟨_, ht, ?_⟩
  simp [State.readLine, State.lineFault, State.poisoned, State.tallyCe, hf, State.tallied_mem ht, State.tallied_poison ht, hp]

/-- The lines of a request. -/
theorem State.readLines_quiet (s : State) (rd : Rd) (a n j : Nat) (hf : s.env.faults = []) (hp : s.poison = []) :
    ∃ t, s.tallied t ∧ ((List.range j).map (a / 32 + ·)).foldl (State.readLine src a n) (s, rd) =
      (t, { rd with bytes := rd.bytes ++ s.mem.bytes a (min n (32 * (a / 32 + j) - a)) }) := by
  induction j with
  | zero =>
    refine ⟨s, s.tallied_refl, ?_⟩
    have : min n (32 * (a / 32 + 0) - a) = 0 := by omega
    simp only [this]
    simp [Memory.bytes]
  | succ j ih =>
    obtain ⟨t, ht, e⟩ := ih
    rw [List.range_succ, List.map_append, List.foldl_append, e]
    obtain ⟨u, hu, e'⟩ := State.readLine_quiet (src := src) t { rd with bytes := rd.bytes ++ s.mem.bytes a (min n (32 * (a / 32 + j) - a)) }
      a n (a / 32 + j) (by rw [State.tallied_env ht, hf]) (by rw [State.tallied_poison ht, hp])
    refine ⟨u, State.tallied_trans ht hu, ?_⟩
    simp only [List.map_cons, List.map_nil, List.foldl_cons, List.foldl_nil, e', State.tallied_mem ht, List.append_assoc]
    congr 3
    generalize hk : min n (32 * (a / 32 + j) - a) = k
    by_cases hz : n ≤ 32 * (a / 32 + j) - a
    · have h1 : min (a + n) ((a / 32 + j) * 32 + 32) - max a ((a / 32 + j) * 32) = 0 := by omega
      have h2 : min n (32 * (a / 32 + (j + 1)) - a) = k := by omega
      rw [h1, h2]
      simp [Memory.bytes]
    · have h1 : max a ((a / 32 + j) * 32) = a + k := by omega
      have h2 : min n (32 * (a / 32 + (j + 1)) - a) = k + (min (a + n) ((a / 32 + j) * 32 + 32) - (a + k)) := by omega
      rw [h1, h2, Memory.bytes_append]

/-- One request. -/
theorem State.readReq_quiet (s : State) (rd : Rd) (a n : Nat) (hf : s.env.faults = []) (hp : s.poison = []) (hh : s.memHold = false)
    (ha : a < stackedEnd) (hd : s.pcDead a = false) :
    ∃ t, s.tallied t ∧ State.readReq src (s, rd) (a, n) = (t, { rd with bytes := rd.bytes ++ s.mem.bytes a n }) := by
  obtain ⟨t, ht, e⟩ := State.readLines_quiet (src := src) s rd a n ((a + n - 1) / 32 + 1 - a / 32) hf hp
  refine ⟨t, ht, ?_⟩
  have hm : min n (32 * (a / 32 + ((a + n - 1) / 32 + 1 - a / 32)) - a) = n := by omega
  rw [hm] at e
  have ht : s.timesOut a n = false := by simp [State.timesOut, hd, hf]
  have hi : inSpill a = false := decide_eq_false (fun h => absurd (Nat.lt_of_lt_of_le ha (Nat.le_trans (by decide) h.1)) (Nat.lt_irrefl a))
  simp [State.readReq, hi, ha, ht, hh, State.intake, linesOf, upTo, e]

/-- The requests of an access. -/
theorem State.readReqs_quiet (u : State) (cap fuel : Nat) : ∀ (s : State) (rd : Rd) (a len : Nat), s.env.faults = [] → s.poison = [] → s.memHold = false →
    (∀ r ∈ u.cutReqs cap fuel a len, r.1 < stackedEnd ∧ s.pcDead r.1 = false) →
    ∃ t, s.tallied t ∧ (u.cutReqs cap fuel a len).foldl (State.readReq src) (s, rd) =
      (t, { rd with bytes := rd.bytes ++ s.mem.bytes a ((u.cutReqs cap fuel a len).map (·.2)).sum }) := by
  induction fuel with
  | zero => exact fun s rd a len _ _ _ _ => ⟨s, s.tallied_refl, by simp [State.cutReqs, Memory.bytes]⟩
  | succ fuel ih =>
    intro s rd a len hf hp hh hd
    by_cases hz : len = 0
    · exact ⟨s, s.tallied_refl, by simp [State.cutReqs, hz, Memory.bytes]⟩
    · simp only [State.cutReqs, hz, if_false] at hd ⊢
      generalize min len (min cap (u.reqUnit a) - a % min cap (u.reqUnit a)) = n at hd ⊢
      obtain ⟨t, ht, e⟩ := State.readReq_quiet (src := src) s rd a n hf hp hh (hd (a, n) List.mem_cons_self).1 (hd (a, n) List.mem_cons_self).2
      have hh' : t.memHold = false := by simp only [State.memHold, State.tallied_loader ht, State.tallied_power ht]; exact hh
      obtain ⟨v, hv, e'⟩ := ih t { rd with bytes := rd.bytes ++ s.mem.bytes a n } (a + n) (len - n) (by rw [State.tallied_env ht, hf])
        (by rw [State.tallied_poison ht, hp]) hh' (fun r hr => ⟨(hd r (List.mem_cons_of_mem _ hr)).1, (ht.2 _).trans (hd r (List.mem_cons_of_mem _ hr)).2⟩)
      refine ⟨v, State.tallied_trans ht hv, ?_⟩
      simp only [List.foldl_cons, e, e', State.tallied_mem ht, List.append_assoc, List.map_cons, List.sum_cons, Memory.bytes_append]

theorem State.rangeBad_stacked (s : State) {a len : Nat} (h : a + len ≤ stackedEnd) : s.rangeBad a len = none := by
  unfold State.rangeBad State.holeIn State.firstBad
  by_cases hm : s.midSpill = true
  · simp [hm]
  by_cases hz : len = 0
  · simp [hz]
  · have ha : a < stackedEnd := by omega
    have he : s.rangeEnd a = stackedEnd := by simp [State.rangeEnd, State.place, ha]
    simp only [hz, if_false, he]
    rw [if_neg hm, if_neg (by omega), if_pos h]

theorem State.cutReqs_tallied {s t : State} (h : s.tallied t) (cap fuel : Nat) : ∀ a len, a + len ≤ stackedEnd → t.cutReqs cap fuel a len = s.cutReqs cap fuel a len := by
  induction fuel with
  | zero => exact fun _ _ _ => rfl
  | succ fuel ih =>
    intro a len hl
    by_cases hz : len = 0
    · simp [State.cutReqs, hz]
    · have ha : a < stackedEnd := by omega
      have hi : t.image = s.image := by rw [h.1]
      have hu : t.reqUnit a = s.reqUnit a := by simp [State.reqUnit, ha, hi]
      simp only [State.cutReqs, hz, if_false, hu]
      rw [ih _ _ (by omega)]

/-- A read that lies in stacked memory, with no fault reported, no line poisoned, no page under bias and every pseudo-channel it
names in service, answers the bytes held, also after such reads. -/
theorem State.readMem_quiet {s t : State} (h : s.tallied t) (a len : Nat) (hl : a + len ≤ stackedEnd) (hf : s.env.faults = [])
    (hp : s.poison = []) (hb : s.bias = []) (hh : s.memHold = false) (hs : ((s.requests a len).map (·.2)).sum = len)
    (hd : ∀ r ∈ s.requests a len, r.1 < stackedEnd ∧ s.pcDead r.1 = false) :
    ∃ u, s.tallied u ∧ t.readMem src a len = (u, ⟨s.mem.bytes a len, [], none⟩) := by
  have hr := State.rangeBad_stacked t hl
  have hn : t.snoopRange src a len false = t := by
    have : t.bias = [] := by rw [h.1]; exact hb
    simp [State.snoopRange, this]
  simp only [State.requests, State.requestsBy] at hs hd
  have hq := State.cutReqs_tallied h 2048 (len / 256 + 2) a len hl
  have hh' : t.memHold = false := by simp only [State.memHold, State.tallied_loader h, State.tallied_power h]; exact hh
  obtain ⟨u, hu, e⟩ := State.readReqs_quiet (src := src) s 2048 (len / 256 + 2) t ⟨[], [], none⟩ a len (by rw [State.tallied_env h, hf])
    (by rw [State.tallied_poison h, hp]) hh' (fun r hr => ⟨(hd r hr).1, (h.2 _).trans (hd r hr).2⟩)
  refine ⟨u, State.tallied_trans h hu, ?_⟩
  simp only [State.readMem, State.readMemBy, State.readPast, hr, hn, State.requestsBy, hq, e, hs, State.tallied_mem h, List.nil_append]

end Sys2Proof.Machine
end

