-- ==== Sys2Proof/Laws/Server.lean ====
section
/-! SUPPORT. What the server of a channel does with a request: a command it takes up runs, and every other request has one
answer. -/

namespace Sys2Proof.Machine

theorem State.serveLen_asked {s t : State} {ch : Chan} {cmd n : Nat} {ws : List Nat} (h : s.asked ch cmd n ws t) {ok : Nat → Bool}
    (hn : ok n = true) (hint : Nat) (f : State → Nat → List Nat → State) :
    s.serveLen ch cmd ok hint f = f t (ws.getD 0 0) (ws.drop 1) := by
  obtain ⟨-, -, hr, hq, hs, ho, hc, hl, h1, h2⟩ := h
  simp only [State.serveLen, hr, hq, hc, hs, ho, hl, h1, h2, hn]
  simp

theorem State.serve_asked {s t : State} {ch : Chan} {cmd n : Nat} {ws : List Nat} (h : s.asked ch cmd n ws t) (hint : Nat)
    (f : State → Nat → List Nat → State) : s.serve ch cmd n hint f = f t (ws.getD 0 0) (ws.drop 1) :=
  State.serveLen_asked h (by simp) hint f

theorem drop_one_getD (ws : List Nat) (i : Nat) : (ws.drop 1).getD i 0 = ws.getD (i + 1) 0 := by
  rw [List.getD_eq_getElem?_getD, List.getD_eq_getElem?_getD, List.getElem?_drop, Nat.add_comm]

/-! The page of the allocation tables (R415). Cite these instead of unfolding `tableRange`: a product of a constant without a body
by a large number is slow to evaluate. -/

theorem tableRange_fst : tableRange.1 = Config.tablePage % 589824 * 0x200000 := by delta tableRange; exact Eq.refl _

theorem tableRange_snd : tableRange.2 = 0x200000 := rfl

theorem page_in_stacked {p : Nat} (h : p < 589824) : p * 0x200000 + 0x200000 ≤ stackedEnd := by
  rw [stackedEnd]; omega

theorem mod_pages_lt (n : Nat) : n % 589824 < 589824 := by omega

/-- The tables lie in stacked memory. -/
theorem tableRange_end : tableRange.1 + tableRange.2 ≤ stackedEnd := by
  rw [tableRange_fst, tableRange_snd]
  exact page_in_stacked (mod_pages_lt _)

end Sys2Proof.Machine
end

