-- ==== Sys2Proof/Tests/Slice0.lean ====
section
/-! SUPPORT. The model's own tests: commands that WellFormed refuses, single steps with results the spec states, and for every
statement of the certificates states and operands that meet its hypotheses. -/

namespace Sys2Proof.Tests

open Sys2Proof Sys2Proof.Machine

set_option Elab.async false

/-! ## Small states -/

/-- Reset with no memory undefined, so that a read has a value, and no port training; with the device resumed; and with one queue that is on. -/
def w0 : State := { State.reset with mem := { open_ := [] }, regs := [] }
def w1 : State := w0.setReg Reg.RTE_CTRL 0
/-- Every stack in service. -/
def wUp : State := (List.range 24).foldl (fun s c => s.setReg (Reg.MEM_STK_STATUS c) 1) w1
def onWith (s : State) (q : Nat) (x : Queue) : State := { s with queues := [(q, x)] }

/-- A record of version 1 with its fields, by offset, in slot 0. -/
def mk (op : Nat) (fs : List (Nat × Nat)) (chain : List (List Byte) := []) : Fetched :=
  { slot := 0, gen := 1, bytes := toLe 64 (op + 0x100 + (fs.map (fun f => f.2 * 2 ^ (8 * f.1))).sum), chain }

/-- An INLINE record of n bytes of a value at place i of its chain. -/
def inl (i n v : Nat) : List Byte := toLe 64 (0x105 + n * 2 ^ 64 + i * 2 ^ 72 + v * 2 ^ 96)

/-- The last queue, with one record fetched. -/
def fed (s : State) (r : Fetched) : State := onWith s 2047 { mode := .on, gen := 1, fetched := [r] }

/-! ## WellFormed refuses a command for each of its checks -/

theorem test_queueOk_refuses : (Instr.nop 2048 {}).wf = false := by decide
theorem test_coreOk_refuses : (Instr.missResend 128).wf = false := by decide
theorem test_ccOk_refuses : (Instr.ccHung 16).wf = false := by decide
theorem test_ropeOk_refuses : (Instr.kvInit .siolo 16).wf = false := by decide
theorem test_hostOk_refuses : (Instr.h2dSnoop 8 0).wf = false := by decide
theorem test_portOk_refuses : (Instr.portUp 18).wf = false := by decide
theorem test_partyOk_refuses : (Instr.ackTimer 4 0).wf = false := by decide
theorem test_stackOk_refuses : (Instr.lateAnswer 24).wf = false := by decide
theorem test_laneOk_refuses : (Instr.portDown 17 4).wf = false := by decide
theorem test_mailboxOk_refuses : (Instr.mbxTimeout 32 true).wf = false := by decide
theorem test_halfOk_refuses : (Instr.loadComplete 0 2).wf = false := by decide
theorem test_slotOk_refuses : (Instr.recordEnd 0 65536 {}).wf = false := by decide
theorem test_anchorOk_refuses : (Instr.anchorSet .siolo 4096 0).wf = false := by decide
theorem test_bar2Ok_refuses : (Instr.msixUnmask 0 0x10000 (.read false)).wf = false ∧ (Instr.msixUnmask 0 4 (.write (.w64 0))).wf = false := by decide
theorem test_poolOk_refuses : (Instr.stallWatch 192 {}).wf = false := by decide
theorem test_sourceOk_refuses : (Instr.logPost 256 0 0 0).wf = false := by decide
theorem test_classOk_refuses : (Instr.logPost 0 0 4 0).wf = false := by decide
theorem test_requesterOk_refuses : (Instr.quiesce (.core 16) {}).wf = false := by decide
theorem test_viaOk_refuses : (Instr.mctpControl (.vdm 8)).wf = false := by decide
theorem test_tailOk_refuses : (Instr.logWrite {} (some (.core 16, 0))).wf = false := by decide
theorem test_chanOk_refuses : (Instr.ping (.mctp .i3c []) 0).wf = false ∧ (Instr.ping (.i3c (List.replicate 17 0)) 0).wf = false := by decide

/-! ## Single commands -/

/-- The command answers a next state of which `p` holds. -/
def after (c : Instr) (s : State) (p : State → Bool) : Bool :=
  match exec c s with
  | .next t => p t
  | _ => false

/-- The check value of CRC-32C, the polynomial of R87, over the digits 1 to 9. -/
theorem test_crc32c_check : crc32c [0x31, 0x32, 0x33, 0x34, 0x35, 0x36, 0x37, 0x38, 0x39] = 0xE3069283 := by decide +kernel

/-- R95: an ADD wraps modulo 2^32. -/
theorem test_anchor_add_wraps : after (.anchorAdd .siolo 4095 5) { w1 with anchors := [(4095, 0xFFFFFFFE)] } (fun t => t.anchor 4095 == 3) = true := by
  decide +kernel

/-- R9: writing 1 to a flag clears it, and writing 0 leaves it. -/
theorem test_w1c_clears : after (.registerWrite .siolo Reg.RTE_EVENT (.w32 1) {}) (w1.setReg Reg.RTE_EVENT 3) (fun t => t.reg Reg.RTE_EVENT == 2) = true := by
  decide +kernel

/-- R11: the high half brings the low half that waits. -/
theorem test_split_write_joins : after (.registerWrite (.host 6) Reg.RTE_SRC (.w32 0x00023456) {})
    (w1.setPort (.host 6) { low := some (Reg.RTE_SRC, 0x789AB000) }) (fun t => t.reg Reg.RTE_SRC == 0x00023456789AB000) = true := by decide +kernel

/-- R12: an access with no register counts. -/
theorem test_unmapped_counts : after (.unmappedAccess .siolo 0xFFFFF8 8 true) w1 (fun t => t.fld Reg.SYS_STATUS 63 32 == 1) = true := by decide +kernel

/-- R83: ON makes the queue IDLE with the generation 1. -/
theorem test_on_makes_idle : after (.queueOn .siolo 0) { w1 with queues := [(0, { mode := .off })] }
    (fun t => queueState (t.queue 0) == 2 && (t.queue 0).gen == 1 && (t.queue 0).phase == 1) = true := by decide +kernel

/-- R84: a doorbell on a queue that is OFF sets DB_DISABLED. -/
theorem test_doorbell_off : after (.doorbell .siolo 0 (.w64 1)) { w1 with queues := [(0, { mode := .off })] } (fun t => t.fld Reg.CQ_GEVENT 16 16 == 1) = true := by
  decide +kernel

/-- R66, R67: LOAD before QUIESCED reads 1 ends with NOT_QUIESCED. -/
theorem test_load_not_quiesced : after (.loadImage .siolo {}) w1 (fun t => t.fld Reg.RTE_STATUS 31 24 == 1) = true := by decide +kernel

/-- R266: the operation runs until SEAL_DONE, and then the page is SEALED. -/
theorem test_seal_done_seals : after .sealDone { w1 with sealOp := some (.sealPages 5 1) } (fun t => t.sealOf (5 * 0x200000) == 1 && t.sealOf (6 * 0x200000) == 0) = true := by
  decide +kernel

/-- R412: TIMEOUT_MS is 10 after reset. -/
theorem test_timeout_after_reset : (List.range 32).all (fun m => State.reset.fld (Reg.MBX_CFG m) 31 16 == 10) = true := by decide +kernel

/-- R476: the counter wraps at 2^64. -/
theorem test_counter_wraps : (match step (w1.setReg Reg.CLK_TIME (-1)) with | .next t => t.reg Reg.CLK_TIME == 0 | _ => false) = true := by decide +kernel

/-- The first byte of the local memory of core 0. -/
def loc : Nat := 0xC000000000000

def wRec : Nat → Fetched
  | 0 => mk 0 []
  | 1 => mk 1 []
  | 2 => mk 2 []
  | 3 => mk 3 [(8, 4095)]
  | 4 => mk 4 [(2, 1 * 64), (8, loc)] [inl 0 48 7]
  | 6 => mk 6 [(8, 9)]
  | 0x10 => mk 0x10 [(8, loc), (0x10, 32), (0x14, 1), (0x16, 16)]
  | 0x11 => mk 0x11 [(8, loc), (0x10, 32), (0x14, 1)]
  | 0x12 => mk 0x12 [(2, 1 * 64), (8, 1), (0xA, 1), (0xB, 4)] [inl 0 1 7]
  | 0x20 => mk 0x20 [(8, 31), (9, 1)]
  | 0x21 => mk 0x21 [(8, loc), (0x10, 256), (0x14, 2048), (0x18, 64)]
  | 0x22 => mk 0x22 [(0xB, 32)]
  | 0x23 => mk 0x23 [(8, loc), (0x10, 256), (0x14, 2048), (0x18, 64)]
  | 0x24 => mk 0x24 [(8, loc), (0x10, 64), (0x13, 64)]
  | 0x30 => mk 0x30 [(9, 16), (0xC, 0x3F800000)]
  | 0x31 => mk 0x31 [(8, loc), (0x10, loc), (0x28, 64), (0x2C, 1)]
  | 0x32 => mk 0x32 [(8, loc), (0x10, loc + 0x1000), (0x18, 64), (0x1C, 64)]
  | 0x33 => mk 0x33 [(8, loc), (0x10, 15)]
  | 0x34 => mk 0x34 [(8, loc), (0x20, loc), (0x30, 64), (0x34, 15)]
  | 0x40 => mk 0x40 [(8, 0x3F800000)]
  | 0x41 => mk 0x41 [(8, loc), (0x10, loc + 0x1000), (0x18, loc + 0x2000), (0x30, 1), (0x32, 16)]
  | 0x42 => mk 0x42 [(8, loc), (0x10, loc + 0x1000), (0x18, loc + 0x2000), (0x28, 1), (0x2A, 16)]
  | 0x43 => mk 0x43 [(8, loc), (0x10, loc + 0x1000), (0x18, loc + 0x2000), (0x20, 1), (0x22, 16)]
  | 0x44 => mk 0x44 [(8, loc), (0x10, loc + 0x1000), (0x18, loc + 0x2000), (0x38, 1), (0x3A, 16)]
  | 0x45 => mk 0x45 [(8, 0x1000), (0x10, loc), (0x28, 1)]
  | 0x46 => mk 0x46 [(8, 0x1000), (0x10, loc), (0x18, loc + 0x1000), (0x28, 1)]
  | 0x47 => mk 0x47 [(8, loc), (0x10, loc + 0x1000), (0x18, 0x1000), (0x28, 1), (0x2A, 16), (0x2C, 0x3F800000)]
  | 0x48 => mk 0x48 [(8, 4096)]
  | 0x49 => mk 0x49 [(8, loc), (0x10, loc + 0x1000), (0x20, 16), (0x24, 16), (0x26, 1)]
  | 0x50 => mk 0x50 [(8, 511), (0xB, 1), (0xC, 3999)]
  | 0x51 => mk 0x51 [(8, 0x1000), (0x10, 511)]
  | 0x52 => mk 0x52 [(8, 0x1000), (0x10, 511)]
  | 0x53 => mk 0x53 [(8, 511), (0xA, 16)]
  | 0x54 => mk 0x54 [(2, 1 * 64), (0x10, loc), (0x18, 32)] [inl 0 32 7]
  | 0x60 => mk 0x60 []
  | 0x61 => mk 0x61 []
  | 0x62 => mk 0x62 []
  | 0x63 => mk 0x63 []
  | 0x70 => mk 0x70 []
  | _ => mk 0x71 []

/-! ## Hypotheses that are met: steps and registers -/

theorem witness_StepRunsFrontCommand : ({ w0 with pending := [.sealDone, .quiesced] } : State).pending = .sealDone :: [.quiesced] := rfl

theorem witness_IdleStepCountsReferenceClock : State.reset.pending = [] ∧ ({ w0 with power := { standby := false } } : State).pending = [] :=
  ⟨rfl, rfl⟩

theorem witness_ExecKeepsQueue : exec .sealDone { w0 with pending := [.quiesced] } = .next { w0 with pending := [.quiesced] } := rfl

theorem witness_CommandsAnswer : (Instr.sealPages (.host 7) 0 1).wf = true ∧ ({ w0 with fuses := { split := 15 } } : State).fuses.split = 15 := by
  decide

theorem witness_HeldOrTrippedLogic : ({ w0 with power := { held := true } } : State).power.held = true ∧ standby .sealDone = false ∧
    (w0.setFld Reg.SIO_STATUS 2 2 1).fld Reg.SIO_STATUS 3 2 ≠ 0 ∧ issues (.nop 0 {}) = true := by decide

theorem witness_StepKeepsFusesLegal : w0.fuses.legal ∧ step { w0 with pending := [.sealDone] } = .next w0 := by
  unfold Fuses.legal; exact ⟨by decide, rfl⟩

theorem witness_RegisterWriteByAccessType : w0.admitted (.host 6) ∧ w0.noHostReg Reg.MEM_CFG = false ∧
    (∃ r, findReg Reg.MEM_CFG = some r ∧ r.base ∉ actingRegs ∧ r.width = 32) ∧ (0xFFFFFFFF : Word).toNat < 2 ^ 32 ∧
    w0.noHostReg Reg.RTE_SRC = false ∧ ∃ r, findReg Reg.RTE_SRC = some r ∧ r.base ∉ actingRegs ∧ r.width = 64 := by
  unfold State.admitted; exact ⟨by decide, by decide, ⟨_, rfl, by decide⟩, by decide, by decide, ⟨_, rfl, by decide⟩⟩

theorem witness_RegisterWriteLimits : w0.admitted (.core 15) ∧ w0.noHostReg Reg.HST_CFG = false ∧
    [Reg.ATT_WALK_CFG, Reg.HST_CFG, Reg.PWR_CAP, Reg.SIO_THERM_CFG, Reg.HAUL_LPOOL 127, Reg.ATT_KV_CFG 15, Reg.ATT_KV_FT 0,
      Reg.UPD_SHARD_TBL, Reg.UPD_NORM_LIMIT].all (fun o => (findReg o).isSome) = true ∧
    96 < fget 0x600001 22 16 + fget 0x600001 6 0 ∧ ¬ 96 < fget 0x5F0001 22 16 + fget 0x5F0001 6 0 ∧ (w0.haul 127).ctxs = [] ∧
    (w0.setFld (Reg.ATT_KV_STATUS 15) 1 1 1).fld (Reg.ATT_KV_STATUS 15) 1 1 = 1 ∧ w0.fld (Reg.ATT_KV_STATUS 15) 1 1 ≠ 1 ∧
    ({ w0 with upd := { sweep := some ⟨2047, 0, 1, 0, 1, 0, false, 0, false, false, 0, false, none, [], none⟩ } } : State).upd.sweep ≠ none ∧ w0.updRunning = none ∧
    w0.upd.sweep = none := by
  unfold State.admitted; decide

def halfPending : State := w0.setPort (.core 15) { low := some (Reg.RTE_SRC, 1), latch := some (Reg.RTE_SRC, 2) }

theorem none_pending (l : Word32) : (w0.port (.core 15)).low ≠ some (Reg.RTE_SRC, l) := by intro h; cases h

theorem witness_RegisterAccesses : halfPending.admitted (.core 15) ∧ halfPending.noHostReg Reg.RTE_SRC = false ∧
    (∃ r, findReg Reg.RTE_SRC = some r ∧ r.width = 64) ∧ reqNum .siolo ≠ reqNum (.core 15) ∧
    (halfPending.port (.core 15)).low = some (Reg.RTE_SRC, 1) ∧ writesMemory Reg.RTE_SRC = false ∧
    (∀ l, (w0.port (.core 15)).low ≠ some (Reg.RTE_SRC, l)) ∧ Reg.RTE_SRC % 8 = 0 ∧ findReg (Reg.RTE_SRC + 4) = none ∧
    halfPending.noHostReg (Reg.RTE_SRC + 4) = false ∧ (halfPending.port (.core 15)).latch = some (Reg.RTE_SRC, 2) ∧
    illFormed 4 0xFFFFFC = true ∧ illFormed 3 0 = true ∧ w0.noHostReg (Reg.HST_HOST_STATUS 7) = true ∧
    illFormed 4 Reg.RTE_CTRL = false ∧ w0.noHostReg Reg.RTE_CTRL = false := by
  unfold State.admitted
  exact ⟨by decide, by decide, ⟨_, rfl, rfl⟩, by decide, rfl, by decide, none_pending, by decide, by decide, by decide, rfl,
    by decide, by decide, by decide, by decide, by decide⟩

theorem witness_FlagCountsEverySet : Reg.RTE_EVENT ≠ Reg.RTE_EVENT_CNT1 ∧ (63 : Nat) < 64 ∧ (48 : Nat) + 15 < 64 := by decide

theorem witness_ActionBitsOneAtATime : w0.admitted .siolo ∧ 2 ≤ popCount 3 ((0xFFFFFFFF : Word32).toNat % 8) ∧
    2 ≤ popCount 3 ((3 : Word32).toNat % 8) ∧ (0xFFFFFFF8 : Word32).toNat % 8 = 0 ∧ (2047 : Nat) < 2048 ∧ (15 : Nat) < 16 ∧
    (3 : Word32).toNat % 4 = 3 ∧ (4 : Word32).toNat % 4 = 0 := by
  unfold State.admitted; decide

/-! ## Memory -/

theorem witness_CoreLocalAccessesExact : (127 : Nat) < 128 ∧ inLocal 127 (localBase 127 + localSize - 64) 64 = true ∧
    w0.env.faults = [] ∧ w0.poison = [] ∧ ∀ p, 589824 ≤ p → mget 0 w0.bias p = 0 :=
  ⟨by decide, by decide, rfl, rfl, fun _ _ => rfl⟩

theorem witness_MemoryStaysCanonical : State.reset.mem.wf = true ∧ w0.mem.wf = true := by decide

theorem witness_RegisterCommandsAreWrites : (2047 : Nat) < 2048 ∧ (4095 : Nat) < 4096 ∧ (15 : Nat) < 16 ∧ (7 : Nat) < 8 ∧ (17 : Nat) < 18 ∧
    (3 : Nat) < 4 ∧ (31 : Nat) < 32 := by decide

/-- Pages 589,822 and 589,823, the last of stacked memory, in a seal state; and spill seal slot 127 in a state. -/
def sealed (st : Nat) : State := { w0 with seals := [(589822, st), (589823, st)] }
def slotIn (st : Nat) : State := { w0 with spillSeals := [(127, ⟨st, 524286, 2⟩)] }

theorem sealed_pages (st i : Nat) (h1 : 589822 ≤ i) (h2 : i < 589822 + 2) : mget 0 (sealed st).seals i = st := by
  obtain rfl | rfl : i = 589822 ∨ i = 589823 := by omega
  all_goals rfl

theorem witness_SealOperations : w0.admitted .siolo ∧ w0.sealOp = none ∧
    (1 ≤ (2 : BitVec 20).toNat ∧ (589822 : BitVec 20).toNat + (2 : BitVec 20).toNat ≤ 589824) ∧
    (∀ i, (589822 : BitVec 20).toNat ≤ i → i < (589822 : BitVec 20).toNat + (2 : BitVec 20).toNat →
      mget 0 w0.seals i = 0 ∧ w0.ringPage i = false ∧ mget 0 (sealed 1).seals i = 1) ∧
    ({ w0 with sealOp := some (.sealPages 589822 2) } : State).sealOp = some (.sealPages (589822 : BitVec 20).toNat (2 : BitVec 20).toNat) ∧
    ({ sealed 2 with sealOp := some (.unsealPages 589822 2) } : State).heldWindows = 0 ∧
    (524286 : BitVec 20).toNat + (2 : BitVec 20).toNat ≤ 524288 ∧ (mget {} w0.spillSeals 127).state = 0 ∧
    (∀ j < 16, (mget {} w0.spillSeals (112 + j)).state ≠ 0 → (mget {} w0.spillSeals (112 + j)).first + (mget {} w0.spillSeals (112 + j)).count ≤ 524286 ∨
      524288 ≤ (mget {} w0.spillSeals (112 + j)).first) ∧
    (mget {} (slotIn 1).spillSeals 127).state = 1 ∧
    ({ slotIn 2 with sealOp := some (.unsealSlot 7 15) } : State).sealOp = some (.unsealSlot (7 : BitVec 3).toNat (15 : BitVec 4).toNat) ∧
    ({ slotIn 2 with sealOp := some (.unsealSlot 7 15) } : State).sealOp ≠ none := by
  unfold State.admitted
  refine ⟨by decide, rfl, by decide, fun i h1 h2 => ⟨rfl, rfl, sealed_pages 1 i h1 h2⟩, rfl, by decide, by decide, by decide, by decide, by decide,
    rfl, by decide⟩

theorem witness_MemoryControllers : wUp.live ∧ stackedEnd - 32 < stackedEnd ∧ (23 : Nat) < 24 ∧
    (∀ c < 24, mget 0 w0.ceSecond c ≤ w0.fld Reg.MEM_CFG 15 0) ∧
    w0.fld Reg.MEM_CFG 15 0 < mget 0 ({ w0 with ceSecond := [(23, 65536)] } : State).ceSecond 23 ∧
    (∀ d < 24, d ≠ 23 → mget 0 ({ w0 with ceSecond := [(23, 65536)] } : State).ceSecond d ≤ w0.fld Reg.MEM_CFG 15 0) ∧
    wUp.fld Reg.MEM_CFG 23 16 ≠ 0 ∧ wUp.stackUp (locate wUp.image.regions (stackedEnd - 32)).1 = true ∧
    bit (wUp.reg (Reg.MEM_STK_PC_DOWN (locate wUp.image.regions (stackedEnd - 32)).1)).toNat (locate wUp.image.regions (stackedEnd - 32)).2 = false ∧
    some MemFault.uncorrectable ≠ some .timeout ∧ (none : Option MemFault) ≠ some .timeout ∧
    w1.stackUp (locate w1.image.regions 0).1 = false ∧ w1.fld Reg.MEM_CFG 23 16 ≠ 0 ∧ (w1.setFld Reg.MEM_CFG 23 16 0).fld Reg.MEM_CFG 23 16 = 0 ∧
    (let r : Region := ⟨0, 0x12000000000, 0xFFFFFF, 0xFFFFFFFFFFFFFFFF, 3⟩
     regionOf [r] (stackedEnd - 1) = some r ∧ 0 < r.ways) := by
  unfold State.live; repeat' apply And.intro
  all_goals decide

/-! ## Hypotheses that are met: route images -/

/-- Bytes at their offsets in a string of n bytes. -/
def bytesAt (n : Nat) (fs : List (Nat × Nat)) : List Byte := toLe n ((fs.map (fun f => f.2 * 2 ^ (8 * f.1))).sum)

/-- An image of one rope whose cores are all 128, with a window pool and the log pool, whose trailer is zeros. -/
def tinyImage : List Byte := bytesAt 0x540 [(0, 0x45545254), (4, 0x11), (6, 0x100), (8, 0x2000), (0xC, 0x24), (0xE, 0xB0), (0x10, 1), (0x1C, 3),
  (0x100, 1), (0x102, 1), (0x104, 0x200), (0x108, 400), (0x110, 2), (0x112, 1), (0x114, 0x400), (0x118, 128),
  (0x120, 3), (0x122, 1), (0x124, 0x500), (0x128, 48), (0x200, 1), (0x290, 1), (0x292, 1), (0x400, 1), (0x402, 1),
  (0x500, 2), (0x510, 1), (0x511, 0xFF), (0x514, 16), (0x520, 4), (0x521, 0xFF), (0x522, 16), (0x524, 1)]

theorem tiny_image_passes : bodyFail {} tinyImage = none := by decide +kernel

/-- A load in progress, in a phase, with what it has read. -/
def loading (phase : Nat) (l : Loader) : State := { w0.setFld Reg.RTE_STATUS 19 16 phase with loader := { l with running := true } }
def loadedState : State := w0.setFld Reg.RTE_STATUS 7 7 1

theorem witness_QuiesceAndResume : w0.admitted .siolo ∧ w0.hauls = [] ∧ w0.credits = [] ∧ w0.quiescing = true ∧ w0.allIdle = true ∧
    w1.quiescing = false ∧ (w0.setFld Reg.RTE_STATUS 0 0 1).quiesced = true ∧
    loadedState.loader.running = false ∧ loadedState.loaded = true ∧ loadedState.fld Reg.CLK_STATUS 2 2 = 0 ∧ w0.loaded = false ∧
    (loadedState.setFld Reg.CLK_STATUS 2 2 1).fld Reg.CLK_STATUS 2 2 = 1 := by
  unfold State.admitted; repeat' apply And.intro
  all_goals decide

/-! A signature that R45 accepts under some root key. -/

theorem toBe_length (k n : Nat) : (toBe k n).length = k := by
  have h : ∀ k n, (toLe k n).length = k := fun k => by induction k with
    | zero => intro n; rfl
    | succ k ih => intro n; simp [toLe, ih]
  simp [toBe, h]

theorem shaRound_length (x : List Nat) (kw : Nat) : (shaRound x kw).length = 8 := by
  rfl

theorem shaBlocks_length (k : Nat) (b : List Byte) (x : List Nat) (h : x.length = 8) : (shaBlocks k b x).length = 8 := by
  have rounds : ∀ (l : List Nat) (x : List Nat), x.length = 8 → (l.foldl shaRound x).length = 8 := by
    intro l
    induction l with
    | nil => exact fun _ h => h
    | cons a l ih => exact fun x h => ih _ (shaRound_length x a)
  induction k generalizing b x with
  | zero => exact h
  | succ k ih => exact ih _ _ (by simp [shaBlock, rounds _ _ h, h])

theorem sha256_length (b : List Byte) : (sha256 b).length = 32 := by
  have e : ∀ l : List Nat, l.length = 8 → (l.flatMap (toBe 4)).length = 32 := by
    intro l h
    match l, h with
    | [_, _, _, _, _, _, _, _], _ => rfl
  exact e _ (shaBlocks_length _ _ _ (by decide +kernel))

theorem lmsClimb_length (ident path x : List Byte) (k node : Nat) (h : x.length = 32) : (lmsClimb ident path k node x).length = 32 := by
  induction k generalizing path node x with
  | zero => exact h
  | succ k ih => exact ih _ _ _ (sha256_length _)

theorem toLe_ofLe (b : List Byte) : toLe b.length (ofLe b) = b := by
  induction b with
  | nil => rfl
  | cons x r ih =>
    have h1 : BitVec.ofNat 8 (x.toNat + 256 * ofLe r) = x := by
      apply BitVec.eq_of_toNat_eq; simp; have := x.isLt; omega
    have h2 : (x.toNat + 256 * ofLe r) / 256 = ofLe r := by have := x.isLt; omega
    simp [toLe, ofLe, h1, h2, ih]

def zeroIdent : List Byte := List.replicate 16 0
def plainSig : List Byte := [0, 0, 0, 0, 0, 0, 0, 3] ++ List.replicate 2176 0 ++ [0, 0, 0, 7] ++ List.replicate 480 0
def keyFor (h : List Byte) : List Byte :=
  [0, 0, 0, 7, 0, 0, 0, 3] ++ zeroIdent ++ lmsClimb zeroIdent (slice plainSig 2188 480) 15 (2 ^ 15 + ofBe (slice plainSig 0 4))
    (sha256 (zeroIdent ++ toBe 4 (2 ^ 15 + ofBe (slice plainSig 0 4)) ++ toBe 2 0x8282
      ++ lmotsKey zeroIdent (ofBe (slice plainSig 0 4)) (slice plainSig 4 2180) h))
def rootFor (h : List Byte) : List Nat := let d := sha256 (keyFor h); [ofLe (d.take 8), ofLe ((d.drop 8).take 8), ofLe ((d.drop 16).take 8), ofLe (d.drop 24)]
def padding : List Byte := List.replicate 1360 0
def trailerFor (h : List Byte) : List Byte := keyFor h ++ List.replicate 8 0 ++ toLe 4 2668 ++ plainSig ++ padding

theorem keyFor_length (h : List Byte) : (keyFor h).length = 56 := by
  simp [keyFor, zeroIdent, lmsClimb_length, sha256_length]

theorem rootFor_bytes (h : List Byte) : (rootFor h).flatMap (toLe 8) = sha256 (keyFor h) := by
  have hl := sha256_length (keyFor h)
  have e (x : List Byte) (hx : x.length = 8) : toLe 8 (ofLe x) = x := by rw [← hx]; exact toLe_ofLe x
  simp only [rootFor, List.flatMap_cons, List.flatMap_nil, List.append_nil]
  rw [e _ (by simp [hl]), e _ (by simp [hl]), e _ (by simp [hl]), e _ (by simp [hl])]
  generalize sha256 (keyFor h) = d
  have a (k : Nat) : (d.drop k).take 8 ++ d.drop (k + 8) = d.drop k := by
    rw [← List.drop_drop]; exact List.take_append_drop 8 (d.drop k)
  rw [a 16, a 8]; exact List.take_append_drop 8 d

theorem slice_append (a b c : List Byte) (off k : Nat) (ha : a.length = off) (hb : b.length = k) : slice (a ++ b ++ c) off k = b := by
  subst ha hb
  simp [slice]

theorem keyFor_ident (h : List Byte) : slice (keyFor h) 8 16 = zeroIdent := slice_append [0, 0, 0, 7, 0, 0, 0, 3] zeroIdent _ 8 16 rfl rfl
theorem keyFor_types (h : List Byte) : slice (keyFor h) 0 4 = [0, 0, 0, 7] ∧ slice (keyFor h) 4 4 = [0, 0, 0, 3] := by
  rw [keyFor]; exact ⟨rfl, rfl⟩
theorem keyFor_node (h : List Byte) : slice (keyFor h) 24 32 = lmsClimb zeroIdent (slice plainSig 2188 480) 15 (2 ^ 15 + ofBe (slice plainSig 0 4))
    (sha256 (zeroIdent ++ toBe 4 (2 ^ 15 + ofBe (slice plainSig 0 4)) ++ toBe 2 0x8282
      ++ lmotsKey zeroIdent (ofBe (slice plainSig 0 4)) (slice plainSig 4 2180) h)) := by
  rw [keyFor, ← List.append_nil (_ ++ lmsClimb _ _ _ _ _)]
  exact slice_append _ _ [] 24 32 rfl (lmsClimb_length _ _ _ _ _ (sha256_length _))
theorem plainSig_types : ofBe (slice plainSig 0 4) < 2 ^ 15 ∧ ofBe (slice (slice plainSig 4 2180) 0 4) = 3 ∧ ofBe (slice plainSig 2184 4) = 7 := by
  decide +kernel

theorem lmsVerify_of (pub sig m ident : List Byte) (hi : slice pub 8 16 = ident) (h7 : slice pub 0 4 = [0, 0, 0, 7]) (h3 : slice pub 4 4 = [0, 0, 0, 3])
    (hl : ofBe (slice sig 0 4) < 2 ^ 15) (hots : ofBe (slice (slice sig 4 2180) 0 4) = 3) (hlms : ofBe (slice sig 2184 4) = 7)
    (hx : slice pub 24 32 = lmsClimb ident (slice sig 2188 480) 15 (2 ^ 15 + ofBe (slice sig 0 4))
      (sha256 (ident ++ toBe 4 (2 ^ 15 + ofBe (slice sig 0 4)) ++ toBe 2 0x8282 ++ lmotsKey ident (ofBe (slice sig 0 4)) (slice sig 4 2180) m))) :
    lmsVerify pub sig m = true := by
  have e7 : ofBe [0, 0, 0, 7] = 7 := rfl
  have e3 : ofBe [0, 0, 0, 3] = 3 := rfl
  subst hi
  simp only [lmsVerify, h7, h3, hx, hl, hots, hlms, e7, e3, BEq.rfl, decide_true, Bool.and_self]

theorem lmsVerify_key (h : List Byte) : lmsVerify (keyFor h) plainSig h = true :=
  lmsVerify_of _ _ _ zeroIdent (keyFor_ident h) (keyFor_types h).1 (keyFor_types h).2 plainSig_types.1 plainSig_types.2.1 plainSig_types.2.2 (keyFor_node h)

theorem plainSig_length : plainSig.length = 2668 := by
  simp only [plainSig, List.length_append, List.length_replicate, List.length_cons, List.length_nil]

theorem trailerFor_length (h : List Byte) : leAt (trailerFor h) 0x40 4 = 2668 := by
  rw [leAt, trailerFor, List.append_assoc _ plainSig, slice_append (keyFor h ++ List.replicate 8 0) (toLe 4 2668) (plainSig ++ padding) 64 4
    (by simp [keyFor_length]) rfl]; rfl

theorem trailerFor_sig (h : List Byte) : slice (trailerFor h) 0x44 2668 = plainSig := by
  rw [trailerFor]
  generalize plainSig = p, plainSig_length = hp
  exact slice_append (keyFor h ++ List.replicate 8 0 ++ toLe 4 2668) p padding 0x44 2668 (by simp [keyFor_length, toLe]) hp

theorem slice_front (b c : List Byte) (k : Nat) (hb : b.length = k) : slice (b ++ c) 0 k = b := by
  subst hb; simp [slice]

theorem trailerFor_key (h : List Byte) : slice (trailerFor h) 0 56 = keyFor h ∧ slice (trailerFor h) 0 4 = [0, 0, 0, 7] ∧
    slice (trailerFor h) 4 4 = [0, 0, 0, 3] := by
  refine ⟨?_, ?_, ?_⟩
  · rw [trailerFor, List.append_assoc, List.append_assoc, List.append_assoc]; exact slice_front _ _ 56 (keyFor_length h)
  · rw [trailerFor, keyFor]; generalize lmsClimb _ _ _ _ _ = x; generalize plainSig = p; generalize padding = z
    exact slice_front [0, 0, 0, 7] _ 4 rfl
  · rw [trailerFor, keyFor]; generalize lmsClimb _ _ _ _ _ = x; generalize plainSig = p; generalize padding = z
    exact slice_append [0, 0, 0, 7] [0, 0, 0, 3] _ 4 4 rfl rfl

theorem signatureFail_of (root : List Nat) (h tr key sig : List Byte) (hk : slice tr 0 56 = key) (h7 : slice tr 0 4 = [0, 0, 0, 7])
    (h3 : slice tr 4 4 = [0, 0, 0, 3]) (hr : root.flatMap (toLe 8) = sha256 key) (hlen : leAt tr 0x40 4 = 2668) (hs : slice tr 0x44 2668 = sig)
    (hv : lmsVerify key sig h = true) : signatureFail root h tr = none := by
  simp [signatureFail, signatureOk, firstBadCheck, hk, h7, h3, hr, hlen, hs, hv]
  exact ⟨rfl, rfl⟩

/-- Every header has a root key and a trailer that pass the check of R45. -/
theorem witness_signature (h : List Byte) : signatureFail (rootFor h) h (trailerFor h) = none :=
  signatureFail_of _ h _ _ _ (trailerFor_key h).1 (trailerFor_key h).2.1 (trailerFor_key h).2.2 (rootFor_bytes h) (trailerFor_length h)
    (trailerFor_sig h) (lmsVerify_key h)

/-- Bytes of flash from an address on. -/
def cellsAt (a : Nat) : List Byte → SMap Nat
  | [] => []
  | b :: r => (a, b.toNat) :: cellsAt (a + 1) r

theorem mget_cells_in (b : List Byte) (c : SMap Nat) (a i : Nat) (h : i < b.length) : mget 0xFF (cellsAt a b ++ c) (a + i) = (b[i]).toNat := by
  induction b generalizing a i with
  | nil => simp at h
  | cons x r ih =>
    cases i with
    | zero => simp [cellsAt, mget]
    | succ i =>
      have := ih (a + 1) i (by simpa using h)
      rw [show a + (i + 1) = a + 1 + i by omega]
      simpa [cellsAt, mget, show a ≠ a + 1 + i by omega] using this

theorem mget_cells_out (b : List Byte) (c : SMap Nat) (a k : Nat) (h : a + b.length ≤ k) : mget 0xFF (cellsAt a b ++ c) k = mget 0xFF c k := by
  induction b generalizing a with
  | nil => rfl
  | cons x r ih =>
    simp only [List.length_cons] at h
    simpa [cellsAt, mget, show a ≠ k by omega] using ih (a + 1) (by omega)

theorem flash_reads (s : State) (off : Nat) (b : List Byte) (h : ∀ i (hi : i < b.length), mget 0xFF s.flash (off + i) = (b[i]).toNat) :
    s.flashBytes off b.length = b := by
  unfold State.flashBytes
  apply List.ext_getElem
  · simp
  · intro i h1 h2
    simp only [List.getElem_map, List.getElem_range]
    rw [mget_filter _ _ _ (fun v => by simp; omega), h i h2]
    simp

/-- A header whose fields pass, of an image of two pages; and one of an image that has no body, so that its digest is that of no bytes. -/
def goodHeader : List Byte := bytesAt 0x100 [(0, 0x45545254), (4, 0x11), (6, 0x100), (8, 0x2000), (0xC, 0x24), (0xE, 0xB0)]
def emptyBodied : List Byte := bytesAt 0x100 [(8, 0x1100), (0x40, 0x55b852781b9995a44c939b64e441ae2724b96f99c8f4fb9a141cfc9842c4b0e3)]

theorem empty_digest : digestFail emptyBodied = none := by decide +kernel
theorem no_staged : digestFail (emptyBodied ++ [] ++ (loading 1 { hdr := emptyBodied }).loader.staged) = none := by
  rw [show (loading 1 { hdr := emptyBodied }).loader.staged = [] from rfl, List.append_nil, List.append_nil]; exact empty_digest

/-- Copy A holds that header and its trailer, and the fuses their key. -/
def copyHeld : State := { loading 2 { src := .copyA } with
  fuses := { root := rootFor goodHeader }
  flash := cellsAt (flashCopy false) goodHeader ++ (cellsAt (flashCopy false + 0x1000) (trailerFor goodHeader) ++ []) }

theorem goodHeader_length : goodHeader.length = 0x100 := by decide +kernel
theorem trailerFor_len (h : List Byte) : (trailerFor h).length = 0x1000 := by
  have hp : padding.length = 1360 := List.length_replicate
  have h4 : (toLe 4 2668).length = 4 := rfl
  rw [trailerFor]
  generalize padding = z at hp ⊢
  generalize toLe 4 2668 = y at h4 ⊢
  generalize plainSig = p, plainSig_length = hs
  simp [keyFor_length, hp, h4, hs]

theorem copy_header : copyHeld.readImage 0 0x100 none = (copyHeld, goodHeader, none) := by
  have h : copyHeld.flashBytes (flashCopy false + 0) goodHeader.length = goodHeader :=
    flash_reads _ _ _ (fun i hi => mget_cells_in goodHeader _ _ i hi)
  rw [goodHeader_length] at h
  have e : copyHeld.readImage 0 0x100 none = (copyHeld, copyHeld.flashBytes (flashCopy false + 0) 0x100, none) := rfl
  rw [e, h]

theorem copy_trailer : copyHeld.readImage 0x1000 0x1000 none = (copyHeld, trailerFor goodHeader, none) := by
  have h : copyHeld.flashBytes (flashCopy false + 0x1000) (trailerFor goodHeader).length = trailerFor goodHeader :=
    flash_reads _ _ _ (fun i hi => by
      rw [show copyHeld.flash = cellsAt (flashCopy false) goodHeader ++ (cellsAt (flashCopy false + 0x1000) (trailerFor goodHeader) ++ []) from rfl,
        mget_cells_out goodHeader _ _ _ (by rw [goodHeader_length]; omega)]
      exact mget_cells_in _ _ _ i hi)
  rw [trailerFor_len] at h
  have e : copyHeld.readImage 0x1000 0x1000 none = (copyHeld, copyHeld.flashBytes (flashCopy false + 0x1000) 0x1000, none) := rfl
  rw [e, h]

theorem header_passes : copyHeld.sourceOk 0x100 = true ∧ headChecks 0x45545254 0x1800000 goodHeader = none ∧ imgLen goodHeader - 0x1000 = 0x1000 ∧
    copyHeld.sourceOk (imgLen goodHeader) = true ∧ signatureFail copyHeld.fuses.root goodHeader (trailerFor goodHeader) = none :=
  ⟨rfl, by decide +kernel, by decide +kernel, rfl, witness_signature goodHeader⟩

/-- A load of a source that has an image ready, its hold on or over, at PHASE 4. -/
def applyingLoad (hold : Bool) : State := loading 4 { ready := some {}, hold }

theorem witness_LoadsRun : w0.admitted .siolo ∧ (loading 1 {}).loader.running = true ∧ w0.loader.running = false ∧ w0.quiesced = false ∧
    (w0.setFld Reg.RTE_STATUS 0 0 1).quiesced = true ∧ w0.live ∧
    (loading 2 {}).fld Reg.RTE_STATUS 19 16 = 2 ∧ (loading 2 {}).loader.running = true ∧
    (loading 2 { src := .memory (stackedEnd - 0xFF) }).loader.src = .memory (stackedEnd - 0xFF) ∧ stackedEnd < stackedEnd - 0xFF + 0x100 ∧
    (loading 2 { src := .memory (stackedEnd - 0xFF) }).loader.src ≠ .copyB ∧
    copyHeld.loader.src ≠ .copyB ∧ copyHeld.loader.comparing = false ∧
    copyHeld.readImage (imgLen goodHeader - 0x1000) 0x1000 none = (copyHeld, trailerFor goodHeader, none) ∧
    (loading 1 {}).fld Reg.RTE_STATUS 19 16 = 1 ∧
    (loading 1 { hdr := emptyBodied }).readImage 0x100 (imgLen emptyBodied - 0x1100) none = (loading 1 { hdr := emptyBodied }, [], none) ∧
    digestFail (emptyBodied ++ [] ++ (loading 1 { hdr := emptyBodied }).loader.staged) = none ∧
    (∀ src ∈ [LoadSrc.memory 0, .copyA, .copyB], let s := loading 3 { src }
      s.fld Reg.RTE_STATUS 19 16 = 3 ∧ s.loader.ready = none ∧ s.loader.comparing = false ∧ s.loader.src = src ∧
        (bodyFail s.fuses s.loader.staged).isSome = true) ∧
    (let s := loading 3 { src := .memory 0, staged := tinyImage }
     s.loader.src = .memory 0 ∧ bodyFail s.fuses s.loader.staged = none ∧ s.log.lane = [] ∧ s.log.intake = []) ∧
    (∀ hold, (applyingLoad hold).loader.ready = some {} ∧ (applyingLoad hold).loader.hold = hold ∧ (applyingLoad hold).live ∧
      (applyingLoad hold).fld Reg.RTE_STATUS 19 16 = 4 ∧ (applyingLoad hold).image.regions = ({} : Image).regions ∧ (applyingLoad hold).hauls = []) ∧
    ({} : Image).enables 2047 = false ∧ ({ ropes := List.replicate 16 { queues := 128 } } : Image).enables 2047 = true ∧
    (loading 3 { ready := some {} }).fld Reg.RTE_STATUS 19 16 ≠ 4 := by
  unfold State.live State.admitted
  refine ⟨by decide, by decide, by decide, by decide, by decide, by decide, by decide, rfl, rfl, by decide, (fun h => nomatch h), (fun h => nomatch h), rfl,
    header_passes.2.2.1 ▸ copy_trailer, by decide, by decide +kernel, no_staged, by decide +kernel, ⟨rfl, tiny_image_passes, rfl, rfl⟩,
    by decide +kernel, by decide +kernel, by decide +kernel, by decide⟩

/-! ## Hypotheses that are met: queues, records and completions -/

def ringsSet (s : State) (q : Nat) : State := (s.setReg (Reg.CQ_SQ_CFG q) 6).setReg (Reg.CQ_CQ_CFG q) 6

/-- The last queue of a ring of 64 slots in a state. -/
def q64 (x : Queue) : State := onWith (ringsSet w1 2047) 2047 x

theorem witness_QueueOnOffConfig : w1.admitted (.core 15) ∧ ((q64 { mode := .off }).queue 2047).mode = .off ∧
    (q64 { mode := .off }).ringsOk 2047 = true ∧ ((q64 {}).queue 2047).mode ≠ .off ∧ ((q64 { mode := .off }).setReg (Reg.CQ_SQ_CFG 2047) 5).ringsOk 2047 = false ∧
    queueState ((q64 { mode := .on }).queue 2047) = 2 ∧ queueState ((q64 { mode := .stopped }).queue 2047) = 5 ∧
    queueState ((q64 { mode := .on, tail := 1 }).queue 2047) = 3 ∧ (findReg (Reg.CQ_SQ_BASE 2047)).isSome = true ∧
    (findReg (Reg.CQ_CQ_BASE 2047)).isSome = true ∧ (findReg (Reg.CQ_FLUSH_ADDR 2047)).isSome = true ∧ (findReg (Reg.CQ_SQ_CFG 2047)).isSome = true ∧
    (findReg (Reg.CQ_CQ_CFG 2047)).isSome = true := by
  unfold State.admitted; repeat' apply And.intro
  all_goals decide

/-- A doorbell to tail 0 from head 63: the last slot announced is slot 63, of the head's generation; to tail 1 its slot 0 is the next
lap's. -/
theorem witness_DoorbellsAndCancels : (q64 {}).admitted .siolo ∧ ((q64 {}).queue 2047).mode = .disabled ∧
    ((q64 { mode := .off }).queue 2047).mode = .off ∧ ((q64 { mode := .on, head := 63 }).queue 2047).mode = .on ∧
    ((q64 { mode := .stopped }).queue 2047).mode = .stopped ∧ (q64 {}).sqSize 2047 ≤ fget (64 : Word) 15 0 ∧
    (let x := (q64 { mode := .on, head := 63, tail := 63, gen := 5 }).queue 2047
     let v : Word := 0x60000000001
     1 ≤ (fget v 15 0 + 64 - x.head) % 64 ∧ fget v 47 40 = 6 ∧ 64 ≤ x.head + (fget v 15 0 + 64 - x.head) % 64 - 1 ∧ fget v 15 0 < 64) ∧
    (let x := (q64 { mode := .on, head := 63, tail := 63, gen := 5 }).queue 2047
     let v : Word := 0x50000000000
     1 ≤ (fget v 15 0 + 64 - x.head) % 64 ∧ fget v 47 40 = x.gen ∧ x.head + (fget v 15 0 + 64 - x.head) % 64 - 1 < 64) ∧
    (let x := (q64 { mode := .on, head := 63, tail := 63, gen := 5 }).queue 2047
     (fget (63 : Word) 15 0 + 64 - x.head) % 64 = 0 ∧ fget (0 : Word) 47 40 ≠ x.gen ∧ 1 ≤ (fget (0 : Word) 15 0 + 64 - x.head) % 64) := by
  unfold State.admitted; repeat' apply And.intro
  all_goals decide

/-- The last queue with the bytes `b` in slot 0 of its ring, at address 0; its core in its rope. -/
def ring (b : List Byte) (x : Queue) : State :=
  { onWith (ringsSet wUp 2047) 2047 x with mem := { open_ := [], cells := (numbered b).filter (fun c => c.2 ≠ 0) }, image := { coreRope := [15] } }

/-- A NOP of version 1 with its seal for slot 0 of generation 1 (R87). -/
def sealedNop : List Byte := let b := toLe 60 0x100; b ++ toLe 4 (sealOfRecord b 1 0)
def onRing (x : Queue) : Queue := { x with mode := .on, gen := 1, tail := 1 }

theorem witness_FetchChecksSeals : (ring [] (onRing {})).issuing ∧ (ring [] (onRing {})).canFetch 2047 = true ∧
    ((ring [] (onRing {})).queue 2047).reads = 0 ∧ (ring [] (onRing {})).bound 2047 = true ∧ (q64 (onRing {})).canFetch 2047 = true ∧
    (q64 (onRing {})).bound 2047 = false ∧ ((ring [] (onRing { reads := 1 })).queue 2047).reads ≠ 0 ∧
    (q64 {}).canFetch 2047 = false ∧
    ((ring sealedNop (onRing {})).readMem (srcQueue 0) 0 64).2 = ⟨sealedNop, [], none⟩ ∧
    sealMatches ((ring sealedNop (onRing {})).queue 2047) sealedNop = true ∧
    ((ring [] (onRing {})).readMem (srcQueue 0) 0 64).2 = ⟨toLe 64 0, [], none⟩ ∧
    sealMatches ((ring [] (onRing {})).queue 2047) (toLe 64 0) = false ∧
    ((ring [] (onRing { reads := 8, rereads := 7 })).queue 2047).rereads = 7 ∧
    (∃ e, ((q64 (onRing {})).readMem (srcQueue 0) 0 64).2.err = some e) := by
  unfold State.issuing
  repeat' apply And.intro
  all_goals first | decide +kernel | exact ⟨_, rfl⟩

/-- The last queue with one fetched record of an opcode. -/
def fedOp (op : Nat) : State := fed w1 (wRec op)

theorem witness_ControlRecordsIssue : (∀ op ∈ [0, 1, 2, 3, 4, 6], (fedOp op).ready 2047 op (wRec op) []) ∧ nopFormat (wRec 0) = none ∧
    belayFormat (wRec 1) = none ∧ signalFormat (fedOp 2) (wRec 2) = none ∧ waitFormat (wRec 3) = none ∧ stepFormat (wRec 6) = none ∧
    putFormat (wRec 4) = none ∧ (fedOp 4).rangeBad (putDst (wRec 4)) (wRec 4).inlineData.length = none ∧
    (let r := mk 4 [(2, 64), (8, 2 ^ 51)] [inl 0 1 7]
     (fed w1 r).ready 2047 4 r [] ∧ putFormat r = none ∧ (fed w1 r).rangeBad (putDst r) r.inlineData.length = some (2 ^ 51)) ∧
    (∀ op ∈ [0, 1, 2, 3, 4, 6], let r := mk op [(59, 1)]; (fed w1 r).ready 2047 op r []) ∧ nopFormat (mk 0 [(59, 1)]) = some 59 ∧
    belayFormat (mk 1 [(59, 1)]) = some 59 ∧ signalFormat (fed w1 (mk 2 [(59, 1)])) (mk 2 [(59, 1)]) = some 59 ∧
    waitFormat (mk 3 [(59, 1)]) = some 59 ∧ putFormat (mk 4 [(59, 1)]) = some 2 ∧ stepFormat (mk 6 [(59, 1)]) = some 59 ∧
    (let r := mk 0 [(2, 64)] [inl 1 1 7]
     (fed w1 r).issuing ∧ (fed w1 r).canIssue 2047 = true ∧ r.op = 0 ∧ chainFail 0 r.chain = some (0, 9)) := by
  unfold State.ready State.issuing
  repeat' apply And.intro
  all_goals decide +kernel

/-- The last queue with one issued record in a phase. -/
def issuedAs (s : State) (r : Fetched) (ph : Phase) : State := onWith s 2047 { mode := .on, gen := 1, issued := [⟨r, ph⟩] }

theorem witness_ControlRecordsEnd : (issuedAs w1 (wRec 1) (.parked .order)).issuing ∧ (issuedAs w1 (wRec 1) (.parked .order)).mayBegin 2047 = true ∧
    earlierEnded (wRec 1).num ((issuedAs w1 (wRec 1) (.parked .order)).queue 2047).issued = true ∧
    earlierEnded 1 ([⟨wRec 0, .parked .memory⟩, ⟨{ wRec 1 with num := 1 }, .parked .order⟩] : List Issued) = false ∧
    w0.mayBegin 2047 = false ∧ (q64 { mode := .on, held := [([], false)] }).mayBegin 2047 = false ∧
    waitMicros (mk 3 [(0xA, 1)]) ≠ 0 ∧ waitMicros (wRec 3) = 0 ∧
    ((w1.anchor 4095 - 0).toNat < 2 ^ 31 ∧ 2 ^ 31 ≤ (w1.anchor 4095 - 1).toNat) ∧
    (issuedAs w1 (wRec 1) (.parked .order)).parkedOf 2047 1 .order = some ⟨wRec 1, .parked .order⟩ ∧
    (issuedAs w1 (wRec 2) (.parked .order)).parkedOf 2047 2 .order = some ⟨wRec 2, .parked .order⟩ ∧ signalRemote (wRec 2) = false ∧
    (issuedAs w1 (wRec 3) (.parked .anchor)).parkedOf 2047 3 .anchor = some ⟨wRec 3, .parked .anchor⟩ ∧ w1.admitted .siolo ∧
    ({ w1 with anchorOps := [(0, false, 1), (4095, true, 2)] } : State).anchorOps = [(0, false, 1)] ++ (4095, true, 2) :: [] ∧
    (∀ x ∈ [((0 : Nat), false, (1 : Word32))], x.1 ≠ 4095) ∧ (∀ x ∈ w1.anchorOps, x.1 ≠ 4095) := by
  unfold State.issuing State.admitted
  repeat' apply And.intro
  all_goals decide +kernel

/-- A completion ring that is full: 64 entries, the tail before the head. -/
def fullRing (x : Queue) : State := q64 { x with cqTail := 63 }

/-- A record whose slot is the last of the largest ring, with CMPL and IRQ or without. -/
def lastSlot (flags : Nat) : Fetched := { mk 0 [(2, flags)] with slot := 65535, num := 9 }

theorem witness_RecordsComplete : (∀ st ∈ [stOk, stFormat], ∀ fl ∈ [0, 1, 3], let s := issuedAs w1 (lastSlot fl) (.ended st 7)
      s.live ∧ endedAt 65535 (s.queue 2047).issued = some ⟨lastSlot fl, .ended st 7⟩) ∧ (lastSlot 0).cmpl = false ∧ (lastSlot 1).cmpl = true ∧
    bit (w1.reg Reg.SIO_TRACE_EN0).toNat ((issuedAs w1 (wRec 0) (.ended stOk 0)).queueCore 2047 % 64) = false ∧
    bit (w1.reg Reg.SIO_TRACE_EN1).toNat ((issuedAs w1 (wRec 0) (.ended stOk 0)).queueCore 2047 % 64) = false ∧ w1.env = {} ∧ w1.token = .idle ∧
    ((q64 { mode := .on, held := [([], false)] }).queue 2047).held ≠ [] ∧ (q64 { mode := .on }).cqFull 2047 = false ∧
    w1.needs = [] ∧ ((fullRing {}).queue 2047).held = [] ∧ (fullRing { mode := .on }).cqFull 2047 = true ∧
    ((fullRing { mode := .on }).queue 2047).mode ≠ .stopped ∧ stFormat ≠ stQueueBind ∧
    ((q64 { mode := .stopped }).queue 2047).mode = .stopped ∧ w1.admitted .siolo ∧ w1.hostExists 6 = true ∧ w1.oppBusy = false ∧
    (let s := ((q64 {}).setReg (Reg.HST_HOST_STATUS 6) 3).setReg (Reg.CQ_FLUSH_ADDR 2047) 0x11FFFFFFFC1
     s.hdmAddr 6 0x11FFFFFFFFF = some 0x11FFFFFFFFF ∧ s.flushQueue (0x11FFFFFFFFF / 64 * 64) = some 2047) := by
  unfold State.live State.admitted
  repeat' apply And.intro
  all_goals decide +kernel

/-! ## Hypotheses that are met: arithmetic records -/

/-- Core 0 with an attention context, a KV pool of rope 0 that is READY, and a program of one input and one output in ember slot 15. -/
def unitState : State := { (w1.setReg (Reg.ATT_KV_STATUS 0) 2) with
  attCtx := [(0, some { scale := 0x3F800000, c := 0x3FB8AA3B })], vecs := [(0, { slots := [(15, [1, 0, 0, 5])] })]
  image := { ropeCount := 1, coreRope := [0], pools := [⟨2, 0, 0, 16⟩, ⟨1, 0xFF, 16, 4000⟩] } }

def failOf : Nat → Ctx → State → Option (State × Phase)
  | 0x10 => mloadFail | 0x11 => mmaFail | 0x12 => mloadiFail | 0x20 => tzeroFail | 0x21 => tloadFail | 0x22 => tcombineFail
  | 0x23 => tstoreFail | 0x24 => treduceFail | 0x30 => vsetFail | 0x31 => vopFail | 0x32 => vreduceFail | 0x33 => emloadFail
  | 0x34 => emrunFail | 0x40 => actxFail | 0x41 => asoftFail | 0x42 => afoldFail | 0x43 => adeltaFail | 0x44 => abackFail
  | 0x45 => kvmapFail | 0x46 => kvputFail | 0x47 => kvmassFail | 0x48 => kvtrimFail | 0x49 => rankFail | 0x50 => hctxFail
  | 0x51 => hcopyFail | 0x52 => wfillFail | 0x53 => wrelFail | 0x54 => porterFail | _ => lrepairFail

/-- The record of an opcode is at the front of the last queue, its stream can issue it, and its checks find nothing. -/
def passes (s : State) (op : Nat) : Prop :=
  (fed s (wRec op)).ready 2047 op (wRec op) [] ∧
    failOf op ((fed s (wRec op)).ctx 2047 (wRec op)) ((fed s (wRec op)).starting 2047 (wRec op) {}) = none

/-- A record fetched behind an issued one of its core, which is in a phase and an operation of the core's path. -/
def behind (r : Fetched) (o : MxOp) (ph : Phase) : State :=
  let s := onWith unitState 2047 { mode := .on, gen := 1, fetched := [{ r with num := 1 }], issued := [⟨wRec 0, ph⟩] }
  { s with mats := [(s.queueCore 2047, { ops := [o] })] }
def opOf (kind : MxKind) (tiles : List (Nat × Nat) := []) (ember : Option Nat := none) : MxOp := { q := 2047, num := 0, kind, tiles, ember }

/-- The record can be issued, and whether its unit has begun what was issued before it. -/
def turn (r : Fetched) (o : MxOp) (ph : Phase) (kind : MxKind) (waits : Bool) : Prop :=
  let s := behind r o ph
  s.ready 2047 r.op { r with num := 1 } [] ∧ opsBefore 2047 1 (s.mat (s.queueCore 2047)).ops = [o] ∧
    [o].any (fun o => o.kind == kind && s.opWaits o) = waits

theorem witness_ArithmeticRecordsIssue : (∀ op ∈ [0x10, 0x12, 0x11, 0x20, 0x21, 0x22, 0x23, 0x24], passes unitState op) ∧
    (∀ op ∈ [0x40, 0x41, 0x42, 0x43, 0x44, 0x49, 0x30, 0x31, 0x32, 0x33, 0x34], passes unitState op) ∧
    opsBefore 2047 0 ((fed unitState (wRec 0x20)).mat ((fed unitState (wRec 0x20)).queueCore 2047)).ops = [] ∧
    accFree ((fed unitState (wRec 0x23)).ctx 2047 (wRec 0x23)) [] = true ∧ unitFree .vec [] = true ∧
    (fed unitState (wRec 0x49)).rankerEvicts ((fed unitState (wRec 0x49)).queueCore 2047) = false ∧
    (∀ x ∈ [(0x20, MxKind.acc), (0x30, .vec), (0x40, .att), (0x49, .rank)], turn (wRec x.1) (opOf x.2) (.parked .turn) x.2 true) ∧
    (∀ x ∈ [(0x30, MxKind.vec), (0x40, .att), (0x49, .rank)], turn (wRec x.1) (opOf x.2) (.parked .memory) x.2 false ∧ unitFree x.2 [opOf x.2] = false) ∧
    (turn (wRec 0x20) (opOf .mma [(31, 31)]) (.parked .engine) .acc false ∧
      accFree ((behind (wRec 0x20) (opOf .mma [(31, 31)]) (.parked .engine)).ctx 2047 { wRec 0x20 with num := 1 }) [opOf .mma [(31, 31)]] = false) ∧
    (turn (wRec 0x33) (opOf .acc [] (some 15)) (.parked .memory) .vec false ∧ unitFree .vec [opOf .acc [] (some 15)] = true ∧
      (wRec 0x33).f 0x10 1 = 15) ∧
    (let r := mk 0x20 [(1, 1)]
     turn r (opOf .mma [(0, 0)]) (.parked .engine) .acc false ∧ (tzeroFail ⟨2047, 0, r⟩ unitState).map (·.2.isFormat) = some true) ∧
    (let r := mk 0x20 [(8, 31), (9, 2)]
     turn r (opOf .mma [(31, 31)]) (.parked .engine) .acc false ∧ (tzeroFail ⟨2047, 0, r⟩ unitState).map (·.2.isFormat) = some false) := by
  unfold passes turn State.ready State.issuing
  repeat' apply And.intro
  all_goals decide +kernel

/-- A record of version 2. -/
def reservedSet (op : Nat) : Fetched := mk op [(1, 1)]

theorem witness_FailedChecksChangeNothing : ∀ op ∈ [0x10, 0x11, 0x12, 0x20, 0x21, 0x22, 0x23, 0x24, 0x30, 0x31, 0x32, 0x33, 0x34, 0x40, 0x41, 0x42,
    0x43, 0x45, 0x46, 0x47, 0x48, 0x49, 0x50, 0x51, 0x52, 0x53, 0x54, 0x71],
    (failOf op ⟨2047, 0, reservedSet op⟩ unitState).map (·.2) = some (.ended stFormat 1) := by decide +kernel

theorem witness_TzeroClearsTiles : (fed w1 (wRec 0x20)).ready 2047 0x20 (wRec 0x20) [] ∧ formatFail (wRec 0x20) false [(8, 2)] [] = none ∧
    1 ≤ (wRec 0x20).f 9 1 ∧ (wRec 0x20).f 8 1 + (wRec 0x20).f 9 1 ≤ 32 ∧ (fed w1 (wRec 0x20)).needs = [] ∧
    (let s := fed w1 (wRec 0x20)
     let before := opsBefore 2047 (wRec 0x20).num (s.mat (s.queueCore 2047)).ops
     before.any (fun o => o.kind == .acc && s.opWaits o) = false ∧ accFree (s.ctx 2047 (wRec 0x20)) before = true) := by
  unfold State.ready State.issuing
  repeat' apply And.intro
  all_goals decide +kernel

/-- VSET in mode 0 on all registers, and in mode 2 on the last one with 8 bytes of inline data. -/
theorem witness_ContextAndParameterWrites : vsetFail ⟨2047, 0, wRec 0x30⟩ w1 = none ∧ (wRec 0x30).f 0xA 1 = 0 ∧
    (let r := mk 0x30 [(2, 64), (8, 15), (9, 1), (0xA, 2)] [inl 0 8 7]
     vsetFail ⟨2047, 0, r⟩ w1 = none ∧ r.f 0xA 1 = 2 ∧ 4 * 1 + 4 ≤ r.inlineData.length ∧ r.inlineData.length ≤ 4 * 2) := by
  repeat' apply And.intro
  all_goals decide +kernel

/-- A record on core 127's matrix path, its bank of the same set valid or not. -/
def pathed (o : MxOp) (b : Bank) (r : Fetched) (ph : Phase) : State :=
  { issuedAs w1 r ph with mats := [(127, { h1 := { b0 := b, b1 := b }, ops := [o] })] }
def mxOp (k : MxKind) : MxOp := { q := 2047, num := 0, kind := k, half := 1 }

theorem witness_MatrixPath : (pathed (mxOp .load) {} (wRec 0x10) (.parked .engine)).issuing ∧
    (∀ k ∈ [MxKind.load, .mma], ((pathed (mxOp k) {} (wRec 0x11) (.parked .engine)).mat 127).ops.find? (fun o => o.kind == k && o.half == 1) = some (mxOp k)) ∧
    (w1.mat 127).ops.find? (fun o => o.kind == .load && o.half == 1) = none ∧
    (∀ x ∈ [(MxKind.acc, 0x23, Park.interlock), (.vec, 0x33, .slotHold)], let s := pathed (mxOp x.1) {} (wRec x.2.1) (.parked x.2.2)
      (s.mat 127).ops = [] ++ mxOp x.1 :: [] ∧ (mxOp x.1).kind = x.1 ∧ s.issuedAt 2047 0 = some ⟨wRec x.2.1, .parked x.2.2⟩ ∧
        notBegun ⟨wRec x.2.1, .parked x.2.2⟩ = true) ∧
    (∀ k ∈ [MxKind.acc, .vec], ∀ o ∈ (w1.mat 127).ops, o.kind = k → w1.opWaits o = false) ∧
    loadReady [] (mxOp .load) {} = true ∧ loadReady [mxOp .load] (mxOp .load) {} = false ∧ (mxOp .load).err = none ∧
    ({ mxOp .load with err := some (stMemUncorr, 32) } : MxOp).err = some (stMemUncorr, 32) ∧
    mmaReady [] (mxOp .mma) {} = true ∧ mmaReady [mxOp .mma] (mxOp .mma) {} = false ∧
    (pathed (mxOp .mma) {} (wRec 0x11) (.parked .engine)).issuedAt 2047 0 = some ⟨wRec 0x11, .parked .engine⟩ ∧
    (((pathed (mxOp .mma) {} (wRec 0x11) (.parked .engine)).mat 127).half 1).bank 0 = {} ∧ ({} : Bank).valid = false ∧
    ((((pathed (mxOp .mma) { valid := true, type := 8 } (wRec 0x11) (.parked .engine)).mat 127).half 1).bank 0).valid = true ∧
    typeGroup (mmaRec (wRec 0x11)).atype ≠ typeGroup 8 ∧
    (mmaSetFail ⟨2047, 127, wRec 0x11⟩ w1 (mmaRec (wRec 0x11)) { valid := true, type := 8 }).isNone = true ∧
    (mmaSetFail ⟨2047, 127, mk 0x11 [(8, loc), (0x10, 32), (0x14, 257)]⟩ w1 (mmaRec (mk 0x11 [(8, loc), (0x10, 32), (0x14, 257)])) { valid := true }).isSome = true := by
  unfold State.issuing
  repeat' apply And.intro
  all_goals decide +kernel

theorem witness_ExactNumberFormats : 0x80000000 < 2 ^ 32 ∧ ([0x7F, 0x80] : List Nat).length = ([0x80, 0x80] : List Nat).length ∧
    (2 ^ 31 - 1 : Int) < 2 ^ 31 ∧ (-(2 ^ 31) : Int) < -(2 ^ 31 - 1) ∧ -(2 ^ 31 - 1 : Int) ≤ -(2 ^ 31 - 1) ∧ (0xFFFFFFFF : Nat) < 2 ^ 32 ∧ (0xFFFF : Nat) < 2 ^ 16 := by
  decide

/-! ## Hypotheses that are met: KV pools, the Ranker, haul, update -/

def page : PageDesc := { seq := 1, lp := 2, frame := 0, fill := 64, state := 0 }
def kvMiss (alloc : Bool) : Miss := { id := 3, q := 2047, num := 0, seq := 1, lp := 2, pt := 0x1000, alloc, sent := true }
/-- Core 127 of rope 0 with that miss, and control core 15 with it at the front of its queue. -/
def missed (alloc : Bool) : State := { wUp with
  image := { unitState.image with coreRope := List.replicate 128 0 }, walkers := [(127, { misses := [kvMiss alloc], arriving := [(3, page)] })]
  ccReqs := [(15, [{ core := 127, miss := kvMiss alloc }])] }
def pool15 (p : KvPool) : State := { w1 with kvPools := [(15, p)] }
/-- Rope 15 with a pool whose configuration R227 allows. -/
def kvReadyToInit : State :=
  { w1.setReg (Reg.ATT_KV_CFG 15) (BitVec.ofNat 64 (1 * 2 ^ 27)) with
    image := { ropeCount := 16, coreRope := List.replicate 128 15, pools := [⟨2, 15, 0, 1⟩] } }

theorem witness_KvRecordsAndPools : (∀ op ∈ [0x45, 0x46, 0x47, 0x48], passes unitState op ∧
      opsBefore 2047 0 ((fed unitState (wRec op)).mat ((fed unitState (wRec op)).queueCore 2047)).ops = []) ∧
    (∀ x ∈ [(0x45, MxKind.walk), (0x46, .walk), (0x48, .walk), (0x47, .att)],
      turn (wRec x.1) (opOf x.2) (.parked .turn) x.2 true ∧ turn (wRec x.1) (opOf x.2) (.parked .engine) x.2 false) ∧
    (∀ op ∈ [0x45, 0x46, 0x47, 0x48], turn (mk op [(1, 1)]) (opOf .mma) (.parked .engine) .walk false ∧ (opOf .mma).kind ≠ .walk ∧
      (opOf .mma).kind ≠ .att ∧ (failOf op ⟨2047, 0, mk op [(1, 1)]⟩ unitState).map (·.2.isFormat) = some true) ∧
    (15 : Nat) < 16 ∧ w1.live ∧ w1.admitted .siolo ∧ kvReadyToInit.kvReady 15 = false ∧ kvReadyToInit.kvConfigOk 15 = true ∧
    (w1.setReg (Reg.ATT_KV_STATUS 15) 2).kvReady 15 = true ∧ w1.kvConfigOk 15 = false ∧
    ((pool15 { init := true }).kvPool 15).init = true ∧ ((pool15 {}).kvPool 15).init = false ∧
    ((pool15 { disable := true }).kvPool 15).disable = true ∧ (pool15 { disable := true }).kvInFlight 15 = false ∧
    ({ issuedAs w1 (wRec 0x48) (.parked .engine) with image := kvReadyToInit.image } : State).kvInFlight 15 = true ∧
    mwf {} (missed false).walkers = true := by
  unfold passes turn State.ready State.issuing State.live State.admitted
  repeat' apply And.intro
  all_goals decide +kernel

theorem witness_ControlCoreServices : (missed false).live ∧ (15 : Nat) < 16 ∧ (((missed false).setFld (Reg.HST_CC_STATUS 15) 32 32 1).ccRuns 15) = true ∧
    ((missed false).ccReq 15).find? (fun x => !x.waits) = some { core := 127, miss := kvMiss false } ∧ (kvMiss false).alloc = false ∧
    (kvMiss true).alloc = true ∧ ((missed true).ccReq 15).all (fun y => !y.waits) = true ∧
    ((missed true).readPte (srcCC 15) (kvMiss true)).2.map (·.state) = some 3 ∧ ((missed false).readPte (srcCC 15) (kvMiss false)).2.isSome = true ∧
    ((missed false).readPte (srcCC 15) { kvMiss false with pt := stackedEnd }).2 = none ∧
    (∀ free ∈ [[0], []], let s : State := { missed true with mem := { open_ := [], cells := [(0x1000, 3)] }, kvPools := [(0, { free })] }
      let t := (s.readPte (srcCC 15) (kvMiss true)).1
      (s.readPte (srcCC 15) (kvMiss true)).2.map (·.state) = some 2 ∧ (t.kvPool (t.ropeOf 127)).free = free ∧ s.ropeOf 127 = t.ropeOf 127) ∧
    ((missed true).readPte (srcCC 15) (kvMiss true)).1.kvEvictable 0 = false := by
  unfold State.live
  repeat' apply And.intro
  all_goals decide +kernel

theorem witness_WalkersAndKeeperPort : (missed false).issuing ∧ (127 : Nat) < 128 ∧ (15 : Nat) < 16 ∧
    ((missed false).walker 127).arriving = (3, page) :: [] ∧
    (∀ m ∈ (({ missed false with walkers := [(127, { arriving := [(3, page)] })] } : State).walker 127).misses, m.id ≠ 3) ∧
    ((missed false).walker 127).misses.find? (fun m => m.id == 3) = some (kvMiss false) ∧ (w1.walker 127).arriving = [] ∧
    ((missed false).walker 127).misses[0]? = some (kvMiss false) ∧ (w1.walker 127).misses[0]? = none ∧
    (∀ m ∈ ((missed false).walker 127).misses, m.sent = true) ∧ ((pool15 {}).kvPool 15).updates = [] ∧
    ((pool15 { updates := [⟨127, 2047, 0, 0, 1, 2, 0x3F800000, 0⟩] }).kvPool 15).updates = ⟨127, 2047, 0, 0, 1, 2, 0x3F800000, 0⟩ :: [] ∧
    (wUp.readMem (wUp.keeperSrc 15) (wUp.frameRec 15 0) 32).2 = ⟨toLe 32 0, [], none⟩ ∧
    (w1.readMem (w1.keeperSrc 15) (w1.frameRec 15 0) 32).2.err.isSome = true := by
  unfold State.issuing
  repeat' apply And.intro
  all_goals decide +kernel

theorem witness_Evictions : (pool15 {}).issuing ∧ ((pool15 { waiting := [{ count := 1 }] }).kvPool 15).waiting = { count := 1 } :: [] ∧
    ((pool15 { waiting := [{ count := 1 }] }).kvPool 15).running = none ∧ (pool15 {}).quiescing = false ∧
    (pool15 {}).rankerEvicts ((pool15 {}).fld (Reg.ATT_KV_CFG 15) 26 20) = false ∧ w0.quiescing = true ∧
    (pool15 { running := some { count := 2, chosen := [0] } }).rankerEvicts 0 = true ∧
    (∀ e ∈ [{ count := 2, chosen := [0] }, { count := 1, owner := some (2047, 0), chosen := [0] },
        { count := 1, owner := some (2047, 0), err := some (stMemUncorr, 32) }], ((pool15 { running := some e }).kvPool 15).running = some e) ∧
    (pool15 {}).frameInUse 15 [0] = false ∧
    ({ w1 with image := { coreRope := [15] }, walkers := [(0, { recs := [{ q := 2047, num := 0, op := 0x45, look := 0, at_ := 0, got := [page] }] })] } : State).frameInUse 15 [0] = true ∧
    ([0] : List Nat).length < 2 ∧ (65536 : Nat) ≤ 65536 ∧
    (let table := bytesAt 64 [(4, 1), (36, 1)]
     (∀ f ∈ evictChoice table 2 1, f = 0) ∧ leAt table 36 1 = 1 ∧ leAt table 37 1 = 0 ∧ 1 ∉ evictChoice table 2 1) := by
  unfold State.issuing
  repeat' apply And.intro
  all_goals decide +kernel

theorem witness_RankSortsStably : ([⟨2 ^ 32 - 1, 0⟩, ⟨0, 1⟩] : List RankPair).length ≤ 65536 ∧ ∀ e ∈ ([⟨2 ^ 32 - 1, 0⟩, ⟨0, 1⟩] : List RankPair), e.key < 2 ^ 32 := by
  decide

/-- Core 0 with context 511 open on pool 1. -/
def ctxOpen : State := { unitState with hauls := [(0, { ctxs := [(511, some { pool := 1, maxb := 3999 })] })] }
def winOf (id : Nat) (issued filled : Bool) : Window := { id, ctx := 511, q := 2047, item := wRec 0x52, issued, filled }
def withWin (w : Window) : State := { ctxOpen with hauls := [(0, { ctxs := [(511, some { pool := 1, maxb := 3999 })], wins := [w] })] }
/-- A WREL of one window waits for the earlier records of its queue. -/
def wrelParked (n : Nat) (ws : List Window) : State :=
  { issuedAs unitState (mk 0x53 [(8, 511), (0xA, n)]) (.parked .order) with
    hauls := [(0, { ctxs := [(511, some { pool := 1, maxb := 3999 })], wins := ws })] }

theorem witness_HaulRecordsAndWindows : passes unitState 0x50 ∧ (wRec 0x50).f 0xA 1 = 0 ∧
    (let r := mk 0x50 [(8, 511), (0xA, 1)]
     (fed ctxOpen r).ready 2047 0x50 r [] ∧ hctxFail ⟨2047, 0, r⟩ ((fed ctxOpen r).starting 2047 r {}) = none ∧ r.f 0xA 1 ≠ 0) ∧
    passes ctxOpen 0x51 ∧ passes ctxOpen 0x52 ∧ passes ctxOpen 0x53 ∧ prefetchOf (ctxOpen.haul 0) 2047 (wRec 0x52) = none ∧
    (∀ b, prefetchOf ((withWin (winOf 0 false b)).haul 0) 2047 (wRec 0x52) = some (winOf 0 false b) ∧ (winOf 0 false b).filled = b) ∧
    (fed unitState (wRec 0x54)).ready 2047 0x54 (wRec 0x54) [] ∧ (fed unitState (wRec 0x54)).porterRoom 0 = true ∧
    opsBefore 2047 0 ((fed unitState (wRec 0x54)).mat 0).ops = [] ∧ porterFree loc [] = true ∧
    (let s : State := { fed unitState (wRec 0x54) with mats := [(0, { ops := List.replicate 32 { q := 2047, num := 7, kind := .porter } })] }
     s.ready 2047 0x54 (wRec 0x54) [] ∧ s.porterRoom 0 = false) ∧
    turn (wRec 0x54) (opOf .porter) (.parked .turn) .porter true ∧
    (turn (wRec 0x54) { opOf .porter with dest := destOf loc } (.parked .memory) .porter false ∧
      porterFree loc [{ opOf .porter with dest := destOf loc }] = false) ∧
    (mk 0x54 [(8, 0x1000), (0x10, loc), (0x18, 32)]).f 8 8 ≠ 0 ∧
    porterFail ⟨2047, 0, wRec 0x54⟩ (((fed unitState (wRec 0x54)).starting 2047 (wRec 0x54) {}).count (Reg.HAUL_CNT_PORTER 0) 1) = none ∧
    (wRec 0x54).f 8 8 = 0 ∧ (191 : Nat) < 192 ∧
    (let s := fed ctxOpen (wRec 0x52)
     s.issuing ∧ (s.queue 2047).fetched.find? (fun r => r.slot == 0) = some (wRec 0x52) ∧ (s.queue 2047).mode = .on ∧ (wRec 0x52).op = 0x52 ∧
       s.quiescing = false ∧ prefetchOf (s.haul 0) 2047 (wRec 0x52) = none ∧
       chainFail 0 (wRec 0x52).chain = none ∧ copyFormat (wRec 0x52) = none ∧ copyShape (wRec 0x52) = none ∧ s.fillRefused 0 511 = none ∧
       depBefore 0 (s.queue 2047) = false ∧ earlierFills (s.haul 0) 2047 511 0 (s.queue 2047) = true ∧
       s.haulCtx 0 511 = some { pool := 1, maxb := 3999 } ∧ winBillets (ctxWins (s.haul 0) 511) < 3999) ∧
    depBefore 1 { fetched := [mk 1 [(8, 1)], { wRec 0x52 with slot := 1 }] } = true ∧
    (wrelParked 1 []).parkedOf 2047 0x53 .order = some ⟨mk 0x53 [(8, 511), (0xA, 1)], .parked .order⟩ ∧
    earlierEnded 0 ((wrelParked 1 []).queue 2047).issued = true ∧ (wrelParked 1 []).mayBegin 2047 = true ∧ w0.mayBegin 2047 = false ∧ (wrelParked 1 []).haulCtx 0 511 = some { pool := 1, maxb := 3999 } ∧
    ((ctxWins ((wrelParked 1 []).haul 0) 511).filter (fun w => w.issued && w.filled)).length < 1 ∧
    1 ≤ ((ctxWins ((wrelParked 1 [winOf 0 true true]).haul 0) 511).filter (fun w => w.issued && w.filled)).length ∧
    earlierEnded 1 ([⟨wRec 0x53, .parked .order⟩, ⟨{ wRec 0x53 with num := 1 }, .parked .order⟩] : List Issued) = false ∧
    w1.fld Reg.RTE_STATUS 0 0 = 0 ∧ (({ w1 with credits := [(191, { waiters := [(127, 5)] })] } : State).credit 191).waiters = (127, 5) :: [] ∧
    (({ w1 with credits := [(191, { waiters := [(127, 5)] })] } : State).credit 191).lent = 0 ∧
    (({ w1 with credits := [(191, { lent := 1, waiters := [(127, 5)] })] } : State).credit 191).lent ≠ 0 ∧
    (w1.setFld Reg.RTE_STATUS 0 0 1).fld Reg.RTE_STATUS 0 0 = 1 ∧ (w1.credit 191).waiters = [] := by
  unfold passes turn State.ready State.issuing
  repeat' apply And.intro
  all_goals decide +kernel

/-- A sweep that is between shards, and one that is in a shard of two chunks. -/
def sweeping (run : Option ShardRun) : State :=
  { wUp with upd := { sweep := some { q := 2047, num := 0, step := 1, first := 0, count := 1, clip := 0, journal := false, area := 0, fp := false, dig := false, shard := 0, run } } }
def shardRun (chunk : Nat) : ShardRun := { shard := 0, entry := bytesAt 128 [(0x30, 16448)], group := [], chunk, crc := 0 }

theorem witness_UpdateRecordsAndSweeps : (∀ op ∈ [0x60, 0x61, 0x62, 0x63], (fedOp op).ready 2047 op (wRec op) []) ∧ unormFormat (wRec 0x60) = none ∧
    usweepFormat (wRec 0x61) = none ∧ uruleFormat (wRec 0x62) = none ∧ snapFormat (wRec 0x63) = none ∧ (fedOp 0x63).upd.snap = none ∧
    (sweeping none).issuing ∧ (sweeping none).upd.sweep.isSome = true ∧ (sweeping none).quiescing = false ∧
    ({ sweeping none with regs := [] } : State).quiescing = true ∧ 1 < chunksOf (enNparam (shardRun 1).entry) ∧
    chunksOf (enNparam (shardRun 2).entry) ≤ 2 ∧ wUp.upd.sweep = none := by
  unfold State.ready State.issuing
  repeat' apply And.intro
  all_goals decide +kernel

/-- Entries of the shard table: torn, done, and one of 64 parameters with its arrays that a sweep takes. -/
theorem witness_ShardDecisions : enState (bytesAt 128 [(0x3C, 1)]) = 1 ∧ enState (bytesAt 128 [(0x40, 7)]) ≠ 1 ∧
    enStepDone (bytesAt 128 [(0x40, 7)]) = 7 ∧
    wUp.shardDecision 7 0 (bytesAt 128 [(0, 0x1000), (8, 0x2000), (0x10, 0x3000), (0x18, 0x4000), (0x20, 0x5000), (0x28, 0x6000), (0x30, 64)]) = .sweep ∧
    (wUp.readMem srcUpdate (wUp.shardAddr 0) 128).2 = ⟨toLe 128 0, [], none⟩ ∧ wUp.shardDecision 0 0 (toLe 128 0) = .pass ∧
    resumeAt { q := 2047, num := 0, step := 0, first := 0, count := 2, clip := 0, journal := false, area := 0, fp := false, dig := false, shard := 0 } 0 = none ∧
    (w1.readMem srcUpdate (w1.shardAddr 0) 128).2.err.isSome = true := by
  repeat' apply And.intro
  all_goals decide +kernel

/-! ## Hypotheses that are met: Aedlink -/

def party3 : PartyEnt := { id := 3, topo := 1, member := 0, members := 4, ports := 2 ^ 17 }
/-- Port 17 Up, of party 3, with what the party and the port keep. -/
def linked (k : LinkParty := {}) (x : LinkPort := {}) (eth : Nat := 0) : State :=
  { w1.setReg (Reg.LNK_PORT_STATUS 17) (BitVec.ofNat 64 (2 + 4 * eth)) with image := { parties := [party3] }, linkParties := [(3, k)], linkPorts := [(17, x)] }
/-- A block of 512 bytes with its CHECK. -/
def block (fs : List (Nat × Nat)) : List Byte := let b := bytesAt 508 fs; b ++ toLe 4 (crc32c b)

set_option maxRecDepth 20000 in
theorem block_is_good : blockGood (block [(0x1F0, 1)]) = true := by decide +kernel
set_option maxRecDepth 20000 in
theorem control_block_is_good : blockGood (block [(0x1F6, 1)]) = true := by decide +kernel

theorem witness_PortsAndBlocks : (linked).live ∧ (17 : Nat) < 18 ∧ (3 : Nat) < 4 ∧ w1.fld (Reg.LNK_PORT_STATUS 17) 1 0 ≤ 1 ∧
    (({ w1 with linkPorts := [(17, { ctl := true })] } : State).lport 17).ctl = true ∧
    (({ w1 with linkPorts := [(17, { heard := some (3, 17, 2 ^ 17 - 1, 5) })] } : State).lport 17).heard = some (3, 17, 2 ^ 17 - 1, 5) ∧ (linked {} {} 1).portEth 17 = true ∧
    2 ≤ (linked).fld (Reg.LNK_PORT_STATUS 17) 1 0 ∧ w1.portEth 17 = false ∧ (w1.lport 17).ctl = false ∧ (linked).portUp 17 = true ∧
    w1.portUp 17 = false ∧ w1.admitted .siolo ∧ w1.fld (Reg.LNK_PORT_CTRL 17) 0 0 = 0 ∧
    (let s := (w1.setReg (Reg.LNK_PORT_CTRL 17) 1).setReg (Reg.LNK_PORT_STATUS 17) 3
     s.fld (Reg.LNK_PORT_CTRL 17) 0 0 = 1 ∧ s.fld (Reg.LNK_PORT_STATUS 17) 1 0 = 3) ∧ (linked).portEth 17 = false ∧
    leAt (block [(0x1F0, 1)]) 0x1F6 1 = 0 ∧ leAt (block [(0x1F0, 1)]) 0x1F0 4 = ((linked {} { rxSeq := 1 }).lport 17).rxSeq ∧
    leAt (block [(0x1F0, 1)]) 0x1F0 4 ≠ ((linked).lport 17).rxSeq ∧ blockGood [] = false ∧ leAt (block [(0x1F6, 1)]) 0x1F6 1 = 1 := by
  unfold State.live State.admitted
  repeat' apply And.intro
  all_goals decide +kernel

/-- A frame of a type of party 3 from member 1 to a member, with its PSEQ and what its extension says. -/
def frame (type dst pseq : Nat) (fs : List (Nat × Nat) := []) : List Byte :=
  bytesAt 128 ([(1, type), (2, 3), (4, 1), (8, dst), (0x10, pseq)] ++ fs)
def expecting (n : Nat) : State := (linked { peers := [(1, { expect := n })] }).setReg (Reg.LNK_PUT_WIN 3) (BitVec.ofNat 64 (2 ^ 52 + 2 ^ 21))

theorem witness_Frames : (linked).issuing ∧ (17 : Nat) < 18 ∧ (linked).oppBusy = false ∧
    (∀ t < 10, ((linked {} { rxq := [frame t 0 1] }).lport 17).rxq = frame t 0 1 :: [] ∧ frType (frame t 0 1) = t) ∧
    (linked {} { rxq := [frame 9 0 1] }).tokenWaits (.port 17) = false ∧ ((linked).lport 17).rxq = [] ∧
    (linked).etherArrive 17 [] = linked ∧ ({ linked with outstanding := [(.port 17, .hold)] } : State).tokenWaits (.port 17) = true ∧
    ((linked {} { rxq := [frame 8 0 1, frame 9 0 1] }).lport 17).rxq = frame 8 0 1 :: [frame 9 0 1] ∧ frType (frame 8 0 1) ≠ 9 ∧
    frType (frame 3 0 1) ≠ 7 ∧ frType (frame 3 0 1) ≠ 9 ∧
    ((linked).setFld Reg.CLK_STATUS 2 2 1).oppBusy = true ∧
    party3.id < 4 ∧ (linked).portParty 17 = some party3 ∧ frParty (frame 3 0 1) = 3 ∧ frParty (bytesAt 64 [(1, 3), (2, 2)]) ≠ party3.id ∧
    ((linked {} { planBad := true }).lport 17).planBad = true ∧ ((linked).lport 17).planBad = false ∧ frDst (frame 3 2 1) ≠ party3.member ∧
    frDst (frame 3 0 1) = party3.member ∧ frPseq (frame 3 0 1) < ((expecting 2).peer 3 (frSrc (frame 3 0 1))).expect ∧
    ((expecting 2).peer 3 (frSrc (frame 3 0 1))).expect < frPseq (frame 3 0 3) ∧ frPseq (frame 3 0 2) = ((expecting 2).peer 3 (frSrc (frame 3 0 2))).expect ∧
    ((((expecting 2).deliver party3 17 (frame 3 0 2) []).noteDelivered party3 1).peer 3 1).early = [] ∧
    (let s := expecting 2
     let lo := s.fld (Reg.LNK_PUT_WIN 3) 51 21 * 0x200000
     let hi := min stackedEnd (lo + s.fld (Reg.LNK_PUT_WIN 3) 63 52 * 0x200000)
     let f (a : Nat) := frame 4 0 2 [(0x0C, 32), (0x20, a)]
     lo = 0x200000 ∧ hi = 0x400000 ∧ lo ≤ frOffset (f 0x3FFFE0) ∧ frOffset (f 0x3FFFE0) + frPlen (f 0x3FFFE0) ≤ hi ∧
       frOffset (f 0x1FFFE0) < lo ∧ hi < frOffset (f 0x400000) + frPlen (f 0x400000)) := by
  unfold State.issuing
  repeat' apply And.intro
  all_goals decide +kernel

def unackedOf : Unacked := { pseq := 1, bytes := frame 3 1 1, owner := some (2047, 0) }
def redOf : Red := { q := 2047, item := mk 0x70 [(0x18, 1)] }

theorem witness_LinkTimers : (linked).issuing ∧ (3 : Nat) < 4 ∧ (linked).party? 3 = some party3 ∧
    ((linked { peers := [(1, { ackDue := true })] }).peer 3 1).ackDue = true ∧ ((linked).peer 3 1).ackDue = false ∧ ((linked).peer 3 1).unacked = [] ∧
    ((linked { peers := [(1, { unacked := [unackedOf] })] }).peer 3 1).unacked = [unackedOf] ∧
    ((linked { red := some redOf }).lparty 3).red = some redOf ∧ ¬ (redOf.chunks = chunkTotal redOf.item ∧ redOf.shards = redShards redOf.item) ∧
    ((linked { requests := [⟨1, 0, 1, 64, 7⟩] }).lparty 3).requests = ⟨1, 0, 1, 64, 7⟩ :: [] ∧ (linked).insideSweep = false ∧
    (sweeping none).insideSweep = true ∧ ((linked).lparty 3).requests = [] ∧
    (((linked { peers := [(1, { unacked := [unackedOf] })] }).peer 3 1).unacked.filterMap Unacked.owner).head? = some (2047, 0) ∧
    (linked {} {} 1).portUp 17 = true ∧ (linked {} {} 1).portEth 17 = true ∧ (3 : Nat) = (linked).fld Reg.LNK_CFG 14 12 ∧
    (linked).portEth 17 = false ∧ (7 : Nat) ≠ (linked).fld Reg.LNK_CFG 14 12 := by
  unfold State.issuing
  repeat' apply And.intro
  all_goals decide +kernel

theorem witness_LinkRecordsIssue :
    (let r := mk 0x70 [(0x18, 1), (0x30, 3)]
     (fed (linked) r).ready 2047 0x70 r [] ∧ lreduceFormat r = none ∧ (fed (linked) r).party? (redParty r) = some party3 ∧
       (fed w1 r).party? (redParty r) = none ∧ (fed w1 r).ready 2047 0x70 r [] ∧ (fed w1 r).lreduceShape r = none) ∧
    (let r := mk 0x71 [(8, 3), (0x0C, 3), (0x12, 31)]
     (fed (linked) r).ready 2047 0x71 r [] ∧ lrepairFail ⟨2047, 0, r⟩ ((fed (linked) r).starting 2047 r {}) = none ∧
       (fed (linked) r).party? (repParty r) = some party3) ∧
    w0.admitted .siolo ∧ (w0.setFld Reg.RTE_STATUS 0 0 1).quiesced = true ∧ w0.partyBusy 3 = false ∧ w0.quiesced = false ∧
    (linked { red := some redOf }).partyBusy 3 = true := by
  unfold State.ready State.issuing State.admitted
  repeat' apply And.intro
  all_goals decide +kernel

/-! ## Hypotheses that are met: hosts and mailboxes -/

/-- Host 6 Up, its memory enabled at HPA 2^28. -/
def hosted : State := ((wUp.setReg (Reg.HST_HOST_STATUS 6) 3).setFld (Reg.HST_HDM_BASE 6) 63 28 1)
def mastered : State := { hosted.setReg (Reg.HST_HOST_STATUS 6) 5 with hosts := [(6, { msix := [(2047, { masked := true, pend := true })] })] }

theorem witness_HostsComeAndGo : w1.hostExists 6 = true ∧ w1.live ∧ w1.fld (Reg.HST_HOST_STATUS 6) 0 0 = 0 ∧ w1.fullWidth 6 = 16 ∧
    ((1 : Nat) = 1 ∧ (16 : Nat) = w1.fullWidth 6) ∧ (2 * 8 = w1.fullWidth 6) ∧ hosted.fld (Reg.HST_HOST_STATUS 6) 0 0 = 1 ∧ (0xFFFFFFFFF0000000 : Nat) % 2 ^ 28 = 0 ∧
    0xFFFFFFFFF0000000 < 2 ^ 64 ∧ (1 : Nat) % 2 ^ 28 ≠ 0 ∧ stackedEnd - 1 ≠ stackedEnd ∧ (15 : Nat) < 16 ∧ w1.oppBusy = false ∧
    (let s := (w1.setFld (Reg.HST_CC_STATUS 15) 32 32 1).setFld Reg.SIO_STATUS 0 0 1
     s.fld (Reg.HST_CC_STATUS 15) 32 32 = 1 ∧ s.fld Reg.SIO_STATUS 0 0 = 1) ∧ (2047 : Nat) < 2048 ∧
    (mastered.msixEnt 6 2047).pend = true ∧ bar2Ok (16 * 2047 + 12) (.write (.w32 0)) = true ∧ bar2Ok 0xFFF8 (.read true) = true ∧ mastered.fld (Reg.HST_HOST_STATUS 6) 0 0 = 1 ∧
    mastered.fld (Reg.HST_HOST_STATUS 6) 2 2 = 1 ∧ (w1.msixEnt 6 2047).pend = false ∧ w1.firmwareLoaded = false ∧
    ({ w1 with boot := .run } : State).firmwareLoaded = true := by
  unfold State.live
  repeat' apply And.intro
  all_goals decide +kernel

def accOf (w : Option (List Byte)) : HostAcc := ⟨.host 5, 6, stackedEnd - 64, w, {}⟩

theorem witness_HostAccesses : hosted.live ∧ hosted.hostExists 6 = true ∧ hosted.hdmAddr 6 (2 ^ 28 - 1) = none ∧ w1.hostEnabled 6 = false ∧
    hosted.hostEnabled 6 = true ∧ stackedEnd - 1 < stackedEnd ∧ hosted.hdmAddr 6 (2 ^ 28 + stackedEnd - 1) = some (stackedEnd - 1) ∧
    (let s := onWith (hosted.setReg (Reg.CQ_FLUSH_ADDR 2047) 0x11FFFFFFFC1) 2047 {}
     s.flushQueue (0x11FFFFFFFFF / 64 * 64) = some 2047 ∧ s.hdmAddr 6 (2 ^ 28 + 0x11FFFFFFFFF) = some 0x11FFFFFFFFF) ∧
    hosted.flushQueue ((stackedEnd - 1) / 64 * 64) = none ∧ hosted.biasOf (accOf none).addr = 0 ∧ hosted.memHold = false ∧
    ({ hosted with bias := [(589823, 2)] } : State).biasOf (accOf none).addr = 2 ∧ (accOf none).write = none ∧
    (({ hosted with env := {}, token := .host 5, needs := [] } : State).readMem (srcHost 6) (stackedEnd - 64) 64).1.needs = [] ∧
    hosted.hostHeld = [] ∧ accOf none ∈ ({ hosted with hostHeld := [accOf none] } : State).hostHeld ∧
    (hosted.setFld Reg.CLK_STATUS 2 2 1).oppBusy = true ∧ hosted.oppBusy = false ∧ (3 : Nat) < 4 ∧ 256 < 257 ∧ 255 / 256 ≠ (255 + 4 - 1) / 256 ∧
    (4 : Nat) ≤ 256 ∧ 0x7FFFFF00 / 256 = (0x7FFFFF00 + 256 - 1) / 256 ∧ 0x7FFFFF00 + 256 ≤ 2 ^ 32 ∧
    hosted.rangeBad (bar4Addr 0x7FFFFF00) 256 = some (bar4Addr 0x7FFFFF00) ∧ hosted.rangeBad (bar4Addr 0x100) 256 = none ∧ (toLe 256 0).length = 256 := by
  unfold State.live
  repeat' apply And.intro
  all_goals decide +kernel

def waitsFor (n : Need) : State := { hosted with outstanding := [(.host 9, n)] }
/-- The last page of stacked memory is being recalled from host 6. -/
def recalling (accessed : Bool) : State := { hosted with biasOp := some { page := 589823, left := 1, asked := [6], accessed } }
def lastLine : Nat := stackedEnd - 64

theorem witness_SnoopsSpillsAndBias : hosted.live ∧ hosted.hostExists 6 = true ∧ hosted.waiting (isSnoop 6 lastLine true) = none ∧
    hosted.waiting (isSpill (spillBase 7)) = none ∧ hosted.recallWaits 6 lastLine = false ∧
    (recalling false).waiting (isSnoop 6 lastLine true) = none ∧ (recalling false).recallWaits 6 lastLine = true ∧
    (∀ b, ∃ x, (recalling b).biasOp = some x ∧ x.accessed = b ∧ x.left ≤ 1 ∧ (recalling b).hostHeld = []) ∧
    (stackedEnd - 1) / 64 * 64 = lastLine ∧ (recalling false).recallWaits 5 lastLine = false ∧
    (waitsFor (.snoop 6 lastLine true)).waiting (isSnoop 6 lastLine true) = some (.host 9, .snoop 6 lastLine true) ∧
    (waitsFor (.spill (spillBase 7) 64)).waiting (isSpill (spillBase 7)) = some (.host 9, .spill (spillBase 7) 64) ∧
    (spillBase 7 - spillBase 0) / 0x10000000000 < 8 ∧ hosted.admitted .siolo ∧ hosted.fld (Reg.HST_SPILL_CFG 6) 0 0 = 0 ∧
    (let s := hosted.setReg (Reg.HST_SPILL_SIZE 6) 1024
     1 ≤ s.fld (Reg.HST_SPILL_SIZE 6) 10 0 ∧ s.fld (Reg.HST_SPILL_SIZE 6) 10 0 ≤ 1024) ∧
    ¬ (1 ≤ hosted.fld (Reg.HST_SPILL_SIZE 6) 10 0 ∧ hosted.fld (Reg.HST_SPILL_SIZE 6) 10 0 ≤ 1024) ∧
    (hosted.setReg (Reg.HST_SPILL_CFG 6) 1).fld (Reg.HST_SPILL_CFG 6) 0 0 = 1 ∧ (0xFFFFFFFFFFFFF : BitVec 52).toNat ≠ (hosted.setReg (Reg.HST_SPILL_CFG 6) 1).fld (Reg.HST_SPILL_CFG 6) 63 12 ∧
    ({ hosted with biasOp := some { page := 0, left := 1 } } : State).biasOp.isSome = true ∧ hosted.biasOp = none ∧ pageCount < (589823 : BitVec 20).toNat + (2 : BitVec 20).toNat ∧
    0 < (2 : BitVec 20).toNat ∧ (589822 : BitVec 20).toNat + (2 : BitVec 20).toNat ≤ pageCount ∧ (∀ i < 2, mget 0 hosted.bias (589822 + i) = 0) ∧
    mget 0 ({ hosted with bias := [(589823, 1)] } : State).bias (589822 + 1) ≠ 0 ∧ (∀ j < 1, mget 0 ({ hosted with bias := [(589823, 1)] } : State).bias (589822 + j) = 0) ∧
    hosted.hostHeld = [] ∧ (589823 * 0x200000 + 64) / 0x200000 = 589823 := by
  unfold State.live State.admitted
  repeat' apply And.intro
  all_goals decide +kernel

/-! ## Hypotheses that are met: messages and servers -/

def fullBox (m : Nat) (up : Bool) : State := w1.mbxSetFull m up true

theorem witness_MailboxMessages : w1.admitted .siolo ∧ (31 : Nat) < 32 ∧ (15 : Nat) < 16 ∧ w1.mbxFull 31 true = false ∧ w1.mbxFull 15 true = false ∧
    (w1.setReg (Reg.MBX_CFG 15) 0x8FF).fld (Reg.MBX_CFG 15) 11 11 = 1 ∧ (fullBox 31 true).mbxFull 31 true = true ∧ (fullBox 31 false).mbxFull 31 false = true := by
  unfold State.admitted; decide

theorem witness_MailboxTimeoutsAndWithdrawals : w1.admitted .siolo ∧ (31 : Nat) < 32 ∧ (fullBox 31 true).mbxFull 31 true = true ∧
    (fullBox 31 false).mbxFull 31 false = true := by
  unfold State.admitted; decide

/-- The words of a message: its header, and what follows. -/
def msg (cmd n : Nat) (ws : List Nat) : List Nat := (cmd * 2 ^ 24 + n * 2 ^ 12) :: ws
/-- Siolo and control core 7 run, and the servers of mailboxes 31 and 15 hold a message; and Siolo is in recovery with one in mailbox 7. -/
def served (ws : List Nat) : State :=
  { (wUp.setFld Reg.SIO_STATUS 0 0 1).setFld (Reg.HST_CC_STATUS 7) 32 32 1 with
    boot := .run, mbx := [(15, { taken := [ws] }), (31, { taken := [ws] })] }
/-- The same, with the message of one of them taken up. -/
def rest (m : Nat) (ws : List Nat) : State := { served ws with mbx := mset {} (served ws).mbx m {} }
def recovering (ws : List Nat) : State :=
  { wUp.setFld Reg.SEC_STATUS 1 1 1 with boot := .recovery false, mbx := [(7, { taken := [ws] })] }

theorem witness_ServersAnswer :
    (∀ x ∈ [(0x01, 1, [7]), (0x02, 0, []), (0x03, 0, []), (0x60, 1, [0x00910F00]), (0x60, 1, [4]), (0x61, 0, []), (0x62, 1, [63]), (0x62, 1, [64]), (0x63, 1, [63]),
        (0x63, 1, [256]), (0xA0, 0, []), (0xA4, 1, [7]), (0xA5, 9, [4, 0, 0, 0, 0, 0, 0, 0, 0]), (0xA8, 1, [64])],
      (served (msg x.1 x.2.1 x.2.2)).asked (.mbx 31) x.1 x.2.1 (msg x.1 x.2.1 x.2.2) (rest 31 (msg x.1 x.2.1 x.2.2))) ∧
    (∀ x ∈ [(0x21, 4, [0xFFFFFFFF, 0, 2, 0]), (0x22, 2, [0, 0])],
      (served (msg x.1 x.2.1 x.2.2)).asked (.mbx 15) x.1 x.2.1 (msg x.1 x.2.1 x.2.2) (rest 15 (msg x.1 x.2.1 x.2.2))) ∧
    (let a := 0x00910F00
     bits a 7 0 < 4 ∧ 1 ≤ bits a 15 8 ∧ bits a 15 8 ≤ 15 ∧ bits a 31 16 + bits a 15 8 ≤ sensorCount (bits a 7 0)) ∧
    4 ≤ bits 4 7 0 ∧ bits 4 15 8 = 0 ∧ 15 < bits 0x1000 15 8 ∧ sensorCount (bits 0x000C0102 7 0) < bits 0x000C0102 31 16 + bits 0x000C0102 15 8 ∧
    (let t := served (msg 0x21 4 [0xFFFFFFFF, 0, 2, 0])
     let r := t.tierRange 2 0
     word2 [0x8000, 0] 0 ≤ r.2 ∧ t.objects = [] ∧ (127 : Nat) < 128 ∧ (7 : Nat) < 8 ∧ (3 : Nat) < 4) ∧
    ((0 : Nat), 32) ∈ ({ served [] with objects := [(0, 32)] } : State).objects ∧ (∀ o ∈ (served []).objects, o.1 ≠ 0) ∧
    (let t := served (msg 0xA8 1 [64])
     t.flashBusy = false ∧ t.fuses.svn ≤ 64 ∧ (64 : Nat) ≤ 64 ∧ (∀ x ∈ t.svnLimits, 64 ≤ x) ∧ ¬ ((65 : Nat) ≤ 64)) := by
  unfold State.asked
  repeat' apply And.intro
  all_goals decide +kernel

theorem witness_RepliesAndRefusals : w1.live ∧ chanOk (.mbx 31) = true ∧ chanOk (.mctp (.vdm 7) (List.replicate 16 0)) = true ∧ ([7] : List Nat).length < 16 ∧
    w1.mbxFull 31 true = false ∧ ([7] : List Nat)[0]? = some 7 ∧ w1.chanReady (.mbx 31) = false ∧
    (served (msg 1 1 [7])).request (.mbx 30) = none ∧ (served (msg 0x23 0 [])).chanReady (.mbx 31) = true ∧
    (served (msg 0x23 0 [])).request (.mbx 31) = some (msg 0x23 0 [], rest 31 (msg 0x23 0 [])) ∧ (served []).servesOn (.mbx 31) 0x23 = false ∧
    (served []).servesOn (.mbx 31) 1 = true ∧ hdrCmd (0x01002000) = 1 ∧ hdrLen 0x01002000 ≠ 1 ∧ bits 0x01001100 10 8 ≠ 0 ∧ bits 0x01001001 7 0 ≠ 0 ∧
    hdrLen 0x01001000 = 1 ∧ ((served (msg 1 1 [7])).setFld Reg.SIO_STATUS 1 1 1).overloaded (.mbx 31) = true ∧ hdrUrgent 0x01001000 = false ∧
    (let s : State := { served (msg 2 0 []) with ccReqs := [(7, [{ core := 0, miss := kvMiss false }])] }
     s.chanOpen (.mbx 15) = true ∧ s.chanBusy (.mbx 15) = true ∧ hdrCmd ((msg 2 0 []).getD 0 0) = 2 ∧ (s.request (.mbx 15)).map (·.1) = some (msg 2 0 [])) ∧
    hdrUrgent 0x01001800 = true ∧ bits 0x01001800 10 8 = 0 ∧ bits 0x01001800 7 0 = 0 ∧ hdrLen 0x01001800 = 1 := by
  unfold State.live
  repeat' apply And.intro
  all_goals decide +kernel

/-- A flash area whose current identity record says that no index is left. -/
def usedUp : State := { served [] with flash := cellsAt 0x100000 (idBytes 1 (2 ^ 20)) }

theorem witness_QuotesKeysAndSubmissions :
    (∀ x ∈ [(0xA6, 10, [0, 0, 0, 0, 0, 0, 0, 0, 0, 0]), (0xA7, 2, [0, 0])],
      (served (msg x.1 x.2.1 x.2.2)).asked (.mbx 31) x.1 (blobWords (.mbx 31) (x.2.1 - 2)) (msg x.1 x.2.1 x.2.2) (rest 31 (msg x.1 x.2.1 x.2.2))) ∧
    blobOk (.mbx 31) 0 5464 = true ∧ blobOk (.mbx 31) 0 128 = true ∧
    (let s := (served []).setReg Reg.SEC_ID (BitVec.ofNat 64 (2 ^ 32))
     s.fld Reg.SEC_ID 20 0 < s.fld Reg.SEC_ID 52 32 ∧ s.fld Reg.SEC_ID 20 0 + 1 < 2 ^ 20) ∧
    (served []).fld Reg.SEC_ID 52 32 ≤ (served []).fld Reg.SEC_ID 20 0 ∧ (served []).idCurrent.2.1 < 2 ^ 20 ∧ (served []).flashBusy = false ∧
    2 ^ 20 ≤ usedUp.idCurrent.2.1 ∧
    (∀ ws ∈ [[2048, 1, 0, 0], [2047, 17, 0, 0], [2047, 0, 0, 0], [2047, 16, 0, 0]],
      (served (msg 0x20 4 ws)).asked (.mbx (8 + 7)) 0x20 4 (msg 0x20 4 ws) (rest 15 (msg 0x20 4 ws))) ∧
    (let t := served (msg 0x20 4 [2047, 16, 0, 0])
     t.rangeBad 0 (64 * 16) = none ∧ ((t.queue 2047).tail + t.sqSize 2047 - (t.queue 2047).head) % t.sqSize 2047 + 16 < t.sqSize 2047 ∧
       (({ t with token := .chan 15, needs := [] } : State).readMem (srcCC 7) 0 (64 * 16)).2.err = none) := by
  unfold State.asked
  repeat' apply And.intro
  all_goals decide +kernel

def flashing (op : FlashOp) (err : Bool) : State := { served [] with flashOp := some { op with erased := err } }

def bundleHeader : List Byte := bytesAt 0x100 [(0, 0x57465254), (4, 0x11), (6, 0x100), (8, 0x2000), (0xC, 0x24), (0xE, 0xB0)]
/-- A header and its trailer at their places in memory from address 0, and their key in the fuses. -/
def inMemory (h : List Byte) : State := { served [] with
  token := .chan 31, fuses := { root := rootFor h }, mem := (({ open_ := [] } : Memory).setBytes 0 h).setBytes 0x1000 (trailerFor h) }

theorem inMemory_quiet : ∀ h ∈ [bundleHeader, goodHeader], (inMemory h).env.faults = [] ∧ (inMemory h).poison = [] ∧ (inMemory h).bias = [] ∧
    (inMemory h).memHold = false ∧ h.length = 0x100 ∧ ∀ x ∈ [(0, 0x100), (0x1000, 0x1000), (0x100, 0xF00)],
      (((inMemory h).requests x.1 x.2).map (·.2)).sum = x.2 ∧ ∀ r ∈ (inMemory h).requests x.1 x.2, r.1 < stackedEnd ∧ (inMemory h).pcDead r.1 = false := by
  decide +kernel

theorem kept_bytes (m : Memory) (h tr : List Byte) (hl : h.length = 0x100) (ht : tr.length = 0x1000) :
    ((m.setBytes 0 h).setBytes 0x1000 tr).bytes 0 0x100 = h ∧ ((m.setBytes 0 h).setBytes 0x1000 tr).bytes 0x1000 0x1000 = tr := by
  have e : ((m.setBytes 0 h).setBytes 0x1000 tr).bytes 0 0x100 = (m.setBytes 0 h).bytes 0 h.length := by
    rw [hl, Memory.bytes_eq, Memory.bytes_eq]
    apply List.map_congr_left
    intro i hi
    have := List.mem_range.mp hi
    exact Memory.byte_setBytes_out _ _ (Or.inl (by omega))
  exact ⟨by rw [e, Memory.bytes_setBytes], ht ▸ Memory.bytes_setBytes _ _ _⟩

/-- The source of an update is read: its header, its trailer, its body. -/
theorem reads_three (s : State) (h tr : List Byte) (hf : s.env.faults = []) (hp : s.poison = []) (hb : s.bias = []) (hh : s.memHold = false)
    (hx : ∀ x ∈ [(0, 0x100), (0x1000, 0x1000), (0x100, 0xF00)],
      ((s.requests x.1 x.2).map (·.2)).sum = x.2 ∧ ∀ r ∈ s.requests x.1 x.2, r.1 < stackedEnd ∧ s.pcDead r.1 = false)
    (b1 : s.mem.bytes 0 0x100 = h) (b2 : s.mem.bytes 0x1000 0x1000 = tr) : ∃ u v x b,
    s.readMem srcSecurity 0 0x100 = (u, ⟨h, [], none⟩) ∧ u.readMem srcSecurity 0x1000 0x1000 = (v, ⟨tr, [], none⟩) ∧
    v.fuses = s.fuses ∧ v.readMem srcSecurity 0x100 0xF00 = (x, ⟨b, [], none⟩) := by
  have q0 := hx (0, 0x100) (by simp)
  have q1 := hx (0x1000, 0x1000) (by simp)
  have q2 := hx (0x100, 0xF00) (by simp)
  obtain ⟨u, hu, eu⟩ := State.readMem_quiet (src := srcSecurity) s.tallied_refl 0 0x100 (by decide) hf hp hb hh q0.1 q0.2
  obtain ⟨v, hv, ev⟩ := State.readMem_quiet (src := srcSecurity) hu 0x1000 0x1000 (by decide) hf hp hb hh q1.1 q1.2
  obtain ⟨x, _, ex⟩ := State.readMem_quiet (src := srcSecurity) hv 0x100 0xF00 (by decide) hf hp hb hh q2.1 q2.2
  rw [b1] at eu
  rw [b2] at ev
  exact ⟨u, v, x, _, eu, ev, by rw [hv.1], ex⟩

theorem inMemory_mem (h : List Byte) : (inMemory h).mem = (({ open_ := [] } : Memory).setBytes 0 h).setBytes 0x1000 (trailerFor h) := by
  unfold inMemory; rfl
theorem inMemory_root (h : List Byte) : (inMemory h).fuses.root = rootFor h := by unfold inMemory; rfl
theorem source_reads (h : List Byte) (hm : h ∈ [bundleHeader, goodHeader]) : ∃ u v x b,
    (inMemory h).readMem srcSecurity 0 0x100 = (u, ⟨h, [], none⟩) ∧ u.readMem srcSecurity 0x1000 0x1000 = (v, ⟨trailerFor h, [], none⟩) ∧
    signatureFail v.fuses.root h (trailerFor h) = none ∧ v.readMem srcSecurity 0x100 0xF00 = (x, ⟨b, [], none⟩) := by
  have q := inMemory_quiet h hm
  have k := kept_bytes { open_ := [] } h (trailerFor h) q.2.2.2.2.1 (trailerFor_len h)
  rw [← inMemory_mem] at k
  obtain ⟨u, v, x, b, eu, ev, hr, ex⟩ := reads_three (inMemory h) h (trailerFor h) q.1 q.2.1 q.2.2.1 q.2.2.2.1 q.2.2.2.2.2 k.1 k.2
  exact ⟨u, v, x, b, eu, ev, by rw [hr, inMemory_root]; exact witness_signature h, ex⟩

theorem witness_FlashOperations :
    (∀ x ∈ [(0xA1, 3, [0, 0, 0x2000]), (0xA2, 4, [0, 0, 0x2000, 1]), (0xA3, 4, [0x200000, 32, stackedEnd % 2 ^ 32 - 32, stackedEnd / 2 ^ 32])],
      (served (msg x.1 x.2.1 x.2.2)).asked (.mbx 31) x.1 x.2.1 (msg x.1 x.2.1 x.2.2) (rest 31 (msg x.1 x.2.1 x.2.2))) ∧
    (served []).flashBusy = false ∧ (flashing { job := .bundle, who := none, src := 0, len := 0x2000, base := fwSlot } false).flashBusy = true ∧
    inStacked 0 (max 0x2000 0x100) = true ∧ inStacked stackedEnd (max 0 0x100) = false ∧ (1 : Nat) < 2 ∧
    fwSlot % 32 = 0 ∧ (32 : Nat) % 32 = 0 ∧ (0x4000000 ≤ 0x8000000 - 32 ∧ 0x8000000 - 32 + 32 ≤ 0x8000000) ∧ (served []).live ∧ (served []).flashOp = none ∧
    ((∃ u v x b, (inMemory bundleHeader).readMem srcSecurity 0 0x100 = (u, ⟨bundleHeader, [], none⟩) ∧
        u.readMem srcSecurity (0 + (0x2000 - 0x1000)) 0x1000 = (v, ⟨trailerFor bundleHeader, [], none⟩) ∧
        signatureFail v.fuses.root bundleHeader (trailerFor bundleHeader) = none ∧ v.readMem srcSecurity 0x100 0xF00 = (x, ⟨b, [], none⟩)) ∧
      bundleHead bundleHeader = none ∧ imgLen bundleHeader = 0x2000 ∧ imgLen bundleHeader ≠ 0x3000 ∧ 0 ≤ imgSecVer bundleHeader ∧
      imgSecVer bundleHeader < 1 ∧ (∃ c, bundleHead goodHeader = some c)) ∧
    ((∃ u v x b, (inMemory goodHeader).readMem srcSecurity 0 0x100 = (u, ⟨goodHeader, [], none⟩) ∧
        u.readMem srcSecurity (0 + (imgLen goodHeader - 0x1000)) 0x1000 = (v, ⟨trailerFor goodHeader, [], none⟩) ∧
        signatureFail v.fuses.root goodHeader (trailerFor goodHeader) = none ∧ v.readMem srcSecurity (0 + 0x100) (imgLen goodHeader - 0x1100) = (x, ⟨b, [], none⟩)) ∧
      headChecks 0x45545254 0x1800000 goodHeader = none ∧ imgLen goodHeader ≤ 0x2000 ∧ 0x1000 < imgLen goodHeader ∧
      (∃ f, headChecks 0x45545254 0x1800000 bundleHeader = some f)) ∧
    (∃ f, signatureFail [0, 0, 0, 0] bundleHeader (toLe 0x1000 0) = some f) ∧
    ((w1.readMem srcSecurity 0 0x100).2.err.isSome = true) ∧
    (∃ c, routeFail (served []).fuses (toLe 0x100 0) = some c) ∧
    (∀ m k, ({ job := .bundle, who := none, src := 0, len := 0x2000, base := fwSlot } : FlashOp).who = some (m, k) → (served []).mbxFull m true = false) ∧
    (∀ m k, ({ job := .read 0, who := some (31, 7), src := 0, len := 0x10001, base := fwSlot } : FlashOp).who = some (m, k) → (served []).mbxFull m true = false) ∧
    ({ job := .read 0, who := none, src := 0, len := 0x10001, base := fwSlot } : FlashOp).job = .read 0 ∧ 0 + min 0x10000 (0x10001 - 0) < 0x10001 ∧
    0x10001 ≤ 0x10000 + min 0x10000 (0x10001 - 0x10000) ∧
    (0x2000 : Nat) ≤ 0x2000 ∧ (0x1FFF : Nat) < 0x2000 ∧ ([0] : List Byte) ≠ [] ∧ ((served []).readMem srcSecurity 0 32).2.err = none ∧
    (served []).oppBusy = false ∧ (served []).sioRun = true ∧ viaOk .i3c = true ∧ (served []).viaUp .i3c = true ∧
    (let s := served []
     s.fld Reg.SIO_STATUS 1 1 = 0 ∧ (s.setFld Reg.SIO_STATUS 1 1 1).fld Reg.SIO_STATUS 1 1 = 1 ∧
       ∀ c, (flashing { job := .transfer c, who := none, src := 0, len := 0, base := 0 } false).flashOp = some { job := .transfer c, who := none, src := 0, len := 0, base := 0 }) := by
  have b := source_reads bundleHeader (by simp)
  have g := source_reads goodHeader (by simp)
  have e : imgLen goodHeader = 0x2000 := by decide +kernel
  unfold State.asked State.live
  refine ⟨by decide +kernel, by decide, by decide, by decide, by decide, by decide, by decide, by decide, by decide +kernel, by decide, by decide,
    ⟨b, by decide +kernel, by decide +kernel, by decide +kernel, by decide, by decide +kernel, Option.isSome_iff_exists.mp (by decide +kernel)⟩,
    ⟨by rw [e]; exact g, by decide +kernel, by decide +kernel, by decide +kernel, Option.isSome_iff_exists.mp (by decide +kernel)⟩,
    Option.isSome_iff_exists.mp (by decide +kernel), by decide +kernel, Option.isSome_iff_exists.mp (by decide +kernel), fun _ _ h => by simp at h,
    fun m k h => by cases h; decide, by decide, by decide, by decide, by decide, by decide, by decide, by decide +kernel, by decide, by decide, by decide, by decide,
    by decide, by decide, fun _ => rfl⟩

/-- The firmware slot with an IMG_LEN of 0. -/
def slotOfNoBytes : State := { w1 with flash := (List.range 4).map (fun i => (fwSlot + 8 + i, 0)) }

/-- A slot whose header and signature pass. -/
def slotHeld : State := { w1 with
  fuses := { root := rootFor bundleHeader }
  flash := cellsAt fwSlot bundleHeader ++ (cellsAt (fwSlot + 0x1000) (trailerFor bundleHeader) ++ []) }

theorem slot_header : slotHeld.flashBytes fwSlot 0x100 = bundleHeader := by
  have h : slotHeld.flashBytes fwSlot bundleHeader.length = bundleHeader := flash_reads _ _ _ (fun i hi => mget_cells_in bundleHeader _ _ i hi)
  rwa [show bundleHeader.length = 0x100 by decide +kernel] at h

theorem slot_trailer : slotHeld.flashBytes (fwSlot + 0x1000) 0x1000 = trailerFor bundleHeader := by
  have h : slotHeld.flashBytes (fwSlot + 0x1000) (trailerFor bundleHeader).length = trailerFor bundleHeader :=
    flash_reads _ _ _ (fun i hi => by
      rw [show slotHeld.flash = cellsAt fwSlot bundleHeader ++ (cellsAt (fwSlot + 0x1000) (trailerFor bundleHeader) ++ []) from rfl,
        mget_cells_out bundleHeader _ _ _ (by rw [show bundleHeader.length = 0x100 by decide +kernel]; omega)]
      exact mget_cells_in _ _ _ i hi)
  rwa [trailerFor_len] at h

/-- It does so in every state with that flash and those fuses. -/
theorem slot_like (m : State) (hm : m.flash = slotHeld.flash) (hf : m.fuses = slotHeld.fuses) : m.slotHead none = none := by
  unfold State.slotHead
  have e (off len : Nat) : m.flashBytes off len = slotHeld.flashBytes off len := by simp only [State.flashBytes, hm]
  simp only [e, hf, slot_header, show bundleHead bundleHeader = none by decide +kernel, show imgLen bundleHeader - 0x1000 = 0x1000 by decide +kernel, slot_trailer]
  simp [show slotHeld.fuses.root = rootFor bundleHeader from rfl, witness_signature]

theorem slot_passes : slotHeld.slotHead none = none := slot_like _ rfl rfl

theorem witness_BootAndRecovery : w1.live ∧ w1.boot = .header false ∧ (∃ c, w1.slotHead none = some c) ∧
    slotHeld.slotHead none = none ∧ slotHeld.boot = .header false ∧
    (∀ m : State, m.flash = slotHeld.flash → m.fuses = slotHeld.fuses → m.slotHead none = none) ∧
    ({ w1 with boot := .body false } : State).boot = .body false ∧ (∃ c, (slotOfNoBytes.loadSections false none).slotBody none false = some c) ∧
    (flashing { job := .bundle, who := none, src := 0, len := 0x2000, base := fwSlot } false).flashBusy = true ∧ (recovering []).flashBusy = false ∧
    ({ w1 with boot := .recovery true } : State).boot = .recovery true ∧
    ({ w1 with boot := .header true } : State).boot = .header true ∧ (served []).boot = .run ∧
    (∀ x ∈ [(0xB0, 1, [0x2000]), (0xB0, 1, [0x200000]), (0xB0, 1, [0x201000]), (0xB1, 2, [0, 7]), (0xB1, 15, 0xFFFC :: List.replicate 14 7), (0xB2, 0, [])],
      (recovering (msg x.1 x.2.1 x.2.2)).asked (.mbx 7) x.1 x.2.1 (msg x.1 x.2.1 x.2.2) { recovering (msg x.1 x.2.1 x.2.2) with mbx := [] }) ∧
    ({ recovering [] with session := some ⟨8, 0x2000, 0⟩ } : State).otherSession (.mbx 7) = true ∧ (recovering []).otherSession (.mbx 7) = false ∧
    (0x200000 : Nat) % 4096 = 0 ∧ (0x2000 : Nat) ≤ 0x200000 ∧ 0x200000 < 0x201000 ∧ (recovering []).session = none ∧
    (({ recovering [] with session := some ⟨7, 0x20000, 0xFFFC⟩ } : State).session = some ⟨7, 0x20000, 0xFFFC⟩ ∧ (7 : Nat) = chanId (.mbx 7)) ∧
    ((0xFFFC : Nat) % 0x10000 ≠ 0 ∧ 0xFFFC % 0x10000 + 4 * ([7] : List Nat).length ≤ 0x10000 ∧ ([7] : List Nat) ≠ [] ∧ 0xFFFC + 4 * ([7] : List Nat).length ≤ 0x20000) := by
  unfold State.asked State.live
  refine ⟨by decide, by decide, Option.isSome_iff_exists.mp (by decide +kernel), slot_passes, rfl, slot_like, by decide,
    Option.isSome_iff_exists.mp (by decide +kernel), by decide, by decide, rfl, by decide, by decide, by decide +kernel, by decide, by decide, by decide, by decide, by decide,
    by decide, by decide, by decide⟩

/-! ## Hypotheses that are met: Siolo, the log, the board, clocks, resets and power -/

def loopsOf (l : Loops) : State := { w1 with loops := l }

theorem witness_HardwareLoops : w1.live ∧ (159 : Nat) < 160 ∧ (11 : Nat) < 12 ∧
    (let warn : Int := 16 * w1.fld Reg.SIO_THERM_CFG 7 0
     let trip : Int := 16 * w1.fld Reg.SIO_THERM_CFG 15 8
     warn ≤ asInt 16 (16 * w1.fld Reg.SIO_THERM_CFG 7 0) ∧ trip ≤ asInt 16 (16 * w1.fld Reg.SIO_THERM_CFG 15 8) ∧ asInt 16 0xFFFF < warn) ∧
    mget false (loopsOf { warned := [(159, true)] }).loops.warned 159 = true ∧ mget false (loopsOf { hot := [(159, true)] }).loops.hot 159 = true ∧
    mget false w1.loops.warned 159 = false ∧ w1.fld Reg.SIO_STATUS 2 2 = 0 ∧ (w1.setFld Reg.SIO_STATUS 2 2 1).fld Reg.SIO_STATUS 2 2 = 1 ∧
    mget 0 ((loopsOf { streak := [(11, 3)] }).ocOne (11, 0xFFFFFFFF)).loops.streak 11 = 4 ∧ mget 0 (w1.ocOne (11, 0)).loops.streak 11 ≠ 4 ∧
    (w1.setReg Reg.PWR_STATUS 1).fld Reg.PWR_STATUS 4 0 = 1 ∧ (loopsOf { power := [2 ^ 40] }).aboveCap = true ∧ w1.aboveCap = false ∧
    (let cap := w1.fld Reg.PWR_CAP 11 0 * 10000
     cap < cap + 1 ∧ 98 * cap ≤ cap * 100 ∧ 0 * 100 < 98 * cap) ∧ (loopsOf { below := 9 }).loops.below + 1 = 10 := by
  unfold State.live
  repeat' apply And.intro
  all_goals decide +kernel

theorem witness_SioloFirmware : (served []).live ∧ (served []).oppBusy = false ∧ (served []).sioRun = true ∧ w1.sioRun = false ∧ (2 : Nat) < 3 ∧ (11 : Nat) < sensorCount 2 ∧
    (1 : Nat) < 3 ∧ (47 : Nat) < sensorCount 1 ∧
    (let nom := w1.railNominal (47 / 4)
     95 * nom ≤ nom % 2 ^ 16 * 100 ∧ nom % 2 ^ 16 * 100 ≤ 105 * nom ∧ 0 % 2 ^ 16 * 100 < 95 * nom ∧ 105 * nom < 0xFFFF % 2 ^ 16 * 100) ∧
    asInt 16 640 ≤ 640 ∧ (640 : Int) < asInt 16 641 ∧ 250 ≤ 250 % 2 ^ 16 ∧ 249 % 2 ^ 16 < 250 ∧ (1000 : Nat) ≤ 1000 ∧ (900 : Nat) ≤ 900 ∧
    ((served []).setFld Reg.SIO_STATUS 1 1 1).fld Reg.SIO_STATUS 1 1 = 1 ∧ (799 : Nat) < 800 ∧ (served []).fld Reg.SIO_STATUS 1 1 = 0 ∧
    (served []).boot = .run ∧ ({ w1 with boot := .off } : State).boot = .off ∧ ({ w1 with boot := .header true } : State).boot = .header true := by
  unfold State.live
  repeat' apply And.intro
  all_goals decide +kernel

def recAt (cls : Nat) : LogRec := { time := 1, step := 0, code := 0x900, src := 255, cls, arg := 0 }
def alarmAt (i : Nat) : State := { w1 with log := { alarms := [(i, some ⟨recAt 3, 1, false⟩)] } }

theorem witness_CairnLog : w1.live ∧ w1.reqExists (.host 6) = true ∧ (255 : Nat) < 256 ∧ (3 : Nat) < 4 ∧ (2 : Nat) < 3 ∧ w1.log.intake.length < w1.intakeCap ∧
    alarmSlot w1.log.alarms 0x900 255 = some 0 ∧
    alarmSlot ((List.range 64).map (fun i => (i, some ⟨recAt 3, 1, false⟩))) 0x901 255 = none ∧
    w1.log.lane = [] ∧ w1.log.intake = [] ∧ (({ lane := [recAt 3] } : Log).lane = recAt 3 :: []) ∧ w1.log.heldAlarms = [] ∧
    (({ intake := [recAt 0] } : Log).intake = recAt 0 :: []) ∧ (recAt 3).cls = 3 ∧ (recAt 0).cls < 3 ∧ w1.mainRing = false ∧
    w1.fld Reg.SIO_LOG_HEAD 17 0 < 2048 ∧ (w1.setReg Reg.SIO_LOG_HEAD 2047).ringFree = 0 ∧
    (({ sums := [⟨1, recAt 1⟩] } : Log).sums = [⟨1, recAt 1⟩]) ∧ w1.log.dropped = [] ∧ w1.log.overflow = [] ∧ w1.admitted .siolo ∧
    mget none w1.log.alarms (63 : BitVec 6).toNat = none ∧ mget none (alarmAt 63).log.alarms (63 : BitVec 6).toNat = some ⟨recAt 3, 1, false⟩ ∧
    w1.earlyRecords = [] ∧ (589820 : BitVec 31).toNat * 0x200000 + 0x800000 ≤ stackedEnd ∧ (∀ i < 4, mget 0 w1.seals (589820 + i) = 0) ∧
    ¬ ((589821 : BitVec 31).toNat * 0x200000 + 0x800000 ≤ stackedEnd) ∧ (w1.setReg Reg.SIO_LOG_BASE 1).mainRing = true ∧
    (1 : BitVec 31).toNat ≠ (w1.setReg Reg.SIO_LOG_BASE 1).fld Reg.SIO_LOG_BASE 51 21 := by
  unfold State.live State.admitted
  repeat' apply And.intro
  all_goals decide +kernel

theorem witness_BoardInterfaces : w1.power.standby = true ∧ 0xFF ∉ pmbSupported ∧ 0x98 ∈ pmbSupported ∧
    0x47 = 0x40 + ({ w1 with fuses := { pmbAddr := 7 } } : State).fuses.pmbAddr ∧ viaOk (.vdm 7) = true ∧ (served []).viaUp (.vdm 6) = false ∧
    hosted.viaUp (.vdm 6) = true ∧ ((served []).setFld Reg.SIO_STATUS 1 1 1).fld Reg.SIO_STATUS 1 1 = 1 ∧ (served []).fld Reg.SIO_STATUS 1 1 = 0 ∧
    ({ w1 with power := { standby := false } } : State).power.standby = false ∧ w1.i3c = none ∧ 0x48 = 0x48 + w1.fuses.pmbAddr ∧
    0x49 ≠ 0x48 + w1.fuses.pmbAddr ∧ ({ w1 with i3c := some 9 } : State).i3c ≠ none ∧ w1.live ∧ w1.sioRun = false ∧
    (served []).oppBusy = false ∧ (served []).sioRun = true ∧ pldmSensor 222 = some (3, 2) := by
  unfold State.live
  repeat' apply And.intro
  all_goals decide +kernel

def applying : State := { w0 with power := { opp := some (2, 50) } }

theorem witness_OperatingPoints : w0.live ∧ w0.admitted .siolo ∧
    ((w0.setFld Reg.RTE_STATUS 0 0 1).quiesced = true ∧ (w0.setFld Reg.RTE_STATUS 0 0 1).fld Reg.CLK_STATUS 2 2 = 0 ∧ (2 : BitVec 2).toNat ≠ 3) ∧
    ¬ ((3 : BitVec 2).toNat ≠ 3) ∧ w0.power.opp = none ∧ applying.power.opp = some (2, 50) ∧ applying.hostHeld = [] := by
  unfold State.live State.admitted
  repeat' apply And.intro
  all_goals decide +kernel

def powered (p : Power) : State := { w0 with power := p }

theorem witness_FullResets : w0.admitted .siolo ∧ (0xD1#8 : BitVec 8) = 0xD1#8 ∧ (0xD0#8 : BitVec 8) ≠ 0xD1#8 ∧
    (powered { resetN := false }).power.resetN = false ∧ (powered { held := true }).power.resetN = true ∧ (powered { held := true }).power.held = true ∧
    w0.power.resetN = true ∧ w0.power.held = false ∧ w0.power.soft = false ∧ (powered { held := true, soft := true }).power.soft = true ∧
    (23 : Nat) < 24 ∧ bit w0.power.awaited 23 = true ∧ bit w0.power.selfRef 23 = false ∧ bit (powered { awaited := 0 }).power.awaited 23 = false ∧
    bit (powered { selfRef := 2 ^ 23 }).power.selfRef 23 = true ∧ w0.fld (Reg.LNK_PORT_STATUS 17) 1 0 = 0 ∧ w0.fld (Reg.LNK_PORT_CTRL 17) 0 0 = 0 ∧ (0 : Nat) < stackedEnd := by
  unfold State.admitted
  repeat' apply And.intro
  all_goals decide +kernel

theorem witness_PowerRails : (powered { standby := false }).power.standby = false ∧ w0.power.standby = true ∧ w0.power.pwrEn = true ∧ w0.power.overCycle = 2 ∧
    (powered { pwrEn := false }).power.pwrEn = false ∧ (powered { overCycle := 0 }).power.overCycle = 0 ∧ w0.power.overHigh = false ∧
    (powered { overCycle := 1 }).power.overCycle = 1 ∧ (powered { overHigh := true }).power.overHigh = true ∧ (powered { mains := false }).power.mains = false ∧
    w0.power.mains = true ∧ (powered { held := true }).power.held = true ∧ (powered { held := true }).power.pwrgd = true ∧
    (powered { held := true }).power.resetN = true ∧ (powered { held := true }).power.soft = false ∧ w0.power.held = false ∧
    (powered { held := true }).power.standby = true := by decide

/-! ## Hypotheses that are met: the other clauses, at the ends of their ranges -/

theorem witness_RegisterWriteLimits_acting : w0.admitted .siolo ∧
    [Reg.LNK_CFG, Reg.MBX_CFG 31, Reg.MBX_CFG 0, Reg.SIO_OC_LIMIT 11].all (fun o => (findReg o).isSome && !w0.noHostReg o) = true ∧
    (∀ en ∈ [0, 1], let s := ({ w0 with fuses := { split := 15 } } : State).setReg (Reg.HST_SPILL_CFG 7) (BitVec.ofNat 64 en)
      (findReg (Reg.HST_SPILL_SIZE 7)).isSome = true ∧ s.noHostReg (Reg.HST_SPILL_SIZE 7) = false ∧
      s.fld (Reg.HST_SPILL_CFG 7) 0 0 = en) := by
  unfold State.admitted; decide

/-- A queue whose cancel waits for begun records, one whose cancel can end, and one with no cancel. -/
theorem witness_QueueOnOffConfig_cancels : queueState ((q64 { mode := .stopped, cancels := [(0, 1)] }).queue 2047) = 5 ∧
    ((q64 { mode := .stopped, cancels := [(0, 1)] }).queue 2047).cancels ≠ [] ∧ ((q64 { mode := .on }).queue 2047).cancels = [] ∧
    ((q64 { mode := .off }).queue 2047).held = [] ∧ ((q64 { mode := .off }).queue 2047).cancels = [] ∧
    (q64 {}).stream 0 = { cur := none } := by
  repeat' apply And.intro
  all_goals decide

theorem witness_DoorbellsAndCancels_cancels : ((q64 { mode := .on, cancels := [(63, 2)] }).queue 2047).cancels = [(63, 2)] ∧
    ((q64 { mode := .on, cancels := [(63, 2)] }).queue 2047).issued = [] ∧ ((q64 { mode := .on }).queue 2047).cancels = [] ∧
    ((q64 { mode := .on, cancels := [(0, 1)], issued := [⟨wRec 0, .parked .memory⟩] }).queue 2047).issued ≠ [] := by
  repeat' apply And.intro
  all_goals decide +kernel

theorem witness_RecordsComplete_quiet : ((q64 { mode := .on }).queue 2047).cancels = [] ∧
    (∀ x ∈ (issuedAs w1 (lastSlot 0) (.ended stOk 0)).answers, x.1 ≠ .queue 2047) ∧ (∀ x ∈ w1.answers, x.1 ≠ .req (reqNum .siolo)) ∧
    bit (w1.reg Reg.SIO_TRACE_EN0).toNat ((lastSlot 0).core % 64) = false ∧ bit (w1.reg Reg.SIO_TRACE_EN1).toNat ((lastSlot 0).core % 64) = false ∧
    (w1.setReg (Reg.HST_HOST_STATUS 6) 3).portHeld (.host 6) = false ∧ w1.portHeld (.host 6) = false := by
  repeat' apply And.intro
  all_goals decide +kernel

/-- The records whose checks find nothing, with their destinations. -/
theorem witness_ArithmeticRecordsFrame : ∀ op ∈ [0x23, 0x24, 0x31, 0x32, 0x34, 0x41, 0x42, 0x43, 0x44, 0x49],
    failOf op ⟨2047, 0, wRec op⟩ unitState = none := by decide +kernel

/-- What the statement of exact values asks of a state before each record. -/
def quiet (s : State) : Prop := s.env.faults = [] ∧ s.poison = [] ∧ s.bias = []

theorem quiet_bias {s : State} (h : s.bias = []) (p : Nat) (_ : 589824 ≤ p) : mget 0 s.bias p = 0 := by rw [h]; rfl

theorem rows_of_none {s : State} {n : Nat} (h : (s.mat n).rows = []) (t r : Nat) : (s.tileRow n t r).length = 64 := by
  rw [State.tileRow, h]; show zeroRow.length = 64; decide

/-- Core 0 alone or in TANDEM_COL with core 1, with a bank of a type. -/
def banked (mode : Nat) (b : Bank) (tags : SMap Nat := []) : State :=
  { unitState with mats := [(0, { h0 := { b1 := b }, tags })], image := { unitState.image with array := [⟨mode, 1⟩] } }
def accMma : Fetched := mk 0x11 [(8, loc), (0x10, 64), (0x14, 65), (0x16, 1), (0x18, 3)]

theorem witness_ExactNumberFormats_mma : ∀ mode ∈ [0, 3], ∀ tag ∈ [0, 1],
    let b : Bank := { valid := true, type := 0, k := 32, n := 128 }
    let s := banked mode b [(2, tag)]
    let x := mmaRec accMma
    quiet s ∧ (s.mat 0).rows = [] ∧ usedBank ((s.mat 0).half 0) x.atype x.swap = 1 ∧ ((s.mat 0).half 0).bank 1 = b ∧ b.valid = true ∧
      mmaSetFail ⟨2047, 0, accMma⟩ s x b = none ∧ b.admits x.atype = true ∧ (s.arr 0).mode = mode ∧ (s.arr 0).partner ≠ 0 ∧ x.acc = true ∧
      s.tagFail 0 x.tile (lastTile x.tile x.m) (tileTypeOf x.atype) = none ∧ s.tagFail 1 x.tile (lastTile x.tile x.m) (tileTypeOf x.atype) = none ∧
      (64 : Nat) < x.m ∧ (64 : Nat) < b.n := by
  unfold quiet
  decide +kernel

theorem witness_ExactNumberFormats_tiles : quiet unitState ∧ (unitState.mat 0).rows = [] ∧
    (∀ r ∈ [wRec 0x21, mk 0x21 [(8, loc), (0x10, 256), (0x14, 65), (0x17, 0xD), (0x18, 64), (0x19, 1)]],
      let s := { unitState with mats := [(0, { tags := [(1, 2)] })] }
      tloadFail ⟨2047, 0, r⟩ s = none ∧ s.tagFail 0 (tloadFields r).tile 1 (if (tloadFields r).stype = 0xD then 2 else 1) = none ∨ r = wRec 0x21) ∧
    tloadFail ⟨2047, 0, wRec 0x21⟩ unitState = none ∧ (tloadFields (wRec 0x21)).add = false ∧
    (∀ r ∈ [wRec 0x22, mk 0x22 [(8, 30), (9, 0xFF), (0xA, 0), (0xB, 2), (0xC, 7)]], tcombineFail ⟨2047, 0, r⟩ unitState = none ∧
      (List.range (r.f 0xB 1)).findSome? (unitState.combineFail 0 (r.f 8 1) (r.f 9 1) (r.f 0xA 1) (r.f 9 1 != 0xFF) (bit (r.f 0xC 1) 0)) = none) := by
  unfold quiet
  repeat' apply And.intro
  all_goals decide +kernel

/-- A plain store, one of an MX type with its scales apart, and one that runs the activation program in ember slot 15. -/
def acting : State := { unitState with vecs := [(0, { slots := [(15, [1, 1, 0, 5])] })] }

theorem witness_ExactNumberFormats_stores : quiet acting ∧ (acting.mat 0).rows = [] ∧
    (∀ r ∈ [wRec 0x23, mk 0x23 [(8, loc), (0x10, 64), (0x14, 65), (0x17, 6), (0x18, 64), (0x38, 0x8000)],
        mk 0x23 [(8, loc), (0x10, 256), (0x14, 1), (0x17, 2), (0x18, 64), (0x1B, 0x1F), (0x34, 15)]], tstoreFail ⟨2047, 0, r⟩ acting = none ∧
      ((storeRec r).act = 0x1F → acting.emSlot 0 (storeRec r).ember ≠ [] ∧ emActivation (acting.emSlot 0 (storeRec r).ember) = true) ∧
      (isMx (storeRec r).otype = true → (storeRec r).dst + (storeRec r).m * (storeRec r).stride ≤ localBase 0 + (storeRec r).mxs)) ∧
    isMx 6 = true ∧ isMx 2 = false ∧
    (∀ x ∈ [(1, 2), (2, 0), (2, 3), (0, 4)], let r := mk 0x24 [(8, loc), (0x10, 64), (0x13, 64), (0x14, x.2)]
      let s := { unitState with mats := [(0, { tags := [(0, x.1)] })] }
      treduceFail ⟨2047, 0, r⟩ s = none ∧ s.rangeTag 0 0 0 = (if x.1 = 0 then 1 else x.1, none)) := by
  unfold quiet
  repeat' apply And.intro
  all_goals decide +kernel

theorem witness_ExactNumberFormats_vectors : vopFail ⟨2047, 0, wRec 0x31⟩ unitState = none ∧ 0 < vopLen (wRec 0x31) ∧
    emrunFail ⟨2047, 0, wRec 0x34⟩ unitState = none ∧ 0 < emrunLen (wRec 0x34) ∧
    (emrunStreams (wRec 0x34) (unitState.emSlot 0 (emrunSlot (wRec 0x34))) [3, 4])[0]?.isSome = true ∧
    vreduceFail ⟨2047, 0, wRec 0x32⟩ unitState = none ∧ (vredFields (wRec 0x32)).nseg = 1 ∧ (wRec 0x32).f 0x22 1 = 0 ∧
    (mk 0x32 [(8, loc), (0x10, loc + 0x1000), (0x18, 65), (0x1C, 64), (0x22, 1)]).f 0x22 1 = 1 := by
  repeat' apply And.intro
  all_goals decide +kernel

def apart2 (u v : Nat × Nat) : Bool := decide (u.1 + u.2 ≤ v.1 ∨ v.1 + v.2 ≤ u.1)
/-- A context with a mask per row and one with a mask for all rows, of types FP16 and E4M3. -/
def masked (mode ptype dtype : Nat) : State :=
  { unitState with attCtx := [(0, some { scale := 0x3F800000, c := 0x3FB8AA3B, mode, ptype, dtype })] }

theorem witness_ExactNumberFormats_attention :
    (∀ x ∈ [(0, 0), (2, 5), (6, 1)],
      let r := mk 0x41 [(8, loc), (0x10, loc + 0x1000), (0x18, loc + 0x2000), (0x20, if x.1 = 0 then 0 else loc + 0x3000), (0x30, 2), (0x32, 16)]
      let y := asoftFields r
      asoftFail ⟨2047, 0, r⟩ (masked x.1 x.2 0) = none ∧ x.2 ∈ [0, 1, 4, 5] ∧
        [(y.pa, y.rows * stridePacked y.cols (srcBytes x.2)), (y.ta, y.rows * 16)].all (fun u =>
          [(y.sa, y.rows * strideF32 y.cols), (y.ba, if bit x.1 2 then maskLen { mode := x.1 } y.cols else y.rows * strideMask x.1 y.cols)].all (apart2 u)) = true ∧
        apart2 (y.pa, y.rows * stridePacked y.cols (srcBytes x.2)) (y.ta, y.rows * 16) = true) ∧
    (∀ va ∈ [loc, loc + 0x1000],
      let r := mk 0x42 [(8, loc), (0x10, va), (0x18, loc + 0x2000), (0x20, loc + 0x3000), (0x28, 2), (0x2A, 16), (0x2D, 2)]
      let y := afoldFields r
      afoldFail ⟨2047, 0, r⟩ unitState = none ∧ bit y.fl 1 = true ∧ (y.oa = y.va ∨ apart2 (y.oa, y.rows * strideF32 y.d) (y.va, y.rows * strideF32 y.d) = true) ∧
        apart2 (y.oa, y.rows * strideF32 y.d) (y.ta, y.rows * 16) = true ∧
        [(y.oa, y.rows * strideF32 y.d), (y.va, y.rows * strideF32 y.d), (y.ta, y.rows * 16)].all
          (apart2 (y.ua, y.rows * stridePacked y.d (srcBytes y.ot))) = true) ∧
    (let y := adeltaFields (wRec 0x43)
     adeltaFail ⟨2047, 0, wRec 0x43⟩ unitState = none ∧ [(y.ga, y.rows * stridePacked y.d (srcBytes y.gt)), (y.oa, y.rows * stridePacked y.d (srcBytes y.ot))].all
       (apart2 (y.ta, y.rows * 16)) = true) ∧
    (∀ x ∈ [(0, loc + 0x3000, 5, 2), (0, 0, 0, 0), (6, loc + 0x3000, 4, 1)],
      let r := mk 0x44 [(8, loc), (0x10, loc + 0x1000), (0x18, loc + 0x2000), (0x20, x.2.1), (0x28, if x.1 = 0 then 0 else loc + 0x4000), (0x38, 2), (0x3A, 16)]
      let y := abackFields r
      let inputs := [(y.sa, y.rows * strideF32 y.cols), (y.ta, y.rows * 16), (y.ba, if bit x.1 2 then maskLen { mode := x.1 } y.cols else y.rows * strideMask x.1 y.cols)]
      abackFail ⟨2047, 0, r⟩ (masked x.1 x.2.2.1 x.2.2.2) = none ∧ x.2.2.1 ∈ [0, 1, 4, 5] ∧ x.2.2.2 ≤ 2 ∧
        inputs.all (apart2 (y.da, y.rows * strideF32 y.cols)) = true ∧
        (y.pa ≠ 0 → ((y.da, y.rows * strideF32 y.cols) :: inputs).all (apart2 (y.pa, y.rows * stridePacked y.cols (srcBytes x.2.2.1))) = true)) := by
  repeat' apply And.intro
  all_goals decide +kernel

/-- A ring of four, and two levels of two and four members. -/
def ring4 (sum : Nat) : PartyEnt := { id := 3, sum, member := 0, members := 4, plan := bytesAt 64 [(5, 1), (8, 4)] }
def twoLevel : PartyEnt := { id := 3, sum := 1, member := 0, members := 8, plan := bytesAt 64 [(5, 2), (6, 1), (8, 2), (12, 4)] }
def dataFrame (lvl el plen : Nat) : List Byte := bytesAt 128 [(0xC, plen), (0xE, lvl), (0x20, el)]
def bigRed : Red := { q := 2047, item := mk 0x70 [(0x18, 100000)] }

theorem witness_ExactNumberFormats_reductions :
    (∀ x ∈ [(ring4 0, 0, 16384, 64, false), (ring4 1, 0, 0, 32, true), (twoLevel, 1, 32768, 32, false), (twoLevel, 1, 0, 32, true)],
      let f := dataFrame x.2.1 x.2.2.1 x.2.2.2.1
      let o := chunkOwner x.1 (frOffset f / 16384)
      frLevel f < planLevels x.1.plan ∧ frOffset f < redCount bigRed.item ∧ inLevel x.1 (frLevel f) o = true ∧
        firstAt x.1 (frLevel f) o (chunkFwd x.1 (frOffset f / 16384)) = false ∧ frEls bigRed.item f (rsSize x.1) = 8 ∧
        8 ≤ (rsPairs x.1 (frPayload f)).length ∧ keepsAt x.1 (frLevel f) o = x.2.2.2.2 ∧ (frLevel f + 1 = planLevels x.1.plan ∨ x.2.2.2.2 = false) ∧
        (w1.localEls bigRed (frOffset f) 8).2.2.length = 8 ∧ frEls bigRed.item f (elBytes (redG bigRed.item)) * 2 ≤ (frPayload f).length ∧
        elBytes (redG bigRed.item) = 2) ∧
    (let mine (n at_ : Nat) := (((numbered (List.replicate 8 7)).foldl (fun m v => mput m (at_ + v.1) v.2) ([] : SMap Nat)).filter
       (fun v => decide (v.1 / 16384 = at_ / 16384))).length = n
     mine 8 0 ∧ mine 8 16384 ∧ chunkEnd (mk 0x70 [(0x18, 8)]) 0 - 0 = 8 ∧ chunkEnd bigRed.item 1 - 16384 ≠ 8) := by
  repeat' apply And.intro
  all_goals decide +kernel

/-- Table entries with the key in entry 3 behind others, with entry 3 free, and with four others. -/
theorem witness_ExactNumberFormats_tallies :
    let key : List Byte := List.replicate 40 9
    let t (k3 n3 : Nat) : List Byte := (toLe 40 1 ++ toLe 24 2) ++ (toLe 40 2 ++ toLe 24 1) ++ (toLe 40 3 ++ toLe 24 1) ++ (toLe 40 k3 ++ toLe 24 n3)
    let nines := leAt key 0 40
    (∀ x ∈ [(nines, 1), (4, 0), (4, 1)], (t x.1 x.2).length = 256) ∧ key.length = 40 ∧
    (tCount (t nines 1) 3 ≠ 0 ∧ tKey (t nines 1) 3 = key ∧ ∀ j < 3, tKey (t nines 1) j ≠ key) ∧
    ((∀ j < 4, tCount (t 4 0) j = 0 ∨ tKey (t 4 0) j ≠ key) ∧ tCount (t 4 0) 3 = 0 ∧ ∀ j < 3, tCount (t 4 0) j ≠ 0) ∧
    (∀ j < 4, tCount (t 4 1) j ≠ 0 ∧ tKey (t 4 1) j ≠ key) := by
  decide +kernel

/-- ROUTE with a key list apart from its result, one of no key list, and a sort; two NaN keys of FP32 that tie. -/
theorem witness_RankSortsStably_record : quiet unitState ∧ (0xFFFFFFFF : Nat) < 2 ^ 32 ∧
    keyBefore 0 true 0x7FC00000 0xFFC00001 = false ∧ keyBefore 0 true 0xFFC00001 0x7FC00000 = false ∧
    rankFail ⟨2047, 0, wRec 0x49⟩ unitState = none ∧
    (∀ aux ∈ [0, loc + 0x4000],
      let r := mk 0x49 [(8, loc), (0x10, loc + 0x2000), (0x18, aux), (0x20, 64), (0x24, 2), (0x26, 4), (0x27, 2), (0x28, 16), (0x34, 16)]
      rankFail ⟨2047, 0, r⟩ unitState = none ∧ r.f 0x26 1 = 4 ∧ (aux = 0 ∨ r.f 0x10 8 + (rankLens r).1 ≤ r.f 0x18 8)) := by
  unfold quiet
  repeat' apply And.intro
  all_goals decide +kernel

/-- Two unacknowledged frames, with a port to send them by and with none. -/
theorem witness_LinkTimers_retransmit :
    let s := linked { peers := [(1, { unacked := [unackedOf, { unackedOf with pseq := 2 }] })] }
    (s.peer 3 1).unacked.length = 2 ∧ s.party? 3 = some party3 ∧ s.route party3 1 ≠ [] ∧
    (s.setReg (Reg.LNK_PORT_STATUS 17) 0).route party3 1 = [] ∧ party3.member < 2 ^ 17 ∧ party3.id < 4 ∧
    (linked {} {} 1).portParty 17 = some party3 ∧ party3.topo ≠ 0 ∧ ({ party3 with topo := 0 } : PartyEnt).topo = 0 := by
  repeat' apply And.intro
  all_goals decide +kernel

/-- The operating point changes: host 6's requests are held. -/
def changing : State := { hosted with power := { opp := some (2, 50) } }

theorem witness_HostsComeAndGo_held : changing.live ∧ changing.hostExists 6 = true ∧ ¬ changing.portHeld (.host 6) = false ∧
    hosted.portHeld (.host 6) = false ∧ bar2Ok 0xFFF8 (.read true) = true := by
  unfold State.live
  repeat' apply And.intro
  all_goals decide +kernel

theorem witness_HostAccesses_held : changing.live ∧ changing.hostExists 6 = true ∧ ¬ changing.portHeld (.host 6) = false ∧
    hosted.portHeld (.host 6) = false ∧ hosted.hdmAddr 6 (2 ^ 28 + 64) = some 64 := by
  unfold State.live
  repeat' apply And.intro
  all_goals decide +kernel

theorem witness_SnoopsSpillsAndBias_size :
    (hosted.setReg (Reg.HST_SPILL_CFG 6) 1).fld (Reg.HST_SPILL_CFG 6) 0 0 = 1 ∧ (hosted.setReg (Reg.HST_SPILL_CFG 6) 1).admitted .siolo ∧
    hosted.fld (Reg.HST_SPILL_CFG 6) 0 0 = 0 ∧ (recalling true).hostHeld = [] := by
  unfold State.admitted
  repeat' apply And.intro
  all_goals decide +kernel

/-- A control core whose queue of 256 is full, with a message that waits for it. -/
def crowded : State := { fullBox 15 false with mbx := [(15, { taken := List.replicate 256 [0] })] }

theorem witness_MailboxMessages_full : crowded.mbxFull 15 false = true ∧ crowded.mbxNoRoom 15 = true ∧ crowded.admitted .siolo ∧
    (fullBox 15 false).mbxNoRoom 15 = false ∧ w1.mbxFull 15 false = false := by
  unfold State.admitted
  repeat' apply And.intro
  all_goals decide +kernel

theorem witness_MailboxTimeoutsAndWithdrawals_take : (fullBox 15 false).mbxTakes 15 false = true ∧ (fullBox 31 true).mbxTakes 31 true = true ∧
    crowded.mbxTakes 15 false = false ∧ (fullBox 15 false).admitted .siolo := by
  unfold State.admitted
  repeat' apply And.intro
  all_goals decide +kernel

/-- Local memory of core 127 lies apart from the tables, and holds 32 KiB; every byte above stacked memory is none of theirs. -/
theorem witness_ServersAnswer_tables :
    (served (msg 0x21 4 [0x8000, 0, 0, 127])).asked (.mbx 15) 0x21 4 (msg 0x21 4 [0x8000, 0, 0, 127]) (rest 15 (msg 0x21 4 [0x8000, 0, 0, 127])) ∧
    (let t := rest 15 (msg 0x21 4 [0x8000, 0, 0, 127])
     word2 [0x8000, 0] 0 ≤ (t.tierRange 0 127).2 ∧
      (∀ o ∈ tableRange :: t.objects, (t.tierRange 0 127).1 + word2 [0x8000, 0] 0 ≤ o.1 ∨ o.1 + o.2 ≤ (t.tierRange 0 127).1)) ∧
    Memory.wf (served []).mem ∧ tableRange.1 + tableRange.2 ≤ stackedEnd := by
  refine ⟨by unfold State.asked; repeat' apply And.intro
             all_goals decide +kernel, ⟨by decide +kernel, ?_⟩, by decide +kernel, tableRange_end⟩
  have h : (rest 15 (msg 0x21 4 [0x8000, 0, 0, 127])).objects = [] := by decide +kernel
  have b : ((rest 15 (msg 0x21 4 [0x8000, 0, 0, 127])).tierRange 0 127).1 = localBase 127 := rfl
  intro o ho
  rw [h, List.mem_singleton] at ho
  rw [ho, b]
  exact .inr (Nat.le_trans tableRange_end (by decide +kernel))

theorem witness_QuotesKeysAndSubmissions_edges :
    (let s := (served []).setReg Reg.SEC_ID (BitVec.ofNat 64 ((2 ^ 20 - 1) + 2 ^ 20 * 2 ^ 32))
     s.fld Reg.SEC_ID 20 0 < s.fld Reg.SEC_ID 52 32 ∧ s.fld Reg.SEC_ID 20 0 + 1 = 2 ^ 20) ∧
    (∀ src ∈ [[0xFFFFFFFF, 0xFFFFF], [0, 0]],
      let ws := [2047, 16] ++ src
      let t := served (msg 0x20 4 ws)
      t.asked (.mbx (8 + 7)) 0x20 4 (msg 0x20 4 ws) (rest 15 (msg 0x20 4 ws)) ∧ (t.rangeBad (word2 src 0) (64 * 16)).isSome = (src != [0, 0])) ∧
    (let t := onWith (ringsSet (served []) 2047) 2047 { mode := .on, tail := 48 }
     ¬ ((t.queue 2047).tail + t.sqSize 2047 - (t.queue 2047).head) % t.sqSize 2047 + 16 < t.sqSize 2047) ∧
    (let t := { rest 15 (msg 0x20 4 [2047, 16, 0, 0]) with env := { faults := [(0, .uncorrectable)] }, token := Tok.chan 15, needs := [] }
     (t.readMem (srcCC 7) 0 (64 * 16)).2.err = some (stMemUncorr, 0)) := by
  unfold State.asked
  repeat' apply And.intro
  all_goals decide +kernel

/-- The main ring in use, with a tail and a head. -/
def mainAt (head tail : Nat) : State :=
  (((wUp.setReg Reg.SIO_LOG_BASE 1).setReg Reg.SIO_LOG_HEAD (BitVec.ofNat 64 head)).setReg Reg.SIO_LOG_TAIL (BitVec.ofNat 64 tail))

theorem witness_CairnLog_rings : (mainAt 262143 5).mainRing = true ∧ (mainAt 262143 0).ringFree = 0 ∧ (mainAt 0 5).ringFree ≠ 0 ∧
    (mainAt 0 0).live ∧ (mainAt 0 0).admitted .siolo ∧
    (let s : State := { wUp with log := { intake := List.replicate 1024 (recAt 0) } }; s.intakeCap ≤ s.log.intake.length) ∧ (recAt 0).src < 256 ∧
    (let l : List SumEnt := [⟨1, { recAt 1 with code := 0x901 }⟩]
     (∀ d ∈ l, ¬ (d.last.code = (recAt 1).code ∧ d.last.src = (recAt 1).src)) ∧ l.length < 256 ∧ (recAt 2).code = (recAt 1).code ∧
      (recAt 2).src = (recAt 1).src ∧ l ++ ⟨3, recAt 2⟩ :: [] = [⟨1, { recAt 1 with code := 0x901 }⟩, ⟨3, recAt 2⟩]) ∧
    (let l : List SumEnt := List.replicate 256 ⟨1, { recAt 1 with code := 0x901 }⟩
     256 ≤ l.length ∧ ∀ d ∈ l, ¬ (d.last.code = (recAt 1).code ∧ d.last.src = (recAt 1).src)) ∧
    wUp.mainRing = false ∧ (589820 : BitVec 31).toNat * 0x200000 + 0x800000 ≤ stackedEnd ∧ (∀ i < 4, mget 0 wUp.seals (589820 + i) = 0) := by
  unfold State.live State.admitted
  repeat' apply And.intro
  all_goals decide +kernel

theorem witness_SioloFirmware_both : (640 : Int) < asInt 16 641 ∧ 249 % 2 ^ 16 < 250 := by decide

theorem witness_OperatingPoints_held : changing.live ∧ changing.hostExists 6 = true ∧ changing.portHeld (.host 6) = true ∧
    changing.power.opp = some (2, 50) ∧ hosted.live ∧ (powered { held := true }).power.held = true := by
  unfold State.live
  repeat' apply And.intro
  all_goals decide +kernel

theorem witness_PowerRails_low : (powered { inLow := true }).power.inLow = true ∧ w0.power.inLow = false := by decide

end Sys2Proof.Tests
end

namespace Sys2Proof.Machine

/-! ## The queue and the stream after their updates -/

@[simp] theorem State.queue_setQueue_self (s : State) (q : Nat) (x : Queue) : (s.setQueue q x).queue q = x :=
  mget_mset_self _ _ _ _

theorem State.queue_setQueue_ne (s : State) {q p : Nat} (x : Queue) (h : p ≠ q) : (s.setQueue q x).queue p = s.queue p :=
  mget_mset_ne _ _ _ h

@[simp] theorem State.stream_setStream_self (s : State) (n : Nat) (x : Stream) : (s.setStream n x).stream n = x :=
  mget_mset_self _ _ _ _

theorem State.stream_setStream_ne (s : State) {n m : Nat} (x : Stream) (h : m ≠ n) : (s.setStream n x).stream m = s.stream m :=
  mget_mset_ne _ _ _ h

theorem State.freeStream_serving {s : State} {q : Nat} (h : (s.stream (s.queueCore q)).cur = some q) :
    s.freeStream q = s.setStream (s.queueCore q) { s.stream (s.queueCore q) with cur := none } :=
  if_pos h

theorem State.freeStream_not_serving {s : State} {q : Nat} (h : (s.stream (s.queueCore q)).cur ≠ some q) : s.freeStream q = s :=
  if_neg h

/-- Letting go of a stream touches the table of the streams alone. -/
theorem State.freeStream_frame (s : State) (q : Nat) : s.freeStream q = { s with streams := (s.freeStream q).streams } := by
  by_cases h : (s.stream (s.queueCore q)).cur = some q
  · rw [State.freeStream_serving h]; rfl
  · rw [State.freeStream_not_serving h]

theorem State.queue_freeStream (s : State) (q p : Nat) : (s.freeStream q).queue p = s.queue p := by
  rw [State.freeStream_frame]; rfl

/-- The core's stream no longer serves the queue (R94). -/
theorem State.stream_freeStream_self (s : State) (q : Nat) :
    (s.freeStream q).stream (s.queueCore q) = { s.stream (s.queueCore q) with
      cur := if (s.stream (s.queueCore q)).cur = some q then none else (s.stream (s.queueCore q)).cur } := by
  by_cases h : (s.stream (s.queueCore q)).cur = some q
  · rw [State.freeStream_serving h, State.stream_setStream_self, if_pos h]
  · rw [State.freeStream_not_serving h, if_neg h]

theorem State.stream_freeStream_ne (s : State) {q n : Nat} (hn : n ≠ s.queueCore q) : (s.freeStream q).stream n = s.stream n := by
  by_cases h : (s.stream (s.queueCore q)).cur = some q
  · rw [State.freeStream_serving h, s.stream_setStream_ne _ hn]
  · rw [State.freeStream_not_serving h]

/-! ## ON, OFF and configuration, case by case (R83) -/

/-- What ON makes of a queue: its counts begin anew, and what its stream had issued, held or not yet cancelled stays. -/
def Queue.turnedOn (x : Queue) : Queue :=
  { mode := .on, code := x.code, gen := 1, phase := 1, issued := x.issued, held := x.held, serial := x.serial, cancels := x.cancels }

theorem State.queueOn_accepted {s : State} {q : Nat} (hm : (s.queue q).mode = .off) (hr : s.ringsOk q = true) :
    s.queueOn q = s.setQueue q (s.queue q).turnedOn :=
  if_pos ⟨hm, hr⟩

theorem State.queueOn_rejected {s : State} {q : Nat} (h : (s.queue q).mode ≠ .off ∨ s.ringsOk q = false) :
    s.queueOn q = s.queueReject q := by
  refine if_neg fun ⟨hm, hr⟩ => ?_
  rcases h with h | h
  · exact h hm
  · rw [h] at hr; cases hr

/-- With nothing held and no cancel left, a queue turned on is IDLE (R82). -/
theorem queueState_turnedOn {x : Queue} (hh : x.held = []) (hc : x.cancels = []) : queueState x.turnedOn = 2 := by
  simp [queueState, Queue.turnedOn, hh, hc]

theorem State.queueOff_accepted {s : State} {q : Nat} (hs : queueState (s.queue q) = 2 ∨ queueState (s.queue q) = 5)
    (hc : (s.queue q).cancels = []) :
    s.queueOff q = (s.freeStream q).setQueue q { s.queue q with mode := .off } :=
  if_pos ⟨hs, hc⟩

theorem State.queueOff_rejected {s : State} {q : Nat}
    (h : (queueState (s.queue q) ≠ 2 ∧ queueState (s.queue q) ≠ 5) ∨ (s.queue q).cancels ≠ []) :
    s.queueOff q = s.queueReject q := by
  refine if_neg fun ⟨hs, hc⟩ => ?_
  rcases h with ⟨h2, h5⟩ | h
  · exact hs.elim h2 h5
  · exact h hc

theorem State.queueConfig_eq (s : State) {q off : Nat} (v : Word) {r : RegDesc} (hr : findReg off = some r) :
    s.queueConfig q off v =
      if (s.queue q).mode = .off then s.setReg off (writeFields r.fields (s.reg off) v) else s.queueReject q := by
  simp only [State.queueConfig, State.writePlain, hr]

/-! ## The state that ON, OFF and configuration keep -/

/-- The waiting commands and the fuses stand as they stood. -/
def State.keepsPendingFuses (s t : State) : Prop := t.pending = s.pending ∧ t.fuses = s.fuses

theorem State.queueReject_keepsPendingFuses (s : State) (q : Nat) : s.keepsPendingFuses (s.queueReject q) :=
  ⟨s.raise_pending _ _ _ _, s.raise_fuses _ _ _ _⟩

theorem State.queueOn_keepsPendingFuses (s : State) (q : Nat) : s.keepsPendingFuses (s.queueOn q) := by
  unfold State.queueOn
  dsimp only
  split
  · exact ⟨rfl, rfl⟩
  · exact s.queueReject_keepsPendingFuses q

theorem State.queueOff_keepsPendingFuses (s : State) (q : Nat) : s.keepsPendingFuses (s.queueOff q) := by
  unfold State.queueOff
  dsimp only
  split
  · rw [State.freeStream_frame]; exact ⟨rfl, rfl⟩
  · exact s.queueReject_keepsPendingFuses q

theorem State.queueConfig_keepsPendingFuses (s : State) (q off : Nat) (v : Word) : s.keepsPendingFuses (s.queueConfig q off v) := by
  unfold State.queueConfig State.writePlain
  split
  · split <;> exact ⟨rfl, rfl⟩
  · exact s.queueReject_keepsPendingFuses q

/-- In live logic, what a requester asks of an existing part is done, where that keeps the waiting commands and the fuses. -/
theorem part_run_keepsPendingFuses {s t : State} {has : Bool} (hl : s.live) (hh : has = true) (hk : s.keepsPendingFuses t) :
    part has (s.run t) = .next t := by
  rw [part_true hh, State.run_live t hl, State.keep_of_eq hk.1 hk.2]

/-! ## The commands reach their meaning -/

theorem State.noHostReg_sqCtrl (s : State) {q : Nat} (hq : q < 2048) : s.noHostReg (Reg.CQ_SQ_CTRL q) = false :=
  s.noHostReg_out (.inl (by unfold Reg.CQ_SQ_CTRL; omega))

/-- Setting one action bit of CQ_SQ_CTRL is the action (R83, R508). -/
theorem State.actBit_sqCtrl {s : State} {who : Requester} {q : Nat} (ha : s.admitted who) (hq : q < 2048) (i : Nat) (env : Env) :
    s.actBit who (Reg.CQ_SQ_CTRL q) i env = (s.setPort who {}).sqCtrl q ((BitVec.ofNat 32 (2 ^ i)).zeroExtend 64) env := by
  obtain ⟨-, -, hp⟩ := ha
  rw [State.actBit_at who i env (rowAt_sqCtrl hq) (State.noHostReg_sqCtrl s hq) hp (by decide), effectAt_sqCtrl]

theorem exec_queueOn {s : State} {who : Requester} {q : Nat} (ha : s.admitted who) (hq : q < 2048) :
    exec (.queueOn who q) s = .next ((s.setPort who {}).queueOn q) := by
  have hact : s.actBit who (Reg.CQ_SQ_CTRL q) 0 {} = (s.setPort who {}).queueOn q := State.actBit_sqCtrl ha hq 0 {}
  obtain ⟨hl, hx, -⟩ := ha
  show part (s.reqExists who && queueOk q) (s.run (s.actBit who (Reg.CQ_SQ_CTRL q) 0 {})) = _
  rw [hact]
  exact part_run_keepsPendingFuses hl (by simp [hx, queueOk, hq]) ((s.setPort who {}).queueOn_keepsPendingFuses q)

theorem exec_queueOff {s : State} {who : Requester} {q : Nat} (ha : s.admitted who) (hq : q < 2048) :
    exec (.queueOff who q) s = .next ((s.setPort who {}).queueOff q) := by
  have hact : s.actBit who (Reg.CQ_SQ_CTRL q) 1 {} = (s.setPort who {}).queueOff q := State.actBit_sqCtrl ha hq 1 {}
  obtain ⟨hl, hx, -⟩ := ha
  show part (s.reqExists who && queueOk q) (s.run (s.actBit who (Reg.CQ_SQ_CTRL q) 1 {})) = _
  rw [hact]
  exact part_run_keepsPendingFuses hl (by simp [hx, queueOk, hq]) ((s.setPort who {}).queueOff_keepsPendingFuses q)

/-- The rows of the registers that configure queues, by where each begins and its width: CQ_SQ_BASE, CQ_SQ_CFG, CQ_CQ_BASE, CQ_CQ_CFG
and CQ_FLUSH_ADDR (R81, R83). -/
def configRows : List (Nat × Nat) :=
  [(Reg.CQ_SQ_BASE 0, 64), (Reg.CQ_SQ_CFG 0, 32), (Reg.CQ_CQ_BASE 0, 64), (Reg.CQ_CQ_CFG 0, 32), (Reg.CQ_FLUSH_ADDR 0, 64)]

theorem rowAt_config {b w q : Nat} (hb : (b, w) ∈ configRows) (hq : q < 2048) : rowAt (b + q * 4096) b w := by
  have hrows : ∀ c ∈ configRows, 2 * 0x1000000 ≤ c.1 ∧ c.1 + 2048 * 4096 ≤ 3 * 0x1000000 ∧
      (arrayAt 4096 c.1 2048 (slotTable 2)).map (fun r => (r.base, r.width)) = some c := by decide
  obtain ⟨hlo, hhi, harray⟩ := hrows _ hb
  dsimp only at hlo hhi harray
  exact rowAt_array (slot := 2) (by decide) hq (by omega) harray

/-- None of these rows is a host's, CQ_CQ_HEAD's or SIO_LOG_BASE's. -/
theorem configRows_apart {b w q : Nat} (hb : (b, w) ∈ configRows) (hq : q < 2048) (s : State) :
    s.noHostReg (b + q * 4096) = false ∧ b ≠ 0x2000030 ∧ b ≠ 0xD000020 := by
  have hrows : ∀ c ∈ configRows, c.1 < 0x2001000 ∧ c.1 ≠ 0x2000030 := by decide
  obtain ⟨hlt, hne⟩ := hrows _ hb
  dsimp only at hlt
  exact ⟨s.noHostReg_out (.inl (by omega)), hne, by omega⟩

theorem effectAt_config {b w : Nat} (hb : (b, w) ∈ configRows) (s : State) (q : Nat) (v : Word) (env : Env) :
    s.effectAt b (b + q * 4096) v env = s.queueConfig q (b + q * 4096) v := by
  have heff : ∀ c ∈ configRows, ∀ off, s.effectAt c.1 off v env = s.queueConfig (regIndex c.1 4096 off) off v := by
    intro c hc off
    fin_cases hc <;> rfl
  rw [heff _ hb, regIndex_at (by decide)]

/-- A write that completes an access to a queue's configuration register is its configuration (R11, R83). -/
theorem exec_configWrite {s : State} {who : Requester} {q off : Nat} {d : WData} {v : Word} (ha : s.admitted who)
    (h : s.regWrite who off d {} = (s.setPort who {}).queueConfig q off v) :
    exec (.registerWrite who off d {}) s = .next ((s.setPort who {}).queueConfig q off v) := by
  obtain ⟨hl, hx, -⟩ := ha
  show part (s.reqExists who) (s.run (s.regWrite who off d {})) = _
  rw [h]
  exact part_run_keepsPendingFuses hl hx ((s.setPort who {}).queueConfig_keepsPendingFuses q off v)

theorem exec_configWrite64 {s : State} {who : Requester} {q b : Nat} (ha : s.admitted who) (hq : q < 2048)
    (hb : (b, 64) ∈ configRows) (v : Word) :
    exec (.registerWrite who (b + q * 4096) (.w64 v) {}) s = .next ((s.setPort who {}).queueConfig q (b + q * 4096) v) := by
  obtain ⟨-, -, hp⟩ := id ha
  obtain ⟨hn, hm⟩ := configRows_apart hb hq s
  refine exec_configWrite ha ?_
  rw [State.regWrite_w64 who v {} (rowAt_config hb hq) hn hp hm, effectAt_config hb]

theorem exec_configWrite32 {s : State} {who : Requester} {q b : Nat} (ha : s.admitted who) (hq : q < 2048)
    (hb : (b, 32) ∈ configRows) (v : Word32) :
    exec (.registerWrite who (b + q * 4096) (.w32 v) {}) s =
      .next ((s.setPort who {}).queueConfig q (b + q * 4096) (v.zeroExtend 64)) := by
  obtain ⟨-, -, hp⟩ := id ha
  obtain ⟨hn, hm⟩ := configRows_apart hb hq s
  refine exec_configWrite ha ?_
  rw [State.regWrite_w32 who v {} (rowAt_config hb hq) hn hp hm, effectAt_config hb]

/-- Settles O19: each command is its action on the queue (`exec_queueOn`, `exec_queueOff`, `exec_configWrite64`,
`exec_configWrite32`), which is accepted or rejected as R83 says. -/
theorem queueOnOffConfig : Obligations.QueueOnOffConfig := by
  unfold Obligations.QueueOnOffConfig
  intro who q s ha hq u rejected
  refine ⟨fun hm hr => ?on, fun h => ?onRejected, fun hs hc => ?off, fun h => ?offRejected, fun off ho v r hr => ?config64,
    fun off ho v r hr => ?config32⟩
  case on =>
    refine ⟨u.setQueue q (s.queue q).turnedOn, ?_, ?_⟩
    · rw [exec_queueOn ha hq, State.queueOn_accepted (s := u) hm hr]; rfl
    · rw [State.queue_setQueue_self]
      exact ⟨queueState_turnedOn, rfl, rfl, rfl, rfl, rfl, rfl, fun p hp => u.queue_setQueue_ne _ hp, rfl⟩
  case onRejected => rw [exec_queueOn ha hq, State.queueOn_rejected (s := u) h]; rfl
  case off =>
    refine ⟨(u.freeStream q).setQueue q { s.queue q with mode := .off }, ?_, State.queue_setQueue_self _ _ _, fun p hp => ?_,
      u.stream_freeStream_self q, fun n hn => u.stream_freeStream_ne hn, ?_⟩
    · rw [exec_queueOff ha hq, State.queueOff_accepted (s := u) hs hc]; rfl
    · rw [State.queue_setQueue_ne _ _ hp, State.queue_freeStream]; rfl
    · rw [State.freeStream_frame]; rfl
  case offRejected => rw [exec_queueOff ha hq, State.queueOff_rejected (s := u) h]; rfl
  case config64 =>
    have hex : exec (.registerWrite who off (.w64 v) {}) s = .next (u.queueConfig q off v) := by
      fin_cases ho <;> exact exec_configWrite64 ha hq (by decide) v
    rw [hex, u.queueConfig_eq v hr]; rfl
  case config32 =>
    have hex : exec (.registerWrite who off (.w32 v) {}) s = .next (u.queueConfig q off (v.zeroExtend 64)) := by
      fin_cases ho <;> exact exec_configWrite32 ha hq (by decide) v
    rw [hex, u.queueConfig_eq _ hr]; rfl

end Sys2Proof.Machine

namespace Sys2Proof.Machine

/-! ## Tables, a core's path and an issued record after their updates -/

/-- A key whose entries are all dropped reads as one that is not listed. -/
theorem mget_filter_dropped {α : Type} (d : α) (m : SMap α) (p : Nat × α → Bool) {k : Nat} (h : ∀ v, p (k, v) = false) :
    mget d (m.filter p) k = d := by
  induction m with
  | nil => rfl
  | cons e r ih =>
    obtain ⟨j, v⟩ := e
    cases hp : p (j, v) with
    | false => rw [List.filter_cons_of_neg (by simp [hp]), ih]
    | true =>
      have hj : j ≠ k := by rintro rfl; simp [h] at hp
      simp [List.filter_cons_of_pos hp, mget, hj, ih]

@[simp] theorem State.mat_setMat_self (s : State) (n : Nat) (m : Mat) : (s.setMat n m).mat n = m := mget_mset_self _ _ _ _

theorem State.mat_setMat_ne (s : State) {n k : Nat} (m : Mat) (h : k ≠ n) : (s.setMat n m).mat k = s.mat k :=
  mget_mset_ne _ _ _ h

/-- A record whose unit has begun every record before it and is free for it passes its checks and does its work. -/
theorem atUnit_work {c : Ctx} {kind : MxKind} {free : List MxOp → Bool} {why : Park} {fail : Option (State × Phase)}
    {work : State → State × Phase} {s : State}
    (hbegun : (opsBefore c.q c.item.num (s.mat c.core).ops).any (fun o => o.kind == kind && s.opWaits o) = false)
    (hfree : free (opsBefore c.q c.item.num (s.mat c.core).ops) = true) (hfail : fail = none) (hend : (work s).2.isEnded = true) :
    atUnit c kind free why fail work s = work s := by
  simp only [atUnit, hbegun, Bool.false_eq_true, if_false, hfail, hfree, if_true, hend, Prod.mk.eta]

/-- An issued record stands behind the ones issued before it, with its queue's core and its phase. -/
theorem State.issued_pushIssued (s : State) (q : Nat) (r : Fetched) (ph : Phase) :
    ((s.pushIssued q r ph).queue q).issued = (s.queue q).issued ++ [⟨{ r with core := s.queueCore q }, ph⟩] := by
  simp only [State.pushIssued, State.takeIssued, State.modQueue, State.queue_setQueue_self]
  rfl

/-! ## What TZERO does to its tiles (R164) -/

theorem State.mat_zeroTiles_self (s : State) (n tile count : Nat) : (s.zeroTiles n tile count).mat n =
    { s.mat n with
      rows := (s.mat n).rows.filter (fun e => !decide (64 * tile ≤ e.1 ∧ e.1 < 64 * (tile + count)))
      marks := (s.mat n).marks.filter (fun e => !decide (64 * tile ≤ e.1 ∧ e.1 < 64 * (tile + count)))
      tags := (s.mat n).tags.filter (fun e => !decide (tile ≤ e.1 ∧ e.1 < tile + count)) } :=
  State.mat_setMat_self _ _ _

theorem State.mat_zeroTiles_ne (s : State) {n k : Nat} (tile count : Nat) (h : k ≠ n) : (s.zeroTiles n tile count).mat k = s.mat k :=
  State.mat_setMat_ne _ _ h

theorem State.tileRow_zeroTiles_inside (s : State) (n : Nat) {tile count k row : Nat} (hlo : tile ≤ k) (hhi : k < tile + count)
    (hrow : row < 64) : (s.zeroTiles n tile count).tileRow n k row = zeroRow := by
  rw [State.tileRow, State.mat_zeroTiles_self]
  exact mget_filter_dropped _ _ _ fun _ => by
    simp only [Bool.not_eq_false', decide_eq_true_eq]
    omega

theorem State.tileRow_zeroTiles_outside (s : State) (n : Nat) {tile count k row : Nat} (h : k < tile ∨ tile + count ≤ k)
    (hrow : row < 64) : (s.zeroTiles n tile count).tileRow n k row = s.tileRow n k row := by
  rw [State.tileRow, State.mat_zeroTiles_self]
  exact mget_filter _ _ _ fun _ => by
    simp only [Bool.not_eq_true', decide_eq_false_iff_not]
    omega

theorem State.tag_zeroTiles_inside (s : State) (n : Nat) {tile count k : Nat} (hlo : tile ≤ k) (hhi : k < tile + count) :
    (s.zeroTiles n tile count).tag n k = 0 := by
  rw [State.tag, State.mat_zeroTiles_self]
  exact mget_filter_dropped _ _ _ fun _ => by simp [hlo, hhi]

theorem State.tag_zeroTiles_outside (s : State) (n : Nat) {tile count k : Nat} (h : k < tile ∨ tile + count ≤ k) :
    (s.zeroTiles n tile count).tag n k = s.tag n k := by
  rw [State.tag, State.mat_zeroTiles_self]
  exact mget_filter _ _ _ fun _ => by
    simp only [Bool.not_eq_true', decide_eq_false_iff_not]
    omega

/-- Zeroing tiles counts their rows at the core, and touches no other register. -/
theorem State.reg_zeroTiles_ne (s : State) {n o : Nat} (tile count : Nat) (h : o ≠ Reg.ACC_CNT_ROWS n) :
    (s.zeroTiles n tile count).reg o = s.reg o :=
  State.reg_count_ne _ _ h

theorem State.queueCore_zeroTiles (s : State) (n tile count q : Nat) :
    (s.zeroTiles n tile count).queueCore q = s.queueCore q := by
  have h : Reg.CQ_SQ_CFG q ≠ Reg.ACC_CNT_ROWS n := by unfold Reg.CQ_SQ_CFG Reg.ACC_CNT_ROWS; omega
  rw [State.queueCore, State.fld, State.reg_zeroTiles_ne _ _ _ h]
  rfl

/-! ## TZERO at its unit -/

/-- A TZERO of a legal format and a range of tiles that the core has passes its checks. -/
theorem tzeroFail_eq_none {c : Ctx} {s : State} (hformat : formatFail c.item false [(8, 2)] [] = none)
    (hcount : 1 ≤ tzeroCount c.item) (hrange : tzeroTile c.item + tzeroCount c.item ≤ 32) : tzeroFail c s = none := by
  have hcounted : ¬(tzeroCount c.item < 1 ∨ 32 < tzeroCount c.item) := by omega
  have hinside : ¬31 < tzeroTile c.item + tzeroCount c.item - 1 := by omega
  unfold tzeroFail
  simp only [hformat, if_neg hcounted, if_neg hinside]

/-- Such a TZERO, where its unit has begun every record before it and no earlier MMA holds its tiles, zeroes its tiles. -/
theorem runTzero_free {c : Ctx} {s : State} (hfail : tzeroFail c s = none)
    (hbegun : (opsBefore c.q c.item.num (s.mat c.core).ops).any (fun o => o.kind == .acc && s.opWaits o) = false)
    (hfree : accFree c (opsBefore c.q c.item.num (s.mat c.core).ops) = true) :
    runTzero c s = (s.zeroTiles c.core (tzeroTile c.item) (tzeroCount c.item), .ended stOk 0) := by
  unfold runTzero interlocked
  rw [atUnit_work hbegun (by simpa using hfree) hfail rfl]
  rfl

/-- The state in which a TZERO has ended: its tiles are zero and its queue has issued it. -/
def State.tzeroed (s : State) (q : Nat) (r : Fetched) (env : Env) : State :=
  (((s.starting q r env).zeroTiles (s.queueCore q) (tzeroTile r) (tzeroCount r)).closeTok (.record q r.num)).pushIssued q r
    (.ended stOk 0)

theorem State.mat_tzeroed (s : State) (q : Nat) (r : Fetched) (env : Env) (k : Nat) :
    (s.tzeroed q r env).mat k = (s.zeroTiles (s.queueCore q) (tzeroTile r) (tzeroCount r)).mat k := by
  cases s; rfl

theorem State.tileRow_tzeroed (s : State) (q : Nat) (r : Fetched) (env : Env) (n k row : Nat) :
    (s.tzeroed q r env).tileRow n k row = (s.zeroTiles (s.queueCore q) (tzeroTile r) (tzeroCount r)).tileRow n k row := by
  rw [State.tileRow, State.mat_tzeroed, State.tileRow]

theorem State.tag_tzeroed (s : State) (q : Nat) (r : Fetched) (env : Env) (n k : Nat) :
    (s.tzeroed q r env).tag n k = (s.zeroTiles (s.queueCore q) (tzeroTile r) (tzeroCount r)).tag n k := by
  rw [State.tag, State.mat_tzeroed, State.tag]

theorem State.reg_tzeroed (s : State) (q : Nat) (r : Fetched) (env : Env) (o : Nat) :
    (s.tzeroed q r env).reg o = (s.zeroTiles (s.queueCore q) (tzeroTile r) (tzeroCount r)).reg o := by
  cases s; rfl

theorem State.issued_tzeroed (s : State) (q : Nat) (r : Fetched) (env : Env) :
    ((s.tzeroed q r env).queue q).issued = (s.queue q).issued ++ [⟨{ r with core := s.queueCore q }, .ended stOk 0⟩] := by
  have hcore := State.queueCore_zeroTiles (s.starting q r env) (s.queueCore q) (tzeroTile r) (tzeroCount r) q
  rw [State.tzeroed, State.issued_pushIssued]
  exact congrArg (fun k => (s.queue q).issued ++ [⟨{ r with core := k }, .ended stOk 0⟩]) hcore

/-- Beside tiles, counters, queue and stream, the command in hand is over and has used up its answers. -/
theorem State.tzeroed_frame {s : State} (q : Nat) (r : Fetched) (env : Env) (h : s.needs = []) : s.tzeroed q r env = { s with
    mats := (s.tzeroed q r env).mats, regs := (s.tzeroed q r env).regs, queues := (s.tzeroed q r env).queues
    streams := (s.tzeroed q r env).streams, env := {}, token := .idle
    answers := s.answers.filter (fun x => x.1 != .record q r.num) } := by
  cases s; cases h; rfl

/-- A TZERO at the front of its queue that its unit is free for runs at once. -/
theorem exec_tzero {s : State} {q : Nat} {r : Fetched} {rest : List Fetched} {env : Env} (h : s.ready q 0x20 r rest)
    (hrun : runTzero (s.ctx q r) (s.starting q r env) =
      ((s.starting q r env).zeroTiles (s.queueCore q) (tzeroTile r) (tzeroCount r), .ended stOk 0)) :
    exec (.tzero q env) s = .next (s.tzeroed q r env) := by
  have hissue : s.issue q 0x20 env runTzero = s.tzeroed q r env := by
    rw [State.issue_ready h, hrun, State.issued_done rfl]
    rfl
  obtain ⟨hi, hq, -⟩ := h
  show part (queueOk q) (s.engine (s.issue q 0x20 env runTzero)) = _
  rw [part_true (by simp [queueOk, hq]), State.engine_issuing _ hi, hissue]
  exact congrArg _ (by cases s; rfl)

/-- Settles O28: the record's checks pass and its unit is free (`tzeroFail_eq_none`, `runTzero_free`), so it runs at once
(`exec_tzero`) and its whole effect is that of `State.zeroTiles` and of its issue. -/
theorem tzeroClearsTiles : Obligations.TzeroClearsTiles := by
  unfold Obligations.TzeroClearsTiles
  intro q r rest env s hready hformat hcount hrange hneeds n hbegun hfree
  have hrun := runTzero_free (c := s.ctx q r) (s := s.starting q r env) (tzeroFail_eq_none hformat hcount hrange) hbegun hfree
  refine ⟨s.tzeroed q r env, exec_tzero hready hrun, fun k row hlo hhi hrow => ?rows, fun k hlo hhi => ?tags,
    fun k row hrow hk => ⟨?otherRows, ?otherTags⟩, fun k hk => ?otherCores, ?halves, fun o ho => ?registers,
    s.issued_tzeroed q r env, State.tzeroed_frame q r env hneeds⟩
  case rows => exact (s.tileRow_tzeroed q r env n k row).trans (s.tileRow_zeroTiles_inside n hlo hhi hrow)
  case tags => exact (s.tag_tzeroed q r env n k).trans (s.tag_zeroTiles_inside n hlo hhi)
  case otherRows => exact (s.tileRow_tzeroed q r env n k row).trans (s.tileRow_zeroTiles_outside n hk hrow)
  case otherTags => exact (s.tag_tzeroed q r env n k).trans (s.tag_zeroTiles_outside n hk)
  case otherCores => rw [State.mat_tzeroed, s.mat_zeroTiles_ne _ _ hk]
  case halves =>
    rw [State.mat_tzeroed, State.mat_zeroTiles_self]
    exact ⟨rfl, rfl⟩
  case registers => rw [State.reg_tzeroed, s.reg_zeroTiles_ne _ _ ho]

end Sys2Proof.Machine

namespace Sys2Proof.Machine

/-! ## The registers of a mailbox after its updates -/

theorem mget_of_no_key {α : Type} (d : α) (m : SMap α) {k : Nat} (h : ∀ e ∈ m, e.1 ≠ k) : mget d m k = d := by
  induction m with
  | nil => rfl
  | cons e r ih =>
    obtain ⟨j, v⟩ := e
    have hj : j ≠ k := h (j, v) (by simp)
    rw [mget, if_neg hj, ih fun x hx => h x (by simp [hx])]

/-- After reset every register but the states of the Aedlink ports has its reset value (R353). -/
theorem State.reg_reset {o : Nat} (h : ∀ p < 18, o ≠ Reg.LNK_PORT_STATUS p) : State.reset.reg o = regReset o :=
  mget_of_no_key _ _ fun e he => by
    obtain ⟨p, hp, rfl⟩ := List.mem_map.mp he
    exact (h p (List.mem_range.mp hp)).symm

/-- The row of MBX_CFG gives TIMEOUT_MS its reset value of 10 ms (R412). -/
theorem regReset_mbxCfg {m : Nat} (hm : m < 32) : regReset (Reg.MBX_CFG m) = 0xA0000 := by
  have hrow : (arrayAt 4096 0xC000108 32 (slotTable 12)).map (fun r => fieldsReset r.fields) = some 0xA0000 := by decide
  obtain ⟨r, hr, hreset⟩ := Option.map_eq_some_iff.mp hrow
  have hfind : findReg (Reg.MBX_CFG m) = some r := findReg_array (by decide) hm (by omega) hr
  rw [regReset, hfind]
  exact congrArg (BitVec.ofNat 64) hreset

theorem State.fld_reset_mbxTimeout {m : Nat} (hm : m < 32) : State.reset.fld (Reg.MBX_CFG m) 31 16 = 10 := by
  have hport : ∀ p < 18, Reg.MBX_CFG m ≠ Reg.LNK_PORT_STATUS p := fun p hp => by
    unfold Reg.MBX_CFG Reg.LNK_PORT_STATUS; omega
  rw [State.fld, State.reg_reset hport, regReset_mbxCfg hm]
  rfl

/-- A mailbox's FULL bit and its message stand where MBX_STATUS and its DATA registers do. -/
theorem State.mbxFull_of_reg {s t : State} {m : Nat} (h : t.reg (Reg.MBX_STATUS m) = s.reg (Reg.MBX_STATUS m)) (up : Bool) :
    t.mbxFull m up = s.mbxFull m up := by
  rw [State.mbxFull, State.mbxFull, State.fld, State.fld, h]

theorem State.mbxWords_of_reg {s t : State} {m : Nat} {up : Bool} (h : ∀ i < 16, t.reg (mbxData m up i) = s.reg (mbxData m up i)) :
    t.mbxWords m up = s.mbxWords m up :=
  List.map_congr_left fun i hi => by rw [h i (List.mem_range.mp hi)]

@[simp] theorem State.mbxFull_mbxSetFull_self (s : State) (m : Nat) (up full : Bool) :
    (s.mbxSetFull m up full).mbxFull m up = full := by
  have hbit : mbxBit up < 64 := by cases up <;> decide
  rw [State.mbxFull, State.mbxSetFull, State.fld_setFld_self _ _ _ le_rfl hbit, Nat.add_sub_cancel_left]
  cases full <;> rfl

theorem State.reg_mbxSetFull_ne (s : State) {m o : Nat} (up full : Bool) (h : o ≠ Reg.MBX_STATUS m) :
    (s.mbxSetFull m up full).reg o = s.reg o :=
  State.reg_setFld_ne _ _ _ _ h

theorem mbxStatus_lt_event (m : Nat) : Reg.MBX_STATUS m < Reg.MBX_EVENT m := by
  unfold Reg.MBX_STATUS Reg.MBX_EVENT; omega

theorem mbxData_lt_event (m : Nat) (up : Bool) {i : Nat} (hi : i < 16) : mbxData m up i < Reg.MBX_EVENT m := by
  have hup : Reg.MBX_UP_DATA m i < Reg.MBX_EVENT m := by unfold Reg.MBX_UP_DATA Reg.MBX_EVENT; omega
  have hdn : Reg.MBX_DN_DATA m i < Reg.MBX_EVENT m := by unfold Reg.MBX_DN_DATA Reg.MBX_EVENT; omega
  cases up
  · exact hdn
  · exact hup

theorem mbxEvent_lt_cnt0 (m : Nat) : Reg.MBX_EVENT m < Reg.MBX_EVENT_CNT0 m := by
  unfold Reg.MBX_EVENT Reg.MBX_EVENT_CNT0; omega

theorem mbxEvent_lt_cnt1 (m : Nat) : Reg.MBX_EVENT m < Reg.MBX_EVENT_CNT1 m := by
  unfold Reg.MBX_EVENT Reg.MBX_EVENT_CNT1; omega

/-- A mailbox's flags and their counters lie behind its other registers. -/
theorem State.reg_raise_mbxEvent (s : State) {m cnt o : Nat} (i lo : Nat) (hcnt : Reg.MBX_EVENT m < cnt) (ho : o < Reg.MBX_EVENT m) :
    (s.raise (Reg.MBX_EVENT m) i cnt lo).reg o = s.reg o :=
  s.reg_raise_ne _ _ (by omega) (by omega)

/-! ## A message that is not taken in time (R412) -/

/-- The state in which a direction's message has timed out: its flag is set and counted, and the event posted. -/
def State.mbxTimedOut (s : State) (m : Nat) (up : Bool) : State :=
  (s.raise (Reg.MBX_EVENT m) (mbxBit up) (Reg.MBX_EVENT_CNT0 m) (16 * mbxBit up)).post slotMailboxes 0x0806 1 (m + 32 * mbxBit up)

theorem State.mbxTimeout_full {s : State} {m : Nat} {up : Bool} (h : s.mbxFull m up = true) :
    s.mbxTimeout m up = s.mbxTimedOut m up := by
  rw [State.mbxTimeout, if_pos h, State.mbxTimedOut]
  cases up <;> rfl

theorem State.fld_mbxTimedOut_flag (s : State) {m : Nat} (up : Bool) (hm : m < 32) :
    (s.mbxTimedOut m up).fld (Reg.MBX_EVENT m) (mbxBit up) (mbxBit up) = 1 := by
  have hbit : mbxBit up < 64 := by cases up <;> decide
  rw [State.mbxTimedOut, State.fld_post _ _ _ _ _ _ _ (by unfold Reg.MBX_EVENT; omega)]
  exact State.fld_raise_flag _ hbit (mbxEvent_lt_cnt0 m).ne

/-- The other registers of the mailbox, among them its FULL bits and its message, stay. -/
theorem State.reg_mbxTimedOut (s : State) {m o : Nat} (up : Bool) (hm : m < 32) (ho : o < Reg.MBX_EVENT m) :
    (s.mbxTimedOut m up).reg o = s.reg o := by
  have hlow : o < 0xD000000 := ho.trans (by unfold Reg.MBX_EVENT; omega)
  rw [State.mbxTimedOut, State.reg_post _ _ _ _ _ hlow, State.reg_raise_mbxEvent _ _ _ (mbxEvent_lt_cnt0 m) ho]

theorem State.mbxTimeout_keepsPendingFuses (s : State) (m : Nat) (up : Bool) : s.keepsPendingFuses (s.mbxTimeout m up) := by
  unfold State.mbxTimeout
  split
  · exact ⟨by simp, by simp⟩
  · exact ⟨rfl, rfl⟩

theorem exec_mbxTimeout {s : State} {m : Nat} (up : Bool) (hl : s.live) (hm : m < 32) :
    exec (.mbxTimeout m up) s = .next (s.mbxTimeout m up) :=
  part_run_keepsPendingFuses hl (by simp [mailboxOk, hm]) (s.mbxTimeout_keepsPendingFuses m up)

/-! ## TAKE and WITHDRAW (R411, R412) -/

/-- The server of a mailbox holds the message of its down direction among those it has taken. -/
def State.mbxHold (s : State) (m : Nat) : State :=
  { s with mbx := mmod {} s.mbx m (fun x => { taken := x.taken ++ [s.mbxWords m false] }) }

/-- The read of TAKE is answered with FULL. -/
def State.mbxAnswered (s : State) (who : Requester) (m : Nat) (up : Bool) : State :=
  (s.endLatch who).emit (.regRead who (if up then Reg.MBX_UP_TAKE m else Reg.MBX_DN_TAKE m) 1)

/-- A TAKE that takes a message reads 1 and clears FULL, and a server holds what it has taken. -/
theorem State.mbxTake_takes {s : State} {m : Nat} {up : Bool} (h : s.mbxTakes m up = true) (who : Requester) :
    s.mbxTake who m up =
      (if up then s.mbxAnswered who m up else (s.mbxAnswered who m up).mbxHold m).mbxSetFull m up false := by
  unfold State.mbxTake
  simp only [h, Bool.not_true, Bool.and_false, Bool.false_eq_true, if_false]
  cases up <;> rfl

theorem State.out_mbxTake_takes {s : State} {m : Nat} {up : Bool} (h : s.mbxTakes m up = true) (who : Requester) :
    (s.mbxTake who m up).out = s.out ++ [.regRead who (if up then Reg.MBX_UP_TAKE m else Reg.MBX_DN_TAKE m) 1] := by
  rw [State.mbxTake_takes h]
  cases up <;> rfl

theorem State.mbxFull_mbxTake_takes {s : State} {m : Nat} {up : Bool} (h : s.mbxTakes m up = true) (who : Requester) :
    (s.mbxTake who m up).mbxFull m up = false := by
  rw [State.mbxTake_takes h]
  exact State.mbxFull_mbxSetFull_self _ _ _ _

theorem State.taken_mbxTake_takes {s : State} {m : Nat} (h : s.mbxTakes m false = true) (who : Requester) :
    (mget {} (s.mbxTake who m false).mbx m).taken = (mget {} s.mbx m).taken ++ [s.mbxWords m false] := by
  rw [State.mbxTake_takes h]
  exact congrArg Mailbox.taken (mget_mmod_self {} s.mbx m fun x => { taken := x.taken ++ [s.mbxWords m false] })

theorem State.mbxTake_keepsPendingFuses (s : State) (who : Requester) (m : Nat) (up : Bool) :
    s.keepsPendingFuses (s.mbxTake who m up) := by
  unfold State.mbxTake
  dsimp only
  split
  · exact ⟨rfl, rfl⟩
  · split <;> exact ⟨rfl, rfl⟩

/-- A WITHDRAW that a TAKE does not reach clears FULL. -/
theorem State.mbxWithdraw_none (s : State) (who : Requester) (m : Nat) (up : Bool) :
    s.mbxWithdraw who m up none = (s.setPort who {}).mbxSetFull m up false := rfl

/-- A TAKE in the same cycle that takes the message wins, and the withdraw is lost. -/
theorem State.mbxWithdraw_lost {s : State} {m : Nat} {up : Bool} (h : s.mbxTakes m up = true) (who taker : Requester) :
    s.mbxWithdraw who m up (some taker) =
      ((s.setPort who {}).mbxTake taker m up).raise (Reg.MBX_EVENT m) 4 (Reg.MBX_EVENT_CNT1 m) 0 :=
  if_pos h

theorem State.mbxWithdraw_keepsPendingFuses (s : State) (who : Requester) (m : Nat) (up : Bool) (take : Option Requester) :
    s.keepsPendingFuses (s.mbxWithdraw who m up take) := by
  cases take with
  | none => exact ⟨rfl, rfl⟩
  | some taker =>
    obtain ⟨hp, hf⟩ := (s.setPort who {}).mbxTake_keepsPendingFuses taker m up
    unfold State.mbxWithdraw
    dsimp only
    split <;> exact ⟨hp, hf⟩

theorem exec_mbxWithdraw {s : State} {who : Requester} {m : Nat} (up : Bool) (take : Option Requester) (ha : s.admitted who)
    (hm : m < 32) : exec (.mbxWithdraw who m up take) s = .next (s.mbxWithdraw who m up take) := by
  obtain ⟨hl, hx, hp⟩ := ha
  show part (s.reqExists who && mailboxOk m) (s.run (s.portRun (s.mbxWithdraw who m up take) who (.withdraw who m up take))) = _
  rw [State.portRun_open hp]
  exact part_run_keepsPendingFuses hl (by simp [hx, mailboxOk, hm]) (s.mbxWithdraw_keepsPendingFuses who m up take)

/-- Only the down direction of a control core's mailbox can find no room for its message (R409). -/
theorem State.mbxTakes_of_room (s : State) {m : Nat} {up : Bool} (h : up = true ∨ m < 8 ∨ 16 ≤ m) :
    s.mbxTakes m up = s.mbxFull m up := by
  have hroom : (up || !s.mbxNoRoom m) = true := by
    rcases h with rfl | h
    · rfl
    · have hnone : s.mbxNoRoom m = false := decide_eq_false (by omega)
      rw [hnone, Bool.not_false, Bool.or_true]
  rw [State.mbxTakes, hroom, Bool.and_true]

/-- Settles O48: a timeout is `State.mbxTimedOut`, which leaves the message where it is, and a withdraw clears FULL unless a TAKE
that takes the message comes with it, whose effect it then has (`State.mbxWithdraw_lost`). -/
theorem mailboxTimeoutsAndWithdrawals : Obligations.MailboxTimeoutsAndWithdrawals := by
  unfold Obligations.MailboxTimeoutsAndWithdrawals
  intro who taker m up s ha hm p bit
  refine ⟨State.fld_reset_mbxTimeout hm, fun hfull => ⟨s.mbxTimedOut m up, ?timeout, rfl, s.fld_mbxTimedOut_flag up hm, ?full, ?words⟩,
    ⟨p.mbxSetFull m up false, exec_mbxWithdraw up none ha hm, State.mbxFull_mbxSetFull_self _ _ _ _, rfl,
      fun o ho => State.reg_mbxSetFull_ne _ _ _ ho⟩,
    fun htakes => ?lost, rfl, s.mbxTakes_of_room⟩
  case timeout => rw [exec_mbxTimeout up ha.1 hm, State.mbxTimeout_full hfull]
  case full => exact (State.mbxFull_of_reg (s.reg_mbxTimedOut up hm (mbxStatus_lt_event m)) up).trans hfull
  case words => exact fun d => State.mbxWords_of_reg fun i hi => s.reg_mbxTimedOut up hm (mbxData_lt_event m d hi)
  case lost =>
    have htakes' : p.mbxTakes m up = true := htakes
    refine ⟨(p.mbxTake taker m up).raise (Reg.MBX_EVENT m) 4 (Reg.MBX_EVENT_CNT1 m) 0, ?_, rfl,
      State.fld_raise_flag _ (by decide) (mbxEvent_lt_cnt1 m).ne, State.out_mbxTake_takes htakes' taker, ?_, ?_⟩
    · rw [exec_mbxWithdraw up (some taker) ha hm, State.mbxWithdraw_lost htakes]
    · have hstatus := (p.mbxTake taker m up).reg_raise_mbxEvent 4 0 (mbxEvent_lt_cnt1 m) (mbxStatus_lt_event m)
      exact (State.mbxFull_of_reg hstatus up).trans (State.mbxFull_mbxTake_takes htakes' taker)
    · rintro rfl
      exact State.taken_mbxTake_takes htakes' taker

end Sys2Proof.Machine

namespace Sys2Proof.Machine

/-! ## Every command's meaning stands in one of six wrappers -/

/-- On a part whose host ports are all split, the hosts, requesters and senders that can exist do (R23, R389). -/
theorem State.hostExists_split {s : State} (h : s.fuses.split = 15) (n : Nat) : s.hostExists n = hostOk n := by
  by_cases hn : n < 8
  · have hbit : bit 15 (n / 2) = true := by interval_cases n <;> decide
    simp [State.hostExists, hostOk, h, hbit]
  · simp [State.hostExists, hostOk, hn]

theorem State.reqExists_split {s : State} (h : s.fuses.split = 15) (who : Requester) : s.reqExists who = requesterOk who := by
  cases who with
  | host n => exact State.hostExists_split h n
  | core c => rfl
  | siolo => rfl

theorem State.tailExists_split {s : State} (h : s.fuses.split = 15) (tail : Option (Requester × Word32)) :
    s.tailExists tail = tailOk tail := by
  cases tail with
  | none => rfl
  | some x => exact State.reqExists_split h x.1

/-- The outcome that the meaning of a command answers where the part it names exists, by the wrapper it stands in: `run` while the
logic is not held, `engine` also not after a trip, `loop` and `always` while it is held too, and the three commands that may write the
fuses (R16, R389, R443, R456). -/
inductive Meaning (c : Instr) (s : State) : Host.Outcome State Fault Refusal → Prop
  | run (t : State) (hi : issues c = false) : Meaning c s (s.run t)
  | engine (t : State) : Meaning c s (s.engine t)
  | loop (t : State) (hs : standby c = true) (hi : issues c = false) : Meaning c s (s.loop t)
  | always (t : State) (hs : standby c = true) (hi : issues c = false) : Meaning c s (s.always t)
  | rise (split : BitVec 4) (addr : BitVec 3) (hc : c = .resetNRise split addr) : Meaning c s (s.strap (s.resetRise split.toNat))
  | power (addr : BitVec 3) (hc : c = .standbyPower addr) : Meaning c s (s.strap (s.standbyPower addr.toNat))
  | blow (ch : Chan) (hint : Nat) (cut : Option Nat) (hc : c = .svnCommit ch hint cut) : Meaning c s (s.blow (s.svnCommit ch hint cut))

/-- Every command is its meaning where the part it names exists, and the parts that a well-formed command names exist on a part
whose host ports are all split. -/
theorem exec_meaning (c : Instr) (s : State) :
    ∃ has o, exec c s = part has o ∧ Meaning c s o ∧ (c.wf = true → s.fuses.split = 15 → has = true) := by
  cases c
  case quiesced | headerReadDone | bodyFetchDone | fieldChecksDone | rteApplyHoldEnd | rteApplyDone | sealDone | unsealDone
      | memTimeout | ceIntervalEnd | patrolScrub | refModeApply | bwIntervalEnd | ecsRead | helloTimer | spillCompletion | spillTimeout
      | biasPageDone | sessionTimeout | flashOpDone | sensorReport | coolantCheck | watchdogExpiry | lockstepMismatch
      | sioloReloadDone | loadWindow | setdasa | entdaa | bootHeaderRead | bootBodyRead | oppDone =>
    exact ⟨true, _, (part_true rfl _).symm, .run _ rfl, fun _ _ => rfl⟩
  case shardBegin | chunkCommit | shardEnd => exact ⟨true, _, (part_true rfl _).symm, .engine _, fun _ _ => rfl⟩
  case thermSample | thermtripN | ocSample | damperSample | capMiss =>
    exact ⟨true, _, (part_true rfl _).symm, .loop _ rfl rfl, fun _ _ => rfl⟩
  case clearFaults | statusWord | readVin | readIin | readTemperature1 | readTemperature2 | readPin | pmbusRevision | resetNFall
      | resetHoldEnd | selfRefreshExit | pwrEnRise | pwrgd | pwrEnFall | inputUndervoltage | inputOvervoltage | standbyLoss
      | pmbusNack | thermalTripClear =>
    exact ⟨true, _, (part_true rfl _).symm, .always _ rfl rfl, fun _ _ => rfl⟩
  case stackTrainingDone => exact ⟨_, _, rfl, .always _ rfl rfl, fun hw _ => hw⟩
  case resetNRise split addr => exact ⟨true, _, (part_true rfl _).symm, .rise split addr rfl, fun _ _ => rfl⟩
  case standbyPower addr => exact ⟨true, _, (part_true rfl _).symm, .power addr rfl, fun _ _ => rfl⟩
  case svnCommit ch hint cut => exact ⟨_, _, rfl, .blow ch hint cut rfl, fun hw _ => hw⟩
  case recordFetch | sealReread | nop | belay | signal | signalTakesEffect | wait | put | step | mload | mloadi | mma
      | mmaFirstRowEntry | tzero | tload | tcombine | tstore | treduce | interlockRelease | vset | vop | vreduce | emload | emrun
      | slotHoldEnd | actx | asoft | afold | adelta | aback | kvmap | kvput | kvmass | kvtrim | rank | descriptorArrival
      | evictionStart | hctx | hcopy | wfill | prefetch | wrel | porter | unorm | usweep | urule | usnap | rsdata | agdata | tail
      | putFrame | rreq | repairSourceStart | rdata | lreduce | lrepair =>
    exact ⟨_, _, rfl, .engine _, fun hw _ => hw⟩
  all_goals
    refine ⟨_, _, rfl, .run _ rfl, fun hw hs => ?_⟩
    simpa only [State.reqExists_split hs, State.hostExists_split hs, State.tailExists_split hs, Instr.wf] using hw

/-! ## Sending at the ports touches the ports and what leaves the device (R349, R351, R362) -/

/-- Two states differ at most in the ports' streams and in what has left the device. -/
def State.likeSent (s t : State) : Prop := ∃ l o, t = { s with linkPorts := l, out := o }

theorem State.likeSent_refl (s : State) : s.likeSent s := ⟨_, _, rfl⟩

theorem State.likeSent_trans {s t u : State} (h : s.likeSent t) (h' : t.likeSent u) : s.likeSent u := by
  obtain ⟨_, _, rfl⟩ := h
  obtain ⟨_, _, rfl⟩ := h'
  exact ⟨_, _, rfl⟩

theorem State.likeSent_foldl {α : Type} {f : State → α → State} (h : ∀ (s : State) a, s.likeSent (f s a)) (l : List α) (s : State) :
    s.likeSent (l.foldl f s) :=
  List.foldlRecOn l f s.likeSent_refl fun t ht a _ => State.likeSent_trans ht (h t a)

theorem State.likeSent_emit (s : State) (x : Out) : s.likeSent (s.emit x) := ⟨_, _, rfl⟩

theorem State.likeSent_setLport (s : State) (p : Nat) (x : LinkPort) : s.likeSent (s.setLport p x) := ⟨_, _, rfl⟩

theorem State.likeSent_emitBlock (s : State) (p : Nat) (b : List Byte) : s.likeSent (s.emitBlock p b) := ⟨_, _, rfl⟩

theorem State.likeSent_sendControlAt (s : State) (p : Nat) (nak : Bool) (next : Nat) : s.likeSent (s.sendControlAt p nak next) :=
  State.likeSent_trans (s.likeSent_setLport _ _) (State.likeSent_emitBlock _ _ _)

theorem State.likeSent_idleControl (s : State) (p : Nat) : s.likeSent (s.idleControl p) := by
  unfold State.idleControl
  dsimp only
  split_ifs
  · exact s.likeSent_refl
  · exact s.likeSent_refl
  · exact s.likeSent_sendControlAt _ _ _

theorem State.likeSent_emitData (s : State) (p : Nat) (b : List Byte) (next : Nat) : s.likeSent (s.emitData p b next) := by
  have hsent := State.likeSent_trans (s.likeSent_setLport p { s.lport p with burst := ((s.lport p).burst + 1) % 64 })
    (State.likeSent_emitBlock _ p b)
  unfold State.emitData
  dsimp only
  split_ifs
  · exact State.likeSent_trans hsent (State.likeSent_sendControlAt _ _ _ _)
  · exact hsent

theorem State.likeSent_sendBlock (p : Nat) (s : State) (b : Nat × List Byte) : s.likeSent (State.sendBlock p s b) :=
  State.likeSent_trans (s.likeSent_setLport _ _) (State.likeSent_emitData _ _ _ _)

theorem State.likeSent_flushPort (s : State) (p : Nat) : s.likeSent (s.flushPort p) := by
  unfold State.flushPort
  dsimp only
  split_ifs
  · exact s.likeSent_refl
  · exact s.likeSent_refl
  · exact State.likeSent_trans (s.likeSent_setLport _ _) (State.likeSent_foldl (fun t f => t.likeSent_emit _) _ _)
  · exact State.likeSent_trans (s.likeSent_setLport _ _) (State.likeSent_foldl (State.likeSent_sendBlock p) _ _)

theorem State.likeSent_flowPort (s : State) (p : Nat) : s.likeSent (s.flowPort p) := by
  unfold State.flowPort
  split_ifs
  · exact State.likeSent_trans (s.likeSent_setLport _ _) (State.likeSent_emit _ _)
  · exact s.likeSent_refl

/-- Every port sends what it can: nothing but the ports and what leaves the device changes. -/
theorem State.likeSent_linkFlush (s : State) : s.likeSent s.linkFlush :=
  State.likeSent_foldl (fun t p => State.likeSent_trans (State.likeSent_trans (t.likeSent_flushPort p)
    (State.likeSent_idleControl _ p)) (State.likeSent_flowPort _ p)) _ s

/-- Training changes the states of the ports alone (R353). -/
theorem State.trainPorts_frame (s : State) : ∃ g, s.trainPorts = { s with regs := g } := by
  refine List.foldlRecOn (motive := fun t : State => ∃ g, t = { s with regs := g }) _ _ ⟨s.regs, rfl⟩ ?_
  rintro _ ⟨g, rfl⟩ p -
  split
  · exact ⟨_, rfl⟩
  · exact ⟨_, rfl⟩

/-! ## What the three commands that write the fuses do to them -/

theorem State.leaveReset_fuses (s : State) : s.leaveReset.fuses = s.fuses := by
  obtain ⟨g, hg⟩ := s.trainPorts_frame
  obtain ⟨l, o, hl⟩ := s.trainPorts.likeSent_linkFlush
  rw [State.leaveReset, hl, hg]

theorem State.tryLeave_fuses (s : State) : s.tryLeave.fuses = s.fuses := by
  unfold State.tryLeave
  dsimp only
  split
  · exact s.leaveReset_fuses
  · rfl

/-- RESET_N_RISE samples the straps SPLIT where RESET_N was low. -/
theorem State.resetRise_fuses (s : State) (split : Nat) :
    (s.resetRise split).fuses = if s.power.resetN then s.fuses else { s.fuses with split } := by
  unfold State.resetRise
  split
  · rfl
  · exact State.tryLeave_fuses _

theorem State.tryMains_fuses (s : State) : s.tryMains.fuses = s.fuses := by
  unfold State.tryMains
  dsimp only
  split <;> rfl

/-- STANDBY_POWER samples the straps PMB_ADDR where the standby rails were down. -/
theorem State.standbyPower_fuses (s : State) (pmbAddr : Nat) :
    (s.standbyPower pmbAddr).fuses = if s.power.standby then s.fuses else { s.fuses with pmbAddr } := by
  unfold State.standbyPower
  dsimp only
  rw [State.tryMains_fuses]
  split <;> rfl

theorem State.sendMsix_fuses (s : State) (h vec : Nat) : (s.sendMsix h vec).fuses = s.fuses := by
  obtain ⟨x, g, l, o, p, hx⟩ := s.sendMsix_frame h vec
  rw [hx]; rfl

theorem State.mbxPost_fuses (s : State) (m : Nat) (up : Bool) : (s.mbxPost m up).fuses = s.fuses := by
  unfold State.mbxPost State.mbxOverrun State.mbxSetFull
  dsimp only
  split_ifs <;> simp [State.sendMsix_fuses]

theorem State.reply_fuses (s : State) (ch : Chan) (h status : Nat) (words : List Nat) : (s.reply ch h status words).fuses = s.fuses := by
  cases ch with
  | mbx m =>
    refine (State.mbxPost_fuses _ _ _).trans ?_
    exact List.foldlRecOn (motive := fun t : State => t.fuses = s.fuses) _ _ rfl fun t ht x _ => ht
  | mctp via msg => cases via <;> rfl
  | i3c msg => rfl

theorem State.request_fuses {s t : State} {ch : Chan} {ws : List Nat} (h : s.request ch = some (ws, t)) : t.fuses = s.fuses := by
  cases ch with
  | mbx m =>
    unfold State.request at h
    dsimp only at h
    split at h
    · cases h; rfl
    · split at h
      · cases h; rfl
      · cases h
  | mctp via msg => cases h; rfl
  | i3c msg => cases h; rfl

/-- What holds of the fuses as they stand, and after the command's own work on the request taken, holds after the service. -/
theorem State.serve_fuses {P : Fuses → Prop} {s : State} {ch : Chan} {cmd n hint : Nat} {f : State → Nat → List Nat → State}
    (hs : P s.fuses) (hf : ∀ (t : State) h ws, t.fuses = s.fuses → P (f t h ws).fuses) : P (s.serve ch cmd n hint f).fuses := by
  unfold State.serve State.serveLen
  split
  · exact hs
  · split
    · exact hs
    · next ws t hreq =>
      have ht := State.request_fuses hreq
      have hreply (st : Nat) (l : List Nat) : P (t.reply ch (ws.getD 0 0) st l).fuses := by rw [State.reply_fuses, ht]; exact hs
      dsimp only
      split_ifs
      · exact hreply _ _
      · exact hs
      · exact hreply _ _
      · exact hreply _ _
      · exact hf t _ _ ht

/-- SVN_COMMIT leaves the fuses but their anti-rollback count, which it raises to at most 64 (R456). -/
theorem State.svnCommit_fuses (s : State) (ch : Chan) (hint : Nat) (cut : Option Nat) :
    ∃ n, (s.svnCommit ch hint cut).fuses = { s.fuses with svn := n } ∧ s.fuses.svn ≤ n ∧ (s.fuses.svn ≤ 64 → n ≤ 64) := by
  refine State.serve_fuses (P := fun x => ∃ n, x = { s.fuses with svn := n } ∧ s.fuses.svn ≤ n ∧ (s.fuses.svn ≤ 64 → n ≤ 64))
    ⟨_, rfl, le_rfl, id⟩ fun t h ws ht => ?_
  have hreply (u : State) (st : Nat) (l : List Nat) : (u.reply ch h st l).fuses = u.fuses := u.reply_fuses ch h st l
  dsimp only [State.busyReply, State.replyFail, State.replyOk]
  split
  · exact ⟨_, (hreply _ _ _).trans ht, le_rfl, id⟩
  · split
    · exact ⟨_, (hreply _ _ _).trans ht, le_rfl, id⟩
    · next hrange =>
      simp only [not_or, not_lt] at hrange
      obtain ⟨hold, hmax, -⟩ := hrange
      rw [← ht]
      cases cut with
      | some k => exact ⟨_, rfl, by omega, by omega⟩
      | none =>
        refine ⟨ws.getD 0 0, (hreply _ _ _).trans ?_, hold, fun _ => hmax⟩
        split <;> simp

/-! ## Outcomes -/

/-- A command answers a next state or the fault that it names no part of the device. -/
theorem Meaning.answers {c : Instr} {s : State} {o : Host.Outcome State Fault Refusal} (h : Meaning c s o) : ∃ t, o = .next t := by
  cases h with
  | loop t =>
    unfold State.loop
    split <;> exact ⟨_, rfl⟩
  | _ => exact ⟨_, rfl⟩

theorem part_next {has : Bool} {o : Host.Outcome State Fault Refusal} {t : State} (h : part has o = .next t) : o = .next t := by
  cases has
  · cases h
  · exact h

/-- The commands that go on in reset but only loop or act on the supplies keep the waiting commands and the fuses. -/
theorem State.loop_keeps {s t u : State} (h : s.loop t = .next u) : u.pending = s.pending ∧ u.fuses = s.fuses := by
  unfold State.loop at h
  dsimp only at h
  split_ifs at h <;> cases h <;> simp

theorem State.run_keeps {s t u : State} (h : s.run t = .next u) : u.pending = s.pending ∧ u.fuses = s.fuses := by
  unfold State.run at h
  cases h
  split <;> exact ⟨rfl, rfl⟩

/-- No meaning touches the waiting commands. -/
theorem Meaning.pending {c : Instr} {s t : State} {o : Host.Outcome State Fault Refusal} (h : Meaning c s o) (ht : o = .next t) :
    t.pending = s.pending := by
  cases h with
  | run u => exact (State.run_keeps ht).1
  | engine u => exact (State.run_keeps ht).1
  | loop u => exact (State.loop_keeps ht).1
  | blow ch hint cut =>
    unfold State.blow at ht
    cases ht
    split <;> rfl
  | _ => cases ht; rfl

/-- A meaning changes the fuses in one of three ways, or not at all. -/
theorem Meaning.fuses {c : Instr} {s t : State} {o : Host.Outcome State Fault Refusal} (h : Meaning c s o) (ht : o = .next t) :
    t.fuses = s.fuses ∨
    (∃ ch hint cut n, c = .svnCommit ch hint cut ∧ t.fuses = { s.fuses with svn := n } ∧ s.fuses.svn ≤ n ∧ (s.fuses.svn ≤ 64 → n ≤ 64)) ∨
    (∃ split addr, c = .resetNRise split addr ∧ t.fuses = { s.fuses with split := split.toNat }) ∨
    (∃ addr, c = .standbyPower addr ∧ s.power.standby = false ∧ t.fuses = { s.fuses with pmbAddr := addr.toNat }) := by
  cases h with
  | run u => exact .inl (State.run_keeps ht).2
  | engine u => exact .inl (State.run_keeps ht).2
  | loop u => exact .inl (State.loop_keeps ht).2
  | always u => cases ht; exact .inl rfl
  | blow ch hint cut hc =>
    unfold State.blow at ht
    cases ht
    split
    · exact .inl rfl
    · obtain ⟨n, hn⟩ := s.svnCommit_fuses ch hint cut
      exact .inr (.inl ⟨ch, hint, cut, n, hc, hn⟩)
  | rise split addr hc =>
    cases ht
    have hf := s.resetRise_fuses split.toNat
    by_cases hr : s.power.resetN
    · rw [if_pos hr] at hf; exact .inl hf
    · rw [if_neg hr] at hf; exact .inr (.inr (.inl ⟨split, addr, hc, hf⟩))
  | power addr hc =>
    cases ht
    have hf := s.standbyPower_fuses addr.toNat
    by_cases hs : s.power.standby
    · rw [if_pos hs] at hf; exact .inl hf
    · rw [if_neg hs] at hf; exact .inr (.inr (.inr ⟨addr, hc, by simpa using hs, hf⟩))

/-- Settles O1: it is the definition of a step. -/
theorem stepRunsFrontCommand : Obligations.StepRunsFrontCommand := by
  unfold Obligations.StepRunsFrontCommand
  intro c rest s h
  rw [step, h]

/-- Settles O3: every meaning keeps the queue (`Meaning.pending`). -/
theorem execKeepsQueue : Obligations.ExecKeepsQueue := by
  unfold Obligations.ExecKeepsQueue
  intro c s t h
  obtain ⟨has, o, ho, hm, -⟩ := exec_meaning c s
  exact hm.pending (part_next (ho.symm.trans h))

/-- Settles O4: a command is its meaning, which answers, where the part exists that it names (`exec_meaning`). -/
theorem commandsAnswer : Obligations.CommandsAnswer := by
  unfold Obligations.CommandsAnswer
  refine ⟨fun c s => ?_, fun c s hw hs => ?_⟩
  · obtain ⟨has, o, ho, hm, -⟩ := exec_meaning c s
    obtain ⟨t, rfl⟩ := hm.answers
    rw [ho]
    exact (part_cases has _).imp (fun h => ⟨t, h⟩) id
  · obtain ⟨has, o, ho, hm, hh⟩ := exec_meaning c s
    obtain ⟨t, rfl⟩ := hm.answers
    exact ⟨t, by rw [ho, part_true (hh hw hs)]⟩

/-- Settles O5: a held logic stops what stands in `State.run`, a trip what stands in `State.engine` (`exec_meaning`). -/
theorem heldOrTrippedLogic : Obligations.HeldOrTrippedLogic := by
  unfold Obligations.HeldOrTrippedLogic
  refine ⟨fun c s hheld hs => ?_, fun c s htrip hi => ?_⟩
  · obtain ⟨has, o, ho, hm, -⟩ := exec_meaning c s
    have hnext : o = .next s := by
      cases hm with
      | run t => exact State.run_held t hheld
      | engine t => exact State.run_held _ hheld
      | loop t hs' => rw [hs] at hs'; cases hs'
      | always t hs' => rw [hs] at hs'; cases hs'
      | rise split addr hc => subst hc; cases hs
      | power addr hc => subst hc; cases hs
      | blow ch hint cut => rw [State.blow, if_pos hheld]
    rw [ho, hnext]
    exact part_cases has _
  · obtain ⟨has, o, ho, hm, -⟩ := exec_meaning c s
    have hnext : o = .next s := by
      cases hm with
      | engine t => rw [State.engine, if_pos htrip, State.run, s.keep_self, ite_self]
      | run t hi' => rw [hi] at hi'; cases hi'
      | loop t _ hi' => rw [hi] at hi'; cases hi'
      | always t _ hi' => rw [hi] at hi'; cases hi'
      | rise split addr hc => subst hc; cases hi
      | power addr hc => subst hc; cases hi
      | blow ch hint cut hc => subst hc; cases hi
    rw [ho, hnext]
    exact part_cases has _

/-- The tick of the reference clock leaves the fuses. -/
theorem State.tick_fuses (s : State) : s.tick.fuses = s.fuses := by
  unfold State.tick State.privateRead State.countTick
  split <;> split <;> rfl

/-- Settles O6: a step's command changes the fuses in one of three ways or not at all (`Meaning.fuses`), each of which keeps them
legal. -/
theorem stepKeepsFusesLegal : Obligations.StepKeepsFusesLegal := by
  unfold Obligations.StepKeepsFusesLegal
  intro s t hlegal hstep
  cases hp : s.pending with
  | nil =>
    rw [step, hp] at hstep
    cases hstep
    rw [s.tick_fuses]
    exact ⟨hlegal, le_rfl, fun h => absurd rfl h, fun h => absurd rfl h, fun h => absurd rfl h, rfl⟩
  | cons c rest =>
    rw [step, hp] at hstep
    obtain ⟨has, o, ho, hm, -⟩ := exec_meaning c { s with pending := rest }
    obtain ⟨hsvn, hsites, hsplit, haddr⟩ := hlegal
    rcases hm.fuses (part_next (ho.symm.trans hstep)) with hf | ⟨ch, hint, cut, n, rfl, hf, hge, hle⟩ | ⟨split, addr, rfl, hf⟩ | ⟨addr, rfl, hs, hf⟩
    all_goals rw [hf]
    · exact ⟨⟨hsvn, hsites, hsplit, haddr⟩, le_rfl, fun h => absurd rfl h, fun h => absurd rfl h, fun h => absurd rfl h, rfl⟩
    · exact ⟨⟨hle hsvn, hsites, hsplit, haddr⟩, hge, fun _ => ⟨ch, hint, cut, rest, rfl⟩, fun h => absurd rfl h, fun h => absurd rfl h, rfl⟩
    · exact ⟨⟨hsvn, hsites, split.isLt, haddr⟩, le_rfl, fun h => absurd rfl h, fun _ => ⟨split, addr, rest, rfl⟩, fun h => absurd rfl h, rfl⟩
    · exact ⟨⟨hsvn, hsites, hsplit, addr.isLt⟩, le_rfl, fun h => absurd rfl h, fun h => absurd rfl h, fun _ => ⟨hs, addr, rest, rfl⟩, rfl⟩

end Sys2Proof.Machine

namespace Sys2Proof.Machine

/-! ## What an access to memory leaves alone

Beside `State.likeMem`: an access changes no register outside the MEM_ block and SIO_ and no answer; a read stores nothing, and a
write stores in its range alone and keeps the canonical form. -/

/-- Registers below the SIO_ block and outside some blocks read in both states alike. -/
def State.sameBlocks (bl : List Nat) (s t : State) : Prop := ∀ o, o < 0xD000000 → o / 0x1000000 ∉ bl → t.reg o = s.reg o

/-- `t` differs from `s` by an access that stores nothing. -/
structure State.probed (s t : State) : Prop where
  answers : t.answers = s.answers
  regs : s.sameBlocks [7] t
  mem : t.mem = s.mem
  poison : t.poison = s.poison

/-- `t` differs from `s` by an access that stores in some ranges, each an address and a length. -/
structure State.stored (l : List (Nat × Nat)) (s t : State) : Prop where
  answers : t.answers = s.answers
  regs : s.sameBlocks [7] t
  bytes : ∀ a, (∀ x ∈ l, a < x.1 ∨ x.1 + x.2 ≤ a) → t.mem.byte a = s.mem.byte a
  marks : ∀ k, (∀ x ∈ l, 32 * (k + 1) ≤ x.1 ∨ x.1 + x.2 ≤ 32 * k) → t.poisoned k = s.poisoned k
  wf : s.mem.wf = true → t.mem.wf = true

theorem State.sameBlocks_refl (bl : List Nat) (s : State) : s.sameBlocks bl s := fun _ _ _ => rfl

theorem State.sameBlocks_trans {bl : List Nat} {s t u : State} (h : s.sameBlocks bl t) (h' : t.sameBlocks bl u) : s.sameBlocks bl u :=
  fun o hlo hbl => (h' o hlo hbl).trans (h o hlo hbl)

theorem State.sameBlocks_mono {bl bl' : List Nat} {s t : State} (h : s.sameBlocks bl t) (hsub : bl ⊆ bl') : s.sameBlocks bl' t :=
  fun o hlo hbl => h o hlo fun hmem => hbl (hsub hmem)

theorem State.sameBlocks_of_regs (bl : List Nat) {s t : State} (h : t.regs = s.regs) : s.sameBlocks bl t :=
  fun _ _ _ => State.reg_of_regs h _

theorem State.sameBlocks_setReg {bl : List Nat} (s : State) {off : Nat} (v : Word) (h : off / 0x1000000 ∈ bl) :
    s.sameBlocks bl (s.setReg off v) :=
  fun _ _ hbl => State.reg_setReg_ne s v fun he => hbl (he ▸ h)

theorem State.sameBlocks_post (bl : List Nat) (s : State) (src code cls arg : Nat) : s.sameBlocks bl (s.post src code cls arg) :=
  fun _ hlo _ => State.reg_post s src code cls arg hlo

theorem State.sameBlocks_raise {bl : List Nat} (s : State) {flag cnt : Nat} (i lo : Nat) (hf : flag / 0x1000000 ∈ bl)
    (hc : cnt / 0x1000000 ∈ bl) : s.sameBlocks bl (s.raise flag i cnt lo) :=
  State.sameBlocks_trans (State.sameBlocks_setReg _ _ hf) (State.sameBlocks_setReg _ _ hc)

theorem State.probed_refl (s : State) : s.probed s := ⟨rfl, State.sameBlocks_refl _ s, rfl, rfl⟩

theorem State.probed_trans {s t u : State} (h : s.probed t) (h' : t.probed u) : s.probed u :=
  ⟨h'.answers.trans h.answers, State.sameBlocks_trans h.regs h'.regs, h'.mem.trans h.mem, h'.poison.trans h.poison⟩

theorem State.stored_trans {l : List (Nat × Nat)} {s t u : State} (h : s.stored l t) (h' : t.stored l u) : s.stored l u :=
  ⟨h'.answers.trans h.answers, State.sameBlocks_trans h.regs h'.regs, fun a ha => (h'.bytes a ha).trans (h.bytes a ha),
    fun k hk => (h'.marks k hk).trans (h.marks k hk), fun hs => h'.wf (h.wf hs)⟩

theorem State.stored_mono {l l' : List (Nat × Nat)} {s t : State} (h : s.stored l t) (hsub : l ⊆ l') : s.stored l' t :=
  ⟨h.answers, h.regs, fun a ha => h.bytes a fun x hx => ha x (hsub hx), fun k hk => h.marks k fun x hx => hk x (hsub hx), h.wf⟩

theorem State.probed.stored {s t : State} (h : s.probed t) (l : List (Nat × Nat)) : s.stored l t :=
  ⟨h.answers, h.regs, fun a _ => by rw [h.mem], fun k _ => by rw [State.poisoned, h.poison]; rfl, fun hs => by rw [h.mem]; exact hs⟩

/-- A range inside another leaves alone what the larger one does. -/
theorem State.stored_widen {a n b m : Nat} {s t : State} (h : s.stored [(a, n)] t) (hlo : b ≤ a) (hhi : a + n ≤ b + m) :
    s.stored [(b, m)] t := by
  refine ⟨h.answers, h.regs, fun x hx => h.bytes x ?_, fun k hk => h.marks k ?_, h.wf⟩
  all_goals
    simp only [List.mem_singleton, forall_eq] at *
    omega

/-! ### The steps of an access -/

theorem State.probed_need (s : State) (n : Need) : s.probed (s.need n) := by
  unfold State.need
  split
  · exact s.probed_refl
  · exact ⟨rfl, State.sameBlocks_of_regs _ rfl, rfl, rfl⟩

theorem State.probed_count (s : State) {off : Nat} (n : Nat) (h : off / 0x1000000 = 7) : s.probed (s.count off n) :=
  ⟨rfl, State.sameBlocks_setReg _ _ (by simp [h]), rfl, rfl⟩

theorem State.probed_post (s : State) (src code cls arg : Nat) : s.probed (s.post src code cls arg) :=
  ⟨by simp, State.sameBlocks_post _ s _ _ _ _, by simp, by simp⟩

theorem State.probed_emit (s : State) (x : Out) : s.probed (s.emit x) := ⟨rfl, State.sameBlocks_of_regs _ rfl, rfl, rfl⟩

theorem State.probed_setReg (s : State) {off : Nat} (v : Word) (h : off / 0x1000000 = 7) : s.probed (s.setReg off v) :=
  ⟨rfl, State.sameBlocks_setReg _ _ (by simp [h]), rfl, rfl⟩

theorem State.probed_raise_post (s : State) {flag cnt : Nat} (i lo src code cls arg : Nat) (hf : flag / 0x1000000 = 7)
    (hc : cnt / 0x1000000 = 7) : s.probed ((s.raise flag i cnt lo).post src code cls arg) :=
  State.probed_trans (State.probed_trans (s.probed_setReg _ hf) (State.probed_setReg _ _ hc)) (State.probed_post _ _ _ _ _)

theorem State.probed_memErr (s : State) (src : Src) (k a : Nat) : s.probed (s.memErr src k a) := by
  have hset := State.probed_trans (s.probed_setReg (off := Reg.MEM_ERR_ADDR) (BitVec.ofNat 64 (k * 2 ^ 60 + a % 2 ^ 52)) rfl)
    (State.probed_setReg _ (off := Reg.MEM_ERR_SRC) (BitVec.ofNat 64 (src.kind * 2 ^ 28 + src.id % 2 ^ 16)) rfl)
  unfold State.memErr
  dsimp only
  split
  · exact State.probed_trans hset (State.probed_raise_post _ _ _ _ _ _ _ rfl rfl)
  · exact State.probed_trans hset (State.probed_raise_post _ _ _ _ _ _ _ rfl rfl)

theorem setBitList_getD_lt {k n i : Nat} (hk : 0 < k) : (setBitList k n).getD i 0 < k := by
  by_cases hi : i < (setBitList k n).length
  · rw [List.getD_eq_getElem _ _ hi]
    have hmem : (setBitList k n)[i] ∈ (List.range k).filter (fun j => bit n j) := List.getElem_mem hi
    exact List.mem_range.mp (List.mem_of_mem_filter hmem)
  · rw [List.getD_eq_default _ _ (not_lt.mp hi)]; exact hk

/-- There are 24 stacks (R257). -/
theorem locate_lt (rs : List Region) (a : Nat) : (locate rs a).1 < 24 := by
  unfold locate
  split
  · decide
  · exact setBitList_getD_lt (by decide)

theorem State.lineHome_lt (s : State) (stk : Bool) (a : Nat) : (s.lineHome stk a).1 < 24 := by
  unfold State.lineHome
  split
  · exact locate_lt _ _
  · decide

theorem State.probed_pcTimeout (s : State) {c : Nat} (p : Nat) (hc : c < 24) : s.probed (s.pcTimeout c p) := by
  have hlate : s.probed { s with pcLate := mset 0 s.pcLate (64 * c + p) (mget 0 s.pcLate (64 * c + p) + 1) } :=
    ⟨rfl, State.sameBlocks_of_regs _ rfl, rfl, rfl⟩
  unfold State.pcTimeout
  dsimp only
  split
  · exact State.probed_trans hlate (State.probed_trans (State.probed_setReg _ _ (by unfold Reg.MEM_STK_PC_DOWN; omega))
      (State.probed_raise_post _ _ _ _ _ _ _ rfl rfl))
  · exact hlate

theorem State.probed_intake (s : State) (b : Bool) : s.probed (s.intake b) := by
  unfold State.intake
  split
  · exact s.probed_need _
  · exact s.probed_refl

theorem State.probed_tallyRead (s : State) (stk : Bool) {cp : Nat × Nat} (n : Nat) (hc : cp.1 < 24) : s.probed (s.tallyRead stk cp n) := by
  unfold State.tallyRead
  split
  · exact ⟨rfl, State.sameBlocks_setReg (s.pcDone cp.1 cp.2) _ (by unfold Reg.MEM_STK_RD; simp; omega), rfl, rfl⟩
  · exact s.probed_refl

theorem State.probed_tallyWrite (s : State) (stk : Bool) {cp : Nat × Nat} (n : Nat) (hc : cp.1 < 24) : s.probed (s.tallyWrite stk cp n) := by
  unfold State.tallyWrite
  split
  · exact ⟨rfl, State.sameBlocks_setReg (s.pcDone cp.1 cp.2) _ (by unfold Reg.MEM_STK_WR; simp; omega), rfl, rfl⟩
  · exact s.probed_refl

theorem State.probed_corrected (s : State) {c : Nat} (a : Nat) (hc : c < 24) : s.probed (s.corrected c a) := by
  have hcount : s.probed { (s.count (Reg.MEM_STK_CE c) 1) with ceSecond := mmod 0 s.ceSecond c (· + 1) } :=
    ⟨rfl, State.sameBlocks_setReg s _ (by unfold Reg.MEM_STK_CE; simp; omega), rfl, rfl⟩
  exact State.probed_trans hcount (State.probed_post _ _ _ _ _)

theorem State.probed_tallyCe (s : State) (stk : Bool) (src : Src) (f : Option MemFault) {cp : Nat × Nat} (la : Nat) (hc : cp.1 < 24) :
    s.probed (s.tallyCe stk src f cp la) := by
  unfold State.tallyCe
  split
  · split
    · exact s.probed_corrected _ hc
    · exact s.probed_post _ _ _ _
  · exact s.probed_refl

theorem State.probed_rangeErr (s : State) (src : Src) (a : Nat) : s.probed (s.rangeErr src a) := s.probed_post _ _ _ _

theorem State.probed_foldl {α : Type} {f : State → α → State} (l : List α) (s : State) (h : ∀ (t : State) a, a ∈ l → t.probed (f t a)) :
    s.probed (l.foldl f s) :=
  List.foldlRecOn l f s.probed_refl fun t ht a ha => State.probed_trans ht (h t a ha)

theorem State.probed_foldl_fst {α β : Type} {f : State × β → α → State × β} (l : List α) (p : State × β)
    (h : ∀ (x : State × β) a, a ∈ l → x.1.probed (f x a).1) : p.1.probed (l.foldl f p).1 :=
  List.foldlRecOn (motive := fun x : State × β => p.1.probed x.1) l f p.1.probed_refl
    fun x hx a ha => State.probed_trans hx (h x a ha)

theorem State.stored_foldl_fst {α β : Type} {r : List (Nat × Nat)} {f : State × β → α → State × β} (l : List α) (p : State × β)
    (h : ∀ (x : State × β) a, a ∈ l → x.1.stored r (f x a).1) : p.1.stored r (l.foldl f p).1 :=
  List.foldlRecOn (motive := fun x : State × β => p.1.stored r x.1) l f (p.1.probed_refl.stored r)
    fun x hx a ha => State.stored_trans hx (h x a ha)

theorem State.probed_breachCheck (src : Src) (a : Nat) (s : State) (p : Nat) : s.probed (State.breachCheck src a s p) := by
  have hb : ∀ b, s.probed (s.breach src b) := fun b =>
    State.probed_trans (s.probed_setReg _ rfl) (State.probed_raise_post _ _ _ _ _ _ _ rfl rfl)
  unfold State.breachCheck
  dsimp only
  split
  · split
    · exact s.probed_refl
    · exact hb _
  · split
    · exact hb _
    · exact s.probed_refl
  · exact s.probed_refl

theorem State.probed_breachPages (s : State) (src : Src) (a n : Nat) : s.probed (s.breachPages src a n) :=
  State.probed_foldl _ s fun t p _ => State.probed_breachCheck src a t p

theorem State.probed_snoopRange (s : State) (src : Src) (a len : Nat) (inv : Bool) : s.probed (s.snoopRange src a len inv) := by
  unfold State.snoopRange
  split
  · exact s.probed_refl
  · refine State.probed_foldl _ s fun t l _ => ?_
    split
    · exact t.probed_refl
    · refine State.probed_foldl _ t fun u h _ => ?_
      unfold State.snoopHost
      split
      · exact u.probed_refl
      · exact u.probed_need _

/-! ### Reads -/

theorem State.probed_readLine (src : Src) (a len : Nat) (acc : State × Rd) (line : Nat) :
    acc.1.probed (State.readLine src a len acc line).1 := by
  obtain ⟨s, rd⟩ := acc
  have hc := s.lineHome_lt (decide (line * 32 < stackedEnd)) (line * 32)
  have htally := s.probed_tallyRead (decide (line * 32 < stackedEnd)) (min (a + len) (line * 32 + 32) - max a (line * 32)) hc
  unfold State.readLine
  dsimp only
  split <;> dsimp only
  · exact State.probed_trans htally (State.probed_memErr _ _ _ _)
  · exact State.probed_trans htally (State.probed_tallyCe _ _ _ _ _ hc)

theorem State.probed_readReq (src : Src) (acc : State × Rd) (r : Nat × Nat) : acc.1.probed (State.readReq src acc r).1 := by
  obtain ⟨s, rd⟩ := acc
  obtain ⟨a, n⟩ := r
  unfold State.readReq
  dsimp only
  split
  · next hspill =>
    have hrange := of_decide_eq_true hspill
    simp only [spillBase] at hrange
    split
    · exact s.probed_count _ (by unfold Reg.MEM_SPILL_RD spillBase; omega)
    · exact s.probed_memErr src 3 a
    · exact State.probed_foldl _ s fun t l _ => t.probed_memErr _ _ _
    · split <;> dsimp only
      · exact s.probed_rangeErr _ _
      · exact s.probed_need _
  · have hin := s.probed_intake (decide (a < stackedEnd))
    split
    · exact State.probed_trans hin (State.probed_trans (State.probed_memErr _ src 3 a) (State.probed_pcTimeout _ _ (State.lineHome_lt _ _ _)))
    · exact State.probed_trans hin (State.probed_foldl_fst _ (_, rd) fun x l _ => State.probed_readLine src a n x l)

/-- A read stores nothing. -/
theorem State.probed_readMemBy (s : State) (src : Src) (cap a len : Nat) : s.probed (s.readMemBy src cap a len).1 := by
  unfold State.readMemBy State.readPast
  split
  · exact s.probed_rangeErr _ _
  · exact State.probed_trans (s.probed_snoopRange src a len false)
      (State.probed_foldl_fst _ (_, _) fun x r _ => State.probed_readReq src x r)

theorem State.probed_readMem (s : State) (src : Src) (a len : Nat) : s.probed (s.readMem src a len).1 :=
  s.probed_readMemBy src 2048 a len

/-! ### Writes -/

theorem length_slice (b : List Byte) (off k : Nat) : (slice b off k).length = k := by
  simp only [slice, List.length_append, List.length_take, List.length_drop, List.length_replicate]
  omega

/-- The bytes of a line and its mark. -/
theorem State.stored_setBytes (s : State) (a : Nat) (b : List Byte) : s.stored [(a, b.length)] { s with mem := s.mem.setBytes a b } := by
  refine ⟨rfl, State.sameBlocks_of_regs _ rfl, fun x hx => ?_, fun k _ => rfl, fun hs => Memory.wf_setBytes _ hs⟩
  exact Memory.byte_setBytes_out _ _ (hx (a, b.length) (List.mem_singleton.mpr rfl))

theorem State.stored_setPoison (s : State) {line a n : Nat} (v : Bool) (h : a < 32 * (line + 1) ∧ 32 * line < a + n) :
    s.stored [(a, n)] (s.setPoison line v) := by
  refine ⟨rfl, State.sameBlocks_of_regs _ rfl, fun x _ => rfl, fun k hk => mget_mset_ne _ _ _ ?_, id⟩
  have hout := hk (a, n) (List.mem_singleton.mpr rfl)
  rintro rfl
  dsimp only at hout
  omega

theorem State.stored_writeLine (src : Src) (a : Nat) (bytes : List Byte) (bad : List Nat) (acc : State × Option (Nat × Nat)) {line : Nat}
    (hline : a < 32 * (line + 1) ∧ 32 * line < a + bytes.length) :
    acc.1.stored [(a, bytes.length)] (State.writeLine src a bytes bad acc line).1 := by
  obtain ⟨s, err⟩ := acc
  have hc := s.lineHome_lt (decide (line * 32 < stackedEnd)) (line * 32)
  unfold State.writeLine
  dsimp only
  generalize hn : min (a + bytes.length) (line * 32 + 32) - max a (line * 32) = n
  generalize s.lineHome (decide (line * 32 < stackedEnd)) (line * 32) = cp at hc
  generalize decide (line * 32 < stackedEnd) = stk
  split
  · refine State.stored_trans ((s.probed_tallyWrite stk 0 hc).stored _) ?_
    exact State.stored_trans (State.stored_setPoison _ true hline) ((State.probed_memErr _ src 2 (line * 32)).stored _)
  · refine State.stored_trans ((s.probed_tallyWrite stk n hc).stored _) ?_
    refine State.stored_trans ((State.probed_tallyCe _ stk src (s.lineFault (line * 32)) (line * 32) hc).stored _) ?_
    have hset (v : State) : v.stored [(a, bytes.length)]
        { v with mem := v.mem.setBytes (max a (line * 32)) (slice bytes (max a (line * 32) - a) n) } := by
      refine State.stored_widen (v.stored_setBytes _ _) (le_max_left _ _) ?_
      rw [length_slice]; omega
    dsimp only
    split
    · exact State.stored_trans (hset _) (State.stored_setPoison _ _ hline)
    · exact hset _

theorem State.place_spill_lt {s : State} {a h o : Nat} (hp : s.place a = .spill h o) : h < 8 := by
  unfold State.place at hp
  dsimp only at hp
  split_ifs at hp with h1 h2 h3
  cases hp
  simp only [spillBase] at h2 ⊢
  omega

theorem State.probed_spillOut (s : State) {h : Nat} (a : Nat) (bytes : List Byte) (bad : List Nat) (hh : h < 8) :
    s.probed (s.spillOut h a bytes bad) := by
  have hcount := s.probed_count (off := Reg.MEM_SPILL_WR h) bytes.length (by unfold Reg.MEM_SPILL_WR; omega)
  unfold State.spillOut
  dsimp only
  split
  · exact State.probed_trans hcount (State.probed_foldl _ _ fun t l _ => t.probed_emit _)
  · exact State.probed_trans hcount (State.probed_emit _ _)

theorem mem_linesOf {a n line : Nat} (hn : 0 < n) (h : line ∈ linesOf a n) : a < 32 * (line + 1) ∧ 32 * line < a + n := by
  simp only [linesOf, upTo, List.mem_map, List.mem_range] at h
  omega

theorem State.stored_storeReq (src : Src) (base : Nat) (bytes : List Byte) (bad : List Nat) (acc : State × Option (Nat × Nat))
    {r : Nat × Nat} (hr : 0 < r.2) : acc.1.stored [r] (State.storeReq src base bytes bad acc r).1 := by
  obtain ⟨s, err⟩ := acc
  obtain ⟨a, n⟩ := r
  have hlen := length_slice bytes (a - base) n
  unfold State.storeReq
  dsimp only
  split
  · next h o hp => exact (s.probed_spillOut _ _ _ (State.place_spill_lt hp)).stored _
  · exact (s.probed_rangeErr _ _).stored _
  · split
    · exact (State.probed_trans (s.probed_memErr _ _ _) (State.probed_pcTimeout _ _ (State.lineHome_lt _ _ _))).stored _
    · refine State.stored_foldl_fst (r := [(a, n)]) _ (s, err) fun x line hl => ?_
      have hw := State.stored_writeLine src a (slice bytes (a - base) n) bad x (hlen ▸ mem_linesOf hr hl)
      rwa [hlen] at hw

theorem State.reqUnit_pos (s : State) (a : Nat) : 0 < s.reqUnit a := by
  unfold State.reqUnit
  have hgran (r : Region) : 0 < min 2048 (256 * 2 ^ r.granule) := by
    have := Nat.two_pow_pos r.granule
    omega
  split_ifs
  · split
    · exact hgran _
    · decide
  all_goals decide

/-- The requests of a range lie in it, and none is empty. -/
theorem State.mem_cutReqs (s : State) {cap : Nat} (hcap : 0 < cap) : ∀ (fuel : Nat) {a len : Nat} {r : Nat × Nat},
    r ∈ s.cutReqs cap fuel a len → 0 < r.2 ∧ a ≤ r.1 ∧ r.1 + r.2 ≤ a + len
  | 0, _, _, _, h => by cases h
  | fuel + 1, a, len, r, h => by
    have hu : 0 < min cap (s.reqUnit a) := by have := s.reqUnit_pos a; omega
    have hmod := Nat.mod_lt a hu
    unfold State.cutReqs at h
    dsimp only at h
    split at h
    · cases h
    · rcases List.mem_cons.mp h with rfl | h
      · dsimp only; omega
      · obtain ⟨hpos, hlo, hhi⟩ := State.mem_cutReqs s hcap fuel h
        omega

/-- A write stores in its range alone. -/
theorem State.stored_writeMemBy (s : State) (src : Src) {cap : Nat} (a : Nat) (bytes : List Byte) (bad : List Nat) (hcap : 0 < cap) :
    s.stored [(a, bytes.length)] (s.writeMemBy src cap a bytes bad).1 := by
  unfold State.writeMemBy State.writePast
  split
  · exact s.probed_refl.stored _
  · split
    · exact (s.probed_rangeErr _ _).stored _
    · refine State.stored_trans ((State.probed_trans (s.probed_snoopRange src a bytes.length true)
        (State.probed_breachPages _ src a bytes.length)).stored _) ?_
      refine State.stored_foldl_fst _ (_, none) fun x r hr => ?_
      obtain ⟨hpos, hlo, hhi⟩ := State.mem_cutReqs s hcap _ hr
      exact State.stored_trans ((x.1.probed_intake _).stored _) (State.stored_widen (State.stored_storeReq src a bytes bad (_, x.2) hpos) hlo hhi)

theorem State.stored_writeMemP (s : State) (src : Src) (a : Nat) (bytes : List Byte) (bad : List Nat) :
    s.stored [(a, bytes.length)] (s.writeMemP src a bytes bad).1 := s.stored_writeMemBy src a bytes bad (by decide)

theorem State.stored_writeMem (s : State) (src : Src) (a : Nat) (bytes : List Byte) :
    s.stored [(a, bytes.length)] (s.writeMem src a bytes).1 := s.stored_writeMemP src a bytes []

/-- Settles O13: a read stores nothing (`State.probed_readMem`), a write keeps the form (`State.stored_writeMemP`), and so does
opening a range. -/
theorem memoryStaysCanonical : Obligations.MemoryStaysCanonical := by
  unfold Obligations.MemoryStaysCanonical
  intro s src a len data bad hwf
  refine ⟨?_, (s.stored_writeMemP src a data bad).wf hwf, Memory.wf_openRange _ hwf⟩
  rw [(s.probed_readMem src a len).mem]
  exact hwf

end Sys2Proof.Machine

namespace Sys2Proof.Machine

/-! ## Core-local memory on which nothing is reported -/

/-- The memories report nothing, no line is poisoned, and only pages of stacked memory have a bias state. -/
def State.localQuiet (s : State) : Prop := s.env.faults = [] ∧ s.poison = [] ∧ ∀ p, 589824 ≤ p → mget 0 s.bias p = 0

/-- The range lies in the memory of core n. -/
def localRange (n a len : Nat) : Prop := localBase n ≤ a ∧ a + len ≤ localBase n + localSize

theorem slice_of_le {b : List Byte} {off k : Nat} (h : off + k ≤ b.length) : slice b off k = (b.drop off).take k := by
  have hlen : k - ((b.drop off).take k).length = 0 := by simp only [List.length_take, List.length_drop]; omega
  simp only [slice, hlen, List.replicate_zero, List.append_nil]

theorem Memory.setBytes_append (m : Memory) (a : Nat) (x y : List Byte) :
    m.setBytes a (x ++ y) = (m.setBytes a x).setBytes (a + x.length) y := by
  induction x generalizing m a with
  | nil => rfl
  | cons b r ih => rw [List.cons_append, Memory.setBytes, ih, Memory.setBytes, List.length_cons, Nat.add_right_comm, Nat.add_assoc]

section Local

variable {s : State} {n a len : Nat}

theorem localRange.not_stacked (h : localRange n a len) : stackedEnd + 64 ≤ a := by
  obtain ⟨hlo, -⟩ := h
  simp only [localBase] at hlo
  simp only [stackedEnd]
  omega

theorem localRange.not_spill (h : localRange n a len) : inSpill a = false := by
  obtain ⟨hlo, -⟩ := h
  simp only [localBase] at hlo
  exact decide_eq_false (by simp only [spillBase]; omega)

theorem localRange.place (h : localRange n a len) (hn : n < 128) (hpos : 0 < len) : s.place a = .coreLocal n (a - localBase n) := by
  obtain ⟨hlo, hhi⟩ := h
  simp only [localBase, localSize] at hlo hhi
  have hcore : (a - 0xC000000000000) / 0x1000000 = n := by omega
  have hoff : (a - 0xC000000000000) % 0x1000000 = a - (0xC000000000000 + n * 0x1000000) := by omega
  simp only [State.place, stackedEnd, spillBase, localBase, localSize, Nat.zero_mul, Nat.add_zero, hcore, hoff]
  rw [if_neg (by omega), if_neg (by omega), if_pos (by omega), if_pos (by omega)]

theorem localRange.reqUnit (h : localRange n a len) (hn : n < 128) (hpos : 0 < len) : min 2048 (s.reqUnit a) = 512 := by
  have hspill := h.not_spill
  have hstk := h.not_stacked
  obtain ⟨hlo, hhi⟩ := h
  simp only [localBase, localSize] at hlo hhi
  rw [State.reqUnit, if_neg (by omega), if_neg (by simp [hspill]), if_pos (by simp only [localBase]; omega)]
  rfl

theorem localRange.rangeBad (h : localRange n a len) (hn : n < 128) : s.rangeBad a len = none := by
  unfold State.rangeBad State.holeIn State.firstBad
  by_cases hz : len = 0
  · simp [hz]
  · have hsize : localSize = 0x600000 := rfl
    have hplace := h.place (s := s) hn (by omega)
    obtain ⟨hlo, hhi⟩ := h
    have hend : s.rangeEnd a = localBase n + localSize := by simp [State.rangeEnd, hplace]
    simp only [hz, if_false, hend]
    refine ite_eq_left_iff.mpr fun _ => ?_
    rw [if_neg (by omega), if_pos hhi]

theorem localRange.sub {b k : Nat} (h : localRange n a len) (hlo : a ≤ b) (hhi : b + k ≤ a + len) : localRange n b k :=
  ⟨h.1.trans hlo, hhi.trans h.2⟩

/-- No host is asked about core-local memory. -/
theorem State.snoopRange_local (hb : ∀ p, 589824 ≤ p → mget 0 s.bias p = 0) (h : stackedEnd + 64 ≤ a) (src : Src) (inv : Bool) :
    s.snoopRange src a len inv = s := by
  unfold State.snoopRange
  split
  · rfl
  · refine List.foldlRecOn (motive := fun t => t = s) _ _ rfl ?_
    rintro _ rfl l hl
    simp only [upTo, List.mem_map, List.mem_range] at hl
    simp only [stackedEnd] at h
    rw [State.biasOf, hb _ (by omega), if_pos rfl]

theorem State.timesOut_local (h : stackedEnd ≤ a) : s.timesOut a len = false := by simp [State.timesOut, Nat.not_lt.mpr h]

theorem State.intake_local (h : stackedEnd ≤ a) : s.intake (decide (a < stackedEnd)) = s := by
  simp [State.intake, Nat.not_lt.mpr h]

/-! ### Reads -/

theorem State.readLine_local {src : Src} {rd : Rd} {line : Nat} (hq : s.localQuiet) (h : stackedEnd ≤ line * 32) :
    State.readLine src a len (s, rd) line =
      (s, { rd with bytes := rd.bytes ++ s.mem.bytes (max a (line * 32)) (min (a + len) (line * 32 + 32) - max a (line * 32)) }) := by
  obtain ⟨hf, hp, -⟩ := hq
  simp [State.readLine, State.tallyRead, State.tallyCe, State.lineFault, State.poisoned, hf, hp, Nat.not_lt.mpr h]

theorem State.readReq_local {src : Src} {rd : Rd} (hq : s.localQuiet) (h : stackedEnd + 64 ≤ a) (hspill : inSpill a = false) :
    State.readReq src (s, rd) (a, len) = (s, { rd with bytes := rd.bytes ++ s.mem.bytes a len }) := by
  have hreq : State.readReq src (s, rd) (a, len) = (linesOf a len).foldl (State.readLine src a len) (s, rd) := by
    simp only [State.readReq, hspill, Bool.false_eq_true, if_false]
    rw [State.intake_local (by omega), State.timesOut_local (by omega)]
    rfl
  obtain ⟨t, -, ht⟩ := State.readLines_quiet (src := src) s rd a len ((a + len - 1) / 32 + 1 - a / 32) hq.1 hq.2.1
  have hmin : min len (32 * (a / 32 + ((a + len - 1) / 32 + 1 - a / 32)) - a) = len := by omega
  have hstate : ((linesOf a len).foldl (State.readLine src a len) (s, rd)).1 = s := by
    refine List.foldlRecOn (motive := fun x : State × Rd => x.1 = s) _ _ rfl fun x hx line hl => ?_
    obtain ⟨u, rd⟩ := x
    dsimp only at hx
    subst hx
    simp only [linesOf, upTo, List.mem_map, List.mem_range] at hl
    simp only [stackedEnd] at h
    rw [State.readLine_local hq (by simp only [stackedEnd]; omega)]
  rw [hmin] at ht
  have hlines : (linesOf a len).foldl (State.readLine src a len) (s, rd) = (t, { rd with bytes := rd.bytes ++ s.mem.bytes a len }) := ht
  rw [hlines] at hstate
  rw [hreq, hlines, show t = s from hstate]

theorem State.readReqs_local {src : Src} (hq : s.localQuiet) (hn : n < 128) : ∀ (fuel : Nat) {a len : Nat} (rd : Rd), localRange n a len →
    len = 0 ∨ a % 512 + len ≤ 512 * fuel →
    (s.cutReqs 2048 fuel a len).foldl (State.readReq src) (s, rd) = (s, { rd with bytes := rd.bytes ++ s.mem.bytes a len })
  | 0, a, len, rd, h, hfuel => by
    have hz : len = 0 := by omega
    simp [State.cutReqs, hz, Memory.bytes]
  | fuel + 1, a, len, rd, h, hfuel => by
    by_cases hz : len = 0
    · simp [State.cutReqs, hz, Memory.bytes]
    · have hunit := h.reqUnit (s := s) hn (by omega)
      simp only [State.cutReqs, hz, if_false, hunit, List.foldl_cons]
      generalize hk : min len (512 - a % 512) = k
      rw [State.readReq_local hq h.not_stacked h.not_spill,
        State.readReqs_local hq hn fuel _ (h.sub (b := a + k) (k := len - k) (by omega) (by omega)) (by omega), List.append_assoc,
        ← Memory.bytes_append, show k + (len - k) = len by omega]

/-- A read of core-local memory on which nothing is reported answers the bytes held and changes nothing. -/
theorem State.readMem_local (hq : s.localQuiet) (hn : n < 128) (h : localRange n a len) (src : Src) :
    s.readMem src a len = (s, ⟨s.mem.bytes a len, [], none⟩) := by
  rw [State.readMem, State.readMemBy, h.rangeBad hn]
  dsimp only
  rw [State.readPast, State.snoopRange_local hq.2.2 h.not_stacked, State.requestsBy, State.readReqs_local hq hn _ _ h (by omega)]
  rfl

/-! ### Writes -/

/-- Other contents of memory. -/
def State.setMem (s : State) (m : Memory) : State := { s with mem := m }

@[simp] theorem State.setMem_mem (s : State) (m : Memory) : (s.setMem m).mem = m := rfl

theorem State.writeLine_local {src : Src} {err : Option (Nat × Nat)} {bytes : List Byte} {line : Nat} (hf : s.env.faults = [])
    (hp : s.poison = []) (h : stackedEnd ≤ line * 32) :
    State.writeLine src a bytes [] (s, err) line = (s.setMem (s.mem.setBytes (max a (line * 32))
      (slice bytes (max a (line * 32) - a) (min (a + bytes.length) (line * 32 + 32) - max a (line * 32)))), err) := by
  have hpoison (t : State) (ht : t.poison = []) : t.setPoison line false = t := by
    cases t; cases ht; rfl
  simp [State.writeLine, State.tallyWrite, State.tallyCe, State.lineFault, State.poisoned, hf, hp, Nat.not_lt.mpr h, hpoison, State.setMem]

theorem State.writeLines_local {src : Src} {err : Option (Nat × Nat)} (hf : s.env.faults = []) (hp : s.poison = []) (bytes : List Byte)
    (h : stackedEnd + 64 ≤ a) (j : Nat) :
    ((List.range j).map (a / 32 + ·)).foldl (State.writeLine src a bytes []) (s, err) =
      (s.setMem (s.mem.setBytes a (bytes.take (32 * (a / 32 + j) - a))), err) := by
  induction j with
  | zero => rw [show 32 * (a / 32 + 0) - a = 0 by omega]; rfl
  | succ j ih =>
    rw [List.range_succ, List.map_append, List.foldl_append, ih, List.map_singleton, List.foldl_cons, List.foldl_nil]
    rw [State.writeLine_local (s := s.setMem (s.mem.setBytes a (bytes.take (32 * (a / 32 + j) - a)))) hf hp (by omega)]
    refine congrArg (fun m => (s.setMem m, err)) ?_
    rw [State.setMem_mem]
    by_cases hz : bytes.length ≤ 32 * (a / 32 + j) - a
    · rw [show min (a + bytes.length) ((a / 32 + j) * 32 + 32) - max a ((a / 32 + j) * 32) = 0 by omega, List.take_of_length_le hz,
        List.take_of_length_le (by omega)]
      rfl
    · generalize hk : 32 * (a / 32 + j) - a = k at hz
      rw [show max a ((a / 32 + j) * 32) = a + k by omega, show a + k - a = k by omega]
      generalize hm : min (a + bytes.length) ((a / 32 + j) * 32 + 32) - (a + k) = m
      have htake : bytes.take (32 * (a / 32 + (j + 1)) - a) = bytes.take k ++ (bytes.drop k).take m := by
        rw [← List.take_add]
        by_cases hall : bytes.length ≤ k + m
        · rw [List.take_of_length_le hall, List.take_of_length_le (by omega)]
        · rw [show 32 * (a / 32 + (j + 1)) - a = k + m by omega]
      rw [htake, Memory.setBytes_append, slice_of_le (by omega), List.length_take, show min k bytes.length = k by omega]

theorem State.writeReq_local {src : Src} {err : Option (Nat × Nat)} {bytes : List Byte} {base : Nat} (hf : s.env.faults = [])
    (hp : s.poison = []) (hn : n < 128) (h : localRange n a len) (hpos : 0 < len) :
    State.writeReq src base bytes [] (s, err) (a, len) = (s.setMem (s.mem.setBytes a (slice bytes (a - base) len)), err) := by
  have hstk := h.not_stacked
  have hlen := length_slice bytes (a - base) len
  have hreq : State.writeReq src base bytes [] (s, err) (a, len) =
      (linesOf a len).foldl (State.writeLine src a (slice bytes (a - base) len) []) (s, err) := by
    simp only [State.writeReq, State.storeReq]
    rw [State.intake_local (by omega), h.place hn hpos, State.timesOut_local (by omega)]
    rfl
  rw [hreq, linesOf, upTo, State.writeLines_local hf hp _ hstk, List.take_of_length_le (by omega)]

theorem State.writeReqs_local {src : Src} {u : State} {base : Nat} {bytes : List Byte} {err : Option (Nat × Nat)} (hn : n < 128)
    (hu : localRange n base bytes.length) : ∀ (fuel : Nat) {s : State} {i : Nat}, s.env.faults = [] → s.poison = [] → i ≤ bytes.length →
    bytes.length = i ∨ (base + i) % 512 + (bytes.length - i) ≤ 512 * fuel →
    (u.cutReqs 2048 fuel (base + i) (bytes.length - i)).foldl (State.writeReq src base bytes []) (s, err) =
      (s.setMem (s.mem.setBytes (base + i) (bytes.drop i)), err)
  | 0, s, i, hf, hp, hi, hfuel => by
    rw [show i = bytes.length by omega, List.drop_length]; rfl
  | fuel + 1, s, i, hf, hp, hi, hfuel => by
    by_cases hz : i = bytes.length
    · rw [hz, List.drop_length, Nat.sub_self]; simp [State.cutReqs, Memory.setBytes, State.setMem]
    · have hrange := hu.sub (b := base + i) (k := bytes.length - i) (by omega) (by omega)
      have hunit := hrange.reqUnit (s := u) hn (by omega)
      simp only [State.cutReqs, show bytes.length - i ≠ 0 by omega, if_false, hunit, List.foldl_cons]
      generalize hk : min (bytes.length - i) (512 - (base + i) % 512) = k
      have hnext := State.writeReqs_local (src := src) (u := u) (err := err) hn hu fuel
        (s := s.setMem (s.mem.setBytes (base + i) (slice bytes (base + i - base) k))) (i := i + k) hf hp (by omega) (by omega)
      rw [State.writeReq_local hf hp hn (hrange.sub (b := base + i) (k := k) le_rfl (by omega)) (by omega), Nat.add_assoc,
        show bytes.length - i - k = bytes.length - (i + k) by omega, hnext]
      refine congrArg (fun m => (s.setMem m, err)) ?_
      rw [show base + i - base = i by omega, slice_of_le (by omega), ← Nat.add_assoc]
      have hsplit : bytes.drop i = (bytes.drop i).take k ++ bytes.drop (i + k) := by rw [← List.drop_drop, List.take_append_drop]
      conv_rhs => rw [hsplit, Memory.setBytes_append, List.length_take, List.length_drop, show min k (bytes.length - i) = k by omega]
      rfl

theorem State.breachPages_local (hn : n < 128) (h : localRange n a len) (hpos : 0 < len) (src : Src) : s.breachPages src a len = s := by
  refine List.foldlRecOn (motive := fun t => t = s) _ _ rfl ?_
  rintro _ rfl p hp
  simp only [upTo, List.mem_map, List.mem_range] at hp
  have hrange := h.sub (b := max a (p * 0x200000)) (k := 1) (by omega) (by omega)
  simp only [State.breachCheck, hrange.place hn one_pos]

/-- A write of core-local memory on which nothing is reported stores its bytes and changes nothing else. -/
theorem State.writeMem_local (hq : s.localQuiet) (hn : n < 128) {bytes : List Byte} (h : localRange n a bytes.length) (src : Src) :
    s.writeMem src a bytes = (s.setMem (s.mem.setBytes a bytes), none) := by
  unfold State.writeMem State.writeMemP State.writeMemBy
  split
  · next hz => subst hz; rfl
  · next hz =>
    have hpos : 0 < bytes.length := List.length_pos_iff.mpr hz
    rw [h.rangeBad hn]
    dsimp only
    have hreqs := State.writeReqs_local (src := src) (u := s) (err := none) hn h (bytes.length / 256 + 2) (i := 0) hq.1 hq.2.1 (by omega) (by omega)
    rw [State.writePast, State.snoopRange_local hq.2.2 h.not_stacked, State.breachPages_local hn h hpos, State.requestsBy]
    exact hreqs

end Local

/-- Settles O12: a read answers the bytes held (`State.readMem_local`), a write stores its own (`State.writeMem_local`). -/
theorem coreLocalAccessesExact : Obligations.CoreLocalAccessesExact := by
  unfold Obligations.CoreLocalAccessesExact
  intro s src n a data hn hin hf hp hb
  have hq : s.localQuiet := ⟨hf, hp, hb⟩
  have hrange : localRange n a data.length := by simpa [inLocal, localRange] using hin
  exact ⟨State.readMem_local hq hn hrange src, _, State.writeMem_local hq hn hrange src, Memory.bytes_setBytes _ _ _,
    fun x hx => Memory.byte_setBytes_out _ _ hx, rfl⟩

end Sys2Proof.Machine

namespace Sys2Proof.Machine

/-! ## Bits of a register beside a field that is set -/

theorem getLsbD_fput_out (v : Word) (x : Nat) {hi lo j : Nat} (h : lo ≤ hi) (hw : hi < 64) (hj : j < lo ∨ hi < j) :
    (fput v hi lo x).getLsbD j = v.getLsbD j := by
  rw [BitVec.getLsbD, fput_toNat v x h hw, BitVec.getLsbD]
  rcases hj with hj | hj
  · have hmod := setBits_mod v.toNat x h le_rfl (k := lo)
    have hbit := congrArg (Nat.testBit · j) hmod
    simpa [Nat.testBit_mod_two_pow, hj] using hbit
  · have hdiv := setBits_div v.toNat x h (Nat.lt_succ_self hi)
    have hbit := congrArg (Nat.testBit · (j - (hi + 1))) hdiv
    simpa [Nat.testBit_div_two_pow, Nat.add_comm, Nat.add_assoc, show hi + 1 + (j - (hi + 1)) = j by omega] using hbit

theorem State.getLsbD_setFld_out (s : State) (off x : Nat) {hi lo j : Nat} (h : lo ≤ hi) (hw : hi < 64) (hj : j < lo ∨ hi < j) :
    ((s.setFld off hi lo x).reg off).getLsbD j = (s.reg off).getLsbD j := by
  rw [State.setFld, State.reg_setReg_self, getLsbD_fput_out _ _ h hw hj]

/-- Settles O10: the flag and its counter are two fields of two registers that are set. -/
theorem flagCountsEverySet : Obligations.FlagCountsEverySet := by
  unfold Obligations.FlagCountsEverySet
  intro s flag i cnt lo hne hi hlo
  refine ⟨s.fld_raise_flag hi hne, s.fld_raise_cnt hlo hne, fun j hj hji => ?_, fun j hj => ?_, fun o hf hc => s.reg_raise_ne i lo hf hc, rfl⟩
  · rw [State.raise, State.reg_addFld_ne _ _ _ _ hne, s.getLsbD_setFld_out _ _ le_rfl hi (by omega)]
  · rw [State.raise, State.addFld, State.getLsbD_setFld_out _ _ _ (by omega) hlo (by omega), State.reg_setFld_ne _ _ _ _ hne.symm]

/-! ## A step on an empty queue, and the state after reset -/

theorem State.i3cHeld_privateRead (s : State) : s.privateRead.i3cHeld = none := by
  unfold State.privateRead
  split
  · rfl
  · assumption

/-- A reply that waits for the board's read over I3C goes out (R468). -/
theorem State.privateRead_eq (s : State) :
    s.privateRead = { s with out := s.out ++ (s.i3cHeld.toList.map fun b => Out.board (some b)), i3cHeld := none } := by
  cases s with
  | _ =>
  unfold State.privateRead
  split
  · next b h => cases h; rfl
  · next h => cases h; simp

theorem State.regs_countTick (s : State) : s.countTick = { s with regs := s.countTick.regs } := by
  unfold State.countTick
  split <;> rfl

/-- CLK_TIME counts the reference clock while standby power is there (R476). -/
theorem State.reg_countTick (s : State) : s.countTick.reg Reg.CLK_TIME = s.reg Reg.CLK_TIME + (if s.power.standby then 1 else 0) := by
  unfold State.countTick
  split
  · exact s.reg_count_self Reg.CLK_TIME 1
  · exact (BitVec.add_zero _).symm

theorem State.reg_countTick_ne (s : State) {off : Nat} (h : off ≠ Reg.CLK_TIME) : s.countTick.reg off = s.reg off := by
  unfold State.countTick
  split
  · exact s.reg_count_ne 1 h
  · rfl

/-- Settles O2: an idle step counts the clock and hands a waiting reply over (`State.reg_countTick`, `State.privateRead_eq`). -/
theorem idleStepCountsReferenceClock : Obligations.IdleStepCountsReferenceClock := by
  unfold Obligations.IdleStepCountsReferenceClock
  intro s hs
  refine ⟨s.tick, by rw [step, hs], ?_⟩
  have htick : s.tick = { s with regs := s.countTick.regs, out := s.out ++ (s.i3cHeld.toList.map fun b => Out.board (some b)), i3cHeld := none } := by
    rw [State.tick, State.privateRead_eq, State.regs_countTick]
  have hreg (off : Nat) : s.tick.reg off = s.countTick.reg off := State.reg_of_regs (by rw [htick]) off
  refine ⟨(hreg _).trans s.reg_countTick, fun off h => (hreg _).trans (s.reg_countTick_ne h), ?_, ?_, ?_⟩
  all_goals rw [htick]

theorem State.reg_reset_portStatus {p : Nat} (hp : p < 18) : State.reset.reg (Reg.LNK_PORT_STATUS p) = 0x3FC00000001 := by
  have hreg (d : Word) : mget d State.reset.regs (Reg.LNK_PORT_STATUS p) = 0x3FC00000001 := by interval_cases p <;> rfl
  exact hreg _

/-- Settles O7: State.reset lists no register but the states of the Aedlink ports, and no contents of any table. -/
theorem resetState : Obligations.ResetState := by
  unfold Obligations.ResetState
  refine ⟨⟨by decide, rfl, by decide, by decide⟩, rfl, fun p hp => by rw [State.reg_reset_portStatus hp]; rfl, fun off h => State.reg_reset h, rfl,
    fun l => rfl, fun a => ⟨rfl, rfl⟩, fun a => rfl, fun q => rfl, ?_⟩
  have hport : ∀ p < 18, Reg.RTE_STATUS ≠ Reg.LNK_PORT_STATUS p := fun p _ => by unfold Reg.RTE_STATUS Reg.LNK_PORT_STATUS; omega
  have hreset : fget (regReset Reg.RTE_STATUS) 7 7 = 0 := by decide
  simp [State.loaded, State.fld, State.reg_reset hport, hreset]

/-! ## Software writes as commands -/

/-- A register write of a requester whose port is open has the outcome of its effect (R7, R11). -/
theorem exec_write32 {s : State} {who : Requester} {off b : Nat} (ha : s.admitted who) (h : rowAt off b 32)
    (hn : s.noHostReg off = false) (hm : b ≠ 0x2000030 ∧ b ≠ 0xD000020) (v : Word32) (env : Env) :
    exec (.registerWrite who off (.w32 v) env) s = .next (s.keep ((s.setPort who {}).effectAt b off (v.zeroExtend 64) env)) := by
  obtain ⟨hl, hx, hp⟩ := ha
  show part (s.reqExists who) (s.run (s.regWrite who off (.w32 v) env)) = _
  rw [part_true hx, State.run_live _ hl, State.regWrite_w32 who v env h hn hp hm]

theorem exec_write64 {s : State} {who : Requester} {off b : Nat} (ha : s.admitted who) (h : rowAt off b 64)
    (hn : s.noHostReg off = false) (hm : b ≠ 0x2000030 ∧ b ≠ 0xD000020) (v : Word) (env : Env) :
    exec (.registerWrite who off (.w64 v) env) s = .next (s.keep ((s.setPort who {}).effectAt b off v env)) := by
  obtain ⟨hl, hx, hp⟩ := ha
  show part (s.reqExists who) (s.run (s.regWrite who off (.w64 v) env)) = _
  rw [part_true hx, State.run_live _ hl, State.regWrite_w64 who v env h hn hp hm]

/-! ## Action registers (R508) -/

theorem actionBits_zeroExtend (k : Nat) (v : Word32) : actionBits k (v.zeroExtend 64) = popCount k (v.toNat % 2 ^ k) := by
  have hv : (v.zeroExtend 64).toNat = v.toNat := by
    rw [BitVec.zeroExtend, BitVec.toNat_setWidth, Nat.mod_eq_of_lt (by omega)]
  rw [actionBits, hv]

theorem popCount_zero (k : Nat) : popCount k 0 = 0 := by
  induction k with
  | zero => rfl
  | succ k ih => simp [popCount, ih]

theorem State.rteCtrl_several {s : State} {v : Word} (env : Env) (h : 2 ≤ actionBits 3 v) : s.rteCtrl v env = s.rteReject := by
  rw [State.rteCtrl, if_neg (by omega), if_pos (by omega)]

theorem State.rteCtrl_none {s : State} {v : Word} (env : Env) (h : actionBits 3 v = 0) : s.rteCtrl v env = s := if_pos h

theorem State.sqCtrl_several {s : State} {q : Nat} {v : Word} (env : Env) (h : 2 ≤ actionBits 3 v) : s.sqCtrl q v env = s.queueReject q := by
  rw [State.sqCtrl, if_neg (by omega), if_pos (by omega)]

theorem State.sqCtrl_none {s : State} {q : Nat} {v : Word} (env : Env) (h : actionBits 3 v = 0) : s.sqCtrl q v env = s := if_pos h

theorem State.kvCtrl_several {s : State} {r : Nat} {v : Word} (h : 2 ≤ actionBits 2 v) :
    s.kvCtrl r v = s.raise (Reg.ATT_KV_EVENT r) 4 (Reg.ATT_KV_EVENT_CNT1 r) 0 := by
  rw [State.kvCtrl, if_neg (by omega), if_pos (by omega)]
  rfl

theorem State.kvCtrl_none {s : State} {r : Nat} {v : Word} (h : actionBits 2 v = 0) : s.kvCtrl r v = s := if_pos h

theorem State.setPort_keep (s : State) (who : Requester) (p : Port) : s.keep (s.setPort who p) = s.setPort who p := rfl

/-- What raising a flag makes of the requester's state keeps the waiting commands and the fuses. -/
theorem State.keep_setPort_raise (s : State) (who : Requester) (p : Port) (flag i cnt lo : Nat) :
    s.keep ((s.setPort who p).raise flag i cnt lo) = (s.setPort who p).raise flag i cnt lo :=
  State.keep_of_eq (by simp [State.setPort]) (by simp [State.setPort])

theorem State.rteReject_setPort (s : State) (who : Requester) (p : Port) :
    (s.setPort who p).rteReject = ((s.setPort who p).raise Reg.RTE_EVENT 4 Reg.RTE_EVENT_CNT1 0).postStep slotLoader
      (s.reg Reg.RTE_SEQ).toNat 0x0104 1
      (s.fld Reg.RTE_STATUS 31 24 + s.fld Reg.RTE_ERR 63 48 * 2 ^ 8 + s.fld Reg.RTE_ERR 31 0 * 2 ^ 24) := by
  have hreg (o : Nat) : (s.setPort who p).reg o = s.reg o := State.reg_of_regs rfl o
  have hfld (o hi lo : Nat) : (s.setPort who p).fld o hi lo = s.fld o hi lo := State.fld_of_regs rfl o hi lo
  rw [State.rteReject, State.rteArg, hreg, hfld, hfld, hfld, Nat.zero_mul, Nat.add_zero]

theorem State.keep_rteReject (s : State) (who : Requester) (p : Port) : s.keep (s.setPort who p).rteReject = (s.setPort who p).rteReject :=
  State.keep_of_eq (by simp [State.rteReject, State.setPort]) (by simp [State.rteReject, State.setPort])

/-- Settles O11: a write of an action register acts by how many of its action bits it sets. -/
theorem actionBitsOneAtATime : Obligations.ActionBitsOneAtATime := by
  unfold Obligations.ActionBitsOneAtATime
  intro who v env s ha
  have hrte := exec_write32 ha rowAt_rteCtrl (s.noHostReg_out (.inl (by decide))) (by decide) v env
  have hsq (q : Nat) (hq : q < 2048) := exec_write32 ha (rowAt_sqCtrl hq) (State.noHostReg_sqCtrl s hq) (by decide) v env
  have hkv (r : Nat) (hr : r < 16) := exec_write32 ha (rowAt_kvCtrl hr)
    (s.noHostReg_out (.inl (by unfold Reg.ATT_KV_CTRL; omega))) (by decide) v env
  simp only [effectAt_rteCtrl, effectAt_sqCtrl, effectAt_kvCtrl] at hrte hsq hkv
  refine ⟨fun h => ?several, fun h => ?none, fun r hr => ⟨fun h => ?kvSeveral, fun h => ?kvNone⟩⟩
  case several =>
    have hbits : 2 ≤ actionBits 3 (v.zeroExtend 64) := by rwa [actionBits_zeroExtend]
    refine ⟨?_, fun q hq => ?_⟩
    · rw [hrte, State.rteCtrl_several env hbits, State.keep_rteReject, State.rteReject_setPort]
    · rw [hsq q hq, State.sqCtrl_several env hbits, State.queueReject, State.keep_setPort_raise]
  case none =>
    have hbits : actionBits 3 (v.zeroExtend 64) = 0 := by
      rw [actionBits_zeroExtend, show v.toNat % 2 ^ 3 = 0 from h, popCount_zero]
    refine ⟨?_, fun q hq => ?_⟩
    · rw [hrte, State.rteCtrl_none env hbits, State.setPort_keep]
    · rw [hsq q hq, State.sqCtrl_none env hbits, State.setPort_keep]
  case kvSeveral =>
    have hbits : 2 ≤ actionBits 2 (v.zeroExtend 64) := by
      rw [actionBits_zeroExtend, show v.toNat % 2 ^ 2 = 3 from h]; decide
    rw [hkv r hr, State.kvCtrl_several hbits, State.keep_setPort_raise]
  case kvNone =>
    have hbits : actionBits 2 (v.zeroExtend 64) = 0 := by
      rw [actionBits_zeroExtend, show v.toNat % 2 ^ 2 = 0 from h, popCount_zero]
    rw [hkv r hr, State.kvCtrl_none hbits, State.setPort_keep]

end Sys2Proof.Machine

namespace Sys2Proof.Machine

/-! ## Commands that are writes of one register -/

/-- A command of a requester on a part that exists has the outcome of its register write. -/
theorem part_write {s : State} {who : Requester} {has : Bool} {off : Nat} {d : WData} {env : Env} (h : has = true) :
    part (s.reqExists who && has) (s.run (s.regWrite who off d env)) = exec (.registerWrite who off d env) s := by
  rw [h, Bool.and_true]; rfl

/-- Fields that stand side by side weigh as in a number of that width. -/
theorem toNat_append_eq {n m : Nat} (x : BitVec n) (y : BitVec m) : (x ++ y).toNat = x.toNat * 2 ^ m + y.toNat := by
  rw [BitVec.toNat_append, ← Nat.shiftLeft_add_eq_or_of_lt y.isLt, Nat.shiftLeft_eq]

/-- The words of the seal operations, their fields in the order of MEM_SEAL_OP (R266, R267, R269). -/
theorem sealOpWord_seal (first count : BitVec 20) :
    sealOpWord 1 0 0 0 count.toNat first.toNat = (1 : BitVec 2) ++ (0 : BitVec 22) ++ count ++ first := by
  refine BitVec.eq_of_toNat_eq ?_
  have := first.isLt; have := count.isLt
  simp only [sealOpWord, toNat_append_eq, BitVec.ofNat_eq_ofNat, BitVec.toNat_ofNat]
  norm_num
  omega

theorem sealOpWord_unseal (first count : BitVec 20) :
    sealOpWord 2 0 0 0 count.toNat first.toNat = (2 : BitVec 2) ++ (0 : BitVec 22) ++ count ++ first := by
  refine BitVec.eq_of_toNat_eq ?_
  have := first.isLt; have := count.isLt
  simp only [sealOpWord, toNat_append_eq, BitVec.ofNat_eq_ofNat, BitVec.toNat_ofNat]
  norm_num
  omega

theorem sealOpWord_spillSeal (host : BitVec 3) (slot : BitVec 4) (first count : BitVec 20) :
    sealOpWord 1 1 slot.toNat host.toNat count.toNat first.toNat =
      (3 : BitVec 3) ++ slot ++ host ++ (0 : BitVec 14) ++ count ++ first := by
  refine BitVec.eq_of_toNat_eq ?_
  have := first.isLt; have := count.isLt; have := host.isLt; have := slot.isLt
  simp only [sealOpWord, toNat_append_eq, BitVec.ofNat_eq_ofNat, BitVec.toNat_ofNat]
  norm_num
  omega

theorem sealOpWord_spillUnseal (host : BitVec 3) (slot : BitVec 4) :
    sealOpWord 2 1 slot.toNat host.toNat 0 0 = (5 : BitVec 3) ++ slot ++ host ++ (0 : BitVec 54) := by
  refine BitVec.eq_of_toNat_eq ?_
  have := host.isLt; have := slot.isLt
  simp only [sealOpWord, toNat_append_eq, BitVec.ofNat_eq_ofNat, BitVec.toNat_ofNat]
  norm_num
  omega

/-- Settles O14: each command runs the write of its register, of a value whose other fields are 0. -/
theorem registerCommandsAreWrites : Obligations.RegisterCommandsAreWrites := by
  unfold Obligations.RegisterCommandsAreWrites
  intro who s env k v d first count host slot w
  refine ⟨rfl, rfl, rfl, fun hk => ?queue, fun hk => ?anchor, fun hk => ?pool, ?sealPages, ?unsealPages, ?spillSeal, ?spillUnseal,
    ?toDevice, fun hk base => ?spill, fun hk => ?port,
    fun hk => ?party, fun hk => ?mailbox, fun e => ?ack, rfl, fun a => ?log, fun opp spread => ?opp, fun key keep => ?reset⟩
  case queue =>
    have hq : queueOk k = true := decide_eq_true hk
    exact ⟨part_write hq, part_write hq, part_write hq, part_write hq, part_write hq⟩
  case anchor =>
    have ha : anchorOk k = true := decide_eq_true hk
    exact ⟨part_write ha, part_write ha⟩
  case pool =>
    have hr : ropeOk k = true := decide_eq_true hk
    exact ⟨part_write hr, part_write hr, part_write hr⟩
  case spill => exact part_write (decide_eq_true hk)
  case port =>
    have hp : portOk k = true := decide_eq_true hk
    exact ⟨part_write hp, part_write hp, part_write hp⟩
  case party => exact part_write (decide_eq_true hk)
  case mailbox =>
    have hm : mailboxOk k = true := decide_eq_true hk
    exact ⟨part_write hm, part_write hm⟩
  case sealPages =>
    show part (s.reqExists who) (s.run (s.regWrite who Reg.MEM_SEAL_OP (.w64 (sealOpWord 1 0 0 0 count.toNat first.toNat)) {})) = _
    rw [sealOpWord_seal]; rfl
  case unsealPages =>
    show part (s.reqExists who) (s.run (s.regWrite who Reg.MEM_SEAL_OP (.w64 (sealOpWord 2 0 0 0 count.toNat first.toNat)) {})) = _
    rw [sealOpWord_unseal]; rfl
  case spillSeal =>
    show part (s.reqExists who) (s.run (s.regWrite who Reg.MEM_SEAL_OP
      (.w64 (sealOpWord 1 1 slot.toNat host.toNat count.toNat first.toNat)) {})) = _
    rw [sealOpWord_spillSeal]; rfl
  case spillUnseal =>
    show part (s.reqExists who) (s.run (s.regWrite who Reg.MEM_SEAL_OP (.w64 (sealOpWord 2 1 slot.toNat host.toNat 0 0)) {})) = _
    rw [sealOpWord_spillUnseal]; rfl
  case toDevice =>
    refine congrArg (fun x => w Reg.HST_BIAS_OP (.w64 x) {}) (BitVec.eq_of_toNat_eq ?_)
    have := first.isLt; have := count.isLt
    simp only [toNat_append_eq, BitVec.ofNat_eq_ofNat, BitVec.toNat_ofNat]
    norm_num
    omega
  case ack =>
    refine congrArg (fun x => w Reg.SIO_ALARM_ACK (.w32 x) {}) (BitVec.eq_of_toNat_eq ?_)
    have := e.isLt
    simp only [toNat_append_eq, BitVec.ofNat_eq_ofNat, BitVec.toNat_ofNat, BitVec.zeroExtend, BitVec.toNat_setWidth]
    omega
  case log =>
    refine congrArg (fun x => w Reg.SIO_LOG_BASE (.w64 x) env) (BitVec.eq_of_toNat_eq ?_)
    have := a.isLt
    simp only [toNat_append_eq, BitVec.ofNat_eq_ofNat, BitVec.toNat_ofNat]
    norm_num
    omega
  case opp =>
    refine congrArg (fun x => w Reg.CLK_CTRL (.w32 x) {}) (BitVec.eq_of_toNat_eq ?_)
    have := opp.isLt; have := spread.isLt
    simp only [toNat_append_eq, BitVec.ofNat_eq_ofNat, BitVec.toNat_ofNat]
    norm_num
    omega
  case reset =>
    refine congrArg (fun x => w Reg.CLK_RESET (.w32 x) {}) (BitVec.eq_of_toNat_eq ?_)
    have := key.isLt
    cases keep <;> simp only [toNat_append_eq, BitVec.ofNat_eq_ofNat, BitVec.toNat_ofNat, BitVec.toNat_ofBool] <;> norm_num <;> omega
end Sys2Proof.Machine

namespace Sys2Proof.Machine

/-! ## Split accesses and accesses that are counted (R11, R12) -/

theorem State.port_setPort_self (s : State) (who : Requester) (p : Port) : (s.setPort who p).port who = p := mget_mset_self _ _ _ _

theorem State.port_setPort_ne (s : State) {who w : Requester} (p : Port) (h : reqNum w ≠ reqNum who) : (s.setPort who p).port w = s.port w :=
  mget_mset_ne _ _ _ h

theorem State.port_emit (s : State) (o : Out) (who : Requester) : (s.emit o).port who = s.port who := rfl

theorem State.keep_setPort_emit (s : State) (who : Requester) (p : Port) (o : Out) :
    s.keep ((s.setPort who p).emit o) = (s.setPort who p).emit o := rfl

/-- The registers whose read takes a message are 32-bit registers. -/
theorem width_take : ∀ slot < 17, ∀ r ∈ slotTable slot, r.base = Reg.MBX_DN_TAKE 0 ∨ r.base = Reg.MBX_UP_TAKE 0 → r.width = 32 := by
  decide

theorem findReg_mem {off : Nat} {r : RegDesc} (h : findReg off = some r) : off / 0x1000000 < 17 ∧ r ∈ slotTable (off / 0x1000000) := by
  have hmem : r ∈ slotTable (off / 0x1000000) := List.mem_of_find?_eq_some h
  refine ⟨?_, hmem⟩
  by_contra hslot
  have hnone : slotTable (off / 0x1000000) = [] := by
    obtain ⟨k, hk⟩ := Nat.exists_eq_add_of_le' (Nat.not_lt.mp hslot)
    rw [hk]; rfl
  rw [hnone] at hmem
  cases hmem

theorem not_take_of_width {off : Nat} {r : RegDesc} (h : findReg off = some r) (hw : r.width = 64) :
    r.base ≠ Reg.MBX_DN_TAKE 0 ∧ r.base ≠ Reg.MBX_UP_TAKE 0 := by
  obtain ⟨hslot, hmem⟩ := findReg_mem h
  have htake := width_take _ hslot r hmem
  rw [hw] at htake
  exact not_or.mp fun hbase => absurd (htake hbase) (by decide)

theorem State.unmapped_pending (s : State) (who : Requester) (off : Nat) : (s.unmapped who off).pending = s.pending := by simp [State.unmapped]
theorem State.unmapped_fuses (s : State) (who : Requester) (off : Nat) : (s.unmapped who off).fuses = s.fuses := by simp [State.unmapped]

theorem State.keep_unmapped (s : State) (who : Requester) (p : Port) (off : Nat) :
    s.keep ((s.setPort who p).unmapped who off) = (s.setPort who p).unmapped who off :=
  State.keep_of_eq (State.unmapped_pending _ _ _) (State.unmapped_fuses _ _ _)

theorem State.keep_unmapped_emit (s : State) (who : Requester) (p : Port) (off : Nat) (o : Out) :
    s.keep (((s.setPort who p).unmapped who off).emit o) = ((s.setPort who p).unmapped who off).emit o :=
  State.keep_of_eq ((State.emit_pending _ _).trans (State.unmapped_pending _ _ _)) ((State.emit_fuses _ _).trans (State.unmapped_fuses _ _ _))

/-- What R12 counts: the count of accesses and the last one's address and requester. -/
theorem State.fld_unmapped (s : State) (who : Requester) (off : Nat) :
    (s.unmapped who off).fld Reg.SYS_STATUS 63 32 = (s.fld Reg.SYS_STATUS 63 32 + 1) % 2 ^ 32 := by
  rw [State.unmapped, State.fld_post _ _ _ _ _ _ _ (by decide), State.fld_setReg_ne _ _ _ _ (by decide),
    State.fld_addFld_self _ _ _ (by decide) (by decide)]

theorem State.reg_unmapped (s : State) (who : Requester) (off : Nat) :
    ((s.unmapped who off).reg Reg.SYS_UNMAPPED_ADDR).toNat = reqNum who % 256 * 2 ^ 56 + (regBase + off) % 2 ^ 52 := by
  rw [State.unmapped, State.reg_post _ _ _ _ _ (by decide), State.reg_setReg_self, BitVec.toNat_ofNat]
  omega

theorem State.unmapped_event (s : State) (who : Requester) (off : Nat) :
    ∃ u : State, s.unmapped who off = u.post (reqSlot who) 0x0001 1 ((regBase + off) % 2 ^ 52 + reqNum who * 2 ^ 56) :=
  ⟨(s.addFld Reg.SYS_STATUS 63 32 1).setReg Reg.SYS_UNMAPPED_ADDR (BitVec.ofNat 64 (reqNum who * 2 ^ 56 + (regBase + off) % 2 ^ 52)), rfl⟩

/-- An access of an admitted requester has the outcome of what it asks for. -/
theorem exec_splitLowWrite {s : State} {who : Requester} (ha : s.admitted who) (off : Nat) (v : Word32) :
    exec (.splitLowWrite who off v) s = .next (s.keep (s.write32 who off v)) := by
  obtain ⟨hl, hx, hp⟩ := ha
  show part (s.reqExists who) (s.run (s.portRun (s.write32 who off v) who (.write32 who off v))) = _
  rw [part_true hx, State.portRun_open hp, State.run_live _ hl]

theorem exec_splitLowRead {s : State} {who : Requester} (ha : s.admitted who) (off : Nat) :
    exec (.splitLowRead who off) s = .next (s.keep (s.read32 who off)) := by
  obtain ⟨hl, hx, hp⟩ := ha
  show part (s.reqExists who) (s.run (s.portRun (s.read32 who off) who (.read32 who off))) = _
  rw [part_true hx, State.portRun_open hp, State.run_live _ hl]

theorem exec_unmappedAccess {s : State} {who : Requester} (ha : s.admitted who) (off size : Nat) (write : Bool) :
    exec (.unmappedAccess who off size write) s = .next (s.keep (s.badAccess who off size write)) := by
  obtain ⟨hl, hx, hp⟩ := ha
  show part (s.reqExists who) (s.run (s.portRun (s.badAccess who off size write) who (.unmapped who off size write))) = _
  rw [part_true hx, State.portRun_open hp, State.run_live _ hl]

theorem exec_registerWrite_plain {s : State} {who : Requester} (ha : s.admitted who) {off : Nat} {r : RegDesc} (hr : findReg off = some r)
    (hm : writesMemory off = false) (d : WData) (env : Env) :
    exec (.registerWrite who off d env) s = .next (s.keep (s.regDo who off d env)) := by
  obtain ⟨hl, hx, hp⟩ := ha
  have hdrained : s.drained (s.regDo who off d env) off = false := by
    simp only [writesMemory, hr, Bool.or_eq_false_iff] at hm
    simp [State.drained, hr, hm.1]
  show part (s.reqExists who) (s.run (s.regWrite who off d env)) = _
  rw [part_true hx, State.run_live _ hl, State.regWrite, hm, State.portRun_open hp]
  simp [hdrained]

/-- The second half of a split write brings the value that one 64-bit write brings (R11). -/
theorem State.regDo_split {s : State} {who : Requester} {off : Nat} {r : RegDesc} (hr : findReg off = some r) (hw : r.width = 64)
    (hn : s.noHostReg off = false) {l : Word32} (hlow : (s.port who).low = some (off, l)) (h : Word32) (env : Env) :
    s.regDo who off (.w32 h) env = s.regDo who off (.w64 (h ++ l)) env := by
  simp [State.regDo, State.accWrite, hr, hw, hn, hlow]

theorem State.regWrite_split {s : State} {who : Requester} {off : Nat} {r : RegDesc} (hr : findReg off = some r) (hw : r.width = 64)
    (hn : s.noHostReg off = false) {l : Word32} (hlow : (s.port who).low = some (off, l)) (hp : s.portHeld who = false) (h : Word32) (env : Env) :
    s.regWrite who off (.w32 h) env = s.regWrite who off (.w64 (h ++ l)) env := by
  have hsettle : s.settle (.req (reqNum who)) env (fun s => s.regDo who off (.w32 h) env) =
      s.settle (.req (reqNum who)) env (fun s => s.regDo who off (.w64 (h ++ l)) env) :=
    State.settle_congr (State.regDo_split (s := { s with env := env, token := .req (reqNum who), needs := [] }) hr hw hn hlow h env)
  simp only [State.regWrite, hsettle, State.regDo_split hr hw hn hlow h env, State.portRun_open hp]

/-- A high half without its low half is counted (R11, R12). -/
theorem State.regDo_highAlone {s : State} {who : Requester} {off : Nat} {r : RegDesc} (hr : findReg off = some r) (hw : r.width = 64)
    (hn : s.noHostReg off = false) (hlow : ∀ l, (s.port who).low ≠ some (off, l)) (h : Word32) (env : Env) :
    s.regDo who off (.w32 h) env = (s.setPort who {}).unmapped who (off + 4) := by
  cases hl : (s.port who).low with
  | none => simp [State.regDo, State.accWrite, hr, hw, hn, hl]
  | some e =>
    obtain ⟨o, l⟩ := e
    have ho : o ≠ off := fun ho => hlow l (by rw [hl, ho])
    simp [State.regDo, State.accWrite, hr, hw, hn, hl, ho]

theorem State.write32_low {s : State} {off : Nat} {r : RegDesc} (who : Requester) (hr : findReg off = some r) (hw : r.width = 64)
    (hn : s.noHostReg off = false) (l : Word32) : s.write32 who off l = s.setPort who { low := some (off, l) } := by
  simp [State.write32, State.holdLow, hr, hw, hn]

theorem State.read32_low {s : State} {off : Nat} {r : RegDesc} (who : Requester) (hr : findReg off = some r) (hw : r.width = 64)
    (hn : s.noHostReg off = false) (h4 : off % 4 = 0) :
    s.read32 who off = (s.setPort who { s.port who with latch := some (off, BitVec.ofNat 32 (highHalf (s.view off))) }).emit
      (.regRead who off (lowHalf (s.view off))) := by
  obtain ⟨hdn, hup⟩ := not_take_of_width hr hw
  simp [State.read32, hr, hw, hn, h4, hdn, hup]

theorem State.read32_high {s : State} {off : Nat} {r : RegDesc} {who : Requester} {h : Word32} (hr : findReg off = some r) (hw : r.width = 64)
    (h8 : off % 8 = 0) (hnone : findReg (off + 4) = none) (hn : s.noHostReg (off + 4) = false) (hlatch : (s.port who).latch = some (off, h)) :
    s.read32 who (off + 4) = (s.endLatch who).emit (.regRead who (off + 4) h.toNat) := by
  have h4 : (off + 4) % 4 = 0 := by omega
  simp [State.read32, hnone, hr, hw, hn, h4, h8, hlatch]

/-- Settles O9: each access is its model's case, and what R12 counts is a field, an address and one event. -/
theorem registerAccesses : Obligations.RegisterAccesses := by
  unfold Obligations.RegisterAccesses
  refine ⟨fun who off r s ha hn hr hw => ⟨fun l => ?lowWrite, fun l h env hlow => ?split, fun h env hm hlow => ?alone, fun h4 => ?lowRead,
    fun h h8 hnone hn4 hlatch => ?highRead⟩, fun who off size s ha => ⟨fun hbad => ?counted, fun hwell hnh => ?wellFormed, ?count, ?address, ?event⟩⟩
  case lowWrite =>
    rw [exec_splitLowWrite ha, State.write32_low who hr hw hn, State.setPort_keep]
    exact ⟨_, rfl, s.port_setPort_self who _, fun w h => s.port_setPort_ne _ h, rfl⟩
  case split =>
    obtain ⟨hl, hx, hp⟩ := ha
    show part (s.reqExists who) (s.run (s.regWrite who off _ env)) = part (s.reqExists who) (s.run (s.regWrite who off _ env))
    rw [State.regWrite_split hr hw hn hlow hp]
  case alone =>
    rw [exec_registerWrite_plain ha hr hm, State.regDo_highAlone hr hw hn hlow, State.keep_unmapped]
  case lowRead =>
    rw [exec_splitLowRead ha, State.read32_low who hr hw hn h4, State.keep_setPort_emit]
    exact ⟨_, rfl, rfl, by rw [State.port_emit, State.port_setPort_self]; rfl, by rw [State.port_emit, State.port_setPort_self], rfl⟩
  case highRead =>
    rw [exec_splitLowRead ha, State.read32_high hr hw h8 hnone hn4 hlatch, State.endLatch, State.keep_setPort_emit]
    exact ⟨_, rfl, rfl, by rw [State.port_emit, State.port_setPort_self], rfl⟩
  case counted =>
    rw [exec_unmappedAccess ha, exec_unmappedAccess ha]
    simp only [State.badAccess, hbad, if_true, Bool.false_eq_true, if_false, State.badRead, State.keep_unmapped, true_and]
    rw [State.endLatch, State.keep_unmapped_emit]
  case wellFormed =>
    have hgood : ¬ (illFormed size off = true ∨ s.noHostReg off = true) := by simp [hwell, hnh]
    rw [exec_unmappedAccess ha, exec_unmappedAccess ha, exec_splitLowRead ha]
    simp only [State.badAccess, hgood, if_false, if_true, Bool.false_eq_true]
    refine ⟨by rw [State.keep_self], fun h8 => ?_, fun h8 => ?_⟩
    · rw [if_pos h8, State.read64, State.endLatch, State.keep_setPort_emit]
    · rw [if_neg h8]
  case count => exact s.fld_unmapped who off
  case address => exact s.reg_unmapped who off
  case event => exact s.unmapped_event who off

end Sys2Proof.Machine

namespace Sys2Proof.Machine

/-! ## What a software write makes of each bit (R7) -/

/-- The fields of a register lie apart inside its 64 bits, and it is 32 or 64 bits wide. -/
def RegDesc.sound (r : RegDesc) : Prop :=
  (r.width = 32 ∨ r.width = 64) ∧ r.fields.Pairwise (fun f g => f.hi < g.lo ∨ g.hi < f.lo) ∧ ∀ f ∈ r.fields, f.hi < 64

theorem slotTable_sound : ∀ slot < 17, ∀ r ∈ slotTable slot, r.sound := by
  unfold RegDesc.sound
  decide

theorem findReg_sound {off : Nat} {r : RegDesc} (h : findReg off = some r) : r.sound :=
  slotTable_sound _ (findReg_mem h).1 r (findReg_mem h).2

theorem RegDesc.sound.field_unique {r : RegDesc} (h : r.sound) {f g : Fld} (hf : f ∈ r.fields) (hg : g ∈ r.fields) {i : Nat}
    (hfi : f.lo ≤ i ∧ i ≤ f.hi) (hgi : g.lo ≤ i ∧ i ≤ g.hi) : f = g := by
  by_contra hne
  have hsymm : Std.Symm (fun a b : Fld => a.hi < b.lo ∨ b.hi < a.lo) := ⟨fun _ _ h => h.symm⟩
  have hapart := h.2.1.forall hf hg hne
  omega

theorem testBit_accMask (acc : Access) (fs : List Fld) (i : Nat) :
    (accMask acc fs).testBit i = fs.any (fun f => f.acc == acc && decide (f.lo ≤ i ∧ i ≤ f.hi)) := by
  induction fs with
  | nil => simp [accMask]
  | cons f fs ih =>
    rw [accMask, Nat.testBit_or, ih, List.any_cons]
    congr 1
    by_cases hacc : f.acc = acc
    · simp only [hacc, if_true, Nat.testBit_shiftLeft, Nat.testBit_two_pow_sub_one, BEq.rfl, Bool.true_and]
      by_cases hlo : f.lo ≤ i <;> simp [hlo]
      omega
    · simp [hacc]

/-- A write by access types, bit by bit. -/
theorem getLsbD_writeFields {fs : List Fld} (old v : Word) {i : Nat} (hi : i < 64) :
    (writeFields fs old v).getLsbD i =
      ((((old.getLsbD i && !(accMask .rw fs).testBit i) || (v.getLsbD i && (accMask .rw fs).testBit i)) &&
        !(v.getLsbD i && (accMask .w1c fs).testBit i)) || (v.getLsbD i && (accMask .w1s fs).testBit i)) := by
  simp only [writeFields, BitVec.getLsbD_or, BitVec.getLsbD_and, BitVec.getLsbD_not, BitVec.getLsbD_ofNat, hi, decide_true, Bool.true_and]

theorem writtenBit_eq (acc : Access) (a b : Bool) :
    ((((a && !(acc == .rw)) || (b && acc == .rw)) && !(b && acc == .w1c)) || (b && acc == .w1s)) = writtenBit acc a b := by
  revert a b
  cases acc <;> decide

theorem getLsbD_writeFields_mem {r : RegDesc} (h : r.sound) {f : Fld} (hf : f ∈ r.fields) (old v : Word) {i : Nat} (hlo : f.lo ≤ i) (hhi : i ≤ f.hi) :
    (writeFields r.fields old v).getLsbD i = writtenBit f.acc (old.getLsbD i) (v.getLsbD i) := by
  have hmask (acc : Access) : (accMask acc r.fields).testBit i = (f.acc == acc) := by
    rw [testBit_accMask, Bool.eq_iff_iff]
    simp only [List.any_eq_true, Bool.and_eq_true, beq_iff_eq, decide_eq_true_eq]
    exact ⟨fun ⟨g, hg, hacc, hgi⟩ => (h.field_unique hf hg ⟨hlo, hhi⟩ hgi) ▸ hacc, fun hacc => ⟨f, hf, hacc, hlo, hhi⟩⟩
  rw [getLsbD_writeFields old v (by have := h.2.2 f hf; omega), hmask, hmask, hmask]
  exact writtenBit_eq f.acc _ _

theorem getLsbD_writeFields_out {fs : List Fld} (old v : Word) {i : Nat} (hout : ∀ f ∈ fs, i < f.lo ∨ f.hi < i) :
    (writeFields fs old v).getLsbD i = old.getLsbD i := by
  by_cases hi : i < 64
  · have hmask (acc : Access) : (accMask acc fs).testBit i = false := by
      rw [testBit_accMask, List.any_eq_false]
      intro f hf
      have := hout f hf
      simp only [Bool.and_eq_true, decide_eq_true_eq, not_and]
      omega
    rw [getLsbD_writeFields old v hi, hmask, hmask, hmask]
    simp
  · rw [BitVec.getLsbD_of_ge _ _ (by omega), BitVec.getLsbD_of_ge _ _ (by omega)]

/-- Bits that RW fields cover take what is written. -/
theorem fget_writeFields {r : RegDesc} (h : r.sound) {hi lo : Nat} (hc : ∀ j < hi + 1, lo ≤ j → ∃ f ∈ r.fields, f.acc = .rw ∧ f.lo ≤ j ∧ j ≤ f.hi)
    (old v : Word) : fget (writeFields r.fields old v) hi lo = fget v hi lo := by
  refine Nat.eq_of_testBit_eq fun k => ?_
  simp only [fget, bits, Nat.testBit_mod_two_pow, Nat.testBit_div_two_pow]
  by_cases hk : k < hi + 1 - lo
  · obtain ⟨f, hf, hacc, hlo, hhi⟩ := hc (k + lo) (by omega) (by omega)
    have hbit := getLsbD_writeFields_mem h hf old v hlo hhi
    rw [hacc] at hbit
    simp only [hk, decide_true, Bool.true_and]
    exact hbit
  · simp [hk]

/-! ## A write of a value reaches its effect -/

theorem State.regDo_value {s : State} {who : Requester} {off : Nat} {r : RegDesc} {v : Word} (hr : findReg off = some r)
    (hn : s.noHostReg off = false) (hv : r.width = 32 → v.toNat < 2 ^ 32) (env : Env) :
    s.regDo who off (writeOf r.width v) env = (s.setPort who {}).effectAt r.base off v env := by
  rcases (findReg_sound hr).1 with hw | hw
  · have hzero : (v.truncate 32).zeroExtend 64 = v := by
      apply BitVec.eq_of_toNat_eq
      have := hv hw
      rw [BitVec.zeroExtend, BitVec.truncate, BitVec.toNat_setWidth, BitVec.toNat_setWidth]
      omega
    rw [writeOf, hw, if_neg (by decide), State.regDo_w32 who _ env ⟨r, hr, rfl, hw⟩ hn, hzero]
  · rw [writeOf, hw, if_pos rfl, State.regDo_w64 who _ env ⟨r, hr, rfl, hw⟩ hn]

/-- A register whose write has no further effect is written by its access types. -/
theorem State.effectAt_plain (s : State) {b : Nat} (hb : b ∉ actingRegs) (off : Nat) (v : Word) (env : Env) :
    s.effectAt b off v env = s.writePlain off v := by
  simp only [actingRegs, List.mem_cons, not_or, List.not_mem_nil, not_false_eq_true, and_true] at hb
  simp [State.effectAt, State.effectQueues, State.effectEngines, State.effectHosts, State.effectSiolo, hb]

theorem State.regWrite_value {s : State} {who : Requester} {off : Nat} {r : RegDesc} {v : Word} (hr : findReg off = some r)
    (hn : s.noHostReg off = false) (hp : s.portHeld who = false) (hm : r.base ≠ 0x2000030 ∧ r.base ≠ 0xD000020)
    (hv : r.width = 32 → v.toNat < 2 ^ 32) (env : Env) :
    s.regWrite who off (writeOf r.width v) env = (s.setPort who {}).effectAt r.base off v env := by
  rw [State.regWrite_plain who _ env ⟨r, hr, rfl, rfl⟩ hp hm, State.regDo_value hr hn hv]

theorem exec_registerWrite {s : State} {who : Requester} (ha : s.admitted who) (off : Nat) (d : WData) (env : Env) :
    exec (.registerWrite who off d env) s = .next (s.keep (s.regWrite who off d env)) := by
  obtain ⟨hl, hx, -⟩ := ha
  show part (s.reqExists who) (s.run (s.regWrite who off d env)) = _
  rw [part_true hx, State.run_live _ hl]

theorem State.writePlain_eq (s : State) {off : Nat} {r : RegDesc} (hr : findReg off = some r) (v : Word) :
    s.writePlain off v = s.setReg off (writeFields r.fields (s.reg off) v) := by rw [State.writePlain, hr]

theorem State.reg_writePlain_self (s : State) {off : Nat} {r : RegDesc} (hr : findReg off = some r) (v : Word) :
    (s.writePlain off v).reg off = writeFields r.fields (s.reg off) v := by rw [s.writePlain_eq hr, State.reg_setReg_self]

theorem State.reg_writePlain_ne (s : State) {off o : Nat} (v : Word) (h : o ≠ off) : (s.writePlain off v).reg o = s.reg o := by
  unfold State.writePlain
  split
  · exact s.reg_setReg_ne _ h
  · rfl

theorem State.writePlain_frame (s : State) (off : Nat) (v : Word) : s.writePlain off v = { s with regs := (s.writePlain off v).regs } := by
  unfold State.writePlain
  split <;> rfl

/-! ## Registers that bound or refuse a write -/

theorem effectAt_walkCfg (s : State) (off : Nat) (v : Word) (env : Env) : s.effectAt 0x6810000 off v env = s.walkCfgWrite v := rfl
theorem effectAt_hstCfg (s : State) (off : Nat) (v : Word) (env : Env) :
    s.effectAt 0xB800000 off v env = s.setFld off 15 0 (max 10 (fget v 15 0)) := rfl
theorem effectAt_pwrCap (s : State) (off : Nat) (v : Word) (env : Env) : s.effectAt Reg.PWR_CAP off v env = s.capWrite v := rfl
theorem effectAt_thermCfg (s : State) (off : Nat) (v : Word) (env : Env) : s.effectAt 0xD000010 off v env = s.thermWrite v := rfl
theorem effectAt_lnkCfg (s : State) (off : Nat) (v : Word) (env : Env) :
    s.effectAt 0xA810000 off v env = (s.writePlain off v).setFld off 31 16 (max 1 (fget v 31 16)) := rfl
theorem effectAt_mbxCfg (s : State) (off : Nat) (v : Word) (env : Env) :
    s.effectAt 0xC000108 off v env = (s.writePlain off v).setFld off 31 16 (max 1 (fget v 31 16)) := rfl

theorem effectAt_ocLimit (s : State) (k : Nat) (v : Word) (env : Env) :
    s.effectAt 0xD000100 (Reg.SIO_OC_LIMIT k) v env = s.ocWrite k (fget v 15 0) := by
  rw [show s.effectAt 0xD000100 (Reg.SIO_OC_LIMIT k) v env = s.ocWrite (regIndex 0xD000100 4 (Reg.SIO_OC_LIMIT k)) (fget v 15 0) from rfl,
    Reg.SIO_OC_LIMIT, regIndex_at (by decide)]

theorem effectAt_spillSize (s : State) (h : Nat) (v : Word) (env : Env) :
    s.effectAt 0xB000018 (Reg.HST_SPILL_SIZE h) v env = s.spillSizeWrite h v := by
  rw [show s.effectAt 0xB000018 (Reg.HST_SPILL_SIZE h) v env = s.spillSizeWrite (regIndex 0xB000018 4096 (Reg.HST_SPILL_SIZE h)) v from rfl,
    Reg.HST_SPILL_SIZE, regIndex_at (by decide)]

theorem effectAt_lpool (s : State) (n : Nat) (v : Word) (env : Env) :
    s.effectAt 0x8000008 (Reg.HAUL_LPOOL n) v env = s.lpoolWrite n v := by
  rw [show s.effectAt 0x8000008 (Reg.HAUL_LPOOL n) v env = s.lpoolWrite (regIndex 0x8000008 4096 (Reg.HAUL_LPOOL n)) v from rfl,
    Reg.HAUL_LPOOL, regIndex_at (by decide)]

theorem effectAt_kvCfg (s : State) (g : Nat) (v : Word) (env : Env) :
    s.effectAt 0x6800000 (Reg.ATT_KV_CFG g) v env = s.kvCfgWrite g (Reg.ATT_KV_CFG g) v := by
  rw [show s.effectAt 0x6800000 (Reg.ATT_KV_CFG g) v env
      = s.kvCfgWrite (regIndex 0x6800000 256 (Reg.ATT_KV_CFG g)) (Reg.ATT_KV_CFG g) v from rfl]
  congr 1
  rw [Reg.ATT_KV_CFG, regIndex_at (by decide)]

theorem effectAt_kvFt (s : State) (g : Nat) (v : Word) (env : Env) :
    s.effectAt 0x6800008 (Reg.ATT_KV_FT g) v env = s.kvCfgWrite g (Reg.ATT_KV_FT g) v := by
  rw [show s.effectAt 0x6800008 (Reg.ATT_KV_FT g) v env
      = s.kvCfgWrite (regIndex 0x6800008 256 (Reg.ATT_KV_FT g)) (Reg.ATT_KV_FT g) v from rfl]
  congr 1
  rw [Reg.ATT_KV_FT, regIndex_at (by decide)]


/-- The part of a write of a guarded register that O8 states: refused with its reject flag, or by access types. -/
theorem State.guardedWrite {u : State} {off ev i cnt lo : Nat} {bad : Prop} [Decidable bad] {r : RegDesc} (hr : findReg off = some r)
    (hi : i < 64) (hev : off ≠ ev) (hcnt : off ≠ cnt) (hne : ev ≠ cnt) (v : Word) {t : State}
    (ht : t = if bad then u.raise ev i cnt lo else u.writePlain off v) :
    (bad → t.reg off = u.reg off ∧ t.fld ev i i = 1) ∧
      (¬ bad → (∀ f ∈ r.fields, ∀ j, f.lo ≤ j → j ≤ f.hi → (t.reg off).getLsbD j = writtenBit f.acc ((u.reg off).getLsbD j) (v.getLsbD j)) ∧
        ∀ o, o ≠ off → t.reg o = u.reg o) := by
  refine ⟨fun hb => ?_, fun hb => ?_⟩
  · rw [ht, if_pos hb]
    exact ⟨u.reg_raise_ne i lo hev hcnt, u.fld_raise_flag hi hne⟩
  · rw [ht, if_neg hb]
    refine ⟨fun f hf j hlo hhi => ?_, fun o ho => u.reg_writePlain_ne v ho⟩
    rw [u.reg_writePlain_self hr, getLsbD_writeFields_mem (findReg_sound hr) hf _ v hlo hhi]

/-- A register of the row that begins at `b` has that row's description. -/
theorem State.regWrite_at {s : State} {who : Requester} {off b w : Nat} {r : RegDesc} {v : Word} (ha : s.admitted who) (hn : s.noHostReg off = false)
    (hr : findReg off = some r) (hv : r.width = 32 → v.toNat < 2 ^ 32) (h : rowAt off b w) (hm : b ≠ 0x2000030 ∧ b ≠ 0xD000020) (env : Env) :
    s.regWrite who off (writeOf r.width v) env = (s.setPort who {}).effectAt b off v env := by
  obtain ⟨r', hr', rfl, -⟩ := h
  obtain rfl : r' = r := Option.some.inj (hr'.symm.trans hr)
  exact State.regWrite_value hr hn ha.2.2 hm hv env

theorem State.reg_setPort (s : State) (who : Requester) (p : Port) (o : Nat) : (s.setPort who p).reg o = s.reg o := rfl
theorem State.fld_setPort (s : State) (who : Requester) (p : Port) (o hi lo : Nat) : (s.setPort who p).fld o hi lo = s.fld o hi lo := rfl

theorem rowAt_updCfg {off : Nat} (h : off ∈ [Reg.UPD_SHARD_TBL, Reg.UPD_GROUP_TBL, Reg.UPD_NORM_TBL, Reg.UPD_REC_TBL, Reg.UPD_DIG_TBL,
    Reg.UPD_SHARD_CNT, Reg.UPD_JOURNAL, Reg.UPD_NORM_LIMIT]) : ∃ w, rowAt off off w := by
  have hrow : ∀ o ∈ [Reg.UPD_SHARD_TBL, Reg.UPD_GROUP_TBL, Reg.UPD_NORM_TBL, Reg.UPD_REC_TBL, Reg.UPD_DIG_TBL, Reg.UPD_SHARD_CNT,
    Reg.UPD_JOURNAL, Reg.UPD_NORM_LIMIT], (findReg o).map (·.base) = some o := by decide
  have hbase := hrow off h
  cases hr : findReg off with
  | none => rw [hr] at hbase; cases hbase
  | some r => rw [hr] at hbase; exact ⟨r.width, r, hr, Option.some.inj hbase, rfl⟩

theorem effectAt_updCfg {off : Nat} (h : off ∈ [Reg.UPD_SHARD_TBL, Reg.UPD_GROUP_TBL, Reg.UPD_NORM_TBL, Reg.UPD_REC_TBL, Reg.UPD_DIG_TBL,
    Reg.UPD_SHARD_CNT, Reg.UPD_JOURNAL, Reg.UPD_NORM_LIMIT]) (s : State) (v : Word) (env : Env) : s.effectAt off off v env = s.updConfig off v := by
  simp only [List.mem_cons, List.not_mem_nil, or_false] at h
  rcases h with rfl | rfl | rfl | rfl | rfl | rfl | rfl | rfl <;> rfl

theorem State.lpoolWrite_eq (s : State) (n : Nat) (v : Word) :
    s.lpoolWrite n v = if (∃ c ∈ (s.haul n).ctxs, ∃ x, c.2 = some x ∧ x.pool = 0x7E) ∨ 96 < fget v 22 16 + fget v 6 0 then
      s.raise (Reg.HAUL_EVENT n) 3 (Reg.HAUL_EVENT_CNT n) 48 else s.writePlain (Reg.HAUL_LPOOL n) v := by
  have hany : ((s.haul n).ctxs.any (fun c => match c.2 with | some x => x.pool == 0x7E | none => false) = true) ↔
      ∃ c ∈ (s.haul n).ctxs, ∃ x, c.2 = some x ∧ x.pool = 0x7E := by
    rw [List.any_eq_true]
    refine exists_congr fun c => and_congr_right fun _ => ?_
    cases c.2 <;> simp
  unfold State.lpoolWrite
  exact if_congr (or_congr_left hany) rfl rfl

theorem State.ocLimitOf_ocWrite (s : State) (k x : Nat) : (s.ocWrite k x).ocLimitOf k = min (s.ocFactory k) x := by
  have hget : mget none (s.ocWrite k x).ocLimit k = if s.ocFactory k ≤ x then none else some x := mget_mset_self _ _ _ _
  rw [State.ocLimitOf, hget, show (s.ocWrite k x).ocFactory k = s.ocFactory k from rfl]
  by_cases h : s.ocFactory k ≤ x
  · rw [if_pos h, Option.getD_none, Nat.min_eq_left h]
  · rw [if_neg h, Option.getD_some, Nat.min_eq_right (by omega)]

theorem State.ocLimitOf_ocWrite_ne (s : State) {k j : Nat} (x : Nat) (h : j ≠ k) : (s.ocWrite k x).ocLimitOf j = s.ocLimitOf j := by
  have hget : mget none (s.ocWrite k x).ocLimit j = mget none s.ocLimit j := mget_mset_ne _ _ _ h
  rw [State.ocLimitOf, hget]; rfl

/-- The fields of a register that a bound is put on beside the fields that are written as they are. -/
theorem State.fld_boundedField {u : State} {off hi lo hi' lo' x : Nat} {r : RegDesc} {v : Word} (hr : findReg off = some r) (hlo : lo ≤ hi)
    (hhi : hi < 64) (hlo' : lo' ≤ hi') (hd : hi' < lo) (hc : ∀ j < hi' + 1, lo' ≤ j → ∃ f ∈ r.fields, f.acc = .rw ∧ f.lo ≤ j ∧ j ≤ f.hi)
    (hx : x < 2 ^ (hi + 1 - lo)) : ((u.writePlain off v).setFld off hi lo x).fld off hi lo = x ∧
      ((u.writePlain off v).setFld off hi lo x).fld off hi' lo' = fget v hi' lo' ∧
      ∀ o, o ≠ off → ((u.writePlain off v).setFld off hi lo x).reg o = u.reg o := by
  refine ⟨?_, ?_, fun o ho => ?_⟩
  · rw [State.fld_setFld_self _ _ _ hlo hhi, Nat.mod_eq_of_lt hx]
  · rw [State.fld_setFld_ne _ _ _ hlo hhi hlo' (.inl hd), State.fld, u.reg_writePlain_self hr, fget_writeFields (findReg_sound hr) hc]
  · rw [State.reg_setFld_ne _ _ _ _ ho, u.reg_writePlain_ne v ho]


/-- The bits [hi:0] of a register are all RW. -/
def RegDesc.lowRw (hi : Nat) (r : RegDesc) : Bool := decide (∀ j < hi + 1, 0 ≤ j → ∃ f ∈ r.fields, f.acc = .rw ∧ f.lo ≤ j ∧ j ≤ f.hi)

theorem lowRw_lnkCfg {r : RegDesc} (hr : findReg Reg.LNK_CFG = some r) : r.lowRw 15 = true := by
  have h : (findReg Reg.LNK_CFG).all (RegDesc.lowRw 15) = true := by decide
  rwa [hr] at h

theorem lowRw_mbxCfg {m : Nat} (hm : m < 32) {r : RegDesc} (hr : findReg (Reg.MBX_CFG m) = some r) : r.lowRw 11 = true := by
  have h : (arrayAt 4096 0xC000108 32 (slotTable 12)).all (RegDesc.lowRw 11) = true := by decide
  cases hrow : arrayAt 4096 0xC000108 32 (slotTable 12) with
  | none => exact absurd hrow (by decide)
  | some r' =>
    have hr' : findReg (Reg.MBX_CFG m) = some r' := findReg_array (by decide) hm (by omega) hrow
    rw [hrow] at h
    obtain rfl : r' = r := Option.some.inj (hr'.symm.trans hr)
    exact h

theorem rowAt_mbxCfg {m : Nat} (h : m < 32) : rowAt (Reg.MBX_CFG m) 0xC000108 32 :=
  rowAt_array (slot := 12) (st := 4096) (n := 32) (by decide) h (by omega) (by decide)

theorem rowAt_ocLimit {k : Nat} (h : k < 12) : rowAt (Reg.SIO_OC_LIMIT k) 0xD000100 32 :=
  rowAt_array (slot := 13) (st := 4) (n := 12) (by decide) h (by omega) (by decide)

theorem rowAt_spillSize {h : Nat} (hh : h < 8) : rowAt (Reg.HST_SPILL_SIZE h) 0xB000018 32 :=
  rowAt_array (slot := 11) (st := 4096) (n := 8) (by decide) hh (by omega) (by decide)

theorem rowAt_lpool {n : Nat} (h : n < 128) : rowAt (Reg.HAUL_LPOOL n) 0x8000008 32 :=
  rowAt_array (slot := 8) (st := 4096) (n := 128) (by decide) h (by omega) (by decide)

theorem rowAt_kvCfg {g : Nat} (h : g < 16) : rowAt (Reg.ATT_KV_CFG g) 0x6800000 64 :=
  rowAt_array (slot := 6) (st := 256) (n := 16) (by decide) h (by omega) (by decide)

theorem rowAt_kvFt {g : Nat} (h : g < 16) : rowAt (Reg.ATT_KV_FT g) 0x6800008 64 :=
  rowAt_array (slot := 6) (st := 256) (n := 16) (by decide) h (by omega) (by decide)

/-- A write of a register without further effect, and what bounds or refuses the others' values. -/
theorem plainWrite_byAccessType {who : Requester} {off : Nat} {r : RegDesc} {v : Word} {s : State} (ha : s.admitted who)
    (hn : s.noHostReg off = false) (hr : findReg off = some r) (hb : r.base ∉ actingRegs) (hv : r.width = 32 → v.toNat < 2 ^ 32) (env : Env) :
    exec (.registerWrite who off (writeOf r.width v) env) s = .next ((s.setPort who {}).writePlain off v) := by
  have hm : r.base ≠ 0x2000030 ∧ r.base ≠ 0xD000020 := by
    constructor <;> · intro hbase; rw [hbase] at hb; exact hb (by decide)
  rw [exec_registerWrite ha, State.regWrite_value hr hn ha.2.2 hm hv, State.effectAt_plain _ hb, State.writePlain_eq _ hr]
  rfl

theorem State.kvCfgWrite_eq (s : State) (g off : Nat) (v : Word) :
    s.kvCfgWrite g off v = if s.fld (Reg.ATT_KV_STATUS g) 1 1 = 1 then s.raise (Reg.ATT_KV_EVENT g) 4 (Reg.ATT_KV_EVENT_CNT1 g) 0
      else s.writePlain off v := by
  unfold State.kvCfgWrite State.kvReady
  exact if_congr beq_iff_eq rfl rfl

theorem State.updConfig_eq (s : State) (off : Nat) (v : Word) :
    s.updConfig off v = if s.updRunning ≠ none ∨ s.upd.sweep ≠ none then s.raise Reg.UPD_EVENT 3 Reg.UPD_EVENT_CNT0 48
      else s.writePlain off v := by
  unfold State.updConfig
  refine if_congr ?_ rfl rfl
  rw [Bool.or_eq_true, Option.isSome_iff_ne_none, Option.isSome_iff_ne_none]

theorem State.keep_guarded (s : State) (who : Requester) (c : Prop) [Decidable c] (ev i cnt lo off : Nat) (v : Word) :
    s.keep (if c then (s.setPort who {}).raise ev i cnt lo else (s.setPort who {}).writePlain off v) =
      if c then (s.setPort who {}).raise ev i cnt lo else (s.setPort who {}).writePlain off v := by
  split
  · exact s.keep_setPort_raise who {} ev i cnt lo
  · rw [State.writePlain_frame]; rfl

/-- Settles O8: fields are written bit by bit by their access types, and each bounded or guarded register by its own rule. -/
theorem registerWriteByAccessType : Obligations.RegisterWriteByAccessType := by
  unfold Obligations.RegisterWriteByAccessType
  refine ⟨fun who off r v env s ha hn hr hb hv => ?plain, fun who off r v env s ha hn hr hv => ?special⟩
  case plain =>
    refine ⟨_, plainWrite_byAccessType ha hn hr hb hv env, fun f hf i hlo hhi => ?_, fun i hi => ?_, fun o ho => State.reg_writePlain_ne _ v ho,
      State.writePlain_frame _ off v⟩
    · rw [State.reg_writePlain_self _ hr, getLsbD_writeFields_mem (findReg_sound hr) hf _ v hlo hhi, State.reg_setPort]
    · rw [State.reg_writePlain_self _ hr, getLsbD_writeFields_out _ v hi, State.reg_setPort]
  case special =>
    have hat {b w : Nat} (h : rowAt off b w) (hm : b ≠ 0x2000030 ∧ b ≠ 0xD000020) := State.regWrite_at ha hn hr hv h hm env
    have hfget (hi lo : Nat) := fget_lt v hi lo
    refine ⟨_, exec_registerWrite ha off _ env, ?timeouts, ?cap, ?therm, ?link, fun m hm => ?mailbox, fun k hk => ?limit, fun h hh => ?spill, ?guarded⟩
    case timeouts =>
      have hbound : max 10 (fget v 15 0) < 2 ^ 16 := by have := hfget 15 0; omega
      have hstored : s.regWrite who off (writeOf r.width v) env = (s.setPort who {}).setFld off 15 0 (max 10 (fget v 15 0)) →
          (s.keep (s.regWrite who off (writeOf r.width v) env)).fld off 15 0 = max 10 (fget v 15 0) ∧
            ∀ o, o ≠ off → (s.keep (s.regWrite who off (writeOf r.width v) env)).reg o = s.reg o := by
        intro hw
        rw [hw, State.keep_fld, State.fld_setFld_self _ _ _ (by decide) (by decide), Nat.mod_eq_of_lt hbound]
        exact ⟨rfl, fun o ho => State.reg_setFld_ne _ _ _ _ ho⟩
      rintro (rfl | rfl)
      · exact hstored (hat (b := 0x6810000) (rowAt_one (w := 32) (by decide)) (by decide))
      · exact hstored (hat (b := 0xB800000) (rowAt_one (w := 32) (by decide)) (by decide))
    case cap =>
      rintro rfl
      have hbound : max 800 (min 2400 (fget v 11 0)) < 2 ^ 12 := by omega
      rw [hat (b := Reg.PWR_CAP) (rowAt_one (w := 32) (by decide)) (by decide), effectAt_pwrCap, State.capWrite, State.keep_fld,
        State.fld_setFld_self _ _ _ (by decide) (by decide), Nat.mod_eq_of_lt hbound]
      exact ⟨rfl, fun o ho => State.reg_setFld_ne _ _ _ _ ho⟩
    case therm =>
      rintro rfl
      rw [hat (b := 0xD000010) (rowAt_one (w := 32) (by decide)) (by decide), effectAt_thermCfg, State.thermWrite, State.keep_fld, State.keep_fld,
        State.fld_setFld_self _ _ _ (by decide) (by decide), State.fld_setFld_ne _ _ _ (by decide) (by decide) (by decide) (.inr (by decide)),
        State.fld_setFld_self _ _ _ (by decide) (by decide), Nat.mod_eq_of_lt (by omega), Nat.mod_eq_of_lt (by omega)]
      exact ⟨rfl, rfl, fun o ho => by rw [State.keep_reg, State.reg_setFld_ne _ _ _ _ ho, State.reg_setFld_ne _ _ _ _ ho, State.reg_setPort]⟩
    case link =>
      rintro rfl
      rw [hat (b := 0xA810000) (rowAt_one (w := 32) (by decide)) (by decide), effectAt_lnkCfg]
      exact State.fld_boundedField hr (by decide) (by decide) (by decide) (by decide) (of_decide_eq_true (lowRw_lnkCfg hr))
        (by have := hfget 31 16; omega)
    case mailbox =>
      rintro rfl
      rw [hat (rowAt_mbxCfg hm) (by decide), effectAt_mbxCfg]
      exact State.fld_boundedField hr (by decide) (by decide) (by decide) (by decide) (of_decide_eq_true (lowRw_mbxCfg hm hr))
        (by have := hfget 31 16; omega)
    case limit =>
      rintro rfl
      rw [hat (rowAt_ocLimit hk) (by decide), effectAt_ocLimit]
      exact ⟨State.ocLimitOf_ocWrite _ k _, fun j hj => State.ocLimitOf_ocWrite_ne _ _ hj, rfl⟩
    case spill =>
      rintro rfl
      rw [hat (rowAt_spillSize hh) (by decide), effectAt_spillSize]
      refine ⟨fun hen => ?_, fun hen => ?_⟩
      · rw [State.spillSizeWrite, State.fld_setPort, if_pos hen, State.hostReject, State.keep_setPort_raise]
      · rw [State.spillSizeWrite, State.fld_setPort, if_neg (by omega), State.keep_fld, State.fld_setFld_self _ _ _ (by decide) (by decide),
          Nat.mod_eq_of_lt (by have := hfget 10 0; omega)]
        exact ⟨rfl, fun o ho => State.reg_setFld_ne _ _ _ _ ho, rfl⟩
    case guarded =>
      rintro ev i bad (⟨n, hlt, rfl, rfl, rfl, hbad⟩ | ⟨g, hg, hoff, rfl, rfl, hbad⟩ | ⟨hoff, rfl, rfl, hbad⟩)
      · classical
        refine State.guardedWrite (u := s.setPort who {}) (bad := bad) (cnt := Reg.HAUL_EVENT_CNT n) (lo := 48) hr (by decide)
          (by unfold Reg.HAUL_LPOOL Reg.HAUL_EVENT; omega) (by unfold Reg.HAUL_LPOOL Reg.HAUL_EVENT_CNT; omega)
          (by unfold Reg.HAUL_EVENT Reg.HAUL_EVENT_CNT; omega) v ?_
        rw [hat (rowAt_lpool hlt) (by decide), effectAt_lpool, State.lpoolWrite_eq, State.keep_guarded]
        exact if_congr hbad.symm rfl rfl
      · classical
        have hfar : off ≠ Reg.ATT_KV_EVENT g ∧ off ≠ Reg.ATT_KV_EVENT_CNT1 g := by
          unfold Reg.ATT_KV_CFG Reg.ATT_KV_FT at hoff
          unfold Reg.ATT_KV_EVENT_CNT1 Reg.ATT_KV_EVENT
          omega
        refine State.guardedWrite (u := s.setPort who {}) (bad := bad) (cnt := Reg.ATT_KV_EVENT_CNT1 g) (lo := 0) hr (by decide)
          hfar.1 hfar.2 (by unfold Reg.ATT_KV_EVENT Reg.ATT_KV_EVENT_CNT1; omega) v ?_
        have hw : s.regWrite who off (writeOf r.width v) env = (s.setPort who {}).kvCfgWrite g off v := by
          rcases hoff with rfl | rfl
          · rw [hat (rowAt_kvCfg hg) (by decide), effectAt_kvCfg]
          · rw [hat (rowAt_kvFt hg) (by decide), effectAt_kvFt]
        rw [hw, State.kvCfgWrite_eq, State.keep_guarded]
        exact if_congr hbad.symm rfl rfl
      · classical
        have hfar : off ≠ Reg.UPD_EVENT ∧ off ≠ Reg.UPD_EVENT_CNT0 := by
          constructor <;> · rintro rfl; exact absurd hoff (by decide)
        refine State.guardedWrite (u := s.setPort who {}) (bad := bad) (cnt := Reg.UPD_EVENT_CNT0) (lo := 48) hr (by decide)
          hfar.1 hfar.2 (by decide) v ?_
        obtain ⟨w, hrow⟩ := rowAt_updCfg hoff
        have hm : off ≠ 0x2000030 ∧ off ≠ 0xD000020 := by
          constructor <;> · rintro rfl; exact absurd hoff (by decide)
        rw [hat hrow hm, effectAt_updCfg hoff, State.updConfig_eq, State.keep_guarded]
        exact if_congr hbad.symm rfl rfl

end Sys2Proof.Machine

namespace Sys2Proof.Machine

/-! ## Seal operations (R266, R267, R269, R270) -/

theorem State.sealWrite_word (s : State) {op spill slot host count first : Nat} (hop : op = 1 ∨ op = 2) (hspill : spill < 2) (hslot : slot < 16)
    (hhost : host < 8) (hcount : count < 2 ^ 20) (hfirst : first < 2 ^ 20) :
    s.sealWrite (sealOpWord op spill slot host count first) =
      if s.sealOp.isSome then s.memReject
      else if spill = 1 then (if op = 1 then s.sealSlot host slot first count else s.unsealSlot host slot)
      else if op = 1 then s.sealPages first count
      else s.unsealPages first count := by
  have hbits {hi lo : Nat} (hw : hi < 64) (h : lo ≤ hi) := fget_ofNat (n := op % 4 * 2 ^ 62 + spill % 2 * 2 ^ 61 + slot % 16 * 2 ^ 57 +
    host % 8 * 2 ^ 54 + count % 2 ^ 20 * 2 ^ 20 + first % 2 ^ 20) hw h
  have h1 : fget (sealOpWord op spill slot host count first) 63 62 = op := by
    rw [sealOpWord, hbits (by decide) (by decide), bits]; omega
  have h2 : fget (sealOpWord op spill slot host count first) 61 61 = spill := by
    rw [sealOpWord, hbits (by decide) (by decide), bits]; omega
  have h3 : fget (sealOpWord op spill slot host count first) 60 57 = slot := by
    rw [sealOpWord, hbits (by decide) (by decide), bits]; omega
  have h4 : fget (sealOpWord op spill slot host count first) 56 54 = host := by
    rw [sealOpWord, hbits (by decide) (by decide), bits]; omega
  have h5 : fget (sealOpWord op spill slot host count first) 39 20 = count := by
    rw [sealOpWord, hbits (by decide) (by decide), bits]; omega
  have h6 : fget (sealOpWord op spill slot host count first) 19 0 = first := by
    rw [sealOpWord, hbits (by decide) (by decide), bits]; omega
  have hrest : ¬ (op = 0 ∨ op = 3) := by omega
  simp only [State.sealWrite, h1, h2, h3, h4, h5, h6, hrest, or_false]

theorem State.sealOp_setPort (s : State) (who : Requester) (p : Port) : (s.setPort who p).sealOp = s.sealOp := rfl

/-- A write of MEM_SEAL_OP by an admitted requester. -/
theorem exec_sealWrite {s : State} {who : Requester} (ha : s.admitted who) (v : Word) :
    part (s.reqExists who) (s.run (s.regWrite who Reg.MEM_SEAL_OP (.w64 v) {})) = .next (s.keep ((s.setPort who {}).sealWrite v)) := by
  obtain ⟨hl, hx, hp⟩ := ha
  rw [part_true hx, State.run_live _ hl, State.regWrite_w64 who v {} rowAt_sealOp (s.noHostReg_out (.inl (by decide))) hp (by decide), effectAt_sealOp]

theorem exec_sealPages {s : State} {who : Requester} (ha : s.admitted who) (first count : BitVec 20) :
    exec (.sealPages who first count) s = .next (s.keep (if s.sealOp.isSome then (s.setPort who {}).memReject
      else (s.setPort who {}).sealPages first.toNat count.toNat)) := by
  refine (exec_sealWrite ha _).trans ?_
  rw [State.sealWrite_word _ (.inl rfl) (by decide) (by decide) (by decide) count.isLt first.isLt, State.sealOp_setPort,
    if_neg (by decide : ¬ 0 = 1), if_pos (rfl : 1 = 1)]

theorem exec_unsealPages {s : State} {who : Requester} (ha : s.admitted who) (first count : BitVec 20) :
    exec (.unsealPages who first count) s = .next (s.keep (if s.sealOp.isSome then (s.setPort who {}).memReject
      else (s.setPort who {}).unsealPages first.toNat count.toNat)) := by
  refine (exec_sealWrite ha _).trans ?_
  rw [State.sealWrite_word _ (.inr rfl) (by decide) (by decide) (by decide) count.isLt first.isLt, State.sealOp_setPort,
    if_neg (by decide : ¬ 0 = 1), if_neg (by decide : ¬ 2 = 1)]

theorem exec_spillSeal {s : State} {who : Requester} (ha : s.admitted who) (host : BitVec 3) (slot : BitVec 4) (first count : BitVec 20) :
    exec (.spillSeal who host slot first count) s = .next (s.keep (if s.sealOp.isSome then (s.setPort who {}).memReject
      else (s.setPort who {}).sealSlot host.toNat slot.toNat first.toNat count.toNat)) := by
  refine (exec_sealWrite ha _).trans ?_
  rw [State.sealWrite_word _ (.inl rfl) (by decide) slot.isLt host.isLt count.isLt first.isLt, State.sealOp_setPort,
    if_pos (rfl : 1 = 1), if_pos (rfl : 1 = 1)]

theorem exec_spillUnseal {s : State} {who : Requester} (ha : s.admitted who) (host : BitVec 3) (slot : BitVec 4) :
    exec (.spillUnseal who host slot) s = .next (s.keep (if s.sealOp.isSome then (s.setPort who {}).memReject
      else (s.setPort who {}).unsealSlot host.toNat slot.toNat)) := by
  refine (exec_sealWrite ha _).trans ?_
  rw [State.sealWrite_word _ (.inr rfl) (by decide) slot.isLt host.isLt (by decide) (by decide), State.sealOp_setPort,
    if_pos (rfl : 1 = 1), if_neg (by decide : ¬ 2 = 1)]

/-- A command without a requester has, in a live device, the outcome of what it does. -/
theorem exec_sealDone {s : State} (hl : s.live) : exec .sealDone s = .next (s.keep s.sealDone) := State.run_live _ hl
theorem exec_unsealDone {s : State} (hl : s.live) : exec .unsealDone s = .next (s.keep s.unsealDone) := State.run_live _ hl

/-- The table of pages in which `first`, … (`count` of them) have state `st`. -/
theorem mget_setSeals (s : State) (first count st i : Nat) :
    mget 0 (s.setSeals first count st).seals i = if first ≤ i ∧ i < first + count then st else mget 0 s.seals i := by
  have hfold : ∀ n, mget 0 ((List.range n).foldl (fun m i => mset 0 m (first + i) st) s.seals) i =
      if first ≤ i ∧ i < first + n then st else mget 0 s.seals i := by
    intro n
    induction n with
    | zero => rw [if_neg (by omega)]; rfl
    | succ n ih =>
      rw [List.range_succ, List.foldl_append, List.foldl_cons, List.foldl_nil, mget_mset, ih]
      grind
  exact hfold count

theorem State.allSeals_iff (s : State) (first count st : Nat) :
    s.allSeals first count st = true ↔ ∀ i, first ≤ i → i < first + count → mget 0 s.seals i = st := by
  simp only [State.allSeals, List.all_eq_true, List.mem_range, beq_iff_eq]
  refine ⟨fun h i hlo hhi => ?_, fun h i hi => h _ (by omega) (by omega)⟩
  have := h (i - first) (by omega)
  rwa [Nat.add_sub_cancel' hlo] at this

theorem State.anyRing_iff (s : State) (first count : Nat) :
    (List.range count).any (fun i => s.ringPage (first + i)) = true ↔ ∃ i, first ≤ i ∧ i < first + count ∧ s.ringPage i = true := by
  simp only [List.any_eq_true, List.mem_range]
  refine ⟨fun ⟨i, hi, h⟩ => ⟨first + i, by omega, by omega, h⟩, fun ⟨i, hlo, hhi, h⟩ => ⟨i - first, by omega, ?_⟩⟩
  rwa [Nat.add_sub_cancel' hlo]

theorem State.anyRing_none {s : State} {first count : Nat} (h : ∀ i, first ≤ i → i < first + count → s.ringPage i = false) :
    ¬ (List.range count).any (fun i => s.ringPage (first + i)) = true := by
  rw [s.anyRing_iff]
  rintro ⟨i, hlo, hhi, hr⟩
  rw [h i hlo hhi] at hr
  cases hr

theorem State.spillSlot_setPort (s : State) (who : Requester) (p : Port) (h i : Nat) : (s.setPort who p).spillSlot h i = s.spillSlot h i := rfl

/-- A seal operation that ends with a code. -/
def State.endSeal (s : State) (code : Nat) : State := { s.setFld Reg.MEM_SEAL_STATUS 63 56 code with sealOp := none }

theorem State.endSeal_eq (s : State) (code : Nat) :
    s.endSeal code = { s with sealOp := none, regs := (s.setFld Reg.MEM_SEAL_STATUS 63 56 code).regs } := by
  simp [State.endSeal]

theorem State.endSeal_pending (s : State) (code : Nat) : (s.endSeal code).pending = s.pending := by simp only [State.endSeal, State.setFld_pending]
theorem State.endSeal_fuses (s : State) (code : Nat) : (s.endSeal code).fuses = s.fuses := by simp only [State.endSeal, State.setFld_fuses]

theorem State.keep_endSeal {s t : State} (hp : t.pending = s.pending) (hf : t.fuses = s.fuses) (code : Nat) : s.keep (t.endSeal code) = t.endSeal code :=
  State.keep_of_eq ((t.endSeal_pending code).trans hp) ((t.endSeal_fuses code).trans hf)

theorem State.sealDone_ring {s : State} {first count : Nat} (hop : s.sealOp = some (.sealPages first count))
    (hring : ∃ i, first ≤ i ∧ i < first + count ∧ s.ringPage i = true) : s.sealDone = s.endSeal 2 := by
  rw [State.sealDone, hop]
  simp only [(s.anyRing_iff _ _).mpr hring, if_true]
  rfl

theorem State.sealDone_pages {s : State} {first count : Nat} (hop : s.sealOp = some (.sealPages first count))
    (hring : ∀ i, first ≤ i → i < first + count → s.ringPage i = false) : s.sealDone = (s.setSeals first count 1).endSeal 0 := by
  rw [State.sealDone, hop]
  simp only [State.anyRing_none hring]
  rfl

theorem State.unsealDone_pages {s : State} {first count : Nat} (hop : s.sealOp = some (.unsealPages first count)) (hheld : s.heldWindows = 0) :
    s.unsealDone = (s.setSeals first count 0).endSeal 0 := by
  rw [State.unsealDone, hop]
  simp only [hheld, if_true]
  rfl

theorem State.unsealDone_slot {s : State} {h i : Nat} (hop : s.sealOp = some (.unsealSlot h i)) (hheld : s.heldWindows = 0) :
    s.unsealDone = (s.setSpillSlot h i {}).endSeal 0 := by
  rw [State.unsealDone, hop]
  simp only [hheld, if_true]
  rfl

/-- What the end of a seal operation of pages leaves. -/
theorem State.endSeal_pages (s : State) (first count st : Nat) {t : State} (ht : t = (s.setSeals first count st).endSeal 0) :
    t.sealOp = none ∧ t.fld Reg.MEM_SEAL_STATUS 63 56 = 0 ∧
      (∀ i, mget 0 t.seals i = if first ≤ i ∧ i < first + count then st else mget 0 s.seals i) ∧
      t = { s with sealOp := t.sealOp, seals := t.seals, regs := t.regs } := by
  rw [State.endSeal_eq] at ht
  subst ht
  refine ⟨rfl, ?_, fun i => mget_setSeals s _ _ st i, rfl⟩
  exact (State.fld_of_regs rfl _ _ _).trans (State.fld_setFld_self (s.setSeals first count st) _ 0 (by decide) (by decide))

theorem sealRange_true {first count pages : Nat} (h : 1 ≤ count ∧ first + count ≤ pages) : sealRange first count pages = true :=
  decide_eq_true h

/-- Settles O15: each operation is a case of MEM_SEAL_OP's write or of its end. -/
theorem sealOperations : Obligations.SealOperations := by
  unfold Obligations.SealOperations
  intro who s first count host slot ha
  refine ⟨fun hop hrange hall hring => ?sealStart, fun hop hring => ?sealEnd, fun hop hring => ?sealRing, fun hop hrange hall => ?unsealStart,
    fun hop hheld => ?unsealEnd, fun hop h1 hrange (hfree : (s.spillSlot host.toNat slot.toNat).state = 0) happart => ?slotSeal, fun hop (hst : (s.spillSlot host.toNat slot.toNat).state = 1) => ?slotUnseal, fun hop hheld => ?slotEnd,
    fun hop => ?busy⟩
  case sealStart =>
    have hall' : (s.setPort who {}).allSeals first.toNat count.toNat 0 = true := (State.allSeals_iff _ _ _ _).mpr hall
    have hring' : ¬ (List.range count.toNat).any (fun i => (s.setPort who {}).ringPage (first.toNat + i)) = true :=
      State.anyRing_none (s := s) hring
    rw [exec_sealPages ha, hop, State.sealPages, sealRange_true (pages := pageCount) hrange]
    simp only [Option.isSome_none, Bool.false_eq_true, if_false, Bool.not_true, if_pos (And.intro hall' hring')]
    rfl
  case sealEnd =>
    exact ⟨_, (exec_sealDone ha.1).trans (congrArg Host.Outcome.next
      ((congrArg s.keep (State.sealDone_pages hop hring)).trans (State.keep_endSeal (s := s) (t := s.setSeals _ _ _) rfl rfl 0))), s.endSeal_pages _ _ 1 rfl⟩
  case sealRing =>
    rw [exec_sealDone ha.1, State.sealDone_ring hop hring, State.keep_endSeal rfl rfl]
    rfl
  case unsealStart =>
    have hall' : (s.setPort who {}).allSeals first.toNat count.toNat 1 = true := (State.allSeals_iff _ _ _ _).mpr hall
    rw [exec_unsealPages ha, hop, State.unsealPages, sealRange_true (pages := pageCount) hrange]
    simp only [Option.isSome_none, Bool.false_eq_true, if_false, Bool.not_true, if_pos hall']
    exact ⟨_, rfl, rfl, fun i => mget_setSeals s _ _ 2 i, rfl⟩
  case unsealEnd =>
    exact ⟨_, (exec_unsealDone ha.1).trans (congrArg Host.Outcome.next
      ((congrArg s.keep (State.unsealDone_pages hop hheld)).trans (State.keep_endSeal (s := s) (t := s.setSeals _ _ _) rfl rfl 0))), s.endSeal_pages _ _ 0 rfl⟩
  case slotSeal =>
    have hover : (List.range 16).any (fun j => ((s.setPort who {}).spillSlot host.toNat j).state != 0 &&
        decide (((s.setPort who {}).spillSlot host.toNat j).first < first.toNat + count.toNat ∧
          first.toNat < ((s.setPort who {}).spillSlot host.toNat j).first + ((s.setPort who {}).spillSlot host.toNat j).count)) = false := by
      rw [List.any_eq_false]
      intro j hj
      have hj' : (s.spillSlot host.toNat j).state ≠ 0 → (s.spillSlot host.toNat j).first + (s.spillSlot host.toNat j).count ≤ first.toNat ∨
        first.toNat + count.toNat ≤ (s.spillSlot host.toNat j).first := happart j (List.mem_range.mp hj)
      rw [State.spillSlot_setPort]
      simp only [Bool.and_eq_true, bne_iff_ne, decide_eq_true_eq, not_and]
      intro hne
      have := hj' hne
      exact fun _ => by omega
    rw [exec_spillSeal ha, hop, State.sealSlot, sealRange_true (pages := spillPages) (And.intro h1 hrange)]
    simp only [Option.isSome_none, Bool.false_eq_true, if_false, Bool.not_true, hover]
    rw [State.spillSlot_setPort, if_neg (not_not_intro hfree), State.sealCode, State.setSpillSlot]
    exact congrArg Host.Outcome.next (State.keep_of_eq (State.setFld_pending _ _ _ _ _) (State.setFld_fuses _ _ _ _ _))
  case slotUnseal =>
    rw [exec_spillUnseal ha, hop, State.unsealSlot]
    simp only [Option.isSome_none, Bool.false_eq_true, if_false]
    rw [State.spillSlot_setPort, if_pos hst, State.setSpillSlot]
    exact congrArg Host.Outcome.next (State.keep_of_eq rfl rfl)
  case slotEnd =>
    rw [exec_unsealDone ha.1, State.unsealDone_slot hop hheld, State.keep_endSeal (s := s) (t := s.setSpillSlot _ _ _) rfl rfl, State.endSeal_eq]
    rfl
  case busy =>
    have hsome : s.sealOp.isSome = true := Option.isSome_iff_ne_none.mpr hop
    have hreject : s.keep (s.setPort who {}).memReject = (s.setPort who {}).raise Reg.MEM_EVENT 5 Reg.MEM_EVENT_CNT1 16 :=
      s.keep_setPort_raise who {} _ _ _ _
    intro c hc
    simp only [List.mem_cons, List.not_mem_nil, or_false] at hc
    rcases hc with rfl | rfl | rfl | rfl
    · rw [exec_sealPages ha, hsome, if_pos rfl, hreject]
    · rw [exec_unsealPages ha, hsome, if_pos rfl, hreject]
    · rw [exec_spillSeal ha, hsome, if_pos rfl, hreject]
    · rw [exec_spillUnseal ha, hsome, if_pos rfl, hreject]

end Sys2Proof.Machine

namespace Sys2Proof.Machine

/-! ## Fetch and the seal check (R80, R93, R105) -/

theorem exec_recordFetch {s : State} {q : Nat} (hi : s.issuing) (hq : q < 2048) (env : Env) :
    exec (.recordFetch q env) s = .next (s.keep (s.fetch q env)) :=
  (part_true (decide_eq_true hq) _).trans (State.engine_issuing _ hi)

theorem exec_sealReread {s : State} {q : Nat} (hi : s.issuing) (hq : q < 2048) (env : Env) :
    exec (.sealReread q env) s = .next (s.keep (s.refetch q env)) :=
  (part_true (decide_eq_true hq) _).trans (State.engine_issuing _ hi)

theorem State.fetch_bound {s : State} {q : Nat} (hc : s.canFetch q = true) (hr : (s.queue q).reads = 0) (hb : s.bound q = true) (env : Env) :
    s.fetch q env = s.settle (.queue q) env (State.readSlot q false) := by
  rw [State.fetch, if_pos (by rw [hc, hr]; rfl)]
  exact State.settle_congr (if_pos hb)

theorem State.fetch_cannot {s : State} {q : Nat} (hc : s.canFetch q = false) (env : Env) : s.fetch q env = s ∧ s.refetch q env = s := by
  rw [State.fetch, State.refetch, hc]
  exact ⟨if_neg Bool.false_ne_true, if_neg Bool.false_ne_true⟩

theorem State.refetch_reads {s : State} {q : Nat} (hc : s.canFetch q = true) (hr : (s.queue q).reads ≠ 0) (env : Env) :
    s.refetch q env = s.settle (.queue q) env (State.readSlot q true) := by
  rw [State.refetch, if_pos]
  rw [hc, Bool.true_and, bne_iff_ne]
  exact hr

section
variable {q : Nat} {again : Bool} {s t : State} {b : List Byte} {bad : List Nat}

theorem State.readSlot_error {st a : Nat}
    (hread : s.readMem (srcQueue (s.queueCore q)) (s.sqBase q + 64 * (s.queue q).head) 64 = (t, ⟨b, bad, some (st, a)⟩)) :
    State.readSlot q again s = t.stopFetch q st (s.queue q).head a := by
  rw [State.readSlot, hread]

theorem State.readSlot_passes
    (hread : s.readMem (srcQueue (s.queueCore q)) (s.sqBase q + 64 * (s.queue q).head) 64 = (t, ⟨b, bad, none⟩))
    (hmatch : sealMatches (s.queue q) b = true) : State.readSlot q again s = t.setQueue q (passRecord (t.sqSize q) b (s.queue q)) := by
  rw [State.readSlot, hread]
  exact if_pos hmatch

theorem State.readSlot_mismatch
    (hread : s.readMem (srcQueue (s.queueCore q)) (s.sqBase q + 64 * (s.queue q).head) 64 = (t, ⟨b, bad, none⟩))
    (hmatch : sealMatches (s.queue q) b = false) {n : Nat} (hn : n = if again then (s.queue q).rereads + 1 else 0) :
    State.readSlot q again s = if n = 8
      then (t.setQueue q { s.queue q with reads := (s.queue q).reads + 1, rereads := n }).stopFetch q stStale (s.queue q).head ((s.queue q).reads + 1)
      else t.setQueue q { s.queue q with reads := (s.queue q).reads + 1, rereads := n } := by
  subst hn
  rw [State.readSlot, hread]
  exact if_neg (by rw [hmatch]; exact Bool.false_ne_true)

end

theorem head_advance (size : Nat) (x : Queue) : (advance size x).head = if x.head + 1 = size then 0 else x.head + 1 := by
  unfold advance
  dsimp only
  split <;> rfl

theorem head_passRecord (size : Nat) (b : List Byte) (x : Queue) : (passRecord size b x).head = if x.head + 1 = size then 0 else x.head + 1 := by
  rw [← head_advance]
  unfold passRecord
  dsimp only
  split
  · split <;> rfl
  · split <;> rfl

/-- Settles O21: a fetch and a re-read are one read of the slot, and its bytes decide what becomes of the queue. -/
theorem fetchChecksSeals : Obligations.FetchChecksSeals := by
  unfold Obligations.FetchChecksSeals
  intro q env s hi hq src at_
  refine ⟨fun hc hr hb => ?fetch, fun hc hr hb => ?unbound, fun hc hr => ?reread, fun hc => ?cannot, fun again t b bad hread hsize => ?read,
    fun size b x => head_passRecord size b x, fun again t b bad st a hread => State.readSlot_error hread⟩
  case fetch => rw [exec_recordFetch hi hq, State.fetch_bound hc hr hb]
  case unbound =>
    rw [exec_recordFetch hi hq, State.fetch, if_pos (by rw [hc, hr]; rfl)]
    exact ⟨_, rfl, fun u hu => if_neg (by rw [hu]; exact Bool.false_ne_true)⟩
  case reread => rw [exec_sealReread hi hq, State.refetch_reads hc hr]
  case cannot =>
    obtain ⟨hfetch, hrefetch⟩ := State.fetch_cannot hc env
    rw [exec_recordFetch hi hq, exec_sealReread hi hq, hfetch, hrefetch, State.keep_self]
    exact ⟨rfl, rfl⟩
  case read =>
    refine ⟨fun hmatch => ?_, fun hmatch hfew => ?_, fun hmatch hagain hseven => ?_⟩
    · rw [State.readSlot_passes hread hmatch, hsize]
    · rw [State.readSlot_mismatch hread hmatch rfl, if_neg]
      rcases hfew with hfirst | hfew
      · rw [hfirst, if_neg Bool.false_ne_true]; decide
      · split <;> omega
    · rw [State.readSlot_mismatch hread hmatch (n := 8) (by rw [hagain, hseven]; rfl), if_pos rfl]

end Sys2Proof.Machine

namespace Sys2Proof.Machine

/-! ## Arithmetic records issue (R90, R509) -/

/-- What the issue of a record of a unit does, by the records before it and what its checks find. -/
def State.issuesAtUnit (s : State) (q : Nat) (r : Fetched) (env : Env) (i : Instr) (kind : MxKind) (free : List MxOp → Bool) (why : Park)
    (fail : Ctx → State → Option (State × Phase)) (work : Ctx → State → State × Phase) : Prop :=
  let c := s.ctx q r
  let u := s.starting q r env
  let issues (w : State × Phase) : Prop := exec i s = .next (s.keep (s.issued q r w))
  let before := opsBefore q r.num (s.mat c.core).ops
  let onPath (w : State × Phase) : State × Phase := (if w.2.isEnded then w.1 else w.1.hold c, w.2)
  (before.any (fun o => o.kind == kind && s.opWaits o) = true → issues (u.hold c, .parked .turn)) ∧
    (before.any (fun o => o.kind == kind && s.opWaits o) = false →
      (fail c u = none → free before = true → issues (onPath (work c u))) ∧
      (fail c u = none → free before = false → issues (u.hold c, .parked why)) ∧
      ∀ x, fail c u = some x →
        (free before = true ∨ x.2.isFormat = true → issues x) ∧
        (free before = false → x.2.isFormat = false → issues (u.hold c, .parked why)))

/-- The outcome of a record's issue, for a command that is the issue of an opcode. -/
theorem exec_issue {s : State} {q op : Nat} {r : Fetched} {rest : List Fetched} (h : s.ready q op r rest) {i : Instr} {env : Env}
    {run : Ctx → State → State × Phase} (hexec : exec i s = part (queueOk q) (s.engine (s.issue q op env run))) :
    exec i s = .next (s.keep (s.issued q r (run (s.ctx q r) (s.starting q r env)))) := by
  have hissue := State.issue_ready h env run
  obtain ⟨hi, hq, -⟩ := h
  rw [hexec, part_true (has := queueOk q) (decide_eq_true hq), State.engine_issuing _ hi, hissue]

theorem exec_issue_work {s : State} {q op : Nat} {r : Fetched} {rest : List Fetched} (h : s.ready q op r rest) {i : Instr} {env : Env}
    {fail : Ctx → State → Option (State × Phase)} {work : Ctx → State → State × Phase}
    (hexec : exec i s = part (queueOk q) (s.engine (s.issue q op env (fun c s => (fail c s).getD (work c s)))))
    (hnone : fail (s.ctx q r) (s.starting q r env) = none) :
    exec i s = .next (s.keep (s.issued q r (work (s.ctx q r) (s.starting q r env)))) := by
  rw [exec_issue h hexec, hnone]; rfl

theorem issuesAtUnit_of_atUnit {s : State} {q op : Nat} {r : Fetched} {rest : List Fetched} (h : s.ready q op r rest) {i : Instr} {env : Env}
    {run : Ctx → State → State × Phase} {kind : MxKind} {free : List MxOp → Bool} {why : Park}
    {fail : Ctx → State → Option (State × Phase)} {work : Ctx → State → State × Phase}
    (hexec : exec i s = part (queueOk q) (s.engine (s.issue q op env run)))
    (hrun : run (s.ctx q r) (s.starting q r env) = atUnit (s.ctx q r) kind free why (fail (s.ctx q r) (s.starting q r env)) (work (s.ctx q r))
      (s.starting q r env)) : s.issuesAtUnit q r env i kind free why fail work := by
  have hissues : ∀ w, run (s.ctx q r) (s.starting q r env) = w → exec i s = .next (s.keep (s.issued q r w)) :=
    fun w hw => hw ▸ exec_issue h hexec
  rw [hrun] at hissues
  refine ⟨fun hturn => hissues _ (if_pos hturn), fun hturn => ?_⟩
  have hpast : ¬ (opsBefore q r.num (s.mat (s.ctx q r).core).ops).any (fun o => o.kind == kind && s.opWaits o) = true := by rw [hturn]; exact Bool.false_ne_true
  refine ⟨fun hnone hfree => hissues _ ?_, fun hnone hfree => hissues _ ?_, fun x hsome => ⟨fun hgo => hissues _ ?_, fun hfree hfmt => hissues _ ?_⟩⟩
  · rw [hnone]
    exact (if_neg hpast).trans (if_pos hfree)
  · rw [hnone]
    exact (if_neg hpast).trans (if_neg (Bool.eq_false_iff.mp hfree))
  · rw [hsome]
    exact (if_neg hpast).trans (if_pos (Bool.or_eq_true_iff.mpr hgo))
  · rw [hsome]
    exact (if_neg hpast).trans (if_neg (Bool.eq_false_iff.mp (Bool.or_eq_false_iff.mpr ⟨hfree, hfmt⟩)))

theorem slotNamed_some (slot : Nat) (l : List MxOp) :
    (!slotNamed (some slot) l) = l.all (fun o => !(o.kind == .acc && o.ember == some slot)) := by
  rw [slotNamed, Option.isSome_some, Bool.true_and, List.not_any_eq_all_not]

/-- Settles O25: each record's meaning is its unit's acceptance of it, or its checks and its work. -/
theorem arithmeticRecordsIssue : Obligations.ArithmeticRecordsIssue := by
  unfold Obligations.ArithmeticRecordsIssue
  intro q r rest env s
  refine ⟨fun h hnone => exec_issue_work h rfl hnone, fun h hnone => exec_issue_work h rfl hnone, fun h hnone => exec_issue_work h rfl hnone,
    fun op i kind free why fail work hmem h => ?_⟩
  show s.issuesAtUnit q r env i kind free why fail work
  simp only [List.mem_cons, List.not_mem_nil, or_false, Prod.mk.injEq] at hmem
  rcases hmem with hrow | hrow | hrow | hrow | hrow | hrow | hrow | hrow | hemload | hrow | hrow | hrow | hrow | hrow | hrow | hrow
  case inr.inr.inr.inr.inr.inr.inr.inr.inl =>
    obtain ⟨rfl, rfl, rfl, rfl, rfl, rfl, rfl⟩ := hemload
    refine issuesAtUnit_of_atUnit h rfl ?_
    simp only [← slotNamed_some]
    rfl
  all_goals
    obtain ⟨rfl, rfl, rfl, rfl, rfl, rfl, rfl⟩ := hrow
    exact issuesAtUnit_of_atUnit h rfl rfl

end Sys2Proof.Machine

namespace Sys2Proof.Machine

/-! ## A record that fails a check changes nothing (R134, R163, R189, R212, R286, R307) -/

/-- A record ends with a status other than OK, and at most events have been posted. -/
def State.onlyEnds (s : State) (w : State × Phase) : Prop :=
  (∃ st d, w.2 = .ended st d ∧ st ≠ stOk ∧ d < 2 ^ 32) ∧ w.1 = { s with regs := w.1.regs, log := w.1.log, out := w.1.out, pmb := w.1.pmb } ∧
    ∀ o, o < 0xD000000 → w.1.reg o = s.reg o

/-- What the checks of a record make of it, if they find something, is such an end. -/
def State.failsOnly (s : State) (x : Option (State × Phase)) : Prop := ∀ w, x = some w → s.onlyEnds w

theorem State.likeLog_eq {s t : State} (h : s.likeLog t) : t = { s with regs := t.regs, log := t.log, out := t.out, pmb := t.pmb } := by
  obtain ⟨g, l, o, p, rfl⟩ := h
  rfl

section
variable {s : State} {c : Ctx}

theorem State.onlyEnds_done {st : Nat} (h : st ≠ stOk) (d : Nat) : s.onlyEnds (done s st d) :=
  ⟨⟨st, d % 2 ^ 32, rfl, h, Nat.mod_lt _ (by decide)⟩, rfl, fun _ _ => rfl⟩

theorem State.onlyEnds_range (a : Nat) : s.onlyEnds (endRange c s a) := by
  exact ⟨⟨stAddrRange, _, rfl, by decide, Nat.mod_lt _ (by decide)⟩, State.likeLog_eq (s.likeLog_post (srcCore c.core).slot 0x0002 2 (a % 2 ^ 52)), fun o ho => s.reg_post _ _ _ _ ho⟩

theorem failsOnly_none : s.failsOnly none := fun _ h => nomatch h

theorem failsOnly_some {w : State × Phase} (h : s.onlyEnds w) : s.failsOnly (some w) := fun _ hw => Option.some.inj hw ▸ h

theorem failsOnly_done {st : Nat} (h : st ≠ stOk) (d : Nat) : s.failsOnly (some (done s st d)) := failsOnly_some (State.onlyEnds_done h d)

theorem failsOnly_format (slot o : Nat) : s.failsOnly (some (endFormat s slot o)) := failsOnly_done (by decide) _

theorem failsOnly_map {α : Type} {f : α → State × Phase} (h : ∀ a, s.onlyEnds (f a)) (x : Option α) : s.failsOnly (x.map f) := by
  cases x with
  | none => exact failsOnly_none
  | some a => exact failsOnly_some (h a)

theorem State.onlyEnds_place {st : Nat} (h : st ≠ stOk) (x : Nat × Bool) : s.onlyEnds (endPlace c s st x) := by
  unfold endPlace
  split
  · exact State.onlyEnds_range _
  · exact State.onlyEnds_done h _

theorem failsOnly_place {st : Nat} (h : st ≠ stOk) (x : Option (Nat × Bool)) : s.failsOnly (x.map (endPlace c s st)) :=
  failsOnly_map (State.onlyEnds_place h) x

theorem mloadFail_failsOnly : s.failsOnly (mloadFail c s) := by
  unfold mloadFail
  dsimp only
  split
  · exact failsOnly_format _ _
  split
  · exact failsOnly_done (by decide) _
  split
  · exact failsOnly_done (by decide) _
  exact failsOnly_place (by decide) _

theorem mloadiFail_failsOnly : s.failsOnly (mloadiFail c s) := by
  unfold mloadiFail
  dsimp only
  split
  · exact failsOnly_format _ _
  split
  · exact failsOnly_done (by decide) _
  exact failsOnly_map (fun _ => State.onlyEnds_done (by decide) _) _

theorem mmaSetFail_failsOnly (x : MmaRec) (b : Bank) : s.failsOnly (mmaSetFail c s x b) := by
  unfold mmaSetFail
  dsimp only
  split
  · exact failsOnly_done (by decide) _
  split
  · exact failsOnly_done (by decide) _
  split
  · exact failsOnly_place (by decide) _
  exact failsOnly_none

theorem mmaFail_failsOnly : s.failsOnly (mmaFail c s) := by
  unfold mmaFail
  dsimp only
  split
  · exact failsOnly_format _ _
  split
  · exact failsOnly_done (by decide) _
  split
  · exact failsOnly_none
  exact mmaSetFail_failsOnly _ _

theorem tzeroFail_failsOnly : s.failsOnly (tzeroFail c s) := by
  unfold tzeroFail
  dsimp only
  split
  · exact failsOnly_format _ _
  split
  · exact failsOnly_done (by decide) _
  split
  · exact failsOnly_done (by decide) _
  exact failsOnly_none

theorem tloadFail_failsOnly : s.failsOnly (tloadFail c s) := by
  unfold tloadFail
  dsimp only
  split
  · exact failsOnly_format _ _
  split
  · exact failsOnly_done (by decide) _
  split
  · exact failsOnly_done (by decide) _
  exact failsOnly_place (by decide) _

theorem tcombineFail_failsOnly : s.failsOnly (tcombineFail c s) := by
  unfold tcombineFail
  dsimp only
  split
  · exact failsOnly_format _ _
  split
  · exact failsOnly_done (by decide) _
  split
  · exact failsOnly_done (by decide) _
  exact failsOnly_none

theorem tstoreFail_failsOnly : s.failsOnly (tstoreFail c s) := by
  unfold tstoreFail
  dsimp only
  split
  · exact failsOnly_format _ _
  split
  · exact failsOnly_done (by decide) _
  split
  · exact failsOnly_done (by decide) _
  exact failsOnly_place (by decide) _

theorem treduceFail_failsOnly : s.failsOnly (treduceFail c s) := by
  unfold treduceFail
  dsimp only
  split
  · exact failsOnly_format _ _
  split
  · exact failsOnly_done (by decide) _
  split
  · exact failsOnly_done (by decide) _
  exact failsOnly_place (by decide) _

theorem vsetFail_failsOnly : s.failsOnly (vsetFail c s) := by
  unfold vsetFail
  dsimp only
  split
  · exact failsOnly_format _ _
  split
  · exact failsOnly_done (by decide) _
  split
  · exact failsOnly_map State.onlyEnds_range _
  exact failsOnly_none

theorem vopFail_failsOnly : s.failsOnly (vopFail c s) := by
  unfold vopFail
  dsimp only
  split
  · exact failsOnly_format _ _
  split
  · exact failsOnly_done (by decide) _
  exact failsOnly_place (by decide) _

theorem vreduceFail_failsOnly : s.failsOnly (vreduceFail c s) := by
  unfold vreduceFail
  dsimp only
  split
  · exact failsOnly_format _ _
  split
  · exact failsOnly_done (by decide) _
  exact failsOnly_place (by decide) _

theorem emloadFail_failsOnly : s.failsOnly (emloadFail c s) :=
  failsOnly_map (fun _ => State.onlyEnds_done (by decide : stFormat ≠ stOk) _) _

theorem emrunFail_failsOnly : s.failsOnly (emrunFail c s) := by
  unfold emrunFail
  dsimp only
  split
  · exact failsOnly_format _ _
  split
  · exact failsOnly_done (by decide) _
  split
  · exact failsOnly_done (by decide) _
  split
  · exact failsOnly_done (by decide) _
  exact failsOnly_place (by decide) _

theorem actxFail_failsOnly : s.failsOnly (actxFail c s) := by
  unfold actxFail
  dsimp only
  split
  · exact failsOnly_format _ _
  split
  · exact failsOnly_done (by decide) _
  exact failsOnly_none

theorem asoftFail_failsOnly : s.failsOnly (asoftFail c s) := by
  unfold asoftFail
  dsimp only
  split
  · exact failsOnly_format _ _
  split
  · exact failsOnly_done (by decide) _
  split
  · exact failsOnly_done (by decide) _
  exact failsOnly_place (by decide) _

theorem afoldFail_failsOnly : s.failsOnly (afoldFail c s) := by
  unfold afoldFail
  dsimp only
  split
  · exact failsOnly_format _ _
  split
  · exact failsOnly_done (by decide) _
  exact failsOnly_place (by decide) _

theorem adeltaFail_failsOnly : s.failsOnly (adeltaFail c s) := by
  unfold adeltaFail
  dsimp only
  split
  · exact failsOnly_format _ _
  split
  · exact failsOnly_done (by decide) _
  exact failsOnly_place (by decide) _

theorem abackFail_failsOnly : s.failsOnly (abackFail c s) := by
  unfold abackFail
  dsimp only
  split
  · exact failsOnly_format _ _
  split
  · exact failsOnly_done (by decide) _
  split
  · exact failsOnly_done (by decide) _
  exact failsOnly_place (by decide) _

theorem kvPoolEnd_failsOnly : s.failsOnly (kvPoolEnd c s) :=
  failsOnly_map (fun _ => State.onlyEnds_done (by decide : stKvPool ≠ stOk) _) _

theorem kvmapFail_failsOnly : s.failsOnly (kvmapFail c s) := by
  unfold kvmapFail
  dsimp only
  split
  · exact failsOnly_format _ _
  split
  · exact failsOnly_done (by decide) _
  split
  · exact failsOnly_some (State.onlyEnds_place (by decide) _)
  exact kvPoolEnd_failsOnly

theorem kvputFail_failsOnly : s.failsOnly (kvputFail c s) := by
  unfold kvputFail
  dsimp only
  split
  · exact failsOnly_format _ _
  split
  · exact failsOnly_done (by decide) _
  split
  · exact failsOnly_some (State.onlyEnds_place (by decide) _)
  exact kvPoolEnd_failsOnly

theorem kvmassFail_failsOnly : s.failsOnly (kvmassFail c s) := by
  unfold kvmassFail
  dsimp only
  split
  · exact failsOnly_format _ _
  split
  · exact failsOnly_done (by decide) _
  split
  · exact failsOnly_done (by decide) _
  split
  · exact failsOnly_some (State.onlyEnds_place (by decide) _)
  exact kvPoolEnd_failsOnly

theorem kvtrimFail_failsOnly : s.failsOnly (kvtrimFail c s) := by
  unfold kvtrimFail
  dsimp only
  split
  · exact failsOnly_format _ _
  split
  · exact failsOnly_done (by decide) _
  exact kvPoolEnd_failsOnly

theorem rankFail_failsOnly : s.failsOnly (rankFail c s) := by
  unfold rankFail
  dsimp only
  split
  · exact failsOnly_format _ _
  split
  · exact failsOnly_done (by decide) _
  exact failsOnly_place (by decide) _

theorem failsOnly_shape (o : Nat) : s.failsOnly (some (endShape s o)) := failsOnly_done (by decide) _
theorem failsOnly_ctx (cx why : Nat) : s.failsOnly (some (endCtx s cx why)) := failsOnly_done (by decide) _

theorem hctxPoolFail_failsOnly (cx pool maxb : Nat) : s.failsOnly (hctxPoolFail c s cx pool maxb) := by
  unfold hctxPoolFail
  dsimp only
  split
  · exact failsOnly_none
  split
  · exact failsOnly_ctx _ _
  split
  · exact failsOnly_done (by decide) _
  exact failsOnly_none

theorem hctxOpenFail_failsOnly : s.failsOnly (hctxOpenFail c s) := by
  unfold hctxOpenFail
  dsimp only
  split
  · exact failsOnly_shape _
  split
  · exact failsOnly_ctx _ _
  exact hctxPoolFail_failsOnly _ _ _

theorem hctxCloseFail_failsOnly : s.failsOnly (hctxCloseFail c s) := by
  unfold hctxCloseFail
  dsimp only
  split
  · exact failsOnly_shape _
  split
  · exact failsOnly_ctx _ _
  exact failsOnly_none

theorem hctxFail_failsOnly : s.failsOnly (hctxFail c s) := by
  unfold hctxFail
  dsimp only
  split
  · exact failsOnly_format _ _
  split
  · exact hctxOpenFail_failsOnly
  exact hctxCloseFail_failsOnly

theorem hcopyFail_failsOnly : s.failsOnly (hcopyFail c s) := by
  unfold hcopyFail
  split
  · exact failsOnly_format _ _
  split
  · exact failsOnly_shape _
  split
  · exact failsOnly_ctx _ _
  exact failsOnly_none

/-- A fill that is refused ends with CTX_STATE or POOL_SMALL. -/
theorem fillRefused_status {n cx : Nat} {e : Nat × Nat} (h : s.fillRefused n cx = some e) : e.1 ≠ stOk := by
  unfold State.fillRefused at h
  grind [stOk]

theorem fillRefused_failsOnly (n cx : Nat) : s.failsOnly ((s.fillRefused n cx).map (fun e => done s e.1 e.2)) := by
  cases he : s.fillRefused n cx with
  | none => exact failsOnly_none
  | some e => exact failsOnly_done (fillRefused_status he) _

theorem wfillFail_failsOnly : s.failsOnly (wfillFail c s) := by
  unfold wfillFail
  split
  · exact failsOnly_format _ _
  split
  · exact failsOnly_shape _
  split
  · exact failsOnly_none
  exact fillRefused_failsOnly _ _

theorem wrelFail_failsOnly : s.failsOnly (wrelFail c s) := by
  unfold wrelFail
  dsimp only
  split
  · exact failsOnly_format _ _
  split
  · exact failsOnly_shape _
  split
  · exact failsOnly_ctx _ _
  exact failsOnly_none

theorem porterFail_failsOnly : s.failsOnly (porterFail c s) := by
  unfold porterFail
  dsimp only
  split
  · exact failsOnly_format _ _
  split
  · exact failsOnly_shape _
  exact failsOnly_map State.onlyEnds_range _

theorem lrepairFail_failsOnly : s.failsOnly (lrepairFail c s) := by
  unfold lrepairFail
  dsimp only
  split
  · exact failsOnly_format _ _
  split
  · exact failsOnly_done (by decide) _
  split
  · exact failsOnly_done (by decide) _
  split
  · exact failsOnly_none
  exact failsOnly_done (by decide) _

end

/-- Settles O26: every check of a table ends its record and changes nothing but what posting an event may. -/
theorem failedChecksChangeNothing : Obligations.FailedChecksChangeNothing := by
  unfold Obligations.FailedChecksChangeNothing
  intro fail hmem c s
  simp only [List.mem_cons, List.not_mem_nil, or_false] at hmem
  show s.failsOnly (fail c s)
  rcases hmem with rfl | rfl | rfl | rfl | rfl | rfl | rfl | rfl | rfl | rfl | rfl | rfl | rfl | rfl | rfl | rfl | rfl | rfl | rfl | rfl |
    rfl | rfl | rfl | rfl | rfl | rfl | rfl | rfl | rfl
  exacts [mloadFail_failsOnly, mloadiFail_failsOnly, mmaFail_failsOnly, tzeroFail_failsOnly, tloadFail_failsOnly, tcombineFail_failsOnly,
    tstoreFail_failsOnly, treduceFail_failsOnly, vsetFail_failsOnly, vopFail_failsOnly, vreduceFail_failsOnly, emloadFail_failsOnly,
    emrunFail_failsOnly, actxFail_failsOnly, asoftFail_failsOnly, afoldFail_failsOnly, adeltaFail_failsOnly, abackFail_failsOnly,
    kvmapFail_failsOnly, kvputFail_failsOnly, kvmassFail_failsOnly, kvtrimFail_failsOnly, rankFail_failsOnly, hctxFail_failsOnly,
    hcopyFail_failsOnly, wfillFail_failsOnly, wrelFail_failsOnly, porterFail_failsOnly, lrepairFail_failsOnly]

end Sys2Proof.Machine

namespace Sys2Proof.Machine

/-! ## The counters of a core that no part has -/

/-- A TZERO of one tile on a core whose row counter would lie in the block of the vector engines. -/
def tzeroBeyond : Ctx := ⟨0, 0x1000, { slot := 0, gen := 0, num := 0, bytes := List.replicate 9 0 ++ [1] }⟩

theorem reg_tzeroBeyond (s : State) :
    (tzeroWork tzeroBeyond s).1.reg (Reg.ACC_CNT_ROWS 0x1000) = s.reg (Reg.ACC_CNT_ROWS 0x1000) + 64 := by
  have hcount : tzeroCount tzeroBeyond.item = 1 := by decide
  show ((s.setMat _ _).accRows _ (64 * tzeroCount tzeroBeyond.item)).reg _ = _
  rw [hcount]
  exact State.reg_count_self _ _ _

/-- Refutes O27: the statement speaks of every core number, and the row counter of core 0x1000 (no part has it) lies at 0x5000038,
outside the blocks 3, 4 and 7: a TZERO there adds 64 to it. -/
theorem not_arithmeticRecordsFrame : ¬ Obligations.ArithmeticRecordsFrame := by
  unfold Obligations.ArithmeticRecordsFrame
  intro h
  obtain ⟨htiles, -⟩ := h tzeroBeyond State.reset
  obtain ⟨-, hblocks⟩ := htiles tzeroWork (by simp)
  have hsame := hblocks (Reg.ACC_CNT_ROWS 0x1000) (by decide) (by decide)
  rw [reg_tzeroBeyond] at hsame
  exact absurd hsame (by simp)

end Sys2Proof.Machine

namespace Sys2Proof.Machine

/-! ## The order of values (R175, R242) -/

/-- The exact value of a finite number. -/
def Fp.rat : Fp → ℚ
  | .fin n m e => (if n then -1 else 1) * (m : ℚ) * 2 ^ e
  | _ => 0

/-- Where a value stands in the order of R175: its infinity, its value, and −0 before +0. -/
def Fp.rank : Fp → ℤ ×ₗ ℚ ×ₗ ℕ
  | .nan => toLex (0, toLex (0, 0))
  | .inf n => toLex (if n then -1 else 1, toLex (0, 0))
  | .fin n m e => toLex (0, toLex (Fp.rat (.fin n m e), if m = 0 ∧ n = true then 0 else 1))

theorem signedAt_cast (n : Bool) (m k : Nat) : ((signedAt n m k : ℤ) : ℚ) = (if n then -1 else 1) * (m : ℚ) * 2 ^ k := by
  cases n <;> simp [signedAt]

/-- Put at a common exponent, finite numbers compare as their values. -/
theorem rat_eq_signedAt (n : Bool) (m : Nat) {e lo : ℤ} (h : lo ≤ e) :
    Fp.rat (.fin n m e) = (signedAt n m (e - lo).toNat : ℤ) * (2 : ℚ) ^ lo := by
  rw [signedAt_cast, Fp.rat, mul_assoc ((if n = true then (-1 : ℚ) else 1) * m), ← zpow_natCast, ← zpow_add₀ (by norm_num : (2 : ℚ) ≠ 0),
    Int.toNat_of_nonneg (by omega)]
  congr 2
  omega

theorem fin_lt_iff (na nb : Bool) (ma mb : Nat) (ea eb : ℤ) :
    (Fp.lt (.fin na ma ea) (.fin nb mb eb) = true ↔ Fp.rank (.fin na ma ea) < Fp.rank (.fin nb mb eb)) := by
  have hscale : (0 : ℚ) < 2 ^ (min ea eb) := zpow_pos (by norm_num) _
  have ha := rat_eq_signedAt na ma (min_le_left ea eb)
  have hb := rat_eq_signedAt nb mb (min_le_right ea eb)
  have hlt : signedAt na ma (ea - min ea eb).toNat < signedAt nb mb (eb - min ea eb).toNat ↔ Fp.rat (.fin na ma ea) < Fp.rat (.fin nb mb eb) := by
    rw [ha, hb, mul_lt_mul_iff_left₀ hscale, Int.cast_lt]
  have heq : signedAt na ma (ea - min ea eb).toNat = signedAt nb mb (eb - min ea eb).toNat ↔ Fp.rat (.fin na ma ea) = Fp.rat (.fin nb mb eb) := by
    rw [ha, hb, mul_left_inj' hscale.ne', Int.cast_inj]
  have hzero : Fp.rat (.fin na ma ea) = Fp.rat (.fin nb mb eb) → (ma = 0 ↔ mb = 0) := by
    intro h
    have hne (n : Bool) (m : Nat) (e : ℤ) : Fp.rat (.fin n m e) = 0 ↔ m = 0 := by
      cases n <;> simp [Fp.rat, zpow_ne_zero]
    rw [← hne na ma ea, h, hne]
  simp only [Fp.lt, Fp.rank, Prod.Lex.toLex_lt_toLex, lt_irrefl, false_or, true_and, Bool.or_eq_true, decide_eq_true_eq, Bool.and_eq_true,
    beq_iff_eq, hlt, heq]
  refine or_congr_right ?_
  constructor
  · rintro ⟨⟨⟨h, hma⟩, hna⟩, hnb⟩
    simp_all
  · rintro ⟨h, hlt⟩
    have hz := hzero h
    split at hlt
    · next hn => split at hlt <;> simp_all
    · split at hlt <;> omega

theorem Fp.lt_iff {a b : Fp} (ha : a.isNan = false) (hb : b.isNan = false) : a.lt b = true ↔ a.rank < b.rank := by
  cases a with
  | nan => cases ha
  | inf x =>
    cases b with
    | nan => cases hb
    | inf y => cases x <;> cases y <;> simp [Fp.lt, Fp.rank, Prod.Lex.toLex_lt_toLex]
    | fin n m e => cases x <;> simp [Fp.lt, Fp.rank, Prod.Lex.toLex_lt_toLex]
  | fin n m e =>
    cases b with
    | nan => cases hb
    | inf y => cases y <;> simp [Fp.lt, Fp.rank, Prod.Lex.toLex_lt_toLex]
    | fin n' m' e' => exact fin_lt_iff n n' m m' e e'

/-! ## Strict weak orders -/

/-- An order by which elements may be sorted: of two at most one comes before the other, and not coming before is transitive. -/
structure WeakOrder {α : Type} (lt : α → α → Bool) : Prop where
  asymm : ∀ {a b}, lt a b = true → lt b a = false
  negTrans : ∀ {a b c}, lt a b = false → lt b c = false → lt a c = false

/-- Comparing by a rank in a linear order is such an order. -/
theorem weakOrder_of_rank {α β : Type} [LinearOrder β] {lt : α → α → Bool} (f : α → β) (h : ∀ a b, lt a b = true ↔ f a < f b) : WeakOrder lt := by
  have hf (a b : α) : lt a b = false ↔ f b ≤ f a := by rw [← not_lt, ← h, Bool.not_eq_true]
  refine ⟨fun {a b} hab => (hf b a).mpr ((h a b).mp hab).le, fun {a b c} hab hbc => (hf a c).mpr ?_⟩
  exact ((hf b c).mp hbc).trans ((hf a b).mp hab)

/-- The order of an image. -/
theorem WeakOrder.comap {α β : Type} {lt : β → β → Bool} (h : WeakOrder lt) (f : α → β) : WeakOrder (fun a b => lt (f a) (f b)) :=
  ⟨fun hab => h.asymm hab, fun hab hbc => h.negTrans hab hbc⟩

/-- Elements apart that come after all others. -/
theorem WeakOrder.lastClass {α : Type} {lt : α → α → Bool} {p : α → Bool}
    (hasymm : ∀ {a b}, p a = false → p b = false → lt a b = true → lt b a = false)
    (hneg : ∀ {a b c}, p a = false → p b = false → p c = false → lt a b = false → lt b c = false → lt a c = false) :
    WeakOrder (fun a b => if p a then false else if p b then true else lt a b) := by
  constructor
  · intro a b hab
    cases ha : p a <;> cases hb : p b <;> simp_all
  · intro a b c hab hbc
    cases ha : p a <;> cases hb : p b <;> cases hc : p c <;> simp_all
    exact hneg ha hb hc hab hbc

theorem WeakOrder.flip {α : Type} {lt : α → α → Bool} (h : WeakOrder lt) : WeakOrder (fun a b => lt b a) :=
  ⟨fun hab => h.asymm hab, fun hab hbc => h.negTrans hbc hab⟩

/-- Values that are no NaN, by their rank; NaN apart after them. -/
theorem weakOrder_f32 : WeakOrder (fun a b => if f32isNan a then false else if f32isNan b then true else (ofF32 a).lt (ofF32 b)) := by
  have hrank {a b : Nat} (ha : f32isNan a = false) (hb : f32isNan b = false) : (ofF32 a).lt (ofF32 b) = false ↔ (ofF32 b).rank ≤ (ofF32 a).rank := by
    rw [← not_lt, ← Fp.lt_iff ha hb, Bool.not_eq_true]
  refine WeakOrder.lastClass (fun ha hb hab => ?_) (fun ha hb hc hab hbc => ?_)
  · exact (hrank hb ha).mpr ((Fp.lt_iff ha hb).mp hab).le
  · exact (hrank ha hc).mpr (((hrank hb hc).mp hbc).trans ((hrank ha hb).mp hab))

theorem weakOrder_f32Desc : WeakOrder (fun a b => if f32isNan a then false else if f32isNan b then true else (ofF32 b).lt (ofF32 a)) := by
  have hrank {a b : Nat} (ha : f32isNan a = false) (hb : f32isNan b = false) : (ofF32 b).lt (ofF32 a) = false ↔ (ofF32 a).rank ≤ (ofF32 b).rank := by
    rw [← not_lt, ← Fp.lt_iff hb ha, Bool.not_eq_true]
  refine WeakOrder.lastClass (fun ha hb hab => ?_) (fun ha hb hc hab hbc => ?_)
  · exact (hrank hb ha).mpr ((Fp.lt_iff hb ha).mp hab).le
  · exact (hrank ha hc).mpr (((hrank ha hb).mp hab).trans ((hrank hb hc).mp hbc))

theorem weakOrder_keyBefore (ktype : Nat) (desc : Bool) : WeakOrder (keyBefore ktype desc) := by
  match ktype, desc with
  | 0, false => exact weakOrder_f32
  | 0, true => exact weakOrder_f32Desc
  | 1, false => exact weakOrder_of_rank id fun a b => decide_eq_true_iff
  | 1, true => exact (weakOrder_of_rank (lt := fun a b => decide (a < b)) id fun a b => decide_eq_true_iff).flip
  | k + 2, false => exact weakOrder_of_rank (asInt 32) fun a b => decide_eq_true_iff
  | k + 2, true => exact (weakOrder_of_rank (lt := fun a b => decide (asInt 32 a < asInt 32 b)) (asInt 32) fun a b => decide_eq_true_iff).flip

theorem weakOrder_evictBefore : WeakOrder evictBefore := by
  have hkeys : WeakOrder (fun a b : RankPair => if f32isNan b.key then false else if f32isNan a.key then true else (ofF32 a.key).lt (ofF32 b.key)) :=
    (weakOrder_f32Desc.comap RankPair.key).flip
  have heq : evictBefore = fun a b : RankPair => if f32isNan b.key then false else if f32isNan a.key then true else (ofF32 a.key).lt (ofF32 b.key) := by
    funext a b
    unfold evictBefore keyBefore
    cases ha : f32isNan a.key <;> cases hb : f32isNan b.key <;> simp
  rw [heq]
  exact hkeys

/-! ## Merging and sorting -/

section
variable {α : Type} {lt : α → α → Bool}

theorem mergeBy_eq_merge : ∀ (fuel : Nat) (a b : List α), a.length + b.length ≤ fuel → mergeBy lt fuel a b = a.merge b (fun x y => !lt y x)
  | 0, [], b, h => by simp [mergeBy]
  | 0, x :: a, b, h => by simp at h
  | fuel + 1, [], b, h => by simp [mergeBy]
  | fuel + 1, x :: a, [], h => by simp [mergeBy]
  | fuel + 1, x :: a, y :: b, h => by
    simp only [List.length_cons] at h
    rw [mergeBy, List.cons_merge_cons]
    cases hlt : lt y x
    · simp [mergeBy_eq_merge fuel a (y :: b) (by simp only [List.length_cons]; omega)]
    · simp [mergeBy_eq_merge fuel (x :: a) b (by simp only [List.length_cons]; omega)]

/-- Sorted: nothing comes before what precedes it. -/
def Sorted (lt : α → α → Bool) (l : List α) : Prop := l.Pairwise (fun a b => lt b a = false)

theorem sorted_merge (h : WeakOrder lt) {a b : List α} (ha : Sorted lt a) (hb : Sorted lt b) : Sorted lt (a.merge b (fun x y => !lt y x)) := by
  have hle (l : List α) : Sorted lt l ↔ l.Pairwise (fun x y => (!lt y x) = true) := by simp [Sorted]
  rw [hle] at *
  refine List.pairwise_merge (fun x y z hxy hyz => ?_) (fun x y => ?_) _ _ ha hb
  · rw [Bool.not_eq_true'] at *
    exact h.negTrans hyz hxy
  · cases hxy : lt x y
    · simp
    · simp [h.asymm hxy]

/-- Of elements that all tie, a merge takes those on the left first. -/
theorem filter_merge (h : WeakOrder lt) {p : α → Bool} (hp : ∀ x y, p x = true → p y = true → lt x y = false) :
    ∀ (a b : List α), Sorted lt a → (a.merge b (fun x y => !lt y x)).filter p = a.filter p ++ b.filter p
  | [], b, _ => by simp
  | x :: a, [], _ => by simp
  | x :: a, y :: b, ha => by
    rw [List.cons_merge_cons]
    cases hlt : lt y x
    · have ih := filter_merge h hp a (y :: b) (List.Pairwise.tail ha)
      simp only [Bool.not_false, if_true]
      rw [List.filter_cons, ih, List.filter_cons (xs := a)]
      split <;> simp
    · have ih := filter_merge h hp (x :: a) b ha
      simp only [Bool.not_true, Bool.false_eq_true, if_false]
      rw [List.filter_cons, ih]
      split
      · next hy =>
        have hnone : (x :: a).filter p = [] := by
          rw [List.filter_eq_nil_iff]
          intro z hz hpz
          have hzx : lt z x = false := by
            rcases List.mem_cons.mp hz with rfl | hz
            · cases hzz : lt z z
              · rfl
              · exact hzz.symm.trans (h.asymm hzz)
            · exact (List.pairwise_cons.mp ha).1 z hz
          have := h.negTrans (hp y z hy hpz) hzx
          rw [hlt] at this
          cases this
        simp [hnone, hy]
      · next hy => simp [hy]

/-- The sort of the Ranker: a rearrangement, in order, that keeps the order of elements that tie (R242). -/
theorem sortBy_spec (h : WeakOrder lt) : ∀ (fuel : Nat) (l : List α), l.length ≤ 2 ^ fuel →
    (sortBy lt fuel l).Perm l ∧ Sorted lt (sortBy lt fuel l) ∧
      ∀ p : α → Bool, (∀ x y, p x = true → p y = true → lt x y = false) → (sortBy lt fuel l).filter p = l.filter p
  | 0, l, hl => by
    have hshort : Sorted lt l := by
      match l, hl with
      | [], _ => exact List.Pairwise.nil
      | [x], _ => exact List.pairwise_singleton _ _
    exact ⟨List.Perm.refl l, hshort, fun _ _ => rfl⟩
  | fuel + 1, l, hl => by
    rw [sortBy]
    split
    · next hone =>
      have hshort : Sorted lt l := by
        match l, hone with
        | [], _ => exact List.Pairwise.nil
        | [x], _ => exact List.pairwise_singleton _ _
      exact ⟨List.Perm.refl l, hshort, fun _ _ => rfl⟩
    · have hpow : 2 ^ (fuel + 1) = 2 * 2 ^ fuel := by ring
      obtain ⟨hp1, hs1, hf1⟩ := sortBy_spec h fuel (l.take (l.length / 2)) (by rw [List.length_take]; omega)
      obtain ⟨hp2, hs2, hf2⟩ := sortBy_spec h fuel (l.drop (l.length / 2)) (by rw [List.length_drop]; omega)
      have hlen : (sortBy lt fuel (l.take (l.length / 2))).length + (sortBy lt fuel (l.drop (l.length / 2))).length ≤ l.length := by
        rw [hp1.length_eq, hp2.length_eq, List.length_take, List.length_drop]; omega
      dsimp only
      rw [mergeBy_eq_merge _ _ _ hlen]
      refine ⟨?_, sorted_merge h hs1 hs2, fun p hp => ?_⟩
      · refine (List.merge_perm_append _).trans ?_
        have happ := hp1.append hp2
        rwa [List.take_append_drop] at happ
      · rw [filter_merge h hp _ _ hs1, hf1 p hp, hf2 p hp, ← List.filter_append, List.take_append_drop]

/-- The sorted list is sorted already: dropping the front leaves nothing that comes before what was dropped. -/
theorem Sorted.take_drop {l : List α} (h : Sorted lt l) {n : Nat} {a b : α} (ha : a ∈ l.take n) (hb : b ∈ l.drop n) : lt b a = false := by
  rw [← List.take_append_drop n l, Sorted, List.pairwise_append] at h
  exact h.2.2 a ha b hb

end

end Sys2Proof.Machine

namespace Sys2Proof.Machine

/-! ## Checks that find nothing -/

theorem firstFail_eq_none : ∀ {l : List Check}, firstFail l = none ↔ ∀ c ∈ l, c.2 = true
  | [] => by simp [firstFail]
  | c :: r => by
    rw [firstFail, List.forall_mem_cons, ← firstFail_eq_none (l := r)]
    cases firstFail r <;> cases hc : c.2 <;> simp

theorem outside_eq_none {n a len : Nat} : outside n a len = none ↔ len = 0 ∨ localRange n a len := by
  have hsize : localSize = 0x600000 := rfl
  unfold outside localRange
  by_cases hz : len = 0
  · simp [hz]
  · simp only [hz, if_false, false_or]
    constructor
    · intro h
      split at h
      · cases h
      · split at h
        · cases h
        · split at h
          · cases h
          · omega
    · rintro ⟨hlo, hhi⟩
      rw [if_neg (by omega), if_neg (by omega), if_neg (by omega)]

theorem firstOutside_eq_none {n : Nat} : ∀ {l : List (Nat × Nat)}, firstOutside n l = none ↔ ∀ r ∈ l, outside n r.1 r.2 = none
  | [] => by simp [firstOutside]
  | r :: rest => by
    rw [firstOutside, List.forall_mem_cons, ← firstOutside_eq_none (l := rest)]
    cases outside n r.1 r.2 <;> simp

/-- What a check that finds nothing says of a range: it is empty, or the core's. -/
def localOrEmpty (n a len : Nat) : Prop := len = 0 ∨ localRange n a len

theorem localOrEmpty.sub {n a b len k : Nat} (h : localOrEmpty n a len) (hlo : a ≤ b) (hhi : b + k ≤ a + len) : localOrEmpty n b k := by
  rcases h with hz | h
  · exact .inl (by omega)
  · exact .inr (h.sub hlo hhi)

theorem localOrEmpty.sub' {n a len k : Nat} (h : localOrEmpty n a len) (hk : k ≤ len) : localOrEmpty n a k :=
  h.sub le_rfl (by omega)

/-! ## Core-local memory on which nothing is reported -/

theorem State.localQuiet.of_eq {s t : State} (h : s.localQuiet) (henv : t.env = s.env) (hpoison : t.poison = s.poison) (hbias : t.bias = s.bias) :
    t.localQuiet := by
  obtain ⟨hf, hp, hb⟩ := h
  exact ⟨by rw [henv, hf], by rw [hpoison, hp], by rw [hbias]; exact hb⟩

theorem State.localQuiet.setMem {s : State} (h : s.localQuiet) (m : Memory) : (s.setMem m).localQuiet := h

theorem State.localQuiet.count {s : State} (h : s.localQuiet) (o x : Nat) : (s.count o x).localQuiet :=
  h.of_eq (by simp) (by simp) (by simp)

theorem State.writeMem_localOrEmpty {s : State} (hq : s.localQuiet) {n a : Nat} (hn : n < 128) {bytes : List Byte}
    (h : localOrEmpty n a bytes.length) (src : Src) : s.writeMem src a bytes = (s.setMem (s.mem.setBytes a bytes), none) := by
  rcases h with hz | h
  · rw [List.length_eq_zero_iff.mp hz]
    rfl
  · exact State.writeMem_local hq hn h src

@[simp] theorem State.attFlagIf_mem (s : State) (n i : Nat) (b : Bool) : (s.attFlagIf n i b).mem = s.mem := by
  unfold State.attFlagIf State.attFlag
  split
  · split <;> simp
  · rfl

theorem State.localQuiet.attFlagIf {s : State} (h : s.localQuiet) (n i : Nat) (b : Bool) : (s.attFlagIf n i b).localQuiet := by
  unfold State.attFlagIf State.attFlag
  split
  · split <;> exact h.of_eq (by simp) (by simp) (by simp)
  · exact h

/-- A write apart leaves a range as it is. -/
theorem Memory.bytes_setBytes_apart (m : Memory) {a b len : Nat} {l : List Byte} (h : b + len ≤ a ∨ a + l.length ≤ b) :
    (m.setBytes a l).bytes b len = m.bytes b len := by
  rw [Memory.bytes_eq, Memory.bytes_eq]
  refine List.map_congr_left fun i hi => Memory.byte_setBytes_out m l ?_
  have := List.mem_range.mp hi
  omega

theorem Memory.bytes_openRange_apart (m : Memory) {lo hi b len k : Nat} (h : b + len ≤ lo ∨ hi ≤ b) :
    (m.openRange lo hi k).bytes b len = m.bytes b len := by
  rw [Memory.bytes_eq, Memory.bytes_eq]
  refine List.map_congr_left fun i hi => Memory.byte_openRange_out m ?_
  have := List.mem_range.mp hi
  omega

/-! ## The lengths of what a RANK writes -/

theorem length_toLe : ∀ (k n : Nat), (toLe k n).length = k
  | 0, _ => rfl
  | k + 1, n => by rw [toLe, List.length_cons, length_toLe]

theorem length_flatMap_const {α β : Type} (f : α → List β) (k : Nat) (h : ∀ x, (f x).length = k) (l : List α) :
    (l.flatMap f).length = k * l.length := by
  induction l with
  | nil => rfl
  | cons x l ih => rw [List.flatMap_cons, List.length_append, h, ih, List.length_cons, Nat.mul_succ, Nat.add_comm]

theorem length_pairBytes (p : RankPair) : (pairBytes p).length = 8 := by simp [pairBytes, length_toLe]

theorem rankSort_spec (ktype : Nat) (desc : Bool) (l : List RankPair) (h : l.length ≤ 2 ^ 64) :
    (rankSort ktype desc l).Perm l ∧ Sorted (fun a b : RankPair => keyBefore ktype desc a.key b.key) (rankSort ktype desc l) ∧
      ∀ p : RankPair → Bool, (∀ x y, p x = true → p y = true → keyBefore ktype desc x.key y.key = false) →
        (rankSort ktype desc l).filter p = l.filter p :=
  sortBy_spec ((weakOrder_keyBefore ktype desc).comap RankPair.key) 64 l h

theorem length_toppBytes (top : List RankPair) (c p u : Nat) : (toppBytes top c p u).length = 16 := by
  unfold toppBytes
  dsimp only
  split <;> simp [length_toLe]

theorem length_listSet {α : Type} : ∀ (l : List α) (i : Nat) (x : α), (listSet l i x).length = l.length
  | [], _, _ => rfl
  | _ :: _, 0, _ => rfl
  | _ :: r, i + 1, x => by rw [listSet, List.length_cons, length_listSet r i x, List.length_cons]

theorem length_routeSlots (cap seg : Nat) : ∀ (l : List RankPair) (counts : List Nat),
    (routeSlots cap seg l counts).1.length = l.length ∧ (routeSlots cap seg l counts).2.length = counts.length
  | [], _ => ⟨rfl, rfl⟩
  | e :: r, counts => by
    obtain ⟨h1, h2⟩ := length_routeSlots cap seg r (listSet counts e.pay (counts.getD e.pay 0 + 1))
    rw [length_listSet] at h2
    exact ⟨by simp only [routeSlots, List.length_cons, h1], by simp only [routeSlots, h2]⟩

/-- At most k choices are taken of each row. -/
theorem length_cut_flatMap {α β : Type} (f : List α → List β) (seg k : Nat) (hseg : 0 < seg) (hf : ∀ row, (f row).length ≤ k) :
    ∀ (t fuel : Nat) (l : List α), l.length ≤ seg * t → ((cut seg fuel l).flatMap f).length ≤ t * k
  | t, 0, l, _ => by simp [cut]
  | 0, fuel + 1, l, h => by
    have hl : l = [] := List.length_eq_zero_iff.mp (by omega)
    simp [cut, hl]
  | t + 1, fuel + 1, l, h => by
    rw [cut]
    split
    · simp
    · have hdrop : (l.drop seg).length ≤ seg * t := by
        rw [List.length_drop]
        rw [Nat.mul_succ] at h
        omega
      have ih := length_cut_flatMap f seg k hseg hf t fuel (l.drop seg) hdrop
      rw [List.flatMap_cons, List.length_append, Nat.succ_mul]
      have := hf (l.take seg)
      omega

theorem length_routeChoices {seg k t : Nat} (hseg : 0 < seg) (keys : List Nat) (h : keys.length ≤ seg * t) :
    (routeChoices seg k keys).length ≤ t * k :=
  length_cut_flatMap _ seg k hseg (fun _ => by rw [List.length_take]; exact Nat.min_le_left _ _) t _ keys h


/-! ## RANK (R242 to R247) -/

/-- The keys of a RANK, each with its payload, as the bytes read say. -/
def rankPairs (r : Fetched) (src : List Byte) : List RankPair :=
  (List.range (r.f 0x20 4)).map fun i =>
    if bit (r.f 0x27 1) 0 then (⟨leAt src (8 * i) 4, leAt src (8 * i + 4) 4⟩ : RankPair) else ⟨leAt src (4 * i) 4, i⟩

theorem length_rankPairs (r : Fetched) (src : List Byte) : (rankPairs r src).length = r.f 0x20 4 := by simp [rankPairs]

/-- What the checks of a RANK leave when they find nothing. -/
theorem rankFail_eq_none {c : Ctx} {s : State} (h : rankFail c s = none) :
    c.item.f 0x26 1 ≤ 4 ∧ rankShape c.item = none ∧
      localOrEmpty c.core (c.item.f 8 8) (c.item.f 0x20 4 * (if bit (c.item.f 0x27 1) 0 then 8 else 4)) ∧
      localOrEmpty c.core (c.item.f 0x10 8) (rankLens c.item).1 ∧ localOrEmpty c.core (c.item.f 0x18 8) (rankLens c.item).2 := by
  unfold rankFail at h
  dsimp only at h
  split at h
  · cases h
  · next hformat =>
    split at h
    · cases h
    · next hshape =>
      rw [Option.map_eq_none_iff, firstOutside_eq_none] at h
      simp only [List.forall_mem_cons, outside_eq_none] at h
      have hop := firstFail_eq_none.mp hformat (0x26, decide (c.item.f 0x26 1 ≤ 4)) (by simp)
      exact ⟨of_decide_eq_true hop, hshape, h.1, h.2.1, h.2.2.1⟩

theorem rankShape_count {r : Fetched} (h : rankShape r = none) : 1 ≤ r.f 0x20 4 ∧ r.f 0x20 4 ≤ 65536 := by
  have hcheck := firstFail_eq_none.mp h (0x20, decide (1 ≤ r.f 0x20 4 ∧ r.f 0x20 4 ≤ 65536))
    (List.mem_append_left _ (by simp))
  exact of_decide_eq_true hcheck

theorem rankShape_rows {r : Fetched} (h : rankShape r = none) (hop : r.f 0x26 1 = 4) : 1 ≤ r.f 0x34 2 ∧ r.f 0x20 4 % r.f 0x34 2 = 0 := by
  have hcheck := firstFail_eq_none.mp h (0x20, decide (1 ≤ r.f 0x34 2) && r.f 0x20 4 % r.f 0x34 2 == 0)
    (List.mem_append_right _ (by simp [hop]))
  simpa using hcheck

/-- What a RANK writes fits in the ranges that its checks have found good. -/
theorem length_rankOut {r : Fetched} (h : rankShape r = none) (hop : r.f 0x26 1 ≤ 4) {xs : List RankPair} (hxs : xs.length = r.f 0x20 4) :
    (rankOut r xs).1.length ≤ (rankLens r).1 ∧ (rankOut r xs).2.length ≤ (rankLens r).2 := by
  obtain ⟨-, hn⟩ := rankShape_count h
  have hsorted : (rankSort (bits (r.f 0x27 1) 3 2) (bit (r.f 0x27 1) 1) xs).length = r.f 0x20 4 := by
    rw [(rankSort_spec _ _ xs (by rw [hxs]; omega)).1.length_eq, hxs]
  unfold rankOut rankLens
  dsimp only
  split
  · simp [length_flatMap_const _ 8 length_pairBytes, hsorted]
  · simp [length_flatMap_const _ 8 length_pairBytes]
  · simp [length_toppBytes]
  · simp [length_flatMap_const _ 4 (length_toLe 4), histCounts]
  · next h0 h1 h2 h3 =>
    change r.f 0x26 1 ≠ 0 at h0
    change r.f 0x26 1 ≠ 1 at h1
    change r.f 0x26 1 ≠ 2 at h2
    change r.f 0x26 1 ≠ 3 at h3
    obtain ⟨hseg, hrows⟩ := rankShape_rows h (by omega)
    have hch := length_routeChoices (k := r.f 0x24 2) (t := r.f 0x20 4 / r.f 0x34 2) hseg (xs.map (·.key)) (by
      rw [List.length_map, hxs]
      exact (Nat.mul_div_cancel' (Nat.dvd_of_mod_eq_zero hrows)).ge)
    generalize routeChoices (r.f 0x34 2) (r.f 0x24 2) (xs.map (·.key)) = choices at hch ⊢
    obtain ⟨hslots, hcounts⟩ := length_routeSlots (r.f 0x28 4) (r.f 0x34 2) choices (List.replicate (r.f 0x34 2) 0)
    rw [List.length_replicate] at hcounts
    have hmax : max 1 (r.f 0x34 2) = r.f 0x34 2 := by omega
    constructor
    · rw [List.length_append, length_flatMap_const _ 8 (by simp [length_toLe]), length_flatMap_const _ 4 (length_toLe 4), hcounts,
        List.length_zip, hslots, min_self, hmax, Nat.mul_assoc]
      omega
    · rw [hmax]
      split
      · simp
      · dsimp only
        rw [length_flatMap_const _ 4 (fun e : RankPair => length_toLe 4 e.key), Nat.mul_assoc]
        omega

/-- The state of a RANK after its reads, before its writes. -/
def rankCounted (c : Ctx) (s : State) (xs : List RankPair) : State :=
  (s.count (Reg.ATT_CNT_RANKKEYS c.core) (c.item.f 0x20 4)).attFlagIf c.core 3
    (bits (c.item.f 0x27 1) 3 2 == 0 && xs.any (fun e => f32isNan e.key))

/-- Memory once a RANK has written its two results. -/
def rankMem (r : Fetched) (m : Memory) (xs : List RankPair) : Memory :=
  (m.setBytes (r.f 0x10 8) (rankOut r xs).1).setBytes (r.f 0x18 8) (rankOut r xs).2

/-- What a RANK does once its keys are read. -/
def rankRest (c : Ctx) (s : State) (xs : List RankPair) : State × Phase :=
  let r := c.item
  let (s, e1) := (rankCounted c s xs).writeMem (srcCore c.core) (r.f 0x10 8) (rankOut r xs).1
  let (s, e2) := s.writeMem (srcCore c.core) (r.f 0x18 8) (rankOut r xs).2
  let s := if r.f 0x26 1 = 0 ∧ 4096 < r.f 0x20 4 then s.openRange (r.f 0x18 8) (r.f 0x18 8 + (rankLens r).2) else s
  endMem s (e1.orElse (fun _ => e2))

theorem rankWork_of_read {c : Ctx} {s t : State} {rd : Rd}
    (h : s.readMem (srcCore c.core) (c.item.f 8 8) (c.item.f 0x20 4 * (if bit (c.item.f 0x27 1) 0 then 8 else 4)) = (t, rd)) (herr : rd.err = none) :
    rankWork c s = rankRest c t (rankPairs c.item rd.bytes) := by
  unfold rankWork
  dsimp only
  rw [h]
  dsimp only
  rw [herr]
  rfl

/-- The keys that a RANK sorts, each with its payload. -/
def rankKeys (r : Fetched) (m : Memory) : List RankPair :=
  rankPairs r (m.bytes (r.f 8 8) (r.f 0x20 4 * (if bit (r.f 0x27 1) 0 then 8 else 4)))

/-- The state that a RANK leaves. -/
def rankDone (c : Ctx) (s : State) : State :=
  let r := c.item
  let t := (rankCounted c s (rankKeys r s.mem)).setMem (rankMem r s.mem (rankKeys r s.mem))
  if r.f 0x26 1 = 0 ∧ 4096 < r.f 0x20 4 then t.openRange (r.f 0x18 8) (r.f 0x18 8 + (rankLens r).2) else t

theorem rankWork_eq {c : Ctx} {s : State} (hn : c.core < 128) (h : rankFail c s = none) (hq : s.localQuiet) :
    rankWork c s = endOk (rankDone c s) := by
  obtain ⟨hop, hshape, hsrc, hdst, haux⟩ := rankFail_eq_none h
  have hcount := (rankShape_count hshape).1
  have hsrc' : localRange c.core (c.item.f 8 8) (c.item.f 0x20 4 * (if bit (c.item.f 0x27 1) 0 then 8 else 4)) :=
    hsrc.resolve_left (by split <;> omega)
  have hq' : (rankCounted c s (rankKeys c.item s.mem)).localQuiet := (hq.count _ _).attFlagIf _ _ _
  have hmem : (rankCounted c s (rankKeys c.item s.mem)).mem = s.mem := by simp [rankCounted]
  obtain ⟨hlen1, hlen2⟩ := length_rankOut hshape hop (length_rankPairs c.item
    (s.mem.bytes (c.item.f 8 8) (c.item.f 0x20 4 * (if bit (c.item.f 0x27 1) 0 then 8 else 4))))
  rw [rankWork_of_read (State.readMem_local hq hn hsrc' _) rfl]
  unfold rankRest
  dsimp only
  rw [← rankKeys] at *
  rw [State.writeMem_localOrEmpty hq' hn (hdst.sub' hlen1), hmem]
  dsimp only
  rw [State.writeMem_localOrEmpty (hq'.setMem _) hn (haux.sub' hlen2)]
  rfl

theorem rankDone_mem (c : Ctx) (s : State) : (rankDone c s).mem =
    if c.item.f 0x26 1 = 0 ∧ 4096 < c.item.f 0x20 4 then
      (rankMem c.item s.mem (rankKeys c.item s.mem)).openRange (c.item.f 0x18 8) (c.item.f 0x18 8 + (rankLens c.item).2) s.free
    else rankMem c.item s.mem (rankKeys c.item s.mem) := by
  have hfree : (rankCounted c s (rankKeys c.item s.mem)).free = s.free := by
    unfold rankCounted State.attFlagIf State.attFlag
    split
    · split <;> simp
    · simp
  unfold rankDone
  dsimp only
  split
  · rw [← hfree]
    rfl
  · rfl

/-- The Ranker's results are where the record wants them. -/
theorem rankDone_bytes {c : Ctx} {s : State} (h : rankFail c s = none)
    (hapart : c.item.f 0x10 8 + (rankLens c.item).1 ≤ c.item.f 0x18 8 ∨ c.item.f 0x18 8 + (rankLens c.item).2 ≤ c.item.f 0x10 8) :
    (rankDone c s).mem.bytes (c.item.f 0x10 8) (rankOut c.item (rankKeys c.item s.mem)).1.length = (rankOut c.item (rankKeys c.item s.mem)).1 := by
  obtain ⟨hop, hshape, -, -, -⟩ := rankFail_eq_none h
  obtain ⟨hlen1, hlen2⟩ := length_rankOut (xs := rankKeys c.item s.mem) hshape hop (length_rankPairs _ _)
  have hwritten : (rankMem c.item s.mem (rankKeys c.item s.mem)).bytes (c.item.f 0x10 8) (rankOut c.item (rankKeys c.item s.mem)).1.length =
      (rankOut c.item (rankKeys c.item s.mem)).1 := by
    rw [rankMem, Memory.bytes_setBytes_apart _ (by omega), Memory.bytes_setBytes]
  rw [rankDone_mem]
  split
  · rw [Memory.bytes_openRange_apart _ (by omega), hwritten]
  · exact hwritten

theorem rankDone_aux {c : Ctx} {s : State} (hop : c.item.f 0x26 1 = 4) :
    (rankDone c s).mem.bytes (c.item.f 0x18 8) (rankOut c.item (rankKeys c.item s.mem)).2.length = (rankOut c.item (rankKeys c.item s.mem)).2 := by
  rw [rankDone_mem, if_neg (by omega), rankMem, Memory.bytes_setBytes]

theorem rankOut_aux {r : Fetched} {xs : List RankPair} (hop : r.f 0x26 1 = 4) (haux : r.f 0x18 8 ≠ 0) :
    (rankOut r xs).2 = (routeChoices (r.f 0x34 2) (r.f 0x24 2) (xs.map (·.key))).flatMap (fun e => toLe 4 e.key) := by
  unfold rankOut
  dsimp only
  rw [hop]
  exact if_neg haux

/-- The first result, as the operation says. -/
theorem rankOut_fst (r : Fetched) (xs : List RankPair) : (rankOut r xs).1 =
    (let sorted := rankSort (bits (r.f 0x27 1) 3 2) (bit (r.f 0x27 1) 1) xs
     let choices := routeChoices (r.f 0x34 2) (r.f 0x24 2) (xs.map (·.key))
     let slots := routeSlots (r.f 0x28 4) (r.f 0x34 2) choices (List.replicate (r.f 0x34 2) 0)
     match r.f 0x26 1 with
     | 0 => sorted.flatMap pairBytes
     | 1 => (sorted.take (r.f 0x24 2)).flatMap pairBytes
     | 2 => toppBytes (sorted.take (r.f 0x24 2)) (r.f 0x28 4) (r.f 0x2C 4) (r.f 0x30 4)
     | 3 => (histCounts (bits (r.f 0x27 1) 3 2) (r.f 0x28 4) (r.f 0x24 2) (xs.map (·.key))).flatMap (toLe 4)
     | _ => (List.zip choices slots.1).flatMap (fun e => toLe 4 e.1.pay ++ toLe 4 e.2) ++ slots.2.flatMap (toLe 4)) := by
  unfold rankOut
  dsimp only
  generalize r.f 0x26 1 = op
  match op with
  | 0 | 1 | 2 | 3 | _ + 4 => rfl

/-- Settles O36: the sort is a stable merge sort by a weak order, and a RANK writes its results to core-local memory. -/
theorem rankSortsStably : Obligations.RankSortsStably := by
  unfold Obligations.RankSortsStably
  refine ⟨fun ktype desc l hl _ => ?_, fun c s hn hfail hfaults hpoison hbias => ?_⟩
  · obtain ⟨hperm, hsorted, hstable⟩ := rankSort_spec ktype desc l (by omega)
    refine ⟨hperm, hsorted, fun k _ => hstable _ fun x y hx hy => ?_⟩
    simp only [Bool.and_eq_true, Bool.not_eq_true'] at hx hy
    exact (weakOrder_keyBefore ktype desc).negTrans hx.1 hy.2
  · have hq : s.localQuiet := ⟨hfaults, hpoison, hbias⟩
    intro r n k kt pairs src xs sorted choices slots data t
    have ht : t = (rankDone c s).mem := by simp only [t, rankWork_eq hn hfail hq]; rfl
    have hdata : (rankOut c.item (rankKeys c.item s.mem)).1 = data := rankOut_fst c.item (rankKeys c.item s.mem)
    refine ⟨by rw [rankWork_eq hn hfail hq]; rfl, fun hapart => ?_, fun hop haux => ?_⟩
    · rw [ht, ← hdata]
      exact rankDone_bytes hfail hapart
    · have hlen : 4 * choices.length = (choices.flatMap (fun e => toLe 4 e.key)).length :=
        (length_flatMap_const _ 4 (fun e : RankPair => length_toLe 4 e.key) choices).symm
      rw [ht, hlen, ← show (rankOut c.item (rankKeys c.item s.mem)).2 = choices.flatMap (fun e => toLe 4 e.key) from rankOut_aux hop haux]
      exact rankDone_aux hop

end Sys2Proof.Machine

namespace Sys2Proof.Machine

/-! ## The choice of an eviction (R239, step 1) -/

section
variable {table : List Byte} {frames : Nat}

theorem mem_evictKeys {e : RankPair} : e ∈ evictKeys table frames ↔ e.key = leAt table (32 * e.pay) 4 ∧ e.pay < frames ∧
    leAt table (32 * e.pay + 4) 1 = 1 ∧ leAt table (32 * e.pay + 5) 1 = 0 := by
  obtain ⟨key, pay⟩ := e
  simp only [evictKeys, List.mem_map, List.mem_filter, List.mem_range, Bool.and_eq_true, beq_iff_eq, RankPair.mk.injEq]
  constructor
  · rintro ⟨f, ⟨hf, hl, hp⟩, rfl, rfl⟩
    exact ⟨rfl, hf, hl, hp⟩
  · rintro ⟨rfl, hf, hl, hp⟩
    exact ⟨pay, ⟨hf, hl, hp⟩, rfl, rfl⟩

/-- The keys stand in the order of their frames. -/
theorem pairwise_evictKeys (table : List Byte) (frames : Nat) : (evictKeys table frames).Pairwise (fun a b => a.pay < b.pay) :=
  List.pairwise_map.mpr (List.pairwise_lt_range.filter _)

theorem length_evictKeys (table : List Byte) (frames : Nat) : (evictKeys table frames).length ≤ frames := by
  rw [evictKeys, List.length_map]
  exact (List.length_filter_le _ _).trans_eq List.length_range

/-- The keys as the Ranker sorts them for an eviction. -/
def evictSorted (table : List Byte) (frames : Nat) : List RankPair := sortBy evictBefore 64 (evictKeys table frames)

theorem evictSorted_spec (table : List Byte) {frames : Nat} (h : frames ≤ 65536) :
    (evictSorted table frames).Perm (evictKeys table frames) ∧ Sorted evictBefore (evictSorted table frames) ∧
      ∀ p : RankPair → Bool, (∀ x y, p x = true → p y = true → evictBefore x y = false) →
        (evictSorted table frames).filter p = (evictKeys table frames).filter p := by
  have := length_evictKeys table frames
  exact sortBy_spec weakOrder_evictBefore 64 _ (by omega)

theorem mem_evictChoice {count f : Nat} : f ∈ evictChoice table frames count ↔ ∃ e ∈ (evictSorted table frames).take count, e.pay = f :=
  List.mem_map

/-- Of two elements that tie, the one that the sort puts first came first. -/
theorem evict_tie (h : frames ≤ 65536) {count : Nat} {a b : RankPair} (ha : a ∈ (evictSorted table frames).take count)
    (hb : b ∈ (evictSorted table frames).drop count) (hab : evictBefore a b = false) (hba : evictBefore b a = false) : a.pay < b.pay := by
  obtain ⟨-, -, hstable⟩ := evictSorted_spec table h
  let ties (e : RankPair) : Bool := !evictBefore e a && !evictBefore a e
  have hfilter : (evictSorted table frames).filter ties = (evictKeys table frames).filter ties := by
    refine hstable ties fun x y hx hy => ?_
    simp only [ties, Bool.and_eq_true, Bool.not_eq_true'] at hx hy
    exact weakOrder_evictBefore.negTrans hx.1 hy.2
  have hrising : ((evictSorted table frames).filter ties).Pairwise (fun a b => a.pay < b.pay) := by
    rw [hfilter]
    exact (pairwise_evictKeys table frames).filter _
  rw [← List.take_append_drop count (evictSorted table frames), List.filter_append, List.pairwise_append] at hrising
  have hself : evictBefore a a = false := by
    cases haa : evictBefore a a
    · rfl
    · exact haa.symm.trans (weakOrder_evictBefore.asymm haa)
  exact hrising.2.2 a (List.mem_filter.mpr ⟨ha, by simp [ties, hself]⟩) b (List.mem_filter.mpr ⟨hb, by simp [ties, hab, hba]⟩)

theorem evictChoice_spec (h : frames ≤ 65536) (count : Nat) :
    (∀ f ∈ evictChoice table frames count, f < frames ∧ leAt table (32 * f + 4) 1 = 1 ∧ leAt table (32 * f + 5) 1 = 0) ∧
    (evictChoice table frames count).Nodup ∧ (evictChoice table frames count).length = min count (evictKeys table frames).length ∧
    ∀ f ∈ evictChoice table frames count, ∀ g, (g < frames ∧ leAt table (32 * g + 4) 1 = 1 ∧ leAt table (32 * g + 5) 1 = 0) →
      g ∉ evictChoice table frames count →
      evictBefore ⟨leAt table (32 * g) 4, g⟩ ⟨leAt table (32 * f) 4, f⟩ = false ∧
      (evictBefore ⟨leAt table (32 * f) 4, f⟩ ⟨leAt table (32 * g) 4, g⟩ = false → f < g) := by
  obtain ⟨hperm, hsorted, -⟩ := evictSorted_spec table h
  have hmem {e : RankPair} (he : e ∈ (evictSorted table frames).take count) := mem_evictKeys.mp (hperm.mem_iff.mp (List.mem_of_mem_take he))
  refine ⟨fun f hf => ?_, ?_, ?_, fun f hf g hg hout => ?_⟩
  · obtain ⟨e, he, rfl⟩ := mem_evictChoice.mp hf
    exact (hmem he).2
  · have hnodup : ((evictKeys table frames).map (·.pay)).Nodup :=
      List.pairwise_map.mpr ((pairwise_evictKeys table frames).imp fun hlt => hlt.ne)
    exact (((hperm.map _).nodup_iff.mpr hnodup).sublist ((List.take_sublist count _).map _))
  · rw [evictChoice, List.length_map, List.length_take, ← evictSorted, hperm.length_eq]
  · obtain ⟨e, he, rfl⟩ := mem_evictChoice.mp hf
    have hkey := (hmem he).1
    have hmemg : (⟨leAt table (32 * g) 4, g⟩ : RankPair) ∈ evictSorted table frames := hperm.mem_iff.mpr (mem_evictKeys.mpr ⟨rfl, hg⟩)
    rw [← List.take_append_drop count (evictSorted table frames), List.mem_append] at hmemg
    have hdrop := hmemg.resolve_left fun htake => hout (mem_evictChoice.mpr ⟨_, htake, rfl⟩)
    rw [← hkey]
    exact ⟨hsorted.take_drop he hdrop, fun htie => evict_tie h he hdrop htie (hsorted.take_drop he hdrop)⟩

end

/-! ## The end of an eviction (R239, R240) -/

@[simp] theorem State.kvPool_setKvPool_self (s : State) (r : Nat) (x : KvPool) : (s.setKvPool r x).kvPool r = x := mget_mset_self _ _ _ _

theorem State.likeMem.kvPools {s t : State} (h : s.likeMem t) : t.kvPools = s.kvPools := by
  obtain ⟨_, _, _, _, _, _, _, _, _, _, _, rfl⟩ := h
  rfl

theorem State.kvPool_readMem (s : State) (src : Src) (a n r : Nat) : (s.readMem src a n).1.kvPool r = s.kvPool r := by
  rw [State.kvPool, (s.likeMem_readMem src a n).kvPools, State.kvPool]

theorem State.kvPool_writeMem (s : State) (src : Src) (a : Nat) (b : List Byte) (r : Nat) : (s.writeMem src a b).1.kvPool r = s.kvPool r := by
  rw [State.kvPool, (s.likeMem_writeMem src a b).kvPools, State.kvPool]

/-- A frame that is free again stands at the end of the free list. -/
theorem State.free_evictFrame (r : Nat) (s : State) (f : Nat) : ((State.evictFrame r s f).kvPool r).free = (s.kvPool r).free ++ [f] := by
  unfold State.evictFrame
  dsimp only
  rw [State.kvPool_setKvPool_self, State.kvPool_writeMem]
  split <;> simp [State.kvPool_writeMem, State.kvPool_readMem]

theorem State.free_evictFrames (r : Nat) : ∀ (l : List Nat) (s : State), ((l.foldl (State.evictFrame r) s).kvPool r).free = (s.kvPool r).free ++ l
  | [], s => by simp
  | f :: l, s => by rw [List.foldl_cons, State.free_evictFrames r l, State.free_evictFrame, List.append_assoc]; rfl

theorem State.kvPools_setPhaseOf (s : State) (q num : Nat) (ph : Phase) : (s.setPhaseOf q num ph).kvPools = s.kvPools := by
  unfold State.setPhaseOf State.leave
  dsimp only
  split
  · split <;> rfl
  · rfl

theorem State.regs_setPhaseOf (s : State) (q num : Nat) (ph : Phase) : (s.setPhaseOf q num ph).regs = s.regs := by
  unfold State.setPhaseOf State.leave
  dsimp only
  split
  · split <;> rfl
  · rfl

/-- The pool once the frames of an eviction are free, and no longer in it. -/
def State.evictEnded (s : State) (r : Nat) (e : Evict) : State :=
  let t := e.chosen.foldl (State.evictFrame r) s
  t.setKvPool r { t.kvPool r with running := none }

/-- The pool with what the eviction tells: the number of its frames, and PIN_FULL where they are fewer than asked. -/
def State.evictTold (s : State) (r : Nat) (e : Evict) : State :=
  let t := (s.evictEnded r e).setFld (Reg.ATT_KV_STATUS r) 59 47 e.chosen.length
  if e.chosen.length < e.count then t.kvEvent r 1 0 0 else t

/-- The status with which the KVTRIM that asked for an eviction ends. -/
def Evict.phase (e : Evict) : Phase :=
  match e.err with
  | some (st, a) => .ended st (a % 2 ^ 32)
  | none => .ended stOk 0

theorem State.evictFree_eq (s : State) (r : Nat) (e : Evict) : s.evictFree r e =
    match e.owner with
    | some (q, num) => (s.evictTold r e).setPhaseOf q num e.phase
    | none => s.evictTold r e := by
  obtain ⟨count, owner, chosen, err⟩ := e
  match owner, err with
  | none, _ => rfl
  | some (_, _), none => rfl
  | some (_, _), some (_, _) => rfl

theorem State.kvEvent_kvPools (s : State) (r i seq lp : Nat) : (s.kvEvent r i seq lp).kvPools = s.kvPools := by
  unfold State.kvEvent State.kvFlag
  split <;> simp

theorem State.kvPools_evictTold (s : State) (r : Nat) (e : Evict) : (s.evictTold r e).kvPools = (s.evictEnded r e).kvPools := by
  unfold State.evictTold
  dsimp only
  split <;> simp [State.kvEvent_kvPools]

/-- Ending the record of the KVTRIM leaves the pool and the registers as they are told. -/
theorem State.evictFree_kvPools (s : State) (r : Nat) (e : Evict) : (s.evictFree r e).kvPools = (s.evictEnded r e).kvPools := by
  rw [State.evictFree_eq, ← State.kvPools_evictTold]
  split
  · exact State.kvPools_setPhaseOf _ _ _ _
  · rfl

theorem State.evictFree_fld (s : State) (r : Nat) (e : Evict) (o hi lo : Nat) : (s.evictFree r e).fld o hi lo = (s.evictTold r e).fld o hi lo := by
  rw [State.evictFree_eq]
  split
  · exact State.fld_of_regs (State.regs_setPhaseOf _ _ _ _) o hi lo
  · rfl

theorem State.evictFree_pool (s : State) (r : Nat) (e : Evict) :
    ((s.evictFree r e).kvPool r).free = (s.kvPool r).free ++ e.chosen ∧ ((s.evictFree r e).kvPool r).running = none := by
  have hpool : (s.evictFree r e).kvPool r = (s.evictEnded r e).kvPool r := by rw [State.kvPool, State.evictFree_kvPools, State.kvPool]
  rw [hpool, State.evictEnded]
  simp [State.free_evictFrames]

theorem State.fld_kvEvent_off (s : State) {r o : Nat} (i seq lp hi lo : Nat) (ho : o < 0xD000000) (h : o ≠ Reg.ATT_KV_EVENT r)
    (h0 : o ≠ Reg.ATT_KV_EVENT_CNT0 r) (h1 : o ≠ Reg.ATT_KV_EVENT_CNT1 r) : (s.kvEvent r i seq lp).fld o hi lo = s.fld o hi lo := by
  rw [State.kvEvent, State.fld_post _ _ _ _ _ _ _ ho, State.kvFlag]
  split <;> simp only [State.fld, State.reg_raise_ne _ _ _ h h0, State.reg_raise_ne _ _ _ h h1]

/-- LAST_EVICT is the number of the frames (R240). -/
theorem State.evictTold_last (s : State) {r : Nat} (hr : r < 16) (e : Evict) :
    (s.evictTold r e).fld (Reg.ATT_KV_STATUS r) 59 47 = e.chosen.length % 2 ^ 13 := by
  have hset : ((s.evictEnded r e).setFld (Reg.ATT_KV_STATUS r) 59 47 e.chosen.length).fld (Reg.ATT_KV_STATUS r) 59 47 = e.chosen.length % 2 ^ 13 :=
    State.fld_setFld_self _ _ _ (by decide) (by decide)
  unfold State.evictTold
  dsimp only
  split
  · rw [State.fld_kvEvent_off, hset]
    all_goals simp only [Reg.ATT_KV_STATUS, Reg.ATT_KV_EVENT, Reg.ATT_KV_EVENT_CNT0, Reg.ATT_KV_EVENT_CNT1]; omega
  · exact hset

/-- PIN_FULL is set where the frames are fewer than asked (R240). -/
theorem State.evictTold_pinFull (s : State) {r : Nat} (hr : r < 16) {e : Evict} (h : e.chosen.length < e.count) :
    (s.evictTold r e).fld (Reg.ATT_KV_EVENT r) 1 1 = 1 := by
  have hne : Reg.ATT_KV_EVENT r ≠ Reg.ATT_KV_EVENT_CNT0 r := by simp only [Reg.ATT_KV_EVENT, Reg.ATT_KV_EVENT_CNT0]; omega
  have hlt : Reg.ATT_KV_EVENT r < 0xD000000 := by simp only [Reg.ATT_KV_EVENT]; omega
  unfold State.evictTold
  dsimp only
  rw [if_pos h, State.kvEvent, State.fld_post _ _ _ _ _ _ _ hlt]
  exact State.fld_raise_flag _ (by decide) hne

/-- What becomes of the record that asked for the eviction. -/
theorem State.evictFree_owner (s : State) (r : Nat) {e : Evict} {q num : Nat} (h : e.owner = some (q, num)) :
    ∃ v : State, (e.err = none → s.evictFree r e = v.setPhaseOf q num (.ended stOk 0)) ∧
      ∀ st a, e.err = some (st, a) → s.evictFree r e = v.setPhaseOf q num (.ended st (a % 2 ^ 32)) := by
  have heq : s.evictFree r e = (s.evictTold r e).setPhaseOf q num e.phase := by rw [State.evictFree_eq, h]
  refine ⟨s.evictTold r e, fun herr => ?_, fun st a herr => ?_⟩
  · rw [heq, Evict.phase, herr]
  · rw [heq, Evict.phase, herr]

/-! ## The commands (R238, R239) -/

theorem exec_evictionStart {s : State} {r : Nat} (env : Env) (hr : r < 16) (hi : s.issuing) :
    exec (.evictionStart r env) s = .next (s.keep ((s.evictStart r env).unitsOn env)) :=
  (part_true (decide_eq_true hr) _).trans (State.engine_issuing _ hi)

theorem exec_evictionDone {s : State} {r : Nat} (env : Env) (hr : r < 16) (hl : s.live) :
    exec (.evictionDone r env) s = .next (s.keep ((s.evictDone r env).freed env)) :=
  (part_true (decide_eq_true hr) _).trans (State.run_live _ hl)

/-- Nothing begins where no eviction waits or one runs. -/
theorem State.evictStart_idle {s : State} {r : Nat} (env : Env) (h : (s.kvPool r).waiting = [] ∨ (s.kvPool r).running ≠ none) :
    s.evictStart r env = s := by
  unfold State.evictStart
  dsimp only
  split
  · next e rest hw hrun => rcases h with h | h <;> simp_all
  · rfl

theorem State.evictStart_waiting {s : State} {r : Nat} {e : Evict} {rest : List Evict} (env : Env) (hw : (s.kvPool r).waiting = e :: rest)
    (hrun : (s.kvPool r).running = none) : s.evictStart r env =
      if s.quiescing ∨ s.rankerEvicts (s.fld (Reg.ATT_KV_CFG r) 26 20) then s else s.settle (.kv r) env (fun s => s.evictChoose r e rest) := by
  unfold State.evictStart
  dsimp only
  rw [hw, hrun]

theorem State.evictDone_running {s : State} {r : Nat} {e : Evict} (env : Env) (h : (s.kvPool r).running = some e) :
    s.evictDone r env = if s.frameInUse r e.chosen then s else s.settle (.kv r) env (fun s => s.evictFree r e) := by
  unfold State.evictDone
  rw [h]

theorem State.evictDone_idle {s : State} {r : Nat} (env : Env) (h : (s.kvPool r).running = none) : s.evictDone r env = s := by
  unfold State.evictDone
  rw [h]

/-- Settles O35: an eviction takes the front of the Ranker's sorted frames, and frees them once no walker uses them. -/
theorem evictions : Obligations.Evictions := by
  unfold Obligations.Evictions
  refine ⟨fun r env s hr hi => ⟨fun e rest hw hrun => ⟨fun hq hrank => ?_, fun h => ?_⟩, fun h => ?_, fun e hrun => ⟨fun h => ?_, fun h => ?_, fun u => ?_⟩,
    fun h => ?_⟩, fun table frames count h => evictChoice_spec h count⟩
  · rw [exec_evictionStart env hr hi, State.evictStart_waiting env hw hrun, if_neg (by simp [hq, hrank])]
  · rw [exec_evictionStart env hr hi, State.evictStart_waiting env hw hrun, if_pos h]
  · rw [exec_evictionStart env hr hi, State.evictStart_idle env h]
  · rw [exec_evictionDone env hr hi.1, State.evictDone_running env hrun, if_neg (by simp [h])]
  · rw [exec_evictionDone env hr hi.1, State.evictDone_running env hrun, if_pos h]
  · obtain ⟨hfree, hnone⟩ := u.evictFree_pool r e
    refine ⟨hfree, hnone, ?_, fun hlt => ?_, fun q num howner => u.evictFree_owner r howner⟩
    · rw [State.evictFree_fld, u.evictTold_last hr]
    · rw [State.evictFree_fld, u.evictTold_pinFull hr hlt]
  · rw [exec_evictionDone env hr hi.1, State.evictDone_idle env h]

end Sys2Proof.Machine

namespace Sys2Proof.Machine

/-! ## Where a byte of stacked memory lies (R259) -/

theorem nodup_setBitList (k n : Nat) : (setBitList k n).Nodup := List.nodup_range.filter _

theorem getD_inj {l : List Nat} (h : l.Nodup) {i j : Nat} (hi : i < l.length) (hj : j < l.length) (he : l.getD i 0 = l.getD j 0) : i = j := by
  rw [List.getD_eq_getElem _ _ hi, List.getD_eq_getElem _ _ hj] at he
  exact (h.getElem_inj_iff).mp he

theorem locate_region {rs : List Region} {a : Nat} {r : Region} (h : regionOf rs a = some r) :
    let ss := setBitList 24 r.stackMask
    let ps := setBitList 64 r.pcMask
    let u := (a - r.base) / (256 * 2 ^ r.granule) % (ss.length * ps.length)
    locate rs a = (ss.getD (u % ss.length) 0, ps.getD (u / ss.length) 0) := by
  unfold locate
  rw [h]

theorem pcOffset_region {rs : List Region} {a : Nat} {r : Region} (h : regionOf rs a = some r) :
    pcOffset rs a = pcBase rs r.base (locate rs a).1 (locate rs a).2 +
      (a - r.base) / (256 * 2 ^ r.granule) / r.ways * (256 * 2 ^ r.granule) + (a - r.base) % (256 * 2 ^ r.granule) := by
  unfold pcOffset
  rw [h]

theorem regionOf_base {rs : List Region} {a : Nat} {r : Region} (h : regionOf rs a = some r) : r.base ≤ a := by
  have := List.find?_some h
  simp only [decide_eq_true_eq] at this
  exact this.1

/-- A number is told by its quotient, the quotient's remainder and its own remainder. -/
theorem eq_of_digits {x y g w : Nat} (hg : 0 < g) (hq : x / g / w * g + x % g = y / g / w * g + y % g) (hu : x / g % w = y / g % w) : x = y := by
  have hx := Nat.mod_lt x hg
  have hy := Nat.mod_lt y hg
  have hmod : x % g = y % g := by
    have := congrArg (· % g) hq
    simpa [Nat.mul_add_mod_self_right] using this
  have hdiv : x / g / w = y / g / w := Nat.eq_of_mul_eq_mul_right hg (by omega)
  have hquot : x / g = y / g := by rw [← Nat.div_add_mod (x / g) w, ← Nat.div_add_mod (y / g) w, hdiv, hu]
  rw [← Nat.div_add_mod x g, ← Nat.div_add_mod y g, hquot, hmod]

/-- Within a region no two bytes lie in one place. -/
theorem place_inj {rs : List Region} {a b : Nat} {r : Region} (ha : regionOf rs a = some r) (hb : regionOf rs b = some r) (hw : 0 < r.ways)
    (hloc : locate rs b = locate rs a) (hoff : pcOffset rs b = pcOffset rs a) : b = a := by
  have hbase := regionOf_base ha
  have hbase' := regionOf_base hb
  have hgran : 0 < 256 * 2 ^ r.granule := by positivity
  have hlen : 0 < (setBitList 24 r.stackMask).length := Nat.pos_of_mul_pos_right hw
  rw [pcOffset_region ha, pcOffset_region hb, hloc] at hoff
  rw [locate_region ha, locate_region hb, Prod.mk.injEq] at hloc
  have hu (x : Nat) : x % r.ways % (setBitList 24 r.stackMask).length < (setBitList 24 r.stackMask).length := Nat.mod_lt _ hlen
  have hv (x : Nat) : x % r.ways / (setBitList 24 r.stackMask).length < (setBitList 64 r.pcMask).length :=
    Nat.div_lt_of_lt_mul (Nat.mod_lt _ hw)
  have hstack := getD_inj (nodup_setBitList _ _) (hu _) (hu _) hloc.1
  have hchannel := getD_inj (nodup_setBitList _ _) (hv _) (hv _) hloc.2
  have hways : (b - r.base) / (256 * 2 ^ r.granule) % r.ways = (a - r.base) / (256 * 2 ^ r.granule) % r.ways := by
    rw [← Nat.div_add_mod ((b - r.base) / (256 * 2 ^ r.granule) % r.ways) (setBitList 24 r.stackMask).length, hstack, hchannel, Nat.div_add_mod]
  have := eq_of_digits hgran (by omega) hways
  omega

/-! ## The registers that the controllers keep -/

section
variable (f : Nat → Nat) (v : Nat → Word)

/-- Registers set in turn. -/
def State.setRegs (s : State) (l : List Nat) : State := l.foldl (fun t c => t.setReg (f c) (v c)) s

theorem State.setRegs_cons (s : State) (c : Nat) (l : List Nat) : s.setRegs f v (c :: l) = (s.setReg (f c) (v c)).setRegs f v l := rfl

theorem State.reg_setRegs (l : List Nat) (s : State) (o : Nat) (h : ∀ c ∈ l, o ≠ f c) : (s.setRegs f v l).reg o = s.reg o := by
  induction l generalizing s with
  | nil => rfl
  | cons c l ih => rw [State.setRegs_cons, ih _ fun d hd => h d (List.mem_cons_of_mem _ hd), State.reg_setReg_ne _ _ (h c List.mem_cons_self)]

theorem State.reg_setRegs_at (l : List Nat) (s : State) {c : Nat} (hc : c ∈ l) (hinj : ∀ d ∈ l, f c = f d → c = d) :
    (s.setRegs f v l).reg (f c) = v c := by
  induction l generalizing s with
  | nil => cases hc
  | cons d l ih =>
    rw [State.setRegs_cons]
    by_cases hl : c ∈ l
    · exact ih _ hl fun e he => hinj e (List.mem_cons_of_mem _ he)
    · have hcd : c = d := (List.mem_cons.mp hc).resolve_right hl
      subst hcd
      rw [State.reg_setRegs _ _ _ _ _ fun e he heq => hl (hinj e (List.mem_cons_of_mem _ he) heq ▸ he), State.reg_setReg_self]

theorem State.setRegs_frame (l : List Nat) (s : State) : s.setRegs f v l = { s with regs := (s.setRegs f v l).regs } := by
  induction l generalizing s with
  | nil => rfl
  | cons c l ih => rw [State.setRegs_cons, ih]; rfl

end

/-! ## The commands of the memory controllers -/

/-- The storm flag and event of one stack (R275). -/
def State.storm (s : State) (c n : Nat) : State :=
  (s.raise Reg.MEM_EVENT 4 Reg.MEM_EVENT_CNT1 0).post (slotStack c) 0x0304 1 (c + n % 2 ^ 32 * 2 ^ 16)

/-- The report of one stack at the end of an interval. -/
def State.stormAbove (limit : Nat) (s : State) (c : Nat) : State :=
  if limit < mget 0 s.ceSecond c then s.storm c (mget 0 s.ceSecond c) else s

/-- Other counts of the errors of this second. -/
def State.withCe (s : State) (m : SMap Nat) : State := { s with ceSecond := m }

theorem State.ceIntervalEnd_eq (s : State) :
    s.ceIntervalEnd = ((List.range 24).foldl (State.stormAbove (s.fld Reg.MEM_CFG 15 0)) s).withCe [] := rfl

theorem State.storm_ceSecond (s : State) (c n : Nat) : (s.storm c n).ceSecond = s.ceSecond := by simp [State.storm]
theorem State.storm_pending (s : State) (c n : Nat) : (s.storm c n).pending = s.pending := by simp [State.storm]
theorem State.storm_fuses (s : State) (c n : Nat) : (s.storm c n).fuses = s.fuses := by simp [State.storm]

theorem State.stormAbove_not {limit c : Nat} {s : State} (h : mget 0 s.ceSecond c ≤ limit) : s.stormAbove limit c = s :=
  if_neg (Nat.not_lt.mpr h)

theorem State.stormAbove_above {limit c : Nat} {s : State} (h : limit < mget 0 s.ceSecond c) :
    s.stormAbove limit c = s.storm c (mget 0 s.ceSecond c) := if_pos h

/-- Stacks at or below the limit report nothing. -/
theorem State.storms_none {limit : Nat} (l : List Nat) (s : State) (h : ∀ c ∈ l, mget 0 s.ceSecond c ≤ limit) :
    l.foldl (State.stormAbove limit) s = s := by
  induction l with
  | nil => rfl
  | cons c l ih =>
    rw [List.foldl_cons, State.stormAbove_not (h c List.mem_cons_self)]
    exact ih fun d hd => h d (List.mem_cons_of_mem _ hd)

/-- The one stack above the limit reports. -/
theorem State.storms_one {limit : Nat} (l : List Nat) (s : State) {c : Nat} (hc : c ∈ l) (hnd : l.Nodup) (hlt : limit < mget 0 s.ceSecond c)
    (h : ∀ d ∈ l, d ≠ c → mget 0 s.ceSecond d ≤ limit) : l.foldl (State.stormAbove limit) s = s.storm c (mget 0 s.ceSecond c) := by
  induction l with
  | nil => cases hc
  | cons d l ih =>
    rw [List.foldl_cons]
    obtain ⟨hd, hnd⟩ := List.nodup_cons.mp hnd
    by_cases hcd : d = c
    · subst hcd
      rw [State.stormAbove_above hlt]
      refine State.storms_none l _ fun e he => ?_
      rw [State.storm_ceSecond]
      exact h e (List.mem_cons_of_mem _ he) (fun heq => hd (heq ▸ he))
    · rw [State.stormAbove_not (h d List.mem_cons_self hcd)]
      exact ih ((List.mem_cons.mp hc).resolve_left (Ne.symm hcd)) hnd fun e he => h e (List.mem_cons_of_mem _ he)

/-- The bytes read of each stack, told at the end of an interval (R263). -/
def State.bwTold (s : State) : State := s.setRegs Reg.MEM_STK_BW (fun c => BitVec.ofNat 64 (mget 0 s.bwRead c)) (List.range 24)

/-- The state after an interval of the bandwidth counts. -/
def State.bwRenewed (s : State) : State := { s with regs := s.bwTold.regs, bwRead := [] }

theorem State.bwTold_eq (s : State) :
    s.bwTold = (List.range 24).foldl (fun t c => t.setReg (Reg.MEM_STK_BW c) (BitVec.ofNat 64 (mget 0 s.bwRead c))) s := by
  rw [State.bwTold, State.setRegs]

theorem State.bwTold_frame (s : State) : s.bwTold = { s with regs := s.bwTold.regs } := State.setRegs_frame _ _ _ _

theorem State.bwIntervalEnd_eq (s : State) : s.bwIntervalEnd = s.bwRenewed := by
  unfold State.bwIntervalEnd State.bwRenewed
  rw [← State.bwTold_eq]
  dsimp only
  rw [State.bwTold_frame]

theorem State.bwRenewed_pending (s : State) : s.bwRenewed.pending = s.pending := by simp only [State.bwRenewed]
theorem State.bwRenewed_fuses (s : State) : s.bwRenewed.fuses = s.fuses := by simp only [State.bwRenewed]

theorem State.reg_bwRenewed (s : State) (o : Nat) : s.bwRenewed.reg o = s.bwTold.reg o :=
  State.reg_of_regs (by simp only [State.bwRenewed]) o

theorem State.reg_bwTold_at (s : State) {c : Nat} (hc : c < 24) : s.bwTold.reg (Reg.MEM_STK_BW c) = BitVec.ofNat 64 (mget 0 s.bwRead c) := by
  refine State.reg_setRegs_at Reg.MEM_STK_BW _ (List.range 24) s (List.mem_range.mpr hc) fun d _ hcd => ?_
  simp only [Reg.MEM_STK_BW] at hcd
  omega

theorem State.reg_bwTold_ne (s : State) {o : Nat} (h : ∀ c < 24, o ≠ Reg.MEM_STK_BW c) : s.bwTold.reg o = s.reg o :=
  State.reg_setRegs Reg.MEM_STK_BW _ (List.range 24) s o fun c hc => h c (List.mem_range.mp hc)

/-- ECS counts of one stack. -/
def State.ecsFound (s : State) (c n : Nat) : State := { s.count (Reg.MEM_STK_CE c) n with ceSecond := mmod 0 s.ceSecond c (· + n) }

theorem State.ecsFound_pending (s : State) (c n : Nat) : (s.ecsFound c n).pending = s.pending := by simp [State.ecsFound]
theorem State.ecsFound_fuses (s : State) (c n : Nat) : (s.ecsFound c n).fuses = s.fuses := by simp [State.ecsFound]

theorem State.ecsRead_one (s : State) {c n : Nat} (a : Nat) (hc : c < 24) (hn : n ≠ 0) :
    s.ecsRead [(c, n, a)] = (s.ecsFound c n).post (slotStack c) 0x0305 0 (a % 2 ^ 52 + 2 ^ 52) := if_pos ⟨hc, hn⟩

/-- A burst of the scrub, counted. -/
def State.scrubRead (s : State) (c p : Nat) : State :=
  { ((s.pcDone c p).count (Reg.MEM_STK_RD c) 32) with bwRead := mmod 0 s.bwRead c (· + 32) }

theorem State.scrubFound_eq (s : State) (a : Nat) (f : Option MemFault) :
    let c := (locate s.image.regions a).1
    let u := s.scrubRead c (locate s.image.regions a).2
    s.scrubFound a f = if f = some .uncorrectable ∨ s.poisoned (a / 32) then (u.setPoison (a / 32) true).memErr ⟨6, 0, slotStack c⟩ 5 (a / 32 * 32)
      else if f = some .corrected then (u.count (Reg.MEM_STK_WR c) 32).corrected c (a / 32 * 32) else u := rfl

theorem State.patrolScrub_down {s : State} {a : Nat} {f : Option MemFault} (ha : a < stackedEnd) (hh : s.fld Reg.MEM_CFG 23 16 ≠ 0)
    (h : s.pcDead a = true ∨ f = some .timeout) : s.patrolScrub a f = (s.memErr ⟨6, 0, slotStack (locate s.image.regions a).1⟩ 3 (a / 32 * 32)).pcTimeout
      (locate s.image.regions a).1 (locate s.image.regions a).2 := by
  unfold State.patrolScrub
  rw [if_pos ⟨ha, hh⟩]
  exact if_pos (by simpa using h)

theorem State.patrolScrub_up {s : State} {a : Nat} {f : Option MemFault} (ha : a < stackedEnd) (hh : s.fld Reg.MEM_CFG 23 16 ≠ 0)
    (h : s.pcDead a = false) (hf : f ≠ some .timeout) : s.patrolScrub a f = s.scrubFound a f := by
  unfold State.patrolScrub
  rw [if_pos ⟨ha, hh⟩]
  exact if_neg (by simp [h, hf])

theorem State.pcDead_iff (s : State) (a : Nat) : s.pcDead a = true ↔ s.stackUp (locate s.image.regions a).1 = false ∨
    bit (s.reg (Reg.MEM_STK_PC_DOWN (locate s.image.regions a).1)).toNat (locate s.image.regions a).2 = true := by
  simp [State.pcDead]

/-- Settles O16: the digits of an address tell its place, and each command of the controllers has the outcome of its rule. -/
theorem memoryControllers : Obligations.MemoryControllers := by
  unfold Obligations.MemoryControllers
  refine ⟨⟨fun rs a r hr hw => ⟨locate_region hr, pcOffset_region hr, fun b hb hloc hoff => place_inj hr hb hw hloc hoff⟩, by decide, by decide⟩,
    fun s hl => ⟨fun source id a write ha => ?_, fun c hc => ?_, fun h => ?_, fun c hc hlt h => ?_, ?_, ?_, fun c hc n a hn => ?_, fun c hc d => ?_⟩,
    fun s a f hl => ⟨fun ha hh hup => ?_, fun ha hh hdown => ?_, fun h => ?_⟩⟩
  · refine (State.run_live _ hl).trans ?_
    unfold State.memTimeout
    rw [if_pos ha]
  · exact State.next_of_keep (by simp) (by simp) ((part_true (decide_eq_true hc) _).trans (State.run_live _ hl))
  · refine (State.run_live _ hl).trans ?_
    rw [State.ceIntervalEnd_eq, State.storms_none _ _ fun c hc => h c (List.mem_range.mp hc)]
    rfl
  · refine (State.run_live _ hl).trans ?_
    have hkeep := State.keep_of_eq (s := s) (t := (s.storm c (mget 0 s.ceSecond c)).withCe []) (s.storm_pending _ _) (s.storm_fuses _ _)
    rw [State.ceIntervalEnd_eq, State.storms_one _ _ (List.mem_range.mpr hc) List.nodup_range hlt fun d hd => h d (List.mem_range.mp hd), hkeep]
    rfl
  · exact State.next_of_keep rfl rfl (State.run_live _ hl)
  · have hstep : exec .bwIntervalEnd s = .next s.bwRenewed := by
      rw [← State.bwIntervalEnd_eq]
      exact State.next_of_keep (by rw [State.bwIntervalEnd_eq, State.bwRenewed_pending]) (by rw [State.bwIntervalEnd_eq, State.bwRenewed_fuses]) (State.run_live _ hl)
    refine ⟨s.bwRenewed, hstep, by simp only [State.bwRenewed], fun c hc => ?_, fun o ho => ?_, by simp only [State.bwRenewed]⟩
    · rw [State.reg_bwRenewed, State.reg_bwTold_at s hc]
    · rw [State.reg_bwRenewed, State.reg_bwTold_ne s ho]
  · refine (State.run_live _ hl).trans ?_
    rw [State.ecsRead_one s a hc hn, State.keep_of_eq (by simp [State.ecsFound_pending]) (by simp [State.ecsFound_fuses])]
    rfl
  · exact State.next_of_keep (by simp) (by simp) ((part_true (decide_eq_true hc) _).trans (State.run_live _ hl))
  · rw [not_or, not_or] at hup
    obtain ⟨hstack, hbit, hf⟩ := hup
    have hdead : s.pcDead a = false := by
      rw [← Bool.not_eq_true, State.pcDead_iff]
      exact fun h => h.elim hstack hbit
    refine ⟨_, rfl, (State.run_live _ hl).trans ?_⟩
    rw [State.patrolScrub_up ha hh hdead hf, State.scrubFound_eq]
    rfl
  · refine (State.run_live _ hl).trans ?_
    rw [State.patrolScrub_down ha hh (by rw [State.pcDead_iff, or_assoc]; exact hdown)]
  · refine (State.run_live _ hl).trans ?_
    unfold State.patrolScrub
    rw [if_neg (by omega)]
    rfl

end Sys2Proof.Machine

namespace Sys2Proof.Machine

/-! ## One action bit of RTE_CTRL (R65 to R68) -/

theorem State.actBit_rteCtrl {s : State} {who : Requester} (ha : s.admitted who) (i : Nat) (env : Env) :
    part (s.reqExists who) (s.run (s.actBit who Reg.RTE_CTRL i env)) =
      .next (s.keep ((s.setPort who {}).rteCtrl ((BitVec.ofNat 32 (2 ^ i)).zeroExtend 64) env)) := by
  obtain ⟨hl, hx, hp⟩ := ha
  rw [part_true hx, State.run_live _ hl, State.actBit_at who i env rowAt_rteCtrl (s.noHostReg_out (.inl (by decide))) hp (by decide),
    effectAt_rteCtrl]

theorem State.rteCtrl_quiesce (s : State) (env : Env) : s.rteCtrl ((BitVec.ofNat 32 (2 ^ 0)).zeroExtend 64) env = s.quiesce env := rfl

theorem State.rteCtrl_load (s : State) (env : Env) : s.rteCtrl ((BitVec.ofNat 32 (2 ^ 1)).zeroExtend 64) env = s.loadWrite := rfl

theorem State.rteCtrl_resume (s : State) (env : Env) : s.rteCtrl ((BitVec.ofNat 32 (2 ^ 2)).zeroExtend 64) env =
    if s.mayResume then (s.resume env).freed env else s.resume env := rfl

theorem exec_quiesce {s : State} {who : Requester} (ha : s.admitted who) (env : Env) :
    exec (.quiesce who env) s = .next (s.keep ((s.setPort who {}).quiesce env)) := by
  rw [← State.rteCtrl_quiesce]
  exact State.actBit_rteCtrl ha 0 env

theorem exec_loadImage {s : State} {who : Requester} (ha : s.admitted who) (env : Env) :
    exec (.loadImage who env) s = .next (s.keep (s.setPort who {}).loadWrite) := by
  rw [← State.rteCtrl_load _ env]
  exact State.actBit_rteCtrl ha 1 env

theorem exec_resume {s : State} {who : Requester} (ha : s.admitted who) (env : Env) :
    exec (.resume who env) s = .next (s.keep (if (s.setPort who {}).mayResume then ((s.setPort who {}).resume env).freed env
      else (s.setPort who {}).resume env)) := by
  rw [← State.rteCtrl_resume]
  exact State.actBit_rteCtrl ha 2 env

/-! ## Quiesce with no haul engine at work -/

/-- With no window, copy or waiting fill there is nothing to drop and nothing to go on. -/
theorem State.haulOn_idle {s : State} (hh : s.hauls = []) (hc : s.credits = []) (env : Env) : s.haulOn env = s := by
  have hserve : s.servePools = s := by rw [State.servePools, hc]; rfl
  have hnext : s.haulNext = none := by rw [State.haulNext, hh]; rfl
  have hslots : s.slotsOn = s := by rw [State.slotsOn, hh]; rfl
  show State.haulGo env (0xFFFFF + 1) s = s
  rw [State.haulGo]
  split
  · rfl
  · simp only [hserve, hnext, hslots]

theorem State.dropPrefetch_idle {s : State} (hh : s.hauls = []) (q : Option Nat) : s.dropPrefetch q = s := by
  rw [State.dropPrefetch, hh]
  rfl

theorem State.quiesce_idle {s : State} (hh : s.hauls = []) (hc : s.credits = []) (env : Env) : s.quiesce env = s.setFld Reg.RTE_CTRL 0 0 1 := by
  rw [State.quiesce, State.dropPrefetch_idle (by simp [hh]), State.haulOn_idle (by simp [hh]) (by simp [hc])]

/-- The state with QUIESCE set. -/
def State.quiesceSet (s : State) (who : Requester) : State := (s.setPort who {}).setFld Reg.RTE_CTRL 0 0 1

theorem State.quiesceSet_pending (s : State) (who : Requester) : (s.quiesceSet who).pending = s.pending := by simp [State.quiesceSet]
theorem State.quiesceSet_fuses (s : State) (who : Requester) : (s.quiesceSet who).fuses = s.fuses := by simp [State.quiesceSet]

theorem State.quiesceSet_quiescing (s : State) (who : Requester) : (s.quiesceSet who).quiescing = true := by
  rw [State.quiescing, State.quiesceSet, State.fld_setFld_self _ _ _ (by decide) (by decide)]
  rfl

theorem State.reg_quiesceSet_ne (s : State) (who : Requester) {o : Nat} (h : o ≠ Reg.RTE_CTRL) : (s.quiesceSet who).reg o = s.reg o := by
  rw [State.quiesceSet, State.reg_setFld_ne _ _ _ _ h]
  exact State.reg_of_regs rfl o

theorem State.mayResume_setPort (s : State) (who : Requester) (p : Port) : (s.setPort who p).mayResume = s.mayResume := by
  unfold State.mayResume State.loaded
  rw [State.fld_of_regs (State.setPort_regs s who p), State.fld_of_regs (State.setPort_regs s who p), State.setPort_loader]

/-- Settles O17: each command is one write of RTE_CTRL, or the join of QUIESCED. -/
theorem quiesceAndResume : Obligations.QuiesceAndResume := by
  unfold Obligations.QuiesceAndResume
  intro who env s ha u
  refine ⟨exec_quiesce ha env, fun hh hc => ?_, fun hq hi => ?_, fun h => ?_, fun hrun hloaded hbusy => ?_, fun h => ?_⟩
  · have hstep : exec (.quiesce who env) s = .next (s.quiesceSet who) := by
      refine State.next_of_keep (s.quiesceSet_pending who) (s.quiesceSet_fuses who) ?_
      rw [exec_quiesce ha, State.quiesce_idle (by simpa using hh) (by simpa using hc), State.quiesceSet]
    exact ⟨s.quiesceSet who, hstep, s.quiesceSet_quiescing who, rfl, fun o ho => s.reg_quiesceSet_ne who ho⟩
  · have hdone : s.quiesceDone = s.setFld Reg.RTE_STATUS 0 0 1 := if_pos (by simp [hq, hi])
    rw [← hdone]
    exact State.next_of_keep (by rw [hdone]; simp) (by rw [hdone]; simp) (State.run_live _ ha.1)
  · refine (State.run_live _ ha.1).trans ?_
    rw [State.quiesceDone, if_neg (by rcases h with h | h <;> simp [h]), State.keep_self]
  · have hmay : (s.setPort who {}).mayResume = true := by
      rw [State.mayResume_setPort, State.mayResume]
      simp [hrun, hloaded, hbusy]
    rw [exec_resume ha, if_pos hmay, State.resume, if_neg (by simp [hmay])]
  · have hmay : (s.setPort who {}).mayResume = false := by
      rw [State.mayResume_setPort, State.mayResume]
      rcases h with h | h | h <;> simp [h]
    rw [exec_resume ha, if_neg (by simp [hmay]), State.resume, if_pos (by simp [hmay]), State.keep_rteReject]

end Sys2Proof.Machine

namespace Sys2Proof.Machine

/-! ## What the apply step leaves alone (R72) -/

/-- What the apply step leaves alone beside the modes of the queues. -/
def State.loadTables (s : State) : Image × SMap Queue × SMap Word32 × SMap Nat × List Instr × Fuses :=
  (s.image, s.queues, s.anchors, s.bias, s.pending, s.fuses)

/-- What its parts but the haul engines and the queues leave alone. -/
def State.loadView (s : State) : (Image × SMap Queue × SMap Word32 × SMap Nat × List Instr × Fuses) × Memory × SMap Haul :=
  (s.loadTables, s.mem, s.hauls)

/-- What the change of the queues leaves alone. -/
def State.loadRest (s : State) : Image × SMap Word32 × SMap Nat × List Instr × Fuses × Memory × SMap Haul :=
  (s.image, s.anchors, s.bias, s.pending, s.fuses, s.mem, s.hauls)

theorem foldl_keeps {α β : Type} (g : State → β) {f : State → α → State} (h : ∀ s a, g (f s a) = g s) (l : List α) (s : State) :
    g (l.foldl f s) = g s := by
  induction l generalizing s with
  | nil => rfl
  | cons a l ih => rw [List.foldl_cons, ih, h]

section
variable {s t : State}

theorem State.loadView_foldl {α : Type} {f : State → α → State} (h : ∀ (s : State) a, (f s a).loadView = s.loadView) (l : List α) (s : State) :
    (l.foldl f s).loadView = s.loadView := foldl_keeps State.loadView h l s

theorem State.loadTables_of_view (h : t.loadView = s.loadView) : t.loadTables = s.loadTables := (Prod.mk.inj h).1

theorem State.loadRest_of_view (h : t.loadView = s.loadView) : t.loadRest = s.loadRest := by
  simp only [State.loadView, State.loadTables, Prod.mk.injEq] at h
  simp only [State.loadRest, h]

theorem State.loadView_likeLog (h : s.likeLog t) : t.loadView = s.loadView := by
  obtain ⟨_, _, _, _, rfl⟩ := h
  rfl

@[simp] theorem State.loadView_setFld (s : State) (o hi lo x : Nat) : (s.setFld o hi lo x).loadView = s.loadView :=
  State.loadView_likeLog (s.likeLog_setFld _ _ _ _)
@[simp] theorem State.loadView_setReg (s : State) (o : Nat) (v : Word) : (s.setReg o v).loadView = s.loadView :=
  State.loadView_likeLog (s.likeLog_setReg _ _)
@[simp] theorem State.loadView_count (s : State) (o x : Nat) : (s.count o x).loadView = s.loadView :=
  State.loadView_likeLog (s.likeLog_count _ _)
@[simp] theorem State.loadView_addFld (s : State) (o hi lo x : Nat) : (s.addFld o hi lo x).loadView = s.loadView :=
  State.loadView_likeLog (s.likeLog_addFld _ _ _ _)
@[simp] theorem State.loadView_raise (s : State) (o i c lo : Nat) : (s.raise o i c lo).loadView = s.loadView :=
  State.loadView_likeLog (s.likeLog_raise _ _ _ _)
@[simp] theorem State.loadView_post (s : State) (src code cls arg : Nat) : (s.post src code cls arg).loadView = s.loadView :=
  State.loadView_likeLog (s.likeLog_post _ _ _ _)
@[simp] theorem State.loadView_postStep (s : State) (src step code cls arg : Nat) : (s.postStep src step code cls arg).loadView = s.loadView :=
  State.loadView_likeLog (s.likeLog_postStep _ _ _ _ _)
@[simp] theorem State.loadView_setLparty (s : State) (k : Nat) (x : LinkParty) : (s.setLparty k x).loadView = s.loadView := (rfl)
@[simp] theorem State.loadView_setLport (s : State) (k : Nat) (x : LinkPort) : (s.setLport k x).loadView = s.loadView := (rfl)

@[simp] theorem State.loadView_modLparty (s : State) (k : Nat) (f : LinkParty → LinkParty) : (s.modLparty k f).loadView = s.loadView := (rfl)
@[simp] theorem State.loadView_modLport (s : State) (k : Nat) (f : LinkPort → LinkPort) : (s.modLport k f).loadView = s.loadView := (rfl)
@[simp] theorem State.loadView_fpMarks (s : State) (m : SMap Bool) : ({ s with fpMarks := m } : State).loadView = s.loadView := (rfl)
@[simp] theorem State.loadView_kvTables (s : State) (a : SMap KvPool) (b : SMap Walker) (c : SMap (List CcReq)) :
    ({ s with kvPools := a, walkers := b, ccReqs := c } : State).loadView = s.loadView := (rfl)
@[simp] theorem State.loadView_sealTables (s : State) (a : SMap Nat) (b : SMap SpillSlot) (c : Option SealOp) :
    ({ s with seals := a, spillSeals := b, sealOp := c } : State).loadView = s.loadView := (rfl)

theorem State.loadView_ite {c : Prop} [Decidable c] {t u : State} (ht : t.loadView = s.loadView) (hu : u.loadView = s.loadView) :
    (if c then t else u).loadView = s.loadView := by split <;> assumption

@[simp] theorem State.loadView_kvClear (s : State) : s.kvClear.loadView = s.loadView := by
  unfold State.kvClear
  rw [State.loadView_kvTables]
  exact State.loadView_foldl (fun s r => s.loadView_setFld _ _ _ _) (List.range 16) s

@[simp] theorem State.loadView_readyEdge (s : State) (e : PartyEnt) : (s.readyEdge e).loadView = s.loadView := by
  unfold State.readyEdge
  dsimp only
  exact State.loadView_ite rfl (State.loadView_ite (by simp) (by simp))

@[simp] theorem State.loadView_linkReady (s : State) : s.linkReady.loadView = s.loadView :=
  State.loadView_foldl State.loadView_readyEdge _ _

@[simp] theorem State.loadView_portEvent (s : State) (p i code cls arg : Nat) : (s.portEvent p i code cls arg).loadView = s.loadView := by
  simp [State.portEvent]

@[simp] theorem State.loadView_clearPort (s : State) (p : Nat) : (s.clearPort p).loadView = s.loadView := by
  simp [State.clearPort]

@[simp] theorem State.loadView_portLeave (s : State) (p lanes st : Nat) : (s.portLeave p lanes st).loadView = s.loadView := by
  unfold State.portLeave
  dsimp only
  rw [State.loadView_linkReady]
  exact State.loadView_ite (by simp) (by simp)

@[simp] theorem State.loadView_setPeer (s : State) (p party port member plan : Nat) : (s.setPeer p party port member plan).loadView = s.loadView := by
  unfold State.setPeer
  dsimp only
  rw [State.loadView_linkReady]
  exact State.loadView_ite (by simp) (by simp)

@[simp] theorem State.loadView_portMode (s : State) (p : Nat) : (s.portMode p).loadView = s.loadView := by
  unfold State.portMode
  dsimp only
  exact State.loadView_ite rfl (by simp)

/-- The marks of a party that is dropped go. -/
def State.dropMarks (s : State) (k : Nat) : State := { s with fpMarks := s.fpMarks.filter (fun m => m.1 / 8192 != k) }

@[simp] theorem State.loadView_dropMarks (s : State) (k : Nat) : (s.dropMarks k).loadView = s.loadView := (rfl)

theorem State.dropParty_eq (s : State) (k : Nat) : s.dropParty k =
    let n := (s.fpMarks.filter (fun m => m.1 / 8192 == k)).length
    let t := (s.setReg (Reg.LNK_PARTY_SEQ k) 0).dropMarks k
    let u := (t.setLparty k { s.lparty k with
      staged := (s.lparty k).staged.filter (fun f => frRseq f == 1), ready := (s.lparty k).ready && (t.party? k).isSome }).count
        (Reg.LNK_CNT_FP_DISCARD k) n
    if n = 0 then u else (u.raise Reg.LNK_EVENT 4 Reg.LNK_EVENT_CNT1 0).post slotLink 0x0701 1 (k + n * 2 ^ 16) := rfl

@[simp] theorem State.loadView_dropParty (s : State) (k : Nat) : (s.dropParty k).loadView = s.loadView := by
  rw [State.dropParty_eq]
  dsimp only
  exact State.loadView_ite (by simp) (by simp)

@[simp] theorem State.loadView_trainPorts (s : State) : s.trainPorts.loadView = s.loadView := by
  unfold State.trainPorts
  exact State.loadView_foldl (fun s p => State.loadView_ite (s.loadView_setFld _ _ _ _) rfl) _ _

@[simp] theorem State.loadView_linkLoad (s : State) (old : Image) : (s.linkLoad old).loadView = s.loadView := by
  unfold State.linkLoad
  dsimp only
  rw [State.loadView_linkReady, State.loadView_foldl, State.loadView_trainPorts, State.loadView_foldl State.loadView_portMode, State.loadView_foldl]
  · exact fun s k => State.loadView_ite rfl (by simp)
  · intro s p
    split
    · split <;> simp
    · rfl

@[simp] theorem State.loadView_setSeals (s : State) (a b c : Nat) : (s.setSeals a b c).loadView = s.loadView := (rfl)
@[simp] theorem State.loadView_setSpillSlot (s : State) (h i : Nat) (x : SpillSlot) : (s.setSpillSlot h i x).loadView = s.loadView := (rfl)
@[simp] theorem State.loadView_sealCode (s : State) (c : Nat) : (s.sealCode c).loadView = s.loadView := s.loadView_setFld _ _ _ _
theorem State.loadView_sealOp (s : State) (c : Option SealOp) : ({ s with sealOp := c } : State).loadView = s.loadView := (rfl)

theorem State.loadView_unsealDone (s : State) : s.unsealDone.loadView = s.loadView := by
  unfold State.unsealDone
  split
  · exact State.loadView_ite ((State.loadView_sealOp _ _).trans (by simp)) rfl
  · exact State.loadView_ite ((State.loadView_sealOp _ _).trans (by simp)) rfl
  · rfl

@[simp] theorem State.loadView_sealLoad (s : State) : s.sealLoad.loadView = s.loadView :=
  (State.loadView_sealTables s.unsealDone _ _ _).trans s.loadView_unsealDone

@[simp] theorem State.loadView_loadMats (s : State) : s.loadMats.loadView = s.loadView := (rfl)

/-! ### The queues -/

theorem State.loadView_forget (s : State) (gone : List (Nat × Nat)) : (s.forget gone).loadView = s.loadView :=
  State.loadView_foldl (fun s _ => s.loadView_modLparty _ _) (List.range 4) _

theorem State.loadView_freeStream (s : State) (q : Nat) : (s.freeStream q).loadView = s.loadView := by
  rw [State.freeStream_frame]
  rfl

@[simp] theorem State.loadRest_setQueue (s : State) (q : Nat) (x : Queue) : (s.setQueue q x).loadRest = s.loadRest := (rfl)

theorem State.loadRest_loadQueue (s : State) (q : Nat) : (s.loadQueue q).loadRest = s.loadRest := by
  unfold State.loadQueue
  dsimp only
  split
  · split <;> simp
  · split
    · rfl
    · rw [State.loadRest_setQueue, State.loadRest_of_view (State.loadView_forget _ _), State.loadRest_of_view (State.loadView_freeStream _ _)]

/-- The mode that a load gives a queue (R72, R84). -/
def loadedMode (i : Image) (q : Nat) (m : QMode) : QMode := if i.enables q then (if m = .disabled then .off else m) else .disabled

theorem State.queue_of_view (h : t.loadView = s.loadView) (q : Nat) : t.queue q = s.queue q := by
  simp only [State.loadView, State.loadTables, Prod.mk.injEq] at h
  simp only [State.queue, h]

theorem State.mode_loadQueue (s : State) (q : Nat) : ((s.loadQueue q).queue q).mode = loadedMode s.image q (s.queue q).mode := by
  unfold State.loadQueue loadedMode
  dsimp only
  split
  · split
    · rw [State.queue_setQueue_self]
    · rfl
  · split
    · assumption
    · rw [State.queue_setQueue_self]

theorem State.queue_loadQueue_ne (s : State) {q p : Nat} (h : p ≠ q) : (s.loadQueue q).queue p = s.queue p := by
  unfold State.loadQueue
  dsimp only
  split
  · split
    · rw [State.queue_setQueue_ne _ _ h]
    · rfl
  · split
    · rfl
    · rw [State.queue_setQueue_ne _ _ h, State.queue_of_view (State.loadView_forget _ _), State.queue_of_view (State.loadView_freeStream _ _)]

theorem State.loadRest_loadQueues (s : State) (l : List Nat) : (l.foldl State.loadQueue s).loadRest = s.loadRest :=
  foldl_keeps State.loadRest State.loadRest_loadQueue l s

theorem State.queue_loadQueues_ne (l : List Nat) (s : State) {p : Nat} (h : p ∉ l) : (l.foldl State.loadQueue s).queue p = s.queue p := by
  induction l generalizing s with
  | nil => rfl
  | cons q l ih =>
    rw [List.foldl_cons, ih _ fun hp => h (List.mem_cons_of_mem _ hp), State.queue_loadQueue_ne _ fun (hq : p = q) => h (hq ▸ List.mem_cons_self)]

theorem State.mode_loadQueues (l : List Nat) (hnd : l.Nodup) (s : State) {q : Nat} (hq : q ∈ l) :
    ((l.foldl State.loadQueue s).queue q).mode = loadedMode s.image q (s.queue q).mode := by
  induction l generalizing s with
  | nil => cases hq
  | cons p l ih =>
    obtain ⟨hp, hnd⟩ := List.nodup_cons.mp hnd
    rw [List.foldl_cons]
    by_cases hqp : q = p
    · subst hqp
      rw [State.queue_loadQueues_ne l _ hp, State.mode_loadQueue]
    · have himage : (s.loadQueue p).image = s.image := (Prod.mk.inj (s.loadRest_loadQueue p)).1
      rw [ih hnd _ ((List.mem_cons.mp hq).resolve_left hqp), State.queue_loadQueue_ne _ hqp, himage]

/-! ### The haul engines and the staging billets -/

theorem State.loadTables_openRange (s : State) (a b : Nat) : (s.openRange a b).loadTables = s.loadTables := (rfl)

/-- Billets of windows that a load closes hold undefined bytes (R72). -/
def State.winsClosed (s : State) : State := s.hauls.foldl (fun s e => e.2.wins.foldl (fun s w => w.billets.foldl State.openBillet s) s) s

theorem State.loadTables_winsClosed (s : State) : s.winsClosed.loadTables = s.loadTables :=
  foldl_keeps State.loadTables (fun s _ => foldl_keeps State.loadTables
    (fun s _ => foldl_keeps State.loadTables (fun s _ => s.loadTables_openRange _ _) _ s) _ s) _ s

theorem State.winsClosed_none {s : State} (h : ∀ e ∈ s.hauls, e.2.wins = []) : s.winsClosed = s := by
  unfold State.winsClosed
  generalize s.hauls = l at h
  induction l with
  | nil => rfl
  | cons e l ih =>
    rw [List.foldl_cons, h e List.mem_cons_self]
    exact ih fun d hd => h d (List.mem_cons_of_mem _ hd)

theorem State.loadTables_haulLoad (s : State) : s.haulLoad.loadTables = s.loadTables := s.loadTables_winsClosed

theorem State.mem_haulLoad {s : State} (h : ∀ e ∈ s.hauls, e.2.wins = []) : s.haulLoad.mem = s.mem := by
  show s.winsClosed.mem = s.mem
  rw [State.winsClosed_none h]

theorem State.quiesceDone_cases (s : State) : s.quiesceDone = s ∨ s.quiesceDone = s.setFld Reg.RTE_STATUS 0 0 1 := by
  unfold State.quiesceDone
  split
  · exact .inr rfl
  · exact .inl rfl

/-- The loader at rest, the staging billets undefined. -/
def State.loadIdle (s : State) : State :=
  let t := (s.openRange stagingBase stagingEnd).setFld Reg.RTE_STATUS 19 16 0
  { t with loader := { t.loader with running := false, hdr := [], staged := [], ready := none, comparing := false } }

theorem State.loadEnd_eq (s : State) : s.loadEnd = s.loadIdle.quiesceDone := rfl

theorem State.loadIdle_spec (s : State) : s.loadIdle.loadTables = s.loadTables ∧ s.loadIdle.mem = s.mem.openRange stagingBase stagingEnd s.free ∧
    s.loadIdle.loader.running = false ∧ s.loadIdle.fld Reg.RTE_STATUS 19 16 = 0 := by
  refine ⟨by simp [State.loadIdle, State.loadTables, State.openRange], by simp [State.loadIdle, State.openRange], rfl, ?_⟩
  exact (State.fld_of_regs (s := (s.openRange stagingBase stagingEnd).setFld Reg.RTE_STATUS 19 16 0) (by simp only [State.loadIdle]) _ _ _).trans
    (State.fld_setFld_self _ _ _ (by decide) (by decide))

theorem State.loadEnd_spec (s : State) : s.loadEnd.loadTables = s.loadTables ∧ s.loadEnd.mem = s.mem.openRange stagingBase stagingEnd s.free ∧
    s.loadEnd.loader.running = false ∧ s.loadEnd.fld Reg.RTE_STATUS 19 16 = 0 := by
  obtain ⟨htables, hmem, hrun, hphase⟩ := s.loadIdle_spec
  rw [State.loadEnd_eq]
  rcases s.loadIdle.quiesceDone_cases with h | h
  · rw [h]
    exact ⟨htables, hmem, hrun, hphase⟩
  · rw [h]
    refine ⟨Eq.trans ?_ htables, by simpa using hmem, by simpa using hrun, ?_⟩
    · exact State.loadTables_of_view (State.loadView_setFld _ _ _ _ _)
    · rw [State.fld_setFld_ne _ _ _ (by decide) (by decide) (by decide) (by decide), hphase]

/-! ### Measurement -/

theorem State.reg_extend (s : State) (v : List Byte) {o : Nat} (h : o < 0xD000000) : (s.extend 2 v).reg o = s.reg o := by
  unfold State.extend State.setMeas
  dsimp only
  rw [State.reg_post _ _ _ _ _ h, State.reg_addFld_ne _ _ _ _ (by simp only [Reg.SEC_MEAS_CNT]; omega)]
  exact foldl_keeps (fun s => s.reg o) (fun s w => State.reg_setReg_ne _ _ (by simp only [Reg.SEC_MEAS]; omega)) _ s

theorem State.loadView_extend (s : State) (r : Nat) (v : List Byte) : (s.extend r v).loadView = s.loadView := by
  unfold State.extend State.setMeas
  dsimp only
  rw [State.loadView_post, State.loadView_addFld, State.loadView_foldl]
  exact fun s w => s.loadView_setReg _ _

theorem State.loader_extend (s : State) (r : Nat) (v : List Byte) : (s.extend r v).loader = s.loader := by
  unfold State.extend State.setMeas
  dsimp only
  rw [State.post_loader, State.addFld_loader]
  exact foldl_keeps State.loader (fun s w => State.setReg_loader _ _ _) _ s

/-! ## The apply step, part by part -/

/-- The new image's units: its queues, its KV pools, its contexts, its seals, its parties. -/
def State.imageTaken (s : State) (i : Image) : State :=
  let t := { s with image := i, loader := { s.loader with secVer := s.loader.nextSec } }
  (((((List.range 2048).foldl State.loadQueue t).loadMats.kvClear.haulLoad).sealLoad).linkLoad s.image)

/-- What the registers tell of the image in force. -/
def State.imageTold (s : State) (i : Image) (src : Nat) (hash : List Byte) : State :=
  ((((s.setReg Reg.RTE_SEQ (BitVec.ofNat 64 i.seq)).setFld Reg.RTE_STATUS 7 7 1).setFld Reg.RTE_STATUS 5 4 src).loadResult ⟨imOk, 0, 0⟩).extend 2 hash

/-- The end of a load that succeeds. -/
def State.loadSucceeded (s : State) (i : Image) : State :=
  (s.raise Reg.RTE_EVENT 0 Reg.RTE_EVENT_CNT0 0).postStep slotLoader i.seq 0x0100 1 (s.rteArg 0)

theorem State.applyDone_eq {s : State} {i : Image} (hi : s.loader.ready = some i) (hhold : s.loader.hold = false)
    (hphase : s.fld Reg.RTE_STATUS 19 16 = 4) : s.applyDone = ((s.imageTaken i).loadEnd.imageTold i
      (match s.loader.src with | .copyA => 1 | .copyB => 2 | .memory _ => 3) s.loader.nextHash).loadSucceeded i := by
  unfold State.applyDone
  rw [hi]
  dsimp only
  rw [if_pos ⟨hphase, by simp [hhold]⟩]
  rfl

/-- The image taken and every queue set by it. -/
def State.queuesSet (s : State) (i : Image) : State :=
  (List.range 2048).foldl State.loadQueue { s with image := i, loader := { s.loader with secVer := s.loader.nextSec } }

theorem State.queuesSet_rest (s : State) (i : Image) :
    (s.queuesSet i).loadRest = (i, s.anchors, s.bias, s.pending, s.fuses, s.mem, s.hauls) := State.loadRest_loadQueues _ _

theorem State.imageTaken_tables (s : State) (i : Image) : (s.imageTaken i).loadTables = (s.queuesSet i).loadTables := by
  have htables : (s.queuesSet i).loadMats.kvClear.haulLoad.loadTables = (s.queuesSet i).loadTables := by
    rw [State.loadTables_haulLoad, State.loadTables_of_view (State.loadView_kvClear _), State.loadTables_of_view (State.loadView_loadMats _)]
  exact (State.loadTables_of_view (State.loadView_linkLoad _ _)).trans
    ((State.loadTables_of_view (State.loadView_sealLoad _)).trans htables)

theorem State.mem_of_view (h : t.loadView = s.loadView) : t.mem = s.mem := (Prod.mk.inj (Prod.mk.inj h).2).1
theorem State.hauls_of_view (h : t.loadView = s.loadView) : t.hauls = s.hauls := (Prod.mk.inj (Prod.mk.inj h).2).2

theorem State.imageTaken_mem {s : State} (i : Image) (h : ∀ e ∈ s.hauls, e.2.wins = []) : (s.imageTaken i).mem = s.mem := by
  have hrest := s.queuesSet_rest i
  simp only [State.loadRest, Prod.mk.injEq] at hrest
  obtain ⟨-, -, -, -, -, hmem, hhauls⟩ := hrest
  have hclear : (s.queuesSet i).loadMats.kvClear.loadView = (s.queuesSet i).loadView :=
    (State.loadView_kvClear _).trans (State.loadView_loadMats _)
  have hnone : ∀ e ∈ (s.queuesSet i).loadMats.kvClear.hauls, e.2.wins = [] := by
    rw [State.hauls_of_view hclear, hhauls]
    exact h
  calc (s.imageTaken i).mem
      = (s.queuesSet i).loadMats.kvClear.haulLoad.sealLoad.mem := State.mem_of_view (State.loadView_linkLoad _ _)
    _ = (s.queuesSet i).loadMats.kvClear.haulLoad.mem := State.mem_of_view (State.loadView_sealLoad _)
    _ = (s.queuesSet i).loadMats.kvClear.mem := State.mem_haulLoad hnone
    _ = s.mem := (State.mem_of_view hclear).trans hmem

theorem State.imageTaken_rest (s : State) (i : Image) : (s.imageTaken i).image = i ∧ (s.imageTaken i).anchors = s.anchors ∧
    (s.imageTaken i).bias = s.bias ∧ (s.imageTaken i).pending = s.pending ∧ (s.imageTaken i).fuses = s.fuses := by
  have hrest := s.queuesSet_rest i
  have htables := s.imageTaken_tables i
  simp only [State.loadRest, Prod.mk.injEq] at hrest
  simp only [State.loadTables, Prod.mk.injEq] at htables
  obtain ⟨himage, hanchors, hbias, hpending, hfuses, -, -⟩ := hrest
  obtain ⟨himage', -, hanchors', hbias', hpending', hfuses'⟩ := htables
  exact ⟨himage'.trans himage, hanchors'.trans hanchors, hbias'.trans hbias, hpending'.trans hpending, hfuses'.trans hfuses⟩

theorem State.imageTaken_mode (s : State) (i : Image) {q : Nat} (hq : q < 2048) :
    ((s.imageTaken i).queue q).mode = loadedMode i q (s.queue q).mode := by
  have htables := s.imageTaken_tables i
  simp only [State.loadTables, Prod.mk.injEq] at htables
  have hqueue : (s.imageTaken i).queue q = (s.queuesSet i).queue q := by simp only [State.queue, htables]
  rw [hqueue]
  exact State.mode_loadQueues _ List.nodup_range _ (List.mem_range.mpr hq)

theorem State.imageTold_view (s : State) (i : Image) (src : Nat) (hash : List Byte) : (s.imageTold i src hash).loadView = s.loadView := by
  unfold State.imageTold State.loadResult
  rw [State.loadView_extend, State.loadView_setReg, State.loadView_setFld, State.loadView_setFld, State.loadView_setFld, State.loadView_setReg]

theorem State.imageTold_loader (s : State) (i : Image) (src : Nat) (hash : List Byte) : (s.imageTold i src hash).loader = s.loader := by
  rw [State.imageTold, State.loader_extend]
  simp [State.loadResult]

theorem State.loadSucceeded_view (s : State) (i : Image) : (s.loadSucceeded i).loadView = s.loadView := by
  rw [State.loadSucceeded, State.loadView_postStep, State.loadView_raise]

theorem State.loadSucceeded_fld (s : State) (i : Image) {o : Nat} (hi lo : Nat) (ho : o < 0xD000000) (hne : o ≠ Reg.RTE_EVENT)
    (hne' : o ≠ Reg.RTE_EVENT_CNT0) : (s.loadSucceeded i).fld o hi lo = s.fld o hi lo := by
  rw [State.loadSucceeded, State.fld, State.reg_postStep _ _ _ _ _ _ ho, State.reg_raise_ne _ _ _ hne hne', State.fld]

theorem State.loadSucceeded_done (s : State) (i : Image) : (s.loadSucceeded i).fld Reg.RTE_EVENT 0 0 = 1 := by
  rw [State.loadSucceeded, State.fld, State.reg_postStep _ _ _ _ _ _ (by decide), ← State.fld, State.fld_raise_flag _ (by decide) (by decide)]

theorem State.imageTold_fld (s : State) (i : Image) (src : Nat) (hash : List Byte) :
    (s.imageTold i src hash).fld Reg.RTE_STATUS 7 7 = 1 ∧ (s.imageTold i src hash).fld Reg.RTE_STATUS 31 24 = 0 ∧
    (s.imageTold i src hash).fld Reg.RTE_STATUS 19 16 = s.fld Reg.RTE_STATUS 19 16 ∧
    (s.imageTold i src hash).reg Reg.RTE_SEQ = BitVec.ofNat 64 i.seq := by
  have hext (o hi lo : Nat) (u : State) (ho : o < 0xD000000) : (u.extend 2 hash).fld o hi lo = u.fld o hi lo := by
    rw [State.fld, State.reg_extend u hash ho, State.fld]
  unfold State.imageTold State.loadResult
  refine ⟨?_, ?_, ?_, ?_⟩
  · rw [hext _ _ _ _ (by decide), State.fld_setReg_ne _ _ _ _ (by decide), State.fld_setFld_ne _ _ _ (by decide) (by decide) (by decide) (by decide),
      State.fld_setFld_ne _ _ _ (by decide) (by decide) (by decide) (by decide), State.fld_setFld_self _ _ _ (by decide) (by decide)]
    rfl
  · rw [hext _ _ _ _ (by decide), State.fld_setReg_ne _ _ _ _ (by decide), State.fld_setFld_self _ _ _ (by decide) (by decide)]
    rfl
  · rw [hext _ _ _ _ (by decide), State.fld_setReg_ne _ _ _ _ (by decide), State.fld_setFld_ne _ _ _ (by decide) (by decide) (by decide) (by decide),
      State.fld_setFld_ne _ _ _ (by decide) (by decide) (by decide) (by decide),
      State.fld_setFld_ne _ _ _ (by decide) (by decide) (by decide) (by decide), State.fld_setReg_ne _ _ _ _ (by decide)]
  · rw [State.reg_extend _ _ (by decide), State.reg_setReg_ne _ _ (by decide), State.reg_setFld_ne _ _ _ _ (by decide),
      State.reg_setFld_ne _ _ _ _ (by decide), State.reg_setFld_ne _ _ _ _ (by decide), State.reg_setReg_self]

/-- The state after the apply step. -/
def State.applied (s : State) (i : Image) : State :=
  ((s.imageTaken i).loadEnd.imageTold i (match s.loader.src with | .copyA => 1 | .copyB => 2 | .memory _ => 3) s.loader.nextHash).loadSucceeded i

theorem State.applied_view (s : State) (i : Image) : (s.applied i).loadView = (s.imageTaken i).loadEnd.loadView :=
  (State.loadSucceeded_view _ _).trans (State.imageTold_view _ _ _ _)

theorem State.applied_tables (s : State) (i : Image) : (s.applied i).loadTables = (s.imageTaken i).loadTables :=
  (State.loadTables_of_view (s.applied_view i)).trans (State.loadEnd_spec _).1

theorem State.applied_rest (s : State) (i : Image) : (s.applied i).image = i ∧ (s.applied i).anchors = s.anchors ∧
    (s.applied i).bias = s.bias ∧ (s.applied i).pending = s.pending ∧ (s.applied i).fuses = s.fuses := by
  have htables := s.applied_tables i
  simp only [State.loadTables, Prod.mk.injEq] at htables
  obtain ⟨himage, -, hanchors, hbias, hpending, hfuses⟩ := htables
  rw [himage, hanchors, hbias, hpending, hfuses]
  exact s.imageTaken_rest i

theorem State.applied_mode (s : State) (i : Image) {q : Nat} (hq : q < 2048) : ((s.applied i).queue q).mode = loadedMode i q (s.queue q).mode := by
  have htables := s.applied_tables i
  simp only [State.loadTables, Prod.mk.injEq] at htables
  have hqueue : (s.applied i).queue q = (s.imageTaken i).queue q := by simp only [State.queue, htables]
  rw [hqueue, s.imageTaken_mode i hq]

theorem State.applied_mem {s : State} (i : Image) (h : ∀ e ∈ s.hauls, e.2.wins = []) {x : Nat} (hx : x < stagingBase ∨ stagingEnd ≤ x) :
    (s.applied i).mem.byte x = s.mem.byte x := by
  rw [State.mem_of_view (s.applied_view i), (State.loadEnd_spec _).2.1, Memory.byte_openRange_out _ (by omega), State.imageTaken_mem i h]

theorem State.applied_loader (s : State) (i : Image) : (s.applied i).loader.running = false := by
  rw [State.applied, State.loadSucceeded, State.postStep_loader, State.raise_loader, State.imageTold_loader, (State.loadEnd_spec _).2.2.1]

theorem State.applied_regs (s : State) (i : Image) : (s.applied i).loaded = true ∧ (s.applied i).fld Reg.RTE_STATUS 31 24 = 0 ∧
    (s.applied i).fld Reg.RTE_STATUS 19 16 = 0 ∧ (s.applied i).reg Reg.RTE_SEQ = BitVec.ofNat 64 i.seq ∧ (s.applied i).fld Reg.RTE_EVENT 0 0 = 1 := by
  obtain ⟨hloaded, hcode, hphase, hseq⟩ := (s.imageTaken i).loadEnd.imageTold_fld i
    (match s.loader.src with | .copyA => 1 | .copyB => 2 | .memory _ => 3) s.loader.nextHash
  refine ⟨?_, ?_, ?_, ?_, State.loadSucceeded_done _ _⟩
  · rw [State.loaded, State.applied, State.loadSucceeded_fld _ _ _ _ (by decide) (by decide) (by decide), hloaded]
    rfl
  · rw [State.applied, State.loadSucceeded_fld _ _ _ _ (by decide) (by decide) (by decide), hcode]
  · rw [State.applied, State.loadSucceeded_fld _ _ _ _ (by decide) (by decide) (by decide), hphase, (State.loadEnd_spec _).2.2.2]
  · rw [State.applied, State.loadSucceeded, State.reg_postStep _ _ _ _ _ _ (by decide), State.reg_raise_ne _ _ _ (by decide) (by decide), hseq]

theorem loadedMode_disabled {i : Image} {q : Nat} {m : QMode} : loadedMode i q m = .disabled ↔ i.enables q = false := by
  unfold loadedMode
  cases i.enables q <;> simp
  split <;> simp_all

theorem loadedMode_off {i : Image} {q : Nat} {m : QMode} (h : i.enables q = true) (hm : m = .disabled) : loadedMode i q m = .off := by
  simp [loadedMode, h, hm]

theorem loadedMode_same {i : Image} {q : Nat} {m : QMode} (h : i.enables q = true) (hm : m ≠ .disabled) : loadedMode i q m = m := by
  simp [loadedMode, h, hm]

end

end Sys2Proof.Machine

namespace Sys2Proof.Machine

/-! ## Writing LOAD (R67) -/

/-- The start of a load from memory. -/
theorem State.loadWrite_running {s : State} (h : s.loader.running = true) : s.loadWrite = s.rteReject := by
  rw [State.loadWrite, if_pos h]

theorem State.loadWrite_notQuiesced {s : State} (h : s.loader.running = false) (hq : s.quiesced = false) :
    s.loadWrite = (s.loadResult ⟨imNotQuiesced, 0, 0⟩).loadFailed 0 := by
  rw [State.loadWrite, if_neg (by simp [h]), if_pos (by simp [hq])]

theorem State.loadWrite_quiesced {s : State} (h : s.loader.running = false) (hq : s.quiesced = true) :
    s.loadWrite = s.loadStart (.memory (s.fld Reg.RTE_SRC 51 12 * 4096)) := by
  rw [State.loadWrite, if_neg (by simp [h]), if_neg (by simp [hq])]

theorem State.quiesced_setPort (s : State) (who : Requester) (p : Port) : (s.setPort who p).quiesced = s.quiesced := rfl

/-- The result of a load that found the device not quiesced, as its event tells it. -/
theorem State.notQuiesced_eq (s : State) : (s.loadResult ⟨imNotQuiesced, 0, 0⟩).loadFailed 0 =
    (((s.setFld Reg.RTE_STATUS 31 24 imNotQuiesced).setReg Reg.RTE_ERR 0).raise Reg.RTE_EVENT 1 Reg.RTE_EVENT_CNT0 16).postStep slotLoader 0 0x0101 1
      imNotQuiesced := by
  have harg : (s.loadResult ⟨imNotQuiesced, 0, 0⟩).rteArg 0 = imNotQuiesced := by
    rw [State.rteArg, State.loadResult, State.fld_setReg_ne _ _ _ _ (by decide), State.fld_setFld_self _ _ _ (by decide) (by decide),
      State.fld_setReg_self, State.fld_setReg_self]
    rfl
  rw [State.loadFailed, harg]
  rfl

/-! ## The reads of a load -/

/-- Another state of the loader. -/
def State.setLoader (s : State) (l : Loader) : State := { s with loader := l }

theorem State.stage_setLoader (s : State) (l : Loader) (off : Nat) (b : List Byte) : (s.setLoader l).stage off b = (s.stage off b).setLoader l := (rfl)
theorem State.setFld_setLoader (s : State) (l : Loader) (o hi lo x : Nat) : (s.setLoader l).setFld o hi lo x = (s.setFld o hi lo x).setLoader l := (rfl)
theorem State.setLoader_setLoader (s : State) (l m : Loader) : (s.setLoader l).setLoader m = s.setLoader m := (rfl)
theorem State.setLoader_self (s : State) : s.setLoader s.loader = s := (rfl)

/-- What a header that passes makes of the loader of a load that does not compare (R76). -/
def Loader.passed (l : Loader) (hdr trailer : List Byte) : Loader :=
  { l with hdr := hdr, staged := trailer, seqA := if l.src = .copyA then some (imgSeq hdr) else l.seqA }

/-- The header and trailer of an image stand in the staging billets, and the body is fetched. -/
def State.headStaged (s : State) (hdr trailer : List Byte) : State :=
  ((s.stage 0 hdr).stage (imgLen hdr - 0x1000) trailer).setFld Reg.RTE_STATUS 19 16 1

theorem State.headStaged_setLoader (s : State) (l : Loader) (hdr trailer : List Byte) :
    (s.setLoader l).headStaged hdr trailer = (s.headStaged hdr trailer).setLoader l := by
  rw [State.headStaged, State.stage_setLoader, State.stage_setLoader, State.setFld_setLoader, State.headStaged]

/-- What a header that passes makes of the loader before the comparison and the staging. -/
def Loader.seqTaken (l : Loader) (hdr : List Byte) : Loader :=
  match l.src, l.comparing with
  | .copyA, false => { l with seqA := some (imgSeq hdr) }
  | .copyA, true => { l with seqB := some (imgSeq hdr) }
  | .copyB, _ => { l with seqB := some (imgSeq hdr) }
  | .memory _, _ => l

theorem Loader.seqTaken_passed {l : Loader} (hsrc : l.src ≠ .copyB) (hcmp : l.comparing = false) {hdr trailer : List Byte} :
    ({ l.seqTaken hdr with hdr := hdr, staged := trailer } : Loader) = l.passed hdr trailer := by
  obtain ⟨run, src, h, st, ready, hold, seqA, seqB, cmp, sv, ns, nh⟩ := l
  dsimp only at hsrc hcmp
  subst hcmp
  cases src with
  | copyB => exact absurd rfl hsrc
  | copyA => rfl
  | memory a => simp [Loader.seqTaken, Loader.passed]

theorem State.headerPasses_staged {s : State} (hsrc : s.loader.src ≠ .copyB) (hcmp : s.loader.comparing = false) (hdr trailer : List Byte) :
    s.headerPasses hdr trailer = (s.headStaged hdr trailer).setLoader (s.loader.passed hdr trailer) := by
  have htaken : s.headerPasses hdr trailer =
      (((s.setLoader (s.loader.seqTaken hdr)).headStaged hdr trailer).setLoader { s.loader.seqTaken hdr with hdr := hdr, staged := trailer }) := by
    unfold State.headerPasses Loader.seqTaken
    generalize hl : s.loader = l at hsrc hcmp
    obtain ⟨run, src, h, st, ready, hold, seqA, seqB, cmp, sv, ns, nh⟩ := l
    dsimp only at hsrc hcmp
    subst hcmp
    cases src with
    | copyB => exact absurd rfl hsrc
    | copyA => rfl
    | memory a =>
      simp only [hl]
      rw [← hl]
      rfl
  rw [htaken, Loader.seqTaken_passed hsrc hcmp, State.headStaged_setLoader, State.setLoader_setLoader]

theorem State.headerChecks_range {u : State} {bad : Option Nat} (hcmp : u.loader.comparing = false) (h : u.sourceOk 0x100 = false) :
    u.headerChecks bad = ((u.loadResult ⟨imRange, 0, 0⟩).noRead).loadFailed 0 := by
  unfold State.headerChecks
  dsimp only
  simp only [hcmp, Bool.false_eq_true, if_false, h, Bool.not_false, if_true]

/-- A header whose checks find nothing passes, whatever the reads have changed beside the loader. -/
theorem State.headerChecks_passes {u v w : State} {hdr trailer : List Byte} {bad : Option Nat} (hcmp : u.loader.comparing = false)
    (hok : u.sourceOk 0x100 = true) (hread : u.readImage 0 0x100 bad = (v, hdr, none)) (hhead : headChecks 0x45545254 0x1800000 hdr = none)
    (hlen : v.sourceOk (imgLen hdr) = true) (hread' : v.readImage (imgLen hdr - 0x1000) 0x1000 bad = (w, trailer, none))
    (hw : w.loader = u.loader) (hsig : signatureFail w.fuses.root hdr trailer = none) : u.headerChecks bad = w.headerPasses hdr trailer := by
  have hback : w.setLoader { w.loader with src := u.loader.src } = w := by
    rw [← hw]
    exact w.setLoader_self
  unfold State.headerChecks
  dsimp only
  simp only [hcmp, Bool.false_eq_true, if_false, hok, Bool.not_true]
  rw [hread]
  dsimp only
  rw [hhead]
  dsimp only
  rw [if_neg (by simp [hlen]), hread']
  dsimp only
  rw [hsig]
  exact congrArg (fun x => x.headerPasses hdr trailer) hback

theorem State.sourceOk_memory {s : State} {a len : Nat} (h : s.loader.src = .memory a) (hlen : stackedEnd < a + len) : s.sourceOk len = false := by
  rw [State.sourceOk, h]
  exact decide_eq_false (by omega)

theorem State.bodyChecks_passes {u v : State} {body : List Byte} {bad : Option Nat}
    (hread : u.readImage 0x100 (imgLen u.loader.hdr - 0x1100) bad = (v, body, none))
    (hdigest : digestFail (u.loader.hdr ++ body ++ v.loader.staged) = none) : u.bodyChecks bad =
      ((v.stage 0x100 body).setFld Reg.RTE_STATUS 19 16 3).setLoader { v.loader with staged := u.loader.hdr ++ body ++ v.loader.staged } := by
  unfold State.bodyChecks
  -- the digest stays a name: the kernel would compute it
  obtain ⟨check, hcheck⟩ : ∃ f, f = digestFail := ⟨_, rfl⟩
  rw [← hcheck] at hdigest ⊢
  simp only [hread, hdigest]
  rfl

/-! ## The field checks -/

theorem exec_fieldChecksDone {s : State} (hl : s.live) : exec .fieldChecksDone s = .next (s.keep s.fieldsChecked) := State.run_live _ hl

/-- The loader with an image that is to be applied. -/
def Loader.readied (l : Loader) : Loader :=
  { l with ready := some (parseImage l.staged), nextSec := imgSecVer l.staged, nextHash := sha256 l.hdr }

theorem State.drainLog_empty {s : State} (hlane : s.log.lane = []) (hintake : s.log.intake = []) (n : Nat) : State.drainLog n s = s := by
  cases n with
  | zero => rfl
  | succ n => exact if_pos ⟨hlane, hintake⟩

theorem State.applyBegin_empty {s : State} (hrun : s.loader.running = true) (hready : s.loader.ready.isSome = true)
    (hcmp : s.loader.comparing = false) (hphase : s.fld Reg.RTE_STATUS 19 16 ≠ 4) (hboot : s.bootLoading = false)
    (hlane : s.log.lane = []) (hintake : s.log.intake = []) :
    s.applyBegin = (s.setFld Reg.RTE_STATUS 19 16 4).setLoader { s.loader with hold := true } := by
  unfold State.applyBegin
  rw [if_pos (by simp [hrun, hready, hcmp, hphase, hboot])]
  dsimp only
  rw [State.drainLog_empty hlane hintake, if_neg (by simp [hlane, hintake])]
  rfl

theorem State.fieldsChecked_fails {s : State} (hrun : s.loader.running = true) (hphase : s.fld Reg.RTE_STATUS 19 16 = 3)
    (hready : s.loader.ready = none) {x : Fail} (hbody : bodyFail s.fuses s.loader.staged = some x) :
    s.fieldsChecked = s.loadFails x (imgSeq s.loader.staged) := by
  unfold State.fieldsChecked
  rw [if_pos (by simp [hrun, hphase, hready])]
  dsimp only
  rw [hbody]

theorem State.fieldsChecked_memory {s : State} (hrun : s.loader.running = true) (hphase : s.fld Reg.RTE_STATUS 19 16 = 3)
    (hready : s.loader.ready = none) {a : Nat} (hsrc : s.loader.src = .memory a) (hbody : bodyFail s.fuses s.loader.staged = none) :
    s.fieldsChecked = (s.setLoader s.loader.readied).applyBegin := by
  unfold State.fieldsChecked
  rw [if_pos (by simp [hrun, hphase, hready])]
  dsimp only
  rw [hbody]
  dsimp only
  split
  · next h => exact nomatch hsrc.symm.trans h
  · rfl

theorem State.fieldsChecked_idle {s : State} (h : s.loader.running = false) : s.fieldsChecked = s := by
  rw [State.fieldsChecked, if_neg (by simp [h])]

theorem State.loadFails_memory {s : State} {x : Fail} {seq a : Nat} (hcmp : s.loader.comparing = false) (hsrc : s.loader.src = .memory a) :
    s.loadFails x seq = ((s.loadResult x).loadEnd).loadFailed seq := by
  have hloader : (s.loadResult x).loader = s.loader := by simp [State.loadResult]
  unfold State.loadFails
  dsimp only
  rw [hloader, hcmp, if_neg (by simp), hsrc]

theorem State.loadFails_copyA {s : State} {x : Fail} {seq : Nat} (hcmp : s.loader.comparing = false) (hsrc : s.loader.src = .copyA) :
    s.loadFails x seq = ((s.loadResult x).copyBad seq 1).loadStart .copyB := by
  have hloader : (s.loadResult x).loader = s.loader := by simp [State.loadResult]
  unfold State.loadFails
  dsimp only
  rw [hloader, hcmp, if_neg (by simp), hsrc]

theorem State.loadFails_copyB {s : State} {x : Fail} {seq : Nat} (hcmp : s.loader.comparing = false) (hsrc : s.loader.src = .copyB) :
    s.loadFails x seq = ((((s.loadResult x).copyBad seq 2).setFld Reg.RTE_STATUS 31 24 imNone).loadEnd).loadFailed seq := by
  have hloader : (s.loadResult x).loader = s.loader := by simp [State.loadResult]
  unfold State.loadFails
  dsimp only
  rw [hloader, hcmp, if_neg (by simp), hsrc]

/-! ### What these keep -/

theorem State.keepsPendingFuses_of_view {s t : State} (h : t.loadTables = s.loadTables) : s.keepsPendingFuses t := by
  simp only [State.loadTables, Prod.mk.injEq] at h
  exact ⟨h.2.2.2.2.1, h.2.2.2.2.2⟩

theorem State.keep_of_tables {s t : State} (h : t.loadTables = s.loadTables) : s.keep t = t :=
  State.keep_of_eq (State.keepsPendingFuses_of_view h).1 (State.keepsPendingFuses_of_view h).2

theorem State.loadView_loadResult (s : State) (x : Fail) : (s.loadResult x).loadView = s.loadView := by
  rw [State.loadResult, State.loadView_setReg, State.loadView_setFld]

theorem State.loadView_loadFailed (s : State) (seq : Nat) : (s.loadFailed seq).loadView = s.loadView := by
  rw [State.loadFailed, State.loadView_postStep, State.loadView_raise]

theorem State.loadView_copyBad (s : State) (seq copy : Nat) : (s.copyBad seq copy).loadView = s.loadView := by
  rw [State.copyBad, State.loadView_postStep, State.loadView_raise]

theorem State.loadView_setLoader (s : State) (l : Loader) : (s.setLoader l).loadView = s.loadView := (rfl)

theorem State.loadView_setPort (s : State) (who : Requester) (p : Port) : (s.setPort who p).loadView = s.loadView := (rfl)

theorem State.loadStart_eq (s : State) (src : LoadSrc) : s.loadStart src = (s.setFld Reg.RTE_STATUS 19 16 2).setLoader
    { s.loader with running := true, src, hdr := [], staged := [], ready := none, comparing := false } := rfl

theorem State.loadView_loadStart (s : State) (src : LoadSrc) : (s.loadStart src).loadView = s.loadView := by
  rw [State.loadStart_eq, State.loadView_setLoader, State.loadView_setFld]

/-! ## The hold of the apply step (R71, R72) -/

/-- The state once the hold of an apply step has ended: the new map is in force. -/
def State.mapTaken (s : State) (i : Image) : State :=
  let u := match changedFrom s.image.regions i.regions with
    | some a => s.openRange a stackedEnd
    | none => s
  { u with
    image := { u.image with regions := i.regions }, loader := { u.loader with hold := false },
    outstanding := u.outstanding.filter (fun x => x.2 != Need.hold) }

theorem State.holdEnd_held {s : State} {i : Image} (hi : s.loader.ready = some i) (hh : s.loader.hold = true) :
    s.holdEnd = (s.mapTaken i).retryHosts := by
  unfold State.holdEnd
  rw [hh, hi]
  rfl

theorem State.holdEnd_over {s : State} (hh : s.loader.hold = false) : s.holdEnd = s := by
  unfold State.holdEnd
  rw [hh]

theorem changedFrom_self : ∀ l : List Region, changedFrom l l = none
  | [] => rfl
  | a :: l => by rw [changedFrom, if_pos rfl, changedFrom_self l]

theorem State.applyDone_not {s : State} (h : s.loader.hold = true ∨ s.fld Reg.RTE_STATUS 19 16 ≠ 4) : s.applyDone = s := by
  unfold State.applyDone
  split
  · rw [if_neg]
    rintro ⟨hphase, hhold⟩
    exact h.elim hhold fun hne => hne hphase
  · rfl

theorem State.bootLoading_memory {s : State} {a : Nat} (h : s.loader.src = .memory a) : s.bootLoading = false := by
  rw [State.bootLoading, h]

/-- Settles O18: a load passes its phases in order, and the apply step takes the image. -/
theorem loadsRun : Obligations.LoadsRun := by
  unfold Obligations.LoadsRun
  refine ⟨fun who env s ha => ?load, fun bad env s hl => ?checks, fun env s i hl hi => ?apply⟩
  case load =>
    have hexec := exec_loadImage ha env
    have hloader : (s.setPort who {}).loader = s.loader := State.setPort_loader s who {}
    refine ⟨fun h => ?_, fun h hq => ?_, fun h hq => ?_⟩
    · rw [hexec, State.loadWrite_running (by rw [hloader]; exact h), State.keep_rteReject]
    · rw [hexec, State.loadWrite_notQuiesced (s := s.setPort who {}) (by rw [hloader]; exact h) hq, State.notQuiesced_eq]
      exact congrArg Host.Outcome.next (State.keep_of_eq (by simp) (by simp))
    · rw [hexec, State.loadWrite_quiesced (s := s.setPort who {}) (by rw [hloader]; exact h) hq, State.loadStart_eq, hloader, State.keep_of_tables]
      · rfl
      · exact State.loadTables_of_view ((State.loadView_setLoader _ _).trans ((State.loadView_setFld _ _ _ _ _).trans (State.loadView_setPort _ _ _)))
  case checks =>
    refine ⟨fun hrun hphase => ?_, fun hrun hphase => ?_, fun u hsrc hcmp => ⟨fun a ha hlen => ?_, fun v w hdr trailer hok hread _ hhead hlen hread' hw hsig => ?_⟩,
      fun u v body hread hdigest => ?_, fun hrun hphase hready hcmp => ⟨fun a hsrc hbody hlane hintake => ?_, fun x hbody => ⟨?_, fun hsrc => ?_, fun hsrc => ?_⟩⟩,
      fun h => ⟨?_, ?_, ?_⟩⟩
    · refine (State.run_live _ hl).trans ?_
      rw [State.headerRead, if_pos (by simp [hrun, hphase])]
    · refine (State.run_live _ hl).trans ?_
      rw [State.bodyFetched, if_pos (by simp [hrun, hphase])]
    · exact State.headerChecks_range hcmp (State.sourceOk_memory ha hlen)
    · rw [State.headerChecks_passes hcmp hok hread hhead hlen hread' hw hsig,
        State.headerPasses_staged (by rw [hw]; exact hsrc) (by rw [hw]; exact hcmp), hw]
      rfl
    · exact State.bodyChecks_passes hread hdigest
    · rw [exec_fieldChecksDone hl, State.fieldsChecked_memory hrun hphase hready hsrc hbody,
        State.applyBegin_empty (s := s.setLoader s.loader.readied) hrun rfl hcmp (fun h => nomatch hphase.symm.trans h)
          (State.bootLoading_memory hsrc) hlane hintake, State.keep_of_tables]
      · rfl
      · exact State.loadTables_of_view ((State.loadView_setLoader _ _).trans ((State.loadView_setFld _ _ _ _ _).trans (State.loadView_setLoader _ _)))
    · rintro ⟨a, hsrc⟩
      rw [exec_fieldChecksDone hl, State.fieldsChecked_fails hrun hphase hready hbody, State.loadFails_memory hcmp hsrc, State.keep_of_tables]
      rw [State.loadTables_of_view (State.loadView_loadFailed _ _), (State.loadEnd_spec _).1, State.loadTables_of_view (State.loadView_loadResult _ _)]
    · rw [exec_fieldChecksDone hl, State.fieldsChecked_fails hrun hphase hready hbody, State.loadFails_copyA hcmp hsrc, State.keep_of_tables]
      exact State.loadTables_of_view ((State.loadView_loadStart _ _).trans ((State.loadView_copyBad _ _ _).trans (State.loadView_loadResult _ _)))
    · rw [exec_fieldChecksDone hl, State.fieldsChecked_fails hrun hphase hready hbody, State.loadFails_copyB hcmp hsrc, State.keep_of_tables]
      rw [State.loadTables_of_view (State.loadView_loadFailed _ _), (State.loadEnd_spec _).1, State.loadTables_of_view (State.loadView_setFld _ _ _ _ _),
        State.loadTables_of_view (State.loadView_copyBad _ _ _), State.loadTables_of_view (State.loadView_loadResult _ _)]
    · refine (State.run_live _ hl).trans ?_
      rw [State.headerRead, if_neg (by simp [h]), State.keep_self]
    · refine (State.run_live _ hl).trans ?_
      rw [State.bodyFetched, if_neg (by simp [h]), State.keep_self]
    · rw [exec_fieldChecksDone hl, State.fieldsChecked_idle h, State.keep_self]
  case apply =>
    refine ⟨fun hh => ?_, fun h => by rw [h, changedFrom_self], fun hh => ?_, fun hh hphase => ?_, fun h => ?_⟩
    · refine (State.run_live _ hl).trans ?_
      rw [State.holdEnd_held hi hh]
      rfl
    · refine (State.run_live _ hl).trans ?_
      rw [State.holdEnd_over hh]
    · obtain ⟨himage, hanchors, hbias, hpending, hfuses⟩ := s.applied_rest i
      obtain ⟨hloaded, hcode, hphase', hseq, hevent⟩ := s.applied_regs i
      have hstep : exec .rteApplyDone s = .next (s.applied i) := by
        refine State.next_of_keep hpending hfuses ((State.run_live _ hl).trans ?_)
        rw [State.applyDone_eq hi hh hphase, State.applied]
      refine ⟨_, hstep, himage, hloaded, hcode, hphase', hseq, hevent, s.applied_loader i, fun q hq => ?_, hanchors, hbias,
        fun hwins x hx => State.applied_mem i hwins hx⟩
      rw [s.applied_mode i hq]
      exact ⟨loadedMode_disabled, loadedMode_off, loadedMode_same⟩
    · refine (State.run_live _ hl).trans ?_
      rw [State.applyDone_not h, State.keep_self]

end Sys2Proof.Machine

namespace Sys2Proof.Machine

/-! ## Doorbells (R84, R102 to R104) -/

theorem exec_doorbell {s : State} {who : Requester} {q : Nat} (ha : s.admitted who) (hq : q < 2048) (v : Word) :
    exec (.doorbell who q (.w64 v)) s = .next (s.keep ((s.setPort who {}).doorbell q v)) := by
  obtain ⟨hl, hx, hp⟩ := ha
  show part (s.reqExists who && queueOk q) (s.run (s.regWrite who (Reg.CQ_DOORBELL q) (.w64 v) {})) = _
  rw [part_true (by simp [hx, queueOk, hq]), State.run_live _ hl, State.regWrite_w64 who v {} (rowAt_doorbell hq)
    (s.noHostReg_out (.inl (by unfold Reg.CQ_DOORBELL; omega))) hp (by decide), effectAt_doorbell]

section
variable {s : State} {q : Nat} {v : Word}

theorem State.doorbell_dropped (h : (s.queue q).mode = .disabled ∨ (s.queue q).mode = .off) :
    s.doorbell q v = (s.raise Reg.CQ_GEVENT 16 Reg.CQ_GEVENT 0).post slotQueues 0x0204 1 (q + fget v 15 0 % 2 ^ 16 * 2 ^ 16) := by
  unfold State.doorbell
  dsimp only
  rw [if_pos h, State.queueEvent, Nat.zero_mul, Nat.add_zero]

/-- The slots that a doorbell announces beyond HEAD. -/
def doorbellNew (size : Nat) (x : Queue) (v : Word) : Nat := (fget v 15 0 + size - x.head) % size

/-- The GEN that the last slot announced must have (R103). -/
def doorbellGen (size : Nat) (x : Queue) (v : Word) : Nat :=
  if size ≤ x.head + doorbellNew size x v - 1 then (x.gen + 1) % 256 else x.gen

theorem State.doorbell_bad (hmode : ¬ ((s.queue q).mode = .disabled ∨ (s.queue q).mode = .off))
    (h : s.sqSize q ≤ fget v 15 0 ∨ 1 ≤ doorbellNew (s.sqSize q) (s.queue q) v ∧ fget v 47 40 ≠ doorbellGen (s.sqSize q) (s.queue q) v) :
    s.doorbell q v = (s.raise (Reg.CQ_EVENT q) 3 (Reg.CQ_EVENT_CNT0 q) 48).post slotQueues 0x0203 1 (q + fget v 15 0 % 2 ^ 16 * 2 ^ 16) := by
  have hbad : s.doorbell q v = s.doorbellBad q (fget v 15 0) := by
    unfold State.doorbell
    dsimp only
    rw [if_neg hmode]
    by_cases hsize : s.sqSize q ≤ fget v 15 0
    · rw [if_pos hsize]
    · rw [if_neg hsize]
      exact if_pos (h.resolve_left hsize)
  rw [hbad, State.doorbellBad, State.queueEvent, Nat.zero_mul, Nat.add_zero]

/-- The queue once a doorbell is taken, before its echo. -/
def Queue.rung (x : Queue) (size : Nat) (v : Word) : Queue :=
  { x with
    tail := if (x.tail + size - x.head) % size < doorbellNew size x v then fget v 15 0 else x.tail
    mode := if x.mode = .stopped then .on else x.mode
    rereads := 0 }

theorem State.doorbell_taken (hmode : ¬ ((s.queue q).mode = .disabled ∨ (s.queue q).mode = .off)) (hsize : fget v 15 0 < s.sqSize q)
    (h : doorbellNew (s.sqSize q) (s.queue q) v = 0 ∨ fget v 47 40 = doorbellGen (s.sqSize q) (s.queue q) v) :
    s.doorbell q v =
      if 1 ≤ doorbellNew (s.sqSize q) (s.queue q) v then
        (s.setQueue q ((s.queue q).rung (s.sqSize q) v)).addEcho q ((fget v 15 0 + s.sqSize q - 1) % s.sqSize q) (fget v 63 48)
      else s.setQueue q ((s.queue q).rung (s.sqSize q) v) := by
  unfold State.doorbell
  dsimp only
  rw [if_neg hmode, if_neg (Nat.not_le.mpr hsize)]
  refine if_neg ?_
  rintro ⟨hnew, hgen⟩
  exact h.elim (fun h0 => absurd hnew (by rw [show (fget v 15 0 + s.sqSize q - (s.queue q).head) % s.sqSize q = 0 from h0]; decide)) hgen

theorem State.queue_raise (s : State) (o i c lo p : Nat) : (s.raise o i c lo).queue p = s.queue p := by simp [State.queue]

/-- The echoes after one more. -/
def echoesWith (l : List (Nat × Nat)) (slot sl : Nat) : List (Nat × Nat) :=
  if l.any (fun e => e.1 == slot) then l.map (fun e => if e.1 = slot then (slot, sl) else e)
  else if l.length < 16 then l ++ [(slot, sl)] else l.tail ++ [(slot, sl)]

theorem mem_echoesWith (l : List (Nat × Nat)) (slot sl : Nat) : (slot, sl) ∈ echoesWith l slot sl := by
  unfold echoesWith
  split
  · next h =>
    obtain ⟨e, he, hslot⟩ := List.any_eq_true.mp h
    refine List.mem_map.mpr ⟨e, he, ?_⟩
    rw [if_pos (by simpa using hslot)]
  · split <;> simp

/-- What an echo changes: the echoes of the queue, and where one is lost the overflow flag and count. -/
theorem State.addEcho_eq (s : State) (q slot sl : Nat) :
    s.addEcho q slot sl = s.setQueue q { s.queue q with echoes := echoesWith (s.queue q).echoes slot sl } ∨
    s.addEcho q slot sl =
      (s.setQueue q { s.queue q with echoes := echoesWith (s.queue q).echoes slot sl }).raise (Reg.CQ_EVENT q) 4 (Reg.CQ_EVENT_CNT1 q) 0 := by
  unfold State.addEcho echoesWith
  dsimp only
  split
  · exact .inl rfl
  · split
    · exact .inl rfl
    · exact .inr rfl

/-- The queue once a doorbell is taken. -/
def Queue.rungEcho (x : Queue) (size : Nat) (v : Word) : Queue :=
  { x.rung size v with
    echoes := if 1 ≤ doorbellNew size x v then echoesWith x.echoes ((fget v 15 0 + size - 1) % size) (fget v 63 48) else x.echoes }

/-- What a doorbell that is taken changes: its queue, and where an echo is lost the overflow flag and count. -/
theorem State.doorbell_spec (hmode : (s.queue q).mode = .on ∨ (s.queue q).mode = .stopped) (hsize : fget v 15 0 < s.sqSize q)
    (h : doorbellNew (s.sqSize q) (s.queue q) v = 0 ∨ fget v 47 40 = doorbellGen (s.sqSize q) (s.queue q) v) :
    ∃ t, (s.doorbell q v = t ∨ s.doorbell q v = t.raise (Reg.CQ_EVENT q) 4 (Reg.CQ_EVENT_CNT1 q) 0) ∧
      t.queue q = (s.queue q).rungEcho (s.sqSize q) v ∧ (∀ p, p ≠ q → t.queue p = s.queue p) ∧ t = { s with queues := t.queues } := by
  rw [State.doorbell_taken (by rcases hmode with h | h <;> simp [h]) hsize h]
  split
  · next hnew =>
    have hrung := s.queue_setQueue_self q ((s.queue q).rung (s.sqSize q) v)
    refine ⟨_, State.addEcho_eq _ _ _ _, ?_, fun p hp => ?_, rfl⟩
    · rw [State.queue_setQueue_self, hrung, Queue.rungEcho, if_pos hnew]
      rfl
    · rw [State.queue_setQueue_ne _ _ hp, State.queue_setQueue_ne _ _ hp]
  · next hnew =>
    refine ⟨_, .inl rfl, ?_, fun p hp => State.queue_setQueue_ne _ _ hp, rfl⟩
    rw [State.queue_setQueue_self, Queue.rungEcho, if_neg hnew]
    rfl

theorem State.doorbell_changes (hmode : (s.queue q).mode = .on ∨ (s.queue q).mode = .stopped) (hsize : fget v 15 0 < s.sqSize q)
    (h : doorbellNew (s.sqSize q) (s.queue q) v = 0 ∨ fget v 47 40 = doorbellGen (s.sqSize q) (s.queue q) v) :
    (s.doorbell q v).queue q = (s.queue q).rungEcho (s.sqSize q) v ∧ (∀ p, p ≠ q → (s.doorbell q v).queue p = s.queue p) ∧
      s.doorbell q v = { s with queues := (s.doorbell q v).queues, regs := (s.doorbell q v).regs } ∧
      ∀ o, o ≠ Reg.CQ_EVENT q → o ≠ Reg.CQ_EVENT_CNT1 q → (s.doorbell q v).reg o = s.reg o := by
  obtain ⟨t, heq, hself, hother, hframe⟩ := State.doorbell_spec hmode hsize h
  have hregs : t.regs = s.regs := by rw [hframe]
  rcases heq with heq | heq
  · rw [heq]
    refine ⟨hself, hother, ?_, fun o _ _ => State.reg_of_regs hregs o⟩
    rw [hregs]
    exact hframe
  · rw [heq]
    refine ⟨by rw [State.queue_raise, hself], fun p hp => by rw [State.queue_raise, hother p hp], ?_, fun o ho ho' => ?_⟩
    · rw [State.raise_queues]
      rw [hframe]
      rfl
    · rw [State.reg_raise_ne _ _ _ ho ho', State.reg_of_regs hregs]

theorem QMode.not_off {m : QMode} (h : m = .on ∨ m = .stopped) : ¬ (m = .disabled ∨ m = .off) := by
  rcases h with rfl | rfl <;> simp

theorem Queue.rungEcho_mode {x : Queue} (size : Nat) (v : Word) (h : x.mode = .on ∨ x.mode = .stopped) : (x.rungEcho size v).mode = .on := by
  rcases h with h | h <;> simp [Queue.rungEcho, Queue.rung, h]

end

/-! ## Cancels (R114) -/

theorem exec_cancel {s : State} {who : Requester} {q : Nat} (ha : s.admitted who) (hq : q < 2048) (env : Env) :
    exec (.cancel who q env) s = .next (s.keep (if (s.setPort who {}).cancelAllowed q then ((s.setPort who {}).cancel q env).freed env
      else (s.setPort who {}).cancel q env)) := by
  have hact : s.actBit who (Reg.CQ_SQ_CTRL q) 2 env = if (s.setPort who {}).cancelAllowed q then ((s.setPort who {}).cancel q env).freed env
      else (s.setPort who {}).cancel q env := State.actBit_sqCtrl ha hq 2 env
  obtain ⟨hl, hx, -⟩ := ha
  show part (s.reqExists who && queueOk q) (s.run (s.actBit who (Reg.CQ_SQ_CTRL q) 2 env)) = _
  rw [part_true (by simp [hx, queueOk, hq]), State.run_live _ hl, hact]

theorem State.cancelAllowed_on {s : State} {q : Nat} (h : (s.queue q).mode = .on ∨ (s.queue q).mode = .stopped) : s.cancelAllowed q = true := by
  unfold State.cancelAllowed
  rcases h with h | h <;> rw [h]

theorem State.cancelAllowed_not {s : State} {q : Nat} (h : (s.queue q).mode = .disabled ∨ (s.queue q).mode = .off) : s.cancelAllowed q = false := by
  unfold State.cancelAllowed
  rcases h with h | h <;> rw [h]

/-- The queue after a cancel: what had not begun is gone. -/
def Queue.cut (x : Queue) (size : Nat) : Queue :=
  { x with
    head := x.tail
    gen := if x.tail < x.head then (x.gen + 1) % 256 else x.gen
    fetched := [], chain := none, rereads := 0, reads := 0, pitch := false, fresh := true
    issued := x.issued.filter (fun i => !notBegun i)
    cancels := x.cancels ++ [cancelled size x] }

theorem State.queueCancel_eq (s : State) (q : Nat) : s.queueCancel q =
    ((s.freeStream q).setQueue q ((s.queue q).cut (s.sqSize q))).count (Reg.CQ_DISCARD q) (cancelled (s.sqSize q) (s.queue q)).2 := rfl

theorem State.queue_queueCancel (s : State) (q : Nat) : (s.queueCancel q).queue q = (s.queue q).cut (s.sqSize q) := by
  rw [State.queueCancel_eq, State.queue, State.count_queues, ← State.queue, State.queue_setQueue_self]

theorem State.cancelEnd_not {s : State} {q : Nat} (env : Env) (h : (s.queue q).cancels = [] ∨ (s.queue q).issued ≠ []) : s.cancelEnd q env = s := by
  unfold State.cancelEnd
  dsimp only
  rw [if_neg]
  rintro ⟨hc, hi⟩
  exact h.elim hc fun h => h hi

/-- What a cancel whose records have ended leaves of a queue. -/
def State.cancelEnded (q : Nat) (x : Queue) (v : State) : State :=
  x.cancels.foldl (State.cancelDone q) (v.setQueue q { x with mode := stopMode x.mode, code := stCancelled, cancels := [] })

theorem State.cancelEnd_ends {s : State} {q : Nat} (env : Env) (hc : (s.queue q).cancels ≠ []) (hi : (s.queue q).issued = []) :
    s.cancelEnd q env = s.settle (.queue q) env (State.cancelEnded q (s.queue q)) := if_pos ⟨hc, hi⟩

/-- Settles O20: a doorbell is dropped, ignored or taken; a cancel cuts its queue, and ends with the last record. -/
theorem doorbellsAndCancels : Obligations.DoorbellsAndCancels := by
  unfold Obligations.DoorbellsAndCancels
  refine ⟨fun who q v s ha hq => ?bell, fun who q env s ha hq => ?cancel⟩
  case bell =>
    intro u x size tail dNew dCur expected
    have hexec := exec_doorbell ha hq v
    refine ⟨fun hmode => ?_, fun hmode => ⟨fun h => ?_, fun hsize h => ?_⟩⟩
    · rw [hexec, State.doorbell_dropped (s := u) hmode]
      exact congrArg Host.Outcome.next (State.keep_of_eq (by simp [u]) (by simp [u]))
    · rw [hexec, State.doorbell_bad (s := u) (QMode.not_off hmode) h]
      exact congrArg Host.Outcome.next (State.keep_of_eq (by simp [u]) (by simp [u]))
    · obtain ⟨hself, hother, hframe, hregs⟩ := State.doorbell_changes (s := u) hmode hsize h
      have hkeep : s.keep (u.doorbell q v) = u.doorbell q v := State.keep_of_eq (by rw [hframe]; rfl) (by rw [hframe]; rfl)
      have hmode' : (x.rungEcho size v).mode = .on := Queue.rungEcho_mode size v hmode
      refine ⟨u.doorbell q v, by rw [hexec, hkeep], ?_, ?_, hother, fun hnew => ?_, ?_, hframe, hregs⟩
      · rw [hself]
        rfl
      · rw [hself]
        exact hmode'
      · rw [hself]
        show _ ∈ (if 1 ≤ dNew then _ else _)
        rw [if_pos hnew]
        exact mem_echoesWith _ _ _
      · rw [hself]
        exact congrArg (fun m => { x.rungEcho size v with mode := m }) hmode'
  case cancel =>
    intro u x gone c y
    have hexec := exec_cancel ha hq env
    have hy : y = x.cut (s.sqSize q) := s.queue_queueCancel q
    refine ⟨fun hmode => ?_, by rw [hy]; rfl, by rw [hy]; rfl, by rw [hy]; rfl, by rw [hy]; rfl, by rw [hy]; rfl, by rw [hy]; rfl, by rw [hy]; rfl,
      ⟨(s.freeStream q).setQueue q (x.cut (s.sqSize q)), ?_, s.queueCancel_eq q, ?_, fun p hp => ?_⟩, State.cancelEnd_not env, fun d hd hi => ?_, fun hmode => ?_⟩
    · have hallowed : u.cancelAllowed q = true := State.cancelAllowed_on (s := u) hmode
      rw [hexec, if_pos hallowed, State.cancel, if_pos hallowed]
      rfl
    · rw [State.freeStream_frame]
      rfl
    · rw [State.freeStream_frame]
      rfl
    · rw [State.queue_setQueue_ne _ _ hp, State.queue_freeStream]
    · refine ⟨State.cancelEnded q x, State.cancelEnd_ends env (by rw [hd]; simp) hi, fun v => ?_⟩
      rw [State.cancelEnded, hd]
      rfl
    · have hallowed : u.cancelAllowed q = false := State.cancelAllowed_not (s := u) hmode
      rw [hexec, if_neg (by rw [hallowed]; simp), State.cancel, if_neg (by rw [hallowed]; simp)]
      exact congrArg Host.Outcome.next (State.keep_setPort_raise s who {} _ _ _ _)

end Sys2Proof.Machine

namespace Sys2Proof.Machine

/-! ## Control records issue (R89, R91, R96, R97, R101) -/

section
variable {c : Ctx} {s : State} {o : Nat}

theorem runNop_format (h : nopFormat c.item = some o) : runNop c s = endFormat s c.item.slot o := by unfold runNop; rw [h]
theorem runNop_passes (h : nopFormat c.item = none) : runNop c s = endOk s := by unfold runNop; rw [h]
theorem runBelay_format (h : belayFormat c.item = some o) : runBelay c s = endFormat s c.item.slot o := by unfold runBelay; rw [h]
theorem runBelay_passes (h : belayFormat c.item = none) : runBelay c s = (s, .parked .order) := by unfold runBelay; rw [h]
theorem runSignal_format (h : signalFormat s c.item = some o) : runSignal c s = endFormat s c.item.slot o := by unfold runSignal; rw [h]
theorem runSignal_passes (h : signalFormat s c.item = none) : runSignal c s = (s, .parked .order) := by unfold runSignal; rw [h]
theorem runWait_format (h : waitFormat c.item = some o) : runWait c s = endFormat s c.item.slot o := by unfold runWait; rw [h]
theorem runWait_passes (h : waitFormat c.item = none) : runWait c s = (s, .parked .anchor) := by unfold runWait; rw [h]
theorem runPut_format (h : putFormat c.item = some o) : runPut c s = endFormat s c.item.slot o := by unfold runPut; rw [h]
theorem runStep_format (h : stepFormat c.item = some o) : runStep c s = endFormat s c.item.slot o := by unfold runStep; rw [h]

theorem runStep_passes (h : stepFormat c.item = none) : runStep c s =
    endOk ((s.setStream c.core { s.stream c.core with step := c.item.f 8 8 }).setReg Reg.SIO_STEP (BitVec.ofNat 64 (c.item.f 8 8))) := by
  unfold runStep
  rw [h]

theorem runPut_populated (h : putFormat c.item = none) (hr : s.rangeBad (putDst c.item) c.item.inlineData.length = none) :
    runPut c s = endMem (s.writeMem (srcCore c.core) (putDst c.item) c.item.inlineData).1
      (s.writeMem (srcCore c.core) (putDst c.item) c.item.inlineData).2 := by
  unfold runPut
  rw [h]
  dsimp only
  rw [hr]

theorem runPut_hole (h : putFormat c.item = none) {a : Nat} (hr : s.rangeBad (putDst c.item) c.item.inlineData.length = some a) :
    runPut c s = endRange c s a := by
  unfold runPut
  rw [h]
  dsimp only
  rw [hr]

end

theorem signalFormat_starting (s : State) (q : Nat) (r : Fetched) (env : Env) : signalFormat (s.starting q r env) r = signalFormat s r := by
  unfold signalFormat
  rw [show signalChecks (s.starting q r env) r = signalChecks s r from rfl]

/-- A chain that breaks R99 ends its record with FORMAT and the chain's record. -/
theorem exec_nop_chain {s : State} {q : Nat} {r : Fetched} {rest : List Fetched} {env : Env} {i o : Nat} (hi : s.issuing) (hq : q < 2048)
    (hc : s.canIssue q = true) (hf : (s.queue q).fetched = r :: rest) (hop : r.op = 0) (hchain : chainFail 0 r.chain = some (i, o)) :
    exec (.nop q env) s = .next (s.pushIssued q r (.ended stFormat (((r.slot + 1 + i) % s.sqSize q * 2 ^ 16 + o) % 2 ^ 32))) := by
  have hissue : s.issue q 0 env runNop = s.pushIssued q r (.ended stFormat (((r.slot + 1 + i) % s.sqSize q * 2 ^ 16 + o) % 2 ^ 32)) := by
    unfold State.issue
    rw [hf]
    dsimp only
    rw [if_pos ⟨hc, hop⟩]
    unfold State.runRecord
    simp only [hchain]
    rfl
  refine ((part_true (decide_eq_true hq) _).trans (State.engine_issuing _ hi)).trans ?_
  rw [hissue]
  exact congrArg Host.Outcome.next (State.keep_of_eq rfl rfl)

/-- Settles O22: a control record that passes its checks does its work; one that does not ends with FORMAT. -/
theorem controlRecordsIssue : Obligations.ControlRecordsIssue := by
  unfold Obligations.ControlRecordsIssue
  refine ⟨fun q r rest env s => ?_, fun q r rest env s => ?_⟩
  · intro u core
    refine ⟨fun h hn => ?_, fun h hn => ?_, fun h hn => ?_, fun h hn => ?_, fun h hn => ?_, fun h hn hr => ?_, fun h hn a hr => ?_⟩
    · rw [exec_issue (run := runNop) h rfl, runNop_passes (c := s.ctx q r) hn]; rfl
    · rw [exec_issue (run := runBelay) h rfl, runBelay_passes (c := s.ctx q r) hn]
    · rw [exec_issue (run := runSignal) h rfl, runSignal_passes (c := s.ctx q r) ((signalFormat_starting s q r env).trans hn)]
    · rw [exec_issue (run := runWait) h rfl, runWait_passes (c := s.ctx q r) hn]
    · rw [exec_issue (run := runStep) h rfl, runStep_passes (c := s.ctx q r) hn]; rfl
    · rw [exec_issue (run := runPut) h rfl, runPut_populated (c := s.ctx q r) hn hr]; rfl
    · rw [exec_issue (run := runPut) h rfl, runPut_hole (c := s.ctx q r) hn hr, endRange, done, Nat.mod_mod]; rfl
  · intro u rejected
    refine ⟨fun o h hn => ?_, fun o h hn => ?_, fun o h hn => ?_, fun o h hn => ?_, fun o h hn => ?_, fun o h hn => ?_,
      fun i o hi hq hc hf hop hchain => exec_nop_chain hi hq hc hf hop hchain⟩
    · rw [exec_issue (run := runNop) h rfl, runNop_format (c := s.ctx q r) hn]; rfl
    · rw [exec_issue (run := runBelay) h rfl, runBelay_format (c := s.ctx q r) hn]; rfl
    · rw [exec_issue (run := runSignal) h rfl, runSignal_format (c := s.ctx q r) ((signalFormat_starting s q r env).trans hn)]; rfl
    · rw [exec_issue (run := runWait) h rfl, runWait_format (c := s.ctx q r) hn]; rfl
    · rw [exec_issue (run := runPut) h rfl, runPut_format (c := s.ctx q r) hn]; rfl
    · rw [exec_issue (run := runStep) h rfl, runStep_format (c := s.ctx q r) hn]; rfl

end Sys2Proof.Machine

namespace Sys2Proof.Machine

/-! ## What ends a waiting control record (R91, R96, R97) -/

section
variable {s : State} {q : Nat} {i : Issued}

theorem State.setPhaseOf_pending (s : State) (q num : Nat) (ph : Phase) : (s.setPhaseOf q num ph).pending = s.pending := by
  unfold State.setPhaseOf State.leave
  dsimp only
  split
  · split <;> rfl
  · rfl

theorem State.setPhaseOf_fuses (s : State) (q num : Nat) (ph : Phase) : (s.setPhaseOf q num ph).fuses = s.fuses := by
  unfold State.setPhaseOf State.leave
  dsimp only
  split
  · split <;> rfl
  · rfl

theorem State.keep_setPhaseOf (s : State) (q num : Nat) (ph : Phase) : s.keep (s.setPhaseOf q num ph) = s.setPhaseOf q num ph :=
  State.keep_of_eq (s.setPhaseOf_pending q num ph) (s.setPhaseOf_fuses q num ph)

theorem State.keep_ite {s t u : State} {c : Prop} [Decidable c] (ht : s.keep t = t) (hu : s.keep u = u) :
    s.keep (if c then t else u) = if c then t else u := by split <;> assumption

theorem State.mayBegin_iff (hi : s.issuing) : s.mayBegin q = true ↔ s.quiescing = false ∧ (s.queue q).held = [] := by
  simp [State.mayBegin, State.tripped, hi.2]

theorem State.belayEnd_parked (h : s.parkedOf q 1 .order = some i) : s.belayEnd q =
    if earlierEnded i.item.num (s.queue q).issued ∧ s.mayBegin q then s.setPhaseOf q i.item.num (.ended stOk 0) else s := by
  unfold State.belayEnd
  rw [h]
  simp only [Bool.and_eq_true]

/-- A local SIGNAL under way to its anchor's router, its record ended. -/
def State.signalled (s : State) (q : Nat) (r : Fetched) : State :=
  { s.setPhaseOf q r.num (.ended stOk 0) with anchorOps := s.anchorOps ++ [(signalAnchor r, signalSet r, signalValue r)] }

theorem State.keep_signalled (s : State) (q : Nat) (r : Fetched) : s.keep (s.signalled q r) = s.signalled q r :=
  State.keep_of_eq (by simp only [State.signalled, State.setPhaseOf_pending]) (by simp only [State.signalled, State.setPhaseOf_fuses])

theorem State.signalGo_local (h : s.parkedOf q 2 .order = some i) (hlocal : signalRemote i.item = false) : s.signalGo q =
    if earlierEnded i.item.num (s.queue q).issued ∧ s.mayBegin q then s.signalled q i.item else s := by
  unfold State.signalGo
  rw [h]
  dsimp only
  by_cases hgo : earlierEnded i.item.num (s.queue q).issued = true ∧ s.mayBegin q = true
  · rw [if_pos hgo, if_neg (by simp [hgo]), if_neg (by simp [hlocal])]
    rfl
  · rw [if_neg hgo, if_pos (by simpa [Classical.or_iff_not_imp_left] using hgo)]

theorem reached_iff (a v : Word32) : reached a v = true ↔ (a - v).toNat < 2 ^ 31 := decide_eq_true_iff

theorem State.waitSatisfied_parked (h : s.parkedOf q 3 .anchor = some i) : s.waitSatisfied q =
    if (s.anchor (waitAnchor i.item) - waitValue i.item).toNat < 2 ^ 31 ∧ s.mayBegin q then s.setPhaseOf q i.item.num (.ended stOk 0) else s := by
  unfold State.waitSatisfied
  rw [h]
  simp only [Bool.and_eq_true, reached_iff]

theorem State.waitExpired_parked (h : s.parkedOf q 3 .anchor = some i) : s.waitExpired q =
    if waitMicros i.item ≠ 0 ∧ s.quiescing = false ∧ 2 ^ 31 ≤ (s.anchor (waitAnchor i.item) - waitValue i.item).toNat then
      s.setPhaseOf q i.item.num (.ended stWaitTimeout (s.anchor (waitAnchor i.item)).toNat) else s := by
  unfold State.waitExpired
  rw [h]
  simp only [reached_iff, Bool.not_eq_true, Nat.not_lt]

end

/-! ## Anchors (R95) -/

section
variable {s : State} {who : Requester} {a : Nat}

theorem State.anchor_anchorOp_self (s : State) (a : Nat) (set_ : Bool) (v : Word32) :
    (s.anchorOp a set_ v).anchor a = if set_ then v else s.anchor a + v := mget_mset_self _ _ _ _

theorem State.anchor_anchorOp_ne (s : State) {a b : Nat} (set_ : Bool) (v : Word32) (h : b ≠ a) : (s.anchorOp a set_ v).anchor b = s.anchor b :=
  mget_mset_ne _ _ _ h

theorem truncate_zeroExtend (v : Word32) : (v.zeroExtend 64).truncate 32 = v := by
  apply BitVec.eq_of_toNat_eq
  simp

theorem exec_anchorSet (ha : s.admitted who) (h : a < 4096) (v : Word32) :
    exec (.anchorSet who a v) s = .next ((s.setPort who {}).anchorOp a true v) := by
  obtain ⟨hl, hx, hp⟩ := ha
  show part (s.reqExists who && anchorOk a) (s.run (s.regWrite who (Reg.CQ_ANCHOR a) (.w32 v) {})) = _
  rw [part_true (by simp [hx, anchorOk, h]), State.run_live _ hl, State.regWrite_w32 who v {} (rowAt_anchor h)
    (s.noHostReg_out (.inl (by unfold Reg.CQ_ANCHOR; omega))) hp (by decide), effectAt_anchor, truncate_zeroExtend]
  rfl

theorem exec_anchorAdd (ha : s.admitted who) (h : a < 4096) (v : Word32) :
    exec (.anchorAdd who a v) s = .next ((s.setPort who {}).anchorOp a false v) := by
  obtain ⟨hl, hx, hp⟩ := ha
  show part (s.reqExists who && anchorOk a) (s.run (s.regWrite who (Reg.CQ_ANCHOR_ADD a) (.w32 v) {})) = _
  rw [part_true (by simp [hx, anchorOk, h]), State.run_live _ hl, State.regWrite_w32 who v {} (rowAt_anchorAdd h)
    (s.noHostReg_out (.inl (by unfold Reg.CQ_ANCHOR_ADD; omega))) hp (by decide), effectAt_anchorAdd, truncate_zeroExtend]
  rfl

/-- The oldest operation of an anchor is the first in the line that names it. -/
theorem State.anchorArrive_oldest {set_ : Bool} {v : Word32} {pre post_ : List (Nat × Bool × Word32)}
    (h : s.anchorOps = pre ++ (a, set_, v) :: post_) (hpre : ∀ x ∈ pre, x.1 ≠ a) :
    s.anchorArrive a = { s.anchorOp a set_ v with anchorOps := pre ++ post_ } := by
  have hfind : s.anchorOps.find? (fun x => x.1 == a) = some (a, set_, v) := by
    rw [h, List.find?_append, List.find?_eq_none.mpr (by simpa using hpre)]
    simp
  have herase : s.anchorOps.erase (a, set_, v) = pre ++ post_ := by
    rw [h, List.erase_append_right _ fun hmem => hpre _ hmem rfl, List.erase_cons_head]
  unfold State.anchorArrive
  rw [hfind]
  dsimp only
  rw [herase]

theorem State.anchorArrive_none (h : ∀ x ∈ s.anchorOps, x.1 ≠ a) : s.anchorArrive a = s := by
  unfold State.anchorArrive
  rw [List.find?_eq_none.mpr (by simpa using h)]

end

/-- Settles O23: the end of each waiting control record, and the operations on an anchor. -/
theorem controlRecordsEnd : Obligations.ControlRecordsEnd := by
  unfold Obligations.ControlRecordsEnd
  refine ⟨fun q i s hi hq => ⟨fun h => ?_, State.mayBegin_iff hi, fun h hlocal => ?_, fun h => ⟨?_, ?_⟩⟩,
    fun who a v s ha hanchor => ⟨?_, ?_, fun set_ pre post_ h hpre => ?_, fun h => ?_⟩⟩
  · refine ((part_true (decide_eq_true hq) _).trans (State.run_live _ hi.1)).trans ?_
    rw [State.belayEnd_parked h, State.keep_ite (s.keep_setPhaseOf _ _ _) s.keep_self]
  · refine ((part_true (decide_eq_true hq) _).trans (State.engine_issuing _ hi)).trans ?_
    rw [State.signalGo_local h hlocal, State.keep_ite (s.keep_signalled _ _) s.keep_self]
    rfl
  · refine ((part_true (decide_eq_true hq) _).trans (State.run_live _ hi.1)).trans ?_
    rw [State.waitSatisfied_parked h, State.keep_ite (s.keep_setPhaseOf _ _ _) s.keep_self]
  · refine ((part_true (decide_eq_true hq) _).trans (State.run_live _ hi.1)).trans ?_
    rw [State.waitExpired_parked h, State.keep_ite (s.keep_setPhaseOf _ _ _) s.keep_self]
  · exact ⟨_, exec_anchorSet ha hanchor v, State.anchor_anchorOp_self _ _ _ _, fun b hb => State.anchor_anchorOp_ne _ _ _ hb, rfl⟩
  · exact ⟨_, exec_anchorAdd ha hanchor v, State.anchor_anchorOp_self _ _ _ _, fun b hb => State.anchor_anchorOp_ne _ _ _ hb, rfl⟩
  · have hstep : exec (.anchorOp a) s = .next { s.anchorOp a set_ v with anchorOps := pre ++ post_ } := by
      refine ((part_true (decide_eq_true hanchor) _).trans (State.run_live _ ha.1)).trans ?_
      rw [State.anchorArrive_oldest h hpre]
      rfl
    exact ⟨_, hstep, State.anchor_anchorOp_self _ _ _ _, fun b hb => State.anchor_anchorOp_ne _ _ _ hb, rfl, rfl⟩
  · refine ((part_true (decide_eq_true hanchor) _).trans (State.run_live _ ha.1)).trans ?_
    rw [State.anchorArrive_none h, State.keep_self]

end Sys2Proof.Machine

namespace Sys2Proof.Machine

/-! ## The end of a record (R106, R109, R111) -/

section
variable {s : State} {q slot st d : Nat} {r : Fetched}

/-- What the end of a record does with its queue and its completion. -/
def State.recordEnded (q : Nat) (r : Fetched) (st d : Nat) (u : State) : State :=
  (u.modQueue q (fun x => { x with issued := dropIssued r.num x.issued })).finish ⟨q, r.core, r⟩ st d

theorem State.endRecord_ended (h : endedAt slot (s.queue q).issued = some ⟨r, .ended st d⟩) (env : Env) :
    s.endRecord q slot env = s.settle (.queue q) env (State.recordEnded q r st d) := by
  unfold State.endRecord
  rw [h]
  rfl

theorem exec_recordEnd (hl : s.live) (hq : q < 2048) (hslot : slot < 65536) (h : endedAt slot (s.queue q).issued = some ⟨r, .ended st d⟩) (env : Env) :
    exec (.recordEnd q slot env) s = .next (s.keep ((s.settle (.queue q) env (State.recordEnded q r st d)).cancelEnd q env)) := by
  show part (queueOk q && slotOk slot) (s.run ((s.endRecord q slot env).cancelEnd q env)) = _
  rw [part_true (by simp [queueOk, slotOk, hq, hslot]), State.run_live _ hl, State.endRecord_ended h]

/-- Both trace masks leave the core out. -/
theorem State.trace_off {c : Ctx} (h0 : bit (s.reg Reg.SIO_TRACE_EN0).toNat (c.core % 64) = false)
    (h1 : bit (s.reg Reg.SIO_TRACE_EN1).toNat (c.core % 64) = false) (st : Nat) : s.trace c st = s := by
  unfold State.trace
  rw [if_neg]
  split
  · rw [h0]; simp
  · rw [h1]; simp

theorem State.finish_silent {c : Ctx} (hc : c.item.cmpl = false) (d : Nat) : s.finish c stOk d = s.trace c stOk := by
  unfold State.finish
  dsimp only
  rw [if_pos rfl, if_pos ⟨rfl, by simp [hc]⟩]

theorem State.finish_completes {c : Ctx} (hc : c.item.cmpl = true) (d : Nat) : s.finish c stOk d =
    (s.complete c.q (completionBytes c.item.tag c.item.slot stOk d c.core c.item.op, c.item.irq) c.item.slot stOk).trace c stOk := by
  unfold State.finish
  dsimp only
  rw [if_pos rfl, if_neg (by simp [hc])]
  rfl

theorem State.finish_stops {c : Ctx} (h : st ≠ stOk) (d : Nat) : s.finish c st d =
    ((s.stopQueue c.q st c.item.slot).complete c.q (completionBytes c.item.tag c.item.slot st d c.core c.item.op, true) c.item.slot st).trace c st := by
  unfold State.finish
  dsimp only
  rw [if_neg h, if_neg (fun hc => h hc.1), decide_eq_true h, Bool.true_or]

theorem State.complete_full (h : (s.queue q).held = []) (hf : s.cqFull q = true) (e : List Byte × Bool) :
    s.complete q e slot st = ((s.setQueue q { s.queue q with held := [e] }).raise (Reg.CQ_EVENT q) 1 (Reg.CQ_EVENT_CNT0 q) 16).queueEvent 0x0202 q slot st := by
  unfold State.complete
  dsimp only
  rw [if_pos h, if_pos hf]

theorem State.complete_room (h : (s.queue q).held = []) (hf : s.cqFull q = false) (e : List Byte × Bool) :
    s.complete q e slot st = s.putCompletion q e := by
  unfold State.complete
  dsimp only
  rw [if_pos h, if_neg (by simp [hf])]

theorem State.complete_behind (h : (s.queue q).held ≠ []) (e : List Byte × Bool) :
    s.complete q e slot st = s.setQueue q { s.queue q with held := (s.queue q).held ++ [e] } := by
  unfold State.complete
  dsimp only
  rw [if_neg h]

theorem queueState_held {x : Queue} (h : x.mode = .on) (e : List Byte × Bool) : queueState { x with held := [e] } = 4 := by
  unfold queueState
  dsimp only
  rw [h]
  simp

/-- The queue that a status other than OK stops. -/
def Queue.stopped (x : Queue) (st : Nat) : Queue :=
  { x with
    mode := stopMode x.mode, head := if st = stQueueBind then x.head else (backTo x).1, gen := if st = stQueueBind then x.gen else (backTo x).2
    fetched := [], chain := none, rereads := 0, reads := 0
    code := if x.mode ≠ .stopped then st else x.code }

theorem State.stopQueue_eq (s : State) (q st slot : Nat) : s.stopQueue q st slot =
    if (s.queue q).mode ≠ .stopped then
      ((s.setQueue q ((s.queue q).stopped st)).raise (Reg.CQ_EVENT q) 0 (Reg.CQ_EVENT_CNT0 q) 0).queueEvent (if st = stStale then 0x0201 else 0x0200) q slot st
    else s.setQueue q ((s.queue q).stopped st) := by
  unfold State.stopQueue Queue.stopped
  dsimp only
  by_cases hbind : st = stQueueBind
  · simp only [hbind, if_true]
  · simp only [hbind, if_false]

theorem State.queue_stopQueue (s : State) (q st slot : Nat) : (s.stopQueue q st slot).queue q = (s.queue q).stopped st := by
  rw [State.stopQueue_eq]
  split
  · simp only [State.queueEvent, State.queue, State.post_queues, State.raise_queues]
    exact State.queue_setQueue_self _ _ _
  · exact State.queue_setQueue_self _ _ _

theorem State.stopQueue_flag (hq : q < 2048) (h : (s.queue q).mode ≠ .stopped) : (s.stopQueue q st slot).fld (Reg.CQ_EVENT q) 0 0 = 1 := by
  rw [State.stopQueue_eq, if_pos h, State.queueEvent, State.fld_post _ _ _ _ _ _ _ (by unfold Reg.CQ_EVENT; omega)]
  exact State.fld_raise_flag _ (by decide) (by unfold Reg.CQ_EVENT Reg.CQ_EVENT_CNT0; omega)

/-- With nothing to wait for, the end of a silent record is that its queue forgets it. -/
theorem State.recordEnded_silent (hc : r.cmpl = false) (h0 : bit (s.reg Reg.SIO_TRACE_EN0).toNat (r.core % 64) = false)
    (h1 : bit (s.reg Reg.SIO_TRACE_EN1).toNat (r.core % 64) = false) (d : Nat) :
    State.recordEnded q r stOk d s = s.setQueue q { s.queue q with issued := dropIssued r.num (s.queue q).issued } := by
  rw [State.recordEnded, State.finish_silent hc, State.trace_off]
  · rfl
  · exact h0
  · exact h1

/-- A computation that waits for nothing, in a state at rest. -/
theorem State.settle_rest {tok : Tok} {env : Env} {f : State → State} {t : State} (henv : s.env = {}) (htok : s.token = .idle) (hneeds : s.needs = [])
    (hans : ∀ x ∈ s.answers, x.1 ≠ tok) (hf : f { s with env := env, token := tok, needs := [] } = { t with env := env, token := tok, needs := [] })
    (ht : t.env = s.env ∧ t.token = s.token ∧ t.needs = s.needs ∧ t.answers = s.answers) : s.settle tok env f = t := by
  obtain ⟨henv', htok', hneeds', hans'⟩ := ht
  rw [State.settle_done (by rw [hf]), hf, State.closeTok]
  have hfilter : t.answers.filter (fun x => x.1 != tok) = t.answers := by
    rw [hans']
    exact List.filter_eq_self.mpr fun x hx => by simpa using hans x hx
  rw [henv] at henv'
  rw [htok] at htok'
  rw [hneeds] at hneeds'
  dsimp only
  rw [hfilter, ← henv', ← htok', ← hneeds']

end

/-! ## The completion ring and flush reads (R107, R108, R112, R113) -/

section
variable {s : State} {who : Requester} {q : Nat}

theorem noHostReg_cqHead (s : State) (hq : q < 2048) : s.noHostReg (Reg.CQ_CQ_HEAD q) = false :=
  s.noHostReg_out (.inl (by unfold Reg.CQ_CQ_HEAD; omega))

theorem State.regDo_cqHead (u : State) (hq : q < 2048) (v : Word32) (env : Env) :
    u.regDo who (Reg.CQ_CQ_HEAD q) (.w32 v) env = (u.setPort who {}).cqHead q (v.zeroExtend 64) := by
  rw [State.regDo_w32 who v env (rowAt_cqHead hq) (noHostReg_cqHead u hq), effectAt_cqHead]

theorem State.drained_cqHead (s t : State) (hq : q < 2048) :
    s.drained t (Reg.CQ_CQ_HEAD q) = true ↔ (s.queue q).held ≠ [] ∧ (t.queue q).held = [] := by
  obtain ⟨r, hr, hb, -⟩ := rowAt_cqHead hq
  unfold State.drained
  rw [hr]
  dsimp only
  have hindex : regIndex r.base 4096 (Reg.CQ_CQ_HEAD q) = q := by rw [hb, Reg.CQ_CQ_HEAD, regIndex_at (by decide)]
  rw [hindex, hb]
  simp [Reg.CQ_CQ_HEAD]

theorem exec_cqHeadWrite (ha : s.admitted who) (hq : q < 2048) (v : Word32) (env : Env) :
    exec (.cqHeadWrite who q v env) s = (
      let t := s.settle (.req (reqNum who)) env (fun u => u.regDo who (Reg.CQ_CQ_HEAD q) (.w32 v) env)
      .next (s.keep (if (s.queue q).held ≠ [] ∧ (t.queue q).held = [] then t.freed env else t))) := by
  obtain ⟨hl, hx, hp⟩ := ha
  show part (s.reqExists who && queueOk q) (s.run (s.regWrite who (Reg.CQ_CQ_HEAD q) (.w32 v) env)) = _
  rw [part_true (by simp [hx, queueOk, hq]), State.run_live _ hl, State.regWrite_cqHead who _ env (rowAt_cqHead hq) hp]
  dsimp only
  generalize s.settle (.req (reqNum who)) env _ = t
  simp only [State.drained_cqHead s t hq]

theorem State.cqHead_eq (s : State) (q : Nat) (v : Word) : s.cqHead q v =
    if (s.queue q).held = [] then s.writePlain (Reg.CQ_CQ_HEAD q) v
    else State.drainHeld q (s.queue q).held (s.writePlain (Reg.CQ_CQ_HEAD q) v) := by
  have hqueue : (s.writePlain (Reg.CQ_CQ_HEAD q) v).queue q = s.queue q := by rw [State.writePlain_frame]; rfl
  unfold State.cqHead
  dsimp only
  rw [hqueue]

/-- HEAD is written as it stands. -/
theorem State.fld_writePlain_cqHead (s : State) (hq : q < 2048) (v : Word) :
    (s.writePlain (Reg.CQ_CQ_HEAD q) v).fld (Reg.CQ_CQ_HEAD q) 15 0 = fget v 15 0 := by
  obtain ⟨r, hr, hb, -⟩ := rowAt_cqHead hq
  have hslot : Reg.CQ_CQ_HEAD q / 0x1000000 = 2 := by unfold Reg.CQ_CQ_HEAD; omega
  have hmem : r ∈ slotTable 2 := hslot ▸ (findReg_mem hr).2
  have hrow : (slotTable 2).all (fun r => r.base != 0x2000030 || r.fields == [⟨"HEAD", 15, 0, .rw, 0⟩]) = true := by decide
  have hfields : r.fields = [⟨"HEAD", 15, 0, .rw, 0⟩] := by
    have := List.all_eq_true.mp hrow r hmem
    simpa [hb] using this
  rw [State.fld, State.reg_writePlain_self _ hr]
  refine fget_writeFields (findReg_sound hr) (fun j hj _ => ⟨⟨"HEAD", 15, 0, .rw, 0⟩, by rw [hfields]; exact List.mem_cons_self, rfl, ?_, ?_⟩) _ _
  · exact Nat.zero_le j
  · exact Nat.lt_succ_iff.mp hj

theorem exec_flushRead (ha : s.admitted who) (hq : q < 2048) : exec (.flushRead who q) s = .next (s.flushRead who q) := by
  obtain ⟨hl, hx, hp⟩ := ha
  show part (s.reqExists who && queueOk q) (s.run (s.portRun (s.flushRead who q) who (.flush who q))) = _
  rw [part_true (by simp [hx, queueOk, hq]), State.portRun_open hp, State.run_live _ hl]
  rfl

theorem exec_flushLineRead {h hpa o p : Nat} (hl : s.live) (hh : s.hostExists h = true) (hp : s.portHeld (.host h) = false)
    (ho : s.hdmAddr h hpa = some o) (hf : s.flushQueue (o / 64 * 64) = some p) (env : Env) :
    exec (.flushLineRead h hpa env) s = .next (s.emit (.hostRead h (o / 64 * 64) (s.flushLine p) [])) := by
  show part (s.hostExists h) (s.run (s.portRun (s.hostRead h hpa env) (.host h) (.memRead h hpa env))) = _
  have hread : s.hostRead h hpa env = s.emit (.hostRead h (o / 64 * 64) (s.flushLine p) []) := by
    unfold State.hostRead
    rw [ho]
    dsimp only
    rw [hf]
  rw [part_true hh, State.portRun_open hp, State.run_live _ hl, hread]
  rfl

end

/-- A write of HEAD that finds nothing held stores it, and changes nothing else of the device. -/
theorem exec_cqHeadWrite_plain (ha : s.admitted who) (hq : q < 2048) (v : Word32) (env : Env) (hheld : (s.queue q).held = [])
    (henv : s.env = {}) (htok : s.token = .idle) (hneeds : s.needs = []) (hans : ∀ x ∈ s.answers, x.1 ≠ .req (reqNum who)) :
    exec (.cqHeadWrite who q v env) s = .next ((s.setPort who {}).writePlain (Reg.CQ_CQ_HEAD q) (v.zeroExtend 64)) := by
  have hframe (u : State) := u.writePlain_frame (Reg.CQ_CQ_HEAD q) (v.zeroExtend 64)
  have hrun : s.settle (.req (reqNum who)) env (fun u => u.regDo who (Reg.CQ_CQ_HEAD q) (.w32 v) env) =
      (s.setPort who {}).writePlain (Reg.CQ_CQ_HEAD q) (v.zeroExtend 64) := by
    refine State.settle_rest henv htok hneeds hans ?_ (by rw [hframe]; exact ⟨rfl, rfl, rfl, rfl⟩)
    rw [State.regDo_cqHead _ hq, State.cqHead_eq]
    refine (if_pos hheld).trans ?_
    unfold State.writePlain
    split <;> rfl
  rw [exec_cqHeadWrite ha hq v env, hrun]
  dsimp only
  rw [if_neg (fun hc => hc.1 hheld), State.keep_of_eq (by rw [hframe]; rfl) (by rw [hframe]; rfl)]

theorem fget_zeroExtend (v : Word32) : fget (v.zeroExtend 64) 15 0 = v.toNat % 2 ^ 16 := by
  have hv := v.isLt
  simp only [fget, bits, BitVec.truncate_eq_setWidth, BitVec.toNat_setWidth]
  omega

/-- Settles O24: a record's end stops its queue or not, and its completion goes to the ring, or waits for room. -/
theorem recordsComplete : Obligations.RecordsComplete := by
  unfold Obligations.RecordsComplete
  refine ⟨fun q slot r st d env s hl hq hslot hend => ?record, fun who q v env s ha hq => ?ring⟩
  case record =>
    have hexec := exec_recordEnd hl hq hslot hend env
    refine ⟨⟨_, hexec, fun u => rfl⟩, fun hst hc h0 h1 henv htok hneeds hans hcancels => ?_, fun e u hu hh hf => ⟨?_, fun hm => queueState_held hm e⟩,
      fun e u => ⟨fun hh hf => State.complete_room hh hf e, fun hh => State.complete_behind hh e⟩,
      fun u c => ⟨fun hst hc => ?_, fun hst hc => ?_, fun hst => State.finish_stops hst d⟩, fun u hm hbind => ?_, fun u hm => ?_⟩
    · subst hst
      have hsettle : s.settle (.queue q) env (State.recordEnded q r stOk d) =
          s.setQueue q { s.queue q with issued := dropIssued r.num (s.queue q).issued } := by
        refine State.settle_rest henv htok hneeds hans ?_ ⟨rfl, rfl, rfl, rfl⟩
        exact State.recordEnded_silent (s := { s with env := env, token := .queue q, needs := [] }) hc h0 h1 d
      rw [hexec, hsettle, State.cancelEnd_not env (.inl (by rw [State.queue_setQueue_self]; exact hcancels))]
      rfl
    · rw [State.complete_full (by rw [hu]; exact hh) hf, hu]
    · rw [hst, State.finish_silent hc]
    · rw [hst, State.finish_completes hc]
    · rw [State.queue_stopQueue]
      refine ⟨rfl, if_pos hm, if_neg hbind, rfl, rfl, State.stopQueue_flag hq hm⟩
    · rw [State.queue_stopQueue, State.stopQueue_eq, if_neg (by simp [hm])]
      exact ⟨if_neg (by simp [hm]), rfl, rfl⟩
  case ring =>
    have hexec := exec_cqHeadWrite ha hq v env
    refine ⟨fun hh henv htok hneeds hans => ?_, ⟨_, hexec, fun u => ⟨State.regDo_cqHead u hq v env, fun hh => ?_⟩⟩, fun u e r => ?_, ?_,
      fun h hpa o p hhost hheld ho hf => exec_flushLineRead ha.1 hhost hheld ho hf env⟩
    · exact ⟨_, exec_cqHeadWrite_plain ha hq v env hh henv htok hneeds hans, (State.fld_writePlain_cqHead _ hq _).trans (fget_zeroExtend v),
        fun o ho => State.reg_writePlain_ne _ _ ho, State.writePlain_frame _ _ _⟩
    · rw [State.cqHead_eq, if_neg (show ((u.setPort who {}).queue q).held ≠ [] from hh)]
      rfl
    · rw [State.drainHeld]
    · exact ⟨_, exec_flushRead ha hq, rfl, rfl⟩

end Sys2Proof.Machine

namespace Sys2Proof.Machine

/-! ## ACTX and VSET (R191, R214) -/

theorem numbered_snoc {α : Type} (l : List α) (x : α) : numbered (l ++ [x]) = numbered l ++ [(l.length, x)] := by
  unfold numbered
  rw [List.length_append, List.length_singleton, List.range_succ, List.zip_append (by simp)]
  rfl

/-- The table into which a list has been put from `reg` up. -/
theorem mget_putNumbered {α : Type} [DecidableEq α] (d : α) (m : SMap α) (reg : Nat) (l : List α) (k : Nat) :
    mget d ((numbered l).foldl (fun m e => mset d m (reg + e.1) e.2) m) k =
      if reg ≤ k ∧ k < reg + l.length then l.getD (k - reg) d else mget d m k := by
  induction l using List.reverseRecOn with
  | nil => rw [if_neg (by simp)]; rfl
  | append_singleton l x ih =>
    rw [numbered_snoc, List.foldl_append, List.foldl_cons, List.foldl_nil, mget_mset, ih, List.length_append, List.length_singleton]
    simp only [List.getD_eq_getElem?_getD, List.getElem?_append, List.getElem?_singleton]
    grind

/-- A parameter register of a core's vector engine. -/
def State.param (s : State) (n k : Nat) : List Nat := mget zeroLanes (s.vec n).params k

theorem State.param_putParams (s : State) (n reg : Nat) (vals : List (List Nat)) (k : Nat) :
    (s.putParams n reg vals).param n k = if reg ≤ k ∧ k < reg + vals.length then vals.getD (k - reg) zeroLanes else s.param n k := by
  refine Eq.trans ?_ (mget_putNumbered zeroLanes (s.vec n).params reg vals k)
  simp only [State.param, State.putParams, State.setVec, State.vec, mget_mset_self]

/-- What the checks of a VSET with inline data have found of its length and its registers. -/
theorem vsetFail_inline {c : Ctx} {s : State} (h : vsetFail c s = none) (hm : (vsetFields c.item).mode = 2) :
    c.item.inlineData.length % 4 = 0 ∧ c.item.inlineData.length ≤ 512 := by
  unfold vsetFail at h
  dsimp only at h
  split at h
  · cases h
  split at h
  · cases h
  next hshape =>
    have := (firstFail_eq_none.mp hshape) _ List.mem_cons_self
    simp only [hm, bne_self_eq_false, Bool.false_or, Bool.and_eq_true, beq_iff_eq, decide_eq_true_eq] at this
    exact ⟨this.1.2, this.2⟩

theorem unpack_words (k : Nat) (b : List Byte) : unpack 2 k b = (List.range k).map (fun i => leAt b (4 * i) 4) := rfl

theorem vsetWork_scalar {c : Ctx} {s : State} (hm : (vsetFields c.item).mode = 0) :
    vsetWork c s = endOk (s.putParams c.core (vsetFields c.item).reg
      (List.replicate (vsetFields c.item).count (List.replicate 128 (vsetFields c.item).scalar))) := by
  unfold vsetWork
  dsimp only
  rw [if_pos hm]

/-- The lanes that a VSET with inline data writes. -/
def inlineLanes (b : List Byte) : List Nat := unpack 2 (b.length / 4) b ++ List.replicate (128 - (unpack 2 (b.length / 4) b).length) 0

theorem vsetWork_inline {c : Ctx} {s : State} (hm : (vsetFields c.item).mode = 2) :
    vsetWork c s = endOk (s.putParams c.core (vsetFields c.item).reg [inlineLanes c.item.inlineData]) := by
  unfold vsetWork
  dsimp only
  rw [if_neg (by rw [hm]; decide), if_pos hm]
  rfl

theorem inlineLanes_written {b : List Byte} {j : Nat} (h : 4 * j + 4 ≤ b.length) : (inlineLanes b).getD j 0 = leAt b (4 * j) 4 := by
  have hj : j < b.length / 4 := by omega
  rw [inlineLanes, unpack_words, List.getD_eq_getElem?_getD, List.getElem?_append_left (by simpa using hj)]
  simp [hj]

theorem inlineLanes_rest {b : List Byte} {j : Nat} (h : b.length ≤ 4 * j) : (inlineLanes b).getD j 0 = 0 := by
  rw [inlineLanes, unpack_words, List.getD_eq_getElem?_getD, List.getElem?_append_right (by simp; omega), List.getElem?_replicate]
  split <;> rfl

theorem length_inlineLanes {b : List Byte} (h : b.length ≤ 512) : (inlineLanes b).length = 128 := by
  simp only [inlineLanes, unpack_words, List.length_append, List.length_map, List.length_range, List.length_replicate]
  omega

theorem State.attContext_actx (c : Ctx) (s : State) : (actxWork c s).1.attContext c.core = some (actxOf c.item) :=
  mget_mset_self (none : Option AttCtx) s.attCtx c.core (some (actxOf c.item))

theorem State.attContext_actx_ne (c : Ctx) (s : State) {n : Nat} (h : n ≠ c.core) : (actxWork c s).1.attContext n = s.attContext n :=
  mget_mset_ne (none : Option AttCtx) s.attCtx (some (actxOf c.item)) h

/-- Settles O29: a table write at one core's context, and at the parameter registers from `reg` up. -/
theorem contextAndParameterWrites : Obligations.ContextAndParameterWrites := by
  unfold Obligations.ContextAndParameterWrites
  refine ⟨fun c s => ⟨State.attContext_actx c s, fun n hn => State.attContext_actx_ne c s hn, rfl⟩, fun c s hfail => ?_⟩
  refine ⟨fun hm => ?scalar, fun hm => ?inline⟩
  case scalar =>
    have hparam (k : Nat) := s.param_putParams c.core (vsetFields c.item).reg
      (List.replicate (vsetFields c.item).count (List.replicate 128 (vsetFields c.item).scalar)) k
    rw [vsetWork_scalar hm]
    refine ⟨fun k hlo hhi => (hparam k).trans ?_, fun k hk => (hparam k).trans (if_neg ?_), rfl⟩
    · have hk : k - (vsetFields c.item).reg < (vsetFields c.item).count := Nat.sub_lt_left_of_lt_add hlo hhi
      rw [if_pos ⟨hlo, by rwa [List.length_replicate]⟩, List.getD_replicate _ hk]
      rfl
    · rw [List.length_replicate]
      show ¬ (c.item.f 8 1 ≤ k ∧ k < c.item.f 8 1 + c.item.f 9 1)
      omega
  case inline =>
    have hparam (k : Nat) := s.param_putParams c.core (vsetFields c.item).reg [inlineLanes c.item.inlineData] k
    have hself := (hparam (vsetFields c.item).reg).trans (if_pos ⟨Nat.le_refl _, Nat.lt_succ_self _⟩)
    rw [Nat.sub_self] at hself
    have hlen := (vsetFail_inline hfail hm).2
    rw [vsetWork_inline hm]
    refine ⟨fun j hj => (congrArg (·.getD j 0) hself).trans (inlineLanes_written hj),
      fun j hj => (congrArg (·.getD j 0) hself).trans (inlineLanes_rest hj),
      (congrArg List.length hself).trans (length_inlineLanes hlen), fun k hk => (hparam k).trans (if_neg ?_), rfl⟩
    show ¬ (c.item.f 8 1 ≤ k ∧ k < c.item.f 8 1 + 1)
    omega

end Sys2Proof.Machine

namespace Sys2Proof.Machine

/-! ## The matrix path (R125 to R128, R134, R155, R202) -/

section
variable {s : State} {n half loadWait tileWait : Nat} {o : MxOp}

theorem exec_loadComplete (hl : s.live) (hn : n < 128) (hhalf : half < 2) :
    exec (.loadComplete n half) s = .next (s.keep (s.loadComplete n half)) :=
  (part_true (by simp [coreOk, halfOk, hn, hhalf]) _).trans (State.run_live _ hl)

theorem exec_mmaFirstRowEntry (hi : s.issuing) (hn : n < 128) (hhalf : half < 2) (env : Env) :
    exec (.mmaFirstRowEntry n half loadWait tileWait env) s = .next (s.keep (s.mmaEntry n half loadWait tileWait env)) :=
  (part_true (by simp [coreOk, halfOk, hn, hhalf]) _).trans (State.engine_issuing _ hi)

/-- The unit and the core whose waiting records an event releases. -/
def releaseOf (kind : MxKind) (n : Nat) (event : Instr) (env : Env) : Prop :=
  ∀ s : State, s.issuing → exec event s = .next (s.keep (s.pathOn [kind] n env))

theorem releaseOf_interlock (hn : n < 128) (env : Env) : releaseOf .acc n (.interlockRelease n env) env := fun _ hi =>
  (part_true (by simp [coreOk, hn]) _).trans (State.engine_issuing _ hi)

theorem releaseOf_slotHold (hn : n < 128) (env : Env) : releaseOf .vec n (.slotHoldEnd n env) env := fun _ hi =>
  (part_true (by simp [coreOk, hn]) _).trans (State.engine_issuing _ hi)

/-- What a release does with one operation of the path. -/
def State.release (kinds : List MxKind) (env : Env) (s : State) (o : MxOp) : State :=
  if kinds.contains o.kind then
    match s.issuedAt o.q o.num with
    | some ⟨r, .parked why⟩ => if (Phase.parked why).waits then State.rerunOne o.q why env s ⟨r, .parked why⟩ else s
    | _ => s
  else s

theorem State.pathOn_eq (s : State) (kinds : List MxKind) (n : Nat) (env : Env) :
    s.pathOn kinds n env = (s.mat n).ops.foldl (State.release kinds env) s := rfl

theorem State.release_other {kind : MxKind} (h : o.kind ≠ kind) (env : Env) : State.release [kind] env s o = s := by
  unfold State.release
  rw [if_neg (by simpa using h)]

theorem State.release_begun {kind : MxKind} (h : s.opWaits o = false) (env : Env) : State.release [kind] env s o = s := by
  unfold State.release
  split
  · split
    next r why hat =>
      have hwaits : (Phase.parked why).waits = false := by simpa [State.opWaits, hat, notBegun] using h
      rw [if_neg (by simp [hwaits])]
    · rfl
  · rfl

theorem State.release_waiting {kind : MxKind} {i : Issued} {why : Park} (h : o.kind = kind) (hat : s.issuedAt o.q o.num = some i)
    (hphase : i.phase = .parked why) (hw : notBegun i = true) (env : Env) :
    State.release [kind] env s o = State.rerunOne o.q why env s i := by
  obtain ⟨r, ph⟩ := i
  cases hphase
  unfold State.release
  rw [if_pos (by simp [h]), hat]
  exact if_pos hw

theorem State.release_keeps {kind : MxKind} {env : Env} : ∀ {l : List MxOp},
    (∀ o ∈ l, State.release [kind] env s o = s) → l.foldl (State.release [kind] env) s = s
  | [], _ => rfl
  | o :: l, h => by
    rw [List.foldl_cons, h o List.mem_cons_self]
    exact State.release_keeps fun x hx => h x (List.mem_cons_of_mem _ hx)

theorem State.releases_others {kind : MxKind} {env : Env} (s : State) {l : List MxOp} (h : ∀ o ∈ l, o.kind ≠ kind) :
    l.foldl (State.release [kind] env) s = s := State.release_keeps fun o ho => State.release_other (h o ho) env

theorem State.loadComplete_none (h : (s.mat n).ops.find? (fun o => o.kind == .load && o.half == half) = none) : s.loadComplete n half = s := by
  unfold State.loadComplete
  dsimp only
  rw [h]

theorem State.loadComplete_some (h : (s.mat n).ops.find? (fun o => o.kind == .load && o.half == half) = some o) :
    s.loadComplete n half =
      if loadReady (opsBefore o.q o.num (s.mat n).ops) o ((s.mat n).half half) then
        let t := s.setMat n { (s.mat n).setHalf half (((s.mat n).half half).take o) with ops := dropOp o.q o.num (s.mat n).ops }
        match o.err with
        | some (st, a) => (t.meFlag n 3).setPhaseOf o.q o.num (.ended st (a % 2 ^ 32))
        | none => t.setPhaseOf o.q o.num (.ended stOk 0)
      else s := by
  unfold State.loadComplete
  dsimp only
  rw [h] <;> rfl

theorem State.mmaEntry_some {i : Issued} (h : (s.mat n).ops.find? (fun o => o.kind == .mma && o.half == half) = some o)
    (hat : s.issuedAt o.q o.num = some i) (env : Env) : s.mmaEntry n half loadWait tileWait env =
      if mmaReady (opsBefore o.q o.num (s.mat n).ops) o ((s.mat n).half half) ∧ ¬ s.tripped then
        s.settle (.record o.q o.num) env (fun s => s.mmaGo n o i.item loadWait tileWait)
      else s := by
  unfold State.mmaEntry
  dsimp only
  rw [h]
  dsimp only
  rw [hat]

theorem endPlace_mats {c : Ctx} (status : Nat) (x : Nat × Bool) : (endPlace c s status x).1.mats = s.mats := by
  unfold endPlace
  split
  · simp [endRange, done, State.rangeErr]
  · rfl

theorem mmaSetFail_mats {c : Ctx} {x : MmaRec} {b : Bank} {y : State × Phase} (h : mmaSetFail c s x b = some y) : y.1.mats = s.mats := by
  unfold mmaSetFail at h
  dsimp only at h
  split at h
  · cases h; rfl
  split at h
  · cases h; rfl
  split at h
  · obtain ⟨z, -, rfl⟩ := Option.map_eq_some_iff.mp h
    exact endPlace_mats _ _
  · cases h

end

/-- Settles O30: the oldest operation of a half completes or enters, and a release runs the one record of its unit that waits. -/
theorem matrixPath : Obligations.MatrixPath := by
  unfold Obligations.MatrixPath
  refine ⟨fun n half loadWait tileWait env s hi hn hhalf => ⟨fun o ho hready => ?load, fun o ho hready => ?loadWaits, fun ho => ?loadNone,
    fun o i ho hat => ⟨fun hready => ?entry, fun hready => ?entryWaits⟩, fun kind event hmem => ?release⟩,
    fun n o r loadWait tileWait s => ⟨fun hv => ?noSet, fun x hv hx => ⟨?badSet, mmaSetFail_mats hx⟩, fun hv hx ht => ?otherType⟩⟩
  case load =>
    rw [exec_loadComplete hi.1 hn hhalf, State.loadComplete_some ho, if_pos hready]
    dsimp only
    refine ⟨fun herr => ?_, fun st a herr => ?_⟩
    · rw [herr]
      refine congrArg _ (State.keep_of_eq ?_ ?_)
      · rw [State.setPhaseOf_pending]; rfl
      · rw [State.setPhaseOf_fuses]; rfl
    · rw [herr]
      refine congrArg _ (State.keep_of_eq ?_ ?_)
      · rw [State.setPhaseOf_pending, State.meFlag, State.raise_pending]; rfl
      · rw [State.setPhaseOf_fuses, State.meFlag, State.raise_fuses]; rfl
  case loadWaits =>
    rw [exec_loadComplete hi.1 hn hhalf, State.loadComplete_some ho, if_neg (by simp [hready]), State.keep_self]
  case loadNone => rw [exec_loadComplete hi.1 hn hhalf, State.loadComplete_none ho, State.keep_self]
  case entry =>
    rw [exec_mmaFirstRowEntry hi hn hhalf, State.mmaEntry_some ho hat, if_pos ⟨hready, by simp [State.tripped, hi.2]⟩]
  case entryWaits =>
    rw [exec_mmaFirstRowEntry hi hn hhalf, State.mmaEntry_some ho hat, if_neg (by simp [hready]), State.keep_self]
  case release =>
    have hrel : releaseOf kind n event env := by
      simp only [List.mem_cons, List.not_mem_nil, or_false, Prod.mk.injEq] at hmem
      obtain ⟨rfl, rfl⟩ | ⟨rfl, rfl⟩ := hmem
      · exact releaseOf_interlock hn env
      · exact releaseOf_slotHold hn env
    refine ⟨fun hnone => ?_, fun pre o post i hops hother hk hat why hphase hw => ?_⟩
    · rw [hrel s hi, State.pathOn_eq, State.release_keeps, State.keep_self]
      intro o ho
      by_cases hk : o.kind = kind
      · exact State.release_begun (hnone o ho hk) env
      · exact State.release_other hk env
    · rw [hrel s hi, State.pathOn_eq, hops, List.foldl_append, List.foldl_cons,
        State.releases_others s (fun x hx => hother x (List.mem_append_left _ hx)), State.release_waiting hk hat hphase hw,
        State.releases_others _ (fun x hx => hother x (List.mem_append_right _ hx))]
  case noSet =>
    unfold State.mmaGo
    dsimp only
    rw [hv]
    rfl
  case badSet =>
    unfold State.mmaGo
    dsimp only
    rw [hv]
    simp only [Bool.not_true, Bool.false_eq_true, if_false]
    rw [show mmaSetFail _ (State.mmaWaited _ _ _ _) _ _ = some x from hx]
  case otherType =>
    unfold State.mmaGo
    dsimp only
    rw [hv]
    simp only [Bool.not_true, Bool.false_eq_true, if_false]
    rw [show mmaSetFail _ (State.mmaWaited _ _ _ _) _ _ = none from hx]
    dsimp only
    rw [if_pos (by simp [Bank.admits, ht])]
    rfl

end Sys2Proof.Machine

namespace Sys2Proof.Machine

/-! ## KV records issue (R213, R233, R234, R236, R240, R509) -/

theorem unitFree_true {kind : MxKind} {before : List MxOp} : unitFree kind before = true ↔ ∀ o ∈ before, o.kind ≠ kind := by
  simp [unitFree]

theorem unitFree_false {kind : MxKind} {before : List MxOp} : unitFree kind before = false ↔ ∃ o ∈ before, o.kind = kind := by
  simp [unitFree]

/-- A record whose unit is free once no earlier record of it is unfinished. -/
theorem kvIssues_of_atUnit {s : State} {q : Nat} {r : Fetched} {env : Env} {i : Instr} {kind : MxKind}
    {fail : Ctx → State → Option (State × Phase)} {work : Ctx → State → State × Phase}
    (h : s.issuesAtUnit q r env i kind (unitFree kind) .turn fail work) :
    let c := s.ctx q r
    let u := s.starting q r env
    let issues (w : State × Phase) : Prop := exec i s = .next (s.keep (s.issued q r w))
    let before := opsBefore q r.num (s.mat c.core).ops
    let onPath (w : State × Phase) : State × Phase := (if w.2.isEnded then w.1 else w.1.hold c, w.2)
    (before.any (fun o => o.kind == kind && s.opWaits o) = true → issues (u.hold c, .parked .turn)) ∧
      (before.any (fun o => o.kind == kind && s.opWaits o) = false →
        (fail c u = none → (∀ o ∈ before, o.kind ≠ kind) → issues (onPath (work c u))) ∧
        (fail c u = none → (∃ o ∈ before, o.kind = kind) → issues (u.hold c, .parked .turn)) ∧
        ∀ x, fail c u = some x → x.2.isFormat = true ∨ (∀ o ∈ before, o.kind ≠ kind) → issues x) := by
  obtain ⟨hwait, hgo⟩ := h
  refine ⟨hwait, fun hturn => ?_⟩
  obtain ⟨hwork, hbusy, hfail⟩ := hgo hturn
  exact ⟨fun hnone hfree => hwork hnone (unitFree_true.mpr hfree), fun hnone hused => hbusy hnone (unitFree_false.mpr hused),
    fun x hx hgo => (hfail x hx).1 (hgo.symm.imp_left unitFree_true.mpr)⟩

/-! ## The life of a pool (R229, R235) -/

section
variable {s : State} {who : Requester} {r : Nat}

theorem exec_kvAction (ha : s.admitted who) (hr : r < 16) (i : Nat) :
    part (s.reqExists who && ropeOk r) (s.run (s.actBit who (Reg.ATT_KV_CTRL r) i {})) =
      .next (s.keep ((s.setPort who {}).kvCtrl r ((BitVec.ofNat 32 (2 ^ i)).zeroExtend 64))) := by
  obtain ⟨hl, hx, hp⟩ := ha
  have hout : s.noHostReg (Reg.ATT_KV_CTRL r) = false := s.noHostReg_out (.inl (by unfold Reg.ATT_KV_CTRL; omega))
  rw [part_true (by simp [hx, ropeOk, hr]), State.run_live _ hl, State.actBit_at who i {} (rowAt_kvCtrl hr) hout hp (by decide), effectAt_kvCtrl]

theorem State.kvCtrl_init (s : State) (r : Nat) : s.kvCtrl r ((BitVec.ofNat 32 (2 ^ 0)).zeroExtend 64) = s.kvInit r := by
  rw [State.kvCtrl, if_neg (by decide), if_neg (by decide), if_pos (by decide)]

theorem State.kvCtrl_disable (s : State) (r : Nat) : s.kvCtrl r ((BitVec.ofNat 32 (2 ^ 1)).zeroExtend 64) = s.kvDisable r := by
  rw [State.kvCtrl, if_neg (by decide), if_neg (by decide), if_neg (by decide)]

theorem exec_kvInit (ha : s.admitted who) (hr : r < 16) : exec (.kvInit who r) s = .next (s.keep ((s.setPort who {}).kvInit r)) := by
  rw [← State.kvCtrl_init]
  exact exec_kvAction ha hr 0

theorem exec_kvDisable (ha : s.admitted who) (hr : r < 16) : exec (.kvDisable who r) s = .next (s.keep ((s.setPort who {}).kvDisable r)) := by
  rw [← State.kvCtrl_disable]
  exact exec_kvAction ha hr 1

theorem exec_initDone (hl : s.live) (hr : r < 16) (env : Env) : exec (.initDone r env) s = .next (s.keep (s.kvInitDone r env)) :=
  (part_true (decide_eq_true hr) _).trans (State.run_live _ hl)

theorem exec_disableDone (hl : s.live) (hr : r < 16) : exec (.disableDone r) s = .next (s.keep (s.kvDisableDone r)) :=
  (part_true (decide_eq_true hr) _).trans (State.run_live _ hl)

theorem exec_invDone (hl : s.live) (hr : r < 16) : exec (.invDone r) s = .next (s.setFld (Reg.ATT_KV_STATUS r) 3 3 0) :=
  (part_true (decide_eq_true hr) _).trans (State.next_of_keep (by simp) (by simp) (State.run_live _ hl))

theorem exec_labInv (ha : s.admitted who) (hr : r < 16) (v : Word) :
    exec (.labInv who r (.w64 v)) s = .next (s.keep ((s.setPort who {}).labInv r v)) := by
  obtain ⟨hl, hx, hp⟩ := ha
  have hout : s.noHostReg (Reg.ATT_LAB_INV r) = false := s.noHostReg_out (.inl (by unfold Reg.ATT_LAB_INV; omega))
  show part (s.reqExists who && ropeOk r) (s.run (s.regWrite who (Reg.ATT_LAB_INV r) (.w64 v) {})) = _
  rw [part_true (by simp [hx, ropeOk, hr]), State.run_live _ hl, State.regWrite_w64 who v {} (rowAt_labInv hr) hout hp (by decide), effectAt_labInv]

/-- The pool whose INIT has ended, all its frames free. -/
def State.kvInitEnded (r : Nat) (s : State) : State :=
  let t := (s.writeMem (s.keeperSrc r) (s.frameRec r 0) (List.replicate (32 * s.kvFrames r) 0)).1
  (t.setKvPool r { t.kvPool r with init := false, free := List.range (s.kvFrames r) }).setFld (Reg.ATT_KV_STATUS r) 1 1 1

theorem State.kvInitDone_eq (s : State) (r : Nat) (env : Env) :
    s.kvInitDone r env = if (s.kvPool r).init then s.settle (.kv r) env (State.kvInitEnded r) else s := rfl

theorem State.kvInitEnded_ready (s : State) (r : Nat) : (s.kvInitEnded r).kvReady r = true := by
  rw [State.kvReady, State.kvInitEnded, State.fld_setFld_self _ _ _ (by decide) (by decide)]
  rfl

theorem State.kvInitEnded_pool (s : State) (r : Nat) : ((s.kvInitEnded r).kvPool r).free = List.range (s.kvFrames r) ∧
    ((s.kvInitEnded r).kvPool r).init = false := by
  unfold State.kvInitEnded
  dsimp only
  rw [State.kvPool, State.setFld_kvPools, ← State.kvPool, State.kvPool_setKvPool_self]
  exact ⟨rfl, rfl⟩

/-- The pool whose DISABLE has taken effect. -/
def State.kvDisabled (s : State) (r : Nat) : State :=
  (s.setKvPool r { s.kvPool r with disable := false }).setFld (Reg.ATT_KV_STATUS r) 1 1 0

theorem State.kvDisableDone_eq (s : State) (r : Nat) :
    s.kvDisableDone r = if (s.kvPool r).disable ∧ ¬ s.kvInFlight r then s.kvDisabled r else s := rfl

theorem State.kvPool_kvDisabled (s : State) (r p : Nat) :
    (s.kvDisabled r).kvPool p = if p = r then { s.kvPool r with disable := false } else s.kvPool p := by
  rw [State.kvPool, State.kvDisabled, State.setFld_kvPools]
  exact mget_mset ({} : KvPool) s.kvPools r p _

theorem risingFrom_le {α : Type} {b : Nat} : ∀ {m : SMap α}, risingFrom b m = true → ∀ e ∈ m, b ≤ e.1
  | (j, x) :: m, h, e, he => by
    obtain ⟨hb, hr⟩ : b ≤ j ∧ risingFrom (j + 1) m = true := by simpa [risingFrom] using h
    obtain rfl | he := List.mem_cons.mp he
    · exact hb
    · exact (Nat.le_succ_of_le hb).trans (risingFrom_le hr e he)

/-- An entry of a map from which a rule drops what it turns to the default. -/
theorem mget_filterMap {α : Type} [DecidableEq α] {d : α} (f : Nat → α → α) (hd : ∀ k, f k d = d) {b : Nat} :
    ∀ {m : SMap α}, risingFrom b m = true → ∀ k,
      mget d (m.filterMap (fun e => if f e.1 e.2 = d then none else some (e.1, f e.1 e.2))) k = f k (mget d m k)
  | [], _, k => (hd k).symm
  | (j, x) :: m, h, k => by
    obtain ⟨hb, hr⟩ : b ≤ j ∧ risingFrom (j + 1) m = true := by simpa [risingFrom] using h
    have ih := mget_filterMap f hd hr k
    have hlt : ∀ e ∈ m, j + 1 ≤ e.1 := risingFrom_le hr
    rw [List.filterMap_cons]
    by_cases hk : j = k
    · subst hk
      have hnone : mget d m j = d := mget_of_no_key d m fun e he => by have := hlt e he; omega
      by_cases hx : f j x = d
      · simp only [hx, if_true, mget, ih, hnone, hd]
      · simp only [hx, if_false, mget, if_true]
    · by_cases hx : f j x = d
      · simp only [hx, if_true, mget, hk, if_false, ih]
      · simp only [hx, if_false, mget, hk, ih]

/-- What a drop of entries does to one walker of the machine. -/
def State.walkerDrop (s : State) (r : Nat) (p : PageDesc → Bool) (n : Nat) (w : Walker) : Walker :=
  if s.ropeOf n == r && none != some n then w.drop p else w

theorem State.walker_labDrop (s : State) (r : Nat) (p : PageDesc → Bool) (h : mwf {} s.walkers = true) (n : Nat) :
    (s.labDrop r none p).walker n = s.walkerDrop r p n (s.walker n) := by
  have hempty : ∀ k, s.walkerDrop r p k {} = {} := fun k => by unfold State.walkerDrop; split <;> rfl
  have hrising : risingFrom 0 s.walkers = true := (Bool.and_eq_true_iff.mp h).1
  exact mget_filterMap (s.walkerDrop r p) hempty hrising n

theorem State.mem_lab_labDrop (s : State) (r : Nat) (p : PageDesc → Bool) (h : mwf {} s.walkers = true) (n : Nat) (d : PageDesc) :
    d ∈ ((s.labDrop r none p).walker n).lab ↔ d ∈ (s.walker n).lab ∧ ¬ (s.ropeOf n = r ∧ p d = true) := by
  rw [s.walker_labDrop r p h, State.walkerDrop]
  by_cases hr : s.ropeOf n = r <;> simp [hr, Walker.drop]

theorem State.labInv_frame (s : State) (r : Nat) (v : Word) : s.labInv r v = { s with walkers := (s.labInv r v).walkers, regs := (s.labInv r v).regs } := rfl

end

/-- Settles O32: records wait for their unit or begin, and a pool goes from INIT to READY to DISABLE by its register's actions. -/
theorem kvRecordsAndPools : Obligations.KvRecordsAndPools := by
  unfold Obligations.KvRecordsAndPools
  refine ⟨fun q r rest env s => ⟨fun op i kind fail work hmem h => ?issue, rfl, rfl, rfl⟩, fun who r v env s hr hl => ?pool⟩
  case issue =>
    simp only [List.mem_cons, List.not_mem_nil, or_false, Prod.mk.injEq] at hmem
    rcases hmem with hrow | hrow | hrow | hrow
    all_goals
      obtain ⟨rfl, rfl, rfl, rfl, rfl⟩ := hrow
      exact kvIssues_of_atUnit (issuesAtUnit_of_atUnit h rfl rfl)
  case pool =>
    refine ⟨fun ha hready hconf => ?_, fun ha h => ?_, fun hinit => ?_, fun hinit => ?_, fun ha => exec_kvDisable ha hr, fun hd hf => ?_,
      fun hf => ?_, fun ha => ?_, exec_invDone hl hr⟩
    · have hgo : ¬ ((s.setPort who {}).kvReady r = true ∨ ¬ (s.setPort who {}).kvConfigOk r = true) :=
        fun h => h.elim (fun h => Bool.false_ne_true (hready.symm.trans h)) (fun h => h hconf)
      rw [exec_kvInit ha hr, State.kvInit, if_neg hgo]
      rfl
    · have hno : (s.setPort who {}).kvReady r = true ∨ ¬ (s.setPort who {}).kvConfigOk r = true :=
        h.imp_right fun hc hok => Bool.false_ne_true (hc.symm.trans hok)
      rw [exec_kvInit ha hr, State.kvInit, if_pos hno]
      exact congrArg _ (State.keep_setPort_raise ..)
    · exact ⟨_, by rw [exec_initDone hl hr, State.kvInitDone_eq, if_pos hinit], fun u => ⟨u.kvInitEnded_ready r, u.kvInitEnded_pool r⟩⟩
    · rw [exec_initDone hl hr, State.kvInitDone_eq, if_neg (by simp [hinit]), State.keep_self]
    · refine ⟨s.kvDisabled r, ?_, ?_, ?_, fun p hp => ?_, fun o ho => ?_, rfl⟩
      · rw [exec_disableDone hl hr, State.kvDisableDone_eq, if_pos ⟨hd, by simp [hf]⟩]
        rfl
      · rw [State.kvReady, State.kvDisabled, State.fld_setFld_self _ _ _ (by decide) (by decide)]
        rfl
      · rw [State.kvPool_kvDisabled, if_pos rfl]
      · rw [State.kvPool_kvDisabled, if_neg hp]
      · exact State.reg_setFld_ne _ _ _ _ ho
    · rw [exec_disableDone hl hr, State.kvDisableDone_eq, if_neg (by simp [hf]), State.keep_self]
    · refine ⟨(s.setPort who {}).labInv r v, exec_labInv ha hr v, ?_, fun n d hwf => ?_, fun o ho => ?_, State.labInv_frame _ r v⟩
      · exact State.fld_setFld_self _ _ _ (by decide) (by decide)
      · refine ((s.setPort who {}).mem_lab_labDrop r _ hwf n d).trans ?_
        simp only [Bool.and_eq_true, Bool.or_eq_true, beq_iff_eq, decide_eq_true_eq]
        rfl
      · exact State.reg_setFld_ne _ _ _ _ ho

end Sys2Proof.Machine

namespace Sys2Proof.Machine

/-! ## The control cores' services (R231, R237, R238) -/

section
variable {s : State} {c : Nat} {x : CcReq}

theorem State.likeMem_readPte (s : State) (src : Src) (m : Miss) : s.likeMem (s.readPte src m).1 := by
  have hhead := s.likeMem_readMem src m.pt 8
  have hentry := State.likeMem_trans hhead ((s.readMem src m.pt 8).1.likeMem_readMem src (pteAddr m.pt m.lp) 8)
  unfold State.readPte
  dsimp only
  split
  · exact hhead
  split
  · exact hhead
  split
  · exact hentry
  split
  · exact hentry
  split
  · exact hentry
  · exact hentry

theorem State.kvPools_kvUnpin (s : State) (c r : Nat) (m : Miss) : (s.kvUnpin c r m).kvPools = s.kvPools := by
  unfold State.kvUnpin
  dsimp only
  split
  · have hread := (s.likeMem_readPte (srcCC c) { m with lp := m.lp - s.fld (Reg.ATT_KV_CFG r) 19 12 }).kvPools
    split
    next t d heq =>
      rw [heq] at hread
      split
      · exact ((t.likeMem_writeMem _ _ _).kvPools).trans hread
      · exact hread
    next t heq =>
      rw [heq] at hread
      exact hread
  · rfl

theorem State.free_kvTrip (s : State) (r seq lp : Nat) : ((s.kvTrip r seq lp).kvPool r).free = (s.kvPool r).free := by
  unfold State.kvTrip
  dsimp only
  split
  · rw [State.kvPool, State.kvEvent_kvPools, ← State.kvPool, State.kvPool_setKvPool_self]
  · rfl

/-- The frame that an allocation takes: one of the free list, which one is not stated. -/
def State.frameTaken (s : State) (r : Nat) : Nat :=
  (s.kvPool r).free.getD (Config.freeNat s.free % max 1 (s.kvPool r).free.length) 0

theorem State.frameTaken_mem {s : State} {r : Nat} (h : (s.kvPool r).free ≠ []) : s.frameTaken r ∈ (s.kvPool r).free := by
  have hpos : 0 < (s.kvPool r).free.length := List.length_pos_iff.mpr h
  have hlt : Config.freeNat s.free % max 1 (s.kvPool r).free.length < (s.kvPool r).free.length := by
    rw [Nat.max_eq_right hpos]
    exact Nat.mod_lt _ hpos
  rw [State.frameTaken, List.getD_eq_getElem _ _ hlt]
  exact List.getElem_mem hlt

/-- A frame that is taken leaves the free list, whatever is written of it. -/
theorem State.free_kvTake (s : State) (c r : Nat) (x : CcReq) :
    ((s.kvTake c r x).kvPool r).free = (s.kvPool r).free.filter (· != s.frameTaken r) := by
  unfold State.kvTake
  dsimp only
  rw [State.free_kvTrip]
  show (mget {} (State.writeMem _ _ _ _).1.kvPools r).free = _
  rw [(State.likeMem_writeMem _ _ _ _).kvPools, State.kvPools_kvUnpin, (State.likeMem_writeMem _ _ _ _).kvPools]
  exact congrArg KvPool.free (State.kvPool_setKvPool_self s r _)

/-- What a LOOKUP does with the entry it has read. -/
def State.lookedUp (c : Nat) (x : CcReq) (s : State) : State :=
  let p := s.readPte (srcCC c) x.miss
  match p.2 with
  | some d => (p.1.ccDone c x).sendDesc x d
  | none => p.1.ccDone c x

theorem State.ccLookup_eq (hr : s.ccRuns c = true) (hx : (s.ccReq c).find? (fun x => !x.waits) = some x) (ha : x.miss.alloc = false) (env : Env) :
    s.ccLookup c env = s.settle (.walk c) env (State.lookedUp c x) := by
  unfold State.ccLookup
  rw [hx]
  exact if_pos ⟨hr, by simp [ha]⟩

theorem State.ccAllocate_eq (hr : s.ccRuns c = true) (hx : (s.ccReq c).find? (fun x => !x.waits) = some x) (ha : x.miss.alloc = true)
    (hall : (s.ccReq c).all (fun y => !y.waits) = true) (env : Env) :
    s.ccAllocate c env = s.settle (.walk c) env (fun u => u.kvAllocate c x) := by
  have hnone : ∀ p : CcReq → Bool, (s.ccReq c).find? (fun y => y.waits && p y) = none := fun p =>
    List.find?_eq_none.mpr fun y hy => by
      have : y.waits = false := by simpa using List.all_eq_true.mp hall y hy
      simp [this]
  unfold State.ccAllocate
  dsimp only
  rw [hnone, hx]
  dsimp only [Option.orElse]
  rw [if_pos ha]
  exact if_pos hr

theorem exec_lookup (hl : s.live) (hc : c < 16) (env : Env) : exec (.lookup c env) s = .next (s.keep (s.ccLookup c env)) :=
  (part_true (decide_eq_true hc) _).trans (State.run_live _ hl)

theorem exec_allocate (hl : s.live) (hc : c < 16) (env : Env) : exec (.allocate c env) s = .next (s.keep (s.ccAllocate c env)) :=
  (part_true (decide_eq_true hc) _).trans (State.run_live _ hl)

theorem State.kvAllocate_entry {u t : State} {d : PageDesc} (h : u.readPte (srcCC c) x.miss = (t, some d)) : u.kvAllocate c x =
    if d.state ≠ 2 then (t.ccDone c x).sendDesc x d
    else if (t.kvPool (u.ropeOf x.core)).free ≠ [] then t.kvTake c (u.ropeOf x.core) x
    else if t.kvEvictable (u.ropeOf x.core) then
      { t with ccReqs := mset [] t.ccReqs c ((t.ccReq c).map (fun y =>
          if y.core = x.core ∧ y.miss.id = x.miss.id then { y with waits := true } else y)) }
    else ((t.ccDone c x).sendDesc x { d with state := 4 }).kvEvent (u.ropeOf x.core) 2 x.miss.seq x.miss.lp := by
  unfold State.kvAllocate
  rw [h]

end

/-- Settles O33: the entry that is read decides what is sent, and an unwritten page takes a frame of the free list. -/
theorem controlCoreServices : Obligations.ControlCoreServices := by
  unfold Obligations.ControlCoreServices
  intro c x env s hl hc hruns hx
  refine ⟨fun ha => ⟨State.lookedUp c x, ?_, fun u t => ⟨fun d hread => ?_, fun hread => ?_⟩⟩, fun ha hall => ?_, fun u t d hread => ?_⟩
  · rw [exec_lookup hl hc, State.ccLookup_eq hruns hx ha]
  · simp only [State.lookedUp, hread]
  · simp only [State.lookedUp, hread]
  · rw [exec_allocate hl hc, State.ccAllocate_eq hruns hx ha hall]
  · rw [State.kvAllocate_entry hread]
    refine ⟨fun hd => if_pos hd, fun hd hfree hrope => ⟨t.frameTaken (t.ropeOf x.core), State.frameTaken_mem hfree, ?_⟩, fun hd hfree hev hrope => ?_⟩
    · rw [if_neg (by simp [hd]), hrope, if_pos hfree, State.free_kvTake]
    · rw [if_neg (by simp [hd]), hrope, if_neg (by simp [hfree]), if_neg (by simp [hev])]

end Sys2Proof.Machine

namespace Sys2Proof.Machine

/-! ## Walkers and the keeper port (R231, R236, R252, R409) -/

section
variable {s : State} {n k r : Nat}

theorem exec_descriptorArrival (hi : s.issuing) (hn : n < 128) (env : Env) :
    exec (.descriptorArrival n env) s = .next (s.keep ((s.descArrive n env).unitsOn env)) :=
  (part_true (decide_eq_true hn) _).trans (State.engine_issuing _ hi)

theorem exec_kvWalkTimeout (hl : s.live) (hn : n < 128) (env : Env) :
    exec (.kvWalkTimeout n k env) s = .next (s.keep ((s.walkTimeout n k env).freed env)) :=
  (part_true (decide_eq_true hn) _).trans (State.run_live _ hl)

theorem exec_missResend (hl : s.live) (hn : n < 128) : exec (.missResend n) s = .next (s.keep (s.missResend n)) :=
  (part_true (decide_eq_true hn) _).trans (State.run_live _ hl)

theorem exec_keeperUpdate (hl : s.live) (hr : r < 16) (env : Env) :
    exec (.keeperUpdate r env) s = .next (s.keep ((s.keeperUpdate r env).freed env)) :=
  (part_true (decide_eq_true hr) _).trans (State.run_live _ hl)

theorem State.descArrive_none (h : (s.walker n).arriving = []) (env : Env) : s.descArrive n env = s := by
  unfold State.descArrive
  dsimp only
  rw [h]

theorem State.descArrive_late {id : Nat} {d : PageDesc} {rest : List (Nat × PageDesc)} (h : (s.walker n).arriving = (id, d) :: rest)
    (hm : ∀ m ∈ (s.walker n).misses, m.id ≠ id) (env : Env) : s.descArrive n env = s.setWalker n { s.walker n with arriving := rest } := by
  have hnone : (s.walker n).misses.find? (fun m => m.id == id) = none := List.find?_eq_none.mpr fun m h => by simpa using hm m h
  unfold State.descArrive
  dsimp only
  rw [h]
  dsimp only
  rw [hnone]

/-- The walker that a descriptor of one of its misses has reached. -/
def Walker.arrived (w : Walker) (id : Nat) (d : PageDesc) (rest : List (Nat × PageDesc)) (m : Miss) : Walker :=
  { w with
    arriving := rest, misses := w.misses.filter (fun x => x.id != id)
    recs := w.recs.map (fun k => if k.q = m.q ∧ k.num = m.num then { k with got := k.got ++ [d] } else k)
    lab := if d.state = 0 then labEnter { d with fresh := false } w.lab else w.lab }

theorem State.descArrive_miss {id : Nat} {d : PageDesc} {rest : List (Nat × PageDesc)} {m : Miss} (h : (s.walker n).arriving = (id, d) :: rest)
    (hm : (s.walker n).misses.find? (fun m => m.id == id) = some m) (env : Env) : s.descArrive n env =
      s.settle (.record m.q m.num) env (fun u => (u.setWalker n ((s.walker n).arrived id d rest m)).kvResumeAll n) := by
  unfold State.descArrive
  dsimp only
  rw [h]
  dsimp only
  rw [hm]
  rfl

theorem State.walkTimeout_none (h : (s.walker n).misses[k]? = none) (env : Env) : s.walkTimeout n k env = s := by
  unfold State.walkTimeout
  rw [h]

/-- A miss that has timed out ends its record. -/
def State.missEnded (n : Nat) (m : Miss) (u : State) : State :=
  (u.kvDrop n m.q m.num).setPhaseOf m.q m.num (.ended stKvWalkTimeout (m.lp % 2 ^ 32))

theorem State.walkTimeout_some {m : Miss} (h : (s.walker n).misses[k]? = some m) (env : Env) : s.walkTimeout n k env =
    s.settle (.record m.q m.num) env (fun u =>
      ((State.missEnded n m u).kvEvent ((State.missEnded n m u).ropeOf n) 3 m.seq m.lp).kvResumeAll n) := by
  unfold State.walkTimeout
  rw [h]
  rfl

theorem State.missResend_sent (h : ∀ m ∈ (s.walker n).misses, m.sent = true) : s.missResend n = s := by
  unfold State.missResend
  generalize (s.walker n).misses = l at h
  induction l with
  | nil => rfl
  | cons m l ih =>
    rw [List.foldl_cons, if_pos (h m List.mem_cons_self)]
    exact ih fun x hx => h x (List.mem_cons_of_mem _ hx)

theorem State.keeperUpdate_none (h : (s.kvPool r).updates = []) (env : Env) : s.keeperUpdate r env = s := by
  unfold State.keeperUpdate
  rw [h]

theorem State.keeperUpdate_some {x : KeepUpd} {rest : List KeepUpd} (h : (s.kvPool r).updates = x :: rest) (env : Env) :
    s.keeperUpdate r env = s.settle (.kv r) env (fun u => (u.setKvPool r { u.kvPool r with updates := rest }).applyUpdate r x) := by
  unfold State.keeperUpdate
  rw [h]

theorem updateHits_iff (b : List Byte) (x : KeepUpd) :
    updateHits b x = true ↔ leAt b 4 1 = 1 ∧ leAt b 8 4 % 2 ^ 24 = x.seq ∧ leAt b 0xC 4 = x.lp := by
  simp [updateHits, and_assoc]

theorem State.applyUpdate_read {u v : State} {x : KeepUpd} {b : List Byte} {bad : List Nat}
    (h : u.readMem (u.keeperSrc r) (u.frameRec r x.frame) 32 = (v, ⟨b, bad, none⟩)) : u.applyUpdate r x =
      if updateHits b x then
        let w := v.writeMem (v.keeperSrc r) (v.frameRec r x.frame) (toLe 4 (updatedScore b x))
        w.1.updateDone x w.2
      else v.updateDone x none := by
  unfold State.applyUpdate
  rw [h]

theorem State.applyUpdate_error {u v : State} {x : KeepUpd} {b : List Byte} {bad : List Nat} {e : Nat × Nat}
    (h : u.readMem (u.keeperSrc r) (u.frameRec r x.frame) 32 = (v, ⟨b, bad, some e⟩)) :
    u.applyUpdate r x = (v.attFlag x.core 4).updateDone x (some e) := by
  unfold State.applyUpdate
  rw [h]

end

/-- Settles O34: what arrives finds its miss or not, and an update finds its frame's page or not. -/
theorem walkersAndKeeperPort : Obligations.WalkersAndKeeperPort := by
  unfold Obligations.WalkersAndKeeperPort
  intro n k r env s hn hr hi
  refine ⟨fun id d rest harr hm => ?late, fun id d rest m harr hm => ?arrives, fun harr => ?none, fun m hm => ?timeout, fun hm => ?noMiss,
    exec_missResend hi.1 hn, State.missResend_sent, fun hu => ?noUpdate, fun x rest hu => ?update, fun u v x b bad hread hsame => ?read,
    fun u v x b bad e => State.applyUpdate_error⟩
  case late => rw [exec_descriptorArrival hi hn, State.descArrive_late harr hm]
  case arrives =>
    refine ⟨fun u => (u.setWalker n ((s.walker n).arrived id d rest m)).kvResumeAll n, ?_, fun u => ⟨_, rfl, rfl, rfl, rfl⟩⟩
    rw [exec_descriptorArrival hi hn, State.descArrive_miss harr hm]
  case none => rw [exec_descriptorArrival hi hn, State.descArrive_none harr]
  case timeout =>
    rw [exec_kvWalkTimeout hi.1 hn, State.walkTimeout_some hm]
    rfl
  case noMiss => rw [exec_kvWalkTimeout hi.1 hn, State.walkTimeout_none hm]
  case noUpdate => rw [exec_keeperUpdate hi.1 hr, State.keeperUpdate_none hu]
  case update => rw [exec_keeperUpdate hi.1 hr, State.keeperUpdate_some hu]
  case read =>
    rw [State.applyUpdate_read hread, hsame.1, hsame.2]
    simp only [updateHits_iff]
    rfl

end Sys2Proof.Machine

namespace Sys2Proof.Machine

/-! ## Haul records issue (R286 to R288, R298, R307 to R309) -/

section
variable {s : State} {q : Nat} {r : Fetched} {rest : List Fetched} {env : Env}

/-- The outcome of a record of the haul engine: its issue, and the engine goes on. -/
theorem exec_haulIssue {op : Nat} (h : s.ready q op r rest) {i : Instr} {run : Ctx → State → State × Phase}
    (hexec : exec i s = part (queueOk q) (s.engine ((s.issue q op env run).haulOn env))) {w : State × Phase}
    (hrun : run (s.ctx q r) (s.starting q r env) = w) : exec i s = .next (s.keep ((s.issued q r w).haulOn env)) := by
  have hissue := State.issue_ready h env run
  obtain ⟨hi, hq, -⟩ := h
  rw [hexec, part_true (has := queueOk q) (decide_eq_true hq), State.engine_issuing _ hi, hissue, hrun]

theorem getD_of_none {α : Type} {x : Option α} (h : x = none) (a : α) : x.getD a = a := by rw [h]; rfl

theorem hctxWork_open {c : Ctx} {u : State} (h : c.item.f 0xA 1 = 0) : hctxWork c u =
    (u.setHaulCtx c.core (c.item.f 8 2) (some { pool := c.item.f 0xB 1, maxb := c.item.f 0xC 2 }), .ended stOk 0) := if_pos h

theorem hctxWork_close {c : Ctx} {u : State} (h : c.item.f 0xA 1 ≠ 0) : hctxWork c u =
    (u.joinLine c.core (c.item.f 8 2) (.close c.q c.item.num), .parked .engine) := if_neg h

theorem wfillWork_starts {c : Ctx} {u : State} (h : prefetchOf (u.haul c.core) c.q c.item = none) :
    wfillWork c u = (u.startFill c.core (c.item.f 0x10 2) c.q c.item true, .parked .engine) := by
  unfold wfillWork
  rw [h]

theorem wfillWork_takesOver {c : Ctx} {u : State} {w : Window} (h : prefetchOf (u.haul c.core) c.q c.item = some w) :
    wfillWork c u = if w.filled then endMem ((u.issueFill c.core w).fillWrite c.core w) w.move.err else (u.issueFill c.core w, .parked .engine) := by
  unfold wfillWork
  rw [h]

/-! ### PORTER -/

theorem exec_porter_full (h : s.ready q 0x54 r rest) (hroom : s.porterRoom (s.queueCore q) = false) : exec (.porter q env) s = .next s := by
  obtain ⟨hi, hq, -⟩ := h
  show part (queueOk q) (s.engine (if s.porterRoom (s.queueCore q) then s.issue q 0x54 env runPorter else s)) = _
  rw [part_true (has := queueOk q) (decide_eq_true hq), State.engine_issuing _ hi, if_neg (by simp [hroom]), State.keep_self]

theorem exec_porter_room (h : s.ready q 0x54 r rest) (hroom : s.porterRoom (s.queueCore q) = true) :
    exec (.porter q env) s = .next (s.keep (s.issued q r (runPorter (s.ctx q r) (s.starting q r env)))) :=
  exec_issue h (by
    show part (queueOk q) (s.engine (if s.porterRoom (s.queueCore q) then s.issue q 0x54 env runPorter else s)) = _
    rw [if_pos hroom])

/-- A PORTER that is counted in its core's counter. -/
def State.porterCounted (s : State) (n : Nat) : State := s.count (Reg.HAUL_CNT_PORTER n) 1

theorem runPorter_eq (c : Ctx) (u : State) : runPorter c u =
    atUnit c .porter (porterFree (c.item.f 0x10 8)) .turn (porterFail c (u.porterCounted c.core)) (fun s => porterWork c (s.porterCounted c.core)) u := rfl

theorem atUnit_free {c : Ctx} {kind : MxKind} {free : List MxOp → Bool} {why : Park} {work : State → State × Phase} {u : State}
    (hturn : (opsBefore c.q c.item.num (u.mat c.core).ops).any (fun o => o.kind == kind && u.opWaits o) = false)
    (hfree : free (opsBefore c.q c.item.num (u.mat c.core).ops) = true) :
    atUnit c kind free why none work u = (if (work u).2.isEnded then (work u).1 else (work u).1.hold c, (work u).2) := by
  unfold atUnit
  dsimp only
  rw [if_neg (by simp only [hturn, Bool.false_eq_true, not_false_iff]), if_pos hfree]

theorem atUnit_waits {c : Ctx} {kind : MxKind} {free : List MxOp → Bool} {work : State → State × Phase} {u : State}
    (h : (opsBefore c.q c.item.num (u.mat c.core).ops).any (fun o => o.kind == kind && u.opWaits o) = true ∨
      free (opsBefore c.q c.item.num (u.mat c.core).ops) = false) : atUnit c kind free .turn none work u = (u.hold c, .parked .turn) := by
  unfold atUnit
  dsimp only
  split
  · rfl
  next hturn =>
    have hfree := h.resolve_left hturn
    rw [if_neg (by simp only [hfree, Bool.false_eq_true, not_false_iff])]

theorem runPorter_free {c : Ctx} {u : State} (hf : porterFail c (u.porterCounted c.core) = none)
    (hturn : (opsBefore c.q c.item.num (u.mat c.core).ops).any (fun o => o.kind == .porter && u.opWaits o) = false)
    (hfree : porterFree (c.item.f 0x10 8) (opsBefore c.q c.item.num (u.mat c.core).ops) = true) :
    runPorter c u = (if (porterWork c (u.porterCounted c.core)).2.isEnded then (porterWork c (u.porterCounted c.core)).1
      else (porterWork c (u.porterCounted c.core)).1.hold c, (porterWork c (u.porterCounted c.core)).2) := by
  rw [runPorter_eq, hf, atUnit_free hturn hfree]

theorem runPorter_waits {c : Ctx} {u : State} (hf : porterFail c (u.porterCounted c.core) = none)
    (h : (opsBefore c.q c.item.num (u.mat c.core).ops).any (fun o => o.kind == .porter && u.opWaits o) = true ∨
      porterFree (c.item.f 0x10 8) (opsBefore c.q c.item.num (u.mat c.core).ops) = false) :
    runPorter c u = (u.hold c, .parked .turn) := by
  rw [runPorter_eq, hf, atUnit_waits h]

theorem porterWork_inline {c : Ctx} {v t : State} {e : Option (Nat × Nat)} (h : c.item.f 8 8 = 0)
    (hw : v.writeMemBy (srcCore c.core) 256 (c.item.f 0x10 8) c.item.inlineData [] = (t, e)) :
    porterWork c v = endMem (t.haulPoison c.core false) e := by
  unfold porterWork State.porterRead
  rw [if_pos h]
  dsimp only
  rw [List.map_nil, hw]
  rfl

theorem porterWork_copy {c : Ctx} {v t t' : State} {rd : Rd} {e : Option (Nat × Nat)} (h : c.item.f 8 8 ≠ 0)
    (hr : v.readMemBy (srcCore c.core) 256 (c.item.f 8 8) (c.item.f 0x18 2) = (t, rd))
    (hw : t.writeMemBy (srcCore c.core) 256 (c.item.f 0x10 8) rd.bytes (rd.bad.map (fun l => l + c.item.f 0x10 8 - c.item.f 8 8)) = (t', e)) :
    porterWork c v = endMem (t'.haulPoison c.core (!rd.bad.isEmpty)) (rd.err.orElse (fun _ => e)) := by
  unfold porterWork State.porterRead
  rw [if_neg h, hr]
  dsimp only
  rw [hw]

end

/-! ## Windows (R300, R301, R304, R305) -/

section
variable {s : State} {q slot k : Nat} {env : Env}

theorem exec_prefetch (hi : s.issuing) (hq : q < 2048) (hslot : slot < 65536) (env : Env) :
    exec (.prefetch q slot env) s = .next (s.keep (s.prefetch q slot env)) :=
  (part_true (by simp [queueOk, slotOk, hq, hslot]) _).trans (State.engine_issuing _ hi)

theorem exec_wrelRelease (hl : s.live) (hq : q < 2048) (env : Env) : exec (.wrelRelease q env) s = .next (s.keep (s.wrelRelease q env)) :=
  (part_true (has := queueOk q) (decide_eq_true hq) _).trans (State.run_live _ hl)

theorem exec_stallWatch (hl : s.live) (hk : k < 192) (env : Env) : exec (.stallWatch k env) s = .next (s.keep (s.stallWatch k env)) :=
  (part_true (decide_eq_true hk) _).trans (State.run_live _ hl)

/-- The conditions of R301 for the work of a WFILL to start before it issues. -/
structure State.mayPrefetch (s : State) (q slot : Nat) (r : Fetched) : Prop where
  mode : (s.queue q).mode = .on
  op : r.op = 0x52
  running : s.quiescing = false
  chain : chainFail 0 r.chain = none
  format : copyFormat r = none
  shape : copyShape r = none
  refused : s.fillRefused (s.queueCore q) (r.f 0x10 2) = none
  once : prefetchOf (s.haul (s.queueCore q)) q r = none
  order : depBefore slot (s.queue q) = false
  fills : earlierFills (s.haul (s.queueCore q)) q (r.f 0x10 2) slot (s.queue q) = true
  room : ∀ x, s.haulCtx (s.queueCore q) (r.f 0x10 2) = some x → winBillets (ctxWins (s.haul (s.queueCore q)) (r.f 0x10 2)) < x.maxb

theorem State.haulCtx_of_fillRefused {n cx : Nat} (h : s.fillRefused n cx = none) : ∃ x, s.haulCtx n cx = some x := by
  unfold State.fillRefused at h
  cases hx : s.haulCtx n cx with
  | none => rw [hx] at h; cases h
  | some x => exact ⟨x, rfl⟩

theorem State.prefetch_starts {r : Fetched} (hr : (s.queue q).fetched.find? (fun r => r.slot == slot) = some r) (h : s.mayPrefetch q slot r) (env : Env) :
    s.prefetch q slot env = (s.startFill (s.queueCore q) (r.f 0x10 2) q r false).haulOn env := by
  obtain ⟨x, hx⟩ := State.haulCtx_of_fillRefused h.refused
  unfold State.prefetch
  dsimp only
  rw [hr]
  dsimp only
  rw [hx]
  exact if_pos ⟨h.mode, h.op, by simp [h.running], h.chain, h.format, h.shape, h.refused, h.once, by simp [h.order], h.fills, h.room x hx⟩

theorem State.prefetch_stays (h : s.quiescing = true ∨ (s.queue q).mode ≠ .on ∨ depBefore slot (s.queue q) = true) (env : Env) :
    s.prefetch q slot env = s := by
  unfold State.prefetch
  dsimp only
  split
  · rfl
  · refine if_neg fun ⟨hmode, _, hrun, _, _, _, _, _, hdep, _⟩ => ?_
    exact h.elim hrun fun h => h.elim (fun h => h hmode) hdep

theorem State.wrelRelease_waits {i : Issued} (h : s.parkedOf q 0x53 .order = some i)
    (hw : earlierEnded i.item.num (s.queue q).issued = false ∨ s.mayBegin q = false) (env : Env) : s.wrelRelease q env = s := by
  unfold State.wrelRelease
  rw [h]
  exact if_pos (by simpa using hw)

/-- The windows of a WREL's context that it may free. -/
def State.freeable (s : State) (i : Issued) : List Window :=
  (ctxWins (s.haul i.item.core) (i.item.f 8 2)).filter (fun w => w.issued && w.filled)

theorem State.wrelRelease_goes {i : Issued} {x : HaulCtx} (h : s.parkedOf q 0x53 .order = some i)
    (he : earlierEnded i.item.num (s.queue q).issued = true) (hb : s.mayBegin q = true) (hx : s.haulCtx i.item.core (i.item.f 8 2) = some x) (env : Env) :
    s.wrelRelease q env =
      if (s.freeable i).length < i.item.f 0xA 1 then s.setPhaseOf q i.item.num (.ended 0x66 (i.item.f 8 2 + 3 * 2 ^ 9))
      else ((((s.freeable i).take (i.item.f 0xA 1)).foldl (fun s w => s.freeWin i.item.core w) s).setPhaseOf q i.item.num (.ended stOk 0)).haulOn env := by
  unfold State.wrelRelease
  rw [h]
  dsimp only
  rw [if_neg (by simp [he, hb]), if_neg (by simp [hx])]
  rfl

theorem State.stallWatch_quiet (h : s.fld Reg.RTE_STATUS 0 0 = 1 ∨ (s.credit k).waiters = []) (env : Env) : s.stallWatch k env = s := by
  unfold State.stallWatch
  dsimp only
  split
  · rfl
  next hw => exact if_pos (h.resolve_right (by rw [hw]; simp))

theorem State.stallWatch_lends {m id : Nat} {more : List (Nat × Nat)} (hq : s.fld Reg.RTE_STATUS 0 0 = 0)
    (hw : (s.credit k).waiters = (m, id) :: more) (hl : (s.credit k).lent = 0) (env : Env) : s.stallWatch k env =
      ((s.setCredit k { s.credit k with lent := s.poolRes k, grant := some (m, id, s.streamId m id) }).stallEvent
        k 0 0x0400 1 (s.streamId m id) more.head?).haulOn env := by
  unfold State.stallWatch
  dsimp only
  rw [hw]
  dsimp only
  rw [if_neg (by omega), if_pos hl]

theorem State.likeLog_stallEvent (s : State) (k i code cls granted : Nat) (next : Option (Nat × Nat)) :
    s.likeLog (s.stallEvent k i code cls granted next) := by
  unfold State.stallEvent
  dsimp only
  split
  · exact State.likeLog_raise_post ..
  · exact State.likeLog_raise_post ..

theorem State.stallWatch_reports {m id : Nat} {more : List (Nat × Nat)} (hq : s.fld Reg.RTE_STATUS 0 0 = 0)
    (hw : (s.credit k).waiters = (m, id) :: more) (hl : (s.credit k).lent ≠ 0) (env : Env) :
    (s.setCredit k { s.credit k with stuck := true }).likeLog (s.stallWatch k env) := by
  unfold State.stallWatch
  dsimp only
  rw [hw]
  dsimp only
  rw [if_neg (by omega), if_neg hl]
  exact State.likeLog_stallEvent _ _ _ _ _ _ _

end

/-- Settles O37: each record's work follows its checks, and windows and pools follow their conditions. -/
theorem haulRecordsAndWindows : Obligations.HaulRecordsAndWindows := by
  unfold Obligations.HaulRecordsAndWindows
  refine ⟨fun q r rest env s => ⟨fun h hf ha => ?hctxOpen, fun h hf ha => ?hctxClose, fun h hf => ?hcopy, fun h hf => ?wfill,
    wfillWork_starts (c := s.ctx q r) (u := s.starting q r env),
    fun w => wfillWork_takesOver (c := s.ctx q r) (u := s.starting q r env), fun h hf => ?wrel, exec_porter_full, fun h hroom hturn hf hfree => ?porter, fun h hroom hf hw => ?porterWaits,
    fun hsrc t e hw => porterWork_inline hsrc hw, fun hsrc t t' rd e hr hw => porterWork_copy hsrc hr hw⟩, fun q slot k env s hi hq hslot hk => ?windows⟩
  case hctxOpen => exact exec_haulIssue h rfl ((getD_of_none hf _).trans (hctxWork_open ha))
  case hctxClose => exact exec_haulIssue h rfl ((getD_of_none hf _).trans (hctxWork_close ha))
  case hcopy => exact exec_haulIssue h rfl (getD_of_none hf _)
  case wfill => exact exec_haulIssue h rfl (getD_of_none hf _)
  case wrel => exact exec_haulIssue h rfl (getD_of_none hf _)
  case porter =>
    rw [exec_porter_room h hroom, runPorter_free (c := s.ctx q r) (u := s.starting q r env) hf hturn hfree]
    rfl
  case porterWaits =>
    rw [exec_porter_room h hroom, runPorter_waits (c := s.ctx q r) (u := s.starting q r env) hf hw]
  case windows =>
    refine ⟨fun r hr hmode hop hrun hchain hfmt hshape href honce hdep hfills hmax => ?_, fun h => ?_, fun i x hp he hb hx => ⟨fun hfew => ?_, fun henough => ?_⟩,
      fun i hp hw => ?_, fun hquiet m id more hw => ⟨fun hl => ?_, fun hl => ?_⟩, fun h => ?_⟩
    · rw [exec_prefetch hi hq hslot, State.prefetch_starts hr ⟨hmode, hop, hrun, hchain, hfmt, hshape, href, honce, hdep, hfills, hmax⟩]
    · rw [exec_prefetch hi hq hslot, State.prefetch_stays h, State.keep_self]
    · rw [exec_wrelRelease hi.1 hq, State.wrelRelease_goes hp he hb hx]
      exact (congrArg (fun t => Host.Outcome.next (s.keep t)) (if_pos hfew)).trans (congrArg _ (State.keep_setPhaseOf ..))
    · rw [exec_wrelRelease hi.1 hq, State.wrelRelease_goes hp he hb hx]
      exact congrArg (fun t => Host.Outcome.next (s.keep t)) (if_neg (Nat.not_lt.mpr henough))
    · rw [exec_wrelRelease hi.1 hq, State.wrelRelease_waits hp hw, State.keep_self]
    · rw [exec_stallWatch hi.1 hk, State.stallWatch_lends hquiet hw hl]
    · obtain ⟨g, l, o, p, heq⟩ := State.stallWatch_reports hquiet hw hl env
      refine ⟨_, (exec_stallWatch hi.1 hk env).trans (congrArg _ (congrArg s.keep heq)), mget_mset_self ({} : Credit) s.credits k _,
        fun j hj => mget_mset_ne ({} : Credit) s.credits _ hj, rfl⟩
    · rw [exec_stallWatch hi.1 hk, State.stallWatch_quiet h, State.keep_self]

end Sys2Proof.Machine

namespace Sys2Proof.Machine

/-! ## What a sweep decides about a shard (R332, R338) -/

theorem mem_upTo {lo hi a : Nat} : a ∈ upTo lo hi ↔ lo ≤ a ∧ a ≤ hi := by
  simp only [upTo, List.mem_map, List.mem_range]
  refine ⟨fun ⟨i, hi, h⟩ => by omega, fun h => ⟨a - lo, by omega, by omega⟩⟩

section
variable {s : State} {step k : Nat} {e : List Byte}

theorem State.lowestSealed_none {rs : List (Nat × Nat)} (h : s.lowestSealed rs = none) {r : Nat × Nat} (hr : r ∈ rs) {b : Nat}
    (hlo : r.1 ≤ b) (hhi : b < r.2) : mget 0 s.seals (b / 0x200000) = 0 := by
  unfold State.lowestSealed at h
  dsimp only at h
  split at h
  next hnone =>
    have hpages := List.map_eq_nil_iff.mp (List.flatMap_eq_nil_iff.mp hnone r hr)
    have hfree := List.filter_eq_nil_iff.mp hpages (b / 0x200000) (mem_upTo.mpr ⟨by omega, by omega⟩)
    simpa using hfree
  · cases h

theorem State.shardDecision_sweep (h : s.shardDecision step k e = .sweep) : enState e ≠ 1 ∧ enStepDone e ≠ step ∧ s.validEntry k e = true ∧
    s.lowestSealed ((s.written e).map (fun a => (enBase e a, enBase e a + enNparam e * s.arrSize e a))) = none := by
  unfold State.shardDecision at h
  split at h
  · cases h
  next hstate =>
    split at h
    · cases h
    next hstep =>
      unfold State.entryDecision at h
      split at h
      · cases h
      split at h
      · cases h
      next hvalid =>
        split at h
        · cases h
        next hopen => exact ⟨hstate, hstep, by simpa using hvalid, hopen⟩

theorem State.beginShard_unread {sw : Sweep} {t : State} {b : List Byte} {bad : List Nat} {x : Nat × Nat}
    (h : s.readMem srcUpdate (s.shardAddr sw.shard) 128 = (t, ⟨b, bad, some x⟩)) : s.beginShard sw = (t.tearShard sw sw.shard).endSweep sw x.1 x.2 := by
  unfold State.beginShard
  dsimp only
  rw [h]
  rfl

theorem State.beginShard_passes {sw : Sweep} {t : State} {b : List Byte} {bad : List Nat}
    (h : s.readMem srcUpdate (s.shardAddr sw.shard) 128 = (t, ⟨b, bad, none⟩)) (hd : t.shardDecision sw.step sw.shard b = .pass)
    (hres : resumeAt sw sw.shard = none) :
    s.beginShard sw = t.passShard { sw with seen := sw.seen ++ [(sw.shard, enBase b 0, enNparam b)] } := by
  unfold State.beginShard
  dsimp only
  rw [h]
  dsimp only
  rw [hd, hres]
  exact if_neg (by simp)

end

/-- Settles O39: the decision's branches in order, and the rules' arithmetic as R318 and R327 give it. -/
theorem shardDecisions : Obligations.ShardDecisions := by
  unfold Obligations.ShardDecisions
  refine ⟨fun s step k e => ⟨fun h => if_pos h, fun hn h => (if_neg hn).trans (if_pos h), fun h => ?sweep,
    fun sw t b bad hread hd hres hlast => ?pass, fun sw t b bad x => State.beginShard_unread⟩, fun prog gr clip grad x => ⟨rfl, rfl, rfl⟩⟩
  case sweep =>
    obtain ⟨hstate, hstep, hvalid, hopen⟩ := State.shardDecision_sweep h
    exact ⟨hstate, hstep, hvalid, fun a ha b hlo hhi _ => State.lowestSealed_none hopen (List.mem_map_of_mem ha) hlo hhi⟩
  case pass =>
    rw [State.beginShard_passes hread hd hres]
    exact if_neg hlast

end Sys2Proof.Machine

namespace Sys2Proof.Machine

/-! ## What a port has received (R349 to R353)

What a port has received, and of whom, changes with what it receives and with its own coming and going, and not with what it or
another port sends. -/

/-- The frames a port has, the bytes of a frame not yet whole, the BSEQ it expects and its peer's plan. -/
def LinkPort.got (x : LinkPort) : List (List Byte) × List Byte × Nat × Option Nat := (x.rxq, x.part, x.rxSeq, x.peerPlan)

/-- No port has received anything from one state to the other. -/
def State.sameGot (s t : State) : Prop := ∀ j, (t.lport j).got = (s.lport j).got

section
variable {s t u : State}

theorem State.lport_setLport_self (s : State) (p : Nat) (x : LinkPort) : (s.setLport p x).lport p = x := 
  mget_mset_self ({} : LinkPort) s.linkPorts p x

theorem State.lport_setLport_ne (s : State) {p j : Nat} (x : LinkPort) (h : j ≠ p) : (s.setLport p x).lport j = s.lport j :=
  mget_mset_ne ({} : LinkPort) s.linkPorts x h

theorem State.lport_of_linkPorts (h : t.linkPorts = s.linkPorts) (j : Nat) : t.lport j = s.lport j := by rw [State.lport, h, State.lport]

theorem State.sameGot_refl (s : State) : s.sameGot s := fun _ => rfl

theorem State.sameGot.trans (h : s.sameGot t) (h' : t.sameGot u) : s.sameGot u := fun j => (h' j).trans (h j)

theorem State.sameGot_of_linkPorts (h : t.linkPorts = s.linkPorts) : s.sameGot t := fun j => congrArg LinkPort.got (State.lport_of_linkPorts h j)

theorem State.sameGot_foldl {α : Type} {f : State → α → State} (h : ∀ (s : State) a, s.sameGot (f s a)) (l : List α) (s : State) :
    s.sameGot (l.foldl f s) := List.foldlRecOn l f s.sameGot_refl fun t ht a _ => ht.trans (h t a)

theorem State.sameGot_emit (s : State) (x : Out) : s.sameGot (s.emit x) := State.sameGot_of_linkPorts rfl

theorem State.sameGot_setLport {p : Nat} {x : LinkPort} (h : x.got = (s.lport p).got) : s.sameGot (s.setLport p x) := fun j => by
  by_cases hj : j = p
  · rw [hj, State.lport_setLport_self, h]
  · rw [State.lport_setLport_ne _ _ hj]

theorem State.sameGot_emitBlock (s : State) (p : Nat) (b : List Byte) : s.sameGot (s.emitBlock p b) := by
  refine State.sameGot.trans ?_ (State.sameGot_emit _ _)
  exact State.sameGot_setLport rfl

theorem State.sameGot_sendControlAt (s : State) (p : Nat) (nak : Bool) (next : Nat) : s.sameGot (s.sendControlAt p nak next) := by
  refine State.sameGot.trans ?_ (State.sameGot_emitBlock _ p _)
  exact State.sameGot_setLport rfl

theorem State.sameGot_sendControl (s : State) (p : Nat) (nak : Bool) : s.sameGot (s.sendControl p nak) := s.sameGot_sendControlAt p nak _

theorem State.sameGot_idleControl (s : State) (p : Nat) : s.sameGot (s.idleControl p) := by
  unfold State.idleControl
  dsimp only
  split_ifs
  · exact s.sameGot_refl
  · exact s.sameGot_refl
  · exact s.sameGot_sendControl p false

theorem State.sameGot_emitData (s : State) (p : Nat) (b : List Byte) (next : Nat) : s.sameGot (s.emitData p b next) := by
  have hsent : s.sameGot ((s.modLport p (fun x => { x with burst := ((s.lport p).burst + 1) % 64 })).emitBlock p b) := by
    refine State.sameGot.trans ?_ (State.sameGot_emitBlock _ p b)
    exact State.sameGot_setLport rfl
  unfold State.emitData
  dsimp only
  split_ifs
  · exact hsent.trans (State.sameGot_sendControlAt _ _ _ _)
  · exact hsent

theorem State.sameGot_sendBlock (p : Nat) (s : State) (b : Nat × List Byte) : s.sameGot (State.sendBlock p s b) := by
  refine State.sameGot.trans ?_ (State.sameGot_emitData _ _ _ _)
  exact State.sameGot_setLport rfl

theorem State.sameGot_flushPort (s : State) (p : Nat) : s.sameGot (s.flushPort p) := by
  unfold State.flushPort
  dsimp only
  split_ifs
  · exact s.sameGot_refl
  · exact s.sameGot_refl
  · refine State.sameGot.trans ?_ (State.sameGot_foldl (fun t f => t.sameGot_emit _) _ _)
    exact State.sameGot_setLport rfl
  · refine State.sameGot.trans ?_ (State.sameGot_foldl (State.sameGot_sendBlock p) _ _)
    exact State.sameGot_setLport rfl

theorem State.sameGot_flowPort (s : State) (p : Nat) : s.sameGot (s.flowPort p) := by
  unfold State.flowPort
  split_ifs
  · refine State.sameGot.trans ?_ (State.sameGot_emit _ _)
    exact State.sameGot_setLport rfl
  · exact s.sameGot_refl

theorem State.sameGot_linkFlush (s : State) : s.sameGot s.linkFlush :=
  State.sameGot_foldl (fun t p => ((t.sameGot_flushPort p).trans (State.sameGot_idleControl _ p)).trans (State.sameGot_flowPort _ p)) _ s

theorem State.reg_of_likeSent (h : s.likeSent t) (o : Nat) : t.reg o = s.reg o := by
  obtain ⟨_, _, rfl⟩ := h
  rfl

theorem State.loadView_likeSent (h : s.likeSent t) : t.loadView = s.loadView := by
  obtain ⟨_, _, rfl⟩ := h
  rfl

theorem State.keep_of_loadView (h : t.loadView = s.loadView) : s.keep t = t := by
  simp only [State.loadView, State.loadTables, Prod.mk.injEq] at h
  exact State.keep_of_eq h.1.2.2.2.2.1 h.1.2.2.2.2.2

/-! ### READY, and what a port forgets -/

theorem State.linkPorts_readyEdge (s : State) (e : PartyEnt) : (s.readyEdge e).linkPorts = s.linkPorts := by
  unfold State.readyEdge
  dsimp only
  split_ifs
  · rfl
  · rfl
  · rw [State.post_linkPorts, State.raise_linkPorts]; rfl

theorem State.linkPorts_linkReady (s : State) : s.linkReady.linkPorts = s.linkPorts :=
  foldl_keeps State.linkPorts State.linkPorts_readyEdge _ _

theorem State.reg_readyEdge {o : Nat} (ho : o < Reg.LNK_EVENT) (s : State) (e : PartyEnt) : (s.readyEdge e).reg o = s.reg o := by
  have hlow : o < 0xD000000 := ho.trans (by decide)
  have hflag : o ≠ Reg.LNK_EVENT := Nat.ne_of_lt ho
  have hcount : o ≠ Reg.LNK_EVENT_CNT0 := Nat.ne_of_lt (ho.trans (by decide))
  unfold State.readyEdge
  dsimp only
  split_ifs
  · rfl
  · rfl
  · rw [State.reg_post _ _ _ _ _ hlow, State.reg_raise_ne _ _ _ hflag hcount]; rfl

theorem State.reg_linkReady {o : Nat} (ho : o < Reg.LNK_EVENT) (s : State) : s.linkReady.reg o = s.reg o :=
  foldl_keeps (State.reg · o) (State.reg_readyEdge ho) _ _

theorem State.fld_linkReady {o : Nat} (ho : o < Reg.LNK_EVENT) (s : State) (hi lo : Nat) : s.linkReady.fld o hi lo = s.fld o hi lo := by
  rw [State.fld, State.reg_linkReady ho, State.fld]

theorem State.linkPorts_portEvent (s : State) (p i code cls arg : Nat) : (s.portEvent p i code cls arg).linkPorts = s.linkPorts := by
  rw [State.portEvent, State.post_linkPorts, State.raise_linkPorts]

theorem State.reg_portEvent (s : State) {p o : Nat} (i code cls arg : Nat) (hlow : o < 0xD000000) (h : o ≠ Reg.LNK_PORT_EVENT p)
    (h' : o ≠ Reg.LNK_PORT_EVENT_CNT p) : (s.portEvent p i code cls arg).reg o = s.reg o := by
  rw [State.portEvent, State.reg_post _ _ _ _ _ hlow, State.reg_raise_ne _ _ _ h h']

/-- A field of a register of which a larger field is known. -/
theorem bits_part {n x : Nat} (_hn : n < 2 ^ 64) (h : bits n 63 34 = x) (hx : x < 2 ^ 8) : bits n 41 34 = x ∧ bits n 63 47 = 0 := by
  simp only [bits] at h ⊢
  omega

end

/-! ## Ports come up and go down (R353) -/

section
variable {s t : State} {p : Nat}

/-- From one state to the other the other ports' states and what they have received stay. -/
def State.othersStay (s t : State) (p : Nat) : Prop :=
  ∀ j < 18, j ≠ p → t.reg (Reg.LNK_PORT_STATUS j) = s.reg (Reg.LNK_PORT_STATUS j) ∧ (t.lport j).got = (s.lport j).got

theorem State.othersStay.fields (h : s.othersStay t p) : ∀ j < 18, j ≠ p → t.reg (Reg.LNK_PORT_STATUS j) = s.reg (Reg.LNK_PORT_STATUS j) ∧
    (t.lport j).rxq = (s.lport j).rxq ∧ (t.lport j).part = (s.lport j).part ∧ (t.lport j).rxSeq = (s.lport j).rxSeq ∧
    (t.lport j).peerPlan = (s.lport j).peerPlan := fun j hj hne => by
  obtain ⟨hreg, hgot⟩ := h j hj hne
  simp only [LinkPort.got, Prod.mk.injEq] at hgot
  exact ⟨hreg, hgot⟩

theorem State.othersStay.trans {u : State} (h : s.othersStay t p) (h' : t.othersStay u p) : s.othersStay u p := fun j hj hne =>
  ⟨(h' j hj hne).1.trans (h j hj hne).1, (h' j hj hne).2.trans (h j hj hne).2⟩

theorem State.othersStay_flush (s : State) (p : Nat) : s.othersStay s.linkFlush p := fun j _ _ =>
  ⟨State.reg_of_likeSent s.likeSent_linkFlush _, s.sameGot_linkFlush j⟩

theorem State.othersStay_ready (s : State) (p : Nat) : s.othersStay s.linkReady p := fun j hj _ =>
  ⟨State.reg_linkReady (by unfold Reg.LNK_PORT_STATUS Reg.LNK_EVENT; omega) s, congrArg LinkPort.got (State.lport_of_linkPorts s.linkPorts_linkReady j)⟩

theorem State.othersStay_modLport (s : State) (p : Nat) (f : LinkPort → LinkPort) : s.othersStay (s.modLport p f) p := fun _ _ hne =>
  ⟨rfl, congrArg LinkPort.got (State.lport_setLport_ne s _ hne)⟩

theorem State.othersStay_setFld (s : State) (p hi lo x : Nat) : s.othersStay (s.setFld (Reg.LNK_PORT_STATUS p) hi lo x) p := fun j _ hne =>
  ⟨State.reg_setFld_ne s _ _ _ (by unfold Reg.LNK_PORT_STATUS; omega), congrArg LinkPort.got (State.lport_of_linkPorts (by simp) j)⟩

theorem State.othersStay_setCtrl (s : State) (p hi lo x : Nat) : s.othersStay (s.setFld (Reg.LNK_PORT_CTRL p) hi lo x) p := fun j _ _ =>
  ⟨State.reg_setFld_ne s _ _ _ (by unfold Reg.LNK_PORT_STATUS Reg.LNK_PORT_CTRL; omega), congrArg LinkPort.got (State.lport_of_linkPorts (by simp) j)⟩

theorem State.othersStay_portEvent (s : State) (p i code cls arg : Nat) : s.othersStay (s.portEvent p i code cls arg) p := fun j hj hne =>
  ⟨State.reg_portEvent s _ _ _ _ (by unfold Reg.LNK_PORT_STATUS; omega) (by unfold Reg.LNK_PORT_STATUS Reg.LNK_PORT_EVENT; omega)
    (by unfold Reg.LNK_PORT_STATUS Reg.LNK_PORT_EVENT_CNT; omega),
    congrArg LinkPort.got (State.lport_of_linkPorts (s.linkPorts_portEvent p _ _ _ _) j)⟩

theorem State.othersStay_ite {u : State} {c : Prop} [Decidable c] (ht : s.othersStay t p) (hu : s.othersStay u p) :
    s.othersStay (if c then t else u) p := by split <;> assumption

/-- A port in a state that it leaves for, before anything is said of it. -/
def State.portLeft (s : State) (p lanes state : Nat) : State :=
  ((s.clearPort p).setFld (Reg.LNK_PORT_STATUS p) 7 4 lanes).setFld (Reg.LNK_PORT_STATUS p) 1 0 state

theorem State.portLeave_eq (s : State) (p lanes state : Nat) : s.portLeave p lanes state =
    (if s.portUp p then (s.portLeft p lanes state).portEvent p 0 0x0700 1 p else s.portLeft p lanes state).linkReady := rfl

theorem State.othersStay_portLeft (s : State) (p lanes state : Nat) : s.othersStay (s.portLeft p lanes state) p :=
  ((((State.othersStay_setFld s p _ _ _).trans (State.othersStay_setFld _ p _ _ _)).trans (State.othersStay_modLport _ p _)).trans
    (State.othersStay_setFld _ p _ _ _)).trans (State.othersStay_setFld _ p _ _ _)

theorem State.othersStay_portLeave (s : State) (p lanes state : Nat) : s.othersStay (s.portLeave p lanes state) p := by
  rw [State.portLeave_eq]
  refine State.othersStay.trans ?_ (State.othersStay_ready _ p)
  exact State.othersStay_ite ((s.othersStay_portLeft p lanes state).trans (State.othersStay_portEvent _ p _ _ _ _)) (s.othersStay_portLeft p lanes state)

theorem State.regs_modLport (s : State) (p : Nat) (f : LinkPort → LinkPort) : (s.modLport p f).regs = s.regs := rfl

theorem State.fld_clearPort (s : State) (p o hi lo : Nat) : (s.clearPort p).fld o hi lo =
    ((s.setFld (Reg.LNK_PORT_STATUS p) 63 34 0xFF).setFld (Reg.LNK_PORT_STATUS p) 3 3 0).fld o hi lo :=
  State.fld_of_regs (State.regs_modLport _ p _) o hi lo

/-- What LNK_PORT_STATUS tells of a port that is not Up. -/
theorem State.status_portLeft (s : State) (p : Nat) {lanes state : Nat} (hlanes : lanes < 16) (hstate : state < 4) :
    let st (hi lo : Nat) := (s.portLeft p lanes state).fld (Reg.LNK_PORT_STATUS p) hi lo
    st 1 0 = state ∧ st 7 4 = lanes ∧ st 41 34 = 0xFF ∧ st 63 47 = 0 ∧ st 3 3 = 0 := by
  have hcleared : (s.clearPort p).fld (Reg.LNK_PORT_STATUS p) 63 34 = 0xFF ∧ (s.clearPort p).fld (Reg.LNK_PORT_STATUS p) 3 3 = 0 := by
    rw [State.fld_clearPort, State.fld_clearPort]
    refine ⟨?_, State.fld_setFld_self _ _ _ (by decide) (by decide)⟩
    exact (State.fld_setFld_ne _ _ _ (by decide) (by decide) (by decide) (by decide)).trans (State.fld_setFld_self _ _ _ (by decide) (by decide))
  have hkept (hi lo : Nat) (h : lo ≤ hi) (h1 : hi < 0 ∨ 1 < lo) (h7 : hi < 4 ∨ 7 < lo) :
      (s.portLeft p lanes state).fld (Reg.LNK_PORT_STATUS p) hi lo = (s.clearPort p).fld (Reg.LNK_PORT_STATUS p) hi lo :=
    (State.fld_setFld_ne _ _ _ (by decide) (by decide) h h1).trans (State.fld_setFld_ne _ _ _ (by decide) (by decide) h h7)
  have hpeer := bits_part (BitVec.isLt _) ((hkept 63 34 (by decide) (by decide) (by decide)).trans hcleared.1) (by decide)
  refine ⟨?_, ?_, hpeer.1, hpeer.2, (hkept 3 3 (by decide) (by decide) (by decide)).trans hcleared.2⟩
  · exact (State.fld_setFld_self _ _ _ (by decide) (by decide)).trans (Nat.mod_eq_of_lt hstate)
  · exact (State.fld_setFld_ne _ _ _ (by decide) (by decide) (by decide) (by decide)).trans
      ((State.fld_setFld_self _ _ _ (by decide) (by decide)).trans (Nat.mod_eq_of_lt hlanes))

theorem State.reg_portLeave (s : State) {p o : Nat} (lanes state : Nat) (h : o ≠ Reg.LNK_PORT_EVENT p) (h' : o ≠ Reg.LNK_PORT_EVENT_CNT p)
    (ho : o < Reg.LNK_EVENT) : (s.portLeave p lanes state).reg o = (s.portLeft p lanes state).reg o := by
  rw [State.portLeave_eq, State.reg_linkReady ho]
  split
  · exact State.reg_portEvent _ _ _ _ _ (ho.trans (by decide)) h h'
  · rfl

/-- What is said of a port that has left its state. -/
structure State.portGone (s t : State) (p state lanes : Nat) : Prop where
  state : t.fld (Reg.LNK_PORT_STATUS p) 1 0 = state
  lanes : t.fld (Reg.LNK_PORT_STATUS p) 7 4 = lanes
  peer : t.fld (Reg.LNK_PORT_STATUS p) 41 34 = 0xFF
  member : t.fld (Reg.LNK_PORT_STATUS p) 63 47 = 0
  plan : t.fld (Reg.LNK_PORT_STATUS p) 3 3 = 0
  event : s.portUp p = true → t.fld (Reg.LNK_PORT_EVENT p) 0 0 = 1
  others : s.othersStay t p

theorem State.portGone_portLeave (hp : p < 18) {lanes state : Nat} (hlanes : lanes < 16) (hstate : state < 4) :
    s.portGone (s.portLeave p lanes state) p state lanes := by
  have hstatus (hi lo : Nat) : (s.portLeave p lanes state).fld (Reg.LNK_PORT_STATUS p) hi lo = (s.portLeft p lanes state).fld (Reg.LNK_PORT_STATUS p) hi lo :=
    congrArg (fget · hi lo) (s.reg_portLeave lanes state (by unfold Reg.LNK_PORT_STATUS Reg.LNK_PORT_EVENT; omega)
      (by unfold Reg.LNK_PORT_STATUS Reg.LNK_PORT_EVENT_CNT; omega) (by unfold Reg.LNK_PORT_STATUS Reg.LNK_EVENT; omega))
  obtain ⟨h1, h2, h3, h4, h5⟩ := s.status_portLeft p hlanes hstate
  refine ⟨(hstatus _ _).trans h1, (hstatus _ _).trans h2, (hstatus _ _).trans h3, (hstatus _ _).trans h4, (hstatus _ _).trans h5, fun hup => ?_,
    s.othersStay_portLeave p lanes state⟩
  have hlow : Reg.LNK_PORT_EVENT p < Reg.LNK_EVENT := by unfold Reg.LNK_PORT_EVENT Reg.LNK_EVENT; omega
  rw [State.portLeave_eq, if_pos hup, State.fld_linkReady hlow, State.portEvent, State.fld_post _ _ _ _ _ _ _ (hlow.trans (by decide))]
  exact State.fld_raise_flag _ (by decide) (by unfold Reg.LNK_PORT_EVENT Reg.LNK_PORT_EVENT_CNT; omega)

theorem State.portGone.flush {state lanes : Nat} (h : s.portGone t p state lanes) : s.portGone t.linkFlush p state lanes := by
  have hfld (o hi lo : Nat) : t.linkFlush.fld o hi lo = t.fld o hi lo := congrArg (fget · hi lo) (State.reg_of_likeSent t.likeSent_linkFlush o)
  exact ⟨(hfld _ _ _).trans h.state, (hfld _ _ _).trans h.lanes, (hfld _ _ _).trans h.peer, (hfld _ _ _).trans h.member, (hfld _ _ _).trans h.plan,
    fun hup => (hfld _ _ _).trans (h.event hup), h.others.trans (State.othersStay_flush t p)⟩

/-- A port that goes, of a state in which it and the others stand as before. -/
theorem State.portGone.of {u : State} {state lanes : Nat} (h : u.portGone t p state lanes) (hs : s.othersStay u p) (hup : u.portUp p = s.portUp p) :
    s.portGone t p state lanes := ⟨h.state, h.lanes, h.peer, h.member, h.plan, fun hu => h.event (hup.trans hu), hs.trans h.others⟩

end

end Sys2Proof.Machine

namespace Sys2Proof.Machine

section
variable {s t : State} {who : Requester} {p : Nat}

/-! ### PORT_UP -/

/-- The registers that name a port's peer. -/
def State.peerNamed (s : State) (p party port member : Nat) (ok : Bool) : State :=
  (((s.setFld (Reg.LNK_PORT_STATUS p) 63 47 member).setFld (Reg.LNK_PORT_STATUS p) 46 42 port).setFld (Reg.LNK_PORT_STATUS p) 41 34 party).setFld
    (Reg.LNK_PORT_STATUS p) 3 3 (if ok then 1 else 0)

/-- A port whose peer is named, and whether its plan is another. -/
def State.peerKnown (s : State) (p party port member plan : Nat) (ok bad : Bool) : State :=
  (s.peerNamed p party port member ok).modLport p (fun x => { x with peerPlan := some plan, planBad := bad })

theorem State.setPeer_eq (s : State) (p party port member plan : Nat) : ∃ ok bad say, s.setPeer p party port member plan =
    (if say = true then (s.peerKnown p party port member plan ok bad).portEvent p 3 0x0705 2 (p + party % 256 * 32)
      else s.peerKnown p party port member plan ok bad).linkReady := ⟨_, _, _, rfl⟩

theorem State.status_peerNamed (s : State) (p party port member : Nat) (ok : Bool) :
    let st (hi lo : Nat) := (s.peerNamed p party port member ok).fld (Reg.LNK_PORT_STATUS p) hi lo
    st 1 0 = s.fld (Reg.LNK_PORT_STATUS p) 1 0 ∧ st 7 4 = s.fld (Reg.LNK_PORT_STATUS p) 7 4 ∧
      st 41 34 = party % 2 ^ 8 ∧ st 46 42 = port % 2 ^ 5 ∧ st 63 47 = member % 2 ^ 17 := by
  have hne {u : State} {x : Nat} (hi lo hi' lo' : Nat) (h : lo ≤ hi ∧ hi < 64 ∧ lo' ≤ hi' ∧ (hi' < lo ∨ hi < lo')) :
      (u.setFld (Reg.LNK_PORT_STATUS p) hi lo x).fld (Reg.LNK_PORT_STATUS p) hi' lo' = u.fld (Reg.LNK_PORT_STATUS p) hi' lo' :=
    State.fld_setFld_ne _ _ _ h.1 h.2.1 h.2.2.1 h.2.2.2
  unfold State.peerNamed
  dsimp only
  refine ⟨?_, ?_, ?_, ?_, ?_⟩
  · rw [hne 3 3 1 0 (by decide), hne 41 34 1 0 (by decide), hne 46 42 1 0 (by decide), hne 63 47 1 0 (by decide)]
  · rw [hne 3 3 7 4 (by decide), hne 41 34 7 4 (by decide), hne 46 42 7 4 (by decide), hne 63 47 7 4 (by decide)]
  · rw [hne 3 3 41 34 (by decide)]
    exact State.fld_setFld_self _ _ _ (by decide) (by decide)
  · rw [hne 3 3 46 42 (by decide), hne 41 34 46 42 (by decide)]
    exact State.fld_setFld_self _ _ _ (by decide) (by decide)
  · rw [hne 3 3 63 47 (by decide), hne 41 34 63 47 (by decide), hne 46 42 63 47 (by decide)]
    exact State.fld_setFld_self _ _ _ (by decide) (by decide)

theorem State.linkPorts_peerNamed (s : State) (p party port member : Nat) (ok : Bool) : (s.peerNamed p party port member ok).linkPorts = s.linkPorts := by
  simp [State.peerNamed]

theorem State.othersStay_peerKnown (s : State) (p party port member plan : Nat) (ok bad : Bool) :
    s.othersStay (s.peerKnown p party port member plan ok bad) p :=
  ((((State.othersStay_setFld s p _ _ _).trans (State.othersStay_setFld _ p _ _ _)).trans (State.othersStay_setFld _ p _ _ _)).trans
    (State.othersStay_setFld _ p _ _ _)).trans (State.othersStay_modLport _ p _)

theorem State.othersStay_setPeer (s : State) (p party port member plan : Nat) : s.othersStay (s.setPeer p party port member plan) p := by
  obtain ⟨ok, bad, say, heq⟩ := s.setPeer_eq p party port member plan
  rw [heq]
  refine State.othersStay.trans ?_ (State.othersStay_ready _ p)
  exact State.othersStay_ite ((s.othersStay_peerKnown p party port member plan ok bad).trans (State.othersStay_portEvent _ p _ _ _ _))
    (s.othersStay_peerKnown p party port member plan ok bad)

/-- What a port keeps of its peer, and what it keeps beside it. -/
theorem State.lport_setPeer (s : State) (p party port member plan : Nat) :
    ∃ bad, (s.setPeer p party port member plan).lport p = { s.lport p with peerPlan := some plan, planBad := bad } := by
  obtain ⟨ok, bad, say, heq⟩ := s.setPeer_eq p party port member plan
  refine ⟨bad, ?_⟩
  have hknown : (s.peerKnown p party port member plan ok bad).lport p = { s.lport p with peerPlan := some plan, planBad := bad } := by
    rw [State.peerKnown, State.modLport, State.lport_setLport_self, State.lport_of_linkPorts (s.linkPorts_peerNamed p party port member ok)]
  rw [heq, State.lport_of_linkPorts (State.linkPorts_linkReady _)]
  split
  · rw [State.lport_of_linkPorts (State.linkPorts_portEvent _ _ _ _ _ _), hknown]
  · exact hknown

theorem State.reg_setPeer_status (s : State) (hp : p < 18) (party port member plan : Nat) : ∃ ok,
    (s.setPeer p party port member plan).reg (Reg.LNK_PORT_STATUS p) = (s.peerNamed p party port member ok).reg (Reg.LNK_PORT_STATUS p) := by
  obtain ⟨ok, bad, say, heq⟩ := s.setPeer_eq p party port member plan
  have hlow : Reg.LNK_PORT_STATUS p < Reg.LNK_EVENT := by unfold Reg.LNK_PORT_STATUS Reg.LNK_EVENT; omega
  refine ⟨ok, ?_⟩
  have hknown : (s.peerKnown p party port member plan ok bad).reg (Reg.LNK_PORT_STATUS p) = (s.peerNamed p party port member ok).reg (Reg.LNK_PORT_STATUS p) :=
    State.reg_of_regs (State.regs_modLport _ p _) _
  rw [heq, State.reg_linkReady hlow]
  split
  · exact (State.reg_portEvent _ _ _ _ _ (hlow.trans (by decide)) (by unfold Reg.LNK_PORT_STATUS Reg.LNK_PORT_EVENT; omega)
      (by unfold Reg.LNK_PORT_STATUS Reg.LNK_PORT_EVENT_CNT; omega)).trans hknown
  · exact hknown

/-- A port that is Up, its peer not yet named. -/
def State.portRaised (s : State) (p : Nat) : State :=
  ((s.modLport p (fun x => { x with cred0 := 64, cred1 := 64, freed0 := 0, freed1 := 0, part := [], sync := true, heard := none })).setFld
    (Reg.LNK_PORT_STATUS p) 7 4 0xF).setFld (Reg.LNK_PORT_STATUS p) 1 0 2

theorem State.portGoesUp_eq (s : State) (p : Nat) : s.portGoesUp p =
    if s.fld (Reg.LNK_PORT_STATUS p) 1 0 ≤ 1 ∧ (s.portEth p ∨ (s.lport p).ctl) then
      match (s.lport p).heard with
      | some (party, port, member, plan) => ((s.portRaised p).setPeer p party port member plan).linkReady
      | none => (s.portRaised p).linkReady
    else s := rfl

theorem State.portRaised_status (s : State) (p : Nat) : (s.portRaised p).fld (Reg.LNK_PORT_STATUS p) 1 0 = 2 ∧
    (s.portRaised p).fld (Reg.LNK_PORT_STATUS p) 7 4 = 0xF := by
  refine ⟨State.fld_setFld_self _ _ _ (by decide) (by decide), ?_⟩
  rw [State.portRaised, State.fld_setFld_ne _ _ _ (by decide) (by decide) (by decide) (by decide)]
  exact State.fld_setFld_self _ _ _ (by decide) (by decide)

theorem State.portRaised_credits (s : State) (p : Nat) : ((s.portRaised p).lport p).cred0 = 64 ∧ ((s.portRaised p).lport p).cred1 = 64 := by
  have hport : (s.portRaised p).lport p = (s.modLport p (fun x =>
      { x with cred0 := 64, cred1 := 64, freed0 := 0, freed1 := 0, part := [], sync := true, heard := none })).lport p :=
    State.lport_of_linkPorts (by simp [State.portRaised]) p
  rw [hport, State.modLport, State.lport_setLport_self]
  exact ⟨rfl, rfl⟩

theorem State.othersStay_portRaised (s : State) (p : Nat) : s.othersStay (s.portRaised p) p :=
  ((State.othersStay_modLport s p _).trans (State.othersStay_setFld _ p _ _ _)).trans (State.othersStay_setFld _ p _ _ _)

/-- What a port that has come Up tells. -/
theorem State.portGoesUp_spec (hp : p < 18) (h : s.fld (Reg.LNK_PORT_STATUS p) 1 0 ≤ 1 ∧ (s.portEth p ∨ (s.lport p).ctl)) :
    let t := s.portGoesUp p
    let st (hi lo : Nat) := t.fld (Reg.LNK_PORT_STATUS p) hi lo
    st 1 0 = 2 ∧ st 7 4 = 0xF ∧ (t.lport p).cred0 = 64 ∧ (t.lport p).cred1 = 64 ∧ s.othersStay t p ∧
      ∀ party port member plan, (s.lport p).heard = some (party, port, member, plan) →
        st 41 34 = party % 2 ^ 8 ∧ st 46 42 = port % 2 ^ 5 ∧ st 63 47 = member % 2 ^ 17 ∧ (t.lport p).peerPlan = some plan := by
  have hlow : Reg.LNK_PORT_STATUS p < Reg.LNK_EVENT := by unfold Reg.LNK_PORT_STATUS Reg.LNK_EVENT; omega
  have hready (u : State) : u.linkReady.lport p = u.lport p := State.lport_of_linkPorts u.linkPorts_linkReady p
  obtain ⟨hstate, hlanes⟩ := s.portRaised_status p
  obtain ⟨hc0, hc1⟩ := s.portRaised_credits p
  dsimp only
  rw [State.portGoesUp_eq, if_pos h]
  cases hheard : (s.lport p).heard with
  | none =>
    simp only [State.fld_linkReady hlow, hready]
    exact ⟨hstate, hlanes, hc0, hc1, (s.othersStay_portRaised p).trans (State.othersStay_ready _ p), fun _ _ _ _ hx => nomatch hx⟩
  | some peer =>
    obtain ⟨party, port, member, plan⟩ := peer
    simp only [State.fld_linkReady hlow, hready]
    obtain ⟨bad, hlport⟩ := (s.portRaised p).lport_setPeer p party port member plan
    obtain ⟨ok, hreg⟩ := (s.portRaised p).reg_setPeer_status hp party port member plan
    have hfld (hi lo : Nat) := congrArg (fget · hi lo) hreg
    obtain ⟨h1, h2, h3, h4, h5⟩ := (s.portRaised p).status_peerNamed p party port member ok
    rw [hlport]
    refine ⟨(hfld 1 0).trans (h1.trans hstate), (hfld 7 4).trans (h2.trans hlanes), hc0, hc1,
      ((s.othersStay_portRaised p).trans (State.othersStay_setPeer _ p _ _ _ _)).trans (State.othersStay_ready _ p), fun _ _ _ _ hx => ?_⟩
    obtain ⟨rfl, rfl, rfl, rfl⟩ : _ ∧ _ ∧ _ ∧ _ := by simpa using hx
    exact ⟨(hfld 41 34).trans h3, (hfld 46 42).trans h4, (hfld 63 47).trans h5, rfl⟩

end

end Sys2Proof.Machine

namespace Sys2Proof.Machine

/-! ## Data and control blocks (R349 to R351) -/

section
variable {s t : State} {who : Requester} {p lane corrected : Nat} {b : List Byte} {uncorr : Bool}

theorem exec_portUp (hl : s.live) (hp : p < 18) : exec (.portUp p) s = .next (s.keep (s.portGoesUp p)) :=
  (part_true (decide_eq_true hp) _).trans (State.run_live _ hl)

theorem exec_portDown (hl : s.live) (hp : p < 18) (hlane : lane < 4) : exec (.portDown p lane) s = .next (s.keep (s.portGoesDown p lane)) :=
  (part_true (by simp [portOk, laneOk, hp, hlane]) _).trans (State.run_live _ hl)

theorem exec_dataBlock (hl : s.live) (hp : p < 18) : exec (.dataBlock p b corrected uncorr) s = .next (s.keep (s.dataBlock p b corrected uncorr)) :=
  (part_true (decide_eq_true hp) _).trans (State.run_live _ hl)

theorem exec_controlBlock (hl : s.live) (hp : p < 18) : exec (.controlBlock p b) s = .next (s.keep (s.controlBlock p b)) :=
  (part_true (decide_eq_true hp) _).trans (State.run_live _ hl)

/-- What a write of LNK_PORT_CTRL does. -/
def State.portCtrl (s : State) (p : Nat) (v : Word) : State :=
  let t := if fget v 0 0 = s.fld (Reg.LNK_PORT_CTRL p) 0 0 then s else s.portDisable p (fget v 0 0 = 1)
  if fget v 1 1 = 1 then t.portRetrain p else t

theorem exec_portCtrl (ha : s.admitted who) (hp : p < 18) (v : Word32) :
    part (s.reqExists who && portOk p) (s.run (s.regWrite who (Reg.LNK_PORT_CTRL p) (.w32 v) {})) =
      .next (s.keep ((s.setPort who {}).portCtrl p (v.zeroExtend 64))) := by
  obtain ⟨hl, hx, hheld⟩ := ha
  have hout : s.noHostReg (Reg.LNK_PORT_CTRL p) = false := s.noHostReg_out (.inl (by unfold Reg.LNK_PORT_CTRL; omega))
  rw [part_true (by simp [hx, portOk, hp]), State.run_live _ hl, State.regWrite_w32 who v {} (rowAt_portCtrl hp) hout hheld (by decide),
    effectAt_portCtrl]
  rfl

theorem State.ctrl_setPort (s : State) (who : Requester) (p : Nat) :
    (s.setPort who {}).fld (Reg.LNK_PORT_CTRL p) 0 0 = s.fld (Reg.LNK_PORT_CTRL p) 0 0 := State.fld_of_regs (State.setPort_regs _ _ _) _ _ _

/-- A retrain of an enabled port takes it down; it then trains. -/
theorem exec_retrain (ha : s.admitted who) (hp : p < 18) (h : s.fld (Reg.LNK_PORT_CTRL p) 0 0 = 0) :
    exec (.retrain who p) s = .next (s.keep ((s.setPort who {}).portLeave p 0 1).linkFlush) := by
  have hctrl := (s.ctrl_setPort who p).trans h
  show part (s.reqExists who && portOk p) (s.run (s.regWrite who (Reg.LNK_PORT_CTRL p) (.w32 (BitVec.ofNat 32 (2 + s.fld (Reg.LNK_PORT_CTRL p) 0 0))) {})) = _
  rw [exec_portCtrl ha hp, h, State.portCtrl, hctrl]
  rw [if_pos (by decide), if_pos (by decide), State.portRetrain, hctrl, if_neg (by decide)]

theorem exec_retrain_disabled (ha : s.admitted who) (hp : p < 18) (h : s.fld (Reg.LNK_PORT_CTRL p) 0 0 = 1) :
    exec (.retrain who p) s = .next (s.setPort who {}) := by
  have hctrl := (s.ctrl_setPort who p).trans h
  show part (s.reqExists who && portOk p) (s.run (s.regWrite who (Reg.LNK_PORT_CTRL p) (.w32 (BitVec.ofNat 32 (2 + s.fld (Reg.LNK_PORT_CTRL p) 0 0))) {})) = _
  rw [exec_portCtrl ha hp, h, State.portCtrl, hctrl]
  rw [if_pos (by decide), if_pos (by decide), State.portRetrain, hctrl, if_pos rfl]
  rfl

theorem exec_portDisable (ha : s.admitted who) (hp : p < 18) (h : s.fld (Reg.LNK_PORT_CTRL p) 0 0 = 0) :
    exec (.lnkPortDisable who p true) s = .next (s.keep (((s.setPort who {}).setFld (Reg.LNK_PORT_CTRL p) 0 0 1).portLeave p 0 3)) := by
  have hctrl := (s.ctrl_setPort who p).trans h
  show part (s.reqExists who && portOk p) (s.run (s.regWrite who (Reg.LNK_PORT_CTRL p) (.w32 1) {})) = _
  rw [exec_portCtrl ha hp, State.portCtrl, hctrl]
  rw [if_neg (by decide), if_neg (by decide)]
  rfl

theorem exec_portEnable (ha : s.admitted who) (hp : p < 18) (h : s.fld (Reg.LNK_PORT_CTRL p) 0 0 = 1) (hst : s.fld (Reg.LNK_PORT_STATUS p) 1 0 = 3) :
    exec (.lnkPortDisable who p false) s = .next (s.keep (((s.setPort who {}).setFld (Reg.LNK_PORT_CTRL p) 0 0 0).portLeave p 0 1).linkFlush) := by
  have hctrl := (s.ctrl_setPort who p).trans h
  have hstatus : ((s.setPort who {}).setFld (Reg.LNK_PORT_CTRL p) 0 0 0).fld (Reg.LNK_PORT_STATUS p) 1 0 = 3 :=
    (State.fld_setFld_off _ _ _ _ _ _ (by unfold Reg.LNK_PORT_STATUS Reg.LNK_PORT_CTRL; omega)).trans
      ((State.fld_of_regs (State.setPort_regs _ _ _) _ _ _).trans hst)
  show part (s.reqExists who && portOk p) (s.run (s.regWrite who (Reg.LNK_PORT_CTRL p) (.w32 0) {})) = _
  rw [exec_portCtrl ha hp, State.portCtrl, hctrl]
  rw [if_neg (by decide), if_neg (by decide), show (decide (fget (BitVec.zeroExtend 64 (0 : Word32)) 0 0 = 1)) = false from by decide, State.portDisable]
  simp only [Bool.false_eq_true, if_false, hstatus, if_true]

theorem State.keep_portLeave (s t : State) (h : t.loadView = s.loadView) (lanes state : Nat) :
    s.keep (t.portLeave p lanes state) = t.portLeave p lanes state :=
  State.keep_of_loadView ((State.loadView_portLeave _ _ _ _).trans h)

theorem State.keep_portLeave_flush (s t : State) (h : t.loadView = s.loadView) (lanes state : Nat) :
    s.keep (t.portLeave p lanes state).linkFlush = (t.portLeave p lanes state).linkFlush :=
  State.keep_of_loadView ((State.loadView_likeSent (State.likeSent_linkFlush _)).trans ((State.loadView_portLeave _ _ _ _).trans h))

theorem State.portGoesDown_up (h : s.portUp p = true) : s.portGoesDown p lane = (s.portLeave p (0xF - 2 ^ lane) 1).linkFlush := if_pos h

theorem State.portGoesDown_stays (h : s.portUp p = false) : s.portGoesDown p lane = s := if_neg (by simp [h])

theorem State.linkPorts_fecCount (s : State) (p n : Nat) (b : Bool) : (s.fecCount p n b).linkPorts = s.linkPorts := by
  unfold State.fecCount
  dsimp only
  split <;> simp

theorem State.lport_fecCount (s : State) (p n : Nat) (b : Bool) (j : Nat) : (s.fecCount p n b).lport j = s.lport j :=
  State.lport_of_linkPorts (s.linkPorts_fecCount p n b) j

@[simp] theorem State.loadView_fecCount (s : State) (p n : Nat) (b : Bool) : (s.fecCount p n b).loadView = s.loadView := by
  unfold State.fecCount
  dsimp only
  exact State.loadView_ite (by simp) (by simp)

@[simp] theorem State.loadView_rxBlock (s : State) (p n : Nat) (d : List Byte) : (s.rxBlock p n d).loadView = s.loadView := by
  simp [State.rxBlock]

@[simp] theorem State.loadView_sendControl (s : State) (p : Nat) (nak : Bool) : (s.sendControl p nak).loadView = s.loadView :=
  State.loadView_likeSent (s.likeSent_sendControlAt p nak _)

theorem State.rxSeq_rxBlock (s : State) (p n : Nat) (d : List Byte) : ((s.rxBlock p n d).lport p).rxSeq = ((s.lport p).rxSeq + 1) % 2 ^ 32 := by
  unfold State.rxBlock
  dsimp only
  rw [State.lport_of_linkPorts (State.count_linkPorts _ _ _), State.lport_setLport_self]

theorem State.dataBlock_ignored (h : s.portUp p = false ∨ s.portEth p = true) : s.dataBlock p b corrected uncorr = s := by
  unfold State.dataBlock
  rw [if_pos (by rcases h with h | h <;> simp [h])]

theorem State.dataBlock_up (hup : s.portUp p = true) (heth : s.portEth p = false) : s.dataBlock p b corrected uncorr =
    if blockGood b ∧ leAt b 0x1F6 1 ≠ 0 then s.fecCount p corrected uncorr
    else if blockGood b ∧ leAt b 0x1F0 4 = (s.lport p).rxSeq then
      ((s.fecCount p corrected uncorr).rxBlock p (leAt b 0x1F4 2) (b.take 496)).sendControl p false
    else (s.fecCount p corrected uncorr).sendControl p true := by
  unfold State.dataBlock
  rw [if_neg (by simp [hup, heth])]
  dsimp only
  rw [State.lport_fecCount]

/-! ### Control blocks -/

theorem State.likeSent_resend (p : Nat) : ∀ (l : List (Nat × List Byte)) (s : State), s.likeSent (State.resend p l s)
  | [], s => s.likeSent_refl
  | _ :: l, s => State.likeSent_trans (s.likeSent_emitData p _ _) (State.likeSent_resend p l _)

@[simp] theorem State.loadView_replayFrom (s : State) (p n : Nat) : (s.replayFrom p n).loadView = s.loadView := by
  unfold State.replayFrom
  dsimp only
  refine State.loadView_ite rfl ?_
  rw [State.loadView_raise, State.loadView_count]
  exact State.loadView_likeSent (State.likeSent_resend p _ s)

@[simp] theorem State.loadView_flushPort (s : State) (p : Nat) : (s.flushPort p).loadView = s.loadView := State.loadView_likeSent (s.likeSent_flushPort p)

@[simp] theorem State.loadView_idleControl (s : State) (p : Nat) : (s.idleControl p).loadView = s.loadView :=
  State.loadView_likeSent (s.likeSent_idleControl p)

theorem State.controlBlock_ignored (h : s.fld (Reg.LNK_PORT_STATUS p) 1 0 = 3 ∨ s.portEth p = true ∨ blockGood b = false ∨ leAt b 0x1F6 1 ≠ 1) :
    s.controlBlock p b = s := by
  refine if_pos ?_
  simpa only [Bool.not_eq_true] using h

/-- A port that an Up port's control block has told of its peer. -/
def State.toldUp (s : State) (p : Nat) (b : List Byte) : State :=
  ((s.modLport p (fun x => { x with ctl := true })).setPeer p (leAt b 0x14 1) (leAt b 0x15 1) (leAt b 0x18 4 % 2 ^ 17) (leAt b 0x20 8)).modLport p
    (fun x => { x with cred0 := x.cred0 + leAt b 6 2, cred1 := x.cred1 + leAt b 8 2 })

theorem State.controlBlock_up (hst : s.fld (Reg.LNK_PORT_STATUS p) 1 0 = 2) (heth : s.portEth p = false) (hgood : blockGood b = true)
    (hkind : leAt b 0x1F6 1 = 1) : s.controlBlock p b =
      ((if leAt b 4 1 = 1 then (s.toldUp p b).replayFrom p ((leAt b 0 4 + 1) % 2 ^ 32) else s.toldUp p b).flushPort p).idleControl p := by
  unfold State.controlBlock
  dsimp only
  rw [if_neg (by simp [hst, heth, hgood, hkind]), if_pos hst]
  simp only [hst, if_true]
  rfl

theorem mput_mput {α : Type} : ∀ (m : SMap α) (k : Nat) (x y : α), mput (mput m k x) k y = mput m k y
  | [], k, x, y => by simp [mput]
  | (j, v) :: m, k, x, y => by
    by_cases hlt : k < j
    · simp [mput, hlt]
    · by_cases heq : j = k
      · simp [mput, heq]
      · simp [mput, hlt, heq, mput_mput m k x y]

theorem mset_mset {α : Type} [DecidableEq α] {d x y : α} (m : SMap α) (k : Nat) (hx : x ≠ d) (hy : y ≠ d) :
    mset d (mset d m k x) k y = mset d m k y := by
  rw [mset, mset, mset, if_neg hx, if_neg hy, if_neg hy, mput_mput]

theorem LinkPort.ne_default {x : LinkPort} (h : x.ctl = true) : x ≠ {} := fun heq => by
  rw [heq] at h
  cases h

theorem State.modLport_modLport (s : State) (p : Nat) {f g : LinkPort → LinkPort} (hf : (f (s.lport p)).ctl = true)
    (hg : (g (f (s.lport p))).ctl = true) : (s.modLport p f).modLport p g = s.modLport p (fun x => g (f x)) := by
  have hget : (s.modLport p f).lport p = f (s.lport p) := State.lport_setLport_self s p _
  rw [State.modLport, hget]
  unfold State.modLport State.setLport
  dsimp only
  rw [mset_mset _ _ (LinkPort.ne_default hf) (LinkPort.ne_default hg)]

theorem State.controlBlock_training (hst : s.fld (Reg.LNK_PORT_STATUS p) 1 0 ≤ 1) (heth : s.portEth p = false) (hgood : blockGood b = true)
    (hkind : leAt b 0x1F6 1 = 1) : s.controlBlock p b =
      let told := some (leAt b 0x14 1, leAt b 0x15 1, leAt b 0x18 4 % 2 ^ 17, leAt b 0x20 8)
      (s.modLport p (fun x => { x with ctl := true, rxSeq := leAt b 0x1F0 4, heard := told })).idleControl p := by
  have hne : s.fld (Reg.LNK_PORT_STATUS p) 1 0 ≠ 2 := by omega
  have hne3 : s.fld (Reg.LNK_PORT_STATUS p) 1 0 ≠ 3 := by omega
  unfold State.controlBlock
  dsimp only
  rw [if_neg (by simp [hne3, heth, hgood, hkind]), if_neg hne]
  simp only [hne, if_false]
  rw [State.modLport_modLport s p rfl rfl]

/-- The words of the obligation for a port that has left its state. -/
theorem State.portGone.told {state lanes : Nat} (h : s.portGone t p state lanes) :
    t.fld (Reg.LNK_PORT_STATUS p) 1 0 = state ∧ t.fld (Reg.LNK_PORT_STATUS p) 7 4 = lanes ∧ t.fld (Reg.LNK_PORT_STATUS p) 41 34 = 0xFF ∧
      t.fld (Reg.LNK_PORT_STATUS p) 63 47 = 0 ∧ t.fld (Reg.LNK_PORT_STATUS p) 3 3 = 0 ∧
      (s.portUp p = true → t.fld (Reg.LNK_PORT_EVENT p) 0 0 = 1) ∧
      ∀ j < 18, j ≠ p → t.reg (Reg.LNK_PORT_STATUS j) = s.reg (Reg.LNK_PORT_STATUS j) ∧ (t.lport j).rxq = (s.lport j).rxq ∧
        (t.lport j).part = (s.lport j).part ∧ (t.lport j).rxSeq = (s.lport j).rxSeq ∧ (t.lport j).peerPlan = (s.lport j).peerPlan :=
  ⟨h.state, h.lanes, h.peer, h.member, h.plan, h.event, h.others.fields⟩

theorem State.othersStay_setPort (s : State) (who : Requester) (p : Nat) : s.othersStay (s.setPort who {}) p := fun _ _ _ =>
  ⟨State.reg_of_regs (State.setPort_regs _ _ _) _, congrArg LinkPort.got (State.lport_of_linkPorts (State.setPort_linkPorts _ _ _) _)⟩

theorem State.portUp_setPort (s : State) (who : Requester) (p : Nat) : (s.setPort who {}).portUp p = s.portUp p :=
  congrArg (· == 2) (State.fld_of_regs (State.setPort_regs _ _ _) _ _ _)

theorem State.othersStay_ctrl (s : State) (who : Requester) (p x : Nat) : s.othersStay ((s.setPort who {}).setFld (Reg.LNK_PORT_CTRL p) 0 0 x) p :=
  (s.othersStay_setPort who p).trans (State.othersStay_setCtrl _ p _ _ _)

theorem State.loadView_ctrl (s : State) (who : Requester) (p x : Nat) :
    ((s.setPort who {}).setFld (Reg.LNK_PORT_CTRL p) 0 0 x).loadView = s.loadView := State.loadView_setFld _ _ _ _ _

theorem State.portUp_ctrl (s : State) (who : Requester) (p x : Nat) : ((s.setPort who {}).setFld (Reg.LNK_PORT_CTRL p) 0 0 x).portUp p = s.portUp p := by
  refine Eq.trans ?_ (s.portUp_setPort who p)
  exact congrArg (· == 2) (State.fld_setFld_off _ _ _ _ _ _ (by unfold Reg.LNK_PORT_STATUS Reg.LNK_PORT_CTRL; omega))

/-- DISABLE stays as it stands when the port leaves its state. -/
theorem State.ctrl_portLeave (s : State) (hp : p < 18) (lanes state : Nat) :
    (s.portLeave p lanes state).fld (Reg.LNK_PORT_CTRL p) 0 0 = s.fld (Reg.LNK_PORT_CTRL p) 0 0 := by
  have hne : Reg.LNK_PORT_CTRL p ≠ Reg.LNK_PORT_STATUS p := by unfold Reg.LNK_PORT_STATUS Reg.LNK_PORT_CTRL; omega
  have hreg := s.reg_portLeave lanes state (o := Reg.LNK_PORT_CTRL p) (p := p) (by unfold Reg.LNK_PORT_CTRL Reg.LNK_PORT_EVENT; omega)
    (by unfold Reg.LNK_PORT_CTRL Reg.LNK_PORT_EVENT_CNT; omega) (by unfold Reg.LNK_PORT_CTRL Reg.LNK_EVENT; omega)
  rw [State.fld, hreg, ← State.fld, State.portLeft, State.fld_setFld_off _ _ _ _ _ _ hne, State.fld_setFld_off _ _ _ _ _ _ hne, State.fld_clearPort,
    State.fld_setFld_off _ _ _ _ _ _ hne, State.fld_setFld_off _ _ _ _ _ _ hne]

theorem State.keep_portGoesUp (s : State) (p : Nat) : s.keep (s.portGoesUp p) = s.portGoesUp p := by
  have hraised : (s.portRaised p).loadView = s.loadView := by simp [State.portRaised]
  refine State.keep_of_loadView ?_
  rw [State.portGoesUp_eq]
  refine State.loadView_ite ?_ rfl
  split
  · rw [State.loadView_linkReady, State.loadView_setPeer, hraised]
  · rw [State.loadView_linkReady, hraised]

end

/-- Settles O40: what a port that goes or comes writes in its status, and which blocks it takes. -/
theorem portsAndBlocks : Obligations.PortsAndBlocks := by
  unfold Obligations.PortsAndBlocks
  refine ⟨fun who p lane s hl hp hlane => ⟨fun hst h => ?up, fun h => ?upStays, fun hup => ?down, fun hup => ?downStays,
    fun ha h => ⟨?retrain, ?disable⟩, fun ha h => ⟨?held, fun hst => ?enable⟩⟩,
    fun p b corrected uncorr s hl hp => ⟨fun hup heth => ?data, fun h => ?dataIgnored, fun h => ?controlIgnored,
      fun hup heth hgood hkind => ?controlUp, fun hst heth hgood hkind => ?controlTraining⟩⟩
  case up =>
    obtain ⟨hstate, hlanes, hc0, hc1, hothers, hpeer⟩ := State.portGoesUp_spec hp ⟨hst, h⟩
    exact ⟨_, (exec_portUp hl hp).trans (congrArg _ (State.keep_portGoesUp s p)), hstate, hlanes, hc0, hc1, hothers.fields, hpeer⟩
  case upStays =>
    rw [exec_portUp hl hp, State.portGoesUp_eq, if_neg, State.keep_self]
    rintro ⟨hst, hready⟩
    rcases h with h | ⟨heth, hctl⟩
    · exact absurd (h.trans hst) (by decide)
    · simp [heth, hctl] at hready
  case down =>
    have hlanes : 0xF - 2 ^ lane < 16 := (Nat.sub_le _ _).trans_lt (by decide)
    refine ⟨_, ?_, ((State.portGone_portLeave hp hlanes (by decide)).flush).told⟩
    rw [exec_portDown hl hp hlane, State.portGoesDown_up hup, State.keep_portLeave_flush s s rfl]
  case downStays => rw [exec_portDown hl hp hlane, State.portGoesDown_stays hup, State.keep_self]
  case retrain =>
    exact ⟨_, (exec_retrain ha hp h).trans (congrArg _ (State.keep_portLeave_flush s (s.setPort who {}) rfl 0 1)),
      (((State.portGone_portLeave hp (by decide) (by decide)).flush).of (s.othersStay_setPort who p) (s.portUp_setPort who p)).told⟩
  case disable =>
    refine ⟨_, (exec_portDisable ha hp h).trans (congrArg _ (State.keep_portLeave s _ (s.loadView_ctrl who p 1) 0 3)),
      ((State.portGone_portLeave hp (by decide) (by decide)).of (s.othersStay_ctrl who p 1) (s.portUp_ctrl who p 1)).told, ?_⟩
    exact (State.ctrl_portLeave _ hp 0 3).trans (State.fld_setFld_self _ _ _ (by decide) (by decide))
  case held => exact exec_retrain_disabled ha hp h
  case enable =>
    refine ⟨_, (exec_portEnable ha hp h hst).trans (congrArg _ (State.keep_portLeave_flush s _ (s.loadView_ctrl who p 0) 0 1)),
      (((State.portGone_portLeave hp (by decide) (by decide)).flush).of (s.othersStay_ctrl who p 0) (s.portUp_ctrl who p 0)).told, ?_⟩
    refine (congrArg (fget · 0 0) (State.reg_of_likeSent (State.likeSent_linkFlush _) _)).trans ?_
    exact (State.ctrl_portLeave _ hp 0 1).trans (State.fld_setFld_self _ _ _ (by decide) (by decide))
  case data =>
    rw [exec_dataBlock hl hp, State.dataBlock_up hup heth]
    refine ⟨fun hgood hkind hseq => ?_, fun h => ?_, fun nak => ?_, fun fs d => ?_⟩
    · rw [if_neg (by simp [hkind]), if_pos ⟨hgood, hseq⟩, State.keep_of_loadView (by simp)]
    · have hbad : ¬ (blockGood b = true ∧ leAt b 0x1F6 1 ≠ 0) := by
        rcases h with h | h
        · simp [h]
        · simp [h.1]
      have hother : ¬ (blockGood b = true ∧ leAt b 0x1F0 4 = (s.lport p).rxSeq) := by
        rcases h with h | h
        · simp [h]
        · simp [h.2]
      rw [if_neg hbad, if_neg hother, State.keep_of_loadView (by simp)]
    · have hgot := (s.fecCount p corrected uncorr).sameGot_sendControl p nak p
      rw [State.lport_fecCount] at hgot
      simp only [LinkPort.got, Prod.mk.injEq] at hgot
      exact ⟨hgot.2.2.1, hgot.1⟩
    · rw [State.rxSeq_rxBlock, State.lport_fecCount]
  case dataIgnored => rw [exec_dataBlock hl hp, State.dataBlock_ignored h, State.keep_self]
  case controlIgnored => rw [exec_controlBlock hl hp, State.controlBlock_ignored h, State.keep_self]
  case controlUp =>
    have hst : s.fld (Reg.LNK_PORT_STATUS p) 1 0 = 2 := by simpa [State.portUp] using hup
    rw [exec_controlBlock hl hp, State.controlBlock_up hst heth hgood hkind, State.keep_of_loadView]
    · rfl
    · rw [State.loadView_idleControl, State.loadView_flushPort]
      exact State.loadView_ite (by simp [State.toldUp]) (by simp [State.toldUp])
  case controlTraining =>
    rw [exec_controlBlock hl hp, State.controlBlock_training hst heth hgood hkind]
    exact congrArg _ (State.keep_of_loadView (by simp))

end Sys2Proof.Machine

namespace Sys2Proof.Machine

/-! ## Frames received (R358 to R361, R365, R380, R381) -/

section
variable {s : State} {p type : Nat} {eth : List Byte} {bad : List Nat} {env : Env}

theorem run_frameIn (hl : s.live) (hp : p < 18) : part (portOk p) (s.run (s.frameIn p type eth bad env)) = .next (s.keep (s.frameIn p type eth bad env)) :=
  (part_true (decide_eq_true hp) _).trans (State.run_live _ hl)

theorem engine_frameIn (hi : s.issuing) (hp : p < 18) :
    part (portOk p) (s.engine (s.frameIn p type eth bad env)) = .next (s.keep (s.frameIn p type eth bad env)) :=
  (part_true (decide_eq_true hp) _).trans (State.engine_issuing _ hi)

/-- The commands that take a frame, by the frame's type. -/
theorem exec_frame (hi : s.issuing) (hp : p < 18) {x : Nat × Instr}
    (hx : x ∈ [(0, Instr.rsdata p eth env), (1, .agdata p eth env), (2, .tail p eth env), (3, .signalFrame p eth env), (4, .putFrame p eth env bad),
      (5, .rreq p eth env), (6, .rdata p eth env bad), (7, .ackFrame p eth env), (8, .doneFrame p eth env), (9, .hello p eth env)]) :
    exec x.2 s = .next (s.keep (s.frameIn p x.1 eth (if x.1 = 4 ∨ x.1 = 6 then bad else []) env)) := by
  simp only [List.mem_cons, List.not_mem_nil, or_false] at hx
  rcases hx with rfl | rfl | rfl | rfl | rfl | rfl | rfl | rfl | rfl | rfl
  · exact engine_frameIn hi hp
  · exact engine_frameIn hi hp
  · exact engine_frameIn hi hp
  · exact run_frameIn hi.1 hp
  · exact engine_frameIn hi hp
  · exact engine_frameIn hi hp
  · exact engine_frameIn hi hp
  · exact run_frameIn hi.1 hp
  · exact run_frameIn hi.1 hp
  · exact run_frameIn hi.1 hp

theorem State.frameIn_busy (h : s.oppBusy = true) : s.frameIn p type eth bad env = s := if_pos h

theorem State.frameIn_idle (h : s.oppBusy = false) : s.frameIn p type eth bad env =
    match ((s.etherArrive p eth).lport p).rxq with
    | f :: _ =>
      if frType f = type ∧ ¬ (s.etherArrive p eth).tokenWaits (.port p) then
        (((s.etherArrive p eth).settle (.port p) env (fun u => u.popFrame p f bad)).snapOn env).linkOn env
      else (s.etherArrive p eth).linkFlush
    | [] => (s.etherArrive p eth).linkFlush := if_neg (by simp [h])

theorem State.frameIn_takes {f : List Byte} {rest : List (List Byte)} (h : s.oppBusy = false) (hq : ((s.etherArrive p eth).lport p).rxq = f :: rest)
    (ht : frType f = type) (hw : (s.etherArrive p eth).tokenWaits (.port p) = false) : s.frameIn p type eth bad env =
      (((s.etherArrive p eth).settle (.port p) env (fun u => u.popFrame p f bad)).snapOn env).linkOn env := by
  rw [State.frameIn_idle h, hq]
  exact if_pos ⟨ht, by simp [hw]⟩

theorem State.frameIn_leaves (h : s.oppBusy = false) (hn : (s.etherArrive p eth).tokenWaits (.port p) = true ∨
    ((s.etherArrive p eth).lport p).rxq = [] ∨ ∃ f rest, ((s.etherArrive p eth).lport p).rxq = f :: rest ∧ frType f ≠ type) :
    s.frameIn p type eth bad env = (s.etherArrive p eth).linkFlush := by
  rw [State.frameIn_idle h]
  cases hq : ((s.etherArrive p eth).lport p).rxq with
  | nil => rfl
  | cons f rest =>
    refine if_neg fun ⟨ht, hfree⟩ => ?_
    rcases hn with hw | hnone | ⟨g, r, hg, hne⟩
    · exact hfree hw
    · rw [hnone] at hq; cases hq
    · rw [hq] at hg
      cases hg
      exact hne ht

end

section
variable {s : State} {p : Nat} {f : List Byte} {bad : List Nat} {e : PartyEnt}

theorem State.takeFrame_party (h : s.portParty p = some e) (ht : frType f ≠ 9) : s.takeFrame p f bad =
    if frParty f ≠ e.id ∨ (s.lport p).planBad then s
    else if frDst f = e.member then s.peerFrame e p f bad
    else (s.dispatch e (frDst f) f).1.emitPoison e.id (frSrc f) (frDst f) (frPseq f) bad := by
  unfold State.takeFrame
  rw [h]
  exact if_neg ht

/-- A frame of the port's party for this member. -/
theorem State.takeFrame_here (h : s.portParty p = some e) (ht : frType f ≠ 9) (ht7 : frType f ≠ 7) (hparty : frParty f = e.id)
    (hplan : (s.lport p).planBad = false) (hdst : frDst f = e.member) : s.takeFrame p f bad =
      if frPseq f < (s.peer e.id (frSrc f)).expect then s.modPeer e.id (frSrc f) (fun x => { x with ackDue := true })
      else if (s.peer e.id (frSrc f)).expect < frPseq f then
        s.modPeer e.id (frSrc f) (fun x => { x with early := mput x.early (frPseq f) (p, f, bad) })
      else State.deliverEarly e (frSrc f) (((s.deliver e p f bad).noteDelivered e (frSrc f)).peer e.id (frSrc f)).early.length
        ((s.deliver e p f bad).noteDelivered e (frSrc f)) := by
  rw [State.takeFrame_party h ht, if_neg (by simp [hparty, hplan]), if_pos hdst, State.peerFrame]
  dsimp only
  rw [if_neg ht7, if_neg ht]

theorem State.deliver_signal (ht : frType f = 3) : s.deliver e p f bad =
    (s.count (Reg.LNK_PORT_CNT_RXB p) (frPlen f)).anchorOp (leAt (frPayload f) 0 2 % 4096)
      (leAt (frPayload f) 2 1 == 1) (BitVec.ofNat 32 (leAt (frPayload f) 4 4)) := by
  unfold State.deliver
  rw [ht]
  rfl

theorem State.deliver_put (ht : frType f = 4) : s.deliver e p f bad = (s.count (Reg.LNK_PORT_CNT_RXB p) (frPlen f)).putIn e f bad := by
  simp only [State.deliver, ht]

theorem State.fld_rxb_putWin (s : State) (_hp : p < 18) (k n hi lo : Nat) :
    (s.count (Reg.LNK_PORT_CNT_RXB p) n).fld (Reg.LNK_PUT_WIN k) hi lo = s.fld (Reg.LNK_PUT_WIN k) hi lo :=
  congrArg (fget · hi lo) (State.reg_count_ne s n (by unfold Reg.LNK_PUT_WIN Reg.LNK_PORT_CNT_RXB; omega))

theorem State.deliver_put_at (ht : frType f = 4) (hp : p < 18) : s.deliver e p f bad =
    if s.fld (Reg.LNK_PUT_WIN e.id) 51 21 * 0x200000 ≤ frOffset f ∧ frOffset f + frPlen f ≤
        min stackedEnd (s.fld (Reg.LNK_PUT_WIN e.id) 51 21 * 0x200000 + s.fld (Reg.LNK_PUT_WIN e.id) 63 52 * 0x200000) then
      ((s.count (Reg.LNK_PORT_CNT_RXB p) (frPlen f)).writeMemP srcLink (frOffset f) (frPayload f)
        (badAt (frOffset f) (frPlen f) bad)).1.sendDone e (frSrc f) 1 0 (frPseq f) 0 0
    else (s.count (Reg.LNK_PORT_CNT_RXB p) (frPlen f)).sendDone e (frSrc f) 1 0x10 (frPseq f) (frOffset f) 0 := by
  rw [State.deliver_put ht, State.putIn]
  simp only [State.fld_rxb_putWin s hp]

end

/-- Settles O41: a command takes the oldest frame of its type, and the frame's party, destination and PSEQ say what becomes of it. -/
theorem frames : Obligations.Frames := by
  unfold Obligations.Frames
  refine ⟨fun p eth bad env s hi hp x hx => ⟨fun h f rest hq ht hw => ?takes, fun h hw => ?waits, fun h hn => ?leaves, fun h => ?busy⟩,
    fun p f bad e s hp he hparty => ⟨fun ht h => ?foreign, fun ht hid hplan => ?ours, fun ht => State.deliver_signal ht, fun ht => ?put⟩⟩
  case takes => rw [exec_frame hi hp hx, State.frameIn_takes h hq ht hw]
  case waits => rw [exec_frame hi hp hx, State.frameIn_leaves h (.inl hw)]
  case leaves => rw [exec_frame hi hp hx, State.frameIn_leaves h (.inr hn)]
  case busy => rw [exec_frame hi hp hx, State.frameIn_busy h, State.keep_self]
  case foreign => rw [State.takeFrame_party hparty ht, if_pos h]
  case ours =>
    refine ⟨fun hdst => ?_, fun hdst h7 hlt => ?_, fun hdst h7 hlt => ?_, fun hdst h7 heq hnone => ?_⟩
    · rw [State.takeFrame_party hparty ht, if_neg (by simp [hid, hplan]), if_neg hdst]
    · rw [State.takeFrame_here hparty ht h7 hid hplan hdst, if_pos hlt]
    · rw [State.takeFrame_here hparty ht h7 hid hplan hdst, if_neg (by omega), if_pos hlt]
    · rw [State.takeFrame_here hparty ht h7 hid hplan hdst, if_neg (by omega), if_neg (by omega), hnone]
      rfl
  case put =>
    rw [State.deliver_put_at ht hp]
    refine ⟨fun hlo hhi => if_pos ⟨hlo, hhi⟩, fun h => if_neg fun ⟨hlo, hhi⟩ => ?_⟩
    exact h.elim (fun h => absurd hlo (Nat.not_le.mpr h)) (fun h => absurd hhi (Nat.not_le.mpr h))

end Sys2Proof.Machine

namespace Sys2Proof.Machine

/-! ## Fields of byte strings -/

theorem ofLe_toLe : ∀ k n : Nat, ofLe (toLe k n) = n % 256 ^ k
  | 0, n => by simp [toLe, ofLe, Nat.mod_one]
  | k + 1, n => by
    have hbyte : (BitVec.ofNat 8 n).toNat = n % 256 := BitVec.toNat_ofNat ..
    rw [toLe, ofLe, ofLe_toLe k, hbyte, Nat.pow_succ', Nat.mod_mul]

theorem slice_skip {a : List Byte} {off : Nat} (r : List Byte) (k : Nat) (h : a.length ≤ off) : slice (a ++ r) off k = slice r (off - a.length) k := by
  simp only [slice, List.drop_append, List.drop_eq_nil_of_le h, List.nil_append]

theorem slice_prefix {a : List Byte} (r : List Byte) {k : Nat} (h : a.length = k) : slice (a ++ r) 0 k = a := by
  rw [slice, List.drop_zero, List.take_left' h, h, Nat.sub_self]
  exact List.append_nil a

theorem leAt_skip {m off : Nat} (y : Nat) (r : List Byte) (k : Nat) (h : m ≤ off) : leAt (toLe m y ++ r) off k = leAt r (off - m) k := by
  rw [leAt, slice_skip r k (by rw [length_toLe]; exact h), length_toLe, leAt]

theorem leAt_front (k n : Nat) (r : List Byte) : leAt (toLe k n ++ r) 0 k = n % 256 ^ k := by
  rw [leAt, slice_prefix _ (length_toLe k n), ofLe_toLe]

theorem leAt_whole (k n : Nat) : leAt (toLe k n) 0 k = n % 256 ^ k := by
  have := leAt_front k n []
  rwa [List.append_nil] at this

/-! ## The HELLO frame (R357, R359) -/

/-- The bytes of a frame's header before its check. -/
def frameHead (e : PartyEnt) (pseq plen : Nat) (f : FrameOut) : List Byte :=
  toLe 1 0x11 ++ toLe 1 f.type ++ toLe 1 e.id ++ toLe 1 f.flags ++ toLe 4 e.member ++ toLe 4 f.dst ++ toLe 2 plen
    ++ toLe 1 f.level ++ toLe 1 f.dir ++ toLe 8 pseq ++ toLe 8 f.rseq ++ toLe 8 f.offset ++ toLe 8 (planId e.plan)
    ++ toLe 4 f.rtag ++ toLe 8 0

theorem frameBytes_eq (e : PartyEnt) (pseq : Nat) (f : FrameOut) : ∃ c d, frameBytes e pseq f =
    frameHead e pseq (pad32 f.payload).length f ++ toLe 4 c ++ pad32 f.payload ++ toLe 8 d := ⟨_, _, rfl⟩

theorem length_frameHead (e : PartyEnt) (pseq plen : Nat) (f : FrameOut) : (frameHead e pseq plen f).length = 60 := by
  simp [frameHead, length_toLe]

/-- The fields of a frame's header that R359 gives HELLO. -/
theorem leAt_frameHead (e : PartyEnt) (pseq plen : Nat) (f : FrameOut) (r : List Byte) :
    let b := frameHead e pseq plen f ++ r
    leAt b 1 1 = f.type % 256 ∧ leAt b 2 1 = e.id % 256 ∧ leAt b 4 4 = e.member % 2 ^ 32 ∧ leAt b 8 4 = f.dst % 2 ^ 32 ∧ leAt b 0x0C 2 = plen % 2 ^ 16 := by
  simp only [frameHead, List.append_assoc, leAt_skip, leAt_front, Nat.reduceLeDiff, Nat.reduceSub]
  exact ⟨rfl, rfl, rfl, rfl, rfl⟩

/-- What a HELLO frame tells. -/
def helloBody (e : PartyEnt) (p : Nat) : List Byte :=
  toLe 2 0x4C52 ++ toLe 2 0x24 ++ toLe 1 e.id ++ toLe 1 p ++ toLe 2 0 ++ toLe 4 e.member ++ toLe 4 0 ++ toLe 8 (planId e.plan) ++ toLe 8 0

theorem length_helloBody (e : PartyEnt) (p : Nat) : (helloBody e p).length = 32 := by simp [helloBody, length_toLe]

theorem leAt_helloBody (e : PartyEnt) (p : Nat) : leAt (helloBody e p) 0 2 = 0x4C52 ∧ leAt (helloBody e p) 2 2 = 0x24 ∧ leAt (helloBody e p) 4 1 = e.id % 256 ∧
    leAt (helloBody e p) 5 1 = p % 256 ∧ leAt (helloBody e p) 8 4 = e.member % 2 ^ 32 ∧ leAt (helloBody e p) 0x10 8 = planId e.plan % 2 ^ 64 := by
  simp only [helloBody, List.append_assoc, leAt_skip, leAt_front, Nat.reduceLeDiff, Nat.reduceSub]
  exact ⟨rfl, rfl, rfl, rfl, rfl, rfl⟩

theorem pad32_helloBody (e : PartyEnt) (p : Nat) : pad32 (helloBody e p) = helloBody e p := by
  rw [pad32, length_helloBody]
  exact List.append_nil _

theorem helloFrame_eq (e : PartyEnt) (p : Nat) : ∃ c d, helloFrame e p =
    frameHead e 0 32 { type := 9, dst := 0x1FFFF, payload := helloBody e p } ++ (toLe 4 c ++ (helloBody e p ++ toLe 8 d)) := by
  obtain ⟨c, d, heq⟩ := frameBytes_eq e 0 { type := 9, dst := 0x1FFFF, payload := helloBody e p }
  refine ⟨c, d, heq.trans ?_⟩
  rw [pad32_helloBody, length_helloBody, List.append_assoc, List.append_assoc]

theorem frPayload_helloFrame (e : PartyEnt) (p : Nat) : frPlen (helloFrame e p) = 32 ∧ frPayload (helloFrame e p) = helloBody e p := by
  obtain ⟨c, d, heq⟩ := helloFrame_eq e p
  have hlen : frPlen (helloFrame e p) = 32 := by
    rw [heq, frPlen]
    exact (leAt_frameHead e 0 32 _ _).2.2.2.2
  refine ⟨hlen, ?_⟩
  rw [frPayload, hlen, heq, slice_skip _ _ (by rw [length_frameHead]; decide), length_frameHead, slice_skip _ _ (by rw [length_toLe]), length_toLe]
  exact slice_prefix _ (length_helloBody e p)

theorem ofLe_lt : ∀ b : List Byte, ofLe b < 256 ^ b.length
  | [] => by simp [ofLe]
  | b :: r => by
    have hr := ofLe_lt r
    have hb := b.isLt
    rw [ofLe, List.length_cons, Nat.pow_succ]
    omega

theorem leAt_lt (b : List Byte) (off k : Nat) : leAt b off k < 256 ^ k := by
  have := ofLe_lt (slice b off k)
  rwa [length_slice] at this

theorem helloFrame_fields {e : PartyEnt} {p : Nat} (hid : e.id < 4) (hp : p < 18) (hm : e.member < 2 ^ 17) :
    let f := helloFrame e p
    frType f = 9 ∧ frDst f = 0x1FFFF ∧ frParty f = e.id ∧ frSrc f = e.member ∧ frPlen f = 32 ∧
      leAt (frPayload f) 0 2 = 0x4C52 ∧ leAt (frPayload f) 2 2 = 0x24 ∧ leAt (frPayload f) 4 1 = e.id ∧ leAt (frPayload f) 5 1 = p ∧
      leAt (frPayload f) 8 4 = e.member ∧ leAt (frPayload f) 0x10 8 = planId e.plan := by
  obtain ⟨c, d, heq⟩ := helloFrame_eq e p
  obtain ⟨htype, hparty, hsrc, hdst, -⟩ := leAt_frameHead e 0 32 { type := 9, dst := 0x1FFFF, payload := helloBody e p }
    (toLe 4 c ++ (helloBody e p ++ toLe 8 d))
  rw [← heq] at htype hparty hsrc hdst
  obtain ⟨hplen, hpayload⟩ := frPayload_helloFrame e p
  obtain ⟨b0, b1, b2, b3, b4, b5⟩ := leAt_helloBody e p
  have hplan : planId e.plan < 2 ^ 64 := leAt_lt e.plan 0x20 8
  dsimp only
  rw [hpayload]
  refine ⟨htype, ?_, ?_, ?_, hplen, b0, b1, ?_, ?_, ?_, b5.trans (Nat.mod_eq_of_lt hplan)⟩
  · rw [frDst, hdst]; rfl
  · rw [frParty, hparty]; omega
  · rw [frSrc, hsrc]; omega
  · rw [b2]; omega
  · rw [b3]; omega
  · rw [b4]; omega

end Sys2Proof.Machine

namespace Sys2Proof.Machine

/-! ## The link's timers (R357, R360, R362, R371, R379) -/

section
variable {s t : State} {k m p prio : Nat} {env : Env}

/-- The HELLO frames that a port sends at the timer: one, where it is an Up Ethernet-mode port of a directly linked party. -/
def State.hellosOf (s : State) (p : Nat) : List (List Byte) :=
  match s.portParty p with
  | some e => if e.topo = 0 ∧ s.portUp p ∧ s.portEth p then [s.etherFrame e p broadcast (helloFrame e p)] else []
  | none => []

/-- What the timer does at one port. -/
def State.helloPort (s : State) (p : Nat) : State :=
  match s.portParty p with
  | some e =>
    if e.topo = 0 ∧ s.portUp p ∧ s.portEth p then
      s.modLport p (fun x => { x with waiting := x.waiting ++ [s.etherFrame e p broadcast (helloFrame e p)] })
    else s
  | none => s

theorem State.helloTimer_eq (s : State) : s.helloTimer = ((List.range 18).foldl State.helloPort s).linkFlush := rfl

/-- Nothing but the ports' own state changes. -/
def State.samePorts (s t : State) : Prop := t = { s with linkPorts := t.linkPorts }

theorem State.hellosOf_samePorts (h : s.samePorts t) (p : Nat) : t.hellosOf p = s.hellosOf p := by
  rw [h]
  rfl

theorem State.samePorts_helloPort (h : s.samePorts t) (p : Nat) : s.samePorts (t.helloPort p) := by
  have hport : t.samePorts (t.helloPort p) := by
    unfold State.helloPort
    split
    · split <;> rfl
    · rfl
  unfold State.samePorts at h hport ⊢
  rw [hport, h]

theorem State.lport_helloPort (s : State) (p j : Nat) : (s.helloPort p).lport j =
    if j = p then { s.lport p with waiting := (s.lport p).waiting ++ s.hellosOf p } else s.lport j := by
  have hstay : s.lport j = if j = p then { s.lport p with waiting := (s.lport p).waiting ++ [] } else s.lport j := by
    split
    next h => rw [h, List.append_nil]
    · rfl
  unfold State.helloPort State.hellosOf
  split
  · split
    · by_cases hj : j = p
      · rw [if_pos hj, hj]
        exact State.lport_setLport_self s p _
      · rw [if_neg hj]
        exact State.lport_setLport_ne s _ hj
    · exact hstay
  · exact hstay

/-- The ports below n after the timer has gone through them. -/
theorem State.helloPorts (s : State) : ∀ n, s.samePorts ((List.range n).foldl State.helloPort s) ∧
    ∀ j, ((List.range n).foldl State.helloPort s).lport j =
      if j < n then { s.lport j with waiting := (s.lport j).waiting ++ s.hellosOf j } else s.lport j
  | 0 => ⟨rfl, fun _ => rfl⟩
  | n + 1 => by
    obtain ⟨hsame, hports⟩ := State.helloPorts s n
    rw [List.range_succ, List.foldl_append, List.foldl_cons, List.foldl_nil]
    refine ⟨State.samePorts_helloPort hsame n, fun j => ?_⟩
    rw [State.lport_helloPort, State.hellosOf_samePorts hsame, hports, hports, if_neg (Nat.lt_irrefl n)]
    by_cases hj : j = n
    · rw [if_pos hj, if_pos (by omega), hj]
    · rw [if_neg hj]
      by_cases hlt : j < n
      · rw [if_pos hlt, if_pos (by omega)]
      · rw [if_neg hlt, if_neg (by omega)]

theorem exec_helloTimer (hl : s.live) : exec .helloTimer s = .next (s.keep s.helloTimer) := State.run_live _ hl

theorem exec_ackTimer (hl : s.live) (hk : k < 4) : exec (.ackTimer k m) s = .next (s.keep (s.ackTimer k m)) :=
  (part_true (decide_eq_true hk) _).trans (State.run_live _ hl)

theorem exec_retransmitTimer (hl : s.live) (hk : k < 4) : exec (.retransmitTimer k m) s = .next (s.keep (s.retransmit k m)) :=
  (part_true (decide_eq_true hk) _).trans (State.run_live _ hl)

theorem exec_redTimeout (hl : s.live) (hk : k < 4) (ack : Bool) (env : Env) :
    exec (.redTimeout k m ack env) s = .next (s.keep (s.redTimeout k m ack env)) :=
  (part_true (decide_eq_true hk) _).trans (State.run_live _ hl)

theorem exec_repairSourceStart (hi : s.issuing) (hk : k < 4) (env : Env) :
    exec (.repairSourceStart k env) s = .next (s.keep (s.repairStart k env)) :=
  (part_true (decide_eq_true hk) _).trans (State.engine_issuing _ hi)

theorem exec_priorityFlowControl (hl : s.live) (hp : p < 18) (pause : Bool) :
    exec (.priorityFlowControl p prio pause) s = .next (s.keep (s.flowControl p prio pause)) :=
  (part_true (decide_eq_true hp) _).trans (State.run_live _ hl)

/-- One unacknowledged frame to a peer goes again. -/
def State.sendAgain (e : PartyEnt) (m : Nat) (s : State) (x : Unacked) : State :=
  match s.dispatch e m x.bytes with
  | (t, some j) => t.count (Reg.LNK_PORT_CNT_RETX j) 1
  | (t, none) => t

theorem State.sendAgain_unrouted {e : PartyEnt} (x : Unacked) (h : s.route e m = []) : State.sendAgain e m s x = s := by
  unfold State.sendAgain State.dispatch
  rw [if_pos h]

theorem State.sendAgain_routed {e : PartyEnt} (x : Unacked) (h : s.route e m ≠ []) :
    let j := (s.route e m).getD ((s.peer e.id m).turn % (s.route e m).length) 0
    State.sendAgain e m s x = ((s.modPeer e.id m (fun y => { y with turn := (s.peer e.id m).turn + 1 })).portSend e j m x.bytes).count
      (Reg.LNK_PORT_CNT_RETX j) 1 := by
  unfold State.sendAgain State.dispatch
  rw [if_neg h]

theorem State.modPeer_turn (s : State) (k m : Nat) :
    s.modPeer k m (fun y => { y with turn := (s.peer k m).turn + 1 }) = s.modPeer k m (fun y => { y with turn := y.turn + 1 }) := rfl

theorem State.retransmit_eq {e : PartyEnt} (h : s.party? k = some e) :
    s.retransmit k m = ((s.peer k m).unacked.foldl (State.sendAgain e m) s).linkFlush := by
  unfold State.retransmit
  rw [h]
  rfl

theorem State.ackTimer_eq {e : PartyEnt} (h : s.party? k = some e) :
    s.ackTimer k m = if (s.peer k m).ackDue then (s.sendAck e m).linkFlush else s := by
  unfold State.ackTimer
  rw [h]

theorem State.redTimeout_frame {e : PartyEnt} {x : Red} (h : s.party? k = some e) (hx : (s.lparty k).red = some x)
    (hopen : ¬ (x.chunks = chunkTotal x.item ∧ x.shards = redShards x.item)) : s.redTimeout k m false env =
      let d := if m < e.members ∧ m ≠ e.member then m else 0xFFFFFFFF
      ((s.timeoutEvent k d).endRed k x stLnkTimeout d).linkOn env := by
  unfold State.redTimeout
  rw [if_neg (by decide), hx, h]
  exact if_neg hopen

theorem State.redTimeout_ack {o : Nat × Nat} (h : ((s.peer k m).unacked.filterMap Unacked.owner).head? = some o) :
    s.redTimeout k m true env = ((s.timeoutRecord k m o).snapOn env).linkOn env := by
  unfold State.redTimeout
  rw [if_pos rfl, h]

theorem State.repairStart_serves {e : PartyEnt} {x : RepairReq} {rest : List RepairReq} (h : s.party? k = some e) (hx : (s.lparty k).requests = x :: rest)
    (hs : s.insideSweep = false) : s.repairStart k env = (s.settle (.party k) env (fun u => u.sourceSend e x)).linkFlush := by
  unfold State.repairStart
  rw [h, hx]
  exact if_neg (by simp [hs])

theorem State.repairStart_waits (h : s.insideSweep = true ∨ (s.lparty k).requests = []) : s.repairStart k env = s := by
  unfold State.repairStart
  split
  next hreq => exact if_pos (h.resolve_right (by rw [hreq]; simp))
  · rfl

theorem State.flowControl_obeyed {pause : Bool} (hup : s.portUp p = true) (heth : s.portEth p = true) (hprio : prio = s.fld Reg.LNK_CFG 14 12) :
    s.flowControl p prio pause = (s.modLport p (fun x => { x with paused := pause })).flushPort p := by
  unfold State.flowControl
  rw [if_pos (by simp [hup, heth, hprio])]

theorem State.flowControl_ignored {pause : Bool} (h : s.portEth p = false ∨ prio ≠ s.fld Reg.LNK_CFG 14 12) : s.flowControl p prio pause = s := by
  unfold State.flowControl
  rw [if_neg]
  rcases h with h | h
  · simp [h]
  · simp [h]

end

/-- Settles O42: each timer finds its port, its peer or its record, or changes nothing. -/
theorem linkTimers : Obligations.LinkTimers := by
  unfold Obligations.LinkTimers
  intro k m p prio pause ack env s hi hk hp
  refine ⟨⟨(List.range 18).foldl State.helloPort s, ?_, (s.helloPorts 18).1, fun j hj hs hhs => ?_⟩, fun e j => helloFrame_fields, fun e he => ?party,
    fun o ho hack => ?ack, fun hup heth hprio => ?obeyed, fun h => ?ignored⟩
  · rw [exec_helloTimer hi.1, State.helloTimer_eq]
  · have hsent : hs = s.hellosOf j := hhs.trans (by unfold State.hellosOf; rfl)
    rw [(s.helloPorts 18).2, if_pos hj, hsent]
  case party =>
    refine ⟨fun hdue => ?_, fun hdue => ?_, ?_, fun x u => ⟨State.sendAgain_unrouted x, State.sendAgain_routed x⟩, fun x hx hack hopen => ?_,
      fun x rest hx hs => ?_, fun h => ?_⟩
    · rw [exec_ackTimer hi.1 hk, State.ackTimer_eq he, if_pos hdue]
    · rw [exec_ackTimer hi.1 hk, State.ackTimer_eq he, if_neg (by simp [hdue]), State.keep_self]
    · rw [exec_retransmitTimer hi.1 hk, State.retransmit_eq he]
      rfl
    · rw [hack, exec_redTimeout hi.1 hk, State.redTimeout_frame he hx hopen]
    · rw [exec_repairSourceStart hi hk, State.repairStart_serves he hx hs]
    · rw [exec_repairSourceStart hi hk, State.repairStart_waits h, State.keep_self]
  case ack => rw [hack, exec_redTimeout hi.1 hk, State.redTimeout_ack ho]
  case obeyed =>
    rw [exec_priorityFlowControl hi.1 hp, State.flowControl_obeyed hup heth hprio]
    exact congrArg _ (State.keep_of_loadView (State.loadView_flushPort _ _))
  case ignored => rw [exec_priorityFlowControl hi.1 hp, State.flowControl_ignored h, State.keep_self]

end Sys2Proof.Machine

namespace Sys2Proof.Machine

/-! ## Link records and LNK_PARTY_SEQ (R367, R371, R372, R378, R382) -/

section
variable {s : State} {who : Requester} {q k : Nat} {r : Fetched} {rest : List Fetched} {env : Env}

theorem runLreduce_joins {c : Ctx} {u : State} {e : PartyEnt} (hf : lreduceFormat c.item = none) (he : u.party? (redParty c.item) = some e) :
    runLreduce c u = (u.modLparty (redParty c.item) (fun x => { x with line := x.line ++ [(c.q, c.item.num)] }), .parked .turn) := by
  unfold runLreduce
  dsimp only
  rw [he, hf]
  rfl

theorem runLreduce_absent {c : Ctx} {u : State} (hf : lreduceFormat c.item = none) (hs : u.lreduceShape c.item = none)
    (he : u.party? (redParty c.item) = none) : runLreduce c u = done u stLnkParty (redParty c.item) := by
  unfold runLreduce
  dsimp only
  rw [he]
  unfold runLreduceTurn
  dsimp only
  rw [hf]
  unfold lreduceTurn
  dsimp only
  rw [hs]
  dsimp only
  rw [he]

theorem runLrepair_begins {c : Ctx} {u : State} {e : PartyEnt} (hf : lrepairFail c u = none) (he : u.party? (repParty c.item) = some e) :
    runLrepair c u = u.beginRepair e c := by
  rw [runLrepair, hf, Option.getD_none, lrepairWork, he]

theorem State.linkParties_setPhaseOf (s : State) (q num : Nat) (ph : Phase) : (s.setPhaseOf q num ph).linkParties = s.linkParties := by
  unfold State.setPhaseOf State.leave
  dsimp only
  split
  · split <;> rfl
  · rfl

theorem State.lparty_modLparty_self (s : State) (k : Nat) (f : LinkParty → LinkParty) : (s.modLparty k f).lparty k = f (s.lparty k) :=
  mget_mset_self ({} : LinkParty) s.linkParties k _

theorem done_byte (s : State) (st : Nat) {d : Nat} (h : d < 2 ^ 32) : done s st d = (s, .ended st d) := by rw [done, Nat.mod_eq_of_lt h]

theorem redParty_lt (r : Fetched) : redParty r < 2 ^ 32 := (leAt_lt r.bytes 0x30 1).trans (by decide)

theorem exec_lreduce (h : s.ready q 0x70 r rest) {w : State × Phase} (hrun : runLreduce (s.ctx q r) (s.starting q r env) = w) :
    exec (.lreduce q env) s = .next (s.keep ((s.issued q r w).linkOn env)) := by
  have hissue := State.issue_ready h env runLreduce
  obtain ⟨hi, hq, -⟩ := h
  show part (queueOk q) (s.engine ((s.issue q 0x70 env runLreduce).linkOn env)) = _
  rw [part_true (has := queueOk q) (decide_eq_true hq), State.engine_issuing _ hi, hissue, hrun]

theorem exec_lrepair (h : s.ready q 0x71 r rest) {w : State × Phase} (hrun : runLrepair (s.ctx q r) (s.starting q r env) = w) :
    exec (.lrepair q env) s = .next (s.keep (s.issued q r w).linkFlush) := by
  have hissue := State.issue_ready h env runLrepair
  obtain ⟨hi, hq, -⟩ := h
  show part (queueOk q) (s.engine ((s.issue q 0x71 env runLrepair).linkFlush)) = _
  rw [part_true (has := queueOk q) (decide_eq_true hq), State.engine_issuing _ hi, hissue, hrun]

/-! ### The end of a reduction -/

/-- A reduction that is open no longer, its RSEQ left in LNK_PARTY_SEQ. -/
def State.redClosed (s : State) (k : Nat) (x : Red) : State :=
  (s.setReg (Reg.LNK_PARTY_SEQ k) (BitVec.ofNat 64 (redSeq x.item))).setRed k none

/-- The memory that a reduction which failed leaves open. -/
def State.redOpened (s : State) (x : Red) (status : Nat) : State :=
  if status = stLnkTimeout ∨ status = stLnkMismatch then
    let s := s.openRange (redDst x.item) (redDst x.item + redCount x.item * elBytes (redG x.item))
    if redNt x.item = 0 then s else s.openRange (redNt x.item) (redNt x.item + 8 * chunkTotal x.item)
  else s

theorem State.endRed_eq (s : State) (k : Nat) (x : Red) (status detail : Nat) : s.endRed k x status detail =
    (((s.redClosed k x).redOpened x status).disown k x.q x.item.num).setPhaseOf x.q x.item.num (.ended status (detail % 2 ^ 32)) := rfl

theorem State.redOpened_frame (s : State) (x : Red) (status : Nat) : (s.redOpened x status).regs = s.regs ∧
    (s.redOpened x status).linkParties = s.linkParties := by
  unfold State.redOpened
  dsimp only
  split_ifs
  · exact ⟨rfl, rfl⟩
  · exact ⟨rfl, rfl⟩
  · exact ⟨rfl, rfl⟩

theorem State.lparty_of_linkParties {t : State} (h : t.linkParties = s.linkParties) (k : Nat) : t.lparty k = s.lparty k := by
  rw [State.lparty, h, State.lparty]

theorem State.endRed_seq (s : State) (k : Nat) (x : Red) (status detail : Nat) :
    (s.endRed k x status detail).reg (Reg.LNK_PARTY_SEQ k) = BitVec.ofNat 64 (redSeq x.item) := by
  have hregs : (s.endRed k x status detail).regs = (s.setReg (Reg.LNK_PARTY_SEQ k) (BitVec.ofNat 64 (redSeq x.item))).regs := by
    rw [State.endRed_eq, State.regs_setPhaseOf]
    exact (State.redOpened_frame _ x status).1
  rw [State.reg_of_regs hregs, State.reg_setReg_self]

theorem State.endRed_closed (s : State) (k : Nat) (x : Red) (status detail : Nat) : ((s.endRed k x status detail).lparty k).red = none := by
  rw [State.endRed_eq, State.lparty_of_linkParties (State.linkParties_setPhaseOf _ _ _ _), State.disown, State.lparty_modLparty_self]
  dsimp only
  rw [State.lparty_of_linkParties (State.redOpened_frame _ x status).2, State.redClosed, State.setRed, State.lparty_modLparty_self]

/-! ### LNK_PARTY_SEQ -/

theorem exec_partySeqWrite (ha : s.admitted who) (hk : k < 4) (v : Word) :
    exec (.lnkPartySeqWrite who k (.w64 v)) s = .next (s.keep ((s.setPort who {}).partySeqWrite k v s.quiesced)) := by
  obtain ⟨hl, hx, hheld⟩ := ha
  have hout : s.noHostReg (Reg.LNK_PARTY_SEQ k) = false := s.noHostReg_out (.inl (by unfold Reg.LNK_PARTY_SEQ; omega))
  show part (s.reqExists who && partyOk k) (s.run (s.regWrite who (Reg.LNK_PARTY_SEQ k) (.w64 v) {})) = _
  rw [part_true (by simp [hx, partyOk, hk]), State.run_live _ hl, State.regWrite_w64 who v {} (rowAt_partySeq hk) hout hheld (by decide),
    effectAt_partySeq]
  rfl

end

/-- Settles O43: a reduction joins its party's line, a repair asks its source, and LNK_PARTY_SEQ follows the reductions. -/
theorem linkRecordsIssue : Obligations.LinkRecordsIssue := by
  unfold Obligations.LinkRecordsIssue
  refine fun who q k r rest v env s => ⟨fun e h hf he => 
    exec_lreduce h (runLreduce_joins (c := s.ctx q r) (u := s.starting q r env) hf he), fun h hf he hs => ?absent,
    fun e h hf he => 
    exec_lrepair h (runLrepair_begins (c := s.ctx q r) (u := s.starting q r env) hf he), fun x st d => ⟨s.endRed_seq k x st d, s.endRed_closed k x st d⟩,
    fun ha hk => ⟨fun hq hbusy => ?taken, fun h => ?rejected⟩⟩
  case absent => exact exec_lreduce h ((runLreduce_absent (c := s.ctx q r) (u := s.starting q r env) hf hs he).trans (done_byte _ _ (redParty_lt r)))
  case taken =>
    rw [exec_partySeqWrite ha hk, State.partySeqWrite, show (s.setPort who {}).partyBusy k = s.partyBusy k from rfl, hq, hbusy]
    rfl
  case rejected =>
    rw [exec_partySeqWrite ha hk, State.partySeqWrite, show (s.setPort who {}).partyBusy k = s.partyBusy k from rfl, if_neg]
    · exact congrArg _ (State.keep_setPort_raise ..)
    · rcases h with h | h <;> simp [h]

end Sys2Proof.Machine

namespace Sys2Proof.Machine

/-! ## Host links and functions (R391, R392, R395, R405, R408, R486) -/

section
variable {s : State} {h : Nat}

theorem lt_of_hostExists (hx : s.hostExists h = true) : h < 8 := by
  unfold State.hostExists at hx
  exact of_decide_eq_true (Bool.and_eq_true_iff.mp hx).1

/-- A command of a host port, by whether the port holds its requests (R478). -/
theorem hostRun_open (hl : s.live) (hx : s.hostExists h = true) (hp : s.portHeld (.host h) = false) (t : State) (op : HeldOp) :
    part (s.hostExists h) (s.run (s.portRun t (.host h) op)) = .next (s.keep t) := by
  rw [part_true hx, State.portRun_open hp, State.run_live _ hl]

theorem hostRun_held (hl : s.live) (hx : s.hostExists h = true) (hp : s.portHeld (.host h) = true) (t : State) (op : HeldOp) :
    part (s.hostExists h) (s.run (s.portRun t (.host h) op)) = .next { s with heldOps := s.heldOps ++ [op] } := by
  rw [part_true hx, State.portRun_held hp, State.run_live _ hl]
  rfl

/-! ### Links -/

/-- A link that has trained, as its status tells. -/
def State.linkTrained (s : State) (h speed width : Nat) : State :=
  ((s.setFld (Reg.HST_HOST_STATUS h) 0 0 1).setFld (Reg.HST_HOST_STATUS h) 7 6 speed).setFld (Reg.HST_HOST_STATUS h) 11 8 width

theorem State.fullWidth_cases (s : State) (h : Nat) : s.fullWidth h = 8 ∨ s.fullWidth h = 16 := by
  unfold State.fullWidth
  split
  · exact .inl rfl
  · exact .inr rfl

theorem State.hostLinkUp_full {speed width : Nat} (hx : s.hostExists h = true) (hst : s.fld (Reg.HST_HOST_STATUS h) 0 0 = 0)
    (hfull : speed = 2 ∧ width = s.fullWidth h) : s.hostLinkUp h speed width = s.linkTrained h speed width := by
  unfold State.hostLinkUp
  dsimp only
  rw [if_pos ⟨hx, hst, .inl ⟨hfull.1, .inl hfull.2⟩⟩, if_pos hfull]
  rfl

theorem State.hostLinkUp_half {speed width : Nat} (hx : s.hostExists h = true) (hst : s.fld (Reg.HST_HOST_STATUS h) 0 0 = 0)
    (hhalf : (speed = 2 ∧ 2 * width = s.fullWidth h) ∨ (speed = 1 ∧ width = s.fullWidth h)) : s.hostLinkUp h speed width =
      ((s.linkTrained h speed width).raise (Reg.HST_HOST_EVENT h) 1 (Reg.HST_HOST_EVENT_CNT0 h) 16).post (slotHost h) 0x0803 1
        (h + width % 16 * 2 ^ 4 + speed * 2 ^ 8) := by
  have hcases := s.fullWidth_cases h
  unfold State.hostLinkUp
  dsimp only
  rw [if_pos ⟨hx, hst, hhalf.imp (fun h => ⟨h.1, .inr h.2⟩) id⟩, if_neg (by omega)]
  rfl

theorem State.hostLinkUp_stays {speed width : Nat} (hn : s.fld (Reg.HST_HOST_STATUS h) 0 0 = 1 ∨
    ¬ ((speed = 2 ∧ width = s.fullWidth h) ∨ (speed = 2 ∧ 2 * width = s.fullWidth h) ∨ (speed = 1 ∧ width = s.fullWidth h))) :
    s.hostLinkUp h speed width = s := by
  unfold State.hostLinkUp
  dsimp only
  refine if_neg fun ⟨_, hst, hok⟩ => ?_
  rcases hn with hn | hn
  · omega
  · omega

theorem State.linkTrained_status (s : State) (h : Nat) {speed : Nat} (width : Nat) (hs : speed ≤ 2) :
    let st (hi lo : Nat) := (s.linkTrained h speed width).fld (Reg.HST_HOST_STATUS h) hi lo
    st 0 0 = 1 ∧ st 7 6 = speed ∧ st 11 8 = width % 16 := by
  have hne {u : State} {x : Nat} (hi lo hi' lo' : Nat) (hd : lo ≤ hi ∧ hi < 64 ∧ lo' ≤ hi' ∧ (hi' < lo ∨ hi < lo')) :
      (u.setFld (Reg.HST_HOST_STATUS h) hi lo x).fld (Reg.HST_HOST_STATUS h) hi' lo' = u.fld (Reg.HST_HOST_STATUS h) hi' lo' :=
    State.fld_setFld_ne _ _ _ hd.1 hd.2.1 hd.2.2.1 hd.2.2.2
  unfold State.linkTrained
  dsimp only
  refine ⟨?_, ?_, State.fld_setFld_self _ _ _ (by decide) (by decide)⟩
  · rw [hne 11 8 0 0 (by decide), hne 7 6 0 0 (by decide)]
    exact State.fld_setFld_self _ _ _ (by decide) (by decide)
  · rw [hne 11 8 7 6 (by decide)]
    exact (State.fld_setFld_self _ _ _ (by decide) (by decide)).trans (by omega)

/-! ### Resets of a function -/

/-- What the end of a host's needs leaves alone. -/
def State.hostView (s : State) : SMap Word × SMap HostSt × Memory × SMap Queue × SMap Nat := (s.regs, s.hosts, s.mem, s.queues, s.bias)

theorem State.hostView_endHostNeeds (s : State) (h : Nat) : (s.endHostNeeds h).hostView = s.hostView := by
  unfold State.endHostNeeds
  refine (foldl_keeps State.hostView (fun t x => ?_) _ _).trans rfl
  split
  · split <;> rfl
  · split <;> rfl
  · rfl

/-- A function whose configuration, HDM decoder, spill setting and table are cleared. -/
def State.hostCleared (s : State) (h : Nat) : State :=
  let t := (((s.setFld (Reg.HST_HOST_STATUS h) 1 1 0).setFld (Reg.HST_HOST_STATUS h) 2 2 0).setFld (Reg.HST_HDM_BASE h) 63 28 0).setFld
    (Reg.HST_SPILL_CFG h) 0 0 0
  { t with hosts := mset {} t.hosts h {} }

/-- A link that is down, as its status tells. -/
def State.linkDown (s : State) (h : Nat) : State :=
  ((s.setFld (Reg.HST_HOST_STATUS h) 0 0 0).setFld (Reg.HST_HOST_STATUS h) 7 6 0).setFld (Reg.HST_HOST_STATUS h) 11 8 0

theorem State.hostReset_eq (s : State) (h : Nat) (down : Bool) : s.hostReset h down =
    let t := (s.hostCleared h).endHostNeeds h
    if down then
      if s.fld (Reg.HST_HOST_STATUS h) 0 0 = 1 then
        ((t.linkDown h).raise (Reg.HST_HOST_EVENT h) 0 (Reg.HST_HOST_EVENT_CNT0 h) 0).post (slotHost h) 0x0800 2 h
      else t.linkDown h
    else t := rfl

/-- What is said of a host's registers after a reset of its function. -/
structure State.regsReset (s t : State) (h : Nat) : Prop where
  enable : t.fld (Reg.HST_HOST_STATUS h) 1 1 = 0
  master : t.fld (Reg.HST_HOST_STATUS h) 2 2 = 0
  base : t.fld (Reg.HST_HDM_BASE h) 63 28 = 0
  spill : t.fld (Reg.HST_SPILL_CFG h) 0 0 = 0
  others : ∀ k, k < 8 → k ≠ h → t.reg (Reg.HST_HOST_STATUS k) = s.reg (Reg.HST_HOST_STATUS k)

theorem State.regsReset_cleared (s : State) (h : Nat) : s.regsReset (s.hostCleared h) h := by
  have hfld (o hi lo : Nat) : (s.hostCleared h).fld o hi lo = ((((s.setFld (Reg.HST_HOST_STATUS h) 1 1 0).setFld (Reg.HST_HOST_STATUS h) 2 2 0).setFld
      (Reg.HST_HDM_BASE h) 63 28 0).setFld (Reg.HST_SPILL_CFG h) 0 0 0).fld o hi lo := State.fld_of_regs (by unfold State.hostCleared; rfl) o hi lo
  have hst : Reg.HST_HOST_STATUS h ≠ Reg.HST_SPILL_CFG h ∧ Reg.HST_HOST_STATUS h ≠ Reg.HST_HDM_BASE h ∧ Reg.HST_HDM_BASE h ≠ Reg.HST_SPILL_CFG h := by
    unfold Reg.HST_HOST_STATUS Reg.HST_SPILL_CFG Reg.HST_HDM_BASE
    omega
  refine ⟨?_, ?_, ?_, ?_, fun k hk hne => ?_⟩
  · rw [hfld, State.fld_setFld_off _ _ _ _ _ _ hst.1, State.fld_setFld_off _ _ _ _ _ _ hst.2.1,
      State.fld_setFld_ne _ _ _ (by decide) (by decide) (by decide) (by decide), State.fld_setFld_self _ _ _ (by decide) (by decide),
      Nat.zero_mod]
  · rw [hfld, State.fld_setFld_off _ _ _ _ _ _ hst.1, State.fld_setFld_off _ _ _ _ _ _ hst.2.1, State.fld_setFld_self _ _ _ (by decide) (by decide),
      Nat.zero_mod]
  · rw [hfld, State.fld_setFld_off _ _ _ _ _ _ hst.2.2, State.fld_setFld_self _ _ _ (by decide) (by decide), Nat.zero_mod]
  · rw [hfld, State.fld_setFld_self _ _ _ (by decide) (by decide), Nat.zero_mod]
  · have hother : Reg.HST_HOST_STATUS k ≠ Reg.HST_HOST_STATUS h ∧ Reg.HST_HOST_STATUS k ≠ Reg.HST_SPILL_CFG h ∧
        Reg.HST_HOST_STATUS k ≠ Reg.HST_HDM_BASE h := by
      unfold Reg.HST_HOST_STATUS Reg.HST_SPILL_CFG Reg.HST_HDM_BASE
      omega
    have hregs : (s.hostCleared h).regs = ((((s.setFld (Reg.HST_HOST_STATUS h) 1 1 0).setFld (Reg.HST_HOST_STATUS h) 2 2 0).setFld
      (Reg.HST_HDM_BASE h) 63 28 0).setFld (Reg.HST_SPILL_CFG h) 0 0 0).regs := by unfold State.hostCleared; rfl
    rw [State.reg_of_regs hregs, State.reg_setFld_ne _ _ _ _ hother.2.1, State.reg_setFld_ne _ _ _ _ hother.2.2, State.reg_setFld_ne _ _ _ _ hother.1,
      State.reg_setFld_ne _ _ _ _ hother.1]

theorem State.regsReset.of_regs {t u : State} (hr : s.regsReset t h) (hu : u.regs = t.regs) : s.regsReset u h :=
  ⟨(State.fld_of_regs hu _ _ _).trans hr.enable, (State.fld_of_regs hu _ _ _).trans hr.master, (State.fld_of_regs hu _ _ _).trans hr.base,
    (State.fld_of_regs hu _ _ _).trans hr.spill, fun k hk hne => (State.reg_of_regs hu _).trans (hr.others k hk hne)⟩

theorem State.regsReset.setStatus {t : State} (hr : s.regsReset t h) {hi lo x : Nat} (hlo : lo ≤ hi) (hhi : hi < 64) (hd : hi < 1 ∨ 2 < lo) :
    s.regsReset (t.setFld (Reg.HST_HOST_STATUS h) hi lo x) h := by
  have hst : Reg.HST_SPILL_CFG h ≠ Reg.HST_HOST_STATUS h ∧ Reg.HST_HDM_BASE h ≠ Reg.HST_HOST_STATUS h := by
    unfold Reg.HST_HOST_STATUS Reg.HST_SPILL_CFG Reg.HST_HDM_BASE
    omega
  refine ⟨(State.fld_setFld_ne _ _ _ hlo hhi (by decide) (by omega)).trans hr.enable,
    (State.fld_setFld_ne _ _ _ hlo hhi (by decide) (by omega)).trans hr.master, (State.fld_setFld_off _ _ _ _ _ _ hst.2).trans hr.base,
    (State.fld_setFld_off _ _ _ _ _ _ hst.1).trans hr.spill, fun k hk hne => (State.reg_setFld_ne _ _ _ _ ?_).trans (hr.others k hk hne)⟩
  unfold Reg.HST_HOST_STATUS
  omega

theorem State.regsReset.linkDown {t : State} (hr : s.regsReset t h) : s.regsReset (t.linkDown h) h :=
  ((hr.setStatus (by decide) (by decide) (by decide)).setStatus (by decide) (by decide) (by decide)).setStatus (by decide) (by decide) (by decide)

/-- Registers of the hosts that an event of a host leaves alone. -/
theorem State.reg_hostEvent (t : State) {h o : Nat} (i lo code cls arg : Nat) (ho : o < 0xD000000) (hne : o ≠ Reg.HST_HOST_EVENT h)
    (hne' : o ≠ Reg.HST_HOST_EVENT_CNT0 h) :
    ((t.raise (Reg.HST_HOST_EVENT h) i (Reg.HST_HOST_EVENT_CNT0 h) lo).post (slotHost h) code cls arg).reg o = t.reg o := by
  rw [State.reg_post _ _ _ _ _ ho, State.reg_raise_ne _ _ _ hne hne']

theorem State.regsReset.event {t : State} (hr : s.regsReset t h) (hh : h < 8) (i lo code cls arg : Nat) :
    s.regsReset ((t.raise (Reg.HST_HOST_EVENT h) i (Reg.HST_HOST_EVENT_CNT0 h) lo).post (slotHost h) code cls arg) h := by
  have hreg (o : Nat) (ho : o < 0xD000000) (hne : o ≠ Reg.HST_HOST_EVENT h) (hne' : o ≠ Reg.HST_HOST_EVENT_CNT0 h) :=
    t.reg_hostEvent i lo code cls arg ho hne hne'
  have hst := hreg (Reg.HST_HOST_STATUS h) (by unfold Reg.HST_HOST_STATUS; omega) (by unfold Reg.HST_HOST_STATUS Reg.HST_HOST_EVENT; omega)
    (by unfold Reg.HST_HOST_STATUS Reg.HST_HOST_EVENT_CNT0; omega)
  have hbase := hreg (Reg.HST_HDM_BASE h) (by unfold Reg.HST_HDM_BASE; omega) (by unfold Reg.HST_HDM_BASE Reg.HST_HOST_EVENT; omega)
    (by unfold Reg.HST_HDM_BASE Reg.HST_HOST_EVENT_CNT0; omega)
  have hspill := hreg (Reg.HST_SPILL_CFG h) (by unfold Reg.HST_SPILL_CFG; omega) (by unfold Reg.HST_SPILL_CFG Reg.HST_HOST_EVENT; omega)
    (by unfold Reg.HST_SPILL_CFG Reg.HST_HOST_EVENT_CNT0; omega)
  refine ⟨(congrArg (fget · 1 1) hst).trans hr.enable, (congrArg (fget · 2 2) hst).trans hr.master, (congrArg (fget · 63 28) hbase).trans hr.base,
    (congrArg (fget · 0 0) hspill).trans hr.spill, fun k hk hne => (hreg _ ?_ ?_ ?_).trans (hr.others k hk hne)⟩
  · unfold Reg.HST_HOST_STATUS; omega
  · unfold Reg.HST_HOST_STATUS Reg.HST_HOST_EVENT; omega
  · unfold Reg.HST_HOST_STATUS Reg.HST_HOST_EVENT_CNT0; omega

/-- The tables, memory, queues and bias that a reset of a function leaves. -/
def State.tablesReset (s t : State) (h : Nat) : Prop :=
  t.hosts = mset {} s.hosts h {} ∧ t.mem = s.mem ∧ t.queues = s.queues ∧ t.bias = s.bias

theorem State.tablesReset_stopped (s : State) (h : Nat) : s.tablesReset ((s.hostCleared h).endHostNeeds h) h := by
  have hview := State.hostView_endHostNeeds (s.hostCleared h) h
  simp only [State.hostView, Prod.mk.injEq] at hview
  obtain ⟨-, hhosts, hmem, hqueues, hbias⟩ := hview
  refine ⟨hhosts.trans ?_, hmem.trans ?_, hqueues.trans ?_, hbias.trans ?_⟩ <;> simp [State.hostCleared]

theorem State.tablesReset_linkDown {t : State} (ht : s.tablesReset t h) : s.tablesReset (t.linkDown h) h := by
  simpa [State.tablesReset, State.linkDown] using ht

theorem State.tablesReset_event {t : State} (ht : s.tablesReset t h) (i lo code cls arg : Nat) :
    s.tablesReset ((t.raise (Reg.HST_HOST_EVENT h) i (Reg.HST_HOST_EVENT_CNT0 h) lo).post (slotHost h) code cls arg) h := by
  simpa [State.tablesReset] using ht

theorem State.regsReset_stopped (s : State) (h : Nat) : s.regsReset ((s.hostCleared h).endHostNeeds h) h := by
  have hview := State.hostView_endHostNeeds (s.hostCleared h) h
  simp only [State.hostView, Prod.mk.injEq] at hview
  exact (s.regsReset_cleared h).of_regs hview.1

theorem State.hostReset_spec (s : State) (hh : h < 8) (down : Bool) : s.regsReset (s.hostReset h down) h ∧ s.tablesReset (s.hostReset h down) h := by
  have hregs := s.regsReset_stopped h
  have htables := s.tablesReset_stopped h
  rw [State.hostReset_eq]
  dsimp only
  split
  · split
    · exact ⟨hregs.linkDown.event hh _ _ _ _ _, State.tablesReset_event (State.tablesReset_linkDown htables) _ _ _ _ _⟩
    · exact ⟨hregs.linkDown, State.tablesReset_linkDown htables⟩
  · exact ⟨hregs, htables⟩

theorem State.linkDown_status (s : State) (h : Nat) : (s.linkDown h).fld (Reg.HST_HOST_STATUS h) 0 0 = 0 := by
  unfold State.linkDown
  rw [State.fld_setFld_ne _ _ _ (by decide) (by decide) (by decide) (by decide), State.fld_setFld_ne _ _ _ (by decide) (by decide) (by decide) (by decide)]
  exact State.fld_setFld_self _ _ _ (by decide) (by decide)

theorem State.hostReset_down (s : State) (hh : h < 8) : (s.hostReset h true).fld (Reg.HST_HOST_STATUS h) 0 0 = 0 := by
  rw [State.hostReset_eq]
  dsimp only
  rw [if_pos rfl]
  split
  · refine (congrArg (fget · 0 0) (State.reg_hostEvent _ _ _ _ _ _ ?_ ?_ ?_)).trans (State.linkDown_status _ h)
    · unfold Reg.HST_HOST_STATUS; omega
    · unfold Reg.HST_HOST_STATUS Reg.HST_HOST_EVENT; omega
    · unfold Reg.HST_HOST_STATUS Reg.HST_HOST_EVENT_CNT0; omega
  · exact State.linkDown_status _ h

theorem State.fld_hostEvent (t : State) (hh : h < 8) {i : Nat} (hi : i < 64) (lo code cls arg : Nat) :
    ((t.raise (Reg.HST_HOST_EVENT h) i (Reg.HST_HOST_EVENT_CNT0 h) lo).post (slotHost h) code cls arg).fld (Reg.HST_HOST_EVENT h) i i = 1 := by
  rw [State.fld_post _ _ _ _ _ _ _ (by unfold Reg.HST_HOST_EVENT; omega)]
  exact State.fld_raise_flag _ hi (by unfold Reg.HST_HOST_EVENT Reg.HST_HOST_EVENT_CNT0; omega)

theorem State.hostReset_event (s : State) (hh : h < 8) (hup : s.fld (Reg.HST_HOST_STATUS h) 0 0 = 1) :
    (s.hostReset h true).fld (Reg.HST_HOST_EVENT h) 0 0 = 1 := by
  rw [State.hostReset_eq]
  dsimp only
  rw [if_pos rfl, if_pos hup]
  exact State.fld_hostEvent _ hh (by decide) _ _ _ _

/-- A field of two bits, by its bits. -/
theorem fget_two (v : Word) (lo : Nat) : fget v (lo + 1) lo = fget v lo lo + 2 * fget v (lo + 1) (lo + 1) := by
  simp only [fget, bits, Nat.add_sub_cancel_left, show lo + 1 + 1 - lo = 2 by omega, Nat.pow_succ, ← Nat.div_div_eq_div_mul, Nat.pow_zero]
  omega

/-! ### The decoder (R395) -/

/-- A committed HDM decoder. -/
def State.hdmSet (s : State) (h base : Nat) : State :=
  (s.setFld (Reg.HST_HDM_BASE h) 63 28 (base / 2 ^ 28)).setFld (Reg.HST_HOST_STATUS h) 1 1 1

theorem State.hdmCommit_sets {base : Nat} (hst : s.fld (Reg.HST_HOST_STATUS h) 0 0 = 1) (hb : base % 2 ^ 28 = 0) (hlt : base < 2 ^ 64) :
    s.hdmCommit h base stackedEnd 0 = s.hdmSet h base := by
  unfold State.hdmCommit
  rw [if_pos ⟨hst, hb, hlt, rfl, rfl⟩]
  rfl

theorem State.hdmCommit_stays {base size offset : Nat}
    (hn : s.fld (Reg.HST_HOST_STATUS h) 0 0 = 0 ∨ base % 2 ^ 28 ≠ 0 ∨ size ≠ stackedEnd ∨ offset ≠ 0) : s.hdmCommit h base size offset = s := by
  unfold State.hdmCommit
  refine if_neg fun ⟨hst, hb, _, hsize, hoff⟩ => ?_
  rcases hn with hn | hn | hn | hn
  · omega
  · exact hn hb
  · exact hn hsize
  · exact hn hoff

theorem State.hdmSet_base {base : Nat} (hb : base % 2 ^ 28 = 0) (hlt : base < 2 ^ 64) :
    (s.hdmSet h base).fld (Reg.HST_HDM_BASE h) 63 28 * 2 ^ 28 = base := by
  have hne : Reg.HST_HDM_BASE h ≠ Reg.HST_HOST_STATUS h := by
    unfold Reg.HST_HDM_BASE Reg.HST_HOST_STATUS
    omega
  unfold State.hdmSet
  rw [State.fld_setFld_off _ _ _ _ _ _ hne, State.fld_setFld_self _ _ _ (by decide) (by decide)]
  omega

theorem State.hdmSet_enabled {base : Nat} (hst : s.fld (Reg.HST_HOST_STATUS h) 0 0 = 1) : (s.hdmSet h base).hostEnabled h = true := by
  have hne : Reg.HST_HOST_STATUS h ≠ Reg.HST_HDM_BASE h := by
    unfold Reg.HST_HDM_BASE Reg.HST_HOST_STATUS
    omega
  have hlow : (s.hdmSet h base).fld (Reg.HST_HOST_STATUS h) 0 0 = 1 := by
    unfold State.hdmSet
    rw [State.fld_setFld_ne _ _ _ (by decide) (by decide) (by decide) (by decide), State.fld_setFld_off _ _ _ _ _ _ hne, hst]
  have hhigh : (s.hdmSet h base).fld (Reg.HST_HOST_STATUS h) 1 1 = 1 := State.fld_setFld_self _ _ _ (by decide) (by decide)
  have htwo : (s.hdmSet h base).fld (Reg.HST_HOST_STATUS h) 1 0 = 3 := by
    refine (fget_two _ 0).trans ?_
    change (s.hdmSet h base).fld (Reg.HST_HOST_STATUS h) 0 0 + 2 * (s.hdmSet h base).fld (Reg.HST_HOST_STATUS h) 1 1 = 3
    rw [hlow, hhigh]
  unfold State.hostEnabled
  rw [htwo]
  rfl

theorem State.reg_hdmSet_ne {base o : Nat} (hb : o ≠ Reg.HST_HDM_BASE h) (hst : o ≠ Reg.HST_HOST_STATUS h) : (s.hdmSet h base).reg o = s.reg o :=
  (State.reg_setFld_ne _ _ _ _ hst).trans (State.reg_setFld_ne _ _ _ _ hb)

theorem State.setFld_setFld_frame (s : State) (o hi lo x o' hi' lo' x' : Nat) :
    (s.setFld o hi lo x).setFld o' hi' lo' x' = { s with regs := ((s.setFld o hi lo x).setFld o' hi' lo' x').regs } := rfl

theorem State.hdmSet_frame (s : State) (h base : Nat) : s.hdmSet h base = { s with regs := (s.hdmSet h base).regs } :=
  s.setFld_setFld_frame _ _ _ _ _ _ _ _

theorem State.keep_hdmCommit (base size offset : Nat) : s.keep (s.hdmCommit h base size offset) = s.hdmCommit h base size offset := by
  refine State.keep_of_loadView ?_
  unfold State.hdmCommit
  split <;> simp

/-! ### BAR2 (R393, R405) -/

theorem State.bar2Word_table {vec i : Nat} (hv : vec < 2048) (hi : i < 4) :
    s.bar2Word h (16 * vec + 4 * i) = (s.msixEnt h vec).word i := by
  unfold State.bar2Word
  rw [if_pos (by omega), show (16 * vec + 4 * i) / 16 = vec by omega, show (16 * vec + 4 * i) % 16 / 4 = i by omega]

theorem MsixEnt.word_eq (e : MsixEnt) {i : Nat} (hi : i < 4) :
    e.word i = if i = 0 then e.addr % 2 ^ 32 else if i = 1 then e.addr / 2 ^ 32 else if i = 2 then e.data else if e.masked then 1 else 0 := by
  rcases i with _ | _ | _ | _ | i
  · rfl
  · rfl
  · rfl
  · rfl
  · omega

theorem State.bar2_read {vec i : Nat} (hv : vec < 2048) (hi : i < 4) :
    s.bar2 h (16 * vec + 4 * i) (.read false) = s.emit (.bar2 h (16 * vec + 4 * i) (if i = 0 then (s.msixEnt h vec).addr % 2 ^ 32 else
      if i = 1 then (s.msixEnt h vec).addr / 2 ^ 32 else if i = 2 then (s.msixEnt h vec).data else if (s.msixEnt h vec).masked then 1 else 0)) := by
  simp only [State.bar2]
  rw [State.bar2Word_table hv hi, MsixEnt.word_eq _ hi, if_neg Bool.false_ne_true, Nat.add_zero]

/-- A host's vector unmasked, with no message pending. -/
def State.msixOpened (s : State) (h vec : Nat) : State := s.setMsixEnt h vec { s.msixEnt h vec with masked := false, pend := false }

theorem MsixEnt.put_unmask (e : MsixEnt) : e.put 3 0 = { e with masked := false } := rfl

theorem State.bar2_unmask {vec : Nat} (hv : vec < 2048) : s.bar2 h (16 * vec + 12) (.write (.w32 0)) =
    if (s.msixEnt h vec).pend then (s.msixOpened h vec).sendMsix h vec else s.msixOpened h vec := by
  simp only [State.bar2]
  unfold State.bar2Put
  rw [if_pos (by omega), show (16 * vec + 12) / 16 = vec by omega, show (16 * vec + 12) % 16 / 4 = 3 by omega]
  dsimp only
  rw [show BitVec.toNat (0 : Word32) = 0 from rfl, MsixEnt.put_unmask]
  by_cases hpend : (s.msixEnt h vec).pend = true
  · rw [if_pos ⟨hpend, Bool.false_ne_true⟩, if_pos hpend]
    rfl
  · rw [if_neg (fun hc => hpend hc.1), if_neg hpend, State.msixOpened, Bool.eq_false_of_not_eq_true hpend]

theorem State.sendMsix_opened {vec : Nat} (hx : s.hostExists h = true) (hst : s.fld (Reg.HST_HOST_STATUS h) 0 0 = 1)
    (hen : s.fld (Reg.HST_HOST_STATUS h) 2 2 = 1) :
    (s.msixOpened h vec).sendMsix h vec = (s.msixOpened h vec).emit (.msix h vec (s.msixEnt h vec).addr (s.msixEnt h vec).data) := by
  have hent : mget {} (mget {} (s.msixOpened h vec).hosts h).msix vec = { s.msixEnt h vec with masked := false, pend := false } := by
    simp only [State.msixOpened, State.setMsixEnt, mget_mmod_self, mget_mset_self]
  have hcond : (s.msixOpened h vec).hostExists h = true ∧ (s.msixOpened h vec).fld (Reg.HST_HOST_STATUS h) 0 0 = 1 ∧
      (s.msixOpened h vec).fld (Reg.HST_HOST_STATUS h) 2 2 = 1 := ⟨hx, hst, hen⟩
  unfold State.sendMsix
  rw [if_pos hcond]
  dsimp only
  rw [hent]
  rfl

theorem State.keep_msixOpened (vec : Nat) : s.keep (s.msixOpened h vec) = s.msixOpened h vec := State.keep_of_loadView rfl

theorem State.keep_msixOpened_emit (vec : Nat) (o : Out) : s.keep ((s.msixOpened h vec).emit o) = (s.msixOpened h vec).emit o :=
  State.keep_of_loadView rfl

/-! ### Configuration requests (R486) -/

theorem State.configRequest_early {req : CfgReq} (hx : s.hostExists h = true) (hf : s.firmwareLoaded = false) :
    s.configRequest h req = s.emit (.cfgReply h true none) := by
  unfold State.configRequest
  rw [hx, hf]
  rfl

/-- A host's MSI-X, enabled or not. -/
def State.msixEnabled (s : State) (h : Nat) (b : Bool) : State := s.setFld (Reg.HST_HOST_STATUS h) 2 2 (if b then 1 else 0)

/-- What a configuration request that is answered writes. -/
def State.configured (s : State) (h : Nat) : CfgReq → State
  | .msixEnable b => s.msixEnabled h b
  | _ => s

theorem State.configRequest_late {req : CfgReq} (hx : s.hostExists h = true) (hf : s.firmwareLoaded = true) :
    s.configRequest h req = (s.configured h req).emit (.cfgReply h false (cfgData req)) := by
  unfold State.configRequest
  rw [hx, hf]
  cases req <;> rfl

theorem State.configured_out (req : CfgReq) : (s.configured h req).out = s.out := by
  cases req <;> rfl

theorem State.configured_loadView (req : CfgReq) : (s.configured h req).loadView = s.loadView := by
  cases req with
  | msixEnable b => exact State.loadView_setFld _ _ _ _ _
  | vendorDevice => rfl
  | classCode => rfl
  | other => rfl

theorem State.configured_other {req : CfgReq} (hreq : ∀ b, req ≠ .msixEnable b) : s.configured h req = s := by
  cases req with
  | msixEnable b => exact absurd rfl (hreq b)
  | vendorDevice => rfl
  | classCode => rfl
  | other => rfl

theorem State.msixEnabled_status (b : Bool) : (s.msixEnabled h b).fld (Reg.HST_HOST_STATUS h) 2 2 = if b then 1 else 0 := by
  refine (State.fld_setFld_self _ _ _ (by decide) (by decide)).trans ?_
  cases b <;> rfl

/-! ### The statement -/

theorem State.keep_linkTrained (speed width : Nat) : s.keep (s.linkTrained h speed width) = s.linkTrained h speed width :=
  State.keep_of_loadView (by simp [State.linkTrained])

theorem exec_hostLinkUp (hl : s.live) (hx : s.hostExists h = true) (speed width : Nat) :
    exec (.hostLinkUp h speed width) s = .next (s.keep (s.hostLinkUp h speed width)) :=
  (part_true hx _).trans (State.run_live _ hl)

theorem hostLinkUp_full (hl : s.live) (hx : s.hostExists h = true) {speed width : Nat} (hst : s.fld (Reg.HST_HOST_STATUS h) 0 0 = 0)
    (hfull : speed = 2 ∧ width = s.fullWidth h) :
    exec (.hostLinkUp h speed width) s = .next (s.linkTrained h speed width) := by
  rw [exec_hostLinkUp hl hx, State.hostLinkUp_full hx hst hfull, State.keep_linkTrained]

theorem hostLinkUp_half (hl : s.live) (hx : s.hostExists h = true) {speed width : Nat} (hst : s.fld (Reg.HST_HOST_STATUS h) 0 0 = 0)
    (hhalf : (speed = 2 ∧ 2 * width = s.fullWidth h) ∨ (speed = 1 ∧ width = s.fullWidth h)) :
    exec (.hostLinkUp h speed width) s = .next (((s.linkTrained h speed width).raise (Reg.HST_HOST_EVENT h) 1 (Reg.HST_HOST_EVENT_CNT0 h) 16).post
      (slotHost h) 0x0803 1 (h + width % 16 * 2 ^ 4 + speed * 2 ^ 8)) := by
  rw [exec_hostLinkUp hl hx, State.hostLinkUp_half hx hst hhalf]
  refine congrArg _ (State.keep_of_loadView ?_)
  simp [State.linkTrained]

theorem State.linkTrained_frame (s : State) (h speed width : Nat) : s.linkTrained h speed width = { s with regs := (s.linkTrained h speed width).regs } ∧
    ∀ o, o ≠ Reg.HST_HOST_STATUS h → (s.linkTrained h speed width).reg o = s.reg o :=
  ⟨rfl, fun _ ho => (State.reg_setFld_ne _ _ _ _ ho).trans ((State.reg_setFld_ne _ _ _ _ ho).trans (State.reg_setFld_ne _ _ _ _ ho))⟩

theorem exec_hdmCommit (hl : s.live) (hx : s.hostExists h = true) (hp : s.portHeld (.host h) = false) (base size offset : Nat) :
    exec (.hdmCommit h base size offset) s = .next (s.hdmCommit h base size offset) :=
  (hostRun_open hl hx hp _ _).trans (congrArg _ (State.keep_hdmCommit base size offset))

theorem exec_msixUnmask (hl : s.live) (hx : s.hostExists h = true) (hp : s.portHeld (.host h) = false) {off : Nat} {acc : Bar2Acc}
    (hok : bar2Ok off acc = true) : exec (.msixUnmask h off acc) s = .next (s.keep (s.bar2 h off acc)) := by
  have hboth : (s.hostExists h && bar2Ok off acc) = true := by rw [hx, hok]; rfl
  refine (part_true hboth _).trans ?_
  rw [State.portRun_open hp, State.run_live _ hl]

theorem exec_msixUnmask_held (hl : s.live) (hx : s.hostExists h = true) (hp : s.portHeld (.host h) = true) {off : Nat} {acc : Bar2Acc}
    (hok : bar2Ok off acc = true) : exec (.msixUnmask h off acc) s = .next { s with heldOps := s.heldOps ++ [.bar2 h off acc] } := by
  have hboth : (s.hostExists h && bar2Ok off acc) = true := by rw [hx, hok]; rfl
  refine (part_true hboth _).trans ?_
  rw [State.portRun_held hp, State.run_live _ hl]
  rfl

theorem bar2Ok_unmask {vec : Nat} (hv : vec < 2048) : bar2Ok (16 * vec + 12) (.write (.w32 0)) = true := by
  have hmod : (16 * vec + 12) % 4 = 0 := by omega
  simp only [bar2Ok, hmod, Bool.and_eq_true, decide_eq_true_eq]
  exact ⟨by omega, rfl⟩

theorem exec_ccHung {cc : Nat} (hl : s.live) (hcc : cc < 16) (hbusy : s.oppBusy = false) (hrun : s.fld (Reg.HST_CC_STATUS cc) 32 32 = 1)
    (hup : s.fld Reg.SIO_STATUS 0 0 = 1) :
    exec (.ccHung cc) s = .next ((s.setFld (Reg.HST_CC_STATUS cc) 32 32 0).post slotSiolo 0x0807 3 cc) := by
  refine (part_true (by simp [ccOk, hcc]) _).trans ?_
  rw [State.run_live _ hl, State.unpaused, if_neg (by simp [hbusy]), State.ccHung, if_pos ⟨hrun, hup⟩]
  exact congrArg _ (State.keep_of_loadView (by simp))

theorem exec_configRequest (hl : s.live) (hx : s.hostExists h = true) (hp : s.portHeld (.host h) = false) (req : CfgReq) :
    exec (.configurationRequest h req) s = .next (s.keep (s.configRequest h req)) := hostRun_open hl hx hp _ _

end

/-- Settles O44: links and functions by the laws above, accesses by whether the port holds them. -/
theorem hostsComeAndGo : Obligations.HostsComeAndGo := by
  unfold Obligations.HostsComeAndGo
  intro h speed width base size offset cc vec off down req acc env s hl hx
  have hh := lt_of_hostExists hx
  obtain ⟨hregs, hhosts, hmem, hqueues, hbias⟩ := s.hostReset_spec hh down
  dsimp only
  refine ⟨⟨?_, ?_, (part_true hx _).trans (State.run_live _ hl), ?_, ?_, ?_, fun hcc => exec_ccHung hl hcc, ?_, ?_⟩, ?_, ?_, ?_⟩
  · intro hst hok
    rcases hok with hfull | hhalf
    · have hstatus := s.linkTrained_status h width (show speed ≤ 2 by omega)
      refine ⟨_, hostLinkUp_full hl hx hst hfull, hstatus.1, hstatus.2.1, hstatus.2.2, rfl, rfl, rfl, fun _ => s.linkTrained_frame h speed width, ?_⟩
      have hcases := s.fullWidth_cases h
      omega
    · have hstatus := s.linkTrained_status h width (show speed ≤ 2 by omega)
      have hcases := s.fullWidth_cases h
      have hreg := (s.linkTrained h speed width).reg_hostEvent (h := h) (o := Reg.HST_HOST_STATUS h) 1 16 0x0803 1 (h + width % 16 * 2 ^ 4 + speed * 2 ^ 8)
        (by unfold Reg.HST_HOST_STATUS; omega) (by unfold Reg.HST_HOST_STATUS Reg.HST_HOST_EVENT; omega)
        (by unfold Reg.HST_HOST_STATUS Reg.HST_HOST_EVENT_CNT0; omega)
      refine ⟨_, hostLinkUp_half hl hx hst hhalf, (congrArg (fget · 0 0) hreg).trans hstatus.1, (congrArg (fget · 7 6) hreg).trans hstatus.2.1,
        (congrArg (fget · 11 8) hreg).trans hstatus.2.2, ?_, ?_, ?_, fun hfull => ?_, fun _ => State.fld_hostEvent _ hh (by decide) _ _ _ _⟩
      · simp [State.linkTrained]
      · simp [State.linkTrained]
      · simp [State.linkTrained]
      · omega
  · intro hn
    rw [exec_hostLinkUp hl hx, State.hostLinkUp_stays (by tauto), State.keep_self]
  · have hstatus := fget_two ((s.hostReset h down).reg (Reg.HST_HOST_STATUS h)) 1
    have htwo : (s.hostReset h down).fld (Reg.HST_HOST_STATUS h) 2 1 = 0 := by
      have henable : fget ((s.hostReset h down).reg (Reg.HST_HOST_STATUS h)) 1 1 = 0 := hregs.enable
      have hmaster : fget ((s.hostReset h down).reg (Reg.HST_HOST_STATUS h)) (1 + 1) (1 + 1) = 0 := hregs.master
      rw [henable, hmaster] at hstatus
      exact hstatus
    refine ⟨htwo, hregs.base, hregs.spill, ?_, fun k hk hne => ⟨?_, hregs.others k hk hne⟩, hmem, hqueues, hbias, ?_, ?_⟩
    · rw [hhosts, mget_mset_self]
    · rw [hhosts, mget_mset_ne _ _ _ hne]
    · rintro rfl
      exact s.hostReset_down hh
    · rintro rfl hup
      exact s.hostReset_event hh hup
  · intro hp hst hb hlt
    refine ⟨s.hdmSet h base, ?_, ?_, State.hdmSet_enabled hst, State.hdmSet_frame s h base, fun o => State.reg_hdmSet_ne⟩
    · rw [exec_hdmCommit hl hx hp, State.hdmCommit_sets hst hb hlt]
    · exact State.hdmSet_base hb hlt
  · intro hp hn
    rw [exec_hdmCommit hl hx hp, State.hdmCommit_stays hn]
  · exact fun hp => exec_msixUnmask hl hx hp
  · intro hp hv
    have hunmask := exec_msixUnmask hl hx hp (bar2Ok_unmask hv)
    rw [State.bar2_unmask hv] at hunmask
    refine ⟨fun i hi => State.bar2_read hv hi, fun hpend => ?_, fun hpend hst hen => ?_⟩
    · rw [hunmask, if_neg (by simp [hpend]), State.keep_msixOpened]
      rfl
    · rw [hunmask, if_pos hpend, State.sendMsix_opened hx hst hen, State.keep_msixOpened_emit]
      rfl
  · intro hp
    have hheld : s.portHeld (.host h) = true := Bool.eq_true_of_not_eq_false hp
    exact ⟨hostRun_held hl hx hheld _ _, hostRun_held hl hx hheld _ _, exec_msixUnmask_held hl hx hheld⟩
  · intro hp hf
    rw [exec_configRequest hl hx hp, State.configRequest_early hx hf]
    exact congrArg _ (State.keep_of_loadView rfl)
  · intro hp hf
    refine ⟨(s.configured h req).emit (.cfgReply h false (cfgData req)), ?_, ?_, ?_, fun hreq => ?_⟩
    · rw [exec_configRequest hl hx hp, State.configRequest_late hx hf]
      exact congrArg _ (State.keep_of_loadView (State.configured_loadView req))
    · change (s.configured h req).out ++ _ = _
      rw [State.configured_out]
    · rintro b rfl
      exact State.msixEnabled_status b
    · rw [State.configured_other hreq]

end Sys2Proof.Machine

namespace Sys2Proof.Machine

/-! ## Accesses by hosts (R113, R390, R394–R396, R401, R404) -/

section
variable {s : State} {h : Nat}

/-! ### The window of a host -/

theorem State.hdmAddr_disabled (hd : s.hostEnabled h = false) (hpa : Nat) : s.hdmAddr h hpa = none :=
  if_neg fun hc => Bool.false_ne_true (hd.symm.trans hc.1)

theorem State.hdmAddr_window (he : s.hostEnabled h = true) {o : Nat} (ho : o < stackedEnd) :
    s.hdmAddr h (s.fld (Reg.HST_HDM_BASE h) 63 28 * 2 ^ 28 + o) = some o := by
  unfold State.hdmAddr
  dsimp only
  rw [if_pos ⟨he, Nat.le_add_right _ _, by rwa [Nat.add_sub_cancel_left]⟩, Nat.add_sub_cancel_left]

theorem State.hostRead_outside {hpa : Nat} (hn : s.hdmAddr h hpa = none) (env : Env) : s.hostRead h hpa env = s := by
  unfold State.hostRead
  rw [hn]

theorem State.hostWrite_outside {hpa : Nat} (hn : s.hdmAddr h hpa = none) (b : List Byte) (env : Env) : s.hostWrite h hpa b env = s := by
  unfold State.hostWrite
  rw [hn]

theorem State.hostRead_flush {hpa o q : Nat} (ho : s.hdmAddr h hpa = some o) (hq : s.flushQueue (o / 64 * 64) = some q) (env : Env) :
    s.hostRead h hpa env = s.emit (.hostRead h (o / 64 * 64) (toLe 4 (s.queue q).flushCount ++ List.replicate 60 0) []) := by
  simp only [State.hostRead, ho, hq]
  rfl

theorem State.hostWrite_flush {hpa o q : Nat} (ho : s.hdmAddr h hpa = some o) (hq : s.flushQueue (o / 64 * 64) = some q) (b : List Byte)
    (env : Env) : s.hostWrite h hpa b env = s.emit (.hostWrote h o) := by
  simp only [State.hostWrite, ho, hq]

theorem State.hostRead_memory {hpa o : Nat} (ho : s.hdmAddr h hpa = some o) (hq : s.flushQueue (o / 64 * 64) = none) (env : Env) :
    s.hostRead h hpa env = s.hostAccess ⟨.host s.free, h, o / 64 * 64, none, env⟩ := by
  simp only [State.hostRead, ho, hq]

theorem State.hostWrite_memory {hpa o : Nat} (ho : s.hdmAddr h hpa = some o) (hq : s.flushQueue (o / 64 * 64) = none) (b : List Byte)
    (env : Env) : s.hostWrite h hpa b env = s.hostAccess ⟨.host s.free, h, o, some (b.take (64 - o % 64)), env⟩ := by
  simp only [State.hostWrite, ho, hq]

theorem State.keep_emit (o : Out) : s.keep (s.emit o) = s.emit o := State.keep_of_loadView rfl

/-! ### Bias, and turns -/

/-- A page that its first access has made SHARED, counted at its host. -/
def State.flipped (s : State) (h a : Nat) : State :=
  { (({ s with free := s.free + 1 } : State).count (Reg.HST_CNT_FLIP h) 1) with bias := mset 0 s.bias (a / 0x200000) 1 }

theorem State.flipBias_device {a : Nat} (hb : s.biasOf a = 0) :
    ({ s with free := s.free + 1 } : State).flipBias h a = s.flipped h a := by
  have hb' : ({ s with free := s.free + 1 } : State).biasOf a = 0 := hb
  simp only [State.flipBias, hb']
  rfl

theorem State.flipped_bias (s : State) (h a : Nat) : (s.flipped h a).biasOf a = 1 :=
  mget_mset_self 0 s.bias (a / 0x200000) 1

theorem State.flipped_count (s : State) (h a : Nat) : (s.flipped h a).reg (Reg.HST_CNT_FLIP h) = s.reg (Reg.HST_CNT_FLIP h) + 1 :=
  (State.reg_of_regs (s := ({ s with free := s.free + 1 } : State).count (Reg.HST_CNT_FLIP h) 1) (by unfold State.flipped; rfl) _).trans
    (State.reg_count_self _ _ 1)

theorem State.hostAccess_flips {x : HostAcc} (hb : s.biasOf x.addr = 0) (hm : s.memHold = false)
    (hheld : ∀ y ∈ s.hostHeld, y.host = x.host → y.addr / 64 ≠ x.addr / 64) : s.hostAccess x = (s.flipped x.host x.addr).serveHost x := by
  have hany : (s.hostHeld.any fun y => y.host == x.host && y.addr / 64 == x.addr / 64) = false := by
    simpa using hheld
  have hwaits : (s.flipped x.host x.addr).hostWaits x = false := by
    have hm' : (s.flipped x.host x.addr).memHold = false := hm
    have hany' : ((s.flipped x.host x.addr).hostHeld.any fun y => y.host == x.host && y.addr / 64 == x.addr / 64) = false := hany
    unfold State.hostWaits
    rw [hm', hany', State.flipped_bias]
    rfl
  unfold State.hostAccess
  rw [State.flipBias_device hb, State.hostTurn, if_neg (by simp [hwaits])]

/-- What the first access of a page leaves alone. -/
def State.accessView (s : State) : List HostAcc × List Out × Memory := (s.hostHeld, s.out, s.mem)

theorem State.flipBias_accessView (s : State) (h a : Nat) : (s.flipBias h a).accessView = s.accessView := by
  unfold State.flipBias
  dsimp only
  split <;> rfl

theorem State.flipBias_recall {a : Nat} (hb : s.biasOf a = 2) : (s.flipBias h a).biasOf a = 2 := by
  have hkeep : s.flipBias h a = { s with biasOp := s.biasOp.map (fun b => if b.page = a / 0x200000 then { b with accessed := true } else b) } := by
    simp only [State.flipBias, hb]
  rw [hkeep]
  exact hb

theorem State.hostAccess_waits {x : HostAcc}
    (hw : s.biasOf x.addr = 2 ∨ ∃ y ∈ s.hostHeld, y.host = x.host ∧ y.addr / 64 = x.addr / 64) :
    (s.hostAccess x).hostHeld = s.hostHeld ++ [x] ∧ (s.hostAccess x).out = s.out ∧ (s.hostAccess x).mem = s.mem := by
  have hview := State.flipBias_accessView { s with free := s.free + 1 } x.host x.addr
  simp only [State.accessView, Prod.mk.injEq] at hview
  obtain ⟨hheld, hout, hmem⟩ := hview
  have hwaits : (({ s with free := s.free + 1 } : State).flipBias x.host x.addr).hostWaits x = true := by
    unfold State.hostWaits
    rcases hw with hw | ⟨y, hy, hhost, haddr⟩
    · have hrec := State.flipBias_recall (s := { s with free := s.free + 1 }) (h := x.host) (a := x.addr) hw
      simp [hrec]
    · have hany : (({ s with free := s.free + 1 } : State).flipBias x.host x.addr).hostHeld.any
          (fun y => y.host == x.host && y.addr / 64 == x.addr / 64) = true := by
        rw [hheld, List.any_eq_true]
        exact ⟨y, hy, by simp [hhost, haddr]⟩
      simp [hany]
  unfold State.hostAccess State.hostTurn
  rw [if_pos hwaits]
  exact ⟨congrArg (· ++ [x]) hheld, hout, hmem⟩

theorem State.serveHost_read {x : HostAcc} (hw : x.write = none)
    (hn : (({ s with env := x.env, token := x.tok, needs := [] } : State).readMem (srcHost x.host) x.addr 64).1.needs = []) :
    s.serveHost x = ((({ s with env := x.env, token := x.tok, needs := [] } : State).readMem (srcHost x.host) x.addr 64).1.emit
      (.hostRead x.host x.addr (({ s with env := x.env, token := x.tok, needs := [] } : State).readMem (srcHost x.host) x.addr 64).2.bytes
        (({ s with env := x.env, token := x.tok, needs := [] } : State).readMem (srcHost x.host) x.addr 64).2.bad)).closeTok x.tok := by
  simp only [State.serveHost, hw]
  exact if_pos hn

/-! ### The window on local memory (R394) -/

theorem State.bar4_unsupported {off len : Nat} (hbad : len < 4 ∨ 256 < len ∨ off / 256 ≠ (off + len - 1) / 256) (w : Option (List Byte)) :
    s.bar4 h off len w = s.emit (.unsupported h off) :=
  if_pos (hbad.imp id (Or.imp id Or.inl))

theorem State.bar4_fits {off len : Nat} (hlo : 4 ≤ len) (hhi : len ≤ 256) (hline : off / 256 = (off + len - 1) / 256) (hend : off + len ≤ 2 ^ 32) :
    ¬ (len < 4 ∨ 256 < len ∨ off / 256 ≠ (off + len - 1) / 256 ∨ off + len > 2 ^ 32) := by omega

section
variable {off len : Nat} (hok : ¬ (len < 4 ∨ 256 < len ∨ off / 256 ≠ (off + len - 1) / 256 ∨ off + len > 2 ^ 32))
include hok

theorem State.bar4_hole {a : Nat} (ha : s.rangeBad (bar4Addr off) len = some a) (w : Option (List Byte)) : s.bar4 h off len w =
    match w with
    | none => (s.rangeErr (srcHost h) a).emit (.hostRead h off (List.replicate len 0) [])
    | some _ => s.rangeErr (srcHost h) a := by
  unfold State.bar4
  dsimp only
  rw [if_neg hok, ha, if_pos (by rfl)]
  rfl

theorem State.bar4_read (ha : s.rangeBad (bar4Addr off) len = none) : s.bar4 h off len none =
    (s.readMem (srcHost h) (bar4Addr off) len).1.emit (.hostRead h off (s.readMem (srcHost h) (bar4Addr off) len).2.bytes
      (s.readMem (srcHost h) (bar4Addr off) len).2.bad) := by
  unfold State.bar4
  dsimp only
  rw [if_neg hok, ha, if_neg (by simp)]

theorem State.bar4_write (ha : s.rangeBad (bar4Addr off) len = none) {b : List Byte} (hb : b.length = len) :
    s.bar4 h off len (some b) = (s.writeMem (srcHost h) (bar4Addr off) b).1 := by
  unfold State.bar4
  dsimp only
  rw [if_neg hok, ha, if_neg (by simp), slice_of_le (by omega), List.drop_zero, ← hb, List.take_length]

end

end

/-- Settles O45: each request by whether its port holds it, and its effect by the laws above. -/
theorem hostAccesses : Obligations.HostAccesses := by
  unfold Obligations.HostAccesses
  intro h hpa off len line b w x env s hl hx
  dsimp only
  refine ⟨fun hp => ?_, fun hp hn => ?_, fun hd => State.hdmAddr_disabled hd hpa, fun o he ho => State.hdmAddr_window he ho, fun o hp ho => ⟨?_, ?_⟩,
    fun hb hm hheld => ⟨State.hostAccess_flips hb hm hheld, s.flipped_bias _ _, s.flipped_count _ _, rfl⟩, State.hostAccess_waits,
    State.serveHost_read, fun hp => hostRun_open hl hx hp _ _, fun hbad => State.bar4_unsupported hbad w, fun hlo hhi hline hend => ?_, fun hp => ?_⟩
  · have hheld : s.portHeld (.host h) = true := Bool.eq_true_of_not_eq_false hp
    exact ⟨hostRun_held hl hx hheld _ _, hostRun_held hl hx hheld _ _, hostRun_held hl hx hheld _ _, hostRun_held hl hx hheld _ _,
      hostRun_held hl hx hheld _ _⟩
  · refine ⟨(hostRun_open hl hx hp _ _).trans ?_, (hostRun_open hl hx hp _ _).trans ?_⟩
    · rw [State.hostRead_outside hn, State.keep_self]
    · rw [State.hostWrite_outside hn, State.keep_self]
  · intro q hq
    refine ⟨(hostRun_open hl hx hp _ _).trans ?_, (hostRun_open hl hx hp _ _).trans ?_⟩
    · rw [State.hostRead_flush ho hq, State.keep_emit]
    · rw [State.hostWrite_flush ho hq, State.keep_emit]
  · intro hq
    refine ⟨(hostRun_open hl hx hp _ _).trans ?_, (hostRun_open hl hx hp _ _).trans ?_⟩
    · rw [State.hostRead_memory ho hq]
    · rw [State.hostWrite_memory ho hq]
  · have hok := State.bar4_fits hlo hhi hline hend
    exact ⟨fun a ha => ⟨State.bar4_hole hok ha none, State.bar4_hole hok ha (some b)⟩,
      fun ha => ⟨State.bar4_read hok ha, State.bar4_write hok ha⟩⟩
  · exact (hostRun_open hl hx hp _ _).trans (congrArg _ (State.keep_emit _))

end Sys2Proof.Machine

namespace Sys2Proof.Machine

/-! ## Answers of hosts, spill windows and bias operations (R397, R398, R402–R404) -/

section
variable {s : State} {h line : Nat}

/-! ### Snoops and spill requests -/

theorem State.snoopResponse_waiting {x : Tok × Need} {inv : Bool} (hx : s.waiting (isSnoop h line inv) = some x) (dirty : Option (List Byte))
    (env : Env) : s.snoopResponse h line inv dirty env = ((s.dirtyBack h line (dirty.getD []) env).answer x .clean).wake env := by
  unfold State.snoopResponse
  rw [hx]

theorem State.snoopTimeout_waiting {x : Tok × Need} {inv : Bool} (hx : s.waiting (isSnoop h line inv) = some x) (env : Env) :
    s.snoopTimeout h line inv env = ((s.snoopLate h line).answer x .clean).wake env := by
  unfold State.snoopTimeout
  rw [hx]

theorem State.snoopResponse_other {inv : Bool} (hx : s.waiting (isSnoop h line inv) = none) (dirty : Option (List Byte)) (env : Env) :
    s.snoopResponse h line inv dirty env = if s.recallWaits h line then s.recallAnswer h line (dirty.getD []) env else s := by
  unfold State.snoopResponse
  rw [hx]

theorem State.snoopTimeout_other {inv : Bool} (hx : s.waiting (isSnoop h line inv) = none) (env : Env) :
    s.snoopTimeout h line inv env = if s.recallWaits h line then (s.snoopLate h line).recallAnswer h line [] env else s := by
  unfold State.snoopTimeout
  rw [hx]

theorem State.snoopLate_event (hh : h < 8) : (s.snoopLate h line).fld (Reg.HST_HOST_EVENT h) 4 4 = 1 := by
  unfold State.snoopLate
  rw [State.fld_post _ _ _ _ _ _ _ (by unfold Reg.HST_HOST_EVENT; omega)]
  exact State.fld_raise_flag _ (by decide) (by unfold Reg.HST_HOST_EVENT Reg.HST_HOST_EVENT_CNT1; omega)

theorem State.dirtyBack_nil (env : Env) : s.dirtyBack h line [] env = { s with env := {} } := by
  unfold State.dirtyBack State.writeBack
  dsimp only
  rw [if_pos List.take_nil]

theorem State.spillCompletion_none (hx : s.waiting (isSpill line) = none) (data : Option (List Byte)) (env : Env) :
    s.spillCompletion line data env = s := by
  unfold State.spillCompletion
  rw [hx]

theorem State.spillTimeout_none (hx : s.waiting (isSpill line) = none) (env : Env) : s.spillTimeout line env = s := by
  unfold State.spillTimeout
  rw [hx]

theorem State.spillCompletion_data {x : Tok × Need} (hx : s.waiting (isSpill line) = some x) (d : List Byte) (env : Env) :
    s.spillCompletion line (some d) env = (s.answer x (.data d)).wake env := by
  unfold State.spillCompletion
  rw [hx]

theorem State.spillCompletion_error {x : Tok × Need} (hx : s.waiting (isSpill line) = some x) (env : Env) :
    s.spillCompletion line none env = ((s.spillEvent ((line - spillBase 0) / 0x10000000000) line true).answer x .error).wake env := by
  unfold State.spillCompletion
  rw [hx]

theorem State.spillTimeout_late {x : Tok × Need} (hx : s.waiting (isSpill line) = some x) (env : Env) :
    s.spillTimeout line env = ((s.spillEvent ((line - spillBase 0) / 0x10000000000) line false).answer x .late).wake env := by
  unfold State.spillTimeout
  rw [hx]

theorem State.spillEvent_error (hh : h < 8) : (s.spillEvent h line true).fld (Reg.HST_HOST_EVENT h) 3 3 = 1 := by
  unfold State.spillEvent
  dsimp only
  rw [if_pos rfl, State.fld_post _ _ _ _ _ _ _ (by unfold Reg.HST_HOST_EVENT; omega)]
  exact State.fld_raise_flag _ (by decide) (by unfold Reg.HST_HOST_EVENT Reg.HST_HOST_EVENT_CNT0; omega)

theorem State.spillEvent_late (hh : h < 8) : (s.spillEvent h line false).fld (Reg.HST_HOST_EVENT h) 2 2 = 1 := by
  unfold State.spillEvent
  dsimp only
  rw [if_neg Bool.false_ne_true, State.fld_post _ _ _ _ _ _ _ (by unfold Reg.HST_HOST_EVENT; omega)]
  exact State.fld_raise_flag _ (by decide) (by unfold Reg.HST_HOST_EVENT Reg.HST_HOST_EVENT_CNT0; omega)

/-! ### Spill windows -/

theorem State.hostReg_served (hx : s.hostExists h = true) {o : Nat} (ho : o < 0x1000) : s.noHostReg (0xB000000 + o + h * 0x1000) = false := by
  have hdiv : (0xB000000 + o + h * 0x1000 - 0xB000000) / 0x1000 = h := by omega
  unfold State.noHostReg
  rw [hdiv, hx]
  simp

theorem exec_spillEnable {who : Requester} (ha : s.admitted who) (hx : s.hostExists h = true) (base : BitVec 52) :
    exec (.spillEnable who h base) s = .next (s.keep ((s.setPort who {}).spillCfg h (base ++ (1 : BitVec 12)))) := by
  have hh := lt_of_hostExists hx
  obtain ⟨hl, hreq, hp⟩ := ha
  have hboth : (s.reqExists who && hostOk h) = true := by simp [hreq, hostOk, hh]
  refine (part_true hboth _).trans ?_
  rw [State.run_live _ hl, State.regWrite_w64 who _ {} (rowAt_spillCfg hh) (State.hostReg_served hx (o := 0x10) (by decide)) hp (by decide), effectAt_spillCfg]

theorem fget_spillWord (base : BitVec 52) :
    fget (base ++ (1 : BitVec 12)) 63 12 = base.toNat ∧ fget (base ++ (1 : BitVec 12)) 0 0 = 1 := by
  have hb := base.isLt
  have hone : (1 : BitVec 12).toNat = 1 := rfl
  constructor <;> (simp only [fget, bits]; rw [toNat_append_eq, hone]; omega)

/-- A window whose BASE is written while it is closed. -/
def State.spillBased (s : State) (h base : Nat) : State := s.setFld (Reg.HST_SPILL_CFG h) 63 12 base

theorem State.spillCfg_closed {v : Word} (hoff : s.fld (Reg.HST_SPILL_CFG h) 0 0 = 0) (hen : fget v 0 0 = 1) : s.spillCfg h v =
    if 1 ≤ s.fld (Reg.HST_SPILL_SIZE h) 10 0 ∧ s.fld (Reg.HST_SPILL_SIZE h) 10 0 ≤ 1024 then
      (s.spillBased h (fget v 63 12)).setFld (Reg.HST_SPILL_CFG h) 0 0 1
    else (s.spillBased h (fget v 63 12)).hostReject h := by
  unfold State.spillCfg
  dsimp only
  rw [if_neg (by omega), if_neg (by omega)]
  rfl

theorem State.spillCfg_open {v : Word} (hon : s.fld (Reg.HST_SPILL_CFG h) 0 0 = 1) (hen : fget v 0 0 = 1) : s.spillCfg h v =
    if fget v 63 12 ≠ s.fld (Reg.HST_SPILL_CFG h) 63 12 then (s.setFld (Reg.HST_SPILL_CFG h) 0 0 1).hostReject h
    else s.setFld (Reg.HST_SPILL_CFG h) 0 0 1 := by
  unfold State.spillCfg
  dsimp only
  rw [if_pos hon, hen]

/-- Only registers change. -/
def State.onlyRegs (s t : State) : Prop := t = { s with regs := t.regs }

theorem State.onlyRegs_setFld (s : State) (o hi lo x : Nat) : s.onlyRegs (s.setFld o hi lo x) := rfl

theorem State.onlyRegs_raise (s : State) (o i o' lo : Nat) : s.onlyRegs (s.raise o i o' lo) := rfl

theorem State.onlyRegs.trans {t u : State} (h : s.onlyRegs t) (h' : t.onlyRegs u) : s.onlyRegs u := by
  unfold State.onlyRegs at *
  rw [h'] 
  generalize u.regs = g
  rw [h]

theorem State.onlyRegs_ite {t u : State} {c : Prop} [Decidable c] (ht : s.onlyRegs t) (hu : s.onlyRegs u) : s.onlyRegs (if c then t else u) := by
  split
  · exact ht
  · exact hu

theorem State.onlyRegs_spillCfg (v : Word) : s.onlyRegs (s.spillCfg h v) := by
  unfold State.spillCfg
  dsimp only
  exact State.onlyRegs_ite
    (State.onlyRegs_ite ((s.onlyRegs_setFld _ _ _ _).trans (State.onlyRegs_raise _ _ _ _ _)) (s.onlyRegs_setFld _ _ _ _))
    (State.onlyRegs_ite (s.onlyRegs_setFld _ _ _ _) (State.onlyRegs_ite ((s.onlyRegs_setFld _ _ _ _).trans (State.onlyRegs_setFld _ _ _ _ _))
      ((s.onlyRegs_setFld _ _ _ _).trans (State.onlyRegs_raise _ _ _ _ _))))

theorem State.onlyRegs.keep {t : State} {who : Requester} {p : Port} (ht : (s.setPort who p).onlyRegs t) : s.keep t = t := by
  unfold State.onlyRegs at ht
  rw [ht]
  rfl

theorem spillCfg_ne_event (h : Nat) : Reg.HST_SPILL_CFG h ≠ Reg.HST_HOST_EVENT h ∧ Reg.HST_SPILL_CFG h ≠ Reg.HST_HOST_EVENT_CNT1 h ∧
    Reg.HST_HOST_EVENT h ≠ Reg.HST_HOST_EVENT_CNT1 h := by
  unfold Reg.HST_SPILL_CFG Reg.HST_HOST_EVENT Reg.HST_HOST_EVENT_CNT1
  omega

theorem State.fld_hostReject_cfg (hi lo : Nat) : (s.hostReject h).fld (Reg.HST_SPILL_CFG h) hi lo = s.fld (Reg.HST_SPILL_CFG h) hi lo :=
  congrArg (fget · hi lo) (State.reg_raise_ne _ _ _ (spillCfg_ne_event h).1 (spillCfg_ne_event h).2.1)

theorem State.hostReject_flag : (s.hostReject h).fld (Reg.HST_HOST_EVENT h) 6 6 = 1 :=
  State.fld_raise_flag _ (by decide) (spillCfg_ne_event h).2.2

theorem State.spillCfg_closed_spec {base : Nat} {v : Word} (hoff : s.fld (Reg.HST_SPILL_CFG h) 0 0 = 0) (hen : fget v 0 0 = 1)
    (hbase : fget v 63 12 = base) (hb : base < 2 ^ 52) :
    let good := 1 ≤ s.fld (Reg.HST_SPILL_SIZE h) 10 0 ∧ s.fld (Reg.HST_SPILL_SIZE h) 10 0 ≤ 1024
    (s.spillCfg h v).fld (Reg.HST_SPILL_CFG h) 63 12 = base ∧
    (good → (s.spillCfg h v).fld (Reg.HST_SPILL_CFG h) 0 0 = 1 ∧ ∀ o, o ≠ Reg.HST_SPILL_CFG h → (s.spillCfg h v).reg o = s.reg o) ∧
    (¬ good → (s.spillCfg h v).fld (Reg.HST_SPILL_CFG h) 0 0 = 0 ∧ (s.spillCfg h v).fld (Reg.HST_HOST_EVENT h) 6 6 = 1) := by
  have hset : (s.spillBased h base).fld (Reg.HST_SPILL_CFG h) 63 12 = base :=
    (State.fld_setFld_self _ _ _ (by decide) (by decide)).trans (Nat.mod_eq_of_lt hb)
  have hclosed : (s.spillBased h base).fld (Reg.HST_SPILL_CFG h) 0 0 = 0 :=
    (State.fld_setFld_ne _ _ _ (by decide) (by decide) (by decide) (by decide)).trans hoff
  rw [State.spillCfg_closed hoff hen, hbase]
  dsimp only
  split
  case isTrue hgood =>
    refine ⟨(State.fld_setFld_ne _ _ _ (by decide) (by decide) (by decide) (by decide)).trans hset, fun _ => ⟨?_, fun o ho => ?_⟩,
      fun hbad => absurd hgood hbad⟩
    · exact State.fld_setFld_self _ _ _ (by decide) (by decide)
    · exact (State.reg_setFld_ne _ _ _ _ ho).trans (State.reg_setFld_ne _ _ _ _ ho)
  case isFalse hbad =>
    exact ⟨(State.fld_hostReject_cfg _ _).trans hset, fun hgood => absurd hgood hbad, fun _ => ⟨(State.fld_hostReject_cfg _ _).trans hclosed,
      State.hostReject_flag⟩⟩

theorem State.spillCfg_open_spec {v : Word} (hon : s.fld (Reg.HST_SPILL_CFG h) 0 0 = 1) (hen : fget v 0 0 = 1) :
    (s.spillCfg h v).fld (Reg.HST_SPILL_CFG h) 63 12 = s.fld (Reg.HST_SPILL_CFG h) 63 12 ∧
    (s.spillCfg h v).fld (Reg.HST_SPILL_CFG h) 0 0 = 1 ∧
    (fget v 63 12 ≠ s.fld (Reg.HST_SPILL_CFG h) 63 12 → (s.spillCfg h v).fld (Reg.HST_HOST_EVENT h) 6 6 = 1) := by
  have hbase : (s.setFld (Reg.HST_SPILL_CFG h) 0 0 1).fld (Reg.HST_SPILL_CFG h) 63 12 = s.fld (Reg.HST_SPILL_CFG h) 63 12 :=
    State.fld_setFld_ne _ _ _ (by decide) (by decide) (by decide) (by decide)
  have hopen : (s.setFld (Reg.HST_SPILL_CFG h) 0 0 1).fld (Reg.HST_SPILL_CFG h) 0 0 = 1 := State.fld_setFld_self _ _ _ (by decide) (by decide)
  rw [State.spillCfg_open hon hen]
  split
  · exact ⟨(State.fld_hostReject_cfg _ _).trans hbase, (State.fld_hostReject_cfg _ _).trans hopen, fun _ => State.hostReject_flag⟩
  next hsame => exact ⟨hbase, hopen, fun hmoved => absurd hmoved hsame⟩

theorem exec_spillSize {who : Requester} (ha : s.admitted who) (hx : s.hostExists h = true) (v : Word32) (env : Env) :
    exec (.registerWrite who (Reg.HST_SPILL_SIZE h) (.w32 v) env) s = .next (s.keep ((s.setPort who {}).spillSizeWrite h (v.zeroExtend 64))) := by
  rw [exec_write32 ha (rowAt_spillSize (lt_of_hostExists hx)) (State.hostReg_served hx (o := 0x18) (by decide)) (by decide) v env, effectAt_spillSize]

theorem fget_zeroExtend_low (v : Word32) : fget (v.zeroExtend 64) 10 0 = v.toNat % 2 ^ 11 := by
  have hv := v.isLt
  simp only [fget, bits, BitVec.zeroExtend, BitVec.toNat_setWidth]
  omega

end

end Sys2Proof.Machine

namespace Sys2Proof.Machine

/-! ## Bias operations (R404) -/

section
variable {s : State} {page : Nat} {lost : Bool}

theorem fget_biasWord (first count : BitVec 20) :
    let v := BitVec.ofNat 64 (2 ^ 62 + count.toNat * 2 ^ 20 + first.toNat)
    fget v 63 62 = 1 ∧ fget v 39 20 = count.toNat ∧ fget v 19 0 = first.toNat := by
  have hc := count.isLt
  have hf := first.isLt
  have hv : (BitVec.ofNat 64 (2 ^ 62 + count.toNat * 2 ^ 20 + first.toNat)).toNat = 2 ^ 62 + count.toNat * 2 ^ 20 + first.toNat := by
    rw [BitVec.toNat_ofNat, Nat.mod_eq_of_lt (by omega)]
  simp only [fget, bits, hv]
  omega

theorem exec_toDevice {who : Requester} (ha : s.admitted who) (first count : BitVec 20) :
    exec (.toDevice who first count) s = .next (s.keep (if s.biasOp.isSome then (s.setPort who {}).biasReject
      else if count.toNat = 0 ∨ pageCount < first.toNat + count.toNat then ((s.setPort who {}).setFld Reg.HST_BIAS_STATUS 63 56 1).biasReject
      else State.biasFrom count.toNat first.toNat false ((s.setPort who {}).setFld Reg.HST_BIAS_STATUS 32 32 1))) := by
  obtain ⟨hop, hcount, hfirst⟩ := fget_biasWord first count
  obtain ⟨hl, hx, hp⟩ := ha
  refine (part_true hx _).trans ?_
  rw [State.run_live _ hl, State.regWrite_w64 who _ {} rowAt_biasOp (s.noHostReg_out (.inr (by decide))) hp (by decide), effectAt_biasOp,
    State.biasWrite, hop, hcount, hfirst]
  simp only [ne_eq, not_true_eq_false, or_false]
  rfl

/-! ### Going on from a page -/

/-- The pages that are left, as the status shows them. -/
def State.biasAt (s : State) (left : Nat) : State := s.setFld Reg.HST_BIAS_STATUS 19 0 left

theorem State.biasFrom_zero (s : State) (page : Nat) (lost : Bool) : State.biasFrom 0 page lost s = (s.biasAt 0).biasFinish lost := rfl

theorem State.biasFrom_device (left : Nat) (hd : mget 0 s.bias page = 0) :
    State.biasFrom (left + 1) page lost s = State.biasFrom left (page + 1) lost (s.biasAt (left + 1)) :=
  if_pos hd

/-- A page in recall. -/
def State.recalling (s : State) (left page : Nat) (lost : Bool) : State :=
  { (s.biasAt left).recallPage page with
    biasOp := some ⟨page, left, s.snoopTargets srcSiolo, [], lost, s.hostHeld.any (fun x => x.addr / 0x200000 == page)⟩ }

theorem State.snoopTargets_biasAt (s : State) (left : Nat) (src : Src) : (s.biasAt left).snoopTargets src = s.snoopTargets src := by
  have henabled (h : Nat) : (s.biasAt left).hostEnabled h = s.hostEnabled h := by
    unfold State.hostEnabled State.biasAt
    rw [State.fld_setFld_off _ _ _ _ _ _ (by unfold Reg.HST_HOST_STATUS Reg.HST_BIAS_STATUS; omega)]
  unfold State.snoopTargets
  simp only [henabled]

theorem State.biasFrom_shared (left : Nat) (hd : mget 0 s.bias page ≠ 0) :
    State.biasFrom (left + 1) page lost s = s.recalling (left + 1) page lost := by
  refine (if_neg hd).trans ?_
  unfold State.recalling
  rw [← s.snoopTargets_biasAt (left + 1) srcSiolo]
  rfl

/-- An ownership request for each of the lines of a page, to a host that may hold copies. -/
def State.recallSent (lines page : Nat) (s : State) (h : Nat) : State := (s.count (Reg.HST_CNT_SNOOP h) lines).emit (.recall h page)

theorem State.recallPage_eq (s : State) (page : Nat) :
    s.recallPage page = (s.snoopTargets srcSiolo).foldl (State.recallSent 32768 page) { s with bias := mset 0 s.bias page 2 } := rfl

theorem State.recallSent_out (lines : Nat) (l : List Nat) (s : State) :
    (l.foldl (State.recallSent lines page) s).out = s.out ++ l.map (fun h => .recall h page) := by
  induction l generalizing s with
  | nil => exact (List.append_nil _).symm
  | cons h l ih =>
    rw [List.foldl_cons, ih, List.map_cons, List.append_cons]
    rfl

/-- What a bias operation leaves alone. -/
def State.biasView (s : State) : Memory × SMap Queue × List HostAcc := (s.mem, s.queues, s.hostHeld)

theorem State.recallSent_view (lines page : Nat) (s : State) (h : Nat) :
    (State.recallSent lines page s h).biasView = s.biasView ∧ (State.recallSent lines page s h).bias = s.bias := ⟨rfl, rfl⟩

theorem State.recallSent_reg (lines page : Nat) (s : State) {o h : Nat} (ho : o ≠ Reg.HST_CNT_SNOOP h) :
    (State.recallSent lines page s h).reg o = s.reg o := State.reg_count_ne s lines ho

theorem State.recallPage_view (s : State) (page : Nat) : (s.recallPage page).biasView = s.biasView := by
  rw [State.recallPage_eq]
  exact foldl_keeps State.biasView (fun t h => (State.recallSent_view 32768 page t h).1) _ _

theorem State.recallPage_bias (s : State) (page : Nat) : (s.recallPage page).bias = mset 0 s.bias page 2 := by
  rw [State.recallPage_eq]
  exact foldl_keeps State.bias (fun t h => (State.recallSent_view 32768 page t h).2) _ _

theorem State.recallPage_out (s : State) (page : Nat) :
    (s.recallPage page).out = s.out ++ (s.snoopTargets srcSiolo).map (fun h => .recall h page) := by
  rw [State.recallPage_eq]
  exact State.recallSent_out 32768 _ _

theorem State.recallPage_reg (s : State) (page : Nat) {o : Nat} (ho : ∀ h, o ≠ Reg.HST_CNT_SNOOP h) : (s.recallPage page).reg o = s.reg o := by
  rw [State.recallPage_eq]
  exact foldl_keeps (fun t => t.reg o) (fun t h => State.recallSent_reg 32768 page t (ho h)) _ _

theorem biasStatus_ne_snoop (h : Nat) : Reg.HST_BIAS_STATUS ≠ Reg.HST_CNT_SNOOP h := by
  unfold Reg.HST_BIAS_STATUS Reg.HST_CNT_SNOOP
  omega

theorem gevent_ne_snoop (h : Nat) : Reg.HST_GEVENT ≠ Reg.HST_CNT_SNOOP h := by
  unfold Reg.HST_GEVENT Reg.HST_CNT_SNOOP
  omega

theorem State.recalling_reg (s : State) (left page : Nat) (lost : Bool) {o : Nat} (ho : ∀ h, o ≠ Reg.HST_CNT_SNOOP h) :
    (s.recalling left page lost).reg o = (s.biasAt left).reg o :=
  (State.reg_of_regs (s := (s.biasAt left).recallPage page) (by unfold State.recalling; rfl) o).trans ((s.biasAt left).recallPage_reg page ho)

theorem State.recalling_status (s : State) {left : Nat} (page : Nat) (lost : Bool) (hl : left < 2 ^ 20) :
    (s.recalling left page lost).fld Reg.HST_BIAS_STATUS 19 0 = left ∧
    (s.recalling left page lost).fld Reg.HST_BIAS_STATUS 32 32 = s.fld Reg.HST_BIAS_STATUS 32 32 := by
  have hreg := s.recalling_reg left page lost biasStatus_ne_snoop
  refine ⟨(congrArg (fget · 19 0) hreg).trans ?_, (congrArg (fget · 32 32) hreg).trans ?_⟩
  · exact (State.fld_setFld_self s _ left (by decide) (by decide)).trans (Nat.mod_eq_of_lt hl)
  · exact State.fld_setFld_ne s _ left (by decide) (by decide) (by decide) (by decide)

theorem State.biasFinish_rest (s : State) (lost : Bool) :
    (s.biasFinish lost).biasOp = none ∧ (s.biasFinish lost).bias = s.bias ∧ (s.biasFinish lost).biasView = s.biasView := by
  simp [State.biasFinish, State.biasView]

theorem State.biasAt_rest (s : State) (left : Nat) : (s.biasAt left).bias = s.bias ∧ (s.biasAt left).biasView = s.biasView := ⟨rfl, rfl⟩

theorem State.biasFinish_regs (s : State) (lost : Bool) : (s.biasFinish lost).regs =
    ((s.setFld Reg.HST_BIAS_STATUS 32 32 0).setFld Reg.HST_BIAS_STATUS 63 56 (if lost then 2 else 0)).regs := by
  unfold State.biasFinish
  rfl

/-- An operation over DEVICE pages ends at once. -/
theorem State.biasFrom_allDevice (n : Nat) (hd : ∀ i < n, mget 0 s.bias (page + i) = 0) :
    (State.biasFrom n page lost s).biasOp = none ∧ (State.biasFrom n page lost s).bias = s.bias ∧
    (State.biasFrom n page lost s).fld Reg.HST_BIAS_STATUS 32 32 = 0 ∧
    (State.biasFrom n page lost s).fld Reg.HST_BIAS_STATUS 63 56 = if lost then 2 else 0 := by
  induction n generalizing s page with
  | zero =>
    have hregs := State.biasFinish_regs (s.biasAt 0) lost
    obtain ⟨hop, hbias, -⟩ := State.biasFinish_rest (s.biasAt 0) lost
    rw [State.biasFrom_zero]
    refine ⟨hop, hbias.trans (s.biasAt_rest 0).1, (State.fld_of_regs hregs _ _ _).trans ?_, (State.fld_of_regs hregs _ _ _).trans ?_⟩
    · rw [State.fld_setFld_ne _ _ _ (by decide) (by decide) (by decide) (by decide)]
      exact State.fld_setFld_self _ _ _ (by decide) (by decide)
    · refine (State.fld_setFld_self _ _ _ (by decide) (by decide)).trans ?_
      cases lost <;> rfl
  | succ n ih =>
    rw [State.biasFrom_device (page := page) n (hd 0 (Nat.succ_pos n)), ← (s.biasAt_rest (n + 1)).1]
    refine ih fun i hi => ?_
    rw [(s.biasAt_rest (n + 1)).1, show page + 1 + i = page + (i + 1) by omega]
    exact hd (i + 1) (by omega)

/-- The states that an operation passes through on DEVICE pages: only the pages left, as the status shows them, change. -/
def State.likeBias (s t : State) : Prop := s.onlyRegs t ∧ (∀ o, o ≠ Reg.HST_BIAS_STATUS → t.reg o = s.reg o) ∧
  t.fld Reg.HST_BIAS_STATUS 32 32 = s.fld Reg.HST_BIAS_STATUS 32 32

theorem State.likeBias_refl (s : State) : s.likeBias s := ⟨rfl, fun _ _ => rfl, rfl⟩

theorem State.likeBias_biasAt (s : State) (left : Nat) : s.likeBias (s.biasAt left) :=
  ⟨s.onlyRegs_setFld _ _ _ _, fun _ ho => State.reg_setFld_ne _ _ _ _ ho, State.fld_setFld_ne _ _ _ (by decide) (by decide) (by decide) (by decide)⟩

theorem State.likeBias.trans {t u : State} (h : s.likeBias t) (h' : t.likeBias u) : s.likeBias u := by
  obtain ⟨ht, hreg, hfld⟩ := h
  obtain ⟨hu, hreg', hfld'⟩ := h'
  exact ⟨ht.trans hu, fun o ho => (hreg' o ho).trans (hreg o ho), hfld'.trans hfld⟩

/-- Where some page is not in DEVICE bias, the first such page is recalled. -/
theorem State.biasFrom_first {n i : Nat} (hi : i < n) (hd : mget 0 s.bias (page + i) ≠ 0) (hbefore : ∀ j < i, mget 0 s.bias (page + j) = 0) :
    ∃ u, s.likeBias u ∧ State.biasFrom n page lost s = u.recalling (n - i) (page + i) lost := by
  induction i generalizing s page n with
  | zero =>
    obtain ⟨m, rfl⟩ : ∃ m, n = m + 1 := ⟨n - 1, by omega⟩
    exact ⟨s, s.likeBias_refl, State.biasFrom_shared m hd⟩
  | succ i ih =>
    obtain ⟨m, rfl⟩ : ∃ m, n = m + 1 := ⟨n - 1, by omega⟩
    have hstep := State.biasFrom_device (s := s) (lost := lost) m (hbefore 0 (Nat.succ_pos i))
    have hshift (j : Nat) : page + 1 + j = page + (j + 1) := by omega
    obtain ⟨u, hu, hrec⟩ := ih (s := s.biasAt (m + 1)) (page := page + 1) (n := m) (by omega) (by rw [hshift]; exact hd)
      (fun j hj => by rw [hshift]; exact hbefore (j + 1) (by omega))
    refine ⟨u, (s.likeBias_biasAt _).trans hu, hstep.trans (hrec.trans ?_)⟩
    rw [hshift, Nat.add_sub_add_right]

/-- Either it ends with no page in recall, or it recalls a page. -/
theorem State.biasFrom_cases (n : Nat) (s : State) (page : Nat) : (∀ i < n, mget 0 s.bias (page + i) = 0) ∨
    ∃ i < n, mget 0 s.bias (page + i) ≠ 0 ∧ ∀ j < i, mget 0 s.bias (page + j) = 0 := by
  by_cases hall : ∀ i < n, mget 0 s.bias (page + i) = 0
  · exact .inl hall
  · have hex : ∃ i, i < n ∧ mget 0 s.bias (page + i) ≠ 0 := by
      simpa only [not_forall, exists_prop] using hall
    classical
    refine .inr ⟨Nat.find hex, (Nat.find_spec hex).1, (Nat.find_spec hex).2, fun j hj => ?_⟩
    by_contra hne
    exact Nat.find_min hex hj ⟨lt_trans hj (Nat.find_spec hex).1, hne⟩

theorem State.biasFrom_view (n page : Nat) (lost : Bool) (s : State) : (State.biasFrom n page lost s).biasView = s.biasView := by
  induction n generalizing s page with
  | zero => rw [State.biasFrom_zero, (State.biasFinish_rest _ _).2.2, (s.biasAt_rest 0).2]
  | succ n ih =>
    by_cases hd : mget 0 s.bias page = 0
    · rw [State.biasFrom_device n hd, ih, (s.biasAt_rest (n + 1)).2]
    · rw [State.biasFrom_shared n hd]
      exact (s.biasAt (n + 1)).recallPage_view page

theorem State.biasFrom_bias_below (n page : Nat) (lost : Bool) (s : State) {k : Nat} (hk : k < page) :
    mget 0 (State.biasFrom n page lost s).bias k = mget 0 s.bias k := by
  induction n generalizing s page with
  | zero => rw [State.biasFrom_zero, (State.biasFinish_rest _ _).2.1, (s.biasAt_rest 0).1]
  | succ n ih =>
    by_cases hd : mget 0 s.bias page = 0
    · rw [State.biasFrom_device n hd, ih _ _ (by omega), (s.biasAt_rest (n + 1)).1]
    · rw [State.biasFrom_shared n hd]
      change mget 0 ((s.biasAt (n + 1)).recallPage page).bias k = _
      rw [State.recallPage_bias, mget_mset_ne _ _ _ (by omega), (s.biasAt_rest (n + 1)).1]

theorem State.reg_biasFinish (s : State) (lost : Bool) {o : Nat} (ho : o ≠ Reg.HST_BIAS_STATUS) : (s.biasFinish lost).reg o = s.reg o :=
  (State.reg_of_regs (s := (s.setFld Reg.HST_BIAS_STATUS 32 32 0).setFld Reg.HST_BIAS_STATUS 63 56 (if lost then 2 else 0))
    (by unfold State.biasFinish; rfl) o).trans ((State.reg_setFld_ne _ _ _ _ ho).trans (State.reg_setFld_ne _ _ _ _ ho))

theorem State.biasFrom_reg (n page : Nat) (lost : Bool) (s : State) {o : Nat} (ho : o ≠ Reg.HST_BIAS_STATUS) (ho' : ∀ h, o ≠ Reg.HST_CNT_SNOOP h) :
    (State.biasFrom n page lost s).reg o = s.reg o := by
  induction n generalizing s page with
  | zero => rw [State.biasFrom_zero, State.reg_biasFinish _ _ ho, State.biasAt, State.reg_setFld_ne _ _ _ _ ho]
  | succ n ih =>
    by_cases hd : mget 0 s.bias page = 0
    · rw [State.biasFrom_device n hd, ih, State.biasAt, State.reg_setFld_ne _ _ _ _ ho]
    · rw [State.biasFrom_shared n hd, State.recalling_reg _ _ _ _ ho', State.biasAt, State.reg_setFld_ne _ _ _ _ ho]

end

end Sys2Proof.Machine

namespace Sys2Proof.Machine

section
variable {s : State}

/-! ### The end of a page's recall (R404) -/

/-- The answers to a recall that an end of it brings. -/
def State.answersTaken (s : State) (dirty : List (Nat × Nat × List Byte)) (env : Env) : State :=
  dirty.foldl (fun s d => if s.recallWaits d.1 (d.2.1 / 64 * 64) then s.recallAnswer d.1 (d.2.1 / 64 * 64) d.2.2 env else s) s

/-- A host's access in a page's recall, with its event. -/
def State.biasLost (s : State) (page : Nat) : State :=
  ((s.raise Reg.HST_GEVENT 0 Reg.HST_GEVENT_CNT 0).post slotMailboxes 0x0805 1 page).count Reg.HST_CNT_BIAS_LOST 1

/-- A page out of recall. -/
def State.biasMarked (s : State) (b : BiasOp) : State :=
  if b.accessed then { s.biasLost b.page with bias := mset 0 (s.biasLost b.page).bias b.page 1 } else { s with bias := mset 0 s.bias b.page 0 }

/-- An operation's next page. -/
def State.biasOn (s : State) (b : BiasOp) : State :=
  State.biasFrom (b.left - 1) (b.page + 1) (b.lost || b.accessed) { s.biasMarked b with biasOp := none }

theorem State.biasPageDone_eq {b : BiasOp} (hb : s.biasOp = some b) (dirty : List (Nat × Nat × List Byte)) (env : Env) :
    s.biasPageDone dirty env = ((s.answersTaken dirty env).biasOn b).retryHosts := by
  unfold State.biasPageDone
  rw [hb]
  rfl

theorem State.biasPageDone_none (hb : s.biasOp = none) (dirty : List (Nat × Nat × List Byte)) (env : Env) : s.biasPageDone dirty env = s := by
  unfold State.biasPageDone
  rw [hb]

theorem State.retryHosts_none (hh : s.hostHeld = []) : s.retryHosts = { s with hostHeld := [] } := by
  unfold State.retryHosts
  rw [hh]
  rfl

theorem State.likeMem_bias {t : State} (h : s.likeMem t) : t.bias = s.bias ∧ t.hostHeld = s.hostHeld := by
  obtain ⟨_, _, _, _, _, _, _, _, _, _, _, rfl⟩ := h
  exact ⟨rfl, rfl⟩

theorem State.recallAnswer_bias (s : State) (h line : Nat) (dirty : List Byte) (env : Env) :
    (s.recallAnswer h line dirty env).bias = s.bias ∧ (s.recallAnswer h line dirty env).hostHeld = s.hostHeld := by
  have hwrite (t : State) : (t.dirtyBack h line dirty env).bias = t.bias ∧ (t.dirtyBack h line dirty env).hostHeld = t.hostHeld := by
    have hlike := State.likeMem_bias (State.likeMem_writeBack { t with env := env } h line dirty)
    exact ⟨hlike.1, hlike.2⟩
  unfold State.recallAnswer
  exact hwrite _

/-- The bias states and the accesses held. -/
def State.heldView (s : State) : SMap Nat × List HostAcc := (s.bias, s.hostHeld)

theorem State.answersTaken_view (s : State) (dirty : List (Nat × Nat × List Byte)) (env : Env) :
    (s.answersTaken dirty env).heldView = s.heldView := by
  refine foldl_keeps State.heldView (fun t d => ?_) dirty s
  split
  · exact Prod.ext (t.recallAnswer_bias _ _ _ _).1 (t.recallAnswer_bias _ _ _ _).2
  · rfl

theorem State.biasLost_rest (s : State) (page : Nat) : (s.biasLost page).biasView = s.biasView ∧ (s.biasLost page).bias = s.bias := by
  simp [State.biasLost, State.biasView, State.count, State.addFld]

theorem State.biasMarked_view (s : State) (b : BiasOp) : (s.biasMarked b).biasView = s.biasView := by
  unfold State.biasMarked
  split
  · exact (s.biasLost_rest b.page).1
  · rfl

theorem State.biasMarked_bias (s : State) (b : BiasOp) : mget 0 (s.biasMarked b).bias b.page = if b.accessed then 1 else 0 := by
  unfold State.biasMarked
  split
  · exact mget_mset_self 0 (s.biasLost b.page).bias b.page 1
  · exact mget_mset_self 0 s.bias b.page 0

theorem State.biasLost_event (s : State) (page : Nat) : (s.biasLost page).fld Reg.HST_GEVENT 0 0 = 1 := by
  unfold State.biasLost
  rw [State.fld, State.reg_count_ne _ _ (by decide)]
  refine (State.fld_post _ _ _ _ _ _ _ (by decide)).trans ?_
  exact State.fld_raise_flag _ (by decide) (by decide)

theorem State.biasMarked_event (s : State) {b : BiasOp} (ha : b.accessed = true) : (s.biasMarked b).fld Reg.HST_GEVENT 0 0 = 1 := by
  unfold State.biasMarked
  rw [if_pos ha]
  exact s.biasLost_event b.page

theorem State.biasOn_view (s : State) (b : BiasOp) : (s.biasOn b).biasView = s.biasView :=
  (State.biasFrom_view _ _ _ _).trans (s.biasMarked_view b)

theorem State.biasOn_bias (s : State) (b : BiasOp) : mget 0 (s.biasOn b).bias b.page = if b.accessed then 1 else 0 :=
  (State.biasFrom_bias_below _ _ _ _ (Nat.lt_succ_self _)).trans (s.biasMarked_bias b)

theorem State.biasOn_event (s : State) {b : BiasOp} (ha : b.accessed = true) : (s.biasOn b).fld Reg.HST_GEVENT 0 0 = 1 :=
  (congrArg (fget · 0 0) (State.biasFrom_reg _ _ _ _ (by decide) gevent_ne_snoop)).trans (s.biasMarked_event ha)

theorem State.biasOn_last (s : State) {b : BiasOp} (hleft : b.left ≤ 1) : (s.biasOn b).biasOp = none ∧
    (s.biasOn b).fld Reg.HST_BIAS_STATUS 32 32 = 0 ∧
    (s.biasOn b).fld Reg.HST_BIAS_STATUS 63 56 = if b.lost || b.accessed then 2 else 0 := by
  have hzero : b.left - 1 = 0 := by omega
  unfold State.biasOn
  rw [hzero]
  obtain ⟨hop, -, hbusy, hcode⟩ := State.biasFrom_allDevice (s := { s.biasMarked b with biasOp := none }) (page := b.page + 1)
    (lost := b.lost || b.accessed) 0 (fun _ hi => absurd hi (Nat.not_lt_zero _))
  exact ⟨hop, hbusy, hcode⟩

/-- The end of a page's recall where no access is held. -/
theorem State.biasPageDone_idle {b : BiasOp} (hb : s.biasOp = some b) (hh : s.hostHeld = []) (dirty : List (Nat × Nat × List Byte)) (env : Env) :
    s.biasPageDone dirty env = { (s.answersTaken dirty env).biasOn b with hostHeld := [] } := by
  rw [State.biasPageDone_eq hb]
  refine State.retryHosts_none ?_
  have hview := (s.answersTaken dirty env).biasOn_view b
  have hheld := s.answersTaken_view dirty env
  simp only [State.biasView, State.heldView, Prod.mk.injEq] at hview hheld
  rw [hview.2.2, hheld.2, hh]

theorem State.biasPageDone_mem {b : BiasOp} (hb : s.biasOp = some b) (hh : s.hostHeld = []) (dirty : List (Nat × Nat × List Byte)) (env : Env) :
    (s.biasPageDone dirty env).mem = (s.answersTaken dirty env).mem := by
  rw [State.biasPageDone_idle hb hh]
  exact congrArg Prod.fst ((s.answersTaken dirty env).biasOn_view b)

theorem State.answersTaken_one (s : State) (d : Nat × Nat × List Byte) (env : Env) : s.answersTaken [d] env =
    if s.recallWaits d.1 (d.2.1 / 64 * 64) then s.recallAnswer d.1 (d.2.1 / 64 * 64) d.2.2 env else s := rfl

theorem State.snoopTargets_of_reg {t : State} (hreg : ∀ o, o ≠ Reg.HST_BIAS_STATUS → t.reg o = s.reg o) (src : Src) :
    t.snoopTargets src = s.snoopTargets src := by
  have henabled (h : Nat) : t.hostEnabled h = s.hostEnabled h := by
    unfold State.hostEnabled State.fld
    rw [hreg _ (by unfold Reg.HST_HOST_STATUS Reg.HST_BIAS_STATUS; omega)]
  unfold State.snoopTargets
  simp only [henabled]

/-- An operation that has begun. -/
def State.biasBegun (s : State) (who : Requester) : State := (s.setPort who {}).setFld Reg.HST_BIAS_STATUS 32 32 1

theorem State.biasBegun_rest (s : State) (who : Requester) : (s.biasBegun who).biasView = s.biasView ∧ (s.biasBegun who).bias = s.bias ∧
    (s.biasBegun who).out = s.out := by
  simp [State.biasBegun, State.biasView]

theorem State.biasBegun_busy (s : State) (who : Requester) : (s.biasBegun who).fld Reg.HST_BIAS_STATUS 32 32 = 1 :=
  State.fld_setFld_self _ _ _ (by decide) (by decide)

theorem State.biasBegun_reg (s : State) (who : Requester) {o : Nat} (ho : o ≠ Reg.HST_BIAS_STATUS) : (s.biasBegun who).reg o = s.reg o :=
  State.reg_setFld_ne _ _ _ _ ho

/-- The recall of the first page that is not in DEVICE bias, from the start of an operation. -/
theorem State.biasBegun_recalls (who : Requester) {f n i : Nat} (hn : n < 2 ^ 20) (hi : i < n) (hd : mget 0 s.bias (f + i) ≠ 0)
    (hbefore : ∀ j < i, mget 0 s.bias (f + j) = 0) :
    let t := State.biasFrom n f false (s.biasBegun who)
    t.biasOp = some ⟨f + i, n - i, s.snoopTargets srcSiolo, [], false, s.hostHeld.any (fun x => x.addr / 0x200000 == f + i)⟩ ∧
    t.out = s.out ++ (s.snoopTargets srcSiolo).map (fun h => .recall h (f + i)) ∧
    t.bias = mset 0 s.bias (f + i) 2 ∧ t.fld Reg.HST_BIAS_STATUS 32 32 = 1 ∧ t.fld Reg.HST_BIAS_STATUS 19 0 = n - i := by
  obtain ⟨hview, hbias, hout⟩ := s.biasBegun_rest who
  obtain ⟨u, ⟨honly, hreg, hbusy⟩, ht⟩ := State.biasFrom_first (s := s.biasBegun who) (lost := false) (page := f) hi (by rwa [hbias])
    (by rwa [hbias])
  have htargets : u.snoopTargets srcSiolo = s.snoopTargets srcSiolo :=
    State.snoopTargets_of_reg (fun o ho => (hreg o ho).trans (s.biasBegun_reg who ho)) srcSiolo
  have huout : u.out = s.out := (congrArg State.out honly).trans hout
  have hubias : u.bias = s.bias := (congrArg State.bias honly).trans hbias
  have huheld : u.hostHeld = s.hostHeld := (congrArg State.hostHeld honly).trans (congrArg (·.2.2) hview)
  obtain ⟨hleft, hrun⟩ := u.recalling_status (f + i) false (show n - i < 2 ^ 20 by omega)
  dsimp only
  rw [ht]
  refine ⟨?_, ?_, ?_, hrun.trans (hbusy.trans (s.biasBegun_busy who)), hleft⟩
  · unfold State.recalling
    rw [htargets, huheld]
  · unfold State.recalling
    dsimp only
    rw [State.recallPage_out, State.snoopTargets_biasAt, htargets, ← huout]
    rfl
  · unfold State.recalling
    dsimp only
    rw [State.recallPage_bias, (u.biasAt_rest (n - i)).1, hubias]

theorem State.keep_biasReject (s : State) (who : Requester) :
    s.keep (s.setPort who {}).biasReject = (s.setPort who {}).biasReject ∧
    s.keep ((s.setPort who {}).setFld Reg.HST_BIAS_STATUS 63 56 1).biasReject = ((s.setPort who {}).setFld Reg.HST_BIAS_STATUS 63 56 1).biasReject := by
  refine ⟨s.keep_setPort_raise who {} _ _ _ _, State.keep_of_loadView ?_⟩
  simp [State.biasReject, State.loadView_setPort]

end

/-- Settles O46: each answer by whether an access waits for it, each operation page by page. -/
theorem snoopsSpillsAndBias : Obligations.SnoopsSpillsAndBias := by
  unfold Obligations.SnoopsSpillsAndBias
  refine ⟨fun who h line inv dirty data base env s hl hx => ?_, fun who first count dirty env s hl => ?_⟩
  · have hh := lt_of_hostExists hx
    have hresponse := (part_true hx (s.run (s.snoopResponse h line inv dirty env))).trans (State.run_live _ hl)
    have htimeout := (part_true hx (s.run (s.snoopTimeout h line inv env))).trans (State.run_live _ hl)
    have hcompletion := State.run_live (s.spillCompletion line data env) hl
    have hlate := State.run_live (s.spillTimeout line env) hl
    dsimp only
    refine ⟨fun hnone hidle => ⟨hresponse.trans ?_, htimeout.trans ?_⟩, fun hnone hwaits => ⟨hresponse.trans ?_, htimeout.trans ?_⟩,
      State.snoopLate_event hh, fun hnone => ⟨hcompletion.trans ?_, hlate.trans ?_⟩, fun x hsome => ⟨hresponse.trans ?_, ?_, htimeout.trans ?_⟩, rfl,
      fun x hsome => ⟨?_, ?_, hlate.trans ?_, fun hown => ⟨State.spillEvent_error hown, State.spillEvent_late hown⟩⟩, fun ha => ?_, fun ha v => ?_⟩
    · rw [State.snoopResponse_other hnone, if_neg (by simp [hidle]), State.keep_self]
    · rw [State.snoopTimeout_other hnone, if_neg (by simp [hidle]), State.keep_self]
    · rw [State.snoopResponse_other hnone, if_pos hwaits]
    · rw [State.snoopTimeout_other hnone, if_pos hwaits]
    · rw [State.spillCompletion_none hnone, State.keep_self]
    · rw [State.spillTimeout_none hnone, State.keep_self]
    · rw [State.snoopResponse_waiting hsome]
    · rintro rfl
      exact State.dirtyBack_nil env
    · rw [State.snoopTimeout_waiting hsome]
    · rintro d rfl
      rw [← State.spillCompletion_data hsome d env]
      exact hcompletion
    · rintro rfl
      rw [← State.spillCompletion_error hsome env]
      exact hcompletion
    · rw [State.spillTimeout_late hsome]
    · obtain ⟨hbase, hen⟩ := fget_spillWord base
      refine ⟨(s.setPort who {}).spillCfg h (base ++ (1 : BitVec 12)), ?_, State.onlyRegs_spillCfg _, fun hoff => ?_, fun hon => ?_⟩
      · rw [exec_spillEnable ha hx, (State.onlyRegs_spillCfg _).keep]
      · exact State.spillCfg_closed_spec (s := s.setPort who {}) hoff hen hbase base.isLt
      · rw [← hbase]
        exact State.spillCfg_open_spec (s := s.setPort who {}) hon hen
    · have hexec := exec_spillSize ha hx v env
      refine ⟨fun hon => hexec.trans ?_, fun hoff => hexec.trans ?_⟩
      · rw [State.spillSizeWrite, State.fld_setPort, if_pos hon]
        exact congrArg _ (s.keep_setPort_raise who {} _ _ _ _)
      · rw [State.spillSizeWrite, State.fld_setPort, if_neg (by omega), fget_zeroExtend_low]
        exact congrArg _ (State.keep_of_loadView ((State.loadView_setFld _ _ _ _ _).trans (s.loadView_setPort who {})))
  · have hdone := State.run_live ((s.biasPageDone dirty env).wake env) hl
    dsimp only
    refine ⟨fun ha => ?_, hdone, fun hnone => State.biasPageDone_none hnone dirty env, fun b hb hh => ?_⟩
    · have hexec := exec_toDevice ha first count
      refine ⟨fun hbusy => hexec.trans ?_, fun hnone hbad => hexec.trans ?_, fun hnone hpos hfit => ⟨_, hexec, ?_⟩⟩
      · rw [if_pos hbusy, (s.keep_biasReject who).1]
      · rw [if_neg (by simp [hnone]), if_pos hbad, (s.keep_biasReject who).2]
      · rw [if_neg (by simp [hnone]), if_neg (by omega)]
        have hview := (State.biasFrom_view count.toNat first.toNat false (s.biasBegun who)).trans (s.biasBegun_rest who).1
        simp only [State.biasView, Prod.mk.injEq] at hview
        have hbias := (s.biasBegun_rest who).2.1
        refine ⟨hview.1, hview.2.1, fun hdev => ?_, fun i hi hne hbefore => State.biasBegun_recalls who count.isLt hi hne hbefore⟩
        obtain ⟨hop, hsame, hbusy, hcode⟩ := State.biasFrom_allDevice (s := s.biasBegun who) (page := first.toNat) (lost := false) count.toNat
          (by rwa [hbias])
        exact ⟨hop, hbusy, hcode, hsame.trans hbias⟩
    · refine ⟨?_, fun hacc => ?_, ?_, ?_, fun hleft => ?_⟩
      · rw [State.biasPageDone_idle hb hh]
        exact State.biasOn_bias _ b
      · rw [State.biasPageDone_idle hb hh]
        exact State.biasOn_event _ hacc
      · rintro rfl
        exact State.biasPageDone_mem hb hh [] env
      · rintro d rfl
        rw [State.biasPageDone_mem hb hh, State.answersTaken_one]
        exact ⟨fun hwaits => by rw [if_pos hwaits], fun hidle => by rw [if_neg (by simp [hidle])]⟩
      · rw [State.biasPageDone_idle hb hh]
        exact State.biasOn_last _ hleft

end Sys2Proof.Machine

namespace Sys2Proof.Machine

/-! ## Messages in mailboxes (R411, R413) -/

section
variable {s : State} {m i : Nat} {up : Bool}

/-- Where the DATA registers of a direction begin, in the register map. -/
def mbxRow (up : Bool) : Nat := if up then 0xC000080 else 0xC000000

theorem mbxRow_cases (up : Bool) : mbxRow up = 0xC000000 ∨ mbxRow up = 0xC000080 := by
  cases up
  · exact .inl rfl
  · exact .inr rfl

theorem mbxData_eq (m i : Nat) (up : Bool) : mbxData m up i = mbxRow up + i * 4 + m * 0x1000 := by
  cases up
  · exact Nat.add_right_comm _ _ _
  · exact Nat.add_right_comm _ _ _

theorem arrayAt_mbxData (up : Bool) : ∀ i < 16,
    (arrayAt 4096 (mbxRow up + i * 4) 32 (slotTable 12)).map (fun r => (r.base, r.width, r.lowRw 31)) = some (mbxRow up, 32, true) := by
  cases up <;> decide

theorem findReg_mbxData (hm : m < 32) (hi : i < 16) (up : Bool) :
    ∃ r, findReg (mbxData m up i) = some r ∧ r.base = mbxRow up ∧ r.width = 32 ∧ r.lowRw 31 = true := by
  obtain ⟨r, hr, hrow⟩ := Option.map_eq_some_iff.mp (arrayAt_mbxData up i hi)
  simp only [Prod.mk.injEq] at hrow
  have hslot : (mbxRow up + i * 4 + m * 4096) / 0x1000000 = 12 := by
    have hrow := mbxRow_cases up
    omega
  refine ⟨r, ?_, hrow⟩
  rw [mbxData_eq]
  exact findReg_array (by decide) hm hslot hr

theorem rowAt_mbxData (hm : m < 32) (hi : i < 16) (up : Bool) : rowAt (mbxData m up i) (mbxRow up) 32 := by
  obtain ⟨r, hr, hb, hw, -⟩ := findReg_mbxData hm hi up
  exact ⟨r, hr, hb, hw⟩

theorem regIndex_mbxData (m : Nat) (hi : i < 16) (up : Bool) : regIndex (mbxRow up) 4096 (mbxData m up i) = m := by
  rw [mbxData_eq, regIndex]
  omega

theorem effectAt_mbxData (m : Nat) (hi : i < 16) (up : Bool) (v : Word) (env : Env) :
    s.effectAt (mbxRow up) (mbxData m up i) v env = s.mbxWriteData m up (mbxData m up i) v := by
  have hat : s.effectAt (mbxRow up) (mbxData m up i) v env =
      s.mbxWriteData (regIndex (mbxRow up) 4096 (mbxData m up i)) up (mbxData m up i) v := by
    cases up <;> rfl
  rw [hat, regIndex_mbxData m hi]

theorem exec_mbxDataWrite {who : Requester} (ha : s.admitted who) (hm : m < 32) (hi : i < 16) (v : Word32) (env : Env) :
    exec (.registerWrite who (mbxData m up i) (.w32 v) env) s =
      .next (s.keep ((s.setPort who {}).mbxWriteData m up (mbxData m up i) (v.zeroExtend 64))) := by
  have hrow := mbxRow_cases up
  have hout : s.noHostReg (mbxData m up i) = false := s.noHostReg_out (.inr (by rw [mbxData_eq]; omega))
  rw [exec_write32 ha (rowAt_mbxData hm hi up) hout (by cases up <;> decide) v env, effectAt_mbxData m hi]

theorem exec_mbxPost {who : Requester} (ha : s.admitted who) (hm : m < 32) :
    exec (.mbxPost who m up) s = .next (s.keep ((s.setPort who {}).mbxPost m up)) := by
  obtain ⟨hl, hx, hp⟩ := ha
  have hboth : (s.reqExists who && mailboxOk m) = true := by simp [hx, mailboxOk, hm]
  refine (part_true hboth _).trans ?_
  rw [State.run_live _ hl]
  cases up
  · have hout : s.noHostReg (Reg.MBX_DN_POST m) = false := s.noHostReg_out (.inr (by unfold Reg.MBX_DN_POST; omega))
    refine congrArg (fun t => Host.Outcome.next (s.keep t)) ((State.actBit_at who 0 {} (rowAt_dnPost hm) hout hp (by decide)).trans ?_)
    rw [effectAt_dnPost, if_pos (by decide)]
  · have hout : s.noHostReg (Reg.MBX_UP_POST m) = false := s.noHostReg_out (.inr (by unfold Reg.MBX_UP_POST; omega))
    refine congrArg (fun t => Host.Outcome.next (s.keep t)) ((State.actBit_at who 0 {} (rowAt_upPost hm) hout hp (by decide)).trans ?_)
    rw [effectAt_upPost, if_pos (by decide)]

/-! ### DATA and POST -/

theorem State.keep_mbxOverrun (who : Requester) : s.keep ((s.setPort who {}).mbxOverrun m up) = (s.setPort who {}).mbxOverrun m up := by
  unfold State.mbxOverrun
  split
  · exact s.keep_setPort_raise who {} _ _ _ _
  · exact s.keep_setPort_raise who {} _ _ _ _

theorem State.mbxOverrun_flag (s : State) (m : Nat) (up : Bool) :
    (s.mbxOverrun m up).fld (Reg.MBX_EVENT m) (if up then 3 else 2) (if up then 3 else 2) = 1 := by
  unfold State.mbxOverrun
  cases up
  · exact State.fld_raise_flag _ (by decide) (mbxEvent_lt_cnt0 m).ne
  · exact State.fld_raise_flag _ (by decide) (mbxEvent_lt_cnt0 m).ne

theorem State.reg_mbxOverrun (s : State) (up : Bool) {o : Nat} (ho : o < Reg.MBX_EVENT m) : (s.mbxOverrun m up).reg o = s.reg o := by
  unfold State.mbxOverrun
  split
  · exact State.reg_raise_mbxEvent _ _ _ (mbxEvent_lt_cnt0 m) ho
  · exact State.reg_raise_mbxEvent _ _ _ (mbxEvent_lt_cnt0 m) ho

theorem mbxData_ne_status (m j : Nat) (d : Bool) (hj : j < 16) : mbxData m d j ≠ Reg.MBX_STATUS m := by
  have hrow := mbxRow_cases d
  rw [mbxData_eq]
  unfold Reg.MBX_STATUS
  omega

theorem State.mbxWords_mbxSetFull (s : State) (m : Nat) (up full d : Bool) : (s.mbxSetFull m up full).mbxWords m d = s.mbxWords m d :=
  State.mbxWords_of_reg fun j hj => State.reg_mbxSetFull_ne s up full (mbxData_ne_status m j d hj)

theorem State.keep_mbxSetFull (who : Requester) (full : Bool) :
    s.keep ((s.setPort who {}).mbxSetFull m up full) = (s.setPort who {}).mbxSetFull m up full :=
  State.keep_of_loadView ((State.loadView_setFld _ _ _ _ _).trans (s.loadView_setPort who {}))

@[simp] theorem State.loadView_sendMsix (s : State) (h vec : Nat) : (s.sendMsix h vec).loadView = s.loadView := by
  unfold State.sendMsix
  split
  · dsimp only
    split
    · rfl
    · rfl
  · simp

theorem State.mbxPost_empty (hf : s.mbxFull m up = false) : s.mbxPost m up =
    if up ∧ m < 16 ∧ s.fld (Reg.MBX_CFG m) 11 11 = 1 then (s.mbxSetFull m up true).sendMsix (m % 8) (s.fld (Reg.MBX_CFG m) 10 0)
    else s.mbxSetFull m up true := by
  have hcfg (hi lo : Nat) : (s.mbxSetFull m up true).fld (Reg.MBX_CFG m) hi lo = s.fld (Reg.MBX_CFG m) hi lo :=
    State.fld_setFld_off _ _ _ _ _ _ (by unfold Reg.MBX_CFG Reg.MBX_STATUS; omega)
  unfold State.mbxPost
  dsimp only
  rw [if_neg (by simp [hf]), hcfg, hcfg]

theorem State.keep_mbxPosted (who : Requester) : s.keep ((s.setPort who {}).mbxPost m up) = (s.setPort who {}).mbxPost m up := by
  unfold State.mbxPost
  dsimp only
  split
  · exact State.keep_mbxOverrun who
  · split
    · exact State.keep_of_loadView ((State.loadView_sendMsix _ _ _).trans ((State.loadView_setFld _ _ _ _ _).trans (s.loadView_setPort who {})))
    · exact State.keep_mbxSetFull who true

theorem State.mbxPost_full (hf : s.mbxFull m up = true) : s.mbxPost m up = s.mbxOverrun m up := if_pos hf

theorem State.mbxFull_setPort (who : Requester) : (s.setPort who {}).mbxFull m up = s.mbxFull m up := rfl

theorem fget_zeroExtend_all (v : Word32) : fget (v.zeroExtend 64) 31 0 = v.toNat := by
  have hv := v.isLt
  simp only [fget, bits, BitVec.zeroExtend, BitVec.toNat_setWidth]
  omega

theorem State.mbxData_stored (hm : m < 32) (hi : i < 16) (v : Word32) :
    (s.writePlain (mbxData m up i) (v.zeroExtend 64)).fld (mbxData m up i) 31 0 = v.toNat := by
  obtain ⟨r, hr, -, -, hrw⟩ := findReg_mbxData hm hi up
  rw [State.fld, State.reg_writePlain_self _ hr, fget_writeFields (findReg_sound hr) (of_decide_eq_true hrw), fget_zeroExtend_all]

/-! ### TAKE -/

/-- A TAKE that empties its direction, reading FULL. -/
def State.mbxRead (s : State) (who : Requester) (m : Nat) (up : Bool) : State :=
  (s.endLatch who).emit (.regRead who (if up then Reg.MBX_UP_TAKE m else Reg.MBX_DN_TAKE m) (if s.mbxFull m up then 1 else 0))

theorem State.mbxTake_empties (ht : s.mbxTakes m up = s.mbxFull m up) (who : Requester) : s.mbxTake who m up =
    (if s.mbxFull m up ∧ ¬ up then (s.mbxRead who m up).mbxHold m else s.mbxRead who m up).mbxSetFull m up false := by
  unfold State.mbxTake
  dsimp only
  rw [ht, if_neg (by simp)]
  rfl

theorem State.mbxTake_refused (hf : s.mbxFull m false = true) (hn : s.mbxNoRoom m = true) (who : Requester) :
    s.mbxTake who m false = (s.endLatch who).emit (.regRead who (Reg.MBX_DN_TAKE m) 0) := by
  have ht : s.mbxTakes m false = false := by simp [State.mbxTakes, hn]
  unfold State.mbxTake
  dsimp only
  rw [ht, hf, if_pos (by rfl)]

theorem State.mbxTakes_room (h : up = true ∨ s.mbxFull m false = false ∨ s.mbxNoRoom m = false) : s.mbxTakes m up = s.mbxFull m up := by
  unfold State.mbxTakes
  rcases h with rfl | hf | hn
  · simp
  · cases up
    · simp [hf]
    · simp
  · simp [hn]

theorem exec_mbxTake {who : Requester} (ha : s.admitted who) (hm : m < 32) : exec (.mbxTake who m up) s = .next (s.mbxTake who m up) := by
  obtain ⟨hl, hx, hp⟩ := ha
  have hboth : (s.reqExists who && mailboxOk m) = true := by simp [hx, mailboxOk, hm]
  refine (part_true hboth _).trans ?_
  rw [State.portRun_open hp, State.run_live _ hl]
  obtain ⟨hpending, hfuses⟩ := s.mbxTake_keepsPendingFuses who m up
  exact congrArg _ (State.keep_of_eq hpending hfuses)

theorem State.mbxFull_setFull_other (s : State) (m : Nat) (up full : Bool) : (s.mbxSetFull m up full).mbxFull m (!up) = s.mbxFull m (!up) := by
  have hother : (s.mbxSetFull m up full).fld (Reg.MBX_STATUS m) (mbxBit (!up)) (mbxBit (!up)) =
      s.fld (Reg.MBX_STATUS m) (mbxBit (!up)) (mbxBit (!up)) := by
    cases up
    · exact State.fld_setFld_ne _ _ _ (by decide) (by decide) (by decide) (by decide)
    · exact State.fld_setFld_ne _ _ _ (by decide) (by decide) (by decide) (by decide)
  rw [State.mbxFull, State.mbxFull, hother]

/-- What a TAKE that empties its direction brings. -/
theorem State.mbxTake_spec (ht : s.mbxTakes m up = s.mbxFull m up) (who : Requester) :
    let t := s.mbxTake who m up
    t.mbxFull m up = false ∧ t.mbxFull m (!up) = s.mbxFull m (!up) ∧
    t.out = s.out ++ [.regRead who (if up then Reg.MBX_UP_TAKE m else Reg.MBX_DN_TAKE m) (if s.mbxFull m up then 1 else 0)] ∧
    (∀ o, o ≠ Reg.MBX_STATUS m → t.reg o = s.reg o) ∧ (up = true ∨ s.mbxFull m false = false → t.mbx = s.mbx) := by
  dsimp only
  rw [State.mbxTake_empties ht]
  split
  case isTrue hheld =>
    obtain ⟨hfull, hup⟩ := hheld
    refine ⟨State.mbxFull_mbxSetFull_self _ _ _ _, State.mbxFull_setFull_other _ _ _ _, rfl, fun o ho => State.reg_mbxSetFull_ne _ up false ho,
      fun hn => ?_⟩
    rw [Bool.not_eq_true] at hup
    subst hup
    rcases hn with hn | hn
    · cases hn
    · rw [hfull] at hn
      cases hn
  case isFalse =>
    exact ⟨State.mbxFull_mbxSetFull_self _ _ _ _, State.mbxFull_setFull_other _ _ _ _, rfl, fun o ho => State.reg_mbxSetFull_ne _ up false ho,
      fun _ => rfl⟩

end

/-- Settles O47: DATA and POST by FULL, TAKE by whether the server's queue has room. -/
theorem mailboxMessages : Obligations.MailboxMessages := by
  unfold Obligations.MailboxMessages
  intro who m i up v env s ha hm hi
  have hpost := exec_mbxPost (m := m) (up := up) ha hm
  have hdata := exec_mbxDataWrite (m := m) (i := i) (up := up) ha hm hi v env
  rw [State.keep_mbxPosted] at hpost
  dsimp only
  refine ⟨fun hf => ⟨?_, (s.setPort who {}).writePlain (mbxData m up i) (v.zeroExtend 64), ?_, State.writePlain_frame _ _ _, State.mbxData_stored hm hi v,
      fun o ho => State.reg_writePlain_ne _ _ ho⟩,
    fun hf => ⟨?_, ?_, State.mbxOverrun_flag _ m up, ?_, ?_⟩, State.mbxFull_mbxSetFull_self _ _ _ _, fun d => State.mbxWords_mbxSetFull _ m up true d,
    ?_, fun hroom => ?_⟩
  · rw [hpost, State.mbxPost_empty (s := s.setPort who {}) hf]
    rfl
  · rw [hdata, State.mbxWriteData, if_neg (by simp [State.mbxFull_setPort, hf]), State.writePlain_frame]
    rfl
  · rw [hpost, State.mbxPost_full (s := s.setPort who {}) hf]
  · rw [hdata, State.mbxWriteData, if_pos (by rw [State.mbxFull_setPort]; exact hf), State.keep_mbxOverrun]
  · exact State.mbxWords_of_reg fun j hj => (State.reg_mbxOverrun _ up (mbxData_lt_event m false hj))
  · exact (State.mbxFull_of_reg (State.reg_mbxOverrun _ up (mbxStatus_lt_event m)) up).trans hf
  · rintro rfl hf hn
    rw [exec_mbxTake ha hm, State.mbxTake_refused hf hn]
  · have ht := State.mbxTakes_room hroom
    obtain ⟨hempty, hother, hout, hregs, hmbx⟩ := State.mbxTake_spec ht who
    refine ⟨_, exec_mbxTake ha hm, hempty, hother, hout, hregs, ?_, hmbx⟩
    rintro rfl hf
    exact State.taken_mbxTake_takes (ht.trans hf) who

end Sys2Proof.Machine

namespace Sys2Proof.Machine

/-! ## What servers answer (R20, R414, R415, R442, R454, R456, R463) -/

section
variable {s t : State} {ch : Chan} {cmd n : Nat} {ws : List Nat}

theorem State.asked.runs (h : s.asked ch cmd n ws t) (u : State) : part (chanOk ch) (s.run u) = .next (s.keep u) := by
  obtain ⟨hl, hc, -⟩ := h
  exact (part_true hc _).trans (State.run_live u hl)

/-- A command of a fixed number of words, taken up. -/
theorem State.asked.serves (h : s.asked ch cmd n ws t) (hint : Nat) (f : State → Nat → List Nat → State) :
    part (chanOk ch) (s.run (s.serve ch cmd n hint f)) = .next (s.keep (f t (ws.getD 0 0) (ws.drop 1))) :=
  (h.runs _).trans (congrArg (fun u => Host.Outcome.next (s.keep u)) (State.serve_asked h hint f))

theorem drop_one_words (ws : List Nat) : (ws.drop 1).getD 0 0 = ws.getD 1 0 ∧ (ws.drop 1).getD 2 0 = ws.getD 3 0 ∧
    (ws.drop 1).getD 3 0 = ws.getD 4 0 := ⟨drop_one_getD ws 0, drop_one_getD ws 2, drop_one_getD ws 3⟩

/-! ### PING to GET_LOAD -/

theorem ping_asked (h : s.asked ch 0x01 1 ws t) (hint : Nat) :
    exec (.ping ch hint) s = .next (s.keep (t.reply ch (ws.getD 0 0) 0 [ws.getD 1 0])) := by
  refine (h.serves hint _).trans ?_
  rw [(drop_one_words ws).1]
  rfl

theorem State.asked.idle (h : s.asked ch cmd n ws t) : s.chanBusy ch = false := by
  obtain ⟨-, -, hready, -⟩ := h
  rw [State.chanReady, Bool.and_eq_true, Bool.not_eq_true'] at hready
  exact hready.2

theorem getCap_asked (h : s.asked ch 0x02 0 ws t) (hint : Nat) : exec (.getCap ch hint) s = .next (s.keep (t.reply ch (ws.getD 0 0) 0
    ([Reg.SYS_CAP_ID, Reg.SYS_CAP_FMT, Reg.SYS_CAP_SIZE, Reg.SYS_CAP_MEM].flatMap (fun r => words64 (t.reg r).toNat)))) := by
  refine (h.runs _).trans ?_
  rw [State.getCap, if_neg (by simp [h.idle]), State.serve_asked h]
  rfl

/-- Whether the server of a channel is a control core. -/
def coreChan : Chan → Bool
  | .mbx m => serverOf m != .siolo
  | _ => false

/-- The firmware that a server's channel tells. -/
def State.firmwareOf (t : State) (ch : Chan) : Firmware := if coreChan ch then t.ccFw else if t.inRecovery then {} else t.sioFw

theorem State.firmwareOf_eq (t : State) {ch : Chan} {w : Firmware} (hcore : ∀ m, ch = .mbx m → 8 ≤ m → m < 16 → w = t.ccFw)
    (hsio : (∀ m, ch = .mbx m → m < 8 ∨ 16 ≤ m) → w = if t.inRecovery then {} else t.sioFw) : t.firmwareOf ch = w := by
  cases ch with
  | mbx m =>
    by_cases hm : 8 ≤ m ∧ m < 16
    · rw [hcore m rfl hm.1 hm.2]
      simp [State.firmwareOf, coreChan, serverOf, hm]
    · rw [hsio (fun k hk => by cases hk; omega)]
      simp [State.firmwareOf, coreChan, serverOf, hm]
  | mctp via msg => exact (hsio (fun _ hk => by cases hk)).symm
  | i3c msg => exact (hsio (fun _ hk => by cases hk)).symm

theorem getFw_asked (h : s.asked ch 0x03 0 ws t) (hint : Nat) : exec (.getFw ch hint) s = .next (s.keep (t.reply ch (ws.getD 0 0) 0
    ([(t.firmwareOf ch).secVer] ++ words64 (t.firmwareOf ch).seq ++ [(t.firmwareOf ch).tag % 2 ^ 32]))) := by
  refine (h.runs _).trans (congrArg (fun u => Host.Outcome.next (s.keep u)) ?_)
  unfold State.getFw
  refine (State.serve_asked h hint _).trans ?_
  dsimp only
  unfold State.firmwareOf State.replyOk
  cases ch with
  | mbx m => rfl
  | mctp via msg => rfl
  | i3c msg => rfl

theorem getSensors_asked (h : s.asked ch 0x60 1 ws t) (hint : Nat) : exec (.getSensors ch hint) s =
    let kind := bits (ws.getD 1 0) 7 0
    let n := bits (ws.getD 1 0) 15 8
    let first := bits (ws.getD 1 0) 31 16
    .next (s.keep (if 4 ≤ kind ∨ n = 0 ∨ 15 < n ∨ sensorCount kind < first + n then t.reply ch (ws.getD 0 0) 3 [1]
      else t.reply ch (ws.getD 0 0) 0 ((List.range n).map (fun i => t.readingWord kind (first + i))))) := by
  refine (h.serves hint _).trans ?_
  rw [(drop_one_words ws).1]
  rfl

theorem getLoad_asked (h : s.asked ch 0x61 0 ws t) (hint : Nat) : exec (.getLoad ch hint) s =
    .next (s.keep (t.reply ch (ws.getD 0 0) 0 [(t.reg Reg.SIO_LOAD).toNat, (t.reg Reg.SIO_STATUS).toNat])) := h.serves hint _

/-! ### Alarms -/

theorem getAlarm_asked (h : s.asked ch 0x62 1 ws t) (hint : Nat) : exec (.getAlarm ch hint) s =
    .next (s.keep (if 64 ≤ ws.getD 1 0 then t.reply ch (ws.getD 0 0) 3 [1]
      else t.reply ch (ws.getD 0 0) 0 (wordsOf (alarmBytes (mget none t.log.alarms (ws.getD 1 0))) ++
        words64 (alarmState (mget none t.log.alarms (ws.getD 1 0)))))) := by
  refine (h.serves hint _).trans ?_
  rw [(drop_one_words ws).1]
  rfl

theorem ackAlarm_asked (h : s.asked ch 0x63 1 ws t) (hint : Nat) : exec (.ackAlarm ch hint) s =
    .next (s.keep (if bits (ws.getD 1 0) 7 6 ≠ 0 ∨ 512 ≤ ws.getD 1 0 then t.reply ch (ws.getD 0 0) 3 [1]
      else (if bit (ws.getD 1 0) 8 then t.ackAll else t.ackAlarm (ws.getD 1 0 % 64)).reply ch (ws.getD 0 0) 0 [])) := by
  refine (h.serves hint _).trans ?_
  rw [(drop_one_words ws).1]
  rfl

theorem ackAlarm_one (h : s.asked ch 0x63 1 ws t) (hint : Nat) (ha : ws.getD 1 0 < 64) :
    exec (.ackAlarm ch hint) s = .next (s.keep ((t.ackAlarm (ws.getD 1 0)).reply ch (ws.getD 0 0) 0 [])) := by
  have hbits : bits (ws.getD 1 0) 7 6 = 0 := by unfold bits; omega
  have hhigh : ws.getD 1 0 / 2 ^ 8 = 0 := by omega
  have hbit : bit (ws.getD 1 0) 8 = false := by rw [bit, hhigh]; rfl
  rw [ackAlarm_asked h, if_neg (by omega), hbit, if_neg Bool.false_ne_true, Nat.mod_eq_of_lt ha]

theorem ackAlarm_all (h : s.asked ch 0x63 1 ws t) (hint : Nat) (ha : ws.getD 1 0 = 256) :
    exec (.ackAlarm ch hint) s = .next (s.keep (t.ackAll.reply ch (ws.getD 0 0) 0 [])) := by
  rw [ackAlarm_asked h, ha, if_neg (by decide), if_pos (by decide)]

/-! ### Security state and measurements -/

theorem getSec_asked (h : s.asked ch 0xA0 0 ws t) (hint : Nat) : exec (.getSec ch hint) s =
    .next (s.keep (t.reply ch (ws.getD 0 0) 0 [t.fuses.svn, t.fld Reg.SEC_STATUS 15 8, (if t.loaded then t.loader.secVer else 0), t.idLeft,
      t.secStatus.toNat])) := h.serves hint _

theorem getMeas_asked (h : s.asked ch 0xA4 1 ws t) (hint : Nat) (ha : ws.getD 1 0 < 8) : exec (.getMeas ch hint) s =
    .next (s.keep (t.reply ch (ws.getD 0 0) 0 (wordsOf (t.meas (ws.getD 1 0)) ++ [(t.reg (Reg.SEC_MEAS_CNT (ws.getD 1 0))).toNat]))) := by
  refine (h.serves hint _).trans ?_
  rw [(drop_one_words ws).1]
  dsimp only
  rw [if_neg (by omega)]
  rfl

theorem measExtend_asked (h : s.asked ch 0xA5 9 ws t) (hint : Nat) : exec (.measExtend ch hint) s =
    .next (s.keep (if ws.getD 1 0 < 4 ∨ 8 ≤ ws.getD 1 0 then t.reply ch (ws.getD 0 0) 3 [1]
      else (t.extend (ws.getD 1 0) (wordBytes (ws.drop 2))).reply ch (ws.getD 0 0) 0 [])) := by
  refine (h.serves hint _).trans ?_
  rw [(drop_one_words ws).1, List.drop_drop]
  rfl

/-! ### Replies leave most of the state -/

/-- What a reply leaves alone. -/
def State.replyView (s : State) : Fuses × Memory × SMap Queue × List (Nat × Nat) := (s.fuses, s.mem, s.queues, s.objects)

theorem State.replyView_likeLog {u : State} (hu : t.likeLog u) : u.replyView = t.replyView ∧ u.flash = t.flash := by
  obtain ⟨_, _, _, _, rfl⟩ := hu
  exact ⟨rfl, rfl⟩

theorem State.replyView_sendMsix (t : State) (x vec : Nat) :
    (t.sendMsix x vec).replyView = t.replyView ∧ (t.sendMsix x vec).flash = t.flash ∧ (t.sendMsix x vec).mbx = t.mbx := by
  unfold State.sendMsix
  split
  · dsimp only
    split
    · exact ⟨rfl, rfl, rfl⟩
    · exact ⟨rfl, rfl, rfl⟩
  · simp [State.replyView]

theorem State.replyView_mbxPost (t : State) (m : Nat) (up : Bool) :
    (t.mbxPost m up).replyView = t.replyView ∧ (t.mbxPost m up).flash = t.flash ∧ (t.mbxPost m up).mbx = t.mbx := by
  unfold State.mbxPost
  dsimp only
  split
  · unfold State.mbxOverrun
    split <;> simp [State.replyView]
  · split
    · obtain ⟨hview, hflash, hmbx⟩ := (t.mbxSetFull m up true).replyView_sendMsix (m % 8) ((t.mbxSetFull m up true).fld (Reg.MBX_CFG m) 10 0)
      exact ⟨hview, hflash, hmbx⟩
    · exact ⟨rfl, rfl, rfl⟩

/-- The words of a reply in a mailbox, with their numbers. -/
def State.mbxWord (m : Nat) (t : State) (x : Nat × Nat) : State := t.setReg (mbxData m true x.1) (BitVec.ofNat 64 (x.2 % 2 ^ 32))

/-- A mailbox that holds a reply's words. -/
def State.mbxFilled (t : State) (m hdr status : Nat) (words : List Nat) : State :=
  (numbered (replyHead hdr status words.length :: words)).foldl (State.mbxWord m) t

theorem State.mbxReply_eq (t : State) (m hdr status : Nat) (words : List Nat) :
    t.mbxReply m hdr status words = (t.mbxFilled m hdr status words).mbxPost m true := rfl

theorem State.mbxWord_view (m : Nat) (t : State) (x : Nat × Nat) :
    (State.mbxWord m t x).replyView = t.replyView ∧ (State.mbxWord m t x).flash = t.flash ∧ (State.mbxWord m t x).mbx = t.mbx := by
  simp [State.mbxWord, State.replyView]

theorem State.replyView_mbxReply (t : State) (m hdr status : Nat) (words : List Nat) :
    (t.mbxReply m hdr status words).replyView = t.replyView ∧ (t.mbxReply m hdr status words).flash = t.flash ∧
    (t.mbxReply m hdr status words).mbx = t.mbx := by
  obtain ⟨hview, hflash, hmbx⟩ := (t.mbxFilled m hdr status words).replyView_mbxPost m true
  rw [State.mbxReply_eq]
  exact ⟨hview.trans (foldl_keeps State.replyView (fun u x => (State.mbxWord_view m u x).1) _ _),
    hflash.trans (foldl_keeps State.flash (fun u x => (State.mbxWord_view m u x).2.1) _ _),
    hmbx.trans (foldl_keeps State.mbx (fun u x => (State.mbxWord_view m u x).2.2) _ _)⟩

theorem State.replyView_reply (t : State) (ch : Chan) (hdr status : Nat) (words : List Nat) :
    (t.reply ch hdr status words).replyView = t.replyView ∧ (t.reply ch hdr status words).flash = t.flash := by
  cases ch with
  | mbx m => exact ⟨(t.replyView_mbxReply m hdr status words).1, (t.replyView_mbxReply m hdr status words).2.1⟩
  | mctp via msg => cases via <;> exact ⟨rfl, rfl⟩
  | i3c msg => exact ⟨rfl, rfl⟩

/-! ### SVN_COMMIT -/

/-- Fuses with another anti-rollback count. -/
def State.blown (t : State) (svn : Nat) : State := { t with fuses := { t.fuses with svn := svn } }

/-- A device whose anti-rollback count a command has raised, with its event where it rises. -/
def State.committed (t : State) (svn : Nat) : State :=
  if svn = t.fuses.svn then t.blown svn
  else ((t.blown svn).raise Reg.SEC_EVENT 2 Reg.SEC_EVENT_CNT 32).post slotSecurity 0x0A03 1 (t.fuses.svn + svn * 2 ^ 8)

theorem State.committed_view (t : State) (svn : Nat) :
    (t.committed svn).replyView = (t.blown svn).replyView ∧ (t.committed svn).flash = t.flash := by
  unfold State.committed
  split
  · exact ⟨rfl, rfl⟩
  · simp [State.replyView, State.blown]

theorem State.svnCommit_asked (h : s.asked ch 0xA8 1 ws t) (hint : Nat) (hfree : t.flashBusy = false) (cut : Option Nat) :
    s.svnCommit ch hint cut =
      if ws.getD 1 0 < t.fuses.svn ∨ 64 < ws.getD 1 0 ∨ t.svnLimits.any (fun x => decide (x < ws.getD 1 0)) then
        t.reply ch (ws.getD 0 0) 4 [0x22]
      else
        match cut with
        | some k => t.blown (t.fuses.svn + min k (ws.getD 1 0 - t.fuses.svn))
        | none => (t.committed (ws.getD 1 0)).reply ch (ws.getD 0 0) 0 [] := by
  refine (State.serve_asked h hint _).trans ?_
  rw [(drop_one_words ws).1]
  dsimp only
  rw [hfree, if_neg Bool.false_ne_true]
  cases cut <;> rfl

theorem exec_svnCommit (h : s.asked ch 0xA8 1 ws t) (hint : Nat) (cut : Option Nat) :
    exec (.svnCommit ch hint cut) s = .next { s.svnCommit ch hint cut with pending := s.pending } := by
  obtain ⟨hl, hc, -⟩ := h
  refine (part_true hc _).trans ?_
  unfold State.blow
  rw [if_neg (by simp [hl])]

theorem svnBad_iff {x : Nat} {l : List Nat} {svn : Nat} : (x < svn ∨ 64 < x ∨ l.any (fun y => decide (y < x)) = true) ↔
    ¬ (svn ≤ x ∧ x ≤ 64 ∧ ∀ y ∈ l, x ≤ y) := by
  simp only [List.any_eq_true, decide_eq_true_eq, not_and_or, not_le, not_forall, exists_prop]

/-! ### ALLOC and FREE -/

theorem State.placeFor_room (u : State) {base size len pick x : Nat} (hx : u.placeFor base size len pick = some x) :
    base ≤ x ∧ x + len ≤ base + size ∧ ∀ o ∈ tableRange :: u.objects, x + len ≤ o.1 ∨ o.1 + o.2 ≤ x := by
  have hroom := List.find?_some hx
  simp only [State.roomAt, Bool.and_eq_true, decide_eq_true_eq, List.all_eq_true] at hroom
  exact ⟨hroom.1.1, hroom.1.2, hroom.2⟩

theorem State.placeFor_first (u : State) {base size len : Nat} (pick : Nat) (hlen : len ≤ size)
    (hfree : ∀ o ∈ tableRange :: u.objects, base + len ≤ o.1 ∨ o.1 + o.2 ≤ base) : ∃ x, u.placeFor base size len pick = some x := by
  have hroom : u.roomAt base size len base = true := by
    simp only [State.roomAt, Bool.and_eq_true, decide_eq_true_eq, List.all_eq_true]
    exact ⟨⟨le_rfl, by omega⟩, hfree⟩
  refine Option.isSome_iff_exists.mp (List.find?_isSome.mpr ⟨base, ?_, hroom⟩)
  exact List.mem_cons_of_mem _ List.mem_cons_self

/-- A device whose run-time has drawn a place. -/
def State.drawn (t : State) : State := { t with free := t.free + 1 }

/-- What ALLOC answers where its place has been drawn. -/
def State.allocated (t : State) (ch : Chan) (h base size len : Nat) : State :=
  match t.drawn.placeFor base size len (Config.freeNat t.free) with
  | some a => { t.drawn.writeTables with objects := t.objects ++ [(a, len)] }.reply ch h 0 (words64 a)
  | none => t.drawn.reply ch h 4 [stAddrRange]

theorem word2_drop (ws : List Nat) (i : Nat) : word2 (ws.drop 1) i = ws.getD (i + 1) 0 + ws.getD (i + 2) 0 * 2 ^ 32 := by
  unfold word2
  rw [drop_one_getD, drop_one_getD]

theorem alloc_asked (h : s.asked ch 0x21 4 ws t) (hint : Nat) (htier : ws.getD 3 0 < 4) (hcore : ws.getD 3 0 = 0 → ws.getD 4 0 < 128)
    (hhost : ws.getD 3 0 = 3 → ws.getD 4 0 < 8) : exec (.alloc ch hint) s =
      .next (s.keep (t.allocated ch (ws.getD 0 0) (t.tierRange (ws.getD 3 0) (ws.getD 4 0)).1 (t.tierRange (ws.getD 3 0) (ws.getD 4 0)).2
        (word2 (ws.drop 1) 0))) := by
  refine (h.serves hint _).trans ?_
  rw [(drop_one_words ws).2.1, (drop_one_words ws).2.2]
  dsimp only
  rw [if_neg (by omega), if_neg (by omega)]
  rfl

theorem free_asked (h : s.asked ch 0x22 2 ws t) (hint : Nat) : exec (.free ch hint) s = .next (s.keep
    (if t.objects.any (fun o => o.1 == word2 (ws.drop 1) 0) then
      { t.writeTables with objects := t.objects.filter (fun o => o.1 != word2 (ws.drop 1) 0) }.reply ch (ws.getD 0 0) 0 []
    else t.reply ch (ws.getD 0 0) 3 [1])) := h.serves hint _

end

/-- Settles O49: each command through what its server does once it is taken up. -/
theorem serversAnswer : Obligations.ServersAnswer := by
  unfold Obligations.ServersAnswer
  intro ch hint ws s t
  dsimp only [Nat.reduceAdd]
  refine ⟨fun h => ping_asked h hint, fun h => getCap_asked h hint, fun h w hcore hsio => ?_, fun h => ⟨?_, ?_⟩, fun h => getLoad_asked h hint,
    fun h => ⟨?_, ?_⟩, fun h => ⟨ackAlarm_one h hint, ackAlarm_all h hint⟩, fun h => getSec_asked h hint, fun h => getMeas_asked h hint,
    fun h => ⟨?_, ?_⟩, fun h hfree => ⟨?_, ?_, ?_⟩, fun h htier hcore hhost => ?_, fun h => ⟨?_, ?_⟩, fun b _ hb => ?_⟩
  · rw [← t.firmwareOf_eq hcore hsio]
    exact getFw_asked h hint
  · intro hk h1 hn hend
    rw [getSensors_asked h]
    dsimp only
    rw [if_neg (by omega)]
  · intro hbad
    rw [getSensors_asked h]
    dsimp only
    rw [if_pos hbad]
  · intro ha
    rw [getAlarm_asked h, if_neg (by omega)]
  · intro ha
    rw [getAlarm_asked h, if_pos ha]
  · intro h4 h8
    rw [measExtend_asked h, if_neg (by omega)]
  · intro hbad
    rw [measExtend_asked h, if_pos hbad]
  · intro hok
    refine ⟨_, exec_svnCommit h hint none, ?_⟩
    rw [State.svnCommit_asked h hint hfree, if_neg (fun hbad => svnBad_iff.mp hbad hok)]
    obtain ⟨hview, hflash⟩ := (t.committed (ws.getD 1 0)).replyView_reply ch (ws.getD 0 0) 0 []
    obtain ⟨hview', hflash'⟩ := t.committed_view (ws.getD 1 0)
    have hall := hview.trans hview'
    simp only [State.replyView, Prod.mk.injEq] at hall
    exact ⟨hall.1, hflash.trans hflash', hall.2.1⟩
  · intro hok n
    rw [exec_svnCommit h, State.svnCommit_asked h hint hfree, if_neg (fun hbad => svnBad_iff.mp hbad hok)]
    rfl
  · intro hbad cut
    rw [exec_svnCommit h, State.svnCommit_asked h hint hfree, if_pos (svnBad_iff.mpr hbad)]
  · have hexec := alloc_asked h hint htier hcore hhost
    unfold State.allocated at hexec
    cases hp : t.drawn.placeFor (t.tierRange (ws.getD 3 0) (ws.getD 4 0)).1 (t.tierRange (ws.getD 3 0) (ws.getD 4 0)).2 (word2 (ws.drop 1) 0)
      (Config.freeNat t.free) with
    | some x =>
      obtain ⟨hlo, hhi, happ⟩ := State.placeFor_room _ hp
      rw [hp] at hexec
      exact ⟨fun _ _ => ⟨x, hlo, hhi, happ, hexec⟩, .inl ⟨x, hlo, hhi, happ, hexec⟩⟩
    | none =>
      rw [hp] at hexec
      refine ⟨fun hlen hfirst => ?_, .inr hexec⟩
      obtain ⟨x, hx⟩ := t.drawn.placeFor_first (Config.freeNat t.free) hlen hfirst
      rw [hp] at hx
      cases hx
  · rintro ⟨o, ho, heq⟩
    rw [free_asked h, if_pos (List.any_eq_true.mpr ⟨o, ho, by simpa using heq⟩)]
  · intro hnone
    rw [free_asked h, if_neg (fun hany => ?_)]
    obtain ⟨o, ho, heq⟩ := List.any_eq_true.mp hany
    exact hnone o ho (by simpa using heq)
  · exact Memory.byte_openRange_out _ (by omega)

end Sys2Proof.Machine

namespace Sys2Proof.Machine

/-! ## How requests are answered and turned away (R20, R411, R414, R427, R428) -/

section
variable {s t : State} {ch : Chan} {ws : List Nat}

/-! ### Replies in a mailbox -/

theorem mbxData_up (m j : Nat) : mbxData m true j = 0xC000080 + j * 4 + m * 0x1000 := mbxData_eq m j true

/-- Each word of a reply lies in its DATA register. -/
theorem State.reg_mbxWords (m : Nat) (t : State) (l : List Nat) : ∀ i w, l[i]? = some w →
    ((numbered l).foldl (State.mbxWord m) t).reg (mbxData m true i) = BitVec.ofNat 64 (w % 2 ^ 32) := by
  induction l using List.reverseRecOn with
  | nil => exact fun i w hw => absurd hw (by simp)
  | append_singleton l x ih =>
    intro i w hw
    rw [numbered_snoc, List.foldl_append, List.foldl_cons, List.foldl_nil]
    rw [List.getElem?_append] at hw
    split at hw
    next hlt =>
      have hne : mbxData m true i ≠ mbxData m true l.length := by rw [mbxData_up, mbxData_up]; omega
      exact (State.reg_setReg_ne _ _ hne).trans (ih i w hw)
    next hge =>
      have hi : i - l.length = 0 := by
        by_contra hpos
        rw [List.getElem?_eq_none (by simp; omega)] at hw
        cases hw
      rw [hi] at hw
      cases hw
      rw [show i = l.length by omega]
      exact State.reg_setReg_self _ _ _

theorem State.reg_mbxWords_ne (m : Nat) (t : State) (l : List Nat) {o : Nat} (ho : ∀ j < l.length, o ≠ mbxData m true j) :
    ((numbered l).foldl (State.mbxWord m) t).reg o = t.reg o := by
  induction l using List.reverseRecOn with
  | nil => rfl
  | append_singleton l x ih =>
    rw [numbered_snoc, List.foldl_append, List.foldl_cons, List.foldl_nil]
    refine (State.reg_setReg_ne _ _ (ho l.length (by simp))).trans (ih fun j hj => ho j ?_)
    rw [List.length_append]
    omega

theorem State.reg_sendMsix (t : State) {x vec o : Nat} (hx : x < 8) (hlo : 0xC000000 ≤ o) (hhi : o < 0xD000000) : (t.sendMsix x vec).reg o = t.reg o := by
  unfold State.sendMsix
  split
  · dsimp only
    split <;> rfl
  · rw [State.reg_post _ _ _ _ _ hhi, State.reg_raise_ne]
    · unfold Reg.HST_HOST_EVENT; omega
    · unfold Reg.HST_HOST_EVENT_CNT1; omega

theorem State.mbxPost_posts {m : Nat} (hm : m < 32) (hf : t.mbxFull m true = false) : (t.mbxPost m true).mbxFull m true = true ∧
    ∀ j < 16, (t.mbxPost m true).reg (mbxData m true j) = t.reg (mbxData m true j) := by
  have hset : (t.mbxSetFull m true true).mbxFull m true = true := State.mbxFull_mbxSetFull_self _ _ _ _
  have hdata (j : Nat) (hj : j < 16) : (t.mbxSetFull m true true).reg (mbxData m true j) = t.reg (mbxData m true j) :=
    State.reg_mbxSetFull_ne _ _ _ (mbxData_ne_status m j true hj)
  rw [State.mbxPost_empty hf]
  split
  · have hsent (o : Nat) (hlo : 0xC000000 ≤ o) (hhi : o < 0xD000000) := (t.mbxSetFull m true true).reg_sendMsix (x := m % 8)
      (vec := t.fld (Reg.MBX_CFG m) 10 0) (by omega) hlo hhi
    refine ⟨(State.mbxFull_of_reg (hsent _ ?_ ?_) true).trans hset, fun j hj => (hsent _ ?_ ?_).trans (hdata j hj)⟩
    · unfold Reg.MBX_STATUS; omega
    · unfold Reg.MBX_STATUS; omega
    · rw [mbxData_up]; omega
    · rw [mbxData_up]; omega
  · exact ⟨hset, hdata⟩

theorem State.mbxReply_posts {m : Nat} (hm : m < 32) (hf : t.mbxFull m true = false) (hdr status : Nat) {words : List Nat} (hlen : words.length < 16) :
    (t.mbxReply m hdr status words).mbxFull m true = true ∧
    (∀ i w, (replyHead hdr status words.length :: words)[i]? = some w →
      ((t.mbxReply m hdr status words).reg (mbxData m true i)).toNat = w % 2 ^ 32) := by
  have hfilled : (t.mbxFilled m hdr status words).mbxFull m true = false := by
    refine (State.mbxFull_of_reg (State.reg_mbxWords_ne m t _ fun j hj => ?_) true).trans hf
    rw [List.length_cons] at hj
    exact (mbxData_ne_status m j true (by omega)).symm
  obtain ⟨hpost, hdata⟩ := State.mbxPost_posts hm hfilled
  rw [State.mbxReply_eq]
  refine ⟨hpost, fun i w hw => ?_⟩
  have hi : i < 16 := by
    have := (List.getElem?_eq_some_iff.mp hw).1
    rw [List.length_cons] at this
    omega
  rw [hdata i hi, State.mbxFilled, State.reg_mbxWords m t _ i w hw, BitVec.toNat_ofNat]
  omega

/-! ### Requests that are turned away -/

theorem State.serveLen_idle (hn : s.chanReady ch = false ∨ s.request ch = none) (cmd : Nat) (ok : Nat → Bool) (hint : Nat)
    (f : State → Nat → List Nat → State) : s.serveLen ch cmd ok hint f = s := by
  unfold State.serveLen
  rcases hn with hn | hn
  · rw [if_pos (by simp [hn])]
  · rw [hn]
    exact ite_self _

/-- A request that is there, by the server's checks. -/
theorem State.serveLen_request (hr : s.chanReady ch = true) (hq : s.request ch = some (ws, t)) (cmd : Nat) (ok : Nat → Bool) (hint : Nat)
    (f : State → Nat → List Nat → State) : s.serveLen ch cmd ok hint f =
      if s.servesOn ch (hdrCmd (ws.getD 0 0)) = false then t.reply ch (ws.getD 0 0) mbUnknown []
      else if hdrCmd (ws.getD 0 0) ≠ cmd then s
      else if s.overloaded ch ∧ ¬ (hdrUrgent (ws.getD 0 0) ∧ urgentCmd cmd) then t.busyReply ch (ws.getD 0 0) hint
      else if bits (ws.getD 0 0) 10 8 ≠ 0 ∨ bits (ws.getD 0 0) 7 0 ≠ 0 ∨ ¬ ok (hdrLen (ws.getD 0 0)) then t.badArg ch (ws.getD 0 0) 0
      else f t (ws.getD 0 0) (ws.drop 1) := by
  unfold State.serveLen
  rw [if_neg (by simp [hr]), hq]
  simp only [Bool.not_eq_eq_eq_not, Bool.not_true]

/-- BUSY carries a hint between its bounds. -/
theorem State.busyReply_hint (t : State) (ch : Chan) (h hint : Nat) :
    ∃ n, 1000 ≤ n ∧ n ≤ 100000 ∧ t.busyReply ch h hint = t.reply ch h 1 [n] :=
  ⟨max 1000 (min 100000 hint), by omega, by omega, rfl⟩

theorem exec_ping (hl : s.live) (hc : chanOk ch = true) (hint : Nat) : exec (.ping ch hint) s = .next (s.keep (s.ping ch hint)) :=
  (part_true hc _).trans (State.run_live _ hl)

theorem exec_getCap (hl : s.live) (hc : chanOk ch = true) (hint : Nat) : exec (.getCap ch hint) s = .next (s.keep (s.getCap ch hint)) :=
  (part_true hc _).trans (State.run_live _ hl)

/-- PING, by the checks of its server. -/
theorem State.ping_request (hr : s.chanReady ch = true) (hq : s.request ch = some (ws, t)) (hs : s.servesOn ch 1 = true)
    (hcmd : hdrCmd (ws.getD 0 0) = 1) (hint : Nat) : s.ping ch hint =
      if s.overloaded ch = true ∧ hdrUrgent (ws.getD 0 0) = false then t.busyReply ch (ws.getD 0 0) hint
      else if bits (ws.getD 0 0) 10 8 ≠ 0 ∨ bits (ws.getD 0 0) 7 0 ≠ 0 ∨ hdrLen (ws.getD 0 0) ≠ 1 then t.reply ch (ws.getD 0 0) 3 [0]
      else t.reply ch (ws.getD 0 0) 0 [ws.getD 1 0] := by
  have hurgent : urgentCmd 1 = true := by decide
  rw [State.ping, State.serve, State.serveLen_request hr hq, hcmd, hs, if_neg (by simp), if_neg (by simp), (drop_one_words ws).1, hurgent]
  simp only [and_true, Bool.not_eq_true, beq_iff_eq]
  rfl

theorem State.getCap_busy (ho : s.chanOpen ch = true) (hb : s.chanBusy ch = true) (hq : s.request ch = some (ws, t))
    (hcmd : hdrCmd (ws.getD 0 0) = 2) (hint : Nat) : s.getCap ch hint = t.busyReply ch (ws.getD 0 0) hint := by
  unfold State.getCap State.serveBusy
  rw [if_pos hb, hq]
  exact if_pos ⟨hcmd, ho⟩

end

/-- Settles O50: replies word by word, refusals in the order of the server's checks. -/
theorem repliesAndRefusals : Obligations.RepliesAndRefusals := by
  unfold Obligations.RepliesAndRefusals
  intro ch hint m hdr st words ws s t hl hc
  dsimp only
  refine ⟨fun hm hlen hf => ?_, fun hn => ?_, fun hr hq => ⟨fun hs => ?_, fun hs hcmd => ⟨fun hover hurg => ?_, fun hok => ?_⟩⟩,
    fun ho hb hq hcmd => ?_⟩
  · obtain ⟨hfull, hwords⟩ := State.mbxReply_posts hm hf hdr st hlen
    obtain ⟨hview, -, hmbx⟩ := s.replyView_mbxReply m hdr st words
    simp only [State.replyView, Prod.mk.injEq] at hview
    exact ⟨hfull, hmbx, hview.2.1, hview.2.2.1, hwords 0 _ rfl, fun i w hw => hwords (i + 1) w hw⟩
  · rw [exec_ping hl hc, State.ping, State.serve, State.serveLen_idle hn, State.keep_self]
  · rw [exec_ping hl hc, State.ping, State.serve, State.serveLen_request hr hq, if_pos hs]
    rfl
  · obtain ⟨n, h1, h2, heq⟩ := t.busyReply_hint ch (ws.getD 0 0) hint
    exact ⟨n, h1, h2, by rw [exec_ping hl hc, State.ping_request hr hq hs hcmd, if_pos ⟨hover, hurg⟩, heq]⟩
  · have hfree : ¬ (s.overloaded ch = true ∧ hdrUrgent (ws.getD 0 0) = false) := by
      rintro ⟨hover, hurg⟩
      rcases hok with hok | hok
      · rw [hok] at hover; cases hover
      · rw [hok] at hurg; cases hurg
    refine ⟨fun hbad => ?_, fun hgood => ?_⟩
    · rw [exec_ping hl hc, State.ping_request hr hq hs hcmd, if_neg hfree, if_pos hbad]
    · rw [exec_ping hl hc, State.ping_request hr hq hs hcmd, if_neg hfree, if_neg hgood]
  · obtain ⟨n, h1, h2, heq⟩ := t.busyReply_hint ch (ws.getD 0 0) hint
    exact ⟨n, h1, h2, by rw [exec_getCap hl hc, State.getCap_busy ho hb hq hcmd, heq]⟩

end Sys2Proof.Machine

namespace Sys2Proof.Machine

/-! ## Commands whose server reads or writes memory (R415, R463) -/

section
variable {s t : State} {ch : Chan} {cmd n : Nat} {ws : List Nat} {env : Env}

/-- A device inside a computation of a token. -/
def State.working (s : State) (tok : Tok) (env : Env) : State := { s with env := env, token := tok, needs := [] }

theorem State.request_working (tok : Tok) (env : Env) (h : s.request ch = some (ws, t)) :
    (s.working tok env).request ch = some (ws, t.working tok env) := by
  cases ch with
  | mbx m =>
    have hmbx : (s.working tok env).mbx = s.mbx := rfl
    have hwords : (s.working tok env).mbxFull m false = s.mbxFull m false ∧ (s.working tok env).mbxWords m false = s.mbxWords m false := ⟨rfl, rfl⟩
    unfold State.request at h ⊢
    dsimp only at h ⊢
    rw [hmbx]
    cases htaken : (mget {} s.mbx m).taken with
    | nil =>
      simp only [htaken] at h ⊢
      rw [hwords.1, hwords.2]
      split at h
      next hf =>
        simp only [Option.some.injEq, Prod.mk.injEq] at h
        obtain ⟨rfl, rfl⟩ := h
        rw [if_pos hf]
        rfl
      next => cases h
    | cons w r =>
      simp only [htaken, Option.some.injEq, Prod.mk.injEq] at h ⊢
      obtain ⟨rfl, rfl⟩ := h
      exact ⟨rfl, rfl⟩
  | mctp via msg =>
    simp only [State.request, Option.some.injEq, Prod.mk.injEq] at h ⊢
    obtain ⟨rfl, rfl⟩ := h
    exact ⟨rfl, rfl⟩
  | i3c msg =>
    simp only [State.request, Option.some.injEq, Prod.mk.injEq] at h ⊢
    obtain ⟨rfl, rfl⟩ := h
    exact ⟨rfl, rfl⟩

theorem State.server_working (s : State) (ch : Chan) (cmd : Nat) (tok : Tok) (env : Env) :
    (s.working tok env).chanReady ch = s.chanReady ch ∧ (s.working tok env).servesOn ch cmd = s.servesOn ch cmd ∧
    (s.working tok env).overloaded ch = s.overloaded ch := by
  cases ch with
  | mbx m => exact ⟨rfl, rfl, rfl⟩
  | mctp via msg => exact ⟨rfl, rfl, rfl⟩
  | i3c msg => exact ⟨rfl, rfl, rfl⟩

theorem State.asked.working (h : s.asked ch cmd n ws t) (tok : Tok) (env : Env) :
    (s.working tok env).asked ch cmd n ws (t.working tok env) := by
  obtain ⟨hl, hc, hready, hreq, hserves, hover, hrest⟩ := h
  obtain ⟨hready', hserves', hover'⟩ := s.server_working ch cmd tok env
  exact ⟨hl, hc, hready'.trans hready, State.request_working tok env hreq, hserves'.trans hserves, hover'.trans hover, hrest⟩

/-- A command of a fixed number of words that its server takes up inside a computation. -/
theorem State.asked.settles (h : s.asked ch cmd n ws t) (hint : Nat) (tok : Tok) (env : Env) (f : State → Nat → List Nat → State) :
    part (chanOk ch) (s.run (s.settle tok env (fun u => u.serve ch cmd n hint f))) =
      .next (s.keep (s.settle tok env (fun _ => f (t.working tok env) (ws.getD 0 0) (ws.drop 1)))) := by
  refine (h.runs _).trans (congrArg (fun u => Host.Outcome.next (s.keep u)) ?_)
  exact State.settle_congr (State.serve_asked (h.working tok env) hint f)

/-- What a computation answers, from the state that it ends in. -/
def State.answered (s : State) (ch : Chan) (env : Env) (v : State) : Host.Outcome State Fault Refusal :=
  .next (s.keep (s.settle (.chan (chanNum ch)) env (fun _ => v)))

/-! ### SUBMIT -/

/-- What SUBMIT does at a control core once it is taken up. -/
def State.submitted (w : State) (c h hint q n src : Nat) : State :=
  let ch := Chan.mbx (8 + c)
  if 2048 ≤ q then w.badArg ch h 1
  else if n = 0 ∨ 16 < n then w.badArg ch h 2
  else
    match w.rangeBad src (64 * n) with
    | some b => (w.rangeErr (srcCC c) b).replyFail ch h stAddrRange
    | none =>
      if w.sqSize q ≤ ((w.queue q).tail + w.sqSize q - (w.queue q).head) % w.sqSize q + n then w.busyReply ch h hint
      else
        let u := w.readMem (srcCC c) src (64 * n)
        match u.2.err with
        | some (st, _) => u.1.replyFail ch h st
        | none =>
          let v := u.1.submitWrite (srcCC c) q n u.2.bytes
          match v.2 with
          | some st => v.1.replyFail ch h st
          | none => (v.1.submitBell q n u.2.bytes).replyOk ch h []

theorem submit_asked {c : Nat} (h : s.asked (.mbx (8 + c)) 0x20 4 ws t) (hint : Nat) (env : Env) :
    exec (.submit (.mbx (8 + c)) hint env) s = s.answered (.mbx (8 + c)) env ((t.working (.chan (chanNum (.mbx (8 + c)))) env).submitted c
      (ws.getD 0 0) hint (ws.getD 1 0) (ws.getD 2 0) (word2 (ws.drop 1) 2)) := by
  refine (h.settles hint _ env _).trans ?_
  dsimp only
  rw [(drop_one_words ws).1, drop_one_getD, Nat.add_sub_cancel_left]
  rfl

theorem State.submitted_full {w : State} {c h hint q n src : Nat} (hq : q < 2048) (h1 : 1 ≤ n) (h16 : n ≤ 16)
    (hb : w.rangeBad src (64 * n) = none) (hroom : w.sqSize q ≤ ((w.queue q).tail + w.sqSize q - (w.queue q).head) % w.sqSize q + n) :
    w.submitted c h hint q n src = w.busyReply (.mbx (8 + c)) h hint := by
  unfold State.submitted
  dsimp only
  rw [if_neg (by omega), if_neg (by omega), hb]
  exact if_pos hroom

end

/-! ### A SUBMIT whose server's computation awaits spilled memory -/

/-- A SUBMIT of 16 records to queue 0, from the address after stacked memory. -/
def holedSubmit : List Nat := [0x20004000, 0, 16, 0, 0x120]

/-- A device whose control core 0 runs, with a ring of one slot for queue 0. -/
def holedCore : State := (({} : State).setReg (Reg.HST_CC_STATUS 0) (BitVec.ofNat 64 (2 ^ 32))).setReg (Reg.CQ_SQ_CFG 0) 0

/-- The device after its server has taken the request, and a spill request of that server's channel is on its way. -/
def holedTaken : State := { holedCore with mbx := [], outstanding := [(.chan 8, .spill 0 0)] }

/-- The device that holds the request. -/
def holedState : State := { holedTaken with mbx := [(8, { taken := [holedSubmit] })] }

theorem holedState_asked : holedState.asked (.mbx 8) 0x20 4 holedSubmit holedTaken := by
  refine ⟨by decide, by decide, by decide, ?_, by decide, by decide, by decide, by decide, by decide, by decide⟩
  rfl

/-- The first word of the reply in mailbox 8. -/
def repliedWord : Host.Outcome State Fault Refusal → Nat
  | .next t => (t.reg (Reg.MBX_UP_DATA 8 1)).toNat
  | _ => 0

/-- Refutes O51: where a spill request of the server's channel is under way, the computation of SUBMIT does not answer an address that
names no memory with ADDR_RANGE: it goes on to the ring, here a full one, and answers BUSY. -/
theorem not_quotesKeysAndSubmissions : ¬ Obligations.QuotesKeysAndSubmissions := by
  unfold Obligations.QuotesKeysAndSubmissions
  intro hall
  obtain ⟨-, -, hsubmit⟩ := hall (.mbx 8) 1000 false holedSubmit {} holedState holedTaken
  obtain ⟨-, -, hrecords⟩ := hsubmit 0 rfl holedState_asked
  have hstated := (hrecords (by decide) (by decide) (by decide)).1 0x12000000000 (by decide)
  have hmodel := submit_asked (c := 0) holedState_asked 1000 {}
  rw [State.submitted_full (by decide) (by decide) (by decide) (by decide) (by decide)] at hmodel
  exact absurd ((congrArg repliedWord hmodel).symm.trans (congrArg repliedWord hstated)) (by decide)

end Sys2Proof.Machine

namespace Sys2Proof.Machine

/-! ## Updates and reads of flash (R450, R451, R465–R467) -/

section
variable {s t : State} {ch : Chan} {ws : List Nat}

theorem drop_one_more (ws : List Nat) : (ws.drop 1).getD 1 0 = ws.getD 2 0 := drop_one_getD ws 1

/-! ### FW_UPDATE -/

/-- What FW_UPDATE does once it is taken up. -/
def State.fwUpdated (w : State) (ch : Chan) (h hint src len : Nat) : State :=
  if w.flashBusy then w.busyReply ch h hint
  else if !inStacked src (max len 0x100) then w.replyFail ch h imRange
  else
    let u := w.readMem srcSecurity src 0x100
    let v := u.1.readMem srcSecurity (src + (len - 0x1000)) 0x1000
    let bad : Option Nat :=
      if u.2.err.isSome then some imRead
      else ((bundleHead u.2.bytes).orElse (fun _ => if imgLen u.2.bytes = len then none else some imLength))
    match bad with
    | some c => u.1.replyFail ch h c
    | none =>
      if v.2.err.isSome then v.1.replyFail ch h imRead
      else if (signatureFail v.1.fuses.root u.2.bytes v.2.bytes).isSome then v.1.replyFail ch h imSignature
      else if imgSecVer u.2.bytes < v.1.fuses.svn then v.1.replyFail ch h imRollback
      else { v.1 with flashOp := some { job := .bundle, who := chanWho ch h, src, len, base := fwSlot } }

theorem fwUpdate_asked (h : s.asked ch 0xA1 3 ws t) (hint : Nat) (env : Env) : exec (.fwUpdate ch hint env) s =
    s.answered ch env ((t.working (.chan (chanNum ch)) env).fwUpdated ch (ws.getD 0 0) hint (word2 (ws.drop 1) 0) (ws.getD 3 0)) := by
  refine (h.settles hint _ env _).trans ?_
  rw [(drop_one_words ws).2.1]
  rfl

section
variable {w : State} {h hint src len : Nat}

theorem State.fwUpdated_busy (hb : w.flashBusy = true) : w.fwUpdated ch h hint src len = w.busyReply ch h hint := if_pos hb

theorem State.fwUpdated_range (hb : w.flashBusy = false) (hr : inStacked src (max len 0x100) = false) :
    w.fwUpdated ch h hint src len = w.reply ch h 4 [imRange] := by
  unfold State.fwUpdated
  rw [if_neg (by simp [hb]), if_pos (by simp [hr])]
  rfl

variable (hb : w.flashBusy = false) (hr : inStacked src (max len 0x100) = true)
include hb hr

theorem State.fwUpdated_unread (hu : (w.readMem srcSecurity src 0x100).2.err ≠ none) :
    w.fwUpdated ch h hint src len = (w.readMem srcSecurity src 0x100).1.reply ch h 4 [imRead] := by
  unfold State.fwUpdated
  dsimp only
  rw [if_neg (by simp [hb]), if_neg (by simp [hr]), if_pos (Option.isSome_iff_ne_none.mpr hu)]
  rfl

variable (hu : (w.readMem srcSecurity src 0x100).2.err = none)
include hu

theorem State.fwUpdated_head {c : Nat} (hc : bundleHead (w.readMem srcSecurity src 0x100).2.bytes = some c) :
    w.fwUpdated ch h hint src len = (w.readMem srcSecurity src 0x100).1.reply ch h 4 [c] := by
  unfold State.fwUpdated
  dsimp only
  rw [if_neg (by simp [hb]), if_neg (by simp [hr]), if_neg (by simp [hu]), hc]
  rfl

variable (hc : bundleHead (w.readMem srcSecurity src 0x100).2.bytes = none)
include hc

theorem State.fwUpdated_length (hn : imgLen (w.readMem srcSecurity src 0x100).2.bytes ≠ len) :
    w.fwUpdated ch h hint src len = (w.readMem srcSecurity src 0x100).1.reply ch h 4 [imLength] := by
  unfold State.fwUpdated
  dsimp only
  rw [if_neg (by simp [hb]), if_neg (by simp [hr]), if_neg (by simp [hu]), hc, Option.orElse_none, if_neg hn]
  rfl

theorem State.fwUpdated_signed (hn : imgLen (w.readMem srcSecurity src 0x100).2.bytes = len)
    (hv : ((w.readMem srcSecurity src 0x100).1.readMem srcSecurity (src + (len - 0x1000)) 0x1000).2.err = none) :
    w.fwUpdated ch h hint src len =
      let u := w.readMem srcSecurity src 0x100
      let v := u.1.readMem srcSecurity (src + (len - 0x1000)) 0x1000
      if (signatureFail v.1.fuses.root u.2.bytes v.2.bytes).isSome then v.1.reply ch h 4 [imSignature]
      else if imgSecVer u.2.bytes < v.1.fuses.svn then v.1.reply ch h 4 [imRollback]
      else { v.1 with flashOp := some { job := .bundle, who := chanWho ch h, src, len, base := fwSlot } } := by
  unfold State.fwUpdated
  dsimp only
  rw [if_neg (by simp [hb]), if_neg (by simp [hr]), if_neg (by simp [hu]), hc, Option.orElse_none, if_pos hn]
  dsimp only
  rw [if_neg (by simp [hv])]
  rfl

end

/-! ### RTE_STORE -/

/-- What RTE_STORE does with a source that lies in stacked memory. -/
def State.rteStored (w : State) (ch : Chan) (h src len : Nat) (b : Bool) : State :=
  match w.storeCheck src len with
  | (s, _, some c) => s.replyFail ch h c
  | (s, n, none) => { s with flashOp := some { job := .copy b, who := chanWho ch h, src, len := n, base := flashCopy b } }

theorem rteStore_asked (h : s.asked ch 0xA2 4 ws t) (hcopy : ws.getD 4 0 < 2) (hb : t.flashBusy = false)
    (hr : inStacked (word2 (ws.drop 1) 0) (max (ws.getD 3 0) 0x100) = true) (hint : Nat) (env : Env) : exec (.rteStore ch hint env) s =
      s.answered ch env ((t.working (.chan (chanNum ch)) env).rteStored ch (ws.getD 0 0) (word2 (ws.drop 1) 0) (ws.getD 3 0) (ws.getD 4 0 == 1)) := by
  have hb' : (t.working (.chan (chanNum ch)) env).flashBusy = false := hb
  refine (h.settles hint _ env _).trans ?_
  rw [(drop_one_words ws).2.1, (drop_one_words ws).2.2]
  dsimp only
  rw [if_neg (by omega), if_neg (by simp [hb']), if_neg (by rw [hr]; decide)]
  rfl

section
variable {w : State} {h src len : Nat} {b : Bool}

theorem State.rteStored_unread (hu : (w.readMem srcSecurity src 0x100).2.err ≠ none) :
    w.rteStored ch h src len b = (w.readMem srcSecurity src 0x100).1.reply ch h 4 [imRead] := by
  unfold State.rteStored State.storeCheck
  dsimp only
  rw [if_pos (Option.isSome_iff_ne_none.mpr hu)]
  rfl

variable (hu : (w.readMem srcSecurity src 0x100).2.err = none)
include hu

theorem State.rteStored_head {f : Fail} (hf : headChecks 0x45545254 0x1800000 (w.readMem srcSecurity src 0x100).2.bytes = some f) :
    w.rteStored ch h src len b = (w.readMem srcSecurity src 0x100).1.reply ch h 4 [f.code] := by
  unfold State.rteStored State.storeCheck
  dsimp only
  rw [if_neg (by simp [hu]), hf]
  rfl

variable (hf : headChecks 0x45545254 0x1800000 (w.readMem srcSecurity src 0x100).2.bytes = none)
include hf

theorem State.rteStored_length (hn : len < imgLen (w.readMem srcSecurity src 0x100).2.bytes) :
    w.rteStored ch h src len b = (w.readMem srcSecurity src 0x100).1.reply ch h 4 [imLength] := by
  unfold State.rteStored State.storeCheck
  dsimp only
  rw [if_neg (by simp [hu]), hf, Option.map_none, Option.orElse_none, if_neg (by omega)]
  rfl

/-- Past the header, by the trailer and then the body. -/
theorem State.storeCheck_trailer (hn : imgLen (w.readMem srcSecurity src 0x100).2.bytes ≤ len) : w.storeCheck src len =
    let u := w.readMem srcSecurity src 0x100
    let n := imgLen u.2.bytes
    let v := u.1.readMem srcSecurity (src + (n - 0x1000)) 0x1000
    let x := v.1.readMem srcSecurity (src + 0x100) (n - 0x1100)
    if v.2.err.isSome then (v.1, n, some imRead)
    else
      match signatureFail v.1.fuses.root u.2.bytes v.2.bytes with
      | some f => (v.1, n, some f.code)
      | none => if x.2.err.isSome then (x.1, n, some imRead) else (x.1, n, routeBodyFail x.1.fuses (u.2.bytes ++ x.2.bytes ++ v.2.bytes)) := by
  unfold State.storeCheck
  dsimp only
  rw [if_neg (by simp [hu]), hf, Option.map_none, Option.orElse_none, if_pos hn] <;> rfl

end

/-! ### FLASH_READ -/

theorem flashRead_asked (h : s.asked ch 0xA3 4 ws t) (hint : Nat) (hoff : ws.getD 1 0 % 32 = 0) (hlen : ws.getD 2 0 % 32 = 0)
    (harea : (fwSlot ≤ ws.getD 1 0 ∧ ws.getD 1 0 + ws.getD 2 0 ≤ 0x600000) ∨
      (0x4000000 ≤ ws.getD 1 0 ∧ ws.getD 1 0 + ws.getD 2 0 ≤ 0x8000000)) (hdst : inStacked (word2 (ws.drop 1) 2) (ws.getD 2 0) = true)
    (hb : t.flashBusy = false) (hpos : 0 < ws.getD 2 0) : exec (.flashRead ch hint) s =
      let op : FlashOp := { job := .read (word2 (ws.drop 1) 2), who := chanWho ch (ws.getD 0 0), src := 0, len := ws.getD 2 0, base := ws.getD 1 0 }
      .next (s.keep { t with flashOp := some op }) := by
  refine (h.serves hint _).trans ?_
  rw [(drop_one_words ws).1, drop_one_more]
  dsimp only
  have hin : (decide (fwSlot ≤ ws.getD 1 0 ∧ ws.getD 1 0 + ws.getD 2 0 ≤ 0x600000) ||
      decide (0x4000000 ≤ ws.getD 1 0 ∧ ws.getD 1 0 + ws.getD 2 0 ≤ 0x8000000)) = true := by
    rw [Bool.or_eq_true, decide_eq_true_eq, decide_eq_true_eq]
    exact harea
  rw [hin, hdst, hb, if_neg (by omega), if_neg (by omega), if_neg (by decide), if_neg (by decide), if_neg (by decide), if_neg (by omega)]

end

end Sys2Proof.Machine

namespace Sys2Proof.Machine

/-! ### RTE_STORE past the header -/

/-- The checks of a source whose header has passed, from the reads of its trailer and of its body. -/
def storeTail (head : List Byte) (n : Nat) (v x : State × Rd) : State × Nat × Option Nat :=
  if v.2.err.isSome then (v.1, n, some imRead)
  else
    match signatureFail v.1.fuses.root head v.2.bytes with
    | some f => (v.1, n, some f.code)
    | none => if x.2.err.isSome then (x.1, n, some imRead) else (x.1, n, routeBodyFail x.1.fuses (head ++ x.2.bytes ++ v.2.bytes))

/-- What RTE_STORE answers, or begins, after its checks. -/
def storeAnswer (ch : Chan) (h src : Nat) (b : Bool) (r : State × Nat × Option Nat) : State :=
  match r.2.2 with
  | some c => r.1.reply ch h 4 [c]
  | none => { r.1 with flashOp := some { job := .copy b, who := chanWho ch h, src, len := r.2.1, base := flashCopy b } }

theorem State.rteStored_eq (w : State) (ch : Chan) (h src len : Nat) (b : Bool) :
    w.rteStored ch h src len b = storeAnswer ch h src b (w.storeCheck src len) := by
  unfold State.rteStored storeAnswer
  split
  next s n c heq => rw [heq]; rfl
  next s n heq => rw [heq]

theorem State.storeCheck_tail {w : State} {src len : Nat} (hu : (w.readMem srcSecurity src 0x100).2.err = none)
    (hf : headChecks 0x45545254 0x1800000 (w.readMem srcSecurity src 0x100).2.bytes = none)
    (hn : imgLen (w.readMem srcSecurity src 0x100).2.bytes ≤ len) : w.storeCheck src len =
      let u := w.readMem srcSecurity src 0x100
      let v := u.1.readMem srcSecurity (src + (imgLen u.2.bytes - 0x1000)) 0x1000
      storeTail u.2.bytes (imgLen u.2.bytes) v (v.1.readMem srcSecurity (src + 0x100) (imgLen u.2.bytes - 0x1100)) :=
  State.storeCheck_trailer hu hf hn

section
variable {ch : Chan} {h src n : Nat} {b : Bool} {head : List Byte} {v x : State × Rd} (hv : v.2.err = none)
include hv

theorem storeAnswer_trailer {f : Fail} (hsig : signatureFail v.1.fuses.root head v.2.bytes = some f) :
    storeAnswer ch h src b (storeTail head n v x) = v.1.reply ch h 4 [f.code] := by
  unfold storeTail
  rw [hv, if_neg (by decide), hsig]
  rfl

theorem storeAnswer_body (hsig : signatureFail v.1.fuses.root head v.2.bytes = none) (hx : x.2.err = none) {c : Nat}
    (hc : routeBodyFail x.1.fuses (head ++ x.2.bytes ++ v.2.bytes) = some c) :
    storeAnswer ch h src b (storeTail head n v x) = x.1.reply ch h 4 [c] := by
  unfold storeTail
  rw [hv, if_neg (by decide), hsig]
  dsimp only
  rw [hx, if_neg (by decide), hc]
  rfl

theorem storeAnswer_begins (hsig : signatureFail v.1.fuses.root head v.2.bytes = none) (hx : x.2.err = none)
    (hc : routeBodyFail x.1.fuses (head ++ x.2.bytes ++ v.2.bytes) = none) : storeAnswer ch h src b (storeTail head n v x) =
      let op : FlashOp := { job := .copy b, who := chanWho ch h, src, len := n, base := flashCopy b }
      { x.1 with flashOp := some op } := by
  unfold storeTail
  rw [hv, if_neg (by decide), hsig]
  dsimp only
  rw [hx, if_neg (by decide), hc]
  rfl

end

section
variable {s : State} {op : FlashOp} {err : Bool} {env : Env}

/-! ### FLASH_OP_DONE (R450, R451) -/

theorem exec_flashOpDone (hl : s.live) (err : Bool) (env : Env) :
    exec (.flashOpDone err env) s = .next (s.keep (s.unpaused (s.flashDone err env))) := State.run_live _ hl

theorem flashOpDone_idle (hl : s.live) (hn : s.oppBusy = true ∨ s.flashOp = none) (err : Bool) (env : Env) :
    exec (.flashOpDone err env) s = .next s := by
  rw [exec_flashOpDone hl, State.unpaused]
  split
  · rw [State.keep_self]
  next hfree =>
    rcases hn with hn | hn
    · exact absurd hn hfree
    · unfold State.flashDone
      rw [hn, State.keep_self]

/-- What ends an erase, a program or a read. -/
def State.flashEnded (op : FlashOp) (err : Bool) (z : State) : State :=
  match op.job with
  | .read dst => z.flashMove op dst err
  | .transfer _ => z
  | _ => z.updateStep op err

theorem State.flashDone_settles (hop : s.flashOp = some op) (hw : ∀ m k, op.who = some (m, k) → s.mbxFull m true = false) :
    s.flashDone err env = s.settle .flash env (State.flashEnded op err) := by
  unfold State.flashDone
  rw [hop]
  refine if_neg ?_
  cases hwho : op.who with
  | none => exact Bool.false_ne_true
  | some x => simp [hw x.1 x.2 hwho]

theorem flashOpDone_runs (hl : s.live) (hfree : s.oppBusy = false) (hop : s.flashOp = some op)
    (hw : ∀ m k, op.who = some (m, k) → s.mbxFull m true = false) {v : State} (hv : State.flashEnded op err (s.working .flash env) = v) :
    exec (.flashOpDone err env) s = .next (s.keep (s.settle .flash env (fun _ => v))) := by
  rw [exec_flashOpDone hl, State.unpaused, if_neg (by simp [hfree]), State.flashDone_settles hop hw]
  exact congrArg (fun t => Host.Outcome.next (s.keep t)) (State.settle_congr hv)

theorem State.flashEnded_read {z : State} {dst : Nat} (hj : op.job = .read dst) : State.flashEnded op err z = z.flashMove op dst err := by
  unfold State.flashEnded
  rw [hj]

theorem State.flashEnded_update {z : State} (hj : op.job = .bundle ∨ ∃ c, op.job = .copy c) : State.flashEnded op err z = z.updateStep op err := by
  unfold State.flashEnded
  rcases hj with hj | ⟨c, hj⟩
  · rw [hj]
  · rw [hj]

section
variable {z : State} {dst : Nat}

theorem State.flashMove_more (hmore : op.pos + min 0x10000 (op.len - op.pos) < op.len) : z.flashMove op dst false =
    let n := min 0x10000 (op.len - op.pos)
    { (z.writeMem srcSecurity (dst + op.pos) (z.flashBytes (op.base + op.pos) n)).1 with flashOp := some { op with pos := op.pos + n } } := by
  unfold State.flashMove
  dsimp only
  rw [if_neg Bool.false_ne_true, if_neg (by omega)]

theorem State.flashMove_error {m k : Nat} (hw : op.who = some (m, k)) :
    z.flashMove op dst true = ({ z with flashOp := none } : State).reply (.mbx m) k 4 [0x20] := by
  simp only [State.flashMove, hw]
  exact if_pos trivial

theorem State.flashMove_last {m k : Nat} (hw : op.who = some (m, k)) (hlast : op.len ≤ op.pos + min 0x10000 (op.len - op.pos)) :
    z.flashMove op dst false =
      let y := (z.writeMem srcSecurity (dst + op.pos) (z.flashBytes (op.base + op.pos) (min 0x10000 (op.len - op.pos)))).1
      ({ y with flashOp := none } : State).reply (.mbx m) k 0 [] := by
  simp only [State.flashMove, hw]
  rw [if_neg Bool.false_ne_true, if_pos hlast]
  rfl

theorem State.updateStep_error : z.updateStep op true =
    (if op.pos < op.len then z.flashSpoil (op.base + op.pos) 0x10000 else z).updateEnd op (some 0x20) := if_pos rfl

theorem State.updateStep_end (hend : op.len ≤ op.pos) : z.updateStep op false = z.updateEnd op (z.readBackFail op) := by
  unfold State.updateStep
  rw [if_neg Bool.false_ne_true, if_pos hend]

variable (hpos : op.pos < op.len)
include hpos

theorem State.updateStep_erase (he : op.erased = false) :
    z.updateStep op false = { (z.eraseSector (op.base + op.pos)) with flashOp := some { op with erased := true } } := by
  unfold State.updateStep
  rw [if_neg Bool.false_ne_true, if_neg (by omega), if_pos (by simp [he])]

variable (he : op.erased = true)
include he

theorem State.updateStep_data (hd : op.data ≠ []) : z.updateStep op false =
    let n := min 0x10000 (op.len - op.pos)
    { (z.program (op.base + op.pos) (slice op.data op.pos n)) with flashOp := some { op with pos := op.pos + n, erased := false } } := by
  unfold State.updateStep
  dsimp only
  rw [if_neg Bool.false_ne_true, if_neg (by omega), if_neg (by simp [he]), if_neg hd]

theorem State.updateStep_read (hd : op.data = []) (hr : (z.readMem srcSecurity (op.src + op.pos) (min 0x10000 (op.len - op.pos))).2.err = none) :
    z.updateStep op false =
      let n := min 0x10000 (op.len - op.pos)
      let y := z.readMem srcSecurity (op.src + op.pos) n
      { (y.1.program (op.base + op.pos) y.2.bytes) with flashOp := some { op with pos := op.pos + n, erased := false } } := by
  unfold State.updateStep
  dsimp only
  rw [if_neg Bool.false_ne_true, if_neg (by omega), if_neg (by simp [he]), if_pos hd]
  dsimp only
  rw [hr]

theorem State.updateStep_unread (hd : op.data = []) (hr : (z.readMem srcSecurity (op.src + op.pos) (min 0x10000 (op.len - op.pos))).2.err ≠ none) :
    z.updateStep op false = (z.readMem srcSecurity (op.src + op.pos) (min 0x10000 (op.len - op.pos))).1.updateEnd op (some imRead) := by
  obtain ⟨x, hx⟩ := Option.ne_none_iff_exists'.mp hr
  unfold State.updateStep
  dsimp only
  rw [if_neg Bool.false_ne_true, if_neg (by omega), if_neg (by simp [he]), if_pos hd]
  dsimp only
  rw [hx]

end

theorem State.flash_working (s : State) (tok : Tok) (env : Env) (op : FlashOp) :
    (∀ off len, (s.working tok env).flashBytes off len = s.flashBytes off len) ∧ (s.working tok env).readBackFail op = s.readBackFail op := by
  have hbytes (off len : Nat) : (s.working tok env).flashBytes off len = s.flashBytes off len := rfl
  have himage : (s.working tok env).slotImage = s.slotImage := by unfold State.slotImage; rw [hbytes, hbytes]
  have hfuses : (s.working tok env).fuses = s.fuses := rfl
  have hhead (bad : Option Nat) : (s.working tok env).slotHead bad = s.slotHead bad := by
    unfold State.slotHead
    simp only [hbytes, hfuses]
  have hbody (bad : Option Nat) (whole : Bool) : (s.working tok env).slotBody bad whole = s.slotBody bad whole := by
    unfold State.slotBody
    rw [himage, hfuses]
  refine ⟨hbytes, ?_⟩
  unfold State.readBackFail
  rw [hhead, hbody, hfuses, hbytes]

/-! ### PLDM updates (R467) -/

variable {via : Via}

theorem exec_pldm (hl : s.live) (hv : viaOk via = true) (hfree : s.oppBusy = false) (step : PldmStep) :
    exec (.pldmFirmwareUpdate via step) s = .next (s.keep (s.pldmUpdate via step)) := by
  refine (part_true hv _).trans ?_
  rw [State.run_live _ hl, State.unpaused, if_neg (by simp [hfree])]

theorem State.keep_freeReply {u : State} (hp : u.pending = s.pending) (hf : u.fuses = s.fuses) (via : Via) :
    s.keep (u.freeReply via) = u.freeReply via := by
  unfold State.freeReply
  cases via with
  | i3c => exact State.keep_of_eq hp hf
  | vdm h => exact State.keep_of_eq hp hf

theorem State.keep_setFlashOp_freeReply (s : State) (x : Option FlashOp) (via : Via) :
    s.keep (({ s with flashOp := x } : State).freeReply via) = ({ s with flashOp := x } : State).freeReply via :=
  State.keep_freeReply (u := { s with flashOp := x }) rfl rfl via

theorem State.keep_setFlashOp (x : Option FlashOp) : s.keep { s with flashOp := x } = { s with flashOp := x } := rfl

/-- A step of a PLDM update, while Siolo's firmware runs and is not overloaded. -/
def State.pldmStepped (s : State) (via : Via) (step : PldmStep) : State :=
  match step, s.flashOp with
  | .request comp, _ =>
    if s.flashBusy ∨ comp = 0 ∨ 2 < comp then s.freeReply via
    else { s with flashOp := some { job := .transfer comp, who := none, via, src := 0, len := 0, base := 0 } }.freeReply via
  | .data b, some op => s.pldmIn via op (fun _ => { s with flashOp := some { op with data := op.data ++ b } }.freeReply via)
  | .complete, some op => s.pldmIn via op (s.pldmWrite op)
  | .cancel, some op => s.pldmIn via op (fun _ => { s with flashOp := none }.freeReply via)
  | _, none => s.freeReply via

theorem State.pldmUpdate_eq (hrun : s.sioRun = true) (hup : s.viaUp via = true) (step : PldmStep) :
    s.pldmUpdate via step = if s.fld Reg.SIO_STATUS 1 1 = 1 then s.freeReply via else s.pldmStepped via step := by
  unfold State.pldmUpdate State.mctpServe
  rw [hrun, hup, if_pos (by rfl)]
  rfl

theorem State.pldmStepped_request {comp : Nat} (hcomp : comp = 1 ∨ comp = 2) (hb : s.flashBusy = false) :
    s.pldmStepped via (.request comp) = ({ s with
      flashOp := some { job := .transfer comp, who := none, via, src := 0, len := 0, base := 0 } } : State).freeReply via := by
  have hgood : ¬ (s.flashBusy = true ∨ comp = 0 ∨ 2 < comp) := by
    rintro (hbusy | hbad)
    · rw [hb] at hbusy; cases hbusy
    · omega
  simp only [State.pldmStepped]
  exact if_neg hgood

theorem State.pldmStepped_busy (comp : Nat) (hb : s.flashBusy = true) : s.pldmStepped via (.request comp) = s.freeReply via := by
  simp only [State.pldmStepped]
  exact if_pos (.inl hb)

section
variable {comp : Nat} (hop : s.flashOp = some op) (hj : op.job = .transfer comp)
include hop hj

theorem State.pldmStepped_data (b : List Byte) : s.pldmStepped via (.data b) =
    ({ s with flashOp := some { op with data := op.data ++ b } } : State).freeReply via := by
  simp only [State.pldmStepped, hop, State.pldmIn, hj]

theorem State.pldmStepped_cancel : s.pldmStepped via .cancel = ({ s with flashOp := none } : State).freeReply via := by
  simp only [State.pldmStepped, hop, State.pldmIn, hj]

theorem State.pldmStepped_complete : s.pldmStepped via .complete = s.pldmWrite op comp := by
  simp only [State.pldmStepped, hop, State.pldmIn, hj]

end

theorem State.pldmWrite_bundle (hhead : bundleHead op.data = none) (hlen : imgLen op.data = op.data.length)
    (hsig : signatureFail s.fuses.root (op.data.take 0x100) (op.data.drop (imgLen op.data - 0x1000)) = none)
    (hsvn : s.fuses.svn ≤ imgSecVer op.data) :
    s.pldmWrite op 1 = { s with flashOp := some { op with job := .bundle, len := imgLen op.data, base := fwSlot, then_ := false } } := by
  have hgood : pldmGood s.fuses 1 op.data = true := by
    unfold pldmGood
    rw [if_pos rfl, hhead, hsig, decide_eq_true hsvn, hlen, beq_self_eq_true]
    rfl
  unfold State.pldmWrite
  rw [hgood, if_neg (by decide), if_pos rfl]

theorem State.pldmWrite_pair (hgood : routeFail s.fuses op.data = none) : s.pldmWrite op 2 =
    { s with flashOp := some { op with job := .copy true, len := imgLen op.data, base := flashCopy true, then_ := true } } := by
  have hok : pldmGood s.fuses 2 op.data = true := by
    unfold pldmGood
    rw [if_neg (by decide), hgood]
    rfl
  unfold State.pldmWrite
  rw [hok, if_neg (by decide), if_neg (by decide)]

theorem State.pldmWrite_bad (hbad : routeFail s.fuses op.data ≠ none) :
    s.pldmWrite op 2 = ({ s with flashOp := none } : State).freeReply op.via := by
  have hok : pldmGood s.fuses 2 op.data = false := by
    unfold pldmGood
    rw [if_neg (by decide)]
    exact Option.isNone_eq_false_iff.mpr (Option.isSome_iff_ne_none.mpr hbad)
  unfold State.pldmWrite
  rw [hok, if_pos (by rfl)]

end

/-- Settles O52: each flash command by its checks in order, each step of an operation by what it has done. -/
theorem flashOperations : Obligations.FlashOperations := by
  unfold Obligations.FlashOperations
  intro ch hint comp ws via b err env s t
  dsimp only
  refine ⟨fun h => ?_, fun h hcopy hb hr => ?_, fun h hoff hlen harea hdst hb hpos => flashRead_asked h hint hoff hlen harea hdst hb hpos,
    fun hl hn => flashOpDone_idle hl hn err env, fun op hl hfree hop hw => ⟨fun dst hj => ⟨?_, fun m k hwho => ⟨?_, ?_⟩⟩,
      fun hj => ⟨?_, ?_, ?_, ?_, ?_⟩⟩, fun hl hv hfree hrun hup => ?_⟩
  · have hexec := fwUpdate_asked h hint env
    refine ⟨fun hb => ?_, fun hb hr => ?_, fun hb hr => ⟨fun hu => ?_, fun hu => ⟨fun c hc => ?_, fun hc hn => ?_⟩,
      fun hu hc hn hv => ⟨fun hsig hsvn => ?_, fun hsig => ?_, fun hsig hsvn => ?_⟩⟩⟩
    · obtain ⟨k, h1, h2, heq⟩ := (t.working (.chan (chanNum ch)) env).busyReply_hint ch (ws.getD 0 0) hint
      refine ⟨k, h1, h2, ?_⟩
      rw [hexec, State.fwUpdated_busy (w := t.working (.chan (chanNum ch)) env) hb, heq]
      rfl
    · rw [hexec, State.fwUpdated_range (w := t.working (.chan (chanNum ch)) env) hb hr]
      rfl
    · rw [hexec, State.fwUpdated_unread (w := t.working (.chan (chanNum ch)) env) hb hr hu]
      rfl
    · rw [hexec, State.fwUpdated_head (w := t.working (.chan (chanNum ch)) env) hb hr hu hc]
      rfl
    · rw [hexec, State.fwUpdated_length (w := t.working (.chan (chanNum ch)) env) hb hr hu hc hn]
      rfl
    · rw [hexec, State.fwUpdated_signed (w := t.working (.chan (chanNum ch)) env) hb hr hu hc hn hv]
      refine congrArg (s.answered ch env) ?_
      exact (if_neg (by rw [Bool.not_eq_true, Option.isSome_eq_false_iff, Option.isNone_iff_eq_none]; exact hsig)).trans (if_neg (Nat.not_lt.mpr hsvn))
    · rw [hexec, State.fwUpdated_signed (w := t.working (.chan (chanNum ch)) env) hb hr hu hc hn hv]
      exact congrArg (s.answered ch env) (if_pos (Option.isSome_iff_ne_none.mpr hsig))
    · rw [hexec, State.fwUpdated_signed (w := t.working (.chan (chanNum ch)) env) hb hr hu hc hn hv]
      refine congrArg (s.answered ch env) ?_
      exact (if_neg (by rw [Bool.not_eq_true, Option.isSome_eq_false_iff, Option.isNone_iff_eq_none]; exact hsig)).trans (if_pos hsvn)
  · have hexec := rteStore_asked h hcopy hb hr hint env
    refine ⟨fun hu => ?_, fun hu => ⟨fun f hf => ?_, fun hf hn => ?_, fun hf hn hv => ⟨fun f hsig => ?_, fun hsig hx => ⟨fun c hc => ?_, fun hc => ?_⟩⟩⟩⟩
    · rw [hexec, State.rteStored_unread (w := t.working (.chan (chanNum ch)) env) hu]
      rfl
    · rw [hexec, State.rteStored_head (w := t.working (.chan (chanNum ch)) env) hu hf]
      rfl
    · rw [hexec, State.rteStored_length (w := t.working (.chan (chanNum ch)) env) hu hf hn]
      rfl
    · rw [hexec, State.rteStored_eq, State.storeCheck_tail (w := t.working (.chan (chanNum ch)) env) hu hf hn]
      exact congrArg (s.answered ch env) (storeAnswer_trailer hv hsig)
    · rw [hexec, State.rteStored_eq, State.storeCheck_tail (w := t.working (.chan (chanNum ch)) env) hu hf hn]
      exact congrArg (s.answered ch env) (storeAnswer_body hv hsig hx hc)
    · rw [hexec, State.rteStored_eq, State.storeCheck_tail (w := t.working (.chan (chanNum ch)) env) hu hf hn]
      exact congrArg (s.answered ch env) (storeAnswer_begins hv hsig hx hc)
  · rintro rfl hmore
    refine flashOpDone_runs hl hfree hop hw ?_
    rw [State.flashEnded_read hj, State.flashMove_more hmore]
    rfl
  · rintro rfl
    refine flashOpDone_runs hl hfree hop hw ?_
    rw [State.flashEnded_read hj, State.flashMove_error hwho]
    rfl
  · rintro rfl hlast
    refine flashOpDone_runs hl hfree hop hw ?_
    rw [State.flashEnded_read hj, State.flashMove_last hwho hlast]
    rfl
  · rintro rfl
    refine flashOpDone_runs hl hfree hop hw ?_
    rw [State.flashEnded_update hj, State.updateStep_error]
    rfl
  · rintro rfl hend
    refine flashOpDone_runs hl hfree hop hw ?_
    rw [State.flashEnded_update hj, State.updateStep_end hend, (s.flash_working .flash env op).2]
    rfl
  · rintro rfl hpos he
    refine flashOpDone_runs hl hfree hop hw ?_
    rw [State.flashEnded_update hj, State.updateStep_erase hpos he]
    rfl
  · rintro rfl hpos he hd
    refine flashOpDone_runs hl hfree hop hw ?_
    rw [State.flashEnded_update hj, State.updateStep_data hpos he hd]
    rfl
  · rintro rfl hpos he hd
    refine ⟨fun hread => flashOpDone_runs hl hfree hop hw ?_, fun hread => flashOpDone_runs hl hfree hop hw ?_⟩
    · exact (State.flashEnded_update hj).trans (State.updateStep_read hpos he hd hread)
    · exact (State.flashEnded_update hj).trans (State.updateStep_unread hpos he hd hread)
  · have hexec := fun step => (exec_pldm hl hv hfree step).trans
      (congrArg (fun u => Host.Outcome.next (s.keep u)) (State.pldmUpdate_eq hrun hup step))
    refine ⟨fun hover step => ?_, fun hover => ⟨fun hcomp hb => ?_, fun hb => ?_, fun op hop hj => ⟨?_, ?_, ?_, ?_, ?_⟩⟩⟩
    · rw [hexec, if_pos hover, State.keep_freeReply rfl rfl]
    · rw [hexec, if_neg (by omega), State.pldmStepped_request hcomp hb, State.keep_setFlashOp_freeReply]
    · rw [hexec, if_neg (by omega), State.pldmStepped_busy comp hb, State.keep_freeReply rfl rfl]
    · rw [hexec, if_neg (by omega), State.pldmStepped_data hop hj, State.keep_setFlashOp_freeReply]
    · rw [hexec, if_neg (by omega), State.pldmStepped_cancel hop hj, State.keep_setFlashOp_freeReply]
    · rintro rfl hhead hlen hsig hsvn
      rw [hexec, if_neg (by omega), State.pldmStepped_complete hop hj, State.pldmWrite_bundle hhead hlen hsig hsvn, State.keep_setFlashOp]
    · rintro rfl hgood
      rw [hexec, if_neg (by omega), State.pldmStepped_complete hop hj, State.pldmWrite_pair hgood, State.keep_setFlashOp]
    · rintro rfl hbad
      rw [hexec, if_neg (by omega), State.pldmStepped_complete hop hj, State.pldmWrite_bad hbad, State.keep_setFlashOp_freeReply]

end Sys2Proof.Machine

namespace Sys2Proof.Machine

/-! ## Registers that posting leaves alone -/

/-- A register that the log of a source does not use. -/
structure offLog (src o : Nat) : Prop where
  alarm : o ≠ Reg.SIO_ALARM_STATUS
  event : o ≠ Reg.SIO_EVENT
  count : o ≠ Reg.SIO_EVENT_CNT
  drop : o ≠ Reg.SIO_LOG_DROP src

section
variable {o src : Nat}

theorem State.reg_latchAlarm_off (s : State) {r : LogRec} (h : offLog r.src o) : (s.latchAlarm r).reg o = s.reg o := by
  unfold State.latchAlarm
  dsimp only
  split
  · rw [State.reg_setFld_ne _ _ _ _ h.alarm]; rfl
  · rw [State.reg_raise_ne _ _ _ h.alarm h.alarm]; rfl

theorem State.reg_dropTrace_off (s : State) {r : LogRec} (h : offLog r.src o) : (s.dropTrace r).reg o = s.reg o := by
  unfold State.dropTrace
  dsimp only
  rw [State.reg_setLog, State.reg_raise_ne _ _ _ h.event h.count, State.reg_count_ne _ _ h.drop]

theorem State.reg_intakeRec_off (s : State) {r : LogRec} (h : offLog r.src o) : (s.intakeRec r).reg o = s.reg o := by
  unfold State.intakeRec
  dsimp only
  split
  · split
    · rw [State.reg_setLog, s.reg_latchAlarm_off h]
    · rw [State.reg_setLog, s.reg_latchAlarm_off h]
  · split
    · rfl
    · split
      · exact s.reg_dropTrace_off h
      · exact State.reg_of_regs (s.regs_coalesce r) o

theorem State.reg_post_off (s : State) (h : offLog src o) (code cls arg : Nat) : (s.post src code cls arg).reg o = s.reg o :=
  s.reg_intakeRec_off h

theorem State.fld_post_off (s : State) (h : offLog src o) (code cls arg hi lo : Nat) :
    (s.post src code cls arg).fld o hi lo = s.fld o hi lo := congrArg (fget · hi lo) (s.reg_post_off h code cls arg)

/-- Registers behind the SIO_ block, for a source of the table of slots. -/
theorem offLog_behind (hsrc : src < 0x1000) (ho : 0xE000000 ≤ o) : offLog src o := by
  refine ⟨?_, ?_, ?_, ?_⟩
  · unfold Reg.SIO_ALARM_STATUS; omega
  · unfold Reg.SIO_EVENT; omega
  · unfold Reg.SIO_EVENT_CNT; omega
  · unfold Reg.SIO_LOG_DROP; omega

end

end Sys2Proof.Machine

namespace Sys2Proof.Machine

/-! ## Boot and recovery (R451–R453, R464, R468, R469) -/

section
variable {s : State} {bad : Option Nat}

/-! ### What boot leaves of the queue of commands and of the fuses -/

theorem State.loadView_clearMeas (s : State) : s.clearMeas.loadView = s.loadView := by
  unfold State.clearMeas
  refine foldl_keeps State.loadView (fun t r => ?_) _ _
  rw [State.loadView_setReg]
  exact foldl_keeps State.loadView (fun u w => State.loadView_setReg _ _ _) _ _

theorem State.loadView_recover (s : State) (again : Bool) (code : Nat) : (s.recover again code).loadView = s.loadView := by
  have hemit (t : State) : ({ t.emit .ibi with boot := .recovery again, session := none } : State).loadView = t.loadView := rfl
  unfold State.recover
  dsimp only
  rw [hemit, State.loadView_post, State.loadView_extend, State.loadView_setFld, State.loadView_setFld]

/-- Only the memories of the part's processors change. -/
def State.onlyPriv (s t : State) : Prop := ∃ p, t = { s with priv := p }

theorem State.onlyPriv.trans {t u : State} (h : s.onlyPriv t) (h' : t.onlyPriv u) : s.onlyPriv u := by
  obtain ⟨_, rfl⟩ := h
  obtain ⟨_, rfl⟩ := h'
  exact ⟨_, rfl⟩

theorem State.onlyPriv.frame {t : State} (h : s.onlyPriv t) : t = { s with priv := t.priv } := by
  obtain ⟨_, rfl⟩ := h
  rfl

theorem State.onlyPriv_loadSection (s : State) (bad : Option Nat) (base : Nat) (x : Nat × Nat × Nat) : s.onlyPriv (s.loadSection bad base x) :=
  ⟨_, rfl⟩

theorem State.onlyPriv_foldl (bad : Option Nat) (base : Nat → Nat) (x : Nat × Nat × Nat) (l : List Nat) (s : State) :
    s.onlyPriv (l.foldl (fun u c => u.loadSection bad (base c) x) s) := by
  induction l generalizing s with
  | nil => exact ⟨s.priv, rfl⟩
  | cons c l ih => exact (s.onlyPriv_loadSection bad (base c) x).trans (ih _)

theorem State.onlyPriv_loadSections (s : State) (again : Bool) (bad : Option Nat) : s.onlyPriv (s.loadSections again bad) := by
  unfold State.loadSections
  dsimp only
  generalize fwSio (s.flashBytes fwSlot 0x100) = x
  generalize fwCc (s.flashBytes fwSlot 0x100) = y
  split
  · exact s.onlyPriv_loadSection _ _ _
  · exact (s.onlyPriv_loadSection bad privSram x).trans (State.onlyPriv_foldl bad privCore y _ _)

theorem State.loadView_loadSections (s : State) (again : Bool) (bad : Option Nat) : (s.loadSections again bad).loadView = s.loadView := by
  obtain ⟨p, hp⟩ := s.onlyPriv_loadSections again bad
  rw [hp]
  rfl

/-! ### The steps of boot -/

theorem exec_unpaused (hl : s.live) (hfree : s.oppBusy = false) (t : State) : s.run (s.unpaused t) = .next (s.keep t) := by
  rw [State.unpaused, if_neg (by simp [hfree]), State.run_live _ hl]

theorem run_paused (hl : s.live) (hbusy : s.oppBusy = true) (t : State) : s.run (s.unpaused t) = .next s := by
  rw [State.unpaused, if_pos hbusy, State.run_live _ hl, State.keep_self]

/-- The fuses measured, at the start of boot. -/
def State.fusesMeasured (s : State) : State := s.clearMeas.extend 0 (sha256 (fuseString s.fuses))

theorem State.loadView_fusesMeasured (s : State) : s.fusesMeasured.loadView = s.loadView :=
  (State.loadView_extend _ _ _).trans s.loadView_clearMeas

theorem State.bootHeader_runs (hb : s.boot = .header false) : s.bootHeader bad =
    match s.fusesMeasured.slotHead bad with
    | some c => s.fusesMeasured.recover false c
    | none => { s.fusesMeasured with boot := .body false } := if_pos hb

theorem State.bootBody_runs (hb : s.boot = .body false) : s.bootBody bad =
    match (s.loadSections false bad).slotBody bad false with
    | some c => (s.loadSections false bad).recover false c
    | none => (s.loadSections false bad).firmwareStart false := if_pos hb

theorem State.reloadDone_runs (hb : s.boot = .header true) : s.reloadDone bad =
    match s.slotHead bad with
    | some c => s.recover true c
    | none =>
      match (s.loadSections true bad).slotBody bad false with
      | some c => (s.loadSections true bad).recover true c
      | none => (s.loadSections true bad).firmwareStart true := if_pos hb

theorem State.boot_running (hb : s.boot = .run) : s.bootHeader bad = s ∧ s.bootBody bad = s ∧ s.reloadDone bad = s := by
  unfold State.bootHeader State.bootBody State.reloadDone
  rw [hb]
  exact ⟨if_neg (by decide), if_neg (by decide), if_neg (by decide)⟩

/-! ### The recovery loader and the firmware -/

theorem State.reg_extend_off (s : State) (r : Nat) (v : List Byte) {o : Nat} (hlog : offLog slotSecurity o) (hmeas : ∀ w, o ≠ Reg.SEC_MEAS r w)
    (hcnt : o ≠ Reg.SEC_MEAS_CNT r) : (s.extend r v).reg o = s.reg o := by
  unfold State.extend State.setMeas
  dsimp only
  rw [State.reg_post_off _ hlog, State.reg_addFld_ne _ _ _ _ hcnt]
  exact foldl_keeps (fun t => t.reg o) (fun t w => State.reg_setReg_ne _ _ (hmeas w)) _ s

theorem offLog_secStatus : offLog slotSecurity Reg.SEC_STATUS := offLog_behind (by decide) (by decide)

theorem secStatus_ne_meas (r w : Nat) : Reg.SEC_STATUS ≠ Reg.SEC_MEAS r w ∧ Reg.SEC_STATUS ≠ Reg.SEC_MEAS_CNT r := by
  unfold Reg.SEC_STATUS Reg.SEC_MEAS Reg.SEC_MEAS_CNT
  omega

theorem State.reg_recover (s : State) (again : Bool) (code : Nat) :
    (s.recover again code).reg Reg.SEC_STATUS = ((s.setFld Reg.SEC_STATUS 1 1 1).setFld Reg.SEC_STATUS 0 0 0).reg Reg.SEC_STATUS := by
  have hregs : (s.recover again code).regs =
      ((((s.setFld Reg.SEC_STATUS 1 1 1).setFld Reg.SEC_STATUS 0 0 0).extend 3 [1]).post slotSecurity 0x0A00 3 code).regs := by
    have hregs (t : State) : ({ t.emit .ibi with boot := .recovery again, session := none } : State).regs = t.regs := rfl
    unfold State.recover
    exact hregs _
  rw [State.reg_of_regs hregs, State.reg_post_off _ offLog_secStatus,
    State.reg_extend_off _ _ _ offLog_secStatus (fun w => (secStatus_ne_meas 3 w).1) (secStatus_ne_meas 3 0).2]

theorem State.recover_spec (s : State) (again : Bool) (code : Nat) : (s.recover again code).inRecovery = true ∧
    (s.recover again code).fld Reg.SEC_STATUS 0 0 = 0 ∧ (s.recover again code).session = none := by
  have hreg := s.reg_recover again code
  have hrec : (s.recover again code).fld Reg.SEC_STATUS 1 1 = 1 := by
    refine (congrArg (fget · 1 1) hreg).trans ?_
    exact (State.fld_setFld_ne _ _ _ (by decide) (by decide) (by decide) (by decide)).trans (State.fld_setFld_self _ _ _ (by decide) (by decide))
  refine ⟨?_, ?_, rfl⟩
  · unfold State.inRecovery
    rw [hrec]
    rfl
  · refine (congrArg (fget · 0 0) hreg).trans ?_
    exact (State.fld_setFld_self _ _ _ (by decide) (by decide)).trans (Nat.zero_mod _)

/-- A bundle's header measured after a reset of Siolo alone, and whether its SEQ has changed. -/
def State.fwMeasured (s : State) (h : List Byte) : State :=
  if (s.extend 1 (sha256 h)).reg Reg.SEC_FW_SEQ ≠ BitVec.ofNat 64 (imgSeq h) then (s.extend 1 (sha256 h)).setFld Reg.SEC_STATUS 4 4 1
  else s.extend 1 (sha256 h)

/-- The firmware of a SEQ and a security version, as the status registers tell it. -/
def State.fwShown (s : State) (seq ver : Nat) : State :=
  ((((s.setReg Reg.SEC_FW_SEQ (BitVec.ofNat 64 seq)).setFld Reg.SEC_STATUS 0 0 1).setFld Reg.SEC_STATUS 1 1 0).setFld Reg.SEC_STATUS 15 8 ver).setFld
    Reg.SIO_STATUS 0 0 1

/-- The firmware that a bundle's header describes. -/
def fwOf (h : List Byte) : Firmware := ⟨imgSeq h, imgSecVer h, leAt h 0x20 8, (fwSio h).2.2⟩

/-- The firmware of a bundle's header starts. -/
def State.fwStarted (s : State) (h : List Byte) : State :=
  { (s.fwMeasured h).fwShown (imgSeq h) (imgSecVer h) with boot := .run, sioFw := fwOf h, session := none }

theorem State.firmwareStart_again (s : State) : s.firmwareStart true = s.fwStarted (s.flashBytes fwSlot 0x100) := by
  unfold State.firmwareStart
  refine (if_pos rfl).trans ?_
  unfold State.fwStarted State.fwMeasured State.fwShown fwOf
  generalize s.flashBytes fwSlot 0x100 = h
  simp only [true_and]

theorem State.extend_ccFw (s : State) (r : Nat) (v : List Byte) : (s.extend r v).ccFw = s.ccFw := by
  unfold State.extend State.setMeas
  dsimp only
  rw [State.post_ccFw, State.addFld_ccFw]
  exact foldl_keeps State.ccFw (fun t w => State.setReg_ccFw _ _ _) _ s

theorem State.fwMeasured_rest (s : State) (h : List Byte) : (s.fwMeasured h).ccFw = s.ccFw ∧ (s.fwMeasured h).loader = s.loader := by
  unfold State.fwMeasured
  generalize sha256 h = v
  split
  · exact ⟨(State.setFld_ccFw _ _ _ _ _).trans (s.extend_ccFw 1 v), (State.setFld_loader _ _ _ _ _).trans (s.loader_extend 1 v)⟩
  · exact ⟨s.extend_ccFw 1 v, s.loader_extend 1 v⟩

theorem State.reg_fwMeasured (s : State) (h : List Byte) {w : Nat} (hw : w < 4) : (s.fwMeasured h).reg (Reg.SEC_MEAS 0 w) = s.reg (Reg.SEC_MEAS 0 w) := by
  have hlog : offLog slotSecurity (Reg.SEC_MEAS 0 w) := offLog_behind (by decide) (by unfold Reg.SEC_MEAS; omega)
  have hmeas (x : Nat) : Reg.SEC_MEAS 0 w ≠ Reg.SEC_MEAS 1 x := by unfold Reg.SEC_MEAS; omega
  have hcnt : Reg.SEC_MEAS 0 w ≠ Reg.SEC_MEAS_CNT 1 := by unfold Reg.SEC_MEAS Reg.SEC_MEAS_CNT; omega
  have hstatus : Reg.SEC_MEAS 0 w ≠ Reg.SEC_STATUS := by unfold Reg.SEC_MEAS Reg.SEC_STATUS; omega
  have hextend := s.reg_extend_off 1 (sha256 h) hlog hmeas hcnt
  unfold State.fwMeasured
  split
  · exact (State.reg_setFld_ne _ _ _ _ hstatus).trans hextend
  · exact hextend

theorem State.fwShown_status (s : State) (seq ver : Nat) : (s.fwShown seq ver).fld Reg.SEC_STATUS 1 0 = 1 ∧
    (s.fwShown seq ver).fld Reg.SIO_STATUS 0 0 = 1 ∧ (s.fwShown seq ver).reg Reg.SEC_FW_SEQ = BitVec.ofNat 64 seq := by
  have hne : Reg.SEC_STATUS ≠ Reg.SIO_STATUS ∧ Reg.SEC_FW_SEQ ≠ Reg.SIO_STATUS ∧ Reg.SEC_FW_SEQ ≠ Reg.SEC_STATUS := by decide
  have hlow : (s.fwShown seq ver).fld Reg.SEC_STATUS 0 0 = 1 := by
    unfold State.fwShown
    rw [State.fld_setFld_off _ _ _ _ _ _ hne.1, State.fld_setFld_ne _ _ _ (by decide) (by decide) (by decide) (by decide),
      State.fld_setFld_ne _ _ _ (by decide) (by decide) (by decide) (by decide)]
    exact State.fld_setFld_self _ _ _ (by decide) (by decide)
  have hhigh : (s.fwShown seq ver).fld Reg.SEC_STATUS 1 1 = 0 := by
    unfold State.fwShown
    rw [State.fld_setFld_off _ _ _ _ _ _ hne.1, State.fld_setFld_ne _ _ _ (by decide) (by decide) (by decide) (by decide)]
    exact (State.fld_setFld_self _ _ _ (by decide) (by decide)).trans (Nat.zero_mod _)
  refine ⟨?_, ?_, ?_⟩
  · refine (fget_two _ 0).trans ?_
    change (s.fwShown seq ver).fld Reg.SEC_STATUS 0 0 + 2 * (s.fwShown seq ver).fld Reg.SEC_STATUS 1 1 = 1
    rw [hlow, hhigh]
  · exact State.fld_setFld_self _ _ _ (by decide) (by decide)
  · unfold State.fwShown
    rw [State.reg_setFld_ne _ _ _ _ hne.2.1, State.reg_setFld_ne _ _ _ _ hne.2.2, State.reg_setFld_ne _ _ _ _ hne.2.2,
      State.reg_setFld_ne _ _ _ _ hne.2.2]
    exact State.reg_setReg_self _ _ _

theorem State.reg_fwShown_meas (s : State) (seq ver : Nat) {w : Nat} : (s.fwShown seq ver).reg (Reg.SEC_MEAS 0 w) = s.reg (Reg.SEC_MEAS 0 w) := by
  have hne : Reg.SEC_MEAS 0 w ≠ Reg.SIO_STATUS ∧ Reg.SEC_MEAS 0 w ≠ Reg.SEC_STATUS ∧ Reg.SEC_MEAS 0 w ≠ Reg.SEC_FW_SEQ := by
    unfold Reg.SEC_MEAS Reg.SIO_STATUS Reg.SEC_STATUS Reg.SEC_FW_SEQ
    omega
  unfold State.fwShown
  rw [State.reg_setFld_ne _ _ _ _ hne.1, State.reg_setFld_ne _ _ _ _ hne.2.1, State.reg_setFld_ne _ _ _ _ hne.2.1,
    State.reg_setFld_ne _ _ _ _ hne.2.1, State.reg_setReg_ne _ _ hne.2.2]

theorem State.fwShown_rest (s : State) (seq ver : Nat) : (s.fwShown seq ver).ccFw = s.ccFw ∧ (s.fwShown seq ver).loader = s.loader := ⟨rfl, rfl⟩

theorem State.fwShown_started (v : State) (seq ver : Nat) (fw : Firmware) (hlt : seq < 2 ^ 64) :
    let u := ({ v.fwShown seq ver with boot := .run, sioFw := fw, session := none } : State)
    u.boot = .run ∧ u.sioRun = true ∧ u.fld Reg.SEC_STATUS 1 0 = 1 ∧ u.ccFw = v.ccFw ∧ u.loader = v.loader ∧
    (∀ w, u.reg (Reg.SEC_MEAS 0 w) = v.reg (Reg.SEC_MEAS 0 w)) ∧ (u.reg Reg.SEC_FW_SEQ).toNat = seq := by
  obtain ⟨hstatus, hrun, hshown⟩ := v.fwShown_status seq ver
  obtain ⟨hccFw, hloader⟩ := v.fwShown_rest seq ver
  have hmeas := fun w => v.reg_fwShown_meas seq ver (w := w)
  generalize v.fwShown seq ver = x at hstatus hrun hshown hccFw hloader hmeas
  refine ⟨rfl, beq_of_eq hrun, hstatus, hccFw, hloader, hmeas, (congrArg BitVec.toNat hshown).trans ?_⟩
  rw [BitVec.toNat_ofNat]
  exact Nat.mod_eq_of_lt hlt

theorem State.fwStarted_spec (s : State) (h : List Byte) : let u := s.fwStarted h
    u.boot = .run ∧ u.sioRun = true ∧ u.fld Reg.SEC_STATUS 1 0 = 1 ∧ u.ccFw = s.ccFw ∧ u.loader = s.loader ∧ u.meas 0 = s.meas 0 ∧
    (u.reg Reg.SEC_FW_SEQ).toNat = imgSeq h := by
  obtain ⟨hboot, hrun, hstatus, hccFw, hloader, hreg, hseq⟩ := (s.fwMeasured h).fwShown_started (imgSeq h) (imgSecVer h) (fwOf h) (leAt_lt _ _ _)
  obtain ⟨hccFw', hloader'⟩ := s.fwMeasured_rest h
  refine ⟨hboot, hrun, hstatus, hccFw.trans hccFw', hloader.trans hloader', List.flatMap_congr fun w hw => ?_, hseq⟩
  exact congrArg (toLe 8 ·.toNat) ((hreg w).trans (s.reg_fwMeasured h (List.mem_range.mp hw)))

/-- The firmware after a reset of Siolo alone. -/
theorem State.firmwareStart_again_spec (s : State) : let u := s.firmwareStart true
    u.boot = .run ∧ u.sioRun = true ∧ u.fld Reg.SEC_STATUS 1 0 = 1 ∧ u.ccFw = s.ccFw ∧ u.loader = s.loader ∧ u.meas 0 = s.meas 0 ∧
    (u.reg Reg.SEC_FW_SEQ).toNat = imgSeq (s.flashBytes fwSlot 0x100) := by
  rw [State.firmwareStart_again]
  exact s.fwStarted_spec _

end

end Sys2Proof.Machine

namespace Sys2Proof.Machine

section
variable {s t : State} {ch : Chan} {n : Nat} {ws : List Nat} {bad : Option Nat} {x : Session}

/-! ### Sessions of recovery -/

theorem State.otherSession_none (h : t.session = none) : t.otherSession ch = false := by
  unfold State.otherSession
  rw [h]

theorem State.otherSession_own (h : t.session = some x) (hx : x.chan = chanId ch) : t.otherSession ch = false := by
  unfold State.otherSession
  rw [h]
  exact bne_eq_false_iff_eq.mpr hx

/-! ### RCV_BEGIN -/

/-- What RCV_BEGIN does on the state that has taken its request. -/
def State.rcvBegun (t : State) (ch : Chan) (h len hint : Nat) : State :=
  if t.otherSession ch then t.busyReply ch h 100000
  else if t.flashBusy then t.busyReply ch h hint
  else if len % 4096 ≠ 0 ∨ len < 0x2000 ∨ 0x200000 < len then t.badArg ch h 1
  else { t with session := some ⟨chanId ch, len, 0⟩ }.replyOk ch h []

theorem rcvBegin_asked (h : s.asked ch 0xB0 1 ws t) (hint : Nat) :
    exec (.rcvBegin ch hint) s = .next (s.keep (t.rcvBegun ch (ws.getD 0 0) (ws.getD 1 0) hint)) := by
  refine (h.serves hint _).trans ?_
  rw [(drop_one_words ws).1]
  rfl

/-! ### RCV_DATA -/

/-- Program the data of a session at the place it has reached. -/
def State.rcvStored (t : State) (ch : Chan) (h : Nat) (x : Session) (data : List Nat) (err : Bool) : State :=
  let n := 4 * data.length
  let starts := (upTo (x.got / 0x10000) ((x.got + n - 1) / 0x10000)).filter (fun i => decide (x.got ≤ i * 0x10000))
  let u := starts.foldl (fun u i => u.eraseSector (fwSlot + i * 0x10000)) t
  if err then (u.flashSpoil (fwSlot + x.got) n).replyFail ch h fwErr
  else { u.program (fwSlot + x.got) (wordBytes data) with session := some { x with got := x.got + n } }.replyOk ch h []

/-- What RCV_DATA does on the state that has taken its request. -/
def State.rcvTaken (t : State) (ch : Chan) (h off : Nat) (data : List Nat) (hint : Nat) (err : Bool) : State :=
  if t.otherSession ch then t.busyReply ch h 100000
  else if t.flashBusy then t.busyReply ch h hint
  else
    match t.session with
    | none => t.replyFail ch h noSession
    | some x =>
      if off ≠ x.got then t.badArg ch h 1
      else if x.len < x.got + 4 * data.length then t.badArg ch h (2 + (x.len - x.got) / 4)
      else t.rcvStored ch h x data err

theorem rcvData_asked (h : s.asked ch 0xB1 n ws t) (hlo : 2 ≤ n) (hhi : n ≤ 15) (hint : Nat) (err : Bool) :
    exec (.rcvData ch hint err) s =
      .next (s.keep (t.rcvTaken ch (ws.getD 0 0) (ws.getD 1 0) ((ws.drop 2).take (n - 1)) hint err)) := by
  have hlen : hdrLen (ws.getD 0 0) = n := by
    obtain ⟨-, -, -, -, -, -, -, hlen, -⟩ := h
    exact hlen
  refine (h.runs _).trans ?_
  rw [State.rcvData, State.serveLen_asked h (by simp [hlo, hhi]), (drop_one_words ws).1, List.drop_drop, hlen]
  rfl

section
variable {h off hint : Nat} {data : List Nat} {err : Bool}

theorem State.rcvTaken_none (hs : t.session = none) (hb : t.flashBusy = false) :
    t.rcvTaken ch h off data hint err = t.reply ch h 4 [0x24] := by
  unfold State.rcvTaken
  rw [if_neg (by simp [State.otherSession_none hs]), if_neg (by simp [hb]), hs] <;> rfl

variable (hs : t.session = some x) (hx : x.chan = chanId ch) (hb : t.flashBusy = false)
include hs hx hb

theorem State.rcvTaken_off (hoff : off ≠ x.got) : t.rcvTaken ch h off data hint err = t.reply ch h 3 [1] := by
  unfold State.rcvTaken
  rw [if_neg (by simp [State.otherSession_own hs hx]), if_neg (by simp [hb]), hs]
  exact if_pos hoff

theorem State.rcvTaken_stored (hoff : off = x.got) (hfit : x.got + 4 * data.length ≤ x.len) :
    t.rcvTaken ch h off data hint err = t.rcvStored ch h x data err := by
  unfold State.rcvTaken
  rw [if_neg (by simp [State.otherSession_own hs hx]), if_neg (by simp [hb]), hs]
  exact (if_neg (not_not.mpr hoff)).trans (if_neg (by omega))

end

/-- Data inside a sector that an earlier message has begun erase nothing. -/
theorem starts_inside {got m : Nat} (hgot : got % 0x10000 ≠ 0) (hfit : got % 0x10000 + m ≤ 0x10000) (hm : 0 < m) :
    (upTo (got / 0x10000) ((got + m - 1) / 0x10000)).filter (fun i => decide (got ≤ i * 0x10000)) = [] := by
  refine List.filter_eq_nil_iff.mpr fun i hi => ?_
  obtain ⟨hlo, hhi⟩ := mem_upTo.mp hi
  rw [decide_eq_true_eq]
  omega

/-- The first data of a session erase the slot's first sector. -/
theorem starts_first {m : Nat} (hm : 0 < m) (hfit : m ≤ 0x10000) :
    (upTo (0 / 0x10000) ((0 + m - 1) / 0x10000)).filter (fun i => decide (0 ≤ i * 0x10000)) = [0] := by
  have hlast : (0 + m - 1) / 0x10000 = 0 := by omega
  rw [hlast]
  rfl

section
variable {h : Nat} {data : List Nat} {err : Bool}

theorem State.rcvStored_inside (hgot : x.got % 0x10000 ≠ 0) (hfit : x.got % 0x10000 + 4 * data.length ≤ 0x10000) (hd : data ≠ []) :
    t.rcvStored ch h x data err = if err then (t.flashSpoil (fwSlot + x.got) (4 * data.length)).reply ch h 4 [0x20]
      else ({ t.program (fwSlot + x.got) (wordBytes data) with session := some { x with got := x.got + 4 * data.length } } : State).reply ch h 0 [] := by
  have hpos : 0 < 4 * data.length := by
    have := List.length_pos_iff.mpr hd
    omega
  unfold State.rcvStored
  dsimp only
  rw [starts_inside hgot hfit hpos, List.foldl_nil] <;> rfl

theorem State.rcvStored_first (hgot : x.got = 0) (hfit : 4 * data.length ≤ 0x10000) (hd : data ≠ []) :
    t.rcvStored ch h x data err = if err then ((t.eraseSector fwSlot).flashSpoil fwSlot (4 * data.length)).reply ch h 4 [0x20]
      else ({ (t.eraseSector fwSlot).program fwSlot (wordBytes data) with session := some { x with got := 4 * data.length } } : State).reply ch h 0 [] := by
  have hpos : 0 < 4 * data.length := by
    have := List.length_pos_iff.mpr hd
    omega
  unfold State.rcvStored
  dsimp only
  rw [hgot, starts_first hpos hfit, List.foldl_cons, List.foldl_nil, Nat.zero_mul, Nat.add_zero, Nat.zero_add] <;> rfl

end

/-! ### RCV_END -/

/-- What RCV_END does on the state that has taken its request. -/
def State.rcvEnded (t : State) (ch : Chan) (h hint : Nat) (bad : Option Nat) : State :=
  if t.otherSession ch then t.busyReply ch h 100000
  else if t.flashBusy then t.busyReply ch h hint
  else if t.session.isNone then t.replyFail ch h noSession
  else
    match t.slotHead bad with
    | some c => { t with session := none }.replyFail ch h c
    | none =>
      let v := t.loadSections (decide (t.boot = .recovery true)) bad
      match v.slotBody bad false with
      | some c => { v with session := none }.replyFail ch h c
      | none => (v.replyOk ch h []).firmwareStart (decide (t.boot = .recovery true))

theorem rcvEnd_asked (h : s.asked ch 0xB2 0 ws t) (hint : Nat) :
    exec (.rcvEnd ch hint bad) s = .next (s.keep (t.rcvEnded ch (ws.getD 0 0) hint bad)) := h.serves hint _

section
variable {h hint : Nat}

theorem State.rcvEnded_none (hs : t.session = none) (hb : t.flashBusy = false) : t.rcvEnded ch h hint bad = t.reply ch h 4 [0x24] := by
  unfold State.rcvEnded
  rw [if_neg (by simp [State.otherSession_none hs]), if_neg (by simp [hb]), if_pos (by simp [hs])]
  rfl

variable (hs : t.session = some x) (hx : x.chan = chanId ch) (hb : t.flashBusy = false)
include hs hx hb

theorem State.rcvEnded_head {c : Nat} (hc : t.slotHead bad = some c) :
    t.rcvEnded ch h hint bad = ({ t with session := none } : State).reply ch h 4 [c] := by
  unfold State.rcvEnded
  rw [if_neg (by simp [State.otherSession_own hs hx]), if_neg (by simp [hb]), if_neg (by simp [hs]), hc] <;> rfl

theorem State.rcvEnded_body (hc : t.slotHead bad = none) : t.rcvEnded ch h hint bad =
    match (t.loadSections (decide (t.boot = .recovery true)) bad).slotBody bad false with
    | some c => ({ t.loadSections (decide (t.boot = .recovery true)) bad with session := none } : State).reply ch h 4 [c]
    | none => ((t.loadSections (decide (t.boot = .recovery true)) bad).reply ch h 0 []).firmwareStart (decide (t.boot = .recovery true)) := by
  unfold State.rcvEnded
  rw [if_neg (by simp [State.otherSession_own hs hx]), if_neg (by simp [hb]), if_neg (by simp [hs]), hc] <;> rfl

end

end

/-! ### The commands of boot -/

section
variable {s : State} {bad : Option Nat} (hl : s.live)
include hl

theorem bootHeaderRead_runs (hfree : s.oppBusy = false) (hb : s.boot = .header false) :
    (∀ c, s.fusesMeasured.slotHead bad = some c → exec (.bootHeaderRead bad) s = .next (s.fusesMeasured.recover false c)) ∧
    (s.fusesMeasured.slotHead bad = none → exec (.bootHeaderRead bad) s = .next { s.fusesMeasured with boot := .body false }) := by
  have hrun : exec (.bootHeaderRead bad) s = .next (s.keep (s.bootHeader bad)) := exec_unpaused hl hfree _
  rw [hrun, State.bootHeader_runs hb]
  refine ⟨fun c hc => ?_, fun hc => ?_⟩
  · rw [hc]
    exact congrArg _ (State.keep_of_loadView ((State.loadView_recover _ _ _).trans s.loadView_fusesMeasured))
  · rw [hc]
    have hview (u : State) : ({ u with boot := .body false } : State).loadView = u.loadView := rfl
    exact congrArg _ (State.keep_of_loadView ((hview _).trans s.loadView_fusesMeasured))

theorem bootBodyRead_runs (hfree : s.oppBusy = false) (hb : s.boot = .body false) :
    (∀ c, (s.loadSections false bad).slotBody bad false = some c →
      exec (.bootBodyRead bad) s = .next ((s.loadSections false bad).recover false c)) ∧
    ((s.loadSections false bad).slotBody bad false = none →
      exec (.bootBodyRead bad) s = .next (s.keep ((s.loadSections false bad).firmwareStart false))) := by
  have hrun : exec (.bootBodyRead bad) s = .next (s.keep (s.bootBody bad)) := exec_unpaused hl hfree _
  rw [hrun, State.bootBody_runs hb]
  refine ⟨fun c hc => ?_, fun hc => ?_⟩
  · rw [hc]
    exact congrArg _ (State.keep_of_loadView ((State.loadView_recover _ _ _).trans (s.loadView_loadSections _ _)))
  · rw [hc]

theorem sioloReloadDone_runs (hfree : s.oppBusy = false) (hb : s.boot = .header true) :
    (∀ c, s.slotHead bad = some c → exec (.sioloReloadDone bad) s = .next (s.recover true c)) ∧
    (s.slotHead bad = none →
      (∀ c, (s.loadSections true bad).slotBody bad false = some c →
        exec (.sioloReloadDone bad) s = .next ((s.loadSections true bad).recover true c)) ∧
      ((s.loadSections true bad).slotBody bad false = none →
        exec (.sioloReloadDone bad) s = .next (s.keep ((s.loadSections true bad).firmwareStart true)))) := by
  have hrun : exec (.sioloReloadDone bad) s = .next (s.keep (s.reloadDone bad)) := exec_unpaused hl hfree _
  rw [hrun, State.reloadDone_runs hb]
  refine ⟨fun c hc => ?_, fun hh => ⟨fun c hc => ?_, fun hc => ?_⟩⟩
  · rw [hc]
    exact congrArg _ (State.keep_of_loadView (State.loadView_recover _ _ _))
  · rw [hh, hc]
    exact congrArg _ (State.keep_of_loadView ((State.loadView_recover _ _ _).trans (s.loadView_loadSections _ _)))
  · rw [hh, hc]

theorem boot_paused (hbusy : s.oppBusy = true) :
    exec (.bootHeaderRead bad) s = .next s ∧ exec (.bootBodyRead bad) s = .next s ∧ exec (.sioloReloadDone bad) s = .next s :=
  ⟨run_paused hl hbusy _, run_paused hl hbusy _, run_paused hl hbusy _⟩

theorem run_unpaused_self : s.run (s.unpaused s) = .next s := by
  have hself : s.unpaused s = s := ite_self s
  rw [hself, State.run_live _ hl, State.keep_self]

theorem boot_done (hb : s.boot = .run) :
    exec (.bootHeaderRead bad) s = .next s ∧ exec (.bootBodyRead bad) s = .next s ∧ exec (.sioloReloadDone bad) s = .next s := by
  obtain ⟨hheader, hbody, hreload⟩ := State.boot_running (bad := bad) hb
  exact ⟨(congrArg (fun u => s.run (s.unpaused u)) hheader).trans (run_unpaused_self hl),
    (congrArg (fun u => s.run (s.unpaused u)) hbody).trans (run_unpaused_self hl),
    (congrArg (fun u => s.run (s.unpaused u)) hreload).trans (run_unpaused_self hl)⟩

end

/-- Settles O53: boot step by step, and each message of a recovery session by the branches of its server. -/
theorem bootAndRecovery : Obligations.BootAndRecovery := by
  unfold Obligations.BootAndRecovery
  intro ch hint n err bad ws s t
  refine ⟨fun hl => ⟨bootHeaderRead_runs hl, bootBodyRead_runs hl, sioloReloadDone_runs hl, boot_paused hl,
    fun again => (s.onlyPriv_loadSections again bad).frame, boot_done hl, fun again c => s.recover_spec again c,
    s.firmwareStart_again_spec, State.run_live _ hl⟩, fun h => ?_, fun h hlo hhi => ?_, fun h => ?_⟩
  · rw [rcvBegin_asked h]
    unfold State.rcvBegun
    refine ⟨fun ho => ?_, fun ho hb => ?_, fun ho hb => ⟨fun h1 h2 h3 => ?_, fun hbad => ?_⟩⟩
    · rw [if_pos ho]
      rfl
    · rw [if_neg (by simp [ho]), if_pos hb]
      exact ⟨max 1000 (min 100000 hint), by omega, by omega, rfl⟩
    · rw [if_neg (by simp [ho]), if_neg (by simp [hb]), if_neg (by omega)]
      rfl
    · rw [if_neg (by simp [ho]), if_neg (by simp [hb]), if_pos hbad]
      rfl
  · rw [rcvData_asked h hlo hhi]
    have hlen : ((ws.drop 2).take (n - 1)).length ≤ 14 := (List.length_take_le _ _).trans (by omega)
    refine ⟨fun ho => ?_, fun ho hb => ?_, fun hs hb => ?_, fun x hs hx hb => ⟨fun hoff => ?_, fun hoff hgot hfit hd hend => ?_,
      fun hoff hgot hd hend => ?_⟩⟩
    · exact congrArg (fun u => Host.Outcome.next (s.keep u)) (if_pos ho)
    · refine ⟨max 1000 (min 100000 hint), by omega, by omega, congrArg (fun u => Host.Outcome.next (s.keep u)) ?_⟩
      exact (if_neg (by simp [ho])).trans (if_pos hb)
    · rw [State.rcvTaken_none hs hb]
    · rw [State.rcvTaken_off hs hx hb hoff]
    · rw [State.rcvTaken_stored hs hx hb hoff hend, State.rcvStored_inside hgot hfit hd]
    · rw [State.rcvTaken_stored hs hx hb (hoff.trans hgot.symm) (by omega), State.rcvStored_first hgot (by omega) hd]
  · rw [rcvEnd_asked h]
    refine ⟨fun hs hb => ?_, fun ho hb => ?_, fun x hs hx hb => ⟨fun c hc => ?_, fun hc => ⟨fun c hv => ?_, fun hv => ?_⟩⟩⟩
    · rw [State.rcvEnded_none hs hb]
    · refine ⟨max 1000 (min 100000 hint), by omega, by omega, congrArg (fun u => Host.Outcome.next (s.keep u)) ?_⟩
      exact (if_neg (by simp [ho])).trans (if_pos hb)
    · rw [State.rcvEnded_head hs hx hb hc]
    · rw [State.rcvEnded_body hs hx hb hc, hv]
    · rw [State.rcvEnded_body hs hx hb hc, hv]

end Sys2Proof.Machine

namespace Sys2Proof.Machine

/-! ## The hardware loops (R420–R423, R479) -/

/-! ### What posting sends -/

section
variable (s : State)

theorem State.out_latchAlarm (r : LogRec) : (s.latchAlarm r).out = s.out ++ [.alarm r.code r.src] := by
  unfold State.latchAlarm
  dsimp only
  split
  · exact State.setFld_out _ _ _ _ _
  · exact State.raise_out _ _ _ _ _

/-- An ALARM goes to the board. -/
theorem State.out_intakeRec_alarm {r : LogRec} (hr : r.cls = 3) : (s.intakeRec r).out = s.out ++ [.alarm r.code r.src] := by
  unfold State.intakeRec
  rw [if_pos hr]
  dsimp only
  split
  · exact s.out_latchAlarm r
  · exact s.out_latchAlarm r

theorem State.out_post_alarm (src code arg : Nat) : (s.post src code 3 arg).out = s.out ++ [.alarm code src] :=
  s.out_intakeRec_alarm rfl

theorem State.mem_out_emit (x : Out) : x ∈ (s.emit x).out := List.mem_append_right _ (List.mem_singleton_self x)

end

theorem offLog_sioStatus : offLog slotSiolo Reg.SIO_STATUS := ⟨by decide, by decide, by decide, by decide⟩

theorem State.keep_of_likeLog {s t : State} (h : s.likeLog t) : s.keep t = t := by
  obtain ⟨_, _, _, _, rfl⟩ := h
  rfl

section
variable {s : State}

theorem exec_loop (hl : s.live) (t : State) : s.loop t = .next (s.keep t) := if_neg (by rw [show s.power.held = false from hl]; decide)

theorem State.fld_pmbLatch (s : State) (o hi lo : Nat) : s.pmbLatch.fld o hi lo = s.fld o hi lo := rfl

theorem State.fld_emitted (s : State) (x : Out) (o hi lo : Nat) : (s.emit x).fld o hi lo = s.fld o hi lo := rfl

theorem State.not_issuing_of_trip (h : s.fld Reg.SIO_STATUS 2 2 = 1 ∨ s.fld Reg.SIO_STATUS 3 3 = 1) : ¬ s.issuing := by
  rintro ⟨-, hzero⟩
  have htwo : s.fld Reg.SIO_STATUS 3 2 = s.fld Reg.SIO_STATUS 2 2 + 2 * s.fld Reg.SIO_STATUS 3 3 := fget_two _ 2
  omega

/-! ### The thermal trip -/

/-- The device trips. -/
def State.thermTripped (s : State) (sensor reading : Nat) : State :=
  (((s.setFld Reg.SIO_STATUS 2 2 1).emit (.thermtrip true)).post slotSiolo 0x0901 3 (sensor + reading % 2 ^ 16 * 2 ^ 16)).pmbLatch

theorem State.thermTrip_cases (s : State) (sensor reading : Nat) :
    (s.fld Reg.SIO_STATUS 2 2 = 1 ∧ s.thermTrip sensor reading = s) ∨
    (s.fld Reg.SIO_STATUS 2 2 = 0 ∧ s.thermTrip sensor reading = s.thermTripped sensor reading) := by
  unfold State.thermTrip
  have hbit : s.fld Reg.SIO_STATUS 2 2 < 2 := fget_lt _ 2 2
  by_cases h : s.fld Reg.SIO_STATUS 2 2 = 1
  · exact .inl ⟨h, if_pos h⟩
  · exact .inr ⟨by omega, if_neg h⟩

theorem State.thermTripped_spec (s : State) (sensor reading : Nat) : (s.thermTripped sensor reading).fld Reg.SIO_STATUS 2 2 = 1 ∧
    .thermtrip true ∈ (s.thermTripped sensor reading).out ∧ (s.thermTripped sensor reading).loops = s.loops ∧
    (s.thermTripped sensor reading).mem = s.mem ∧ (s.thermTripped sensor reading).queues = s.queues := by
  have hemit (t : State) (x : Out) : (t.emit x).mem = t.mem ∧ (t.emit x).queues = t.queues ∧ (t.emit x).loops = t.loops := ⟨rfl, rfl, rfl⟩
  have hlatch (t : State) : t.pmbLatch.mem = t.mem ∧ t.pmbLatch.queues = t.queues ∧ t.pmbLatch.loops = t.loops ∧ t.pmbLatch.out = t.out :=
    ⟨rfl, rfl, rfl, rfl⟩
  unfold State.thermTripped
  refine ⟨?_, ?_, ?_, ?_, ?_⟩
  · rw [State.fld_pmbLatch, State.fld_post_off _ offLog_sioStatus]
    exact (State.fld_emitted _ _ _ _ _).trans (State.fld_setFld_self _ _ _ (by decide) (by decide))
  · rw [(hlatch _).2.2.2, State.out_post_alarm]
    exact List.mem_append_left _ (State.mem_out_emit _ _)
  · rw [(hlatch _).2.2.1, State.post_loops, (hemit _ _).2.2, State.setFld_loops]
  · rw [(hlatch _).1, State.post_mem, (hemit _ _).1, State.setFld_mem]
  · rw [(hlatch _).2.1, State.post_queues, (hemit _ _).2.1, State.setFld_queues]

/-! ### The temperature loop -/

/-- The loop's memory of a sensor after a reading. -/
def State.thermLoops (s : State) (i r : Nat) : Loops :=
  let v := asInt 16 r
  let warn : Int := 16 * s.fld Reg.SIO_THERM_CFG 7 0
  { s.loops with
    temps := mput s.loops.temps i (r % 2 ^ 16)
    warned := mset false s.loops.warned i (if warn ≤ v then true else if v ≤ warn - 80 then false else mget false s.loops.warned i)
    hot := mset false s.loops.hot i (decide ((16 * s.fld Reg.SIO_THERM_CFG 15 8 : Int) ≤ v)) }

/-- The warning of a reading. -/
def State.thermWarned (s : State) (i r : Nat) : State :=
  let v := asInt 16 r
  let u : State := { s with loops := s.thermLoops i r }
  if (16 * s.fld Reg.SIO_THERM_CFG 7 0 : Int) ≤ v ∧ mget false s.loops.warned i = false then u.post slotSiolo 0x0900 1 (i + r % 2 ^ 16 * 2 ^ 16)
  else u

theorem warns_iff (warn v : Int) (w : Bool) : ((if warn ≤ v then true else if v ≤ warn - 80 then false else w) && !w) = true ↔
    warn ≤ v ∧ w = false := by
  by_cases h : warn ≤ v
  · simp [h]
  · cases w <;> simp [h]

theorem State.thermOne_eq {i : Nat} (hi : i < 160) (r : Nat) : s.thermOne (i, r) =
    if (16 * s.fld Reg.SIO_THERM_CFG 15 8 : Int) ≤ asInt 16 r ∧ mget false s.loops.hot i = true then (s.thermWarned i r).thermTrip i r
    else s.thermWarned i r := by
  unfold State.thermOne State.thermWarned State.thermLoops
  refine (if_neg (by omega)).trans ?_
  simp only [warns_iff]

theorem State.thermWarned_spec (s : State) (i r : Nat) : (s.thermWarned i r).loops = s.thermLoops i r ∧ (s.thermWarned i r).mem = s.mem ∧
    (s.thermWarned i r).queues = s.queues ∧ (s.thermWarned i r).fld Reg.SIO_STATUS 2 2 = s.fld Reg.SIO_STATUS 2 2 := by
  unfold State.thermWarned
  dsimp only
  split
  · exact ⟨State.post_loops _ _ _ _ _, State.post_mem _ _ _ _ _, State.post_queues _ _ _ _ _, State.fld_post_off _ offLog_sioStatus _ _ _ _ _⟩
  · exact ⟨rfl, rfl, rfl, rfl⟩

theorem State.thermTrip_spec (s : State) (i r : Nat) : (s.thermTrip i r).loops = s.loops ∧ (s.thermTrip i r).mem = s.mem ∧
    (s.thermTrip i r).queues = s.queues ∧ (s.thermTrip i r).fld Reg.SIO_STATUS 2 2 = 1 ∧
    (s.fld Reg.SIO_STATUS 2 2 = 0 → .thermtrip true ∈ (s.thermTrip i r).out) := by
  obtain ⟨hone, heq⟩ | ⟨-, heq⟩ := s.thermTrip_cases i r
  · rw [heq]
    exact ⟨rfl, rfl, rfl, hone, fun hzero => absurd (hone.symm.trans hzero) (by decide)⟩
  · rw [heq]
    obtain ⟨hstatus, hout, hloops, hmem, hqueues⟩ := s.thermTripped_spec i r
    exact ⟨hloops, hmem, hqueues, hstatus, fun _ => hout⟩

theorem State.thermOne_frame {i : Nat} (hi : i < 160) (r : Nat) : (s.thermOne (i, r)).loops = s.thermLoops i r ∧
    (s.thermOne (i, r)).mem = s.mem ∧ (s.thermOne (i, r)).queues = s.queues := by
  obtain ⟨hloops, hmem, hqueues, -⟩ := s.thermWarned_spec i r
  obtain ⟨hloops', hmem', hqueues', -⟩ := (s.thermWarned i r).thermTrip_spec i r
  rw [State.thermOne_eq hi]
  split
  · exact ⟨hloops'.trans hloops, hmem'.trans hmem, hqueues'.trans hqueues⟩
  · exact ⟨hloops, hmem, hqueues⟩

/-! ### The current loop -/

/-- The readings in a row above a rail's limit, after one more. -/
def State.ocStreak (s : State) (i r : Nat) : Nat := if s.ocLimitOf i < r then mget 0 s.loops.streak i + 1 else 0

def State.ocCounted (s : State) (i r : Nat) : State :=
  { s with loops := { s.loops with streak := mset 0 s.loops.streak i (s.ocStreak i r) } }

/-- The overcurrent trip. -/
def State.ocTripped (s : State) (i r : Nat) : State :=
  ((s.setFld Reg.SIO_STATUS 3 3 1).post slotSiolo 0x0902 3 (i + r % 2 ^ 16 * 2 ^ 16)).pmbLatch

theorem State.ocOne_eq {i : Nat} (hi : i < 12) (r : Nat) : s.ocOne (i, r) =
    if 4 ≤ s.ocStreak i r ∧ s.fld Reg.SIO_STATUS 3 3 = 0 then (s.ocCounted i r).ocTripped i r else s.ocCounted i r := by
  unfold State.ocOne
  exact if_neg (by omega)

theorem State.ocTripped_spec (s : State) (i r : Nat) : (s.ocTripped i r).loops = s.loops ∧ (s.ocTripped i r).fld Reg.SIO_STATUS 3 3 = 1 ∧
    (s.ocTripped i r).fld Reg.SIO_STATUS 2 2 = s.fld Reg.SIO_STATUS 2 2 := by
  have hlatch (t : State) : t.pmbLatch.loops = t.loops := rfl
  unfold State.ocTripped
  refine ⟨?_, ?_, ?_⟩
  · rw [hlatch, State.post_loops, State.setFld_loops]
  · rw [State.fld_pmbLatch, State.fld_post_off _ offLog_sioStatus]
    exact State.fld_setFld_self _ _ _ (by decide) (by decide)
  · rw [State.fld_pmbLatch, State.fld_post_off _ offLog_sioStatus]
    exact State.fld_setFld_ne _ _ _ (by decide) (by decide) (by decide) (by decide)

theorem State.ocOne_spec {i : Nat} (hi : i < 12) (r : Nat) : let u := s.ocOne (i, r)
    mget 0 u.loops.streak i = s.ocStreak i r ∧ u.fld Reg.SIO_STATUS 2 2 = s.fld Reg.SIO_STATUS 2 2 ∧
    (4 ≤ mget 0 u.loops.streak i → u.fld Reg.SIO_STATUS 3 3 = 1 ∧ ¬ u.issuing) ∧
    (mget 0 u.loops.streak i < 4 ∨ s.fld Reg.SIO_STATUS 3 3 = 1 → u = { s with loops := u.loops }) := by
  have hbit : s.fld Reg.SIO_STATUS 3 3 < 2 := fget_lt _ 3 3
  have hstreak : mget 0 (s.ocCounted i r).loops.streak i = s.ocStreak i r := mget_mset_self 0 s.loops.streak i _
  have hcounted : (s.ocCounted i r).fld Reg.SIO_STATUS 3 3 = s.fld Reg.SIO_STATUS 3 3 := rfl
  dsimp only
  rw [State.ocOne_eq hi]
  by_cases htrip : 4 ≤ s.ocStreak i r ∧ s.fld Reg.SIO_STATUS 3 3 = 0
  · obtain ⟨hloops, hthree, htwo⟩ := (s.ocCounted i r).ocTripped_spec i r
    rw [if_pos htrip, hloops, hstreak]
    exact ⟨rfl, htwo, fun _ => ⟨hthree, State.not_issuing_of_trip (.inr hthree)⟩, fun hn => by omega⟩
  · rw [if_neg htrip, hstreak]
    refine ⟨rfl, rfl, fun h4 => ?_, fun _ => rfl⟩
    have hthree : (s.ocCounted i r).fld Reg.SIO_STATUS 3 3 = 1 := by omega
    exact ⟨hthree, State.not_issuing_of_trip (.inr hthree)⟩

/-! ### The damper -/

theorem State.setShare_share (s : State) {n : Nat} (hn : n < 32) : (s.setShare n).fld Reg.PWR_STATUS 4 0 = n := by
  have hoff : offLog slotSiolo Reg.PWR_STATUS := offLog_behind (by decide) (by decide)
  have hset : (s.setFld Reg.PWR_STATUS 4 0 n).fld Reg.PWR_STATUS 4 0 = n :=
    (State.fld_setFld_self _ _ _ (by decide) (by decide)).trans (Nat.mod_eq_of_lt hn)
  have hraise (t : State) : (t.raise Reg.PWR_EVENT 0 Reg.PWR_EVENT_CNT 0).fld Reg.PWR_STATUS 4 0 = t.fld Reg.PWR_STATUS 4 0 :=
    congrArg (fget · 4 0) (State.reg_raise_ne _ _ _ (by decide) (by decide))
  unfold State.setShare
  dsimp only
  split
  · rw [State.fld_post_off _ hoff]
    split
    · rw [hraise, hset]
    · exact hset
  · split
    · rw [hraise, hset]
    · exact hset

theorem State.likeLog_setShare (s : State) (n : Nat) : s.likeLog (s.setShare n) := by
  have hset := s.likeLog_setFld Reg.PWR_STATUS 4 0 n
  unfold State.setShare
  dsimp only
  split
  · split
    · exact State.likeLog_trans hset (State.likeLog_raise_post _ _ _ _ _ _ _ _ _)
    · exact State.likeLog_trans hset (State.likeLog_post _ _ _ _ _)
  · split
    · exact State.likeLog_trans hset (State.likeLog_raise _ _ _ _ _)
    · exact hset

/-- The last four samples of the input power. -/
def State.samples (s : State) (mv da : Nat) : List Nat := (mv * da :: s.loops.power).take 4

/-- The cap of as many samples as are kept. -/
def State.capOf (s : State) (mv da : Nat) : Nat := s.fld Reg.PWR_CAP 11 0 * 10000 * (s.samples mv da).length

/-- The samples in a row below 0.98 of the cap, after one more. -/
def State.belowRow (s : State) (mv da : Nat) : Nat :=
  if (s.samples mv da).sum * 100 < 98 * s.capOf mv da then s.loops.below + 1 else 0

/-- The share after a sample. -/
def State.damped (s : State) (mv da : Nat) : State :=
  let t := s.setFld Reg.PWR_STATUS 31 16 (min 65535 ((s.samples mv da).sum / ((s.samples mv da).length * 10000)))
  if s.capOf mv da < (s.samples mv da).sum then t.setShare (max 1 (t.fld Reg.PWR_STATUS 4 0 - 1))
  else if s.belowRow mv da = 10 then t.setShare (min 16 (t.fld Reg.PWR_STATUS 4 0 + 1)) else t

/-- A stretched sample is counted. -/
def State.dampCounted (t : State) : State := if t.fld Reg.PWR_STATUS 4 0 < 16 then t.count Reg.PWR_CNT_DAMPED 1 else t

theorem powerSum_eq (l : List Nat) : powerSum l = (l.sum, l.length) := by
  rw [powerSum, List.sum_eq_foldl]

theorem State.damperSample_eq (s : State) (mv da : Nat) : s.damperSample mv da = { (s.damped mv da).dampCounted with
    loops := { (s.damped mv da).dampCounted.loops with
      power := s.samples mv da, vin := mv, iin := da, below := if s.belowRow mv da = 10 then 0 else s.belowRow mv da } } := by
  unfold State.damperSample
  simp only [powerSum_eq, decide_eq_true_eq]
  unfold State.damped State.dampCounted State.belowRow State.capOf State.samples
  rfl

theorem State.dampCounted_share (t : State) : t.dampCounted.fld Reg.PWR_STATUS 4 0 = t.fld Reg.PWR_STATUS 4 0 := by
  unfold State.dampCounted
  split
  · exact congrArg (fget · 4 0) (State.reg_count_ne _ _ (by decide))
  · rfl

theorem State.likeLog_dampCounted (t : State) : t.likeLog t.dampCounted := by
  unfold State.dampCounted
  split
  · exact State.likeLog_count _ _ _
  · exact State.likeLog_refl _

theorem State.likeLog_damped (s : State) (mv da : Nat) : s.likeLog (s.damped mv da) := by
  unfold State.damped
  dsimp only
  have hset := s.likeLog_setFld Reg.PWR_STATUS 31 16 (min 65535 ((s.samples mv da).sum / ((s.samples mv da).length * 10000)))
  split
  · exact State.likeLog_trans hset (State.likeLog_setShare _ _)
  · split
    · exact State.likeLog_trans hset (State.likeLog_setShare _ _)
    · exact hset

/-- How a sample moves the share. -/
theorem State.damped_share (s : State) (mv da : Nat) : (s.damped mv da).fld Reg.PWR_STATUS 4 0 =
    if s.capOf mv da < (s.samples mv da).sum then max 1 (s.fld Reg.PWR_STATUS 4 0 - 1)
    else if s.belowRow mv da = 10 then min 16 (s.fld Reg.PWR_STATUS 4 0 + 1) else s.fld Reg.PWR_STATUS 4 0 := by
  have hlt : s.fld Reg.PWR_STATUS 4 0 < 32 := fget_lt _ 4 0
  have hset (x : Nat) : (s.setFld Reg.PWR_STATUS 31 16 x).fld Reg.PWR_STATUS 4 0 = s.fld Reg.PWR_STATUS 4 0 :=
    State.fld_setFld_ne _ _ _ (by decide) (by decide) (by decide) (by decide)
  unfold State.damped
  dsimp only
  rw [hset]
  split
  · exact State.setShare_share _ (by omega)
  · split
    · exact State.setShare_share _ (by omega)
    · exact hset _

theorem exec_damperSample (hl : s.live) (mv da : Nat) : ∃ t, exec (.damperSample mv da) s = .next t ∧ t.loops.power = s.samples mv da ∧
    t.loops.below = (if s.belowRow mv da = 10 then 0 else s.belowRow mv da) ∧ t.mem = s.mem ∧ t.mats = s.mats ∧ t.queues = s.queues ∧
    t.fld Reg.PWR_STATUS 4 0 = (s.damped mv da).fld Reg.PWR_STATUS 4 0 := by
  refine ⟨_, exec_loop hl _, ?_⟩
  have hlike := State.likeLog_trans (s.likeLog_damped mv da) (State.likeLog_dampCounted _)
  have hshare := (s.damped mv da).dampCounted_share
  rw [State.damperSample_eq]
  generalize (s.damped mv da).dampCounted = u at hlike hshare
  obtain ⟨_, _, _, _, rfl⟩ := hlike
  exact ⟨rfl, rfl, rfl, rfl, rfl, hshare⟩

/-! ### CAP_MISS -/

theorem capMiss_runs (hl : s.live) (hshare : s.fld Reg.PWR_STATUS 4 0 = 1) (habove : s.aboveCap = true) :
    exec .capMiss s = .next ((s.raise Reg.PWR_EVENT 1 Reg.PWR_EVENT_CNT 16).post slotClock
      0x0B02 2 (s.fld Reg.PWR_STATUS 31 16 + s.fld Reg.PWR_CAP 11 0 * 2 ^ 16)) := by
  refine (exec_loop hl _).trans (congrArg Host.Outcome.next ?_)
  rw [State.capMiss, if_pos ⟨hshare, habove⟩]
  exact State.keep_of_likeLog (State.likeLog_raise_post _ _ _ _ _ _ _ _ _)

theorem capMiss_idle (hl : s.live) (h : s.fld Reg.PWR_STATUS 4 0 ≠ 1 ∨ s.aboveCap = false) : exec .capMiss s = .next s := by
  refine (exec_loop hl _).trans ?_
  have hn : ¬ (s.fld Reg.PWR_STATUS 4 0 = 1 ∧ s.aboveCap = true) := by
    rintro ⟨hone, habove⟩
    exact h.elim (absurd hone) (fun hf => Bool.false_ne_true (hf.symm.trans habove))
  rw [State.capMiss, if_neg hn, State.keep_self]

/-! ### THERMTRIP_N from outside -/

theorem State.likeLog_thermTripped (s : State) (i r : Nat) : s.likeLog (s.thermTripped i r) := by
  have hlatch (t : State) : t.likeLog t.pmbLatch := ⟨_, _, _, _, rfl⟩
  exact State.likeLog_trans (State.likeLog_trans (State.likeLog_trans (s.likeLog_setFld _ _ _ _) (State.likeLog_emit _ _))
    (State.likeLog_post _ _ _ _ _)) (hlatch _)

theorem thermtripN_runs (hl : s.live) (hzero : s.fld Reg.SIO_STATUS 2 2 = 0) : exec .thermtripN s =
    .next ((((s.setFld Reg.SIO_STATUS 2 2 1).emit (.thermtrip true)).post slotSiolo 0x0901 3 0xFF).pmbLatch) := by
  refine (exec_loop hl _).trans (congrArg Host.Outcome.next ?_)
  obtain ⟨hone, -⟩ | ⟨-, heq⟩ := s.thermTrip_cases 0xFF 0
  · exact absurd (hone.symm.trans hzero) (by decide)
  · rw [heq, State.keep_of_likeLog (s.likeLog_thermTripped _ _)]
    rfl

theorem thermtripN_idle (hl : s.live) (hone : s.fld Reg.SIO_STATUS 2 2 = 1) : exec .thermtripN s = .next s := by
  refine (exec_loop hl _).trans (congrArg Host.Outcome.next ?_)
  rw [State.thermTrip, if_pos hone, State.keep_self]

end

/-- Settles O54: each loop by its thresholds; posting and latching keep what the loops measure. -/
theorem hardwareLoops : Obligations.HardwareLoops := by
  unfold Obligations.HardwareLoops
  intro i r mv da xs s hl
  refine ⟨exec_loop hl _, fun hi => ?_, thermtripN_runs hl, thermtripN_idle hl, exec_loop hl _, fun hi => State.ocOne_spec hi r, ?_,
    capMiss_runs hl, capMiss_idle hl⟩
  · obtain ⟨hloops, hmem, hqueues⟩ := State.thermOne_frame (s := s) hi r
    dsimp only
    rw [hloops]
    refine ⟨mget_mset_self false s.loops.warned i _, mget_mset_self false s.loops.hot i _, hmem, hqueues, fun hn => ?_, fun htrip hhot => ?_⟩
    · rw [State.thermOne_eq hi, if_neg hn]
      refine ⟨fun hwarn hw => if_pos ⟨hwarn, hw⟩, fun hn => if_neg ?_⟩
      rintro ⟨hwarn, hw⟩
      exact hn.elim (by omega) (fun ht => Bool.false_ne_true (hw.symm.trans ht))
    · rw [State.thermOne_eq hi, if_pos ⟨htrip, hhot⟩]
      obtain ⟨-, -, -, hone, hout⟩ := (s.thermWarned i r).thermTrip_spec i r
      obtain ⟨-, -, -, hsame⟩ := s.thermWarned_spec i r
      exact ⟨hone, State.not_issuing_of_trip (.inl hone), fun hzero => hout (hsame.trans hzero)⟩
  · obtain ⟨t, hexec, hpower, hbelow, hmem, hmats, hqueues, hshare⟩ := exec_damperSample hl mv da
    have hbound : s.loops.below + 1 < 10 → s.loops.below + 1 ≠ 10 := by omega
    rw [State.damped_share] at hshare
    refine ⟨t, hexec, hpower, hmem, hmats, hqueues, fun habove => ?_, fun hlow hcap => ?_, fun hlow hten => ?_, fun hlow hten => ?_⟩
    · exact hshare.trans (if_pos habove)
    · have hrow : s.belowRow mv da = 0 := if_neg (Nat.not_lt.mpr hlow)
      exact hshare.trans ((if_neg (Nat.not_lt.mpr hcap)).trans (if_neg (by rw [hrow]; decide)))
    · have hrow : s.belowRow mv da = s.loops.below + 1 := if_pos hlow
      have hcap : ¬ s.capOf mv da < (s.samples mv da).sum := by
        unfold State.capOf State.samples
        omega
      exact hshare.trans ((if_neg hcap).trans (if_pos (hrow.trans hten)))
    · have hrow : s.belowRow mv da = s.loops.below + 1 := if_pos hlow
      have hcap : ¬ s.capOf mv da < (s.samples mv da).sum := by
        unfold State.capOf State.samples
        omega
      have hrow' : s.belowRow mv da ≠ 10 := hrow ▸ hbound hten
      exact ⟨hshare.trans ((if_neg hcap).trans (if_neg hrow')), hbelow.trans ((if_neg hrow').trans hrow)⟩

end Sys2Proof.Machine

namespace Sys2Proof.Machine

/-! ## Siolo's firmware and its resets (R418, R424, R425, R427) -/

/-! ### Registers that an event leaves alone -/

theorem State.reg_latchAlarm_ne (s : State) (r : LogRec) {o : Nat} (ho : o ≠ Reg.SIO_ALARM_STATUS) : (s.latchAlarm r).reg o = s.reg o := by
  unfold State.latchAlarm
  dsimp only
  split
  · rw [State.reg_setFld_ne _ _ _ _ ho]; rfl
  · rw [State.reg_raise_ne _ _ _ ho ho]; rfl

theorem State.reg_intakeRec_ne (s : State) {r : LogRec} (hcls : r.cls ≠ 0) {o : Nat} (ho : o ≠ Reg.SIO_ALARM_STATUS) :
    (s.intakeRec r).reg o = s.reg o := by
  unfold State.intakeRec
  rw [if_neg hcls]
  dsimp only
  split
  · split
    · rw [State.reg_setLog, s.reg_latchAlarm_ne r ho]
    · rw [State.reg_setLog, s.reg_latchAlarm_ne r ho]
  · split
    · rfl
    · exact State.reg_of_regs (s.regs_coalesce r) o

/-- No event but a TRACE changes another register than the alarms'. -/
theorem State.reg_post_ne (s : State) {cls o : Nat} (hcls : cls ≠ 0) (ho : o ≠ Reg.SIO_ALARM_STATUS) (src code arg : Nat) :
    (s.post src code cls arg).reg o = s.reg o := s.reg_intakeRec_ne hcls ho

theorem State.fld_post_ne (s : State) {cls o : Nat} (hcls : cls ≠ 0) (ho : o ≠ Reg.SIO_ALARM_STATUS) (src code arg hi lo : Nat) :
    (s.post src code cls arg).fld o hi lo = s.fld o hi lo := congrArg (fget · hi lo) (s.reg_post_ne hcls ho src code arg)

section
variable {s : State}

/-! ### Readings -/

theorem State.loadView_setReading (s : State) (k i v : Nat) : (s.setReading k i v).loadView = s.loadView := rfl

theorem State.reading_setReading_self (s : State) (k i v : Nat) : (s.setReading k i v).reading? k i = some ⟨v % 2 ^ 16, s.now⟩ := by
  unfold State.setReading State.reading?
  exact mget_mset_self (none : Option Reading) s.sensors (256 * k + i) (some ⟨v % 2 ^ 16, s.now⟩)

theorem State.reading_setReading_ne (s : State) {k i k' j : Nat} (v : Nat) (hi : i < 256) (hj : j < 256) (hne : (k', j) ≠ (k, i)) :
    (s.setReading k i v).reading? k' j = s.reading? k' j := by
  unfold State.setReading State.reading?
  refine mget_mset_ne (none : Option Reading) s.sensors (some ⟨v % 2 ^ 16, s.now⟩) fun h => hne (Prod.ext ?_ ?_)
  · change k' = k
    omega
  · change j = i
    omega

theorem State.reading_post (s : State) (src code cls arg k i : Nat) : (s.post src code cls arg).reading? k i = s.reading? k i :=
  congrArg (mget none · (256 * k + i)) (State.post_sensors s src code cls arg)

theorem sensorCount_lt {k i : Nat} (h : i < sensorCount k) : i < 256 := by
  unfold sensorCount at h
  split at h <;> omega

theorem State.reportOne_eq {k i : Nat} (hk : k < 3) (hi : i < sensorCount k) (v : Nat) : s.reportOne (k, i, v) =
    if k = 1 ∧ (v % 2 ^ 16 * 100 < 95 * s.railNominal (i / 4) ∨ 105 * s.railNominal (i / 4) < v % 2 ^ 16 * 100) then
      (s.setReading k i v).post slotSiolo 0x0903 2 (i + v % 2 ^ 16 * 2 ^ 16)
    else s.setReading k i v := by
  unfold State.reportOne
  exact if_pos ⟨hk, hi⟩

/-- The readings after a report. -/
theorem State.reportOne_readings {k i : Nat} (hk : k < 3) (hi : i < sensorCount k) (v : Nat) :
    (s.reportOne (k, i, v)).reading? k i = some ⟨v % 2 ^ 16, s.now⟩ ∧
    (∀ k' j, k' < 4 → j < 256 → (k', j) ≠ (k, i) → (s.reportOne (k, i, v)).reading? k' j = s.reading? k' j) := by
  have hsame (k' j : Nat) : (s.reportOne (k, i, v)).reading? k' j = (s.setReading k i v).reading? k' j := by
    rw [State.reportOne_eq hk hi]
    split
    · exact State.reading_post _ _ _ _ _ _ _
    · rfl
  refine ⟨(hsame k i).trans (s.reading_setReading_self k i v), fun k' j _ hj hne => (hsame k' j).trans ?_⟩
  exact s.reading_setReading_ne v (sensorCount_lt hi) hj hne

/-! ### Coolant -/

/-- The three readings of the coolant. -/
def State.coolant (s : State) (inlet outlet flow : Nat) : State :=
  ((s.setReading 3 0 inlet).setReading 3 1 outlet).setReading 3 2 flow

theorem State.loadView_coolant (s : State) (inlet outlet flow : Nat) : (s.coolant inlet outlet flow).loadView = s.loadView := rfl

theorem State.coolantCheck_eq (hrun : s.sioRun = true) (inlet outlet flow : Nat) : s.coolantCheck inlet outlet flow =
    let u := if 640 < asInt 16 inlet then (s.coolant inlet outlet flow).post slotSiolo 0x0904 2 (inlet % 2 ^ 16 * 2 ^ 16)
      else s.coolant inlet outlet flow
    if flow % 2 ^ 16 < 250 then u.post slotSiolo 0x0904 3 (1 + flow % 2 ^ 16 * 2 ^ 16) else u := by
  unfold State.coolantCheck
  exact if_pos hrun

/-! ### Load -/

/-- The load, the stretch factor and the overload flag, as a window leaves them. -/
def State.loadShown (s : State) (load g ovl : Nat) : State :=
  ((s.setFld Reg.SIO_LOAD 9 0 load).setFld Reg.SIO_LOAD 18 16 g).setFld Reg.SIO_STATUS 1 1 ovl

/-- A window's end, with its event where the overload begins and its post where the stretch factor changes. -/
def State.loadEnded (s : State) (load f g ovl : Nat) (begins : Prop) [Decidable begins] : State :=
  let u := if begins then (s.loadShown load g ovl).raise Reg.SIO_EVENT 1 Reg.SIO_EVENT_CNT 16 else s.loadShown load g ovl
  (if f = g then u else u.post slotSiolo 0x0906 1 (g + load * 2 ^ 16)).pmbLatch

theorem State.loadWindow_eq (hrun : s.sioRun = true) {load : Nat} (hload : load ≤ 1000) : s.loadWindow load =
    let f := s.fld Reg.SIO_LOAD 18 16
    let heavy := 900 ≤ load ∨ (s.fld Reg.SIO_STATUS 1 1 = 1 ∧ 800 ≤ load)
    s.loadEnded load f (if heavy then min 4 (2 * f) else if load < 800 then max 1 (f / 2) else f) (if heavy then 1 else 0)
      (heavy ∧ ¬ s.fld Reg.SIO_STATUS 1 1 = 1) := by
  unfold State.loadWindow State.loadEnded State.loadShown
  refine (if_pos hrun).trans ?_
  rw [Nat.min_eq_right hload]

section
variable (s : State) (load f g ovl : Nat) (begins : Prop) [Decidable begins]

theorem State.reg_loadEnded {o : Nat} (ho : o ≠ Reg.SIO_ALARM_STATUS) (he : o ≠ Reg.SIO_EVENT) (hc : o ≠ Reg.SIO_EVENT_CNT) :
    (s.loadEnded load f g ovl begins).reg o = (s.loadShown load g ovl).reg o := by
  have hlatch (t : State) : t.pmbLatch.reg o = t.reg o := rfl
  have hbegins : (if begins then (s.loadShown load g ovl).raise Reg.SIO_EVENT 1 Reg.SIO_EVENT_CNT 16 else s.loadShown load g ovl).reg o =
      (s.loadShown load g ovl).reg o := by
    split
    · exact State.reg_raise_ne _ _ _ he hc
    · rfl
  unfold State.loadEnded
  dsimp only
  rw [hlatch]
  split
  · exact hbegins
  · exact (State.reg_post_ne _ (by decide) ho _ _ _).trans hbegins

theorem State.likeLog_loadEnded : s.likeLog (s.loadEnded load f g ovl begins) := by
  have hlatch (t : State) : t.likeLog t.pmbLatch := ⟨_, _, _, _, rfl⟩
  have hshown : s.likeLog (s.loadShown load g ovl) :=
    State.likeLog_trans (State.likeLog_trans (s.likeLog_setFld _ _ _ _) (State.likeLog_setFld _ _ _ _ _)) (State.likeLog_setFld _ _ _ _ _)
  have hbegins : s.likeLog (if begins then (s.loadShown load g ovl).raise Reg.SIO_EVENT 1 Reg.SIO_EVENT_CNT 16 else s.loadShown load g ovl) := by
    split
    · exact State.likeLog_trans hshown (State.likeLog_raise _ _ _ _ _)
    · exact hshown
  unfold State.loadEnded
  dsimp only
  refine State.likeLog_trans ?_ (hlatch _)
  split
  · exact hbegins
  · exact State.likeLog_trans hbegins (State.likeLog_post _ _ _ _ _)

theorem State.loadEnded_event (hb : begins) : (s.loadEnded load f g ovl begins).fld Reg.SIO_EVENT 1 1 = 1 := by
  have hflag : ((s.loadShown load g ovl).raise Reg.SIO_EVENT 1 Reg.SIO_EVENT_CNT 16).fld Reg.SIO_EVENT 1 1 = 1 :=
    State.fld_raise_flag _ (by decide) (by decide)
  unfold State.loadEnded
  dsimp only
  rw [State.fld_pmbLatch, if_pos hb]
  split
  · exact hflag
  · exact (State.fld_post_ne _ (by decide) (by decide) _ _ _ _ _).trans hflag

theorem State.loadShown_fields (hload : load < 1024) (hg : g < 8) (hovl : ovl < 2) : (s.loadShown load g ovl).fld Reg.SIO_LOAD 9 0 = load ∧
    (s.loadShown load g ovl).fld Reg.SIO_LOAD 18 16 = g ∧ (s.loadShown load g ovl).fld Reg.SIO_STATUS 1 1 = ovl := by
  have hne : Reg.SIO_LOAD ≠ Reg.SIO_STATUS := by decide
  unfold State.loadShown
  refine ⟨?_, ?_, ?_⟩
  · rw [State.fld_setFld_off _ _ _ _ _ _ hne, State.fld_setFld_ne _ _ _ (by decide) (by decide) (by decide) (by decide)]
    exact (State.fld_setFld_self _ _ _ (by decide) (by decide)).trans (Nat.mod_eq_of_lt hload)
  · rw [State.fld_setFld_off _ _ _ _ _ _ hne]
    exact (State.fld_setFld_self _ _ _ (by decide) (by decide)).trans (Nat.mod_eq_of_lt hg)
  · exact (State.fld_setFld_self _ _ _ (by decide) (by decide)).trans (Nat.mod_eq_of_lt hovl)

theorem State.loadEnded_fields (hload : load < 1024) (hg : g < 8) (hovl : ovl < 2) :
    (s.loadEnded load f g ovl begins).fld Reg.SIO_LOAD 9 0 = load ∧ (s.loadEnded load f g ovl begins).fld Reg.SIO_LOAD 18 16 = g ∧
    (s.loadEnded load f g ovl begins).fld Reg.SIO_STATUS 1 1 = ovl := by
  obtain ⟨h1, h2, h3⟩ := s.loadShown_fields load g ovl hload hg hovl
  have hloadReg := s.reg_loadEnded load f g ovl begins (o := Reg.SIO_LOAD) (by decide) (by decide) (by decide)
  have hstatusReg := s.reg_loadEnded load f g ovl begins (o := Reg.SIO_STATUS) (by decide) (by decide) (by decide)
  exact ⟨(congrArg (fget · 9 0) hloadReg).trans h1, (congrArg (fget · 18 16) hloadReg).trans h2, (congrArg (fget · 1 1) hstatusReg).trans h3⟩

end

/-! ### Siolo's resets -/

/-- What a reset of Siolo alone shows in its registers. -/
def State.sioShown (s : State) (cause : Nat) : State :=
  let n := min 255 (s.fld Reg.SIO_STATUS 15 8 + 1)
  ((((((s.setFld Reg.SIO_STATUS 15 8 n).setFld Reg.SIO_STATUS 0 0 0).raise Reg.SIO_EVENT 2 Reg.SIO_EVENT_CNT 32).post slotSiolo 0x0907 3
    (cause + n * 2 ^ 8)).setFld Reg.SEC_ID 20 0 0).setFld Reg.SEC_ID 52 32 0)

/-- What a reset of Siolo alone loses. -/
def State.sioLost (s : State) (mbx : SMap Mailbox) : State :=
  ({ s with boot := .header true, flashOp := none, session := none, mbx := mbx } : State).pmbLatch

theorem State.sioReset_run (hb : s.boot = .run) (cause : Nat) : ∃ mbx, s.sioReset cause = (s.sioShown cause).sioLost mbx := by
  unfold State.sioReset
  exact ⟨_, if_pos (.inl hb)⟩

theorem State.sioReset_idle (hb : s.boot = .off ∨ s.boot = .header true) (cause : Nat) : s.sioReset cause = s := by
  refine if_neg ?_
  rcases hb with hb | hb <;> simp [hb]

theorem State.likeLog_sioShown (s : State) (cause : Nat) : s.likeLog (s.sioShown cause) :=
  State.likeLog_trans (State.likeLog_trans (State.likeLog_trans (State.likeLog_trans (State.likeLog_trans (s.likeLog_setFld _ _ _ _)
    (State.likeLog_setFld _ _ _ _ _)) (State.likeLog_raise _ _ _ _ _)) (State.likeLog_post _ _ _ _ _)) (State.likeLog_setFld _ _ _ _ _))
    (State.likeLog_setFld _ _ _ _ _)

theorem State.sioShown_reg (s : State) (cause : Nat) {o : Nat} (ho : o ≠ Reg.SEC_ID) (ha : o ≠ Reg.SIO_ALARM_STATUS) :
    (s.sioShown cause).reg o = (((s.setFld Reg.SIO_STATUS 15 8 (min 255 (s.fld Reg.SIO_STATUS 15 8 + 1))).setFld Reg.SIO_STATUS 0 0 0).raise
      Reg.SIO_EVENT 2 Reg.SIO_EVENT_CNT 32).reg o := by
  unfold State.sioShown
  dsimp only
  rw [State.reg_setFld_ne _ _ _ _ ho, State.reg_setFld_ne _ _ _ _ ho, State.reg_post_ne _ (by decide) ha]

theorem State.sioShown_fields (s : State) (cause : Nat) : (s.sioShown cause).fld Reg.SIO_STATUS 0 0 = 0 ∧
    (s.sioShown cause).fld Reg.SIO_STATUS 15 8 = min 255 (s.fld Reg.SIO_STATUS 15 8 + 1) ∧ (s.sioShown cause).fld Reg.SIO_EVENT 2 2 = 1 := by
  generalize hn : min 255 (s.fld Reg.SIO_STATUS 15 8 + 1) = n
  have hlt : n < 256 := by omega
  have hstatus := s.sioShown_reg cause (o := Reg.SIO_STATUS) (by decide) (by decide)
  rw [State.reg_raise_ne _ _ _ (by decide) (by decide), hn] at hstatus
  refine ⟨(congrArg (fget · 0 0) hstatus).trans ?_, (congrArg (fget · 15 8) hstatus).trans ?_, ?_⟩
  · exact (State.fld_setFld_self _ _ _ (by decide) (by decide)).trans (Nat.zero_mod _)
  · exact (State.fld_setFld_ne _ _ _ (by decide) (by decide) (by decide) (by decide)).trans
      ((State.fld_setFld_self _ _ _ (by decide) (by decide)).trans (Nat.mod_eq_of_lt hlt))
  · exact (congrArg (fget · 2 2) (s.sioShown_reg cause (by decide) (by decide))).trans (State.fld_raise_flag _ (by decide) (by decide))

theorem State.keep_sioLost {u : State} (hu : s.likeLog u) (mbx : SMap Mailbox) : s.keep (u.sioLost mbx) = u.sioLost mbx := by
  obtain ⟨_, _, _, _, rfl⟩ := hu
  rfl

/-- What a reset of Siolo alone leaves as it was. -/
theorem State.sioLost_frame {u : State} (hu : s.likeLog u) (mbx : SMap Mailbox) : let t := u.sioLost mbx
    t.boot = .header true ∧ t.loader = s.loader ∧ t.image = s.image ∧ t.queues = s.queues ∧ t.mem = s.mem ∧ t.loops = s.loops ∧
    t.streams = s.streams ∧ ∀ o hi lo, t.fld o hi lo = u.fld o hi lo := by
  obtain ⟨_, _, _, _, rfl⟩ := hu
  exact ⟨rfl, rfl, rfl, rfl, rfl, rfl, rfl, fun _ _ _ => rfl⟩

theorem sioReset_resets (hl : s.live) (hb : s.boot = .run) (cause : Nat) : ∃ t, s.run (s.sioReset cause) = .next t ∧ t.boot = .header true ∧
    t.sioRun = false ∧ t.fld Reg.SIO_STATUS 15 8 = min 255 (s.fld Reg.SIO_STATUS 15 8 + 1) ∧ t.fld Reg.SIO_EVENT 2 2 = 1 ∧
    t.loader = s.loader ∧ t.image = s.image ∧ t.queues = s.queues ∧ t.mem = s.mem ∧ t.loops = s.loops ∧ t.streams = s.streams := by
  obtain ⟨mbx, heq⟩ := State.sioReset_run hb cause
  have hlike := s.likeLog_sioShown cause
  obtain ⟨hrun, hcount, hevent⟩ := s.sioShown_fields cause
  obtain ⟨hboot, hloader, himage, hqueues, hmem, hloops, hstreams, hfld⟩ := State.sioLost_frame hlike mbx
  refine ⟨(s.sioShown cause).sioLost mbx, ?_, hboot, ?_, (hfld _ _ _).trans hcount, (hfld _ _ _).trans hevent, hloader, himage, hqueues, hmem, hloops,
    hstreams⟩
  · rw [State.run_live _ hl, heq, State.keep_sioLost hlike]
  · unfold State.sioRun
    rw [hfld, hrun]
    rfl

theorem sioReset_nothing (hl : s.live) (hb : s.boot = .off ∨ s.boot = .header true) (cause : Nat) : s.run (s.sioReset cause) = .next s := by
  rw [State.run_live _ hl, State.sioReset_idle hb, State.keep_self]

/-! ### The commands of the firmware -/

theorem siolo_down (hl : s.live) (h : s.oppBusy = true ∨ s.sioRun = false) (xs : List (Nat × Nat × Nat)) (inlet outlet flow load : Nat) :
    exec (.sensorReport xs) s = .next s ∧ exec (.coolantCheck inlet outlet flow) s = .next s ∧ exec (.loadWindow load) s = .next s := by
  rcases h with hbusy | hrun
  · exact ⟨run_paused hl hbusy _, run_paused hl hbusy _, run_paused hl hbusy _⟩
  · have hn : ¬ s.sioRun = true := by simp [hrun]
    exact ⟨(congrArg (fun u => s.run (s.unpaused u)) (if_neg hn)).trans (run_unpaused_self hl),
      (congrArg (fun u => s.run (s.unpaused u)) (if_neg hn)).trans (run_unpaused_self hl),
      (congrArg (fun u => s.run (s.unpaused u)) (if_neg hn)).trans (run_unpaused_self hl)⟩

theorem exec_coolantCheck (hl : s.live) (hfree : s.oppBusy = false) (hrun : s.sioRun = true) (inlet outlet flow : Nat) :
    exec (.coolantCheck inlet outlet flow) s = .next
      (let u := if 640 < asInt 16 inlet then (s.coolant inlet outlet flow).post slotSiolo 0x0904 2 (inlet % 2 ^ 16 * 2 ^ 16)
        else s.coolant inlet outlet flow
      if flow % 2 ^ 16 < 250 then u.post slotSiolo 0x0904 3 (1 + flow % 2 ^ 16 * 2 ^ 16) else u) := by
  have hview := s.loadView_coolant inlet outlet flow
  refine (exec_unpaused hl hfree _).trans (congrArg Host.Outcome.next ?_)
  rw [State.coolantCheck_eq hrun]
  refine State.keep_of_loadView ?_
  generalize s.coolant inlet outlet flow = v at hview
  dsimp only
  split
  · split
    · rw [State.loadView_post, State.loadView_post, hview]
    · rw [State.loadView_post, hview]
  · split
    · rw [State.loadView_post, hview]
    · exact hview

theorem exec_loadWindow (hl : s.live) (hfree : s.oppBusy = false) (hrun : s.sioRun = true) {load : Nat} (hload : load ≤ 1000) :
    let f := s.fld Reg.SIO_LOAD 18 16
    let heavy := 900 ≤ load ∨ (s.fld Reg.SIO_STATUS 1 1 = 1 ∧ 800 ≤ load)
    ∃ t, exec (.loadWindow load) s = .next t ∧ t.fld Reg.SIO_LOAD 9 0 = load ∧ t.mem = s.mem ∧ t.queues = s.queues ∧
      t.fld Reg.SIO_STATUS 1 1 = (if heavy then 1 else 0) ∧
      t.fld Reg.SIO_LOAD 18 16 = (if heavy then min 4 (2 * f) else if load < 800 then max 1 (f / 2) else f) ∧
      (heavy → s.fld Reg.SIO_STATUS 1 1 = 0 → t.fld Reg.SIO_EVENT 1 1 = 1) := by
  intro f heavy
  have hf : f < 8 := fget_lt _ 18 16
  have hg : (if heavy then min 4 (2 * f) else if load < 800 then max 1 (f / 2) else f) < 8 := by
    split
    · omega
    · split <;> omega
  have hovl : (if heavy then 1 else 0) < 2 := by split <;> omega
  have hlike := s.likeLog_loadEnded load f (if heavy then min 4 (2 * f) else if load < 800 then max 1 (f / 2) else f) (if heavy then 1 else 0)
    (heavy ∧ ¬ s.fld Reg.SIO_STATUS 1 1 = 1)
  obtain ⟨hshown, hstretch, hflag⟩ := s.loadEnded_fields load f _ _ (heavy ∧ ¬ s.fld Reg.SIO_STATUS 1 1 = 1) (by omega) hg hovl
  refine ⟨_, (exec_unpaused hl hfree _).trans (congrArg Host.Outcome.next ?_), hshown, ?_, ?_, hflag, hstretch, fun hh hz => ?_⟩
  · rw [State.loadWindow_eq hrun hload]
    exact State.keep_of_likeLog hlike
  · obtain ⟨_, _, _, _, he⟩ := hlike
    rw [he]
    rfl
  · obtain ⟨_, _, _, _, he⟩ := hlike
    rw [he]
    rfl
  · exact State.loadEnded_event _ _ _ _ _ _ ⟨hh, by omega⟩

end

/-- Settles O55: each row of the firmware by its limits, and a reset of Siolo by what it shows and what it loses. -/
theorem sioloFirmware : Obligations.SioloFirmware := by
  unfold Obligations.SioloFirmware
  intro k i v inlet outlet flow load xs s hl
  refine ⟨fun h => siolo_down hl h xs inlet outlet flow load, fun hfree hrun => ⟨?_, fun hk hi => ?_, ?_, fun hload => ?_⟩, fun hb x hx => ?_,
    fun hb => ⟨sioReset_nothing hl hb 0, sioReset_nothing hl hb 1⟩⟩
  · refine (exec_unpaused hl hfree _).trans ?_
    rw [State.sensorReport, if_pos hrun]
  · obtain ⟨hself, hothers⟩ := State.reportOne_readings (s := s) hk hi v
    refine ⟨hself, hothers, fun hok => ?_, fun hone hbad => ?_⟩
    · rw [State.reportOne_eq hk hi, if_neg (by omega)]
    · rw [State.reportOne_eq hk hi, if_pos ⟨hone, hbad⟩]
  · rw [exec_coolantCheck hl hfree hrun]
    refine ⟨fun h1 h2 => ?_, fun h1 h2 => ?_, fun h1 h2 => ?_, fun h1 h2 => ?_⟩
    · rw [if_neg (not_lt.mpr h1), if_neg (not_lt.mpr h2)]
      rfl
    · rw [if_pos h1, if_neg (not_lt.mpr h2)]
      rfl
    · rw [if_neg (not_lt.mpr h1), if_pos h2]
      rfl
    · rw [if_pos h1, if_pos h2]
      rfl
  · obtain ⟨t, hexec, hshown, hmem, hqueues, hflag, hstretch, hevent⟩ := exec_loadWindow hl hfree hrun hload
    refine ⟨t, hexec, hshown, hmem, hqueues, fun hh => ⟨hflag.trans (if_pos hh), hstretch.trans (if_pos hh)⟩, fun hn => hflag.trans (if_neg hn),
      fun hlow => hstretch.trans ((if_neg (by omega)).trans (if_pos hlow)), hevent⟩
  · rcases List.mem_pair.mp hx with rfl | rfl
    · exact sioReset_resets hl hb 0
    · exact sioReset_resets hl hb 1

end Sys2Proof.Machine

namespace Sys2Proof.Machine

/-! ## The cairn log (R429–R436, R440) -/

/-! ### Records -/

theorem logBytes_layout (x : LogRec) : (logBytes x).length = 32 ∧ leAt (logBytes x) 0 8 = x.time % 2 ^ 64 ∧
    leAt (logBytes x) 8 8 = x.step % 2 ^ 64 ∧ leAt (logBytes x) 16 2 = x.code % 2 ^ 16 ∧ leAt (logBytes x) 18 1 = x.src % 2 ^ 8 ∧
    leAt (logBytes x) 19 1 = 0x10 + (if x.summary then 4 else 0) + x.cls % 4 ∧ leAt (logBytes x) 20 12 = x.arg % 2 ^ 96 := by
  have hfmt : 0x10 + (if x.summary then 4 else 0) + x.cls % 4 < 256 := by split <;> omega
  unfold logBytes
  generalize 0x10 + (if x.summary then 4 else 0) + x.cls % 4 = fmt at hfmt
  simp only [List.append_assoc]
  refine ⟨by simp only [List.length_append, length_toLe], ?_, ?_, ?_, ?_, ?_, ?_⟩
  · exact leAt_front _ _ _
  · rw [leAt_skip _ _ _ (by decide)]
    exact leAt_front _ _ _
  · rw [leAt_skip _ _ _ (by decide), leAt_skip _ _ _ (by decide)]
    exact leAt_front _ _ _
  · rw [leAt_skip _ _ _ (by decide), leAt_skip _ _ _ (by decide), leAt_skip _ _ _ (by decide)]
    exact leAt_front _ _ _
  · rw [leAt_skip _ _ _ (by decide), leAt_skip _ _ _ (by decide), leAt_skip _ _ _ (by decide), leAt_skip _ _ _ (by decide)]
    exact (leAt_front _ _ _).trans (Nat.mod_eq_of_lt hfmt)
  · rw [leAt_skip _ _ _ (by decide), leAt_skip _ _ _ (by decide), leAt_skip _ _ _ (by decide), leAt_skip _ _ _ (by decide),
      leAt_skip _ _ _ (by decide)]
    exact leAt_whole _ _

/-! ### The intake -/

section
variable {s : State} {src code cls arg : Nat}

/-- What a source posts: its record, with the counter, and the intake takes it. -/
theorem State.post_record (s : State) (src code cls arg : Nat) : ∃ y : LogRec, s.post src code cls arg = s.intakeRec y ∧
    y.time = s.now ∧ y.code = code ∧ y.src = src ∧ y.cls = cls ∧ y.arg = arg % 2 ^ 96 ∧ y.summary = false :=
  ⟨_, rfl, rfl, rfl, rfl, rfl, rfl, rfl⟩

theorem State.intakeRec_room {y : LogRec} (hcls : y.cls < 3) (hroom : s.log.intake.length < s.intakeCap) :
    s.intakeRec y = { s with log := { s.log with intake := s.log.intake ++ [y] } } :=
  (if_neg (by omega)).trans (if_pos hroom)

theorem State.intakeRec_full {y : LogRec} (hcls : y.cls < 3) (hfull : s.intakeCap ≤ s.log.intake.length) :
    s.intakeRec y = if y.cls = 0 then s.dropTrace y else s.coalesce y :=
  (if_neg (by omega)).trans (if_neg (by omega))

theorem State.post_room (hcls : cls < 3) (hroom : s.log.intake.length < s.intakeCap) : ∃ y : LogRec,
    s.post src code cls arg = { s with log := { s.log with intake := s.log.intake ++ [y] } } ∧
    y.time = s.now ∧ y.code = code ∧ y.src = src ∧ y.cls = cls ∧ y.arg = arg % 2 ^ 96 ∧ y.summary = false := by
  obtain ⟨y, heq, htime, hcode, hsrc, hc, harg, hsum⟩ := s.post_record src code cls arg
  exact ⟨y, heq.trans (State.intakeRec_room (by omega) hroom), htime, hcode, hsrc, hc, harg, hsum⟩

theorem State.post_full (hcls : cls < 3) (hfull : s.intakeCap ≤ s.log.intake.length) : ∃ y : LogRec,
    y.time = s.now ∧ y.code = code ∧ y.src = src ∧ y.cls = cls ∧ y.arg = arg % 2 ^ 96 ∧
    s.post src code cls arg = if cls = 0 then s.dropTrace y else s.coalesce y := by
  obtain ⟨y, heq, htime, hcode, hsrc, hc, harg, -⟩ := s.post_record src code cls arg
  refine ⟨y, htime, hcode, hsrc, hc, harg, heq.trans ((State.intakeRec_full (by omega) hfull).trans ?_)⟩
  rw [hc]

/-! ### The alarm file -/

/-- The count of an alarm's entry after one more. -/
def latchCount (r : LogRec) (old : Option AlarmEnt) : Nat :=
  match old with
  | some a => if a.entry.code = r.code ∧ a.entry.src = r.src then a.count + 1 else 1
  | none => 1

theorem State.latchAlarm_entry (s : State) (r : LogRec) : ∃ n,
    (∀ e, alarmSlot s.log.alarms r.code r.src = some e → mget none (s.latchAlarm r).log.alarms e = some ⟨r, n, false⟩) ∧
    (alarmSlot s.log.alarms r.code r.src = none → (s.latchAlarm r).log.alarms = s.log.alarms) := by
  have hlog (t : State) (x : Out) (p : Nat) : ({ t.emit x with pmb := p } : State).log = t.log := rfl
  unfold State.latchAlarm
  dsimp only
  rw [hlog]
  cases hslot : alarmSlot s.log.alarms r.code r.src with
  | none => exact ⟨0, fun e he => absurd he (by simp), fun _ => congrArg Log.alarms (State.raise_log _ _ _ _ _)⟩
  | some i =>
    refine ⟨latchCount r (mget none s.log.alarms i), fun e he => ?_, fun he => absurd he (by simp)⟩
    obtain rfl : i = e := Option.some.inj he
    rw [State.setFld_log]
    exact mget_mset_self (none : Option AlarmEnt) s.log.alarms i (some ⟨r, latchCount r (mget none s.log.alarms i), false⟩)

theorem State.intakeRec_alarms (s : State) {r : LogRec} (hr : r.cls = 3) : (s.intakeRec r).log.alarms = (s.latchAlarm r).log.alarms := by
  unfold State.intakeRec
  rw [if_pos hr]
  dsimp only
  split <;> rfl

theorem State.post_alarm (s : State) (src code arg : Nat) : ∃ n, (s.post src code 3 arg).out = s.out ++ [.alarm code src] ∧
    (∀ e, alarmSlot s.log.alarms code src = some e → ∃ y : LogRec, mget none (s.post src code 3 arg).log.alarms e = some ⟨y, n, false⟩ ∧
      y.code = code ∧ y.src = src ∧ y.time = s.now) ∧
    (alarmSlot s.log.alarms code src = none → (s.post src code 3 arg).log.alarms = s.log.alarms) := by
  obtain ⟨y, heq, htime, hcode, hsrc, hcls, -⟩ := s.post_record src code 3 arg
  obtain ⟨n, hsome, hnone⟩ := s.latchAlarm_entry y
  rw [hcode, hsrc] at hsome hnone
  rw [State.out_post_alarm, heq, s.intakeRec_alarms hcls]
  exact ⟨n, rfl, fun e he => ⟨y, hsome e he, hcode, hsrc, htime⟩, hnone⟩

/-! ### TRACEs and the summary table -/

theorem State.dropTrace_spec (s : State) {x : LogRec} (hsrc : x.src < 256) : (s.dropTrace x).fld Reg.SIO_EVENT 0 0 = 1 ∧
    (s.dropTrace x).reg (Reg.SIO_LOG_DROP x.src) = (s.count (Reg.SIO_LOG_DROP x.src) 1).reg (Reg.SIO_LOG_DROP x.src) ∧
    mget 0 (s.dropTrace x).log.dropped x.src = mget 0 s.log.dropped x.src + 1 ∧ (s.dropTrace x).log.intake = s.log.intake := by
  have hlog : ((s.count (Reg.SIO_LOG_DROP x.src) 1).raise Reg.SIO_EVENT 0 Reg.SIO_EVENT_CNT 0).log = s.log := by
    rw [State.raise_log]
    exact State.addFld_log _ _ _ _ _
  have hevent : Reg.SIO_LOG_DROP x.src ≠ Reg.SIO_EVENT := by unfold Reg.SIO_LOG_DROP Reg.SIO_EVENT; omega
  have hcnt : Reg.SIO_LOG_DROP x.src ≠ Reg.SIO_EVENT_CNT := by unfold Reg.SIO_LOG_DROP Reg.SIO_EVENT_CNT; omega
  unfold State.dropTrace
  dsimp only
  rw [hlog]
  refine ⟨?_, ?_, mget_mmod_self 0 s.log.dropped x.src _, rfl⟩
  · exact (congrArg (fget · 0 0) (State.reg_setLog _ _ _)).trans (State.fld_raise_flag _ (by decide) (by decide))
  · exact (State.reg_setLog _ _ _).trans (State.reg_raise_ne _ _ _ hevent hcnt)

/-- A record of another code or source than an entry of the table. -/
def sumsApart (x : LogRec) (l : List SumEnt) : Prop := ∀ d ∈ l, ¬ (d.last.code = x.code ∧ d.last.src = x.src)

theorem sumAdd_apart {x : LogRec} : ∀ {l : List SumEnt}, sumsApart x l → sumAdd x l = none
  | [], _ => rfl
  | d :: l, h => by
    rw [sumAdd, if_neg (h d List.mem_cons_self), sumAdd_apart fun e he => h e (List.mem_cons_of_mem _ he)]
    rfl

theorem sumAdd_at {x : LogRec} {e : SumEnt} (r : List SumEnt) (he : e.last.code = x.code ∧ e.last.src = x.src) :
    ∀ {l : List SumEnt}, sumsApart x l → sumAdd x (l ++ e :: r) = some (l ++ ⟨e.count + 1, x⟩ :: r)
  | [], _ => if_pos he
  | d :: l, h => by
    rw [List.cons_append, sumAdd, if_neg (h d List.mem_cons_self), sumAdd_at r he fun y hy => h y (List.mem_cons_of_mem _ hy)]
    rfl

theorem State.coalesce_entry {x : LogRec} {e : SumEnt} {l r : List SumEnt} (hs : s.log.sums = l ++ e :: r)
    (he : e.last.code = x.code ∧ e.last.src = x.src) (hl : sumsApart x l) :
    s.coalesce x = { s with log := { s.log with sums := l ++ ⟨e.count + 1, x⟩ :: r } } := by
  unfold State.coalesce
  rw [hs, sumAdd_at r he hl]

theorem State.coalesce_new {x : LogRec} (hl : sumsApart x s.log.sums) : s.coalesce x =
    if s.log.sums.length < 256 then { s with log := { s.log with sums := s.log.sums ++ [⟨1, x⟩] } }
    else { s with log := { s.log with overflow := mmod 0 s.log.overflow x.cls (· + 1) } } := by
  unfold State.coalesce
  rw [sumAdd_apart hl]

/-! ### The rings -/

section
variable {x : LogRec}

theorem State.writeRec_alarm (h : x.cls = 3) : s.writeRec x = s.ringForce x := by
  have hadm : s.admits x.cls = true := by
    rw [h]
    rfl
  unfold State.writeRec
  rw [if_pos hadm, if_pos h]

/-- An EVENT, ERROR or TRACE is written while the ring has its least space free. -/
theorem State.writeRec_other (h : x.cls < 3) : s.writeRec x =
    if s.ringSize / (if x.cls = 0 then 2 else if x.cls = 1 then 4 else 32) ≤ s.ringFree then s.ringPut x
    else if x.cls = 0 then s.dropTrace x else s.coalesce x := by
  have hadm : s.admits x.cls = decide (s.ringSize / (if x.cls = 0 then 2 else if x.cls = 1 then 4 else 32) ≤ s.ringFree) := by
    generalize x.cls = c at h
    interval_cases c <;> rfl
  unfold State.writeRec
  rw [hadm, if_neg (by omega : ¬ x.cls = 3)]
  simp only [decide_eq_true_eq]

theorem State.ringForce_full (h : s.ringFree = 0) : s.ringForce x =
    ((s.setFld Reg.SIO_LOG_TAIL 17 0 ((s.fld Reg.SIO_LOG_TAIL 17 0 + 1) % s.ringSize)).count Reg.SIO_LOG_LOST 1).ringPut x := by
  unfold State.ringForce
  rw [if_pos h]

theorem State.ringForce_room (h : s.ringFree ≠ 0) : s.ringForce x = s.ringPut x := by
  unfold State.ringForce
  rw [if_neg h]

theorem State.ringPut_main (h : s.mainRing = true) : s.ringPut x =
    (s.writeMem srcSiolo (s.fld Reg.SIO_LOG_BASE 51 21 * 0x200000 + 32 * s.fld Reg.SIO_LOG_HEAD 17 0) (logBytes x)).1.setFld
      Reg.SIO_LOG_HEAD 17 0 ((s.fld Reg.SIO_LOG_HEAD 17 0 + 1) % 262144) := by
  unfold State.ringPut State.ringSize
  dsimp only
  rw [if_pos h, if_pos h]

theorem State.ringPut_early (h : s.mainRing = false) : s.ringPut x =
    ({ s with log := { s.log with early := mset none s.log.early (s.fld Reg.SIO_LOG_HEAD 17 0) (some x) } } : State).setFld
      Reg.SIO_LOG_HEAD 17 0 ((s.fld Reg.SIO_LOG_HEAD 17 0 + 1) % 2048) := by
  have hn : ¬ s.mainRing = true := by simp [h]
  unfold State.ringPut State.ringSize
  dsimp only
  rw [if_neg hn, if_neg hn]

theorem State.ringSize_early (h : s.mainRing = false) : s.ringSize = 2048 := if_neg (by simp [h])

theorem State.ringPut_early_spec (h : s.mainRing = false) :
    (s.ringPut x).log.early = mset none s.log.early (s.fld Reg.SIO_LOG_HEAD 17 0) (some x) ∧
    (s.ringPut x).fld Reg.SIO_LOG_HEAD 17 0 = (s.fld Reg.SIO_LOG_HEAD 17 0 + 1) % 2048 ∧
    ∀ o, o ≠ Reg.SIO_LOG_HEAD → (s.ringPut x).reg o = s.reg o := by
  have hlt : (s.fld Reg.SIO_LOG_HEAD 17 0 + 1) % 2048 < 2 ^ 18 := (Nat.mod_lt _ (by decide)).trans (by decide)
  rw [State.ringPut_early h]
  generalize (s.fld Reg.SIO_LOG_HEAD 17 0 + 1) % 2048 = n at hlt
  refine ⟨by rw [State.setFld_log], ?_, fun o ho => (State.reg_setFld_ne _ _ _ _ ho).trans (State.reg_setLog _ _ _)⟩
  exact (State.fld_setFld_self _ _ _ (by decide) (by decide)).trans (Nat.mod_eq_of_lt hlt)

theorem State.ringForce_early_spec (h : s.mainRing = false) (hf : s.ringFree = 0) :
    (s.ringForce x).fld Reg.SIO_LOG_TAIL 17 0 = (s.fld Reg.SIO_LOG_TAIL 17 0 + 1) % 2048 ∧
    (s.ringForce x).reg Reg.SIO_LOG_LOST = s.reg Reg.SIO_LOG_LOST + 1 := by
  have hlt : (s.fld Reg.SIO_LOG_TAIL 17 0 + 1) % 2048 < 2 ^ 18 := (Nat.mod_lt _ (by decide)).trans (by decide)
  rw [State.ringForce_full hf, State.ringSize_early h]
  generalize (s.fld Reg.SIO_LOG_TAIL 17 0 + 1) % 2048 = n at hlt
  have hmain : ((s.setFld Reg.SIO_LOG_TAIL 17 0 n).count Reg.SIO_LOG_LOST 1).mainRing = false := by
    have hbase : ((s.setFld Reg.SIO_LOG_TAIL 17 0 n).count Reg.SIO_LOG_LOST 1).fld Reg.SIO_LOG_BASE 0 0 = s.fld Reg.SIO_LOG_BASE 0 0 :=
      congrArg (fget · 0 0) ((State.reg_count_ne _ _ (by decide)).trans (State.reg_setFld_ne _ _ _ _ (by decide)))
    rw [State.mainRing, hbase]
    exact h
  obtain ⟨-, -, hreg⟩ := State.ringPut_early_spec (x := x) hmain
  refine ⟨(congrArg (fget · 17 0) (hreg _ (by decide))).trans ?_, (hreg _ (by decide)).trans ?_⟩
  · rw [State.reg_count_ne _ _ (by decide)]
    exact (State.fld_setFld_self _ _ _ (by decide) (by decide)).trans (Nat.mod_eq_of_lt hlt)
  · rw [State.reg_count_self, State.reg_setFld_ne _ _ _ _ (by decide)]
    rfl

end

end

end Sys2Proof.Machine

namespace Sys2Proof.Machine

section
variable {s : State} {x : LogRec} {env : Env} {who : Requester}

/-! ### The writer -/

theorem exec_logPost (hl : s.live) {src cls : Nat} (hsrc : src < 256) (hcls : cls < 4) (code arg : Nat) : exec (.logPost src code cls arg) s =
    .next (if (codeClasses code).contains cls then s.post src code cls arg else s) := by
  refine (part_true (by simp [sourceOk, classOk, hsrc, hcls]) _).trans ((State.run_live _ hl).trans (congrArg Host.Outcome.next ?_))
  unfold State.sourcePost
  split
  · exact State.keep_of_likeLog (State.likeLog_post _ _ _ _ _)
  · exact State.keep_self s

theorem exec_logWrite (hl : s.live) (env : Env) : exec (.logWrite env) s = .next (s.keep (s.logWrite env)) :=
  (part_true rfl _).trans (State.run_live _ hl)

/-- A software write of SIO_LOG_TAIL in the cycle of the writer's own. -/
theorem exec_logWrite_tail (hl : s.live) (hx : s.reqExists who = true) (v : Word32) (env : Env) :
    exec (.logWrite env (some (who, v))) s = .next (s.keep
      (if (s.logWrite env).fld Reg.SIO_LOG_TAIL 17 0 = s.fld Reg.SIO_LOG_TAIL 17 0 then (s.logWrite env).regWrite who Reg.SIO_LOG_TAIL (.w32 v) {}
       else (s.logWrite env).setPort who {})) :=
  (part_true (by simp [State.tailExists, hx]) _).trans (State.run_live _ hl)

theorem logWrite_idle (hl : s.live) (hlane : s.log.lane = []) (hintake : s.log.intake = []) (env : Env) : exec (.logWrite env) s = .next s := by
  rw [exec_logWrite hl, State.logWrite, hlane, hintake, State.keep_self]

theorem logWrite_alarm (hl : s.live) {rest : List LogRec} (hlane : s.log.lane = x :: rest) (hheld : s.log.heldAlarms = []) (env : Env) :
    exec (.logWrite env) s = .next (s.keep (s.settle .log env (fun u => ({ u with log := { u.log with lane := rest } } : State).writeRec x))) := by
  rw [exec_logWrite hl, State.logWrite, hlane]
  refine congrArg (fun u => Host.Outcome.next (s.keep u)) (State.settle_congr ?_)
  dsimp only
  rw [hheld]
  rfl

theorem logWrite_intake (hl : s.live) {rest : List LogRec} (hlane : s.log.lane = []) (hintake : s.log.intake = x :: rest) (env : Env) :
    exec (.logWrite env) s = .next (s.keep (s.settle .log env (fun u => ({ u with log := { u.log with intake := rest } } : State).writeRec x))) := by
  rw [exec_logWrite hl, State.logWrite, hlane, hintake]

theorem exec_logSummary (hl : s.live) (env : Env) : exec (.logSummary env) s = .next (s.keep (s.logSummary env)) :=
  (part_true rfl _).trans (State.run_live _ hl)

/-- What the boundary's summaries tell of dropped TRACEs. -/
def droppedArg (dropped : SMap Nat) : Nat :=
  (dropped.map (·.2)).foldl (· + ·) 0 % 2 ^ 32 + (topDrop dropped).1 * 2 ^ 32 + (topDrop dropped).2 % 2 ^ 32 * 2 ^ 40

theorem logSummary_all (hl : s.live) (env : Env) : exec (.logSummary env) s = .next (s.keep (s.settle .log env (fun u =>
    let u0 : State := { u with log := { u.log with sums := [], dropped := [], overflow := [] } }
    let u1 := s.log.sums.foldl (fun w e => w.ringForce (sumRec w.now e)) u0
    let u2 := if (s.log.dropped.map (·.2)).foldl (· + ·) 0 = 0 then u1 else u1.ringForce (u1.ownRec 0x0909 (droppedArg s.log.dropped))
    s.log.overflow.foldl (fun w o => w.ringForce (w.ownRec 0x090A (o.2 % 2 ^ 32 + o.1 * 2 ^ 32))) u2))) :=
  (exec_logSummary hl env).trans (congrArg (fun u => Host.Outcome.next (s.keep u)) (State.settle_congr rfl))

theorem logSummary_one (hl : s.live) {e : SumEnt} (hsums : s.log.sums = [e]) (hdropped : s.log.dropped = []) (hover : s.log.overflow = [])
    (env : Env) : exec (.logSummary env) s = .next (s.keep (s.settle .log env (fun u =>
      ({ u with log := { u.log with sums := [], dropped := [], overflow := [] } } : State).ringForce (sumRec s.now e)))) := by
  refine (logSummary_all hl env).trans (congrArg (fun u => Host.Outcome.next (s.keep u)) (State.settle_congr ?_))
  dsimp only
  rw [hsums, hdropped, hover]
  rfl

/-! ### Acknowledgement -/

theorem State.noHostReg_alarmAck (s : State) : s.noHostReg Reg.SIO_ALARM_ACK = false := s.noHostReg_out (.inr (by decide))

theorem ackValue (entry : BitVec 6) : fget ((entry.zeroExtend 32).zeroExtend 64) 8 8 = 0 ∧ fget ((entry.zeroExtend 32).zeroExtend 64) 5 0 = entry.toNat := by
  have hlt := entry.isLt
  unfold fget bits
  rw [BitVec.toNat_setWidth, BitVec.toNat_setWidth]
  omega

theorem exec_alarmAckEntry (ha : s.admitted who) (entry : BitVec 6) :
    exec (.alarmAckEntry who entry) s = .next (s.keep ((s.setPort who {}).ackAlarm entry.toNat)) := by
  obtain ⟨hl, hx, hp⟩ := ha
  refine (part_true hx _).trans ((State.run_live _ hl).trans (congrArg (fun u => Host.Outcome.next (s.keep u)) ?_))
  rw [State.regWrite_w32 who _ {} rowAt_alarmAck s.noHostReg_alarmAck hp (by decide), effectAt_alarmAck, State.ackWrite,
    if_neg (by rw [(ackValue entry).1]; decide), (ackValue entry).2]

theorem exec_alarmAckAll (ha : s.admitted who) : exec (.alarmAckAll who) s = .next (s.keep (s.setPort who {}).ackAll) := by
  obtain ⟨hl, hx, hp⟩ := ha
  refine (part_true hx _).trans ((State.run_live _ hl).trans (congrArg (fun u => Host.Outcome.next (s.keep u)) ?_))
  rw [State.regWrite_w32 who _ {} rowAt_alarmAck s.noHostReg_alarmAck hp (by decide), effectAt_alarmAck, State.ackWrite]
  exact if_pos (by decide)

theorem State.ackAlarm_none {e : Nat} (h : mget none s.log.alarms e = none) : s.ackAlarm e = s := by
  rw [State.ackAlarm, h]

theorem State.ackAlarm_log {e : Nat} {a : AlarmEnt} (h : mget none s.log.alarms e = some a) :
    (s.ackAlarm e).log = { s.log with alarms := mset none s.log.alarms e (some { a with acked := true }) } := by
  rw [State.ackAlarm, h]
  exact State.setFld_log _ _ _ _ _

/-- Whether a valid entry is acknowledged. -/
def State.ackedAt (s : State) (e : Nat) : Prop := ∀ a, mget none s.log.alarms e = some a → a.acked = true

theorem State.ackAlarm_acked (s : State) (e : Nat) : (s.ackAlarm e).ackedAt e := by
  unfold State.ackedAt
  cases h : mget none s.log.alarms e with
  | none =>
    rw [State.ackAlarm_none h, h]
    exact fun a ha => absurd ha (by simp)
  | some b =>
    rw [State.ackAlarm_log h]
    dsimp only
    rw [mget_mset_self (none : Option AlarmEnt) s.log.alarms e (some { b with acked := true })]
    exact fun a ha => (congrArg AlarmEnt.acked (Option.some.inj ha)).symm

theorem State.ackAlarm_keeps {j : Nat} (hj : s.ackedAt j) (e : Nat) : (s.ackAlarm e).ackedAt j := by
  by_cases he : j = e
  · exact he ▸ s.ackAlarm_acked j
  · cases h : mget none s.log.alarms e with
    | none => rwa [State.ackAlarm_none h]
    | some b =>
      unfold State.ackedAt
      rw [State.ackAlarm_log h]
      dsimp only
      rw [mget_mset_ne (none : Option AlarmEnt) s.log.alarms (some { b with acked := true }) he]
      exact hj

theorem State.ackFold_acked : ∀ (l : List Nat) (s : State) (e : Nat), e ∈ l ∨ s.ackedAt e → (l.foldl State.ackAlarm s).ackedAt e
  | [], _, _, h => h.elim (fun hm => absurd hm List.not_mem_nil) id
  | d :: l, s, e, h => by
    refine State.ackFold_acked l (s.ackAlarm d) e ?_
    rcases h with hm | hacked
    · rcases List.mem_cons.mp hm with rfl | hm
      · exact .inr (s.ackAlarm_acked e)
      · exact .inl hm
    · exact .inr (State.ackAlarm_keeps hacked d)

theorem State.ackAlarm_lanes (s : State) (e : Nat) : ((s.ackAlarm e).log.intake, (s.ackAlarm e).log.lane) = (s.log.intake, s.log.lane) := by
  cases h : mget none s.log.alarms e with
  | none => rw [State.ackAlarm_none h]
  | some a => rw [State.ackAlarm_log h]

theorem State.ackAll_lanes (s : State) : (s.ackAll.log.intake, s.ackAll.log.lane) = (s.log.intake, s.log.lane) := by
  unfold State.ackAll
  exact foldl_keeps (fun t : State => (t.log.intake, t.log.lane)) State.ackAlarm_lanes (List.range 64) s

theorem State.ackAll_log (s : State) : s.ackAll.log.intake = s.log.intake ∧ s.ackAll.log.lane = s.log.lane := by
  have h := s.ackAll_lanes
  generalize s.ackAll.log = l at h
  exact Prod.mk.inj h

theorem State.ackAll_acked (s : State) : ∀ e < 64, ∀ a, mget none s.ackAll.log.alarms e = some a → a.acked = true := by
  unfold State.ackAll
  exact fun e he => State.ackFold_acked (List.range 64) s e (.inl (List.mem_range.mpr he))

theorem alarmAckAll_acks (ha : s.admitted who) : ∃ t, exec (.alarmAckAll who) s = .next t ∧
    (∀ e < 64, ∀ a, mget none t.log.alarms e = some a → a.acked = true) ∧ t.log.intake = s.log.intake ∧ t.log.lane = s.log.lane := by
  have hlog := (s.setPort who {}).ackAll_log
  have hacked := (s.setPort who {}).ackAll_acked
  have hexec := exec_alarmAckAll ha
  generalize (s.setPort who {}).ackAll = u at hlog hacked hexec
  exact ⟨_, hexec, hacked, hlog⟩

theorem alarmAckEntry_none (ha : s.admitted who) {entry : BitVec 6} (h : mget none s.log.alarms entry.toNat = none) :
    exec (.alarmAckEntry who entry) s = .next (s.setPort who {}) := by
  rw [exec_alarmAckEntry ha, State.ackAlarm_none (s := s.setPort who {}) h]
  rfl

theorem alarmAckEntry_some (ha : s.admitted who) {entry : BitVec 6} {a : AlarmEnt} (h : mget none s.log.alarms entry.toNat = some a) :
    ∃ t, exec (.alarmAckEntry who entry) s = .next t ∧
      t.log = { s.log with alarms := mset none s.log.alarms entry.toNat (some { a with acked := true }) } :=
  ⟨_, exec_alarmAckEntry ha entry, State.ackAlarm_log (s := s.setPort who {}) h⟩

/-! ### SIO_LOG_BASE -/

theorem State.noHostReg_logBase (s : State) : s.noHostReg Reg.SIO_LOG_BASE = false := s.noHostReg_out (.inr (by decide))

theorem State.regWrite_logBase64 (hp : s.portHeld who = false) (v : Word) (env : Env) : s.regWrite who Reg.SIO_LOG_BASE (.w64 v) env =
    s.settle (.req (reqNum who)) env (fun u => (u.setPort who {}).logBase v) := by
  rw [State.regWrite_logBase who _ env rowAt_logBase hp]
  refine State.settle_congr ?_
  rw [State.regDo_w64 who v env rowAt_logBase (State.noHostReg_logBase _), effectAt_logBase]

theorem exec_logBaseWrite (ha : s.admitted who) (v : Word) (env : Env) : exec (.registerWrite who Reg.SIO_LOG_BASE (.w64 v) env) s =
    .next (s.keep (s.settle (.req (reqNum who)) env (fun u => (u.setPort who {}).logBase v))) := by
  obtain ⟨hl, hx, hp⟩ := ha
  rw [exec_registerWrite ⟨hl, hx, hp⟩, State.regWrite_logBase64 hp]

theorem enableValue (addr : BitVec 31) : fget (BitVec.ofNat 64 (addr.toNat * 2 ^ 21 + 1)) 0 0 = 1 ∧
    fget (BitVec.ofNat 64 (addr.toNat * 2 ^ 21 + 1)) 51 21 = addr.toNat := by
  have hlt := addr.isLt
  unfold fget bits
  rw [BitVec.toNat_ofNat]
  omega

theorem exec_logEnable (ha : s.admitted who) (addr : BitVec 31) (env : Env) : exec (.logEnable who addr env) s =
    .next (s.keep (s.settle (.req (reqNum who)) env
      (fun u => (u.setPort who {}).logBase (BitVec.ofNat 64 (addr.toNat * 2 ^ 21 + 1))))) := by
  obtain ⟨hl, hx, hp⟩ := ha
  refine (part_true hx _).trans ((State.run_live _ hl).trans ?_)
  rw [State.regWrite_logBase64 hp]

/-- The ring that a write of SIO_LOG_BASE sets up, before the early ring's records move. -/
def State.ringSetUp (s : State) (addr : Nat) : State :=
  ((((s.setFld Reg.SIO_LOG_BASE 51 21 addr).setFld Reg.SIO_LOG_BASE 0 0 1).setFld Reg.SIO_LOG_HEAD 17 0 0).setFld Reg.SIO_LOG_TAIL 17 0 0)

/-- The early ring is empty. -/
def State.emptied (w : State) : State := { w with log := { w.log with early := [] } }

theorem State.likeLog_emptied (w : State) : w.likeLog w.emptied := State.likeLog_setLog _ _

theorem State.reg_emptied (w : State) (o : Nat) : w.emptied.reg o = w.reg o := rfl

/-- Four OPEN pages of populated stacked memory from a page. -/
def State.openPages (s : State) (addr : Nat) : Prop := addr * 0x200000 + 0x800000 ≤ stackedEnd ∧ ∀ i < 4, mget 0 s.seals (addr + i) = 0

theorem State.openPages_iff (s : State) (addr : Nat) : s.openPages addr ↔
    addr * 0x200000 + 0x800000 ≤ stackedEnd ∧ (upTo addr (addr + 3)).all (fun p => mget 0 s.seals p == 0) = true := by
  unfold State.openPages
  simp only [List.all_eq_true, beq_iff_eq]
  refine and_congr_right fun _ => ⟨fun h p hp => ?_, fun h i hi => h _ (mem_upTo.mpr ⟨by omega, by omega⟩)⟩
  obtain ⟨hlo, hhi⟩ := mem_upTo.mp hp
  have := h (p - addr) (by omega)
  rwa [Nat.add_sub_cancel' hlo] at this

section
variable {v : Word}

theorem State.logBase_sets (hm : s.mainRing = false) (hen : fget v 0 0 = 1) (hok : s.openPages (fget v 51 21)) : s.logBase v =
    s.earlyRecords.foldl State.ringPut (s.ringSetUp (fget v 51 21)).emptied := by
  unfold State.logBase
  dsimp only
  rw [if_neg (by simp [hm]), if_neg (by omega), if_pos ((s.openPages_iff _).mp hok)]
  rfl

theorem State.logBase_closed (hm : s.mainRing = false) (hen : fget v 0 0 = 1) (hok : ¬ s.openPages (fget v 51 21)) : s.logBase v = s.sioReject := by
  unfold State.logBase
  dsimp only
  rw [if_neg (by simp [hm]), if_neg (by omega), if_neg (fun h => hok ((s.openPages_iff _).mpr h))]

theorem State.logBase_inUse (hm : s.mainRing = true) (hv : fget v 0 0 ≠ 1 ∨ fget v 51 21 ≠ s.fld Reg.SIO_LOG_BASE 51 21) :
    s.logBase v = s.sioReject := by
  unfold State.logBase
  dsimp only
  rw [if_pos hm, if_neg (by tauto)]

end

/-! ### LOG_ENABLE -/

theorem State.ringSetUp_fields (s : State) {addr : Nat} (haddr : addr < 2 ^ 31) : (s.ringSetUp addr).mainRing = true ∧
    (s.ringSetUp addr).fld Reg.SIO_LOG_BASE 51 21 = addr ∧ (s.ringSetUp addr).fld Reg.SIO_LOG_HEAD 17 0 = 0 ∧
    (s.ringSetUp addr).fld Reg.SIO_LOG_TAIL 17 0 = 0 := by
  have hbase : (s.ringSetUp addr).reg Reg.SIO_LOG_BASE =
      ((s.setFld Reg.SIO_LOG_BASE 51 21 addr).setFld Reg.SIO_LOG_BASE 0 0 1).reg Reg.SIO_LOG_BASE := by
    unfold State.ringSetUp
    rw [State.reg_setFld_ne _ _ _ _ (by decide), State.reg_setFld_ne _ _ _ _ (by decide)]
  refine ⟨beq_of_eq ((congrArg (fget · 0 0) hbase).trans ?_), (congrArg (fget · 51 21) hbase).trans ?_, ?_, ?_⟩
  · exact State.fld_setFld_self _ _ _ (by decide) (by decide)
  · exact (State.fld_setFld_ne _ _ _ (by decide) (by decide) (by decide) (by decide)).trans
      ((State.fld_setFld_self _ _ _ (by decide) (by decide)).trans (Nat.mod_eq_of_lt haddr))
  · unfold State.ringSetUp
    rw [State.fld_setFld_off _ _ _ _ _ _ (by decide)]
    exact (State.fld_setFld_self _ _ _ (by decide) (by decide)).trans (Nat.zero_mod _)
  · exact (State.fld_setFld_self _ _ _ (by decide) (by decide)).trans (Nat.zero_mod _)

theorem State.likeLog_ringSetUp (s : State) (addr : Nat) : s.likeLog (s.ringSetUp addr) :=
  State.likeLog_trans (State.likeLog_trans (State.likeLog_trans (s.likeLog_setFld _ _ _ _) (State.likeLog_setFld _ _ _ _ _))
    (State.likeLog_setFld _ _ _ _ _)) (State.likeLog_setFld _ _ _ _ _)

/-- A write that changes only registers and the log needs no memory and goes through. -/
theorem State.settle_likeLog {tok : Tok} {f : State → State} {u : State}
    (hu : ∃ ports, ({ s with env := env, token := tok, needs := [], ports := ports } : State).likeLog u)
    (hf : f { s with env := env, token := tok, needs := [] } = u) :
    ∃ t, s.keep (s.settle tok env f) = t ∧ t.mem = s.mem ∧ ∀ o, t.reg o = u.reg o := by
  obtain ⟨ports, _, _, _, _, rfl⟩ := hu
  refine ⟨_, rfl, ?_⟩
  rw [State.settle_done (by rw [hf]; rfl), hf]
  exact ⟨rfl, fun _ => rfl⟩

theorem State.likeLog_setPort (s : State) (tok : Tok) (env : Env) (who : Requester) : ∃ ports,
    ({ s with env := env, token := tok, needs := [], ports := ports } : State).likeLog
      (({ s with env := env, token := tok, needs := [] } : State).setPort who {}) :=
  ⟨_, State.likeLog_refl _⟩

theorem State.likeLog_sioReject (s : State) : s.likeLog s.sioReject := State.likeLog_raise _ _ _ _ _

theorem State.sioReject_flag (s : State) : s.sioReject.fld Reg.SIO_EVENT 3 3 = 1 ∧ ∀ hi lo, s.sioReject.fld Reg.SIO_LOG_BASE hi lo = s.fld Reg.SIO_LOG_BASE hi lo :=
  ⟨State.fld_raise_flag _ (by decide) (by decide), fun hi lo => congrArg (fget · hi lo) (State.reg_raise_ne _ _ _ (by decide) (by decide))⟩

/-- A rejected write of SIO_LOG_BASE shows only the flag. -/
theorem logEnable_rejected (ha : s.admitted who) {addr : BitVec 31}
    (hrej : ∀ u : State, u.regs = s.regs → u.seals = s.seals → u.logBase (BitVec.ofNat 64 (addr.toNat * 2 ^ 21 + 1)) = u.sioReject) :
    ∃ t, exec (.logEnable who addr env) s = .next t ∧ t.mem = s.mem ∧ t.fld Reg.SIO_EVENT 3 3 = 1 ∧
      ∀ hi lo, t.fld Reg.SIO_LOG_BASE hi lo = s.fld Reg.SIO_LOG_BASE hi lo := by
  obtain ⟨ports, hports⟩ := s.likeLog_setPort (.req (reqNum who)) env who
  obtain ⟨t, ht, hmem, hreg⟩ := State.settle_likeLog (f := fun u => (u.setPort who {}).logBase (BitVec.ofNat 64 (addr.toNat * 2 ^ 21 + 1)))
    ⟨ports, State.likeLog_trans hports (State.likeLog_sioReject _)⟩ (hrej _ rfl rfl)
  obtain ⟨hflag, hbase⟩ := State.sioReject_flag (({ s with env := env, token := .req (reqNum who), needs := [] } : State).setPort who {})
  exact ⟨t, (exec_logEnable ha addr env).trans (congrArg Host.Outcome.next ht), hmem, (congrArg (fget · 3 3) (hreg _)).trans hflag,
    fun hi lo => (congrArg (fget · hi lo) (hreg _)).trans (hbase hi lo)⟩

theorem State.mainRing_of_regs {u : State} (h : u.regs = s.regs) : u.mainRing = s.mainRing :=
  congrArg (fun r => fget r 0 0 == 1) (State.reg_of_regs h Reg.SIO_LOG_BASE)

theorem State.openPages_of_seals {u : State} (h : u.seals = s.seals) (addr : Nat) : u.openPages addr ↔ s.openPages addr := by
  unfold State.openPages
  rw [h]

theorem logEnable_inUse (ha : s.admitted who) {addr : BitVec 31} (hm : s.mainRing = true) (hne : addr.toNat ≠ s.fld Reg.SIO_LOG_BASE 51 21)
    (env : Env) : ∃ t, exec (.logEnable who addr env) s = .next t ∧ t.mainRing = true ∧
      t.fld Reg.SIO_LOG_BASE 51 21 = s.fld Reg.SIO_LOG_BASE 51 21 ∧ t.fld Reg.SIO_EVENT 3 3 = 1 := by
  obtain ⟨t, hexec, -, hflag, hbase⟩ := logEnable_rejected (env := env) ha (addr := addr) fun u hu _ =>
    State.logBase_inUse ((State.mainRing_of_regs hu).trans hm) (.inr (by
      rw [(enableValue addr).2]
      exact fun h => hne (h.trans (congrArg (fget · 51 21) (State.reg_of_regs hu _)))))
  exact ⟨t, hexec, (congrArg (· == 1) (hbase 0 0)).trans hm, hbase 51 21, hflag⟩

theorem logEnable_closed (ha : s.admitted who) {addr : BitVec 31} (hm : s.mainRing = false) (hok : ¬ s.openPages addr.toNat) (env : Env) :
    ∃ t, exec (.logEnable who addr env) s = .next t ∧ t.mem = s.mem ∧ t.mainRing = false ∧ t.fld Reg.SIO_EVENT 3 3 = 1 := by
  obtain ⟨t, hexec, hmem, hflag, hbase⟩ := logEnable_rejected (env := env) ha (addr := addr) fun u hu hs =>
    State.logBase_closed ((State.mainRing_of_regs hu).trans hm) (enableValue addr).1 (by
      rw [(enableValue addr).2]
      exact fun h => hok ((State.openPages_of_seals hs _).mp h))
  exact ⟨t, hexec, hmem, (congrArg (· == 1) (hbase 0 0)).trans hm, hflag⟩

/-- Setting EN over four OPEN pages moves the early ring's records, oldest first. -/
theorem logEnable_moves (ha : s.admitted who) {addr : BitVec 31} (hm : s.mainRing = false) (hok : s.openPages addr.toNat) (env : Env) :
    exec (.logEnable who addr env) s = .next (s.keep (s.settle (.req (reqNum who)) env (fun u =>
      s.earlyRecords.foldl State.ringPut ((u.setPort who {}).ringSetUp addr.toNat).emptied))) := by
  refine (exec_logEnable ha addr env).trans (congrArg (fun u => Host.Outcome.next (s.keep u)) (State.settle_congr ?_))
  have hsets (u : State) (hu : u.regs = s.regs) (hs : u.seals = s.seals) (hr : u.earlyRecords = s.earlyRecords) :
      u.logBase (BitVec.ofNat 64 (addr.toNat * 2 ^ 21 + 1)) = s.earlyRecords.foldl State.ringPut (u.ringSetUp addr.toNat).emptied := by
    rw [State.logBase_sets ((State.mainRing_of_regs hu).trans hm) (enableValue addr).1
      (by rw [(enableValue addr).2]; exact (State.openPages_of_seals hs _).mpr hok), (enableValue addr).2, hr]
  exact hsets _ rfl rfl rfl

theorem logEnable_empty (ha : s.admitted who) {addr : BitVec 31} (hm : s.mainRing = false) (he : s.earlyRecords = [])
    (hok : s.openPages addr.toNat) (env : Env) : ∃ t, exec (.logEnable who addr env) s = .next t ∧ t.mem = s.mem ∧ t.mainRing = true ∧
      t.fld Reg.SIO_LOG_BASE 51 21 = addr.toNat ∧ t.fld Reg.SIO_LOG_HEAD 17 0 = 0 ∧ t.fld Reg.SIO_LOG_TAIL 17 0 = 0 := by
  have hexec := logEnable_moves ha hm hok env
  rw [he] at hexec
  obtain ⟨ports, hports⟩ := s.likeLog_setPort (.req (reqNum who)) env who
  generalize hw : ({ s with env := env, token := .req (reqNum who), needs := [] } : State).setPort who {} = w at hports
  obtain ⟨hmain, hbase, hhead, htail⟩ := w.ringSetUp_fields addr.isLt
  have hlike := State.likeLog_trans hports (State.likeLog_trans (w.likeLog_ringSetUp addr.toNat) (State.likeLog_emptied _))
  obtain ⟨t, ht, hmem, hreg⟩ := State.settle_likeLog (f := fun u => List.foldl State.ringPut ((u.setPort who {}).ringSetUp addr.toNat).emptied [])
    ⟨ports, hlike⟩ (congrArg (fun u : State => (u.ringSetUp addr.toNat).emptied) hw)
  have hsame (o : Nat) : t.reg o = (w.ringSetUp addr.toNat).reg o := (hreg o).trans (State.reg_emptied _ o)
  exact ⟨t, hexec.trans (congrArg Host.Outcome.next ht), hmem, (congrArg (fun r => fget r 0 0 == 1) (hsame _)).trans hmain,
    (congrArg (fget · 51 21) (hsame _)).trans hbase, (congrArg (fget · 17 0) (hsame _)).trans hhead, (congrArg (fget · 17 0) (hsame _)).trans htail⟩

/-- While the main ring is in use a write that would move or close it is rejected. -/
theorem logBaseWrite_inUse (ha : s.admitted who) {v : Word} (hm : s.mainRing = true)
    (hv : fget v 0 0 = 0 ∨ fget v 51 21 ≠ s.fld Reg.SIO_LOG_BASE 51 21) (env : Env) :
    exec (.registerWrite who Reg.SIO_LOG_BASE (.w64 v) env) s =
      .next (s.keep (s.settle (.req (reqNum who)) env (fun u => (u.setPort who {}).sioReject))) := by
  refine (exec_logBaseWrite ha v env).trans (congrArg (fun u => Host.Outcome.next (s.keep u)) (State.settle_congr ?_))
  exact State.logBase_inUse ((State.mainRing_of_regs rfl).trans hm) (hv.imp (fun h => by omega) id)

end

/-- Settles O56: the intake, the tables and the rings by their records, and each command by the register or writer it runs. -/
theorem cairnLog : Obligations.CairnLog := by
  unfold Obligations.CairnLog
  refine ⟨fun who src code cls arg entry addr v x env s hl hsrc hcls => ⟨exec_logPost hl hsrc hcls code arg, fun hx => exec_logWrite_tail hl hx v env,
    fun hc hroom => State.post_room hc hroom, fun hc => ?_, fun h1 h2 => logWrite_idle hl h1 h2 env, fun rest h1 h2 => logWrite_alarm hl h1 h2 env,
    fun rest h1 h2 => logWrite_intake hl h1 h2 env, State.writeRec_alarm, State.writeRec_other, fun hm _ => ?_,
    fun e h1 h2 h3 => logSummary_one hl h1 h2 h3 env, fun ha => ⟨alarmAckEntry_none ha, fun a => alarmAckEntry_some ha, alarmAckAll_acks ha,
      fun hm he => ?_, fun hm hne => logEnable_inUse ha hm hne env⟩⟩,
    fun who src code cls arg addr v x env s hl hsrc hcls => ⟨logBytes_layout x, State.ringPut_main, State.ringForce_full, State.ringForce_room,
      State.post_full hcls, s.dropTrace_spec, ⟨fun l e r hs hcode hsrc hl => State.coalesce_entry hs ⟨hcode, hsrc⟩ hl, fun hl => ?_⟩,
      logSummary_all hl env, fun ha => ⟨fun hm h1 h2 => logEnable_moves ha hm ⟨h1, h2⟩ env, fun hm hv => logBaseWrite_inUse ha hm hv env⟩⟩⟩
  · exact hc ▸ s.post_alarm src code arg
  · obtain ⟨hearly, hhead, -⟩ := State.ringPut_early_spec (x := x) hm
    exact ⟨hearly, hhead, State.ringForce_early_spec hm⟩
  · by_cases hok : s.openPages addr.toNat
    · obtain ⟨t, hexec, hmem, hfields⟩ := logEnable_empty ha hm he hok env
      exact ⟨t, hexec, hmem, fun _ => hfields, fun hn => absurd hok hn⟩
    · obtain ⟨t, hexec, hmem, hfields⟩ := logEnable_closed ha hm hok env
      exact ⟨t, hexec, hmem, fun h => absurd h hok, fun _ => hfields⟩
  · rw [State.coalesce_new hl]
    exact ⟨fun h => if_pos h, fun h => if_neg (Nat.not_lt.mpr h)⟩

end Sys2Proof.Machine

namespace Sys2Proof.Machine

/-! ## The board's interfaces (R426, R427, R443, R444) -/

section
variable {s : State} {addr : Nat} {via : Via}

/-! ### PMBus -/

theorem State.pmbHere_iff : s.pmbHere addr = true ↔ s.power.standby = true ∧ addr = 0x40 + s.fuses.pmbAddr := by
  unfold State.pmbHere
  rw [Bool.and_eq_true, beq_iff_eq]

section
variable (h : s.power.standby = true ∧ addr = 0x40 + s.fuses.pmbAddr)
include h

theorem State.pmbus_here (t : State) : s.pmbus addr t = t := if_pos (State.pmbHere_iff.mpr h)

theorem pmbReply_here (v : Nat) : s.always (s.pmbReply addr v) = .next (s.emit (.board (some (toLe 2 v)))) := by
  unfold State.always State.pmbReply
  rw [State.pmbus_here h]
  exact congrArg _ (State.keep_of_likeLog (State.likeLog_emit _ _))

theorem pmbRevision_here : exec (.pmbusRevision addr) s = .next (s.emit (.board (some [0x33]))) := by
  change s.always (s.pmbRevision addr) = _
  unfold State.always State.pmbRevision
  rw [State.pmbus_here h]
  exact congrArg _ (State.keep_of_likeLog (State.likeLog_emit _ _))

theorem clearFaults_here : exec (.clearFaults addr) s = .next (({ s with pmb := s.pmbLive } : State).emit (.board (some []))) := by
  change s.always (s.clearFaults addr) = _
  unfold State.always State.clearFaults
  rw [State.pmbus_here h]
  exact congrArg _ (State.keep_of_likeLog ⟨_, _, _, _, rfl⟩)

theorem pmbusNack_supported {code : Nat} (hc : code ∈ pmbSupported) : exec (.pmbusNack code addr) s = .next s := by
  change s.always (s.pmbUnknown addr code) = _
  unfold State.always State.pmbUnknown
  rw [State.pmbus_here h, if_pos hc, State.keep_self]

theorem pmbusNack_unknown {code : Nat} (hc : code ∉ pmbSupported) : exec (.pmbusNack code addr) s = .next s.pmbNack := by
  change s.always (s.pmbUnknown addr code) = _
  unfold State.always State.pmbUnknown
  rw [State.pmbus_here h, if_neg hc]
  exact congrArg _ (State.keep_of_likeLog ⟨_, _, _, _, rfl⟩)

end

theorem State.pmbNack_spec (s : State) : s.pmbNack.out = s.out ++ [.board none] ∧ s.pmbNack.pmb.testBit 1 = true ∧
    s.pmbNack = { s with pmb := s.pmbNack.pmb, out := s.pmbNack.out } := by
  refine ⟨rfl, ?_, rfl⟩
  exact (Nat.testBit_or s.pmb 2 1).trans (Bool.or_true _)

/-- A command at another address, or without the standby rails, does nothing. -/
theorem always_elsewhere (h : ¬ (s.power.standby = true ∧ addr = 0x40 + s.fuses.pmbAddr)) (t : State) :
    s.always (s.pmbus addr t) = .next s := by
  unfold State.always State.pmbus
  rw [if_neg (fun hh => h (State.pmbHere_iff.mp hh)), State.keep_self]

theorem pmbus_elsewhere (h : ¬ (s.power.standby = true ∧ addr = 0x40 + s.fuses.pmbAddr)) (code : Nat) :
    ∀ i ∈ [Instr.statusWord addr, .readVin addr, .readIin addr, .readTemperature1 addr, .readTemperature2 addr, .readPin addr,
      .pmbusRevision addr, .clearFaults addr, .pmbusNack code addr], exec i s = .next s := by
  simp only [List.forall_mem_cons]
  exact ⟨always_elsewhere h _, always_elsewhere h _, always_elsewhere h _, always_elsewhere h _, always_elsewhere h _, always_elsewhere h _,
    always_elsewhere h _, always_elsewhere h _, always_elsewhere h _, fun _ hn => absurd hn List.not_mem_nil⟩

/-! ### I3C addresses -/

theorem dynamic_taken (hl : s.live) (dynamic : Nat) : s.run (({ s with i3c := some dynamic } : State).boardReply (some [])) =
    .next (({ s with i3c := some dynamic } : State).emit (.board (some []))) :=
  (State.run_live _ hl).trans (congrArg _ (State.keep_of_eq rfl rfl))

theorem entdaa_free (hl : s.live) (hfree : s.i3c = none) (dynamic : Nat) :
    exec (.entdaa dynamic) s = .next (({ s with i3c := some dynamic } : State).emit (.board (some []))) := by
  change s.run (s.entdaa dynamic) = _
  rw [State.entdaa, if_pos hfree, dynamic_taken hl]

theorem setdasa_free (hl : s.live) (hfree : s.i3c = none) {static : Nat} (hs : static = 0x48 + s.fuses.pmbAddr) (dynamic : Nat) :
    exec (.setdasa static dynamic) s = .next (({ s with i3c := some dynamic } : State).emit (.board (some []))) := by
  change s.run (s.setdasa static dynamic) = _
  rw [State.setdasa, if_pos ⟨hs, hfree⟩, dynamic_taken hl]

theorem setdasa_other (hl : s.live) {static : Nat} (hs : static ≠ 0x48 + s.fuses.pmbAddr) (dynamic : Nat) :
    exec (.setdasa static dynamic) s = .next s := by
  change s.run (s.setdasa static dynamic) = _
  rw [State.setdasa, if_neg (fun hc => hs hc.1), State.run_live _ hl, State.keep_self]

theorem dynamic_kept (h : s.power.held = true ∨ s.i3c ≠ none) (static dynamic : Nat) :
    exec (.entdaa dynamic) s = .next s ∧ exec (.setdasa static dynamic) s = .next s := by
  change s.run (s.entdaa dynamic) = _ ∧ s.run (s.setdasa static dynamic) = _
  rcases h with hheld | htaken
  · exact ⟨State.run_held _ hheld, State.run_held _ hheld⟩
  · rw [State.entdaa, State.setdasa, if_neg htaken, if_neg (fun hc => htaken hc.2)]
    exact ⟨congrArg _ (ite_eq_left_iff.mpr fun _ => s.keep_self), congrArg _ (ite_eq_left_iff.mpr fun _ => s.keep_self)⟩

/-! ### MCTP and PLDM -/

/-- A reply over a carrier. -/
def replyVia (via : Via) (b : List Byte) : Out :=
  match via with
  | .i3c => .board (some b)
  | .vdm h => .vdm h b

theorem State.mctpReply_eq (s : State) (via : Via) (b : List Byte) : s.mctpReply via b = s.emit (replyVia via b) := by
  cases via <;> rfl

theorem State.freeReply_spec (s : State) (via : Via) :
    ∃ b : List Byte, b.length ≤ 64 ∧ s.freeReply via = { s with free := s.free + 1, out := s.out ++ [replyVia via b] } := by
  refine ⟨(List.range (Config.freeNat s.free % 65)).map (Config.freeByte s.free), ?_, State.mctpReply_eq _ _ _⟩
  rw [List.length_map, List.length_range]
  exact Nat.le_of_lt_succ (Nat.mod_lt _ (by decide))

section
variable (hv : viaOk via = true)
include hv

theorem exec_mctpControl : exec (.mctpControl via) s = s.run (s.unpaused (s.mctpControl via)) := part_true hv _

theorem exec_pldmRequest (req : PldmReq) : exec (.pldmRequest req via) s = s.run (s.unpaused (s.pldmRequest via req)) := part_true hv _

variable (hl : s.live)
include hl

theorem mctp_down (h : s.oppBusy = true ∨ s.sioRun = false ∨ s.viaUp via = false) :
    exec (.mctpControl via) s = .next s ∧ ∀ req, exec (.pldmRequest req via) s = .next s := by
  rw [exec_mctpControl hv]
  simp only [exec_pldmRequest hv]
  by_cases hbusy : s.oppBusy = true
  · exact ⟨run_paused hl hbusy _, fun _ => run_paused hl hbusy _⟩
  · have hn : ¬ (s.sioRun && s.viaUp via) = true := by
      rcases h with h | h | h
      · exact absurd h hbusy
      · simp [h]
      · simp [h]
    have hserve (f : State → State) : s.mctpServe via f = s := if_neg hn
    exact ⟨(congrArg (fun u => s.run (s.unpaused u)) (hserve _)).trans (run_unpaused_self hl),
      fun _ => (congrArg (fun u => s.run (s.unpaused u)) (hserve _)).trans (run_unpaused_self hl)⟩

variable (hfree : s.oppBusy = false) (hrun : s.sioRun = true) (hup : s.viaUp via = true)
include hfree hrun hup

omit hv in
theorem State.mctpServe_up (f : State → State) :
    s.run (s.unpaused (s.mctpServe via f)) = .next (s.keep (if s.fld Reg.SIO_STATUS 1 1 = 1 then s.freeReply via else f s)) := by
  rw [exec_unpaused hl hfree, State.mctpServe, if_pos (by simp [hrun, hup])]

theorem mctpControl_up : exec (.mctpControl via) s = .next (s.freeReply via) := by
  rw [exec_mctpControl hv]
  refine (State.mctpServe_up hl hfree hrun hup _).trans ?_
  rw [ite_self, State.keep_freeReply rfl rfl]

theorem pldmRequest_overloaded (ho : s.fld Reg.SIO_STATUS 1 1 = 1) (req : PldmReq) : exec (.pldmRequest req via) s = .next (s.freeReply via) := by
  rw [exec_pldmRequest hv]
  refine (State.mctpServe_up hl hfree hrun hup _).trans ?_
  rw [if_pos ho, State.keep_freeReply rfl rfl]

variable (ho : s.fld Reg.SIO_STATUS 1 1 = 0)
include ho

theorem pldmBase_up : exec (.pldmRequest .base via) s = .next (s.freeReply via) := by
  rw [exec_pldmRequest hv]
  refine (State.mctpServe_up hl hfree hrun hup _).trans ?_
  rw [if_neg (by omega)]
  exact congrArg _ (State.keep_freeReply rfl rfl via)

theorem pldmReading_up {i k j : Nat} (hi : pldmSensor i = some (k, j)) :
    exec (.pldmRequest (.reading i) via) s = .next (s.emit (replyVia via (toLe 4 (s.readingWord k j)))) := by
  rw [exec_pldmRequest hv]
  refine (State.mctpServe_up hl hfree hrun hup _).trans ?_
  rw [if_neg (by omega)]
  dsimp only
  rw [State.pldmReading, hi]
  exact congrArg _ ((congrArg s.keep (State.mctpReply_eq _ _ _)).trans (State.keep_of_likeLog (State.likeLog_emit _ _)))

theorem pldmAck_up (e : Nat) : exec (.pldmRequest (.ack e) via) s = .next ((s.ackAlarm (e % 64)).freeReply via) := by
  have hview : (s.ackAlarm (e % 64)).pending = s.pending ∧ (s.ackAlarm (e % 64)).fuses = s.fuses := by
    unfold State.ackAlarm
    split
    · exact ⟨State.setFld_pending _ _ _ _ _, State.setFld_fuses _ _ _ _ _⟩
    · exact ⟨rfl, rfl⟩
  rw [exec_pldmRequest hv]
  refine (State.mctpServe_up hl hfree hrun hup _).trans ?_
  rw [if_neg (by omega)]
  exact congrArg _ (State.keep_freeReply hview.1 hview.2 via)

end

end

/-- Settles O57: PMBus by Siolo's address and rails, I3C by the dynamic address, MCTP and PLDM by their carrier. -/
theorem boardInterfaces : Obligations.BoardInterfaces := by
  unfold Obligations.BoardInterfaces
  intro addr static dynamic code e via s
  dsimp only
  refine ⟨fun h => ⟨pmbReply_here h _, pmbReply_here h _, pmbReply_here h _, pmbReply_here h _, pmbReply_here h _, pmbReply_here h _,
    pmbRevision_here h, clearFaults_here h, fun hc => ⟨_, pmbusNack_unknown h hc, s.pmbNack_spec⟩, pmbusNack_supported h⟩,
    fun h => pmbus_elsewhere h code, fun hl hfree => ⟨entdaa_free hl hfree dynamic, fun hs => setdasa_free hl hfree hs dynamic,
      fun hs => setdasa_other hl hs dynamic⟩, fun h => dynamic_kept h static dynamic, fun hl hv => ⟨mctp_down hv hl, fun hfree hrun hup => ?_⟩⟩
  refine ⟨pldmRequest_overloaded hv hl hfree hrun hup, ?_, mctpControl_up hv hl hfree hrun hup,
    fun ho => ⟨pldmBase_up hv hl hfree hrun hup ho, fun i k j hi => ?_, pldmAck_up hv hl hfree hrun hup ho e⟩⟩
  · obtain ⟨b, hb, heq⟩ := s.freeReply_spec via
    exact ⟨b, hb, heq.trans (by cases via <;> rfl)⟩
  · exact (pldmReading_up hv hl hfree hrun hup ho hi).trans (by cases via <;> rfl)

end Sys2Proof.Machine

namespace Sys2Proof.Machine

/-! ## Operating points (R477, R478) -/

section
variable {s : State}

/-! ### Whether the device is quiesced -/

section
variable {g : SMap Word} (hctrl : ({ s with regs := g } : State).reg Reg.RTE_CTRL = s.reg Reg.RTE_CTRL)
include hctrl

theorem State.quiescing_setRegs : ({ s with regs := g } : State).quiescing = s.quiescing := congrArg (fget · 0 0 == 1) hctrl

theorem State.begun_setRegs : ({ s with regs := g } : State).begun = s.begun := by
  have hq := State.quiescing_setRegs hctrl
  have hsweep : ({ s with regs := g } : State).sweepHeld = s.sweepHeld := by
    unfold State.sweepHeld
    rw [hq]
  funext q i
  unfold State.begun
  rw [hsweep, hq]

theorem State.allIdle_setRegs : ({ s with regs := g } : State).allIdle = s.allIdle := by
  have hbusy : ({ s with regs := g } : State).streamsBusy = s.streamsBusy := by
    unfold State.streamsBusy
    rw [State.begun_setRegs hctrl]
  unfold State.allIdle
  rw [hbusy]
  rfl

/-- Registers other than RTE_STATUS and RTE_CTRL do not say whether the device is quiesced. -/
theorem State.quiesced_setRegs (hstatus : ({ s with regs := g } : State).reg Reg.RTE_STATUS = s.reg Reg.RTE_STATUS) :
    ({ s with regs := g } : State).quiesced = s.quiesced := by
  have hfld : ({ s with regs := g } : State).fld Reg.RTE_STATUS 0 0 = s.fld Reg.RTE_STATUS 0 0 := congrArg (fget · 0 0) hstatus
  unfold State.quiesced
  rw [hfld, State.quiescing_setRegs hctrl, State.allIdle_setRegs hctrl]

end

/-! ### APPLY -/

/-- CLK_CTRL with the point and the spread written. -/
def State.clkShown (s : State) (opp spread : Nat) : State := (s.setFld Reg.CLK_CTRL 1 0 opp).setFld Reg.CLK_CTRL 13 8 (min 50 spread)

theorem State.clkShown_frame (s : State) (opp spread : Nat) : s.clkShown opp spread = { s with regs := (s.clkShown opp spread).regs } := rfl

theorem State.reg_clkShown (s : State) (opp spread : Nat) {o : Nat} (ho : o ≠ Reg.CLK_CTRL) : (s.clkShown opp spread).reg o = s.reg o := by
  unfold State.clkShown
  rw [State.reg_setFld_ne _ _ _ _ ho, State.reg_setFld_ne _ _ _ _ ho]

theorem State.clkShown_fields (s : State) {opp : Nat} (hopp : opp < 4) (spread : Nat) :
    (s.clkShown opp spread).fld Reg.CLK_CTRL 1 0 = opp ∧ (s.clkShown opp spread).fld Reg.CLK_CTRL 13 8 = min 50 spread := by
  have hspread : min 50 spread < 2 ^ 6 := by omega
  unfold State.clkShown
  refine ⟨?_, (State.fld_setFld_self _ _ _ (by decide) (by decide)).trans (Nat.mod_eq_of_lt hspread)⟩
  exact (State.fld_setFld_ne _ _ _ (by decide) (by decide) (by decide) (by decide)).trans
    ((State.fld_setFld_self _ _ _ (by decide) (by decide)).trans (Nat.mod_eq_of_lt hopp))

theorem State.quiesced_clkShown (s : State) (opp spread : Nat) : (s.clkShown opp spread).quiesced = s.quiesced := by
  have hctrl := s.reg_clkShown opp spread (o := Reg.RTE_CTRL) (by decide)
  have hstatus := s.reg_clkShown opp spread (o := Reg.RTE_STATUS) (by decide)
  rw [State.clkShown_frame] at hctrl hstatus ⊢
  exact State.quiesced_setRegs hctrl hstatus

/-- A change of the operating point begins. -/
def State.oppBegun (s : State) (opp spread : Nat) : State :=
  { (s.clkShown opp spread).setFld Reg.CLK_STATUS 2 2 1 with power := { s.power with opp := some (opp, min 50 spread) } }

theorem State.clkCtrl_eq (s : State) (v : Word) : s.clkCtrl v =
    let t := s.clkShown (fget v 1 0) (fget v 13 8)
    if fget v 15 15 = 0 then t
    else if t.quiesced = true ∧ t.fld Reg.CLK_STATUS 2 2 = 0 ∧ t.fld Reg.CLK_CTRL 1 0 ≠ 3 then
      { (t.setFld Reg.CLK_STATUS 2 2 1) with power := { t.power with opp := some (t.fld Reg.CLK_CTRL 1 0, t.fld Reg.CLK_CTRL 13 8) } }
    else t.clkReject := rfl

theorem State.clkCtrl_apply (s : State) {v : Word} {opp spread : Nat} (hv : fget v 1 0 = opp ∧ fget v 13 8 = spread ∧ fget v 15 15 = 1) :
    s.clkCtrl v = if s.quiesced = true ∧ s.fld Reg.CLK_STATUS 2 2 = 0 ∧ opp ≠ 3 then s.oppBegun opp spread
      else (s.clkShown opp spread).clkReject := by
  obtain ⟨hopp, hspread, happly⟩ := hv
  obtain ⟨hshown, hshown'⟩ := s.clkShown_fields (hopp ▸ fget_lt v 1 0 : opp < 4) spread
  have hstatus : (s.clkShown opp spread).fld Reg.CLK_STATUS 2 2 = s.fld Reg.CLK_STATUS 2 2 :=
    congrArg (fget · 2 2) (s.reg_clkShown opp spread (by decide))
  have hquiesced := s.quiesced_clkShown opp spread
  have hpower : (s.clkShown opp spread).power = s.power := rfl
  rw [State.clkCtrl_eq, hopp, hspread, happly]
  unfold State.oppBegun
  generalize s.clkShown opp spread = t at hshown hshown' hstatus hquiesced hpower
  dsimp only
  rw [if_neg (by decide), hquiesced, hstatus, hshown, hshown', hpower]

theorem oppValue (opp : BitVec 2) (spread : BitVec 6) :
    let v : Word := (BitVec.ofNat 32 (2 ^ 15 + spread.toNat * 2 ^ 8 + opp.toNat)).zeroExtend 64
    fget v 1 0 = opp.toNat ∧ fget v 13 8 = spread.toNat ∧ fget v 15 15 = 1 := by
  have h1 := opp.isLt
  have h2 := spread.isLt
  unfold fget bits
  dsimp only
  rw [BitVec.toNat_setWidth, BitVec.toNat_ofNat]
  omega

theorem State.noHostReg_clkCtrl (s : State) : s.noHostReg Reg.CLK_CTRL = false := s.noHostReg_out (.inr (by decide))

theorem exec_oppApply {who : Requester} (ha : s.admitted who) (opp : BitVec 2) (spread : BitVec 6) : exec (.oppApply who opp spread) s =
    .next (s.keep (if s.quiesced = true ∧ s.fld Reg.CLK_STATUS 2 2 = 0 ∧ opp.toNat ≠ 3 then (s.setPort who {}).oppBegun opp.toNat spread.toNat
      else ((s.setPort who {}).clkShown opp.toNat spread.toNat).clkReject)) := by
  obtain ⟨hl, hx, hp⟩ := ha
  refine (part_true hx _).trans ((State.run_live _ hl).trans (congrArg (fun u => Host.Outcome.next (s.keep u)) ?_))
  rw [State.regWrite_w32 who _ {} rowAt_clkCtrl s.noHostReg_clkCtrl hp (by decide), effectAt_clkCtrl,
    State.clkCtrl_apply _ (oppValue opp spread), State.quiesced_setPort]
  rfl

theorem State.oppBegun_spec (s : State) {opp : Nat} (hopp : opp < 4) (spread : Nat) : let t := s.oppBegun opp spread
    t.fld Reg.CLK_CTRL 1 0 = opp ∧ t.fld Reg.CLK_CTRL 13 8 = min 50 spread ∧ t.fld Reg.CLK_STATUS 1 0 = s.fld Reg.CLK_STATUS 1 0 ∧
    t.fld Reg.CLK_STATUS 13 8 = s.fld Reg.CLK_STATUS 13 8 ∧ t.fld Reg.CLK_STATUS 2 2 = 1 ∧ t.memHold = true ∧
    ∀ o, o ≠ Reg.CLK_CTRL → o ≠ Reg.CLK_STATUS → t.reg o = s.reg o := by
  obtain ⟨hshown, hshown'⟩ := s.clkShown_fields hopp spread
  have hreg (o : Nat) : (s.oppBegun opp spread).reg o = ((s.clkShown opp spread).setFld Reg.CLK_STATUS 2 2 1).reg o := rfl
  have hstatus := s.reg_clkShown opp spread (o := Reg.CLK_STATUS) (by decide)
  have hhold : (s.oppBegun opp spread).memHold = true := Bool.or_true _
  have hother (o : Nat) (hc : o ≠ Reg.CLK_CTRL) (hs : o ≠ Reg.CLK_STATUS) : (s.oppBegun opp spread).reg o = s.reg o :=
    (hreg o).trans ((State.reg_setFld_ne _ _ _ _ hs).trans (s.reg_clkShown opp spread hc))
  refine ⟨(congrArg (fget · 1 0) (hreg _)).trans ?_, (congrArg (fget · 13 8) (hreg _)).trans ?_, (congrArg (fget · 1 0) (hreg _)).trans ?_,
    (congrArg (fget · 13 8) (hreg _)).trans ?_, (congrArg (fget · 2 2) (hreg _)).trans ?_, hhold, hother⟩
  · exact (State.fld_setFld_off _ _ _ _ _ _ (by decide)).trans hshown
  · exact (State.fld_setFld_off _ _ _ _ _ _ (by decide)).trans hshown'
  · exact (State.fld_setFld_ne _ _ _ (by decide) (by decide) (by decide) (by decide)).trans (congrArg (fget · 1 0) hstatus)
  · exact (State.fld_setFld_ne _ _ _ (by decide) (by decide) (by decide) (by decide)).trans (congrArg (fget · 13 8) hstatus)
  · exact State.fld_setFld_self _ _ _ (by decide) (by decide)

theorem State.clkReject_spec (s : State) : s.clkReject.fld Reg.CLK_EVENT 1 1 = 1 ∧
    ∀ o, o ≠ Reg.CLK_EVENT → o ≠ Reg.CLK_EVENT_CNT → s.clkReject.reg o = s.reg o :=
  ⟨State.fld_raise_flag _ (by decide) (by decide), fun _ he hc => State.reg_raise_ne _ _ _ he hc⟩

theorem State.clkRejected_spec (s : State) {opp : Nat} (hopp : opp < 4) (spread : Nat) : let t := (s.clkShown opp spread).clkReject
    t.fld Reg.CLK_CTRL 1 0 = opp ∧ t.fld Reg.CLK_CTRL 13 8 = min 50 spread ∧ (∀ hi lo, t.fld Reg.CLK_STATUS hi lo = s.fld Reg.CLK_STATUS hi lo) ∧
    t.fld Reg.CLK_EVENT 1 1 = 1 := by
  obtain ⟨hshown, hshown'⟩ := s.clkShown_fields hopp spread
  obtain ⟨hflag, hreg⟩ := (s.clkShown opp spread).clkReject_spec
  have hctrl := hreg Reg.CLK_CTRL (by decide) (by decide)
  have hstatus := (hreg Reg.CLK_STATUS (by decide) (by decide)).trans (s.reg_clkShown opp spread (by decide))
  exact ⟨(congrArg (fget · 1 0) hctrl).trans hshown, (congrArg (fget · 13 8) hctrl).trans hshown', fun hi lo => congrArg (fget · hi lo) hstatus, hflag⟩

theorem State.clkRejected_frame (s : State) (opp spread : Nat) : ((s.clkShown opp spread).clkReject).mem = s.mem ∧
    ((s.clkShown opp spread).clkReject).queues = s.queues ∧ ((s.clkShown opp spread).clkReject).power = s.power := by
  unfold State.clkReject State.clkShown
  exact ⟨by simp, by simp, by simp⟩

/-! ### The end of a change -/

/-- The point and the spread in force. -/
def State.oppInForce (s : State) (o d : Nat) : State :=
  let t := (s.setFld Reg.CLK_STATUS 1 0 o).setFld Reg.CLK_STATUS 13 8 d
  { t with power := { s.power with opp := none }, outstanding := s.outstanding.filter (fun x => x.2 != Need.hold) }

/-- What was held goes on, first at the controllers and then at the host ports. -/
def State.oppServed (w : State) (env : Env) : State := (w.wake env).heldOps.foldl State.serveOp { w.wake env with heldOps := [] }

/-- BUSY clears, and the event follows. -/
def State.oppEnded (x : State) (o d : Nat) : State :=
  ((x.setFld Reg.CLK_STATUS 2 2 0).raise Reg.CLK_EVENT 0 Reg.CLK_EVENT_CNT 0).post slotClock 0x0B00 1 (o + d * 2 ^ 8)

theorem State.oppDone_some {o d : Nat} (h : s.power.opp = some (o, d)) (env : Env) : s.oppDone env =
    if ((s.oppInForce o d).oppServed env).power.held = true then (s.oppInForce o d).oppServed env
    else ((s.oppInForce o d).oppServed env).oppEnded o d := by
  unfold State.oppDone
  rw [h]
  rfl

theorem State.oppInForce_spec (s : State) (o d : Nat) : (s.oppInForce o d).fld Reg.CLK_STATUS 1 0 = o % 4 ∧
    (s.oppInForce o d).fld Reg.CLK_STATUS 13 8 = d % 64 ∧ ∀ r, r ≠ Reg.CLK_STATUS → (s.oppInForce o d).reg r = s.reg r := by
  have hreg (r : Nat) : (s.oppInForce o d).reg r = ((s.setFld Reg.CLK_STATUS 1 0 o).setFld Reg.CLK_STATUS 13 8 d).reg r := rfl
  refine ⟨(congrArg (fget · 1 0) (hreg _)).trans ?_, (congrArg (fget · 13 8) (hreg _)).trans ?_, fun r hr => (hreg r).trans ?_⟩
  · exact (State.fld_setFld_ne _ _ _ (by decide) (by decide) (by decide) (by decide)).trans (State.fld_setFld_self _ _ _ (by decide) (by decide))
  · exact State.fld_setFld_self _ _ _ (by decide) (by decide)
  · rw [State.reg_setFld_ne _ _ _ _ hr, State.reg_setFld_ne _ _ _ _ hr]

theorem State.oppEnded_spec (x : State) (o d : Nat) : (x.oppEnded o d).fld Reg.CLK_STATUS 2 2 = 0 ∧ (x.oppEnded o d).fld Reg.CLK_EVENT 0 0 = 1 := by
  unfold State.oppEnded
  rw [State.fld_post_ne _ (by decide) (by decide), State.fld_post_ne _ (by decide) (by decide)]
  refine ⟨?_, State.fld_raise_flag _ (by decide) (by decide)⟩
  refine (congrArg (fget · 2 2) (State.reg_raise_ne _ _ _ (by decide) (by decide))).trans ?_
  exact (State.fld_setFld_self _ _ _ (by decide) (by decide)).trans (Nat.zero_mod _)

theorem exec_oppDone (hl : s.live) (env : Env) : exec (.oppDone env) s = .next (s.keep (s.oppDone env)) := State.run_live _ hl

/-! ### Ports that are held -/

theorem State.portHeld_host (s : State) (h : Nat) : s.portHeld (.host h) = true ↔ s.power.opp.isSome = true := Iff.rfl

section
variable {h : Nat} (hl : s.live) (hp : s.portHeld (.host h) = true)
include hl hp

/-- What a held port takes waits there. -/
theorem portRun_waits {c : Bool} (hc : c = true) (t : State) (op : HeldOp) :
    part c (s.run (s.portRun t (.host h) op)) = .next { s with heldOps := s.heldOps ++ [op] } := by
  rw [part_true hc, State.run_live _ hl, State.portRun_held hp]
  rfl

theorem port_waits (hx : s.hostExists h = true) (off m : Nat) (up : Bool) (data : WData) (v : Word32) (env : Env) :
    exec (.registerWrite (.host h) off data env) s = .next { s with heldOps := s.heldOps ++ [.write (.host h) off data env] } ∧
    exec (.splitLowWrite (.host h) off v) s = .next { s with heldOps := s.heldOps ++ [.write32 (.host h) off v] } ∧
    exec (.splitLowRead (.host h) off) s = .next { s with heldOps := s.heldOps ++ [.read32 (.host h) off] } ∧
    (m < 32 → exec (.mbxTake (.host h) m up) s = .next { s with heldOps := s.heldOps ++ [.take (.host h) m up] }) :=
  ⟨portRun_waits hl hp hx _ _, portRun_waits hl hp hx _ _, portRun_waits hl hp hx _ _,
    fun hm => portRun_waits hl hp (by simp [State.reqExists, hx, mailboxOk, hm]) _ _⟩

end

end

/-- Settles O58: APPLY by what CLK_CTRL's write shows, the end of a change by what it puts in force and serves. -/
theorem operatingPoints : Obligations.OperatingPoints := by
  unfold Obligations.OperatingPoints
  intro who h off m up data v opp spread env s hl
  refine ⟨fun ha => ?_, fun hx hp => port_waits hl hp hx off m up data v env, s.portHeld_host h, exec_oppDone hl env, fun hn => ?_,
    fun o d ho => ?_, fun y hy => ?_, fun y op hheld => if_pos hheld⟩
  · rw [exec_oppApply ha]
    by_cases hok : s.quiesced = true ∧ s.fld Reg.CLK_STATUS 2 2 = 0 ∧ opp.toNat ≠ 3
    · rw [if_pos hok]
      obtain ⟨h1, h2, h3, h4, h5, h6, h7⟩ := (s.setPort who {}).oppBegun_spec opp.isLt spread.toNat
      exact ⟨_, rfl, h1, h2, rfl, rfl, h3, h4, fun _ => ⟨h5, h6, rfl, h7⟩, fun hn => absurd hok hn⟩
    · rw [if_neg hok]
      obtain ⟨h1, h2, h3, h4⟩ := (s.setPort who {}).clkRejected_spec opp.isLt spread.toNat
      obtain ⟨hmem, hqueues, hpower⟩ := State.clkRejected_frame (s.setPort who {}) opp.toNat spread.toNat
      generalize ((s.setPort who {}).clkShown opp.toNat spread.toNat).clkReject = u at h1 h2 h3 h4 hmem hqueues hpower
      exact ⟨_, rfl, h1, h2, hmem, hqueues, h3 1 0, h3 13 8, fun hc => absurd hc hok, fun _ => ⟨h3 2 2, hpower, h4⟩⟩
  · unfold State.oppDone
    rw [hn]
  · obtain ⟨h1, h2, h3⟩ := s.oppInForce_spec o d
    refine ⟨s.oppInForce o d, h1, h2, h3, rfl, fun hheld => ?_, fun hheld => ?_⟩
    · exact (State.oppDone_some ho env).trans (if_pos hheld)
    · have heq : s.oppDone env = ((s.oppInForce o d).oppServed env).oppEnded o d :=
        (State.oppDone_some ho env).trans (if_neg (fun hc => Bool.false_ne_true (hheld.symm.trans hc)))
      obtain ⟨hbusy, hevent⟩ := ((s.oppInForce o d).oppServed env).oppEnded_spec o d
      exact ⟨(congrArg (State.fld · Reg.CLK_STATUS 2 2) heq).trans hbusy, (congrArg (State.fld · Reg.CLK_EVENT 0 0) heq).trans hevent, heq⟩
  · have hopen (t : State) : (if y.power.held then y else t) = t := if_neg (by rw [show y.power.held = false from hy]; decide)
    exact ⟨hopen _, hopen _, hopen _⟩

end Sys2Proof.Machine

namespace Sys2Proof.Machine

/-! ## Full resets and the return of the stacks (R262, R483–R486) -/

section
variable {s : State}

/-! ### What a full reset leaves -/

/-- A device in reset whose registers all hold their reset values. -/
def State.cleared (s : State) (retain : Bool) : State :=
  let m := s.resetMem retain
  { State.reset with
    regs := [], image := { State.reset.image with regions := if retain then s.image.regions else State.reset.image.regions }
    pending := s.pending, fuses := s.fuses, flash := s.flash, out := s.out, free := m.free + 1, mem := m.mem, poison := m.poison
    loops := s.loops, priv := s.priv.openRange (2 ^ 52) privRom m.free, boot := .off
    power := { s.power with held := true, soft := false, selfRef := if retain then Nat.lor s.stacksUp s.power.selfRef else 0, awaited := 0, opp := none } }

/-- The registers that a full reset does not take to their reset values. -/
def State.resetShown (t s : State) (cause n : Nat) (retain : Bool) : State :=
  ((((t.setReg Reg.CLK_TIME (s.reg Reg.CLK_TIME)).setFld Reg.SIO_STATUS 2 2 (s.fld Reg.SIO_STATUS 2 2)).setFld Reg.CLK_RESET_CAUSE 1 0 cause).setFld
    Reg.CLK_RESET_CAUSE 23 8 n).setFld Reg.CLK_RESET_CAUSE 7 7 (if retain then 1 else 0)

theorem State.fullReset_eq (s : State) (cause : Nat) (retain : Bool) : s.fullReset cause retain =
    (s.cleared retain).resetShown s cause (if cause = 0 then 0 else min 65535 (s.fld Reg.CLK_RESET_CAUSE 23 8 + 1)) retain := rfl

theorem State.resetShown_frame (t s : State) (cause n : Nat) (retain : Bool) :
    t.resetShown s cause n retain = { t with regs := (t.resetShown s cause n retain).regs } := rfl

section
variable (t : State) (cause n : Nat) (retain : Bool)

theorem State.reg_resetShown {o : Nat} (h1 : o ≠ Reg.CLK_TIME) (h2 : o ≠ Reg.SIO_STATUS) (h3 : o ≠ Reg.CLK_RESET_CAUSE) :
    (t.resetShown s cause n retain).reg o = t.reg o := by
  unfold State.resetShown
  rw [State.reg_setFld_ne _ _ _ _ h3, State.reg_setFld_ne _ _ _ _ h3, State.reg_setFld_ne _ _ _ _ h3, State.reg_setFld_ne _ _ _ _ h2,
    State.reg_setReg_ne _ _ h1]

theorem State.clkTime_resetShown : (t.resetShown s cause n retain).reg Reg.CLK_TIME = s.reg Reg.CLK_TIME := by
  unfold State.resetShown
  rw [State.reg_setFld_ne _ _ _ _ (by decide), State.reg_setFld_ne _ _ _ _ (by decide), State.reg_setFld_ne _ _ _ _ (by decide),
    State.reg_setFld_ne _ _ _ _ (by decide)]
  exact State.reg_setReg_self _ _ _

theorem State.sioStatus_resetShown : (t.resetShown s cause n retain).fld Reg.SIO_STATUS 2 2 = s.fld Reg.SIO_STATUS 2 2 ∧
    (t.resetShown s cause n retain).fld Reg.SIO_STATUS 3 3 = t.fld Reg.SIO_STATUS 3 3 := by
  have hlt : s.fld Reg.SIO_STATUS 2 2 < 2 := fget_lt _ 2 2
  have hne : Reg.CLK_RESET_CAUSE ≠ Reg.SIO_STATUS ∧ Reg.SIO_STATUS ≠ Reg.CLK_TIME := by decide
  unfold State.resetShown
  rw [State.fld_setFld_off _ _ _ _ _ _ hne.1.symm, State.fld_setFld_off _ _ _ _ _ _ hne.1.symm, State.fld_setFld_off _ _ _ _ _ _ hne.1.symm,
    State.fld_setFld_off _ _ _ _ _ _ hne.1.symm, State.fld_setFld_off _ _ _ _ _ _ hne.1.symm, State.fld_setFld_off _ _ _ _ _ _ hne.1.symm]
  refine ⟨(State.fld_setFld_self _ _ _ (by decide) (by decide)).trans (Nat.mod_eq_of_lt hlt), ?_⟩
  rw [State.fld_setFld_ne _ _ _ (by decide) (by decide) (by decide) (by decide)]
  exact congrArg (fget · 3 3) (State.reg_setReg_ne _ _ hne.2)

theorem State.cause_resetShown (hcause : cause < 4) (hn : n < 65536) : (t.resetShown s cause n retain).fld Reg.CLK_RESET_CAUSE 1 0 = cause ∧
    (t.resetShown s cause n retain).fld Reg.CLK_RESET_CAUSE 7 7 = (if retain then 1 else 0) ∧
    (t.resetShown s cause n retain).fld Reg.CLK_RESET_CAUSE 23 8 = n := by
  have hr : (if retain then 1 else 0) < 2 := by split <;> decide
  unfold State.resetShown
  refine ⟨?_, (State.fld_setFld_self _ _ _ (by decide) (by decide)).trans (Nat.mod_eq_of_lt hr), ?_⟩
  · rw [State.fld_setFld_ne _ _ _ (by decide) (by decide) (by decide) (by decide),
      State.fld_setFld_ne _ _ _ (by decide) (by decide) (by decide) (by decide)]
    exact (State.fld_setFld_self _ _ _ (by decide) (by decide)).trans (Nat.mod_eq_of_lt hcause)
  · rw [State.fld_setFld_ne _ _ _ (by decide) (by decide) (by decide) (by decide)]
    exact (State.fld_setFld_self _ _ _ (by decide) (by decide)).trans (Nat.mod_eq_of_lt hn)

end

theorem State.reg_cleared (s : State) (retain : Bool) (o : Nat) : (s.cleared retain).reg o = regReset o := rfl

theorem regReset_sioStatus : fget (regReset Reg.SIO_STATUS) 3 3 = 0 := by decide

/-- Retained stacked memory keeps its bytes and its poison. -/
theorem State.resetMem_kept (s : State) {a : Nat} (ha : a < stackedEnd) :
    (s.resetMem true).mem.byte a = s.mem.byte a ∧ (s.resetMem true).poisoned (a / 32) = s.poisoned (a / 32) := by
  refine ⟨Memory.byte_openRange_out s.mem (hi := 2 ^ 52) (k := s.free) (fun h => absurd h.1 (Nat.not_le.mpr ha)), ?_⟩
  refine mget_filter false s.poison _ fun _ => ?_
  rw [decide_eq_true_eq]
  exact fun h => absurd h.1 (by omega)

/-- What the statement says of a device in reset, before a reset's own mark in CLK_RESET's or RESET_N's state. -/
theorem State.fullReset_fields (s : State) {cause : Nat} (hpos : 0 < cause) (hlt : cause < 4) (retain : Bool) : let t := s.fullReset cause retain
    (∀ o, o ≠ Reg.CLK_TIME → o ≠ Reg.SIO_STATUS → o ≠ Reg.CLK_RESET_CAUSE → t.reg o = regReset o) ∧
    t.reg Reg.CLK_TIME = s.reg Reg.CLK_TIME ∧ t.fld Reg.SIO_STATUS 2 2 = s.fld Reg.SIO_STATUS 2 2 ∧ t.fld Reg.SIO_STATUS 3 3 = 0 ∧
    t.fld Reg.CLK_RESET_CAUSE 1 0 = cause ∧ t.fld Reg.CLK_RESET_CAUSE 7 7 = (if retain then 1 else 0) ∧
    t.fld Reg.CLK_RESET_CAUSE 23 8 = min 65535 (s.fld Reg.CLK_RESET_CAUSE 23 8 + 1) := by
  dsimp only
  rw [State.fullReset_eq, if_neg (by omega)]
  obtain ⟨htrip, hoc⟩ := (s.cleared retain).sioStatus_resetShown (s := s) cause (min 65535 (s.fld Reg.CLK_RESET_CAUSE 23 8 + 1)) retain
  obtain ⟨h1, h2, h3⟩ := (s.cleared retain).cause_resetShown (s := s) cause (min 65535 (s.fld Reg.CLK_RESET_CAUSE 23 8 + 1)) retain hlt (by omega)
  exact ⟨fun o ha hb hc => (State.reg_resetShown (s.cleared retain) _ _ _ ha hb hc).trans (s.reg_cleared retain o), State.clkTime_resetShown (s.cleared retain) _ _ _,
    htrip, hoc.trans ((congrArg (fget · 3 3) (s.reg_cleared retain _)).trans regReset_sioStatus), h1, h2, h3⟩

theorem State.fullReset_frame (s : State) (cause : Nat) (retain : Bool) :
    ∃ g, s.fullReset cause retain = { s.cleared retain with regs := g } := ⟨_, rfl⟩

/-- A device in reset as the statement describes it. -/
def State.resetFrom (s t : State) (cause : Nat) (kept : Bool) : Prop :=
  t.power.held = true ∧ t.pending = s.pending ∧ t.fuses = s.fuses ∧ t.flash = s.flash ∧
  t.out = s.out ∧ (∀ o, o ≠ Reg.CLK_TIME → o ≠ Reg.SIO_STATUS → o ≠ Reg.CLK_RESET_CAUSE → t.reg o = regReset o) ∧
  t.reg Reg.CLK_TIME = s.reg Reg.CLK_TIME ∧ t.fld Reg.SIO_STATUS 2 2 = s.fld Reg.SIO_STATUS 2 2 ∧ t.fld Reg.SIO_STATUS 3 3 = 0 ∧
  t.fld Reg.CLK_RESET_CAUSE 1 0 = cause ∧ t.fld Reg.CLK_RESET_CAUSE 7 7 = (if kept then 1 else 0) ∧
  t.fld Reg.CLK_RESET_CAUSE 23 8 = min 65535 (s.fld Reg.CLK_RESET_CAUSE 23 8 + 1) ∧
  t.queues = [] ∧ t.seals = [] ∧ t.bias = [] ∧ t.anchors = [] ∧
  t.image = { State.reset.image with regions := if kept then s.image.regions else State.reset.image.regions } ∧
  t.power.selfRef = (if kept then Nat.lor s.stacksUp s.power.selfRef else 0) ∧ t.power.awaited = 0 ∧
  (kept = true → ∀ a < stackedEnd, t.mem.byte a = s.mem.byte a ∧ t.poisoned (a / 32) = s.poisoned (a / 32))

theorem State.fullReset_resets (s : State) {cause : Nat} (hpos : 0 < cause) (hlt : cause < 4) (retain : Bool) {p : Power}
    (hp : p.held = true ∧ p.selfRef = (s.cleared retain).power.selfRef ∧ p.awaited = 0) :
    s.resetFrom { s.fullReset cause retain with power := p } cause retain := by
  obtain ⟨hregs, htime, htrip, hoc, hcause, hkept, hcount⟩ := s.fullReset_fields hpos hlt retain
  obtain ⟨g, hg⟩ := s.fullReset_frame cause retain
  obtain ⟨hheld, hself, hawaited⟩ := hp
  have hmem (hr : retain = true) {a : Nat} (ha : a < stackedEnd) : (s.cleared retain).mem.byte a = s.mem.byte a ∧
      (s.cleared retain).poisoned (a / 32) = s.poisoned (a / 32) := by
    subst hr
    exact s.resetMem_kept ha
  rw [hg] at hregs htime htrip hoc hcause hkept hcount ⊢
  exact ⟨hheld, rfl, rfl, rfl, rfl, hregs, htime, htrip, hoc, hcause, hkept, hcount, rfl, rfl, rfl, rfl, rfl, hself, hawaited,
    fun hr a ha => hmem hr ha⟩

/-! ### CLK_RESET and RESET_N -/

theorem clkResetValue (key : BitVec 8) (retain : Bool) :
    let v : Word := (BitVec.ofNat 32 (key.toNat * 2 ^ 8 + (if retain then 1 else 0))).zeroExtend 64
    fget v 15 8 = key.toNat ∧ decide (fget v 0 0 = 1) = retain := by
  have hlt := key.isLt
  unfold fget bits
  dsimp only
  rw [BitVec.toNat_setWidth, BitVec.toNat_ofNat]
  cases retain
  · exact ⟨by simp only [Bool.false_eq_true, if_false]; omega, by simp only [Bool.false_eq_true, if_false]; exact decide_eq_false (by omega)⟩
  · exact ⟨by simp only [if_true]; omega, by simp only [if_true]; exact decide_eq_true (by omega)⟩

theorem State.noHostReg_clkReset (s : State) : s.noHostReg Reg.CLK_RESET = false := s.noHostReg_out (.inr (by decide))

theorem exec_clkReset {who : Requester} (ha : s.admitted who) (key : BitVec 8) (retain : Bool) : exec (.clkReset who key retain) s =
    .next (s.keep (if key.toNat = 0xD1 then
        { (s.setPort who {}).fullReset 2 retain with power := { ((s.setPort who {}).fullReset 2 retain).power with soft := true } }
      else (s.setPort who {}).clkReject)) := by
  obtain ⟨hl, hx, hp⟩ := ha
  obtain ⟨hkey, hretain⟩ := clkResetValue key retain
  refine (part_true hx _).trans ((State.run_live _ hl).trans (congrArg (fun u => Host.Outcome.next (s.keep u)) ?_))
  rw [State.regWrite_w32 who _ {} rowAt_clkReset s.noHostReg_clkReset hp (by decide), effectAt_clkReset, State.clkReset, hkey, hretain]

theorem key_iff (key : BitVec 8) : key.toNat = 0xD1 ↔ key = 0xD1#8 := by
  rw [← BitVec.toNat_inj]
  rfl

theorem State.keep_of_resetFrom {t : State} {cause : Nat} {kept : Bool} (h : s.resetFrom t cause kept) : s.keep t = t := by
  obtain ⟨-, hpending, hfuses, -⟩ := h
  exact State.keep_of_eq hpending hfuses

theorem State.resetFrom_setPort {t : State} {who : Requester} {p : Port} {cause : Nat} {kept : Bool}
    (h : (s.setPort who p).resetFrom t cause kept) : s.resetFrom t cause kept := h

theorem State.fullReset_power (s : State) (cause : Nat) (retain : Bool) : (s.fullReset cause retain).power = (s.cleared retain).power := by
  obtain ⟨g, hg⟩ := s.fullReset_frame cause retain
  rw [hg]

theorem State.cleared_power (s : State) (retain : Bool) : (s.cleared retain).power.held = true ∧ (s.cleared retain).power.awaited = 0 := ⟨rfl, rfl⟩

/-- A software reset. -/
def State.softReset (s : State) (retain : Bool) : State :=
  { s.fullReset 2 retain with power := { (s.cleared retain).power with soft := true } }

theorem State.softReset_resets (s : State) (retain : Bool) : s.resetFrom (s.softReset retain) 2 retain :=
  s.fullReset_resets (by decide) (by decide) retain ⟨s.cleared_power retain |>.1, rfl, s.cleared_power retain |>.2⟩

theorem clkReset_accepted {who : Requester} (ha : s.admitted who) {key : BitVec 8} (hkey : key = 0xD1#8) (retain : Bool) :
    ∃ t, exec (.clkReset who key retain) s = .next t ∧ s.resetFrom t 2 retain ∧ t.power.soft = true := by
  have hres := State.resetFrom_setPort ((s.setPort who {}).softReset_resets retain)
  refine ⟨_, (exec_clkReset ha key retain).trans ?_, hres, rfl⟩
  rw [if_pos ((key_iff key).mpr hkey), State.fullReset_power]
  exact congrArg _ (State.keep_of_resetFrom hres)

theorem clkReset_rejected {who : Requester} (ha : s.admitted who) {key : BitVec 8} (hkey : key ≠ 0xD1#8) (retain : Bool) :
    exec (.clkReset who key retain) s = .next ((s.setPort who {}).raise Reg.CLK_EVENT 1 Reg.CLK_EVENT_CNT 16) := by
  rw [exec_clkReset ha, if_neg (fun h => hkey ((key_iff key).mp h))]
  exact congrArg _ (State.keep_setPort_raise ..)

theorem resetNFall_low (h : s.power.resetN = false) (memhold : Bool) : exec (.resetNFall memhold) s = .next s := by
  change s.always (s.resetFall memhold) = _
  rw [State.always, State.resetFall, if_pos (by simp [h]), State.keep_self]

theorem resetNFall_held (h : s.power.resetN = true) (hheld : s.power.held = true) (memhold : Bool) :
    exec (.resetNFall memhold) s = .next { s with power := { s.power with resetN := false } } := by
  change s.always (s.resetFall memhold) = _
  rw [State.always, State.resetFall, if_neg (by simp [h]), if_pos hheld]
  rfl

theorem resetNFall_resets (h : s.power.resetN = true) (hheld : s.power.held = false) (memhold : Bool) :
    ∃ t, exec (.resetNFall memhold) s = .next t ∧ s.resetFrom t 1 (!memhold) ∧ t.power.resetN = false := by
  have hres := s.fullReset_resets (cause := 1) (by decide) (by decide) (!memhold) (p := { (s.cleared (!memhold)).power with resetN := false })
    ⟨(s.cleared_power (!memhold)).1, rfl, (s.cleared_power (!memhold)).2⟩
  refine ⟨_, ?_, hres, rfl⟩
  change s.always (s.resetFall memhold) = _
  rw [State.always, State.resetFall, if_neg (by simp [h]), if_neg (by simp [hheld])]
  dsimp only
  rw [State.fullReset_power]
  exact congrArg _ (State.keep_of_resetFrom hres)

/-! ### The end of the hold -/

/-- Beside the ports' registers and what they send, the end of the hold starts boot and counts the stacks. -/
theorem State.leaveReset_frame (s : State) : ∃ l o p, s.leaveReset = { s with
    regs := s.trainPorts.regs, linkPorts := l, out := o, boot := .header false, power := p } ∧ p.held = false := by
  obtain ⟨g, hg⟩ := s.trainPorts_frame
  obtain ⟨l, o, hl⟩ := s.trainPorts.likeSent_linkFlush
  refine ⟨l, o, { s.power with held := false, awaited := if s.fld Reg.CLK_RESET_CAUSE 7 7 = 1 then s.power.selfRef else 0xFFFFFF }, ?_, rfl⟩
  rw [State.leaveReset, hl, hg]

theorem State.keep_tryLeave {t : State} (hp : t.pending = s.pending) (hf : t.fuses = s.fuses) : s.keep t.tryLeave = t.tryLeave := by
  unfold State.tryLeave
  dsimp only
  split
  · obtain ⟨l, o, p, heq, -⟩ := t.leaveReset_frame
    rw [heq]
    exact State.keep_of_eq hp hf
  · exact State.keep_of_eq hp hf

theorem State.pending_tryLeave (s : State) : s.tryLeave.pending = s.pending := by
  unfold State.tryLeave
  dsimp only
  split
  · obtain ⟨l, o, p, heq, -⟩ := s.leaveReset_frame
    rw [heq]
  · rfl

/-- One port that an enabled reset leaves training. -/
def State.trainOne (s : State) (p : Nat) : State :=
  if s.fld (Reg.LNK_PORT_STATUS p) 1 0 = 0 ∧ s.fld (Reg.LNK_PORT_CTRL p) 0 0 = 0 then s.setFld (Reg.LNK_PORT_STATUS p) 1 0 1 else s

theorem State.trainPorts_eq (s : State) : s.trainPorts = (List.range 18).foldl State.trainOne s := rfl

theorem State.reg_trainOne_ne (s : State) {p o : Nat} (ho : o ≠ Reg.LNK_PORT_STATUS p) : (s.trainOne p).reg o = s.reg o := by
  unfold State.trainOne
  split
  · exact State.reg_setFld_ne _ _ _ _ ho
  · rfl

theorem State.reg_trainFold_ne {o : Nat} : ∀ (l : List Nat) (s : State), (∀ p ∈ l, o ≠ Reg.LNK_PORT_STATUS p) → (l.foldl State.trainOne s).reg o = s.reg o
  | [], _, _ => rfl
  | p :: l, s, h => (State.reg_trainFold_ne l (s.trainOne p) fun j hj => h j (List.mem_cons_of_mem _ hj)).trans
      (s.reg_trainOne_ne (h p List.mem_cons_self))

theorem portStatus_ne {p j : Nat} (h : p ≠ j) : Reg.LNK_PORT_STATUS p ≠ Reg.LNK_PORT_STATUS j := by
  unfold Reg.LNK_PORT_STATUS
  omega

theorem portCtrl_ne_status (p j : Nat) : Reg.LNK_PORT_CTRL p ≠ Reg.LNK_PORT_STATUS j := by
  unfold Reg.LNK_PORT_CTRL Reg.LNK_PORT_STATUS
  omega

theorem State.trainOne_self (s : State) {p : Nat} (h0 : s.fld (Reg.LNK_PORT_STATUS p) 1 0 = 0) (hc : s.fld (Reg.LNK_PORT_CTRL p) 0 0 = 0) :
    (s.trainOne p).fld (Reg.LNK_PORT_STATUS p) 1 0 = 1 := by
  unfold State.trainOne
  rw [if_pos ⟨h0, hc⟩]
  exact State.fld_setFld_self _ _ _ (by decide) (by decide)

/-- An enabled port that is off trains. -/
theorem State.trainFold_trains {p : Nat} : ∀ (l : List Nat) (s : State), l.Nodup → p ∈ l → s.fld (Reg.LNK_PORT_STATUS p) 1 0 = 0 →
    s.fld (Reg.LNK_PORT_CTRL p) 0 0 = 0 → (l.foldl State.trainOne s).fld (Reg.LNK_PORT_STATUS p) 1 0 = 1
  | [], _, _, h, _, _ => absurd h List.not_mem_nil
  | j :: l, s, hnd, hp, h0, hc => by
    obtain ⟨hj, hnd⟩ := List.nodup_cons.mp hnd
    by_cases hjp : p = j
    · subst hjp
      exact (congrArg (fget · 1 0) (State.reg_trainFold_ne l (s.trainOne p) fun i hi => portStatus_ne (by rintro rfl; exact hj hi))).trans (s.trainOne_self h0 hc)
    · refine State.trainFold_trains l (s.trainOne j) hnd ((List.mem_cons.mp hp).resolve_left hjp) ?_ ?_
      · exact (congrArg (fget · 1 0) (s.reg_trainOne_ne (portStatus_ne hjp))).trans h0
      · exact (congrArg (fget · 0 0) (s.reg_trainOne_ne (portCtrl_ne_status p j))).trans hc

theorem State.leaveReset_spec (s : State) : s.leaveReset.power.held = false ∧ s.leaveReset.boot = .header false ∧ s.leaveReset.mem = s.mem ∧
    (∀ o, (∀ p < 18, o ≠ Reg.LNK_PORT_STATUS p) → s.leaveReset.reg o = s.reg o) ∧ ∀ p < 18, s.fld (Reg.LNK_PORT_STATUS p) 1 0 = 0 →
    s.fld (Reg.LNK_PORT_CTRL p) 0 0 = 0 → s.leaveReset.fld (Reg.LNK_PORT_STATUS p) 1 0 = 1 := by
  obtain ⟨l, o, p, heq, hheld⟩ := s.leaveReset_frame
  have hreg (r : Nat) : s.leaveReset.reg r = ((List.range 18).foldl State.trainOne s).reg r := by
    rw [heq, ← State.trainPorts_eq]
    rfl
  refine ⟨by rw [heq]; exact hheld, by rw [heq], by rw [heq], fun r hr => (hreg r).trans ?_, fun q hq h0 hc => ?_⟩
  · exact State.reg_trainFold_ne _ _ fun j hj => hr j (List.mem_range.mp hj)
  · exact (congrArg (fget · 1 0) (hreg _)).trans (State.trainFold_trains _ _ List.nodup_range (List.mem_range.mpr hq) h0 hc)

theorem resetHoldEnd_idle (h : s.power.soft = false) : exec .resetHoldEnd s = .next s := by
  change s.always s.resetHoldEnd = _
  rw [State.always, State.resetHoldEnd, if_neg (by simp [h]), State.keep_self]

theorem resetHoldEnd_ends (h : s.power.soft = true) : exec .resetHoldEnd s = .next (State.tryLeave { s with power := { s.power with soft := false } }) := by
  change s.always s.resetHoldEnd = _
  rw [State.always, State.resetHoldEnd, if_pos h]
  exact congrArg _ (State.keep_tryLeave rfl rfl)

theorem resetNRise_high (h : s.power.resetN = true) (split : BitVec 4) (adr : BitVec 3) : exec (.resetNRise split adr) s = .next s := by
  change s.strap (s.resetRise split.toNat) = _
  rw [State.strap, State.resetRise, if_pos h]

theorem resetNRise_rises (h : s.power.resetN = false) (split : BitVec 4) (adr : BitVec 3) : exec (.resetNRise split adr) s =
    .next (State.tryLeave { s with fuses := { s.fuses with split := split.toNat }, power := { s.power with resetN := true } }) := by
  have hpending (t : State) (hp : t.pending = s.pending) : s.strap t = .next t := by
    rw [State.strap, ← hp]
  change s.strap (s.resetRise split.toNat) = _
  rw [State.resetRise, if_neg (by simp [h])]
  exact hpending _ (State.pending_tryLeave _)

/-! ### The stacks -/

theorem selfRefreshExit_held (h : s.power.held = true) (bad : Nat) : exec (.selfRefreshExit bad) s = .next s := by
  change s.always (s.selfRefreshExit bad) = _
  rw [State.always, State.selfRefreshExit, if_pos h, State.keep_self]

theorem selfRefreshExit_returns (h : s.power.held = false) (bad : Nat) : exec (.selfRefreshExit bad) s = .next (s.keep
    ((setBitList 24 s.power.selfRef).foldl (fun s c => State.stackBack (!bit bad c) s c) s).applyBegin) := by
  change s.always (s.selfRefreshExit bad) = _
  rw [State.always, State.selfRefreshExit, if_neg (by simp [h])]

section
variable {c : Nat} (hc : c < 24) {good : Bool}

section
include hc

theorem exec_stackTrainingDone : exec (.stackTrainingDone c good) s = .next (s.keep (s.trainingDone c good)) :=
  part_true (by simp [stackOk, hc]) _

theorem stackTrainingDone_idle (h : s.power.held = true ∨ bit s.power.awaited c = false ∨ bit s.power.selfRef c = true) :
    exec (.stackTrainingDone c good) s = .next s := by
  have hn : ¬ (!s.power.held && bit s.power.awaited c && !bit s.power.selfRef c) = true := by
    rcases h with h | h | h <;> simp [h]
  rw [exec_stackTrainingDone hc, State.trainingDone, if_neg hn, State.keep_self]

theorem stackTrainingDone_returns (h1 : s.power.held = false) (h2 : bit s.power.awaited c = true) (h3 : bit s.power.selfRef c = false) :
    exec (.stackTrainingDone c good) s = .next (s.keep (State.stackBack good s c).applyBegin) := by
  rw [exec_stackTrainingDone hc, State.trainingDone, if_pos (by simp [h1, h2, h3])]

end

theorem bit_setBits_zero (n c : Nat) : bit (setBits n c c 0) c = false := by
  have h := bits_setBits_self n 0 (le_refl c)
  have hone : c + 1 - c = 1 := by omega
  rw [bits, hone, Nat.pow_one, Nat.zero_mod] at h
  rw [bit, h]
  rfl

/-- A stack's status as it returns or is left out. -/
def State.stackMarked (good : Bool) (s : State) (c : Nat) : State := if good then s.setFld (Reg.MEM_STK_STATUS c) 0 0 1 else s.stackDown c

theorem State.stackMarked_spec (s : State) {c : Nat} (hc : c < 24) (good : Bool) :
    (State.stackMarked good s c).fld (Reg.MEM_STK_STATUS c) 0 0 = (if good then 1 else 0) ∧ (State.stackMarked good s c).mem = s.mem ∧
    (good = true → (State.stackMarked good s c).log = s.log ∧ ∀ o, o ≠ Reg.MEM_STK_STATUS c → (State.stackMarked good s c).reg o = s.reg o) := by
  cases good with
  | true =>
    change (s.setFld (Reg.MEM_STK_STATUS c) 0 0 1).fld (Reg.MEM_STK_STATUS c) 0 0 = 1 ∧ (s.setFld (Reg.MEM_STK_STATUS c) 0 0 1).mem = s.mem ∧
      (true = true → (s.setFld (Reg.MEM_STK_STATUS c) 0 0 1).log = s.log ∧ ∀ o, o ≠ Reg.MEM_STK_STATUS c →
        (s.setFld (Reg.MEM_STK_STATUS c) 0 0 1).reg o = s.reg o)
    exact ⟨State.fld_setFld_self _ _ _ (by decide) (by decide), State.setFld_mem _ _ _ _ _,
      fun _ => ⟨State.setFld_log _ _ _ _ _, fun o ho => State.reg_setFld_ne _ _ _ _ ho⟩⟩
  | false =>
    have hne : Reg.MEM_STK_STATUS c ≠ Reg.SIO_ALARM_STATUS := by
      unfold Reg.MEM_STK_STATUS Reg.SIO_ALARM_STATUS
      omega
    refine ⟨?_, ?_, fun h => absurd h Bool.false_ne_true⟩
    · change ((s.setFld (Reg.MEM_STK_STATUS c) 0 0 0).post slotSiolo 0x0306 3 c).fld (Reg.MEM_STK_STATUS c) 0 0 = 0
      rw [State.fld_post_ne _ (by decide) hne]
      exact (State.fld_setFld_self _ _ _ (by decide) (by decide)).trans (Nat.zero_mod _)
    · change ((s.setFld (Reg.MEM_STK_STATUS c) 0 0 0).post slotSiolo 0x0306 3 c).mem = s.mem
      rw [State.post_mem, State.setFld_mem]

theorem State.stackBack_spec (s : State) {c : Nat} (hc : c < 24) (good : Bool) : (State.stackBack good s c).fld (Reg.MEM_STK_STATUS c) 0 0 = (if good then 1 else 0) ∧
    bit (State.stackBack good s c).power.awaited c = false ∧ (State.stackBack good s c).mem = s.mem ∧
    (good = true → (State.stackBack good s c).log = s.log ∧ ∀ o, o ≠ Reg.MEM_STK_STATUS c → (State.stackBack good s c).reg o = s.reg o) := by
  have heq : State.stackBack good s c = { State.stackMarked good s c with
    power := { (State.stackMarked good s c).power with
      awaited := setBits (State.stackMarked good s c).power.awaited c c 0, selfRef := setBits (State.stackMarked good s c).power.selfRef c c 0 } } := rfl
  obtain ⟨hfld, hmem, hgood⟩ := s.stackMarked_spec hc good
  rw [heq]
  generalize State.stackMarked good s c = t at hfld hmem hgood
  exact ⟨hfld, bit_setBits_zero _ _, hmem, hgood⟩

end

end

/-- Settles O59: a full reset by the registers and the state it starts again from, the hold by what ends it, the stacks one by one. -/
theorem fullResets : Obligations.FullResets := by
  unfold Obligations.FullResets
  intro who key retain memhold good split adr c bad s
  exact ⟨fun ha => ⟨fun hkey => clkReset_accepted ha hkey retain, fun hkey => clkReset_rejected ha hkey retain⟩, fun h => resetNFall_low h memhold,
    fun h hheld => resetNFall_held h hheld memhold, fun h hheld => resetNFall_resets h hheld memhold, resetHoldEnd_idle, resetHoldEnd_ends,
    fun h => resetNRise_high h split adr, fun h => resetNRise_rises h split adr, s.leaveReset_spec, fun h => selfRefreshExit_held h bad,
    fun h => selfRefreshExit_returns h bad, fun hc => ⟨stackTrainingDone_idle hc, stackTrainingDone_returns hc, s.stackBack_spec hc good⟩⟩

end Sys2Proof.Machine

namespace Sys2Proof.Machine

/-! ## Power-up and power-down (R481, R482, R501) -/

section
variable {s t : State}

/-! ### The main rails come up -/

theorem State.tryMains_eq (s : State) : s.tryMains = { s with power := s.tryMains.power } := by
  unfold State.tryMains
  dsimp only
  split <;> rfl

theorem State.tryMains_on (h1 : s.power.standby = true) (h2 : s.power.pwrEn = true) (h3 : s.power.overHigh = false) (h4 : s.power.inLow = false)
    (h5 : s.power.overCycle = 2) : s.tryMains = { s with power := { s.power with mains := true } } :=
  if_pos (by simp [h1, h2, h3, h4, h5])

theorem State.tryMains_off (h : s.power.standby = false ∨ s.power.pwrEn = false ∨ s.power.overHigh = true ∨ s.power.inLow = true ∨
    s.power.overCycle ≠ 2) : s.tryMains = s := by
  refine if_neg ?_
  rcases h with h | h | h | h | h <;> simp [h]

/-- Only whether the main rails are on may change. -/
theorem State.tryMains_power (s : State) : ∃ b, s.tryMains.power = { s.power with mains := b } := by
  unfold State.tryMains
  dsimp only
  split
  · exact ⟨true, rfl⟩
  · exact ⟨s.power.mains, rfl⟩

/-- The standby rails come up, and rail 0 is within its limits. -/
def State.standbyUp (s : State) (adr : Nat) : State :=
  let t := if s.power.standby then s else { s.setReg Reg.CLK_TIME 0 with fuses := { s.fuses with pmbAddr := adr } }
  { t with power := { t.power with standby := true, overHigh := false, inLow := false } }

theorem State.standbyPower_eq (s : State) (adr : Nat) : s.standbyPower adr = (s.standbyUp adr).tryMains := rfl

theorem State.standbyUp_spec (s : State) (adr : Nat) :
    (s.standbyUp adr).power = { s.power with standby := true, overHigh := false, inLow := false } ∧
    (s.standbyUp adr).pending = s.pending ∧ (s.standbyUp adr).mem = s.mem ∧
    (s.power.standby = false → (s.standbyUp adr).reg Reg.CLK_TIME = 0 ∧ (s.standbyUp adr).fuses = { s.fuses with pmbAddr := adr }) ∧
    (s.power.standby = true → s.standbyUp adr = { s with power := (s.standbyUp adr).power }) := by
  by_cases h : s.power.standby = true
  · have heq : s.standbyUp adr = { s with power := { s.power with standby := true, overHigh := false, inLow := false } } := by
      unfold State.standbyUp
      rw [if_pos h]
    rw [heq]
    exact ⟨rfl, rfl, rfl, fun hf => absurd (hf.symm.trans h) Bool.false_ne_true, fun _ => rfl⟩
  · have heq : s.standbyUp adr = { s.setReg Reg.CLK_TIME 0 with
        fuses := { s.fuses with pmbAddr := adr }, power := { s.power with standby := true, overHigh := false, inLow := false } } := by
      unfold State.standbyUp
      rw [if_neg h]
      rfl
    rw [heq]
    exact ⟨rfl, rfl, rfl, fun _ => ⟨State.reg_setReg_self s Reg.CLK_TIME 0, rfl⟩, fun hs => absurd hs h⟩

theorem standbyPower_comes (s : State) (adr : BitVec 3) : ∃ t, exec (.standbyPower adr) s = .next t ∧ t.power.standby = true ∧
    t.power.overHigh = false ∧ t.power.inLow = false ∧ t.mem = s.mem ∧
    (s.power.standby = false → t.reg Reg.CLK_TIME = 0 ∧ t.fuses = { s.fuses with pmbAddr := adr.toNat }) ∧
    (s.power.standby = true → t = { s with power := t.power }) ∧
    (s.power.pwrEn = true → s.power.overCycle = 2 → t.power.mains = true) ∧
    (s.power.pwrEn = false ∨ s.power.overCycle ≠ 2 → t.power.mains = s.power.mains) := by
  obtain ⟨hpower, hpending, hmem, hfirst, hagain⟩ := s.standbyUp_spec adr.toNat
  have hexec : exec (.standbyPower adr) s = s.strap (s.standbyUp adr.toNat).tryMains := rfl
  generalize s.standbyUp adr.toNat = u at hpower hpending hmem hfirst hagain hexec
  obtain ⟨b, hb⟩ := u.tryMains_power
  have hframe := u.tryMains_eq
  have hon (h1 : s.power.pwrEn = true) (h2 : s.power.overCycle = 2) : u.tryMains.power.mains = true := by
    rw [State.tryMains_on (s := u) (by rw [hpower]) (by rw [hpower]; exact h1) (by rw [hpower]) (by rw [hpower]) (by rw [hpower]; exact h2)]
  have hoff (h : s.power.pwrEn = false ∨ s.power.overCycle ≠ 2) : u.tryMains.power.mains = s.power.mains := by
    rw [State.tryMains_off (s := u) (by rw [hpower]; tauto), hpower]
  have hstrap : s.strap u.tryMains = .next u.tryMains := by
    rw [State.strap, hframe, ← hpending]
  refine ⟨u.tryMains, hexec.trans hstrap, ?_, ?_, ?_, ?_, fun h => ?_, fun h => ?_, hon, hoff⟩
  · rw [hb, hpower]
  · rw [hb, hpower]
  · rw [hb, hpower]
  · rw [hframe]
    exact hmem
  · rw [hframe]
    exact hfirst h
  · rw [hframe, hagain h]

theorem pwrEnRise_rises (s : State) : ∃ t, exec .pwrEnRise s = .next t ∧ t = { s with power := t.power } ∧ t.power.pwrEn = true ∧
    t.power.held = s.power.held ∧
    (s.power.standby = true → s.power.overHigh = false → s.power.inLow = false → 1 ≤ s.power.overCycle → s.power.overCycle ≤ 2 → t.power.mains = true) ∧
    (s.power.standby = false ∨ s.power.overHigh = true ∨ s.power.inLow = true ∨ s.power.overCycle = 0 → t.power.mains = s.power.mains) := by
  let u : State := { s with power := { s.power with pwrEn := true, overCycle := if s.power.overCycle = 1 then 2 else s.power.overCycle } }
  have hcycle : u.power.overCycle = if s.power.overCycle = 1 then 2 else s.power.overCycle := rfl
  have hexec : exec .pwrEnRise s = .next (s.keep u.tryMains) := rfl
  obtain ⟨b, hb⟩ := u.tryMains_power
  have hframe := u.tryMains_eq
  refine ⟨u.tryMains, hexec.trans (congrArg _ ?_), hframe, by rw [hb], by rw [hb], fun h1 h2 h3 h4 h5 => ?_, fun h => ?_⟩
  · rw [hframe]
    rfl
  · rw [State.tryMains_on (s := u) h1 rfl h2 h3 (by rw [hcycle]; split <;> omega)]
  · have hcyc : s.power.overCycle = 0 → u.power.overCycle ≠ 2 := fun h0 => by
      rw [hcycle, h0]
      decide
    rw [State.tryMains_off (s := u) (by
      rcases h with h | h | h | h
      · exact .inl h
      · exact .inr (.inr (.inl h))
      · exact .inr (.inr (.inr (.inl h)))
      · exact .inr (.inr (.inr (.inr (hcyc h)))))]

theorem pwrgd_off (h : s.power.mains = false) : exec .pwrgd s = .next s := by
  change s.always s.powerGood = _
  rw [State.always, State.powerGood, if_neg (by simp [h]), State.keep_self]

theorem pwrgd_on (h : s.power.mains = true) : exec .pwrgd s = .next (State.tryLeave { s with power := { s.power with pwrgd := true } }) := by
  change s.always s.powerGood = _
  rw [State.always, State.powerGood, if_pos h]
  exact congrArg _ (State.keep_tryLeave rfl rfl)

theorem State.tryLeave_ends (h1 : s.power.held = true) (h2 : s.power.pwrgd = true) (h3 : s.power.resetN = true) (h4 : s.power.soft = false) :
    s.tryLeave = s.leaveReset := if_pos (by simp [h1, h2, h3, h4])

theorem State.tryLeave_stays (h : s.power.held = false ∨ s.power.pwrgd = false ∨ s.power.resetN = false ∨ s.power.soft = true) : s.tryLeave = s := by
  refine if_neg ?_
  rcases h with h | h | h | h <;> simp [h]

/-! ### The main rails fall -/

/-- The state as the main rails fall, before its power's own state. -/
def State.unpowered (s : State) : State := if s.power.held then s.resetMem false else s.fullReset 0 false

/-- CLK_RESET_CAUSE at power-up. -/
def State.causeCleared (t : State) : State :=
  ((t.setFld Reg.CLK_RESET_CAUSE 1 0 0).setFld Reg.CLK_RESET_CAUSE 23 8 0).setFld Reg.CLK_RESET_CAUSE 7 7 0

def Power.fallen (p : Power) : Power := { p with mains := false, pwrgd := false, held := true, soft := false, selfRef := 0 }

theorem State.powerDown_eq (s : State) : s.powerDown = { s.unpowered.causeCleared with power := s.unpowered.causeCleared.power.fallen } := rfl

theorem State.causeCleared_frame (t : State) : t.causeCleared = { t with regs := t.causeCleared.regs } := rfl

theorem State.causeCleared_fields (t : State) : t.causeCleared.fld Reg.CLK_RESET_CAUSE 1 0 = 0 ∧ t.causeCleared.fld Reg.CLK_RESET_CAUSE 7 7 = 0 ∧
    t.causeCleared.fld Reg.CLK_RESET_CAUSE 23 8 = 0 ∧ ∀ o, o ≠ Reg.CLK_RESET_CAUSE → t.causeCleared.reg o = t.reg o := by
  unfold State.causeCleared
  refine ⟨?_, (State.fld_setFld_self _ _ _ (by decide) (by decide)).trans (Nat.zero_mod _), ?_, fun o ho => ?_⟩
  · rw [State.fld_setFld_ne _ _ _ (by decide) (by decide) (by decide) (by decide),
      State.fld_setFld_ne _ _ _ (by decide) (by decide) (by decide) (by decide)]
    exact (State.fld_setFld_self _ _ _ (by decide) (by decide)).trans (Nat.zero_mod _)
  · rw [State.fld_setFld_ne _ _ _ (by decide) (by decide) (by decide) (by decide)]
    exact (State.fld_setFld_self _ _ _ (by decide) (by decide)).trans (Nat.zero_mod _)
  · rw [State.reg_setFld_ne _ _ _ _ ho, State.reg_setFld_ne _ _ _ _ ho, State.reg_setFld_ne _ _ _ _ ho]

/-- No line below 2^52 keeps its poison when memory is lost. -/
theorem State.resetMem_poison (s : State) (l : Nat) : (s.resetMem false).poisoned l = false ∨ 2 ^ 52 ≤ 32 * l := by
  by_cases h : 2 ^ 52 ≤ 32 * l
  · exact .inr h
  · refine .inl (mget_filter_dropped false s.poison _ fun _ => decide_eq_false ?_)
    rw [not_not]
    exact ⟨Nat.zero_le _, by omega⟩

/-- What the fall of the main rails leaves: flash, fuses, the counter, the trip and the switches that the board sets. -/
theorem State.unpowered_spec (s : State) : s.unpowered.flash = s.flash ∧ s.unpowered.fuses = s.fuses ∧ s.unpowered.pending = s.pending ∧
    (∀ l, s.unpowered.poisoned l = false ∨ 2 ^ 52 ≤ 32 * l) ∧ s.unpowered.reg Reg.CLK_TIME = s.reg Reg.CLK_TIME ∧
    s.unpowered.fld Reg.SIO_STATUS 2 2 = s.fld Reg.SIO_STATUS 2 2 ∧ s.unpowered.power.pwrEn = s.power.pwrEn ∧
    s.unpowered.power.overCycle = s.power.overCycle := by
  have hpoison := s.resetMem_poison
  unfold State.unpowered
  split
  · exact ⟨rfl, rfl, rfl, hpoison, rfl, rfl, rfl, rfl⟩
  · obtain ⟨g, hg⟩ := s.fullReset_frame 0 false
    have htime : (s.fullReset 0 false).reg Reg.CLK_TIME = s.reg Reg.CLK_TIME := State.clkTime_resetShown (s.cleared false) 0 _ false
    have htrip : (s.fullReset 0 false).fld Reg.SIO_STATUS 2 2 = s.fld Reg.SIO_STATUS 2 2 :=
      (State.sioStatus_resetShown (s.cleared false) 0 _ false).1
    rw [hg] at htime htrip ⊢
    exact ⟨rfl, rfl, rfl, hpoison, htime, htrip, rfl, rfl⟩

/-- A device without main rails, as the statement describes it. -/
def State.isDown (s t : State) : Prop := t.power.held = true ∧ t.power.mains = false ∧ t.power.pwrgd = false ∧ t.power.soft = false ∧
  t.flash = s.flash ∧ t.fuses = s.fuses ∧ t.pending = s.pending ∧ t.fld Reg.CLK_RESET_CAUSE 1 0 = 0 ∧ t.fld Reg.CLK_RESET_CAUSE 7 7 = 0 ∧
  t.fld Reg.CLK_RESET_CAUSE 23 8 = 0 ∧ t.power.selfRef = 0 ∧ (∀ l, t.poisoned l = false ∨ 2 ^ 52 ≤ 32 * l)

theorem State.powerDown_spec (s : State) : s.isDown s.powerDown ∧ s.powerDown.reg Reg.CLK_TIME = s.reg Reg.CLK_TIME ∧
    s.powerDown.fld Reg.SIO_STATUS 2 2 = s.fld Reg.SIO_STATUS 2 2 ∧ s.powerDown.power.pwrEn = s.power.pwrEn ∧
    s.powerDown.power.overCycle = s.power.overCycle := by
  obtain ⟨hflash, hfuses, hpending, hpoison, htime, htrip, hen, hcycle⟩ := s.unpowered_spec
  rw [State.powerDown_eq]
  generalize s.unpowered = u at hflash hfuses hpending hpoison htime htrip hen hcycle
  obtain ⟨h1, h2, h3, hreg⟩ := u.causeCleared_fields
  have hframe := u.causeCleared_frame
  have htime' := hreg Reg.CLK_TIME (by decide)
  have htrip' := congrArg (fget · 2 2) (hreg Reg.SIO_STATUS (by decide))
  generalize u.causeCleared.regs = g at hframe
  rw [hframe] at h1 h2 h3 htime' htrip' ⊢
  exact ⟨⟨rfl, rfl, rfl, rfl, hflash, hfuses, hpending, h1, h2, h3, rfl, hpoison⟩, htime'.trans htime, htrip'.trans htrip, hen, hcycle⟩

/-- Later changes of the switches and of registers other than CLK_RESET_CAUSE keep a device down. -/
theorem State.isDown.trans {u : State} (h : s.isDown t) (hpower : u.power.held = t.power.held ∧ u.power.mains = t.power.mains ∧
    u.power.pwrgd = t.power.pwrgd ∧ u.power.soft = t.power.soft ∧ u.power.selfRef = t.power.selfRef)
    (hrest : u.flash = t.flash ∧ u.fuses = t.fuses ∧ u.pending = t.pending ∧ u.poison = t.poison)
    (hreg : u.reg Reg.CLK_RESET_CAUSE = t.reg Reg.CLK_RESET_CAUSE) : s.isDown u := by
  obtain ⟨h1, h2, h3, h4, h5, h6, h7, h8, h9, h10, h11, h12⟩ := h
  obtain ⟨p1, p2, p3, p4, p5⟩ := hpower
  obtain ⟨r1, r2, r3, r4⟩ := hrest
  exact ⟨p1.trans h1, p2.trans h2, p3.trans h3, p4.trans h4, r1.trans h5, r2.trans h6, r3.trans h7, (congrArg (fget · 1 0) hreg).trans h8,
    (congrArg (fget · 7 7) hreg).trans h9, (congrArg (fget · 23 8) hreg).trans h10, p5.trans h11,
    fun l => (h12 l).imp_left ((congrArg (mget false · l) r4).trans ·)⟩

theorem State.keep_of_isDown (h : s.isDown t) : s.keep t = t := by
  obtain ⟨-, -, -, -, -, hfuses, hpending, -⟩ := h
  exact State.keep_of_eq hpending hfuses

theorem pwrEnFall_falls (s : State) : ∃ t, exec .pwrEnFall s = .next t ∧ s.isDown t ∧ t.power.pwrEn = false ∧ t.reg Reg.CLK_TIME = s.reg Reg.CLK_TIME ∧
    (s.power.overCycle = 0 → t.power.overCycle = 1) := by
  let u : State := { s with power := { s.power with pwrEn := false, overCycle := if s.power.overCycle = 0 then 1 else s.power.overCycle } }
  have hexec : exec .pwrEnFall s = .next (s.keep u.powerDown) := rfl
  obtain ⟨hdown, htime, -, hen, hcycle⟩ := u.powerDown_spec
  have hdown' : s.isDown u.powerDown := hdown
  exact ⟨_, hexec.trans (congrArg _ (State.keep_of_isDown hdown')), hdown', hen, htime, fun h => hcycle.trans (if_pos h)⟩

theorem inputUndervoltage_falls (s : State) : ∃ t, exec .inputUndervoltage s = .next t ∧ s.isDown t ∧ t.power.inLow = true ∧
    t.power.pwrEn = s.power.pwrEn ∧ t.reg Reg.CLK_TIME = s.reg Reg.CLK_TIME ∧ t.fld Reg.SIO_STATUS 2 2 = s.fld Reg.SIO_STATUS 2 2 := by
  obtain ⟨hdown, htime, htrip, hen, -⟩ := s.powerDown_spec
  have hexec : exec .inputUndervoltage s = .next (s.keep { s.powerDown with power := { s.powerDown.power with inLow := true } }) := rfl
  generalize s.powerDown = t at hdown htime htrip hen hexec
  have hdown' : s.isDown { t with power := { t.power with inLow := true } } := hdown.trans ⟨rfl, rfl, rfl, rfl, rfl⟩ ⟨rfl, rfl, rfl, rfl⟩ rfl
  exact ⟨_, hexec.trans (congrArg _ (State.keep_of_isDown hdown')), hdown', rfl, hen, htime, htrip⟩

theorem inputOvervoltage_falls (s : State) : ∃ t, exec .inputOvervoltage s = .next t ∧ s.isDown t ∧ t.power.overHigh = true ∧ t.power.overCycle = 0 := by
  obtain ⟨hdown, -⟩ := s.powerDown_spec
  have hexec : exec .inputOvervoltage s = .next (s.keep { s.powerDown with power := { s.powerDown.power with overHigh := true, overCycle := 0 } }) := rfl
  generalize s.powerDown = t at hdown hexec
  have hdown' : s.isDown { t with power := { t.power with overHigh := true, overCycle := 0 } } :=
    hdown.trans ⟨rfl, rfl, rfl, rfl, rfl⟩ ⟨rfl, rfl, rfl, rfl⟩ rfl
  exact ⟨_, hexec.trans (congrArg _ (State.keep_of_isDown hdown')), hdown', rfl, rfl⟩

/-! ### The end of a trip -/

theorem State.endTrip_eq (s : State) : s.endTrip = { s with regs := s.endTrip.regs, out := s.endTrip.out } := by
  unfold State.endTrip
  split <;> rfl

theorem State.endTrip_spec (s : State) : s.endTrip.fld Reg.SIO_STATUS 2 2 = 0 ∧ (∀ o, o ≠ Reg.SIO_STATUS → s.endTrip.reg o = s.reg o) ∧
    s.endTrip.out = s.out ++ (if s.fld Reg.SIO_STATUS 2 2 = 1 then [.thermtrip false] else []) := by
  have hlt : s.fld Reg.SIO_STATUS 2 2 < 2 := fget_lt _ 2 2
  unfold State.endTrip
  by_cases h : s.fld Reg.SIO_STATUS 2 2 = 1
  · have hlow : s.thermtripLow = true := beq_of_eq h
    rw [if_pos hlow, if_pos h]
    refine ⟨?_, fun o ho => (State.reg_emit _ _ _).trans (State.reg_setFld_ne _ _ _ _ ho), rfl⟩
    exact (State.fld_emitted _ _ _ _ _).trans ((State.fld_setFld_self _ _ _ (by decide) (by decide)).trans (Nat.zero_mod _))
  · have hlow : ¬ s.thermtripLow = true := fun hc => h (eq_of_beq hc)
    rw [if_neg hlow, if_neg h]
    exact ⟨by omega, fun _ _ => rfl, (List.append_nil _).symm⟩

theorem standbyLoss_falls (s : State) : ∃ t, exec .standbyLoss s = .next t ∧ s.isDown t ∧ t.power.standby = false ∧ t.reg Reg.CLK_TIME = 0 ∧
    t.fld Reg.SIO_STATUS 2 2 = 0 ∧ t.i3c = none ∧ t.i3cHeld = none := by
  obtain ⟨hdown, -⟩ := s.powerDown_spec
  have hexec : exec .standbyLoss s = .next (s.keep { (s.powerDown.setReg Reg.CLK_TIME 0).endTrip with
    pmb := 0, i3c := none, i3cHeld := none, loops := {}, power := { (s.powerDown.setReg Reg.CLK_TIME 0).endTrip.power with standby := false } }) := rfl
  generalize s.powerDown = t at hdown hexec
  have hframe := (t.setReg Reg.CLK_TIME 0).endTrip_eq
  obtain ⟨htrip, hreg, -⟩ := (t.setReg Reg.CLK_TIME 0).endTrip_spec
  have htime := (hreg Reg.CLK_TIME (by decide)).trans (State.reg_setReg_self t Reg.CLK_TIME 0)
  have hcause := (hreg Reg.CLK_RESET_CAUSE (by decide)).trans (State.reg_setReg_ne t 0 (by decide))
  generalize (t.setReg Reg.CLK_TIME 0).endTrip = u at hframe htrip htime hcause hexec
  have hdown' : s.isDown { u with pmb := 0, i3c := none, i3cHeld := none, loops := {}, power := { u.power with standby := false } } :=
    hdown.trans (by rw [hframe]; exact ⟨rfl, rfl, rfl, rfl, rfl⟩) (by rw [hframe]; exact ⟨rfl, rfl, rfl, rfl⟩) hcause
  exact ⟨_, hexec.trans (congrArg _ (State.keep_of_isDown hdown')), hdown', rfl, htime, htrip, rfl, rfl⟩

theorem thermalTripClear_kept (h : s.power.pwrEn = true) : exec .thermalTripClear s = .next s := by
  change s.always s.tripClear = _
  rw [State.always, State.tripClear, if_pos h, State.keep_self]

theorem thermalTripClear_ends (h : s.power.pwrEn = false) : ∃ t, exec .thermalTripClear s = .next t ∧ t.fld Reg.SIO_STATUS 2 2 = 0 ∧
    t = { s with regs := t.regs, out := t.out } ∧ (∀ o, o ≠ Reg.SIO_STATUS → t.reg o = s.reg o) ∧
    t.out = s.out ++ (if s.fld Reg.SIO_STATUS 2 2 = 1 then [.thermtrip false] else []) := by
  obtain ⟨htrip, hreg, hout⟩ := s.endTrip_spec
  have hexec : exec .thermalTripClear s = .next s.endTrip := by
    change s.always s.tripClear = _
    rw [State.always, State.tripClear, if_neg (by simp [h]), s.endTrip_eq]
    rfl
  exact ⟨_, hexec, htrip, s.endTrip_eq, hreg, hout⟩

/-! ### The temperature loop in reset -/

theorem thermSample_held (hheld : s.power.held = true) (hstandby : s.power.standby = true) (xs : List (Nat × Nat)) :
    ∃ t, exec (.thermSample xs) s = .next t ∧ t.loops = (s.thermSample xs).loops ∧
      t.fld Reg.SIO_STATUS 3 2 = (s.thermSample xs).fld Reg.SIO_STATUS 3 2 ∧ t = { s with regs := t.regs, loops := t.loops, out := t.out } := by
  have hlt : (s.thermSample xs).fld Reg.SIO_STATUS 3 2 < 4 := fget_lt _ 3 2
  have hset (x : Nat) (hx : x < 4) : (s.setFld Reg.SIO_STATUS 3 2 x).fld Reg.SIO_STATUS 3 2 = x :=
    (State.fld_setFld_self _ _ _ (by decide) (by decide)).trans (Nat.mod_eq_of_lt hx)
  have hexec : exec (.thermSample xs) s = s.loop (s.thermSample xs) := rfl
  unfold State.loop at hexec
  rw [if_pos hheld, if_pos hstandby] at hexec
  refine ⟨_, hexec, ?_⟩
  generalize s.thermSample xs = u at hlt
  dsimp only
  split
  · exact ⟨rfl, hset _ hlt, rfl⟩
  · exact ⟨rfl, hset _ hlt, rfl⟩

end

/-- Settles O60: each rail by its conditions, and every way down by one fall of the main rails. -/
theorem powerRails : Obligations.PowerRails := by
  unfold Obligations.PowerRails
  intro s adr
  exact ⟨standbyPower_comes s adr, pwrEnRise_rises s, pwrgd_off, pwrgd_on, State.tryLeave_ends, State.tryLeave_stays, pwrEnFall_falls s,
    inputUndervoltage_falls s, inputOvervoltage_falls s, standbyLoss_falls s, thermalTripClear_kept, thermalTripClear_ends, thermSample_held⟩

end Sys2Proof.Machine

namespace Sys2Proof.Machine

/-! ## Number formats: widening to FP32 is exact (R165) -/

theorem bitLen_eq {m k : Nat} (hlo : 2 ^ k ≤ m) (hhi : m < 2 ^ (k + 1)) : bitLen m = k + 1 := by
  have hm : m ≠ 0 := by have := Nat.two_pow_pos k; omega
  rw [bitLen, if_neg hm, (Nat.log2_eq_iff hm).mpr ⟨hlo, hhi⟩]

theorem bitLen_le {m k : Nat} (h : m < 2 ^ k) : bitLen m ≤ k := by
  unfold bitLen
  split
  · omega
  · next hm => have := (Nat.log2_lt hm).mpr h; omega

theorem roundMag_exact {t : Bool} {p m : Nat} {emin e : Int} (hm : bitLen m ≤ p) (he : emin ≤ e) : roundMag t p emin m e = (m, e) := by
  unfold roundMag
  exact if_pos (by simp only [Int.ofNat_eq_natCast]; omega)

/-- A value of at most 24 significant bits and no step below the least is encoded without rounding. -/
theorem toF32_fin {neg : Bool} {m c : Nat} {e : Int} (hm : bitLen m ≤ 24) (he : -149 ≤ e) (hc : magCode fmtF32 m e = some c) :
    toF32 (.fin neg m e) = fmtF32.signBit neg + c := by
  have hround : roundMag false (fmtF32.mb + 1) fmtF32.emin m e = (m, e) := roundMag_exact hm he
  simp only [toF32, encodeFp, narrowFp, hround, hc]

/-- The code of a magnitude below the least normal one. -/
theorem magCode_subnormal {m : Nat} {e : Int} {k : Nat} (hm : m < 2 ^ (23 - k)) (hk : k ≤ 23) (he : e = k - 149) :
    magCode fmtF32 m e = some (m * 2 ^ k) := by
  have hemin : fmtF32.emin = -149 := rfl
  have hbias : fmtF32.bias = 127 := rfl
  have hlen := bitLen_le hm
  unfold magCode
  by_cases hz : m = 0
  · simp [hz]
  · simp only [hz, if_false, hbias, Int.ofNat_eq_natCast]
    rw [if_pos (by omega), hemin, show (e - -149).toNat = k by omega]

/-- The code of a normal magnitude: `ex` its exponent field, `fr` the fraction field of a format with `23 - k` fraction bits. -/
theorem magCode_normal {fr k ex : Nat} (hfr : fr < 2 ^ (23 - k)) (hk : k ≤ 23) (hlo : 1 ≤ ex) (hhi : ex ≤ 254) {e : Int} (he : e = ex + k - 150) :
    magCode fmtF32 (2 ^ (23 - k) + fr) e = some (ex * 2 ^ 23 + fr * 2 ^ k) := by
  have hbias : fmtF32.bias = 127 := rfl
  have hmb : fmtF32.mb = 23 := rfl
  have hmax : fmtF32.maxCode = 255 * 2 ^ 23 - 1 := rfl
  have hpos := Nat.two_pow_pos (23 - k)
  have hlen : bitLen (2 ^ (23 - k) + fr) = 24 - k := by
    rw [bitLen_eq (Nat.le_add_right _ _) (by rw [Nat.pow_succ]; omega)]
    omega
  have hpow : 2 ^ (23 - k) * 2 ^ k = 2 ^ 23 := by rw [← Nat.pow_add]; congr 1; omega
  have hfr' : fr * 2 ^ k < 2 ^ 23 := by
    rw [← hpow]
    exact Nat.mul_lt_mul_of_pos_right hfr (Nat.two_pow_pos k)
  unfold magCode
  rw [if_neg (by omega), hlen, hbias, hmb, hmax]
  dsimp only
  simp only [Int.ofNat_eq_natCast]
  rw [if_neg (by omega), if_pos (show 24 - k ≤ 23 + 1 by omega), show 23 + 1 - (24 - k) = k by omega, Nat.add_mul, hpow, Nat.add_sub_cancel_left,
    show (e + ((24 - k : Nat) : Int) - 1 + ((127 : Nat) : Int)).toNat = ex by omega, if_pos (by omega)]

/-- A code of a format with FP32's exponent field and `23 - k` fraction bits widens by k zero bits. -/
theorem toF32_decode {f : Fmt} {k : Nat} (hk : k ≤ 22) (hf : f = { eb := 8, mb := 23 - k, bias := 127 }) {w : Nat} (hw : w < 2 ^ (32 - k)) :
    toF32 (decodeFp f w) = if (decodeFp f w).isNan then canonNan else w * 2 ^ k := by
  subst hf
  have hsplit : 2 ^ (32 - k) = 2 * (2 ^ 8 * 2 ^ (23 - k)) := by rw [← Nat.pow_add, ← Nat.pow_succ']; congr 1; omega
  have hsign : 2 ^ (8 + (23 - k)) = 2 ^ 8 * 2 ^ (23 - k) := Nat.pow_add _ _ _
  have hpow : 2 ^ (23 - k) * 2 ^ k = 2 ^ 23 := by rw [← Nat.pow_add]; congr 1; omega
  have hpos := Nat.two_pow_pos (23 - k)
  obtain ⟨q, fr, hfr, rfl⟩ : ∃ q fr, fr < 2 ^ (23 - k) ∧ w = q * 2 ^ (23 - k) + fr :=
    ⟨w / 2 ^ (23 - k), w % 2 ^ (23 - k), Nat.mod_lt _ hpos, (Nat.div_add_mod' _ _).symm⟩
  have hq : q < 512 := by
    by_contra hge
    have := Nat.mul_le_mul_right (2 ^ (23 - k)) (not_lt.mp hge)
    omega
  have hdiv : (q * 2 ^ (23 - k) + fr) / 2 ^ (23 - k) = q := by rw [Nat.add_comm, Nat.add_mul_div_right _ _ hpos, Nat.div_eq_of_lt hfr, Nat.zero_add]
  have hbit : bit (q * 2 ^ (23 - k) + fr) (8 + (23 - k)) = decide (256 ≤ q) := by
    rw [bit, hsign, Nat.mul_comm (2 ^ 8), ← Nat.div_div_eq_div_mul, hdiv, Bool.beq_eq_decide_eq]
    congr 1
    simp only [eq_iff_iff]
    omega
  have hbits : bits (q * 2 ^ (23 - k) + fr) (8 + (23 - k) - 1) (23 - k) = q % 256 := by
    rw [bits, hdiv, show 8 + (23 - k) - 1 + 1 - (23 - k) = 8 by omega, show 2 ^ 8 = 256 from rfl]
  have hmod : (q * 2 ^ (23 - k) + fr) % 2 ^ (23 - k) = fr := by rw [Nat.add_comm, Nat.add_mul_mod_self_right, Nat.mod_eq_of_lt hfr]
  have hmul : (q * 2 ^ (23 - k) + fr) * 2 ^ k = q * 2 ^ 23 + fr * 2 ^ k := by rw [Nat.add_mul, Nat.mul_assoc, hpow]
  have hsb (b : Bool) : fmtF32.signBit b = if b then 2 ^ 31 else 0 := rfl
  have hinf : fmtF32.infCode = 255 * 2 ^ 23 := rfl
  have hlen : fr < 2 ^ 24 := by
    have := Nat.pow_le_pow_right (n := 2) (by omega) (show 23 - k ≤ 23 by omega)
    omega
  rw [hmul]
  unfold decodeFp
  simp only [hbit, hbits, hmod]
  split
  · next htop =>
    split
    · next hz =>
      simp only [Fp.isNan, toF32, encodeFp, hsb, hinf, hz, Nat.zero_mul, decide_eq_true_eq, Bool.false_eq_true, if_false]
      split <;> omega
    · simp [Fp.isNan, toF32, encodeFp, Fmt.nanCode, fmtF32, canonNan]
  · next htop =>
    have htop : q % 256 ≠ 255 := fun h => htop ⟨trivial, h⟩
    rw [if_neg (by simp)]
    have hemin : Fmt.emin { eb := 8, mb := 23 - k, bias := 127 } = (k : Int) - 149 := by
      simp only [Fmt.emin, Int.ofNat_eq_natCast]
      omega
    split
    · next hz =>
      rw [toF32_fin (bitLen_le hlen) (by omega) (magCode_subnormal hfr (by omega) hemin), hsb]
      simp only [Fp.isNan, decide_eq_true_eq, Bool.false_eq_true, if_false]
      split <;> omega
    · next hz =>
      have hm : 2 ^ (23 - k) + fr < 2 ^ 24 := by
        have := Nat.pow_le_pow_right (n := 2) (by omega) (show 23 - k ≤ 23 by omega)
        omega
      rw [toF32_fin (bitLen_le hm) (by simp only [Int.ofNat_eq_natCast]; omega)
        (magCode_normal (ex := q % 256) hfr (by omega) (by omega) (by omega) (by simp only [hemin, Int.ofNat_eq_natCast]; omega)), hsb]
      simp only [Fp.isNan, decide_eq_true_eq, Bool.false_eq_true, if_false]
      split <;> omega

theorem toF32_ofF32 {w : Nat} (hw : w < 2 ^ 32) : toF32 (ofF32 w) = if f32isNan w then canonNan else w := by
  have h := toF32_decode (k := 0) (f := fmtF32) (by omega) rfl hw
  rwa [Nat.pow_zero, Nat.mul_one] at h

theorem isNan_decodeFp {f : Fmt} (hf : f.top = 0) (w : Nat) :
    (decodeFp f w).isNan = decide (bits w (f.eb + f.mb - 1) f.mb = 2 ^ f.eb - 1 ∧ w % 2 ^ f.mb ≠ 0) := by
  unfold decodeFp
  simp only [hf, true_and]
  split
  · next htop => split <;> simp_all [Fp.isNan]
  · next htop =>
    rw [if_neg (by simp)]
    split <;> simp [Fp.isNan, htop]

/-- The zero bits of the widened code keep a NaN a NaN. -/
theorem f32isNan_bf16 (w : Nat) : f32isNan (w * 2 ^ 16) = (decodeFp fmtBf16 w).isNan := by
  have hex : bits (w * 2 ^ 16) 30 23 = bits w 14 7 := by simp only [bits]; omega
  have hfr : w * 2 ^ 16 % 2 ^ 23 = 0 ↔ w % 2 ^ 7 = 0 := by omega
  rw [f32isNan, ofF32, isNan_decodeFp rfl, isNan_decodeFp rfl]
  exact decide_eq_decide.mpr (by simp only [fmtF32, fmtBf16, Nat.reduceAdd, Nat.reduceSub, hex, ne_eq, hfr])

theorem toF32_bf16 {w : Nat} (hw : w < 2 ^ 16) : toF32 (elemVal 0 w) = if f32isNan (w * 2 ^ 16) then canonNan else w * 2 ^ 16 := by
  rw [f32isNan_bf16]
  exact toF32_decode (k := 16) (f := fmtBf16) (by omega) rfl hw

end Sys2Proof.Machine

namespace Sys2Proof.Machine

/-! ## Exact integer products (R162) -/

/-- A float value that is the integer z, with no step below 1. -/
def Fp.isZ (x : Fp) (z : Int) : Prop := ∃ n m, x = .fin n m 0 ∧ signedAt n m 0 = z

theorem signedAt_zero (n : Bool) (m : Nat) : signedAt n m 0 = if n then -(m : Int) else m := by
  simp [signedAt]

theorem Fp.isZ_zero : Fp.zero.isZ 0 := ⟨false, 0, rfl, rfl⟩

theorem Fp.isZ_ofZ (z : Int) : (ofZ z).isZ z := by
  refine ⟨_, _, rfl, ?_⟩
  rw [signedAt_zero]
  simp only [decide_eq_true_eq]
  split <;> omega

theorem Fp.isZ.neg {x : Fp} {z : Int} (h : x.isZ z) : x.neg.isZ (-z) := by
  obtain ⟨n, m, rfl, rfl⟩ := h
  refine ⟨!n, m, rfl, ?_⟩
  rw [signedAt_zero, signedAt_zero]
  cases n <;> simp

theorem Fp.isZ.mul {x y : Fp} {z w : Int} (hx : x.isZ z) (hy : y.isZ w) : (x.mul y).isZ (z * w) := by
  obtain ⟨n, m, rfl, rfl⟩ := hx
  obtain ⟨n', m', rfl, rfl⟩ := hy
  refine ⟨n != n', m * m', rfl, ?_⟩
  simp only [signedAt_zero]
  cases n <;> cases n' <;> simp

theorem Fp.isZ.add {x y : Fp} {z w : Int} (hx : x.isZ z) (hy : y.isZ w) : (x.add y).isZ (z + w) := by
  obtain ⟨n, m, rfl, rfl⟩ := hx
  obtain ⟨n', m', rfl, rfl⟩ := hy
  unfold Fp.add
  dsimp only
  split_ifs with h0 hm hm'
  · refine ⟨_, _, rfl, ?_⟩
    obtain ⟨rfl, rfl⟩ := h0
    simp [signedAt_zero]
  · refine ⟨_, _, rfl, ?_⟩
    subst hm
    simp [signedAt_zero]
  · refine ⟨_, _, rfl, ?_⟩
    subst hm'
    simp [signedAt_zero]
  · refine ⟨_, _, rfl, ?_⟩
    rw [signedAt_zero]
    simp only [min_self, sub_self, Int.toNat_zero, decide_eq_true_eq]
    split <;> omega

theorem Fp.isZ_sum : ∀ {xs : List Fp} {zs : List Int} {x : Fp} {z : Int}, x.isZ z → List.Forall₂ Fp.isZ xs zs → (xs.foldl Fp.add x).isZ (z + zs.sum)
  | [], [], x, z, h, _ => by simpa using h
  | y :: xs, w :: zs, x, z, h, .cons hy hr => by
    rw [List.foldl_cons, List.sum_cons, ← add_assoc]
    exact Fp.isZ_sum (h.add hy) hr

/-- The value of an S8 code. -/
theorem isZ_elemVal8 (x : Nat) : (elemVal 8 x).isZ (if 128 ≤ x % 256 then Int.ofNat (x % 256) - 256 else Int.ofNat (x % 256)) := by
  have hint : (if 128 ≤ x % 256 then Int.ofNat (x % 256) - 256 else Int.ofNat (x % 256)) = asInt 8 x := by
    simp only [asInt, Nat.reducePow, Int.ofNat_eq_natCast]
    split <;> split <;> omega
  rw [hint]
  exact Fp.isZ_ofZ _

theorem isZ_products (f : Nat → Int) (hf : ∀ x, (elemVal 8 x).isZ (f x)) (neg : Bool) : ∀ (a b : List Nat),
    List.Forall₂ Fp.isZ (products neg (a.map (elemVal 8)) (b.map (elemVal 8)))
      (List.zipWith (fun x y => if neg then -(f x * f y) else f x * f y) a b)
  | [], _ => by simp [products]
  | _ :: _, [] => by simp [products]
  | x :: a, y :: b => by
    refine .cons ?_ (isZ_products f hf neg a b)
    cases neg
    · exact (hf x).mul (hf y)
    · exact ((hf x).mul (hf y)).neg

theorem sum_zipWith_neg (f : Nat → Int) : ∀ (a b : List Nat),
    (List.zipWith (fun x y => -(f x * f y)) a b).sum = -(List.zipWith (fun x y => f x * f y) a b).sum
  | [], _ => by simp
  | _ :: _, [] => by simp
  | x :: a, y :: b => by
    rw [List.zipWith_cons_cons, List.sum_cons, sum_zipWith_neg f a b, List.zipWith_cons_cons, List.sum_cons, neg_add]

/-- A saturated result: its pattern, and whether it saturated. -/
theorem satInt_spec (z : Int) :
    (2 ^ 31 - 1 < z → (satInt z).1 = 2 ^ 31 - 1 ∧ (satInt z).2 = true) ∧ (z < -(2 ^ 31 - 1) → (satInt z).1 = 2 ^ 31 + 1 ∧ (satInt z).2 = true) ∧
      (-(2 ^ 31 - 1) ≤ z → z ≤ 2 ^ 31 - 1 → Int.ofNat (satInt z).1 = z % 2 ^ 32 ∧ (satInt z).2 = false) := by
  have hint (w : Int) : ofInt 32 w = (w % 2 ^ 32).toNat := rfl
  unfold satInt
  dsimp only
  refine ⟨fun h => ?_, fun h => ?_, fun hlo hhi => ?_⟩
  · rw [if_pos (by omega)]
    exact ⟨rfl, rfl⟩
  · rw [if_neg (by omega), if_pos (by omega)]
    exact ⟨rfl, rfl⟩
  · rw [if_neg (by omega), if_neg (by omega)]
    exact ⟨by rw [hint, Int.ofNat_eq_natCast]; omega, rfl⟩

/-- The new element of an integer product, from the exact sum of the products. -/
theorem intElem_of_isZ {acc neg : Bool} {old : Nat} {a b : List Fp} {z : Int} (h : ((products neg a b).foldl Fp.add .zero).isZ z) :
    intElem acc neg old a b = if acc = true ∧ old = 0x80000000 then (0x80000000, false, true)
      else ((satInt ((if acc then asInt 32 old else 0) + z)).1, (satInt ((if acc then asInt 32 old else 0) + z)).2, false) := by
  obtain ⟨n, m, he, rfl⟩ := h
  have hround : roundToInt true n m 0 = signedAt n m 0 := by simp [roundToInt, signedAt]
  unfold intElem
  rw [he]
  dsimp only
  rw [hround]
  cases acc
  · simp
  · by_cases hp : old = 0x80000000 <;> simp [poisonInt, hp]

theorem intElem_exact (acc neg : Bool) (old : Nat) (a b : List Nat) (hold : old < 2 ^ 32) (_hlen : a.length = b.length) :
    let sgn (x : Nat) : Int := if 128 ≤ x % 256 then Int.ofNat (x % 256) - 256 else Int.ofNat (x % 256)
    let dot : Int := (List.zipWith (fun x y => sgn x * sgn y) a b).sum
    let z : Int := (if acc then (if 2 ^ 31 ≤ old then Int.ofNat old - 2 ^ 32 else Int.ofNat old) else 0) + (if neg then -dot else dot)
    let w := intElem acc neg old (a.map (elemVal 8)) (b.map (elemVal 8))
    if acc = true ∧ old = 0x80000000 then w = (0x80000000, false, true)
    else w.2.2 = false ∧ (2 ^ 31 - 1 < z → w.1 = 2 ^ 31 - 1 ∧ w.2.1 = true) ∧ (z < -(2 ^ 31 - 1) → w.1 = 2 ^ 31 + 1 ∧ w.2.1 = true) ∧
      (-(2 ^ 31 - 1) ≤ z → z ≤ 2 ^ 31 - 1 → Int.ofNat w.1 = z % 2 ^ 32 ∧ w.2.1 = false) := by
  intro sgn dot z w
  have hsum := Fp.isZ_sum Fp.isZ_zero (isZ_products sgn isZ_elemVal8 neg a b)
  have hdot : 0 + (List.zipWith (fun x y => if neg then -(sgn x * sgn y) else sgn x * sgn y) a b).sum = if neg then -dot else dot := by
    cases neg
    · simp [dot]
    · simp only [if_true, sum_zipWith_neg, zero_add, dot]
  have hold : asInt 32 old = if 2 ^ 31 ≤ old then Int.ofNat old - 2 ^ 32 else Int.ofNat old := by
    simp only [asInt, Int.ofNat_eq_natCast]
    split <;> split <;> omega
  rw [hdot] at hsum
  have hw : w = _ := intElem_of_isZ (acc := acc) (old := old) hsum
  rw [hold] at hw
  split
  · next hpoison => rw [hw, if_pos hpoison]
  · next hpoison =>
    rw [hw, if_neg hpoison]
    exact ⟨rfl, satInt_spec z⟩

end Sys2Proof.Machine

namespace Sys2Proof.Machine

/-! ## Rows of core-local memory: what a record reads and writes -/

/-- Two ranges share no byte. -/
def rangesApart (u v : Nat × Nat) : Prop := u.1 + u.2 ≤ v.1 ∨ v.1 + v.2 ≤ u.1

/-- The first range lies in the second. -/
def rangeWithin (u v : Nat × Nat) : Prop := v.1 ≤ u.1 ∧ u.1 + u.2 ≤ v.1 + v.2

theorem rangesApart.symm {u v : Nat × Nat} (h : rangesApart u v) : rangesApart v u := Or.symm h

theorem rangesApart.within {u v u' v' : Nat × Nat} (h : rangesApart u v) (hu : rangeWithin u' u) (hv : rangeWithin v' v) : rangesApart u' v' := by
  unfold rangesApart rangeWithin at *
  omega

/-- Two rows of a block. -/
theorem rangesApart_rows {i j a stride l l' : Nat} (hij : i ≠ j) (h : l ≤ stride) (h' : l' ≤ stride) :
    rangesApart (a + i * stride, l) (a + j * stride, l') := by
  rcases Nat.lt_or_gt_of_ne hij with hlt | hlt
  · have := Nat.mul_le_mul_right stride (Nat.succ_le_of_lt hlt)
    rw [Nat.succ_mul] at this
    exact .inl (by simp only; omega)
  · have := Nat.mul_le_mul_right stride (Nat.succ_le_of_lt hlt)
    rw [Nat.succ_mul] at this
    exact .inr (by simp only; omega)

/-- A row of a block lies in the block. -/
theorem rangeWithin_row {i rows a stride l : Nat} (hi : i < rows) (h : l ≤ stride) : rangeWithin (a + i * stride, l) (a, rows * stride) := by
  have := Nat.mul_le_mul_right stride (Nat.succ_le_of_lt hi)
  rw [Nat.succ_mul] at this
  exact ⟨Nat.le_add_right _ _, by simp only; omega⟩

/-- The range of a write. -/
def writeRange (w : Nat × List Byte) : Nat × Nat := (w.1, w.2.length)

/-- Memory after some writes, in their order. -/
def Memory.setAll (m : Memory) (ws : List (Nat × List Byte)) : Memory := ws.foldl (fun m w => m.setBytes w.1 w.2) m

theorem Memory.setAll_append (m : Memory) (v w : List (Nat × List Byte)) : m.setAll (v ++ w) = (m.setAll v).setAll w := List.foldl_append

theorem Memory.bytes_setAll_apart {a len : Nat} : ∀ {ws : List (Nat × List Byte)} (m : Memory), (∀ w ∈ ws, rangesApart (a, len) (writeRange w)) →
    (m.setAll ws).bytes a len = m.bytes a len
  | [], _, _ => rfl
  | w :: ws, m, h => by
    rw [List.forall_mem_cons] at h
    exact (Memory.bytes_setAll_apart _ h.2).trans (Memory.bytes_setBytes_apart m h.1)

/-- Writes that are apart are all read back. -/
theorem Memory.bytes_setAll_mem : ∀ {ws : List (Nat × List Byte)} (m : Memory), ws.Pairwise (fun v w => rangesApart (writeRange v) (writeRange w)) →
    ∀ w ∈ ws, (m.setAll ws).bytes w.1 w.2.length = w.2
  | v :: ws, m, h, w, hw => by
    rw [List.pairwise_cons] at h
    rcases List.mem_cons.mp hw with rfl | hw
    · exact (Memory.bytes_setAll_apart (m.setBytes w.1 w.2) h.1).trans (Memory.bytes_setBytes m w.1 w.2)
    · exact Memory.bytes_setAll_mem (m.setBytes v.1 v.2) h.2 w hw

/-- The writes of the first n rows. -/
def rowWrites (out : Nat → List (Nat × List Byte)) (n : Nat) : List (Nat × List Byte) := (List.range n).flatMap out

theorem rowWrites_succ (out : Nat → List (Nat × List Byte)) (n : Nat) : rowWrites out (n + 1) = rowWrites out n ++ out n := by
  simp [rowWrites, List.range_succ]

theorem mem_rowWrites {out : Nat → List (Nat × List Byte)} {n : Nat} {w : Nat × List Byte} : w ∈ rowWrites out n ↔ ∃ i < n, w ∈ out i := by
  simp [rowWrites]

/-- The writes of n rows lie in these ranges, and no two of the ranges share a byte. -/
structure RowPlan (out : Nat → List (Nat × List Byte)) (ranges : Nat → List (Nat × Nat)) (n : Nat) : Prop where
  ranges_eq : ∀ i < n, (out i).map writeRange = ranges i
  row : ∀ i < n, (ranges i).Pairwise rangesApart
  rows : ∀ i j, i < j → j < n → ∀ u ∈ ranges i, ∀ v ∈ ranges j, rangesApart u v

section Plan

variable {out : Nat → List (Nat × List Byte)} {ranges : Nat → List (Nat × Nat)} {n i a : Nat}

theorem RowPlan.mem_ranges (h : RowPlan out ranges n) (hi : i < n) {w : Nat × List Byte} (hw : w ∈ out i) : writeRange w ∈ ranges i := by
  rw [← h.ranges_eq i hi]
  exact List.mem_map_of_mem hw

/-- Before row i a range that is apart from the earlier rows is as it was. -/
theorem RowPlan.bytes_before (h : RowPlan out ranges n) (hi : i ≤ n) (m : Memory) {len : Nat} (ha : ∀ j < i, ∀ r ∈ ranges j, rangesApart (a, len) r) :
    (m.setAll (rowWrites out i)).bytes a len = m.bytes a len :=
  Memory.bytes_setAll_apart m fun w hw => by
    obtain ⟨j, hj, hw⟩ := mem_rowWrites.mp hw
    exact ha j hj _ (h.mem_ranges (by omega) hw)

/-- What a row wrote is read after all rows. -/
theorem RowPlan.bytes_after (h : RowPlan out ranges n) (hi : i < n) (m : Memory) {w : Nat × List Byte} (hw : w ∈ out i) :
    (m.setAll (rowWrites out n)).bytes w.1 w.2.length = w.2 := by
  refine Memory.bytes_setAll_mem m ?_ w (mem_rowWrites.mpr ⟨i, hi, hw⟩)
  rw [rowWrites, List.pairwise_flatMap]
  constructor
  · intro j hj
    have hrow := h.row j (List.mem_range.mp hj)
    rwa [← h.ranges_eq j (List.mem_range.mp hj), List.pairwise_map] at hrow
  · refine List.Pairwise.imp_of_mem ?_ (List.pairwise_lt_range (n := n))
    intro j k _ hk hjk v hv u hu
    have hk := List.mem_range.mp hk
    exact h.rows j k hjk hk _ (h.mem_ranges (by omega) hv) _ (h.mem_ranges hk hu)

end Plan

theorem setAll_rowWrites_succ (m : Memory) (out : Nat → List (Nat × List Byte)) (i : Nat) :
    m.setAll (rowWrites out (i + 1)) = (m.setAll (rowWrites out i)).setAll (out i) := by rw [rowWrites_succ, Memory.setAll_append]

/-- The state has gone on from s over quiet core-local memory: memory is now m, and the tiles are those of s. -/
structure State.ranLocal (s : State) (m : Memory) (t : State) : Prop where
  quiet : t.localQuiet
  mem : t.mem = m
  mats : t.mats = s.mats

section Ran

variable {s t : State} {m : Memory} {n a : Nat}

theorem State.ranLocal_self (h : s.localQuiet) : s.ranLocal s.mem s := ⟨h, rfl, rfl⟩

theorem State.ranLocal.of_eq {u : State} (h : s.ranLocal m t) (henv : u.env = t.env) (hpoison : u.poison = t.poison) (hbias : u.bias = t.bias)
    (hmem : u.mem = t.mem) (hmats : u.mats = t.mats) : s.ranLocal m u :=
  ⟨h.quiet.of_eq henv hpoison hbias, hmem.trans h.mem, hmats.trans h.mats⟩

theorem State.ranLocal.count (h : s.ranLocal m t) (o x : Nat) : s.ranLocal m (t.count o x) :=
  h.of_eq (by simp) (by simp) (by simp) (by simp) (by simp)

theorem State.ranLocal.raise (h : s.ranLocal m t) (o i c lo : Nat) : s.ranLocal m (t.raise o i c lo) :=
  h.of_eq (by simp) (by simp) (by simp) (by simp) (by simp)

theorem State.ranLocal.attFlagIf (h : s.ranLocal m t) (n i : Nat) (b : Bool) : s.ranLocal m (t.attFlagIf n i b) := by
  unfold State.attFlagIf State.attFlag
  split
  · split
    · exact h.raise _ _ _ _
    · exact h.raise _ _ _ _
  · exact h

theorem State.ranLocal.read (h : s.ranLocal m t) (hn : n < 128) {len : Nat} (hr : localOrEmpty n a len) (src : Src) :
    t.readMem src a len = (t, ⟨m.bytes a len, [], none⟩) := by
  rcases hr with rfl | hr
  · have hbad : t.rangeBad a 0 = none := by
      unfold State.rangeBad State.holeIn State.firstBad
      split <;> simp
    simp [State.readMem, State.readMemBy, hbad, State.readPast, State.requestsBy, State.cutReqs, State.snoopRange, Memory.bytes]
  · rw [State.readMem_local h.quiet hn hr, h.mem]

theorem State.ranLocal.write (h : s.ranLocal m t) (hn : n < 128) {b : List Byte} (hr : localOrEmpty n a b.length) (src : Src) :
    t.writeMem src a b = (t.setMem (m.setBytes a b), none) := by
  rw [State.writeMem_localOrEmpty h.quiet hn hr, h.mem]

theorem State.ranLocal.setMem (h : s.ranLocal m t) (m' : Memory) : s.ranLocal m' (t.setMem m') := ⟨h.quiet.setMem m', rfl, h.mats⟩

end Ran

/-- Rows of 16 bytes, as the statistics of an attention record are. -/
theorem rangesApart_stats {i j a : Nat} (hij : i ≠ j) : rangesApart (a + 16 * i, 16) (a + 16 * j, 16) := by
  rw [Nat.mul_comm 16, Nat.mul_comm 16]
  exact rangesApart_rows hij le_rfl le_rfl

theorem rangeWithin_stats {i rows a : Nat} (hi : i < rows) : rangeWithin (a + 16 * i, 16) (a, rows * 16) := by
  rw [Nat.mul_comm 16]
  exact rangeWithin_row hi le_rfl

theorem mem_rowRanges {a stride len rows i : Nat} (hi : i < rows) : (a + i * stride, len) ∈ rowRanges a stride len rows :=
  List.mem_map.mpr ⟨i, List.mem_range.mpr hi, rfl⟩

/-- The ranges that a placement check has found good. -/
theorem localOrEmpty_of_firstOutside {n : Nat} {l : List (Nat × Nat)} (h : firstOutside n l = none) {a len : Nat} (hr : (a, len) ∈ l) :
    localOrEmpty n a len := outside_eq_none.mp (firstOutside_eq_none.mp h (a, len) hr)

end Sys2Proof.Machine

namespace Sys2Proof.Machine

/-! ## Rows of the attention records -/

theorem mul_le_stridePacked (cols size : Nat) : cols * size ≤ stridePacked cols size := by
  unfold stridePacked ceilDiv
  omega

theorem le_strideF32 (cols : Nat) : 4 * cols ≤ strideF32 cols := by
  unfold strideF32 ceilDiv
  omega

/-- The lengths of packed codes of whole bytes. -/
theorem length_pack {t : Nat} (h : t ∈ [0, 1, 2, 4, 5, 8, 9, 0xD]) (codes : List Nat) : (pack t codes).length = codes.length * srcBytes t := by
  simp only [List.mem_cons, List.not_mem_nil, or_false] at h
  rcases h with rfl | rfl | rfl | rfl | rfl | rfl | rfl | rfl <;>
    simp [pack, typeBits, srcBytes, length_flatMap_const _ _ (length_toLe _), Nat.mul_comm]

theorem length_unpack (t k : Nat) (b : List Byte) : (unpack t k b).length = k := by
  unfold unpack
  split <;> simp

theorem RowAcc.write_local {s : State} {m : Memory} {a : RowAcc} (h : s.ranLocal m a.s) (herr : a.werr = none) {n addr : Nat} (hn : n < 128) {b : List Byte}
    (hr : localOrEmpty n addr b.length) :
    s.ranLocal (m.setBytes addr b) (a.write n addr b).s ∧ (a.write n addr b).werr = none := by
  unfold RowAcc.write
  rw [h.write hn hr]
  exact ⟨h.setMem _, by rw [herr]; rfl⟩

/-- A record whose every row succeeds ends with OK, and leaves the writes of its rows. -/
theorem attRows_eq {c : Ctx} {row : Nat → RowAcc → RowAcc × Option (Nat × Nat)} {s : State} {out : Nat → List (Nat × List Byte)} {rows : Nat}
    (hrow : ∀ i < rows, ∀ a : RowAcc, s.ranLocal (s.mem.setAll (rowWrites out i)) a.s → a.werr = none →
      ∃ a', row i a = (a', none) ∧ s.ranLocal (s.mem.setAll (rowWrites out (i + 1))) a'.s ∧ a'.werr = none) :
    ∀ (left i : Nat) (a : RowAcc), i + left = rows → s.ranLocal (s.mem.setAll (rowWrites out i)) a.s → a.werr = none →
      (attRows c row left i a).2 = .ended stOk 0 ∧ (attRows c row left i a).1.mem = s.mem.setAll (rowWrites out rows)
  | 0, i, a, hi, hs, herr => by
    rw [attRows, herr, ← hi]
    exact ⟨rfl, hs.mem⟩
  | left + 1, i, a, hi, hs, herr => by
    obtain ⟨a', hstep, hs', herr'⟩ := hrow i (by omega) a hs herr
    rw [attRows, hstep]
    exact attRows_eq hrow left (i + 1) a' (by omega) hs' herr'

/-- A record whose every row succeeds leaves what its rows wrote. -/
theorem attRows_local {c : Ctx} {row : Nat → RowAcc → RowAcc × Option (Nat × Nat)} {s : State} {out : Nat → List (Nat × List Byte)}
    {ranges : Nat → List (Nat × Nat)} {rows : Nat} (hq : s.localQuiet) (hplan : RowPlan out ranges rows)
    (hrow : ∀ i < rows, ∀ a : RowAcc, s.ranLocal (s.mem.setAll (rowWrites out i)) a.s → a.werr = none →
      ∃ a', row i a = (a', none) ∧ s.ranLocal ((s.mem.setAll (rowWrites out i)).setAll (out i)) a'.s ∧ a'.werr = none) :
    (attRows c row rows 0 { s }).2 = .ended stOk 0 ∧
      ∀ i < rows, ∀ w ∈ out i, (attRows c row rows 0 { s }).1.mem.bytes w.1 w.2.length = w.2 := by
  simp only [← setAll_rowWrites_succ] at hrow
  obtain ⟨hend, hmem⟩ := attRows_eq (c := c) hrow rows 0 { s } (Nat.zero_add _) (State.ranLocal_self hq) rfl
  exact ⟨hend, fun i hi w hw => by rw [hmem]; exact hplan.bytes_after hi s.mem hw⟩

/-! ## The mask of a row -/

/-- Where the bitmap rows of a mask lie. -/
def maskArea (x : AttCtx) (b rows cols : Nat) : Nat × Nat := (b, if bit x.mode 2 then maskLen x cols else rows * strideMask x.mode cols)

theorem rangeWithin_mask {x : AttCtx} {b rows cols i : Nat} (hi : i < rows) :
    rangeWithin (b + i * strideMask x.mode cols, maskLen x cols) (maskArea x b rows cols) := by
  unfold maskArea
  split
  · next hb => simp [strideMask, hb, rangeWithin]
  · next hb =>
    refine rangeWithin_row hi ?_
    simp only [strideMask, hb, maskLen, ceilDiv]
    split
    · simp only [Bool.false_eq_true, if_false]
      omega
    · simp

theorem length_maskRow (x : AttCtx) (qpos kpos cols i : Nat) (bm : List Byte) : (maskRow x qpos kpos cols i bm).length = cols := by simp [maskRow]

/-! ## ASOFT (R219, R220) -/

theorem length_softRow {x : AttCtx} {st : RowStat} {mask : List Bool} {scores : List Nat} (h : mask.length = scores.length) :
    (softRow x st mask scores).p.length = scores.length := by
  unfold softRow
  dsimp only
  split
  · simp
  · split_ifs <;> simp [h]

theorem length_statBytes (x : RowStat) : x.bytes.length = 16 := by simp [RowStat.bytes, length_toLe]

/-- The result of row i of an ASOFT over a memory. -/
def asoftRes (x : AttCtx) (y : AsoftFields) (m : Memory) (i : Nat) : SoftRow :=
  softRow x (if y.first then { m := negInf, l := 0, aux := 0, nan := false } else statOf (m.bytes (y.ta + 16 * i) 16))
    (maskRow x y.qpos y.kpos y.cols i (m.bytes (y.ba + i * strideMask x.mode y.cols) (maskLen x y.cols)))
    (unpack 2 y.cols (m.bytes (y.sa + i * strideF32 y.cols) (4 * y.cols)))

/-- What row i of an ASOFT writes. -/
def asoftOut (x : AttCtx) (y : AsoftFields) (m : Memory) (i : Nat) : List (Nat × List Byte) :=
  [(y.pa + i * stridePacked y.cols (srcBytes x.ptype), pack x.ptype (asoftRes x y m i).p), (y.ta + 16 * i, (asoftRes x y m i).stat.bytes)]

theorem asoftFail_ranges {c : Ctx} {s : State} (h : asoftFail c s = none) :
    let x := (s.attContext c.core).getD {}
    let y := asoftFields c.item
    firstOutside c.core (rowRanges y.sa (strideF32 y.cols) (4 * y.cols) y.rows
      ++ rowRanges y.pa (stridePacked y.cols (srcBytes x.ptype)) (y.cols * srcBytes x.ptype) y.rows
      ++ [(y.ta, 16 * y.rows)] ++ rowRanges y.ba (strideMask x.mode y.cols) (maskLen x y.cols) y.rows) = none := by
  unfold asoftFail at h
  dsimp only at h
  split at h
  · cases h
  · split at h
    · cases h
    · next hx =>
      split at h
      · cases h
      · rw [hx]
        exact Option.map_eq_none_iff.mp h

/-- Row i of an ASOFT where no read of it meets an error. -/
theorem asoftRow_of_reads {c : Ctx} {x : AttCtx} {i : Nat} {a : RowAcc} {m : Memory}
    (hs : a.s.readMem (srcCore c.core) ((asoftFields c.item).sa + i * strideF32 (asoftFields c.item).cols) (4 * (asoftFields c.item).cols) =
      (a.s, ⟨m.bytes ((asoftFields c.item).sa + i * strideF32 (asoftFields c.item).cols) (4 * (asoftFields c.item).cols), [], none⟩))
    (ht : a.s.readMem (srcCore c.core) ((asoftFields c.item).ta + 16 * i) 16 = (a.s, ⟨m.bytes ((asoftFields c.item).ta + 16 * i) 16, [], none⟩))
    (hb : a.s.readMem (srcCore c.core) ((asoftFields c.item).ba + i * strideMask x.mode (asoftFields c.item).cols) (maskLen x (asoftFields c.item).cols) =
      (a.s, ⟨m.bytes ((asoftFields c.item).ba + i * strideMask x.mode (asoftFields c.item).cols) (maskLen x (asoftFields c.item).cols), [], none⟩)) :
    asoftRow c x i a =
      (let y := asoftFields c.item
       let res := asoftRes x y m i
       ((RowAcc.write { a with s := (a.s.attFlagIf c.core 1 res.newNan).attFlagIf c.core 2 res.newInf } c.core
          (y.pa + i * stridePacked y.cols (srcBytes x.ptype)) (pack x.ptype res.p)).write c.core (y.ta + 16 * i) res.stat.bytes, none)) := by
  unfold asoftRow asoftRes
  dsimp only
  rw [hs]
  dsimp only
  split
  · next hfirst => rw [hb]; rfl
  · next hfirst => rw [ht]; dsimp only; rw [hb]; rfl

/-- Where row i of an ASOFT writes. -/
def asoftRanges (x : AttCtx) (y : AsoftFields) (i : Nat) : List (Nat × Nat) :=
  [(y.pa + i * stridePacked y.cols (srcBytes x.ptype), y.cols * srcBytes x.ptype), (y.ta + 16 * i, 16)]

section Asoft

variable {x : AttCtx} {y : AsoftFields} (hptype : x.ptype ∈ [0, 1, 4, 5])
  (hin : ∀ u ∈ [(y.pa, y.rows * stridePacked y.cols (srcBytes x.ptype)), (y.ta, y.rows * 16)],
    ∀ v ∈ [(y.sa, y.rows * strideF32 y.cols), maskArea x y.ba y.rows y.cols], rangesApart u v)
  (hout : rangesApart (y.pa, y.rows * stridePacked y.cols (srcBytes x.ptype)) (y.ta, y.rows * 16))

include hptype in
theorem length_asoftRow (m : Memory) (i : Nat) : (pack x.ptype (asoftRes x y m i).p).length = y.cols * srcBytes x.ptype := by
  have hres : (asoftRes x y m i).p.length = y.cols := by
    rw [asoftRes, length_softRow (by rw [length_maskRow, length_unpack]), length_unpack]
  rw [length_pack (by revert hptype; simp only [List.mem_cons, List.not_mem_nil, or_false]; omega), hres]

include hptype hout in
theorem asoftOut_plan (m : Memory) : RowPlan (asoftOut x y m) (asoftRanges x y) y.rows where
  ranges_eq i _ := by simp [asoftOut, asoftRanges, writeRange, length_asoftRow hptype, length_statBytes]
  row i hi := by
    have := hout.within (rangeWithin_row hi (mul_le_stridePacked _ _)) (rangeWithin_stats hi)
    simpa [asoftRanges] using this
  rows i j hij hj := by
    simp only [asoftRanges, List.forall_mem_cons, List.not_mem_nil, false_implies, implies_true, and_true]
    exact ⟨⟨rangesApart_rows (by omega) (mul_le_stridePacked _ _) (mul_le_stridePacked _ _),
        hout.within (rangeWithin_row (by omega) (mul_le_stridePacked _ _)) (rangeWithin_stats hj)⟩,
      (hout.within (rangeWithin_row hj (mul_le_stridePacked _ _)) (rangeWithin_stats (by omega))).symm, rangesApart_stats (by omega)⟩

include hptype hin hout in
/-- What row i reads the earlier rows have not written. -/
theorem asoftRes_before (m : Memory) {i : Nat} (hi : i < y.rows) : asoftRes x y (m.setAll (rowWrites (asoftOut x y m) i)) i = asoftRes x y m i := by
  simp only [List.forall_mem_cons] at hin
  obtain ⟨⟨hps, hpb, -⟩, ⟨hts, htb, -⟩, -⟩ := hin
  have hsrc {a len : Nat} (hp : ∀ j < i, rangesApart (y.pa + j * stridePacked y.cols (srcBytes x.ptype), y.cols * srcBytes x.ptype) (a, len))
      (ht : ∀ j < i, rangesApart (y.ta + 16 * j, 16) (a, len)) :
      (m.setAll (rowWrites (asoftOut x y m) i)).bytes a len = m.bytes a len :=
    (asoftOut_plan hptype hout m).bytes_before hi.le m fun j hj => by
      simp only [asoftRanges, List.forall_mem_cons, List.not_mem_nil, false_implies, implies_true, and_true]
      exact ⟨(hp j hj).symm, (ht j hj).symm⟩
  have hp (j : Nat) (hj : j < i) := rangeWithin_row (a := y.pa) (hj.trans hi) (mul_le_stridePacked y.cols (srcBytes x.ptype))
  have ht (j : Nat) (hj : j < i) := rangeWithin_stats (a := y.ta) (hj.trans hi)
  unfold asoftRes
  rw [hsrc (a := y.ta + 16 * i) (fun j hj => hout.within (hp j hj) (rangeWithin_stats hi)) (fun j hj => rangesApart_stats (by omega)),
    hsrc (fun j hj => hpb.within (hp j hj) (rangeWithin_mask hi)) (fun j hj => htb.within (ht j hj) (rangeWithin_mask hi)),
    hsrc (fun j hj => hps.within (hp j hj) (rangeWithin_row hi (le_strideF32 _)))
      (fun j hj => hts.within (ht j hj) (rangeWithin_row hi (le_strideF32 _)))]

include hptype hin hout in
/-- What an ASOFT writes, where no area it writes meets one that it reads. -/
theorem asoftWork_rows {c : Ctx} {s : State} (hn : c.core < 128) (hq : s.localQuiet) (hfail : asoftFail c s = none)
    (hx : x = (s.attContext c.core).getD {}) (hy : y = asoftFields c.item) :
    (asoftWork c s).2 = .ended stOk 0 ∧ ∀ i < y.rows,
      (asoftWork c s).1.mem.bytes (y.pa + i * stridePacked y.cols (srcBytes x.ptype)) (y.cols * srcBytes x.ptype) = pack x.ptype (asoftRes x y s.mem i).p ∧
      (asoftWork c s).1.mem.bytes (y.ta + 16 * i) 16 = (asoftRes x y s.mem i).stat.bytes := by
  have hranges := asoftFail_ranges hfail
  simp only [← hx, ← hy] at hranges
  have hwork : asoftWork c s = attRows c (asoftRow c x) y.rows 0 { s } := by rw [hx, hy]; rfl
  rw [hwork]
  obtain ⟨hend, hwrote⟩ := attRows_local (c := c) (row := asoftRow c x) hq (asoftOut_plan hptype hout s.mem) fun i hi a hs herr => by
    have hstat : localOrEmpty c.core (y.ta + 16 * i) 16 :=
      (localOrEmpty_of_firstOutside hranges (a := y.ta) (len := 16 * y.rows) (by simp)).sub (Nat.le_add_right _ _) (by omega)
    have hprob := localOrEmpty_of_firstOutside hranges (List.mem_append_left _ (List.mem_append_left _ (List.mem_append_right _
      (mem_rowRanges (a := y.pa) (stride := stridePacked y.cols (srcBytes x.ptype)) (len := y.cols * srcBytes x.ptype) hi))))
    have hscore := localOrEmpty_of_firstOutside hranges (List.mem_append_left _ (List.mem_append_left _ (List.mem_append_left _
      (mem_rowRanges (a := y.sa) (stride := strideF32 y.cols) (len := 4 * y.cols) hi))))
    have hmask := localOrEmpty_of_firstOutside hranges (List.mem_append_right _
      (mem_rowRanges (a := y.ba) (stride := strideMask x.mode y.cols) (len := maskLen x y.cols) hi))
    have hstep := asoftRow_of_reads (c := c) (x := x) (i := i) (a := a) (m := s.mem.setAll (rowWrites (asoftOut x y s.mem) i))
      (by rw [← hy]; exact hs.read hn hscore _) (by rw [← hy]; exact hs.read hn hstat _) (by rw [← hy]; exact hs.read hn hmask _)
    simp only [← hy, asoftRes_before hptype hin hout s.mem hi] at hstep
    refine ⟨_, hstep, ?_⟩
    obtain ⟨hs1, herr1⟩ := RowAcc.write_local (a := { a with s := _ }) ((hs.attFlagIf c.core 1 (asoftRes x y s.mem i).newNan).attFlagIf c.core 2
      (asoftRes x y s.mem i).newInf) herr hn (b := pack x.ptype (asoftRes x y s.mem i).p) (by rw [length_asoftRow hptype]; exact hprob)
    exact RowAcc.write_local hs1 herr1 hn (by rw [length_statBytes]; exact hstat)
  refine ⟨hend, fun i hi => ⟨?_, ?_⟩⟩
  · have hp := hwrote i hi _ List.mem_cons_self
    rwa [length_asoftRow hptype] at hp
  · have ht := hwrote i hi _ (List.mem_cons_of_mem _ List.mem_cons_self)
    rwa [length_statBytes] at ht

end Asoft

end Sys2Proof.Machine

namespace Sys2Proof.Machine

/-! ## AFOLD (R221) -/

/-- The new accumulator row i of an AFOLD over a memory. -/
def afoldAcc (y : AfoldFields) (m : Memory) (i : Nat) : List Nat :=
  let v := unpack 2 y.d (m.bytes (y.va + i * strideF32 y.d) (4 * y.d))
  if bit y.fl 0 then v
  else List.zipWith (fun o v => f32add (f32mul (statOf (m.bytes (y.ta + 16 * i) 16)).aux o) v)
    (unpack 2 y.d (m.bytes (y.oa + i * strideF32 y.d) (4 * y.d))) v

/-- The quotients of row i. -/
def afoldQuot (y : AfoldFields) (m : Memory) (i : Nat) : List Nat :=
  let st := statOf (m.bytes (y.ta + 16 * i) 16)
  (afoldAcc y m i).map (fun w => if st.nan then canonNan else if st.l = 0 then 0 else f32div w st.l)

def afoldCodes (y : AfoldFields) (m : Memory) (i : Nat) : List Nat :=
  (afoldQuot y m i).map (fun w => (narrowOut y.ot (bit y.fl 3) (bit y.fl 2) w).code)

/-- What row i of an AFOLD writes, and where. -/
def afoldOut (y : AfoldFields) (m : Memory) (i : Nat) : List (Nat × List Byte) :=
  (y.oa + i * strideF32 y.d, pack 2 (afoldAcc y m i)) ::
    if bit y.fl 1 then [(y.ua + i * stridePacked y.d (srcBytes y.ot), pack y.ot (afoldCodes y m i))] else []

def afoldRanges (y : AfoldFields) (i : Nat) : List (Nat × Nat) :=
  (y.oa + i * strideF32 y.d, 4 * y.d) :: if bit y.fl 1 then [(y.ua + i * stridePacked y.d (srcBytes y.ot), y.d * srcBytes y.ot)] else []

theorem afoldFail_eq_none {c : Ctx} {s : State} (h : afoldFail c s = none) :
    let y := afoldFields c.item
    y.ot ∈ [0, 1, 2, 4, 5] ∧
      firstOutside c.core (rowRanges y.oa (strideF32 y.d) (4 * y.d) y.rows ++ rowRanges y.va (strideF32 y.d) (4 * y.d) y.rows
          ++ [(y.ta, 16 * y.rows)] ++ (if bit y.fl 1 then rowRanges y.ua (stridePacked y.d (srcBytes y.ot)) (y.d * srcBytes y.ot) y.rows else [])) = none := by
  unfold afoldFail at h
  dsimp only at h
  split at h
  · cases h
  · next hformat =>
    split at h
    · cases h
    · have htype := firstFail_eq_none.mp hformat (0x2C, [0, 1, 2, 4, 5].contains (afoldFields c.item).ot) (by simp)
      exact ⟨List.contains_iff_mem.mp htype, Option.map_eq_none_iff.mp h⟩

/-- Row i of an AFOLD where no read of it meets an error. -/
theorem afoldRow_of_reads {c : Ctx} {i : Nat} {a : RowAcc} {m : Memory}
    (hv : a.s.readMem (srcCore c.core) ((afoldFields c.item).va + i * strideF32 (afoldFields c.item).d) (4 * (afoldFields c.item).d) =
      (a.s, ⟨m.bytes ((afoldFields c.item).va + i * strideF32 (afoldFields c.item).d) (4 * (afoldFields c.item).d), [], none⟩))
    (ho : a.s.readMem (srcCore c.core) ((afoldFields c.item).oa + i * strideF32 (afoldFields c.item).d) (4 * (afoldFields c.item).d) =
      (a.s, ⟨m.bytes ((afoldFields c.item).oa + i * strideF32 (afoldFields c.item).d) (4 * (afoldFields c.item).d), [], none⟩))
    (ht : a.s.readMem (srcCore c.core) ((afoldFields c.item).ta + 16 * i) 16 = (a.s, ⟨m.bytes ((afoldFields c.item).ta + 16 * i) 16, [], none⟩)) :
    ∃ b : Bool, afoldRow c i a =
      (let y := afoldFields c.item
       let t := a.s.attFlagIf c.core 0 b
       let o := RowAcc.write { a with s := if b then t.count (Reg.ATT_CNT_EMPTY c.core) 1 else t } c.core (y.oa + i * strideF32 y.d) (pack 2 (afoldAcc y m i))
       (if bit y.fl 1 then o.write c.core (y.ua + i * stridePacked y.d (srcBytes y.ot)) (pack y.ot (afoldCodes y m i)) else o, none)) := by
  have hquot : (let st := statOf (m.bytes ((afoldFields c.item).ta + 16 * i) 16)
      if false || st.nan then List.replicate (afoldFields c.item).d canonNan else if st.l = 0 then List.replicate (afoldFields c.item).d 0
        else (afoldAcc (afoldFields c.item) m i).map (fun w => f32div w st.l)) = afoldQuot (afoldFields c.item) m i := by
    have hlen : (afoldAcc (afoldFields c.item) m i).length = (afoldFields c.item).d := by
      unfold afoldAcc
      dsimp only
      split <;> simp [length_unpack]
    unfold afoldQuot
    dsimp only
    rw [Bool.false_or]
    split
    · rw [List.map_const', hlen]
    · split
      · rw [List.map_const', hlen]
      · rfl
  refine ⟨bit (afoldFields c.item).fl 1 && true && (statOf (m.bytes ((afoldFields c.item).ta + 16 * i) 16)).l == 0, ?_⟩
  dsimp only
  rw [afoldCodes, ← hquot]
  unfold afoldRow afoldAcc
  dsimp only
  rw [hv]
  dsimp only
  split
  · next hfirst => rw [ht]; rfl
  · next hfirst => rw [ho]; dsimp only; rw [ht]; rfl

section Afold

variable {y : AfoldFields} (htype : y.ot ∈ [0, 1, 2, 4, 5])
  (hva : y.oa = y.va ∨ rangesApart (y.oa, y.rows * strideF32 y.d) (y.va, y.rows * strideF32 y.d))
  (hta : rangesApart (y.oa, y.rows * strideF32 y.d) (y.ta, y.rows * 16))
  (hua : bit y.fl 1 = true → ∀ v ∈ [(y.oa, y.rows * strideF32 y.d), (y.va, y.rows * strideF32 y.d), (y.ta, y.rows * 16)],
    rangesApart (y.ua, y.rows * stridePacked y.d (srcBytes y.ot)) v)

theorem length_afoldAcc (m : Memory) (i : Nat) : (afoldAcc y m i).length = y.d := by
  unfold afoldAcc
  dsimp only
  split <;> simp [length_unpack]

theorem length_afoldAccBytes (m : Memory) (i : Nat) : (pack 2 (afoldAcc y m i)).length = 4 * y.d := by
  rw [length_pack (by decide), length_afoldAcc, Nat.mul_comm]
  rfl

include htype in
theorem length_afoldCodes (m : Memory) (i : Nat) : (pack y.ot (afoldCodes y m i)).length = y.d * srcBytes y.ot := by
  rw [length_pack (by revert htype; simp only [List.mem_cons, List.not_mem_nil, or_false]; omega), afoldCodes, List.length_map, afoldQuot, List.length_map,
    length_afoldAcc]

include htype hua in
theorem afoldOut_plan (m : Memory) : RowPlan (afoldOut y m) (afoldRanges y) y.rows := by
  by_cases hout : bit y.fl 1 = true
  · obtain ⟨huo, -, -⟩ := by simpa only [List.forall_mem_cons] using hua hout
    have hcross (i j : Nat) (hi : i < y.rows) (hj : j < y.rows) :
        rangesApart (y.oa + i * strideF32 y.d, 4 * y.d) (y.ua + j * stridePacked y.d (srcBytes y.ot), y.d * srcBytes y.ot) :=
      (huo.within (rangeWithin_row hj (mul_le_stridePacked _ _)) (rangeWithin_row hi (le_strideF32 _))).symm
    refine ⟨fun i _ => ?_, fun i hi => ?_, fun i j hij hj => ?_⟩
    · simp [afoldOut, afoldRanges, writeRange, hout, length_afoldAccBytes, length_afoldCodes htype]
    · simpa [afoldRanges, hout] using hcross i i hi hi
    · simp only [afoldRanges, hout, if_true, List.forall_mem_cons, List.not_mem_nil, false_implies, implies_true, and_true]
      exact ⟨⟨rangesApart_rows (by omega) (le_strideF32 _) (le_strideF32 _), hcross i j (by omega) hj⟩, (hcross j i hj (by omega)).symm,
        rangesApart_rows (by omega) (mul_le_stridePacked _ _) (mul_le_stridePacked _ _)⟩
  · refine ⟨fun i _ => ?_, fun i hi => ?_, fun i j hij hj => ?_⟩
    · simp [afoldOut, afoldRanges, writeRange, hout, length_afoldAccBytes]
    · simp [afoldRanges, hout]
    · simp only [afoldRanges, hout, Bool.false_eq_true, if_false, List.mem_singleton, forall_eq]
      exact rangesApart_rows (by omega) (le_strideF32 _) (le_strideF32 _)

include htype hva hta hua in
/-- What row i reads the earlier rows have not written. -/
theorem afold_before (m : Memory) {i : Nat} (hi : i < y.rows) :
    (m.setAll (rowWrites (afoldOut y m) i)).bytes (y.va + i * strideF32 y.d) (4 * y.d) = m.bytes (y.va + i * strideF32 y.d) (4 * y.d) ∧
      (m.setAll (rowWrites (afoldOut y m) i)).bytes (y.oa + i * strideF32 y.d) (4 * y.d) = m.bytes (y.oa + i * strideF32 y.d) (4 * y.d) ∧
      (m.setAll (rowWrites (afoldOut y m) i)).bytes (y.ta + 16 * i) 16 = m.bytes (y.ta + 16 * i) 16 := by
  have hsrc {a len : Nat} (ho : ∀ j < i, rangesApart (a, len) (y.oa + j * strideF32 y.d, 4 * y.d))
      (hu : ∀ j < i, bit y.fl 1 = true → rangesApart (y.ua + j * stridePacked y.d (srcBytes y.ot), y.d * srcBytes y.ot) (a, len)) :
      (m.setAll (rowWrites (afoldOut y m) i)).bytes a len = m.bytes a len :=
    (afoldOut_plan htype hua m).bytes_before hi.le m fun j hj => by
      simp only [afoldRanges, List.forall_mem_cons]
      refine ⟨ho j hj, ?_⟩
      split
      · next hout => simpa using (hu j hj hout).symm
      · simp
  have hur {v : Nat × Nat} {a len : Nat} (hv : v ∈ [(y.oa, y.rows * strideF32 y.d), (y.va, y.rows * strideF32 y.d), (y.ta, y.rows * 16)])
      (hw : rangeWithin (a, len) v) (j : Nat) (hj : j < i) (hout : bit y.fl 1 = true) :
      rangesApart (y.ua + j * stridePacked y.d (srcBytes y.ot), y.d * srcBytes y.ot) (a, len) :=
    (hua hout v hv).within (rangeWithin_row (hj.trans hi) (mul_le_stridePacked _ _)) hw
  refine ⟨hsrc (fun j hj => ?_) (hur (by simp) (rangeWithin_row hi (le_strideF32 _))),
    hsrc (fun j hj => rangesApart_rows (by omega) (le_strideF32 _) (le_strideF32 _)) (hur (by simp) (rangeWithin_row hi (le_strideF32 _))),
    hsrc (fun j hj => (hta.within (rangeWithin_row (hj.trans hi) (le_strideF32 _)) (rangeWithin_stats hi)).symm) (hur (by simp) (rangeWithin_stats hi))⟩
  rcases hva with hva | hva
  · rw [hva]
    exact rangesApart_rows (by omega) (le_strideF32 _) (le_strideF32 _)
  · exact (hva.within (rangeWithin_row (hj.trans hi) (le_strideF32 _)) (rangeWithin_row hi (le_strideF32 _))).symm

include htype hva hta hua in
theorem afoldAcc_before (m : Memory) {i : Nat} (hi : i < y.rows) : afoldAcc y (m.setAll (rowWrites (afoldOut y m) i)) i = afoldAcc y m i := by
  obtain ⟨hv, ho, ht⟩ := afold_before htype hva hta hua m hi
  simp only [afoldAcc, hv, ho, ht]

include htype hva hta hua in
theorem afoldCodes_before (m : Memory) {i : Nat} (hi : i < y.rows) : afoldCodes y (m.setAll (rowWrites (afoldOut y m) i)) i = afoldCodes y m i := by
  simp only [afoldCodes, afoldQuot, afoldAcc_before htype hva hta hua m hi, (afold_before htype hva hta hua m hi).2.2]

include hva hta hua in
/-- What an AFOLD writes, where its areas are apart. -/
theorem afoldWork_rows {c : Ctx} {s : State} (hn : c.core < 128) (hq : s.localQuiet) (hfail : afoldFail c s = none) (hy : y = afoldFields c.item) :
    (afoldWork c s).2 = .ended stOk 0 ∧ ∀ i < y.rows,
      (afoldWork c s).1.mem.bytes (y.oa + i * strideF32 y.d) (4 * y.d) = pack 2 (afoldAcc y s.mem i) ∧
      (bit y.fl 1 = true → (afoldWork c s).1.mem.bytes (y.ua + i * stridePacked y.d (srcBytes y.ot)) (y.d * srcBytes y.ot) =
        pack y.ot (afoldCodes y s.mem i)) := by
  obtain ⟨htype, hranges⟩ := afoldFail_eq_none hfail
  simp only [← hy] at htype hranges
  have hwork : afoldWork c s = attRows c (afoldRow c) y.rows 0 { s } := by rw [hy]; rfl
  rw [hwork]
  obtain ⟨hend, hwrote⟩ := attRows_local (c := c) (row := afoldRow c) hq (afoldOut_plan htype hua s.mem) fun i hi a hs herr => by
    have hstat : localOrEmpty c.core (y.ta + 16 * i) 16 :=
      (localOrEmpty_of_firstOutside hranges (a := y.ta) (len := 16 * y.rows) (by simp)).sub (Nat.le_add_right _ _) (by omega)
    have hacc := localOrEmpty_of_firstOutside hranges (List.mem_append_left _ (List.mem_append_left _ (List.mem_append_left _
      (mem_rowRanges (a := y.oa) (stride := strideF32 y.d) (len := 4 * y.d) hi))))
    have hval := localOrEmpty_of_firstOutside hranges (List.mem_append_left _ (List.mem_append_left _ (List.mem_append_right _
      (mem_rowRanges (a := y.va) (stride := strideF32 y.d) (len := 4 * y.d) hi))))
    obtain ⟨b, hstep⟩ := afoldRow_of_reads (c := c) (i := i) (a := a) (m := s.mem.setAll (rowWrites (afoldOut y s.mem) i))
      (by rw [← hy]; exact hs.read hn hval _) (by rw [← hy]; exact hs.read hn hacc _) (by rw [← hy]; exact hs.read hn hstat _)
    simp only [← hy, afoldAcc_before htype hva hta hua s.mem hi, afoldCodes_before htype hva hta hua s.mem hi] at hstep
    refine ⟨_, hstep, ?_⟩
    have hflag : s.ranLocal (s.mem.setAll (rowWrites (afoldOut y s.mem) i))
        (if b then (a.s.attFlagIf c.core 0 b).count (Reg.ATT_CNT_EMPTY c.core) 1 else a.s.attFlagIf c.core 0 b) := by
      split
      · exact (hs.attFlagIf _ _ _).count _ _
      · exact hs.attFlagIf _ _ _
    obtain ⟨hs1, herr1⟩ := RowAcc.write_local (a := { a with s := _ }) hflag herr hn (b := pack 2 (afoldAcc y s.mem i))
      (by rw [length_afoldAccBytes]; exact hacc)
    rw [afoldOut]
    by_cases hout : bit y.fl 1 = true
    · simp only [hout, if_true] at hranges ⊢
      have hdst := localOrEmpty_of_firstOutside hranges (List.mem_append_right _
        (mem_rowRanges (a := y.ua) (stride := stridePacked y.d (srcBytes y.ot)) (len := y.d * srcBytes y.ot) hi))
      exact RowAcc.write_local hs1 herr1 hn (b := pack y.ot (afoldCodes y s.mem i)) (by rw [length_afoldCodes htype]; exact hdst)
    · simp only [hout, Bool.false_eq_true, if_false]
      exact ⟨hs1, herr1⟩
  refine ⟨hend, fun i hi => ⟨?_, fun hout => ?_⟩⟩
  · have ho := hwrote i hi _ List.mem_cons_self
    rwa [length_afoldAccBytes] at ho
  · have hu := hwrote i hi (y.ua + i * stridePacked y.d (srcBytes y.ot), pack y.ot (afoldCodes y s.mem i)) (by simp [afoldOut, hout])
    rwa [length_afoldCodes htype] at hu

end Afold

end Sys2Proof.Machine

namespace Sys2Proof.Machine

/-! ## ADELTA (R222) -/

/-- Row i of an operand of an ADELTA, widened. -/
def adeltaOperand (y : AdeltaFields) (m : Memory) (a ty i : Nat) : List Nat :=
  (unpack ty y.d (m.bytes (a + i * stridePacked y.d (srcBytes ty)) (y.d * srcBytes ty))).map (widen ty)

/-- D of row i. -/
def adeltaSum (y : AdeltaFields) (m : Memory) (i : Nat) : Nat :=
  bsum (List.zipWith f32mul (adeltaOperand y m y.ga y.gt i) (adeltaOperand y m y.oa y.ot i))

def adeltaOut (y : AdeltaFields) (m : Memory) (i : Nat) : List (Nat × List Byte) := [(y.ta + 16 * i + 8, toLe 4 (adeltaSum y m i))]

def adeltaRanges (y : AdeltaFields) (i : Nat) : List (Nat × Nat) := [(y.ta + 16 * i + 8, 4)]

theorem adeltaFail_ranges {c : Ctx} {s : State} (h : adeltaFail c s = none) :
    let y := adeltaFields c.item
    firstOutside c.core (rowRanges y.ga (stridePacked y.d (srcBytes y.gt)) (y.d * srcBytes y.gt) y.rows
      ++ rowRanges y.oa (stridePacked y.d (srcBytes y.ot)) (y.d * srcBytes y.ot) y.rows ++ [(y.ta, 16 * y.rows)]) = none := by
  unfold adeltaFail at h
  dsimp only at h
  split at h
  · cases h
  · split at h
    · cases h
    · exact Option.map_eq_none_iff.mp h

/-- Row i of an ADELTA where no read of it meets an error. -/
theorem adeltaRow_of_reads {c : Ctx} {i : Nat} {a : RowAcc} {m : Memory} {y : AdeltaFields} (hy : y = adeltaFields c.item)
    (hg : a.s.readMem (srcCore c.core) (y.ga + i * stridePacked y.d (srcBytes y.gt)) (y.d * srcBytes y.gt) =
      (a.s, ⟨m.bytes (y.ga + i * stridePacked y.d (srcBytes y.gt)) (y.d * srcBytes y.gt), [], none⟩))
    (ho : a.s.readMem (srcCore c.core) (y.oa + i * stridePacked y.d (srcBytes y.ot)) (y.d * srcBytes y.ot) =
      (a.s, ⟨m.bytes (y.oa + i * stridePacked y.d (srcBytes y.ot)) (y.d * srcBytes y.ot), [], none⟩)) :
    adeltaRow c i a = (a.write c.core (y.ta + 16 * i + 8) (toLe 4 (adeltaSum y m i)), none) := by
  subst hy
  unfold adeltaRow
  dsimp only
  rw [hg]
  dsimp only
  rw [ho]
  rfl

section Adelta

variable {y : AdeltaFields} (hta : ∀ v ∈ [(y.ga, y.rows * stridePacked y.d (srcBytes y.gt)), (y.oa, y.rows * stridePacked y.d (srcBytes y.ot))],
    rangesApart (y.ta, y.rows * 16) v)

theorem rangeWithin_delta (i : Nat) : rangeWithin (y.ta + 16 * i + 8, 4) (y.ta + 16 * i, 16) := ⟨Nat.le_add_right _ _, by simp only; omega⟩

theorem adeltaOut_plan (m : Memory) : RowPlan (adeltaOut y m) (adeltaRanges y) y.rows where
  ranges_eq i _ := by simp [adeltaOut, adeltaRanges, writeRange, length_toLe]
  row i _ := by simp [adeltaRanges]
  rows i j hij _ := by
    simp only [adeltaRanges, List.mem_singleton, forall_eq]
    exact (rangesApart_stats (by omega)).within (rangeWithin_delta i) (rangeWithin_delta j)

include hta in
/-- What row i reads the earlier rows have not written. -/
theorem adeltaSum_before (m : Memory) {i : Nat} (hi : i < y.rows) : adeltaSum y (m.setAll (rowWrites (adeltaOut y m) i)) i = adeltaSum y m i := by
  have hsrc {a size : Nat} (hv : rangesApart (y.ta, y.rows * 16) (a, y.rows * stridePacked y.d size)) :
      (m.setAll (rowWrites (adeltaOut y m) i)).bytes (a + i * stridePacked y.d size) (y.d * size) = m.bytes (a + i * stridePacked y.d size) (y.d * size) :=
    (adeltaOut_plan m).bytes_before hi.le m fun j hj => by
      simp only [adeltaRanges, List.mem_singleton, forall_eq]
      have hrow := hv.within (rangeWithin_stats (hj.trans hi)) (rangeWithin_row hi (mul_le_stridePacked y.d size))
      exact (hrow.within (rangeWithin_delta j) ⟨le_rfl, le_rfl⟩).symm
  unfold adeltaSum adeltaOperand
  rw [hsrc (hta _ (by simp)), hsrc (hta _ (by simp))]

include hta in
/-- What an ADELTA writes, where its statistics are apart from its operands. -/
theorem adeltaWork_rows {c : Ctx} {s : State} (hn : c.core < 128) (hq : s.localQuiet) (hfail : adeltaFail c s = none) (hy : y = adeltaFields c.item) :
    (adeltaWork c s).2 = .ended stOk 0 ∧ ∀ i < y.rows, (adeltaWork c s).1.mem.bytes (y.ta + 16 * i + 8) 4 = toLe 4 (adeltaSum y s.mem i) := by
  have hranges := adeltaFail_ranges hfail
  simp only [← hy] at hranges
  have hwork : adeltaWork c s = attRows c (adeltaRow c) y.rows 0 { s } := by rw [hy]; rfl
  rw [hwork]
  obtain ⟨hend, hwrote⟩ := attRows_local (c := c) (row := adeltaRow c) hq (adeltaOut_plan (y := y) s.mem) fun i hi a hs herr => by
    have hstat : localOrEmpty c.core (y.ta + 16 * i + 8) 4 :=
      (localOrEmpty_of_firstOutside hranges (a := y.ta) (len := 16 * y.rows) (by simp)).sub (by omega) (by omega)
    have hg := localOrEmpty_of_firstOutside hranges (List.mem_append_left _ (List.mem_append_left _
      (mem_rowRanges (a := y.ga) (stride := stridePacked y.d (srcBytes y.gt)) (len := y.d * srcBytes y.gt) hi)))
    have ho := localOrEmpty_of_firstOutside hranges (List.mem_append_left _ (List.mem_append_right _
      (mem_rowRanges (a := y.oa) (stride := stridePacked y.d (srcBytes y.ot)) (len := y.d * srcBytes y.ot) hi)))
    have hstep := adeltaRow_of_reads hy (hs.read hn hg _) (hs.read hn ho _)
    rw [adeltaSum_before hta s.mem hi] at hstep
    exact ⟨_, hstep, RowAcc.write_local hs herr hn (by rw [length_toLe]; exact hstat)⟩
  refine ⟨hend, fun i hi => ?_⟩
  have h := hwrote i hi _ List.mem_cons_self
  rwa [length_toLe] at h

end Adelta

/-! ## ABACK (R223) -/

/-- P and G of the entries of row i of an ABACK over a memory. -/
def abackRes (x : AttCtx) (y : AbackFields) (m : Memory) (i : Nat) : List (Nat × Nat) :=
  List.zipWith (fun (e : Nat × Nat) k => backEntry x (statOf (m.bytes (y.ta + 16 * i) 16)) k e.1 e.2)
    (List.zip (unpack 2 y.cols (m.bytes (y.sa + i * strideF32 y.cols) (4 * y.cols))) (unpack 2 y.cols (m.bytes (y.da + i * strideF32 y.cols) (4 * y.cols))))
    (maskRow x y.qpos y.kpos y.cols i (m.bytes (y.ba + i * strideMask x.mode y.cols) (maskLen x y.cols)))

def abackP (x : AttCtx) (es : List (Nat × Nat)) : List Byte := pack x.ptype (es.map (fun e => narrowTo x.ptype e.1))
def abackG (x : AttCtx) (es : List (Nat × Nat)) : List Byte := pack x.dtype (es.map (fun e => narrowTo x.dtype e.2))

def abackOut (x : AttCtx) (y : AbackFields) (m : Memory) (i : Nat) : List (Nat × List Byte) :=
  (if y.pa = 0 then [] else [(y.pa + i * stridePacked y.cols (srcBytes x.ptype), abackP x (abackRes x y m i))]) ++
    [(y.da + i * strideF32 y.cols, abackG x (abackRes x y m i))]

def abackRanges (x : AttCtx) (y : AbackFields) (i : Nat) : List (Nat × Nat) :=
  (if y.pa = 0 then [] else [(y.pa + i * stridePacked y.cols (srcBytes x.ptype), y.cols * srcBytes x.ptype)]) ++
    [(y.da + i * strideF32 y.cols, y.cols * srcBytes x.dtype)]

theorem abackFail_ranges {c : Ctx} {s : State} (h : abackFail c s = none) :
    let x := (s.attContext c.core).getD {}
    let y := abackFields c.item
    firstOutside c.core (rowRanges y.sa (strideF32 y.cols) (4 * y.cols) y.rows ++ rowRanges y.da (strideF32 y.cols) (4 * y.cols) y.rows
      ++ [(y.ta, 16 * y.rows)] ++ (if y.pa = 0 then [] else rowRanges y.pa (stridePacked y.cols (srcBytes x.ptype)) (y.cols * srcBytes x.ptype) y.rows)
      ++ rowRanges y.ba (strideMask x.mode y.cols) (maskLen x y.cols) y.rows) = none := by
  unfold abackFail at h
  dsimp only at h
  split at h
  · cases h
  · split at h
    · cases h
    · next hx =>
      split at h
      · cases h
      · rw [hx]
        exact Option.map_eq_none_iff.mp h

/-- Row i of an ABACK where no read of it meets an error. -/
theorem abackRow_of_reads {c : Ctx} {x : AttCtx} {i : Nat} {a : RowAcc} {m : Memory} {y : AbackFields} (hy : y = abackFields c.item)
    (hs : a.s.readMem (srcCore c.core) (y.sa + i * strideF32 y.cols) (4 * y.cols) = (a.s, ⟨m.bytes (y.sa + i * strideF32 y.cols) (4 * y.cols), [], none⟩))
    (hd : a.s.readMem (srcCore c.core) (y.da + i * strideF32 y.cols) (4 * y.cols) = (a.s, ⟨m.bytes (y.da + i * strideF32 y.cols) (4 * y.cols), [], none⟩))
    (ht : a.s.readMem (srcCore c.core) (y.ta + 16 * i) 16 = (a.s, ⟨m.bytes (y.ta + 16 * i) 16, [], none⟩))
    (hb : a.s.readMem (srcCore c.core) (y.ba + i * strideMask x.mode y.cols) (maskLen x y.cols) =
      (a.s, ⟨m.bytes (y.ba + i * strideMask x.mode y.cols) (maskLen x y.cols), [], none⟩)) :
    abackRow c x i a =
      ((if y.pa = 0 then a else a.write c.core (y.pa + i * stridePacked y.cols (srcBytes x.ptype)) (abackP x (abackRes x y m i))).write c.core
        (y.da + i * strideF32 y.cols) (abackG x (abackRes x y m i)), none) := by
  subst hy
  unfold abackRow
  dsimp only
  rw [hs]
  dsimp only
  rw [hd]
  dsimp only
  rw [ht]
  dsimp only
  rw [hb]
  rfl

section Aback

variable {x : AttCtx} {y : AbackFields} (hptype : x.ptype ∈ [0, 1, 4, 5]) (hdtype : x.dtype ≤ 2)
  (hda : ∀ v ∈ [(y.sa, y.rows * strideF32 y.cols), (y.ta, y.rows * 16), maskArea x y.ba y.rows y.cols], rangesApart (y.da, y.rows * strideF32 y.cols) v)
  (hpa : y.pa ≠ 0 → ∀ v ∈ (y.da, y.rows * strideF32 y.cols) :: [(y.sa, y.rows * strideF32 y.cols), (y.ta, y.rows * 16), maskArea x y.ba y.rows y.cols],
    rangesApart (y.pa, y.rows * stridePacked y.cols (srcBytes x.ptype)) v)

theorem length_abackRes (m : Memory) (i : Nat) : (abackRes x y m i).length = y.cols := by simp [abackRes, length_unpack, length_maskRow]

include hptype in
theorem length_abackP (m : Memory) (i : Nat) : (abackP x (abackRes x y m i)).length = y.cols * srcBytes x.ptype := by
  rw [abackP, length_pack (by revert hptype; simp only [List.mem_cons, List.not_mem_nil, or_false]; omega), List.length_map, length_abackRes]

include hdtype in
theorem length_abackG (m : Memory) (i : Nat) : (abackG x (abackRes x y m i)).length = y.cols * srcBytes x.dtype := by
  rw [abackG, length_pack (by simp only [List.mem_cons, List.not_mem_nil, or_false]; omega), List.length_map, length_abackRes]

include hdtype in
theorem dtype_le_f32 : y.cols * srcBytes x.dtype ≤ 4 * y.cols := by
  have hsize : srcBytes x.dtype ≤ 4 := by
    obtain h | h | h : x.dtype = 0 ∨ x.dtype = 1 ∨ x.dtype = 2 := by omega
    all_goals rw [h]; decide
  rw [Nat.mul_comm 4]
  exact Nat.mul_le_mul_left y.cols hsize

include hptype hdtype hpa in
theorem abackOut_plan (m : Memory) : RowPlan (abackOut x y m) (abackRanges x y) y.rows := by
  have hg := (dtype_le_f32 (y := y) hdtype).trans (le_strideF32 _)
  by_cases hz : y.pa = 0
  · refine ⟨fun i _ => ?_, fun i _ => ?_, fun i j hij hj => ?_⟩
    · simp [abackOut, abackRanges, writeRange, hz, length_abackG hdtype]
    · simp [abackRanges, hz]
    · simp only [abackRanges, hz, if_true, List.nil_append, List.mem_singleton, forall_eq]
      exact rangesApart_rows (by omega) hg hg
  · have hcross (i j : Nat) (hi : i < y.rows) (hj : j < y.rows) :
        rangesApart (y.pa + i * stridePacked y.cols (srcBytes x.ptype), y.cols * srcBytes x.ptype) (y.da + j * strideF32 y.cols, y.cols * srcBytes x.dtype) :=
      (hpa hz _ List.mem_cons_self).within (rangeWithin_row hi (mul_le_stridePacked _ _)) (rangeWithin_row hj hg)
    refine ⟨fun i _ => ?_, fun i hi => ?_, fun i j hij hj => ?_⟩
    · simp [abackOut, abackRanges, writeRange, hz, length_abackG hdtype, length_abackP hptype]
    · simpa [abackRanges, hz] using hcross i i hi hi
    · simp only [abackRanges, hz, if_false, List.cons_append, List.nil_append, List.forall_mem_cons, List.not_mem_nil, false_implies, implies_true, and_true]
      exact ⟨⟨rangesApart_rows (by omega) (mul_le_stridePacked _ _) (mul_le_stridePacked _ _), hcross i j (by omega) hj⟩,
        (hcross j i hj (by omega)).symm, rangesApart_rows (by omega) hg hg⟩

include hptype hdtype hda hpa in
/-- What row i reads the earlier rows have not written. -/
theorem abackRes_before (m : Memory) {i : Nat} (hi : i < y.rows) : abackRes x y (m.setAll (rowWrites (abackOut x y m) i)) i = abackRes x y m i := by
  have hg := (dtype_le_f32 (y := y) hdtype).trans (le_strideF32 _)
  have hsrc {a len : Nat} (hd : ∀ j < i, rangesApart (y.da + j * strideF32 y.cols, y.cols * srcBytes x.dtype) (a, len))
      (hp : y.pa ≠ 0 → ∃ v ∈ (y.da, y.rows * strideF32 y.cols) :: [(y.sa, y.rows * strideF32 y.cols), (y.ta, y.rows * 16), maskArea x y.ba y.rows y.cols],
        rangeWithin (a, len) v) :
      (m.setAll (rowWrites (abackOut x y m) i)).bytes a len = m.bytes a len :=
    (abackOut_plan hptype hdtype hpa m).bytes_before hi.le m fun j hj r hr => by
      rcases List.mem_append.mp hr with hr | hr
      · split at hr
        · cases hr
        · next hz =>
          obtain ⟨v, hv, hw⟩ := hp hz
          rw [List.mem_singleton.mp hr]
          exact ((hpa hz v hv).within (rangeWithin_row (hj.trans hi) (mul_le_stridePacked _ _)) hw).symm
      · rw [List.mem_singleton.mp hr]
        exact (hd j hj).symm
  have harea {v : Nat × Nat} {a len : Nat} (hv : v ∈ [(y.sa, y.rows * strideF32 y.cols), (y.ta, y.rows * 16), maskArea x y.ba y.rows y.cols])
      (hw : rangeWithin (a, len) v) : (m.setAll (rowWrites (abackOut x y m) i)).bytes a len = m.bytes a len :=
    hsrc (fun j hj => (hda v hv).within (rangeWithin_row (hj.trans hi) hg) hw) (fun _ => ⟨v, List.mem_cons_of_mem _ hv, hw⟩)
  unfold abackRes
  rw [harea (v := (y.sa, y.rows * strideF32 y.cols)) (by simp) (rangeWithin_row hi (le_strideF32 _)),
    harea (v := (y.ta, y.rows * 16)) (by simp) (rangeWithin_stats hi),
    harea (v := maskArea x y.ba y.rows y.cols) (by simp) (rangeWithin_mask hi),
    hsrc (a := y.da + i * strideF32 y.cols) (fun j hj => rangesApart_rows (by omega) hg (le_strideF32 _))
      (fun _ => ⟨_, List.mem_cons_self, rangeWithin_row hi (le_strideF32 _)⟩)]

include hptype hdtype hda hpa in
/-- What an ABACK writes, where its areas are apart. -/
theorem abackWork_rows {c : Ctx} {s : State} (hn : c.core < 128) (hq : s.localQuiet) (hfail : abackFail c s = none)
    (hx : x = (s.attContext c.core).getD {}) (hy : y = abackFields c.item) :
    (abackWork c s).2 = .ended stOk 0 ∧ ∀ i < y.rows,
      (abackWork c s).1.mem.bytes (y.da + i * strideF32 y.cols) (y.cols * srcBytes x.dtype) = abackG x (abackRes x y s.mem i) ∧
      (y.pa ≠ 0 → (abackWork c s).1.mem.bytes (y.pa + i * stridePacked y.cols (srcBytes x.ptype)) (y.cols * srcBytes x.ptype) =
        abackP x (abackRes x y s.mem i)) := by
  have hranges := abackFail_ranges hfail
  simp only [← hx, ← hy] at hranges
  have hwork : abackWork c s = attRows c (abackRow c x) y.rows 0 { s } := by rw [hx, hy]; rfl
  rw [hwork]
  obtain ⟨hend, hwrote⟩ := attRows_local (c := c) (row := abackRow c x) hq (abackOut_plan hptype hdtype hpa s.mem) fun i hi a hs herr => by
    have hstat : localOrEmpty c.core (y.ta + 16 * i) 16 :=
      (localOrEmpty_of_firstOutside hranges (a := y.ta) (len := 16 * y.rows) (by simp)).sub (Nat.le_add_right _ _) (by omega)
    have hscore := localOrEmpty_of_firstOutside hranges (List.mem_append_left _ (List.mem_append_left _ (List.mem_append_left _ (List.mem_append_left _
      (mem_rowRanges (a := y.sa) (stride := strideF32 y.cols) (len := 4 * y.cols) hi)))))
    have hgrad := localOrEmpty_of_firstOutside hranges (List.mem_append_left _ (List.mem_append_left _ (List.mem_append_left _ (List.mem_append_right _
      (mem_rowRanges (a := y.da) (stride := strideF32 y.cols) (len := 4 * y.cols) hi)))))
    have hmask := localOrEmpty_of_firstOutside hranges (List.mem_append_right _
      (mem_rowRanges (a := y.ba) (stride := strideMask x.mode y.cols) (len := maskLen x y.cols) hi))
    have hstep := abackRow_of_reads (x := x) hy (hs.read hn hscore _) (hs.read hn hgrad _) (hs.read hn hstat _) (hs.read hn hmask _)
    rw [abackRes_before hptype hdtype hda hpa s.mem hi] at hstep
    refine ⟨_, hstep, ?_⟩
    rw [abackOut]
    by_cases hz : y.pa = 0
    · simp only [hz, if_true, List.nil_append]
      exact RowAcc.write_local hs herr hn (by rw [length_abackG hdtype]; exact hgrad.sub' (dtype_le_f32 hdtype))
    · simp only [hz, if_false, List.cons_append, List.nil_append] at hranges ⊢
      have hdst := localOrEmpty_of_firstOutside hranges (List.mem_append_left _ (List.mem_append_right _
        (mem_rowRanges (a := y.pa) (stride := stridePacked y.cols (srcBytes x.ptype)) (len := y.cols * srcBytes x.ptype) hi)))
      obtain ⟨hs1, herr1⟩ := RowAcc.write_local hs herr hn (b := abackP x (abackRes x y s.mem i)) (by rw [length_abackP hptype]; exact hdst)
      exact RowAcc.write_local hs1 herr1 hn (by rw [length_abackG hdtype]; exact hgrad.sub' (dtype_le_f32 hdtype))
  refine ⟨hend, fun i hi => ⟨?_, fun hz => ?_⟩⟩
  · have h := hwrote i hi (y.da + i * strideF32 y.cols, abackG x (abackRes x y s.mem i)) (List.mem_append_right _ List.mem_cons_self)
    rwa [length_abackG hdtype] at h
  · have h := hwrote i hi (y.pa + i * stridePacked y.cols (srcBytes x.ptype), abackP x (abackRes x y s.mem i)) (by simp [abackOut, hz])
    rwa [length_abackP hptype] at h

end Aback

end Sys2Proof.Machine

namespace Sys2Proof.Machine

/-! ## Elements of packed rows -/

theorem Memory.slice_bytes (m : Memory) {a len off k : Nat} (h : off + k ≤ len) : slice (m.bytes a len) off k = m.bytes (a + off) k := by
  rw [slice_of_le (by rw [Memory.length_bytes]; exact h), Memory.bytes_eq, Memory.bytes_eq]
  apply List.ext_getElem
  · simp only [List.length_take, List.length_drop, List.length_map, List.length_range]
    omega
  · intro i _ _
    simp [Nat.add_assoc]

theorem Memory.leAt_bytes (m : Memory) {a len off k : Nat} (h : off + k ≤ len) : leAt (m.bytes a len) off k = leAt (m.bytes (a + off) k) 0 k := by
  rw [leAt, leAt, Memory.slice_bytes m h, Memory.slice_bytes m (by omega), Nat.add_zero]

/-- The types whose codes are whole bytes. -/
def byteTypes : List Nat := [0, 1, 2, 4, 5, 8, 9, 0xD]

theorem streamType_iff {t : Nat} : streamType t = true ↔ t ∈ byteTypes := List.contains_iff_mem

theorem unpack_eq_map {t : Nat} (h : t ∈ byteTypes) (k : Nat) (b : List Byte) :
    unpack t k b = (List.range k).map (fun i => leAt b (i * srcBytes t) (srcBytes t)) := by
  simp only [byteTypes, List.mem_cons, List.not_mem_nil, or_false] at h
  rcases h with rfl | rfl | rfl | rfl | rfl | rfl | rfl | rfl <;> simp [unpack, typeBits, srcBytes, Nat.mul_comm]

theorem pack_eq_flatMap {t : Nat} (h : t ∈ byteTypes) (codes : List Nat) : pack t codes = codes.flatMap (toLe (srcBytes t)) := by
  simp only [byteTypes, List.mem_cons, List.not_mem_nil, or_false] at h
  rcases h with rfl | rfl | rfl | rfl | rfl | rfl | rfl | rfl <;> rfl

/-- Element i of a row whose elements are all k bytes. -/
theorem slice_flatMap {α : Type} (f : α → List Byte) {k : Nat} (h : ∀ x, (f x).length = k) : ∀ {l : List α} {i : Nat} {x : α}, l[i]? = some x →
    slice (l.flatMap f) (i * k) k = f x
  | y :: l, 0, x, hx => by
    obtain rfl : y = x := by simpa using hx
    rw [slice_of_le (by rw [length_flatMap_const f k h, List.length_cons, Nat.mul_succ]; omega), Nat.zero_mul, List.drop_zero, List.flatMap_cons,
      List.take_append_of_le_length (h y).ge, List.take_of_length_le (h y).le]
  | y :: l, i + 1, x, hx => by
    have hi : i < l.length := by
      by_contra hge
      rw [List.getElem?_cons_succ, List.getElem?_eq_none (by omega)] at hx
      cases hx
    have hk := Nat.mul_le_mul_left k (Nat.succ_le_of_lt hi)
    rw [Nat.mul_succ, Nat.mul_comm k i] at hk
    have ih := slice_flatMap f h (l := l) (i := i) (x := x) (by simpa using hx)
    rw [slice_of_le (by rw [length_flatMap_const f k h]; omega)] at ih
    rw [slice_of_le (by rw [length_flatMap_const f k h, List.length_cons, Nat.mul_succ, Nat.succ_mul]; omega), List.flatMap_cons, Nat.succ_mul,
      Nat.add_comm (i * k), ← List.drop_drop, List.drop_append_of_le_length (h y).ge, List.drop_of_length_le (h y).le, List.nil_append, ih]

/-- The bytes of an element, where the row's are those of a packed row. -/
theorem Memory.bytes_packed {m : Memory} {t a len i : Nat} (h : t ∈ byteTypes) {codes : List Nat} {w : Nat} (hm : m.bytes a len = pack t codes)
    (hlen : len = codes.length * srcBytes t) (hi : codes[i]? = some w) :
    m.bytes (a + i * srcBytes t) (srcBytes t) = toLe (srcBytes t) w := by
  have hlt : i < codes.length := by
    by_contra hge
    rw [List.getElem?_eq_none (by omega)] at hi
    cases hi
  have hle := Nat.mul_le_mul_right (srcBytes t) (Nat.succ_le_of_lt hlt)
  rw [Nat.succ_mul] at hle
  rw [← Memory.slice_bytes m (len := len) (by omega), hm, pack_eq_flatMap h, slice_flatMap _ (length_toLe _) hi]

theorem getElem?_numbered {α : Type} (l : List α) (i : Nat) : (numbered l)[i]? = l[i]?.map (fun x => (i, x)) := by
  unfold numbered
  by_cases h : i < l.length
  · simp [h]
  · rw [List.getElem?_eq_none (by simpa using h), List.getElem?_eq_none (by simpa using h)]
    rfl

theorem mem_numbered {α : Type} {l : List α} {i : Nat} {x : α} : (i, x) ∈ numbered l ↔ l[i]? = some x := by
  rw [List.mem_iff_getElem?]
  simp only [getElem?_numbered, Option.map_eq_some_iff, Prod.mk.injEq]
  constructor
  · rintro ⟨k, y, hy, rfl, rfl⟩
    exact hy
  · exact fun h => ⟨i, x, h, rfl, rfl⟩

theorem map_snd_numbered {α : Type} (l : List α) : (numbered l).map Prod.snd = l := List.map_snd_zip (by simp)

end Sys2Proof.Machine

namespace Sys2Proof.Machine

/-! ## Element-wise records over quiet core-local memory (R186 to R193) -/

@[simp] theorem State.veFlagIf_mem (s : State) (n i : Nat) (b : Bool) : (s.veFlagIf n i b).mem = s.mem := by
  unfold State.veFlagIf State.veFlag
  split
  · split <;> simp
  · rfl

theorem State.ranLocal.veFlagIf {s t : State} {m : Memory} (h : s.ranLocal m t) (n i : Nat) (b : Bool) : s.ranLocal m (t.veFlagIf n i b) := by
  unfold State.veFlagIf State.veFlag
  split
  · split
    · exact h.raise _ _ _ _
    · exact h.raise _ _ _ _
  · exact h

theorem State.ranLocal.putTemps {s t : State} {m : Memory} (h : s.ranLocal m t) (n lane : Nat) (ts : List (List Nat)) :
    s.ranLocal m (t.putTemps n lane ts) := h.of_eq rfl rfl rfl rfl rfl

/-- The values of the streams' elements i. -/
def elemIn (packed : Bool) (ins : List Strm) (m : Memory) (i : Nat) : List Nat :=
  ins.map (fun x => veIn packed x.ty (leAt (m.bytes (x.addr + i * srcBytes x.ty) (srcBytes x.ty)) 0 (srcBytes x.ty)))

/-- The results of a group of k elements from b on, output by output. -/
def groupEls (o : ElOpt) (ins outs : List Strm) (f : Nat → List Nat → ElRes) (m : Memory) (b k : Nat) : List (Strm × List OutElem) :=
  (numbered outs).map (fun w => (w.2, (List.range k).map (fun j =>
    veOut o.packed o.trunc o.sat w.2.ty ((f (b + j) (elemIn o.packed ins m (b + j))).outs.getD w.1 0))))

/-- What a group writes. -/
def groupOut (o : ElOpt) (ins outs : List Strm) (f : Nat → List Nat → ElRes) (m : Memory) (b k : Nat) : List (Nat × List Byte) :=
  (groupEls o ins outs f m b k).map (fun e => (e.1.addr + b * srcBytes e.1.ty, pack e.1.ty (e.2.map (·.code))))

/-- Where a group writes. -/
def groupRanges (outs : List Strm) (b k : Nat) : List (Nat × Nat) := outs.map (fun x => (x.addr + b * srcBytes x.ty, k * srcBytes x.ty))

section Group

variable {s t : State} {m : Memory} {c : Ctx} {o : ElOpt} {ins outs : List Strm} {f : Nat → List Nat → ElRes} {b k : Nat}

/-- The reads of a group. -/
theorem readStreams_local (h : s.ranLocal m t) (hn : c.core < 128) : ∀ {ins : List Strm} (acc : List (Strm × Rd)),
    (∀ x ∈ ins, localOrEmpty c.core (x.addr + b * srcBytes x.ty) (k * srcBytes x.ty)) →
    ins.foldl (fun (x : State × List (Strm × Rd)) i =>
      let (s, rd) := x.1.readMem (srcCore c.core) (i.addr + b * srcBytes i.ty) (k * srcBytes i.ty)
      (s, x.2 ++ [(i, rd)])) (t, acc) =
      (t, acc ++ ins.map (fun x => (x, ⟨m.bytes (x.addr + b * srcBytes x.ty) (k * srcBytes x.ty), [], none⟩)))
  | [], acc, _ => by simp
  | x :: ins, acc, hin => by
    rw [List.forall_mem_cons] at hin
    rw [List.foldl_cons, h.read hn hin.1]
    dsimp only
    rw [readStreams_local h hn (acc ++ [_]) hin.2, List.map_cons, List.append_assoc]
    rfl

/-- The writes of a group. -/
theorem writeStreams_local (hn : c.core < 128) : ∀ {es : List (Strm × List OutElem)} {t : State} {m : Memory}, s.ranLocal m t →
    (∀ e ∈ es, localOrEmpty c.core (e.1.addr + b * srcBytes e.1.ty) (pack e.1.ty (e.2.map (·.code))).length) →
    let done := es.foldl (fun (x : State × Option (Nat × Nat)) e =>
      ((x.1.writeMem (srcCore c.core) (e.1.addr + b * srcBytes e.1.ty) (pack e.1.ty (e.2.map (·.code)))).1,
        x.2.orElse (fun _ => (x.1.writeMem (srcCore c.core) (e.1.addr + b * srcBytes e.1.ty) (pack e.1.ty (e.2.map (·.code)))).2))) (t, none)
    s.ranLocal (m.setAll (es.map (fun e => (e.1.addr + b * srcBytes e.1.ty, pack e.1.ty (e.2.map (·.code)))))) done.1 ∧ done.2 = none
  | [], t, m, h, _ => ⟨h, rfl⟩
  | e :: es, t, m, h, hout => by
    rw [List.forall_mem_cons] at hout
    rw [List.foldl_cons, h.write hn hout.1]
    exact writeStreams_local hn (h.setMem (m.setBytes (e.1.addr + b * srcBytes e.1.ty) (pack e.1.ty (e.2.map (·.code))))) hout.2

theorem zip_map_numbered {α β : Type} (l : List α) (g : Nat × α → β) : l.zip ((numbered l).map g) = (numbered l).map (fun w => (w.2, g w)) := by
  conv_lhs => enter [1]; rw [← map_snd_numbered l]
  exact List.zip_map'

/-- The values that a group reads. -/
theorem getD_unpack {x : Strm} (hx : x.ty ∈ byteTypes) {j : Nat} (hj : j < k) (packed : Bool) :
    ((unpack x.ty k (m.bytes (x.addr + b * srcBytes x.ty) (k * srcBytes x.ty))).map (veIn packed x.ty)).getD j 0 =
      veIn packed x.ty (leAt (m.bytes (x.addr + (b + j) * srcBytes x.ty) (srcBytes x.ty)) 0 (srcBytes x.ty)) := by
  have hle := Nat.mul_le_mul_right (srcBytes x.ty) (Nat.succ_le_of_lt hj)
  rw [Nat.succ_mul] at hle
  rw [unpack_eq_map hx, List.getD_eq_getElem?_getD, Nat.add_mul, ← Nat.add_assoc, ← Memory.leAt_bytes m hle]
  simp [hj]

theorem length_groupEls {e : Strm × List OutElem} (he : e ∈ groupEls o ins outs f m b k) : e.1 ∈ outs ∧ e.2.length = k := by
  obtain ⟨w, hw, rfl⟩ := List.mem_map.mp he
  exact ⟨List.mem_of_getElem? (mem_numbered.mp hw), by simp⟩

/-- One group of an element-wise record whose reads meet no error. -/
theorem elemGroup_local {a : ElAcc} (h : s.ranLocal m a.s) (herr : a.err = none) (hn : c.core < 128)
    (htypes : ∀ x ∈ ins ++ outs, x.ty ∈ byteTypes)
    (hin : ∀ x ∈ ins ++ outs, localOrEmpty c.core (x.addr + b * srcBytes x.ty) (k * srcBytes x.ty)) :
    ∃ a', elemGroup c o ins outs f b k a = (a', false) ∧ s.ranLocal (m.setAll (groupOut o ins outs f m b k)) a'.s ∧ a'.err = none := by
  have hreads := readStreams_local (c := c) (b := b) (k := k) h hn (ins := ins) [] (fun x hx => hin x (List.mem_append_left _ hx))
  have hbad (j : Nat) : (ins.map fun x => (x, (⟨m.bytes (x.addr + b * srcBytes x.ty) (k * srcBytes x.ty), [], none⟩ : Rd))).any
      (fun x => elemBad x.2.bad (x.1.addr + b * srcBytes x.1.ty) (srcBytes x.1.ty) j) = false := by
    rw [List.any_map]
    exact List.any_eq_false.mpr fun x _ => by simp [elemBad]
  have herr' : (ins.map fun x => (x, (⟨m.bytes (x.addr + b * srcBytes x.ty) (k * srcBytes x.ty), [], none⟩ : Rd))).findSome? (fun x => x.2.err) = none := by
    rw [List.findSome?_eq_none_iff]
    exact List.forall_mem_map.mpr fun x _ => rfl
  have hvals : (List.range k).map (fun j => some (f (b + j) (((ins.map fun x =>
      (x, (⟨m.bytes (x.addr + b * srcBytes x.ty) (k * srcBytes x.ty), [], none⟩ : Rd))).map
        (fun x => (unpack x.1.ty k x.2.bytes).map (veIn o.packed x.1.ty))).map (fun col => col.getD j 0)))) =
      (List.range k).map (fun j => some (f (b + j) (elemIn o.packed ins m (b + j)))) := by
    refine List.map_congr_left fun j hj => ?_
    rw [List.map_map, List.map_map]
    congr 2
    exact List.map_congr_left fun x hx => getD_unpack (htypes x (List.mem_append_left _ hx)) (List.mem_range.mp hj) o.packed
  have hels : outs.zip ((numbered outs).map (fun e => ((List.range k).map (fun j => some (f (b + j) (elemIn o.packed ins m (b + j))))).map (fun r =>
      match r with
      | some r => veOut o.packed o.trunc o.sat e.2.ty (r.outs.getD e.1 0)
      | none => vePoison e.2.ty))) = groupEls o ins outs f m b k := by
    rw [zip_map_numbered]
    simp only [List.map_map]
    rfl
  have hlocal (e : Strm × List OutElem) (he : e ∈ groupEls o ins outs f m b k) :
      localOrEmpty c.core (e.1.addr + b * srcBytes e.1.ty) (pack e.1.ty (e.2.map (·.code))).length := by
    obtain ⟨hmem, hlen⟩ := length_groupEls he
    rw [length_pack (htypes _ (List.mem_append_right _ hmem)), List.length_map, hlen]
    exact hin _ (List.mem_append_right _ hmem)
  unfold elemGroup
  dsimp only
  rw [hreads]
  simp only [List.nil_append, hbad, herr', Bool.false_eq_true, if_false, hvals]
  refine ⟨_, rfl, ?_, ?_⟩
  · dsimp only
    rw [← hels] at hlocal
    rw [groupOut, ← hels]
    split
    · exact (writeStreams_local hn (h.putTemps _ _ _) hlocal).1
    · exact (writeStreams_local hn h hlocal).1
  · dsimp only
    rw [herr]
    rw [← hels] at hlocal
    split
    · exact (writeStreams_local hn (h.putTemps _ _ _) hlocal).2
    · exact (writeStreams_local hn h hlocal).2

end Group

end Sys2Proof.Machine

namespace Sys2Proof.Machine

/-! ## All groups of an element-wise record -/

/-- Two streams of l elements share no byte. -/
def Strm.apart (x y : Strm) (l : Nat) : Prop := rangesApart (x.addr, x.len l) (y.addr, y.len l)

theorem Strm.apart_of_meets {x y : Strm} {l : Nat} (h : x.meets y l = false) : x.apart y l := by
  simp only [Strm.meets, decide_eq_false_iff_not] at h
  unfold Strm.apart rangesApart
  omega

/-- The inputs and outputs that a record's checks have found good. -/
structure StreamsGood (n : Nat) (ins outs : List Strm) (l : Nat) : Prop where
  types : ∀ x ∈ ins ++ outs, x.ty ∈ byteTypes
  place : ∀ x ∈ ins ++ outs, localOrEmpty n x.addr (x.len l)
  inOut : ∀ x ∈ ins, ∀ y ∈ outs, (x.addr = y.addr ∧ srcBytes x.ty = srcBytes y.ty) ∨ x.apart y l
  outOut : outs.Pairwise (fun x y => x.apart y l)

theorem streamsGood_of_checks {n l : Nat} {ins outs : List Strm} (htypes : ∀ x ∈ ins ++ outs, x.ty ∈ byteTypes)
    (hplace : ∀ x ∈ ins ++ outs, localOrEmpty n x.addr (x.len l)) (hclash : ∀ b ∈ overlapBad ins outs l, b = false) : StreamsGood n ins outs l := by
  have hbad (j : Nat) (y : Strm) (hy : outs[j]? = some y) :
      (∀ x ∈ ins, (x.addr = y.addr ∧ srcBytes x.ty = srcBytes y.ty) ∨ x.meets y l = false) ∧ ∀ p ∈ outs.take j, p.meets y l = false := by
    have hb := hclash _ (List.mem_map_of_mem (mem_numbered.mpr hy))
    simp only [Bool.or_eq_false_iff, List.any_eq_false, Bool.and_eq_true, Bool.not_eq_true', Bool.and_eq_false_iff, not_and, beq_eq_false_iff_ne, not_or,
      Bool.not_eq_true, ne_eq, not_not] at hb
    refine ⟨fun x hx => ?_, hb.2⟩
    by_cases hm : x.meets y l = true
    · exact .inl (hb.1 x hx hm)
    · exact .inr (by simpa using hm)
  refine ⟨htypes, hplace, fun x hx y hy => ?_, List.pairwise_iff_getElem.mpr fun i j hi hj hij => ?_⟩
  · obtain ⟨j, hj⟩ := List.mem_iff_getElem?.mp hy
    exact ((hbad j y hj).1 x hx).imp_right Strm.apart_of_meets
  · refine Strm.apart_of_meets ((hbad j outs[j] (List.getElem?_eq_getElem hj)).2 _ ?_)
    rw [List.mem_take_iff_getElem]
    exact ⟨i, by omega, rfl⟩

section Groups

variable {s : State} {c : Ctx} {o : ElOpt} {ins outs : List Strm} {f : Nat → List Nat → ElRes} {l e n : Nat}

/-- Group g of a stream lies in the stream. -/
theorem rangeWithin_group {g : Nat} (h : g * e < l) (x : Strm) :
    rangeWithin (x.addr + g * e * srcBytes x.ty, min e (l - g * e) * srcBytes x.ty) (x.addr, x.len l) := by
  have := Nat.mul_le_mul_right (srcBytes x.ty) (show g * e + min e (l - g * e) ≤ l by omega)
  rw [Nat.add_mul] at this
  exact ⟨Nat.le_add_right _ _, by simp only [Strm.len]; omega⟩

theorem rangesApart_groups {g g' a size : Nat} (h : g ≠ g') : rangesApart (a + g * e * size, min e (l - g * e) * size) (a + g' * e * size, min e (l - g' * e) * size) := by
  rw [Nat.mul_assoc g, Nat.mul_assoc g']
  exact rangesApart_rows h (Nat.mul_le_mul_right _ (Nat.min_le_left _ _)) (Nat.mul_le_mul_right _ (Nat.min_le_left _ _))

variable (hgood : StreamsGood c.core ins outs l) (hn : ∀ g, g < n ↔ g * e < l)

include hgood hn in
theorem groupOut_plan (m : Memory) :
    RowPlan (fun g => groupOut o ins outs f m (g * e) (min e (l - g * e))) (fun g => groupRanges outs (g * e) (min e (l - g * e))) n where
  ranges_eq g _ := by
    simp only [groupOut, groupEls, groupRanges, List.map_map]
    conv_rhs => rw [← map_snd_numbered outs, List.map_map]
    refine List.map_congr_left fun w hw => ?_
    have hty := hgood.types _ (List.mem_append_right _ (List.mem_of_getElem? (mem_numbered.mp hw)))
    simp [writeRange, length_pack hty]
  row g hg := by
    rw [groupRanges, List.pairwise_map]
    exact hgood.outOut.imp fun h => h.within (rangeWithin_group ((hn g).mp hg) _) (rangeWithin_group ((hn g).mp hg) _)
  rows g g' hgg hg' u hu v hv := by
    obtain ⟨x, hx, rfl⟩ := List.mem_map.mp hu
    obtain ⟨y, hy, rfl⟩ := List.mem_map.mp hv
    by_cases hxy : x = y
    · subst hxy
      exact rangesApart_groups (by omega)
    · have hsymm : Std.Symm (fun x y : Strm => x.apart y l) := ⟨fun _ _ h => rangesApart.symm h⟩
      have happart : x.apart y l := hgood.outOut.forall hx hy hxy
      exact happart.within (rangeWithin_group ((hn g).mp (by omega)) x) (rangeWithin_group ((hn g').mp hg') y)

include hgood hn in
/-- What a group reads the earlier groups have not written. -/
theorem groupOut_before (m : Memory) {g : Nat} (hg : g < n) :
    groupOut o ins outs f (m.setAll (rowWrites (fun g => groupOut o ins outs f m (g * e) (min e (l - g * e))) g)) (g * e) (min e (l - g * e)) =
      groupOut o ins outs f m (g * e) (min e (l - g * e)) := by
  have helem (j : Nat) (hj : j < min e (l - g * e)) :
      elemIn o.packed ins (m.setAll (rowWrites (fun g => groupOut o ins outs f m (g * e) (min e (l - g * e))) g)) (g * e + j) =
        elemIn o.packed ins m (g * e + j) := by
    refine List.map_congr_left fun x hx => ?_
    rw [(groupOut_plan hgood hn m).bytes_before hg.le m fun g' hg' r hr => ?_]
    obtain ⟨y, hy, rfl⟩ := List.mem_map.mp hr
    have hsub : rangeWithin (x.addr + (g * e + j) * srcBytes x.ty, srcBytes x.ty)
        (x.addr + g * e * srcBytes x.ty, min e (l - g * e) * srcBytes x.ty) := by
      have := Nat.mul_le_mul_right (srcBytes x.ty) (Nat.succ_le_of_lt hj)
      rw [Nat.succ_mul] at this
      constructor <;> simp only [Nat.add_mul] <;> omega
    rcases hgood.inOut x hx y hy with ⟨ha, hsize⟩ | hap
    · refine (rangesApart_groups (e := e) (l := l) (a := y.addr) (size := srcBytes y.ty) (show g ≠ g' by omega)).within ?_ ⟨le_rfl, le_rfl⟩
      rwa [ha, hsize] at hsub ⊢
    · exact (hap.within (rangeWithin_group ((hn g).mp hg) x) (rangeWithin_group ((hn g').mp (by omega)) y)).within hsub ⟨le_rfl, le_rfl⟩
  have hels : groupEls o ins outs f (m.setAll (rowWrites (fun g => groupOut o ins outs f m (g * e) (min e (l - g * e))) g)) (g * e) (min e (l - g * e)) =
      groupEls o ins outs f m (g * e) (min e (l - g * e)) := by
    refine List.map_congr_left fun w _ => Prod.ext rfl ?_
    exact List.map_congr_left fun j hj => by rw [helem j (List.mem_range.mp hj)]
  rw [groupOut, hels, groupOut]

include hgood hn in
/-- The groups from g on. -/
theorem elemGroups_local (hcore : c.core < 128) : ∀ (fuel g : Nat) (a : ElAcc), g ≤ n → n - g ≤ fuel →
    s.ranLocal (s.mem.setAll (rowWrites (fun g => groupOut o ins outs f s.mem (g * e) (min e (l - g * e))) g)) a.s → a.err = none →
    ∃ a', elemGroups c o ins outs f l e fuel (g * e) a = (a', false) ∧ a'.err = none ∧
      s.ranLocal (s.mem.setAll (rowWrites (fun g => groupOut o ins outs f s.mem (g * e) (min e (l - g * e))) n)) a'.s
  | 0, g, a, hg, hfuel, hs, herr => by
    obtain rfl : g = n := by omega
    exact ⟨a, rfl, herr, hs⟩
  | fuel + 1, g, a, hg, hfuel, hs, herr => by
    rw [elemGroups]
    by_cases hlt : g < n
    · have hl := (hn g).mp hlt
      rw [if_neg (by omega)]
      obtain ⟨a', hstep, hs', herr'⟩ := elemGroup_local (o := o) (f := f) (b := g * e) (k := min e (l - g * e)) hs herr hcore hgood.types
        (fun x hx => (hgood.place x hx).sub (rangeWithin_group hl x).1 (rangeWithin_group hl x).2)
      rw [hstep]
      dsimp only
      rw [groupOut_before hgood hn s.mem hlt, ← setAll_rowWrites_succ] at hs'
      rw [if_neg (by simp), ← Nat.succ_mul]
      exact elemGroups_local hcore fuel (g + 1) a' hlt (by omega) hs' herr'
    · obtain rfl : g = n := by omega
      have hl := mt (hn g).mpr (lt_irrefl g)
      rw [if_pos (by omega)]
      exact ⟨a, rfl, herr, hs⟩

end Groups

/-- The elements of a group. -/
def groupSize (o : ElOpt) : Nat := if o.packed then 256 else 128

theorem groupSize_pos (o : ElOpt) : 0 < groupSize o := by unfold groupSize; split <;> decide

/-- What an element-wise record leaves in memory. -/
theorem elementwise_mem {c : Ctx} {s : State} {o : ElOpt} {ins outs : List Strm} {l : Nat} {f : Nat → List Nat → ElRes} (hcore : c.core < 128)
    (hq : s.localQuiet) (hgood : StreamsGood c.core ins outs l) :
    (elementwise c s o ins outs l f).1.mem = s.mem.setAll
      (rowWrites (fun g => groupOut o ins outs f s.mem (g * groupSize o) (min (groupSize o) (l - g * groupSize o))) ((l + groupSize o - 1) / groupSize o)) := by
  have hn (g : Nat) : g < (l + groupSize o - 1) / groupSize o ↔ g * groupSize o < l := by
    have := groupSize_pos o
    rw [← Nat.succ_le_iff, Nat.le_div_iff_mul_le this, Nat.succ_mul]
    omega
  have hfuel : (l + groupSize o - 1) / groupSize o - 0 ≤ l / groupSize o + 1 := by
    rw [Nat.sub_zero, ← Nat.add_div_right l (groupSize_pos o)]
    exact Nat.div_le_div_right (by omega)
  obtain ⟨a, hgroups, herr, hs⟩ := elemGroups_local (s := s) (o := o) (f := f) hgood hn hcore (l / groupSize o + 1) 0 { s } (Nat.zero_le _) hfuel
    (State.ranLocal_self hq) rfl
  rw [Nat.zero_mul] at hgroups
  have hmem := hs.mem
  rw [← hmem]
  unfold elementwise
  simp only [groupSize] at hgroups
  dsimp only
  rw [hgroups]
  dsimp only
  rw [herr]
  split
  · next h => cases h
  · next i h1 h2 =>
    split <;> simp [done, endOk]
  · simp [done, endOk]

end Sys2Proof.Machine

namespace Sys2Proof.Machine

/-! ## What VOP and EMRUN write (R192 to R194, R203) -/

/-- Element i of output j of an element-wise record. -/
theorem elementwise_wrote {c : Ctx} {s : State} {o : ElOpt} {ins outs : List Strm} {l : Nat} {f : Nat → List Nat → ElRes} (hcore : c.core < 128)
    (hq : s.localQuiet) (hgood : StreamsGood c.core ins outs l) {i j : Nat} {x : Strm} (hi : i < l) (hx : outs[j]? = some x) :
    (elementwise c s o ins outs l f).1.mem.bytes (x.addr + i * srcBytes x.ty) (srcBytes x.ty) =
      toLe (srcBytes x.ty) (veOut o.packed o.trunc o.sat x.ty ((f i (elemIn o.packed ins s.mem i)).outs.getD j 0)).code := by
  have he := groupSize_pos o
  have hn (g : Nat) : g < (l + groupSize o - 1) / groupSize o ↔ g * groupSize o < l := by
    rw [← Nat.succ_le_iff, Nat.le_div_iff_mul_le he, Nat.succ_mul]
    omega
  have hty := hgood.types x (List.mem_append_right _ (List.mem_of_getElem? hx))
  rw [elementwise_mem hcore hq hgood]
  generalize groupSize o = e at he hn ⊢
  have hsplit : i / e * e + i % e = i := Nat.div_add_mod' i e
  have hmod := Nat.mod_lt i he
  generalize hg : i / e = g at hsplit
  generalize hr : i % e = r at hsplit hmod
  subst hsplit
  have hgl : g * e < l := by omega
  have hafter := (groupOut_plan (o := o) (f := f) hgood hn s.mem).bytes_after ((hn g).mpr hgl) s.mem
    (List.mem_map_of_mem (List.mem_map_of_mem (mem_numbered.mpr hx)))
  dsimp only at hafter
  rw [List.map_map] at hafter
  rw [Nat.add_mul, ← Nat.add_assoc]
  refine Memory.bytes_packed hty hafter (by rw [length_pack hty]) ?_
  rw [List.getElem?_map, List.getElem?_range (show r < min e (l - g * e) by omega)]
  rfl

/-- A check of the fields that a record's format check has found good. -/
theorem check_of_formatFail {r : Fetched} {inlineOk : Bool} {used : List (Nat × Nat)} {cs : List Check} (h : formatFail r inlineOk used cs = none) {c : Check}
    (hc : c ∈ cs) : c.2 = true := firstFail_eq_none.mp h c (List.mem_append_left _ (List.mem_append_right _ hc))

theorem vopArity_le (r : Fetched) : vopArity r ≤ 3 := by
  unfold vopArity emArity
  split
  · split
    case h_10 => split <;> decide
    all_goals decide
  · decide

theorem vopFail_good {c : Ctx} {s : State} (h : vopFail c s = none) : StreamsGood c.core (vopIns c.item) [vopDst c.item] (vopLen c.item) := by
  unfold vopFail at h
  dsimp only at h
  split at h
  · cases h
  · next hformat =>
    split at h
    · cases h
    · next hshape =>
      rw [Option.map_eq_none_iff] at h
      have hdst := check_of_formatFail hformat (c := (0x2D, streamType (vopDst c.item).ty)) (by simp)
      have hclash := firstFail_eq_none.mp hshape (8, overlapBad (vopIns c.item) [vopDst c.item] (vopLen c.item) != [true]) (by simp)
      refine streamsGood_of_checks (fun x hx => ?_) (fun x hx => ?_) ?_
      · rcases List.mem_append.mp hx with hx | hx
        · obtain ⟨j, hj, rfl⟩ := List.mem_map.mp hx
          obtain ⟨hlt, hkind⟩ := List.mem_filter.mp hj
          have hlt := List.mem_range.mp hlt
          have hthree := vopArity_le c.item
          refine streamType_iff.mp (check_of_formatFail hformat (c := (vopTypeOff j, streamType (vopType c.item j))) ?_)
          refine List.mem_append_right _ ?_
          rw [if_neg (by omega)]
          refine List.mem_flatMap.mpr ⟨j, List.mem_range.mpr (by omega), ?_⟩
          unfold vopOperand
          rw [if_neg (by omega), beq_iff_eq.mp hkind]
          simp
        · rw [List.mem_singleton.mp hx]
          exact streamType_iff.mp hdst
      · refine localOrEmpty_of_firstOutside h (List.mem_map.mpr ⟨x, ?_, rfl⟩)
        simpa [or_comm] using hx
      · simpa [overlapBad, numbered] using hclash

theorem emrunFail_good {c : Ctx} {s : State} (h : emrunFail c s = none) :
    StreamsGood c.core (emrunStreams c.item (s.emSlot c.core (emrunSlot c.item)) [0, 1, 2]) (emrunStreams c.item (s.emSlot c.core (emrunSlot c.item)) [3, 4])
      (emrunLen c.item) := by
  unfold emrunFail at h
  dsimp only at h
  split at h
  · cases h
  · next hformat =>
    split at h
    · cases h
    · split at h
      · cases h
      · split at h
        · cases h
        · next hshape =>
          rw [Option.map_eq_none_iff] at h
          refine streamsGood_of_checks (fun x hx => ?_) (fun x hx => localOrEmpty_of_firstOutside h (List.mem_map.mpr ⟨x, hx, rfl⟩)) fun b hb => ?_
          · have hj : ∃ j < 5, x.ty = emrunType c.item j := by
              rcases List.mem_append.mp hx with hx | hx <;> obtain ⟨j, hj, rfl⟩ := List.mem_map.mp hx <;>
                exact ⟨j, by have := (List.mem_filter.mp hj).1; simp only [List.mem_cons, List.not_mem_nil, or_false] at this; omega, rfl⟩
            obtain ⟨j, hj, hty⟩ := hj
            rw [hty]
            refine streamType_iff.mp (check_of_formatFail hformat (c := (0x35 + j / 2, streamType (emrunType c.item j))) ?_)
            refine List.mem_append_left _ (List.mem_append_right _ ?_)
            exact List.mem_map.mpr ⟨j, List.mem_range.mpr hj, rfl⟩
          · obtain ⟨i, hi⟩ := List.mem_iff_getElem?.mp hb
            have hcheck := firstFail_eq_none.mp hshape (0x20 + 8 * i, !b)
              (List.mem_append_right _ (List.mem_map.mpr ⟨(i, b), mem_numbered.mpr hi, rfl⟩))
            simpa using hcheck

/-! ## What VREDUCE writes (R204) -/

theorem length_redResBytes (op : Nat) (h : op ≤ 4) (xs : List Nat) : (reduceF32 op xs).bytes.length = redBytes op := by
  have hbest (b : Bool) : (bestF32 b xs).bytes.length = 8 := by
    unfold bestF32
    dsimp only
    split <;> simp [RedRes.bytes, length_toLe]
  unfold reduceF32 redBytes
  split
  case h_4 => rw [hbest]; rfl
  case h_5 h0 h1 h2 h3 =>
    rw [hbest, if_neg]
    rintro (h | h)
    · exact h0 h
    · exact h2 h
  all_goals simp [RedRes.bytes, length_toLe]

/-- The terms of segment j of a VREDUCE. -/
def vreduceTerms (x : VredFields) (m : Memory) (j : Nat) : List Nat :=
  (upTo (j * x.seg) (min x.l (j * x.seg + x.seg) - 1)).map
    (fun i => veIn false x.src.ty (leAt (m.bytes (x.src.addr + i * srcBytes x.src.ty) (srcBytes x.src.ty)) 0 (srcBytes x.src.ty)))

theorem vreduceFail_eq_none {c : Ctx} {s : State} (h : vreduceFail c s = none) :
    let x := vredFields c.item
    x.op ≤ 4 ∧ x.src.ty ∈ byteTypes ∧ 1 ≤ x.l ∧ 1 ≤ x.seg ∧ localOrEmpty c.core x.src.addr (x.src.len x.l) ∧
      localOrEmpty c.core x.dst (x.nseg * redBytes x.op) := by
  unfold vreduceFail at h
  dsimp only at h
  split at h
  · cases h
  · next hformat =>
    split at h
    · cases h
    · next hshape =>
      rw [Option.map_eq_none_iff] at h
      have hop := check_of_formatFail hformat (c := (0x20, decide ((vredFields c.item).op ≤ 4))) (by simp)
      have hty := check_of_formatFail hformat (c := (0x21, streamType (vredFields c.item).src.ty)) (by simp)
      have hl := firstFail_eq_none.mp hshape (0x18, decide (1 ≤ (vredFields c.item).l ∧ (vredFields c.item).l ≤ 2 ^ 24)) (by simp)
      have hseg := firstFail_eq_none.mp hshape (0x1C, decide (1 ≤ (vredFields c.item).seg ∧ (vredFields c.item).seg ≤ (vredFields c.item).l)) (by simp)
      exact ⟨of_decide_eq_true hop, streamType_iff.mp hty, (of_decide_eq_true hl).1, (of_decide_eq_true hseg).1,
        localOrEmpty_of_firstOutside h (by simp), localOrEmpty_of_firstOutside h (by simp)⟩

/-- A segment of the elements that a VREDUCE has read is its terms. -/
theorem vreduce_segment {x : VredFields} (hty : x.src.ty ∈ byteTypes) (hseg : 1 ≤ x.seg) (m : Memory) {j : Nat} (hj : j < x.nseg) :
    (((unpack x.src.ty x.l (m.bytes x.src.addr (x.src.len x.l))).map (veIn false x.src.ty)).drop (j * x.seg)).take x.seg = vreduceTerms x m j := by
  have hstart : j * x.seg < x.l := by
    rw [VredFields.nseg, ← Nat.succ_le_iff, Nat.le_div_iff_mul_le hseg, Nat.succ_mul] at hj
    omega
  rw [unpack_eq_map hty, vreduceTerms, upTo, List.map_map, List.map_map]
  apply List.ext_getElem
  · simp only [List.length_take, List.length_drop, List.length_map, List.length_range]
    omega
  · intro k hk _
    simp only [List.length_take, List.length_drop, List.length_map, List.length_range] at hk
    have hle := Nat.mul_le_mul_right (srcBytes x.src.ty) (show j * x.seg + k + 1 ≤ x.l by omega)
    rw [Nat.succ_mul] at hle
    simp only [List.getElem_take, List.getElem_drop, List.getElem_map, List.getElem_range, Function.comp_apply]
    rw [Memory.leAt_bytes m (by rw [Strm.len]; exact hle)]

theorem vreduceWork_of_read {c : Ctx} {s : State} {b : List Byte} {x : VredFields} (hx : x = vredFields c.item)
    (h : s.readMem (srcCore c.core) x.src.addr (x.src.len x.l) = (s, ⟨b, [], none⟩)) :
    ∃ (f0 f1 f2 f5 : Bool), vreduceWork c s =
      (let res := (List.range x.nseg).map (fun j => reduceF32 x.op
          (let xs := (((unpack x.src.ty x.l b).map (veIn false x.src.ty)).drop (j * x.seg)).take x.seg
           if c.item.f 0x22 1 = 1 then xs.map (fun w => f32mul w w) else xs))
       let w := s.writeMem (srcCore c.core) x.dst (res.flatMap RedRes.bytes)
       endMem ((((w.1.veFlagIf c.core 0 f0).veFlagIf c.core 1 f1).veFlagIf c.core 2 f2).veFlagIf c.core 5 f5) w.2) := by
  subst hx
  have hfirst : (List.range (vredFields c.item).l).find? (elemBad [] (vredFields c.item).src.addr (srcBytes (vredFields c.item).src.ty)) = none := by
    simp [elemBad]
  unfold vreduceWork
  dsimp only
  rw [h]
  dsimp only
  rw [hfirst]
  simp only [Option.isSome_none, Bool.false_eq_true, if_false, List.append_nil, List.map_map, vreduceSeg, beq_iff_eq]
  exact ⟨_, _, _, _, rfl⟩

/-- What a VREDUCE writes. -/
theorem vreduceWork_wrote {c : Ctx} {s : State} (hn : c.core < 128) (hq : s.localQuiet) (hfail : vreduceFail c s = none) {x : VredFields}
    (hx : x = vredFields c.item) :
    (vreduceWork c s).2 = .ended stOk 0 ∧ ∀ j < x.nseg, (vreduceWork c s).1.mem.bytes (x.dst + j * redBytes x.op) (redBytes x.op) =
      (reduceF32 x.op (if c.item.f 0x22 1 = 1 then (vreduceTerms x s.mem j).map (fun w => f32mul w w) else vreduceTerms x s.mem j)).bytes := by
  have hchecks := vreduceFail_eq_none hfail
  simp only [← hx] at hchecks
  obtain ⟨hop, hty, hl, hseg, hsrc, hdst⟩ := hchecks
  have hs := State.ranLocal_self hq
  obtain ⟨f0, f1, f2, f5, hwork⟩ := vreduceWork_of_read hx (hs.read hn hsrc (srcCore c.core))
  have hres : (List.range x.nseg).map (fun j => reduceF32 x.op
      (let xs := (((unpack x.src.ty x.l (s.mem.bytes x.src.addr (x.src.len x.l))).map (veIn false x.src.ty)).drop (j * x.seg)).take x.seg
       if c.item.f 0x22 1 = 1 then xs.map (fun w => f32mul w w) else xs)) =
      (List.range x.nseg).map (fun j => reduceF32 x.op
        (if c.item.f 0x22 1 = 1 then (vreduceTerms x s.mem j).map (fun w => f32mul w w) else vreduceTerms x s.mem j)) :=
    List.map_congr_left fun j hj => by
      dsimp only
      rw [vreduce_segment hty hseg s.mem (List.mem_range.mp hj)]
  rw [hres] at hwork
  dsimp only at hwork
  have hlen : (((List.range x.nseg).map (fun j => reduceF32 x.op
      (if c.item.f 0x22 1 = 1 then (vreduceTerms x s.mem j).map (fun w => f32mul w w) else vreduceTerms x s.mem j))).flatMap RedRes.bytes).length =
      x.nseg * redBytes x.op := by
    rw [List.flatMap_map, length_flatMap_const _ (redBytes x.op) (fun _ => length_redResBytes _ hop _), List.length_range, Nat.mul_comm]
  rw [hs.write hn (by rw [hlen]; exact hdst)] at hwork
  rw [hwork]
  refine ⟨rfl, fun j hj => ?_⟩
  have hmem (t : State) : (endMem t none).1.mem = t.mem := rfl
  have hle := Nat.mul_le_mul_right (redBytes x.op) (Nat.succ_le_of_lt hj)
  rw [Nat.succ_mul] at hle
  simp only [hmem, State.veFlagIf_mem, State.setMem]
  rw [List.flatMap_map, ← Memory.slice_bytes _ (len := x.nseg * redBytes x.op) (by omega)]
  rw [List.flatMap_map] at hlen
  conv_lhs => rw [← hlen]
  rw [Memory.bytes_setBytes]
  exact slice_flatMap _ (fun _ => length_redResBytes _ hop _) (List.getElem?_range hj)

end Sys2Proof.Machine

namespace Sys2Proof.Machine

/-! ## What TREDUCE writes (R173 to R175) -/

/-- An invariant of a fold over the first n numbers. -/
theorem foldl_range_inv {β : Type} {f : β → Nat → β} (P : Nat → β → Prop) {n : Nat} {b : β} (h0 : P 0 b) (hstep : ∀ i < n, ∀ b, P i b → P (i + 1) (f b i)) :
    P n ((List.range n).foldl f b) := by
  induction n with
  | zero => exact h0
  | succ n ih =>
    rw [List.range_succ, List.foldl_append]
    exact hstep n (Nat.lt_succ_self n) _ (ih fun i hi => hstep i (by omega))

section Tiles

variable {s t : State} (h : t.mats = s.mats)

include h

theorem State.tileRow_of_mats (n k r : Nat) : t.tileRow n k r = s.tileRow n k r := by simp only [State.tileRow, State.mat, h]

theorem State.tag_of_mats (n k : Nat) : t.tag n k = s.tag n k := by simp only [State.tag, State.mat, h]

theorem reduceTerms_of_mats (n tile m k dim i : Nat) : reduceTerms t n tile m k dim i = reduceTerms s n tile m k dim i := by
  simp only [reduceTerms, State.tileRow_of_mats h]

end Tiles

@[simp] theorem State.accEvents_mem (s : State) (n : Nat) (f : EvFl) : (s.accEvents n f).mem = s.mem := by
  have hflag (t : State) (i : Nat) (b : Bool) : (t.accFlagIf n i b).mem = t.mem := by
    unfold State.accFlagIf State.accFlag
    split <;> simp
  simp only [State.accEvents, hflag]

@[simp] theorem State.accRows_mem (s : State) (n k : Nat) : (s.accRows n k).mem = s.mem := by simp [State.accRows]

theorem State.ranLocal.accEvents {s t : State} {m : Memory} (h : s.ranLocal m t) (n : Nat) (f : EvFl) : s.ranLocal m (t.accEvents n f) := by
  have hflag {t : State} (h : s.ranLocal m t) (i : Nat) (b : Bool) : s.ranLocal m (t.accFlagIf n i b) := by
    unfold State.accFlagIf State.accFlag
    split
    · exact h.raise _ _ _ _
    · exact h
  exact hflag (hflag (hflag (hflag h _ _) _ _) _ _) _ _

theorem State.ranLocal.accRows {s t : State} {m : Memory} (h : s.ranLocal m t) (n k : Nat) : s.ranLocal m (t.accRows n k) := h.count _ _

/-- Result i of a TREDUCE over tiles of INT32 or FP32. -/
def treduceRes (s : State) (c : Ctx) (x : RedFields) (isInt : Bool) (i : Nat) : RedRes :=
  let xs := reduceTerms s c.core x.tile x.m x.n x.dim i
  if isInt then (if x.op = 0 then RedRes.plain (sumInt xs).1 else bestInt (x.op != 3) xs) else reduceF32 x.op xs

/-- What result i of a TREDUCE writes. -/
def treduceOut (s : State) (c : Ctx) (x : RedFields) (isInt : Bool) (i : Nat) : List (Nat × List Byte) :=
  [(x.dst + i * redBytes x.op, (treduceRes s c x isInt i).bytes)]

theorem length_treduceRes (s : State) (c : Ctx) {x : RedFields} {isInt : Bool} (hop : x.op ≤ 4) (hint : isInt = true → x.op ≠ 1 ∧ x.op ≠ 2) (i : Nat) :
    (treduceRes s c x isInt i).bytes.length = redBytes x.op := by
  have hbest (b : Bool) (xs : List Nat) : (bestInt b xs).bytes.length = 8 := by
    unfold bestInt
    dsimp only
    split <;> simp [RedRes.bytes, length_toLe]
  unfold treduceRes
  dsimp only
  split
  · next hi =>
    obtain ⟨h1, h2⟩ := hint hi
    split
    · next h0 => simp [RedRes.bytes, length_toLe, redBytes, h0]
    · next h0 =>
      rw [hbest, redBytes, if_neg (by omega)]
  · exact length_redResBytes _ hop _

theorem treduceFail_eq_none {c : Ctx} {s : State} (h : treduceFail c s = none) :
    let x := redFields c.item
    x.op ≤ 4 ∧ localOrEmpty c.core x.dst (x.count * redBytes x.op) := by
  unfold treduceFail at h
  dsimp only at h
  split at h
  · cases h
  · next hformat =>
    split at h
    · cases h
    · split at h
      · cases h
      · have hop := check_of_formatFail hformat (c := (0x14, decide ((redFields c.item).op ≤ 4))) (by simp)
        exact ⟨of_decide_eq_true hop, localOrEmpty_of_firstOutside (Option.map_eq_none_iff.mp h) (by simp)⟩

theorem treduceOut_plan (s : State) (c : Ctx) {x : RedFields} {isInt : Bool} (hop : x.op ≤ 4) (hint : isInt = true → x.op ≠ 1 ∧ x.op ≠ 2) :
    RowPlan (treduceOut s c x isInt) (fun i => [(x.dst + i * redBytes x.op, redBytes x.op)]) x.count where
  ranges_eq i _ := by simp [treduceOut, writeRange, length_treduceRes s c hop hint]
  row i _ := by simp
  rows i j hij _ := by
    simp only [List.mem_singleton, forall_eq]
    exact rangesApart_rows (by omega) le_rfl le_rfl

/-- One result of a TREDUCE is computed and written. -/
theorem reduceOne_eq {c : Ctx} {x : RedFields} {isInt : Bool} (a : State × Option (Nat × Nat) × EvFl) (i : Nat)
    (hop : x.op ≤ 4) (hint : isInt = true → x.op ≠ 1 ∧ x.op ≠ 2) :
    ∃ ev, reduceOne c x.tile x.m x.n x.op x.dim x.dst isInt a i =
      (let w := a.1.writeMem (srcCore c.core) (x.dst + i * redBytes x.op) (treduceRes a.1 c x isInt i).bytes
       (w.1, a.2.1.orElse (fun _ => w.2), ev)) := by
  unfold reduceOne treduceRes
  cases isInt
  · exact ⟨_, rfl⟩
  · obtain ⟨h1, h2⟩ := hint rfl
    obtain h | h | h : x.op = 0 ∨ x.op = 3 ∨ x.op = 4 := by omega
    all_goals
      rw [h]
      exact ⟨_, rfl⟩

theorem reduceOne_local {c : Ctx} {s : State} {x : RedFields} {isInt : Bool} {m : Memory} {a : State × Option (Nat × Nat) × EvFl} {i : Nat}
    (hn : c.core < 128) (hop : x.op ≤ 4) (hint : isInt = true → x.op ≠ 1 ∧ x.op ≠ 2) (hs : s.ranLocal m a.1) (herr : a.2.1 = none)
    (hdst : localOrEmpty c.core (x.dst + i * redBytes x.op) (redBytes x.op)) :
    let b := reduceOne c x.tile x.m x.n x.op x.dim x.dst isInt a i
    s.ranLocal (m.setAll (treduceOut s c x isInt i)) b.1 ∧ b.2.1 = none := by
  obtain ⟨ev, hstep⟩ := reduceOne_eq (c := c) (isInt := isInt) a i hop hint
  have hres : treduceRes a.1 c x isInt i = treduceRes s c x isInt i := by simp only [treduceRes, reduceTerms_of_mats hs.mats]
  have hwrite := hs.write hn (b := (treduceRes s c x isInt i).bytes) (by rw [length_treduceRes s c hop hint]; exact hdst) (srcCore c.core)
  rw [hres, hwrite, herr] at hstep
  rw [hstep]
  exact ⟨hs.setMem _, rfl⟩

/-- What a TREDUCE writes. -/
theorem treduceWork_wrote {c : Ctx} {s : State} (hn : c.core < 128) (hq : s.localQuiet) (hfail : treduceFail c s = none) {x : RedFields}
    (hx : x = redFields c.item) {g : Nat} (hg : s.rangeTag c.core x.tile (lastTile x.tile x.m) = (g, none)) (hint : g = 2 → x.op ≠ 1 ∧ x.op ≠ 2) :
    (treduceWork c s).2 = .ended stOk 0 ∧ ∀ i < x.count, (treduceWork c s).1.mem.bytes (x.dst + i * redBytes x.op) (redBytes x.op) =
      (treduceRes s c x (g == 2) i).bytes := by
  have hchecks := treduceFail_eq_none hfail
  simp only [← hx] at hchecks
  obtain ⟨hop, hdst⟩ := hchecks
  have hint' : (g == 2) = true → x.op ≠ 1 ∧ x.op ≠ 2 := fun h => hint (beq_iff_eq.mp h)
  have hfold := foldl_range_inv (f := reduceOne c x.tile x.m x.n x.op x.dim x.dst (g == 2)) (n := x.count) (b := (s, none, {}))
    (fun i a => s.ranLocal (s.mem.setAll (rowWrites (treduceOut s c x (g == 2)) i)) a.1 ∧ a.2.1 = none) ⟨State.ranLocal_self hq, rfl⟩
    fun i hi a ⟨hs, herr⟩ => by
      rw [setAll_rowWrites_succ]
      exact reduceOne_local hn hop hint' hs herr (hdst.sub (rangeWithin_row hi le_rfl).1 (rangeWithin_row hi le_rfl).2)
  have hwork : treduceWork c s =
      (let a := (List.range x.count).foldl (reduceOne c x.tile x.m x.n x.op x.dim x.dst (g == 2)) (s, none, {})
       endMem ((a.1.accEvents c.core a.2.2).accRows c.core x.m) a.2.1) := by
    subst hx
    unfold treduceWork
    dsimp only
    rw [hg]
    dsimp only
    rw [if_neg (by rintro ⟨h2, h⟩; have := hint h2; omega)]
  rw [hwork]
  obtain ⟨hs, herr⟩ := hfold
  dsimp only
  rw [herr]
  refine ⟨rfl, fun i hi => ?_⟩
  have hafter := (treduceOut_plan s c hop hint').bytes_after hi s.mem List.mem_cons_self
  rw [length_treduceRes s c hop hint', ← hs.mem] at hafter
  have hmem (t : State) : (endMem t none).1.mem = t.mem := rfl
  rw [hmem, State.accRows_mem, State.accEvents_mem]
  exact hafter

end Sys2Proof.Machine

namespace Sys2Proof.Machine

/-! ## What TSTORE writes (R167 to R172) -/

theorem typeBits_cases (t : Nat) : typeBits t = 8 ∨ typeBits t = 16 ∨ typeBits t = 32 ∨ (isMx t = true ∧ (typeBits t = 6 ∨ typeBits t = 4)) := by
  unfold typeBits
  split <;> simp [isMx]

/-- The bytes of at most n packed elements. -/
theorem length_pack_le {t n : Nat} {codes : List Nat} (h : codes.length ≤ n) (hmx : isMx t = true → n % 32 = 0) : (pack t codes).length ≤ packedLen t n := by
  unfold pack packedLen
  rcases typeBits_cases t with hb | hb | hb | ⟨ht, hb | hb⟩
  · simp only [hb, length_flatMap_const _ _ (length_toLe _)]
    omega
  · simp only [hb, length_flatMap_const _ _ (length_toLe _)]
    omega
  · simp only [hb, length_flatMap_const _ _ (length_toLe _)]
    omega
  · have := hmx ht
    simp only [hb, length_toLe]
    omega
  · have := hmx ht
    simp only [hb, length_toLe]
    omega

theorem length_numbered {α : Type} (l : List α) : (numbered l).length = l.length := by simp [numbered]

theorem length_cut {α : Type} {p : Nat} (hp : 0 < p) : ∀ (k : Nat) (l : List α), l.length ≤ p * k → (cut p k l).length = (l.length + p - 1) / p
  | 0, l, h => by
    have hl : l.length = 0 := by omega
    rw [cut, hl, List.length_nil, Nat.zero_add, Nat.div_eq_of_lt (by omega)]
  | k + 1, l, h => by
    rw [cut]
    split
    · next hl =>
      rw [List.isEmpty_iff.mp hl, List.length_nil, List.length_nil, Nat.zero_add, Nat.div_eq_of_lt (by omega)]
    · next hl =>
      have hpos : 0 < l.length := List.length_pos_iff.mpr fun he => hl (List.isEmpty_iff.mpr he)
      rw [List.length_cons, length_cut hp k (l.drop p) (by rw [List.length_drop, Nat.mul_succ] at *; omega), List.length_drop, ← Nat.add_div_right _ hp]
      by_cases hlt : l.length ≤ p
      · rw [Nat.sub_eq_zero_of_le hlt, Nat.div_eq_of_lt_le (k := 1) (by omega) (by omega), Nat.div_eq_of_lt_le (k := 1) (by omega) (by omega)]
      · congr 1
        omega

/-- Cutting and joining again loses elements at most. -/
theorem length_cut_flatten {α β : Type} (f : List α → List β) (hf : ∀ l, (f l).length = l.length) (p : Nat) :
    ∀ (k : Nat) (l : List α), ((cut p k l).flatMap f).length ≤ l.length
  | 0, l => by simp [cut]
  | k + 1, l => by
    rw [cut]
    split
    · simp
    · have ih := length_cut_flatten f hf p k (l.drop p)
      rw [List.length_drop] at ih
      rw [List.flatMap_cons, List.length_append, hf, List.length_take]
      omega

theorem length_mxBlock (otype : Nat) (trunc : Bool) (ws : List Nat) : (mxBlock otype trunc ws).2.length = ws.length := by
  unfold mxBlock
  dsimp only
  split
  · simp
  · split <;> simp

theorem length_step3 (x : StoreRec) (prog : List Byte) (ws : List Nat) : (step3 x prog ws).1.length = ws.length := by
  unfold step3
  split <;> simp

section Epilogue

variable (x : StoreRec) (prog : List Byte) (sc bi : List Nat) (tag r : Nat) (row : List Nat)

theorem length_epilogueRow : (epilogueRow x prog sc bi tag r row).1.length ≤ row.length := by
  unfold epilogueRow
  dsimp only
  split
  · simp
  · split
    · dsimp only
      rw [List.flatMap_map]
      refine (length_cut_flatten _ (fun l => length_mxBlock x.otype x.trunc l) 32 3 _).trans ?_
      rw [length_step3, List.length_map, length_numbered]
    · dsimp only
      rw [List.length_map, length_step3, List.length_map, length_numbered]

theorem epilogueRow_plain (h : isMx x.otype = false) : (epilogueRow x prog sc bi tag r row).2.1 = [] := by
  unfold epilogueRow
  dsimp only
  rw [h]
  split <;> rfl

theorem length_scales (h : isMx x.otype = true) (hlen : row.length ≤ 64) : (epilogueRow x prog sc bi tag r row).2.1.length = (row.length + 31) / 32 := by
  unfold epilogueRow
  dsimp only
  rw [if_neg (by rintro ⟨-, -, -, -, ho⟩; rw [ho] at h; cases h), if_pos h]
  dsimp only
  rw [List.length_map, List.length_map, length_cut (by decide) 3 _ (by rw [length_step3, List.length_map, length_numbered]; omega), length_step3, List.length_map, length_numbered]
  rfl

/-- An element of a row that goes through a fixed activation to a type that is not an MX type. -/
def storeCode (x : StoreRec) (sc bi : List Nat) (tag r : Nat) (e : Nat × Nat) : Nat :=
  if tag = 2 ∧ x.smode = 0 ∧ x.bmode = 0 ∧ x.act = 0 ∧ x.otype = 0xD then e.2
  else (narrowOut x.otype x.trunc x.sat (activate x.act x.actp (step12 x sc bi r e.1 (step0 tag e.2)))).code

theorem epilogueRow_codes (h : isMx x.otype = false) (hact : x.act ≠ 0x1F) :
    (epilogueRow x prog sc bi tag r row).1.map (·.code) = (numbered row).map (storeCode x sc bi tag r) := by
  unfold epilogueRow storeCode
  dsimp only
  split
  · rw [List.map_map]
    exact (List.map_id row).trans (map_snd_numbered row).symm
  · rw [h]
    unfold step3
    rw [if_neg hact]
    simp only [Bool.false_eq_true, if_false, List.map_map]
    rfl

end Epilogue

/-- Row i of a TSTORE: its elements, its scale bytes and its flags. -/
def storeVals (s : State) (c : Ctx) (x : StoreRec) (prog : List Byte) (sc bi : List Nat) (i : Nat) : List OutElem × List Nat × EmFlags :=
  epilogueRow x prog sc bi (s.tag c.core (x.tile + i / 64)) i ((s.tileRow c.core (x.tile + i / 64) (i % 64)).take x.n)

def storeData (s : State) (c : Ctx) (x : StoreRec) (prog : List Byte) (sc bi : List Nat) (i : Nat) : List Byte :=
  pack x.otype ((storeVals s c x prog sc bi i).1.map (·.code))

def storeScales (s : State) (c : Ctx) (x : StoreRec) (prog : List Byte) (sc bi : List Nat) (i : Nat) : List Byte :=
  (storeVals s c x prog sc bi i).2.1.map (BitVec.ofNat 8)

/-- What row i of a TSTORE writes: its elements, and the scales of an MX type. -/
def storeOut (s : State) (c : Ctx) (x : StoreRec) (prog : List Byte) (sc bi : List Nat) (i : Nat) : List (Nat × List Byte) :=
  (x.dst + i * x.stride, storeData s c x prog sc bi i) ::
    if isMx x.otype then [(localBase c.core + x.mxs + i * (x.n / 32), storeScales s c x prog sc bi i)] else []

/-- What the checks of a TSTORE say of its sizes. -/
structure StoreShape (x : StoreRec) : Prop where
  stride : packedLen x.otype x.n ≤ x.stride
  cols : x.n ≤ 64
  blocks : isMx x.otype = true → x.n % 32 = 0

theorem tstoreFail_eq_none {c : Ctx} {s : State} (h : tstoreFail c s = none) :
    let x := storeRec c.item
    StoreShape x ∧ firstOutside c.core (storeRanges c.core x) = none := by
  unfold tstoreFail at h
  dsimp only at h
  split at h
  · cases h
  · split at h
    · cases h
    · next hshape =>
      split at h
      · cases h
      · have hstride := firstFail_eq_none.mp hshape (0x10, _) (List.mem_cons_of_mem _ List.mem_cons_self)
        have hcols := firstFail_eq_none.mp hshape (0x18, _) (List.mem_cons_of_mem _ (List.mem_cons_of_mem _ (List.mem_cons_of_mem _ List.mem_cons_self)))
        simp only [Bool.and_eq_true, decide_eq_true_eq, Bool.or_eq_true, Bool.not_eq_true', beq_iff_eq] at hstride hcols
        exact ⟨⟨hstride.2, hcols.1.2, fun hmx => hcols.2.resolve_left (by simp [hmx])⟩, Option.map_eq_none_iff.mp h⟩

section Store

variable {c : Ctx} {s : State} {x : StoreRec} {prog : List Byte} {sc bi : List Nat}

theorem length_storeData (hx : StoreShape x) (i : Nat) : (storeData s c x prog sc bi i).length ≤ packedLen x.otype x.n := by
  refine length_pack_le ?_ hx.blocks
  rw [List.length_map]
  exact (length_epilogueRow ..).trans (List.length_take_le _ _)

theorem length_storeScales (hx : StoreShape x) (hmx : isMx x.otype = true) (i : Nat) : (storeScales s c x prog sc bi i).length ≤ x.n / 32 := by
  have hrow : ((s.tileRow c.core (x.tile + i / 64) (i % 64)).take x.n).length ≤ x.n := List.length_take_le _ _
  have hcols := hx.cols
  have hblocks := hx.blocks hmx
  rw [storeScales, List.length_map, storeVals, length_scales _ _ _ _ _ _ _ hmx (by omega)]
  omega

theorem storeScales_plain (hmx : ¬ isMx x.otype = true) (i : Nat) : storeScales s c x prog sc bi i = [] := by
  rw [storeScales, storeVals, epilogueRow_plain _ _ _ _ _ _ _ (by simpa using hmx)]
  rfl

/-- A row's writes, and those of two rows, are apart where the scales lie apart from the elements. -/
theorem storeOut_plan (hx : StoreShape x)
    (hapart : isMx x.otype = true → rangesApart (x.dst, x.m * x.stride) (localBase c.core + x.mxs, x.m * (x.n / 32))) :
    RowPlan (storeOut s c x prog sc bi) (fun i => (storeOut s c x prog sc bi i).map writeRange) x.m := by
  have hdata (i : Nat) := (length_storeData (s := s) (c := c) (prog := prog) (sc := sc) (bi := bi) hx i).trans hx.stride
  by_cases hmx : isMx x.otype = true
  · have hscale (i : Nat) := length_storeScales (s := s) (c := c) (prog := prog) (sc := sc) (bi := bi) hx hmx i
    have hcross (i j : Nat) (hi : i < x.m) (hj : j < x.m) := (hapart hmx).within
      (rangeWithin_row (a := x.dst) hi (hdata i)) (rangeWithin_row (a := localBase c.core + x.mxs) hj (hscale j))
    refine ⟨fun _ _ => rfl, fun i hi => ?_, fun i j hij hj => ?_⟩
    · simpa [storeOut, hmx, writeRange] using hcross i i hi hi
    · simp only [storeOut, hmx, if_true, List.map_cons, List.map_nil, writeRange, List.forall_mem_cons, List.not_mem_nil, false_implies, implies_true, and_true]
      exact ⟨⟨rangesApart_rows (by omega) (hdata i) (hdata j), hcross i j (by omega) hj⟩, (hcross j i hj (by omega)).symm,
        rangesApart_rows (by omega) (hscale i) (hscale j)⟩
  · refine ⟨fun _ _ => rfl, fun i hi => ?_, fun i j hij hj => ?_⟩
    · simp [storeOut, hmx]
    · simp only [storeOut, hmx, Bool.false_eq_true, if_false, List.map_cons, List.map_nil, List.mem_singleton, forall_eq]
      exact rangesApart_rows (by omega) (hdata i) (hdata j)

/-- Row i of a TSTORE is computed and written. -/
theorem storeRow_eq (a : StoreAcc) (i : Nat) :
    ∃ fl ev, storeRow c x prog sc bi a i =
      (let t := if x.act = 0x1F then a.s.putTemps c.core (64 * (i % 2)) (storeVals a.s c x prog sc bi i).2.2.temps else a.s
       let w := t.writeMem (srcCore c.core) (x.dst + i * x.stride) (storeData a.s c x prog sc bi i)
       let v := w.1.writeMem (srcCore c.core) (localBase c.core + x.mxs + i * (x.n / 32)) (storeScales a.s c x prog sc bi i)
       { s := v.1.accRows c.core 1, err := (a.err.orElse (fun _ => w.2)).orElse (fun _ => v.2), fl, ev }) := ⟨_, _, rfl⟩

theorem storeRow_local {m : Memory} {a : StoreAcc} {i : Nat} (hn : c.core < 128) (hx : StoreShape x) (hs : s.ranLocal m a.s) (herr : a.err = none)
    (hdst : localOrEmpty c.core (x.dst + i * x.stride) (packedLen x.otype x.n))
    (hmxs : isMx x.otype = true → localOrEmpty c.core (localBase c.core + x.mxs + i * (x.n / 32)) (x.n / 32)) :
    s.ranLocal (m.setAll (storeOut s c x prog sc bi i)) (storeRow c x prog sc bi a i).s ∧ (storeRow c x prog sc bi a i).err = none := by
  obtain ⟨fl, ev, hstep⟩ := storeRow_eq (c := c) (x := x) (prog := prog) (sc := sc) (bi := bi) a i
  have hvals : storeVals a.s c x prog sc bi i = storeVals s c x prog sc bi i := by
    simp only [storeVals, State.tag_of_mats hs.mats, State.tileRow_of_mats hs.mats]
  have hdata : storeData a.s c x prog sc bi i = storeData s c x prog sc bi i := by rw [storeData, hvals, storeData]
  have hscales : storeScales a.s c x prog sc bi i = storeScales s c x prog sc bi i := by rw [storeScales, hvals, storeScales]
  have hstart : s.ranLocal m (if x.act = 0x1F then a.s.putTemps c.core (64 * (i % 2)) (storeVals a.s c x prog sc bi i).2.2.temps else a.s) := by
    split
    · exact hs.putTemps _ _ _
    · exact hs
  have hw := hstart.write hn (b := storeData s c x prog sc bi i) (hdst.sub' (length_storeData hx i)) (srcCore c.core)
  have hs1 := hstart.setMem (m.setBytes (x.dst + i * x.stride) (storeData s c x prog sc bi i))
  have hplace : localOrEmpty c.core (localBase c.core + x.mxs + i * (x.n / 32)) (storeScales s c x prog sc bi i).length := by
    by_cases hmx : isMx x.otype = true
    · exact (hmxs hmx).sub' (length_storeScales hx hmx i)
    · exact .inl (by rw [storeScales_plain hmx]; rfl)
  have hv := hs1.write hn hplace (srcCore c.core)
  have hmem : m.setAll (storeOut s c x prog sc bi i) = (m.setBytes (x.dst + i * x.stride) (storeData s c x prog sc bi i)).setBytes
      (localBase c.core + x.mxs + i * (x.n / 32)) (storeScales s c x prog sc bi i) := by
    unfold storeOut
    split
    · rfl
    · next hmx => rw [storeScales_plain hmx]; rfl
  rw [hdata, hscales] at hstep
  dsimp only at hstep
  rw [hw] at hstep
  dsimp only at hstep
  rw [hv, herr] at hstep
  rw [hstep, hmem]
  exact ⟨(hs1.setMem _).accRows _ _, rfl⟩

end Store

/-- The scales and the biases that a TSTORE reads. -/
def storeScaleVec (x : StoreRec) (m : Memory) : List Nat := unpack 2 (scaleLen x / 4) (m.bytes x.scAddr (scaleLen x))

def storeBiasVec (x : StoreRec) (m : Memory) : List Nat :=
  if x.bmode = 2 then (unpack 0 x.n (m.bytes x.bAddr (biasLen x))).map (fun w => toF32 (elemVal 0 w)) else unpack 2 (biasLen x / 4) (m.bytes x.bAddr (biasLen x))

/-- A TSTORE whose reads meet no error runs its rows. -/
theorem storeBody_of_reads {c : Ctx} {x : StoreRec} {s : State} {prog : List Byte} (hprog : prog = if x.act = 0x1F then s.emSlot c.core x.ember else [])
    (hact : x.act = 0x1F → prog ≠ [] ∧ emActivation prog = true)
    (hsc : s.readMem (srcCore c.core) x.scAddr (scaleLen x) = (s, ⟨s.mem.bytes x.scAddr (scaleLen x), [], none⟩))
    (hbi : s.readMem (srcCore c.core) x.bAddr (biasLen x) = (s, ⟨s.mem.bytes x.bAddr (biasLen x), [], none⟩)) :
    let a := (List.range x.m).foldl (storeRow c x prog (storeScaleVec x s.mem) (storeBiasVec x s.mem)) { s }
    ∃ t, t.mem = a.s.mem ∧ storeBody c x s = endMem t a.err := by
  intro a
  unfold storeBody
  rw [← hprog]
  dsimp only
  rw [if_neg (by rintro ⟨h, hp⟩; obtain ⟨h1, h2⟩ := hact h; rcases hp with hp | hp; exacts [h1 hp, hp h2]), hsc]
  dsimp only
  rw [hbi]
  refine ⟨_, ?_, rfl⟩
  split
  · simp only [State.count_mem, State.veFlagIf_mem, State.accEvents_mem]
    rfl
  · rw [State.accEvents_mem]
    rfl

/-- What a TSTORE writes. -/
theorem tstoreWork_wrote {c : Ctx} {s : State} (hn : c.core < 128) (hq : s.localQuiet) (hfail : tstoreFail c s = none) {x : StoreRec}
    (hx : x = storeRec c.item) {prog : List Byte} (hprog : prog = if x.act = 0x1F then s.emSlot c.core x.ember else [])
    (hact : x.act = 0x1F → prog ≠ [] ∧ emActivation prog = true) :
    (tstoreWork c s).2 = .ended stOk 0 ∧
      (tstoreWork c s).1.mem = s.mem.setAll (rowWrites (storeOut s c x prog (storeScaleVec x s.mem) (storeBiasVec x s.mem)) x.m) := by
  have hchecks := tstoreFail_eq_none hfail
  simp only [← hx] at hchecks
  obtain ⟨hshape, hranges⟩ := hchecks
  have hs := State.ranLocal_self hq
  have hsc : localOrEmpty c.core x.scAddr (scaleLen x) := localOrEmpty_of_firstOutside hranges (by simp [storeRanges])
  have hbi : localOrEmpty c.core x.bAddr (biasLen x) := localOrEmpty_of_firstOutside hranges (by simp [storeRanges])
  obtain ⟨t, hmem, hbody⟩ := storeBody_of_reads hprog hact (hs.read hn hsc _) (hs.read hn hbi _)
  have hfold := foldl_range_inv (f := storeRow c x prog (storeScaleVec x s.mem) (storeBiasVec x s.mem)) (n := x.m) (b := { s })
    (fun i a => s.ranLocal (s.mem.setAll (rowWrites (storeOut s c x prog (storeScaleVec x s.mem) (storeBiasVec x s.mem)) i)) a.s ∧ a.err = none)
    ⟨hs, rfl⟩ fun i hi a ⟨ha, herr⟩ => by
      rw [setAll_rowWrites_succ]
      refine storeRow_local hn hshape ha herr ?_ fun hmx => ?_
      · exact localOrEmpty_of_firstOutside hranges (List.mem_append_left _ (List.mem_append_left _ (mem_rowRanges hi)))
      · have hall : localOrEmpty c.core (localBase c.core + x.mxs) (x.m * x.n / 32) :=
          localOrEmpty_of_firstOutside hranges (List.mem_append_right _ (by rw [if_pos hmx]; exact List.mem_cons_self))
        rw [Nat.mul_div_assoc _ (Nat.dvd_of_mod_eq_zero (hshape.blocks hmx))] at hall
        have hrow := rangeWithin_row (a := localBase c.core + x.mxs) (stride := x.n / 32) hi le_rfl
        exact hall.sub hrow.1 hrow.2
  obtain ⟨ha, herr⟩ := hfold
  have hwork : tstoreWork c s = storeBody c x s := by rw [hx]; rfl
  rw [hwork, hbody, herr]
  exact ⟨rfl, hmem.trans ha.mem⟩

section Written

variable {c : Ctx} {s t : State} {x : StoreRec} {prog : List Byte} {sc bi : List Nat} {i : Nat}

/-- The elements and the scales of row i after all rows of a TSTORE. -/
theorem storeOut_written (hx : StoreShape x) (hi : i < x.m) (m : Memory)
    (hapart : isMx x.otype = true → rangesApart (x.dst, x.m * x.stride) (localBase c.core + x.mxs, x.m * (x.n / 32))) :
    (m.setAll (rowWrites (storeOut s c x prog sc bi) x.m)).bytes (x.dst + i * x.stride) (storeData s c x prog sc bi i).length = storeData s c x prog sc bi i ∧
      (isMx x.otype = true → ((s.tileRow c.core (x.tile + i / 64) (i % 64)).take x.n).length = x.n →
        (m.setAll (rowWrites (storeOut s c x prog sc bi) x.m)).bytes (localBase c.core + x.mxs + i * (x.n / 32)) (x.n / 32) =
          storeScales s c x prog sc bi i) := by
  have hplan := storeOut_plan (s := s) (c := c) (prog := prog) (sc := sc) (bi := bi) hx hapart
  refine ⟨hplan.bytes_after hi m List.mem_cons_self, fun hmx hrow => ?_⟩
  have hcols := hx.cols
  have hblocks := hx.blocks hmx
  have hlen : (storeScales s c x prog sc bi i).length = x.n / 32 := by
    rw [storeScales, List.length_map, storeVals, length_scales _ _ _ _ _ _ _ hmx (by omega), hrow]
    omega
  have hafter := hplan.bytes_after hi m (w := (localBase c.core + x.mxs + i * (x.n / 32), storeScales s c x prog sc bi i)) (by simp [storeOut, hmx])
  rwa [hlen] at hafter

/-- A row of a type that is not an MX type, through a fixed activation. -/
theorem storeData_codes (hmx : isMx x.otype = false) (hact : x.act ≠ 0x1F) :
    storeData s c x prog sc bi i = pack x.otype ((numbered ((s.tileRow c.core (x.tile + i / 64) (i % 64)).take x.n)).map
      (storeCode x sc bi (s.tag c.core (x.tile + i / 64)) i)) := by
  rw [storeData, storeVals, epilogueRow_codes _ _ _ _ _ _ _ hmx hact]

end Written

/-- Row i of memory once a TSTORE has run. -/
theorem tstoreWork_row {c : Ctx} {s : State} (hn : c.core < 128) (hq : s.localQuiet) (hfail : tstoreFail c s = none) {x : StoreRec}
    (hx : x = storeRec c.item) {prog : List Byte} (hprog : prog = if x.act = 0x1F then s.emSlot c.core x.ember else [])
    (hact : x.act = 0x1F → prog ≠ [] ∧ emActivation prog = true) {i : Nat} (hi : i < x.m)
    (hapart : isMx x.otype = false ∨ rangesApart (localBase c.core + x.mxs, x.m * (x.n / 32)) (x.dst, x.m * x.stride)) :
    let data := storeData s c x prog (storeScaleVec x s.mem) (storeBiasVec x s.mem) i
    (tstoreWork c s).1.mem.bytes (x.dst + i * x.stride) data.length = data ∧
      (isMx x.otype = true → ((s.tileRow c.core (x.tile + i / 64) (i % 64)).take x.n).length = x.n →
        (tstoreWork c s).1.mem.bytes (localBase c.core + x.mxs + i * (x.n / 32)) (x.n / 32) =
          storeScales s c x prog (storeScaleVec x s.mem) (storeBiasVec x s.mem) i) := by
  have hchecks := tstoreFail_eq_none hfail
  simp only [← hx] at hchecks
  rw [(tstoreWork_wrote hn hq hfail hx hprog hact).2]
  exact storeOut_written hchecks.1 hi s.mem fun hmx => (hapart.resolve_left (by simp [hmx])).symm

end Sys2Proof.Machine

namespace Sys2Proof.Machine

/-! ## Tile rows and tags -/

/-- Row k of the tiles of a core, counted over all tiles. -/
def State.rowAt (s : State) (n k : Nat) : List Nat := mget zeroRow (s.mat n).rows k

theorem State.tileRow_eq_rowAt (s : State) (n t k : Nat) : s.tileRow n (t + k / 64) (k % 64) = s.rowAt n (64 * t + k) := by
  rw [State.tileRow, State.rowAt]
  congr 1
  omega

theorem State.rowAt_setTag (s : State) (n t g m k : Nat) : (s.setTag n t g).rowAt m k = s.rowAt m k := by
  unfold State.rowAt State.setTag
  by_cases h : m = n
  · subst h; rw [State.mat_setMat_self]
  · rw [State.mat_setMat_ne _ _ h]

theorem State.tag_setTag (s : State) (n t g m k : Nat) : (s.setTag n t g).tag m k = if m = n ∧ k = t then g else s.tag m k := by
  unfold State.tag State.setTag
  by_cases h : m = n
  · subst h; rw [State.mat_setMat_self, mget_mset]; simp
  · rw [State.mat_setMat_ne _ _ h]; simp [h]

/-- The core's matrix part after a write of the first columns of a row. -/
theorem State.mat_putCols (s : State) (n t r : Nat) (vals marks : List Nat) :
    ∃ ms, (s.putCols n t r vals marks).mat n = { s.mat n with rows := mset zeroRow (s.mat n).rows (64 * t + r) (rowPut (s.tileRow n t r) vals), marks := ms } := by
  unfold State.putCols State.setTileRow
  dsimp only
  rw [State.mat_setMat_self, State.mat_setMat_self]
  exact ⟨_, rfl⟩

theorem State.mat_putCols_ne (s : State) {n m : Nat} (t r : Nat) (vals marks : List Nat) (h : m ≠ n) : (s.putCols n t r vals marks).mat m = s.mat m := by
  unfold State.putCols State.setTileRow
  dsimp only
  rw [State.mat_setMat_ne _ _ h, State.mat_setMat_ne _ _ h]

theorem State.rowAt_putCols (s : State) (n t r : Nat) (vals marks : List Nat) (m k : Nat) :
    (s.putCols n t r vals marks).rowAt m k = if m = n ∧ k = 64 * t + r then rowPut (s.rowAt m k) vals else s.rowAt m k := by
  unfold State.rowAt
  by_cases h : m = n
  · subst h
    obtain ⟨ms, hm⟩ := s.mat_putCols m t r vals marks
    rw [hm, mget_mset]
    by_cases hk : k = 64 * t + r
    · simp only [hk, true_and, if_true]; rfl
    · simp [hk]
  · rw [State.mat_putCols_ne _ _ _ _ _ h]; simp [h]

theorem State.tag_putCols (s : State) (n t r : Nat) (vals marks : List Nat) (m k : Nat) : (s.putCols n t r vals marks).tag m k = s.tag m k := by
  unfold State.tag
  by_cases h : m = n
  · subst h
    obtain ⟨ms, hm⟩ := s.mat_putCols m t r vals marks
    rw [hm]
  · rw [State.mat_putCols_ne _ _ _ _ _ h]

/-- States with the same tiles. -/
structure State.sameTiles (s t : State) : Prop where
  row : ∀ n k, t.rowAt n k = s.rowAt n k
  tag : ∀ n k, t.tag n k = s.tag n k

theorem State.sameTiles_of_mats {s t : State} (h : t.mats = s.mats) : s.sameTiles t :=
  ⟨fun n k => by simp only [State.rowAt, State.mat, h], fun n k => State.tag_of_mats h n k⟩

theorem State.sameTiles.trans {s t u : State} (h : s.sameTiles t) (h' : t.sameTiles u) : s.sameTiles u :=
  ⟨fun n k => (h'.row n k).trans (h.row n k), fun n k => (h'.tag n k).trans (h.tag n k)⟩

/-- A change of a core's operations and banks leaves the tiles alone. -/
theorem State.sameTiles_setMat (s : State) {n : Nat} {m : Mat} (hr : m.rows = (s.mat n).rows) (ht : m.tags = (s.mat n).tags) : s.sameTiles (s.setMat n m) := by
  constructor
  · intro k _
    unfold State.rowAt
    by_cases h : k = n
    · subst h; rw [State.mat_setMat_self, hr]
    · rw [State.mat_setMat_ne _ _ h]
  · intro k _
    unfold State.tag
    by_cases h : k = n
    · subst h; rw [State.mat_setMat_self, ht]
    · rw [State.mat_setMat_ne _ _ h]

/-- The first r rows of a record are written: `vals` are the new values of a row's first columns, `want` the tags of its tiles. -/
structure State.tilesRan (s : State) (n tile : Nat) (want : Nat → Nat) (vals : Nat → List Nat) (r : Nat) (t : State) : Prop where
  done : ∀ i < r, t.rowAt n (64 * tile + i) = rowPut (s.rowAt n (64 * tile + i)) (vals i)
  left : ∀ i, r ≤ i → t.rowAt n (64 * tile + i) = s.rowAt n (64 * tile + i)
  tags : ∀ i < r, t.tag n (tile + i / 64) = want (i / 64)

section Ran

variable {s t u : State} {n tile r : Nat} {want : Nat → Nat} {vals : Nat → List Nat}

theorem State.tilesRan_zero (h : s.sameTiles t) : s.tilesRan n tile want vals 0 t :=
  ⟨fun i hi => absurd hi (Nat.not_lt_zero i), fun _ _ => h.row n _, fun i hi => absurd hi (Nat.not_lt_zero i)⟩

theorem State.tilesRan.same (h : s.tilesRan n tile want vals r t) (hu : t.sameTiles u) : s.tilesRan n tile want vals r u :=
  ⟨fun i hi => (hu.row _ _).trans (h.done i hi), fun i hi => (hu.row _ _).trans (h.left i hi), fun i hi => (hu.tag _ _).trans (h.tags i hi)⟩

/-- Row r is written. -/
theorem State.tilesRan.step (h : s.tilesRan n tile want vals r t)
    (hrow : ∀ k, u.rowAt n k = if k = 64 * tile + r then rowPut (t.rowAt n k) (vals r) else t.rowAt n k)
    (htag : ∀ k, u.tag n k = if k = tile + r / 64 then want (r / 64) else t.tag n k) : s.tilesRan n tile want vals (r + 1) u := by
  refine ⟨fun i hi => ?_, fun i hi => ?_, fun i hi => ?_⟩
  · rw [hrow]
    by_cases hir : i = r
    · subst hir
      rw [if_pos rfl, h.left i le_rfl]
    · rw [if_neg (by omega), h.done i (by omega)]
  · rw [hrow, if_neg (by omega), h.left i (by omega)]
  · rw [htag]
    by_cases hk : i / 64 = r / 64
    · rw [if_pos (by omega), hk]
    · rw [if_neg (by omega), h.tags i (by have : i ≠ r := fun he => hk (by rw [he]); omega)]

/-- An element of a row that is written. -/
theorem State.tilesRan.getD (h : s.tilesRan n tile want vals r t) {i j : Nat} (hi : i < r) (hj : j < (vals i).length) :
    (t.tileRow n (tile + i / 64) (i % 64)).getD j 0 = (vals i).getD j 0 := by
  rw [State.tileRow_eq_rowAt, h.done i hi, rowPut, List.getD_append _ _ _ _ hj]

end Ran

/-! ## What TLOAD leaves in its tiles (R165) -/

@[simp] theorem State.accEvents_mats (s : State) (n : Nat) (f : EvFl) : (s.accEvents n f).mats = s.mats := by
  have hflag (t : State) (i : Nat) (b : Bool) : (t.accFlagIf n i b).mats = t.mats := by
    unfold State.accFlagIf State.accFlag
    split <;> simp
  simp only [State.accEvents, hflag]

@[simp] theorem State.accRows_mats (s : State) (n k : Nat) : (s.accRows n k).mats = s.mats := by simp [State.accRows]

/-- A state that goes on over the memory of s, which is quiet. -/
def State.onMemory (s t : State) : Prop := t.localQuiet ∧ t.mem = s.mem

theorem State.onMemory.read {s t : State} (h : s.onMemory t) {n a len : Nat} (hn : n < 128) (hr : localOrEmpty n a len) (src : Src) :
    t.readMem src a len = (t, ⟨s.mem.bytes a len, [], none⟩) := by
  rw [(State.ranLocal_self h.1).read hn hr, h.2]

theorem State.onMemory.of_eq {s t u : State} (h : s.onMemory t) (henv : u.env = t.env) (hpoison : u.poison = t.poison) (hbias : u.bias = t.bias)
    (hmem : u.mem = t.mem) : s.onMemory u := ⟨h.1.of_eq henv hpoison hbias, hmem.trans h.2⟩

theorem State.onMemory.setTag {s t : State} (h : s.onMemory t) (n k g : Nat) : s.onMemory (t.setTag n k g) := h.of_eq rfl rfl rfl rfl

theorem State.onMemory.putCols {s t : State} (h : s.onMemory t) (n k r : Nat) (vals marks : List Nat) : s.onMemory (t.putCols n k r vals marks) :=
  h.of_eq rfl rfl rfl rfl

theorem State.onMemory.count {s t : State} (h : s.onMemory t) (o x : Nat) : s.onMemory (t.count o x) := h.of_eq (by simp) (by simp) (by simp) (by simp)

/-- The new values of row i of a TLOAD. -/
def tloadVals (s : State) (n : Nat) (x : TloadFields) (i : Nat) : List Nat :=
  let xs := (unpack x.stype x.n (s.mem.bytes (x.a + i * x.stride) (x.n * srcBytes x.stype))).map (tloadElem x.stype)
  if x.add then (List.zipWith (accAdd (x.stype == 0xD)) ((s.rowAt n (64 * x.tile + i)).take x.n) xs).map (·.1) else xs

/-- The tag of the tiles that a TLOAD writes. -/
def tloadTag (x : TloadFields) : Nat := if x.stype = 0xD then 2 else 1

/-- One row of a TLOAD. -/
theorem tloadRows_succ {c : Ctx} {x : TloadFields} {s t : State} {left r : Nat} {fl : EvFl} (hn : c.core < 128) (hs : s.onMemory t)
    (hsrc : localOrEmpty c.core (x.a + r * x.stride) (x.n * srcBytes x.stype))
    (hran : s.tilesRan c.core x.tile (fun _ => tloadTag x) (tloadVals s c.core x) r t) :
    ∃ u fl', State.tloadRows c x.stype x.n x.tile x.a x.stride x.add (left + 1) r fl t =
        State.tloadRows c x.stype x.n x.tile x.a x.stride x.add left (r + 1) fl' u ∧
      s.onMemory u ∧ s.tilesRan c.core x.tile (fun _ => tloadTag x) (tloadVals s c.core x) (r + 1) u := by
  have hrow : ((t.setTag c.core (x.tile + r / 64) (tloadTag x)).accRows c.core 1).tileRow c.core (x.tile + r / 64) (r % 64) =
      s.rowAt c.core (64 * x.tile + r) := by
    rw [State.tileRow_eq_rowAt, (State.sameTiles_of_mats (State.accRows_mats _ _ _)).row, State.rowAt_setTag, hran.left r le_rfl]
  have hvals (add : Bool) (hadd : add = x.add) : ((if add = true then List.zipWith (accAdd (x.stype == 0xD)) ((s.rowAt c.core (64 * x.tile + r)).take x.n)
      ((unpack x.stype x.n (s.mem.bytes (x.a + r * x.stride) (x.n * srcBytes x.stype))).map (tloadElem x.stype))
      else ((unpack x.stype x.n (s.mem.bytes (x.a + r * x.stride) (x.n * srcBytes x.stype))).map (tloadElem x.stype)).map (fun x => (x, false))).map (·.1)) =
      tloadVals s c.core x r := by
    subst hadd
    unfold tloadVals
    dsimp only
    split
    · rfl
    · rw [List.map_map]
      exact List.map_id _
  have hread := hs.read hn hsrc (srcCore c.core)
  rw [State.tloadRows]
  dsimp only
  rw [hread]
  dsimp only
  rw [← tloadTag, hrow, hvals _ rfl]
  refine ⟨_, _, rfl, ((hs.setTag _ _ _).count _ _).putCols _ _ _ _ _, hran.step (fun k => ?_) (fun k => ?_)⟩
  · rw [State.rowAt_putCols, (State.sameTiles_of_mats (State.accRows_mats _ _ _)).row, State.rowAt_setTag,
      show 64 * (x.tile + r / 64) + r % 64 = 64 * x.tile + r by omega]
    simp
  · rw [State.tag_putCols, (State.sameTiles_of_mats (State.accRows_mats _ _ _)).tag, State.tag_setTag]
    simp

/-- The rows of a TLOAD from r on. -/
theorem tloadRows_local {c : Ctx} {x : TloadFields} {s : State} (hn : c.core < 128)
    (hsrc : ∀ i < x.m, localOrEmpty c.core (x.a + i * x.stride) (x.n * srcBytes x.stype)) : ∀ (left r : Nat) (fl : EvFl) (t : State), r + left = x.m →
    s.onMemory t → s.tilesRan c.core x.tile (fun _ => tloadTag x) (tloadVals s c.core x) r t →
    s.tilesRan c.core x.tile (fun _ => tloadTag x) (tloadVals s c.core x) x.m (State.tloadRows c x.stype x.n x.tile x.a x.stride x.add left r fl t).1
  | 0, r, fl, t, hr, _, hran => by
    obtain rfl : r = x.m := by omega
    exact hran.same (State.sameTiles_of_mats (State.accEvents_mats _ _ _))
  | left + 1, r, fl, t, hr, hs, hran => by
    obtain ⟨u, fl', hstep, hu, hran'⟩ := tloadRows_succ (left := left) (fl := fl) hn hs (hsrc r (by omega)) hran
    rw [hstep]
    exact tloadRows_local hn hsrc left (r + 1) fl' u (by omega) hu hran'

theorem tloadFail_ranges {c : Ctx} {s : State} (h : tloadFail c s = none) :
    let x := tloadFields c.item
    x.n ≤ 64 ∧ firstOutside c.core (rowRanges x.a x.stride (x.n * srcBytes x.stype) x.m) = none := by
  unfold tloadFail at h
  dsimp only at h
  split at h
  · cases h
  · split at h
    · cases h
    · next hshape =>
      split at h
      · cases h
      · have hcols := firstFail_eq_none.mp hshape (0x18, decide (1 ≤ (tloadFields c.item).n ∧ (tloadFields c.item).n ≤ 64)) (by simp)
        exact ⟨(of_decide_eq_true hcols).2, Option.map_eq_none_iff.mp h⟩

/-- What a TLOAD leaves in its tiles. -/
theorem tloadWork_tiles {c : Ctx} {s : State} (hn : c.core < 128) (hq : s.localQuiet) (hfail : tloadFail c s = none) {x : TloadFields}
    (hx : x = tloadFields c.item) (htag : x.add = true → s.tagFail c.core x.tile (lastTile x.tile x.m) (tloadTag x) = none) :
    s.tilesRan c.core x.tile (fun _ => tloadTag x) (tloadVals s c.core x) x.m (tloadWork c s).1 := by
  have hchecks := tloadFail_ranges hfail
  simp only [← hx] at hchecks
  have hrows := tloadRows_local (x := x) hn (fun i hi => localOrEmpty_of_firstOutside hchecks.2 (mem_rowRanges hi)) x.m 0 {} s (Nat.zero_add _)
    ⟨hq, rfl⟩ (State.tilesRan_zero (State.sameTiles_of_mats rfl))
  have hadd : (if x.add then s.tagFail c.core x.tile (lastTile x.tile x.m) (tloadTag x) else none) = none := by
    split
    · next h => exact htag h
    · rfl
  have hwork : tloadWork c s = State.tloadRows c x.stype x.n x.tile x.a x.stride x.add x.m 0 {} s := by
    subst hx
    unfold tloadWork
    dsimp only
    rw [← tloadTag, hadd]
  rw [hwork]
  exact hrows

/-- Element j of the new values of a row of a TLOAD. -/
theorem tloadVals_getD {s : State} {n : Nat} {x : TloadFields} {i j : Nat} (hrow : x.n ≤ (s.rowAt n (64 * x.tile + i)).length) (hj : j < x.n) :
    j < (tloadVals s n x i).length ∧ (tloadVals s n x i).getD j 0 =
      (let v := tloadElem x.stype ((unpack x.stype x.n (s.mem.bytes (x.a + i * x.stride) (x.n * srcBytes x.stype))).getD j 0)
       if x.add then (accAdd (x.stype == 0xD) ((s.rowAt n (64 * x.tile + i)).getD j 0) v).1 else v) := by
  have hlen := length_unpack x.stype x.n (s.mem.bytes (x.a + i * x.stride) (x.n * srcBytes x.stype))
  unfold tloadVals
  generalize unpack x.stype x.n (s.mem.bytes (x.a + i * x.stride) (x.n * srcBytes x.stype)) = codes at hlen ⊢
  have hj' : j < codes.length := by omega
  have hjr : j < (s.rowAt n (64 * x.tile + i)).length := by omega
  dsimp only
  split
  · constructor
    · simp only [List.length_map, List.length_zipWith, List.length_take]
      omega
    · simp [hj, hj', hjr]
  · simp [hj']

end Sys2Proof.Machine

namespace Sys2Proof.Machine

/-! ## What TCOMBINE leaves in its tiles (R166) -/

/-- The fields of a TCOMBINE: its tiles, whether it has B, and whether it adds and negates. -/
structure CombineRec where
  n : Nat
  a : Nat
  b : Nat
  d : Nat
  hasB : Bool
  add : Bool
  na : Bool
  nb : Bool

/-- The result type of tile i. -/
def CombineRec.type (x : CombineRec) (s : State) (i : Nat) : Nat :=
  combineType (s.tag x.n (x.a + i)) (if x.hasB then s.tag x.n (x.b + i) else 0) (s.tag x.n (x.d + i)) x.hasB x.add

/-- The sums of row k, each with whether it saturated. -/
def CombineRec.sums (x : CombineRec) (s : State) (k : Nat) : List (Nat × Bool) :=
  let isInt := x.type s (k / 64) == 2
  let xs := (s.tileRow x.n (x.a + k / 64) (k % 64)).map (accNeg isInt x.na)
  let ys := (s.tileRow x.n (x.b + k / 64) (k % 64)).map (accNeg isInt x.nb)
  let sum := if x.hasB then List.zipWith (accAdd isInt) xs ys else xs.map (fun x => (x, false))
  if x.add then
    List.zipWith (fun o (x : Nat × Bool) => let y := accAdd isInt o x.1; (y.1, y.2 || x.2)) (s.tileRow x.n (x.d + k / 64) (k % 64)) sum
  else sum

def CombineRec.vals (x : CombineRec) (s : State) (k : Nat) : List Nat := (x.sums s k).map (·.1)

/-- One row of a TCOMBINE. -/
theorem combineRow_eq (x : CombineRec) (s : State) (acc : State × EvFl) (k : Nat) :
    ∃ marks ev, combineRow s x.n x.a x.b x.d x.hasB x.add x.na x.nb acc k =
      ((acc.1.setTag x.n (x.d + k / 64) (x.type s (k / 64))).putCols x.n (x.d + k / 64) (k % 64) (x.vals s k) marks, ev) := ⟨_, _, rfl⟩

/-- All rows of a TCOMBINE. -/
theorem combineRows_tiles (x : CombineRec) (s : State) (rows : Nat) :
    s.tilesRan x.n x.d (x.type s) (x.vals s) rows ((List.range rows).foldl (combineRow s x.n x.a x.b x.d x.hasB x.add x.na x.nb) (s, {})).1 := by
  refine foldl_range_inv (fun k (acc : State × EvFl) => s.tilesRan x.n x.d (x.type s) (x.vals s) k acc.1) (State.tilesRan_zero (State.sameTiles_of_mats rfl)) ?_
  intro k _ acc h
  obtain ⟨marks, ev, hstep⟩ := combineRow_eq x s acc k
  rw [hstep]
  refine h.step (fun i => ?_) (fun i => ?_)
  · rw [State.rowAt_putCols, State.rowAt_setTag, show 64 * (x.d + k / 64) + k % 64 = 64 * x.d + k by omega]
    simp
  · rw [State.tag_putCols, State.tag_setTag]
    simp

/-- The fields of a TCOMBINE record. -/
def combineRec (c : Ctx) : CombineRec :=
  { n := c.core, a := c.item.f 8 1, b := c.item.f 9 1, d := c.item.f 0xA 1, hasB := c.item.f 9 1 != 0xFF, add := bit (c.item.f 0xC 1) 0,
    na := bit (c.item.f 0xC 1) 1, nb := bit (c.item.f 0xC 1) 2 }

/-- What a TCOMBINE whose tags are allowed leaves in its tiles. -/
theorem tcombineWork_tiles {c : Ctx} {s : State} {x : CombineRec} (hx : x = combineRec c)
    (htags : (List.range (c.item.f 0xB 1)).findSome? (s.combineFail x.n x.a x.b x.d x.hasB x.add) = none) :
    s.tilesRan x.n x.d (x.type s) (x.vals s) (64 * c.item.f 0xB 1) (tcombineWork c s).1 := by
  subst hx
  have hwork : ∃ t, (t.mats = ((List.range (64 * c.item.f 0xB 1)).foldl (combineRow s (combineRec c).n (combineRec c).a (combineRec c).b (combineRec c).d
      (combineRec c).hasB (combineRec c).add (combineRec c).na (combineRec c).nb) (s, {})).1.mats) ∧ tcombineWork c s = endOk t := by
    unfold tcombineWork
    dsimp only
    rw [show (List.range (c.item.f 0xB 1)).findSome? (s.combineFail c.core (c.item.f 8 1) (c.item.f 9 1) (c.item.f 0xA 1) (c.item.f 9 1 != 0xFF)
      (bit (c.item.f 0xC 1) 0)) = none from htags]
    exact ⟨_, (State.accRows_mats _ _ _).trans (State.accEvents_mats _ _ _), rfl⟩
  obtain ⟨t, hmats, hend⟩ := hwork
  rw [hend]
  exact (combineRows_tiles (combineRec c) s (64 * c.item.f 0xB 1)).same (State.sameTiles_of_mats hmats)

/-- Element j of a row of a TCOMBINE whose tile rows are whole. -/
theorem combineVals_getD {x : CombineRec} {s : State} {k j : Nat} (hrows : ∀ t r, (s.tileRow x.n t r).length = 64) (hj : j < 64) :
    j < (x.vals s k).length ∧ (x.vals s k).getD j 0 =
      (let isInt := x.type s (k / 64) == 2
       let a := accNeg isInt x.na ((s.tileRow x.n (x.a + k / 64) (k % 64)).getD j 0)
       let v := if x.hasB then (accAdd isInt a (accNeg isInt x.nb ((s.tileRow x.n (x.b + k / 64) (k % 64)).getD j 0))).1 else a
       if x.add then (accAdd isInt ((s.tileRow x.n (x.d + k / 64) (k % 64)).getD j 0) v).1 else v) := by
  have ha := hrows (x.a + k / 64) (k % 64)
  have hb := hrows (x.b + k / 64) (k % 64)
  have hd := hrows (x.d + k / 64) (k % 64)
  unfold CombineRec.vals CombineRec.sums
  generalize s.tileRow x.n (x.a + k / 64) (k % 64) = ra at ha ⊢
  generalize s.tileRow x.n (x.b + k / 64) (k % 64) = rb at hb ⊢
  generalize s.tileRow x.n (x.d + k / 64) (k % 64) = rd at hd ⊢
  have hja : j < ra.length := by omega
  have hjb : j < rb.length := by omega
  have hjd : j < rd.length := by omega
  dsimp only
  cases x.hasB <;> cases x.add <;> simp [hja, hjb, hjd]

end Sys2Proof.Machine

namespace Sys2Proof.Machine

/-! ## What the rows of an MMA leave in its tiles (R140 to R146, R156 to R162) -/

/-- The new element of a column from a streamed row, all passes of an FP32 record included. -/
def mmaVal (x : MmaRec) (rl edge : Nat) (b blo : Bank) (aRow aScale : List Nat) (old n : Nat) : Nat :=
  let col := b.cols.getD n []
  if isInt8 x.atype then (intElem x.acc x.neg old (aRow.map (elemVal x.atype)) (col.map (elemVal b.type))).1
  else if x.atype = 2 then
    let runs (u v : List Fp) := floatRuns (roundFp fmtF32) 1 rl edge false x.neg u v [] []
    let hi := aRow.map (fun w => decodeFp fmtBf16 (splitHi w))
    let bh := col.map (decodeFp fmtBf16)
    let w1 := (promote x.acc old (runs hi bh)).1
    let w2 := (promote true w1 (runs (aRow.map (fun w => decodeFp fmtBf16 (splitLo w))) bh)).1
    (promote true w2 (runs hi ((blo.cols.getD n []).map (decodeFp fmtBf16)))).1
  else
    let sa := if isMx x.atype then aScale.map e8m0 else List.replicate (aRow.length / 32) .one
    let sb := if isMx b.type then (b.scales.getD n []).map e8m0 else List.replicate (aRow.length / 32) .one
    (promote x.acc old (floatRuns (roundFp fmtF24) (typeP x.atype) rl edge (isMx x.atype || isMx b.type) x.neg (aRow.map (elemVal x.atype))
      (col.map (elemVal b.type)) sa sb)).1

theorem mmaElem_vals (x : MmaRec) (rl edge : Nat) (b blo : Bank) (aRow aScale : List Nat) (o : RowOut) (old n : Nat) :
    (mmaElem x false rl edge b blo aRow aScale o old n).vals = o.vals ++ [mmaVal x rl edge b blo aRow aScale old n] := by
  unfold mmaElem mmaVal
  dsimp only
  split
  · rfl
  · split
    · rfl
    · rfl

theorem mmaRow_vals (x : MmaRec) (rl edge : Nat) (b blo : Bank) (aRow aScale old : List Nat) (from_ count : Nat) :
    (mmaRow x false rl edge b blo aRow aScale old from_ count).vals =
      (List.range count).map (fun j => mmaVal x rl edge b blo aRow aScale (old.getD j 0) (from_ + j)) := by
  refine foldl_range_inv (fun k (o : RowOut) => o.vals = (List.range k).map (fun j => mmaVal x rl edge b blo aRow aScale (old.getD j 0) (from_ + j))) rfl ?_
  intro k _ o ho
  rw [mmaElem_vals, ho, List.range_succ, List.map_append]
  rfl

/-- A streamed row of an MMA and its scales. -/
def mmaStreamed (s : State) (x : MmaRec) (b : Bank) (i : Nat) : List Nat :=
  unpack x.atype b.k (s.mem.bytes (x.a + i * x.stride) (packedLen x.atype b.k))

def mmaScales (s : State) (x : MmaRec) (b : Bank) (i : Nat) : List Nat :=
  if isMx x.atype then (s.mem.bytes (x.sa + i * x.ss) (b.k / 32)).map (·.toNat) else []

/-- The new values of `count` columns of row i in the tiles of core n, the first of which is column `from_` of the set. -/
def mmaVals (s : State) (x : MmaRec) (g : MmaGo) (n from_ count i : Nat) : List Nat :=
  (List.range count).map (fun j => mmaVal x g.rl g.edge g.b g.blo (mmaStreamed s x g.b i) (mmaScales s x g.b i) ((s.rowAt n (64 * x.tile + i)).getD j 0) (from_ + j))

/-- The rows an MMA has written: in its own core's tiles, and in a partner's where it has columns there. -/
structure State.mmaRan (s : State) (x : MmaRec) (g : MmaGo) (r : Nat) (t : State) : Prop where
  own : s.tilesRan g.core x.tile (fun _ => tileTypeOf x.atype) (mmaVals s x g g.core 0 g.own) r t
  other : g.other ≠ 0 → s.tilesRan g.partner x.tile (fun _ => tileTypeOf x.atype) (mmaVals s x g g.partner g.own g.other) r t

theorem State.putRow_eq (s : State) (n t r : Nat) (acc isInt : Bool) (o : RowOut) :
    ∃ marks, (s.putRow n t r acc isInt o).1 = s.putCols n t r o.vals marks := ⟨_, rfl⟩

section Row

variable {s t : State} {x : MmaRec} {g : MmaGo} {r : Nat}

/-- A row is written in the core's tiles only. -/
theorem State.mmaRan_stepOwn (h : s.mmaRan x g r t) (ho : g.other = 0) (marks : List Nat) :
    s.mmaRan x g (r + 1) ((t.setTag g.core (x.tile + r / 64) (tileTypeOf x.atype)).putCols g.core (x.tile + r / 64) (r % 64)
      (mmaVals s x g g.core 0 g.own r) marks) := by
  refine ⟨h.own.step (fun k => ?_) (fun k => ?_), fun hne => absurd ho hne⟩
  · rw [State.rowAt_putCols, State.rowAt_setTag, show 64 * (x.tile + r / 64) + r % 64 = 64 * x.tile + r by omega]
    simp
  · rw [State.tag_putCols, State.tag_setTag]
    simp

/-- A row is written in the core's tiles and a partner's. -/
theorem State.mmaRan_stepBoth (h : s.mmaRan x g r t) (ho : g.other ≠ 0) (hne : g.partner ≠ g.core) (marks marks' : List Nat) :
    s.mmaRan x g (r + 1) ((((t.setTag g.core (x.tile + r / 64) (tileTypeOf x.atype)).setTag g.partner (x.tile + r / 64) (tileTypeOf x.atype)).putCols g.core
      (x.tile + r / 64) (r % 64) (mmaVals s x g g.core 0 g.own r) marks).putCols g.partner (x.tile + r / 64) (r % 64)
      (mmaVals s x g g.partner g.own g.other r) marks') := by
  have hkey : 64 * (x.tile + r / 64) + r % 64 = 64 * x.tile + r := by omega
  refine ⟨h.own.step (fun k => ?_) (fun k => ?_), fun _ => (h.other ho).step (fun k => ?_) (fun k => ?_)⟩
  · rw [State.rowAt_putCols, State.rowAt_putCols, State.rowAt_setTag, State.rowAt_setTag, hkey]
    simp [hne.symm]
  · rw [State.tag_putCols, State.tag_putCols, State.tag_setTag, State.tag_setTag]
    simp [hne.symm]
  · rw [State.rowAt_putCols, State.rowAt_putCols, State.rowAt_setTag, State.rowAt_setTag, hkey]
    simp [hne]
  · rw [State.tag_putCols, State.tag_putCols, State.tag_setTag, State.tag_setTag]
    simp [hne]

/-- One row of an MMA whose reads meet no error. -/
theorem mmaRows_succ {left : Nat} {fl : MmaFl} (hn : g.core < 128) (hs : s.onMemory t)
    (hsrc : localOrEmpty g.core (x.a + r * x.stride) (packedLen x.atype g.b.k))
    (hscale : isMx x.atype = true → localOrEmpty g.core (x.sa + r * x.ss) (g.b.k / 32)) (hne : g.other ≠ 0 → g.partner ≠ g.core) (h : s.mmaRan x g r t) :
    ∃ u fl', State.mmaRows x g false (left + 1) r fl t = State.mmaRows x g false left (r + 1) fl' u ∧ s.onMemory u ∧ s.mmaRan x g (r + 1) u := by
  have hreadScale {t : State} (ht : s.onMemory t) : (if isMx x.atype then t.readMem (srcCore g.core) (x.sa + r * x.ss) (g.b.k / 32) else (t, ⟨[], [], none⟩)) =
      (t, ⟨if isMx x.atype then s.mem.bytes (x.sa + r * x.ss) (g.b.k / 32) else [], [], none⟩) := by
    split
    · next hmx => exact ht.read hn (hscale hmx) _
    · rfl
  have hscales : (if isMx x.atype then s.mem.bytes (x.sa + r * x.ss) (g.b.k / 32) else []).map (·.toNat) = mmaScales s x g.b r := by
    unfold mmaScales
    split <;> rfl
  rw [State.mmaRows]
  dsimp only
  by_cases ho : g.other = 0
  · have ht := hs.setTag g.core (x.tile + r / 64) (tileTypeOf x.atype)
    simp only [ho, if_true]
    rw [ht.read hn hsrc]
    dsimp only
    rw [hreadScale ht]
    dsimp only
    rw [hscales, State.tileRow_eq_rowAt, State.rowAt_setTag, h.own.left r le_rfl]
    simp only [Option.orElse_none]
    obtain ⟨marks, hput⟩ := (t.setTag g.core (x.tile + r / 64) (tileTypeOf x.atype)).putRow_eq g.core (x.tile + r / 64) (r % 64) x.acc (tileTypeOf x.atype == 2)
      (mmaRow x false g.rl g.edge g.b g.blo (mmaStreamed s x g.b r) (mmaScales s x g.b r) (s.rowAt g.core (64 * x.tile + r)) 0 g.own)
    refine ⟨_, _, rfl, ?_, ?_⟩
    · exact ht.putCols _ _ _ _ _
    · rw [← mmaStreamed, hput, mmaRow_vals]
      exact State.mmaRan_stepOwn h ho marks
  · have ht := (hs.setTag g.core (x.tile + r / 64) (tileTypeOf x.atype)).setTag g.partner (x.tile + r / 64) (tileTypeOf x.atype)
    have hne := hne ho
    simp only [ho, if_false]
    rw [ht.read hn hsrc]
    dsimp only
    rw [hreadScale ht]
    dsimp only
    rw [hscales, State.tileRow_eq_rowAt, State.rowAt_setTag, State.rowAt_setTag, h.own.left r le_rfl]
    simp only [Option.orElse_none]
    obtain ⟨marks, hput⟩ := ((t.setTag g.core (x.tile + r / 64) (tileTypeOf x.atype)).setTag g.partner (x.tile + r / 64) (tileTypeOf x.atype)).putRow_eq g.core
      (x.tile + r / 64) (r % 64) x.acc (tileTypeOf x.atype == 2)
      (mmaRow x false g.rl g.edge g.b g.blo (mmaStreamed s x g.b r) (mmaScales s x g.b r) (s.rowAt g.core (64 * x.tile + r)) 0 g.own)
    rw [← mmaStreamed, hput, mmaRow_vals]
    obtain ⟨marks', hput'⟩ := (((t.setTag g.core (x.tile + r / 64) (tileTypeOf x.atype)).setTag g.partner (x.tile + r / 64) (tileTypeOf x.atype)).putCols g.core
      (x.tile + r / 64) (r % 64) (mmaVals s x g g.core 0 g.own r) marks).putRow_eq g.partner (x.tile + r / 64) (r % 64) x.acc (tileTypeOf x.atype == 2)
      (mmaRow x false g.rl g.edge g.b g.blo (mmaStreamed s x g.b r) (mmaScales s x g.b r) (s.rowAt g.partner (64 * x.tile + r)) g.own g.other)
    have hpartner : (((t.setTag g.core (x.tile + r / 64) (tileTypeOf x.atype)).setTag g.partner (x.tile + r / 64) (tileTypeOf x.atype)).putCols g.core
        (x.tile + r / 64) (r % 64) (mmaVals s x g g.core 0 g.own r) marks).tileRow g.partner (x.tile + r / 64) (r % 64) =
        s.rowAt g.partner (64 * x.tile + r) := by
      rw [State.tileRow_eq_rowAt, State.rowAt_putCols, State.rowAt_setTag, State.rowAt_setTag, if_neg (fun hc => hne hc.1), (h.other ho).left r le_rfl]
    rw [mmaRow_vals] at hput'
    rw [← mmaVals, hpartner, hput']
    refine ⟨_, _, rfl, (ht.putCols _ _ _ _ _).putCols _ _ _ _ _, ?_⟩
    exact State.mmaRan_stepBoth h ho hne marks marks'

/-- The rows of an MMA from r on. -/
theorem mmaRows_local (hn : g.core < 128) (hsrc : ∀ i < x.m, localOrEmpty g.core (x.a + i * x.stride) (packedLen x.atype g.b.k))
    (hscale : ∀ i < x.m, isMx x.atype = true → localOrEmpty g.core (x.sa + i * x.ss) (g.b.k / 32)) (hne : g.other ≠ 0 → g.partner ≠ g.core) :
    ∀ (left r : Nat) (fl : MmaFl) (t : State), r + left = x.m → s.onMemory t → s.mmaRan x g r t →
      s.mmaRan x g x.m (State.mmaRows x g false left r fl t).1
  | 0, r, fl, t, hr, _, h => by
    obtain rfl : r = x.m := by omega
    exact h
  | left + 1, r, fl, t, hr, hs, h => by
    obtain ⟨u, fl', hstep, hu, h'⟩ := mmaRows_succ (left := left) (fl := fl) hn hs (hsrc r (by omega)) (hscale r (by omega)) hne h
    rw [hstep]
    exact mmaRows_local hn hsrc hscale hne left (r + 1) fl' u (by omega) hu h'

/-- No read of an MMA over quiet core-local memory fails. -/
theorem mmaFails_local (hn : g.core < 128) (hs : s.onMemory t) (hsrc : ∀ i < x.m, localOrEmpty g.core (x.a + i * x.stride) (packedLen x.atype g.b.k))
    (hscale : ∀ i < x.m, isMx x.atype = true → localOrEmpty g.core (x.sa + i * x.ss) (g.b.k / 32)) : t.mmaFails x g = false := by
  unfold State.mmaFails
  refine List.any_eq_false.mpr fun i hi => ?_
  have hi := List.mem_range.mp hi
  rw [hs.read hn (hsrc i hi)]
  by_cases hmx : isMx x.atype = true
  · rw [hs.read hn (hscale i hi hmx)]
    simp
  · simp [hmx]

end Row

end Sys2Proof.Machine

namespace Sys2Proof.Machine

/-! ## An MMA whose first row enters (R125, R134, R153) -/

theorem State.sameTiles_setPhaseOf (s : State) (q num : Nat) (ph : Phase) : s.sameTiles (s.setPhaseOf q num ph) := by
  have hleave : s.sameTiles (s.leave q num) := by
    unfold State.leave
    dsimp only
    split
    · exact s.sameTiles_setMat rfl rfl
    · exact State.sameTiles_of_mats rfl
  unfold State.setPhaseOf
  split
  · exact hleave.trans (State.sameTiles_of_mats rfl)
  · exact State.sameTiles_of_mats rfl

@[simp] theorem State.meEvents_mats (s : State) (n : Nat) (f : EvFl) : (s.meEvents n f).mats = s.mats := by
  have hflag (t : State) (i : Nat) (b : Bool) : (t.meFlagIf n i b).mats = t.mats := by
    unfold State.meFlagIf State.meFlag
    split <;> simp
  simp only [State.meEvents, hflag]

@[simp] theorem State.mmaCount_mats (s : State) (g : MmaGo) (rows mode runs : Nat) : (s.mmaCount g rows mode runs).mats = s.mats := by
  unfold State.mmaCount
  simp only [State.count_mats]
  split <;> simp

theorem State.tagFail_of_same {s t : State} (h : s.sameTiles t) (n lo hi want : Nat) : t.tagFail n lo hi want = s.tagFail n lo hi want := by
  simp only [State.tagFail, h.tag]

/-- What the checks of an MMA's set leave when they find nothing. -/
theorem mmaSetFail_eq_none {c : Ctx} {s : State} {x : MmaRec} {b : Bank} (hv : b.valid = true) (h : mmaSetFail c s x b = none) (q : Nat) (item : Fetched) (t : State) :
    mmaSetFail ⟨q, c.core, item⟩ t x b = none ∧
      firstOutside c.core (rowRanges x.a x.stride (packedLen x.atype b.k) x.m ++ (if isMx x.atype then rowRanges x.sa x.ss (b.k / 32) x.m else [])) = none := by
  unfold mmaSetFail at h ⊢
  simp only [hv, if_true] at h ⊢
  split at h
  · cases h
  · split at h
    · cases h
    · next hrange =>
      rw [Option.map_eq_none_iff] at h
      rw [if_neg hrange, h]
      exact ⟨rfl, rfl⟩

/-- The tiles that an MMA's rows enter, as the state before it says. -/
def mmaPlan (s : State) (n : Nat) (o : MxOp) (x : MmaRec) : MmaGo :=
  let h := (s.mat n).half o.half
  let u := usedBank h x.atype x.swap
  let b := h.bank u
  let mode := (s.arr n).mode
  { core := n, partner := (s.arr n).partner, rl := s.runLen n, edge := if mode = 2 then 64 * typeP x.atype else 0,
    own := if mode = 3 then min b.n 64 else b.n, other := if mode = 3 then b.n - 64 else 0, b, blo := h.bank (1 - u) }

theorem setHalf_rows (m : Mat) (i : Nat) (h : Half) : (m.setHalf i h).rows = m.rows := by unfold Mat.setHalf; split <;> rfl

theorem setHalf_tags (m : Mat) (i : Nat) (h : Half) : (m.setHalf i h).tags = m.tags := by unfold Mat.setHalf; split <;> rfl

/-- An MMA that passes its checks goes through its rows, and then ends. -/
theorem mmaGo_rows {c : Ctx} {s : State} (hn : c.core < 128) (hq : s.localQuiet) (o : MxOp) (loadWait tileWait : Nat) {x : MmaRec} (hx : x = mmaRec c.item)
    {g : MmaGo} (hg : g = mmaPlan s c.core o x) (hv : g.b.valid = true) (hset : mmaSetFail c s x g.b = none) (hadmits : g.b.admits x.atype = true)
    (hsrc : ∀ i < x.m, localOrEmpty g.core (x.a + i * x.stride) (packedLen x.atype g.b.k))
    (hscale : ∀ i < x.m, isMx x.atype = true → localOrEmpty g.core (x.sa + i * x.ss) (g.b.k / 32))
    (htag : x.acc = true → s.tagFail c.core x.tile (lastTile x.tile x.m) (tileTypeOf x.atype) = none ∧
      (g.other ≠ 0 → s.tagFail g.partner x.tile (lastTile x.tile x.m) (tileTypeOf x.atype) = none)) :
    ∃ t, s.onMemory t ∧ s.sameTiles t ∧
      (State.mmaRows x g false x.m 0 {} t).1.sameTiles (s.mmaGo c.core o c.item loadWait tileWait) := by
  have hsame (m : Mat) (hr : m.rows = (s.mat c.core).rows) (ht : m.tags = (s.mat c.core).tags) :
      s.sameTiles ((s.setMat c.core m).mmaWaited c.core loadWait tileWait) :=
    (s.sameTiles_setMat hr ht).trans (State.sameTiles_of_mats (by simp [State.mmaWaited]))
  have hmem (m : Mat) : s.onMemory ((s.setMat c.core m).mmaWaited c.core loadWait tileWait) :=
    ((State.onMemory.of_eq (t := s) (u := s.setMat c.core m) ⟨hq, rfl⟩ rfl rfl rfl rfl).count _ _).count _ _
  have himage (m : Mat) : ((s.setMat c.core m).mmaWaited c.core loadWait tileWait).image = s.image := by
    simp only [State.mmaWaited, State.count_image]
    rfl
  unfold State.mmaGo
  dsimp only
  rw [← hx]
  replace hsame := hsame { s.mat c.core with ops := dropOp o.q o.num (s.mat c.core).ops } rfl rfl
  replace hmem := hmem { s.mat c.core with ops := dropOp o.q o.num (s.mat c.core).ops }
  replace himage := himage { s.mat c.core with ops := dropOp o.q o.num (s.mat c.core).ops }
  dsimp only at hsame hmem himage
  generalize State.mmaWaited _ _ _ _ = t at hsame hmem himage ⊢
  have harr : t.arr c.core = s.arr c.core := congrArg (fun i => i.arr c.core) himage
  have hrl : t.runLen c.core = s.runLen c.core := congrArg (fun i => 16 * 2 ^ i.promoCode c.core) himage
  have hplan : mmaPlan s c.core o x = g := hg.symm
  unfold mmaPlan at hplan
  dsimp only at hplan
  rw [harr, hrl]
  simp only [hplan]
  have hbank : ((s.mat c.core).half o.half).bank (usedBank ((s.mat c.core).half o.half) x.atype x.swap) = g.b := by rw [hg]; rfl
  have hother : g.other = if (s.arr c.core).mode = 3 then g.b.n - 64 else 0 := by rw [hg]; rfl
  have hcore : g.core = c.core := by rw [hg]; rfl
  have hpartner : g.partner = (s.arr c.core).partner := by rw [hg]; rfl
  have hown : (if x.acc then t.tagFail c.core x.tile (lastTile x.tile x.m) (tileTypeOf x.atype) else none) = none := by
    split
    · next hacc => rw [State.tagFail_of_same hsame, (htag hacc).1]
    · rfl
  have hpart : (if x.acc ∧ g.other ≠ 0 then t.tagFail g.partner x.tile (lastTile x.tile x.m) (tileTypeOf x.atype) else none) = none := by
    split
    · next hacc => rw [State.tagFail_of_same hsame, (htag hacc.1).2 hacc.2]
    · rfl
  have hread : t.mmaFails x g = false := mmaFails_local (hcore ▸ hn) hmem hsrc hscale
  rw [hother, hpartner] at hpart
  rw [hbank, hv, (mmaSetFail_eq_none hv hset o.q c.item t).1, hadmits, hown, hpart]
  simp only [hread, Bool.and_false, Bool.not_true, Bool.false_eq_true, if_false, not_false_eq_true, and_true, Option.orElse_none]
  let u := usedBank ((s.mat c.core).half o.half) x.atype x.swap
  refine ⟨t.setMat c.core ((t.mat c.core).setHalf o.half { (s.mat c.core).half o.half with active := if x.atype = 2 then 1 - u else u }), ?_, ?_, ?mats⟩
  case mats =>
    refine State.sameTiles.trans (State.sameTiles_of_mats ?_) (State.sameTiles_setPhaseOf _ _ _ _)
    rw [State.mmaCount_mats, State.accEvents_mats, State.accEvents_mats, State.meEvents_mats]
  · exact hmem.of_eq rfl rfl rfl rfl
  · exact hsame.trans (t.sameTiles_setMat (setHalf_rows _ _ _) (setHalf_tags _ _ _))

/-- What an MMA that passes its checks leaves in its tiles. -/
theorem mmaGo_tiles {c : Ctx} {s : State} (hn : c.core < 128) (hq : s.localQuiet) (o : MxOp) (loadWait tileWait : Nat) {x : MmaRec} (hx : x = mmaRec c.item)
    {g : MmaGo} (hg : g = mmaPlan s c.core o x) (hv : g.b.valid = true) (hset : mmaSetFail c s x g.b = none) (hadmits : g.b.admits x.atype = true)
    (hne : g.other ≠ 0 → g.partner ≠ g.core)
    (htag : x.acc = true → s.tagFail c.core x.tile (lastTile x.tile x.m) (tileTypeOf x.atype) = none ∧
      (g.other ≠ 0 → s.tagFail g.partner x.tile (lastTile x.tile x.m) (tileTypeOf x.atype) = none)) :
    s.mmaRan x g x.m (s.mmaGo c.core o c.item loadWait tileWait) := by
  have hcore : g.core = c.core := by rw [hg]; rfl
  obtain ⟨-, hranges⟩ := mmaSetFail_eq_none hv hset o.q c.item s
  have hsrc (i : Nat) (hi : i < x.m) : localOrEmpty g.core (x.a + i * x.stride) (packedLen x.atype g.b.k) := by
    rw [hcore]
    exact localOrEmpty_of_firstOutside hranges (List.mem_append_left _ (mem_rowRanges hi))
  have hscale (i : Nat) (hi : i < x.m) (hmx : isMx x.atype = true) : localOrEmpty g.core (x.sa + i * x.ss) (g.b.k / 32) := by
    rw [hcore]
    refine localOrEmpty_of_firstOutside hranges (List.mem_append_right _ ?_)
    rw [if_pos hmx]
    exact mem_rowRanges hi
  obtain ⟨t, hmem, hsame, hend⟩ := mmaGo_rows hn hq o loadWait tileWait hx hg hv hset hadmits hsrc hscale htag
  have hzero : s.mmaRan x g 0 t := ⟨State.tilesRan_zero hsame, fun _ => State.tilesRan_zero hsame⟩
  have hran := mmaRows_local (hcore ▸ hn) hsrc hscale hne x.m 0 {} t (Nat.zero_add _) hmem hzero
  exact ⟨hran.own.same hend, fun ho => (hran.other ho).same hend⟩

end Sys2Proof.Machine

namespace Sys2Proof.Machine

/-! ## The elements of an MMA -/

/-- Element j of the new values of a row. -/
theorem mmaVals_getD {s : State} {x : MmaRec} {g : MmaGo} {n from_ count i j : Nat} (hj : j < count) :
    j < (mmaVals s x g n from_ count i).length ∧ (mmaVals s x g n from_ count i).getD j 0 =
      mmaVal x g.rl g.edge g.b g.blo (mmaStreamed s x g.b i) (mmaScales s x g.b i) ((s.rowAt n (64 * x.tile + i)).getD j 0) (from_ + j) := by
  unfold mmaVals
  constructor
  · simpa using hj
  · simp [hj]

/-- The tag and the elements that an MMA leaves in the core's tiles, and in a partner's. -/
theorem State.mmaRan.own_getD {s t : State} {x : MmaRec} {g : MmaGo} (h : s.mmaRan x g x.m t) {i j : Nat} (hi : i < x.m) (hj : j < g.own) :
    t.tag g.core (x.tile + i / 64) = tileTypeOf x.atype ∧ (t.tileRow g.core (x.tile + i / 64) (i % 64)).getD j 0 =
      mmaVal x g.rl g.edge g.b g.blo (mmaStreamed s x g.b i) (mmaScales s x g.b i) ((s.tileRow g.core (x.tile + i / 64) (i % 64)).getD j 0) j := by
  obtain ⟨hlen, hval⟩ := mmaVals_getD (s := s) (x := x) (g := g) (n := g.core) (from_ := 0) (i := i) hj
  exact ⟨h.own.tags i hi, by rw [h.own.getD hi hlen, hval, Nat.zero_add, State.tileRow_eq_rowAt]⟩

theorem State.mmaRan.other_getD {s t : State} {x : MmaRec} {g : MmaGo} (h : s.mmaRan x g x.m t) {i j : Nat} (hi : i < x.m) (hj : j < g.other) :
    t.tag g.partner (x.tile + i / 64) = tileTypeOf x.atype ∧ (t.tileRow g.partner (x.tile + i / 64) (i % 64)).getD j 0 =
      mmaVal x g.rl g.edge g.b g.blo (mmaStreamed s x g.b i) (mmaScales s x g.b i) ((s.tileRow g.partner (x.tile + i / 64) (i % 64)).getD j 0) (g.own + j) := by
  have ho : g.other ≠ 0 := by omega
  obtain ⟨hlen, hval⟩ := mmaVals_getD (s := s) (x := x) (g := g) (n := g.partner) (from_ := g.own) (i := i) hj
  exact ⟨(h.other ho).tags i hi, by rw [(h.other ho).getD hi hlen, hval, State.tileRow_eq_rowAt]⟩

/-- The core in whose tiles column j of a set lies, and its column there. -/
def mmaHome (s : State) (n j : Nat) : Nat × Nat := if (s.arr n).mode = 3 ∧ 64 ≤ j then ((s.arr n).partner, j - 64) else (n, j)

/-- Element j of row i of an MMA that passes its checks. -/
theorem mmaGo_getD {c : Ctx} {s : State} (hn : c.core < 128) (hq : s.localQuiet) (o : MxOp) (loadWait tileWait : Nat) {x : MmaRec} (hx : x = mmaRec c.item)
    {g : MmaGo} (hg : g = mmaPlan s c.core o x) (hv : g.b.valid = true) (hset : mmaSetFail c s x g.b = none) (hadmits : g.b.admits x.atype = true)
    (hne : (s.arr c.core).mode = 3 → (s.arr c.core).partner ≠ c.core)
    (htag : x.acc = true → s.tagFail c.core x.tile (lastTile x.tile x.m) (tileTypeOf x.atype) = none ∧
      ((s.arr c.core).mode = 3 → s.tagFail (s.arr c.core).partner x.tile (lastTile x.tile x.m) (tileTypeOf x.atype) = none))
    {i j : Nat} (hi : i < x.m) (hj : j < g.b.n) {home : Nat × Nat} (hhome : home = mmaHome s c.core j) :
    let t := s.mmaGo c.core o c.item loadWait tileWait
    t.tag home.1 (x.tile + i / 64) = tileTypeOf x.atype ∧ (t.tileRow home.1 (x.tile + i / 64) (i % 64)).getD home.2 0 =
      mmaVal x g.rl g.edge g.b g.blo (mmaStreamed s x g.b i) (mmaScales s x g.b i) ((s.tileRow home.1 (x.tile + i / 64) (i % 64)).getD home.2 0) j := by
  have hcore : g.core = c.core := by rw [hg]; rfl
  have hpartner : g.partner = (s.arr c.core).partner := by rw [hg]; rfl
  have hown : g.own = if (s.arr c.core).mode = 3 then min g.b.n 64 else g.b.n := by rw [hg]; rfl
  have hother : g.other = if (s.arr c.core).mode = 3 then g.b.n - 64 else 0 := by rw [hg]; rfl
  have hmode (ho : g.other ≠ 0) : (s.arr c.core).mode = 3 := by
    by_contra hm
    rw [hother, if_neg hm] at ho
    exact ho rfl
  have hran := mmaGo_tiles hn hq o loadWait tileWait hx hg hv hset hadmits (fun ho => by rw [hpartner, hcore]; exact hne (hmode ho))
    (fun hacc => ⟨(htag hacc).1, fun ho => by rw [hpartner]; exact (htag hacc).2 (hmode ho)⟩)
  dsimp only
  subst hhome
  unfold mmaHome
  split
  · next h =>
    rw [if_pos h.1] at hown hother
    have hel := hran.other_getD hi (j := j - 64) (by omega)
    rw [hpartner, show g.own + (j - 64) = j by omega] at hel
    exact hel
  · next h =>
    have hel := hran.own_getD hi (j := j) (by
      rw [hown]
      split
      · omega
      · exact hj)
    rw [hcore] at hel
    exact hel

end Sys2Proof.Machine

namespace Sys2Proof.Machine

/-- The new element of a column, from the memory that a row streams. -/
theorem mmaVal_streamed (s : State) (x : MmaRec) (rl edge : Nat) (b lo : Bank) (row old j : Nat) :
    mmaVal x rl edge b lo (mmaStreamed s x b row) (mmaScales s x b row) old j =
      (let a := unpack x.atype b.k (s.mem.bytes (x.a + row * x.stride) (packedLen x.atype b.k))
       let sa := if isMx x.atype then (s.mem.bytes (x.sa + row * x.ss) (b.k / 32)).map (fun y => e8m0 y.toNat) else List.replicate (b.k / 32) .one
       let sb := if isMx b.type then (b.scales.getD j []).map e8m0 else List.replicate (b.k / 32) .one
       let col := b.cols.getD j []
       let runs (rnd : Fp → Fp) (p : Nat) := floatRuns rnd p rl edge
       let pass (u v : List Fp) := runs (roundFp fmtF32) 1 false x.neg u v [] []
       let hi := a.map (fun w => decodeFp fmtBf16 (splitHi w))
       let bh := col.map (decodeFp fmtBf16)
       if isInt8 x.atype then (intElem x.acc x.neg old (a.map (elemVal x.atype)) (col.map (elemVal b.type))).1
       else if x.atype = 2 then
         let w1 := (promote x.acc old (pass hi bh)).1
         let w2 := (promote true w1 (pass (a.map (fun w => decodeFp fmtBf16 (splitLo w))) bh)).1
         (promote true w2 (pass hi ((lo.cols.getD j []).map (decodeFp fmtBf16)))).1
       else (promote x.acc old (runs (roundFp fmtF24) (typeP x.atype) (isMx x.atype || isMx b.type) x.neg (a.map (elemVal x.atype))
         (col.map (elemVal b.type)) sa sb)).1) := by
  have hscales : (if isMx x.atype then (mmaScales s x b row).map e8m0 else List.replicate (b.k / 32) Fp.one) =
      if isMx x.atype then (s.mem.bytes (x.sa + row * x.ss) (b.k / 32)).map (fun y => e8m0 y.toNat) else List.replicate (b.k / 32) .one := by
    split
    · next h => rw [mmaScales, if_pos h, List.map_map]; rfl
    · rfl
  unfold mmaVal
  dsimp only
  rw [show (mmaStreamed s x b row).length = b.k from length_unpack _ _ _, hscales]
  rfl

end Sys2Proof.Machine

namespace Sys2Proof.Machine

/-! ## What a reduction sends, keeps and writes (R177, R321, R368, R369) -/

/-- An arriving element meets a local one: as pairs, or folded in. -/
def sumOf (a b : Nat) : Nat × Nat :=
  let t := f32add a b
  let z := f32sub t a
  (t, if f32isNan t || f32isInf t then 0 else f32add (f32sub a (f32sub t z)) (f32sub b z))

theorem twoSum_eq (a b : Nat) : twoSum a b = sumOf a b := by
  unfold twoSum sumOf
  dsimp only
  split <;> rfl

theorem combineP_eq (e : PartyEnt) (a b : Nat × Nat) : combineP e a b =
    (let t := sumOf a.1 b.1
     if e.sum = 0 then (t.1, f32add (f32add a.2 b.2) t.2) else (f32add t.1 (f32add t.2 b.2), 0)) := by
  unfold combineP pairCombine foldInto
  rw [twoSum_eq]

/-- Elements that meet one by one. -/
theorem zipCombine_eq (e : PartyEnt) : ∀ as bs : List (Nat × Nat), as.length = bs.length →
    zipCombine e as bs = (List.range as.length).map (fun i => combineP e (as.getD i (0, 0)) (bs.getD i (0, 0)))
  | [], _, _ => rfl
  | a :: as, b :: bs, h => by
    rw [zipCombine, zipCombine_eq e as bs (Nat.succ.inj h), List.length_cons, List.range_succ_eq_map, List.map_cons, List.map_map]
    rfl

theorem zipCombine_take (e : PartyEnt) {as bs : List (Nat × Nat)} {n : Nat} (ha : n ≤ as.length) (hb : bs.length = n) :
    zipCombine e (as.take n) bs = (List.range n).map (fun i => combineP e (as.getD i (0, 0)) (bs.getD i (0, 0))) := by
  have hlen : (as.take n).length = n := by rw [List.length_take, Nat.min_eq_left ha]
  rw [zipCombine_eq e _ _ (hlen.trans hb.symm), hlen]
  refine List.map_congr_left fun i hi => ?_
  have hi := List.mem_range.mp hi
  simp [hi]

/-- The elements of an arriving RSDATA frame with their local ones, and where they go. -/
theorem State.rsIn_eq {s : State} {e : PartyEnt} {x : Red} {f : List Byte} {lvl el o n : Nat} (hlvl : lvl = frLevel f) (hel : el = frOffset f)
    (ho : o = chunkOwner e (el / 16384)) (hn : n = frEls x.item f (rsSize e)) (h1 : lvl < planLevels e.plan) (h2 : el < redCount x.item)
    (h3 : inLevel e lvl o = true) (h4 : firstAt e lvl o (chunkFwd e (el / 16384)) = false) (hlen : n ≤ (rsPairs e (frPayload f)).length)
    {here : State × Red × List (Nat × Nat)} (hhere : here = if lvl = 0 then s.localEls x el n else
      (s, { x with kept := x.kept.filter (fun p => decide (p.1 < levKey lvl el ∨ levKey lvl (el + n) ≤ p.1)) },
        (List.range n).map (fun i => mget (0, 0) x.kept (levKey lvl (el + i)))))
    (hloc : here.2.2.length = n) {ps : List (Nat × Nat)}
    (hps : ps = (List.range n).map (fun i => combineP e ((rsPairs e (frPayload f)).getD i (0, 0)) (here.2.2.getD i (0, 0)))) :
    s.rsIn e x f = if keepsAt e lvl o then here.1.haveP e here.2.1 (lvl + 1) el ps else here.1.rsSend e here.2.1 lvl (chunkFwd e (el / 16384)) el ps := by
  rw [← zipCombine_take e hlen hloc] at hps
  subst hlvl hel ho hn hps
  unfold State.rsIn
  dsimp only
  rw [if_neg (by simp [h1, h2, h3, h4]), ← hhere]

/-- After the last level the owner narrows the sums and writes them. -/
theorem State.haveP_last {s : State} {e : PartyEnt} {lvl : Nat} (h : planLevels e.plan ≤ lvl) (x : Red) (el : Nat) (ps : List (Nat × Nat)) :
    s.haveP e x lvl el ps = s.putVals e x el (ps.map (redCode e (redG x.item))) := by
  unfold State.haveP
  dsimp only
  rw [if_pos h]

/-! ### Frames that are sent leave memory alone -/

theorem State.portSend_mem (s : State) (e : PartyEnt) (p dst : Nat) (f : List Byte) : (s.portSend e p dst f).mem = s.mem := by
  unfold State.portSend
  dsimp only
  rw [State.count_mem]
  rfl

theorem State.dispatch_mem (s : State) (e : PartyEnt) (dst : Nat) (f : List Byte) : (s.dispatch e dst f).1.mem = s.mem := by
  unfold State.dispatch
  dsimp only
  split
  · rfl
  · exact State.portSend_mem _ _ _ _ _

theorem State.sendFrame_mem (s : State) (e : PartyEnt) (owner : Option (Nat × Nat)) (f : FrameOut) : (s.sendFrame e owner f).1.mem = s.mem := by
  have hpoison (t : State) (party src dst pseq : Nat) (bad : List Nat) : (t.emitPoison party src dst pseq bad).mem = t.mem := by
    unfold State.emitPoison
    split <;> rfl
  unfold State.sendFrame
  dsimp only
  rw [hpoison, State.dispatch_mem]
  rfl

theorem State.agSend_mem (s : State) (e : PartyEnt) (x : Red) (fwd : Bool) (el : Nat) (payload : List Byte) (lvl : Nat) :
    (State.agSend e x fwd el payload s lvl).mem = s.mem := State.sendFrame_mem _ _ _ _

/-- Frames sent one after another. -/
theorem State.foldl_mem {α : Type} {g : State → α → State} (h : ∀ s a, (g s a).mem = s.mem) : ∀ (l : List α) (s : State), (l.foldl g s).mem = s.mem
  | [], _ => rfl
  | a :: l, s => (State.foldl_mem h l (g s a)).trans (h s a)

/-! ### AGDATA is written as it came -/

/-- The value of bytes, written again, is the bytes. -/
theorem toLe_ofLe : ∀ b : List Byte, toLe b.length (ofLe b) = b
  | [] => rfl
  | x :: r => by
    have hx := x.isLt
    have hfirst : BitVec.ofNat 8 (x.toNat + 256 * ofLe r) = x := by bv_omega
    have hrest : (x.toNat + 256 * ofLe r) / 256 = ofLe r := by omega
    rw [ofLe, List.length_cons, toLe, hfirst, hrest, toLe_ofLe r]

/-- The codes of a payload of whole elements are its bytes. -/
theorem flatMap_words4 : ∀ (n : Nat) (b : List Byte), b.length = n * 4 → (words4 b).flatMap (toLe 4) = b
  | 0, b, h => by
    obtain rfl := List.length_eq_zero_iff.mp (h.trans (Nat.zero_mul 4))
    rfl
  | n + 1, a :: b :: c :: d :: r, h => by
    have hr : r.length = n * 4 := by simp only [List.length_cons] at h; omega
    have hword : toLe 4 (ofLe [a, b, c, d]) = [a, b, c, d] := toLe_ofLe [a, b, c, d]
    rw [words4, List.flatMap_cons, flatMap_words4 n r hr, hword]
    rfl
  | n + 1, [], h | n + 1, [_], h | n + 1, [_, _], h | n + 1, [_, _, _], h => by simp only [List.length_cons, List.length_nil] at h; omega

theorem flatMap_wordsBf : ∀ (n : Nat) (b : List Byte), b.length = n * 2 → ((wordsBf b).map (· / 0x10000)).flatMap (toLe 2) = b
  | 0, b, h => by
    obtain rfl := List.length_eq_zero_iff.mp (h.trans (Nat.zero_mul 2))
    rfl
  | n + 1, a :: b :: r, h => by
    have hr : r.length = n * 2 := by simp only [List.length_cons] at h; omega
    have hword : toLe 2 (ofLe [a, b]) = [a, b] := toLe_ofLe [a, b]
    rw [wordsBf, List.map_cons, List.flatMap_cons, flatMap_wordsBf n r hr, Nat.mul_div_cancel _ (by decide), hword]
    rfl
  | n + 1, [], h | n + 1, [_], h => by simp only [List.length_cons, List.length_nil] at h; omega

/-- An arriving AGDATA frame is sent on and written as it came. -/
theorem State.agIn_writes {s : State} {e : PartyEnt} {x : Red} {f : List Byte} {lvl el o n z : Nat} (hlvl : lvl = frLevel f) (hel : el = frOffset f)
    (ho : o = chunkOwner e (el / 16384)) (hz : z = elBytes (redG x.item)) (hn : n = frEls x.item f z) (h1 : lvl < planLevels e.plan)
    (h2 : el < redCount x.item) (h3 : inLevel e lvl o = true) (h4 : keepsAt e lvl o = false) (hlen : n * z ≤ (frPayload f).length) :
    ∃ u codes, u.mem = s.mem ∧ s.agIn e x f = State.putVals u e x el codes ∧ codes.flatMap (toLe z) = (frPayload f).take (n * z) := by
  have hb : ((frPayload f).take (n * z)).length = n * z := by rw [List.length_take, Nat.min_eq_left hlen]
  have hcodes : (if z = 2 then (wordsBf ((frPayload f).take (n * z))).map (· / 0x10000) else words4 ((frPayload f).take (n * z))).flatMap (toLe z) =
      (frPayload f).take (n * z) := by
    obtain h | h : z = 2 ∨ z = 4 := by
      rw [hz, elBytes]
      split
      · exact .inl rfl
      · exact .inr rfl
    · rw [if_pos h, h]
      exact flatMap_wordsBf n _ (h ▸ hb)
    · rw [if_neg (by omega), h]
      exact flatMap_words4 n _ (h ▸ hb)
  subst hlvl hel ho hz hn
  unfold State.agIn
  dsimp only
  rw [if_neg (by simp [h1, h2, h3, h4])]
  refine ⟨_, _, ?_, rfl, hcodes⟩
  rw [State.foldl_mem (fun t l => State.agSend_mem _ _ _ _ _ _ _)]
  split
  · exact State.agSend_mem _ _ _ _ _ _ _
  · rfl

end Sys2Proof.Machine

namespace Sys2Proof.Machine

/-! ### A chunk of the result that is whole -/

section Vals

variable (s : State) (e : PartyEnt) (x : Red) (at_ : Nat) (codes : List Nat)

/-- The result elements that are there once codes are written from element at_ on. -/
def redVals : List (Nat × Nat) := (numbered codes).foldl (fun m v => mput m (at_ + v.1) v.2) x.vals

/-- Those of the chunk of element at_. -/
def redMine : List Nat := ((redVals x at_ codes).filter (fun v => decide (v.1 / 16384 = at_ / 16384))).map (·.2)

/-- The write of the codes. -/
def State.redWrite : State × Option (Nat × Nat) :=
  s.writeMem srcLink (redDst x.item + at_ * elBytes (redG x.item)) (codes.flatMap (toLe (elBytes (redG x.item))))

theorem State.putVals_eq : s.putVals e x at_ codes =
    (let w := s.redWrite x at_ codes
     let y := { x with vals := redVals x at_ codes, err := keepErr x.err w.2 }
     if (redMine x at_ codes).length = chunkEnd x.item (at_ / 16384) - 16384 * (at_ / 16384) then
       w.1.chunkWhole e y (at_ / 16384) (redMine x at_ codes)
     else (w.1, y)) := by
  unfold State.putVals redMine State.redWrite
  dsimp only
  rw [List.length_map]
  rfl

/-- A whole chunk writes its norm pair and is sent on. -/
theorem State.chunkWhole_mem (c : Nat) : (s.chunkWhole e x c codes).1.mem =
    if redNt x.item = 0 then s.mem
    else (s.writeMem srcLink (redNt x.item + 8 * c)
      (pairBytes8 (squarePair (if redG x.item = 0 then codes.map (· * 0x10000) else codes)))).1.mem := by
  have hsends (t : State) (p : Nat × List Nat) : ((downFrom (planLevels e.plan)).foldl
      (State.agSend e x (chunkFwd e c) p.1 (p.2.flatMap (toLe (elBytes (redG x.item))))) t).mem = t.mem :=
    State.foldl_mem (fun t l => State.agSend_mem _ _ _ _ _ _ _) _ t
  unfold State.chunkWhole
  dsimp only
  split <;> split
  · exact State.foldl_mem hsends _ _
  · exact State.foldl_mem hsends _ _
  · rfl
  · rfl

end Vals

end Sys2Proof.Machine

namespace Sys2Proof.Machine

/-! ## Tallies (R375) -/

section Patch

variable {b x : List Byte} {p : Nat}

/-- Bytes of a byte string outside a patch. -/
theorem slice_patch_apart (hp : p + x.length ≤ b.length) {off k : Nat} (h : off + k ≤ p ∨ p + x.length ≤ off) :
    slice (patch b p x) off k = slice b off k := by
  have hpre : (b.take p).length = p := by rw [List.length_take, Nat.min_eq_left (by omega)]
  unfold patch
  obtain h | h := h
  · have hk : k ≤ ((b.take p).drop off).length := by rw [List.length_drop, hpre]; omega
    have hread : ((b.take p ++ x ++ b.drop (p + x.length)).drop off).take k = (b.drop off).take k := by
      rw [List.append_assoc, List.drop_append_of_le_length (by omega), List.take_append_of_le_length hk, List.drop_take, List.take_take,
        Nat.min_eq_left (by omega)]
    unfold slice
    rw [hread]
  · have hskip : (b.take p ++ x).length ≤ off := by rw [List.length_append, hpre]; omega
    rw [slice_skip _ _ hskip, List.length_append, hpre]
    unfold slice
    rw [List.drop_drop, Nat.add_sub_cancel' h]

/-- Bytes of a byte string inside a patch. -/
theorem slice_patch_within (hp : p + x.length ≤ b.length) {off o k : Nat} (hoff : off = p + o) (h : o + k ≤ x.length) :
    slice (patch b p x) off k = slice x o k := by
  have hpre : (b.take p).length = p := by rw [List.length_take, Nat.min_eq_left (by omega)]
  unfold patch
  rw [List.append_assoc, slice_skip _ _ (by omega), hpre, hoff, Nat.add_sub_cancel_left, slice_of_le h,
    slice_of_le (by rw [List.length_append]; omega), List.drop_append_of_le_length (by omega), List.take_append_of_le_length (by rw [List.length_drop]; omega)]

end Patch

/-- Entry j of two tallies is the same. -/
def sameEntry (t u : List Byte) (j : Nat) : Prop := tKey u j = tKey t j ∧ tCount u j = tCount t j ∧ tFirst u j = tFirst t j

/-- A patch outside an entry's key, count and first leaves the entry alone. -/
theorem sameEntry_patch {t x : List Byte} {p j : Nat} (hp : p + x.length ≤ t.length) (h : 64 * j + 48 ≤ p ∨ p + x.length ≤ 64 * j) :
    sameEntry t (patch t p x) j := by
  refine ⟨slice_patch_apart hp ?_, congrArg ofLe (slice_patch_apart hp ?_), congrArg (ofLe · % 2 ^ 17) (slice_patch_apart hp ?_)⟩ <;> omega

/-- What a patch inside the key, count and first of entry i leaves alone. -/
theorem patch_entry {t x : List Byte} {p i : Nat} (ht : t.length = 256) (hi : i < 4) (hlo : 64 * i ≤ p) (hhi : p + x.length ≤ 64 * i + 48) :
    (∀ j < 4, j ≠ i → sameEntry t (patch t p x) j) ∧ tOver (patch t p x) = tOver t := by
  refine ⟨fun j hj hne => sameEntry_patch (by omega) (by omega), ?_⟩
  have hover : slice (patch t p x) 0x30 1 = slice t 0x30 1 := slice_patch_apart (by omega) (by omega)
  rw [tOver, leAt, hover]
  rfl

/-- An entry that a key with its count and first would take anew. -/
def freshEntry (t key : List Byte) (j : Nat) : Prop := tCount t j = 0 ∨ tKey t j ≠ key

theorem tMerge_known {t key : List Byte} {count first i : Nat} (hi : i < 4) (hused : tCount t i ≠ 0) (hkey : tKey t i = key)
    (hbefore : ∀ j < i, freshEntry t key j) :
    tMerge t (key, count, first) = patch t (64 * i + 40) (toLe 4 (tCount t i + count) ++ toLe 4 (min (tFirst t i) first)) := by
  have hfind : (tUsed t).find? (fun i => tKey t i == key) = some i := by
    rw [tUsed, List.find?_filter, List.find?_range_eq_some]
    refine ⟨by simp [hused, hkey], List.mem_range.mpr hi, fun j hj => ?_⟩
    have := hbefore j hj
    simpa [freshEntry, imp_iff_not_or] using this
  unfold tMerge
  dsimp only
  rw [hfind]

theorem tUsed_find?_none {t key : List Byte} (h : ∀ j < 4, freshEntry t key j) : (tUsed t).find? (fun i => tKey t i == key) = none := by
  rw [tUsed, List.find?_filter, List.find?_range_eq_none]
  intro j hj
  have := h j hj
  simpa [freshEntry, imp_iff_not_or] using this

theorem tMerge_new {t key : List Byte} {count first i : Nat} (hi : i < 4) (hfresh : ∀ j < 4, freshEntry t key j) (hfree : tCount t i = 0)
    (hbefore : ∀ j < i, tCount t j ≠ 0) : tMerge t (key, count, first) = patch t (64 * i) (key ++ toLe 4 count ++ toLe 4 first) := by
  have hfind : (List.range 4).find? (fun i => tCount t i == 0) = some i := by
    rw [List.find?_range_eq_some]
    exact ⟨by simp [hfree], List.mem_range.mpr hi, fun j hj => by simpa using hbefore j hj⟩
  unfold tMerge
  dsimp only
  rw [tUsed_find?_none hfresh]
  dsimp only
  rw [hfind]

theorem tMerge_full {t key : List Byte} {count first : Nat} (h : ∀ j < 4, tCount t j ≠ 0 ∧ tKey t j ≠ key) :
    tMerge t (key, count, first) = patch t 0x30 [1] := by
  have hfind : (List.range 4).find? (fun i => tCount t i == 0) = none := by
    rw [List.find?_range_eq_none]
    exact fun j hj => by simpa using (h j hj).1
  unfold tMerge
  dsimp only
  rw [tUsed_find?_none (fun j hj => .inr (h j hj).2)]
  dsimp only
  rw [hfind]

section Entry

variable {t key : List Byte} {i : Nat} (ht : t.length = 256) (hi : i < 4)
include ht hi

/-- An entry whose count and first are written. -/
theorem patch_counts {count first : Nat} (hfirst : first < 2 ^ 17) :
    let u := patch t (64 * i + 40) (toLe 4 count ++ toLe 4 first)
    tKey u i = tKey t i ∧ tCount u i = count % 2 ^ 32 ∧ tFirst u i = first := by
  have hlen : (toLe 4 count ++ toLe 4 first).length = 8 := by simp [length_toLe]
  refine ⟨slice_patch_apart (by omega) (by omega), ?_, ?_⟩
  · rw [tCount, leAt, slice_patch_within (o := 0) (by omega) (by omega) (by omega), ← leAt, leAt_front]
    omega
  · rw [tFirst, leAt, slice_patch_within (o := 4) (by omega) (by omega) (by omega), ← leAt, leAt_skip _ _ _ le_rfl, leAt_whole]
    omega

/-- An entry that is written as a whole. -/
theorem patch_whole {count first : Nat} (hkey : key.length = 40) (hcount : count < 2 ^ 32) (hfirst : first < 2 ^ 17) :
    let u := patch t (64 * i) (key ++ toLe 4 count ++ toLe 4 first)
    tKey u i = key ∧ tCount u i = count ∧ tFirst u i = first := by
  have hlen : (key ++ (toLe 4 count ++ toLe 4 first)).length = 48 := by simp [length_toLe, hkey]
  dsimp only
  rw [List.append_assoc]
  refine ⟨?_, ?_, ?_⟩
  · rw [tKey, slice_patch_within (p := 64 * i) (o := 0) (by omega) (by omega) (by omega), slice_prefix _ hkey]
  · rw [tCount, leAt, slice_patch_within (o := 40) (by omega) rfl (by omega), slice_skip _ _ (by omega), hkey, ← leAt, leAt_front]
    omega
  · rw [tFirst, leAt, slice_patch_within (o := 44) (by omega) rfl (by omega), slice_skip _ _ (by omega), hkey, ← leAt,
      leAt_skip _ _ _ (by omega), leAt_whole]
    omega

end Entry

section Merge

variable {t key : List Byte} {count first i : Nat} (ht : t.length = 256) (hfirst : first < 2 ^ 17)
include ht

include hfirst in
/-- A key that has an entry adds to its count. -/
theorem tMerge_known_entries (hi : i < 4) (hused : tCount t i ≠ 0) (hkey : tKey t i = key) (hbefore : ∀ j < i, freshEntry t key j) :
    let u := tMerge t (key, count, first)
    (∀ j < 4, j ≠ i → sameEntry t u j) ∧ tOver u = tOver t ∧ tKey u i = key ∧ tCount u i = (tCount t i + count) % 2 ^ 32 ∧
      tFirst u i = min (tFirst t i) first := by
  have hlen : (toLe 4 (tCount t i + count) ++ toLe 4 (min (tFirst t i) first)).length = 8 := by simp [length_toLe]
  obtain ⟨hothers, hover⟩ := patch_entry (x := toLe 4 (tCount t i + count) ++ toLe 4 (min (tFirst t i) first)) (p := 64 * i + 40) ht hi (by omega) (by omega)
  obtain ⟨hk, hc, hf⟩ := patch_counts (count := tCount t i + count) ht hi (show min (tFirst t i) first < 2 ^ 17 by omega)
  dsimp only
  rw [tMerge_known hi hused hkey hbefore]
  exact ⟨hothers, hover, hk.trans hkey, hc, hf⟩

include hfirst in
/-- A new key takes the first free entry. -/
theorem tMerge_new_entries (hlen : key.length = 40) (hcount : count < 2 ^ 32) (hi : i < 4) (hfresh : ∀ j < 4, freshEntry t key j) (hfree : tCount t i = 0)
    (hbefore : ∀ j < i, tCount t j ≠ 0) :
    let u := tMerge t (key, count, first)
    (∀ j < 4, j ≠ i → sameEntry t u j) ∧ tOver u = tOver t ∧ tKey u i = key ∧ tCount u i = count ∧ tFirst u i = first := by
  have hlen' : (key ++ toLe 4 count ++ toLe 4 first).length = 48 := by simp [length_toLe, hlen]
  obtain ⟨hothers, hover⟩ := patch_entry (x := key ++ toLe 4 count ++ toLe 4 first) (p := 64 * i) ht hi le_rfl (by omega)
  dsimp only
  rw [tMerge_new hi hfresh hfree hbefore]
  exact ⟨hothers, hover, patch_whole ht hi hlen hcount hfirst⟩

/-- A new key that finds no entry free sets OVERFLOW. -/
theorem tMerge_full_entries (hfull : ∀ j < 4, tCount t j ≠ 0 ∧ tKey t j ≠ key) :
    let u := tMerge t (key, count, first)
    (∀ j < 4, sameEntry t u j) ∧ tOver u = true := by
  dsimp only
  rw [tMerge_full hfull]
  have hp : 0x30 + ([1] : List Byte).length ≤ t.length := by rw [ht]; decide
  refine ⟨fun j _ => sameEntry_patch hp (by simp only [List.length_cons, List.length_nil]; omega), ?_⟩
  rw [tOver, leAt, slice_patch_within (o := 0) hp rfl (by simp)]
  rfl

end Merge

/-! ### The tally of one key -/

theorem toLe_zero : ∀ k : Nat, toLe k 0 = List.replicate k 0
  | 0 => rfl
  | k + 1 => by rw [toLe, Nat.zero_div, toLe_zero k]; rfl

theorem leAt_zeros (n off k : Nat) : leAt (toLe n 0) off k = 0 := by
  have hslice : slice (toLe n 0) off k = toLe k 0 := by
    rw [slice, toLe_zero, toLe_zero, List.drop_replicate, List.take_replicate, List.length_replicate, List.replicate_append_replicate]
    congr 1
    omega
  rw [leAt, hslice, ofLe_toLe, Nat.zero_mod]

theorem tallyOf_entry {key : List Byte} {first : Nat} (hkey : key.length = 40) (hfirst : first < 2 ^ 17) :
    tKey (tallyOf key first) 0 = key ∧ tCount (tallyOf key first) 0 = 1 ∧ tFirst (tallyOf key first) 0 = first ∧
      tOver (tallyOf key first) = false ∧ ∀ j, 0 < j → tCount (tallyOf key first) j = 0 := by
  have htally : tallyOf key first = key ++ (toLe 4 1 ++ (toLe 4 first ++ toLe 208 0)) := by
    have hself : slice key 0 40 = key := by
      have h := slice_prefix (a := key) [] hkey
      rwa [List.append_nil] at h
    rw [tallyOf, hself, List.append_assoc, List.append_assoc]
  have hfield (off k : Nat) (h : 40 ≤ off) : leAt (tallyOf key first) off k = leAt (toLe 4 1 ++ (toLe 4 first ++ toLe 208 0)) (off - 40) k := by
    rw [leAt, htally, slice_skip _ _ (by omega), hkey, leAt]
  have hzeros (off k : Nat) (h : 48 ≤ off) : leAt (tallyOf key first) off k = 0 := by
    rw [hfield _ _ (by omega), leAt_skip _ _ _ (by omega), leAt_skip _ _ _ (by omega), leAt_zeros]
  refine ⟨?_, ?_, ?_, ?_, fun j hj => hzeros _ _ (by omega)⟩
  · rw [tKey, htally, slice_prefix _ hkey]
  · rw [tCount, hfield _ _ (by omega), leAt_front]
    rfl
  · rw [tFirst, hfield _ _ (by omega), leAt_skip _ _ _ (by omega), leAt_front]
    omega
  · rw [tOver, hzeros _ _ le_rfl]
    rfl

/-- Merging the tally of one key merges the key. -/
theorem tallyMerge_tallyOf (t : List Byte) {key : List Byte} {first : Nat} (hkey : key.length = 40) (hfirst : first < 2 ^ 17) :
    tallyMerge t (tallyOf key first) = tMerge t (key, 1, first) := by
  obtain ⟨hk, hc, hf, hover, hrest⟩ := tallyOf_entry hkey hfirst
  have hused : tUsed (tallyOf key first) = [0] := by
    have h1 := hrest 1 (by omega)
    have h2 := hrest 2 (by omega)
    have h3 := hrest 3 (by omega)
    simp [tUsed, List.range_succ, hc, h1, h2, h3]
  unfold tallyMerge
  rw [hused, hover, List.foldl_cons, List.foldl_nil, hk, hc, hf]
  rfl

end Sys2Proof.Machine

namespace Sys2Proof.Machine

/-- Settles O31: the exact integer sum, the exact widening, and for each family of records the element, row or segment that its work writes, read
off from the loop over its rows. -/
theorem exactNumberFormats : Obligations.ExactNumberFormats := by
  unfold Obligations.ExactNumberFormats
  refine ⟨intElem_exact, ⟨fun w hw => toF32_ofF32 hw, fun w hw => toF32_bf16 hw⟩, ?matrix, ?accumulator, ?vector, ?attention, ?links⟩
  case matrix =>
    intro c s hn hf hp hb hlen n elOf el
    have hq : s.localQuiet := ⟨hf, hp, hb⟩
    refine ⟨?_, ?_, ?_⟩
    · intro o loadWait tileWait x h u b lo want hv hset hadmits hne htag t row j hrow hj a sa sb col home old runs pass hi bh
      obtain ⟨htag', hval⟩ := mmaGo_getD hn hq o loadWait tileWait rfl (g := mmaPlan s c.core o x) rfl hv hset hadmits hne htag hrow hj rfl
      exact ⟨htag', hval.trans (mmaVal_streamed s x _ _ b lo row _ j)⟩
    · intro hfail x want htag t row j hrow hj
      have hran := tloadWork_tiles hn hq hfail rfl htag
      have hwhole : (s.rowAt c.core (64 * x.tile + row)).length = 64 := by rw [← State.tileRow_eq_rowAt]; exact hlen _ _
      obtain ⟨hcol, hval⟩ := tloadVals_getD (hwhole.symm ▸ (tloadFail_ranges hfail).1) hj
      refine ⟨hran.tags row hrow, (hran.getD hrow hcol).trans (hval.trans ?_)⟩
      rw [← State.tileRow_eq_rowAt]
    · intro hfail r hasB fl htags t row j hrow hj
      have hran := tcombineWork_tiles (x := combineRec c) rfl htags
      obtain ⟨hcol, hval⟩ := combineVals_getD (x := combineRec c) (k := row) hlen hj
      exact ⟨hran.tags row hrow, (hran.getD hrow hcol).trans hval⟩
  case accumulator =>
    intro c s hn hf hp hb
    have hq : s.localQuiet := ⟨hf, hp, hb⟩
    constructor
    · intro hfail x prog hact t scales biases
      refine ⟨(tstoreWork_wrote hn hq hfail rfl rfl hact).1, fun row hrow => ⟨fun hmx hplain => ?_, fun hapart =>
        tstoreWork_row hn hq hfail rfl rfl hact hrow hapart⟩⟩
      have h := (tstoreWork_row hn hq hfail rfl rfl hact hrow (.inl hmx)).1
      rw [storeData_codes hmx hplain] at h
      exact h
    · intro hfail x g hg hint
      obtain ⟨hend, hwrote⟩ := treduceWork_wrote hn hq hfail rfl hg hint
      refine ⟨hend, fun i hi => (hwrote i hi).trans ?_⟩
      simp only [treduceRes, beq_iff_eq]
      rfl
  case vector =>
    intro c s hn hf hp hb r params elems wrote
    have hq : s.localQuiet := ⟨hf, hp, hb⟩
    refine ⟨fun hfail i hi => elementwise_wrote hn hq (vopFail_good hfail) hi rfl, ?_, fun hfail => vreduceWork_wrote hn hq hfail rfl⟩
    intro hfail p i j x hi hx
    refine (elementwise_wrote hn hq (emrunFail_good hfail) hi hx).trans ?_
    have hj : j < 2 := by
      have hle : (emrunStreams r p [3, 4]).length ≤ 2 := by
        rw [emrunStreams, List.length_map]
        exact List.length_filter_le _ _
      by_contra hge
      rw [List.getElem?_eq_none (by omega)] at hx
      cases hx
    obtain rfl | rfl : j = 0 ∨ j = 1 := by omega
    · rfl
    · rfl
  case attention =>
    intro c s hn hf hp hb x at_ apart maskArea' mask area
    have hq : s.localQuiet := ⟨hf, hp, hb⟩
    refine ⟨?_, ?_, ?_, ?_⟩
    · intro hfail hptype y ps hin hout
      exact asoftWork_rows hptype hin hout hn hq hfail rfl rfl
    · intro hfail y os us out hva hta hua
      exact afoldWork_rows hva hta hua hn hq hfail rfl
    · intro hfail y row hta
      exact adeltaWork_rows hta hn hq hfail rfl
    · intro hfail hptype hdtype y ss ps inputs hda hpa
      exact abackWork_rows hptype hdtype hda hpa hn hq hfail rfl rfl
  case links =>
    intro e x f s lvl el o z two combine
    refine ⟨?rsdata, ?agdata, ?chunk, ?tally⟩
    case rsdata =>
      intro n h1 h2 h3 h4 hlen kept here ps hloc
      have hps : ps = (List.range n).map (fun i => combineP e ((rsPairs e (frPayload f)).getD i (0, 0)) (here.2.2.getD i (0, 0))) :=
        List.map_congr_left fun i _ => (combineP_eq e _ _).symm
      have hin := State.rsIn_eq (s := s) rfl rfl rfl rfl h1 h2 h3 h4 hlen (here := here) rfl hloc hps
      refine ⟨fun hkeeps => ?_, fun hkeeps hlast => ?_⟩
      · rw [hin, hkeeps, if_neg Bool.false_ne_true]
      · have hitem : here.2.1.item = x.item := by
          dsimp only [here]
          split <;> rfl
        rw [hin, hkeeps, if_pos rfl, State.haveP_last hlast.ge, hitem]
        rfl
    case agdata =>
      intro n h1 h2 h3 h4 hlen
      exact State.agIn_writes rfl rfl rfl rfl rfl h1 h2 h3 h4 hlen
    case chunk =>
      intro at_ codes c w vals mine wide norm
      rw [State.putVals_eq]
      dsimp only
      refine ⟨fun hne => if_neg hne, fun heq => ?_⟩
      have hmine : (redMine x at_ codes).length = chunkEnd x.item (at_ / 16384) - 16384 * (at_ / 16384) := heq
      rw [if_pos hmine, State.chunkWhole_mem]
      rfl
    case tally =>
      intro t key count first i ht hkey hcount hfirst hi u same others fresh
      exact ⟨tMerge_known_entries ht hfirst hi, tMerge_new_entries ht hfirst hkey (by omega) hi, tMerge_full_entries ht,
        tallyMerge_tallyOf t hkey hfirst⟩

end Sys2Proof.Machine
